-- ==== Sys2Proof/Word.lean ====
section
/-! DEFINITION. Word.lean: the word types of the M864's registers and memory, and sparse tables of plain data. -/
namespace Sys2Proof

/-- A 64-bit register value (R90, 03_dunval_instruction_set.md). -/
abbrev Word := BitVec 64
/-- A 32-bit register value. -/
abbrev W32 := BitVec 32
/-- One byte. -/
abbrev Byte := BitVec 8

/-- A sparse table: keys strictly rising, no entry equal to what an unlisted key reads as. -/
abbrev Tab (α : Type) := List (Nat × α)

end Sys2Proof
end

