-- ==== Sys2Proof/Syntax.lean ====
section
/-! DEFINITION. Syntax.lean: the commands of the block (one constructor per row of spec/opcode_table.json) and their operands. -/
namespace Sys2Proof

/-- The slot of a bundle an instruction stands in (R96, 03_dunval_instruction_set.md). -/
inductive Slot where
  | a
  | b
  deriving DecidableEq, Repr

/-- What every Dunval instruction carries: the issuing thread's global id (R49), its slot (R96) and its predicate field, bits [25:22] of the word (R101). -/
structure Issue where
  tid : Fin 576
  slot : Slot
  pred : BitVec 4
  deriving DecidableEq, Repr

/-- The rb operand of the opcodes that have the wb bit (R100): a general register or a packet window. -/
inductive RbSrc where
  | reg (r : BitVec 5)
  | win (w : BitVec 4)
  deriving DecidableEq, Repr

/-- Who makes a register or mailbox access (R501, R348): firmware, the debug interface, or an inbound access through function `f` of host port `h`. -/
inductive Who where
  | firmware
  | debug
  | fn (h : Fin 8) (f : Fin 9)
  deriving DecidableEq, Repr

/-- What comes back for a read the device sent outside itself: bytes, an error response, the bytes of the first of its requests and then an error response (R307), or nothing within the timeout. -/
inductive Reply where
  | data (bytes : List Byte)
  | error
  | part (bytes : List Byte)
  | timeout
  deriving DecidableEq, Repr

/-- What a PTP message on a time-receiver port carries for the servo (R35, R36, R40, R44). -/
inductive PtpKind where
  | announce (utc : Int) (clock : Word)
  | sync (offsetNs : Int) (delayNs : Nat)
  | other
  deriving DecidableEq, Repr

/-- A received PTP message: the port index it came in on (R36) and its content. -/
structure PtpMsg where
  port : Fin 32
  kind : PtpKind
  deriving DecidableEq, Repr

/-- What a port sends as a PTP message (R36). -/
inductive PtpSend where
  | sync
  | announce
  | delayReq
  deriving DecidableEq, Repr

/-- A frame as the Ethernet partner delivers it (R136 to R139): its bytes without the FCS, whether the FCS is right, whether a reassembly of fragments failed, and how long its reception took. -/
structure RxFrame where
  bytes : List Byte
  fcsOk : Bool
  mmErr : Bool
  durNs : Nat
  deriving DecidableEq, Repr

/-- An inbound memory request to a BAR (R303). A write carries data; a read carries only its length. -/
structure Inbound where
  h : Fin 8
  f : Fin 9
  bar : Nat
  off : Nat
  write : Bool
  len : Nat
  data : List Byte
  poisoned : Bool
  ecc : Bool
  deriving DecidableEq, Repr

/-- The interrupt enables of a function as the host writes them (R310, R311). -/
structure IrqEnables where
  msixEn : Bool
  fnMask : Bool
  msiEn : Bool
  msiCount : Nat
  msiMask : W32
  intxDis : Bool
  deriving DecidableEq, Repr

/-- What a trained host port reports (R294, R320). -/
structure LinkTrain where
  rate : BitVec 3
  width : BitVec 5
  flit : Bool
  tagBits : BitVec 8
  deriving DecidableEq, Repr

/-- A Wenot command as firmware reads it from host memory (R361): the header's fields beside its opcode, whether a reserved header field is non-zero, the payload's bytes, and how the host answered the read of the header and payload and the read-back of the response. -/
structure CmdHdr where
  version : Byte
  rsv : Bool
  seq : W32
  payloadAddr : Word
  payloadLen : W32
  resp : Word
  out : Word
  outLen : W32
  arg0 : Word
  arg1 : Word
  payload : List Byte
  readOk : Bool
  backOk : Bool
  deriving DecidableEq, Repr

/-- A report that a hardware checker or another source outside this model's commands hands to the collector (R395, R396). -/
structure ExtFault where
  source : Nat
  isl : Fin 8
  part : Option (Fin 8)
  tid : Option (Fin 576)
  detail : Word
  deriving DecidableEq, Repr

/-- What the ferry brings of a forwarded command (R425): a command of the partner to execute here, with the save image that a SLICE_RESTORE reads, or the status with which the partner ended one forwarded to it. -/
inductive Forwarded where
  | execute (opcode : BitVec 16) (h : CmdHdr) (save : List Byte)
  | answer (status : Byte)
  deriving DecidableEq, Repr

/-- One sensor conversion (R493): the reading in quarter degrees, or none when it is invalid. -/
abbrev Sensor := Option Int

/-- The SMBus commands that read (R490). -/
inductive SmbRead where
  | life
  | rstCause
  | therm (off : Nat)
  | identify
  deriving DecidableEq, Repr

/-- A command of the block. Every constructor is one row of spec/opcode_table.json. -/
inductive Instr where
  -- Dunval: arithmetic, logic, bit fields (R108)
  | add (i : Issue) (rd ra : BitVec 5) (rb : RbSrc)
  | sub (i : Issue) (rd ra : BitVec 5) (rb : RbSrc)
  | and (i : Issue) (rd ra : BitVec 5) (rb : RbSrc)
  | or (i : Issue) (rd ra : BitVec 5) (rb : RbSrc)
  | xor (i : Issue) (rd ra : BitVec 5) (rb : RbSrc)
  | andn (i : Issue) (rd ra : BitVec 5) (rb : RbSrc)
  | shl (i : Issue) (rd ra : BitVec 5) (rb : RbSrc)
  | shr (i : Issue) (rd ra : BitVec 5) (rb : RbSrc)
  | sar (i : Issue) (rd ra : BitVec 5) (rb : RbSrc)
  | min (i : Issue) (rd ra : BitVec 5) (rb : RbSrc)
  | max (i : Issue) (rd ra : BitVec 5) (rb : RbSrc)
  | minu (i : Issue) (rd ra : BitVec 5) (rb : RbSrc)
  | maxu (i : Issue) (rd ra : BitVec 5) (rb : RbSrc)
  | addi (i : Issue) (rd ra : BitVec 5) (imm : BitVec 12)
  | andi (i : Issue) (rd ra : BitVec 5) (imm : BitVec 12)
  | ori (i : Issue) (rd ra : BitVec 5) (imm : BitVec 12)
  | xori (i : Issue) (rd ra : BitVec 5) (imm : BitVec 12)
  | shli (i : Issue) (rd ra : BitVec 5) (n : BitVec 6)
  | shri (i : Issue) (rd ra : BitVec 5) (n : BitVec 6)
  | sari (i : Issue) (rd ra : BitVec 5) (n : BitVec 6)
  | movi (i : Issue) (rd : BitVec 5) (imm : BitVec 17)
  | movsh (i : Issue) (rd : BitVec 5) (imm : BitVec 16)
  | mul (i : Issue) (rd ra : BitVec 5) (rb : RbSrc)
  | mulhu (i : Issue) (rd ra : BitVec 5) (rb : RbSrc)
  | mulhs (i : Issue) (rd ra : BitVec 5) (rb : RbSrc)
  | bfx (i : Issue) (rd ra : BitVec 5) (pos wm1 : BitVec 6)
  | bfxs (i : Issue) (rd ra : BitVec 5) (pos wm1 : BitVec 6)
  | bfi (i : Issue) (rd ra : BitVec 5) (pos wm1 : BitVec 6)
  | bfxw (i : Issue) (rd : BitVec 5) (w : BitVec 4) (pos wm1 : BitVec 6)
  -- Dunval: compare and predicates (R109)
  | cmp (i : Issue) (cond : BitVec 3) (pd : BitVec 3) (ra : BitVec 5) (rb : RbSrc)
  | cmpi (i : Issue) (cond : BitVec 3) (pd : BitVec 3) (ra : BitVec 5) (imm : BitVec 11)
  | plog (i : Issue) (op : BitVec 2) (pd pa pb : BitVec 3)
  -- Dunval: branches (R110)
  | br (i : Issue) (off : BitVec 22)
  | call (i : Issue) (off : BitVec 22)
  | jr (i : Issue) (ra : BitVec 5)
  -- Dunval: loads, stores, atomics, fence (R111 to R113) and what comes back for them
  | ld (i : Issue) (sp sz : BitVec 2) (rd ra : BitVec 5) (off : BitVec 8)
  | st (i : Issue) (sp sz : BitVec 2) (rs ra : BitVec 5) (off : BitVec 8)
  | atomAdd (i : Issue) (sp : BitVec 2) (sz : BitVec 1) (rd ra rb : BitVec 5)
  | atomSwap (i : Issue) (sp : BitVec 2) (sz : BitVec 1) (rd ra rb : BitVec 5)
  | atomCas (i : Issue) (sp : BitVec 2) (sz : BitVec 1) (rd ra rb : BitVec 5)
  | memResultReturn (tid : Fin 576) (k : Nat) (reply : Reply)
  | storeErrorResponse (tid : Fin 576)
  | memTimeout (tid : Fin 576) (k : Nat)
  -- Dunval: locks (R114) and their home island (R70 to R74)
  | lkacq (i : Issue) (rd ra : BitVec 5) (imm : BitVec 12)
  | lkrel (i : Issue) (ra : BitVec 5) (imm : BitVec 12)
  | lockArbitrate (lock : Fin 4096) (who : List (Fin 576))
  | lockReleaseArrive (lock : Fin 4096)
  | fence (i : Issue)
  -- Dunval: time and events (R115 to R117)
  | tnow (i : Issue) (rd : BitVec 5)
  | tnowh (i : Issue) (rd : BitVec 5)
  | tadd (i : Issue) (rd ra rb : BitVec 5)
  | twait (i : Issue) (ra : BitVec 5)
  | twaitExpire (tid : Fin 576)
  | tset (i : Issue) (ra rb : BitVec 5)
  | tclr (i : Issue)
  | timerEv30Fire (tid : Fin 576)
  | waitev (i : Issue) (rd ra : BitVec 5)
  | sigevT (i : Issue) (ra : BitVec 5) (line : BitVec 5)
  | sigevG (i : Issue) (ra : BitVec 5) (line : BitVec 5)
  -- Dunval: packets (R118, R119)
  | pktGet (i : Issue) (rd : BitVec 5)
  | pktSend (i : Issue) (ra rb : BitVec 5)
  | pktDrop (i : Issue) (ra : BitVec 5)
  | wst (i : Issue) (w : BitVec 4) (ra : BitVec 5)
  -- Dunval: lookup, CRC, hash (R120, R121)
  | lkx (i : Issue) (rd ra : BitVec 5) (table : BitVec 8)
  | lkw (i : Issue) (rd ra : BitVec 5) (table : BitVec 8)
  | crc32c (i : Issue) (sz : BitVec 2) (rd ra rb : BitVec 5)
  | crc64 (i : Issue) (sz : BitVec 2) (rd ra rb : BitVec 5)
  | hash (i : Issue) (rd ra rb : BitVec 5)
  -- Dunval: accelerators (R122, R123)
  | submit (i : Issue) (rd ra : BitVec 5) (unit : BitVec 2)
  | accpoll (i : Issue) (rd ra : BitVec 5)
  -- Dunval: DMA channels (R124, R125)
  | dclaim (i : Issue) (rd ra : BitVec 5)
  | claimArbitrate (ch : Fin 1024) (who : List (Fin 576))
  | dwr (i : Issue) (idx : BitVec 4) (ra rb : BitVec 5)
  | dstart (i : Issue) (rd ra : BitVec 5)
  | drel (i : Issue) (ra : BitVec 5)
  | dpoll (i : Issue) (rd ra : BitVec 5)
  -- Dunval: counters, snapshots, special registers (R126)
  | cinc (i : Issue) (ra : BitVec 5) (n : BitVec 9)
  | snap (i : Issue) (rd : BitVec 5)
  | mfsr (i : Issue) (rd : BitVec 5) (sr : BitVec 5)
  | mtsr (i : Issue) (sr : BitVec 5) (ra : BitVec 5)
  | tstart (i : Issue) (rd ra rb : BitVec 5)
  -- cores and threads (02_engine_cores.md)
  | claimExpired (tid : Fin 576) (ch : Fin 1024)
  | partitionQuiet (p : Fin 8)
  | debugHalt (tid : Fin 576)
  | debugStep (tid : Fin 576)
  | debugResume (tid : Fin 576)
  | breakpointHit (tid : Fin 576)
  | coreReset (c : Fin 64)
  -- the time plane (01_islands_and_time.md)
  | timeNow0Read (isl : Fin 8)
  | refclkQualified (tenMHz : Bool)
  | refLost
  | delayMeasure (delays : List Nat)
  | timeCheck (isl : Fin 8) (upset : Int)
  | timeCtlStep
  | ptpMessageRx (m : PtpMsg)
  | announceTimeout
  | ppsInEdge (highOneUs : Bool) (spacingOk : Bool)
  | ppsInLost
  | freqInQualified
  | freqInLost
  | holdoverSecond
  | ppsOutPulse
  | hwmUpdate
  | clkSpreadApply
  | straitCrc (s : Fin 23) (toLow : Bool) (again : Bool)
  -- ports, parsing, classification (04_packet_path.md)
  | portLinkDown (x : Fin 32) (inRx : Bool)
  | portLinkUp (x : Fin 32)
  | frameReceive (x : Fin 32) (fr : RxFrame)
  | pauseExpire (x : Fin 32) (c : Fin 8)
  | preemptVerify (x : Fin 32) (ok : Bool)
  | classify (f : Nat)
  | flowMissReturn (f : Nat)
  | clsMissTo (f : Nat)
  | groupQueueAssign (g : Fin 1024)
  | reorderTimeout (f : Nat)
  | fragHoldExpired (f : Nat)
  | fragEntryFree (m : Fin 2) (k : Nat)
  -- scheduling (05_scheduling_and_gates.md)
  | txqEnqueue (f : Nat)
  | frameTxComplete (x : Fin 32)
  | gateTransition (x : Fin 32)
  | gateListSwitch (x : Fin 32)
  | shaperRefill (m : Fin 2)
  | queueSet (p : Fin 8) (m : Fin 2) (index : BitVec 16)
  | queueRead (p : Fin 8) (m : Fin 2) (index : BitVec 16)
  | queueFlush (p : Fin 8) (m : Fin 2) (index : BitVec 16)
  | shaperSet (p : Fin 8) (m : Fin 2) (index : BitVec 16) (full : Bool)
  | shaperRead (p : Fin 8) (m : Fin 2) (index : BitVec 16)
  | policerSet (p : Fin 8) (m : Fin 2) (index : BitVec 16) (full : Bool)
  | policerRead (p : Fin 8) (m : Fin 2) (index : BitVec 16)
  | ingPolSet (p : Fin 8) (m : Fin 2) (index : BitVec 16)
  | ruleWrite (p : Fin 8) (e : Fin 4) (index : BitVec 15)
  | ruleDisable (p : Fin 8) (e : Fin 4) (index : BitVec 15)
  | ruleRead (p : Fin 8) (e : Fin 4) (index : BitVec 15)
  | exactInsert (p : Fin 8) (e : Fin 4) (table : BitVec 8)
  | exactDelete (p : Fin 8) (e : Fin 4) (table : BitVec 8)
  | exactRead (p : Fin 8) (e : Fin 4) (table : BitVec 8)
  | ctxWrite (p : Fin 8) (e : Fin 4) (index : BitVec 15)
  | ctxResync (p : Fin 8) (e : Fin 4) (index : BitVec 15)
  -- keys, cipher, fixity (06_cipher_and_fixity.md)
  | engineAccept (e : Fin 4) (fix : Bool)
  | engineOpStart (op : Nat)
  | engineOpComplete (op : Nat)
  | keyBusTransfer (e : Fin 4) (slot : BitVec 16) (ok : Bool)
  | keyDateCheck
  | ceilingWriteDone (slot : BitVec 16)
  | rngFail
  -- DMA and rings (07_dma_and_rings.md)
  | handover (ch : Fin 1024)
  | burstReadIssue (e : Fin 4)
  | burstReadData (ch : Fin 1024)
  | readbackReturn (ch : Fin 1024)
  | transferError (ch : Fin 1024)
  | dmaModeApply (e : Fin 4)
  | ringPoll (n : Fin 16384)
  | ringSqDb (who : Who) (n : Fin 16384)
  | fetchReturn (n : Fin 16384)
  | rxDeliver (f : Nat)
  | txFrameRead (n : Fin 16384)
  | inboxDeliver (n : Fin 16384)
  | ringCqHead (who : Who) (n : Fin 16384) (v : W32)
  | cqIrqTimer (n : Fin 16384)
  | ringSqCfgWrite (who : Who) (n : Fin 16384) (v : W32)
  | ringCqCfgWrite (who : Who) (n : Fin 16384) (v : W32)
  -- host endpoint (08_host_endpoint.md)
  | hostLinkDown (h : Fin 8)
  | hostLinkUp (h : Fin 8) (t : LinkTrain)
  | hotReset (h : Fin 8)
  | fundamentalReset (h : Fin 8)
  | functionLevelReset (h : Fin 8) (f : Fin 9)
  | tagQuarantineRelease (tag : Nat)
  | busMasterEnableClear (h : Fin 8) (f : Fin 9)
  | busMasterEnableSet (h : Fin 8) (f : Fin 9)
  | d3hotEntry (h : Fin 8) (f : Fin 9)
  | d3hotExit (h : Fin 8) (f : Fin 9)
  | interruptEnableChange (h : Fin 8) (f : Fin 9) (e : IrqEnables)
  | vectorUnmask (h : Fin 8) (f : Fin 9) (v : Option (Fin 2048))
  | hostIntxPend (who : Who) (h : Fin 8) (f : Fin 9) (i : Fin 64) (v : W32)
  | hostWinCommit (who : Who) (h : Fin 8) (f : Fin 9)
  | winCopyDone (h : Fin 8) (f : Fin 9)
  | inboundRequest (r : Inbound)
  | configRequest (h : Fin 8) (f : Fin 9) (off : BitVec 12) (w : Option W32)
  | hostCompletionRx (tag : Nat) (reply : Reply)
  | hostCplTimeout (tag : Nat)
  | aspmL1Entry (h : Fin 8)
  -- partitions, slices, mailboxes (09_partitions_and_slices.md)
  | mbxSend (who : Who) (m : Fin 8192)
  | mbxRxPtr0Read (who : Who) (m : Fin 8192)
  | mbxDbRing (who : Who) (m : Fin 8192) (v : W32)
  | mbxDbPend (who : Who) (m : Fin 8192) (v : W32)
  | mbxDbMask (who : Who) (m : Fin 8192) (v : W32)
  | mbxStatWrite (who : Who) (m : Fin 8192) (v : W32)
  | faceStore (m : Fin 8192) (off : Nat) (v : Word)
  | sliceResetEnd (s : Fin 4096)
  | freezeComplete (s : Fin 4096)
  | freezeTimeout (s : Fin 4096)
  | partResetEnd (p : Fin 8)
  -- Wenot (10_wenot_command_set.md)
  | firmwarePoll (h : CmdHdr)
  | devIdentify (h : CmdHdr)
  | devStatus (h : CmdHdr)
  | cfgReport (h : CmdHdr)
  | cfgStage (h : CmdHdr)
  | cfgCommit (h : CmdHdr)
  | partCreate (h : CmdHdr)
  | partDestroy (h : CmdHdr)
  | partReset (h : CmdHdr)
  | sliceCreate (h : CmdHdr)
  | sliceDestroy (h : CmdHdr)
  | sliceReset (h : CmdHdr)
  | sliceFreeze (h : CmdHdr)
  | sliceSave (h : CmdHdr)
  | sliceRestore (h : CmdHdr) (save : List Byte)
  | sliceThaw (h : CmdHdr)
  | progLoad (h : CmdHdr)
  | progStart (h : CmdHdr)
  | progStartRelease (p : Fin 8)
  | progStop (h : CmdHdr)
  | keyImport (h : CmdHdr)
  | keyGenerate (h : CmdHdr)
  | keyRetire (h : CmdHdr)
  | keyQuery (h : CmdHdr)
  | timeSet (h : CmdHdr)
  | timeStatus (h : CmdHdr)
  | leapTable (h : CmdHdr)
  | gateInstall (h : CmdHdr)
  | snapArm (h : CmdHdr)
  | snapRead (h : CmdHdr)
  | faultRead (h : CmdHdr)
  | faultAck (h : CmdHdr)
  | faultInject (h : CmdHdr)
  | duplexConfig (h : CmdHdr)
  | duplexSwitch (h : CmdHdr)
  | lifeRead (h : CmdHdr)
  | smemUpdate (h : CmdHdr)
  | viewSample (item : Fin 8) (obj : BitVec 16)
  -- faults and duplex (11_faults_and_duplex.md)
  | faultCollect (ext : Option ExtFault)
  | fltWatchdog
  | injectionCancel
  | duplexCycleEnd (p : Fin 8)
  | duplexCompare (p : Fin 8) (differ : Bool)
  | duplexLag (p : Fin 8)
  | switchOver (p : Fin 8)
  | duplexSwitched (p : Fin 8)
  | rejoinCopyDone (p : Fin 8)
  | causewayRelease (p : Fin 8) (unit : Fin 4)
  | causewayGrant (p : Fin 8) (unit : Fin 4)
  | causewayInChange (lines : BitVec 4)
  | ferryLinkDown
  | forwardedCommand (c : Forwarded)
  | forwardTimeout
  -- counters, snapshots, lifetime (12_counters_snapshots_lifetime.md)
  | counterLowRead (who : Who) (ev : Fin 5120)
  | slotRetiredRead (tid : Fin 512)
  | cntWinCfgWrite (who : Who) (w : Fin 1024) (r : Fin 4) (v : W32)
  | counterFaceMirror (w : Fin 1024)
  | snapInEdge
  | snapTimeTrigger
  | snapTriggerAccept
  | snapLatch
  | counterDumpInstant
  | dumpComplete (ok : Bool)
  | thermalAgeUpdate
  | lifetimeCheckpoint
  | logEraseDone
  -- start-up, supply, configuration (13_startup_and_configuration.md)
  | powerOnReset
  | auxReset
  | vauxLost
  | deviceReset (perst : Bool)
  | imageApply
  | firmwareReady
  | ddrZeroDone
  | trialClear
  | supplyWarn
  | supplySag
  | supplyWarnEnd
  -- thermal, pins, registers (14_electrical_and_package.md, R8)
  | thermalSensorConvert (readings : List Sensor)
  | thermalCrit (isl : Fin 8)
  | governorEnter
  | governorRelease
  | smbusRead (r : SmbRead)
  | registerWrite (who : Who) (isl : Fin 8) (off : Nat) (eight : Bool) (v : Word)
  | brownOut
  | rngHealthPass
  | ferryLinkUp
  | freedSlot (tid : Fin 512) (ring : Option (Fin 16384))
  | clsUpdDone (p : Fin 8) (e : Fin 4)
  | ptpMessageTx (x : Fin 32) (m : PtpSend)
  | leapTableExpired
  | perstRelease (h : Fin 8)
  | devRstNRelease
  | registerReadClear (who : Who) (isl : Fin 8) (off : Nat)
  deriving DecidableEq, Repr

end Sys2Proof
end

