-- ==== Sys2Proof/WellFormed.lean ====
section
/-! DEFINITION. WellFormed.lean: which commands are well formed. The checks on Dunval instructions are those PROG_LOAD makes on a word (R96, R101, R103 of 03_dunval_instruction_set.md); a command of another kind is ill formed only where an operand lies outside its unit's numbers. -/
namespace Sys2Proof

/-- R101: the predicate field 0b1000 is reserved. -/
def Issue.predOk (i : Issue) : Bool := i.pred != 8#4

/-- R96: slot B takes no branch, wait or submit. -/
def Issue.slotAOnly (i : Issue) : Bool := i.predOk && i.slot == .a

/-- R103: a bit field must lie inside the 64 bits. -/
def fieldOk (pos wm1 : BitVec 6) : Bool := pos.toNat + wm1.toNat + 1 ≤ 64

/-- R103: the shift immediates and every other field that a constructor holds by its exact width need no check. -/
def Instr.wf : Instr → Bool
  | .add i _ _ _ | .sub i _ _ _ | .and i _ _ _ | .or i _ _ _ | .xor i _ _ _ | .andn i _ _ _ | .shl i _ _ _
  | .shr i _ _ _ | .sar i _ _ _ | .min i _ _ _ | .max i _ _ _ | .minu i _ _ _ | .maxu i _ _ _
  | .addi i _ _ _ | .andi i _ _ _ | .ori i _ _ _ | .xori i _ _ _ | .shli i _ _ _ | .shri i _ _ _ | .sari i _ _ _
  | .movi i _ _ | .movsh i _ _ | .mul i _ _ _ | .mulhu i _ _ _ | .mulhs i _ _ _ | .plog i _ _ _ _
  | .ld i _ _ _ _ _ | .st i _ _ _ _ _ | .lkacq i _ _ _ | .lkrel i _ _ | .fence i | .tnow i _ | .tnowh i _ | .tadd i _ _ _
  | .tset i _ _ | .tclr i | .sigevT i _ _ | .sigevG i _ _ | .pktGet i _ | .pktSend i _ _ | .pktDrop i _ | .wst i _ _
  | .lkx i _ _ _ | .crc32c i _ _ _ _ | .crc64 i _ _ _ _ | .hash i _ _ _ | .accpoll i _ _ | .dclaim i _ _ | .dwr i _ _ _
  | .drel i _ | .dpoll i _ _ | .cinc i _ _ | .snap i _ | .mfsr i _ _ | .mtsr i _ _ | .tstart i _ _ _ => i.predOk
  | .cmpi i c _ _ _ => i.predOk && c != 7#3
  | .cmp i c _ _ _ => i.predOk && c != 7#3
  | .bfx i _ _ pos wm1 | .bfxs i _ _ pos wm1 | .bfi i _ _ pos wm1 => i.predOk && fieldOk pos wm1
  | .bfxw i _ _ pos wm1 => i.predOk && fieldOk pos wm1
  | .br i _ | .call i _ => i.slotAOnly
  | .jr i _ => i.slotAOnly
  | .twait i _ | .waitev i _ _ => i.slotAOnly
  | .dstart i _ _ => i.slotAOnly
  | .submit i _ _ u => i.slotAOnly && u.toNat < 2
  | .atomAdd i sp _ _ _ _ | .atomSwap i sp _ _ _ _ | .atomCas i sp _ _ _ _ => i.predOk && sp != 3#2
  | .lkw i _ ra _ => i.predOk && ra.toNat ≤ 22
  | .faceStore _ off _ => off < 4096 && off % 8 == 0
  | .inboundRequest r => r.bar < 6
  | .registerWrite _ _ off _ _ | .registerReadClear _ _ off => off < 0x10000000
  | _ => true

end Sys2Proof
end

