-- ==== Sys2Proof/Decode.lean ====
section
/-! DEFINITION. Decode.lean: the block is commanded, it fetches nothing. spec/opcode_table.json gives no row any bits. -/
namespace Sys2Proof

/-- The command a word spells by the table's bits: none, since no row of the table gives bits. -/
def decodeTableWord (_nbits _w : Nat) : Option Instr := none

end Sys2Proof
end

