-- ==== Sys2Proof/Config.lean ====
section
/-! DEFINITION. Config.lean: what the spec leaves to the part or leaves open, as constants without a body. -/
namespace Sys2Proof

/-- A fresh value where the spec states none or calls it undefined, by the draw's number. Log entry 5. -/
opaque Config.freeValue : Nat → BitVec 64
/-- A fresh byte of the random generator (R214, 06_cipher_and_fixity.md), by the draw's number and the byte's. Log entry 5. -/
opaque Config.randomByte : Nat → Nat → BitVec 8
/-- The PCI vendor id DEV_IDENTIFY reports (R369, 10_wenot_command_set.md). Log entry 12. -/
opaque Config.vendorId : BitVec 16
/-- The PCI Device Serial Number (R369). Log entry 12. -/
opaque Config.deviceSerial : BitVec 64
/-- The ROM identifier (R369). Log entry 12. -/
opaque Config.romId : BitVec 64

end Sys2Proof
end

