-- ==== Sys2Proof/Machine/Bits.lean ====
section
/-! DEFINITION. Machine/Bits.lean: bit fields, byte order and sparse tables. -/
namespace Sys2Proof.Machine
open Sys2Proof

/-- Bits [lo+width-1:lo] of a number. -/
def fld (v lo width : Nat) : Nat := (v >>> lo) % 2 ^ width

/-- A number with the field at `lo` of `width` bits replaced. -/
def setFld (v lo width x : Nat) : Nat :=
  v - (fld v lo width) * 2 ^ lo + (x % 2 ^ width) * 2 ^ lo

/-- A field of a register value. -/
def wf (w : Word) (lo width : Nat) : Nat := fld w.toNat lo width

/-- A register value with a field replaced. -/
def wset (w : Word) (lo width x : Nat) : Word := BitVec.ofNat 64 (setFld w.toNat lo width x)

/-- One bit of a register value. -/
def wbit (w : Word) (i : Nat) : Bool := w.getLsbD i

/-- A register value with one bit set or cleared. -/
def wsetBit (w : Word) (i : Nat) (b : Bool) : Word :=
  if b then w ||| (1#64 <<< i) else w &&& ~~~ (1#64 <<< i)

/-- Bit `i` of a number. -/
def nbit (v i : Nat) : Bool := v.testBit i

def b2n (b : Bool) : Nat := if b then 1 else 0

/-- The low `n` bytes of a number, byte 0 first: little-endian (R6, 00_scope.md). -/
def leBytes : Nat → Nat → List Byte
  | 0, _ => []
  | n + 1, v => BitVec.ofNat 8 v :: leBytes n (v / 256)

/-- The number a little-endian byte string spells. -/
def ofLe : List Byte → Nat
  | [] => 0
  | b :: bs => b.toNat + 256 * ofLe bs

/-- A number as `n` bytes in network order. -/
def beBytes (n v : Nat) : List Byte := (leBytes n v).reverse

/-- The number a byte string in network order spells. -/
def ofBe (bs : List Byte) : Nat := bs.foldl (fun a b => 256 * a + b.toNat) 0

/-- `n` bytes from offset `off`, padded with zeros beyond the end. -/
def slice (bs : List Byte) (off n : Nat) : List Byte :=
  let t := (bs.drop off).take n
  t ++ List.replicate (n - t.length) 0

/-- The little-endian number in `n` bytes at `off`. -/
def leAt (bs : List Byte) (off n : Nat) : Nat := ofLe (slice bs off n)

/-- The network-order number in `n` bytes at `off`. -/
def beAt (bs : List Byte) (off n : Nat) : Nat := ofBe (slice bs off n)

/-- A byte string with the bytes at `off` replaced, never longer than it was. -/
def patch (bs : List Byte) (off : Nat) (new : List Byte) : List Byte :=
  let t := new.take (bs.length - off)
  bs.take off ++ t ++ bs.drop (off + t.length)

/-- `v` rounded up to a multiple of `m`. -/
def roundUp (v m : Nat) : Nat := (v + m - 1) / m * m

/-- The floor of the division of an integer by a positive number. -/
def sat (v limit : Nat) : Nat := Nat.min v limit

/-! ## Sparse tables -/

/-- What a sparse table holds at a key. -/
def tabFind (k : Nat) : Tab α → Option α
  | [] => none
  | (k', a) :: t => if k = k' then some a else tabFind k t

/-- What a sparse table holds at a key, `d` where the key is not listed. -/
def tabGet (t : Tab α) (d : α) (k : Nat) : α := (tabFind k t).getD d

/-- The table without a key. -/
def tabDel (k : Nat) : Tab α → Tab α
  | [] => []
  | (k', a) :: t => if k = k' then tabDel k t else (k', a) :: tabDel k t

/-- The table with a key set, keys kept rising. -/
def tabIns (k : Nat) (a : α) : Tab α → Tab α
  | [] => [(k, a)]
  | (k', a') :: t =>
    if k < k' then (k, a) :: (k', a') :: t
    else if k = k' then (k, a) :: t
    else (k', a') :: tabIns k a t

/-- The table with a key set; setting the default removes the entry. -/
def tabPut [DecidableEq α] (t : Tab α) (d : α) (k : Nat) (a : α) : Tab α :=
  if a = d then tabDel k t else tabIns k a t

/-- The canonical form: keys strictly rising and no entry at the default. -/
def tabWf [DecidableEq α] (d : α) : Tab α → Bool
  | [] => true
  | (k, a) :: t => a ≠ d && t.all (fun e => k < e.1) && tabWf d t

/-- Bits of a table of numbers: a count moved up by `n`. -/
def tabAdd (t : Tab Nat) (k n : Nat) : Tab Nat := tabPut t 0 k (tabGet t 0 k + n)

/-- A count moved down by `n`, not below zero. -/
def tabSub (t : Tab Nat) (k n : Nat) : Tab Nat := tabPut t 0 k (tabGet t 0 k - n)

/-- Keep the entries a test accepts. -/
def tabKeep (p : Nat → α → Bool) (t : Tab α) : Tab α := t.filter (fun e => p e.1 e.2)

/-- Apply a function to every listed entry, in rising order of the keys. -/
def forEach (xs : List α) (f : α → σ → σ) (s : σ) : σ := xs.foldl (fun s x => f x s) s

end Sys2Proof.Machine
end

