-- ==== Sys2Proof/Machine/State.lean ====
section
/-! DEFINITION. Machine/State.lean: the state of the block as plain data, the reasons a step can stop, and the state after reset.
A docstring's bracket gives the rules of spec/ that name the piece, its width, and its value after reset. -/
namespace Sys2Proof.Machine
open Sys2Proof

/-! ## Engine cores and threads -/

/-- Thread states of the table under R50 (02_engine_cores.md); their codes are 0 to 4 in this order. -/
inductive ThrState where
  | idle
  | running
  | waiting
  | halted
  | faulted
  deriving DecidableEq, Repr

/-- What a WAITING thread waits for (R58, R60, R62). -/
inductive Wait where
  | none
  | events (rd : BitVec 5) (mask : W32)
  | twait (target : Nat)
  deriving DecidableEq, Repr

/-- What an outstanding operation of a thread asks for (R68, R111, R112, R114, R120, R124, R126). -/
inductive OutKind where
  | load (sp : BitVec 2) (ea size : Nat) (fwd : Tab Byte)
  | atomAdd (sp : BitVec 2) (ea size : Nat) (v : Word)
  | atomSwap (sp : BitVec 2) (ea size : Nat) (v : Word)
  | atomCas (sp : BitVec 2) (ea size : Nat) (v cmp : Word)
  | acquire (lock : Nat)
  | lkx (table : Nat) (key : List Byte)
  | lkw (table : Nat) (key : List Byte)
  | claim (ch : Nat)
  | dpoll (ch : Nat)
  | snap
  | tstart (target pc : Nat)
  deriving DecidableEq, Repr

/-- One outstanding operation of a thread: its number, its destination, its bundle's address and slot, the device time of its issue in ns, the PASID it was issued with, and the result once its target has given one. -/
structure OutOp where
  id : Nat
  kind : OutKind
  rd : BitVec 5
  pc : Nat
  slot : Slot
  since : Nat
  pasid : Word
  res : Option Word
  deriving DecidableEq, Repr

/-- What waits in a thread's store queue, in issue order (R67). -/
inductive StoreKind where
  | store (sp : BitVec 2) (ea : Nat) (bytes : List Byte)
  | count (n : Nat) (v : Word)
  deriving DecidableEq, Repr

structure StoreOp where
  kind : StoreKind
  pc : Nat
  slot : Slot
  pasid : Word
  deriving DecidableEq, Repr

/-- A store or counter add that failed at its target and has not been reported yet (R129). -/
structure StoreErr where
  code : Nat
  ea : Nat
  pc : Nat
  slot : Slot
  deriving DecidableEq, Repr

/-- A claim of a DMA channel, requested or granted, with its shadow set (R83, R84, R125, R261). -/
structure Claim where
  ch : Nat
  granted : Bool
  leaseEnd : Option Nat
  leaseLeft : Nat
  shadow : Tab Word
  deriving DecidableEq, Repr

/-- A descriptor in a thread's submission queue (R122). -/
structure Submission where
  tag : Nat
  tick : Nat
  desc : List Byte
  deriving DecidableEq, Repr

/-- An outstanding submission tag (R123). -/
structure Tag where
  tag : Nat
  done : Bool
  status : Byte
  deriving DecidableEq, Repr

/-- One thread of a core, timed or background: the architectural state of R90 and R94 and the hidden state their sections name. -/
structure Thread where
  /-- Thread state [R50 02; 4; IDLE] -/
  st : ThrState := .idle
  /-- What it waits for [R58 02; an alternative; nothing] -/
  wait : Wait := .none
  /-- A single step is under way [R82 02; 1; no] -/
  stepping : Bool := false
  /-- General registers g0 to g31, sparse; g0 never stored [R90 03; 32 x 64; 0] -/
  g : Tab Word := []
  /-- Predicates p0 to p7; bit 0 never read [R90 03; 8; 0] -/
  p : BitVec 8 := 0
  /-- Packet windows w0 to w15, sparse [R90 R92 03; 16 x 64; 0] -/
  w : Tab Word := []
  /-- Windows written by WST since the frame became current [R118 03; 16; 0] -/
  wst : BitVec 16 := 0
  /-- Address of the next bundle [R90 03; 23; 0] -/
  pc : Nat := 0
  /-- Pending event bits, SR_EVPEND and CORE_EVPEND [R59 02, R94 03; 32; 0] -/
  ev : W32 := 0
  /-- Target of the ev30 timer in ns, SR_TIMER [R61 02, R94 03; 80; disarmed] -/
  timer : Option Nat := none
  /-- Timer period in ticks, SR_TPERIOD [R61 02, R94 03; 32; 0] -/
  period : Nat := 0
  /-- Skipped timer occurrences, SR_TSKIP [R61 02, R94 03; 32; 0] -/
  skip : Nat := 0
  /-- Current frame: its number in the frame table [R118 03; a number; none] -/
  frame : Option Nat := none
  /-- Frames assigned and not yet taken, oldest first [R165 04; up to 4; none] -/
  assigned : List Nat := []
  /-- SR_PASID [R94 03; 64; 0] -/
  pasid : Word := 0
  /-- SR_FNQ_TIME [R94 03; 64; 0] -/
  fnqTime : Word := 0
  /-- SR_FNQ_DET [R94 03; 64; 0] -/
  fnqDet : Word := 0
  /-- Device time of the tick the last TNOW returned [R32 01, R115 03; 96; 0] -/
  tnow : Nat := 0
  /-- Steps of device time the thread has seen at its last TNOW, so that only a step lets TNOW decrease [R32 01; a number; 0] -/
  tnowSteps : Nat := 0
  /-- Claims and claim requests, oldest first, SR_CLAIMS [R124 R125 03; 2 claims; none] -/
  claims : List Claim := []
  /-- Outstanding loads, atomics, lookups, claims, polls and requests [R67 02; 4 loads; none] -/
  outs : List OutOp := []
  /-- Operations issued so far: the number of the next one [R67 02; a count; 0] -/
  nextId : Nat := 0
  /-- Store queue [R67 02; 4 entries; empty] -/
  stq : List StoreOp := []
  /-- Stores that failed and are not reported yet [R129 03; a list; none] -/
  storeErrs : List StoreErr := []
  /-- Submission queue to the cipher engine [R122 03; 4 entries; empty] -/
  subC : List Submission := []
  /-- Submission queue to the fixity engine [R122 03; 4 entries; empty] -/
  subF : List Submission := []
  /-- Outstanding submission tags, SR_SUBOUT counts them [R122 R123 03; 16; none] -/
  tags : List Tag := []
  /-- Last tag given out [R122 03; 16; 0] -/
  lastTag : Nat := 0
  /-- A FENCE holds the next bundle [R113 03; 1; no] -/
  fence : Bool := false
  /-- Duplex: inputs the active has recorded and this standby thread has not consumed, oldest first [R412 11; a list; none] -/
  replay : List Word := []
  deriving DecidableEq, Repr

/-- One core's state beside its registers. -/
structure CoreSt where
  /-- Lines pinned in the instruction cache, as island instruction-memory addresses [R64 02; up to 768 lines; none] -/
  pinned : List Nat := []
  /-- Tick at which the last core reset began [R87 02; a count; 0] -/
  resetAt : Nat := 0
  deriving DecidableEq, Repr

/-- A notice in a partition's notice queue (R76), and whether its fault is pending (R400). -/
structure Notice where
  source : Nat
  tid : Option Nat
  exc : Nat
  time : Word
  detail : Word
  pend : Bool
  deriving DecidableEq, Repr

/-! ## Frames, classification, scheduling -/

/-- Where a frame is to go: a kind of R160 and a number. -/
structure Target where
  kind : BitVec 2
  number : Nat
  deriving DecidableEq, Repr

/-- A frame the device holds, with the metadata of R163. -/
structure Frame where
  /-- Bytes without the FCS [R136 04] -/
  bytes : List Byte := []
  /-- Bytes of the frame as received counted for length, with the FCS [R136 04] -/
  port : Nat := 0
  part : Nat := 0
  rxFirst : Word := 0
  rxLast : Word := 0
  hash : W32 := 0
  rule : BitVec 16 := 0
  flowHit : Bool := false
  reason : Byte := 0
  offload : BitVec 16 := 0
  key : List Byte := []
  /-- Frame offsets of the assigned windows [R146 04] -/
  wins : Tab Nat := []
  /-- Recorded headers: level, kind, offset, length [R145 04] -/
  hdrs : List (Nat × Nat × Nat × Nat) := []
  /-- Indirection target and its island [R151 04] -/
  ind : Target := ⟨0, 0⟩
  isl : Nat := 0
  /-- Ingress cells it occupies [R142 04] -/
  cells : Nat := 0
  /-- The action word it leaves with, once decided [R160 04] -/
  action : W32 := 0
  /-- Fragment key when it is a fragment, and whether it is a later one [R169 04] -/
  frag : Option (List Byte) := none
  laterFrag : Bool := false
  moreFrags : Bool := false
  /-- Decision a later fragment took over: action, order key [R170 04] -/
  fragDec : Option (W32 × Nat) := none
  /-- Group it is assigned in, and order key [R167 04] -/
  group : Option Nat := none
  order : Nat := 0
  /-- Submission ring and tag a TX frame came from [R277 07] -/
  tx : Option (Nat × BitVec 16) := none
  txFlags : Byte := 0
  txCtx : Nat := 0
  /-- First-bit transmit time [R280 07] -/
  txFirst : Word := 0
  /-- When it began to wait, as a tick count, for the waits of R158, R168 and R170 -/
  since : Nat := 0
  copy : Bool := false
  deriving DecidableEq, Repr

/-- One reorder entry (R167, R168). -/
structure Reorder where
  group : Nat
  order : Nat
  frame : Nat
  part : Nat
  isl : Nat
  done : Option (W32 × Nat)
  skipped : Bool
  deriving DecidableEq, Repr

/-- One fragment-table entry (R169 to R171). -/
structure FragEntry where
  m : Nat
  key : List Byte
  part : Nat
  decision : Option (W32 × Nat × Target × Nat)
  created : Nat
  lastTaken : Option Nat
  deriving DecidableEq, Repr

/-- One wildcard rule (R154): the value and mask are byte strings in key order. -/
structure Rule where
  value : List Byte := []
  mask : List Byte := []
  action : W32 := 0
  enable : Bool := false
  hits : Word := 0
  deriving DecidableEq, Repr

/-- One offload context (R172 to R175). -/
structure OffCtx where
  type : Nat := 0
  seq : W32 := 0
  sync : Bool := false
  digests : BitVec 2 := 0
  /-- CTX_RESYNC has set the expected start -/
  resync : Bool := false
  /-- Placement table: address and log2 of its entries -/
  table : Nat := 0
  tableLog : Nat := 0
  /-- PDU parse position within the stream: bytes still missing of the present PDU, and its header bytes seen -/
  need : Nat := 0
  hdr : List Byte := []
  crc : W32 := 0
  raw : List Byte := []
  deriving DecidableEq, Repr

/-- An entry of an exact cache (R157): table, key, result word, most recently used first in its list. -/
structure CacheEntry where
  table : Nat
  key : List Byte
  result : Word
  deriving DecidableEq, Repr

/-- A thread group's spreading state (R165). -/
structure Group where
  last : Nat := 575
  queue : List Nat := []
  deriving DecidableEq, Repr

/-- A transmit queue's frames and deficit (R179, R183). -/
structure TxQ where
  frames : List Nat := []
  deficit : Nat := 0
  fresh : Bool := true
  deriving DecidableEq, Repr

/-- The frame on a sub-port's wire, and a suspended preemptable frame (R181, R198, R199). -/
structure OnWire where
  frame : Nat
  cls : Nat
  queue : Nat
  start : Nat
  /-- End in 2^-16 ns -/
  end_ : Nat
  preemptable : Bool
  /-- Frame bytes sent in earlier fragments -/
  sent : Nat
  deriving DecidableEq, Repr

/-- A staged shaper or policer change (R188). -/
structure ShpChange where
  part : Nat
  rate : W32
  burst : W32
  parent : W32
  full : Bool
  clamped : Bool
  deriving DecidableEq, Repr

/-- A gate list's schedule beside its registers (R190 to R193): base and change time in ns. -/
structure Gate where
  operBase : Nat := 0
  operCount : Nat := 0
  adminCount : Nat := 0
  adminEn : Bool := false
  adminCycle : Nat := 0
  adminExt : Nat := 0
  change : Option Nat := none
  /-- Gates in force on the sub-port -/
  gates : BitVec 8 := 255
  /-- Ns of the next transition of the running list -/
  next : Nat := 0
  deriving DecidableEq, Repr

/-- The packet path and its schedulers, beside their registers. -/
structure Pkt where
  /-- Frames held anywhere in the device, by frame number [R142 R163 04; a table; none] -/
  frames : Tab Frame := []
  /-- Next frame number [R119 03; 43; 1] -/
  nextFrame : Nat := 1
  /-- Ingress cells in use per physical port [R142 04; 4 counts; 0] -/
  ingUse : Tab Nat := []
  /-- Ingress bytes in use per port index and class, for PFC [R139 04; 256 counts; 0] -/
  clsUse : Tab Nat := []
  /-- Cells charged to a partition's hold quota, key 2p + port island [R142 04; 16 counts; 0] -/
  holdUse : Tab Nat := []
  /-- Egress bytes in use per partition and island, key 2p + port island [R179 05; 16 counts; 0] -/
  eqUse : Tab Nat := []
  /-- Failed verify attempts per port index [R138 04; 32 counts; 0] -/
  mmTries : Tab Nat := []
  /-- End of a received PAUSE or PFC stop in 2^-16 ns, key 8x + class [R139 04; 256 times; none] -/
  pauseEnd : Tab Nat := []
  /-- Classes for which XOFF has been sent, one mask per port index [R139 04; 32 x 8; 0] -/
  xoff : Tab (BitVec 8) := []
  /-- Frames waiting for the classifier, oldest first [R153 04; a list; none] -/
  clsQ : List Nat := []
  /-- Frames waiting for a flow-table read [R158 04; a list; none] -/
  missQ : List Nat := []
  /-- Frames on their way to a transmit queue [R179 05; a list; none] -/
  arriving : List Nat := []
  /-- Frames on their way to a host queue [R276 07; a list; none] -/
  toHost : List Nat := []
  /-- Fragments in the hold areas, oldest first [R170 04; 1024 per island; none] -/
  fragHold : List Nat := []
  /-- Fragment tables [R169 04; 32768 entries per island; empty] -/
  frags : List FragEntry := []
  /-- Reorder entries in sequence order [R167 04; 8192 per island; none] -/
  reorder : List Reorder := []
  /-- Thread groups [R164 R165 04; 1024; previous member 575, empty queue] -/
  groups : Tab Group := []
  /-- Wildcard rules, key 32768 e + index [R154 04; 4 x 32768; disabled, zero] -/
  rules : Tab Rule := []
  /-- Offload contexts, key 16384 e + index [R172 04; 4 x 16384; type 0] -/
  ctxs : Tab OffCtx := []
  /-- Exact caches, key 8e + p, most recently used first [R157 04; 131072 entries per island; empty] -/
  caches : Tab (List CacheEntry) := []
  /-- Exact-table updates under way: op code, table, key, result, key 8e + p [R159 04; 32; none] -/
  updPend : Tab (Nat × Nat × List Byte × Word) := []
  /-- Transmit queues [R178 R183 05; 65536; empty, deficit 0, fresh] -/
  txq : Tab TxQ := []
  /-- Active lists, key 8x + class [R183 05; 256 lists; empty] -/
  active : Tab (List Nat) := []
  /-- Frame on the wire per port index [R181 05; 32; none] -/
  wire : Tab OnWire := []
  /-- Suspended preemptable frame per port index [R198 05; 32; none] -/
  susp : Tab OnWire := []
  /-- Staged shaper changes, key 8192 m + local index [R188 05; 16384; none] -/
  shpPend : Tab ShpChange := []
  /-- Staged policer changes, key 4096 m + local index [R188 05; 8192; none] -/
  polPend : Tab ShpChange := []
  /-- Policers' drop counts POL_DROP, key 4096 m + local index [R189 05; 8192 counts; 0] -/
  polDrop : Tab Nat := []
  /-- Time of the last refill instant done per port island, ns [R186 R187 05; 2 times; 0] -/
  refillAt : Tab Nat := []
  /-- Gate schedules per port index [R190 05; 32; no list, all open] -/
  gate : Tab Gate := []
  deriving DecidableEq, Repr

/-! ## Keys and engines -/

/-- A key slot (R205, R207), with its material. -/
structure KeySlot where
  state : Nat := 0
  owner : Nat := 0
  persistent : Bool := false
  mode : Nat := 0
  wide : Bool := false
  uses : Byte := 0
  sca : Byte := 0
  created : Nat := 0
  expires : Nat := 0
  verifyDue : Nat := 0
  generated : Bool := false
  expired : Bool := false
  exhausted : Bool := false
  near : Bool := false
  dueRaised : Bool := false
  kcv : W32 := 0
  useCount : Nat := 0
  inv : Nat := 0
  ceiling : Nat := 0
  material : List Byte := []
  deriving DecidableEq, Repr

/-- Where an accepted engine operation stands (R230, R232). -/
inductive OpStage where
  | accepted
  | started
  | ended (status : Byte)
  deriving DecidableEq, Repr

/-- An operation an engine has accepted (R229, R240). -/
structure EngOp where
  isl : Nat
  fix : Bool
  part : Nat
  tid : Nat
  tag : Nat
  desc : List Byte
  stage : OpStage
  /-- Hold granules reserved (R234) -/
  hold : Nat
  /-- The frame a frame operation works on, taken from its thread at acceptance (R229) -/
  frame : Option Nat
  deriving DecidableEq, Repr

/-- The key store and the engines, beside their registers. -/
structure Keys where
  /-- Key slots [R205 R207 06; 65536 slots; EMPTY] -/
  slots : Tab KeySlot := []
  /-- Key log: the durable record of each persistent slot [R209 06; a record per slot; none] -/
  log : Tab KeySlot := []
  /-- Key-log records that fail their integrity check [R209 06; a list; none] -/
  logBad : List Nat := []
  /-- Ceilings written but not yet durable [R223 06; a table; none] -/
  ceilPend : Tab Nat := []
  /-- Key caches, key = engine island e, most recently used first [R216 06; 4 x 1024 entries; empty] -/
  cache : Tab (List Nat) := []
  /-- Failed first transfers on the key bus, key 65536 e + slot [R218 06; a set; none] -/
  busRetry : List Nat := []
  /-- Operations accepted and not complete, by operation number in order of acceptance [R232 06; 512 per engine; none] -/
  ops : Tab EngOp := []
  /-- Next operation number [R232 06; a count; 0] -/
  nextOp : Nat := 0
  /-- Duplex: invocation values the active's operation drew, for the standby's operation of the same tag, key 65536 tid + tag of the active [R224 06; a table; none] -/
  draws : Tab (List Nat) := []
  /-- Slots whose KEY_RETIRE waits for their operations to end, with the command's resp [R215 06; a list; none] -/
  retiring : List Nat := []
  deriving DecidableEq, Repr

/-! ## DMA and rings -/

/-- A committed shadow set in a channel's armed slot (R263): who committed it and the values written. -/
structure Armed where
  tid : Nat
  ring : Option (Nat × BitVec 16)
  errOnly : Bool
  shadow : Tab Word
  deriving DecidableEq, Repr

/-- One burst of a transfer whose read is out (R255): offset and length in the stream. -/
structure Burst where
  off : Nat
  len : Nat
  deriving DecidableEq, Repr

/-- Where a transfer stands (R268, R271). -/
inductive XferStage where
  | moving
  | readback
  | ended (status : Byte)
  deriving DecidableEq, Repr

/-- A transfer handed over to a channel (R264 to R271). -/
structure Xfer where
  tid : Nat
  ring : Option (Nat × BitVec 16)
  errOnly : Bool
  src : Nat
  dst : Nat
  cnt : Nat
  /-- Bytes whose read has been issued, bytes written, bursts in flight in the order of issue -/
  issued : Nat
  written : Nat
  bursts : List Burst
  /-- The bytes moved so far, in stream order, kept for the checksum (R267) -/
  data : List Byte
  stage : XferStage
  readAt : Nat
  deriving DecidableEq, Repr

/-- One DMA channel beside its registers. -/
structure Chan where
  /-- Thread holding the claim [R262 07; a thread id; none] -/
  claim : Option Nat := none
  /-- Previous winner of the channel's arbiter [R262 07; 10; 575] -/
  prevWin : Nat := 575
  /-- Armed slot [R263 07; one set; empty] -/
  armed : Option Armed := none
  /-- Transfer handed over and not ended [R264 07; one; none] -/
  xfer : Option Xfer := none
  deriving DecidableEq, Repr

/-- A submission ring beside its registers (R281 to R285). -/
structure SqSt where
  /-- Entries the fetch read in flight covers, and the wake remembered meanwhile [R284 R285 07; up to 8; none] -/
  flight : Option Nat := none
  wake : Bool := false
  /-- Read-ahead entries the service core's helper has taken on for the next read [R285 07; up to 7; 0] -/
  ahead : Nat := 0
  /-- Next poll instant in ns [R284 07; a time; 0] -/
  nextPoll : Nat := 0
  /-- Entries accepted and not yet acted on, oldest first [R276 to R279 07; a list; none] -/
  entries : List (List Byte) := []
  /-- TX entry whose frame read is out [R277 07; one; none] -/
  reading : Option (List Byte) := none
  /-- Entries whose completion is still to come: COPY started, TX on the way [R277 R278 07; a count; 0] -/
  open_ : Nat := 0
  deriving DecidableEq, Repr

/-- A completion entry due for a ring: its 16 bytes without phase and overflow flags, and the channel or frame that waits for it (R280, R288). -/
structure Cqe where
  cq : Nat
  tag : BitVec 16
  status : Byte
  origin : Nat
  source : BitVec 16
  length : BitVec 16
  detail : Word
  deriving DecidableEq, Repr

/-- A completion ring beside its registers (R288, R290). -/
structure CqSt where
  /-- Entries written and not acknowledged [R290 07; a count; 0] -/
  unacked : Nat := 0
  /-- Device time in ns of the interrupt due by the timer [R290 07; a time; none] -/
  timer : Option Nat := none
  deriving DecidableEq, Repr

/-- The DMA engines and rings, beside their registers. -/
structure Dma where
  /-- Channels [R260 07; 1024; unclaimed, idle] -/
  chans : Tab Chan := []
  /-- Channel whose burst was issued last, per island [R256 R257 07; 4 numbers; 1023] -/
  lastCh : Tab Nat := []
  /-- Partition served last by credit, per island [R328 09; 4 numbers; 7] -/
  lastPart : Tab Nat := []
  /-- DMA_ISL_CFG value committed and waiting for quiescence, per island [R258 07; 4 x 32; none] -/
  modePend : Tab W32 := []
  /-- Tick of the last poll read plus one, per island [R284 07; 4 counts; none] -/
  pollTick : Tab Nat := []
  /-- Submission rings [R273 07; 16384; idle] -/
  sq : Tab SqSt := []
  /-- Completion rings [R273 07; 16384; idle] -/
  cq : Tab CqSt := []
  /-- Overflow entries of each slice, oldest first [R288 07; 256 per slice; none] -/
  ovf : Tab (List Cqe) := []
  /-- Completions waiting at their source, oldest first [R288 07; a list; none] -/
  waiting : List Cqe := []
  /-- Channels whose transfer waits for its completion to be posted [R271 07; a list; none] -/
  cqWait : List Nat := []
  deriving DecidableEq, Repr

/-! ## Host endpoint -/

/-- An error a function has logged in AER (R315). -/
inductive Aer where
  | completionTimeout
  | completerAbort
  | unsupported
  | poisoned
  | unexpected
  | internal
  deriving DecidableEq, Repr

/-- What a non-posted host request was issued for (R304). -/
inductive HostOp where
  | fetch (ring : Nat)
  | txRead (ring : Nat)
  | xferRead (ch off len : Nat)
  | readback (ch : Nat)
  | load (tid k : Nat)
  | dumpBack
  /-- Its operation has ended: what comes back is discarded (R309, R312, R338) -/
  | discarded
  deriving DecidableEq, Repr

/-- An outstanding or quarantined request: its function, the slice it was issued for, issue tick and timeout in ticks, and the reply once it has come (R304, R309, R313, R338). -/
structure HostReq where
  h : Nat
  f : Nat
  slice : Option Nat
  op : HostOp
  addr : Nat
  len : Nat
  tick : Nat
  limit : Nat
  quarantined : Bool
  reply : Option Reply
  deriving DecidableEq, Repr

/-- One function of a host port, beside its registers (R296 to R317). -/
structure HostFn where
  /-- Memory Space Enable [R303 08; 1; 0] -/
  mse : Bool := false
  /-- MSI-X Enable and Function Mask [R310 08; 2; 0] -/
  msixEn : Bool := false
  fnMask : Bool := false
  /-- MSI-X vectors that are not masked [R310 08; 2048; every vector masked] -/
  unmasked : List Nat := []
  /-- PBA bits [R310 08; 2048; 0] -/
  pba : List Nat := []
  /-- MSI Enable and messages enabled [R310 08; 1 and a count; 0] -/
  msiEn : Bool := false
  msiCount : Nat := 1
  /-- MSI per-vector mask and pending bits [R310 08; 32 and 32; 0] -/
  msiMask : W32 := 0
  msiPend : W32 := 0
  /-- Interrupt Disable [R310 08; 1; 0] -/
  intxDis : Bool := false
  /-- Raises held while Bus Master Enable is clear [R310 R312 08; a set; none] -/
  held : List Nat := []
  /-- Completion Timeout Value [R308 08; 4; 0] -/
  ctv : BitVec 4 := 0
  /-- AER errors logged, newest first [R315 08; a list; none] -/
  aer : List Aer := []
  /-- Uncorrectable Internal Error severity is fatal [R315 08; 1; fatal] -/
  internalFatal : Bool := true
  /-- MSI-X table entries beside the mask bit, by byte offset [R300 08; 32 KiB; 0] -/
  msixTable : Tab Byte := []
  /-- BAR2 size in force [R300 08; 5; 24] -/
  bar2Log : Nat := 24
  deriving DecidableEq, Repr

/-- The host endpoint, beside its registers. -/
structure HostSt where
  /-- Functions, key 9h + f [R296 08; 8 x 9; see the fields] -/
  fns : Tab HostFn := []
  /-- Requests out, by tag number [R304 08; 16384; none] -/
  reqs : Tab HostReq := []
  /-- Next tag number [R304 08; 14; 0] -/
  nextTag : Nat := 0
  /-- Bifurcation in force per link [R293 08; 2 x 2; 0] -/
  bifNow : Tab Nat := []
  /-- Host ports whose PERST input is asserted [R293 R451 13; 8; all] -/
  perst : BitVec 8 := 255
  /-- Host ports that may train: the image is applied [R451 13; 8; none] -/
  training : BitVec 8 := 0
  deriving DecidableEq, Repr

/-! ## Partitions, slices, mailboxes -/

/-- A range record (R324). -/
structure Range where
  kind : Nat
  where_ : Nat
  first : Nat
  count : Nat
  deriving DecidableEq, Repr

/-- A mailbox record (R347). -/
structure MbxRec where
  mbx : Nat
  sndKind : Nat
  rcvKind : Nat
  sndId : Nat
  rcvId : Nat
  sndPort : Nat
  rcvPort : Nat
  face : Nat
  progRoute : BitVec 16
  deriving DecidableEq, Repr

/-- A partition grant (R323). -/
structure Grant where
  hostPorts : Byte
  counterRead : Bool
  cores : Word
  classes : BitVec 16
  maxSlices : Nat
  cipher : List Nat
  fixity : List Nat
  dma : List Nat
  strait : Nat
  hold : List Nat
  reorder : List Nat
  cache : List Nat
  ingress : List Nat
  egress : List Nat
  overflow : Nat
  ranges : List Range
  mbxs : List MbxRec
  deriving DecidableEq, Repr

/-- A slice grant (R335). -/
structure SliceGrant where
  part : Nat
  port : Nat
  pasid : Nat
  vecFirst : Nat
  vecCount : Nat
  ovfLimit : Nat
  ranges : List Range
  mbxs : List MbxRec
  deriving DecidableEq, Repr

/-- A code section of a loaded program image (R374). -/
structure Code where
  isl : Nat
  first : Nat
  len : Nat
  pinned : Bool
  deriving DecidableEq, Repr

/-- A thread group record of a program image (R374). -/
structure GroupRec where
  group : Nat
  line : Nat
  reorder : Nat
  timeout : Nat
  members : BitVec 128
  deriving DecidableEq, Repr

/-- A loaded program image (R374, R375). -/
structure Prog where
  super : Nat
  code : List Code
  entries : List (Nat × Nat)
  groups : List GroupRec
  deriving DecidableEq, Repr

/-- A partition reset or destruction under way: which, and the tick at which it began (R332, R333). -/
structure PartJob where
  destroy : Bool
  began : Nat
  deriving DecidableEq, Repr

/-- One partition beside its registers. -/
structure Part where
  /-- Its grant [R323 09; 96 bytes and records; none] -/
  grant : Option Grant := none
  /-- Its loaded image [R375 10; an image; none] -/
  prog : Option Prog := none
  /-- Start tick ordered by PROG_START, in ns [R377 10; a time; none] -/
  startAt : Option Nat := none
  /-- Reset or destruction under way [R332 R333 09; one; none] -/
  job : Option PartJob := none
  /-- Notice queue, oldest first [R76 02; 32 entries; empty] -/
  notices : List Notice := []
  /-- Device time in 2^-16 ns since which the partition has been quiet, and whether that was raised [R79 R80 02; a time; none] -/
  quietSince : Option Nat := none
  quietRaised : Bool := false
  deriving DecidableEq, Repr

/-- One slice beside its registers. -/
structure Slice where
  /-- Its grant [R335 09; 24 bytes and records; none] -/
  grant : Option SliceGrant := none
  /-- Tick at which its reset or freeze began [R338 R341 09; a count; 0] -/
  began : Nat := 0
  /-- The reset under way ends in the slice's destruction, and the completions it discarded [R345 09; 1 and a count; no, 0] -/
  destroy : Bool := false
  discarded : Nat := 0
  /-- A command that waits for the reset under way to end and then takes effect: its opcode [R340 09; one; none] -/
  waiting : Option Nat := none
  deriving DecidableEq, Repr

/-- One mailbox's message beside its registers (R346). -/
structure Mbx where
  ptr : Word := 0
  len : W32 := 0
  /-- Host ports of its endpoints, and the partition it belongs to (R347) -/
  sndPort : Nat := 0
  rcvPort : Nat := 0
  part : Nat := 0
  slice : Option Nat := none
  progRoute : BitVec 16 := 0
  deriving DecidableEq, Repr

/-- Partitions, slices, mailboxes. -/
structure Ptn where
  /-- Partitions [R321 09; 8; none exists] -/
  parts : Tab Part := []
  /-- Slices [R334 09; 4096; none exists] -/
  slices : Tab Slice := []
  /-- Mailboxes [R346 09; 8192; empty] -/
  mbxs : Tab Mbx := []
  /-- Resources whose owner field a REG record has set, key 65536 kind + number: the partition it names plus 1 [R465 13; a table; none] -/
  named : Tab Nat := []
  /-- Strait credit in bytes, key 16 s + 2p + direction [R327 R328 09; 46 x 8; 0] -/
  straitCred : Tab Int := []
  deriving DecidableEq, Repr

/-! ## Firmware, faults, duplex -/

/-- A command forwarded to the partner whose own answer is ready (R425): the partition it is forwarded for, the response it waits to give and the tick forwarding began. -/
structure Forward where
  part : Nat
  opcode : Nat
  hdr : CmdHdr
  status : Byte
  r0 : Word
  r1 : Word
  out : List Byte
  late : Bool
  since : Nat
  deriving DecidableEq, Repr

/-- Firmware's command channel and records (R358 to R392). -/
structure Fw where
  /-- Firmware serves commands [R365 10; 1; no] -/
  serving : Bool := false
  /-- The message taken from mailbox 0 and not yet read: pointer and length [R361 10; one; none] -/
  taken : Option (Word × W32) := none
  /-- The command firmware holds open until an event ends it: opcode and header [R372 R373 10; one; none] -/
  running : Option (Nat × CmdHdr) := none
  /-- The running command has been abandoned after it began to change state: it answers nothing [R364 10; 1; no] -/
  mute : Bool := false
  /-- Where the command in progress came from: 0 mailbox 0; 1 the ferry, so that it is not checked for ownership and answers there; 2 an image record [R425 11, R465 13; 2; 0] -/
  guest : Nat := 0
  /-- The externally paired partition for which the command in progress is forwarded to the partner [R425 11; 3; none] -/
  owned : Option Nat := none
  /-- The post on mailbox 1 that waits for the manager's read [R362 10; pointer and length; none] -/
  posting : Option (Word × W32) := none
  /-- Orphan commands discarded; last abandoned command: opcode, seq, took effect [R364 10; 16, 16, 32, 1; 0] -/
  orphans : Nat := 0
  abandoned : Option (Nat × W32 × Bool) := none
  /-- View log: item, object, view, data, device second of the entry; oldest first [R392 10; 16 entries; empty] -/
  viewLog : List (Nat × Nat × Nat × Nat × Nat) := []
  viewUnread : Bool := false
  /-- Management view of each item, key 65536 item + object [R390 10; a table; agrees] -/
  view : Tab Nat := []
  /-- Tick since which an item has disagreed on every sample [R391 10; a table; none] -/
  viewSince : Tab Nat := []
  /-- Staging area: records as bytes [R370 10; 1 MiB; empty] -/
  staged : List (List Byte) := []
  /-- The configuration report, and its number [R468 R469 13; 64 + 24 x 256 bytes; none] -/
  report : List Byte := []
  reportSeq : Nat := 0
  /-- Entries of the report being made, oldest first, at most 256, and how many arose [R468 13; 256 x 24 bytes and a count; none] -/
  ents : List (List Byte) := []
  entTotal : Nat := 0
  /-- Report-log write position [R470 13; 7; 0] -/
  reportPos : Nat := 0
  /-- Records of types 2 to 5 of the image still to be carried out, by record index [R465 13; a list; none] -/
  imgObjs : List (Nat × List Byte) := []
  /-- The status of the command that an image record has just been carried out as [R465 13; 8; none] -/
  imgStatus : Option Byte := none
  /-- Subsystem identities per host port: four 16-bit values [R298 08, R459 13; 8 x 64; 0] -/
  pciIds : Tab Word := []
  /-- Forwarded command that waits for the partner [R425 11; one; none] -/
  forward : Option Forward := none
  deriving DecidableEq, Repr

/-- A fault report on its way to or in the collector's input queue (R397). -/
structure Report where
  source : Nat
  isl : Nat
  part : Option Nat
  tid : Option Nat
  exc : Nat
  detail : Word
  /-- Tick and device time (2^-16 ns) of detection -/
  tick : Nat
  time : Nat
  deriving DecidableEq, Repr

/-- A pending fault: its source, its scope (0 to 7 a partition, 8 the device), its effective severity, and whether its notice was queued (R400). -/
structure PendFault where
  source : Nat
  scope : Nat
  sev : Nat
  noticed : Bool
  deriving DecidableEq, Repr

/-- The fault collector beside its registers. -/
structure Flt where
  /-- Input queue in collection order: by tick, then source [R397 11; a list; empty] -/
  queue : List Report := []
  /-- Faults pending acknowledgement [R400 11; a list; none] -/
  pend : List PendFault := []
  /-- Time word of the last detection per source [R406 11; 2048 x 64; 0] -/
  last : Tab Word := []
  /-- Collection sequence number [R405 11; 16; 0] -/
  seq : Nat := 0
  /-- Device time in ns at which an injection is cancelled [R407 11; a time; none] -/
  injEnd : Option Nat := none
  /-- Tick of the last collection and the sources collected in it, since a source is taken once a tick [R397 11; a count and a list; 0, none] -/
  takenAt : Nat := 0
  taken : List Nat := []
  /-- Firmware is carrying out a partition reset or destruction [R402 11; 1; no] -/
  recovering : Bool := false
  deriving DecidableEq, Repr

/-- A checkpoint: the partition's island memories, and the architectural state of its duplexed threads by active thread (R415). -/
structure Ckpt where
  mem : List Host.Cell
  thr : List (Nat × Thread)
  deriving DecidableEq, Repr

/-- One partition's duplex state beside its registers (R410 to R425). -/
structure Dpx where
  /-- Start tick in ns and the index of the last cycle end [R410 11; a time and a count; 0] -/
  start : Nat := 0
  cycle : Nat := 0
  /-- Thread slot counts fixed as the cut of the last cycle end, by active thread [R414 11; a table; none] -/
  cut : Tab Word := []
  /-- By how much a standby thread's slot count is ahead of its active's since the two were last made equal, by active thread [R412 11; a table; 0] -/
  lead : Tab Word := []
  /-- Checkpoint of the cycle whose comparison is due [R415 11; memory and threads; none] -/
  ckpt : Option Ckpt := none
  /-- Tick of the last cycle end whose comparison is due [R414 11; a count; none] -/
  due : Option Nat := none
  /-- A checker fault was detected on the active, on the standby, since the last comparison [R416 11; 2; no] -/
  chkActive : Bool := false
  chkStandby : Bool := false
  /-- Index of the last mismatch, if any [R416 11; a count; none] -/
  lastMm : Option Nat := none
  /-- Standby waits for the checkpoint of a compared cycle (resynchronising) [R417 11; 1; no] -/
  resync : Bool := false
  /-- The full copy of a rejoin is complete [R418 11; 1; no] -/
  copied : Bool := false
  /-- Device times in ns of lost decisions, key = island [R418 11; 8 times; none] -/
  losses : Tab Nat := []
  /-- Decision tick D of a switch-over under way, or ordered for a time in ns [R419 11; a count; none] -/
  decided : Option Nat := none
  ordered : Option (Nat × CmdHdr) := none
  /-- The decision has reached the islands: roles are exchanged and the gap runs [R419 11; 1; no] -/
  moved : Bool := false
  /-- Output buffer of the new active: host writes held, each with host port, function, PASID, address and bytes, oldest first [R419 11; 1 MiB; empty] -/
  held : List (Nat × Nat × Word × Nat × List Byte) := []
  deriving DecidableEq, Repr

/-- Duplex of every partition, and the external pairing. -/
structure Duplex where
  /-- Per partition [R410 11; 8; not in duplex] -/
  ps : Tab Dpx := []
  /-- The external ferry link is up [R422 R423 11; 1; down] -/
  ferryUp : Bool := false
  /-- Filtered CAUSEWAY_IN lines: the partner holds the unit [R491 14; 4; 0] -/
  cwIn : BitVec 4 := 0
  /-- Tick at which a unit was released and not yet granted, key 4p + unit [R421 11; a table; none] -/
  released : Tab Nat := []
  deriving DecidableEq, Repr

/-! ## Counters, snapshots, lifetime, start-up, thermal -/

/-- The snapshot copy of every block (R435). -/
structure SnapCopy where
  regs : Tab Word := []
  ctrs : Tab Word := []
  progs : Tab Word := []
  slots : Tab Word := []
  deriving DecidableEq, Repr

/-- Counters and snapshots beside their registers. -/
structure Cnt where
  /-- Event counters [R427 R428 12; 5120 x 64; 0] -/
  ev : Tab Word := []
  /-- Program event counters, key 512p + n [R430 12; 8 x 512 x 64; 0] -/
  prog : Tab Word := []
  /-- Slot counters, key 5 tid + c [R431 12; 512 x 5 x 64; 0] -/
  slot : Tab Word := []
  /-- Slot counters latched by a read of retired, key 5 tid + c [R431 12; 512 x 4 x 64; 0] -/
  slotLatch : Tab Word := []
  /-- High word latched by a 4-byte read of a low word, one per requester [R429 12; a table x 32; 0] -/
  hiLatch : Tab W32 := []
  /-- Next mirror instant in ns and next sequence word of a window's face [R434 12; 1024; 0] -/
  mirrorAt : Tab Nat := []
  mirrorSeq : Tab Word := []
  /-- Snapshot copies [R435 12; a copy of every counter and status register; 0] -/
  snap : SnapCopy := {}
  /-- Trigger requests that have not reached the anchor: cause, and the requesting thread's operation [R437 12; a list; none] -/
  snapReqs : List (Nat × Option (Nat × Nat)) := []
  /-- Tick L at which a latch accepted falls, and its device time [R437 12; a count; none] -/
  snapDue : Option (Nat × Nat) := none
  /-- SNAP requests that L will answer: thread and operation [R438 12; a list; none] -/
  snapWait : List (Nat × Nat) := []
  /-- First tick at which an armed time instant can latch: four ticks after SNAP_ARM [R437 12; a count; 0] -/
  snapFrom : Nat := 0
  /-- Tick of the last accepted SNAP_IN edge [R489 14; a count; none] -/
  pinAt : Option Nat := none
  /-- Dump buffer: instant in ns, values, lines written [R440 12; 1024 x 64; none] -/
  dump : Option (Nat × List Word × Nat) := none
  /-- Header of the dump written, read-back out [R440 12; 1; no] -/
  dumpBack : Bool := false
  /-- Next dump instant in ns; dump number; instants missed since the last written dump [R440 R441 12; counts; 0] -/
  dumpAt : Nat := 0
  dumpSeq : Nat := 0
  dumpMissed : Nat := 0
  /-- Number of the dump in the buffer; instants missed between the last written dump and its own [R440 R441 12; counts; 0] -/
  dumpNo : Nat := 0
  dumpGap : Nat := 0
  deriving DecidableEq, Repr

/-- The lifetime counters and retention memory: the always-on domain (R12, R442 to R447). -/
structure Life where
  /-- VIN and VAUX present [R483 14; 2; yes] -/
  vin : Bool := true
  vaux : Bool := true
  vinSecs : Nat := 0
  vauxSecs : Nat := 0
  /-- Thermal age per island in 2^-24 equivalent seconds [R443 12; 8 x 64; 0] -/
  age : Tab Nat := []
  /-- Peak reading + 40 in whole degrees per island [R444 12; 8 x 8; 0] -/
  peak : Tab Nat := []
  dips : Nat := 0
  sags : Nat := 0
  /-- Counts per reset kind in the order of R444 [R444 12; 10 x 32; power-on and auxiliary-only 1] -/
  resets : Tab Nat := [(0, 1), (1, 1)]
  eth : Tab Nat := []
  host : Tab Nat := []
  erases : Tab Nat := []
  /-- Erases of each lifetime-log sector [R444 12; 1024 counts; 0] -/
  logErases : Tab Nat := []
  keyUses : Nat := 0
  keyInvs : Nat := 0
  faults : Nat := 0
  firstOn : Nat := 0
  lastCkpt : Nat := 0
  /-- The two record slots of retention memory, and the slot written last [R445 12; 2 x 512 bytes; none] -/
  rec0 : Option (List Byte) := none
  rec1 : Option (List Byte) := none
  /-- The history copy in retention memory: 16 entries of 4 words [R404 11; 512 bytes; 0] -/
  histCopy : Tab Word := []
  /-- A log write was skipped since the previous entry [R446 12; 1; no] -/
  skipped : Bool := false
  /-- Serial-memory sectors to erase, by address, the first one first; and the first is under way [R446 12, R470 R474 13; a list and 1; none] -/
  erases_ : List Nat := []
  eraseOn : Bool := false
  /-- Tick of the last checkpoint [R445 12; a count; none] -/
  ckptAt : Option Nat := none
  /-- Tick of the last thermal age update [R442 R443 12; a count; 0] -/
  ageAt : Nat := 0
  /-- VAUX was lost, and the counters have not been restored since [R447 12; 1; yes] -/
  lost : Bool := true
  /-- Always-on time counter: device time at the last power-down and its tick, and whether it ran throughout [R46 01; 96 and 1; lost] -/
  auxTime : Nat := 0
  auxTick : Nat := 0
  auxRan : Bool := false
  auxErr : Nat := 0
  /-- Kept with it: TIME_HOLD_RATE and calendar_valid at the power-down, and whether the device was in the safe state [R46 01, R479 13; 32, 1 and 1; 0, no, no] -/
  auxRate : Nat := 0
  auxCal : Bool := false
  wasSafe : Bool := false
  /-- TIME_HWM and TIME_HOLD_SECS kept in retention memory [R45 01, R47 01; 48 and 32; 0] -/
  hwm : Nat := 0
  holdSecs : Nat := 0
  /-- Trial counts of images A and B in retention memory [R462 13; 2 x 4; 0] -/
  trials : Tab Nat := []
  /-- Leap table in retention memory: second and offset, ascending; expiry date [R44 01, R384 10; 64 entries; none] -/
  leap : List (Nat × Int) := []
  leapExpiry : Nat := 0
  deriving DecidableEq, Repr

/-- What the board and provisioning give a device, and its serial memory. -/
structure Board where
  /-- Populated DDR in bytes [R18 R19 01; up to 256 GiB; 256 GiB] -/
  ddr : Nat := 274877906944
  /-- Serial memory present and usable, its size [R455 13; 16 to 256 MiB; present, 16 MiB] -/
  smem : Bool := true
  smemSize : Nat := 16777216
  /-- Serial memory bytes that differ from the erased value 0xFF [R456 13; bytes; erased] -/
  flash : Tab Byte := []
  /-- Owner root key fuse [R211 06; 256; not fused] -/
  root : Option (List Byte) := none
  /-- sign_req fuse: digest of the owner's public key [R376 10; 256; not fused] -/
  signReq : Option (List Byte) := none
  /-- Straps SMB_ADDR [R490 14; 2; 0] -/
  smbAddr : BitVec 2 := 0
  deriving DecidableEq, Repr

/-- Start-up, supply and thermal state beside their registers. -/
structure Boot where
  /-- Tick at which the present power-on or device reset was released [R452 13; a count; 0] -/
  began : Nat := 0
  /-- Image that runs or is to be applied: 0 none, 1 A, 2 B; a first choice was passed over; the boot block is invalid [R461 R457 13; 2, 1 and 1; none, no, yes] -/
  image : Nat := 0
  fallback : Bool := false
  blockBad : Bool := true
  /-- DEV_RST_N is held low [R449 13; 1; no] -/
  rstN : Bool := false
  /-- The image values have taken effect [R452 13; 1; no] -/
  imaged : Bool := false
  /-- Entries of the boot report while image records remain, how many arose, and its number [R465 R468 13; 256 x 24 bytes and counts; none] -/
  ents : List (List Byte) := []
  entTotal : Nat := 0
  rptSeq : Nat := 0
  /-- DDR zeroing has completed [R453 13; 1; no] -/
  ddrZeroed : Bool := false
  /-- Tick at which firmware first served commands [R462 13; a count; none] -/
  servedAt : Option Nat := none
  /-- Tick at which supply warning was entered [R474 R476 13; a count; none] -/
  warnAt : Option Nat := none
  /-- Tick of the power-on reset that started the device [R482 14; a count; none] -/
  poAt : Option Nat := none
  /-- Islands above warn and not yet 5 C below it [R494 14; 8; 0] -/
  hotRaised : BitVec 8 := 0
  /-- Tick since which an island has been above crit or without a valid sensor, key = island; and whether that has been raised [R493 R494 14; 8 counts and 8; none, no] -/
  critSince : Tab Nat := []
  critRaised : BitVec 8 := 0
  /-- Tick since which an island has been above gov_enter; tick since which all have been 4 C below [R495 14; 8 counts and one; none] -/
  govSince : Tab Nat := []
  coolSince : Option Nat := none
  deriving DecidableEq, Repr

/-- The time plane beside its registers. -/
structure Time where
  /-- Device time in 2^-16 ns since the PTP epoch: the 96-bit value of R21 read as one number [R21 01; 96; 0] -/
  now : Nat := 0
  /-- Ticks since power-on, which no step of device time changes [R3 00, R308 08; a count; 0] -/
  tick : Nat := 0
  /-- Steps of device time applied [R27 01; a count; 0] -/
  steps : Nat := 0
  /-- Difference of an island's copy from the anchor's time, in 2^-16 ns, key = island [R24 R25 01; 8; 0] -/
  skew : Tab Int := []
  /-- Measured sideband delay per strait [R24 01; 23 values; 0] -/
  delay : Tab Nat := []
  /-- Consecutive failed attempts of the flit at the head, key 2s + direction [R17 01; 46 counts; 0] -/
  attempts : Tab Nat := []
  /-- Straits that are down [R17 01; 23; none] -/
  down : List Nat := []
  /-- REFCLK is qualified; REFCLK is lost [R13 01; 2; not qualified] -/
  refOk : Bool := false
  refLost : Bool := false
  /-- Spread settings in force [R29 01; 6; 0x2A] -/
  spread : W32 := 0x2A
  /-- Servo: consecutive updates within the threshold, last offset in ns, mean path delay, an estimate exists [R41 R42 01, R383 10; counts; 0] -/
  within : Nat := 0
  lastOff : Int := 0
  pathDelay : Nat := 0
  hasEst : Bool := false
  /-- Sources present and not lost: PTP on the receiver port, on the standby port, PPS_IN [R40 01; 3; none] -/
  ptpUp : Bool := false
  standbyUp : Bool := false
  /-- Grandmaster clockIdentity [R383 10; 64; 0] -/
  clock : Word := 0
  /-- PPS_IN: consecutive accepted edges toward qualification, device time of the last accepted edge [R37 01; a count and a time; 0] -/
  ppsEdges : Nat := 0
  ppsLast : Nat := 0
  /-- Seconds are known from TIME_SET or a PTP lock [R37 01; 1; no] -/
  secsKnown : Bool := false
  /-- PPS_OUT is high until this device time in ns [R38 01; a time; low] -/
  ppsHigh : Option Nat := none
  deriving DecidableEq, Repr

/-! ## What leaves the device -/

/-- What the device emits, in order: the model's own record of its outputs. -/
inductive OutEv where
  | frame (port : Nat) (bytes : List Byte)
  | pause (port : Nat) (cls : Nat) (on : Bool)
  | ptp (port : Nat) (m : PtpSend) (t : Word)
  | hostWrite (h f : Nat) (pasid : Word) (addr : Nat) (bytes : List Byte)
  | msix (h f vec : Nat)
  | msi (h f msg : Nat)
  | inta (h f : Nat) (on : Bool)
  | completion (h f : Nat) (bytes : List Byte)
  | completerAbort (h f : Nat)
  | unsupported (h f : Nat)
  | poisonedCpl (h f : Nat)
  | retryStatus (h f : Nat)
  | cfgValue (h f off : Nat) (v : W32)
  | readValue (isl off : Nat) (v : Word)
  | smbus (bytes : List Byte)
  | ppsOut (on : Bool)
  | command (opcode : Nat) (status : Byte) (seq : W32) (r0 r1 : Word) (flags : Byte)
  | ferry (opcode : Nat) (status : Byte)
  | causeway (unit : Nat) (on : Bool)
  | portError (port : Nat)
  deriving DecidableEq, Repr

/-! ## The device and the machine -/

/-- The whole device but its queue of commands. -/
structure Dev where
  /-- Registers that differ from their reset value, keyed by register and index (Machine/Regs.lean) -/
  regs : Tab Word := []
  /-- Internal memory: bytes that are not zero, by internal address [R18 R453; a byte a cell; 0] -/
  mem : List Host.Cell := []
  thr : Tab Thread := []
  cores : Tab CoreSt := []
  time : Time := {}
  pkt : Pkt := {}
  keys : Keys := {}
  dma : Dma := {}
  host : HostSt := {}
  ptn : Ptn := {}
  fw : Fw := {}
  flt : Flt := {}
  dpx : Duplex := {}
  cnt : Cnt := {}
  /-- Lock releases on their way to the home island: lock, releasing thread, bundle address, slot; oldest first [R71 02; a list; none] -/
  relPend : List (Nat × Nat × Nat × Slot) := []
  life : Life := {}
  board : Board := {}
  boot : Boot := {}
  /-- What the device has emitted, newest first (the model's own record, no state of the spec) -/
  outs : List OutEv := []
  /-- Counter of the model's free values (the model's own, no state of the spec) -/
  free : Nat := 0
  deriving DecidableEq, Repr

/-- A bundle whose slot A has been offered and whose slot B may follow (R96, R98, R99): the device before the bundle, whether slot A did not issue, its slot cost, whether it was predicated off, its destination and whether it was a port instruction. -/
structure OpenBundle where
  tid : Nat
  before : Dev
  dead : Bool
  cost : Nat
  off : Bool
  dest : Nat
  port : Bool
  deriving DecidableEq, Repr

/-- The machine: the device, the bundle in issue, and the commands waiting, first in, first out. -/
structure State where
  dev : Dev
  bundle : Option OpenBundle
  pending : List Instr
  deriving DecidableEq, Repr

/-- Why a step stops with a fault. -/
inductive Fault where
  /-- Raised by a Dunval instruction whose word or bundle R96, R97, R98, R100, R101 or R103 calls illegal: PROG_LOAD refuses an image that holds it, so no thread can fetch it and the spec gives it no effect. Safe: the model stops where the spec says nothing happens. -/
  | illegalWord
  deriving DecidableEq, Repr

/-- Why a command is refused. -/
inductive Refusal where
  /-- Raised by exec's arm of a command that has no meaning yet. Safe: nothing can be proved of it. -/
  | notModelled (mnemonic : String)
  deriving DecidableEq, Repr

/-- The block right after its first power-on: VIN and VAUX have just been applied, no image has been read, firmware does not serve commands yet, every register holds its reset value, and no command waits. -/
def State.reset : State := { dev := {}, bundle := none, pending := [] }

end Sys2Proof.Machine
end

