-- ==== Sys2Proof/Machine/Regs.lean ====
section
/-! DEFINITION. Machine/Regs.lean: every register of the spec's register tables, where it stands in register space, its access code and its reset value. The tables are those of R47, R89, R177, R204, R253, R292, R320, R357, R426, R448, R479 and R500. -/
namespace Sys2Proof.Machine
open Sys2Proof

/-- A register of the device, by its name in the spec in lower camel case. An indexed register is one constructor. -/
inductive Reg where
  | timeNow0 | timeNow1 | timeNow2 | timeAddend | timeStep0 | timeStep1 | timeCtl | timeStatus
  | timeSrc | timeQual | timeHoldLimit | timeHoldRate | timeHoldRateF | timeLockThresh | timeStepLimit | timePpsOut
  | timePpsInStat | timeClkSpread | timeHwm0 | timeHwm1 | timeUtcOffset | timeSkewStat | timeHoldSecs | coreCfg
  | coreThrState | coreTbState | coreIcachePin | coreDbgCtl | coreDbgStat | coreBkpt | coreRstStat | coreEvpend
  | coreSupv | coreQuietLimit | coreClaimLease | coreDbgPart | coreQuietStat | coreFnqStat | lock | portMode
  | portPhy | portBuf | portCsum | portLink | portMaxframe | portMm | portFc | portFcThr
  | portSteer | portStatus | prsNode | prsStart | prsUser | prsUserk | prsCtl | clsFragHold
  | clsFragLife | clsFragStat | clsSteer | clsPartCfg | clsPartWtbl | clsPartStat | clsHashKey | clsHashSel
  | clsFlowSel | clsMissTimeout | clsInd | clsGrp | clsGrpMem | clsUpdData | clsUpdCmd | clsUpdStat
  | clsTdir | clsMirror | schTxqCfg | schTxqDrr | schTxqAtt | schTxqLim | schShpCfg | schShpRate
  | schShpBurst | schShpParent | schShpTok | schShpStat | schPolCfg | schPolRate | schPolBurst | schPolTok
  | schOvh | schIslStat | schIngPol | schPartEq | schPortCfg | gateStat | gateCycle | gateExt
  | gateChange0 | gateChange1 | gateChange2 | gateSkip | gateMaxwin | gateList | schUpdData | schUpdCmd
  | schUpdStat | keyStat | keyRngStat | keyBusStat | keyLogStat | keyDateStat | keyEngStat | keyEngMiss
  | keyEngAuthf | keyHoldQ | keyHoldUse | fixEngStat | fixEngUnrec | dmaChSrc | dmaChDst | dmaChCnt
  | dmaChMode | dmaChPasid | dmaChEvent | dmaChSeed | dmaChCq | dmaChCqdata | dmaChStat | dmaChOwner
  | dmaChChk | dmaIslCfg | dmaIslStat | dmaIslPollLate | ringSqBase | ringSqCfg | ringSqPoll | ringSqCons
  | ringSqRoute | ringSqInbox | ringSqDb | ringSqStat | ringSqOwner | ringSqSvc | ringCqBase | ringCqCfg
  | ringCqHead | ringCqIrq | ringCqStat | ringCqOwner | ringSliceStat | ringSliceMalRing | ringSliceMalPos | ringSliceMalWhy
  | ringPoolStat | hostLinkCfg | hostLinkStat | hostPortCfg | hostPortStat | hostFnCfg | hostFnTags | hostFnStat
  | hostFnIrq | hostWinCtl | hostWinStat | hostIntxPend | hostWinAct | hostWinStg | ptnState | ptnRstTime
  | ptnCaps | ptnDownDrop | ptnCores0 | ptnCores1 | ptnOvf | ptnStraitShare | ptnCrCiph | ptnCrFix
  | ptnCrDma | ptnBalCiph | ptnBalFix | ptnBalRd | ptnBalWr | slcState | slcVec | slcRstTime
  | slcOvfLim | slcFrzStat | mbxCfg | mbxStat | mbxTxPtr0 | mbxTxPtr1 | mbxTxLen | mbxSend
  | mbxRxPtr0 | mbxRxPtr1 | mbxRxLen | mbxDbRing | mbxDbPend | mbxDbMask | mbxFace0 | mbxFace1
  | mbxRoute | fltCfg | fltStat | fltIrq | fltInjStat | fltSafeCause | fltSafeTime | fltCpend
  | fltSev | fltCnt | fltHist | dpxCfg | dpxCycle | dpxStat | dpxLastMm | dpxSwTime
  | dpxSwitches | dpxLag | dpxCw | dpxExt | dpxExtPorts | cntWinCfg0 | cntWinCfg1 | cntWinCfg2
  | cntWinCfg3 | cntWinStat | cntWinVal | cntWinSnap | cntWinSnapTime | cntDumpCfg | cntDumpBase | cntDumpRing
  | cntDumpSlack | cntDumpRange | cntDumpStat | snapCfg | snapArmTime | snapStat | snapLatch | snapLatchHi
  | snapPin | lifeStat | lifeSeq | lifePos | lifeLast | cfgBootStat | cfgBootGen | cfgRptStat
  | cfgStageStat | cfgSupply | cfgRstCause | cfgTrial | ioSlew | ioStrap | thermCfg | thermStat
  | thermHot | thermSens
  deriving DecidableEq, Repr

/-- Access codes (R8, 00_scope.md). -/
inductive Acc where
  | rw | ro | rc | wo | w1c | w1s | rwp
  deriving DecidableEq, Repr

/-- Where a register stands and how it behaves. `isl` and `isls` are the first island and how many islands hold a copy; `dims` are the counts and strides of its indices, widest first; the index of a register counts island by island, then the indices in this order. -/
structure RegInfo where
  isl : Nat
  isls : Nat
  base : Nat
  dims : List (Nat × Nat)
  bytes : Nat
  acc : Acc
  reset : Nat
  deriving DecidableEq, Repr

/-- The register's row in its table. -/
def Reg.info : Reg → RegInfo
  | .timeNow0 => ⟨0, 8, 0x100000, [], 4, .ro, 0⟩
  | .timeNow1 => ⟨0, 8, 0x100004, [], 4, .ro, 0⟩
  | .timeNow2 => ⟨0, 8, 0x100008, [], 4, .ro, 0⟩
  | .timeAddend => ⟨0, 1, 0x100010, [], 4, .rw, 0x40000⟩
  | .timeStep0 => ⟨0, 1, 0x100018, [], 4, .rw, 0⟩
  | .timeStep1 => ⟨0, 1, 0x10001C, [], 4, .rw, 0⟩
  | .timeCtl => ⟨0, 1, 0x100020, [], 4, .rw, 0⟩
  | .timeStatus => ⟨0, 1, 0x100024, [], 4, .ro, 0⟩
  | .timeSrc => ⟨0, 1, 0x100028, [], 4, .rwp, 0x9⟩
  | .timeQual => ⟨0, 1, 0x10002C, [], 4, .ro, 0⟩
  | .timeHoldLimit => ⟨0, 1, 0x100030, [], 4, .rwp, 1000⟩
  | .timeHoldRate => ⟨0, 1, 0x100034, [], 4, .rwp, 100⟩
  | .timeHoldRateF => ⟨0, 1, 0x100038, [], 4, .rwp, 10⟩
  | .timeLockThresh => ⟨0, 1, 0x10003C, [], 4, .rwp, 50⟩
  | .timeStepLimit => ⟨0, 1, 0x100040, [], 4, .rwp, 1000⟩
  | .timePpsOut => ⟨0, 1, 0x100044, [], 4, .rwp, 0x6401⟩
  | .timePpsInStat => ⟨0, 1, 0x100048, [], 4, .rc, 0⟩
  | .timeClkSpread => ⟨0, 1, 0x10004C, [], 4, .rwp, 0x2A⟩
  | .timeHwm0 => ⟨0, 1, 0x100050, [], 4, .ro, 0⟩
  | .timeHwm1 => ⟨0, 1, 0x100054, [], 4, .ro, 0⟩
  | .timeUtcOffset => ⟨0, 1, 0x100058, [], 4, .ro, 0⟩
  | .timeSkewStat => ⟨0, 1, 0x10005C, [], 4, .ro, 0⟩
  | .timeHoldSecs => ⟨0, 1, 0x100060, [], 4, .ro, 0⟩
  | .coreCfg => ⟨2, 4, 0x200000, [(16, 0x1000)], 4, .rw, 0⟩
  | .coreThrState => ⟨2, 4, 0x200004, [(16, 0x1000)], 4, .ro, 0⟩
  | .coreTbState => ⟨2, 4, 0x200008, [(16, 0x1000)], 4, .ro, 0⟩
  | .coreIcachePin => ⟨2, 4, 0x20000C, [(16, 0x1000)], 4, .ro, 0⟩
  | .coreDbgCtl => ⟨2, 4, 0x200010, [(16, 0x1000)], 4, .rw, 0⟩
  | .coreDbgStat => ⟨2, 4, 0x200014, [(16, 0x1000)], 4, .ro, 0⟩
  | .coreBkpt => ⟨2, 4, 0x200020, [(16, 0x1000), (4, 4)], 4, .rw, 0⟩
  | .coreRstStat => ⟨2, 4, 0x200030, [(16, 0x1000)], 4, .ro, 0⟩
  | .coreEvpend => ⟨2, 4, 0x200040, [(16, 0x1000), (9, 4)], 4, .ro, 0⟩
  | .coreSupv => ⟨0, 1, 0x300000, [(8, 0x100)], 4, .rw, 0⟩
  | .coreQuietLimit => ⟨0, 1, 0x300004, [(8, 0x100)], 4, .rw, 10000⟩
  | .coreClaimLease => ⟨0, 1, 0x300008, [(8, 0x100)], 4, .rw, 1000⟩
  | .coreDbgPart => ⟨0, 1, 0x30000C, [(8, 0x100)], 4, .rw, 0⟩
  | .coreQuietStat => ⟨0, 1, 0x300010, [(8, 0x100)], 4, .ro, 0⟩
  | .coreFnqStat => ⟨0, 1, 0x300014, [(8, 0x100)], 4, .ro, 0⟩
  | .lock => ⟨2, 4, 0x400000, [(1024, 8)], 8, .rw, 0x23F00000000⟩
  | .portMode => ⟨6, 2, 0x500000, [(2, 0x1000)], 4, .rwp, 1⟩
  | .portPhy => ⟨6, 2, 0x500004, [(2, 0x1000)], 4, .rwp, 0⟩
  | .portBuf => ⟨6, 2, 0x500008, [(2, 0x1000)], 4, .rwp, 32⟩
  | .portCsum => ⟨6, 2, 0x50000C, [(2, 0x1000)], 4, .rwp, 0⟩
  | .portLink => ⟨6, 2, 0x500010, [(2, 0x1000)], 4, .ro, 0⟩
  | .portMaxframe => ⟨6, 2, 0x500100, [(2, 0x1000), (8, 0x20)], 4, .rwp, 9600⟩
  | .portMm => ⟨6, 2, 0x500104, [(2, 0x1000), (8, 0x20)], 4, .rwp, 0⟩
  | .portFc => ⟨6, 2, 0x500108, [(2, 0x1000), (8, 0x20)], 4, .rwp, 0⟩
  | .portFcThr => ⟨6, 2, 0x50010C, [(2, 0x1000), (8, 0x20)], 4, .rwp, 0x400080⟩
  | .portSteer => ⟨6, 2, 0x500110, [(2, 0x1000), (8, 0x20)], 4, .rwp, 0⟩
  | .portStatus => ⟨6, 2, 0x500114, [(2, 0x1000), (8, 0x20)], 4, .ro, 0⟩
  | .prsNode => ⟨6, 2, 0x600000, [(2, 0x800), (32, 0x40), (16, 4)], 4, .rwp, 0⟩
  | .prsStart => ⟨6, 2, 0x601000, [(16, 4)], 4, .rwp, 0⟩
  | .prsUser => ⟨6, 2, 0x601040, [(4, 4)], 4, .rwp, 0⟩
  | .prsUserk => ⟨6, 2, 0x601050, [(4, 4)], 4, .rwp, 0⟩
  | .prsCtl => ⟨6, 2, 0x601060, [], 4, .rwp, 0⟩
  | .clsFragHold => ⟨6, 2, 0x700000, [], 4, .rwp, 1000⟩
  | .clsFragLife => ⟨6, 2, 0x700004, [], 4, .rwp, 10⟩
  | .clsFragStat => ⟨6, 2, 0x700008, [], 4, .ro, 0⟩
  | .clsSteer => ⟨6, 2, 0x710000, [(4096, 0x10)], 8, .rwp, 0⟩
  | .clsPartCfg => ⟨6, 1, 0x740000, [(8, 0x8000)], 4, .rw, 0⟩
  | .clsPartWtbl => ⟨6, 1, 0x740004, [(8, 0x8000)], 4, .rw, 0⟩
  | .clsPartStat => ⟨6, 1, 0x740008, [(8, 0x8000)], 4, .ro, 0⟩
  | .clsHashKey => ⟨6, 1, 0x740010, [(8, 0x8000), (11, 4)], 4, .rw, 0⟩
  | .clsHashSel => ⟨6, 1, 0x740040, [(8, 0x8000), (3, 4)], 4, .rw, 0⟩
  | .clsFlowSel => ⟨6, 1, 0x740050, [(8, 0x8000), (8, 4)], 4, .rw, 0⟩
  | .clsMissTimeout => ⟨6, 1, 0x740070, [(8, 0x8000)], 4, .rw, 10⟩
  | .clsInd => ⟨6, 1, 0x744000, [(8, 0x8000), (4096, 4)], 4, .rw, 0⟩
  | .clsGrp => ⟨2, 4, 0x800000, [(256, 0x40)], 4, .rw, 0⟩
  | .clsGrpMem => ⟨2, 4, 0x800010, [(256, 0x40), (4, 4)], 4, .rw, 0⟩
  | .clsUpdData => ⟨2, 4, 0x810000, [(8, 0x400), (44, 4)], 4, .rw, 0⟩
  | .clsUpdCmd => ⟨2, 4, 0x8100B0, [(8, 0x400)], 4, .wo, 0⟩
  | .clsUpdStat => ⟨2, 4, 0x8100B4, [(8, 0x400)], 4, .ro, 0⟩
  | .clsTdir => ⟨0, 1, 0x900000, [(256, 0x10)], 8, .rwp, 0⟩
  | .clsMirror => ⟨0, 1, 0x910000, [(256, 8)], 8, .rwp, 0⟩
  | .schTxqCfg => ⟨6, 2, 0xA00000, [(32768, 0x10)], 4, .rwp, 0⟩
  | .schTxqDrr => ⟨6, 2, 0xA00004, [(32768, 0x10)], 4, .rw, 0x600⟩
  | .schTxqAtt => ⟨6, 2, 0xA00008, [(32768, 0x10)], 4, .rw, 0⟩
  | .schTxqLim => ⟨6, 2, 0xA0000C, [(32768, 0x10)], 4, .rw, 256⟩
  | .schShpCfg => ⟨6, 2, 0xC00000, [(8192, 0x20)], 4, .rwp, 0⟩
  | .schShpRate => ⟨6, 2, 0xC00004, [(8192, 0x20)], 4, .rw, 0⟩
  | .schShpBurst => ⟨6, 2, 0xC00008, [(8192, 0x20)], 4, .rw, 65536⟩
  | .schShpParent => ⟨6, 2, 0xC0000C, [(8192, 0x20)], 4, .rw, 0⟩
  | .schShpTok => ⟨6, 2, 0xC00010, [(8192, 0x20)], 4, .ro, 0x1000000⟩
  | .schShpStat => ⟨6, 2, 0xC00014, [(8192, 0x20)], 4, .ro, 0⟩
  | .schPolCfg => ⟨6, 2, 0xC40000, [(4096, 0x10)], 4, .rwp, 0⟩
  | .schPolRate => ⟨6, 2, 0xC40004, [(4096, 0x10)], 4, .rw, 0⟩
  | .schPolBurst => ⟨6, 2, 0xC40008, [(4096, 0x10)], 4, .rw, 65536⟩
  | .schPolTok => ⟨6, 2, 0xC4000C, [(4096, 0x10)], 4, .ro, 0x1000000⟩
  | .schOvh => ⟨6, 2, 0xC80000, [(16, 4)], 4, .rwp, 0⟩
  | .schIslStat => ⟨6, 2, 0xC80040, [], 4, .ro, 0⟩
  | .schIngPol => ⟨6, 2, 0xCA0000, [(8, 0x40), (16, 4)], 4, .rw, 0⟩
  | .schPartEq => ⟨6, 2, 0xCA0200, [(8, 4)], 4, .rwp, 0⟩
  | .schPortCfg => ⟨6, 2, 0xC90000, [(16, 0x40)], 4, .rwp, 0⟩
  | .gateStat => ⟨6, 2, 0xC90004, [(16, 0x40)], 4, .ro, 0⟩
  | .gateCycle => ⟨6, 2, 0xC90008, [(16, 0x40)], 4, .ro, 0⟩
  | .gateExt => ⟨6, 2, 0xC9000C, [(16, 0x40)], 4, .ro, 0⟩
  | .gateChange0 => ⟨6, 2, 0xC90010, [(16, 0x40)], 4, .ro, 0⟩
  | .gateChange1 => ⟨6, 2, 0xC90014, [(16, 0x40)], 4, .ro, 0⟩
  | .gateChange2 => ⟨6, 2, 0xC90018, [(16, 0x40)], 4, .ro, 0⟩
  | .gateSkip => ⟨6, 2, 0xC9001C, [(16, 0x40)], 4, .rc, 0⟩
  | .gateMaxwin => ⟨6, 2, 0xC90020, [(16, 0x40), (8, 4)], 4, .ro, 0⟩
  | .gateList => ⟨6, 2, 0xD00000, [(16, 0x4000), (2, 0x2000), (1024, 8)], 8, .ro, 0⟩
  | .schUpdData => ⟨6, 2, 0xCB0000, [(8, 0x100), (4, 4)], 4, .rw, 0⟩
  | .schUpdCmd => ⟨6, 2, 0xCB0010, [(8, 0x100)], 4, .wo, 0⟩
  | .schUpdStat => ⟨6, 2, 0xCB0014, [(8, 0x100)], 4, .ro, 0⟩
  | .keyStat => ⟨0, 1, 0xA00000, [], 4, .ro, 0⟩
  | .keyRngStat => ⟨0, 1, 0xA00004, [], 4, .ro, 0⟩
  | .keyBusStat => ⟨0, 1, 0xA00008, [], 4, .rc, 0⟩
  | .keyLogStat => ⟨0, 1, 0xA0000C, [], 4, .ro, 0⟩
  | .keyDateStat => ⟨0, 1, 0xA00010, [], 4, .ro, 0⟩
  | .keyEngStat => ⟨2, 4, 0xA00000, [], 4, .ro, 0⟩
  | .keyEngMiss => ⟨2, 4, 0xA00004, [], 4, .rc, 0⟩
  | .keyEngAuthf => ⟨2, 4, 0xA00008, [], 4, .rc, 0⟩
  | .keyHoldQ => ⟨2, 4, 0xA00020, [(8, 4)], 4, .rw, 0⟩
  | .keyHoldUse => ⟨2, 4, 0xA00040, [(8, 4)], 4, .ro, 0⟩
  | .fixEngStat => ⟨2, 4, 0xB00000, [], 4, .ro, 0⟩
  | .fixEngUnrec => ⟨2, 4, 0xB00004, [], 4, .rc, 0⟩
  | .dmaChSrc => ⟨2, 4, 0xE00000, [(256, 0x80)], 8, .ro, 0⟩
  | .dmaChDst => ⟨2, 4, 0xE00008, [(256, 0x80)], 8, .ro, 0⟩
  | .dmaChCnt => ⟨2, 4, 0xE00010, [(256, 0x80)], 4, .ro, 0⟩
  | .dmaChMode => ⟨2, 4, 0xE00014, [(256, 0x80)], 4, .ro, 0x660⟩
  | .dmaChPasid => ⟨2, 4, 0xE00018, [(256, 0x80)], 4, .ro, 0⟩
  | .dmaChEvent => ⟨2, 4, 0xE0001C, [(256, 0x80)], 4, .ro, 0⟩
  | .dmaChSeed => ⟨2, 4, 0xE00020, [(256, 0x80)], 8, .ro, 0⟩
  | .dmaChCq => ⟨2, 4, 0xE00028, [(256, 0x80)], 4, .ro, 0⟩
  | .dmaChCqdata => ⟨2, 4, 0xE0002C, [(256, 0x80)], 4, .ro, 0⟩
  | .dmaChStat => ⟨2, 4, 0xE00030, [(256, 0x80)], 8, .ro, 0⟩
  | .dmaChOwner => ⟨2, 4, 0xE00038, [(256, 0x80)], 4, .rwp, 0⟩
  | .dmaChChk => ⟨2, 4, 0xE00040, [(256, 0x80)], 8, .ro, 0⟩
  | .dmaIslCfg => ⟨2, 4, 0xE80000, [], 4, .rwp, 0x2000086⟩
  | .dmaIslStat => ⟨2, 4, 0xE80004, [], 4, .ro, 0⟩
  | .dmaIslPollLate => ⟨2, 4, 0xE80008, [], 4, .rc, 0⟩
  | .ringSqBase => ⟨2, 4, 0x1000000, [(4096, 0x40)], 8, .rw, 0⟩
  | .ringSqCfg => ⟨2, 4, 0x1000008, [(4096, 0x40)], 4, .rw, 8⟩
  | .ringSqPoll => ⟨2, 4, 0x100000C, [(4096, 0x40)], 4, .rw, 250⟩
  | .ringSqCons => ⟨2, 4, 0x1000010, [(4096, 0x40)], 8, .rw, 0⟩
  | .ringSqRoute => ⟨2, 4, 0x1000018, [(4096, 0x40)], 4, .rw, 0⟩
  | .ringSqInbox => ⟨2, 4, 0x1000020, [(4096, 0x40)], 8, .rw, 0⟩
  | .ringSqDb => ⟨2, 4, 0x1000028, [(4096, 0x40)], 4, .wo, 0⟩
  | .ringSqStat => ⟨2, 4, 0x100002C, [(4096, 0x40)], 4, .ro, 0x20000⟩
  | .ringSqOwner => ⟨2, 4, 0x1000030, [(4096, 0x40)], 4, .rwp, 0⟩
  | .ringSqSvc => ⟨2, 4, 0x1000034, [(4096, 0x40)], 4, .rw, 0⟩
  | .ringCqBase => ⟨2, 4, 0x1100000, [(4096, 0x20)], 8, .rw, 0⟩
  | .ringCqCfg => ⟨2, 4, 0x1100008, [(4096, 0x20)], 4, .rw, 8⟩
  | .ringCqHead => ⟨2, 4, 0x110000C, [(4096, 0x20)], 4, .rw, 0⟩
  | .ringCqIrq => ⟨2, 4, 0x1100010, [(4096, 0x20)], 4, .rw, 0x1000⟩
  | .ringCqStat => ⟨2, 4, 0x1100014, [(4096, 0x20)], 4, .ro, 0x10000⟩
  | .ringCqOwner => ⟨2, 4, 0x1100018, [(4096, 0x20)], 4, .rwp, 0⟩
  | .ringSliceStat => ⟨0, 1, 0xC00000, [(4096, 0x10)], 4, .ro, 0⟩
  | .ringSliceMalRing => ⟨0, 1, 0xC00004, [(4096, 0x10)], 4, .ro, 0⟩
  | .ringSliceMalPos => ⟨0, 1, 0xC00008, [(4096, 0x10)], 4, .ro, 0⟩
  | .ringSliceMalWhy => ⟨0, 1, 0xC0000C, [(4096, 0x10)], 4, .ro, 0⟩
  | .ringPoolStat => ⟨0, 1, 0xC40000, [], 4, .ro, 0⟩
  | .hostLinkCfg => ⟨1, 1, 0x2000000, [(2, 0x100)], 4, .rwp, 0x70⟩
  | .hostLinkStat => ⟨1, 1, 0x2000004, [(2, 0x100)], 4, .ro, 0⟩
  | .hostPortCfg => ⟨1, 1, 0x2010000, [(8, 0x100)], 4, .rwp, 0⟩
  | .hostPortStat => ⟨1, 1, 0x2010004, [(8, 0x100)], 4, .ro, 0⟩
  | .hostFnCfg => ⟨1, 1, 0x2100000, [(8, 0x20000), (9, 0x2000)], 4, .rwp, 0x18⟩
  | .hostFnTags => ⟨1, 1, 0x2100004, [(8, 0x20000), (9, 0x2000)], 4, .rwp, 256⟩
  | .hostFnStat => ⟨1, 1, 0x2100008, [(8, 0x20000), (9, 0x2000)], 4, .ro, 0⟩
  | .hostFnIrq => ⟨1, 1, 0x210000C, [(8, 0x20000), (9, 0x2000)], 4, .ro, 0⟩
  | .hostWinCtl => ⟨1, 1, 0x2100010, [(8, 0x20000), (9, 0x2000)], 4, .wo, 0⟩
  | .hostWinStat => ⟨1, 1, 0x2100014, [(8, 0x20000), (9, 0x2000)], 4, .ro, 0⟩
  | .hostIntxPend => ⟨1, 1, 0x2100100, [(8, 0x20000), (9, 0x2000), (64, 4)], 4, .w1c, 0⟩
  | .hostWinAct => ⟨1, 1, 0x2101000, [(8, 0x20000), (9, 0x2000), (256, 8)], 8, .ro, 0⟩
  | .hostWinStg => ⟨1, 1, 0x2101800, [(8, 0x20000), (9, 0x2000), (256, 8)], 8, .rw, 0⟩
  | .ptnState => ⟨0, 1, 0x500000, [(8, 0x100)], 4, .ro, 0⟩
  | .ptnRstTime => ⟨0, 1, 0x500004, [(8, 0x100)], 4, .ro, 0⟩
  | .ptnCaps => ⟨0, 1, 0x500008, [(8, 0x100)], 4, .ro, 0⟩
  | .ptnDownDrop => ⟨0, 1, 0x50000C, [(8, 0x100)], 4, .rc, 0⟩
  | .ptnCores0 => ⟨0, 1, 0x500010, [(8, 0x100)], 4, .ro, 0⟩
  | .ptnCores1 => ⟨0, 1, 0x500014, [(8, 0x100)], 4, .ro, 0⟩
  | .ptnOvf => ⟨0, 1, 0x500018, [(8, 0x100)], 4, .ro, 0⟩
  | .ptnStraitShare => ⟨0, 1, 0x50001C, [(8, 0x100)], 4, .ro, 0⟩
  | .ptnCrCiph => ⟨2, 4, 0xF00000, [(8, 0x20)], 4, .ro, 0⟩
  | .ptnCrFix => ⟨2, 4, 0xF00004, [(8, 0x20)], 4, .ro, 0⟩
  | .ptnCrDma => ⟨2, 4, 0xF00008, [(8, 0x20)], 4, .ro, 0⟩
  | .ptnBalCiph => ⟨2, 4, 0xF0000C, [(8, 0x20)], 4, .ro, 0⟩
  | .ptnBalFix => ⟨2, 4, 0xF00010, [(8, 0x20)], 4, .ro, 0⟩
  | .ptnBalRd => ⟨2, 4, 0xF00014, [(8, 0x20)], 4, .ro, 0⟩
  | .ptnBalWr => ⟨2, 4, 0xF00018, [(8, 0x20)], 4, .ro, 0⟩
  | .slcState => ⟨0, 1, 0x600000, [(4096, 0x20)], 4, .ro, 0⟩
  | .slcVec => ⟨0, 1, 0x600004, [(4096, 0x20)], 4, .ro, 0⟩
  | .slcRstTime => ⟨0, 1, 0x600008, [(4096, 0x20)], 4, .ro, 0⟩
  | .slcOvfLim => ⟨0, 1, 0x60000C, [(4096, 0x20)], 4, .ro, 0⟩
  | .slcFrzStat => ⟨0, 1, 0x600010, [(4096, 0x20)], 4, .ro, 0⟩
  | .mbxCfg => ⟨0, 1, 0x3000000, [(8192, 0x40)], 4, .ro, 0⟩
  | .mbxStat => ⟨0, 1, 0x3000004, [(8192, 0x40)], 4, .w1c, 0⟩
  | .mbxTxPtr0 => ⟨0, 1, 0x3000008, [(8192, 0x40)], 4, .rw, 0⟩
  | .mbxTxPtr1 => ⟨0, 1, 0x300000C, [(8192, 0x40)], 4, .rw, 0⟩
  | .mbxTxLen => ⟨0, 1, 0x3000010, [(8192, 0x40)], 4, .rw, 0⟩
  | .mbxSend => ⟨0, 1, 0x3000014, [(8192, 0x40)], 4, .wo, 0⟩
  | .mbxRxPtr0 => ⟨0, 1, 0x3000018, [(8192, 0x40)], 4, .ro, 0⟩
  | .mbxRxPtr1 => ⟨0, 1, 0x300001C, [(8192, 0x40)], 4, .ro, 0⟩
  | .mbxRxLen => ⟨0, 1, 0x3000020, [(8192, 0x40)], 4, .ro, 0⟩
  | .mbxDbRing => ⟨0, 1, 0x3000024, [(8192, 0x40)], 4, .w1s, 0⟩
  | .mbxDbPend => ⟨0, 1, 0x3000028, [(8192, 0x40)], 4, .w1c, 0⟩
  | .mbxDbMask => ⟨0, 1, 0x300002C, [(8192, 0x40)], 4, .rw, 0xFFFFFFFF⟩
  | .mbxFace0 => ⟨0, 1, 0x3000030, [(8192, 0x40)], 4, .ro, 0⟩
  | .mbxFace1 => ⟨0, 1, 0x3000034, [(8192, 0x40)], 4, .ro, 0⟩
  | .mbxRoute => ⟨0, 1, 0x3200000, [(8192, 0x80), (32, 4)], 4, .rw, 0⟩
  | .fltCfg => ⟨0, 1, 0x4000000, [], 4, .rwp, 1⟩
  | .fltStat => ⟨0, 1, 0x4000004, [], 4, .ro, 0⟩
  | .fltIrq => ⟨0, 1, 0x4000008, [], 4, .rwp, 0x800⟩
  | .fltInjStat => ⟨0, 1, 0x400000C, [], 4, .ro, 0⟩
  | .fltSafeCause => ⟨0, 1, 0x4000010, [], 4, .ro, 0⟩
  | .fltSafeTime => ⟨0, 1, 0x4000018, [], 8, .ro, 0⟩
  | .fltCpend => ⟨0, 1, 0x4000040, [(16, 4)], 4, .ro, 0⟩
  | .fltSev => ⟨0, 1, 0x4000100, [(128, 4)], 4, .rwp, 0⟩
  | .fltCnt => ⟨0, 1, 0x4000400, [(2048, 4)], 4, .ro, 0⟩
  | .fltHist => ⟨0, 1, 0x4002400, [(16, 32), (4, 8)], 8, .ro, 0⟩
  | .dpxCfg => ⟨0, 1, 0x4100000, [(8, 0x40)], 4, .ro, 0⟩
  | .dpxCycle => ⟨0, 1, 0x4100004, [(8, 0x40)], 4, .ro, 10000⟩
  | .dpxStat => ⟨0, 1, 0x4100008, [(8, 0x40)], 4, .ro, 0⟩
  | .dpxLastMm => ⟨0, 1, 0x410000C, [(8, 0x40)], 4, .ro, 0⟩
  | .dpxSwTime => ⟨0, 1, 0x4100010, [(8, 0x40)], 8, .ro, 0⟩
  | .dpxSwitches => ⟨0, 1, 0x4100018, [(8, 0x40)], 4, .ro, 0⟩
  | .dpxLag => ⟨0, 1, 0x410001C, [(8, 0x40)], 4, .ro, 0⟩
  | .dpxCw => ⟨0, 1, 0x4100020, [(8, 0x40)], 4, .ro, 0⟩
  | .dpxExt => ⟨0, 1, 0x4100200, [], 4, .rwp, 0⟩
  | .dpxExtPorts => ⟨0, 1, 0x4100204, [], 4, .rwp, 0⟩
  | .cntWinCfg0 => ⟨0, 1, 0x6400000, [(1024, 0x1000)], 4, .rw, 0⟩
  | .cntWinCfg1 => ⟨0, 1, 0x6400004, [(1024, 0x1000)], 4, .rw, 0⟩
  | .cntWinCfg2 => ⟨0, 1, 0x6400008, [(1024, 0x1000)], 4, .rw, 0⟩
  | .cntWinCfg3 => ⟨0, 1, 0x640000C, [(1024, 0x1000)], 4, .rw, 0⟩
  | .cntWinStat => ⟨0, 1, 0x6400010, [(1024, 0x1000)], 4, .ro, 0⟩
  | .cntWinVal => ⟨0, 1, 0x6400200, [(1024, 0x1000), (64, 8)], 8, .ro, 0⟩
  | .cntWinSnap => ⟨0, 1, 0x6400600, [(1024, 0x1000), (64, 8)], 8, .ro, 0⟩
  | .cntWinSnapTime => ⟨0, 1, 0x6400800, [(1024, 0x1000)], 8, .ro, 0⟩
  | .cntDumpCfg => ⟨0, 1, 0x6800000, [], 4, .rwp, 0⟩
  | .cntDumpBase => ⟨0, 1, 0x6800008, [], 8, .rwp, 0⟩
  | .cntDumpRing => ⟨0, 1, 0x6800010, [], 4, .rwp, 4⟩
  | .cntDumpSlack => ⟨0, 1, 0x6800014, [], 4, .rwp, 100⟩
  | .cntDumpRange => ⟨0, 1, 0x6800020, [(8, 4)], 4, .rwp, 0⟩
  | .cntDumpStat => ⟨0, 1, 0x6800040, [], 8, .ro, 0⟩
  | .snapCfg => ⟨0, 1, 0x6900000, [], 4, .ro, 0⟩
  | .snapArmTime => ⟨0, 1, 0x6900008, [], 8, .ro, 0⟩
  | .snapStat => ⟨0, 1, 0x6900010, [], 4, .ro, 0⟩
  | .snapLatch => ⟨0, 1, 0x6900018, [], 8, .ro, 0⟩
  | .snapLatchHi => ⟨0, 1, 0x6900020, [], 4, .ro, 0⟩
  | .snapPin => ⟨0, 1, 0x6900028, [], 8, .ro, 0⟩
  | .lifeStat => ⟨0, 1, 0x6A00000, [], 4, .ro, 0⟩
  | .lifeSeq => ⟨0, 1, 0x6A00008, [], 8, .ro, 0⟩
  | .lifePos => ⟨0, 1, 0x6A00010, [], 4, .ro, 0⟩
  | .lifeLast => ⟨0, 1, 0x6A00018, [], 8, .ro, 0⟩
  | .cfgBootStat => ⟨0, 1, 0x7000000, [], 4, .ro, 0x10⟩
  | .cfgBootGen => ⟨0, 1, 0x7000008, [], 8, .ro, 0⟩
  | .cfgRptStat => ⟨0, 1, 0x7000010, [], 4, .ro, 0⟩
  | .cfgStageStat => ⟨0, 1, 0x7000014, [], 4, .ro, 0⟩
  | .cfgSupply => ⟨0, 1, 0x7000018, [], 4, .ro, 0⟩
  | .cfgRstCause => ⟨0, 1, 0x700001C, [], 4, .ro, 0⟩
  | .cfgTrial => ⟨0, 1, 0x7000020, [], 4, .ro, 0⟩
  | .ioSlew => ⟨0, 1, 0x7100000, [], 4, .rwp, 0⟩
  | .ioStrap => ⟨0, 1, 0x7100004, [], 4, .ro, 0x1A0⟩
  | .thermCfg => ⟨0, 1, 0x7200000, [], 4, .rwp, 0x1A09891⟩
  | .thermStat => ⟨0, 1, 0x7200004, [], 4, .ro, 0⟩
  | .thermHot => ⟨0, 1, 0x7200010, [(8, 4)], 4, .ro, 0⟩
  | .thermSens => ⟨0, 1, 0x7200040, [(32, 4)], 4, .ro, 0⟩

/-- Registers 0 to 15. -/
def regs0 : List Reg := [Reg.timeNow0, Reg.timeNow1, Reg.timeNow2, Reg.timeAddend, Reg.timeStep0, Reg.timeStep1, Reg.timeCtl, Reg.timeStatus, Reg.timeSrc, Reg.timeQual, Reg.timeHoldLimit, Reg.timeHoldRate, Reg.timeHoldRateF, Reg.timeLockThresh, Reg.timeStepLimit, Reg.timePpsOut]

/-- Registers 16 to 31. -/
def regs1 : List Reg := [Reg.timePpsInStat, Reg.timeClkSpread, Reg.timeHwm0, Reg.timeHwm1, Reg.timeUtcOffset, Reg.timeSkewStat, Reg.timeHoldSecs, Reg.coreCfg, Reg.coreThrState, Reg.coreTbState, Reg.coreIcachePin, Reg.coreDbgCtl, Reg.coreDbgStat, Reg.coreBkpt, Reg.coreRstStat, Reg.coreEvpend]

/-- Registers 32 to 47. -/
def regs2 : List Reg := [Reg.coreSupv, Reg.coreQuietLimit, Reg.coreClaimLease, Reg.coreDbgPart, Reg.coreQuietStat, Reg.coreFnqStat, Reg.lock, Reg.portMode, Reg.portPhy, Reg.portBuf, Reg.portCsum, Reg.portLink, Reg.portMaxframe, Reg.portMm, Reg.portFc, Reg.portFcThr]

/-- Registers 48 to 63. -/
def regs3 : List Reg := [Reg.portSteer, Reg.portStatus, Reg.prsNode, Reg.prsStart, Reg.prsUser, Reg.prsUserk, Reg.prsCtl, Reg.clsFragHold, Reg.clsFragLife, Reg.clsFragStat, Reg.clsSteer, Reg.clsPartCfg, Reg.clsPartWtbl, Reg.clsPartStat, Reg.clsHashKey, Reg.clsHashSel]

/-- Registers 64 to 79. -/
def regs4 : List Reg := [Reg.clsFlowSel, Reg.clsMissTimeout, Reg.clsInd, Reg.clsGrp, Reg.clsGrpMem, Reg.clsUpdData, Reg.clsUpdCmd, Reg.clsUpdStat, Reg.clsTdir, Reg.clsMirror, Reg.schTxqCfg, Reg.schTxqDrr, Reg.schTxqAtt, Reg.schTxqLim, Reg.schShpCfg, Reg.schShpRate]

/-- Registers 80 to 95. -/
def regs5 : List Reg := [Reg.schShpBurst, Reg.schShpParent, Reg.schShpTok, Reg.schShpStat, Reg.schPolCfg, Reg.schPolRate, Reg.schPolBurst, Reg.schPolTok, Reg.schOvh, Reg.schIslStat, Reg.schIngPol, Reg.schPartEq, Reg.schPortCfg, Reg.gateStat, Reg.gateCycle, Reg.gateExt]

/-- Registers 96 to 111. -/
def regs6 : List Reg := [Reg.gateChange0, Reg.gateChange1, Reg.gateChange2, Reg.gateSkip, Reg.gateMaxwin, Reg.gateList, Reg.schUpdData, Reg.schUpdCmd, Reg.schUpdStat, Reg.keyStat, Reg.keyRngStat, Reg.keyBusStat, Reg.keyLogStat, Reg.keyDateStat, Reg.keyEngStat, Reg.keyEngMiss]

/-- Registers 112 to 127. -/
def regs7 : List Reg := [Reg.keyEngAuthf, Reg.keyHoldQ, Reg.keyHoldUse, Reg.fixEngStat, Reg.fixEngUnrec, Reg.dmaChSrc, Reg.dmaChDst, Reg.dmaChCnt, Reg.dmaChMode, Reg.dmaChPasid, Reg.dmaChEvent, Reg.dmaChSeed, Reg.dmaChCq, Reg.dmaChCqdata, Reg.dmaChStat, Reg.dmaChOwner]

/-- Registers 128 to 143. -/
def regs8 : List Reg := [Reg.dmaChChk, Reg.dmaIslCfg, Reg.dmaIslStat, Reg.dmaIslPollLate, Reg.ringSqBase, Reg.ringSqCfg, Reg.ringSqPoll, Reg.ringSqCons, Reg.ringSqRoute, Reg.ringSqInbox, Reg.ringSqDb, Reg.ringSqStat, Reg.ringSqOwner, Reg.ringSqSvc, Reg.ringCqBase, Reg.ringCqCfg]

/-- Registers 144 to 159. -/
def regs9 : List Reg := [Reg.ringCqHead, Reg.ringCqIrq, Reg.ringCqStat, Reg.ringCqOwner, Reg.ringSliceStat, Reg.ringSliceMalRing, Reg.ringSliceMalPos, Reg.ringSliceMalWhy, Reg.ringPoolStat, Reg.hostLinkCfg, Reg.hostLinkStat, Reg.hostPortCfg, Reg.hostPortStat, Reg.hostFnCfg, Reg.hostFnTags, Reg.hostFnStat]

/-- Registers 160 to 175. -/
def regs10 : List Reg := [Reg.hostFnIrq, Reg.hostWinCtl, Reg.hostWinStat, Reg.hostIntxPend, Reg.hostWinAct, Reg.hostWinStg, Reg.ptnState, Reg.ptnRstTime, Reg.ptnCaps, Reg.ptnDownDrop, Reg.ptnCores0, Reg.ptnCores1, Reg.ptnOvf, Reg.ptnStraitShare, Reg.ptnCrCiph, Reg.ptnCrFix]

/-- Registers 176 to 191. -/
def regs11 : List Reg := [Reg.ptnCrDma, Reg.ptnBalCiph, Reg.ptnBalFix, Reg.ptnBalRd, Reg.ptnBalWr, Reg.slcState, Reg.slcVec, Reg.slcRstTime, Reg.slcOvfLim, Reg.slcFrzStat, Reg.mbxCfg, Reg.mbxStat, Reg.mbxTxPtr0, Reg.mbxTxPtr1, Reg.mbxTxLen, Reg.mbxSend]

/-- Registers 192 to 207. -/
def regs12 : List Reg := [Reg.mbxRxPtr0, Reg.mbxRxPtr1, Reg.mbxRxLen, Reg.mbxDbRing, Reg.mbxDbPend, Reg.mbxDbMask, Reg.mbxFace0, Reg.mbxFace1, Reg.mbxRoute, Reg.fltCfg, Reg.fltStat, Reg.fltIrq, Reg.fltInjStat, Reg.fltSafeCause, Reg.fltSafeTime, Reg.fltCpend]

/-- Registers 208 to 223. -/
def regs13 : List Reg := [Reg.fltSev, Reg.fltCnt, Reg.fltHist, Reg.dpxCfg, Reg.dpxCycle, Reg.dpxStat, Reg.dpxLastMm, Reg.dpxSwTime, Reg.dpxSwitches, Reg.dpxLag, Reg.dpxCw, Reg.dpxExt, Reg.dpxExtPorts, Reg.cntWinCfg0, Reg.cntWinCfg1, Reg.cntWinCfg2]

/-- Registers 224 to 239. -/
def regs14 : List Reg := [Reg.cntWinCfg3, Reg.cntWinStat, Reg.cntWinVal, Reg.cntWinSnap, Reg.cntWinSnapTime, Reg.cntDumpCfg, Reg.cntDumpBase, Reg.cntDumpRing, Reg.cntDumpSlack, Reg.cntDumpRange, Reg.cntDumpStat, Reg.snapCfg, Reg.snapArmTime, Reg.snapStat, Reg.snapLatch, Reg.snapLatchHi]

/-- Registers 240 to 255. -/
def regs15 : List Reg := [Reg.snapPin, Reg.lifeStat, Reg.lifeSeq, Reg.lifePos, Reg.lifeLast, Reg.cfgBootStat, Reg.cfgBootGen, Reg.cfgRptStat, Reg.cfgStageStat, Reg.cfgSupply, Reg.cfgRstCause, Reg.cfgTrial, Reg.ioSlew, Reg.ioStrap, Reg.thermCfg, Reg.thermStat]

/-- Registers 256 to 257. -/
def regs16 : List Reg := [Reg.thermHot, Reg.thermSens]

/-- Every register. -/
def allRegs : List Reg :=
  List.flatten [regs0, regs1, regs2, regs3, regs4, regs5, regs6, regs7, regs8, regs9, regs10, regs11, regs12, regs13, regs14, regs15, regs16]

/-- The number of a register among `allRegs`, from 0. -/
def Reg.code : Reg → Nat
  | .timeNow0 => 0
  | .timeNow1 => 1
  | .timeNow2 => 2
  | .timeAddend => 3
  | .timeStep0 => 4
  | .timeStep1 => 5
  | .timeCtl => 6
  | .timeStatus => 7
  | .timeSrc => 8
  | .timeQual => 9
  | .timeHoldLimit => 10
  | .timeHoldRate => 11
  | .timeHoldRateF => 12
  | .timeLockThresh => 13
  | .timeStepLimit => 14
  | .timePpsOut => 15
  | .timePpsInStat => 16
  | .timeClkSpread => 17
  | .timeHwm0 => 18
  | .timeHwm1 => 19
  | .timeUtcOffset => 20
  | .timeSkewStat => 21
  | .timeHoldSecs => 22
  | .coreCfg => 23
  | .coreThrState => 24
  | .coreTbState => 25
  | .coreIcachePin => 26
  | .coreDbgCtl => 27
  | .coreDbgStat => 28
  | .coreBkpt => 29
  | .coreRstStat => 30
  | .coreEvpend => 31
  | .coreSupv => 32
  | .coreQuietLimit => 33
  | .coreClaimLease => 34
  | .coreDbgPart => 35
  | .coreQuietStat => 36
  | .coreFnqStat => 37
  | .lock => 38
  | .portMode => 39
  | .portPhy => 40
  | .portBuf => 41
  | .portCsum => 42
  | .portLink => 43
  | .portMaxframe => 44
  | .portMm => 45
  | .portFc => 46
  | .portFcThr => 47
  | .portSteer => 48
  | .portStatus => 49
  | .prsNode => 50
  | .prsStart => 51
  | .prsUser => 52
  | .prsUserk => 53
  | .prsCtl => 54
  | .clsFragHold => 55
  | .clsFragLife => 56
  | .clsFragStat => 57
  | .clsSteer => 58
  | .clsPartCfg => 59
  | .clsPartWtbl => 60
  | .clsPartStat => 61
  | .clsHashKey => 62
  | .clsHashSel => 63
  | .clsFlowSel => 64
  | .clsMissTimeout => 65
  | .clsInd => 66
  | .clsGrp => 67
  | .clsGrpMem => 68
  | .clsUpdData => 69
  | .clsUpdCmd => 70
  | .clsUpdStat => 71
  | .clsTdir => 72
  | .clsMirror => 73
  | .schTxqCfg => 74
  | .schTxqDrr => 75
  | .schTxqAtt => 76
  | .schTxqLim => 77
  | .schShpCfg => 78
  | .schShpRate => 79
  | .schShpBurst => 80
  | .schShpParent => 81
  | .schShpTok => 82
  | .schShpStat => 83
  | .schPolCfg => 84
  | .schPolRate => 85
  | .schPolBurst => 86
  | .schPolTok => 87
  | .schOvh => 88
  | .schIslStat => 89
  | .schIngPol => 90
  | .schPartEq => 91
  | .schPortCfg => 92
  | .gateStat => 93
  | .gateCycle => 94
  | .gateExt => 95
  | .gateChange0 => 96
  | .gateChange1 => 97
  | .gateChange2 => 98
  | .gateSkip => 99
  | .gateMaxwin => 100
  | .gateList => 101
  | .schUpdData => 102
  | .schUpdCmd => 103
  | .schUpdStat => 104
  | .keyStat => 105
  | .keyRngStat => 106
  | .keyBusStat => 107
  | .keyLogStat => 108
  | .keyDateStat => 109
  | .keyEngStat => 110
  | .keyEngMiss => 111
  | .keyEngAuthf => 112
  | .keyHoldQ => 113
  | .keyHoldUse => 114
  | .fixEngStat => 115
  | .fixEngUnrec => 116
  | .dmaChSrc => 117
  | .dmaChDst => 118
  | .dmaChCnt => 119
  | .dmaChMode => 120
  | .dmaChPasid => 121
  | .dmaChEvent => 122
  | .dmaChSeed => 123
  | .dmaChCq => 124
  | .dmaChCqdata => 125
  | .dmaChStat => 126
  | .dmaChOwner => 127
  | .dmaChChk => 128
  | .dmaIslCfg => 129
  | .dmaIslStat => 130
  | .dmaIslPollLate => 131
  | .ringSqBase => 132
  | .ringSqCfg => 133
  | .ringSqPoll => 134
  | .ringSqCons => 135
  | .ringSqRoute => 136
  | .ringSqInbox => 137
  | .ringSqDb => 138
  | .ringSqStat => 139
  | .ringSqOwner => 140
  | .ringSqSvc => 141
  | .ringCqBase => 142
  | .ringCqCfg => 143
  | .ringCqHead => 144
  | .ringCqIrq => 145
  | .ringCqStat => 146
  | .ringCqOwner => 147
  | .ringSliceStat => 148
  | .ringSliceMalRing => 149
  | .ringSliceMalPos => 150
  | .ringSliceMalWhy => 151
  | .ringPoolStat => 152
  | .hostLinkCfg => 153
  | .hostLinkStat => 154
  | .hostPortCfg => 155
  | .hostPortStat => 156
  | .hostFnCfg => 157
  | .hostFnTags => 158
  | .hostFnStat => 159
  | .hostFnIrq => 160
  | .hostWinCtl => 161
  | .hostWinStat => 162
  | .hostIntxPend => 163
  | .hostWinAct => 164
  | .hostWinStg => 165
  | .ptnState => 166
  | .ptnRstTime => 167
  | .ptnCaps => 168
  | .ptnDownDrop => 169
  | .ptnCores0 => 170
  | .ptnCores1 => 171
  | .ptnOvf => 172
  | .ptnStraitShare => 173
  | .ptnCrCiph => 174
  | .ptnCrFix => 175
  | .ptnCrDma => 176
  | .ptnBalCiph => 177
  | .ptnBalFix => 178
  | .ptnBalRd => 179
  | .ptnBalWr => 180
  | .slcState => 181
  | .slcVec => 182
  | .slcRstTime => 183
  | .slcOvfLim => 184
  | .slcFrzStat => 185
  | .mbxCfg => 186
  | .mbxStat => 187
  | .mbxTxPtr0 => 188
  | .mbxTxPtr1 => 189
  | .mbxTxLen => 190
  | .mbxSend => 191
  | .mbxRxPtr0 => 192
  | .mbxRxPtr1 => 193
  | .mbxRxLen => 194
  | .mbxDbRing => 195
  | .mbxDbPend => 196
  | .mbxDbMask => 197
  | .mbxFace0 => 198
  | .mbxFace1 => 199
  | .mbxRoute => 200
  | .fltCfg => 201
  | .fltStat => 202
  | .fltIrq => 203
  | .fltInjStat => 204
  | .fltSafeCause => 205
  | .fltSafeTime => 206
  | .fltCpend => 207
  | .fltSev => 208
  | .fltCnt => 209
  | .fltHist => 210
  | .dpxCfg => 211
  | .dpxCycle => 212
  | .dpxStat => 213
  | .dpxLastMm => 214
  | .dpxSwTime => 215
  | .dpxSwitches => 216
  | .dpxLag => 217
  | .dpxCw => 218
  | .dpxExt => 219
  | .dpxExtPorts => 220
  | .cntWinCfg0 => 221
  | .cntWinCfg1 => 222
  | .cntWinCfg2 => 223
  | .cntWinCfg3 => 224
  | .cntWinStat => 225
  | .cntWinVal => 226
  | .cntWinSnap => 227
  | .cntWinSnapTime => 228
  | .cntDumpCfg => 229
  | .cntDumpBase => 230
  | .cntDumpRing => 231
  | .cntDumpSlack => 232
  | .cntDumpRange => 233
  | .cntDumpStat => 234
  | .snapCfg => 235
  | .snapArmTime => 236
  | .snapStat => 237
  | .snapLatch => 238
  | .snapLatchHi => 239
  | .snapPin => 240
  | .lifeStat => 241
  | .lifeSeq => 242
  | .lifePos => 243
  | .lifeLast => 244
  | .cfgBootStat => 245
  | .cfgBootGen => 246
  | .cfgRptStat => 247
  | .cfgStageStat => 248
  | .cfgSupply => 249
  | .cfgRstCause => 250
  | .cfgTrial => 251
  | .ioSlew => 252
  | .ioStrap => 253
  | .thermCfg => 254
  | .thermStat => 255
  | .thermHot => 256
  | .thermSens => 257

/-- The default severity of a fault source (R394, 11_faults_and_duplex.md); a reserved source has 0. -/
def sevDefault (n : Nat) : Nat :=
  let i := n % 128
  match n / 128 with
  | 0 => [2, 1, 3].getD i 0
  | 1 => if i < 3 then [1, 2, 3].getD i 0 else if 8 ≤ i ∧ i < 16 then 1 else if 16 ≤ i ∧ i < 24 then 3 else 0
  | 2 => if i < 3 then 1 else if 8 ≤ i ∧ i < 16 then 2 else 0
  | 3 => if 32 ≤ i ∧ i < 55 then 3 else 0
  | 4 => if i % 2 = 1 then 2 else 0
  | 5 => if i < 9 ∨ (16 ≤ i ∧ i < 19) then 1 else 0
  | 7 => [1, 0, 1, 2, 0, 3, 2].getD i 0
  | 8 => [1, 0, 1].getD i 0
  | 9 => [1, 0, 0].getD i 0
  | 10 => [0, 0, 1].getD i 0
  | 11 => [0, 2, 2, 1, 1, 1, 0, 2].getD i 0
  | _ => 0

/-- FLT_SEV_i with the default severities of its sixteen sources (R426). -/
def sevWord (i : Nat) : Nat := (List.range 16).foldl (fun a j => a + sevDefault (16 * i + j) * 4 ^ j) 0

/-- The value of a register's copy after the resets that reinitialise it (R9). -/
def Reg.resetAt (r : Reg) (i : Nat) : Word :=
  BitVec.ofNat 64 (match r with
    | .fltSev => sevWord i
    | .schOvh => if i % 16 = 0 then 20 else 0
    | _ => r.info.reset)

/-- The key under which a register's copy is listed. -/
def regKey (r : Reg) (i : Nat) : Nat := i * 512 + r.code

/-- What a register's copy holds. -/
def Dev.reg (d : Dev) (r : Reg) (i : Nat) : Word := tabGet d.regs (r.resetAt i) (regKey r i)

/-- The device with a register's copy set. A copy at its reset value is not listed. -/
def Dev.setReg (d : Dev) (r : Reg) (i : Nat) (v : Word) : Dev :=
  { d with regs := tabPut d.regs (r.resetAt i) (regKey r i) v }

/-- A field of a register's copy. -/
def Dev.rf (d : Dev) (r : Reg) (i lo width : Nat) : Nat := wf (d.reg r i) lo width

/-- One bit of a register's copy. -/
def Dev.rb (d : Dev) (r : Reg) (i lo : Nat) : Bool := wbit (d.reg r i) lo

/-- The device with a field of a register's copy set. -/
def Dev.setRf (d : Dev) (r : Reg) (i lo width x : Nat) : Dev := d.setReg r i (wset (d.reg r i) lo width x)

/-- The device with one bit of a register's copy set or cleared. -/
def Dev.setRb (d : Dev) (r : Reg) (i lo : Nat) (b : Bool) : Dev := d.setReg r i (wsetBit (d.reg r i) lo b)

/-- A count in a register's field moved up by `n`, saturating at the field's largest value. -/
def Dev.incRf (d : Dev) (r : Reg) (i lo width n : Nat) : Dev :=
  d.setRf r i lo width (Nat.min (d.rf r i lo width + n) (2 ^ width - 1))

/-- The device with a register's copy at its reset value. -/
def Dev.resetReg (d : Dev) (r : Reg) (i : Nat) : Dev := { d with regs := tabDel (regKey r i) d.regs }

/-- The device with every copy of the listed registers at its reset value. -/
def Dev.resetAll (d : Dev) (rs : List Reg) : Dev :=
  let codes := rs.map Reg.code
  { d with regs := d.regs.filter (fun e => !codes.contains (e.1 % 512)) }

/-- The device with those copies of the listed registers at their reset values whose index a test accepts. -/
def Dev.resetWhere (d : Dev) (rs : List Reg) (p : Reg → Nat → Bool) : Dev :=
  { d with regs := d.regs.filter (fun e => !(rs.any (fun r => r.code == e.1 % 512 && p r (e.1 / 512)))) }

/-- The indices an offset gives against counts and strides, and the rest. -/
def dimIndex : List (Nat × Nat) → Nat → Nat → Option (Nat × Nat)
  | [], rem, acc => some (acc, rem)
  | (n, st) :: ds, rem, acc => if rem / st < n then dimIndex ds (rem % st) (acc * n + rem / st) else none

/-- How many copies of a register one island holds. -/
def RegInfo.perIsland (f : RegInfo) : Nat := f.dims.foldl (fun a e => a * e.1) 1

/-- Whether an offset of an island's register space is a register's: its index and the byte within it. -/
def Reg.atOffset (r : Reg) (isl off : Nat) : Option (Nat × Nat) :=
  let f := r.info
  if isl < f.isl || f.isl + f.isls ≤ isl || off < f.base then none
  else match dimIndex f.dims (off - f.base) 0 with
    | some (i, rem) => if rem < f.bytes then some ((isl - f.isl) * f.perIsland + i, rem) else none
    | none => none

/-- The register at an offset of an island's register space (R18), its index and the byte within it. -/
def regAt (isl off : Nat) : Option (Reg × Nat × Nat) :=
  allRegs.findSome? (fun r => (r.atOffset isl off).map (fun x => (r, x)))

end Sys2Proof.Machine
end

