-- ==== Sys2Proof/Machine/Ops.lean ====
section
/-! DEFINITION. Machine/Ops.lean: the operations every unit shares: outputs and free values, device time, counters, thread identities, fault reports, memory and access rights, event lines. -/
namespace Sys2Proof.Machine
open Sys2Proof

/-! ## Outputs and free values -/

/-- The device emits something to the outside. -/
def Dev.emit (d : Dev) (o : OutEv) : Dev := { d with outs := o :: d.outs }

/-- A fresh free value of 64 bits, and the device with the draw counted. -/
def Dev.fresh (d : Dev) : Word × Dev := (Config.freeValue d.free, { d with free := d.free + 1 })

/-- `n` fresh random bytes (R214), and the device with the draw counted. -/
def Dev.random (d : Dev) (n : Nat) : List Byte × Dev :=
  ((List.range n).map (Config.randomByte d.free), { d with free := d.free + 1 })

/-! ## Device time (R21, R105) -/

/-- Nanoseconds in a second. -/
def nsPerSec : Nat := 1000000000

/-- Device time in whole nanoseconds. -/
def Dev.ns (d : Dev) : Nat := d.time.now / 65536

/-- Seconds of device time. -/
def Dev.sec (d : Dev) : Nat := d.ns / nsPerSec

/-- An island's copy of device time in 2^-16 ns (R24, R25). -/
def Dev.islNow (d : Dev) (isl : Nat) : Nat := ((d.time.now : Int) + tabGet d.time.skew 0 isl).toNat

/-- An island's copy of device time in whole nanoseconds: what its events compare with (R26). -/
def Dev.islNs (d : Dev) (isl : Nat) : Nat := d.islNow isl / 65536

/-- The largest device time, in nanoseconds: the seconds field has 48 bits (R21). -/
def maxNs : Nat := 2 ^ 48 * nsPerSec - 1

/-- The time word of a time in nanoseconds (R105). -/
def timeWord (ns : Nat) : Word := BitVec.ofNat 64 ((ns / nsPerSec) % 2 ^ 32 * 2 ^ 32 + ns % nsPerSec)

/-- The 96-bit device time of R21 for a time in 2^-16 ns. -/
def packTime (t : Nat) : Nat :=
  let ns := t / 65536
  (ns / nsPerSec) * 2 ^ 48 + (ns % nsPerSec) * 2 ^ 16 + t % 65536

/-- R105: a time word whose nanoseconds field is below 1,000,000,000. -/
def timeWordOk (w : Word) : Bool := w.toNat % 2 ^ 32 < nsPerSec

/-- R105 expand: the time in nanoseconds a time word names, nearest to the present second. -/
def expandTime (nowSec : Nat) (w : Word) : Nat :=
  let s0 := nowSec / 2 ^ 32 * 2 ^ 32 + w.toNat / 2 ^ 32
  let s1 := if s0 > nowSec + 2 ^ 31 then s0 - 2 ^ 32 else s0
  let s2 := if s1 + 2 ^ 31 < nowSec then s1 + 2 ^ 32 else s1
  s2 * nsPerSec + w.toNat % 2 ^ 32

/-! ## Event counters (R427, R428) -/

/-- An event counter adds `n`, modulo 2^64. -/
def Dev.countBy (d : Dev) (ev n : Nat) : Dev :=
  { d with cnt := { d.cnt with ev := tabPut d.cnt.ev 0 ev (tabGet d.cnt.ev 0 ev + BitVec.ofNat 64 n) } }

/-- An event counter adds 1. -/
def Dev.count (d : Dev) (ev : Nat) : Dev := d.countBy ev 1

/-- The value of an event counter. -/
def Dev.counter (d : Dev) (ev : Nat) : Word := tabGet d.cnt.ev 0 ev

/-- Event number in an engine island's group. -/
def evE (isl off : Nat) : Nat := 1152 + 512 * (isl - 2) + off
/-- Event number in a port island's group. -/
def evP (isl off : Nat) : Nat := 3200 + 704 * (isl - 6) + off
/-- Event number of a sub-port, by port index. -/
def evPort (x off : Nat) : Nat := 3200 + 704 * (x / 16) + 32 * (x % 16) + off
/-- Event number of a host port. -/
def evHost (h off : Nat) : Nat := 640 + 32 * h + off
/-- Event number in a partition's group. -/
def evPart (p off : Nat) : Nat := 4608 + 64 * p + off

/-! ## Threads and partitions (R49, R50) -/

/-- The global number of a thread's core. -/
def coreOf (tid : Nat) : Nat := if tid < 512 then tid / 8 else tid - 512
/-- The island of a core (R11). -/
def islOfCore (c : Nat) : Nat := 2 + c / 16
/-- The island of a thread. -/
def islOf (tid : Nat) : Nat := islOfCore (coreOf tid)
/-- Index of a thread on its core: 0 to 7 timed, 8 the background thread. -/
def idxOf (tid : Nat) : Nat := if tid < 512 then tid % 8 else 8
/-- A timed thread. -/
def timed (tid : Nat) : Bool := tid < 512
/-- The threads of a core. -/
def threadsOf (c : Nat) : List Nat := (List.range 8).map (fun k => 8 * c + k) ++ [512 + c]

/-- The partition a core belongs to (CORE_CFG, R89). -/
def Dev.partOfCore (d : Dev) (c : Nat) : Option Nat :=
  if d.rb .coreCfg c 3 then some (d.rf .coreCfg c 0 3) else none
/-- The partition a thread belongs to. -/
def Dev.partOf (d : Dev) (tid : Nat) : Option Nat := d.partOfCore (coreOf tid)
/-- The cores of a partition, by CORE_CFG. -/
def Dev.coresOf (d : Dev) (p : Nat) : List Nat := (List.range 64).filter (fun c => d.partOfCore c == some p)

/-- A thread's state. -/
def Dev.thread (d : Dev) (tid : Nat) : Thread := tabGet d.thr {} tid
/-- The device with a thread's state set. -/
def Dev.setThread (d : Dev) (tid : Nat) (t : Thread) : Dev := { d with thr := tabPut d.thr {} tid t }
/-- The device with a thread's state changed. -/
def Dev.updThread (d : Dev) (tid : Nat) (f : Thread → Thread) : Dev := d.setThread tid (f (d.thread tid))

/-- A partition's state beside its registers. -/
def Dev.part (d : Dev) (p : Nat) : Part := tabGet d.ptn.parts {} p
def Dev.setPart (d : Dev) (p : Nat) (x : Part) : Dev := { d with ptn := { d.ptn with parts := tabPut d.ptn.parts {} p x } }
/-- PTN_STATE.state of a partition (R321): 0 NONE, 1 ACTIVE, 2 CONTAINED, 3 RESETTING, 4 DESTROYING. -/
def Dev.partState (d : Dev) (p : Nat) : Nat := d.rf .ptnState p 0 3

/-- A partition's supervisor, while CORE_SUPV is valid (R75). -/
def Dev.supervisor (d : Dev) (p : Nat) : Option Nat := if d.rb .coreSupv p 31 then some (d.rf .coreSupv p 0 9) else none
/-- Whether a range record covers a resource (R324). -/
def Range.covers (r : Range) (kind where_ n : Nat) : Bool :=
  r.kind == kind && r.where_ == where_ && r.first ≤ n && n < r.first + r.count
/-- Whether a partition's grant covers a resource. -/
def Dev.granted (d : Dev) (p kind where_ n : Nat) : Bool :=
  match (d.part p).grant with
  | some g => g.ranges.any (fun r => r.covers kind where_ n)
  | none => false

/-! ## Duplex roles (R410 to R413) -/

/-- A partition's duplex state beside its registers. -/
def Dev.duplex (d : Dev) (p : Nat) : Dpx := tabGet d.dpx.ps {} p
def Dev.setDuplex (d : Dev) (p : Nat) (x : Dpx) : Dev := { d with dpx := { d.dpx with ps := tabPut d.dpx.ps {} p x } }
/-- A partition runs in duplex (DPX_CFG.enable). -/
def Dev.inDuplex (d : Dev) (p : Nat) : Bool := d.rb .dpxCfg p 0
def Dev.dpxExternal (d : Dev) (p : Nat) : Bool := d.rb .dpxCfg p 5
/-- The active island of a duplex partition. -/
def Dev.dpxActive (d : Dev) (p : Nat) : Nat := d.rf .dpxCfg p 2 3
/-- The other island of a pair: E0 with E1, E2 with E3. -/
def peerIsl (isl : Nat) : Nat := if isl % 2 = 0 then isl + 1 else isl - 1
/-- The corresponding thread on the other island of the pair. -/
def peerTid (tid : Nat) : Nat :=
  if tid < 512 then (if (tid / 128) % 2 = 0 then tid + 128 else tid - 128)
  else (if ((tid - 512) / 16) % 2 = 0 then tid + 16 else tid - 16)
/-- Whether a thread runs as the standby's shadow: its outputs are digested and discarded (R413). -/
def Dev.isStandby (d : Dev) (tid : Nat) : Bool :=
  match d.partOf tid with
  | some p => d.inDuplex p && (if d.dpxExternal p then d.reg .dpxCw p == 0 else islOf tid != d.dpxActive p)
  | none => false
/-- Record an input of an active duplex thread for its shadow (R412). -/
def Dev.recordInput (d : Dev) (tid : Nat) (v : Word) : Dev :=
  match d.partOf tid with
  | some p =>
    if d.inDuplex p && !d.dpxExternal p && timed tid && islOf tid == d.dpxActive p && d.rb .dpxStat p 0 then
      d.updThread (peerTid tid) (fun t => { t with replay := t.replay ++ [v] })
    else d
  | none => d
/-- The island of a pair on which a thread's output and event go on: the active one (R411, R419). -/
def Dev.activeTid (d : Dev) (tid : Nat) : Nat :=
  match d.partOf tid with
  | some p => if d.inDuplex p && !d.dpxExternal p && islOf tid != d.dpxActive p then peerTid tid else tid
  | none => tid
/-- A standby thread whose island holds no synchronised state: it issues nothing until it does (R417, R418). -/
def Dev.isStale (d : Dev) (tid : Nat) : Bool :=
  match d.partOf tid with
  | some p => d.isStandby tid && !d.rb .dpxStat p 0
  | none => false
/-- A thread takes recorded inputs: it runs as the standby, or it has just become the active and inputs recorded before the switch-over are left (R412, R419). -/
def Dev.replays (d : Dev) (tid : Nat) : Bool := d.isStandby tid || !(d.thread tid).replay.isEmpty
/-- The thread id a program of a standby thread sees (R95). -/
def Dev.seenTid (d : Dev) (tid : Nat) : Nat :=
  match d.partOf tid with
  | some p => if d.inDuplex p && !d.dpxExternal p && islOf tid != d.dpxActive p then peerTid tid else tid
  | none => tid

/-- Whether a thread is its partition's supervisor; on a standby, the thread that shadows it (R75, R95). -/
def Dev.isSupervisor (d : Dev) (tid : Nat) : Bool :=
  match d.partOf tid with
  | some p => d.supervisor p == some (d.seenTid tid)
  | none => false

/-! ## Fault reports (R393 to R397, R402, R407) -/

/-- The safe state (FLT_STAT.safe, R408). -/
def Dev.safe (d : Dev) : Bool := d.rb .fltStat 0 2
/-- VIN is present and no reset holds the device: commands of the data path can act (R452, R478). -/
def Dev.powered (d : Dev) : Bool := d.life.vin && !d.boot.rstN
/-- The device runs: powered and not in the safe state. -/
def Dev.live (d : Dev) : Bool := d.powered && !d.safe

/-- A report in the collector's order: by tick, then by source (R397). -/
def insertReport (r : Report) : List Report → List Report
  | [] => [r]
  | q :: qs => if q.tick < r.tick ∨ (q.tick = r.tick ∧ q.source ≤ r.source) then q :: insertReport r qs else r :: q :: qs

/-- A fault is detected: its report goes to the collector (R397). -/
def Dev.raise (d : Dev) (source isl : Nat) (part tid : Option Nat) (exc : Nat) (detail : Nat) : Dev :=
  let r : Report := ⟨source, isl, part, tid, exc, BitVec.ofNat 64 detail, d.time.tick, d.time.now⟩
  { d with flt := { d.flt with queue := insertReport r d.flt.queue } }

/-- A device-scope fault at an island, attributed to no thread. -/
def Dev.raiseDev (d : Dev) (source isl detail : Nat) : Dev := d.raise source isl none none 0 detail
/-- A partition-scope fault attributed to no thread. -/
def Dev.raisePart (d : Dev) (source isl p detail : Nat) : Dev := d.raise source isl (some p) none 0 detail

/-- The detail of an exception (R94): bundle address, slot, operand. -/
def excDetail (pc : Nat) (slot : Slot) (operand : Nat) : Nat :=
  fld pc 3 20 * 8 + (match slot with | .a => 0 | .b => 1) * 2 ^ 23 + operand % 2 ^ 40 * 2 ^ 24

/-- A fault whose detail no rule names: the detail is a free value. -/
def Dev.raiseFree (d : Dev) (source isl : Nat) (part : Option Nat) : Dev :=
  let (v, d) := d.fresh
  d.raise source isl part none 0 v.toNat

/-- A thread's fault under an exception code of R131. A standby's fault notices are outputs and are discarded (R413). -/
def Dev.raiseExc (d : Dev) (tid code pc : Nat) (slot : Slot) (operand : Nat) : Dev :=
  if d.isStandby tid then d
  else (d.raise (639 + code) (islOf tid) (d.partOf tid) (some tid) code (excDetail pc slot operand)).count
    (evE (islOf tid) (16 * (coreOf tid % 16) + 5))

/-- FLT_STAT.phase as the collector's conditions give it (R402): 0 START, 1 RUN, 2 TEST, 3 RECOVERY. -/
def Dev.phaseNow (d : Dev) : Nat :=
  if d.rb .fltInjStat 0 15 then 2
  else if d.flt.recovering || d.dpx.ps.any (fun e => e.2.decided.isSome) then 3
  else if d.fw.serving then 1 else 0
def Dev.setPhase (d : Dev) : Dev := d.setRf .fltStat 0 0 2 d.phaseNow
/-- An injection is pending for a source (R407). -/
def Dev.injecting (d : Dev) (src : Nat) : Bool := d.rb .fltInjStat 0 15 && d.rf .fltInjStat 0 0 11 == src
/-- One inverted check of a pending injection has been made. -/
def Dev.useInjection (d : Dev) (src : Nat) : Dev :=
  if !d.injecting src then d
  else
    let n := d.rf .fltInjStat 0 16 16
    if n ≤ 1 then ({ d.setReg .fltInjStat 0 0 with flt := { d.flt with injEnd := none } }).setPhase
    else d.setRf .fltInjStat 0 16 16 (n - 1)

/-- A causeway unit is this device's to use: no partition is externally paired, or one that is holds it here (R420). -/
def Dev.unitHeld (d : Dev) (u : Nat) : Bool :=
  let ext := (List.range 8).filter (fun p => d.inDuplex p && d.dpxExternal p)
  ext.isEmpty || ext.any (fun p => d.rb .dpxCw p u)

/-! ## Memory (R18, R19) -/

/-- A region of the internal address map. -/
inductive Region where
  | regs (isl off : Nat)
  | sram (off : Nat)
  | island (isl off : Nat)
  | insn (isl off : Nat)
  | lagoon (isl off : Nat)
  | locals (isl off : Nat)
  | packet (isl off : Nat)
  | ddr (off : Nat)
  deriving DecidableEq, Repr

/-- The range that holds every byte of an access, if one does (R18, R19). -/
def Dev.region (d : Dev) (addr len : Nat) : Option Region :=
  let t := addr / 2 ^ 44
  let o := addr % 2 ^ 44
  let within := fun lo size => decide (lo ≤ o ∧ o + len ≤ lo + size)
  if 2 ^ 48 ≤ addr then none
  else if t = 8 then (if o + len ≤ d.board.ddr then some (.ddr o) else none)
  else if 8 < t then none
  else if within 0 0x10000000 then some (.regs t o)
  else if t = 0 then (if within 0x100000000 0x1000000 then some (.sram (o - 0x100000000)) else none)
  else if 2 ≤ t ∧ t ≤ 5 then
    (if within 0x100000000 0x4000000 then some (.island t (o - 0x100000000))
     else if within 0x110000000 0x800000 then some (.insn t (o - 0x110000000))
     else if within 0x120000000 0x800000 then some (.lagoon t (o - 0x120000000))
     else if within 0x130000000 0x400000 then some (.locals t (o - 0x130000000))
     else none)
  else if 6 ≤ t then (if within 0x100000000 0x8000000 then some (.packet t (o - 0x100000000)) else none)
  else none

/-- The internal address of an offset in an island. -/
def islAddr (isl off : Nat) : Nat := isl * 2 ^ 44 + off
/-- The internal address of a byte of a core's local data memory (R18, R20). -/
def localAddr (c off : Nat) : Nat := islAddr (islOfCore c) (0x130000000 + (c % 16) * 0x40000 + off)
/-- The internal address of an offset in DDR. -/
def ddrAddr (off : Nat) : Nat := 0x800000000000 + off

/-- One byte of internal memory; an unlisted byte is zero. -/
def Dev.byte (d : Dev) (a : Nat) : Byte := tabGet d.mem 0 a
/-- Bytes of memory from an address. -/
def memBytes (m : List Host.Cell) (a n : Nat) : List Byte := (List.range n).map (fun k => tabGet m 0 (a + k))
/-- Bytes of internal memory from an address. -/
def Dev.read (d : Dev) (a n : Nat) : List Byte := memBytes d.mem a n
/-- Memory with bytes stored from an address, in canonical form. -/
def memStore (m : List Host.Cell) (a : Nat) : List Byte → List Host.Cell
  | [] => m
  | b :: bs => memStore (tabPut m 0 a b) (a + 1) bs
/-- The device with bytes stored to internal memory. -/
def Dev.write (d : Dev) (a : Nat) (bs : List Byte) : Dev := { d with mem := memStore d.mem a bs }
/-- The device writes a partition's memory: in duplex an island memory of the pair is written on both islands (R412). -/
def Dev.writeDup (d : Dev) (p a : Nat) (bs : List Byte) : Dev :=
  let isl := a / 2 ^ 44
  if d.inDuplex p && !d.dpxExternal p && (isl == d.dpxActive p || isl == peerIsl (d.dpxActive p)) then
    (d.write a bs).write (islAddr (peerIsl isl) (a % 2 ^ 44)) bs
  else d.write a bs
/-- The device with a range of internal memory written with zeros. -/
def Dev.zero (d : Dev) (a n : Nat) : Dev := { d with mem := d.mem.filter (fun c => c.1 < a || a + n ≤ c.1) }

/-- The form every memory of the model has: addresses strictly rising, and no byte listed that reads as an unlisted one. -/
def Memory.wf (m : List Host.Cell) : Bool := tabWf 0 m

/-- For whom an access is made (R501). -/
inductive Dom where
  | part (p : Nat)
  | manager
  | all
  deriving DecidableEq, Repr

/-- What the target answers to a memory access. -/
inductive MemChk where
  | ok | decode | denied
  deriving DecidableEq, Repr

/-- Whether every unit of `unit` bytes that `len` bytes at `off` touch is granted (kinds 15 to 17 of R324). -/
def Dev.unitsGranted (d : Dev) (p kind where_ unit off len : Nat) : Bool :=
  (List.range ((off + Nat.max len 1 - 1) / unit - off / unit + 1)).all (fun k => d.granted p kind where_ (off / unit + k))

/-- A memory access at its target: the decode of R19 and the rights of R501. Register space is not memory and is denied here. -/
def Dev.checkMem (d : Dev) (dom : Dom) (addr len : Nat) : MemChk :=
  match d.region addr len with
  | none => .decode
  | some r =>
    match dom with
    | .all => .ok
    | .manager =>
      match r with
      | .island .. | .lagoon .. | .ddr .. | .locals .. => .ok
      | _ => .denied
    | .part p =>
      let ok := match r with
        | .island isl o => d.unitsGranted p 15 isl 65536 o len
        | .lagoon isl o => d.unitsGranted p 16 isl 4096 o len
        | .ddr o => d.unitsGranted p 17 8 16777216 o len
        | .locals isl o => (List.range ((o + Nat.max len 1 - 1) / 0x40000 - o / 0x40000 + 1)).all
            (fun k => d.partOfCore (16 * (isl - 2) + o / 0x40000 + k) == some p)
        | _ => false
      if ok then .ok else .denied

/-- ADDR_DECODE for a requester that acts for a partition, or for none (R19). -/
def Dev.raiseDecode (d : Dev) (isl : Nat) (part : Option Nat) (addr : Nat) : Dev := d.raise 644 isl part none 0 addr

/-! ## General registers, predicates, windows (R90) -/

/-- A general register; g0 reads as zero. -/
def Thread.reg (t : Thread) (r : BitVec 5) : Word := if r = 0 then 0 else tabGet t.g 0 r.toNat
/-- A general register written; a write to g0 is discarded. -/
def Thread.setReg (t : Thread) (r : BitVec 5) (v : Word) : Thread :=
  if r = 0 then t else { t with g := tabPut t.g 0 r.toNat v }
/-- A predicate; p0 reads as 1. -/
def Thread.pred (t : Thread) (i : BitVec 3) : Bool := if i = 0 then true else t.p.getLsbD i.toNat
/-- A predicate written; a write to p0 is discarded. -/
def Thread.setPred (t : Thread) (i : BitVec 3) (b : Bool) : Thread :=
  if i = 0 then t else { t with p := if b then t.p ||| (1#8 <<< i.toNat) else t.p &&& ~~~ (1#8 <<< i.toNat) }
/-- A packet window. -/
def Thread.win (t : Thread) (w : BitVec 4) : Word := tabGet t.w 0 w.toNat
def Thread.setWin (t : Thread) (w : BitVec 4) (v : Word) : Thread := { t with w := tabPut t.w 0 w.toNat v }

/-! ## Waiting and event lines (R58 to R63) -/

/-- A waiting thread wakes: it runs again, or halts when a single step led it into the wait (R82). -/
def Thread.wake (t : Thread) : Thread :=
  { t with st := if t.stepping then .halted else .running, wait := .none, stepping := false }

/-- The effective mask of WAITEV (R116): bit 31 is added for the supervisor and removed for every other thread. -/
def waitMask (sup : Bool) (m : Word) : W32 :=
  let m := m.setWidth 32
  if sup then m ||| 0x80000000#32 else m &&& 0x7FFFFFFF#32

/-- WAITEV completes with the pending bits its mask selects: it clears them and writes them to its destination (R60). -/
def Thread.takeEvents (t : Thread) (rd : BitVec 5) (mask : W32) : Thread :=
  let p := t.ev &&& mask
  ({ t with ev := t.ev &&& ~~~ p }).setReg rd (p.setWidth 64)

/-- A shadow that was copied while its active waited in WAITEV takes the recorded result and wakes with it (R412). -/
def Dev.wakeShadow (d : Dev) (tid : Nat) : Dev :=
  let t := d.thread tid
  match t.st, t.wait, t.replay with
  | .waiting, .events rd _, v :: vs => if d.isStandby tid then d.setThread tid (({ t with replay := vs }).setReg rd v).wake else d
  | _, _, _ => d

/-- A pending bit is set in a thread, and a WAITEV that its mask selects completes (R59, R60). -/
def Dev.setEvent (d : Dev) (tid line : Nat) : Dev :=
  let t := d.thread tid
  let t := { t with ev := t.ev ||| (1#32 <<< line) }
  match t.st, t.wait with
  | .waiting, .events rd mask =>
    if t.ev &&& mask = 0 then d.setThread tid t
    else (((d.setThread tid (t.takeEvents rd mask).wake).count (evE (islOf tid) (16 * (coreOf tid % 16) + 12))).recordInput tid
      ((t.ev &&& mask).setWidth 64)).wakeShadow (peerTid tid)
  | _, _ => d.setThread tid t

/-- An event for a thread of a partition; in duplex for the thread on the active island. A thread of no core or of another partition has none. -/
def Dev.signal (d : Dev) (p tid line : Nat) : Dev :=
  if d.partOf tid == some p && tid < 576 then d.setEvent (d.activeTid tid) line else d

/-! ## Slot counters (R53, R431) -/

/-- A timed thread's slot counter adds `n` (indices 0 retired, 1 wasted, 2 front-starved, 3 back-starved, 4 waiting). A background thread has none. -/
def Dev.slots (d : Dev) (tid c : Nat) (n : Word) : Dev :=
  if timed tid then
    { d with cnt := { d.cnt with slot := tabPut d.cnt.slot 0 (5 * tid + c) (tabGet d.cnt.slot 0 (5 * tid + c) + n) } }
  else d

/-- A late exception arrives (R129): the destination is not written, and the thread is FAULTED from its next slot. -/
def Dev.lateExc (d : Dev) (tid code pc : Nat) (slot : Slot) (operand : Nat) : Dev :=
  let d := d.raiseExc tid code pc slot operand
  d.updThread tid (fun t => { t with
    st := (if t.st = .idle then .idle else .faulted), wait := .none, stepping := false })

end Sys2Proof.Machine
end

