-- ==== Sys2Proof/Machine/Operands.lean ====
section
/-! DEFINITION. Machine/Operands.lean: the operand forms of Dunval (R98, R100, R101, R106, R107 of 03_dunval_instruction_set.md). -/
namespace Sys2Proof.Machine
open Sys2Proof

/-- R101: whether the predicate field lets the instruction execute. -/
def predOn (t : Thread) (f : BitVec 4) : Bool := (t.pred (f.setWidth 3)).xor (f.getLsbD 3)

/-- R100: the rb operand, a general register or a window. -/
def rbVal (t : Thread) : RbSrc → Word
  | .reg r => t.reg r
  | .win w => t.win w

/-- The general registers an rb operand reads. -/
def rbRegs : RbSrc → List (BitVec 5)
  | .reg r => [r]
  | .win _ => []

/-- Sign extension of an immediate to 64 bits. -/
def sext64 (x : BitVec n) : Word := x.signExtend 64
/-- Zero extension of an immediate to 64 bits. -/
def zext64 (x : BitVec n) : Word := x.setWidth 64

/-- Access size in bytes of the sz field (R111). -/
def szBytes (sz : BitVec 2) : Nat := 2 ^ sz.toNat
/-- R106: the effective address ra + sext(off8) x size, modulo 2^64. -/
def effAddr (base : Word) (off : BitVec 8) (size : Nat) : Nat :=
  (base + sext64 off * BitVec.ofNat 64 size).toNat

/-- R107: what the issue slot checks of a memory access: an exception code, or none. -/
def issueCheck (d : Dev) (tid : Nat) (pasid : Word) (sp : BitVec 2) (ea size : Nat) : Option Nat :=
  if ea % size ≠ 0 then some 4
  else match sp.toNat with
    | 0 => if 0x40000 < ea + size then some 3 else none
    | 1 => if 2 ^ 48 ≤ ea then some 5
           else match d.region ea size with
             | some (.island _ _) => none
             | some (.lagoon isl _) => if isl = islOf (d.seenTid tid) then none else some 3
             | _ => some 3
    | 2 => if 2 ^ 38 ≤ ea then some 5 else none
    | _ => if pasid.getLsbD 31 then none else some 3

/-- The internal address a thread's access reaches in local, island or DDR space. A standby's access to its pair's active island reaches its own copy (R413). -/
def physAddr (d : Dev) (tid : Nat) (sp : BitVec 2) (ea : Nat) : Nat :=
  match sp.toNat with
  | 0 => localAddr (coreOf tid) ea
  | 1 => if ea / 2 ^ 44 = islOf (d.seenTid tid) then islAddr (islOf tid) (ea % 2 ^ 44) else ea
  | _ => ddrAddr ea

/-- The names of a bundle's destinations, for R98: 0 is none. -/
def destG (r : BitVec 5) : Nat := r.toNat
def destP (p : BitVec 3) : Nat := if p = 0 then 0 else 40 + p.toNat
def destW (w : BitVec 4) : Nat := 50 + w.toNat
def destD (ra : BitVec 5) (idx : BitVec 4) : Nat := 1000 + 16 * ra.toNat + idx.toNat

end Sys2Proof.Machine
end

