-- ==== Sys2Proof/Machine/Flags.lean ====
section
/-! DEFINITION. Machine/Flags.lean: what decides a predicate. Dunval has no condition flags (R90); compares and PLOG write predicates (R109 of 03_dunval_instruction_set.md). -/
namespace Sys2Proof.Machine
open Sys2Proof

/-- R109: the outcome of a condition code; code 7 is reserved. -/
def condHolds (cond : BitVec 3) (a b : Word) : Bool :=
  match cond.toNat with
  | 0 => a == b
  | 1 => a != b
  | 2 => a.slt b
  | 3 => !a.slt b
  | 4 => a.ult b
  | 5 => !a.ult b
  | _ => (a &&& b) != 0

/-- R102, R109: PLOG's operation: AND, OR, XOR, ANDN. -/
def plogOp (op : BitVec 2) (a b : Bool) : Bool :=
  match op.toNat with
  | 0 => a && b
  | 1 => a || b
  | 2 => a.xor b
  | _ => a && !b

end Sys2Proof.Machine
end

