-- ==== Sys2Proof/Machine/Issue.lean ====
section
/-! DEFINITION. Machine/Issue.lean: how a Dunval instruction issues: thread state, predicates, starvation, slot outcomes, exceptions, bundles (R52, R53, R96 to R101, R129 of the Dunval chapter). -/
namespace Sys2Proof.Machine
open Sys2Proof

/-- The three outcomes of a command of this machine. -/
abbrev Out := Host.Outcome State Fault Refusal

/-- An event of the running device: no effect while it has no supply, is held in reset, or is in the safe state (R408, R478). -/
def event (f : Dev → Dev) (s : State) : Out :=
  .next { s with bundle := none, dev := if s.dev.live then f s.dev else s.dev }

/-- An event that the safe state does not stop (R408): time, host completions, the collector, resets. -/
def eventOn (f : Dev → Dev) (s : State) : Out :=
  .next { s with bundle := none, dev := if s.dev.powered then f s.dev else s.dev }

/-- An event of the always-on parts and of the supply. -/
def eventAny (f : Dev → Dev) (s : State) : Out := .next { s with bundle := none, dev := f s.dev }

/-- What an instruction does in its slot: its effect, an immediate exception with its code and operand, or nothing because its bundle back-starves (R53). -/
inductive Act where
  | done (d : Dev)
  | exc (code operand : Nat)
  | starve

/-- Whether a bundle address lies in the executable sections of a thread's partition on its island (R104). -/
def fetchOk (d : Dev) (p tid pc : Nat) : Bool :=
  match (d.part p).prog with
  | some g => g.code.any (fun c => (c.isl == islOf tid || c.isl == islOf (d.seenTid tid)) && c.first ≤ pc && pc + 8 ≤ c.first + c.len)
  | none => false

/-- Whether a register is the destination of a result that has not returned (R52). -/
def Thread.busy (t : Thread) (r : BitVec 5) : Bool := r != 0 && t.outs.any (fun o => o.rd == r && o.res.isNone)

/-- An immediate exception (R129): the bundle has no effect, its slot is wasted, and the thread is FAULTED from its next slot. -/
def Dev.immediateExc (d : Dev) (tid code pc : Nat) (slot : Slot) (operand : Nat) : Dev :=
  (((d.raiseExc tid code pc slot operand).updThread tid (fun t => { t with st := .faulted, stepping := false })).slots tid 1 1).count
    (evE (islOf tid) (16 * (coreOf tid % 16) + (if timed tid then 0 else 1)))

/-- A bundle whose slot A did not issue: a slot B that follows belongs to it and does nothing. -/
def deadBundle (tid : Nat) (d : Dev) : OpenBundle := ⟨tid, d, true, 0, false, 0, false⟩

/-- The thread as it goes into the issue of a bundle: past the bundle's address, and halted after it when it single-steps (R82). -/
def Thread.issued (t : Thread) : Thread :=
  { t with pc := (t.pc + 8) % 2 ^ 23, fence := false, st := if t.stepping then .halted else .running, stepping := false }

/-- The first instruction of a bundle issues, in slot A or alone in slot B. `keep` says whether slot B may still follow; `act` takes the thread and the device as before the bundle and the device as it stands. -/
def issueFirst (i : Issue) (keep : Bool) (cost : Nat) (port : Bool) (dest : Nat) (uses : List (BitVec 5))
    (act : Thread → Dev → Dev → Act) (s : State) : Out :=
  let tid := i.tid.val
  let d := s.dev
  let t := d.thread tid
  let dead := fun d' => Host.Outcome.next { s with dev := d', bundle := if keep then some (deadBundle tid d') else none }
  match d.partOf tid with
  | none => dead d
  | some p =>
    if !d.live then dead d
    else if t.st ≠ .running then dead (d.slots tid 4 1)
    else if d.isStale tid then dead (d.slots tid 3 1)
    else if t.fence && !(t.outs.isEmpty && t.stq.isEmpty) then dead (d.slots tid 3 1)
    else if !fetchOk d p tid t.pc then dead (d.immediateExc tid 3 t.pc i.slot t.pc)
    else
      let d1 := (d.updThread tid Thread.issued).count (evE (islOf tid) (16 * (coreOf tid % 16) + (if timed tid then 0 else 1)))
      let opened := fun d' c off ds po => Host.Outcome.next
        { s with dev := d'.slots tid 0 (BitVec.ofNat 64 c), bundle := if keep then some ⟨tid, d, false, c, off, ds, po⟩ else none }
      if !predOn t i.pred then opened d1 1 true dest port
      else if uses.any t.busy then dead (d.slots tid 3 1)
      else match act t d d1 with
        | .done d2 => opened d2 cost false dest port
        | .exc code operand => dead (d.immediateExc tid code t.pc i.slot operand)
        | .starve => dead (d.slots tid 3 1)

/-- The instruction in slot B of a bundle whose slot A has issued. It reads its operands as they stood before the bundle (R98); a bundle that breaks R97 or R98 is illegal. -/
def issueSecond (i : Issue) (b : OpenBundle) (cost : Nat) (port : Bool) (dest : Nat) (uses : List (BitVec 5))
    (act : Thread → Dev → Dev → Act) (s : State) : Out :=
  let tid := i.tid.val
  let t := b.before.thread tid
  let close := fun d' => Host.Outcome.next { s with dev := d', bundle := none }
  if b.dead then close s.dev
  else if (b.port && port) || (dest ≠ 0 && dest == b.dest) then .fault .illegalWord
  else if !predOn t i.pred then
    close (if b.off then (s.dev.slots tid 0 (-1)).slots tid 1 1 else s.dev)
  else if uses.any t.busy then close (b.before.slots tid 3 1)
  else match act t b.before s.dev with
    | .done d2 => close (d2.slots tid 0 (BitVec.ofNat 64 (cost - b.cost)))
    | .exc code operand => close (b.before.immediateExc tid code t.pc i.slot operand)
    | .starve => close (b.before.slots tid 3 1)

/-- A Dunval instruction is offered to its thread's slot. A word that R96 to R103 call illegal never passes PROG_LOAD and has no effect to model. -/
def issue (i : Issue) (legal : Bool) (cost : Nat) (port : Bool) (dest : Nat) (uses : List (BitVec 5))
    (act : Thread → Dev → Dev → Act) (s : State) : Out :=
  if !legal then .fault .illegalWord
  else match i.slot with
    | .a => issueFirst i true cost port dest uses act s
    | .b =>
      match s.bundle with
      | some b => if b.tid = i.tid.val then issueSecond i b cost port dest uses act s
                  else issueFirst i false cost port dest uses act s
      | none => issueFirst i false cost port dest uses act s

/-- Change the issuing thread: an instruction whose whole effect is in its own thread. -/
def onThread (i : Issue) (f : Thread → Thread) (d : Dev) : Act := .done (d.updThread i.tid.val f)

end Sys2Proof.Machine
end

