-- ==== Sys2Proof/Machine/Alu.lean ====
section
/-! DEFINITION. Machine/Alu.lean: arithmetic, logic, bit fields, compares, predicates and branches (R108 to R110 of 03_dunval_instruction_set.md). -/
namespace Sys2Proof.Machine
open Sys2Proof

/-- An instruction that writes a function of ra and rb to rd. -/
def aluReg (i : Issue) (legal : Bool) (cost : Nat) (rd ra : BitVec 5) (rb : RbSrc) (f : Word → Word → Word) (s : State) : Out :=
  issue i legal cost false (destG rd) (rd :: ra :: rbRegs rb)
    (fun t _ d => onThread i (fun x => x.setReg rd (f (t.reg ra) (rbVal t rb))) d) s

/-- An instruction that writes a function of ra to rd. -/
def aluOne (i : Issue) (legal : Bool) (rd ra : BitVec 5) (f : Word → Word) (s : State) : Out :=
  issue i legal 1 false (destG rd) [rd, ra] (fun t _ d => onThread i (fun x => x.setReg rd (f (t.reg ra))) d) s

/-- Bits [pos + width - 1 : pos] of a value, zero-extended. -/
def bitField (v : Word) (pos wm1 : BitVec 6) : Word :=
  (v >>> pos.toNat) &&& BitVec.ofNat 64 (2 ^ (wm1.toNat + 1) - 1)

/-- Bits [pos + width - 1 : pos] of a value, sign-extended. -/
def bitFieldS (v : Word) (pos wm1 : BitVec 6) : Word :=
  let k := 63 - wm1.toNat
  ((bitField v pos wm1) <<< k).sshiftRight k

/-- A value with bits [pos + width - 1 : pos] replaced by the low bits of another. -/
def bitInsert (old v : Word) (pos wm1 : BitVec 6) : Word :=
  let m := BitVec.ofNat 64 (2 ^ (wm1.toNat + 1) - 1)
  (old &&& ~~~ (m <<< pos.toNat)) ||| ((v &&& m) <<< pos.toNat)

/-- The high 64 bits of the unsigned product. -/
def mulHighU (a b : Word) : Word := BitVec.ofNat 64 (a.toNat * b.toNat / 2 ^ 64)
/-- The high 64 bits of the signed product. -/
def mulHighS (a b : Word) : Word := BitVec.ofInt 64 (a.toInt * b.toInt / 2 ^ 64)

/-- ADD: R108. -/
def execAdd (i : Issue) (rd ra : BitVec 5) (rb : RbSrc) (s : State) : Out :=
  aluReg i (Instr.wf (.add i rd ra rb)) 1 rd ra rb (fun a b => a + b) s

/-- SUB: R108. -/
def execSub (i : Issue) (rd ra : BitVec 5) (rb : RbSrc) (s : State) : Out :=
  aluReg i (Instr.wf (.sub i rd ra rb)) 1 rd ra rb (fun a b => a - b) s

/-- AND: R108. -/
def execAnd (i : Issue) (rd ra : BitVec 5) (rb : RbSrc) (s : State) : Out :=
  aluReg i (Instr.wf (.and i rd ra rb)) 1 rd ra rb (fun a b => a &&& b) s

/-- OR: R108. -/
def execOr (i : Issue) (rd ra : BitVec 5) (rb : RbSrc) (s : State) : Out :=
  aluReg i (Instr.wf (.or i rd ra rb)) 1 rd ra rb (fun a b => a ||| b) s

/-- XOR: R108. -/
def execXor (i : Issue) (rd ra : BitVec 5) (rb : RbSrc) (s : State) : Out :=
  aluReg i (Instr.wf (.xor i rd ra rb)) 1 rd ra rb (fun a b => a ^^^ b) s

/-- ANDN: R108. -/
def execAndn (i : Issue) (rd ra : BitVec 5) (rb : RbSrc) (s : State) : Out :=
  aluReg i (Instr.wf (.andn i rd ra rb)) 1 rd ra rb (fun a b => a &&& ~~~ b) s

/-- SHL: R108. -/
def execShl (i : Issue) (rd ra : BitVec 5) (rb : RbSrc) (s : State) : Out :=
  aluReg i (Instr.wf (.shl i rd ra rb)) 1 rd ra rb (fun a b => a <<< (b.toNat % 64)) s

/-- SHR: R108. -/
def execShr (i : Issue) (rd ra : BitVec 5) (rb : RbSrc) (s : State) : Out :=
  aluReg i (Instr.wf (.shr i rd ra rb)) 1 rd ra rb (fun a b => a >>> (b.toNat % 64)) s

/-- SAR: R108. -/
def execSar (i : Issue) (rd ra : BitVec 5) (rb : RbSrc) (s : State) : Out :=
  aluReg i (Instr.wf (.sar i rd ra rb)) 1 rd ra rb (fun a b => a.sshiftRight (b.toNat % 64)) s

/-- MIN: R108. -/
def execMin (i : Issue) (rd ra : BitVec 5) (rb : RbSrc) (s : State) : Out :=
  aluReg i (Instr.wf (.min i rd ra rb)) 1 rd ra rb (fun a b => if a.slt b then a else b) s

/-- MAX: R108. -/
def execMax (i : Issue) (rd ra : BitVec 5) (rb : RbSrc) (s : State) : Out :=
  aluReg i (Instr.wf (.max i rd ra rb)) 1 rd ra rb (fun a b => if a.slt b then b else a) s

/-- MINU: R108. -/
def execMinu (i : Issue) (rd ra : BitVec 5) (rb : RbSrc) (s : State) : Out :=
  aluReg i (Instr.wf (.minu i rd ra rb)) 1 rd ra rb (fun a b => if a.ult b then a else b) s

/-- MAXU: R108. -/
def execMaxu (i : Issue) (rd ra : BitVec 5) (rb : RbSrc) (s : State) : Out :=
  aluReg i (Instr.wf (.maxu i rd ra rb)) 1 rd ra rb (fun a b => if a.ult b then b else a) s

/-- MUL: R108. -/
def execMul (i : Issue) (rd ra : BitVec 5) (rb : RbSrc) (s : State) : Out :=
  aluReg i (Instr.wf (.mul i rd ra rb)) 1 rd ra rb (fun a b => a * b) s

/-- MULHU: R108, 2 slots. -/
def execMulhu (i : Issue) (rd ra : BitVec 5) (rb : RbSrc) (s : State) : Out :=
  aluReg i (Instr.wf (.mulhu i rd ra rb)) 2 rd ra rb mulHighU s

/-- MULHS: R108, 2 slots. -/
def execMulhs (i : Issue) (rd ra : BitVec 5) (rb : RbSrc) (s : State) : Out :=
  aluReg i (Instr.wf (.mulhs i rd ra rb)) 2 rd ra rb mulHighS s

/-- ADDI: R108. -/
def execAddi (i : Issue) (rd ra : BitVec 5) (imm : BitVec 12) (s : State) : Out :=
  aluOne i (Instr.wf (.addi i rd ra imm)) rd ra (fun a => a + sext64 imm) s

/-- ANDI: R108. -/
def execAndi (i : Issue) (rd ra : BitVec 5) (imm : BitVec 12) (s : State) : Out :=
  aluOne i (Instr.wf (.andi i rd ra imm)) rd ra (fun a => a &&& zext64 imm) s

/-- ORI: R108. -/
def execOri (i : Issue) (rd ra : BitVec 5) (imm : BitVec 12) (s : State) : Out :=
  aluOne i (Instr.wf (.ori i rd ra imm)) rd ra (fun a => a ||| zext64 imm) s

/-- XORI: R108. -/
def execXori (i : Issue) (rd ra : BitVec 5) (imm : BitVec 12) (s : State) : Out :=
  aluOne i (Instr.wf (.xori i rd ra imm)) rd ra (fun a => a ^^^ zext64 imm) s

/-- SHLI: R108. -/
def execShli (i : Issue) (rd ra : BitVec 5) (n : BitVec 6) (s : State) : Out :=
  aluOne i (Instr.wf (.shli i rd ra n)) rd ra (fun a => a <<< n.toNat) s

/-- SHRI: R108. -/
def execShri (i : Issue) (rd ra : BitVec 5) (n : BitVec 6) (s : State) : Out :=
  aluOne i (Instr.wf (.shri i rd ra n)) rd ra (fun a => a >>> n.toNat) s

/-- SARI: R108. -/
def execSari (i : Issue) (rd ra : BitVec 5) (n : BitVec 6) (s : State) : Out :=
  aluOne i (Instr.wf (.sari i rd ra n)) rd ra (fun a => a.sshiftRight n.toNat) s

/-- MOVI: R108. -/
def execMovi (i : Issue) (rd : BitVec 5) (imm : BitVec 17) (s : State) : Out :=
  issue i (Instr.wf (.movi i rd imm)) 1 false (destG rd) [rd] (fun _ _ d => onThread i (fun x => x.setReg rd (sext64 imm)) d) s

/-- MOVSH: R108, rd shifted up by 16 and the immediate put below. -/
def execMovsh (i : Issue) (rd : BitVec 5) (imm : BitVec 16) (s : State) : Out :=
  aluOne i (Instr.wf (.movsh i rd imm)) rd rd (fun a => (a <<< 16) ||| zext64 imm) s

/-- BFX: R108. -/
def execBfx (i : Issue) (rd ra : BitVec 5) (pos wm1 : BitVec 6) (s : State) : Out :=
  aluOne i (Instr.wf (.bfx i rd ra pos wm1)) rd ra (fun a => bitField a pos wm1) s

/-- BFXS: R108. -/
def execBfxs (i : Issue) (rd ra : BitVec 5) (pos wm1 : BitVec 6) (s : State) : Out :=
  aluOne i (Instr.wf (.bfxs i rd ra pos wm1)) rd ra (fun a => bitFieldS a pos wm1) s

/-- BFI: R108, the other bits of rd kept. -/
def execBfi (i : Issue) (rd ra : BitVec 5) (pos wm1 : BitVec 6) (s : State) : Out :=
  aluReg i (Instr.wf (.bfi i rd ra pos wm1)) 1 rd ra (.reg rd) (fun a old => bitInsert old a pos wm1) s

/-- BFXW: R108, from a packet window. -/
def execBfxw (i : Issue) (rd : BitVec 5) (w : BitVec 4) (pos wm1 : BitVec 6) (s : State) : Out :=
  issue i (Instr.wf (.bfxw i rd w pos wm1)) 1 false (destG rd) [rd]
    (fun t _ d => onThread i (fun x => x.setReg rd (bitField (t.win w) pos wm1)) d) s

/-- CMP: R109. -/
def execCmp (i : Issue) (cond : BitVec 3) (pd : BitVec 3) (ra : BitVec 5) (rb : RbSrc) (s : State) : Out :=
  issue i (Instr.wf (.cmp i cond pd ra rb)) 1 false (destP pd) (ra :: rbRegs rb)
    (fun t _ d => onThread i (fun x => x.setPred pd (condHolds cond (t.reg ra) (rbVal t rb))) d) s

/-- CMPI: R109, with the immediate sign-extended. -/
def execCmpi (i : Issue) (cond : BitVec 3) (pd : BitVec 3) (ra : BitVec 5) (imm : BitVec 11) (s : State) : Out :=
  issue i (Instr.wf (.cmpi i cond pd ra imm)) 1 false (destP pd) [ra]
    (fun t _ d => onThread i (fun x => x.setPred pd (condHolds cond (t.reg ra) (sext64 imm))) d) s

/-- PLOG: R109. -/
def execPlog (i : Issue) (op : BitVec 2) (pd pa pb : BitVec 3) (s : State) : Out :=
  issue i (Instr.wf (.plog i op pd pa pb)) 1 false (destP pd) []
    (fun t _ d => onThread i (fun x => x.setPred pd (plogOp op (t.pred pa) (t.pred pb))) d) s

/-- The target of a relative branch: this bundle's address plus the offset in bundles, in the 23 bits of pc (R90, R110). -/
def branchTarget (pc : Nat) (off : BitVec 22) : Nat := (((pc : Int) + off.toInt * 8) % 2 ^ 23).toNat

/-- BR: R110. -/
def execBr (i : Issue) (off : BitVec 22) (s : State) : Out :=
  issue i (Instr.wf (.br i off)) 1 false 0 [] (fun t _ d => onThread i (fun x => { x with pc := branchTarget t.pc off }) d) s

/-- CALL: R110, with g31 the address of the next bundle. -/
def execCall (i : Issue) (off : BitVec 22) (s : State) : Out :=
  issue i (Instr.wf (.call i off)) 1 false (destG 31) [31]
    (fun t _ d => onThread i (fun x => ({ x with pc := branchTarget t.pc off }).setReg 31 (BitVec.ofNat 64 ((t.pc + 8) % 2 ^ 23))) d) s

/-- JR: R110, MISALIGNED where ra is no bundle address. -/
def execJr (i : Issue) (ra : BitVec 5) (s : State) : Out :=
  issue i (Instr.wf (.jr i ra)) 1 false 0 [ra]
    (fun t _ d =>
      if (t.reg ra).toNat % 8 ≠ 0 then .exc 4 (t.reg ra).toNat
      else onThread i (fun x => { x with pc := (t.reg ra).toNat % 2 ^ 23 }) d) s

end Sys2Proof.Machine
end

