-- ==== Sys2Proof/Machine/Aes.lean ====
section
/-! DEFINITION. Machine/Aes.lean: AES-128 and AES-256, XTS, GCM, and AES Key Wrap with Padding (R206, R212, R225 to R227 of 06_cipher_and_fixity.md), as the standards those rules name define them. A byte is a number below 256, a block is 16 of them. -/
namespace Sys2Proof.Machine
open Sys2Proof

/-- Product in GF(2^8) under a field polynomial; the first argument counts the bits of the second factor. -/
def gfMul (poly : Nat) : Nat → Nat → Nat → Nat
  | 0, _, _ => 0
  | n + 1, a, b => (if b % 2 = 1 then a else 0) ^^^ gfMul poly n (if 256 ≤ 2 * a then (2 * a) ^^^ poly else 2 * a) (b / 2)

/-- Inverse in GF(2^8): the 254th power; 0 for 0. -/
def gfInv (poly a : Nat) : Nat :=
  let sq := fun x => gfMul poly 8 x x
  let a2 := sq a
  let a4 := sq a2
  let a8 := sq a4
  let a16 := sq a8
  let a32 := sq a16
  let a64 := sq a32
  let m := gfMul poly 8
  m (m (m a2 a4) (m a8 a16)) (m (m a32 a64) (sq a64))

/-! ## AES -/

/-- The field polynomial of AES. -/
def aesPoly : Nat := 0x11B
def aesMul (a b : Nat) : Nat := gfMul aesPoly 8 a b

/-- The substitution box of AES (FIPS 197) and its inverse, each as one number: its byte x is the value at x. -/
def sBox : Nat := 0x16bb54b00f2d99416842e6bf0d89a18cdf2855cee9871e9b948ed9691198f8e19e1dc186b95735610ef6034866b53e708a8bbd4b1f74dde8c6b4a61c2e2578ba08ae7a65eaf4566ca94ed58d6d37c8e779e4959162acd3c25c2406490a3a32e0db0b5ede14b8ee4688902a22dc4f816073195d643d7ea7c41744975fec130ccdd2f3ff1021dab6bcf5389d928f40a351a89f3c507f02f94585334d43fbaaefd0cf584c4a39becb6a5bb1fc20ed00d153842fe329b3d63b52a05a6e1b1a2c830975b227ebe28012079a059618c323c7041531d871f1e5a534ccf73f362693fdb7c072a49cafa2d4adf04759fa7dc982ca76abd7fe2b670130c56f6bf27b777c63
def invSBox : Nat := 0x7d0c2155631469e126d677ba7e042b17619953833cbbebc8b0f52aae4d3be0a0ef9cc9939f7ae52d0d4ab519a97f51605fec8027591012b131c7078833a8dd1ff45acd78fec0db9a2079d2c64b3e56fc1bbe18aa0e62b76f89c5291d711af1476edf751ce837f9e28535ade72274ac9673e6b4f0cecff297eadc674f4111913a6b8a130103bdafc1020f3fca8f1e2cd00645b3b80558e4f70ad3bc8c00abd890849d8da75746155edab9edfd5048706c92b6655dcc5ca4d41698688664f6f87225d18b6d49a25b76b224d92866a12e084ec3fa420b954cee3d23c2a632947b54cbe9dec444438e3487ff2f9b8239e37cfbd7f3819ea340bf38a53630d56a0952
def subByte (x : Nat) : Nat := sBox / 2 ^ (8 * x) % 256
def invSubByte (y : Nat) : Nat := invSBox / 2 ^ (8 * y) % 256

/-- XOR of two byte lists. -/
def xorN (a b : List Nat) : List Nat := List.zipWith (· ^^^ ·) a b

/-- The next word of a key schedule, from the words so far, the latest first. -/
def nextWord (nk i : Nat) (ws : List (List Nat)) : List Nat :=
  let prev := ws.headD []
  let back := ws.getD (nk - 1) []
  let rcon := (List.range (i / nk - 1)).foldl (fun r _ => aesMul r 2) 1
  let t := if i % nk = 0 then
      let r := (prev.drop 1 ++ prev.take 1).map subByte
      xorN r [rcon, 0, 0, 0]
    else if 6 < nk && i % nk = 4 then prev.map subByte else prev
  xorN back t

/-- A key schedule grown by some words. -/
def growKey (nk : Nat) : Nat → Nat → List (List Nat) → List (List Nat)
  | 0, _, ws => ws
  | n + 1, i, ws => growKey nk n (i + 1) (nextWord nk i ws :: ws)

/-- The words of a byte list. -/
def words4 : List Nat → List (List Nat)
  | a :: b :: c :: d :: r => [a, b, c, d] :: words4 r
  | _ => []

/-- The round keys of a 16- or 32-byte key. -/
def expandKey (key : List Byte) : List (List Nat) :=
  let nk := key.length / 4
  let ws := (growKey nk (4 * (nk + 7) - nk) nk (words4 (key.map (·.toNat))).reverse).reverse
  (List.range (nk + 7)).map (fun r => ((ws.drop (4 * r)).take 4).flatten)

/-- Rows of a block shifted left, or right for decryption. -/
def shiftRows (inv : Bool) (b : List Nat) : List Nat :=
  (List.range 16).map (fun i =>
    let r := i % 4
    b.getD ((if inv then i + 16 - 4 * r else i + 4 * r) % 16) 0)

/-- Columns of a block multiplied by the matrix whose first row is given. -/
def mixColumns (row : List Nat) (b : List Nat) : List Nat :=
  (List.range 16).map (fun i =>
    let r := i % 4
    let c := i - r
    (List.range 4).foldl (fun a j => a ^^^ aesMul (b.getD (c + j) 0) (row.getD ((j + 4 - r) % 4) 0)) 0)

def encRounds : List (List Nat) → List Nat → List Nat
  | [], b => b
  | [k], b => xorN (shiftRows false (b.map subByte)) k
  | k :: ks, b => encRounds ks (xorN (mixColumns [2, 3, 1, 1] (shiftRows false (b.map subByte))) k)

/-- One block encrypted under round keys. -/
def aesEncWith (ks : List (List Nat)) (b : List Nat) : List Nat :=
  match ks with
  | [] => b
  | k :: rest => encRounds rest (xorN b k)

/-- One block decrypted under round keys. -/
def aesDecWith (ks : List (List Nat)) (b : List Nat) : List Nat :=
  match ks.reverse with
  | [] => b
  | k :: rest =>
    rest.dropLast.foldl (fun b k => mixColumns [14, 11, 13, 9] (xorN ((shiftRows true b).map invSubByte) k)) (xorN b k)
      |> fun b => xorN ((shiftRows true b).map invSubByte) (rest.getLastD [])

def bytesOf (b : List Nat) : List Byte := b.map (BitVec.ofNat 8)
def natsOf (b : List Byte) : List Nat := b.map (·.toNat)

/-- AES of one block under a key. -/
def aesEnc (key b : List Byte) : List Byte := bytesOf (aesEncWith (expandKey key) (natsOf b))
def aesDec (key b : List Byte) : List Byte := bytesOf (aesDecWith (expandKey key) (natsOf b))

/-- A byte string in pieces of `n` bytes; the last may be shorter. -/
def piecesOf (n : Nat) : Nat → List α → List (List α)
  | 0, _ => []
  | k + 1, bs => if bs.isEmpty then [] else bs.take n :: piecesOf n k (bs.drop n)
def pieces (n : Nat) (bs : List α) : List (List α) := piecesOf n bs.length bs

def xorB (a b : List Byte) : List Byte := List.zipWith (· ^^^ ·) a b

/-! ## XTS (IEEE 1619) -/

/-- The tweak multiplied by the primitive element. -/
def xtsNext (t : Nat) : Nat := if 2 ^ 127 ≤ t then ((2 * t) % 2 ^ 128) ^^^ 0x87 else 2 * t

def xtsBlocks (f : List Nat → List Nat) : List (List Byte) → Nat → List Byte
  | [], _ => []
  | b :: bs, t => xorB (bytesOf (f (natsOf (xorB b (leBytes 16 t))))) (leBytes 16 t) ++ xtsBlocks f bs (xtsNext t)

/-- A data unit of whole blocks under two keys and a tweak. -/
def xts (enc : Bool) (k1 k2 : List Byte) (tweak : Nat) (bs : List Byte) : List Byte :=
  let t := ofLe (aesEnc k2 (leBytes 16 tweak))
  let ks := expandKey k1
  xtsBlocks (if enc then aesEncWith ks else aesDecWith ks) (pieces 16 bs) t

/-! ## GCM (NIST SP 800-38D) with a 12-byte IV -/

/-- Product in GCM's field; a block is a number whose top bit is its first. -/
def ghashMul : Nat → Nat → Nat → Nat
  | 0, _, _ => 0
  | n + 1, x, v => (if x.testBit n then v else 0) ^^^ ghashMul n x (if v % 2 = 1 then (v / 2) ^^^ (0xE1 * 2 ^ 120) else v / 2)

/-- A byte string padded with zeros to whole blocks. -/
def pad16 (bs : List Byte) : List Byte := bs ++ List.replicate ((16 - bs.length % 16) % 16) 0

def ghash (h : Nat) (bs : List Byte) : Nat := (pieces 16 bs).foldl (fun y b => ghashMul 128 (y ^^^ ofBe b) h) 0

def ctrBlocks (ks : List (List Nat)) (iv : List Byte) : List (List Byte) → Nat → List Byte
  | [], _ => []
  | b :: bs, c => xorB b (bytesOf (aesEncWith ks (natsOf (iv ++ beBytes 4 c)))) ++ ctrBlocks ks iv bs (c + 1)

/-- The 16-byte tag over AAD and ciphertext. -/
def gcmTag (key iv aad ct : List Byte) : List Byte :=
  let h := ofBe (aesEnc key (List.replicate 16 0))
  let s := ghash h (pad16 aad ++ pad16 ct ++ beBytes 8 (8 * aad.length) ++ beBytes 8 (8 * ct.length))
  xorB (beBytes 16 s) (aesEnc key (iv ++ beBytes 4 1))
/-- Encryption or decryption of the payload. -/
def gcmCrypt (key iv bs : List Byte) : List Byte := ctrBlocks (expandKey key) iv (pieces 16 bs) 2

/-! ## AES Key Wrap with Padding (RFC 5649) -/

/-- One step of the unwrap of RFC 3394: step `t` on the half-block it names. -/
def unwrapStep (ks : List (List Nat)) (t : Nat) (a : List Byte) (r : List (List Byte)) : List Byte × List (List Byte) :=
  let i := (t - 1) % r.length
  let b := bytesOf (aesDecWith ks (natsOf (xorB a (beBytes 8 t) ++ r.getD i [])))
  (b.take 8, r.set i (b.drop 8))

def unwrapSteps (ks : List (List Nat)) : Nat → List Byte × List (List Byte) → List Byte × List (List Byte)
  | 0, s => s
  | t + 1, s => unwrapSteps ks t (unwrapStep ks (t + 1) s.1 s.2)

/-- The plaintext of a wrapped string, where its integrity check holds. -/
def kwpUnwrap (kek wrapped : List Byte) : Option (List Byte) :=
  let ks := expandKey kek
  if wrapped.length < 16 ∨ wrapped.length % 8 ≠ 0 then none
  else
    let (a, p) :=
      if wrapped.length = 16 then
        let b := bytesOf (aesDecWith ks (natsOf wrapped))
        (b.take 8, b.drop 8)
      else
        let r := pieces 8 (wrapped.drop 8)
        let s := unwrapSteps ks (6 * r.length) (wrapped.take 8, r)
        (s.1, s.2.flatten)
    let mli := ofBe (a.drop 4)
    let n := p.length
    if a.take 4 = [0xA6, 0x59, 0x59, 0xA6] ∧ mli ≤ n ∧ n < mli + 8 ∧ (p.drop mli).all (· == 0) then some (p.take mli) else none

end Sys2Proof.Machine
end

