-- ==== Sys2Proof/Machine/Crc.lean ====
section
/-! DEFINITION. Machine/Crc.lean: the reflected CRCs (R121 of 03_dunval_instruction_set.md, R156 and R175 of 04_packet_path.md), the Internet checksum (R140) and the Toeplitz hash (R150). -/
namespace Sys2Proof.Machine
open Sys2Proof

/-- One bit of a reflected CRC. -/
def crcBit (poly c : Nat) : Nat := if c % 2 = 1 then (c / 2) ^^^ poly else c / 2

/-- The bare update of a reflected CRC over one byte. -/
def crcByte (poly c : Nat) (b : Byte) : Nat :=
  crcBit poly (crcBit poly (crcBit poly (crcBit poly (crcBit poly (crcBit poly (crcBit poly (crcBit poly (c ^^^ b.toNat))))))))

/-- The bare update over a byte string. -/
def crcBytes (poly c : Nat) (bs : List Byte) : Nat := bs.foldl (crcByte poly) c

/-- CRC-32C's reflected polynomial (R121). -/
def poly32c : Nat := 0x82F63B78
/-- CRC-64's reflected polynomial (R121). -/
def poly64 : Nat := 0xC96C5795D7870F42
/-- The Ethernet CRC-32's reflected polynomial, for the FCS and the ICRC. -/
def poly32 : Nat := 0xEDB88320

/-- A 32-bit CRC with initial value and final inversion of all ones. -/
def crc32Full (poly : Nat) (bs : List Byte) : Nat := crcBytes poly 0xFFFFFFFF bs ^^^ 0xFFFFFFFF

/-- CRC-32C of a byte string (R156). -/
def crc32c (bs : List Byte) : Nat := crc32Full poly32c bs

/-- CRC-64 of a byte string (R238). -/
def crc64 (bs : List Byte) : Nat := crcBytes poly64 0xFFFFFFFFFFFFFFFF bs ^^^ 0xFFFFFFFFFFFFFFFF

/-- The 16-bit ones' complement sum of a byte string, padded with a zero byte. -/
def onesSum : List Byte → Nat → Nat
  | [], acc => acc
  | [b], acc => acc + b.toNat * 256
  | a :: b :: bs, acc => onesSum bs (acc + a.toNat * 256 + b.toNat)

/-- Folds carries into 16 bits. -/
def foldSum (s : Nat) : Nat :=
  let s := s % 65536 + s / 65536
  let s := s % 65536 + s / 65536
  s % 65536 + s / 65536

/-- The Internet checksum of a byte string whose checksum field is zero. -/
def inetChecksum (bs : List Byte) : Nat := 0xFFFF - foldSum (onesSum bs 0)

/-- 32 bits of a 352-bit hash key from bit `i`, bit 0 the most significant; bits beyond the key are zero (R150). -/
def keyWindow (key i : Nat) : Nat := (key * 2 ^ 352 / 2 ^ (704 - 32 - i)) % 2 ^ 32

/-- Toeplitz hash of `n` input bits, the first the most significant of `v`, with the key from bit `start` (R150, R120). -/
def toeplitz (key start : Nat) : Nat → Nat → Nat
  | 0, _ => 0
  | n + 1, v => (if v % 2 = 1 then keyWindow key (start + n) else 0) ^^^ toeplitz key start n (v / 2)

/-- Toeplitz hash of a byte string. -/
def toeplitzBytes (key : Nat) (bs : List Byte) : Nat := toeplitz key 0 (8 * bs.length) (ofBe bs)

end Sys2Proof.Machine
end

