-- ==== Sys2Proof/Machine/Hash.lean ====
section
/-! DEFINITION. Machine/Hash.lean: SHA-256, SHA-384, SHA3-256, digests in segments, the tree digest, fixity records, Reed-Solomon, ECDSA P-384 verification (R238, R239, R242, R245 of 06_cipher_and_fixity.md, R376 of 10_wenot_command_set.md). -/
namespace Sys2Proof.Machine
open Sys2Proof

/-! ## SHA-2 (FIPS 180-4) -/

/-- Integer root: the largest r with r^k at most n, bit by bit from bit `b - 1` of r. -/
def iroot (k n : Nat) : Nat → Nat → Nat
  | 0, r => r
  | b + 1, r => iroot k n b (if (r + 2 ^ b) ^ k ≤ n then r + 2 ^ b else r)

/-- The primes below 410: the first 80. -/
def primes : List Nat := (List.range 410).filter (fun n => 2 ≤ n && (List.range 21).all (fun d => d < 2 || d == n || n % d != 0))

/-- The first `w` bits of the fractional part of a prime's k-th root. -/
def rootBits (k w p : Nat) : Nat := iroot k (p * 2 ^ (k * w)) (w + 8) 0 % 2 ^ w

def rotr (w x n : Nat) : Nat := x / 2 ^ n + (x % 2 ^ n) * 2 ^ (w - n)

/-- The amounts by which SHA-256 or SHA-512 turns and shifts. -/
structure Sha2 where
  w : Nat
  rounds : Nat
  big0 : Nat × Nat × Nat
  big1 : Nat × Nat × Nat
  small0 : Nat × Nat × Nat
  small1 : Nat × Nat × Nat
def sha256Par : Sha2 := ⟨32, 64, (2, 13, 22), (6, 11, 25), (7, 18, 3), (17, 19, 10)⟩
def sha512Par : Sha2 := ⟨64, 80, (28, 34, 39), (14, 18, 41), (1, 8, 7), (19, 61, 6)⟩

def Sha2.k (s : Sha2) : List Nat := (primes.take s.rounds).map (rootBits 3 s.w)

/-- The message schedule, the latest word first, grown by some words. -/
def Sha2.grow (s : Sha2) : Nat → List Nat → List Nat
  | 0, ws => ws
  | n + 1, ws =>
    let a := ws.getD 14 0
    let b := ws.getD 1 0
    let s0 := rotr s.w a s.small0.1 ^^^ rotr s.w a s.small0.2.1 ^^^ a / 2 ^ s.small0.2.2
    let s1 := rotr s.w b s.small1.1 ^^^ rotr s.w b s.small1.2.1 ^^^ b / 2 ^ s.small1.2.2
    s.grow n ((ws.getD 15 0 + s0 + ws.getD 6 0 + s1) % 2 ^ s.w :: ws)

def Sha2.turn (s : Sha2) (x : Nat) (t : Nat × Nat × Nat) : Nat := rotr s.w x t.1 ^^^ rotr s.w x t.2.1 ^^^ rotr s.w x t.2.2

/-- One round: the working variables with a constant and a schedule word. -/
def Sha2.round (s : Sha2) (v : List Nat) (kw : Nat × Nat) : List Nat :=
  match v with
  | [a, b, c, d, e, f, g, h] =>
    let ch := (e &&& f) ^^^ ((2 ^ s.w - 1 - e) &&& g)
    let t1 := h + s.turn e s.big1 + ch + kw.1 + kw.2
    let maj := (a &&& b) ^^^ (a &&& c) ^^^ (b &&& c)
    [(t1 + s.turn a s.big0 + maj) % 2 ^ s.w, a, b, c, (d + t1) % 2 ^ s.w, e, f, g]
  | _ => v

/-- The hash value after one block. -/
def Sha2.block (s : Sha2) (h : List Nat) (b : List Byte) : List Nat :=
  let w0 := ((pieces (s.w / 8) b).map ofBe).reverse
  let ws := (s.grow (s.rounds - 16) w0).reverse
  List.zipWith (fun a b => (a + b) % 2 ^ s.w) h ((s.k.zip ws).foldl s.round h)

def sha256Init : List Nat := (primes.take 8).map (rootBits 2 32)
def sha384Init : List Nat := ((primes.drop 8).take 8).map (rootBits 2 64)

/-- The padding of a message of `n` bytes: a one bit, zeros, the length in two words. -/
def Sha2.pad (s : Sha2) (n : Nat) : List Byte :=
  let block := 2 * s.w
  let len := s.w / 4
  0x80 :: List.replicate ((2 * block - (n + 1 + len) % block) % block) 0 ++ beBytes len (8 * n)

def Sha2.blocks (s : Sha2) (h : List Nat) (bs : List Byte) : List Nat := (pieces (2 * s.w) bs).foldl s.block h
def Sha2.out (s : Sha2) (h : List Nat) : List Byte := (h.map (beBytes (s.w / 8))).flatten

def sha256 (bs : List Byte) : List Byte := sha256Par.out (sha256Par.blocks sha256Init (bs ++ sha256Par.pad bs.length))
def sha384 (bs : List Byte) : List Byte := (sha512Par.out (sha512Par.blocks sha384Init (bs ++ sha512Par.pad bs.length))).take 48

/-! ## SHA3-256 (FIPS 202) -/

def rotl64 (x n : Nat) : Nat := (x * 2 ^ n) % 2 ^ 64 + x / 2 ^ (64 - n)

/-- A bit of the round constants' shift register after some steps. -/
def rcBit (t : Nat) : Nat := (List.range t).foldl (fun r _ => if r < 128 then 2 * r else (2 * r) ^^^ 0x171) 1 % 2
/-- The round constant of a round. -/
def rconst (r : Nat) : Nat := (List.range 7).foldl (fun a j => a + rcBit (7 * r + j) * 2 ^ (2 ^ j - 1)) 0

/-- Lane of x and y. -/
def lane (a : List Nat) (x y : Nat) : Nat := a.getD (x % 5 + 5 * (y % 5)) 0

/-- The rotation offsets, by lane number, walked from lane (1, 0). -/
def rotOffsets : Nat → Nat → Nat → Nat → List Nat → List Nat
  | 0, _, _, _, l => l
  | n + 1, t, x, y, l => rotOffsets n (t + 1) y ((2 * x + 3 * y) % 5) (l.set (x + 5 * y) ((t + 1) * (t + 2) / 2 % 64))
def keccakRot : List Nat := rotOffsets 24 0 1 0 (List.replicate 25 0)

/-- One round of Keccak-f. -/
def keccakRound (a : List Nat) (r : Nat) : List Nat :=
  let c := (List.range 5).map (fun x => (List.range 5).foldl (fun s y => s ^^^ lane a x y) 0)
  let d := (List.range 5).map (fun x => c.getD ((x + 4) % 5) 0 ^^^ rotl64 (c.getD ((x + 1) % 5) 0) 1)
  let a := (List.range 25).map (fun i => a.getD i 0 ^^^ d.getD (i % 5) 0)
  let b := (List.range 25).map (fun i =>
    let x := i % 5
    let y := i / 5
    -- lane (x, y) of the permuted state comes from lane (x + 3 y, x)
    let j := (x + 3 * y) % 5 + 5 * x
    rotl64 (a.getD j 0) (keccakRot.getD j 0))
  let e := (List.range 25).map (fun i =>
    let x := i % 5
    let y := i / 5
    lane b x y ^^^ ((2 ^ 64 - 1 - lane b (x + 1) y) &&& lane b (x + 2) y))
  e.set 0 (e.getD 0 0 ^^^ rconst r)

def keccakF (a : List Nat) : List Nat := (List.range 24).foldl keccakRound a

/-- Rate of SHA3-256 in bytes. -/
def sha3Rate : Nat := 136
/-- One block absorbed. -/
def sha3Block (a : List Nat) (b : List Byte) : List Nat :=
  let ls := (pieces 8 b).map ofLe
  keccakF ((List.range 25).map (fun i => a.getD i 0 ^^^ ls.getD i 0))
def sha3Pad (n : Nat) : List Byte :=
  let k := sha3Rate - n % sha3Rate
  if k = 1 then [0x86] else 0x06 :: List.replicate (k - 2) 0 ++ [0x80]
def sha3Blocks (a : List Nat) (bs : List Byte) : List Nat := (pieces sha3Rate bs).foldl sha3Block a
def sha3Out (a : List Nat) : List Byte := ((a.take 4).map (leBytes 8)).flatten
def sha3 (bs : List Byte) : List Byte := sha3Out (sha3Blocks (List.replicate 25 0) (bs ++ sha3Pad bs.length))

/-! ## Digests in segments (R238, R241, R242) -/

/-- A digest under way: its algorithm, the bytes so far, its numbers, the bytes not yet in a block, and the tree's nodes, the lowest level first. -/
structure Dig where
  alg : Nat
  len : Nat := 0
  h : List Nat
  tail : List Byte := []
  nodes : List (Nat × List Byte) := []
  deriving DecidableEq, Repr

/-- Leaf size of the tree digest. -/
def leafSize : Nat := 65536

def Dig.init (alg : Nat) : Dig :=
  match alg with
  | 1 => { alg := 1, h := [0xFFFFFFFF] }
  | 2 => { alg := 2, h := [2 ^ 64 - 1] }
  | 4 => { alg := 4, h := List.replicate 25 0 }
  | a => { alg := a, h := sha256Init }

/-- A hash of two children. -/
def treeNode (a b : List Byte) : List Byte := sha256 (0x01 :: a ++ b)

/-- A finished node joins the nodes of a tree under way: equal levels are combined. -/
def pushNode : List (Nat × List Byte) → Nat → List Byte → List (Nat × List Byte)
  | [], l, v => [(l, v)]
  | (l', v') :: r, l, v => if l = l' then pushNode r (l + 1) (treeNode v' v) else (l, v) :: (l', v') :: r

/-- Bytes taken by a SHA-256 under way: its state and the bytes not yet in a block. -/
def shaTake (h : List Nat) (t : List Byte) : List Nat × List Byte :=
  let n := t.length / 64 * 64
  (sha256Par.blocks h (t.take n), t.drop n)

/-- A tree under way takes bytes, chunk by chunk: the state of the present chunk's hash, and a node for every chunk that is full. -/
def feedTree : Nat → Dig → List Byte → Dig
  | 0, s, _ => s
  | k + 1, s, bs =>
    if bs.isEmpty then s
    else
      let at_ := s.len % leafSize
      let now := bs.take (leafSize - at_)
      let (h, t) := if at_ = 0 then shaTake sha256Init (0x00 :: now) else shaTake s.h (s.tail ++ now)
      let len := s.len + now.length
      let s' := if len % leafSize = 0 then
          { s with len := len, h := sha256Init, tail := []
                   nodes := pushNode s.nodes 0 (sha256Par.out (sha256Par.blocks h (t ++ sha256Par.pad (leafSize + 1)))) }
        else { s with len := len, h := h, tail := t }
      feedTree k s' (bs.drop (leafSize - at_))

/-- A digest takes more bytes. -/
def Dig.feed (s : Dig) (bs : List Byte) : Dig :=
  let len := s.len + bs.length
  match s.alg with
  | 1 => { s with len := len, h := [crcBytes poly32c (s.h.headD 0) bs] }
  | 2 => { s with len := len, h := [crcBytes poly64 (s.h.headD 0) bs] }
  | 3 =>
    let r := shaTake s.h (s.tail ++ bs)
    { s with len := len, h := r.1, tail := r.2 }
  | 4 =>
    let t := s.tail ++ bs
    let n := t.length / sha3Rate * sha3Rate
    { s with len := len, h := sha3Blocks s.h (t.take n), tail := t.drop n }
  | _ => feedTree (bs.length / leafSize + 2) s bs

/-- The digest in its 32-byte field of a fixity record (R239). -/
def Dig.final (s : Dig) : List Byte :=
  match s.alg with
  | 1 => leBytes 4 (s.h.headD 0 ^^^ 0xFFFFFFFF) ++ List.replicate 28 0
  | 2 => leBytes 8 (s.h.headD 0 ^^^ (2 ^ 64 - 1)) ++ List.replicate 24 0
  | 3 => sha256Par.out (sha256Par.blocks s.h (s.tail ++ sha256Par.pad s.len))
  | 4 => sha3Out (sha3Blocks s.h (s.tail ++ sha3Pad (s.len % sha3Rate)))
  | _ =>
    let at_ := s.len % leafSize
    let up := fun (v : List Byte) (ns : List (Nat × List Byte)) => ns.foldl (fun v n => treeNode n.2 v) v
    if s.len = 0 then sha256 [0x00]
    else if at_ = 0 then up ((s.nodes.map (·.2)).headD []) (s.nodes.drop 1)
    else up (sha256Par.out (sha256Par.blocks s.h (s.tail ++ sha256Par.pad (at_ + 1)))) s.nodes

/-- The digest of a byte string under an algorithm of R239. -/
def digestOf (alg : Nat) (bs : List Byte) : List Byte := ((Dig.init alg).feed bs).final

/-- A fixity record (R239). -/
def fixityRecord (alg len : Nat) (dig : List Byte) : List Byte :=
  [BitVec.ofNat 8 alg, 1] ++ List.replicate 6 0 ++ leBytes 8 len ++ slice dig 0 32
/-- A well-formed fixity record: its algorithm, length and digest. -/
def parseRecord (r : List Byte) : Option (Nat × Nat × List Byte) :=
  let a := leAt r 0 1
  if a = 0 ∨ 5 < a ∨ leAt r 1 1 ≠ 1 ∨ leAt r 2 6 ≠ 0 then none else some (a, leAt r 8 8, slice r 16 32)

/-- The value of the tree over some leaves' hashes: pairs combined, an odd node promoted (R242). -/
def treeLevel : List (List Byte) → List (List Byte)
  | a :: b :: r => treeNode a b :: treeLevel r
  | r => r
def treeOf : Nat → List (List Byte) → List Byte
  | 0, l => l.headD []
  | n + 1, l => if l.length ≤ 1 then l.headD [] else treeOf n (treeLevel l)

/-- A context of R241 as 2,048 bytes: the layout beyond bytes 0 and 1 is the model's (log entry 13). -/
def Dig.pack (s : Dig) : List Byte :=
  let head := [1, BitVec.ofNat 8 s.alg] ++ leBytes 2 s.tail.length ++ leBytes 1 s.nodes.length ++ List.replicate 3 0 ++ leBytes 8 s.len
  slice (head ++ slice ((s.h.map (leBytes 8)).flatten) 0 200 ++ slice s.tail 0 136 ++
    (s.nodes.map (fun n => leBytes 1 n.1 ++ n.2)).flatten) 0 2048

/-- The numbers a digest's state holds. -/
def digWords (alg : Nat) : Nat := match alg with | 3 => 8 | 4 => 25 | 5 => 8 | _ => 1
/-- A packed context read back. -/
def Dig.unpack (c : List Byte) : Dig :=
  let alg := leAt c 1 1
  { alg := alg, len := leAt c 8 8, h := (List.range (digWords alg)).map (fun i => leAt c (16 + 8 * i) 8)
    tail := slice c 216 (leAt c 2 2)
    nodes := (List.range (leAt c 4 1)).map (fun i => (leAt c (352 + 33 * i) 1, slice c (353 + 33 * i) 32)) }

/-! ## Reed-Solomon (R245, R246) -/

/-- The field polynomial of the erasure code. -/
def rsPoly : Nat := 0x11D
def rsMul (a b : Nat) : Nat := gfMul rsPoly 8 a b
def rsInv (a : Nat) : Nat := gfInv rsPoly a
/-- The Cauchy coefficient c(j, i). -/
def rsCoef (j i : Nat) : Nat := rsInv (j ^^^ (8 + i))
/-- A shard as a combination of the k data shards. -/
def rsRow (k s : Nat) : List Nat := (List.range k).map (fun i => if s < k then b2n (i == s) else rsCoef (s - k) i)
/-- A combination of shards, byte by byte. -/
def rsCombine (row : List Nat) (shards : List (List Byte)) : List Byte :=
  let n := (shards.headD []).length
  (row.zip shards).foldl (fun acc rs => if rs.1 = 0 then acc else xorB acc (rs.2.map (fun b => BitVec.ofNat 8 (rsMul b.toNat rs.1)))) (List.replicate n 0)

/-- One column of the inversion of a matrix with its unit matrix beside it. -/
def rsEliminate (m : List (List Nat)) (c : Nat) : List (List Nat) :=
  match (List.range m.length).find? (fun r => c ≤ r && (m.getD r []).getD c 0 != 0) with
  | none => m
  | some p =>
    let m := (m.set c (m.getD p [])).set p (m.getD c [])
    let row := (m.getD c []).map (rsMul (rsInv ((m.getD c []).getD c 0)))
    (List.range m.length).map (fun r =>
      if r = c then row else
      let f := (m.getD r []).getD c 0
      List.zipWith (fun v w => v ^^^ rsMul f w) (m.getD r []) row)

/-- The rows that give the data shards from the k chosen shards. -/
def rsInverse (k : Nat) (chosen : List Nat) : List (List Nat) :=
  let m := (List.range k).map (fun r => rsRow k (chosen.getD r 0) ++ (List.range k).map (fun i => b2n (i == r)))
  ((List.range k).foldl rsEliminate m).map (·.drop k)
/-- The row that gives shard s from the chosen shards. -/
def rsRebuildRow (k : Nat) (inv : List (List Nat)) (s : Nat) : List Nat :=
  let row := rsRow k s
  (List.range k).map (fun r => (List.range k).foldl (fun a i => a ^^^ rsMul (row.getD i 0) ((inv.getD i []).getD r 0)) 0)

/-! ## ECDSA P-384 (R376; the curve is that of FIPS 186) -/

def p384 : Nat := 2 ^ 384 - 2 ^ 128 - 2 ^ 96 + 2 ^ 32 - 1
def n384 : Nat := 0xFFFFFFFFFFFFFFFFFFFFFFFFFFFFFFFFFFFFFFFFFFFFFFFFC7634D81F4372DDF581A0DB248B0A77AECEC196ACCC52973
def b384 : Nat := 0xB3312FA7E23EE7E4988E056BE3F82D19181D9C6EFE8141120314088F5013875AC656398D8A2ED19D2A85C8EDD3EC2AEF
def g384 : Nat × Nat :=
  (0xAA87CA22BE8B05378EB1C71EF320AD746E1D3B628BA79B9859F741E082542A385502F25DBF55296C3A545E3872760AB7,
   0x3617DE4A96262C6F5D9E98BF9292DC29F8F41DBD289A147CE9DA3113B5F0B8C00A60B1CE1D7E819D7A431D7C90EA0E5F)

/-- A power modulo a number; the first argument bounds the exponent's bits. -/
def powMod (m : Nat) : Nat → Nat → Nat → Nat
  | 0, _, _ => 1
  | n + 1, b, e => ((if e % 2 = 1 then b else 1) * powMod m n (b * b % m) (e / 2)) % m
/-- Inverse modulo a prime. -/
def invMod (m a : Nat) : Nat := powMod m 384 (a % m) (m - 2)

/-- Sum of two points; none is the point at infinity. -/
def ecAdd : Option (Nat × Nat) → Option (Nat × Nat) → Option (Nat × Nat)
  | none, q => q
  | p, none => p
  | some (x1, y1), some (x2, y2) =>
    let m := p384
    if x1 = x2 ∧ (y1 + y2) % m = 0 then none
    else
      let l := if x1 = x2 then (3 * x1 * x1 + m - 3) * invMod m (2 * y1) % m else (y2 + m - y1) * invMod m (x2 + m - x1) % m
      let x3 := (l * l + 2 * m - x1 - x2) % m
      some (x3, (l * (x1 + m - x3) + m - y1) % m)

/-- Multiple of a point; the first argument bounds the factor's bits. -/
def ecMul : Nat → Nat → Option (Nat × Nat) → Option (Nat × Nat)
  | 0, _, _ => none
  | n + 1, k, p => ecAdd (if k % 2 = 1 then p else none) (ecMul n (k / 2) (ecAdd p p))

/-- A signature (r, s) of a message digest under a public key verifies. -/
def ecdsaVerify (digest : List Byte) (qx qy r s : Nat) : Bool :=
  let onCurve := decide (qx < p384 ∧ qy < p384) && qy * qy % p384 == (qx * qx * qx + (p384 - 3) * qx + b384) % p384
  if !onCurve || r = 0 || s = 0 || n384 ≤ r || n384 ≤ s then false
  else
    let w := invMod n384 s
    let u1 := ofBe digest * w % n384
    let u2 := r * w % n384
    match ecAdd (ecMul 384 u1 (some g384)) (ecMul 384 u2 (some (qx, qy))) with
    | some (x, _) => x % n384 == r
    | none => false

end Sys2Proof.Machine
end

