-- ==== Sys2Proof/Machine/HostOps.lean ====
section
/-! DEFINITION. Machine/HostOps.lean: how the device reaches the host: functions, tags, host reads and writes, interrupts (R293 to R316, R502 of 08_host_endpoint.md). -/
namespace Sys2Proof.Machine
open Sys2Proof

/-- Key of a function: 9 per host port. -/
def fnKey (h f : Nat) : Nat := 9 * h + f
/-- A function's state beside its registers. -/
def Dev.fn (d : Dev) (h f : Nat) : HostFn := tabGet d.host.fns {} (fnKey h f)
def Dev.setFn (d : Dev) (h f : Nat) (x : HostFn) : Dev := { d with host := { d.host with fns := tabPut d.host.fns {} (fnKey h f) x } }
def Dev.updFn (d : Dev) (h f : Nat) (g : HostFn → HostFn) : Dev := d.setFn h f (g (d.fn h f))

/-- Whether a host port exists under the bifurcation in force (R293). -/
def Dev.hostPortExists (d : Dev) (h : Nat) : Bool :=
  h % 4 < (match tabGet d.host.bifNow 0 (h / 4) with | 1 => 2 | 2 => 4 | _ => 1)
/-- Whether a host port presents a function (R296). -/
def Dev.fnExists (d : Dev) (h f : Nat) : Bool :=
  d.hostPortExists h && (f == 0 || (f < 9 && d.rb .hostPortCfg h (f - 1)))
/-- The host port of the primary management function (R297). -/
def Dev.mgmtPort (d : Dev) : Nat := d.rf .hostLinkCfg 0 8 2

def Dev.linkUp (d : Dev) (h : Nat) : Bool := d.rb .hostPortStat h 0
/-- Bus Master Enable of a function (HOST_FN_STAT.bme). -/
def Dev.bme (d : Dev) (h f : Nat) : Bool := d.rb .hostFnStat (fnKey h f) 28
/-- A function is in D3hot. -/
def Dev.d3 (d : Dev) (h f : Nat) : Bool := d.rf .hostFnStat (fnKey h f) 29 2 == 3
/-- Whether a function may issue requests (R312, R314, R317). -/
def Dev.canIssue (d : Dev) (h f : Nat) : Bool := d.linkUp h && d.bme h f && !d.d3 h f

/-- An error is logged in AER by the function it belongs to (R315). -/
def Dev.aer (d : Dev) (h f : Nat) (e : Aer) : Dev := d.updFn h f (fun x => { x with aer := e :: x.aer })

/-! ## Tags (R304, R305, R308) -/

/-- Completion timeout of a Completion Timeout Value, in ticks (R308). -/
def ctvTicks (c : BitVec 4) : Nat :=
  match c.toNat with
  | 1 => 18750 | 2 => 1250000 | 5 => 8000000 | 6 => 32000000 | 9 => 128000000
  | 10 => 500000000 | 13 => 2000000000 | 14 => 8000000000 | _ => 2500000

/-- Tags a port's tag size allows (R304). -/
def Dev.portTagLimit (d : Dev) (h : Nat) : Nat :=
  match d.rf .hostPortStat h 16 8 with | 14 => 8192 | 10 => 768 | _ => 256

/-- Requests out that hold a tag: those whose reply has not come. -/
def Dev.tagsWhere (d : Dev) (p : HostReq → Bool) : Nat := (d.host.reqs.filter (fun e => p e.2 && e.2.reply.isNone)).length

/-- Transfers that write to host memory through function `f` of host port `h` and whose read-back has not returned (R306). -/
def Dev.writesOut (d : Dev) (h f : Nat) : Nat :=
  (d.dma.chans.filter (fun e => match e.2.xfer with
    | some x => decide (0 < x.written) && d.rb .dmaChMode e.1 1 && (match x.stage with | .ended _ => false | _ => true) &&
      d.rf .dmaChOwner e.1 0 3 + 1 == f &&
      d.ptn.slices.any (fun s => s.2.grant.any (fun g => g.part + 1 == f && g.port == h && g.pasid == d.rf .dmaChPasid e.1 0 20))
    | none => false)).length

/-- Host operations of a function in flight: requests out and transfers that await their read-back (R306). -/
def Dev.opsOut (d : Dev) (h f : Nat) : Nat := d.tagsWhere (fun r => r.h == h && r.f == f) + d.writesOut h f

/-- Whether a function has room for one more host operation (R306). -/
def Dev.opFree (d : Dev) (h f : Nat) : Bool := decide (d.opsOut h f < 4 * d.rf .hostFnTags (fnKey h f) 0 14)

/-- Whether a function finds a tag for one more request (R304 to R306). -/
def Dev.tagFree (d : Dev) (h f : Nat) : Bool :=
  let held := d.rf .hostFnStat (fnKey h f) 0 14 + d.rf .hostFnStat (fnKey h f) 14 14
  held < d.rf .hostFnTags (fnKey h f) 0 14 && d.opFree h f &&
  d.tagsWhere (fun r => r.h / 4 == h / 4) < 8192 &&
  d.tagsWhere (fun r => r.h == h) < d.portTagLimit h

/-- The first free tag number from the next one on. -/
def Dev.freeTag (d : Dev) : Nat :=
  ((List.range (d.host.reqs.length + 1)).map (fun k => (d.host.nextTag + k) % 16384)).find?
    (fun t => (tabFind t d.host.reqs).isNone) |>.getD d.host.nextTag

/-- HOST_FN_STAT and HOST_LINK_STAT as the tags out give them. -/
def Dev.countTags (d : Dev) (h f : Nat) : Dev :=
  let d := d.setRf .hostFnStat (fnKey h f) 0 14 (d.tagsWhere (fun r => r.h == h && r.f == f && !r.quarantined))
  let d := d.setRf .hostFnStat (fnKey h f) 14 14 (d.tagsWhere (fun r => r.h == h && r.f == f && r.quarantined))
  let d := d.setRf .hostLinkStat (h / 4) 0 14 (d.tagsWhere (fun r => r.h / 4 == h / 4 && !r.quarantined))
  d.setRf .hostLinkStat (h / 4) 16 14 (d.tagsWhere (fun r => r.h / 4 == h / 4 && r.quarantined))

/-- Traffic on a host port takes its link out of L1 (R318). -/
def Dev.wakeLink (d : Dev) (h : Nat) : Dev := if d.rb .hostPortStat h 15 then d.setRb .hostPortStat h 15 false else d

/-- A host read goes out on a function with a tag, for a slice or for none: the device with the request out. The caller has found a tag free. -/
def Dev.hostRead (d : Dev) (h f : Nat) (slice : Option Nat) (op : HostOp) (addr len : Nat) : Dev :=
  let t := d.freeTag
  let r : HostReq := ⟨h, f, slice, op, addr, len, d.time.tick, ctvTicks (d.fn h f).ctv, false, none⟩
  ((({ d with host := { d.host with reqs := tabIns t r d.host.reqs, nextTag := (t + 1) % 16384 } }).countTags h f).count (evHost h 2)).wakeLink h

/-- A tag returns to the pool. -/
def Dev.dropTag (d : Dev) (t : Nat) : Dev :=
  match tabFind t d.host.reqs with
  | some r => ({ d with host := { d.host with reqs := tabDel t d.host.reqs } }).countTags r.h r.f
  | none => d

/-- The reply that has come for an operation's request, with its tag. -/
def Dev.replyFor (d : Dev) (op : HostOp) : Option (Nat × Reply) :=
  d.host.reqs.findSome? (fun e => if e.2.op = op && !e.2.quarantined then e.2.reply.map (fun r => (e.1, r)) else none)
/-- The tag an operation's request holds. -/
def Dev.tagFor (d : Dev) (op : HostOp) : Option Nat :=
  (d.host.reqs.find? (fun e => e.2.op = op && !e.2.quarantined)).map (·.1)
/-- An operation's request is answered or abandoned: its tag returns. -/
def Dev.endOp (d : Dev) (op : HostOp) : Dev := match d.tagFor op with | some t => d.dropTag t | none => d

/-- Operations that have ended: their requests stay out, and what comes back or has come is discarded (R309, R312, R338). -/
def Dev.discardReqs (d : Dev) (p : HostReq → Bool) : Dev :=
  let out := d.host.reqs.filter (fun e => !(p e.2 && e.2.reply.isSome))
  { d with host := { d.host with reqs := out.map (fun e => if p e.2 then (e.1, { e.2 with op := .discarded }) else e) } }
def Dev.discardOps (d : Dev) (p : HostOp → Bool) : Dev := d.discardReqs (fun r => p r.op)

/-! ## Writes -/

/-- A posted write to host memory leaves the device (R502), as one output. -/
def Dev.hostEmit (d : Dev) (h f : Nat) (pasid : Word) (addr : Nat) (bs : List Byte) : Dev :=
  (((d.emit (.hostWrite h f pasid addr bs)).count (evHost h 3)).countBy (evHost h 5) bs.length).wakeLink h

/-- A posted write to host memory; the writes of a partition inside the gap of a switch-over go to its output buffer (R419). -/
def Dev.hostWrite (d : Dev) (h f : Nat) (pasid : Word) (addr : Nat) (bs : List Byte) : Dev :=
  if decide (0 < f) && (d.duplex (f - 1)).moved then
    let x := d.duplex (f - 1)
    let w := (h, f, pasid, addr, bs)
    d.setDuplex (f - 1) { x with held := x.held ++ [w] }
  else d.hostEmit h f pasid addr bs

/-- The output buffer of a partition's switch-over is full: a write waits at its source (R419). -/
def Dev.gapFull (d : Dev) (p : Nat) : Bool :=
  let x := d.duplex p
  x.moved && decide (1048576 ≤ x.held.foldl (fun a w => a + w.2.2.2.2.length) 0)

/-! ## Interrupts (R310, R311) -/

/-- Some bit of a function's HOST_INTX_PEND is set. -/
def Dev.intxAny (d : Dev) (h f : Nat) : Bool := (List.range 64).any (fun i => d.reg .hostIntxPend (64 * fnKey h f + i) != 0)
/-- INTA is asserted: INTx is the mechanism and a bit is set (R311). -/
def Dev.intaOn (d : Dev) (h f : Nat) : Bool :=
  let x := d.fn h f
  !x.msixEn && !x.msiEn && !x.intxDis && d.intxAny h f
/-- HOST_FN_IRQ.mechanism as the enables give it. -/
def Dev.irqMech (d : Dev) (h f : Nat) : Dev :=
  let x := d.fn h f
  d.setRf .hostFnIrq (fnKey h f) 0 2 (if x.msixEn then 1 else if x.msiEn then 2 else if !x.intxDis then 3 else 0)
/-- INTA follows its condition: a change is emitted. -/
def Dev.intaEdge (d before : Dev) (h f : Nat) : Dev :=
  if d.intaOn h f = before.intaOn h f then d else d.emit (.inta h f (d.intaOn h f))

/-- A vector of a function is raised (R310). -/
def Dev.interrupt (d : Dev) (h f v : Nat) : Dev :=
  let x := d.fn h f
  if x.msixEn then
    if !d.bme h f then d.setFn h f { x with held := if x.held.contains v then x.held else x.held ++ [v] }
    else if x.fnMask || !x.unmasked.contains v then d.setFn h f { x with pba := if x.pba.contains v then x.pba else x.pba ++ [v] }
    else ((d.emit (.msix h f v)).count (evHost h 14)).wakeLink h
  else if x.msiEn then
    let m := v % Nat.max x.msiCount 1
    if !d.bme h f then d.setFn h f { x with held := if x.held.contains v then x.held else x.held ++ [v] }
    else if x.msiMask.getLsbD m then d.setFn h f { x with msiPend := x.msiPend ||| (1#32 <<< m) }
    else ((d.emit (.msi h f m)).count (evHost h 14)).wakeLink h
  else
    (d.setRb .hostIntxPend (64 * fnKey h f + v / 32) (v % 32) true).intaEdge d h f

/-- The manager is interrupted (R398): FLT_IRQ names the vector of the primary management function. -/
def Dev.interruptManager (d : Dev) : Dev :=
  if d.rb .fltIrq 0 11 then d.interrupt d.mgmtPort 0 (d.rf .fltIrq 0 0 11) else d

end Sys2Proof.Machine
end

