-- ==== Sys2Proof/Machine/MemIns.lean ====
section
/-! DEFINITION. Machine/MemIns.lean: loads, stores, atomics, fence and locks (R65 to R74 of 02_engine_cores.md, R106, R107, R111 to R114 of 03_dunval_instruction_set.md). -/
namespace Sys2Proof.Machine
open Sys2Proof

/-! ## Stores on their way -/

/-- The slice of a partition bound to a PASID (R107, R298). -/
def Dev.sliceOfPasid (d : Dev) (p : Nat) (pasid : Word) : Option (Nat × SliceGrant) :=
  d.ptn.slices.findSome? (fun e => match e.2.grant with
    | some g => if g.part == p && g.pasid == wf pasid 0 20 then some (e.1, g) else none
    | none => none)

/-- Whether an address or space lies beyond a thread's own island, so that a standby discards what it sends there (R413). -/
def leavesIsland (tid : Nat) (sp : BitVec 2) (phys : Nat) : Bool :=
  match sp.toNat with
  | 0 => false
  | 1 => phys / 2 ^ 44 != islOf tid
  | _ => true

/-- A program event counter of a partition adds a value, modulo 2^64 (R126, R430). -/
def Dev.progCount (d : Dev) (p n : Nat) (v : Word) : Dev :=
  { d with cnt := { d.cnt with prog := tabPut d.cnt.prog 0 (512 * p + n) (tabGet d.cnt.prog 0 (512 * p + n) + v) } }

/-- A store or counter add reaches its target: the device with it done, and the exception code with which it failed (R107, R129). -/
def Dev.deliver (d : Dev) (tid : Nat) (o : StoreOp) : Dev × Option (Nat × Nat) :=
  match d.partOf tid, o.kind with
  | none, _ => (d, none)
  | some p, .count n v => (if d.isStandby tid then d else d.progCount p n v, none)
  | some p, .store sp ea bs =>
    let a := physAddr d tid sp ea
    if d.isStandby tid && leavesIsland tid sp a then (d, none)
    else if sp.toNat = 3 then
      match d.sliceOfPasid p o.pasid with
      | none => (d, some (3, ea))
      | some (sl, g) =>
        if d.rf .slcState sl 0 3 = 3 then (d, some (3, ea))
        else if !d.linkUp g.port then (d, some (6, ea))
        else if d.canIssue g.port (p + 1) then ((d.hostWrite g.port (p + 1) o.pasid ea bs).count 993, none)
        else (d, some (3, ea))
    else
      match d.checkMem (.part p) a bs.length with
      | .ok => (d.write a bs, none)
      | .decode => (d, some (5, ea))
      | .denied => (d, some (3, ea))

/-- The oldest entry of a thread's store queue is delivered; a failure waits to be reported. -/
def Dev.drainOne (d : Dev) (tid : Nat) : Dev :=
  match (d.thread tid).stq with
  | [] => d
  | o :: _ =>
    if (d.partOf tid).any (fun p => d.gapFull p) && (match o.kind with | .store sp _ _ => sp == 3 | .count .. => false) then d
    else
    let (d, e) := d.deliver tid o
    d.updThread tid (fun t => { t with
      stq := t.stq.drop 1
      storeErrs := match e with
        | some (c, ea) => t.storeErrs ++ [⟨c, ea, o.pc, o.slot⟩]
        | none => t.storeErrs })

/-- Every entry of a thread's store queue is delivered, in issue order (R67). -/
def Dev.flush (d : Dev) (tid : Nat) : Dev :=
  (List.range (d.thread tid).stq.length).foldl (fun d _ => d.drainOne tid) d

/-- The bytes of a thread's queued stores that a load of `size` bytes at `ea` in a space sees (R67), by address. -/
def forwarded (q : List StoreOp) (sp : BitVec 2) (ea size : Nat) : Tab Byte :=
  q.foldl (fun t o => match o.kind with
    | .store sp' a bs =>
      if sp' = sp then
        (List.range bs.length).foldl (fun t k => if ea ≤ a + k ∧ a + k < ea + size then tabIns (a + k) (bs.getD k 0) t else t) t
      else t
    | .count .. => t) []

/-- The value a load takes: bytes of its target, with forwarded ones in their places, zero-extended (R93, R111). -/
def loadValue (mem : List Byte) (ea : Nat) (fwd : Tab Byte) : Word :=
  BitVec.ofNat 64 (ofLe ((List.range mem.length).map (fun k => (tabFind (ea + k) fwd).getD (mem.getD k 0))))

/-! ## Issue of loads, stores, atomics -/

/-- R66: the bank of an address of a core's own island memory, if it is one. -/
def bankOf (d : Dev) (tid : Nat) (sp : BitVec 2) (ea size : Nat) : Option Nat :=
  if sp.toNat = 1 then
    match d.region (physAddr d tid sp ea) size with
    | some (.island isl o) => if isl = islOf tid then some (o / 64 % 16) else none
    | _ => none
  else none

/-- R66: some thread of the core has a request out at the bank. -/
def bankBusy (d : Dev) (tid : Nat) (bank : Option Nat) : Bool :=
  match bank with
  | none => false
  | some b => (threadsOf (coreOf tid)).any (fun u => (d.thread u).outs.any (fun o =>
      match o.kind with
      | .load sp ea size _ => bankOf d u sp ea size == some b
      | .atomAdd sp ea size _ => bankOf d u sp ea size == some b
      | .atomSwap sp ea size _ => bankOf d u sp ea size == some b
      | .atomCas sp ea size _ _ => bankOf d u sp ea size == some b
      | _ => false))

/-- Loads a thread has out to memories other than its local data memory (R67). -/
def Thread.loadsOut (t : Thread) : Nat :=
  (t.outs.filter (fun o => match o.kind with | .load .. => true | _ => false)).length

/-- An operation goes out whose result comes later. -/
def Dev.sendOp (d : Dev) (tid : Nat) (t : Thread) (slot : Slot) (kind : OutKind) (rd : BitVec 5) (res : Option Word) : Dev :=
  d.updThread tid (fun x => { x with outs := x.outs ++ [⟨x.nextId, kind, rd, t.pc, slot, d.ns, t.pasid, res⟩], nextId := x.nextId + 1 })

/-- A host load goes out as a host read where its slice and its function allow it and a tag is free (R304); else it waits at the memory hub. -/
def Dev.sendHostLoad (d : Dev) (tid p : Nat) (t : Thread) (ea size : Nat) : Dev :=
  match d.sliceOfPasid p t.pasid with
  | some (sl, g) =>
    if d.canIssue g.port (p + 1) && d.tagFree g.port (p + 1) && !d.isStandby tid then
      (d.hostRead g.port (p + 1) (some sl) (.load tid ((d.thread tid).nextId - 1)) ea size).count 992
    else d
  | none => d

/-- LD: R111. -/
def execLd (i : Issue) (sp sz : BitVec 2) (rd ra : BitVec 5) (off : BitVec 8) (s : State) : Out :=
  let tid := i.tid.val
  issue i (Instr.wf (.ld i sp sz rd ra off)) 1 (sp != 0#2) (destG rd) [rd, ra]
    (fun t b d =>
      let size := szBytes sz
      let ea := effAddr (t.reg ra) off size
      match issueCheck d tid t.pasid sp ea size with
      | some code => .exc code ea
      | none =>
        if sp = 0#2 then onThread i (fun x => x.setReg rd (loadValue (b.read (localAddr (coreOf tid) ea) size) ea [])) d
        else if t.loadsOut ≥ 4 then .starve
        else if bankBusy d tid (bankOf d tid sp ea size) then .starve
        else
          let d := d.sendOp tid t i.slot (.load sp ea size (forwarded t.stq sp ea size)) rd none
          .done (if sp = 3#2 then (match d.partOf tid with | some p => d.sendHostLoad tid p t ea size | none => d) else d)) s

/-- ST: R111. A local store is complete at once; any other goes through the store queue of four entries (R67). -/
def execSt (i : Issue) (sp sz : BitVec 2) (rs ra : BitVec 5) (off : BitVec 8) (s : State) : Out :=
  let tid := i.tid.val
  issue i (Instr.wf (.st i sp sz rs ra off)) 1 (sp != 0#2) 0 [rs, ra]
    (fun t _ d =>
      let size := szBytes sz
      let ea := effAddr (t.reg ra) off size
      let bs := leBytes size (t.reg rs).toNat
      match issueCheck d tid t.pasid sp ea size with
      | some code => .exc code ea
      | none =>
        if sp = 0#2 then .done (d.write (localAddr (coreOf tid) ea) bs)
        else if t.stq.length ≥ 4 then .starve
        else if bankBusy d tid (bankOf d tid sp ea size) then .starve
        else onThread i (fun x => { x with stq := x.stq ++ [⟨.store sp ea bs, t.pc, i.slot, t.pasid⟩] }) d) s

/-- Size of an atomic in bytes (R112). -/
def atomBytes (sz : BitVec 1) : Nat := if sz = 0#1 then 4 else 8

/-- An atomic on memory bytes at an internal address: the old value, zero-extended, and the device with the new one stored. -/
def Dev.atomic (d : Dev) (a size : Nat) (f : Nat → Option Nat) : Word × Dev :=
  let old := ofLe (d.read a size)
  (BitVec.ofNat 64 old, match f old with
    | some v => d.write a (leBytes size v)
    | none => d)

/-- The three atomics share their issue (R112): checks of R107, at once in local space, as an operation that returns later elsewhere. -/
def atomIssue (i : Issue) (legal : Bool) (sp : BitVec 2) (sz : BitVec 1) (rd ra rb : BitVec 5)
    (kind : BitVec 2 → Nat → Nat → Thread → OutKind) (f : Thread → Nat → Option Nat) (s : State) : Out :=
  let tid := i.tid.val
  issue i legal (if sp = 0#2 then 2 else 1) (sp != 0#2) (destG rd) [rd, ra, rb]
    (fun t _ d =>
      let size := atomBytes sz
      let ea := (t.reg ra).toNat
      match issueCheck d tid t.pasid sp ea size with
      | some code => .exc code ea
      | none =>
        if sp = 0#2 then
          let (old, d) := d.atomic (localAddr (coreOf tid) ea) size (f t)
          onThread i (fun x => x.setReg rd old) d
        else if bankBusy d tid (bankOf d tid sp ea size) then .starve
        else .done (d.sendOp tid t i.slot (kind sp ea size t) rd none)) s

/-- ATOM.ADD: R112. -/
def execAtomAdd (i : Issue) (sp : BitVec 2) (sz : BitVec 1) (rd ra rb : BitVec 5) (s : State) : Out :=
  atomIssue i (Instr.wf (.atomAdd i sp sz rd ra rb)) sp sz rd ra rb
    (fun sp ea size t => .atomAdd sp ea size (t.reg rb)) (fun t old => some (old + (t.reg rb).toNat)) s

/-- ATOM.SWAP: R112. -/
def execAtomSwap (i : Issue) (sp : BitVec 2) (sz : BitVec 1) (rd ra rb : BitVec 5) (s : State) : Out :=
  atomIssue i (Instr.wf (.atomSwap i sp sz rd ra rb)) sp sz rd ra rb
    (fun sp ea size t => .atomSwap sp ea size (t.reg rb)) (fun t _ => some (t.reg rb).toNat) s

/-- ATOM.CAS: R112, comparing the bytes of its size with rd's. -/
def execAtomCas (i : Issue) (sp : BitVec 2) (sz : BitVec 1) (rd ra rb : BitVec 5) (s : State) : Out :=
  atomIssue i (Instr.wf (.atomCas i sp sz rd ra rb)) sp sz rd ra rb
    (fun sp ea size t => .atomCas sp ea size (t.reg rb) (t.reg rd))
    (fun t old => if old = (t.reg rd).toNat % 2 ^ (8 * atomBytes sz) then some (t.reg rb).toNat else none) s

/-- STORE_ERROR_RESPONSE: a store of the thread fails at its target and is reported; the thread continues (R129). -/
def execStoreErrorResponse (tid : Fin 576) (s : State) : Out :=
  event (fun d =>
    let d := if (d.thread tid.val).storeErrs.isEmpty then d.drainOne tid.val else d
    match (d.thread tid.val).storeErrs with
    | [] => d
    | e :: es => (d.updThread tid.val (fun t => { t with storeErrs := es })).raiseExc tid.val e.code e.pc e.slot e.ea) s

/-- FENCE: R113, the next bundle waits for every earlier operation and store. -/
def execFence (i : Issue) (s : State) : Out :=
  issue i (Instr.wf (.fence i)) 1 false 0 [] (fun _ _ d => onThread i (fun x => { x with fence := true }) d) s

/-! ## Locks (R70 to R74, R114) -/

/-- The lock number an instruction names, if the thread's partition holds it (R70, R114). -/
def lockNumber (d : Dev) (tid : Nat) (base : Word) (imm : BitVec 12) : Option Nat :=
  let n := (base + zext64 imm).toNat
  match d.partOf tid with
  | some p => if n < 4096 && d.granted p 2 0 n then some n else none
  | none => none

/-- LKACQ: R114. The request goes to the lock's home island. -/
def execLkacq (i : Issue) (rd ra : BitVec 5) (imm : BitVec 12) (s : State) : Out :=
  let tid := i.tid.val
  issue i (Instr.wf (.lkacq i rd ra imm)) 1 true (destG rd) [rd, ra]
    (fun t _ d =>
      match lockNumber d tid (t.reg ra) imm with
      | none => .exc 3 (t.reg ra + zext64 imm).toNat
      | some n => .done ((d.sendOp tid t i.slot (.acquire n) rd none).count (evE (islOf tid) (16 * (coreOf tid % 16) + 6)))) s

/-- LKREL: R114, after the thread's earlier stores (R67). A standby's lock request is an output (R413). -/
def execLkrel (i : Issue) (ra : BitVec 5) (imm : BitVec 12) (s : State) : Out :=
  let tid := i.tid.val
  issue i (Instr.wf (.lkrel i ra imm)) 1 true 0 [ra]
    (fun t _ d =>
      match lockNumber d tid (t.reg ra) imm with
      | none => .exc 3 (t.reg ra + zext64 imm).toNat
      | some n =>
        let d := d.flush tid
        .done (if d.isStandby tid then d else { d with relPend := d.relPend ++ [(n, tid, t.pc, i.slot)] })) s

def Dev.lockHeld (d : Dev) (n : Nat) : Bool := d.rb .lock n 16
def Dev.lockOwner (d : Dev) (n : Nat) : Nat := d.rf .lock n 0 10
def Dev.lockPrev (d : Dev) (n : Nat) : Nat := d.rf .lock n 32 10

/-- A lock is freed; its previous winner stays (R74). -/
def Dev.freeLock (d : Dev) (n : Nat) : Dev := d.setReg .lock n (BitVec.ofNat 64 (d.lockPrev n * 2 ^ 32))
/-- A lock is won. -/
def Dev.winLock (d : Dev) (n tid : Nat) : Dev := d.setReg .lock n (BitVec.ofNat 64 (tid * 2 ^ 32 + 2 ^ 16 + tid))

/-- The first of some threads in global thread order after a previous winner (R72, R262). -/
def firstAfter (prev : Nat) (who : List Nat) : Option Nat :=
  who.foldl (fun best t => match best with
    | none => some t
    | some b => if (t + 576 - prev - 1) % 576 < (b + 576 - prev - 1) % 576 then some t else best) none

/-- The pending request of a kind gets its result. -/
def Dev.answer (d : Dev) (tid : Nat) (p : OutKind → Bool) (v : Word) : Dev :=
  d.updThread tid (fun t =>
    match t.outs.findIdx? (fun o => p o.kind && o.res.isNone) with
    | some k => { t with outs := t.outs.modify k (fun o => { o with res := some v }) }
    | none => t)

/-- Whether a thread has a request of a kind that waits for its arbiter. -/
def Dev.asks (d : Dev) (tid : Nat) (p : OutKind → Bool) : Bool :=
  (d.thread tid).outs.any (fun o => p o.kind && o.res.isNone) && !d.isStandby tid

/-- The home island of a lock decides among the acquires of some threads that meet in one cycle (R71, R72). -/
def Dev.lockArbitrate (d : Dev) (n : Nat) (who : List Nat) : Dev :=
  let is := fun k => k == OutKind.acquire n
  let ws := who.filter (fun t => d.asks t is)
  let lose := fun (owner : Nat) (d : Dev) (t : Nat) =>
    (d.answer t is (BitVec.ofNat 64 owner)).count (evE (islOf t) (16 * (coreOf t % 16) + 7))
  if d.lockHeld n then ws.foldl (lose (d.lockOwner n)) d
  else match firstAfter (d.lockPrev n) ws with
    | none => d
    | some w => (ws.filter (· != w)).foldl (lose w) ((d.winLock n w).answer w is (BitVec.ofNat 64 (2 ^ 16 + w)))

/-- LOCK_ARBITRATE: R71, R72. -/
def execLockArbitrate (lock : Fin 4096) (who : List (Fin 576)) (s : State) : Out :=
  event (fun d => d.lockArbitrate lock.val (who.map (·.val))) s

/-- LOCK_RELEASE_ARRIVE: the oldest release on its way to a lock reaches it (R71). -/
def execLockReleaseArrive (lock : Fin 4096) (s : State) : Out :=
  event (fun d =>
    let n := lock.val
    match d.relPend.find? (fun r => r.1 == n) with
    | none => d
    | some r =>
      let d := { d with relPend := d.relPend.erase r }
      if d.lockHeld n && d.lockOwner n == r.2.1 then d.freeLock n
      else d.raise 656 (2 + n / 1024) (d.partOf r.2.1) (some r.2.1) 0
        (n + (if d.lockHeld n then d.lockOwner n else 0x3FF) * 2 ^ 16 + r.2.1 * 2 ^ 32)) s

end Sys2Proof.Machine
end

