-- ==== Sys2Proof/Machine/TimeEv.lean ====
section
/-! DEFINITION. Machine/TimeEv.lean: time and event instructions and the timers (R32 of 01_islands_and_time.md, R58 to R63 of 02_engine_cores.md, R105, R115 to R117 of 03_dunval_instruction_set.md). -/
namespace Sys2Proof.Machine
open Sys2Proof

/-- The next recorded inputs of a standby's thread, and the thread without them (R412). -/
def Thread.takeReplay (t : Thread) (n : Nat) : Option (List Word × Thread) :=
  if t.replay.length < n then none else some (t.replay.take n, { t with replay := t.replay.drop n })

/-- The tick TNOW names: this one or the one before, whichever has crossed the synchroniser; never before the last one but across a step (R32). -/
def tnowTick (d : Dev) (tid : Nat) (t : Thread) (lag : Bool) : Nat :=
  let now := d.islNow (islOf tid)
  let seen := if lag then now - d.rf .timeAddend 0 0 32 else now
  if t.tnowSteps = d.time.steps then Nat.max seen t.tnow else seen

/-- TNOW: R115. The lag is a free value. A standby takes the active's recorded result (R412). -/
def execTnow (i : Issue) (rd : BitVec 5) (s : State) : Out :=
  let tid := i.tid.val
  issue i (Instr.wf (.tnow i rd)) 1 false (destG rd) [rd]
    (fun _ _ d =>
      if d.replays tid then
        match (d.thread tid).takeReplay 2 with
        | none => .starve
        | some (vs, t') =>
          let v := vs.getD 0 0
          let at_ := (((vs.getD 1 0).toNat * 2 ^ 32 + v.toNat / 2 ^ 32) * nsPerSec + v.toNat % 2 ^ 32) * 65536
          .done (d.setThread tid ({ t' with tnow := at_, tnowSteps := d.time.steps }.setReg rd v))
      else
        let (w, d) := d.fresh
        let at_ := tnowTick d tid (d.thread tid) (wbit w 0)
        let v := timeWord (at_ / 65536)
        let d := d.updThread tid (fun x => ({ x with tnow := at_, tnowSteps := d.time.steps }).setReg rd v)
        .done ((d.recordInput tid v).recordInput tid (BitVec.ofNat 64 (at_ / 65536 / nsPerSec / 2 ^ 32)))) s

/-- TNOWH: R115, seconds [47:32] of the same tick. -/
def execTnowh (i : Issue) (rd : BitVec 5) (s : State) : Out :=
  issue i (Instr.wf (.tnowh i rd)) 1 false (destG rd) [rd]
    (fun t _ d => onThread i (fun x => x.setReg rd (BitVec.ofNat 64 (t.tnow / 65536 / nsPerSec / 2 ^ 32 % 2 ^ 16))) d) s

/-- A time word plus signed nanoseconds, normalised (R115). -/
def timeAdd (a b : Word) : Word :=
  let total : Int := (a.toNat % 2 ^ 32 : Nat) + b.toInt
  let sec : Int := (a.toNat / 2 ^ 32 : Nat) + total / nsPerSec
  BitVec.ofNat 64 ((sec % 2 ^ 32).toNat * 2 ^ 32 + (total % nsPerSec).toNat)

/-- TADD: R115, 3 slots. -/
def execTadd (i : Issue) (rd ra rb : BitVec 5) (s : State) : Out :=
  issue i (Instr.wf (.tadd i rd ra rb)) 3 false (destG rd) [rd, ra, rb]
    (fun t _ d =>
      if !timeWordOk (t.reg ra) then .exc 8 (t.reg ra).toNat
      else onThread i (fun x => x.setReg rd (timeAdd (t.reg ra) (t.reg rb))) d) s

/-- TWAIT: R62, R115. -/
def execTwait (i : Issue) (ra : BitVec 5) (s : State) : Out :=
  let tid := i.tid.val
  issue i (Instr.wf (.twait i ra)) 1 false 0 [ra]
    (fun t _ d =>
      if !timeWordOk (t.reg ra) then .exc 8 (t.reg ra).toNat
      else
        let now := d.islNs (islOf tid)
        let target := expandTime (now / nsPerSec) (t.reg ra)
        if target ≤ now then .done d
        else onThread i (fun x => { x with st := .waiting, wait := .twait target, stepping := t.stepping }) d) s

/-- TWAIT_EXPIRE: a thread in TWAIT whose target has come wakes (R26, R58). -/
def execTwaitExpire (tid : Fin 576) (s : State) : Out :=
  event (fun d =>
    let t := d.thread tid.val
    match t.st, t.wait with
    | .waiting, .twait target =>
      if target ≤ d.islNs (islOf tid.val) then
        (d.setThread tid.val t.wake).count (evE (islOf tid.val) (16 * (coreOf tid.val % 16) + 12))
      else d
    | _, _ => d) s

/-- TSET: R61, R115. -/
def execTset (i : Issue) (ra rb : BitVec 5) (s : State) : Out :=
  let tid := i.tid.val
  issue i (Instr.wf (.tset i ra rb)) 1 false 0 [ra, rb]
    (fun t _ d =>
      if !timeWordOk (t.reg ra) then .exc 8 (t.reg ra).toNat
      else
        let target := expandTime (d.islNs (islOf tid) / nsPerSec) (t.reg ra)
        onThread i (fun x => { x with timer := some target, period := (t.reg rb).toNat % 2 ^ 32 }) d) s

/-- TCLR: R115, a pending ev30 stays pending. -/
def execTclr (i : Issue) (s : State) : Out :=
  issue i (Instr.wf (.tclr i)) 1 false 0 [] (fun _ _ d => onThread i (fun x => { x with timer := none, period := 0 }) d) s

/-- The timer after it fires at `now` for its target: a periodic one moves to its first occurrence after `now` and counts those it passes over (R61). -/
def Thread.timerNext (t : Thread) (target now : Nat) : Thread :=
  if t.period = 0 then { t with timer := none }
  else
    let step := t.period * 4
    let passedBy := (now - target) / step
    { t with timer := some (target + (passedBy + 1) * step), skip := Nat.min (t.skip + passedBy) (2 ^ 32 - 1) }

/-- TIMER_EV30_FIRE: a thread's timer has come; ev30 becomes pending (R26, R59, R61). -/
def execTimerEv30Fire (tid : Fin 576) (s : State) : Out :=
  event (fun d =>
    match (d.thread tid.val).timer with
    | none => d
    | some target =>
      let now := d.islNs (islOf tid.val)
      if target ≤ now then (d.updThread tid.val (fun t => t.timerNext target now)).setEvent tid.val 30 else d) s

/-- A periodic timer across a step of device time to `now`: it continues on its own grid from its first occurrence at or after the new time, counting those a forward step skips (R27, R61). -/
def Thread.timerStep (t : Thread) (now : Nat) : Thread :=
  match t.timer with
  | none => t
  | some target =>
    if t.period = 0 then t
    else
      let step := t.period * 4
      if target < now then
        let passedBy := (now - target + step - 1) / step
        { t with timer := some (target + passedBy * step), skip := Nat.min (t.skip + passedBy) (2 ^ 32 - 1) }
      else { t with timer := some (target - (target - now) / step * step) }

/-- WAITEV: R60, R116. A standby takes the active's recorded result. -/
def execWaitev (i : Issue) (rd ra : BitVec 5) (s : State) : Out :=
  let tid := i.tid.val
  issue i (Instr.wf (.waitev i rd ra)) 1 false (destG rd) [rd, ra]
    (fun t _ d =>
      let mask := waitMask (d.isSupervisor tid) (t.reg ra)
      if mask = 0 then onThread i (fun x => x.setReg rd 0) d
      else if d.replays tid then
        match (d.thread tid).takeReplay 1 with
        | none => .starve
        | some (vs, t') => .done (d.setThread tid (t'.setReg rd (vs.getD 0 0)))
      else
        let p := (d.thread tid).ev &&& mask
        if p = 0 then onThread i (fun x => { x with st := .waiting, wait := .events rd mask, stepping := t.stepping }) d
        else .done ((d.updThread tid (fun x => x.takeEvents rd mask)).recordInput tid (p.setWidth 64))) s

/-- SIGEV.T: R117, ordered after the thread's earlier stores (R67). -/
def execSigevT (i : Issue) (ra : BitVec 5) (line : BitVec 5) (s : State) : Out :=
  let tid := i.tid.val
  issue i (Instr.wf (.sigevT i ra line)) 1 true 0 [ra]
    (fun t _ d =>
      let target := (t.reg ra).toNat % 1024
      if 30 ≤ line.toNat then .exc 7 line.toNat
      else if 576 ≤ target ∨ d.partOf target ≠ d.partOf tid then .exc 3 target
      else
        let d := d.flush tid
        .done (if d.isStandby tid then d
          else (d.setEvent (d.activeTid target) line.toNat).count (evE (islOf tid) (16 * (coreOf tid % 16) + 11)))) s

/-- The threads of a group's member bitmap (R164); in duplex those of the active island. -/
def Dev.groupMembers (d : Dev) (g : Nat) : List Nat :=
  ((List.range 128).filter (fun b => d.rb .clsGrpMem (4 * g + b / 32) (b % 32))).map (fun b => d.activeTid (128 * (g / 256) + b))

/-- Whether a group is one of a partition's thread groups, all of its members in the partition (R117, R164). -/
def Dev.groupOk (d : Dev) (p g : Nat) : Bool :=
  g < 1024 && d.granted p 9 0 g && d.rf .clsGrp g 0 3 == p && (d.groupMembers g).all (fun t => d.partOf t == some p)

/-- SIGEV.G: R117. -/
def execSigevG (i : Issue) (ra : BitVec 5) (line : BitVec 5) (s : State) : Out :=
  let tid := i.tid.val
  issue i (Instr.wf (.sigevG i ra line)) 1 true 0 [ra]
    (fun t _ d =>
      let g := (t.reg ra).toNat % 65536
      if 30 ≤ line.toNat then .exc 7 line.toNat
      else match d.partOf tid with
        | none => .exc 3 g
        | some p =>
          if !d.groupOk p g then .exc 3 g
          else
            let d := d.flush tid
            .done (if d.isStandby tid then d
              else ((d.groupMembers g).foldl (fun d u => d.setEvent u line.toNat) d).count
                (evE (islOf tid) (16 * (coreOf tid % 16) + 11)))) s

end Sys2Proof.Machine
end

