-- ==== Sys2Proof/Machine/Cq.lean ====
section
/-! DEFINITION. Machine/Cq.lean: slices as the rings see them, event routes, completion entries, completion rings, overflow and their interrupts (R280, R281, R283, R287 to R291 of 07_dma_and_rings.md). -/
namespace Sys2Proof.Machine
open Sys2Proof

/-! ## Slices and routes -/

/-- A slice beside its registers. -/
def Dev.slc (d : Dev) (s : Nat) : Slice := tabGet d.ptn.slices {} s
def Dev.setSlice (d : Dev) (s : Nat) (x : Slice) : Dev := { d with ptn := { d.ptn with slices := tabPut d.ptn.slices {} s x } }
/-- SLC_STATE.state of a slice (R337): 0 NONE, 1 ACTIVE, 2 HALTED, 3 RESETTING, 4 FREEZING, 5 FROZEN, 6 RESTORED. -/
def Dev.sliceState (d : Dev) (s : Nat) : Nat := d.rf .slcState s 0 3
def Dev.setSliceState (d : Dev) (s v : Nat) : Dev := d.setRf .slcState s 0 3 v
/-- Partition, host port and PASID of a slice (SLC_STATE). -/
def Dev.slicePart (d : Dev) (s : Nat) : Nat := d.rf .slcState s 3 3
def Dev.slicePort (d : Dev) (s : Nat) : Nat := d.rf .slcState s 6 3
def Dev.slicePasid (d : Dev) (s : Nat) : Nat := d.rf .slcState s 12 20
/-- A slice's PASID with its valid bit, as an access carries it. -/
def Dev.slicePasidWord (d : Dev) (s : Nat) : Word := BitVec.ofNat 64 (2 ^ 31 + d.slicePasid s)
/-- The function of a slice. -/
def Dev.sliceFn (d : Dev) (s : Nat) : Nat := d.slicePart s + 1
/-- Whether a slice's function may issue requests. -/
def Dev.sliceIssues (d : Dev) (s : Nat) : Bool := d.canIssue (d.slicePort s) (d.sliceFn s)
/-- Whether a slice's grant covers a resource. -/
def Dev.sliceGranted (d : Dev) (s kind where_ n : Nat) : Bool :=
  match (d.slc s).grant with
  | some g => g.ranges.any (fun r => r.kind == kind && (kind == 7 || r.where_ == where_) && r.first ≤ n && n < r.first + r.count)
  | none => false
/-- A write to a slice's host memory through its PASID. -/
def Dev.sliceWrite (d : Dev) (s addr : Nat) (bs : List Byte) : Dev :=
  d.hostWrite (d.slicePort s) (d.sliceFn s) (d.slicePasidWord s) addr bs

/-- An event route: a line in a thread, or in every member of a group, of a partition (R59, R347). -/
def Dev.route (d : Dev) (p : Nat) (group : Bool) (n line : Nat) : Dev :=
  if 30 ≤ line then d
  else if group then
    if d.groupOk p n then (d.groupMembers n).foldl (fun d u => d.setEvent u line) d else d
  else d.signal p n line

/-! ## Completion rings (R280, R288) -/

def Dev.cq (d : Dev) (n : Nat) : CqSt := tabGet d.dma.cq {} n
def Dev.setCq (d : Dev) (n : Nat) (x : CqSt) : Dev := { d with dma := { d.dma with cq := tabPut d.dma.cq {} n x } }
/-- The slice that owns a completion ring, if one does. -/
def Dev.cqSlice (d : Dev) (n : Nat) : Option Nat :=
  let s := d.rf .ringCqOwner n 0 12
  if d.rb .ringCqOwner n 15 && d.sliceGranted s 8 0 n then some s else none
/-- Entries of a completion ring. -/
def Dev.cqSize (d : Dev) (n : Nat) : Nat := 2 ^ d.rf .ringCqCfg n 1 5
/-- The engine island that serves a ring. -/
def ringIsl (n : Nat) : Nat := 2 + n / 4096
/-- Lap of a completion ring's tail: its phase is 1 on the first lap (R281). -/
def Dev.cqLap (d : Dev) (n : Nat) : Nat := 1 - d.rf .ringCqStat n 16 1
/-- A completion ring is full (R283). -/
def Dev.cqFull (d : Dev) (n : Nat) : Bool :=
  d.rf .ringCqStat n 0 16 == d.rf .ringCqHead n 0 16 && d.cqLap n != d.rf .ringCqHead n 16 1
/-- A completion ring can take an entry now: enabled, not stopped by a discarded write, not full, and its function may issue (R289, R291, R312). -/
def Dev.cqOpen (d : Dev) (n s : Nat) : Bool :=
  d.rb .ringCqCfg n 0 && !d.rb .ringCqStat n 18 && !d.cqFull n && d.sliceIssues s && !d.gapFull (d.slicePart s)

/-- The 16 bytes of a completion entry (R280). -/
def Cqe.bytes (c : Cqe) (phase overflowed : Nat) : List Byte :=
  leBytes 2 c.tag.toNat ++ [c.status, BitVec.ofNat 8 (phase + 2 * overflowed + 4 * c.origin)] ++
  leBytes 2 c.source.toNat ++ leBytes 2 c.length.toNat ++ leBytes 8 c.detail.toNat

/-- A completion ring's interrupt (R290). -/
def Dev.cqInterrupt (d : Dev) (n s : Nat) : Dev :=
  let d := d.setCq n { d.cq n with timer := none }
  if d.rb .ringCqIrq n 11 then d.interrupt (d.slicePort s) (d.sliceFn s) (d.rf .ringCqIrq n 0 11) else d

/-- An entry has been written to a completion ring: the interrupt it brings, or the timer it starts (R290). -/
def Dev.cqWritten (d : Dev) (n s : Nat) : Dev :=
  let c := d.cq n
  let d := d.setCq n { c with unacked := c.unacked + 1 }
  let t := d.rf .ringCqIrq n 21 11
  if t = 0 ∨ c.unacked + 1 = d.rf .ringCqIrq n 12 9 then d.cqInterrupt n s
  else if c.timer.isNone then d.setCq n { d.cq n with timer := some (d.ns + t * 1000) }
  else d

/-- A completion entry is written at the ring's tail, and the tail advances (R281, R283). -/
def Dev.cqWrite (d : Dev) (s : Nat) (c : Cqe) (overflowed : Nat) : Dev :=
  let n := c.cq
  let tail := d.rf .ringCqStat n 0 16
  let phase := d.rf .ringCqStat n 16 1
  let d := d.sliceWrite s ((d.reg .ringCqBase n).toNat + 16 * tail) (c.bytes phase overflowed)
  let wraps := tail + 1 = d.cqSize n
  let d := d.setRf .ringCqStat n 0 16 (if wraps then 0 else tail + 1)
  let d := d.setRf .ringCqStat n 16 1 (if wraps then 1 - phase else phase)
  (d.count (evE (ringIsl n) (448 + 5))).cqWritten n s

/-! ## Overflow (R288) -/

def Dev.overflow (d : Dev) (s : Nat) : List Cqe := tabGet d.dma.ovf [] s
/-- Overflow entries held by the slices of a partition. -/
def Dev.partOverflow (d : Dev) (p : Nat) : Nat :=
  d.dma.ovf.foldl (fun a e => if d.slicePart e.1 = p then a + e.2.length else a) 0
/-- Overflow entries in use in the device. -/
def Dev.poolUse (d : Dev) : Nat := d.dma.ovf.foldl (fun a e => a + e.2.length) 0
/-- A slice's part of the pool is used up: its own limit or its partition's quota. -/
def Dev.overflowFull (d : Dev) (s : Nat) : Bool :=
  decide (d.rf .slcOvfLim s 0 9 ≤ (d.overflow s).length) ||
  decide (d.rf .ptnOvf (d.slicePart s) 0 17 ≤ d.partOverflow (d.slicePart s))

/-- RING_SLICE_STAT, RING_POOL_STAT and a ring's RING_CQ_STAT as the overflow gives them. -/
def Dev.overflowStat (d : Dev) (s n : Nat) : Dev :=
  let k := ((d.overflow s).filter (fun c => c.cq == n)).length
  let d := d.setRf .ringSliceStat s 2 9 (d.overflow s).length
  let d := d.ptn.slices.foldl (fun d e => if d.slicePart e.1 = d.slicePart s then d.setRb .ringSliceStat e.1 1 (d.overflowFull e.1) else d) d
  let d := d.setRf .ringCqStat n 19 9 k
  let d := d.setRb .ringCqStat n 17 (k != 0)
  d.setRf .ringPoolStat 0 0 17 d.poolUse
def Dev.setOverflow (d : Dev) (s n : Nat) (l : List Cqe) : Dev :=
  ({ d with dma := { d.dma with ovf := tabPut d.dma.ovf [] s l } }).overflowStat s n

/-- An entry is due for a completion ring: it is written, goes to the overflow, or (none) waits at its source. A ring without an owner, or whose slice is being reset, takes none (R288, R338). -/
def Dev.tryPost (d : Dev) (c : Cqe) : Option Dev :=
  match d.cqSlice c.cq with
  | none => some d
  | some s =>
    if d.sliceState s = 0 ∨ d.sliceState s = 3 then some d
    else
      let held := ((d.overflow s).filter (fun e => e.cq == c.cq)).length
      if held = 0 && d.cqOpen c.cq s then some (d.cqWrite s c 0)
      else if d.overflowFull s then none
      else
        let d := (d.setOverflow s c.cq (d.overflow s ++ [c])).count (evE (ringIsl c.cq) (448 + 6))
        some (if held = 0 then d.raiseFree 1025 (ringIsl c.cq) (some (d.slicePart s)) else d)

/-- A completion of the ring machinery is posted, or waits at its source behind the earlier ones of its ring (R287, R288). -/
def Dev.post (d : Dev) (c : Cqe) : Dev :=
  let wait := { d with dma := { d.dma with waiting := d.dma.waiting ++ [c] } }
  if d.dma.waiting.any (fun e => e.cq == c.cq) then wait
  else match d.tryPost c with
    | some d => d
    | none => wait

/-- Overflow entries of a ring go to it while it takes them, in the order they overflowed. -/
def Dev.drainOverflow (d : Dev) (n s : Nat) : Nat → Dev
  | 0 => d
  | k + 1 =>
    match (d.overflow s).find? (fun e => e.cq == n) with
    | none => d
    | some c =>
      if d.cqOpen n s then ((d.cqWrite s c 1).setOverflow s n ((d.overflow s).erase c)).drainOverflow n s k else d

/-- Completions that wait at their source are posted, oldest first, where there is room. -/
def Dev.drainWaiting (d : Dev) : Dev :=
  let ws := d.dma.waiting
  ws.foldl (fun d c => d.post c) { d with dma := { d.dma with waiting := [] } }

/-- A completion ring may take entries again: its overflow is written, then what waits (R288). -/
def Dev.cqDrain (d : Dev) (n : Nat) : Dev :=
  match d.cqSlice n with
  | none => d
  | some s => (d.drainOverflow n s (d.overflow s).length).drainWaiting

/-- Every completion ring of a slice may take entries again. -/
def Dev.sliceDrain (d : Dev) (s : Nat) : Dev :=
  ((d.overflow s).map (·.cq)).eraseDups.foldl (fun d n => d.drainOverflow n s (d.overflow s).length) d |>.drainWaiting

/-- CQ_IRQ_TIMER: a completion ring's timer has run out (R290). -/
def execCqIrqTimer (n : Fin 16384) (s : State) : Out :=
  event (fun d =>
    match (d.cq n.val).timer, d.cqSlice n.val with
    | some t, some sl => if t ≤ d.ns then d.cqInterrupt n.val sl else d
    | _, _ => d) s

end Sys2Proof.Machine
end

