-- ==== Sys2Proof/Machine/Parse.lean ====
section
/-! DEFINITION. Machine/Parse.lean: the port islands' parser, checksums and the classification key (R140 to R150, R169, R175 of 04_packet_path.md). -/
namespace Sys2Proof.Machine
open Sys2Proof

/-- A parser node as one 512-bit number (R144). -/
def Dev.prsNode (d : Dev) (m bank n : Nat) : Nat :=
  (List.range 16).foldl (fun a w => a + (d.reg .prsNode (((m * 2 + bank) * 32 + n) * 16 + w)).toNat * 2 ^ (32 * w)) 0

/-- A recorded header (R145): its level, kind, frame offset and length. -/
structure Hdr where
  level : Nat
  kind : Nat
  pos : Nat
  len : Nat
  deriving DecidableEq, Repr

/-- What a parse gives. -/
structure Parsed where
  hdrs : List Hdr := []
  wins : Tab Nat := []
  level : Nat := 0
  depth : Bool := false
  trunc : Bool := false
  limit : Bool := false
  sealed : Bool := false
  lastNode : Nat := 0
  deriving DecidableEq, Repr

/-- A frame's byte, zero beyond its end. -/
def fbyte (bs : List Byte) (i : Nat) : Nat := (bs.getD i 0).toNat

/-- R145, R169: a header that is a fragment with non-zero offset ends the parse. -/
def endsAsFragment (bs : List Byte) (kind pos : Nat) : Bool :=
  if kind = 3 then beAt bs (pos + 6) 2 % 8192 != 0
  else if kind = 6 then beAt bs (pos + 2) 2 / 8 != 0
  else false

/-- R146: an enabled window is assigned; the last assignment stands and one beyond byte 511 is ignored. -/
def assignWin (n lo posLo enBit pos : Nat) (w : Tab Nat) : Tab Nat :=
  let ofs := pos + fld n posLo 6
  if nbit n enBit && ofs ≤ 511 then tabIns (fld n lo 4) ofs w else w

/-- The parse of R145 from a node on; the first argument bounds the visits. -/
def parseFrom (node : Nat → Nat) (bs : List Byte) : Nat → Nat → Nat → Parsed → Parsed
  | 0, _, _, r => { r with limit := true }
  | fuel + 1, k, pos, r =>
    let n := node k
    let flen := bs.length
    let hold := Nat.min flen 512
    if fld n 16 8 ≠ 0 ∧ hold ≤ pos + fld n 8 6 then { r with trunc := true }
    else
      let len := fld n 0 8 + (if fld n 16 8 = 0 then 0
        else ((fbyte bs (pos + fld n 8 6) &&& fld n 16 8) >>> fld n 24 3) <<< fld n 27 3)
      let sw := fld n 38 2
      if flen < pos + len ∨ 512 < pos + len then { r with trunc := true }
      else if sw ≠ 0 ∧ hold < pos + fld n 32 6 + sw then { r with trunc := true }
      else
        let kind := fld n 328 4
        let r := { r with
          hdrs := r.hdrs ++ [⟨r.level, kind, pos, len⟩]
          wins := assignWin n 343 347 353 pos (assignWin n 332 336 342 pos r.wins)
          lastNode := k }
        if kind = 13 ∨ kind = 14 then { r with sealed := true }
        else if endsAsFragment bs kind pos then r
        else
          let sel := beAt bs (pos + fld n 32 6) sw &&& fld n 40 24
          let t := if sw = 0 then none else
            ((List.range 8).map (fun j => fld n (64 + 32 * j) 32)).find? (fun t => nbit t 29 && t % 2 ^ 24 == sel)
          let (next, stop, tunnel) := match t with
            | some t => (fld t 24 5, nbit t 31, nbit t 30)
            | none => (fld n 320 5, nbit n 325, nbit n 326)
          if stop then r
          else if tunnel && r.level == 2 then { r with depth := true }
          else parseFrom node bs fuel next (pos + len) { r with level := if tunnel then r.level + 1 else r.level }

/-- A frame's bytes with its FCS behind them: the frame as R136 counts its length. -/
def withFcs (bs : List Byte) : List Byte := bs ++ leBytes 4 (crc32Full poly32 bs)

/-- A frame's parse by its sub-port's graph in the active bank (R143, R145). `bs` is the frame without its FCS. -/
def Dev.parse (d : Dev) (x : Nat) (bs : List Byte) : Parsed :=
  let m := x / 16
  parseFrom (d.prsNode m (d.rf .prsCtl m 0 1)) (withFcs bs) 24 (d.rf .prsStart x 0 5) 0 {}

/-! ## Headers by level -/

/-- The first header at a level whose kind is among some. -/
def Parsed.at_ (r : Parsed) (level : Nat) (kinds : List Nat) : Option Hdr :=
  r.hdrs.find? (fun h => h.level == level && kinds.contains h.kind)
/-- The header of some kinds at the innermost level that holds one (R147), the first of them there. -/
def Parsed.inner (r : Parsed) (kinds : List Nat) : Option Hdr :=
  ((r.at_ 2 kinds).orElse (fun _ => r.at_ 1 kinds)).orElse (fun _ => r.at_ 0 kinds)
/-- The last header of some kinds at a level. -/
def Parsed.last (r : Parsed) (level : Nat) (kinds : List Nat) : Option Hdr :=
  r.hdrs.reverse.find? (fun h => h.level == level && kinds.contains h.kind)

/-- A header says that its packet is a fragment (R169). -/
def isFragment (bs : List Byte) (h : Hdr) : Bool :=
  if h.kind = 3 then beAt bs (h.pos + 6) 2 % 16384 != 0
  else if h.kind = 6 then beAt bs (h.pos + 2) 2 / 8 != 0 || beAt bs (h.pos + 2) 2 % 2 != 0
  else false

/-- The outermost header that is a fragment. -/
def Parsed.frag (r : Parsed) (bs : List Byte) : Option Hdr := r.hdrs.find? (isFragment bs)
/-- Its offset is not zero: a later fragment (R170). -/
def laterFragment (bs : List Byte) (h : Hdr) : Bool := endsAsFragment bs h.kind h.pos
/-- Its more-fragments bit. -/
def moreFragments (bs : List Byte) (h : Hdr) : Bool :=
  if h.kind = 3 then fbyte bs (h.pos + 6) / 32 % 2 == 1 else fbyte bs (h.pos + 3) % 2 == 1

/-- The fragment key (R169): source, destination, protocol, identification. For IPv6 the addresses stand in the last IPv6 header before the fragment header. -/
def Parsed.fragKey (r : Parsed) (bs : List Byte) (h : Hdr) : List Byte :=
  if h.kind = 3 then slice bs (h.pos + 12) 8 ++ slice bs (h.pos + 9) 1 ++ slice bs (h.pos + 4) 2
  else
    let ip := (r.hdrs.filter (fun x => x.kind == 4 && x.pos < h.pos)).getLast?.map (·.pos) |>.getD 0
    slice bs (ip + 8) 32 ++ slice bs h.pos 1 ++ slice bs (h.pos + 4) 4

/-! ## Checksums (R140) -/

/-- A fragment at or outside a level. -/
def fragAtOrOutside (r : Parsed) (bs : List Byte) (level : Nat) : Bool :=
  r.hdrs.any (fun h => h.level ≤ level && isFragment bs h)

/-- Status of the IPv4 header checksum at a level: 0 not checked, 1 good, 2 bad. -/
def ipStatus (r : Parsed) (bs : List Byte) (level : Nat) : Nat :=
  match r.at_ level [3] with
  | none => 0
  | some h =>
    if fragAtOrOutside r bs level then 0
    else if foldSum (onesSum (slice bs h.pos h.len) 0) = 0xFFFF then 1 else 2

/-- The L4 header of a level with the bytes its checksum covers: kind, offset, pseudo-header and segment. -/
def l4Cover (r : Parsed) (bs : List Byte) (level : Nat) : Option (Nat × Nat × List Byte × Nat) :=
  match r.at_ level [7, 8], r.at_ level [3, 4] with
  | some l4, some ip =>
    let seg := if ip.kind = 3 then beAt bs (ip.pos + 2) 2 - (l4.pos - ip.pos)
               else beAt bs (ip.pos + 4) 2 + 40 - (l4.pos - ip.pos)
    let proto : Nat := if l4.kind = 7 then 6 else 17
    let pseudo := if ip.kind = 3 then slice bs (ip.pos + 12) 8 ++ beBytes 2 proto ++ beBytes 2 seg
                  else slice bs (ip.pos + 8) 32 ++ beBytes 4 seg ++ beBytes 4 proto
    some (l4.kind, l4.pos, pseudo, seg)
  | _, _ => none

/-- Status of the TCP or UDP checksum at a level. -/
def l4Status (r : Parsed) (bs : List Byte) (level : Nat) : Nat :=
  match l4Cover r bs level with
  | none => 0
  | some (kind, pos, pseudo, seg) =>
    if fragAtOrOutside r bs level then 0
    else if kind = 8 && (r.at_ level [3]).isSome && beAt bs (pos + 6) 2 == 0 then 0
    else if bs.length < pos + seg then 2
    else if foldSum (onesSum (slice bs pos seg) (onesSum pseudo 0)) = 0xFFFF then 1 else 2

/-- Key byte 2: the outermost level is 0, the innermost the last level entered. -/
def csumByte (r : Parsed) (bs : List Byte) : Nat :=
  ipStatus r bs 0 + 4 * l4Status r bs 0 + 16 * ipStatus r bs r.level + 64 * l4Status r bs r.level

/-! ## RoCEv2 ICRC (R175) -/

/-- A byte string with one byte set to all ones. -/
def maskByte (bs : List Byte) (i : Nat) : List Byte := bs.set i 0xFF

/-- The innermost UDP header to port 4791 and its IP header. -/
def Parsed.roce (r : Parsed) (bs : List Byte) : Option (Hdr × Hdr) :=
  match r.inner [8], r.inner [3, 4] with
  | some u, some ip => if beAt bs (u.pos + 2) 2 = 4791 ∧ ip.level = u.level then some (ip, u) else none
  | _, _ => none

/-- The ICRC of a RoCEv2 packet, over bytes up to `stop` with the variant fields all ones. -/
def icrc (bs : List Byte) (ip u : Hdr) (stop : Nat) : Nat :=
  let p := (bs.drop ip.pos).take (stop - ip.pos)
  let p := if ip.kind = 3 then maskByte (maskByte (maskByte (maskByte p 1) 8) 10) 11
           else maskByte (maskByte (maskByte (maskByte ((p.set 0 ((p.getD 0 0) ||| 0x0F))) 1) 2) 3) 7
  let o := u.pos - ip.pos
  let p := maskByte (maskByte (maskByte p (o + 6)) (o + 7)) (o + 12)
  crc32Full poly32 (List.replicate 8 0xFF ++ p)

/-- Key byte 3 bits [7:6]: ICRC checked, ICRC bad. -/
def icrcStatus (r : Parsed) (bs : List Byte) : Nat :=
  match r.roce bs with
  | none => 0
  | some (ip, u) =>
    let stop := u.pos + beAt bs (u.pos + 4) 2 - 4
    if bs.length < stop + 4 ∨ stop < u.pos + 20 then 3
    else if leAt bs stop 4 = icrc bs ip u stop then 1 else 3

/-! ## The key (R147) -/

/-- An IP address in 16 bytes. -/
def ipField (bs : List Byte) (h : Hdr) (dst : Bool) : List Byte :=
  if h.kind = 3 then List.replicate 12 0 ++ slice bs (h.pos + (if dst then 16 else 12)) 4
  else slice bs (h.pos + (if dst then 24 else 8)) 16

/-- The level-1 tunnel header: the last tunnel or ESP header recorded at level 0. -/
def Parsed.tunnel (r : Parsed) : Option Hdr := r.last 0 [9, 10, 11, 12, 13]

/-- The level-1 tunnel identifier, right-aligned. -/
def tunnelId (bs : List Byte) (h : Hdr) : Nat :=
  match h.kind with
  | 9 => beAt bs h.pos 4 / 4096
  | 13 => beAt bs h.pos 4
  | 12 => if fbyte bs h.pos / 32 % 2 = 1 then beAt bs (h.pos + 4) 3 else 0
  | _ => beAt bs (h.pos + 4) 3

/-- The outer VLAN tag's 16 bits. -/
def Parsed.vlan (r : Parsed) (bs : List Byte) : Option Nat := (r.at_ 0 [2]).map (fun h => beAt bs h.pos 2)

/-- The outer EtherType after tags. -/
def Parsed.etherType (r : Parsed) (bs : List Byte) : Nat :=
  match r.last 0 [2], r.at_ 0 [1] with
  | some v, _ => beAt bs (v.pos + 2) 2
  | none, some e => beAt bs (e.pos + 12) 2
  | none, none => 0

/-- Inner IP protocol, or the last next-header value of an IPv6 chain. -/
def Parsed.protocol (r : Parsed) (bs : List Byte) : Nat :=
  match r.inner [3, 4] with
  | none => 0
  | some ip =>
    if ip.kind = 3 then fbyte bs (ip.pos + 9)
    else match r.last ip.level [5, 6] with
      | some x => fbyte bs x.pos
      | none => fbyte bs (ip.pos + 6)

/-- Inner DSCP and ECN. -/
def Parsed.trafficClass (r : Parsed) (bs : List Byte) : Nat :=
  match r.inner [3, 4] with
  | none => 0
  | some ip => if ip.kind = 3 then fbyte bs (ip.pos + 1) else beAt bs ip.pos 2 / 16 % 256

/-- The user bytes (R148). -/
def Dev.userBytes (d : Dev) (x : Nat) (r : Parsed) (bs : List Byte) : List Byte :=
  (List.range 16).map (fun s =>
    let m := x / 16
    let sel := d.rf .prsUser (4 * m + s / 4) (8 * (s % 4)) 8
    let kind := d.rf .prsUserk (4 * m + s / 4) (4 * (s % 4)) 4
    match r.at_ (sel / 64) [kind] with
    | some h => bs.getD (h.pos + sel % 64) 0
    | none => 0)

/-- The 80-byte classification key (R147). -/
def Dev.clsKey (d : Dev) (x : Nat) (r : Parsed) (bs0 : List Byte) : List Byte :=
  let bs := withFcs bs0
  let frag := r.frag bs
  let later := match frag with | some h => laterFragment bs h | none => false
  let first := match frag with | some h => !laterFragment bs h | none => false
  let tag := r.vlan bs
  let inIp := r.inner [3, 4]
  let l4 := r.inner [7, 8]
  let eth := r.at_ 0 [1]
  let by_ := fun (n : Nat) => [BitVec.ofNat 8 n]
  by_ x ++
  by_ (r.level + 4 * b2n r.depth + 8 * b2n r.trunc + 16 * b2n r.limit + 32 * b2n first + 64 * b2n later + 128 * b2n r.sealed) ++
  by_ (csumByte r bs0) ++
  by_ ((tag.getD 0) / 8192 + 8 * b2n tag.isSome + 16 * b2n (inIp.any (fun h => h.kind == 3)) +
       32 * b2n (inIp.any (fun h => h.kind == 4)) + 64 * icrcStatus r bs0) ++
  (match eth with | some h => slice bs h.pos 12 | none => List.replicate 12 0) ++
  beBytes 2 ((tag.getD 0) % 4096 + 4096 * ((r.tunnel.map (·.kind)).getD 0)) ++
  beBytes 2 (r.etherType bs) ++
  beBytes 4 (match r.tunnel with | some h => tunnelId bs h | none => 0) ++
  (match inIp with | some h => ipField bs h false ++ ipField bs h true | none => List.replicate 32 0) ++
  by_ (r.protocol bs) ++ by_ (r.trafficClass bs) ++
  (match l4 with | some h => slice bs h.pos 4 | none => List.replicate 4 0) ++
  by_ (match l4 with | some h => if h.kind = 7 then fbyte bs (h.pos + 13) else 0 | none => 0) ++
  by_ r.lastNode ++ d.userBytes x r bs

/-! ## The hash (R150) -/

/-- A partition's 44-byte hash key as one number. -/
def Dev.hashKey (d : Dev) (p : Nat) : Nat :=
  (List.range 11).foldl (fun a i => a * 2 ^ 32 + d.rf .clsHashKey (11 * p + i) 0 32) 0

/-- Key byte `b` is selected (CLS_HASH_SEL). -/
def Dev.hashSel (d : Dev) (p b : Nat) : Bool := d.rb .clsHashSel (3 * p + b / 32) (b % 32)

/-- The hash input: the key with its two ends ordered when hash_sym is set, then the selected bytes, at most 36. -/
def Dev.hashInput (d : Dev) (p : Nat) (key : List Byte) : List Byte :=
  let src := slice key 24 16 ++ slice key 58 2
  let dst := slice key 40 16 ++ slice key 60 2
  let k := if d.rb .clsPartCfg p 0 && ofBe dst < ofBe src then
      patch (patch (patch (patch key 24 (dst.take 16)) 40 (src.take 16)) 58 (dst.drop 16)) 60 (src.drop 16)
    else key
  (((List.range 80).filter (d.hashSel p)).map (fun b => k.getD b 0)).take 36

/-- The frame's hash for a partition. -/
def Dev.hashOf (d : Dev) (p : Nat) (key : List Byte) : Nat := toeplitzBytes (d.hashKey p) (d.hashInput p key)

end Sys2Proof.Machine
end

