-- ==== Sys2Proof/Machine/Classify.lean ====
section
/-! DEFINITION. Machine/Classify.lean: frames and their buffers, actions, thread groups, spreading and reorder, wildcard and exact tables, fragments, offloads (R142, R149 to R175 of 04_packet_path.md). -/
namespace Sys2Proof.Machine
open Sys2Proof

/-! ## Frames and buffers -/

/-- A frame the device holds. -/
def Dev.frame (d : Dev) (f : Nat) : Option Frame := tabFind f d.pkt.frames
def Dev.setFrame (d : Dev) (f : Nat) (x : Frame) : Dev := { d with pkt := { d.pkt with frames := tabIns f x d.pkt.frames } }
def Dev.updFrame (d : Dev) (f : Nat) (g : Frame → Frame) : Dev :=
  match d.frame f with
  | some x => d.setFrame f (g x)
  | none => d

/-- Frame length: the FCS counts (R136). -/
def frameLen (bs : List Byte) : Nat := bs.length + 4
/-- Buffer cells of 256 bytes (R142). -/
def cellsFor (n : Nat) : Nat := (n + 255) / 256
/-- The handle of a frame (R119): a frame number, the port, the length. -/
def handleOf (f : Nat) (x : Frame) : Word := BitVec.ofNat 64 (f * 2 ^ 21 + x.port % 32 * 2 ^ 16 + frameLen x.bytes % 65536)

/-- A frame's traffic class (R139): its outer PCP, the sub-port's untagged class without a tag. -/
def Dev.rxClass (d : Dev) (x : Nat) (bs : List Byte) : Nat :=
  match (d.parse x bs).vlan bs with
  | some tci => tci / 8192
  | none => d.rf .portFc x 2 3

/-- Ingress buffer use of a class moved, and PFC sent where a threshold is crossed in mode 2 (R139). -/
def Dev.moveClassUse (d : Dev) (x c : Nat) (add sub : Nat) : Dev :=
  let k := 8 * x + c
  let now := tabGet d.pkt.clsUse 0 k + add - sub
  let d := { d with pkt := { d.pkt with clsUse := tabPut d.pkt.clsUse 0 k now } }
  let sent := (tabGet d.pkt.xoff 0 x).getLsbD c
  let setX := fun (d : Dev) (b : Bool) =>
    let old := tabGet d.pkt.xoff 0 x
    let new := if b then old ||| (1#8 <<< c) else old &&& ~~~ (1#8 <<< c)
    let d : Dev := { d with pkt := { d.pkt with xoff := tabPut d.pkt.xoff 0 x new } }
    (d.emit (.pause x c b)).count (evPort x 15)
  if d.rf .portFc x 0 2 ≠ 2 then d
  else if !sent && d.rf .portFcThr x 0 16 * 1024 < now then setX d true
  else if sent && now < d.rf .portFcThr x 16 16 * 1024 then setX d false
  else d

/-- A frame leaves its ingress buffer: cells of its port's share, its partition's hold quota and its class's use are freed (R142). -/
def Dev.freeCells (d : Dev) (f : Nat) : Dev :=
  match d.frame f with
  | none => d
  | some x =>
    if x.cells = 0 then d
    else
      let d := { d with pkt := { d.pkt with
        ingUse := tabSub d.pkt.ingUse (x.port / 8) x.cells
        holdUse := tabSub d.pkt.holdUse (2 * x.part + x.port / 16) x.cells } }
      (d.moveClassUse x.port (d.rxClass x.port x.bytes) 0 (x.cells * 256)).setFrame f { x with cells := 0 }

/-- A frame is gone: its buffers are freed and it is held no more. -/
def Dev.dropFrame (d : Dev) (f : Nat) : Dev :=
  let d := d.freeCells f
  { d with pkt := { d.pkt with frames := tabDel f d.pkt.frames } }

/-- A new frame, with its number. -/
def Dev.newFrame (d : Dev) (x : Frame) : Nat × Dev :=
  let f := d.pkt.nextFrame
  (f, { d with pkt := { d.pkt with frames := tabIns f x d.pkt.frames, nextFrame := f + 1 } })

/-! ## Policers (R182, R189) -/

/-- Frame length as the MAC sends it: padded to 60 bytes, and the FCS (R136, R182). -/
def wireLen (bs : List Byte) : Nat := Nat.max bs.length 60 + 4
/-- Charged length (R182) of a frame under an overhead class. -/
def Dev.chargedLen (d : Dev) (m ovh len : Nat) : Nat :=
  let o := d.rf .schOvh (16 * m + ovh) 0 8
  let o : Int := if o < 128 then (o : Int) else (o : Int) - 256
  (max 1 ((len : Int) + o)).toNat

/-- A frame is policed by a policer: the device with it debited where the frame conforms, or with the drop counted (R189). The flag says whether it conforms. -/
def Dev.police (d : Dev) (m pol len : Nat) : Bool × Dev :=
  let i := 4096 * m + pol
  if d.rf .schPolRate i 0 28 = 0 then (true, d)
  else
    let need := d.chargedLen m (d.rf .schPolCfg i 4 4) len * 256
    let tok := d.rf .schPolTok i 0 32
    if need ≤ tok then (true, d.setReg .schPolTok i (BitVec.ofNat 64 (tok - need)))
    else (false, { d with pkt := { d.pkt with polDrop := tabAdd d.pkt.polDrop i 1 } })

/-- The ingress policer of a frame's partition on its sub-port (R189): the frame leaves the port island, or is dropped. -/
def Dev.ingressPolice (d : Dev) (f : Nat) : Bool × Dev :=
  match d.frame f with
  | none => (false, d)
  | some x =>
    let m := x.port / 16
    let i := (8 * m + x.part) * 16 + x.port % 16
    if !d.rb .schIngPol i 15 then (true, d)
    else
      let r := d.police m (d.rf .schIngPol i 0 12) (wireLen x.bytes)
      if r.1 then r else (false, (r.2.count (evP (6 + m) 521)).dropFrame f)

/-! ## Groups and spreading (R164 to R168) -/

def Dev.group (d : Dev) (g : Nat) : Group := tabGet d.pkt.groups {} g
def Dev.setGroup (d : Dev) (g : Nat) (x : Group) : Dev := { d with pkt := { d.pkt with groups := tabPut d.pkt.groups {} g x } }
/-- The engine island of a group. -/
def groupIsl (g : Nat) : Nat := 2 + g / 256

/-- A thread of a partition in duplex that runs as the shadow takes no frames of its own (R412). -/
def Dev.accepting (d : Dev) (tid : Nat) : Bool :=
  let t := d.thread tid
  (t.st == .running || t.st == .waiting) && t.assigned.length < 4 && !d.isStandby tid

/-- The accepting member that takes the next frame: the next in ascending thread id after the previous one (R165). -/
def Dev.nextMember (d : Dev) (g : Nat) : Option Nat :=
  let p := d.rf .clsGrp g 0 3
  firstAfter (d.group g).last ((d.groupMembers g).filter (fun t => d.partOf t == some p && d.accepting t))

/-- A frame is assigned to a member, whose frame-assignment line is set. -/
def Dev.assignTo (d : Dev) (g tid f : Nat) : Dev :=
  let d := d.setGroup g { d.group g with last := tid }
  let d := d.updThread tid (fun t => { t with assigned := t.assigned ++ [f] })
  d.setEvent tid (d.rf .clsGrp g 4 5)

/-- Waiting frames of a group are assigned, oldest first, while a member accepts. -/
def Dev.drainGroup (d : Dev) (g : Nat) : Nat → Dev
  | 0 => d
  | n + 1 =>
    match (d.group g).queue, d.nextMember g with
    | f :: fs, some tid => ((d.setGroup g { d.group g with queue := fs }).assignTo g tid f).drainGroup g n
    | _, _ => d

/-- Reorder entries a partition holds on an engine island. -/
def Dev.reorderUse (d : Dev) (p isl : Nat) : Nat := (d.pkt.reorder.filter (fun r => r.part == p && r.isl == isl)).length
/-- A partition's reorder quota on an engine island (R323). -/
def Dev.reorderQuota (d : Dev) (p isl : Nat) : Nat :=
  match (d.part p).grant with
  | some g => g.reorder.getD (isl - 2) 0
  | none => 0

/-- R167: order key of a frame in a group's reorder mode. -/
def orderKey (mode : Nat) (hash : W32) : Nat := if mode = 2 then hash.toNat % 4096 else 0

/-- A frame goes to a group (R165, R167): it takes a reorder entry where the mode asks for one, and is assigned or waits. -/
def Dev.toGroup (d : Dev) (f g : Nat) : Dev :=
  match d.frame f with
  | none => d
  | some x =>
    let isl := groupIsl g
    let mode := d.rf .clsGrp g 9 2
    let ordered := mode = 1 ∨ mode = 2
    if ordered ∧ d.reorderQuota x.part isl ≤ d.reorderUse x.part isl then
      ((d.count (evE isl (256 + 10))).raiseFree 770 isl (some x.part)).dropFrame f
    else
      let member := d.nextMember g
      if member.isNone && 64 ≤ (d.group g).queue.length then (d.count (evE isl (256 + 8))).dropFrame f
      else
        let order := match x.fragDec with | some (_, o) => o | none => orderKey mode x.hash
        let d := d.setFrame f { x with group := some g, order := order, isl := isl }
        let d := if ordered then
            { d with pkt := { d.pkt with reorder := d.pkt.reorder ++ [⟨g, order, f, x.part, isl, none, false⟩] } }
          else d
        match member with
        | some tid => d.assignTo g tid f
        | none => d.setGroup g { d.group g with queue := (d.group g).queue ++ [f] }

/-! ## Actions (R160 to R162) -/

def actAct (a : Nat) : Nat := fld a 0 2
def actKind (a : Nat) : Nat := fld a 2 2
def actNumber (a : Nat) : Nat := fld a 4 16
def actAux (a : Nat) : Nat := fld a 20 8
def actCsum (a : Nat) : Nat := fld a 28 2

/-- A number within its kind's range; kind 3 only in rules. -/
def numberOk (isRule : Bool) (kind number : Nat) : Bool :=
  match kind with | 0 => true | 1 => number < 16384 | 2 => number < 1024 | _ => isRule

/-- R162: an action word that is not malformed, for a partition. Act 0 ignores kind and number (R161). -/
def Dev.actionOk (d : Dev) (p : Nat) (isRule : Bool) (a : Nat) : Bool :=
  fld a 30 2 == 0 && (actAct a == 0 || numberOk isRule (actKind a) (actNumber a)) &&
  (actAct a != 3 || d.rf .clsMirror (actAux a) 0 3 == p)

/-- Whether a target of a kind and number is granted to a partition, for a frame classified on an island: a host queue only on its home island (R152, R162, R273). -/
def Dev.targetGranted (d : Dev) (p isl kind number : Nat) : Bool :=
  match kind with
  | 0 => d.granted p 3 0 number
  | 1 => d.granted p 7 0 number && isl == 2 + number / 4096
  | 2 => d.granted p 9 0 number
  | _ => true

/-- A frame goes to its target: to a transmit queue, a host queue or a group. -/
def Dev.deliverTo (d : Dev) (f : Nat) (t : Target) : Dev :=
  match t.kind.toNat with
  | 0 =>
    let d := d.updFrame f (fun x => { x with ind := t })
    { d with pkt := { d.pkt with arriving := d.pkt.arriving ++ [f] } }
  | 1 =>
    let d := d.updFrame f (fun x => { x with ind := t })
    { d with pkt := { d.pkt with toHost := d.pkt.toHost ++ [f] } }
  | _ => d.toGroup f t.number

/-- A copy of a frame goes to a target; one the target cannot take, or that is not granted, is dropped and counted as COPY_DROP (R161). -/
def Dev.sendCopy (d : Dev) (x : Frame) (t : Target) (trunc : Nat) (reason : Nat) : Dev :=
  if !d.targetGranted x.part x.isl t.kind.toNat t.number ∨ 3 ≤ t.kind.toNat ∨ d.partState x.part ≠ 1 then d.count (evE x.isl (256 + 3))
  else
    let bs := if trunc = 0 then x.bytes else x.bytes.take trunc
    let (f, d) := d.newFrame { x with bytes := bs, cells := 0, copy := true, reason := BitVec.ofNat 8 reason, group := none }
    d.deliverTo f t

/-- The copy an action asks for: act 2 to the exception queue with the reason code, act 3 to a mirror session. -/
def Dev.actCopies (d : Dev) (x : Frame) (a : Nat) : Dev :=
  match actAct a with
  | 2 => d.sendCopy x ⟨1, d.rf .clsPartCfg x.part 10 14⟩ 0 (actAux a)
  | 3 => let w := d.reg .clsMirror (actAux a)
         d.sendCopy x ⟨BitVec.ofNat 2 (wf w 3 2), wf w 5 16⟩ (wf w 21 14) 0
  | _ => d

/-- R162: an action whose target, exception queue or session the partition does not hold. -/
def Dev.actionGranted (d : Dev) (p isl : Nat) (a : Nat) : Bool :=
  (actAct a == 0) ||
  (d.targetGranted p isl (actKind a) (actNumber a) &&
   (actAct a != 2 || (d.rb .clsPartCfg p 24 && d.targetGranted p isl 1 (d.rf .clsPartCfg p 10 14))) &&
   (actAct a != 3 || d.granted p 12 0 (actAux a)))

/-- A frame's action is carried out (R161, R162). -/
def Dev.applyAction (d : Dev) (f a : Nat) : Dev :=
  match d.frame f with
  | none => d
  | some x =>
    if !d.actionOk x.part false a || !d.actionGranted x.part x.isl a then (d.count (evE x.isl (256 + 2))).dropFrame f
    else if actAct a = 0 then (d.count (evE x.isl (256 + 1))).dropFrame f
    else
      let d := d.setFrame f { x with action := BitVec.ofNat 32 a }
      (d.actCopies x a).deliverTo f ⟨BitVec.ofNat 2 (actKind a), actNumber a⟩

/-! ## Reorder (R167, R168) -/

/-- Whether a reorder entry belongs to a group and order key. -/
def Reorder.key (r : Reorder) (g o : Nat) : Bool := r.group == g && r.order == o

/-- Frames of a group and order key that may go: every earlier one has gone or is skipped. -/
def Dev.releaseReady (d : Dev) (g o : Nat) : Nat → Dev
  | 0 => d
  | n + 1 =>
    match d.pkt.reorder.find? (fun r => r.key g o && !r.skipped) with
    | some r =>
      match r.done with
      | some (a, _) =>
        (({ d with pkt := { d.pkt with reorder := d.pkt.reorder.erase r } }).applyAction r.frame a.toNat).releaseReady g o n
      | none => d
    | none => d

/-- All frames of a group and order key that may go. -/
def Dev.releaseAll (d : Dev) (g o : Nat) : Dev := d.releaseReady g o d.pkt.reorder.length

/-- A frame's reorder entry. -/
def Dev.entryOf (d : Dev) (f : Nat) : Option Reorder := d.pkt.reorder.find? (fun r => r.frame == f)

/-- A frame's reorder entry is freed as a dropped frame's is, and what it held back may go (R168). -/
def Dev.freeEntry (d : Dev) (f : Nat) : Dev :=
  match d.entryOf f with
  | none => d
  | some r => ({ d with pkt := { d.pkt with reorder := d.pkt.reorder.erase r } }).releaseAll r.group r.order

/-- A thread completes a frame with an action word (R118, R167, R168). -/
def Dev.completeFrame (d : Dev) (f a : Nat) : Dev :=
  match d.entryOf f with
  | none => d.applyAction f a
  | some r =>
    if r.skipped then
      (({ d with pkt := { d.pkt with reorder := d.pkt.reorder.erase r } }).count (evE r.isl (256 + 12))).applyAction f a
    else
      let r' := { r with done := some (BitVec.ofNat 32 a, d.ns) }
      ({ d with pkt := { d.pkt with reorder := d.pkt.reorder.map (fun q => if q = r then r' else q) } }).releaseAll r.group r.order

/-- A held frame's time is up: the incomplete frames ahead of it are skipped (R168). -/
def Dev.reorderExpire (d : Dev) (f : Nat) : Dev :=
  match d.entryOf f with
  | none => d
  | some r =>
    match r.done with
    | none => d
    | some (_, at_) =>
      if d.ns < at_ + d.rf .clsGrp r.group 12 20 * 1000 then d
      else
        let k := (d.pkt.reorder.findIdx? (· == r)).getD 0
        let ahead := (d.pkt.reorder.take k).filter (fun q => q.key r.group r.order && q.done.isNone && !q.skipped)
        let rs := (d.pkt.reorder.take k).map (fun q => if ahead.contains q then { q with skipped := true } else q) ++ d.pkt.reorder.drop k
        (({ d with pkt := { d.pkt with reorder := rs } }).countBy (evE r.isl (256 + 11)) ahead.length).releaseAll r.group r.order

/-- REORDER_TIMEOUT. -/
def execReorderTimeout (f : Nat) (s : State) : Out := event (fun d => d.reorderExpire f) s

/-- A frame of a stopped thread or group is discarded (R166). -/
def Dev.discardFrame (d : Dev) (isl f : Nat) : Dev := ((d.count (evE isl (256 + 9))).freeEntry f).dropFrame f

/-- The frames of a thread that stops are discarded: those assigned and the current one (R166). -/
def Dev.discardThreadFrames (d : Dev) (tid : Nat) : Dev :=
  let t := d.thread tid
  let fs := t.assigned ++ t.frame.toList
  let d := d.setThread tid { t with assigned := [], frame := none, w := [], wst := 0 }
  fs.foldl (fun d f => d.discardFrame (islOf tid) f) d

/-- The waiting frames of a group are discarded (R166). -/
def Dev.discardGroupQueue (d : Dev) (g : Nat) : Dev :=
  let fs := (d.group g).queue
  fs.foldl (fun d f => d.discardFrame (groupIsl g) f) (d.setGroup g { d.group g with queue := [] })

/-- A member became HALTED or FAULTED: its frames not yet taken go to other members, in their order (R166). -/
def Dev.reassign (d : Dev) (tid : Nat) : Dev :=
  let fs := (d.thread tid).assigned
  let d := d.updThread tid (fun t => { t with assigned := [] })
  fs.foldl (fun d f =>
    match (d.frame f).bind (·.group) with
    | none => d
    | some g =>
      match d.nextMember g with
      | some u => d.assignTo g u f
      | none =>
        if 64 ≤ (d.group g).queue.length then ((d.count (evE (groupIsl g) (256 + 8))).freeEntry f).dropFrame f
        else d.setGroup g { d.group g with queue := (d.group g).queue ++ [f] }) d

/-- GROUP_QUEUE_ASSIGN: waiting frames of a group go to members that accept; frames of members that no longer run are reassigned (R165, R166). -/
def execGroupQueueAssign (g : Fin 1024) (s : State) : Out :=
  event (fun d =>
    let d := (d.groupMembers g.val).foldl (fun d t =>
      if ((d.thread t).st == .halted || (d.thread t).st == .faulted) && !(d.thread t).assigned.isEmpty then d.reassign t else d) d
    d.drainGroup g.val 64) s

/-! ## Wildcard rules (R153, R154) -/

def ruleKey (e i : Nat) : Nat := 32768 * e + i
def Dev.rule (d : Dev) (e i : Nat) : Rule := tabGet d.pkt.rules {} (ruleKey e i)
def Dev.setRule (d : Dev) (e i : Nat) (r : Rule) : Dev := { d with pkt := { d.pkt with rules := tabPut d.pkt.rules {} (ruleKey e i) r } }

/-- A rule matches a key: (key and mask) = (value and mask). -/
def Rule.hit (r : Rule) (key : List Byte) : Bool :=
  r.enable && (List.range 80).all (fun b => key.getD b 0 &&& r.mask.getD b 0 == r.value.getD b 0 &&& r.mask.getD b 0)

/-- Fields of a CLS_TDIR entry. -/
def Dev.tdirKind (d : Dev) (t : Nat) : Nat := d.rf .clsTdir t 0 2
def Dev.tdirOwner (d : Dev) (t : Nat) : Nat := d.rf .clsTdir t 2 3
def Dev.tdirK (d : Dev) (t : Nat) : Nat := d.rf .clsTdir t 6 5
def Dev.tdirN (d : Dev) (t : Nat) : Nat := d.rf .clsTdir t 11 2 + 1
def Dev.tdirBase (d : Dev) (t : Nat) : Nat := d.rf .clsTdir t 16 48

/-- The rules a wildcard table covers on an island: first and count, if it is one of the partition's there (R154, R155). -/
def Dev.wildRange (d : Dev) (p t isl : Nat) : Option (Nat × Nat) :=
  if d.tdirKind t == 2 && d.tdirOwner t == p && d.granted p 10 0 t && d.rf .clsTdir t 16 4 == isl then
    some (d.rf .clsTdir t 20 16, d.rf .clsTdir t 36 16)
  else none

/-- The lowest matching enabled rule of a wildcard table, by its index on the island. -/
def Dev.wildLookup (d : Dev) (p t isl : Nat) (key : List Byte) : Option (Nat × Rule) :=
  match d.wildRange p t isl with
  | none => none
  | some (first, count) =>
    d.pkt.rules.findSome? (fun e =>
      let i := e.1 % 32768
      if e.1 / 32768 == isl - 2 && first ≤ i && i < first + count && e.2.hit key then some (i, e.2) else none)

/-! ## Exact tables (R155 to R157) -/

/-- The two candidate buckets of a key (R156). -/
def exactBuckets (k : Nat) (key : List Byte) : Nat × Nat :=
  let h := crc32c key
  let b1 := h % 2 ^ k
  let m := (h / 65536 * 0x9E37) % 2 ^ k
  (b1, b1 ^^^ (if m = 0 then 1 else m))

/-- Addresses of the eight entries of a key's buckets, in the order an insert takes them. -/
def Dev.exactSlots (d : Dev) (t : Nat) (key : List Byte) : List Nat :=
  let (b1, b2) := exactBuckets (d.tdirK t) key
  let at_ := fun b => (List.range 4).map (fun j => d.tdirBase t + 256 * b + 64 * j)
  at_ b1 ++ at_ b2

/-- A bucket entry is valid. -/
def Dev.slotValid (d : Dev) (a : Nat) : Bool := nbit (ofLe (d.read (a + 32) 8)) 63
/-- A bucket entry holds a key. -/
def Dev.slotHas (d : Dev) (a : Nat) (key : List Byte) : Bool := d.slotValid a && d.read a 32 == slice key 0 32

/-- The entry of a key in DDR: its address. -/
def Dev.exactFind (d : Dev) (t : Nat) (key : List Byte) : Option Nat := (d.exactSlots t key).find? (fun a => d.slotHas a key)

/-- What the target answers to reads of a table's range for its owner (R155, R156). -/
def Dev.exactCheck (d : Dev) (t : Nat) : MemChk := d.checkMem (.part (d.tdirOwner t)) (d.tdirBase t) (2 ^ d.tdirK t * 256)

/-- An exact table of a partition. -/
def Dev.exactOf (d : Dev) (p t : Nat) : Bool := d.tdirKind t == 1 && d.tdirOwner t == p && d.granted p 10 0 t

/-- A partition's share of an island's exact cache. -/
def Dev.cacheShare (d : Dev) (p isl : Nat) : Nat :=
  match (d.part p).grant with
  | some g => g.cache.getD (isl - 2) 0
  | none => 0

/-- Whether a table is held whole in its owner's share on an island (R157). -/
def Dev.resident (d : Dev) (t isl : Nat) : Bool := d.rb .clsTdir t 5 && 0 < d.cacheShare (d.tdirOwner t) isl

def Dev.cache (d : Dev) (isl p : Nat) : List CacheEntry := tabGet d.pkt.caches [] (8 * (isl - 2) + p)
def Dev.setCache (d : Dev) (isl p : Nat) (c : List CacheEntry) : Dev :=
  { d with pkt := { d.pkt with caches := tabPut d.pkt.caches [] (8 * (isl - 2) + p) c } }

/-- Entries of a partition's share that resident tables take. -/
def Dev.residentUse (d : Dev) (p : Nat) : Nat :=
  ((List.range 256).filter (fun t => d.tdirKind t == 1 && d.tdirOwner t == p && d.rb .clsTdir t 5)).foldl (fun a t => a + 2 ^ (d.tdirK t + 2)) 0

/-- A lookup in an island's cache: the result of a hit, and the entry now the most recent. -/
def Dev.cacheLookup (d : Dev) (isl p t : Nat) (key : List Byte) : Option (Word × Dev) :=
  match (d.cache isl p).find? (fun c => c.table == t && c.key == key) with
  | some c => some (c.result, d.setCache isl p (c :: (d.cache isl p).erase c))
  | none => none

/-- An entry read from DDR enters the cache; the least recent one of the same partition goes where the share is full. -/
def Dev.cacheFill (d : Dev) (isl p t : Nat) (key : List Byte) (r : Word) : Dev :=
  let share := d.cacheShare p isl - d.residentUse p
  d.setCache isl p ((⟨t, key, r⟩ :: (d.cache isl p).filter (fun c => !(c.table == t && c.key == key))).take share)

/-- The result of an exact lookup that is answered in the island: a resident table or a cache hit. -/
def Dev.exactFast (d : Dev) (isl p t : Nat) (key : List Byte) : Option (Option Word × Dev) :=
  if d.resident t isl then
    some ((d.exactFind t key).map (fun a => BitVec.ofNat 64 (ofLe (d.read (a + 32) 8))), d)
  else (d.cacheLookup isl p t key).map (fun x => (some x.1, x.2))

/-- The result of an exact lookup read from DDR, which then enters the cache. -/
def Dev.exactSlow (d : Dev) (isl p t : Nat) (key : List Byte) : Option Word × Dev :=
  match d.exactFind t key with
  | some a =>
    let r := BitVec.ofNat 64 (ofLe (d.read (a + 32) 8))
    (some r, d.cacheFill isl p t key r)
  | none => (none, d)

/-! ## Flow key and offload (R153, R172 to R175) -/

/-- The flow key of a partition for a classification key: n x 8 bytes (R153). -/
def Dev.flowKey (d : Dev) (p n : Nat) (key : List Byte) : List Byte :=
  let sels := (List.range 32).map (fun j => d.rf .clsFlowSel (8 * p + j / 4) (8 * (j % 4)) 8)
  let bytes := (sels.filter (fun s => 128 ≤ s)).map (fun s => key.getD (s % 128) 0)
  slice bytes 0 (8 * n)

def ctxKey (e i : Nat) : Nat := 16384 * e + i
def Dev.offCtx (d : Dev) (e i : Nat) : OffCtx := tabGet d.pkt.ctxs {} (ctxKey e i)
def Dev.setOffCtx (d : Dev) (e i : Nat) (c : OffCtx) : Dev := { d with pkt := { d.pkt with ctxs := tabPut d.pkt.ctxs {} (ctxKey e i) c } }

/-- What an offload reports of a frame, and the context and memory it leaves. -/
structure OffRes where
  hdgst : Nat := 0
  ddgst : Nat := 0
  placed : Bool := false
  placeErr : Bool := false
  unsync : Bool := false
  errs : Nat := 0
  deriving DecidableEq, Repr

/-- The offload field of the metadata (R172). -/
def OffRes.word (r : OffRes) : BitVec 16 :=
  BitVec.ofNat 16 (r.hdgst + 4 * r.ddgst + 16 * b2n r.placed + 32 * b2n r.placeErr + 64 * b2n r.unsync)

/-- The worse of two digest statuses reported on one frame: bad over good over not checked. -/
def worse (a b : Nat) : Nat := if a = 2 ∨ b = 2 then 2 else Nat.max a b

/-- A data digest or header digest of a PDU with the stored value after it. -/
def digestStatus (bs stored : List Byte) : Nat := if crc32c bs = ofLe stored then 1 else 2

/-- Places the data of a C2HData or H2CData PDU through its context's table (R174). The entry layout is the model's (log entry 13). -/
def Dev.placePdu (d : Dev) (p : Nat) (c : OffCtx) (pdu : List Byte) (r : OffRes) : Dev × OffRes :=
  let typ := leAt pdu 0 1
  if c.tableLog < 4 ∨ (typ ≠ 7 ∧ typ ≠ 6) then (d, r)
  else
    let cid := leAt pdu 8 2
    let e := c.table + 16 * (cid % 2 ^ c.tableLog)
    let ent := d.read e 16
    let datao := leAt pdu 12 4
    let datal := leAt pdu 16 4
    let pdo := leAt pdu 3 1
    if leAt ent 0 2 ≠ cid ∨ !nbit (leAt ent 2 1) 0 then (d, r)
    else if leAt ent 4 4 < datao + datal then (d, { r with placeErr := true })
    else
      let a := leAt ent 8 6 + datao
      match d.checkMem (.part p) a datal with
      | .ok => (d.write a (slice pdu pdo datal), { r with placed := true })
      | _ => (d, { r with placeErr := true })

/-- One whole PDU of an NVMe/TCP stream: digests and placement (R173, R174). Digest options: bit 0 header, bit 1 data. -/
def Dev.nvtPdu (d : Dev) (p : Nat) (c : OffCtx) (pdu : List Byte) (r : OffRes) : Dev × OffRes :=
  let hlen := leAt pdu 2 1
  let pdo := leAt pdu 3 1
  let plen := leAt pdu 4 4
  let hd := c.digests.getLsbD 0 && nbit (leAt pdu 1 1) 0
  let dd := c.digests.getLsbD 1 && nbit (leAt pdu 1 1) 1
  let h := if hd then digestStatus (slice pdu 0 hlen) (slice pdu hlen 4) else 0
  let dg := if dd then digestStatus (slice pdu pdo (plen - pdo - 4)) (slice pdu (plen - 4) 4) else 0
  let r := { r with hdgst := worse r.hdgst h, ddgst := worse r.ddgst dg,
                    errs := r.errs + (if h = 2 then 1 else 0) + (if dg = 2 then 1 else 0) }
  d.placePdu p c pdu r

/-- Whole PDUs at the front of the bytes a context holds, one after another; what is left stays. -/
def Dev.nvtPdus (d : Dev) (p : Nat) (c : OffCtx) (r : OffRes) : Nat → Dev × OffCtx × OffRes
  | 0 => (d, c, r)
  | n + 1 =>
    let plen := Nat.max (leAt c.raw 4 4) 8
    if c.raw.length < 8 ∨ c.raw.length < plen then (d, c, r)
    else
      let (d, r) := d.nvtPdu p c (c.raw.take plen) r
      d.nvtPdus p { c with raw := c.raw.drop plen } r n

/-- The NVMe/TCP offload on a segment (R173): its TCP header's place and its payload. -/
def Dev.nvtSegment (d : Dev) (p : Nat) (c : OffCtx) (seq : Nat) (payload : List Byte) : Dev × OffCtx × OffRes :=
  let start := BitVec.ofNat 32 seq
  if !c.sync then
    if c.resync && start == c.seq then
      let c := { c with sync := true, resync := false, raw := payload, seq := start + BitVec.ofNat 32 payload.length }
      d.nvtPdus p c {} (payload.length + 1)
    else (d, c, { unsync := true })
  else
    let ahead := (c.seq - start).toNat
    if start == c.seq then
      d.nvtPdus p { c with raw := c.raw ++ payload, seq := c.seq + BitVec.ofNat 32 payload.length } {} (c.raw.length + payload.length + 1)
    else if ahead < 2 ^ 31 then
      if payload.length ≤ ahead then (d, c, {})
      else
        let fresh := payload.drop ahead
        d.nvtPdus p { c with raw := c.raw ++ fresh, seq := c.seq + BitVec.ofNat 32 fresh.length } {} (c.raw.length + fresh.length + 1)
    else (d, { c with sync := false }, { unsync := true })

/-- The RoCEv2 offload on a packet (R175): opcode, PSN, RETH and payload. Region entries' layout is the model's (log entry 13). -/
def Dev.rocePacket (d : Dev) (p : Nat) (c : OffCtx) (bth payloadAll : List Byte) : Dev × OffCtx × OffRes :=
  let op := leAt bth 0 1 % 32
  let psn := beAt bth 9 3
  if BitVec.ofNat 32 psn ≠ c.seq then (d, { c with sync := false }, { unsync := true })
  else
    let c := { c with sync := true, seq := BitVec.ofNat 32 ((psn + 1) % 2 ^ 24) }
    let isWrite := 6 ≤ op ∧ op ≤ 11
    let isRead := 13 ≤ op ∧ op ≤ 16
    let hasReth := op = 6 ∨ op = 10 ∨ op = 11
    let hasAeth := op = 13 ∨ op = 15 ∨ op = 16
    if !(isWrite ∨ isRead) then (d, c, {})
    else
      let va := if hasReth then beAt payloadAll 0 8 else leAt c.hdr 0 8
      let rkey := if hasReth then beAt payloadAll 8 4 else leAt c.hdr 8 4
      let data := if hasReth then payloadAll.drop 16 else if hasAeth then payloadAll.drop 4 else payloadAll
      let c := { c with hdr := leBytes 8 (va + data.length) ++ leBytes 4 rkey }
      let found := (List.range 16).findSome? (fun k =>
        let e := d.read (c.table + 32 * k) 32
        if leAt e 0 4 = rkey ∧ leAt e 8 8 ≤ va ∧ va + data.length ≤ leAt e 8 8 + leAt e 16 8 then
          some (leAt e 24 6 + (va - leAt e 8 8)) else none)
      match found with
      | none => (d, c, { placeErr := true })
      | some a =>
        match d.checkMem (.part p) a data.length with
        | .ok => (d.write a data, c, { placed := true })
        | _ => (d, c, { placeErr := true })

/-- The offload a flow result binds a frame to (R172): bit 48 set, context index [45:32] on the classifying island, granted to the partition. -/
def Dev.offload (d : Dev) (f : Nat) (res : Word) : Dev :=
  match d.frame f with
  | none => d
  | some x =>
    let i := wf res 32 14
    let e := x.isl - 2
    let c := d.offCtx e i
    if !wbit res 48 || !d.granted x.part 14 x.isl i then d
    else
      let r := d.parse x.port x.bytes
      let out := match c.type, r.inner [7], r.roce x.bytes with
        | 1, some t, _ =>
          let ip := (r.at_ t.level [3, 4])
          let stop := match ip with
            | some h => if h.kind = 3 then h.pos + beAt x.bytes (h.pos + 2) 2 else h.pos + 40 + beAt x.bytes (h.pos + 4) 2
            | none => x.bytes.length
          some (d.nvtSegment x.part c (beAt x.bytes (t.pos + 4) 4) ((x.bytes.take stop).drop (t.pos + t.len)))
        | 2, _, some (_, u) =>
          let stop := u.pos + beAt x.bytes (u.pos + 4) 2 - 4
          some (d.rocePacket x.part c (slice x.bytes (u.pos + 8) 12) ((x.bytes.take stop).drop (u.pos + 20)))
        | _, _, _ => none
      match out with
      | none => d
      | some (d, c, r) =>
        let d := (d.setOffCtx e i c).updFrame f (fun x => { x with offload := r.word })
        let d := d.countBy (evE x.isl (256 + 13)) r.errs
        let d := d.countBy (evE x.isl (256 + 14)) (b2n r.placed)
        let d := d.countBy (evE x.isl (256 + 15)) (b2n r.placeErr)
        d.countBy (evE x.isl (256 + 16)) (b2n r.unsync)

/-! ## Fragments (R169 to R171) -/

/-- Fragment-table entries and held fragments of a port island, as CLS_FRAG_STAT shows them. -/
def Dev.fragStat (d : Dev) (m : Nat) : Dev :=
  let n := (d.pkt.frags.filter (fun e => e.m == m)).length
  let h := (d.pkt.fragHold.filter (fun f => (d.frame f).any (fun x => x.port / 16 == m))).length
  (d.setRf .clsFragStat m 0 16 n).setRf .clsFragStat m 16 11 h

/-- The fragment-table entry of a frame. -/
def Dev.fragEntry (d : Dev) (x : Frame) : Option FragEntry :=
  match x.frag with
  | none => none
  | some k => d.pkt.frags.find? (fun e => e.m == x.port / 16 && e.key == k)

/-- A fragment takes its datagram's recorded decision: partition, indirection target, order key, action (R169, R170). -/
def Dev.takeFragDecision (d : Dev) (f : Nat) (x : Frame) (e : FragEntry) : Dev :=
  match e.decision with
  | none => d
  | some (a, order, ind, isl) =>
    let d := d.setFrame f { x with part := e.part, ind := ind, isl := isl, fragDec := some (a, order) }
    let r := d.ingressPolice f
    let d := r.2
    if !r.1 then d
    else
    let d := if x.laterFrag && !x.moreFrags then
        { d with pkt := { d.pkt with frags := d.pkt.frags.map (fun q => if q = e then { q with lastTaken := some d.ns } else q) } }
      else d
    { d with pkt := { d.pkt with clsQ := d.pkt.clsQ ++ [f] } }

/-- Whether a partition's hold quota takes a frame's cells on a port island (R142). -/
def Dev.holdFits (d : Dev) (p m cells : Nat) : Bool :=
  match (d.part p).grant with
  | some g => (tabGet d.pkt.holdUse 0 (2 * p + m) + cells) * 256 ≤ g.ingress.getD m 0 * 1024
  | none => false

/-- A partition takes a frame: the hold quota is charged, or the frame is dropped (R142, R331). -/
def Dev.chargeHold (d : Dev) (f p : Nat) : Option Dev × Dev :=
  match d.frame f with
  | none => (none, d)
  | some x =>
    let free := fun (d : Dev) =>
      let d := { d with pkt := { d.pkt with ingUse := tabSub d.pkt.ingUse (x.port / 8) x.cells, frames := tabDel f d.pkt.frames } }
      d.moveClassUse x.port (d.rxClass x.port x.bytes) 0 (x.cells * 256)
    if 2 ≤ d.partState p then
      (none, free ((d.incRf .ptnDownDrop p 0 32 1).count (evPart p 1)))
    else if !d.holdFits p (x.port / 16) x.cells then (none, free (d.count (evPart p 0)))
    else
      let d := { d with pkt := { d.pkt with holdUse := tabAdd d.pkt.holdUse (2 * p + x.port / 16) x.cells } }
      (some ((d.setFrame f { x with part := p }).count (evPart p 2)), d)

/-- The first fragment's decision is recorded, and the waiting fragments of its datagram are released in arrival order (R169, R170). -/
def Dev.recordFragDecision (d : Dev) (x : Frame) (a : Nat) : Dev :=
  match d.fragEntry x with
  | none => d
  | some e =>
    if x.laterFrag then d
    else
      let mode := if actKind a = 2 then d.rf .clsGrp (actNumber a) 9 2 else 0
      let e' := { e with part := x.part, decision := some (BitVec.ofNat 32 a, orderKey mode x.hash, x.ind, x.isl) }
      let d := { d with pkt := { d.pkt with frags := d.pkt.frags.map (fun q => if q = e then e' else q) } }
      let due := d.pkt.fragHold.filter (fun f => (d.frame f).any (fun y => d.fragEntry y == some e'))
      let d := { d with pkt := { d.pkt with fragHold := d.pkt.fragHold.filter (fun f => !due.contains f) } }
      let d := due.foldl (fun d f =>
        match d.chargeHold f e'.part with
        | (some d, _) => match d.frame f, d.fragEntry (((d.frame f).getD {})) with
          | some y, some e => d.takeFragDecision f y e
          | _, _ => d
        | (none, d) => d) d
      d.fragStat (x.port / 16)

/-! ## Decisions (R153, R158) -/

/-- No earlier frame of the same port, partition and island waits for its decision (R158). -/
def Dev.isNext (d : Dev) (f : Nat) (x : Frame) : Bool :=
  let same := fun g => g != f && (d.frame g).any (fun y => y.port == x.port && y.part == x.part && y.isl == x.isl)
  !(d.pkt.missQ.any same) && !((d.pkt.clsQ.takeWhile (· != f)).any same)

/-- A frame's decision is made: it is recorded for its datagram and carried out. -/
def Dev.decide_ (d : Dev) (f a : Nat) : Dev :=
  match d.frame f with
  | none => d
  | some x => ((d.count (evE x.isl 256)).recordFragDecision x a).applyAction f a

/-- The action that forwards a frame to its indirection target. -/
def indAction (x : Frame) : Nat := 1 + x.ind.kind.toNat * 4 + x.ind.number * 16

/-- The last step of R153, with a flow result or a miss. -/
def Dev.flowDecide (d : Dev) (f : Nat) (res : Option Word) : Dev :=
  match d.frame f with
  | none => d
  | some x =>
    match res with
    | some r =>
      if wbit r 63 then
        let d := (d.setFrame f { x with flowHit := true }).count (evE x.isl (256 + 7))
        (d.offload f r).decide_ f (wf r 0 32)
      else d.decide_ f (indAction x)
    | none => d.decide_ f (indAction x)

/-- CLASSIFY: R153, for the next frame of its port, partition and island. A frame of a partition that is down is dropped (R331). -/
def Dev.classify (d : Dev) (f : Nat) : Dev :=
  match d.frame f with
  | none => d
  | some x =>
    if !d.pkt.clsQ.contains f || !d.isNext f x then d
    else
      let d := { d with pkt := { d.pkt with clsQ := d.pkt.clsQ.erase f } }
      if 2 ≤ d.partState x.part then ((d.incRf .ptnDownDrop x.part 0 32 1).count (evPart x.part 1)).dropFrame f
      else match x.fragDec with
        | some (a, _) => d.decide_ f a.toNat
        | none =>
          let t := d.rf .clsPartWtbl x.part (8 * (x.isl - 2)) 8
          let hit := if t = 255 then none else d.wildLookup x.part t x.isl x.key
          let d := match hit with
            | some (i, r) => (d.setRule (x.isl - 2) i { r with hits := r.hits + 1 }).setFrame f { x with rule := BitVec.ofNat 16 (32768 + i) }
            | none => d
          match hit.filter (fun h => actKind h.2.action.toNat != 3) with
          | some (_, r) => d.decide_ f r.action.toNat
          | none =>
            let d := match hit, d.frame f with
              | some (_, r), some y => if d.actionGranted x.part x.isl r.action.toNat then d.actCopies y r.action.toNat else d
              | _, _ => d
            let ft := d.rf .clsPartCfg x.part 1 8
            if !d.rb .clsPartCfg x.part 9 || !d.exactOf x.part ft then d.flowDecide f none
            else
              let key := d.flowKey x.part (d.tdirN ft) x.key
              match d.exactFast x.isl x.part ft key with
              | some (res, d) => d.flowDecide f res
              | none =>
                let d := (d.count (evE x.isl (256 + 6))).updFrame f (fun y => { y with since := d.ns })
                { d with pkt := { d.pkt with missQ := d.pkt.missQ ++ [f] } }

/-- CLASSIFY. -/
def execClassify (f : Nat) (s : State) : Out := event (fun d => d.classify f) s

/-- A frame that waits for a flow-table read gets its answer (R156, R158). -/
def Dev.flowReturn (d : Dev) (f : Nat) : Dev :=
  match d.frame f with
  | none => d
  | some x =>
    if !d.pkt.missQ.contains f then d
    else
      let d := { d with pkt := { d.pkt with missQ := d.pkt.missQ.erase f } }
      let ft := d.rf .clsPartCfg x.part 1 8
      match d.exactCheck ft with
      | .ok =>
        let (res, d) := d.exactSlow x.isl x.part ft (d.flowKey x.part (d.tdirN ft) x.key)
        d.flowDecide f res
      | .decode => (d.raiseDecode x.isl (some x.part) (d.tdirBase ft)).flowDecide f none
      | .denied => d.flowDecide f none

/-- FLOW_MISS_RETURN. -/
def execFlowMissReturn (f : Nat) (s : State) : Out := event (fun d => d.flowReturn f) s

/-- CLS_MISS_TO: a flow read takes longer than CLS_MISS_TIMEOUT (R158). -/
def execClsMissTo (f : Nat) (s : State) : Out :=
  event (fun d =>
    match d.frame f with
    | none => d
    | some x =>
      if d.pkt.missQ.contains f && x.since + d.rf .clsMissTimeout x.part 0 32 * 1000 ≤ d.ns then
        let d := { d with pkt := { d.pkt with missQ := d.pkt.missQ.erase f } }
        ((d.count (evE x.isl (256 + 5))).raiseFree 769 x.isl (some x.part)).flowDecide f none
      else d) s

/-- FRAG_HOLD_EXPIRED: a fragment has waited CLS_FRAG_HOLD (R170). -/
def execFragHoldExpired (f : Nat) (s : State) : Out :=
  event (fun d =>
    match d.frame f with
    | none => d
    | some x =>
      if d.pkt.fragHold.contains f && x.since + d.rf .clsFragHold (x.port / 16) 0 32 * 1000 ≤ d.ns then
        let d := { d with pkt := { d.pkt with fragHold := d.pkt.fragHold.erase f, ingUse := tabSub d.pkt.ingUse (x.port / 8) x.cells, frames := tabDel f d.pkt.frames } }
        ((d.moveClassUse x.port (d.rxClass x.port x.bytes) 0 (x.cells * 256)).count (evP (6 + x.port / 16) 518)).fragStat (x.port / 16)
      else d) s

/-- FRAG_ENTRY_FREE: an entry's life is over (R171). -/
def execFragEntryFree (m : Fin 2) (k : Nat) (s : State) : Out :=
  event (fun d =>
    match (d.pkt.frags.filter (fun e => e.m == m.val))[k]? with
    | none => d
    | some e =>
      if e.created + d.rf .clsFragLife m.val 0 32 * 1000000 ≤ d.ns || e.lastTaken.any (fun t => t + 100000 ≤ d.ns) then
        ({ d with pkt := { d.pkt with frags := d.pkt.frags.erase e } }).fragStat m.val
      else d) s

end Sys2Proof.Machine
end

