-- ==== Sys2Proof/Machine/PktIns.lean ====
section
/-! DEFINITION. Machine/PktIns.lean: packet, lookup, CRC and hash instructions, and the return of results (R68, R69, R92, R118 to R121, R129 of 03_dunval_instruction_set.md). -/
namespace Sys2Proof.Machine
open Sys2Proof

/-! ## Packets (R118, R119) -/

/-- Eight bytes of a frame from an offset, the first in bits [63:56]; bytes beyond byte 511 or the frame's end are zero (R92, R146). -/
def windowAt (bs : List Byte) (ofs : Nat) : Word := BitVec.ofNat 64 (beAt ((withFcs bs).take 512) ofs 8)

/-- The windows of a frame. -/
def frameWindows (x : Frame) : Tab Word :=
  (List.range 16).foldl (fun t n => match tabFind n x.wins with
    | some ofs => tabPut t 0 n (windowAt x.bytes ofs)
    | none => t) []

/-- The thread with a frame as its current one. -/
def Thread.hold (t : Thread) (f : Nat) (w : Tab Word) : Thread := { t with frame := some f, w := w, wst := 0 }

/-- The thread without a current frame: every window reads as zero (R92). -/
def Thread.unhold (t : Thread) : Thread := { t with frame := none, w := [], wst := 0 }

/-- PKT.GET: R118, R119, 2 slots. -/
def execPktGet (i : Issue) (rd : BitVec 5) (s : State) : Out :=
  let tid := i.tid.val
  issue i (Instr.wf (.pktGet i rd)) 2 true (destG rd) [rd]
    (fun t _ d =>
      if !timed tid then .exc 2 0
      else if t.frame.isSome then .exc 9 0
      else if d.replays tid then
        match (d.thread tid).takeReplay 18 with
        | none => .starve
        | some (vs, t') =>
          let h := vs.getD 0 0
          let ws := (List.range 16).foldl (fun w n => tabPut w 0 n (vs.getD (n + 2) 0)) []
          .done (d.setThread tid ((if h = 0 then t' else t'.hold (vs.getD 1 0).toNat ws).setReg rd h))
      else
        match (d.thread tid).assigned with
        | [] => .done ((List.range 18).foldl (fun d _ => d.recordInput tid 0) (d.updThread tid (fun x => x.setReg rd 0)))
        | f :: fs =>
          match d.frame f with
          | none => onThread i (fun x => { x with assigned := fs }.setReg rd 0) d
          | some x =>
            let h := handleOf f x
            let ws := frameWindows x
            let d := d.updThread tid (fun t => ({ t with assigned := fs }.hold f ws).setReg rd h)
            let d := match fs, x.group with
              | _ :: _, some g => d.setEvent tid (d.rf .clsGrp g 4 5)
              | _, _ => d
            let d := (List.range 16).foldl (fun d n => d.recordInput tid (tabGet ws 0 n)) ((d.recordInput tid h).recordInput tid (BitVec.ofNat 64 f))
            .done (d.count (evE (islOf tid) (16 * (coreOf tid % 16) + 14)))) s

/-- A frame with the windows a thread wrote by WST put into its bytes; bytes beyond its end are ignored (R118). -/
def applyWst (x : Frame) (t : Thread) : Frame :=
  { x with bytes := (List.range 16).foldl (fun bs n =>
      match tabFind n x.wins with
      | some ofs => if t.wst.getLsbD n && ofs ≤ bs.length then patch bs ofs (beBytes 8 (tabGet t.w 0 n).toNat) else bs
      | none => bs) x.bytes }

/-- Whether an operand is the handle of the thread's current frame: the frame. -/
def currentFrame (d : Dev) (t : Thread) (h : Word) : Option (Nat × Frame) :=
  match t.frame with
  | none => none
  | some f => match d.frame f with
    | some x => if handleOf f x = h then some (f, x) else none
    | none => none

/-- PKT.SEND: R118. -/
def execPktSend (i : Issue) (ra rb : BitVec 5) (s : State) : Out :=
  let tid := i.tid.val
  issue i (Instr.wf (.pktSend i ra rb)) 1 true 0 [ra, rb]
    (fun t b d =>
      if !timed tid then .exc 2 0
      else match currentFrame b t (t.reg ra) with
        | none => .exc 9 (t.reg ra).toNat
        | some (f, x) =>
          let d := d.updThread tid Thread.unhold
          if d.isStandby tid then .done d
          else .done (((d.setFrame f (applyWst x t)).completeFrame f ((t.reg rb).toNat % 2 ^ 32)).count
            (evE (islOf tid) (16 * (coreOf tid % 16) + 15)))) s

/-- PKT.DROP: R118; a dropped frame frees its reorder entry (R168). -/
def execPktDrop (i : Issue) (ra : BitVec 5) (s : State) : Out :=
  let tid := i.tid.val
  issue i (Instr.wf (.pktDrop i ra)) 1 true 0 [ra]
    (fun t b d =>
      if !timed tid then .exc 2 0
      else match currentFrame b t (t.reg ra) with
        | none => .exc 9 (t.reg ra).toNat
        | some (f, _) =>
          let d := d.updThread tid Thread.unhold
          if d.isStandby tid then .done d
          else .done (((d.count (evE (islOf tid) (256 + 1))).freeEntry f).dropFrame f)) s

/-- WST: R118. -/
def execWst (i : Issue) (w : BitVec 4) (ra : BitVec 5) (s : State) : Out :=
  let tid := i.tid.val
  issue i (Instr.wf (.wst i w ra)) 1 false (destW w) [ra]
    (fun t _ d =>
      if !timed tid then .exc 2 0
      else if t.frame.isNone then .exc 9 0
      else onThread i (fun x => { x.setWin w (t.reg ra) with wst := x.wst ||| (1#16 <<< w.toNat) }) d) s

/-! ## Lookup (R120) -/

/-- Key bytes of consecutive registers, each most significant byte first. -/
def keyOfRegs (t : Thread) (ra n : Nat) : List Byte :=
  (List.range n).flatMap (fun k => beBytes 8 (t.reg (BitVec.ofNat 5 (ra + k))).toNat)

/-- LKX: R120. A hit in the island answers at once; a miss waits for DDR. -/
def execLkx (i : Issue) (rd ra : BitVec 5) (table : BitVec 8) (s : State) : Out :=
  let tid := i.tid.val
  issue i (Instr.wf (.lkx i rd ra table)) 1 true (destG rd) [rd, ra]
    (fun t _ d =>
      match d.partOf tid with
      | none => .starve
      | some p =>
        let tb := table.toNat
        let n := d.tdirN tb
        if !d.exactOf p tb then .exc 3 tb
        else if 31 < ra.toNat + n - 1 then .exc 1 ra.toNat
        else if (List.range n).any (fun k => t.busy (BitVec.ofNat 5 (ra.toNat + k))) then .starve
        else
          let key := keyOfRegs t ra.toNat n
          if d.isStandby tid then .done (d.sendOp tid t i.slot (.lkx tb key) rd none)
          else match d.exactFast (islOf tid) p tb key with
            | some (r, d) => .done (d.sendOp tid t i.slot (.lkx tb key) rd (some (r.getD 0)))
            | none => .done ((d.count (evE (islOf tid) (256 + 6))).sendOp tid t i.slot (.lkx tb key) rd none)) s

/-- The result of a wildcard lookup: hit, rule index, action word. -/
def lkwResult : Option (Nat × Rule) → Word
  | some (i, r) => BitVec.ofNat 64 (2 ^ 63 + i * 2 ^ 32 + r.action.toNat)
  | none => 0

/-- LKW: R120. -/
def execLkw (i : Issue) (rd ra : BitVec 5) (table : BitVec 8) (s : State) : Out :=
  let tid := i.tid.val
  issue i (Instr.wf (.lkw i rd ra table)) 1 true (destG rd) (rd :: (List.range 10).map (fun k => BitVec.ofNat 5 (ra.toNat + k)))
    (fun t _ d =>
      match d.partOf tid with
      | none => .starve
      | some p =>
        let tb := table.toNat
        let isl := d.rf .clsTdir tb 16 4
        if (d.wildRange p tb isl).isNone then .exc 3 tb
        else
          let key := keyOfRegs t ra.toNat 10
          .done (d.sendOp tid t i.slot (.lkw tb key) rd
            (if d.isStandby tid then none else some (lkwResult (d.wildLookup p tb isl key))))) s

/-! ## CRC and hash (R120, R121) -/

/-- CRC32C: R121, the bare update over the low bytes of rb. -/
def execCrc32c (i : Issue) (sz : BitVec 2) (rd ra rb : BitVec 5) (s : State) : Out :=
  aluReg i (Instr.wf (.crc32c i sz rd ra rb)) 1 rd ra (.reg rb)
    (fun a b => BitVec.ofNat 64 (crcBytes poly32c (a.toNat % 2 ^ 32) (leBytes (szBytes sz) b.toNat))) s

/-- CRC64: R121. -/
def execCrc64 (i : Issue) (sz : BitVec 2) (rd ra rb : BitVec 5) (s : State) : Out :=
  aluReg i (Instr.wf (.crc64 i sz rd ra rb)) 1 rd ra (.reg rb)
    (fun a b => BitVec.ofNat 64 (crcBytes poly64 a.toNat (leBytes (szBytes sz) b.toNat))) s

/-- HASH: R120, 2 slots. -/
def execHash (i : Issue) (rd ra rb : BitVec 5) (s : State) : Out :=
  let tid := i.tid.val
  issue i (Instr.wf (.hash i rd ra rb)) 2 false (destG rd) [rd, ra, rb]
    (fun t _ d =>
      match d.partOf tid with
      | none => .starve
      | some p => onThread i (fun x => x.setReg rd
          (BitVec.ofNat 64 (toeplitz (d.hashKey p) ((t.reg rb).toNat % 256) 64 (t.reg ra).toNat))) d) s

/-! ## Results that return (R68, R69, R129) -/

/-- What the target of an outstanding operation gives now: a value with the device after it, a late exception with its operand, or nothing yet. -/
inductive Reached where
  | value (v : Word) (d : Dev)
  | late (code operand : Nat)
  | notYet

/-- A memory operation at its target in island or DDR space: R107's later checks, then the access. -/
def Dev.atTarget (d : Dev) (p tid : Nat) (sp : BitVec 2) (ea size : Nat) (act : Nat → Dev → Word × Dev) : Reached :=
  let a := physAddr d tid sp ea
  match d.checkMem (.part p) a size with
  | .ok => let (v, d) := act a d; .value v d
  | .decode => .late 5 ea
  | .denied => .late 3 ea

/-- Whether an operation's result is an input that a standby replays (R412). -/
def replayed (tid : Nat) (d : Dev) : OutKind → Bool
  | .load sp ea _ _ => leavesIsland tid sp (physAddr d tid sp ea)
  | .atomAdd sp ea _ _ => leavesIsland tid sp (physAddr d tid sp ea)
  | .atomSwap sp ea _ _ => leavesIsland tid sp (physAddr d tid sp ea)
  | .atomCas sp ea _ _ _ => leavesIsland tid sp (physAddr d tid sp ea)
  | .tstart .. => false
  | _ => true

/-- The host's answer to a program's load: checks at the host island, then the reply that has come, or the one given. -/
def Dev.hostLoad (d : Dev) (p tid : Nat) (o : OutOp) (ea size : Nat) (fwd : Tab Byte) (reply : Reply) : Reached :=
  match d.sliceOfPasid p o.pasid with
  | none => .late 3 ea
  | some (sl, g) =>
    if d.rf .slcState sl 0 3 = 3 ∨ !d.canIssue g.port (p + 1) then .late 3 ea
    else
      let r := ((d.replyFor (.load tid o.id)).map (·.2)).getD reply
      match r with
      | .data bs => .value (loadValue (slice bs 0 size) ea fwd) (d.endOp (.load tid o.id))
      | .error | .part _ => .late 3 ea
      | .timeout => .late 6 ea

/-- What an outstanding operation of a thread comes to. -/
def Dev.reach (d : Dev) (p tid : Nat) (o : OutOp) (reply : Reply) : Reached :=
  match o.res with
  | some v => .value v d
  | none =>
    match o.kind with
    | .load sp ea size fwd =>
      if sp.toNat = 3 then d.hostLoad p tid o ea size fwd reply
      else d.atTarget p tid sp ea size (fun a d => (loadValue (d.read a size) ea fwd, d))
    | .atomAdd sp ea size v => d.atTarget p tid sp ea size (fun a d => (d.flush tid).atomic a size (fun old => some (old + v.toNat)))
    | .atomSwap sp ea size v => d.atTarget p tid sp ea size (fun a d => (d.flush tid).atomic a size (fun _ => some v.toNat))
    | .atomCas sp ea size v c => d.atTarget p tid sp ea size (fun a d =>
        (d.flush tid).atomic a size (fun old => if old = c.toNat % 2 ^ (8 * size) then some v.toNat else none))
    | .lkx t key =>
      match d.exactCheck t with
      | .ok => let (r, d) := d.exactSlow (islOf tid) p t key; .value (r.getD 0) d
      | .decode => .late 5 (d.tdirBase t)
      | .denied => .late 3 (d.tdirBase t)
    | .dpoll ch => .value (d.reg .dmaChStat ch) d
    | _ => .notYet

/-- An outstanding operation is over. -/
def Thread.dropOut (t : Thread) (o : OutOp) : Thread := { t with outs := t.outs.erase o }

/-- A claim request is granted: the claim, with its lease (R83). -/
def Claim.grant (c : Claim) (lease : Option Nat) : Claim := { c with granted := true, leaseEnd := lease }

/-- A thread's claim request for a channel is answered with `v`. -/
def Thread.claimAnswer (t : Thread) (ch : Nat) (v : Word) (lease : Option Nat) : Thread :=
  match t.claims.findIdx? (fun c => c.ch == ch && !c.granted) with
  | none => t
  | some k => if wbit v 0 then { t with claims := t.claims.modify k (fun c => c.grant lease) }
              else { t with claims := t.claims.eraseIdx k }

/-- A standby's claim follows the answer it replays (R412). -/
def Thread.replayClaim (t : Thread) (k : OutKind) (v : Word) : Thread :=
  match k with
  | .claim ch => t.claimAnswer ch v none
  | _ => t

/-- MEM_RESULT_RETURN: the result of the thread's k-th outstanding operation comes back (R68), or its error (R129). -/
def Dev.resultReturn (d : Dev) (tid k : Nat) (reply : Reply) : Dev :=
  match d.partOf tid, (d.thread tid).outs[k]? with
  | some p, some o =>
    if d.replays tid && replayed tid d o.kind then
      match (d.thread tid).takeReplay 1 with
      | some (vs, t) => d.setThread tid (((t.dropOut o).replayClaim o.kind (vs.getD 0 0)).setReg o.rd (vs.getD 0 0))
      | none => d
    else match d.reach p tid o reply with
      | .value v d' =>
        let again := replayed tid d' o.kind
        let d' := d'.updThread tid (fun t => (t.dropOut o).setReg o.rd v)
        if again then d'.recordInput tid v else d'
      | .late code operand =>
        ((d.updThread tid (fun t => t.dropOut o)).endOp (.load tid o.id)).lateExc tid code o.pc o.slot operand
      | .notYet => d
  | _, _ => d

/-- MEM_RESULT_RETURN. -/
def execMemResultReturn (tid : Fin 576) (k : Nat) (reply : Reply) (s : State) : Out :=
  eventOn (fun d => d.resultReturn tid.val k reply) s

/-- Whether an outstanding operation is one that R69 abandons: to DDR or host memory, or a lookup's miss. -/
def OutOp.timesOut (o : OutOp) : Option Nat :=
  match o.res, o.kind with
  | none, .load sp ea _ _ => if 2 ≤ sp.toNat then some ea else none
  | none, .atomAdd sp ea _ _ => if 2 ≤ sp.toNat then some ea else none
  | none, .atomSwap sp ea _ _ => if 2 ≤ sp.toNat then some ea else none
  | none, .atomCas sp ea _ _ _ => if 2 ≤ sp.toNat then some ea else none
  | none, .lkx t _ => some t
  | _, _ => none

/-- MEM_TIMEOUT: 100 us of device time have passed without a result (R69). -/
def execMemTimeout (tid : Fin 576) (k : Nat) (s : State) : Out :=
  eventOn (fun d =>
    match (d.thread tid.val).outs[k]? with
    | none => d
    | some o =>
      match o.timesOut with
      | none => d
      | some operand =>
        if d.ns < o.since + 100000 then d
        else (((d.updThread tid.val (fun t => t.dropOut o)).count (evE (islOf tid.val) (16 * (coreOf tid.val % 16) + 13))).count 994).lateExc
          tid.val 6 o.pc o.slot operand) s

end Sys2Proof.Machine
end

