-- ==== Sys2Proof/Machine/Dma.lean ====
section
/-! DEFINITION. Machine/Dma.lean: DMA channels, claims, shadow sets, bursts, read-backs and the ends of transfers (R83 to R86 of 02_engine_cores.md, R124, R125 of 03_dunval_instruction_set.md, R254 to R272 of 07_dma_and_rings.md, R327, R328 of 09_partitions_and_slices.md). -/
namespace Sys2Proof.Machine
open Sys2Proof

/-! ## Credit (R327, R328) -/

/-- A signed 32-bit register read as an integer. -/
def signed32 (n : Nat) : Int := if n % 2 ^ 32 < 2 ^ 31 then (n % 2 ^ 32 : Nat) else (n % 2 ^ 32 : Nat) - (2 ^ 32 : Nat)
/-- Index of a partition's credit block on an engine island. -/
def creditIdx (isl p : Nat) : Nat := 8 * (isl - 2) + p
/-- A balance of a partition on an engine island. -/
def Dev.balance (d : Dev) (bal : Reg) (isl p : Nat) : Int := signed32 (d.rf bal (creditIdx isl p) 0 32)
def Dev.setBalance (d : Dev) (bal : Reg) (isl p : Nat) (v : Int) : Dev :=
  d.setReg bal (creditIdx isl p) (BitVec.ofNat 64 (v % 2 ^ 32).toNat)
/-- A partition's share of an engine. -/
def Dev.share (d : Dev) (cr : Reg) (isl p : Nat) : Nat := d.rf cr (creditIdx isl p) 0 9
/-- The four engines: share register, balance register, rate in bytes a tick. -/
def creditOf : List (Reg × Reg × Nat) :=
  [(.ptnCrCiph, .ptnBalCiph, 1000), (.ptnCrFix, .ptnBalFix, 512), (.ptnCrDma, .ptnBalRd, 1024), (.ptnCrDma, .ptnBalWr, 1024)]
/-- The cap of a balance: the increment of 1,024 ticks. -/
def creditCap (w rate : Nat) : Int := (4 * w * rate : Nat)
/-- Bytes of credit that tick number `t` adds, so that 256 ticks add exactly w x R (R328). -/
def creditStep (w rate t : Nat) : Int := ((t + 1) * (w * rate) / 256 - t * (w * rate) / 256 : Nat)
/-- One tick of credit for every partition at every engine. -/
def Dev.creditTick (d : Dev) : Dev :=
  (List.range 32).foldl (fun d k =>
    creditOf.foldl (fun d c =>
      let w := d.rf c.1 k 0 9
      if w = 0 then d
      else
        let b := signed32 (d.rf c.2.1 k 0 32)
        d.setReg c.2.1 k (BitVec.ofNat 64 ((min (b + creditStep w c.2.2 d.time.tick) (creditCap w c.2.2)) % 2 ^ 32).toNat)) d) d
/-- A partition's credit set full on every engine island (R328). -/
def Dev.creditFull (d : Dev) (p : Nat) : Dev :=
  (List.range 4).foldl (fun d e =>
    creditOf.foldl (fun d c => d.setBalance c.2.1 (e + 2) p (creditCap (d.share c.1 (e + 2) p) c.2.2)) d) d
/-- A unit is charged to a partition. -/
def Dev.charge (d : Dev) (cr bal : Reg) (rate isl p amount : Nat) : Dev :=
  let w := d.share cr isl p
  if w = 0 then d
  else d.setBalance bal isl p (max (d.balance bal isl p - amount) (- creditCap w rate))
/-- The first of some numbers after `last`, going round from 0 again. -/
def nextAfter (last : Nat) (xs : List Nat) : Option Nat :=
  match xs.filter (fun x => last < x) with
  | y :: ys => some (ys.foldl Nat.min y)
  | [] => match xs with
    | y :: ys => some (ys.foldl Nat.min y)
    | [] => none
/-- R328's choice among the partitions with eligible work: the partition, and whether it borrows. -/
def Dev.creditPick (d : Dev) (bal : Reg) (isl last : Nat) (ps : List Nat) : Option (Nat × Bool) :=
  match nextAfter last (ps.filter (fun p => 0 < d.balance bal isl p)) with
  | some p => some (p, false)
  | none => (nextAfter last ps).map (fun p => (p, true))

/-! ## Channels (R260 to R264) -/

def Dev.chan (d : Dev) (ch : Nat) : Chan := tabGet d.dma.chans {} ch
def Dev.setChan (d : Dev) (ch : Nat) (x : Chan) : Dev := { d with dma := { d.dma with chans := tabPut d.dma.chans {} ch x } }
/-- The engine island of a channel. -/
def chanIsl (ch : Nat) : Nat := 2 + ch / 256
/-- The partition a channel is granted to. -/
def Dev.chanPart (d : Dev) (ch : Nat) : Option Nat := if d.rb .dmaChOwner ch 3 then some (d.rf .dmaChOwner ch 0 3) else none
/-- Whether a thread may name a channel (R124). -/
def Dev.chanOk (d : Dev) (tid ch : Nat) : Bool :=
  ch < 1024 && chanIsl ch == islOf (d.seenTid tid) && (d.chanPart ch).isSome && d.chanPart ch == d.partOf tid
/-- The channel a thread reaches: a standby's own island holds the corresponding one. -/
def Dev.chanSeen (d : Dev) (tid ch : Nat) : Nat := if islOf tid = islOf (d.seenTid tid) then ch else (ch % 256) + 256 * (islOf tid - 2)
/-- A channel is held (R262). -/
def Dev.chanHeld (d : Dev) (ch : Nat) : Bool := (d.chan ch).claim.isSome || (d.chan ch).armed.isSome || d.rb .dmaChOwner ch 4
def Dev.chanBusy (d : Dev) (ch : Nat) : Bool := d.rb .dmaChStat ch 0

/-- Claims a thread holds. -/
def Thread.held (t : Thread) : List Claim := t.claims.filter (·.granted)
/-- A channel's claim is over. -/
def Dev.unclaim (d : Dev) (ch : Nat) : Dev := (d.setChan ch { d.chan ch with claim := none }).setRb .dmaChStat ch 2 false

/-- The end of a lease that begins now in a partition; none without a limit (R83). -/
def Dev.leaseEnd (d : Dev) (p : Nat) : Option Nat :=
  let l := d.rf .coreClaimLease p 0 32
  if l = 0 then none else some (d.ns + l * 1000)

/-- A request for a channel gets its answer. -/
def Dev.claimAnswer (d : Dev) (tid ch : Nat) (v : Word) : Dev :=
  let lease := match d.partOf tid with | some p => d.leaseEnd p | none => none
  let d := d.answer tid (fun k => k == .claim ch) v
  d.updThread tid (fun t => t.claimAnswer ch v lease)

/-- The channel's arbiter decides among the claims of some threads that meet (R72, R262). -/
def Dev.claimArbitrate (d : Dev) (ch : Nat) (who : List Nat) : Dev :=
  let is := fun k => k == OutKind.claim ch
  let ws := who.filter (fun t => d.asks t is)
  let two := fun t => decide (2 ≤ ((d.thread t).held).length)
  let lose := fun (held : Bool) (d : Dev) (t : Nat) =>
    (d.claimAnswer t ch (BitVec.ofNat 64 (2 * b2n held + 4 * b2n (two t)))).count (evE (islOf t) (16 * (coreOf t % 16) + 10))
  if d.chanHeld ch then ws.foldl (lose true) d
  else match firstAfter (d.chan ch).prevWin (ws.filter (fun t => !two t)) with
    | none => ws.foldl (lose false) d
    | some w =>
      let d := (d.setChan ch { d.chan ch with claim := some w, prevWin := w }).setRb .dmaChStat ch 2 true
      (ws.filter (· != w)).foldl (lose true) (d.claimAnswer w ch 1)

/-- CLAIM_ARBITRATE: R262. -/
def execClaimArbitrate (ch : Fin 1024) (who : List (Fin 576)) (s : State) : Out :=
  event (fun d => d.claimArbitrate ch.val (who.map (·.val)).eraseDups) s

/-- DCLAIM: R124. The request goes to the channel's arbiter, with an open shadow set bound to it (R125). -/
def execDclaim (i : Issue) (rd ra : BitVec 5) (s : State) : Out :=
  let tid := i.tid.val
  issue i (Instr.wf (.dclaim i rd ra)) 1 true (destG rd) [rd, ra]
    (fun t _ d =>
      let ch := (t.reg ra).toNat
      if !d.chanOk tid ch then .exc 3 ch
      else
        let d := d.sendOp tid t i.slot (.claim ch) rd none
        onThread i (fun x => { x with claims := x.claims ++ [⟨ch, false, none, 0, []⟩] }) d) s

/-- The position of a thread's claim of a channel, or of its request for one. -/
def Thread.claimAt (t : Thread) (ch : Nat) : Option Nat :=
  (t.claims.findIdx? (fun c => c.ch == ch && c.granted)).orElse (fun _ => t.claims.findIdx? (fun c => c.ch == ch))

/-- DWR: R125, R261. A write with no claim is discarded. -/
def execDwr (i : Issue) (idx : BitVec 4) (ra rb : BitVec 5) (s : State) : Out :=
  issue i (Instr.wf (.dwr i idx ra rb)) 1 false (destD ra idx) [ra, rb]
    (fun t _ d =>
      let ch := (t.reg ra).toNat
      onThread i (fun x => match x.claimAt ch with
        | some k => { x with claims := x.claims.modify k (fun c => { c with shadow := tabIns idx.toNat (t.reg rb) c.shadow }) }
        | none => x) d) s

/-- A shadow set is committed into the channel's armed slot, and the claim ends (R263). -/
def Dev.commitSet (d : Dev) (tid ch : Nat) (sh : Tab Word) : Dev :=
  let d := d.unclaim ch
  (d.setChan ch { d.chan ch with armed := some ⟨tid, none, false, sh⟩ }).setRb .dmaChStat ch 1 true

/-- DSTART: R125, R263. A standby's commit is an output and is discarded (R413). -/
def execDstart (i : Issue) (rd ra : BitVec 5) (s : State) : Out :=
  let tid := i.tid.val
  issue i (Instr.wf (.dstart i rd ra)) 1 true (destG rd) [rd, ra]
    (fun t _ d =>
      let ch := (t.reg ra).toNat
      let x := d.thread tid
      match x.claimAt ch with
      | none => onThread i (fun x => x.setReg rd 1) d
      | some k =>
        match x.claims[k]? with
        | none => .starve
        | some c =>
          if !c.granted then .starve
          else
            let d := if d.isStandby tid then d else d.commitSet tid ch c.shadow
            onThread i (fun x => { x with claims := x.claims.eraseIdx k }.setReg rd 0) d) s

/-- DREL: R124. A request not yet answered keeps its place and loses its shadow writes. -/
def execDrel (i : Issue) (ra : BitVec 5) (s : State) : Out :=
  let tid := i.tid.val
  issue i (Instr.wf (.drel i ra)) 1 true 0 [ra]
    (fun t _ d =>
      let ch := (t.reg ra).toNat
      let x := d.thread tid
      match x.claimAt ch with
      | none => .done d
      | some k =>
        if (x.claims[k]?).any (·.granted) then
          let d := if d.isStandby tid then d else d.unclaim ch
          onThread i (fun x => { x with claims := x.claims.eraseIdx k }) d
        else onThread i (fun x => { x with claims := x.claims.modify k (fun c => { c with shadow := [] }) }) d) s

/-- DPOLL: R124. -/
def execDpoll (i : Issue) (rd ra : BitVec 5) (s : State) : Out :=
  let tid := i.tid.val
  issue i (Instr.wf (.dpoll i rd ra)) 1 true (destG rd) [rd, ra]
    (fun t _ d =>
      let ch := (t.reg ra).toNat
      if !d.chanOk tid ch then .exc 3 ch else .done (d.sendOp tid t i.slot (.dpoll ch) rd none)) s

/-- The claims of a thread are dropped, with their shadow sets (R87, R331). -/
def Dev.dropClaims (d : Dev) (tid : Nat) : Dev :=
  let cs := (d.thread tid).held
  (cs.foldl (fun d c => if (d.chan c.ch).claim = some tid then d.unclaim c.ch else d) d).updThread tid (fun t => { t with claims := [] })

/-- CLAIM_EXPIRED: a claim's lease runs out (R85). A halted thread's leases may stand still (R84). -/
def execClaimExpired (tid : Fin 576) (ch : Fin 1024) (s : State) : Out :=
  event (fun d =>
    let t := d.thread tid.val
    match t.claims.find? (fun c => c.ch == ch.val && c.granted) with
    | none => d
    | some c =>
      if c.leaseEnd.any (fun e => e ≤ d.ns) then
        let d := d.updThread tid.val (fun t => { t with claims := t.claims.erase c })
        if d.isStandby tid.val then d
        else (d.unclaim ch.val).raise 658 (islOf tid.val) (d.partOf tid.val) (some tid.val) 0 (ch.val + tid.val * 2 ^ 16)
      else d) s

/-! ## Hand-over (R264) -/

/-- The channel register of a shadow index, and its width in bits. -/
def shadowReg : Nat → Option (Reg × Nat)
  | 0 => some (.dmaChSrc, 64) | 1 => some (.dmaChDst, 64) | 2 => some (.dmaChCnt, 32) | 3 => some (.dmaChMode, 32)
  | 4 => some (.dmaChPasid, 32) | 5 => some (.dmaChSeed, 64) | 6 => some (.dmaChEvent, 32) | 7 => some (.dmaChCq, 32)
  | 8 => some (.dmaChCqdata, 32) | _ => none

/-- The bits of a shadow index that are not reserved. -/
def shadowMask : Nat → Nat
  | 0 => 2 ^ 64 - 1 | 1 => 2 ^ 64 - 1 | 2 => 0xFFFFFFFF | 3 => 0x77773 | 4 => 0x800FFFFF | 5 => 2 ^ 64 - 1
  | 6 => 0x1FFFF | 7 => 0xFFFFBFFF | 8 => 0xFFFFFFFF | _ => 0

/-- A written value with a reserved bit set. -/
def shadowBad (k : Nat) (v : Word) : Bool := v.toNat &&& shadowMask k != v.toNat

/-- A channel register that an earlier set left with a reserved bit set (R264). -/
def Dev.heldBad (d : Dev) (ch k : Nat) : Bool :=
  match shadowReg k with
  | some (r, _) => shadowBad k (d.reg r ch)
  | none => false

/-- Fields of a channel's mode. -/
def Dev.chMode (d : Dev) (ch lo width : Nat) : Nat := d.rf .dmaChMode ch lo width
/-- Bytes of a stored checksum (R267). -/
def chkBytes (chk : Nat) : Nat := if chk = 2 then 8 else 4

/-- R264: whether a channel's resulting set is bad, for the partition of the channel. -/
def Dev.setBad (d : Dev) (ch p : Nat) (sh : Tab Word) : Bool :=
  let sw := 2 ^ d.chMode ch 4 3
  let dw := 2 ^ d.chMode ch 8 3
  let cnt := d.rf .dmaChCnt ch 0 32
  let ev := d.reg .dmaChEvent ch
  let target := wf ev 15 2
  let id := wf ev 0 10
  let cq := d.rf .dmaChCq ch 0 14
  sh.any (fun e => shadowBad e.1 e.2) || (List.range 9).any (fun k => d.heldBad ch k) || cnt == 0 || d.chMode ch 4 3 == 7 || d.chMode ch 8 3 == 7 ||
  (d.reg .dmaChSrc ch).toNat % sw != 0 || (d.reg .dmaChDst ch).toNat % dw != 0 || cnt % sw != 0 || cnt % dw != 0 ||
  (d.chMode ch 14 1 == 1 && d.chMode ch 12 2 == 0) ||
  (target != 0 && decide (30 ≤ wf ev 10 5)) ||
  (target == 2 && d.partOf id != some p) || (target == 3 && !d.groupOk p id) ||
  (d.rb .dmaChCq ch 15 && !(match d.cqSlice cq with | some s => d.slicePart s == p && d.sliceState s != 0 | none => false))

/-! ## The end of a transfer (R270, R271) -/

/-- Contiguous bytes from the start of the stream: a descending copy has none until it is whole (R269, R270). -/
def bytesDone (descending : Bool) (x : Xfer) : Nat := if descending && x.written < x.cnt then 0 else x.written

/-- The transfer's addresses overlap in one space with the destination above the source: it copies downwards (R269). -/
def Dev.descends (d : Dev) (ch : Nat) (x : Xfer) : Bool :=
  d.chMode ch 0 1 == d.chMode ch 1 1 && x.src < x.dst && x.dst < x.src + x.cnt

/-- The completion a transfer posts, if it posts one (R271, R280). -/
def Dev.xferCqe (d : Dev) (ch : Nat) (x : Xfer) (status : Byte) (done : Nat) : Option Cqe :=
  if !d.rb .dmaChCq ch 15 then none
  else match x.ring with
    | some (n, tag) =>
      if x.errOnly && status = 0 then none
      else
        let detail := if status = 0 then (if d.chMode ch 12 2 = 0 then 0 else d.reg .dmaChChk ch) else BitVec.ofNat 64 done
        some ⟨d.rf .dmaChCq ch 0 14, tag, status, 2, BitVec.ofNat 16 n, 0, detail⟩
    | none =>
      let data := d.rf .dmaChCqdata ch 0 32
      some ⟨d.rf .dmaChCq ch 0 14, BitVec.ofNat 16 (d.rf .dmaChCq ch 16 16), status, 4, BitVec.ofNat 16 ch, 0,
        BitVec.ofNat 64 (data + (if status = 0 then 0 else done * 2 ^ 32))⟩

/-- Step 3 of R271: the event line of DMA_CH_EVENT. -/
def Dev.xferEvent (d : Dev) (ch : Nat) (x : Xfer) : Dev :=
  let ev := d.reg .dmaChEvent ch
  let line := wf ev 10 5
  match d.chanPart ch, wf ev 15 2 with
  | some p, 1 => d.route p false x.tid line
  | some p, 2 => d.route p false (wf ev 0 10) line
  | some p, 3 => d.route p true (wf ev 0 10) line
  | _, _ => d

/-- The channel is free again: busy and cq_wait clear, and the event is set. -/
def Dev.xferFree (d : Dev) (ch : Nat) (x : Xfer) : Dev :=
  let d := (d.setRb .dmaChStat ch 0 false).setRb .dmaChStat ch 5 false
  (d.setChan ch { d.chan ch with xfer := none }).xferEvent ch x

/-- Steps 2 and 3 of R271 where the completion finds a place; else they wait. -/
def Dev.xferPost (d : Dev) (ch : Nat) (x : Xfer) (status : Byte) : Dev :=
  match d.xferCqe ch x status (d.rf .dmaChStat ch 32 32) with
  | none => d.xferFree ch x
  | some c =>
    match d.tryPost c with
    | some d => d.xferFree ch x
    | none => { d.setRb .dmaChStat ch 5 true with dma := { d.dma with cqWait := if d.dma.cqWait.contains ch then d.dma.cqWait else d.dma.cqWait ++ [ch] } }

/-- Channels whose completion waits try again. -/
def Dev.drainChannels (d : Dev) : Dev :=
  let ws := d.dma.cqWait
  ws.foldl (fun d ch => match (d.chan ch).xfer with
    | some x => match x.stage with
      | .ended st => d.xferPost ch x st
      | _ => d
    | none => d) { d with dma := { d.dma with cqWait := [] } }

/-- The checksum of a stream (R267). -/
def streamCheck (chk : Nat) (seed : Word) (bs : List Byte) : Word :=
  match chk with
  | 1 => BitVec.ofNat 64 (crcBytes poly32c (seed.toNat % 2 ^ 32 ^^^ 0xFFFFFFFF) bs ^^^ 0xFFFFFFFF)
  | 2 => BitVec.ofNat 64 (crcBytes poly64 (seed.toNat ^^^ 0xFFFFFFFFFFFFFFFF) bs ^^^ 0xFFFFFFFFFFFFFFFF)
  | 3 => BitVec.ofNat 64 ((seed.toNat + (List.range ((bs.length + 3) / 4)).foldl (fun a k => a + leAt bs (4 * k) 4) 0) % 2 ^ 32)
  | _ => 0

/-- DMA_ISL_STAT of an island: the staging segments in use. -/
def Dev.stageStat (d : Dev) (isl : Nat) : Dev :=
  let n := d.dma.chans.foldl (fun a e => match e.2.xfer with
    | some x => if chanIsl e.1 = isl then a + x.bursts.length else a
    | none => a) 0
  d.setRf .dmaIslStat (isl - 2) 0 12 n

/-- A transfer ends with a status and a count of bytes: its reads in flight are abandoned, DMA_CH_STAT is written, and R271's steps follow. -/
def Dev.endXfer (d : Dev) (ch : Nat) (status : Byte) (done : Nat) : Dev :=
  match (d.chan ch).xfer with
  | none => d
  | some x =>
    let x := { x with stage := .ended status, bursts := [] }
    let d := (d.setChan ch { d.chan ch with xfer := some x }).stageStat (chanIsl ch)
    let d := ((d.setRb .dmaChStat ch 3 true).setRf .dmaChStat ch 8 8 status.toNat).setRf .dmaChStat ch 32 32 done
    let d := d.count (evE (chanIsl ch) (384 + 6))
    let d := if status = 0 then d else d.count (evE (chanIsl ch) (384 + 7))
    let d := if status = 0x18 then d.count (evE (chanIsl ch) (384 + 8)) else d
    d.xferPost ch x status

/-- A running transfer ends early under R270 or R272: bytes_done counts what was written contiguously. -/
def Dev.failXfer (d : Dev) (ch : Nat) (status : Byte) : Dev :=
  match (d.chan ch).xfer with
  | none => d
  | some x => match x.stage with
    | .ended _ => d
    | _ => (d.discardOps (fun o => match o with
        | .xferRead c _ _ => c == ch
        | .readback c => c == ch
        | _ => false)).endXfer ch status (bytesDone (d.descends ch x) x)

/-- An idle channel takes its armed set (R263, R264). -/
def Dev.handover (d : Dev) (ch : Nat) : Dev :=
  match (d.chan ch).armed, d.chanPart ch with
  | some a, some p =>
    if d.chanBusy ch then d
    else
      let d := a.shadow.foldl (fun d e => match shadowReg e.1 with
        | some (r, w) => d.setReg r ch (BitVec.ofNat 64 (e.2.toNat % 2 ^ w))
        | none => d) d
      let x : Xfer := ⟨a.tid, a.ring, a.errOnly, (d.reg .dmaChSrc ch).toNat, (d.reg .dmaChDst ch).toNat, d.rf .dmaChCnt ch 0 32, 0, 0, [], [], .moving, 0⟩
      let d := d.setChan ch { d.chan ch with armed := none, xfer := some x }
      let d := (((d.setRb .dmaChStat ch 0 true).setRb .dmaChStat ch 1 false).setRb .dmaChStat ch 3 false).setRf .dmaChStat ch 32 32 0
      let d := d.setRf .dmaChStat ch 16 3 (d.chMode ch 16 3)
      if d.setBad ch p a.shadow then d.endXfer ch 0x04 0 else d
  | _, _ => d

/-! ## Bursts (R255 to R259) -/

/-- Largest burst of an island (DMA_ISL_CFG.burst_max). -/
def Dev.burstMax (d : Dev) (isl : Nat) : Nat := 512 * 2 ^ d.rf .dmaIslCfg (isl - 2) 1 2

/-- Length of a transfer's next burst in ascending order, `at_` bytes into the stream (R255). -/
def burstLen (max src dst left at_ : Nat) : Nat :=
  Nat.min (Nat.min left max) (Nat.min (4096 - (src + at_) % 4096) (4096 - (dst + at_) % 4096))

/-- Length of the next burst of a descending copy with `left` bytes still to go: it ends where those end. -/
def burstLenDown (max src dst left : Nat) : Nat :=
  Nat.min (Nat.min left max) (Nat.min ((src + left - 1) % 4096 + 1) ((dst + left - 1) % 4096 + 1))

/-- The next burst of a transfer. -/
def Dev.nextBurst (d : Dev) (ch : Nat) (x : Xfer) : Burst :=
  let left := x.cnt - x.issued
  if d.descends ch x then
    let n := burstLenDown (d.burstMax (chanIsl ch)) x.src x.dst left
    ⟨left - n, n⟩
  else ⟨x.issued, burstLen (d.burstMax (chanIsl ch)) x.src x.dst left x.issued⟩

/-- The slice through which a channel reaches host memory: its PASID is valid and one of the partition's (R265). -/
def Dev.chanSlice (d : Dev) (ch p : Nat) : Option (Nat × SliceGrant) :=
  if d.rb .dmaChPasid ch 31 then d.sliceOfPasid p (d.reg .dmaChPasid ch) else none

/-- Whether a channel's next read can go out now: bytes left, room in flight, and for a host source a tag (R256, R257, R259, R304). -/
def Dev.burstReady (d : Dev) (ch : Nat) : Bool :=
  match (d.chan ch).xfer, d.chanPart ch with
  | some x, some p =>
    x.stage == .moving && x.issued < x.cnt &&
    x.bursts.length < (if d.rb .dmaIslCfg (chanIsl ch - 2) 0 then 1 else 16) &&
    (d.chMode ch 0 1 == 0 || (match d.chanSlice ch p with
      | some (_, g) => !d.canIssue g.port (p + 1) || d.tagFree g.port (p + 1)
      | none => true)) &&
    (d.chMode ch 1 1 == 0 || decide (0 < x.issued) || (match d.chanSlice ch p with
      | some (_, g) => d.opFree g.port (p + 1) && !d.gapFull p
      | none => true))
  | _, _ => false

/-- The channel whose burst is issued next on an island, and whether its partition borrows (R256, R257, R328). -/
def Dev.pickChannel (d : Dev) (isl : Nat) : Option (Nat × Nat × Bool) :=
  let e := isl - 2
  let cfg := fun lo w => d.rf .dmaIslCfg e lo w
  let used := d.rf .dmaIslStat e 0 12
  let cands := (d.dma.chans.map (·.1)).filter (fun ch => chanIsl ch == isl && d.burstReady ch)
  if d.rb .dmaIslStat e 16 ∨ cfg 16 12 ≤ used ∨ (cfg 0 1 = 1 ∧ cfg 4 7 ≤ used) then none
  else
    let funded := cands.filter (fun ch => (d.chanPart ch).any (fun p => 0 < d.balance .ptnBalRd isl p))
    let pool := if funded.isEmpty then cands else funded
    let top := pool.foldl (fun a ch => Nat.max a (d.chMode ch 16 3)) 0
    let pool := if cfg 0 1 = 1 then pool.filter (fun ch => d.chMode ch 16 3 == top) else pool
    match d.creditPick .ptnBalRd isl (tabGet d.dma.lastPart 7 e) (pool.filterMap d.chanPart) with
    | none => none
    | some (p, borrowed) =>
      (nextAfter (tabGet d.dma.lastCh 1023 e) (pool.filter (fun ch => d.chanPart ch == some p))).map (fun ch => (ch, p, borrowed))

/-- A burst is in flight: the channel and the engine have moved on, and its unit is charged. -/
def Dev.sendBurst (d : Dev) (ch p isl : Nat) (x : Xfer) (b : Burst) (borrowed : Bool) : Dev :=
  let d := d.setChan ch { d.chan ch with xfer := some { x with issued := x.issued + b.len, bursts := x.bursts ++ [b] } }
  let d := { d with dma := { d.dma with lastCh := tabPut d.dma.lastCh 1023 (isl - 2) ch, lastPart := tabPut d.dma.lastPart 7 (isl - 2) p } }
  let d := ((d.charge .ptnCrDma .ptnBalRd 1024 isl p b.len).stageStat isl).count (evE isl 384)
  if borrowed then d.count (evPart p 6) else d

/-- A burst's read goes out (R255, R256); a host source that cannot be read ends the transfer (R265, R312). -/
def Dev.issueBurst (d : Dev) (ch p : Nat) (borrowed : Bool) : Dev :=
  match (d.chan ch).xfer with
  | none => d
  | some x =>
    let isl := chanIsl ch
    let b := d.nextBurst ch x
    let host := d.chMode ch 0 1 == 1
    match (if host then d.chanSlice ch p else none) with
    | none =>
      if host then d.failXfer ch 0x05
      else d.sendBurst ch p isl x b borrowed
    | some (sl, g) =>
      if d.sliceState sl = 3 then d.failXfer ch 0x18
      else if !d.canIssue g.port (p + 1) then d.failXfer ch 0x17
      else (d.sendBurst ch p isl x b borrowed).hostRead g.port (p + 1) (some sl) (.xferRead ch b.off b.len) (x.src + b.off) b.len
/-- BURST_READ_ISSUE: the read engine of an island issues one burst (R256 to R259). -/
def execBurstReadIssue (e : Fin 4) (s : State) : Out :=
  event (fun d => match d.pickChannel (e.val + 2) with
    | some (ch, p, b) => d.issueBurst ch p b
    | none => d) s

/-- What reading or writing an internal range gives a channel: a status, none where it is allowed. Only the lagoon of its own island is reached (R265). -/
def Dev.xferCheck (d : Dev) (ch p addr len : Nat) : Option Byte :=
  match d.region addr len with
  | some (.lagoon isl _) => if isl ≠ chanIsl ch then some 0x05 else if d.checkMem (.part p) addr len = .ok then none else some 0x05
  | _ => match d.checkMem (.part p) addr len with
    | .ok => none
    | .decode => some 0x14
    | .denied => some 0x05

/-- A failure of an internal access ends the transfer; a decode error also raises ADDR_DECODE (R270). -/
def Dev.xferFault (d : Dev) (ch p addr : Nat) (st : Byte) : Dev :=
  (if st = 0x14 then d.raiseDecode (chanIsl ch) (some p) addr else d).failXfer ch st

/-- The write of bytes to a transfer's destination, or the status that stops it. -/
def Dev.xferWrite (d : Dev) (ch p addr : Nat) (bs : List Byte) : Except Byte Dev :=
  if d.chMode ch 1 1 = 0 then
    match d.xferCheck ch p addr bs.length with
    | some st => .error st
    | none => .ok (d.writeDup p addr bs)
  else match d.chanSlice ch p with
    | none => .error 0x05
    | some (_, g) => if d.canIssue g.port (p + 1) then .ok (d.hostWrite g.port (p + 1) (d.reg .dmaChPasid ch) addr bs) else .error 0x17

/-- The read-back of a transfer to host memory goes out, or waits for a tag (R268, R305). -/
def Dev.readbackIssue (d : Dev) (ch p : Nat) : Dev :=
  match (d.chan ch).xfer, d.chanSlice ch p with
  | some x, some (sl, g) =>
    let addr := x.dst + x.cnt
    let unit := 2 ^ d.chMode ch 8 3
    if !d.canIssue g.port (p + 1) then d.failXfer ch 0x17
    else if !d.tagFree g.port (p + 1) then d
    else if d.chMode ch 14 1 == 1 then d.hostRead g.port (p + 1) (some sl) (.readback ch) addr (chkBytes (d.chMode ch 12 2))
    else d.hostRead g.port (p + 1) (some sl) (.readback ch) (addr - unit) unit
  | _, _ => d

/-- The last write of a transfer has been issued: the checksum is stored where asked, and the read-back goes out (R267, R268). -/
def Dev.finishMove (d : Dev) (ch p : Nat) (x : Xfer) : Dev :=
  let chk := d.chMode ch 12 2
  let d := if chk = 0 then d else d.setReg .dmaChChk ch (streamCheck chk (d.reg .dmaChSeed ch) x.data)
  let stored := d.chMode ch 14 1 == 1
  let addr := x.dst + x.cnt
  let sum := leBytes (chkBytes chk) (d.reg .dmaChChk ch).toNat
  match (if stored then d.xferWrite ch p addr sum else .ok d) with
  | .error st => d.xferFault ch p addr st
  | .ok d =>
    let d := (d.setChan ch { d.chan ch with xfer := some { x with stage := .readback, readAt := d.ns } }).count (evE (chanIsl ch) (384 + 4))
    if d.chMode ch 1 1 = 0 then d else d.readbackIssue ch p

/-- The data of the oldest burst in flight: bytes, a status that ends the transfer, or nothing yet. -/
def Dev.burstData (d : Dev) (ch p : Nat) (x : Xfer) (b : Burst) : Option (Except Byte (List Byte)) :=
  if d.chMode ch 0 1 = 0 then
    match d.xferCheck ch p (x.src + b.off) b.len with
    | some st => some (.error st)
    | none => some (.ok (d.read (x.src + b.off) b.len))
  else match d.replyFor (.xferRead ch b.off b.len) with
    | some (_, .data bs) => some (.ok (slice bs 0 b.len))
    | some (_, .error) | some (_, .part _) => some (.error 0x14)
    | some (_, .timeout) => some (.error 0x07)
    | none => none

/-- The oldest burst of a channel is written as soon as its data is there (R256, R266). -/
def Dev.burstArrives (d : Dev) (ch : Nat) : Dev :=
  match (d.chan ch).xfer, d.chanPart ch with
  | some x, some p =>
    match x.stage, x.bursts with
    | .moving, b :: bs =>
      match d.burstData ch p x b with
      | none => d
      | some (.error st) => (d.endOp (.xferRead ch b.off b.len)).xferFault ch p (x.src + b.off) st
      | some (.ok data) =>
        let d := d.endOp (.xferRead ch b.off b.len)
        match d.xferWrite ch p (x.dst + b.off) data with
        | .error st => d.xferFault ch p (x.dst + b.off) st
        | .ok d =>
          let down := d.descends ch x
          let kept := if d.chMode ch 12 2 = 0 then [] else if down then data ++ x.data else x.data ++ data
          let x := { x with bursts := bs, written := x.written + b.len, data := kept }
          let isl := chanIsl ch
          let d := (d.setChan ch { d.chan ch with xfer := some x }).stageStat isl
          let d := d.setRf .dmaChStat ch 32 32 (bytesDone down x)
          let d := (d.charge .ptnCrDma .ptnBalWr 1024 isl p b.len).count (evE isl (384 + 1))
          let d := (d.countBy (evE isl (384 + 2)) b.len).countBy (evE isl (384 + 3)) b.len
          if x.written = x.cnt then d.finishMove ch p x else d
    | _, _ => d
  | _, _ => d

/-- BURST_READ_DATA: R256. -/
def execBurstReadData (ch : Fin 1024) (s : State) : Out := event (fun d => d.burstArrives ch.val) s

/-- Microseconds after which an internal read-back is given up, in ns (R268). -/
def readbackLimit : Nat := 100000

/-- A transfer's read-back returns (R268): the transfer ends with OK, or with the failure the read-back met. -/
def Dev.readbackReturn (d : Dev) (ch : Nat) : Dev :=
  match (d.chan ch).xfer with
  | none => d
  | some x =>
    if x.stage ≠ .readback then d
    else if d.chMode ch 1 1 = 0 then
      if x.readAt + readbackLimit < d.ns then d.endXfer ch 0x07 x.cnt else d.endXfer ch 0 x.cnt
    else match d.replyFor (.readback ch) with
      | none => if (d.tagFor (.readback ch)).isNone then (match d.chanPart ch with | some p => d.readbackIssue ch p | none => d) else d
      | some (_, .data _) => (d.endOp (.readback ch)).endXfer ch 0 x.cnt
      | some (_, .error) | some (_, .part _) => (d.endOp (.readback ch)).endXfer ch 0x14 0
      | some (_, .timeout) => (d.endOp (.readback ch)).endXfer ch 0x07 0

/-- READBACK_RETURN: R268. -/
def execReadbackReturn (ch : Fin 1024) (s : State) : Out := event (fun d => d.readbackReturn ch.val) s

/-- TRANSFER_ERROR: an error response or timeout that a transfer has met ends it (R270). -/
def execTransferError (ch : Fin 1024) (s : State) : Out :=
  event (fun d =>
    match (d.chan ch.val).xfer, d.chanPart ch.val with
    | some x, some p =>
      match x.stage with
      | .moving => match x.bursts with
        | b :: _ => match d.burstData ch.val p x b with
          | some (.error st) => (d.endOp (.xferRead ch.val b.off b.len)).xferFault ch.val p (x.src + b.off) st
          | _ => d
        | [] => d
      | .readback =>
        if d.chMode ch.val 1 1 = 0 then
          if x.readAt + readbackLimit ≤ d.ns then d.endXfer ch.val 0x07 x.cnt else d
        else match d.replyFor (.readback ch.val) with
          | some (_, .error) | some (_, .part _) | some (_, .timeout) => d.readbackReturn ch.val
          | _ => d
      | .ended _ => d
    | _, _ => d) s

/-- DMA_MODE_APPLY: a committed change of DMA_ISL_CFG takes effect when no burst of the island is in flight (R258). -/
def execDmaModeApply (e : Fin 4) (s : State) : Out :=
  event (fun d =>
    match tabFind e.val d.dma.modePend with
    | none => d
    | some v =>
      if d.rf .dmaIslStat e.val 0 12 ≠ 0 then d
      else
        let d := { d with dma := { d.dma with modePend := tabDel e.val d.dma.modePend } }
        (d.setReg .dmaIslCfg e.val (v.setWidth 64)).setRb .dmaIslStat e.val 16 false) s

/-! ## Aborts (R252, R272) -/

/-- The reads a channel has out are abandoned: their tags stay out until their completions come (R309). -/
def Dev.abortChannel (d : Dev) (ch : Nat) (dropArmed : Bool) : Dev :=
  let d := d.failXfer ch 0x18
  if dropArmed && (d.chan ch).armed.isSome then (d.setChan ch { d.chan ch with armed := none }).setRb .dmaChStat ch 1 false else d

/-- The channels of a partition. -/
def Dev.chansOf (d : Dev) (p : Nat) : List Nat := (d.dma.chans.map (·.1)).filter (fun ch => d.chanPart ch == some p)

end Sys2Proof.Machine
end

