-- ==== Sys2Proof/Machine/Txq.lean ====
section
/-! DEFINITION. Machine/Txq.lean: transmit queues, their limits and quotas, flushes, and the completion of frames from host transmit rings (R178 to R180 of 05_scheduling_and_gates.md, R277 of 07_dma_and_rings.md). -/
namespace Sys2Proof.Machine
open Sys2Proof

def Dev.txq (d : Dev) (q : Nat) : TxQ := tabGet d.pkt.txq {} q
def Dev.setTxq (d : Dev) (q : Nat) (x : TxQ) : Dev := { d with pkt := { d.pkt with txq := tabPut d.pkt.txq {} q x } }
/-- The port island of a transmit queue: 0 for P0, 1 for P1. -/
def txqM (q : Nat) : Nat := q / 32768
/-- Port index, class and owning partition of a queue (SCH_TXQ_CFG). -/
def Dev.txqPort (d : Dev) (q : Nat) : Nat := d.rf .schTxqCfg q 0 5
def Dev.txqClass (d : Dev) (q : Nat) : Nat := d.rf .schTxqCfg q 5 3
def Dev.txqPart (d : Dev) (q : Nat) : Nat := d.rf .schTxqCfg q 8 3
/-- A queue that takes frames: valid, and bound to a port of its own island (R178). -/
def Dev.txqOk (d : Dev) (q : Nat) : Bool := d.rb .schTxqCfg q 11 && d.txqPort q / 16 == txqM q

/-- Bytes of egress buffer a frame takes: whole cells (R142). -/
def egressBytes (bs : List Byte) : Nat := cellsFor (wireLen bs) * 256
/-- Bytes a queue holds. -/
def Dev.txqHeld (d : Dev) (q : Nat) : Nat :=
  (d.txq q).frames.foldl (fun a f => match d.frame f with | some x => a + wireLen x.bytes | none => a) 0

/-- Egress buffer use of a partition on a port island changes, and SCH_PART_EQ shows it. -/
def Dev.moveEgress (d : Dev) (p m add sub : Nat) : Dev :=
  let k := 2 * p + m
  let now := tabGet d.pkt.eqUse 0 k + add - sub
  ({ d with pkt := { d.pkt with eqUse := tabPut d.pkt.eqUse 0 k now } }).setRf .schPartEq (8 * m + p) 16 16 (Nat.min ((now + 1023) / 1024) 65535)
/-- Egress buffer in use on a port island. -/
def Dev.egressUse (d : Dev) (m : Nat) : Nat := (List.range 8).foldl (fun a p => a + tabGet d.pkt.eqUse 0 (2 * p + m)) 0
/-- Egress part of an island's packet buffer: what PORT_BUF leaves after the two ingress shares (R179). -/
def Dev.egressPart (d : Dev) (m : Nat) : Nat := (128 - d.rf .portBuf (2 * m) 0 8 - d.rf .portBuf (2 * m + 1) 0 8) * 2 ^ 20

/-- Checks 2 to 4 of R179 for a frame of some bytes: the event of the first that fails. -/
def Dev.txqRefuses (d : Dev) (q : Nat) (bs : List Byte) : Option Nat :=
  let m := txqM q
  let p := d.txqPart q
  let n := egressBytes bs
  if d.rf .schTxqLim q 0 16 * 1024 < d.txqHeld q + wireLen bs then some 1
  else if d.rf .schPartEq (8 * m + p) 0 16 * 1024 < tabGet d.pkt.eqUse 0 (2 * p + m) + n then some 2
  else if d.egressPart m < d.egressUse m + n then some 3
  else none

/-- A frame of a host transmit ring is done: its completion is posted (R277, R280). Bit 7 of its flags is err_only. -/
def Dev.txComplete (d : Dev) (x : Frame) (status : Byte) : Dev :=
  match x.tx with
  | none => d
  | some (n, tag) =>
    let sq := tabGet d.dma.sq {} n
    let d := { d with dma := { d.dma with sq := tabPut d.dma.sq {} n { sq with open_ := sq.open_ - 1 } } }
    if x.txFlags.getLsbD 7 && status = 0 then d
    else d.post ⟨d.rf .ringSqCfg n 8 14, tag, status, 1, BitVec.ofNat 16 n, 0, if status = 0 then x.txFirst else 0⟩

/-- A frame on its way out is dropped after acceptance: its completion, and its buffers. -/
def Dev.txDrop (d : Dev) (f : Nat) : Dev :=
  match d.frame f with
  | none => d
  | some x => (d.dropFrame f).txComplete x 0x1A

/-- A frame leaves a queue's egress buffer. -/
def Dev.freeEgress (d : Dev) (q f : Nat) : Dev :=
  match d.frame f with
  | some x => d.moveEgress (d.txqPart q) (txqM q) 0 (egressBytes x.bytes)
  | none => d

/-- Key of an active list: port index and class. -/
def actKey (x c : Nat) : Nat := 8 * x + c
def Dev.activeOf (d : Dev) (k : Nat) : List Nat := tabGet d.pkt.active [] k
def Dev.setActive (d : Dev) (k : Nat) (l : List Nat) : Dev := { d with pkt := { d.pkt with active := tabPut d.pkt.active [] k l } }

/-- A queue leaves its class's active list: no deficit, fresh (R183). -/
def Dev.retireTxq (d : Dev) (q : Nat) : Dev :=
  let act := (d.pkt.active.map (fun (e : Nat × List Nat) => (e.1, e.2.filter (· != q)))).filter (fun e => !e.2.isEmpty)
  let d := { d with pkt := { d.pkt with active := act } }
  d.setTxq q { d.txq q with deficit := 0, fresh := true }

/-- Every frame held in a queue is discarded (R180): how many, and the device after it. -/
def Dev.flushTxq (d : Dev) (q : Nat) : Dev :=
  let fs := (d.txq q).frames
  let d := (fs.foldl (fun d f => ((d.count (evP (6 + txqM q) (576 + 4))).freeEgress q f).txDrop f) d).retireTxq q
  d.setTxq q {}

end Sys2Proof.Machine
end

