-- ==== Sys2Proof/Machine/Rings.lean ====
section
/-! DEFINITION. Machine/Rings.lean: submission rings, fetch and prefetch, malformed entries, the four kinds of entry, and the ring commands (R56 of 02_engine_cores.md, R273 to R291 of 07_dma_and_rings.md). -/
namespace Sys2Proof.Machine
open Sys2Proof

/-! ## Who may write (R501) -/

/-- A driver of a partition, firmware or the debug interface (R292, R501). -/
def Dev.mayDrive (d : Dev) (who : Who) (p : Nat) : Bool :=
  match who with
  | .fn h f => f.val == p + 1 && d.fnExists h.val f.val
  | _ => true

/-- A driver of the partition of a ring's slice, firmware or the debug interface (R501). -/
def Dev.mayRing (d : Dev) (who : Who) (slice : Option Nat) : Bool :=
  match who, slice with
  | .fn _ _, some s => d.mayDrive who (d.slicePart s)
  | .fn _ _, none => false
  | _, _ => true

/-- A write denied at the target: discarded, with AER Completer Abort for an inbound one (R303). -/
def Dev.denyWrite (d : Dev) (who : Who) : Dev :=
  match who with
  | .fn h f => d.aer h.val f.val .completerAbort
  | _ => d

/-- A read denied at the target: Completer Abort (R303). -/
def Dev.denyRead (d : Dev) (who : Who) : Dev :=
  match who with
  | .fn h f => ((d.aer h.val f.val .completerAbort).emit (.completerAbort h.val f.val)).count (evHost h.val 8)
  | _ => d

/-! ## Submission rings (R273 to R283) -/

def Dev.sq (d : Dev) (n : Nat) : SqSt := tabGet d.dma.sq {} n
def Dev.setSq (d : Dev) (n : Nat) (x : SqSt) : Dev := { d with dma := { d.dma with sq := tabPut d.dma.sq {} n x } }
/-- The slice that owns a submission ring: its owner fields are valid and the slice's grant holds the ring (R273, R335). -/
def Dev.sqSlice (d : Dev) (n : Nat) : Option Nat :=
  let s := d.rf .ringSqOwner n 0 12
  if d.rb .ringSqOwner n 17 && d.sliceGranted s 7 0 n then some s else none
/-- Its partition, its kind, its bound channel. -/
def Dev.sqPart (d : Dev) (n : Nat) : Nat := d.rf .ringSqOwner n 12 3
def Dev.sqKind (d : Dev) (n : Nat) : Nat := d.rf .ringSqOwner n 15 2
def Dev.sqChan (d : Dev) (n : Nat) : Nat := 256 * (n / 4096) + d.rf .ringSqOwner n 18 8
/-- Entries of a ring. -/
def Dev.sqSize (d : Dev) (n : Nat) : Nat := 2 ^ d.rf .ringSqCfg n 1 5

/-- Whether a slice takes work: ACTIVE, in an ACTIVE partition (R331, R337). -/
def Dev.sliceRuns (d : Dev) (s : Nat) : Bool :=
  d.sliceState s == 1 && d.partState (d.slicePart s) == 1

/-- The frame a TX ring would offer next does not pass its queue's checks: the ring pauses (R179). -/
def Dev.txBlocked (d : Dev) (n : Nat) : Bool :=
  d.sqKind n == 1 && (match (d.sq n).entries with
    | e :: _ => (d.txqRefuses (leAt e 18 2) (List.replicate (leAt e 16 2) 0)).isSome
    | [] => false)

/-- A ring fetches: enabled, its slice runs and its overflow has room, its function may issue (R284 to R288, R312). -/
def Dev.fetchOn (d : Dev) (n : Nat) : Bool :=
  match d.sqSlice n with
  | some s => d.rb .ringSqCfg n 0 && d.sliceRuns s && !d.overflowFull s && d.sliceIssues s && !d.txBlocked n
  | none => false

/-- A ring's fetch read is due: its poll instant has come, or it has been woken (R284). -/
def Dev.fetchDue (d : Dev) (n : Nat) : Bool :=
  (d.sq n).flight.isNone && ((d.sq n).wake || d.rb .ringSqCfg n 0 && decide ((d.sq n).nextPoll ≤ d.ns))

/-- The first instant of a periodic grid through `at_` with a step in ns that lies after `now`. -/
def gridAfter (at_ step now : Nat) : Nat := if now < at_ then at_ else at_ + ((now - at_) / step + 1) * step
/-- A ring's poll interval in ns. -/
def Dev.pollStep (d : Dev) (n : Nat) : Nat := Nat.max 4 (d.rf .ringSqPoll n 0 18) * 4

/-- A fetch read goes out: the head entry and the read-ahead the service core's helper has taken on (R285). -/
def Dev.fetchIssue (d : Dev) (n s : Nat) (poll : Bool) : Dev :=
  let x := d.sq n
  let head := d.rf .ringSqStat n 0 16
  let count := Nat.min (1 + x.ahead) (d.sqSize n)
  let isl := ringIsl n
  let d := d.setSq n { x with flight := some count, wake := false, ahead := 0 }
  let d := d.count (evE isl (448 + (if poll then 2 else 9)))
  let d := if poll && x.ahead = 0 then d.count (evE isl (448 + 9)) else d
  d.hostRead (d.slicePort s) (d.sliceFn s) (some s) (.fetch n) ((d.reg .ringSqBase n).toNat + 64 * head) (64 * count)

/-- Another ring of the island has issued a poll read in this tick (R284). -/
def Dev.pollTaken (d : Dev) (n : Nat) : Bool := tabGet d.dma.pollTick 0 (ringIsl n) == d.time.tick + 1

/-- RING_POLL: a ring's fetch read that is due goes out (R284, R285). A poll instant that finds a read in flight is skipped; one poll read a tick goes out on an island. -/
def Dev.ringPoll (d : Dev) (n : Nat) : Dev :=
  let x := d.sq n
  let isl := ringIsl n
  let instant := d.rb .ringSqCfg n 0 && decide (x.nextPoll ≤ d.ns)
  let advance := fun (d : Dev) => if instant then d.setSq n { d.sq n with nextPoll := gridAfter x.nextPoll (d.pollStep n) d.ns } else d
  match d.sqSlice n with
  | none => d
  | some s =>
    let d := d.setRb .ringSqStat n 19 (d.txBlocked n || d.overflowFull s)
    if x.flight.isSome || !d.fetchOn n then advance d
    else if !(x.wake || instant) then d
    else if !d.tagFree (d.slicePort s) (d.sliceFn s) then d
    else if x.wake then (advance d).fetchIssue n s false
    else if d.pollTaken n then d
    else
      let late := x.nextPoll + 4 ≤ d.ns
      let d := if late then (d.incRf .dmaIslPollLate (isl - 2) 0 32 1).count (evE isl (448 + 4)) else d
      let d := { d with dma := { d.dma with pollTick := tabPut d.dma.pollTick 0 isl (d.time.tick + 1) } }
      (advance d).fetchIssue n s true

def execRingPoll (n : Fin 16384) (s : State) : Out := event (fun d => d.ringPoll n.val) s

/-- RING_SQ_DB: a doorbell write wakes the ring (R284). -/
def execRingSqDb (who : Who) (n : Fin 16384) (s : State) : Out :=
  event (fun d =>
    if !d.mayRing who (d.sqSlice n.val) then d.denyWrite who
    else (d.setSq n.val { d.sq n.val with wake := d.rb .ringSqCfg n.val 0 || (d.sq n.val).wake }).count (evE (ringIsl n.val) (448 + 3))) s

/-! ## Malformed entries (R286) -/

/-- Some byte of a range is not zero. -/
def anyByte (e : List Byte) (lo hi : Nat) : Bool := ((e.take hi).drop lo).any (· != 0)

/-- An internal range that a COPY entry names outside the grants: only the lagoon of the ring's own island counts. -/
def Dev.copyDenied (d : Dev) (n p addr len : Nat) : Bool :=
  match d.region addr len with
  | some (.lagoon isl _) => isl != ringIsl n || d.checkMem (.part p) addr len != .ok
  | _ => d.checkMem (.part p) addr len != .ok

/-- Why a fetched entry of a ring is malformed: 1 reserved bits, 2 opcode, 3 length or count, 4 grant (R286). -/
def Dev.entryBad (d : Dev) (n s : Nat) (e : List Byte) : Option Nat :=
  let kind := d.sqKind n
  let p := d.sqPart n
  let by_ := fun i => leAt e i 1
  let reserved := anyByte e 4 8 || decide (4 ≤ by_ 3) ||
    (match kind with
     | 0 => by_ 8 % 8 != 0 || anyByte e 20 64
     | 1 => decide (16 ≤ by_ 20) || by_ 21 != 0 || decide (64 ≤ by_ 23) || anyByte e 24 64
     | 2 => decide (32 ≤ by_ 28) || nbit (by_ 29) 3 || nbit (by_ 29) 7 || decide (8 ≤ by_ 30) || by_ 31 != 0 || anyByte e 40 64
     | _ => false)
  let range := match kind with
    | 0 => leAt e 16 4 < 64 || 16384 < leAt e 16 4
    | 1 => leAt e 16 2 < 14 || d.rf .portMaxframe (d.txqPort (leAt e 18 2)) 0 14 < leAt e 16 2 + 4
    | 2 => leAt e 24 4 = 0
    | _ => false
  let grant := match kind with
    | 1 => !d.sliceGranted s 3 0 (leAt e 18 2) || (nbit (by_ 20) 3 && !d.granted p 14 (ringIsl n) (leAt e 22 2 % 16384))
    | 2 =>
      let n' := leAt e 24 4
      let extra := if nbit (by_ 30) 2 then chkBytes (by_ 30 % 4) else 0
      (by_ 28 % 2 == 0 && d.copyDenied n p (leAt e 8 8) n') ||
      (by_ 28 / 2 % 2 == 0 && d.copyDenied n p (leAt e 16 8) (n' + extra))
    | _ => false
  if by_ 2 ≠ kind + 1 then some 2
  else if reserved then some 1
  else if range then some 3
  else if grant then some 4
  else none

/-- The submission rings of a slice. -/
def Dev.sqsOf (d : Dev) (s : Nat) : List Nat :=
  match (d.slc s).grant with
  | some g => g.ranges.flatMap (fun r => if r.kind = 7 then (List.range r.count).map (· + r.first) else [])
  | none => []

/-- A slice halts on a malformed entry (R286). -/
def Dev.haltSlice (d : Dev) (n s : Nat) (e : List Byte) (why : Nat) : Dev :=
  let d := d.post ⟨d.rf .ringSqCfg n 8 14, BitVec.ofNat 16 (leAt e 0 2), 0x04, d.sqKind n, BitVec.ofNat 16 n, 0, 0⟩
  let d := (d.setSliceState s 2).setRb .ringSliceStat s 0 true
  let d := (d.setRf .ringSliceMalRing s 0 14 n).setRf .ringSliceMalPos s 0 17 (d.rf .ringSqStat n 0 17)
  let d := (d.setRf .ringSliceMalWhy s 0 3 why).count (evE (ringIsl n) (448 + 8))
  ((d.sqsOf s).foldl (fun d k => d.setRb .ringSqStat k 20 true) d).raisePart 1024 (ringIsl n) (d.slicePart s) s

/-! ## COPY entries (R278) -/

/-- The shadow set a COPY entry programs into its channel, every index written. -/
def Dev.copySet (d : Dev) (n s : Nat) (e : List Byte) : Tab Word :=
  let w := fun v => BitVec.ofNat 64 v
  let a := leAt e 28 1
  let b := leAt e 29 1
  let c := leAt e 30 1
  let mode := a % 2 + a / 2 % 2 * 2 + b % 8 * 16 + b / 16 % 8 * 256 + c % 4 * 4096 + c / 4 % 2 * 16384 + a / 4 % 8 * 65536
  [(0, w (leAt e 8 8)), (1, w (leAt e 16 8)), (2, w (leAt e 24 4)), (3, w mode), (4, d.slicePasidWord s), (5, w (leAt e 32 8)), (6, 0),
   (7, w (d.rf .ringSqCfg n 8 14 + 2 ^ 15 + leAt e 0 2 * 2 ^ 16)), (8, 0)]

/-- The next COPY entry of a ring goes into its channel's armed slot when that is empty (R278). -/
def Dev.copyFeed (d : Dev) (n s : Nat) : Dev :=
  let ch := d.sqChan n
  match (d.sq n).entries, (d.chan ch).armed with
  | e :: es, none =>
    let d := d.setSq n { d.sq n with entries := es }
    let a : Armed := ⟨0, some (n, BitVec.ofNat 16 (leAt e 0 2)), nbit (leAt e 3 1) 1, d.copySet n s e⟩
    (d.setChan ch { d.chan ch with armed := some a }).setRb .dmaChStat ch 1 true
  | _, _ => d

/-- HANDOVER: an idle channel takes its armed set; a COPY ring then arms its next entry (R263, R278). -/
def execHandover (ch : Fin 1024) (s : State) : Out :=
  event (fun d =>
    let d := d.handover ch.val
    let n := d.rf .dmaChOwner ch.val 5 14
    match d.sqSlice n with
    | some sl => if d.rb .dmaChOwner ch.val 4 && d.sqKind n == 2 then d.copyFeed n sl else d
    | none => d) s

/-! ## Fetch returns (R285, R286, R289) -/

/-- The head moves past one entry (R281, R283). -/
def Dev.sqAdvance (d : Dev) (n : Nat) : Dev :=
  let h := d.rf .ringSqStat n 0 16
  if h + 1 = d.sqSize n then
    ((d.setRf .ringSqStat n 0 16 0).setRf .ringSqStat n 16 1 (1 - d.rf .ringSqStat n 16 1)).setRf .ringSqStat n 17 1 (1 - d.rf .ringSqStat n 17 1)
  else d.setRf .ringSqStat n 0 16 (h + 1)

/-- The consumer word is written after a fetch that advances the head (R283). -/
def Dev.consumerWord (d : Dev) (n s : Nat) : Dev :=
  let a := (d.reg .ringSqCons n).toNat
  if a = 0 then d else d.sliceWrite s a (leBytes 4 (d.rf .ringSqStat n 0 17))

/-- The owned prefix of the entries read is accepted, in order: how many, and whether one was malformed. -/
def Dev.acceptEntries (d : Dev) (n s : Nat) : List (List Byte) → Nat → Dev × Nat × Bool
  | [], k => (d, k, false)
  | e :: es, k =>
    if leAt e 3 1 % 2 ≠ d.rf .ringSqStat n 17 1 then (d, k, false)
    else match d.entryBad n s e with
      | some why => (d.haltSlice n s e why, k, true)
      | none =>
        let x := d.sq n
        ((d.setSq n { x with entries := x.entries ++ [e], open_ := x.open_ + (if d.sqKind n = 1 then 1 else 0) }).sqAdvance n).acceptEntries n s es (k + 1)

/-- A fetch read returns with its data (R285). -/
def Dev.fetchData (d : Dev) (n s count : Nat) (bs : List Byte) : Dev :=
  let isl := ringIsl n
  let es := (List.range count).map (fun k => slice bs (64 * k) 64)
  let (d, k, bad) := d.acceptEntries n s es 0
  let d := (d.countBy (evE isl 448) k).countBy (evE isl (448 + 1)) (count - k)
  let d := if k = 0 then d else d.consumerWord n s
  let d := if k = count && !bad then d.setSq n { d.sq n with wake := true } else d
  if d.sqKind n = 2 then d.copyFeed n s else d

/-- A fetch read has failed: the ring is disabled (R289). -/
def Dev.fetchFail (d : Dev) (n s : Nat) : Dev :=
  ((d.setRb .ringSqCfg n 0 false).setRb .ringSqStat n 18 true).raiseFree 1026 (ringIsl n) (some (d.slicePart s))

/-- FETCH_RETURN: the reply to a ring's fetch read. A ring that no longer fetches discards it; an error or timeout disables the ring, once the owned prefix of the entries that came whole is accepted (R289). -/
def Dev.fetchReturn (d : Dev) (n : Nat) : Dev :=
  match d.replyFor (.fetch n), (d.sq n).flight, d.sqSlice n with
  | some (_, r), some count, some s =>
    let d := (d.endOp (.fetch n)).setSq n { d.sq n with flight := none }
    if !(d.rb .ringSqCfg n 0 && d.sliceRuns s && d.sliceIssues s) then d
    else match r with
      | .data bs => d.fetchData n s count bs
      | .part bs => (d.fetchData n s (Nat.min count (bs.length / 64)) bs).fetchFail n s
      | _ => d.fetchFail n s
  | _, _, _ => d

def execFetchReturn (n : Fin 16384) (s : State) : Out := event (fun d => d.fetchReturn n.val) s

/-! ## RX entries (R276) -/

/-- The metadata a RX completion carries (R280). -/
def rxDetail (x : Frame) : Word :=
  BitVec.ofNat 64 (x.hash.toNat + x.offload.toNat * 2 ^ 32 + leAt x.key 2 1 * 2 ^ 48 + x.port % 32 * 2 ^ 56)

/-- A frame for a host queue is gone without a buffer: RING_RX_NOBUF (R276). -/
def Dev.rxNoBuf (d : Dev) (q f : Nat) : Dev := (d.count (evE (ringIsl q) (448 + 7))).dropFrame f

/-- RX_DELIVER: a frame for a host queue takes the next fetched buffer (R276). -/
def Dev.rxDeliver (d : Dev) (f : Nat) : Dev :=
  match d.frame f with
  | none => d
  | some x =>
    if !d.pkt.toHost.contains f then d
    else
      let d := { d with pkt := { d.pkt with toHost := d.pkt.toHost.erase f } }
      let q := x.ind.number
      match d.sqSlice q with
      | none => d.rxNoBuf q f
      | some s =>
        let h := d.slicePort s
        let fn := d.sliceFn s
        if d.linkUp h && !d.canIssue h fn then
          ((d.incRf .hostFnIrq (fnKey h fn) 16 16 1).count (evHost h 13)).dropFrame f
        else if !d.linkUp h || !d.sliceRuns s || d.sqKind q != 0 || d.overflowFull s then d.rxNoBuf q f
        else match (d.sq q).entries with
          | [] => d.rxNoBuf q f
          | e :: es =>
            let d := d.setSq q { d.sq q with entries := es }
            let a := leAt e 8 8
            let ts := d.rb .ringSqCfg q 22
            let room := leAt e 16 4 - (if ts then 8 else 0)
            let d := if ts then d.sliceWrite s a (leBytes 8 x.rxLast.toNat) else d
            let d := d.sliceWrite s (if ts then a + 8 else a) (x.bytes.take room)
            let st : Byte := if room < x.bytes.length then 0x19 else 0
            let d := d.dropFrame f
            if nbit (leAt e 3 1) 1 && st = 0 then d
            else d.post ⟨d.rf .ringSqCfg q 8 14, BitVec.ofNat 16 (leAt e 0 2), st, 0, BitVec.ofNat 16 q, BitVec.ofNat 16 (frameLen x.bytes), rxDetail x⟩

def execRxDeliver (f : Nat) (s : State) : Out := event (fun d => d.rxDeliver f) s

/-! ## TX entries (R277) -/

/-- The frame of a TX entry with the bytes read from host memory. -/
def Dev.txFrame (d : Dev) (n s : Nat) (e bs : List Byte) : Frame :=
  { bytes := slice bs 0 (leAt e 16 2), part := d.slicePart s, isl := ringIsl n
    action := BitVec.ofNat 32 (leAt e 20 1 % 4 * 2 ^ 28)
    ind := ⟨0, leAt e 18 2⟩
    tx := some (n, BitVec.ofNat 16 (leAt e 0 2))
    txFlags := BitVec.ofNat 8 (leAt e 20 1 % 16 + leAt e 3 1 / 2 % 2 * 128)
    txCtx := leAt e 22 2 % 16384 }

/-- A TX entry is done without a frame: its completion. -/
def Dev.txEntryEnd (d : Dev) (n : Nat) (e : List Byte) (st : Byte) : Dev :=
  d.txComplete { tx := some (n, BitVec.ofNat 16 (leAt e 0 2)), txFlags := BitVec.ofNat 8 (leAt e 3 1 / 2 % 2 * 128) } st

/-- TX_FRAME_READ: the read of a TX ring's next frame goes out where its queue would take it, or its data returns and the frame goes to its queue (R179, R277). -/
def Dev.txFrameRead (d : Dev) (n : Nat) : Dev :=
  match d.sqSlice n, (d.sq n).reading with
  | some s, some e =>
    match d.replyFor (.txRead n) with
    | none => d
    | some (_, r) =>
      let d := (d.endOp (.txRead n)).setSq n { d.sq n with reading := none }
      match r with
      | .data bs =>
        let (f, d) := d.newFrame (d.txFrame n s e bs)
        { d with pkt := { d.pkt with arriving := d.pkt.arriving ++ [f] } }
      | .error | .part _ => d.txEntryEnd n e 0x14
      | .timeout => d.txEntryEnd n e 0x07
  | some s, none =>
    match (d.sq n).entries with
    | [] => d
    | e :: es =>
      if d.sqKind n ≠ 1 || d.txBlocked n || !d.sliceIssues s || !d.tagFree (d.slicePort s) (d.sliceFn s) then d
      else (d.setSq n { d.sq n with entries := es, reading := some e }).hostRead (d.slicePort s) (d.sliceFn s) (some s) (.txRead n) (leAt e 8 8) (leAt e 16 2)
  | none, _ => d

def execTxFrameRead (n : Fin 16384) (s : State) : Out := event (fun d => d.txFrameRead n.val) s

/-! ## PROG entries (R279) -/

/-- INBOX_DELIVER: the oldest PROG entry is copied to its inbox while there is room, and the route is signalled (R279). -/
def Dev.inboxDeliver (d : Dev) (n : Nat) : Dev :=
  match d.sqSlice n, (d.sq n).entries with
  | some _, e :: es =>
    if d.sqKind n ≠ 3 then d
    else
      let p := d.sqPart n
      let a := d.rf .ringSqInbox n 0 48
      let j := Nat.min 12 (Nat.max 2 (d.rf .ringSqInbox n 48 4))
      let inIsland := match d.region a (64 + 64 * 2 ^ j) with | some (.island isl _) => isl == ringIsl n | _ => false
      match d.checkMem (.part p) a (64 + 64 * 2 ^ j) with
      | .decode => d.raiseDecode (ringIsl n) (some p) a
      | .denied => d
      | .ok =>
        if !inIsland then d
        else
          let produced := leAt (d.read a 8) 0 8
          let consumed := leAt (d.read (a + 8) 8) 0 8
          if 2 ^ j ≤ (produced + 2 ^ 64 - consumed) % 2 ^ 64 then d
          else
            let d := d.setSq n { d.sq n with entries := es }
            let d := (d.write (a + 64 + 64 * (produced % 2 ^ j)) (slice e 0 64)).write a (leBytes 8 (produced + 1))
            let r := d.reg .ringSqRoute n
            d.route p (wbit r 15) (wf r 0 10) (wf r 10 5)
  | _, _ => d

def execInboxDeliver (n : Fin 16384) (s : State) : Out := event (fun d => d.inboxDeliver n.val) s

/-! ## Driver writes (R288, R291) -/

/-- RING_CQ_HEAD: the driver's head moves; what it passes is acknowledged, and overflow entries may be written (R288, R290). -/
def execRingCqHead (who : Who) (n : Fin 16384) (v : W32) (s : State) : Out :=
  event (fun d =>
    let k := n.val
    if !d.mayRing who (d.cqSlice k) then d.denyWrite who
    else
      let size := d.cqSize k
      let pos := fun (x : Nat) => x % 65536 % size + (x / 65536 % 2) * size
      let passed := (pos v.toNat + 2 * size - pos (d.rf .ringCqHead k 0 17)) % (2 * size)
      let c := d.cq k
      ((((d.setRf .ringCqHead k 0 17 v.toNat).setCq k { c with unacked := c.unacked - passed }).cqDrain k).drainChannels)) s

/-- A value in a register's RING_CFG field k: 4 to 16 (R274, R292). -/
def clampK (v : Nat) : Nat := Nat.min 16 (Nat.max 4 (fld v 1 5))

/-- A submission ring is enabled or set up while it is off; while it is on only enable can be cleared (R291). -/
def Dev.sqCfgWrite (d : Dev) (n v : Nat) : Dev :=
  if d.rb .ringSqCfg n 0 then (if nbit v 0 then d else d.setRb .ringSqCfg n 0 false)
  else
    let d := d.setReg .ringSqCfg n (BitVec.ofNat 64 (setFld (v % 2 ^ 23 / 64 * 64 + v % 2) 1 5 (clampK v)))
    let d := d.setRf .ringSqCfg n 6 2 0
    if nbit v 0 then
      ((d.setRf .ringSqStat n 0 18 0x20000).discardOps (· == .fetch n)).setSq n
        { d.sq n with flight := none, wake := false, ahead := 0, nextPoll := d.ns + d.pollStep n }
    else d

/-- RING_SQ_CFG_WRITE: R291. -/
def execRingSqCfgWrite (who : Who) (n : Fin 16384) (v : W32) (s : State) : Out :=
  event (fun d => if d.mayRing who (d.sqSlice n.val) then d.sqCfgWrite n.val v.toNat else d.denyWrite who) s

/-- A completion ring is enabled or set up while it is off; while it is on only enable can be cleared (R291). -/
def Dev.cqCfgWrite (d : Dev) (n v : Nat) : Dev :=
  if d.rb .ringCqCfg n 0 then (if nbit v 0 then d else d.setRb .ringCqCfg n 0 false)
  else
    let d := d.setReg .ringCqCfg n (BitVec.ofNat 64 (setFld (v % 2) 1 5 (clampK v)))
    if nbit v 0 then
      ((((d.setRf .ringCqStat n 0 17 0x10000).setRf .ringCqHead n 0 17 0).setCq n {}).cqDrain n).drainChannels
    else d

/-- RING_CQ_CFG_WRITE: R291. -/
def execRingCqCfgWrite (who : Who) (n : Fin 16384) (v : W32) (s : State) : Out :=
  event (fun d => if d.mayRing who (d.cqSlice n.val) then d.cqCfgWrite n.val v.toNat else d.denyWrite who) s

/-! ## Prefetch in freed slots (R56, R285) -/

/-- A ring whose service core is a core, with a fetch read due whose read-ahead is not issued (R56). -/
def Dev.prefetchWork (d : Dev) (c n : Nat) : Bool :=
  d.rb .ringSqSvc n 4 && 16 * (ringIsl n - 2) + d.rf .ringSqSvc n 0 4 == c && d.fetchOn n && d.fetchDue n && (d.sq n).ahead == 0

/-- The read-ahead of a ring's due fetch read is taken on: up to 7 entries beyond the head (R285). -/
def Dev.prefetch (d : Dev) (n : Nat) : Dev := d.setSq n { d.sq n with ahead := 7 }

/-- Threads of a slice or ring that would go on are told by nobody: a grid of polls after a step of device time to `now` (R27). -/
def SqSt.stepped (x : SqSt) (step now : Nat) : SqSt :=
  if now < x.nextPoll then { x with nextPoll := x.nextPoll - (x.nextPoll - now) / step * step }
  else { x with nextPoll := x.nextPoll + (now - x.nextPoll + step - 1) / step * step }

end Sys2Proof.Machine
end

