-- ==== Sys2Proof/Machine/Mailbox.lean ====
section
/-! DEFINITION. Machine/Mailbox.lean: mailboxes, their doorbells, faces and resets, and firmware's end of mailboxes 0 and 1 (R346 to R357 of 09_partitions_and_slices.md, R361 to R365 of 10_wenot_command_set.md). -/
namespace Sys2Proof.Machine
open Sys2Proof

/-! ## Endpoints (R346 to R348) -/

/-- An endpoint: its kind, its id and, for kinds 2 and 3, its host port. -/
structure MbxEnd where
  kind : Nat
  id : Nat
  port : Nat
  deriving DecidableEq, Repr

def Dev.mbx (d : Dev) (m : Nat) : Mbx := tabGet d.ptn.mbxs {} m
def Dev.setMbx (d : Dev) (m : Nat) (x : Mbx) : Dev := { d with ptn := { d.ptn with mbxs := tabPut d.ptn.mbxs {} m x } }
/-- A mailbox is configured; 0 and 1 always are (R346). -/
def Dev.mbxValid (d : Dev) (m : Nat) : Bool := decide (m < 2) || d.rb .mbxCfg m 15
/-- A mailbox's sender. -/
def Dev.sndEnd (d : Dev) (m : Nat) : MbxEnd :=
  if m = 0 then ⟨1, 0, 0⟩ else if m = 1 then ⟨0, 0, 0⟩ else ⟨d.rf .mbxCfg m 0 3, d.rf .mbxCfg m 3 12, (d.mbx m).sndPort⟩
/-- A mailbox's receiver. -/
def Dev.rcvEnd (d : Dev) (m : Nat) : MbxEnd :=
  if m = 0 then ⟨0, 0, 0⟩ else if m = 1 then ⟨1, 0, 0⟩ else ⟨d.rf .mbxCfg m 16 3, d.rf .mbxCfg m 19 12, (d.mbx m).rcvPort⟩
/-- The function through which an endpoint reaches its mailbox. -/
def Dev.endFn (d : Dev) (e : MbxEnd) : Option (Nat × Nat) :=
  match e.kind with
  | 1 => some (d.mgmtPort, 0)
  | 2 => some (e.port, e.id + 1)
  | 3 => some (d.slicePort e.id, d.sliceFn e.id)
  | _ => none
/-- Whether an access comes from an endpoint (R348). -/
def Dev.isEnd (d : Dev) (who : Who) (e : MbxEnd) : Bool :=
  match who with
  | .firmware => e.kind == 0
  | .debug => false
  | .fn h f => d.endFn e == some (h.val, f.val)
/-- Firmware serves commands now (R365). -/
def Dev.fwServes (d : Dev) : Bool := d.fw.serving && !d.safe
/-- A receiving domain is down (R351). -/
def Dev.endDown (d : Dev) (e : MbxEnd) : Bool :=
  match e.kind with
  | 0 => !d.fwServes
  | 4 => let st := d.partState e.id; st == 2 || st == 3 || st == 4
  | _ =>
    (match d.endFn e with
      | some (h, f) => !d.linkUp h || d.d3 h f
      | none => true) || (e.kind == 3 && d.sliceState e.id == 3)
/-- A mailbox's receiving domain is down. -/
def Dev.rxDown (d : Dev) (m : Nat) : Bool := d.endDown (d.rcvEnd m)

/-! ## The face (R356) -/

/-- The internal address of a mailbox's face, if it has one. -/
def Dev.faceAddr (d : Dev) (m : Nat) : Option Nat :=
  if d.rb .mbxFace1 m 31 then some (d.rf .mbxFace0 m 0 32 + d.rf .mbxFace1 m 0 16 * 2 ^ 32) else none
/-- MBX_STAT as it reads, with rx_down. -/
def Dev.mbxStatNow (d : Dev) (m : Nat) : Nat := setFld (d.reg .mbxStat m).toNat 4 1 (b2n (d.rxDown m))
/-- The doorbell bits of the side of a program endpoint. -/
def Dev.progBits (d : Dev) (m : Nat) : Nat :=
  (if (d.rcvEnd m).kind = 4 then 0x3FFFFFFF else 0) + (if (d.sndEnd m).kind = 4 then 0xC0000000 else 0)
/-- A mailbox's face follows the mailbox: the message, the pending bits and the status. -/
def Dev.faceShow (d : Dev) (m : Nat) : Dev :=
  match d.faceAddr m with
  | none => d
  | some a =>
    let x := d.mbx m
    let full := d.rb .mbxStat m 0
    let d := if (d.rcvEnd m).kind = 4 then
        let d := d.writeDup x.part (a + 0x18) (leBytes 8 x.ptr.toNat)
        d.writeDup x.part (a + 0x20) (leBytes 8 (x.len.toNat + b2n (d.rb .mbxStat m 1) * 2 ^ 62 + b2n full * 2 ^ 63))
      else d
    d.writeDup x.part (a + 0x30) (leBytes 8 ((d.rf .mbxDbPend m 0 32 &&& d.progBits m) + d.mbxStatNow m % 2 ^ 16 * 2 ^ 32))

/-! ## Doorbells (R354) -/

/-- The route of a doorbell bit is sent. -/
def Dev.sendRoute (d : Dev) (m b : Nat) : Dev :=
  let r := 32 * m + b
  let id := d.rf .mbxRoute r 2 11
  match d.rf .mbxRoute r 0 2 with
  | 1 => d.route (d.mbx m).part false id (d.rf .mbxRoute r 13 5)
  | 2 => d.route (d.mbx m).part true id (d.rf .mbxRoute r 13 5)
  | 3 => match d.endFn (if b < 30 then d.rcvEnd m else d.sndEnd m) with
    | some (h, f) => d.interrupt h f id
    | none => d
  | _ => d

/-- A doorbell bit is rung; a ring of a pending bit merges with it. -/
def Dev.ringBit (d : Dev) (m b : Nat) : Dev :=
  if d.rb .mbxDbPend m b then d
  else
    let d := d.setRb .mbxDbPend m b true
    if d.rb .mbxDbMask m b then d else d.sendRoute m b

/-- Several doorbell bits are rung. -/
def Dev.ringBits (d : Dev) (m v : Nat) : Dev :=
  (List.range 30).foldl (fun d b => if nbit v b then d.ringBit m b else d) d

/-- The doorbell bits of an endpoint's side: 0 to 29 the receiver's, 30 and 31 the sender's. -/
def sideBits (snd rcv : Bool) : Nat := (if rcv then 0x3FFFFFFF else 0) + (if snd then 0xC0000000 else 0)

/-- Pending bits of a side are cleared by writing 1s. -/
def Dev.clearPend (d : Dev) (m bits v : Nat) : Dev :=
  let p := d.rf .mbxDbPend m 0 32
  d.setReg .mbxDbPend m (BitVec.ofNat 64 (p - (p &&& bits &&& v)))

/-- Mask bits of a side are written; unmasking a pending bit sends its route. -/
def Dev.writeMask (d : Dev) (m bits v : Nat) : Dev :=
  let old := d.rf .mbxDbMask m 0 32
  let new := old - (old &&& bits) + (v % 2 ^ 32 &&& bits)
  let d := d.setReg .mbxDbMask m (BitVec.ofNat 64 new)
  (List.range 32).foldl (fun d b => if nbit old b && !nbit new b && d.rb .mbxDbPend m b then d.sendRoute m b else d) d

/-! ## Posting and reading (R349, R350) -/

/-- A post of a pointer and a length on a mailbox whose receiver is up: the message, or a refusal. -/
def Dev.mbxPost (d : Dev) (m : Nat) (ptr : Word) (len : W32) : Dev :=
  if d.rb .mbxStat m 0 then ((d.setRb .mbxStat m 3 true).faceShow m).count 12
  else
    let d := (d.setMbx m { d.mbx m with ptr := ptr, len := len }).count 11
    (((d.setRb .mbxStat m 0 true).setRb .mbxStat m 1 false).setRb .mbxStat m 5 false).faceShow m

/-- The staged pointer and length of a mailbox are posted. -/
def Dev.mbxSend (d : Dev) (m : Nat) : Dev :=
  d.mbxPost m (BitVec.ofNat 64 (d.rf .mbxTxPtr0 m 0 32 + d.rf .mbxTxPtr1 m 0 32 * 2 ^ 32)) ((d.reg .mbxTxLen m).setWidth 32)

/-- The receiver reads a mailbox: the pointer, and the mailbox with the message taken; with full clear it returns 0 and latches zeros. -/
def Dev.mbxRead (d : Dev) (m : Nat) : Word × Dev :=
  if d.rb .mbxStat m 0 then
    let x := d.mbx m
    let d := (d.setRf .mbxRxPtr1 m 0 32 (x.ptr.toNat / 2 ^ 32)).setRf .mbxRxLen m 0 32 x.len.toNat
    let d := (d.setRf .mbxRxPtr0 m 0 32 x.ptr.toNat).setRb .mbxStat m 0 false
    (x.ptr, ((d.setRb .mbxStat m 5 true).ringBit m 30).faceShow m)
  else (0, ((d.setReg .mbxRxPtr0 m 0).setReg .mbxRxPtr1 m 0).setReg .mbxRxLen m 0)

/-! ## Firmware's end (R361 to R363) -/

/-- Firmware posts on mailbox 1 and rings its doorbell bit 0; while an unread message stands there it waits (R362). -/
def Dev.fwPost (d : Dev) (ptr : Word) (len : W32) : Dev :=
  if d.rxDown 1 then d
  else if d.rb .mbxStat 1 0 then { d with fw := { d.fw with posting := some (ptr, len) } }
  else ((d.mbxPost 1 ptr len).ringBit 1 0)

/-- A command header that cannot be taken: nothing is executed (R363). -/
def Dev.fwHeaderErr (d : Dev) (ptr : Word) : Dev := (d.raiseFree 1281 0 none).fwPost ptr 0

/-- Firmware is free to take a command (R358, R362, R365). -/
def Dev.fwFree (d : Dev) : Bool := d.fwServes && d.fw.taken.isNone && d.fw.running.isNone && d.fw.posting.isNone

/-- Firmware takes the message of mailbox 0, if one stands there and firmware is free: an orphan is discarded and counted (R364), a malformed message answered (R363). -/
def Dev.fwTake (d : Dev) : Dev :=
  if !d.fwFree || !d.rb .mbxStat 0 0 then d
  else
    let x := d.mbx 0
    let orphan := d.rb .mbxStat 0 1
    let d := (d.mbxRead 0).2.setRb .mbxDbPend 0 0 false
    if orphan then { d with fw := { d.fw with orphans := Nat.min 65535 (d.fw.orphans + 1) } }.count 10
    else if x.len ≠ 64 ∨ x.ptr.toNat % 64 ≠ 0 then d.fwHeaderErr x.ptr
    else { d with fw := { d.fw with taken := some (x.ptr, x.len) } }

/-- What firmware waits to post goes out once mailbox 1 has been read (R362). -/
def Dev.fwPostNow (d : Dev) : Dev :=
  match d.fw.posting with
  | none => d
  | some (ptr, len) => { d with fw := { d.fw with posting := none } }.fwPost ptr len

/-! ## The commands -/

/-- The partition an access acts for (R501). -/
def whoPart : Who → Option Nat
  | .fn _ f => if f.val = 0 then none else some (f.val - 1)
  | _ => none

/-- An access denied under R348. -/
def Dev.mbxDenied (d : Dev) (who : Who) : Dev := d.raiseFree 1280 0 (whoPart who)

/-- A sender's write: denied from anyone else, an error while the receiver is down, else done (R348, R351). -/
def Dev.sndWrite (d : Dev) (who : Who) (m : Nat) (act : Dev → Dev) : Dev :=
  if !d.mbxValid m || !d.isEnd who (d.sndEnd m) then (d.mbxDenied who).denyWrite who
  else if d.rxDown m then d.denyWrite who
  else act d

/-- A write by either side to its own bits. -/
def Dev.sideWrite (d : Dev) (who : Who) (m : Nat) (act : Nat → Dev → Dev) : Dev :=
  let snd := d.isEnd who (d.sndEnd m)
  let rcv := d.isEnd who (d.rcvEnd m)
  if !d.mbxValid m || !(snd || rcv) then (d.mbxDenied who).denyWrite who
  else if snd && !rcv && d.rxDown m then d.denyWrite who
  else (act (sideBits snd rcv) d).faceShow m

/-- MBX_SEND: R349. -/
def execMbxSend (who : Who) (m : Fin 8192) (s : State) : Out :=
  eventOn (fun d => d.sndWrite who m.val (fun d => d.mbxSend m.val)) s

/-- A read of MBX_RX_PTR_0 by an access, with its value: R350. A read by anyone but the receiver is denied. -/
def Dev.rxPtrRead (d : Dev) (who : Who) (m : Nat) : Option Word × Dev :=
  if !d.mbxValid m || !d.isEnd who (d.rcvEnd m) then (none, (d.mbxDenied who).denyRead who)
  else
    let (v, d) := d.mbxRead m
    (some v, if m = 1 then d.fwPostNow else d)

/-- MBX_RX_PTR_0_READ: R350. -/
def execMbxRxPtr0Read (who : Who) (m : Fin 8192) (s : State) : Out :=
  eventOn (fun d => match d.rxPtrRead who m.val with
    | (some v, d) => d.emit (.readValue 0 (0x3000018 + 64 * m.val) v)
    | (none, d) => d) s

/-- MBX_DB_RING: R354. Firmware acts on bit 0 of mailbox 0 (R361). -/
def execMbxDbRing (who : Who) (m : Fin 8192) (v : W32) (s : State) : Out :=
  eventOn (fun d => d.sndWrite who m.val (fun d =>
    let d := (d.ringBits m.val v.toNat).faceShow m.val
    if m.val = 0 && v.getLsbD 0 then d.fwTake else d)) s

/-- MBX_DB_PEND: R354. -/
def execMbxDbPend (who : Who) (m : Fin 8192) (v : W32) (s : State) : Out :=
  eventOn (fun d => d.sideWrite who m.val (fun bits d => d.clearPend m.val bits v.toNat)) s

/-- MBX_DB_MASK: R354. -/
def execMbxDbMask (who : Who) (m : Fin 8192) (v : W32) (s : State) : Out :=
  eventOn (fun d => d.sideWrite who m.val (fun bits d => d.writeMask m.val bits v.toNat)) s

/-- MBX_STAT_WRITE: the sender clears discarded and refused by writing 1s (R357). -/
def execMbxStatWrite (who : Who) (m : Fin 8192) (v : W32) (s : State) : Out :=
  eventOn (fun d => d.sndWrite who m.val (fun d =>
    let d := if v.getLsbD 2 then d.setRb .mbxStat m.val 2 false else d
    (if v.getLsbD 3 then d.setRb .mbxStat m.val 3 false else d).faceShow m.val)) s

/-- What a program's store to a face word does (R356). -/
def Dev.faceAct (d : Dev) (m a off v : Nat) : Dev :=
  let snd := (d.sndEnd m).kind = 4
  let rcv := (d.rcvEnd m).kind = 4
  match off with
  | 0x00 => if snd then (d.setRf .mbxTxPtr0 m 0 32 v).setRf .mbxTxPtr1 m 0 32 (v / 2 ^ 32) else d
  | 0x08 => if snd then d.setRf .mbxTxLen m 0 32 v else d
  | 0x10 =>
    if snd ∧ v ≠ 0 then
      let d := if d.rxDown m then d else d.mbxSend m
      (d.write (a + 0x10) (leBytes 8 0)).faceShow m
    else d
  | 0x20 => if rcv ∧ v / 2 ^ 63 % 2 = 0 ∧ d.rb .mbxStat m 0 then (d.mbxRead m).2 else d
  | 0x28 =>
    if snd then
      let d := if d.rxDown m then d else d.ringBits m v
      (d.write (a + 0x28) (leBytes 8 0)).faceShow m
    else d
  | 0x30 => (d.clearPend m (d.progBits m) v).faceShow m
  | 0x38 => (d.writeMask m (d.progBits m) v).faceShow m
  | _ => d

/-- FACE_STORE: a program's 8-byte store reaches a word of a mailbox's face, and the memory controller acts on it (R356). -/
def execFaceStore (m : Fin 8192) (off : Nat) (v : Word) (s : State) : Out :=
  event (fun d =>
    match d.faceAddr m.val with
    | some a => if off < 64 ∧ off % 8 = 0 then (d.write (a + off) (leBytes 8 v.toNat)).faceAct m.val a off v.toNat else d
    | none => d) s

/-! ## Resets and configuration (R347, R352, R353) -/

/-- The route word a program side's bits take from prog_route. -/
def progRouteWord (r : Nat) : Word := BitVec.ofNat 64 ((1 + fld r 10 1) + fld r 0 10 * 4 + fld r 11 5 * 2 ^ 13)

/-- The routes of an endpoint's bits after its side is reset. -/
def Dev.resetRoutes (d : Dev) (m : Nat) (e : MbxEnd) (lo n : Nat) : Dev :=
  (List.range n).foldl (fun d k =>
    d.setReg .mbxRoute (32 * m + lo + k) (if e.kind = 4 then progRouteWord (d.mbx m).progRoute.toNat else 0)) d

/-- The receiver of a mailbox is reset: an unread message is discarded, and the sender is told (R352). -/
def Dev.resetReceiver (d : Dev) (m : Nat) : Dev :=
  let unread := d.rb .mbxStat m 0
  let d := ((d.setRb .mbxStat m 0 false).setRb .mbxStat m 1 false).setRb .mbxStat m 5 false
  let d := ((d.setReg .mbxRxPtr0 m 0).setReg .mbxRxPtr1 m 0).setReg .mbxRxLen m 0
  let d := (d.setRf .mbxDbPend m 0 30 0).setRf .mbxDbMask m 0 30 0x3FFFFFFF
  let d := d.resetRoutes m (d.rcvEnd m) 0 30
  (if unread then ((d.setRb .mbxStat m 2 true).ringBit m 31).count 13 else d).faceShow m

/-- The sender of a mailbox is reset: an unread message becomes an orphan, and the sender's side is cleared (R353). -/
def Dev.resetSender (d : Dev) (m : Nat) : Dev :=
  let d := if d.rb .mbxStat m 0 then d.setRb .mbxStat m 1 true else d
  let d := (d.setRb .mbxStat m 2 false).setRb .mbxStat m 3 false
  let d := ((d.setReg .mbxTxPtr0 m 0).setReg .mbxTxPtr1 m 0).setReg .mbxTxLen m 0
  let d := (d.setRf .mbxDbPend m 30 2 0).setRf .mbxDbMask m 30 2 3
  (d.resetRoutes m (d.sndEnd m) 30 2).faceShow m

/-- The configured mailboxes, with 0 and 1. -/
def Dev.mbxList (d : Dev) : List Nat := (0 :: 1 :: d.ptn.mbxs.map (·.1)).eraseDups.filter (fun m => d.mbxValid m)

/-- One event resets the endpoints that satisfy a condition: receivers first (R353, R355). -/
def Dev.resetEnds (d : Dev) (p : MbxEnd → Bool) : Dev :=
  d.mbxList.foldl (fun d m =>
    let d := if p (d.rcvEnd m) then d.resetReceiver m else d
    if p (d.sndEnd m) then d.resetSender m else d) d

/-- A mailbox is configured from its record (R347): both sides start reset. -/
def Dev.configMbx (d : Dev) (r : MbxRec) (p : Nat) (slice : Option Nat) : Dev :=
  let own := fun k id => if k = 3 ∧ id = 0xFFFF then slice.getD 0 else id
  let cfg := r.sndKind + own r.sndKind r.sndId % 4096 * 2 ^ 3 + 2 ^ 15 + r.rcvKind * 2 ^ 16 + own r.rcvKind r.rcvId % 4096 * 2 ^ 19
  let x : Mbx := { sndPort := r.sndPort, rcvPort := r.rcvPort, part := p, slice := slice, progRoute := r.progRoute }
  let d := (d.setMbx r.mbx x).setReg .mbxCfg r.mbx (BitVec.ofNat 64 cfg)
  let faced := r.sndKind = 4 ∨ r.rcvKind = 4
  let d := d.setReg .mbxFace0 r.mbx (BitVec.ofNat 64 (r.face % 2 ^ 32))
  let d := d.setReg .mbxFace1 r.mbx (BitVec.ofNat 64 (r.face / 2 ^ 32 + (if faced then 2 ^ 31 else 0)))
  let d := d.setReg .mbxStat r.mbx 0
  (d.resetReceiver r.mbx).resetSender r.mbx

/-- A mailbox is unconfigured; a message left in it is discarded (R353). -/
def Dev.dropMbx (d : Dev) (m : Nat) : Dev :=
  let d := [Reg.mbxCfg, .mbxStat, .mbxTxPtr0, .mbxTxPtr1, .mbxTxLen, .mbxRxPtr0, .mbxRxPtr1, .mbxRxLen, .mbxDbPend, .mbxDbMask, .mbxFace0, .mbxFace1].foldl
    (fun d r => d.resetReg r m) d
  let d := (List.range 32).foldl (fun d b => d.resetReg .mbxRoute (32 * m + b)) d
  d.setMbx m {}

end Sys2Proof.Machine
end

