-- ==== Sys2Proof/Machine/Fw.lean ====
section
/-! DEFINITION. Machine/Fw.lean: how firmware takes a Wenot command, checks its header, answers it, abandons it and forwards it (R358 to R368 of 10_wenot_command_set.md, R425 of 11_faults_and_duplex.md). -/
namespace Sys2Proof.Machine
open Sys2Proof

/-- What a command answers: status, results, output, and the late_start flag (R362, R366, R368). -/
structure FwAns where
  status : Byte := 0
  r0 : Word := 0
  r1 : Word := 0
  out : List Byte := []
  late : Bool := false
  deriving DecidableEq, Repr

/-- What executing a command comes to: an answer with the device after it, or a command that a later event ends. -/
inductive FwRes where
  | answer (a : FwAns) (d : Dev)
  | hold (d : Dev)

/-- A status that changes nothing (R358). -/
def FwRes.fail (st : Byte) (d : Dev) : FwRes := .answer { status := st } d
/-- OK with two results. -/
def FwRes.ok (d : Dev) (r0 : Nat := 0) (r1 : Nat := 0) : FwRes :=
  .answer { r0 := BitVec.ofNat 64 r0, r1 := BitVec.ofNat 64 r1 } d

/-- An entry of the management view is unresolved (R366, R391). -/
def Dev.viewOpen (d : Dev) : Bool := !d.fw.viewSince.isEmpty

/-- The 32 bytes of a response (R361). -/
def fwResponse (opcode : Nat) (a : FwAns) (flags : Nat) (seq : W32) (now : Word) : List Byte :=
  leBytes 2 opcode ++ [a.status, BitVec.ofNat 8 flags] ++ leBytes 4 seq.toNat ++ leBytes 8 a.r0.toNat ++ leBytes 8 a.r1.toNat ++ leBytes 8 now.toNat

/-- The response flags of a command (R361, R391, R425). -/
def Dev.fwFlags (d : Dev) (a : FwAns) (differs : Bool) : Nat := b2n d.viewOpen + 2 * b2n a.late + 4 * b2n differs

/-- Firmware answers a command: output, response, read-back, post (R362, R363). An abandoned command answers nothing (R364). -/
def Dev.fwRespond (d : Dev) (opcode : Nat) (h : CmdHdr) (a : FwAns) (differs : Bool) : Dev :=
  let mute := d.fw.mute
  let guest := d.fw.guest
  let d := if guest = 2 then d else d.count 9
  let d := { d with fw := { d.fw with running := none, mute := false, owned := none, guest := 0, forward := none } }
  if guest = 1 then (if d.dpx.ferryUp then d.emit (.ferry opcode a.status) else d)
  else if guest = 2 then { d with fw := { d.fw with imgStatus := some a.status } }
  else if mute then d
  else
    let fl := d.fwFlags a differs
    let p := d.mgmtPort
    let d := if a.out.isEmpty ∨ h.out = 0 then d else d.hostWrite p 0 0 h.out.toNat a.out
    let d := d.hostWrite p 0 0 h.resp.toNat (fwResponse opcode a fl h.seq (timeWord d.ns))
    let d := d.emit (.command opcode a.status h.seq a.r0 a.r1 (BitVec.ofNat 8 fl))
    if h.backOk then d.fwPost h.resp 32 else d.raiseFree 1281 0 none

/-- A command comes to its end: it answers now, or, when it is forwarded, once the partner has answered or 10 ms have passed (R425). -/
def Dev.fwEnd (d : Dev) (opcode : Nat) (h : CmdHdr) (a : FwAns) : Dev :=
  match d.fw.owned with
  | some q =>
    let w : Forward := { part := q, opcode := opcode, hdr := h, status := a.status, r0 := a.r0, r1 := a.r1, out := a.out, late := a.late, since := d.time.tick }
    let d := if d.dpx.ferryUp then d.emit (.ferry opcode a.status) else d
    { d with fw := { d.fw with running := some (opcode, h), owned := none, forward := some w } }
  | none => d.fwRespond opcode h a false

/-- The running command, where it has a given opcode, ends with an answer. -/
def Dev.fwFinish (d : Dev) (opcode : Nat) (a : FwAns) : Dev :=
  match d.fw.running with
  | some (o, h) => if o = opcode && d.fw.forward.isNone then d.fwEnd opcode h a else d
  | none => d

/-- The same for a command whose arg0 names slice `n`. -/
def Dev.fwFinishAt (d : Dev) (opcode n : Nat) (a : FwAns) : Dev :=
  match d.fw.running with
  | some (_, h) => if h.arg0.toNat = n then d.fwFinish opcode a else d
  | none => d

/-- The command in progress is abandoned (R364): one not yet begun has no effect; one that has begun runs to its end and answers nothing. The opcode and seq of a header that firmware has not read are free. -/
def Dev.fwAbandon (d : Dev) : Dev :=
  if d.fw.guest ≠ 0 then d
  else match d.fw.taken, d.fw.running with
  | some _, _ =>
    let (a, d) := d.fresh
    let (b, d) := d.fresh
    { d with fw := { d.fw with taken := none, abandoned := some (a.toNat % 2 ^ 16, b.setWidth 32, false) } }
  | none, some (o, h) =>
    if o = 0x20 then { d with fw := { d.fw with running := none, owned := none, guest := 0, abandoned := some (o, h.seq, false) } }
    else
    let d := { d with fw := { d.fw with mute := true, abandoned := some (o, h.seq, true) } }
    if d.fw.forward.isSome then { d with fw := { d.fw with running := none, mute := false, forward := none } } else d
  | none, none => d

/-- A header that R361 or R367 calls malformed. -/
def headerBad (noPayload : Bool) (h : CmdHdr) : Bool :=
  h.version != 1 || h.rsv || h.payloadAddr.toNat % 8 != 0 || (h.payloadLen == 0 && h.payloadAddr != 0) || decide (67108864 < h.payloadLen.toNat) ||
  h.resp.toNat % 32 != 0 || h.out.toNat % 8 != 0 || (noPayload && h.payloadLen != 0)

/-- The bits of arg0 and arg1 that a command uses; every other bit must be zero (R7, R368, R386). -/
def argMask (opcode : Nat) : Nat × Nat :=
  let all := 2 ^ 64 - 1
  match opcode with
  | 0x10 | 0x11 => (1, 0)
  | 0x12 => (3, 0)
  | 0x21 | 0x22 | 0x42 => (7, 0)
  | 0x31 | 0x32 | 0x33 | 0x34 | 0x36 => (0xFFF, 0)
  | 0x35 | 0x60 | 0x90 | 0xB0 => (all, all)
  | 0x41 => (all, 0)
  | 0x52 => (0xFFFF, 0)
  | 0x53 => (0x3FFFFFF, 1)
  | 0x61 => (0x7F, 0)
  | 0x80 => (0x1F, all)
  | 0x81 => (0xFFF, 0)
  | 0x91 => (0x7FF, 1)
  | 0x92 => (0x7FF, 0xFFFF)
  | 0xA1 => (7, all)
  | _ => (0, 0)
/-- A command with a bit set in an argument field it does not use. -/
def argBad (opcode : Nat) (h : CmdHdr) : Bool :=
  (h.arg0.toNat &&& (argMask opcode).1) != h.arg0.toNat || (h.arg1.toNat &&& (argMask opcode).2) != h.arg1.toNat

/-- The partition a command names that changes a partition, by opcode (R420). -/
def Dev.fwTarget (d : Dev) (opcode : Nat) (p : List Byte) (h : CmdHdr) : Option Nat :=
  let a := h.arg0.toNat
  let slot := fun n => let x := tabGet d.keys.slots {} n; if x.state = 0 then none else some x.owner
  match opcode with
  | 0x20 | 0x30 | 0x35 => some (leAt p 1 1 % 8)
  | 0x21 | 0x22 | 0x42 | 0xA1 => some (a % 8)
  | 0x31 | 0x32 | 0x33 | 0x34 | 0x36 => if d.sliceState (a % 4096) = 0 then none else some (d.slicePart (a % 4096))
  | 0x40 => some (leAt p 5 1 % 8)
  | 0x41 => some (leAt p 0 1 % 8)
  | 0x50 | 0x51 => some (leAt p 2 1 % 8)
  | 0x52 => slot (a % 65536)
  | 0x53 => if h.arg1.getLsbD 0 then slot (a % 65536) else none
  | 0x70 => if d.rb .dpxExtPorts 0 (leAt p 0 1 % 32) then (List.range 8).find? (fun q => d.inDuplex q && d.dpxExternal q) else none
  | _ => none

/-- Whether a command names an externally paired partition, and whether this device holds function configuration ownership of it (R420, R425). -/
def Dev.fwOwner (d : Dev) (opcode : Nat) (p : List Byte) (h : CmdHdr) : Option Bool :=
  match d.fwTarget opcode p h with
  | some q => if d.inDuplex q && d.dpxExternal q then some (d.rb .dpxCw q 2) else none
  | none => none

/-- A command's effect on the device that has taken it: an output that does not fit fails it with no other effect (R363). -/
def fwSettle (h : CmdHdr) (d0 : Dev) : FwRes → FwRes
  | .answer a d => if h.outLen.toNat < a.out.length then .answer { status := 0x03, r1 := BitVec.ofNat 64 a.out.length } d0 else .answer a d
  | .hold d => .hold d

/-- Firmware executes the command it has taken. -/
def Dev.fwRun (d : Dev) (opcode : Nat) (noPayload : Bool) (f : List Byte → CmdHdr → Dev → FwRes) (h : CmdHdr) : Dev :=
  match d.fw.taken with
  | none => d
  | some (ptr, _) =>
    if !d.fwServes then d
    else
      let d := { d with fw := { d.fw with taken := none } }
      if !h.readOk then d.fwHeaderErr ptr
      else if headerBad noPayload h || argBad opcode h then d.fwRespond opcode h { status := 0x04 } false
      else
        let p := slice h.payload 0 h.payloadLen.toNat
        let own := d.fwOwner opcode p h
        if d.fw.guest ≠ 0 then
          match fwSettle h d (f p h d) with
          | .answer a d => d.fwRespond opcode h a false
          | .hold d => { d with fw := { d.fw with running := some (opcode, h) } }
        else if own = some false then d.fwRespond opcode h { status := 0x05 } false
        else
          let d := { d with fw := { d.fw with owned := if own = some true then d.fwTarget opcode p h else none } }
          match fwSettle h d (f p h d) with
          | .answer a d => d.fwEnd opcode h a
          | .hold d => { d with fw := { d.fw with running := some (opcode, h) } }

/-- A Wenot command's row: firmware executes the command it has taken from mailbox 0. -/
def wenot (opcode : Nat) (noPayload : Bool) (f : List Byte → CmdHdr → Dev → FwRes) (h : CmdHdr) (s : State) : Out :=
  event (fun d => d.fwRun opcode noPayload f h) s

/-- FIRMWARE_POLL: firmware finds the message of mailbox 0 (R361, R363, R364). -/
def execFirmwarePoll (h : CmdHdr) (s : State) : Out :=
  event (fun d =>
    let e := d.fwTake
    match e.fw.taken with
    | some (ptr, _) => if d.fw.taken.isNone && !h.readOk then { e with fw := { e.fw with taken := none } }.fwHeaderErr ptr else e
    | none => e) s

/-- R367: a partition that takes commands: it exists and is ACTIVE; else the status. -/
def Dev.partReady (d : Dev) (p : Nat) : Option Byte :=
  match d.partState p with
  | 0 => some 0x06
  | 1 => none
  | _ => some 0x09

end Sys2Proof.Machine
end

