-- ==== Sys2Proof/Machine/Keys.lean ====
section
/-! DEFINITION. Machine/Keys.lean: key slots, key caches, dates, invocation counters and the key commands (R205 to R224 of 06_cipher_and_fixity.md, R379 to R381 of 10_wenot_command_set.md). -/
namespace Sys2Proof.Machine
open Sys2Proof

/-! ## Slots (R205 to R208) -/

def Dev.slot (d : Dev) (n : Nat) : KeySlot := tabGet d.keys.slots {} n

/-- KEY_STAT and KEY_DATE_STAT as the slots give them. -/
def Dev.keyCounts (d : Dev) : Dev :=
  let n := fun (p : KeySlot → Bool) => (d.keys.slots.filter (fun e => p e.2)).length
  let d' := d.setReg .keyStat 0 (BitVec.ofNat 64
    (n (fun x => x.state != 0) + n (fun x => x.state != 0 && x.persistent) * 2 ^ 17 + b2n d.board.root.isSome * 2 ^ 31))
  d'.setReg .keyDateStat 0 (BitVec.ofNat 64 (n (fun x => x.expired)))
def Dev.setSlot (d : Dev) (n : Nat) (x : KeySlot) : Dev :=
  ({ d with keys := { d.keys with slots := tabPut d.keys.slots {} n x } }).keyCounts
/-- The slot's record in the key log follows the slot (R209). -/
def Dev.logSlot (d : Dev) (n : Nat) : Dev :=
  let x := d.slot n
  if x.persistent then { d with keys := { d.keys with log := tabPut d.keys.log {} n x } } else d

/-- Bytes of an AES key of a slot. -/
def KeySlot.keyLen (x : KeySlot) : Nat := if x.wide then 32 else 16
/-- AES keys in the material of a mode (R206). -/
def modeKeys (mode : Nat) : Nat := match mode with | 1 => 2 | 2 => 3 | _ => 1
/-- Salt and SSCI bytes of a mode. -/
def modeSalt (mode : Nat) : Nat := match mode with | 2 => 4 | 3 => 16 | 4 => 4 | 5 => 4 | _ => 0
/-- Length of the material of a mode (R380). -/
def materialLen (mode keyLen : Nat) : Nat := modeKeys mode * keyLen + modeSalt mode
/-- A mode with an invocation counter (R207). -/
def modeCounts (mode : Nat) : Bool := mode != 1 && mode != 6
/-- The k-th AES key of a slot. -/
def KeySlot.key (x : KeySlot) (k : Nat) : List Byte := slice x.material (k * x.keyLen) x.keyLen
/-- The salt, with the SSCI after it, of a slot. -/
def KeySlot.salt (x : KeySlot) : List Byte := x.material.drop (modeKeys x.mode * x.keyLen)
/-- The key check value of a key (R207). -/
def kcvOf (key : List Byte) : W32 := BitVec.ofNat 32 (ofLe ((aesEnc key (List.replicate 16 0)).take 4))

/-- The 64-byte record of a slot; an EMPTY slot reads as zeros apart from its number (R207, R381). -/
def KeySlot.record (x : KeySlot) (n : Nat) : List Byte :=
  if x.state = 0 then leBytes 2 n ++ List.replicate 62 0
  else
    leBytes 2 n ++ [BitVec.ofNat 8 x.state, BitVec.ofNat 8 (x.owner + 128 * b2n x.persistent), BitVec.ofNat 8 x.mode, BitVec.ofNat 8 (b2n x.wide), x.uses, x.sca] ++
    leBytes 6 x.created ++ leBytes 6 x.expires ++ leBytes 6 x.verifyDue ++
    [BitVec.ofNat 8 (b2n x.generated), BitVec.ofNat 8 (b2n x.expired + 2 * b2n x.exhausted + 4 * b2n x.near)] ++
    leBytes 4 x.kcv.toNat ++ leBytes 8 x.useCount ++ leBytes 8 x.inv ++ leBytes 8 x.ceiling ++ List.replicate 8 0

/-! ## Caches (R216, R218) -/

def Dev.keyCache (d : Dev) (e : Nat) : List Nat := tabGet d.keys.cache [] e
def Dev.setKeyCache (d : Dev) (e : Nat) (c : List Nat) : Dev :=
  ({ d with keys := { d.keys with cache := tabPut d.keys.cache [] e c } }).setRf .keyEngStat e 10 11 c.length
/-- A slot is purged from every key cache. -/
def Dev.purgeSlot (d : Dev) (n : Nat) : Dev := (List.range 4).foldl (fun d e => d.setKeyCache e ((d.keyCache e).erase n)) d
/-- Every cache is purged of every key. -/
def Dev.purgeKeys (d : Dev) : Dev := (List.range 4).foldl (fun d e => d.setKeyCache e []) d

/-- The slots an operation names (R229). -/
def EngOp.slots (o : EngOp) : List Nat :=
  if o.fix then []
  else if leAt o.desc 0 1 = 7 then [leAt o.desc 4 2, leAt o.desc 6 2] else [leAt o.desc 4 2]
/-- A started operation names a slot. -/
def Dev.slotInUse (d : Dev) (n : Nat) : Bool := d.keys.ops.any (fun e => e.2.stage == .started && e.2.slots.contains n)

/-! ## Retirement (R215) -/

/-- A RETIRING slot whose operations have ended becomes EMPTY; the command that retires it answers. -/
def Dev.retireStep (d : Dev) (n : Nat) : Dev :=
  if (d.slot n).state ≠ 2 ∨ d.slotInUse n then d
  else
    let d := (d.purgeSlot n).setSlot n {}
    let waits := d.keys.retiring.contains n
    let ks := { d.keys with log := tabDel n d.keys.log, ceilPend := tabDel n d.keys.ceilPend, retiring := d.keys.retiring.erase n }
    let d := { d with keys := ks }
    let d := d.setRf .keyLogStat 0 0 14 d.keys.ceilPend.length
    if waits then d.fwFinish 0x52 {} else d
/-- A slot moves to RETIRING. -/
def Dev.retire (d : Dev) (n : Nat) : Dev := (d.setSlot n { d.slot n with state := 2 }).retireStep n
/-- Every RETIRING slot goes on, after operations have ended. -/
def Dev.retireAll (d : Dev) : Dev := (d.keys.slots.filter (fun e => e.2.state == 2)).foldl (fun d e => d.retireStep e.1) d
/-- The slots of a partition. -/
def Dev.slotsOf (d : Dev) (p : Nat) : List Nat := (d.keys.slots.filter (fun e => e.2.state != 0 && e.2.owner == p)).map (·.1)

/-! ## Dates (R219, R220) -/

/-- The second with which dates are compared: the greater of device time and TIME_HWM (R45). -/
def Dev.dateNow (d : Dev) : Nat := Nat.max d.sec (d.rf .timeHwm0 0 0 32 + d.rf .timeHwm1 0 0 16 * 2 ^ 32)
/-- The detail of a date notice (R219). -/
def dateDetail (n owner : Nat) : Nat := n + owner * 2 ^ 16

/-- The dates of a slot are compared with the present second. -/
def Dev.dateCheck (d : Dev) (n : Nat) : Dev :=
  let x := d.slot n
  let d := if x.expires ≠ 0 ∧ x.expires ≤ d.dateNow ∧ !x.expired then
      (d.setSlot n { x with expired := true }).raisePart 896 0 x.owner (dateDetail n x.owner)
    else d
  let x := d.slot n
  if x.verifyDue ≠ 0 ∧ x.verifyDue ≤ d.dateNow ∧ !x.dueRaised then
    (d.setSlot n { x with dueRaised := true }).raisePart 897 0 x.owner (dateDetail n x.owner)
  else d

/-- KEY_DATE_CHECK: once a second every slot's dates are compared (R219, R220). -/
def execKeyDateCheck (s : State) : Out :=
  eventOn (fun d => (d.keys.slots.map (·.1)).foldl (fun d n => d.dateCheck n) d) s

/-! ## Invocation values (R221 to R223) -/

/-- What a draw of an invocation value gives. -/
inductive Draw where
  | value (v : Nat) (d : Dev)
  | exhausted
  | waits

/-- The invocation value that is never used, and the first that counts as near exhaustion. -/
def lastInv : Nat := 2 ^ 64 - 1
def nearInv : Nat := 2 ^ 64 - 2 ^ 32
/-- Block by which a durable ceiling advances (R223). -/
def ceilingBlock : Nat := 2 ^ 36

/-- A slot's counter takes a value: flags, notice and ceiling follow (R222, R223). A ceiling never passes the last value. -/
def Dev.setInv (d : Dev) (n v : Nat) : Dev :=
  let x := d.slot n
  let near := decide (nearInv ≤ v)
  let d := d.setSlot n { x with inv := v, near := x.near || near, exhausted := x.exhausted || v == lastInv }
  let d := if near && !x.near then d.raiseFree 898 0 (some x.owner) else d
  if x.persistent && decide (x.ceiling ≤ v + ceilingBlock) && x.ceiling < lastInv && (tabFind n d.keys.ceilPend).isNone then
    let d := { d with keys := { d.keys with ceilPend := tabIns n (Nat.min lastInv (x.ceiling + ceilingBlock)) d.keys.ceilPend } }
    d.setRf .keyLogStat 0 0 14 d.keys.ceilPend.length
  else d

/-- An invocation value is drawn from a slot (R221). -/
def Dev.draw (d : Dev) (n : Nat) : Draw :=
  let x := d.slot n
  if x.exhausted || decide (lastInv ≤ x.inv) then .exhausted
  else if x.persistent && decide (x.ceiling ≤ x.inv) then .waits
  else .value x.inv { (d.setInv n (x.inv + 1)).count 6 with life := { d.life with keyInvs := d.life.keyInvs + 1 } }

/-- CEILING_WRITE_DONE: a new ceiling is durable (R223). -/
def execCeilingWriteDone (slot : BitVec 16) (s : State) : Out :=
  eventOn (fun d =>
    match tabFind slot.toNat d.keys.ceilPend with
    | none => d
    | some c =>
      let d := { d with keys := { d.keys with ceilPend := tabDel slot.toNat d.keys.ceilPend } }
      let d := (d.setSlot slot.toNat { d.slot slot.toNat with ceiling := c }).logSlot slot.toNat
      d.setRf .keyLogStat 0 0 14 d.keys.ceilPend.length) s

/-- An operation with a slot is counted (R207). -/
def Dev.countUse (d : Dev) (n : Nat) : Dev :=
  let x := d.slot n
  { d.setSlot n { x with useCount := Nat.min (2 ^ 64 - 1) (x.useCount + 1) } with life := { d.life with keyUses := d.life.keyUses + 1 } }

/-! ## The random generator (R214) -/

/-- RNG_FAIL: a health test fails. -/
def execRngFail (s : State) : Out :=
  eventOn (fun d => (((d.setRb .keyRngStat 0 0 false).incRf .keyRngStat 0 16 16 1)).raiseFree 902 0 none) s
/-- RNG_HEALTH_PASS: a health test passes. -/
def execRngHealthPass (s : State) : Out := eventOn (fun d => d.setRb .keyRngStat 0 0 true) s

/-! ## The key commands (R379 to R381) -/

/-- The fields of a creation payload that must hold whatever the command (R380). -/
def keyFieldsBad (p : List Byte) (imported : Bool) : Bool :=
  let mode := leAt p 4 1
  let kb := leAt p 5 1
  let uses := leAt p 6 1
  let n := materialLen mode (if kb = 1 then 32 else 16)
  let wl := leAt p 34 2
  decide (p.length < 40) || decide (7 < leAt p 2 1) || decide (1 < leAt p 3 1) || mode == 0 || decide (6 < mode) || decide (1 < kb) ||
  decide (32 ≤ uses) || (mode == 6 && uses % 16 != 0) || (mode != 6 && decide (16 ≤ uses)) || decide (3 < leAt p 7 1) ||
  leAt p 14 2 != 0 || leAt p 22 2 != 0 || leAt p 36 4 != 0 ||
  (if imported then wl != (n + 7) / 8 * 8 + 8 || p.length != 40 + wl || (!modeCounts mode && leAt p 24 8 != 0)
   else p.length != 40 || leAt p 24 16 != 0)

/-- The slot a creation names: an explicit one, or the lowest EMPTY one of the owner's grant; or the status that refuses it (R379). -/
def Dev.keyPlace (d : Dev) (owner n : Nat) : Except Byte Nat :=
  if n = 0xFFFF then
    let rs : List Range := match (d.part owner).grant with
      | some g => g.ranges.filter (fun r => r.kind == 1)
      | none => []
    let free := rs.flatMap (fun r => ((List.range r.count).map (fun k => r.first + k)).filter (fun k => (d.slot k).state == 0))
    match free with
    | [] => .error 0x03
    | k :: ks => .ok (ks.foldl Nat.min k)
  else if !d.granted owner 1 0 n then .error 0x05
  else if (d.slot n).state ≠ 0 then .error 0x09
  else .ok n

/-- The slot a creation payload describes, with its material. -/
def keyOf (p : List Byte) (material : List Byte) (generated : Bool) (now : Nat) : KeySlot :=
  let mode := leAt p 4 1
  let wide := leAt p 5 1 == 1
  let start := leAt p 24 8
  let pers := leAt p 3 1 == 1
  { state := 1, owner := leAt p 2 1, persistent := pers, mode := mode, wide := wide,
    uses := BitVec.ofNat 8 (leAt p 6 1), sca := BitVec.ofNat 8 (leAt p 7 1), created := now,
    expires := leAt p 8 6, verifyDue := leAt p 16 6, generated := generated, near := decide (nearInv ≤ start),
    kcv := kcvOf (material.take (if wide then 32 else 16)), inv := start,
    ceiling := if pers && modeCounts mode then Nat.min lastInv (start + 2 * ceilingBlock) else 0, material := material }

/-- A slot is created and, when persistent, logged; the answer names it (R379, R380). -/
def Dev.keyCreate (d : Dev) (n : Nat) (x : KeySlot) : FwRes :=
  let d := (d.setSlot n x).logSlot n
  let d := if x.near then d.raiseFree 898 0 (some x.owner) else d
  FwRes.ok d n x.kcv.toNat

/-- What KEY_IMPORT and KEY_GENERATE check alike, in order: the device's state, the owner, its state, the slot, the counter, the number of persistent slots, the write that would need an erase (R208, R211, R367, R379, R380). -/
def Dev.keyChecks (d : Dev) (p : List Byte) (state : Bool) : Except Byte Nat :=
  let owner := leAt p 2 1
  let pers := leAt p 3 1 = 1
  if state then .error 0x09
  else match d.partReady owner with
    | some st => .error st
    | none => match d.keyPlace owner (leAt p 0 2) with
      | .error st => .error st
      | .ok n =>
        if leAt p 24 8 = lastInv then .error 0x0A
        else if pers ∧ 8192 ≤ d.rf .keyStat 0 17 14 then .error 0x03
        else .ok n

/-- A persistent slot's key-log write may need an erase, which a supply warning forbids (R379): the spec does not say when it does, so a free value decides. -/
def Dev.logErase (d : Dev) (p : List Byte) : Bool × Dev :=
  if leAt p 3 1 = 1 ∧ d.boot.warnAt.isSome then
    let (w, d) := d.fresh
    (wbit w 0, d)
  else (false, d)

/-- The unwrapping key of a KEY_IMPORT and the slot that holds it, or the status that refuses it (R212). -/
def Dev.keyKek (d : Dev) (p : List Byte) : Except Byte (List Byte × Option Nat) :=
  if leAt p 4 1 = 6 then .ok (d.board.root.getD [], none)
  else
    let k := leAt p 32 2
    let x := d.slot k
    if x.state = 2 then .error 0x06
    else if x.state ≠ 1 ∨ x.mode ≠ 6 ∨ !x.uses.getLsbD 4 ∨ x.owner ≠ leAt p 2 1 then .error 0x05
    else .ok (x.key 0, some k)

/-- KEY_IMPORT: R212, R380. -/
def execKeyImport (h : CmdHdr) (s : State) : Out :=
  wenot 0x50 false (fun p _ d =>
    if keyFieldsBad p true then .fail 0x04 d
    else match d.keyChecks p d.board.root.isNone with
      | .error st => .fail st d
      | .ok n => match d.keyKek p with
        | .error st => .fail st d
        | .ok (kek, from_) =>
          let (busy, d) := d.logErase p
          if busy then .fail 0x02 d
          else
            match kwpUnwrap kek (slice p 40 (leAt p 34 2)) with
            | some m =>
              if m.length = materialLen (leAt p 4 1) (if leAt p 5 1 = 1 then 32 else 16) then
                (match from_ with | some k => d.countUse k | none => d).keyCreate n (keyOf p m false d.sec)
              else .fail 0x08 d
            | none => .fail 0x08 d) h s

/-- KEY_GENERATE: R214, R380. No key of an externally paired partition is generated (R424). -/
def execKeyGenerate (h : CmdHdr) (s : State) : Out :=
  wenot 0x51 false (fun p _ d =>
    if keyFieldsBad p false then .fail 0x04 d
    else match d.keyChecks p (!d.rb .keyRngStat 0 0 || (leAt p 3 1 == 1 && d.board.root.isNone)) with
      | .error st => .fail st d
      | .ok n =>
        let owner := leAt p 2 1
        if d.inDuplex owner && d.dpxExternal owner then .fail 0x05 d
        else
          let (busy, d) := d.logErase p
          if busy then .fail 0x02 d
          else
            let (m, d) := d.random (materialLen (leAt p 4 1) (if leAt p 5 1 = 1 then 32 else 16))
            d.keyCreate n (keyOf p m true d.sec)) h s

/-- KEY_RETIRE: R215, R381. -/
def execKeyRetire (h : CmdHdr) (s : State) : Out :=
  wenot 0x52 true (fun _ h d =>
    let n := h.arg0.toNat
    if 65536 ≤ n then .fail 0x04 d
    else if (d.slot n).state = 0 then .fail 0x06 d
    else
      let d := d.setSlot n { d.slot n with state := 2 }
      if d.slotInUse n then .hold { d with keys := { d.keys with retiring := n :: d.keys.retiring } }
      else .ok (d.retireStep n)) h s

/-- A date moved forward, which re-arms its notice (R220). -/
def movedOn (old new : Nat) : Bool := old != 0 && (new == 0 || decide (old < new))

/-- KEY_QUERY: R381. -/
def execKeyQuery (h : CmdHdr) (s : State) : Out :=
  wenot 0x53 false (fun p h d =>
    let first := wf h.arg0 0 16
    let count := wf h.arg0 16 10 + 1
    let set := wbit h.arg1 0
    if h.arg0.toNat / 2 ^ 26 ≠ 0 ∨ h.arg1.toNat / 2 ≠ 0 ∨ 65536 < first + count ∨ p.length ≠ (if set then 16 else 0) ∨
      (set && (count != 1 || leAt p 6 2 != 0 || leAt p 14 2 != 0)) then .fail 0x04 d
    else
      let x := d.slot first
      if set && x.state = 0 then .fail 0x06 d
      else if set && d.partState x.owner ≠ 1 then .fail 0x09 d
      else
        let e := leAt p 0 6
        let v := leAt p 8 6
        let y := { x with expires := e, verifyDue := v, expired := x.expired && !movedOn x.expires e, dueRaised := x.dueRaised && !movedOn x.verifyDue v }
        let d := if set then (d.setSlot first y).logSlot first else d
        .answer { r0 := BitVec.ofNat 64 count, out := (List.range count).flatMap (fun k => (d.slot (first + k)).record (first + k)) } d) h s

end Sys2Proof.Machine
end

