-- ==== Sys2Proof/Machine/Engines.lean ====
section
/-! DEFINITION. Machine/Engines.lean: submission, acceptance, start and end of the operations of the cipher and fixity engines (R122, R123 of 03_dunval_instruction_set.md, R216 to R252 and R503 of 06_cipher_and_fixity.md). An operation reads and writes when it completes. -/
namespace Sys2Proof.Machine
open Sys2Proof

/-! ## SUBMIT and ACCPOLL (R122, R123) -/

/-- The next tag of a thread: 1 to 65,535, not outstanding. -/
def nextTag (t : Thread) : Nat :=
  (((List.range 17).map (fun k => (t.lastTag + k) % 65535 + 1)).find? (fun n => !t.tags.any (fun g => g.tag == n))).getD 1

/-- The submission queue of a thread to an engine. -/
def Thread.sub (t : Thread) (fix : Bool) : List Submission := if fix then t.subF else t.subC
def Thread.setSub (t : Thread) (fix : Bool) (q : List Submission) : Thread := if fix then { t with subF := q } else { t with subC := q }

/-- SUBMIT: R122. -/
def execSubmit (i : Issue) (rd ra : BitVec 5) (unit : BitVec 2) (s : State) : Out :=
  let tid := i.tid.val
  issue i (Instr.wf (.submit i rd ra unit)) 2 true (destG rd) [rd, ra]
    (fun t b d =>
      let off := (t.reg ra).toNat
      let fix := unit == 1#2
      if off % 64 ≠ 0 then .exc 4 off
      else if 0x40000 ≤ off then .exc 3 off
      else if 16 ≤ t.tags.length then onThread i (fun x => x.setReg rd 0) d
      else if 4 ≤ (t.sub fix).length then .starve
      else
        let n := nextTag t
        let e : Submission := ⟨n, d.time.tick, b.read (localAddr (coreOf tid) off) 64⟩
        let d := (d.flush tid).count (evE (islOf tid) (16 * (coreOf tid % 16) + (if fix then 9 else 8)))
        onThread i (fun x =>
          { (x.setSub fix (x.sub fix ++ [e])).setReg rd (BitVec.ofNat 64 n) with tags := x.tags ++ [⟨n, false, 0⟩], lastTag := n }) d) s

/-- What ACCPOLL returns for a tag. -/
def tagWord (g : Tag) : Word := BitVec.ofNat 64 (b2n g.done * 2 ^ 31 + g.status.toNat * 2 ^ 16 + g.tag)

/-- ACCPOLL: R123. A standby takes the active's recorded result (R412). -/
def execAccpoll (i : Issue) (rd ra : BitVec 5) (s : State) : Out :=
  let tid := i.tid.val
  issue i (Instr.wf (.accpoll i rd ra)) 1 false (destG rd) [rd, ra]
    (fun t _ d =>
      let n := (t.reg ra).toNat
      let retire := fun (x : Thread) => { x with tags := x.tags.filter (fun g => g.tag != n) }
      if d.replays tid then
        match (d.thread tid).takeReplay 1 with
        | none => .starve
        | some (vs, t') =>
          let v := vs.getD 0 0
          .done (d.setThread tid ((if wbit v 31 then retire t' else t').setReg rd v))
      else
        match t.tags.find? (fun g => g.tag == n) with
        | none => .done ((d.updThread tid (fun x => x.setReg rd 0)).recordInput tid 0)
        | some g =>
          let d := d.updThread tid (fun x => (if g.done then retire x else x).setReg rd (tagWord g))
          .done (d.recordInput tid (tagWord g))) s

/-! ## Descriptors (R229, R240) -/

def EngOp.code (o : EngOp) : Nat := leAt o.desc 0 1
def EngOp.src (o : EngOp) : Nat := leAt o.desc 8 8
def EngOp.res (o : EngOp) : Nat := leAt o.desc 56 8
def EngOp.line (o : EngOp) : Nat := leAt o.desc 2 1
/-- A cipher operation on a frame. -/
def EngOp.onFrame (o : EngOp) : Bool := !o.fix && nbit (leAt o.desc 1 1) 0
/-- Sector size S of ops 1 to 4. -/
def EngOp.sector (o : EngOp) : Nat := 2 ^ leAt o.desc 3 1
def EngOp.dst (o : EngOp) : Nat := leAt o.desc 16 8
def EngOp.sect (o : EngOp) : Nat := leAt o.desc 24 8
def EngOp.count (o : EngOp) : Nat := leAt o.desc 32 4
def EngOp.aadOff (o : EngOp) : Nat := leAt o.desc 36 2
def EngOp.aadLen (o : EngOp) : Nat := leAt o.desc 38 2
def EngOp.payOff (o : EngOp) : Nat := leAt o.desc 40 2
def EngOp.ivOff (o : EngOp) : Nat := leAt o.desc 42 2
def EngOp.mapIn (o : EngOp) : Nat := leAt o.desc 40 8
def EngOp.mapOut (o : EngOp) : Nat := leAt o.desc 48 8
/-- Fields of a fixity descriptor. -/
def EngOp.aux (o : EngOp) : Nat := leAt o.desc 16 8
def EngOp.recAddr (o : EngOp) : Nat := leAt o.desc 24 8
def EngOp.length (o : EngOp) : Nat := leAt o.desc 32 8
def EngOp.param (o : EngOp) : Nat := leAt o.desc 40 8
def EngOp.erase (o : EngOp) : Nat := leAt o.desc 48 8
def EngOp.rsK (o : EngOp) : Nat := o.param % 64
def EngOp.rsM (o : EngOp) : Nat := fld o.param 8 4

/-- Granules of 4 KiB (R233). -/
def granules (n : Nat) : Nat := (n + 4095) / 4096

/-- The extent of a memory GCM buffer (R503). -/
def EngOp.extent (o : EngOp) : Nat := Nat.max (o.aadOff + o.aadLen) (Nat.max (o.ivOff + 8) (o.payOff + o.count + 16))

/-- R229: a data address lies in the island memory or lagoon of the thread's own island, or in DDR. An address in no range is answered at the access. -/
def Dev.engAddr (d : Dev) (o : EngOp) (a n : Nat) : Bool :=
  decide (a < 2 ^ 48) && (match d.region a (Nat.max n 1) with
    | some (.ddr _) => true
    | some (.island isl _) => isl == islOf (d.seenTid o.tid)
    | some (.lagoon isl _) => isl == islOf (d.seenTid o.tid)
    | some _ => false
    | none => true)

/-- A result address: none, or an 8-byte aligned data address. -/
def Dev.resOk (d : Dev) (o : EngOp) : Bool := o.res == 0 || (o.res % 8 == 0 && d.engAddr o o.res 16)

/-- Two ranges overlap. -/
def overlap (a n b m : Nat) : Bool := decide (a < b + m ∧ b < a + n ∧ 0 < n ∧ 0 < m)

/-- The regions of a frame operation with the frame's length: they pass its end, or it would grow beyond the longest frame. -/
def EngOp.frameBad (o : EngOp) (ivLen len : Nat) : Bool :=
  let pe := o.payOff + o.count
  decide (len < o.aadOff + o.aadLen) || decide (len < pe) || (o.code == 5 && decide (len < o.ivOff + ivLen)) ||
  (if o.code = 5 then decide (9600 < len + 16) else decide (len < pe + 16))

/-- The fields of a cipher descriptor are wrong (R229, R230 check 1, R503). -/
def Dev.cipherBad (d : Dev) (o : EngOp) : Bool :=
  let c := o.code
  let fl := leAt o.desc 1 1
  let s2 := leAt o.desc 3 1
  let sec := decide (1 ≤ c ∧ c ≤ 4)
  let gcm := c == 5 || c == 6
  let fr := o.onFrame
  c == 0 || decide (7 < c) || decide (4 ≤ fl) || (fr && !gcm) || (nbit fl 1 && c != 7) || decide (29 < o.line) || !d.resOk o ||
  (c != 7 && leAt o.desc 6 2 != 0) ||
  (if sec then decide (s2 < 9) || decide (16 < s2) else s2 != 0) ||
  (if sec then o.count == 0 || decide (16384 < o.count)
   else if gcm then o.count == 0 || decide ((if fr then 9584 else 1048576) < o.count) else o.count != 0) ||
  (if gcm then decide (512 < o.aadLen) || decide (2 ^ 32 ≤ o.mapIn) else o.aadOff != 0 || o.aadLen != 0) ||
  (gcm && (c == 5 || !fr) && o.sect != 0) ||
  (if c = 4 ∨ c = 7 then !d.engAddr o o.mapIn 128 else !gcm && o.mapIn != 0) ||
  (if c = 3 ∨ c = 7 then !d.engAddr o o.mapOut 128 else o.mapOut != 0) ||
  (if fr then
      o.dst != 0 || (match o.frame with
        | some f => (d.frame f).any (fun x => o.frameBad 0 x.bytes.length)
        | none => true)
    else
      let S := o.sector
      let n := if gcm then o.extent else if c = 7 then 1 else S * o.count
      let ns := if c = 4 then (S + 16) * o.count else n
      let nd := if c = 3 then (S + 16) * o.count else n
      !d.engAddr o o.src ns || !d.engAddr o o.dst nd ||
      (gcm && (overlap o.payOff o.count o.aadOff o.aadLen || overlap o.payOff o.count o.ivOff 8 ||
        (o.dst != o.src && overlap o.src o.extent o.dst o.extent))))

/-- The modes an op may name (R206). -/
def EngOp.modeOk (o : EngOp) (mode : Nat) : Bool :=
  match o.code with
  | 1 | 2 => mode == 1
  | 3 | 4 | 7 => mode == 2
  | _ => if o.onFrame then mode == 3 || mode == 4 else mode == 5

/-- The slots of an op with the bit of uses each needs (R207). -/
def EngOp.needs (o : EngOp) : List (Nat × Nat) :=
  match o.code with
  | 1 | 3 | 5 => [(leAt o.desc 4 2, 0)]
  | 7 => [(leAt o.desc 4 2, 2), (leAt o.desc 6 2, 3)]
  | _ => [(leAt o.desc 4 2, 1)]

/-- Granules an op reserves that its descriptor alone decides (R234). -/
def EngOp.holdNeed (o : EngOp) : Nat :=
  if o.fix then 0 else match o.code with | 4 => granules o.sector | 6 => granules o.count | _ => 0

/-- ceiling(log2 n) for n from 1. -/
def ceilLog2 (n : Nat) : Nat := if n ≤ 1 then 0 else Nat.log2 (n - 1) + 1
/-- Leaves of an object (R242). -/
def leavesOf (len : Nat) : Nat := Nat.max 1 ((len + leafSize - 1) / leafSize)

/-- The fields of a fixity descriptor are wrong (R230, R240, R241, R243, R245, R246). -/
def Dev.fixityBad (d : Dev) (o : EngOp) : Bool :=
  let c := o.code
  let alg := leAt o.desc 1 1
  let fl := leAt o.desc 3 1
  let last := nbit fl 1
  c == 0 || decide (5 < c) || decide (29 < o.line) || leAt o.desc 4 4 != 0 || !d.resOk o ||
  (c != 1 && (alg != 0 || fl != 0)) || (c != 5 && o.erase != 0) ||
  (match c with
    | 1 => alg == 0 || decide (5 < alg) || decide (3 < fl) || o.aux % 64 != 0 || o.param != 0 ||
        (match d.region o.aux 2048 with | some (.island isl _) => isl != islOf (d.seenTid o.tid) | _ => true) ||
        (last == (o.recAddr == 0)) || (last && !d.engAddr o o.recAddr 48) || (o.length != 0 && !d.engAddr o o.src o.length)
    | 2 => o.recAddr != 0 || o.length == 0 || !d.engAddr o o.src o.length || !d.engAddr o o.aux 48 ||
        o.param % 2 ^ ceilLog2 (leavesOf o.length) != 0
    | 3 => o.aux != 0 || o.param == 0 || !d.engAddr o o.recAddr 48 || !d.engAddr o o.src (48 * o.param) || decide (2 ^ 32 < leavesOf o.length)
    | _ => o.aux != 0 || o.recAddr != 0 || o.rsK == 0 || decide (32 < o.rsK) || o.rsM == 0 || decide (8 < o.rsM) ||
        o.param != o.rsK + o.rsM * 256 || o.length % 64 != 0 || o.length == 0 || decide (1048576 < o.length) ||
        !d.engAddr o o.src (8 * (o.rsK + o.rsM)) || decide (2 ^ (o.rsK + o.rsM) ≤ o.erase))

/-- The checks of R230 at acceptance, in order: 0, or the status of the first that fails. -/
def Dev.acceptStatus (d : Dev) (o : EngOp) : Byte :=
  if o.fix then (if d.fixityBad o then 0x04 else 0)
  else if d.cipherBad o then 0x04
  else
    let ss := o.needs.map (fun (e : Nat × Nat) => (d.slot e.1, e.2))
    if ss.any (fun (e : KeySlot × Nat) => e.1.state != 1) then 0x06
    else if ss.any (fun (e : KeySlot × Nat) => e.1.owner != o.part) then 0x05
    else if ss.any (fun (e : KeySlot × Nat) => !o.modeOk e.1.mode) then 0x04
    else if ss.any (fun (e : KeySlot × Nat) => !e.1.uses.getLsbD e.2) then 0x11
    else if d.rf .keyHoldQ (creditIdx o.isl o.part) 0 13 < o.holdNeed then 0x13
    else 0

/-! ## Completion (R123, R232) -/

/-- Operations an engine has accepted and not completed (KEY_ENG_STAT, FIX_ENG_STAT). -/
def Dev.engStat (d : Dev) (isl : Nat) (fix : Bool) : Dev :=
  let n := (d.keys.ops.filter (fun e => e.2.isl == isl && e.2.fix == fix)).length
  d.setRf (if fix then .fixEngStat else .keyEngStat) (isl - 2) 0 10 n
def Dev.setOp (d : Dev) (k : Nat) (o : EngOp) : Dev := { d with keys := { d.keys with ops := tabIns k o d.keys.ops } }
def Dev.op (d : Dev) (k : Nat) : Option EngOp := tabFind k d.keys.ops
/-- Granules change hands. -/
def Dev.addHold (d : Dev) (isl p : Nat) (n : Int) : Dev :=
  let i := creditIdx isl p
  d.setRf .keyHoldUse i 0 13 ((d.rf .keyHoldUse i 0 13 : Int) + n).toNat
/-- An operation leaves its engine. -/
def Dev.dropOp (d : Dev) (k : Nat) (o : EngOp) : Dev :=
  (({ d with keys := { d.keys with ops := tabDel k d.keys.ops } }).addHold o.isl o.part (-(o.hold : Int))).engStat o.isl o.fix

/-- The address an access of an operation reaches: a standby's own copy for its pair's active island (R413). -/
def Dev.engPhys (d : Dev) (o : EngOp) (a : Nat) : Nat :=
  if a / 2 ^ 44 = islOf (d.seenTid o.tid) ∧ a / 2 ^ 44 < 8 then islAddr o.isl (a % 2 ^ 44) else a
/-- The status an access meets, if it fails (R231, R232). -/
def Dev.engCheck (d : Dev) (o : EngOp) (a n : Nat) : Option Byte :=
  match d.checkMem (.part o.part) (d.engPhys o a) n with
  | .ok => none
  | .decode => some 0x14
  | .denied => some 0x05
def Dev.engRead (d : Dev) (o : EngOp) (a n : Nat) : Except Byte (List Byte) :=
  if n = 0 then .ok [] else match d.engCheck o a n with
    | some st => .error st
    | none => .ok (d.read (d.engPhys o a) n)
/-- A write; what a standby would write beyond its island is discarded (R413). -/
def Dev.engWrite (d : Dev) (o : EngOp) (a : Nat) (bs : List Byte) : Except Byte Dev :=
  match d.engCheck o a bs.length with
  | some st => .error st
  | none => let pa := d.engPhys o a
            .ok (if d.isStandby o.tid && pa / 2 ^ 44 != o.isl then d else d.write pa bs)

/-- No unit failed (R232). -/
def noUnit : Nat := 0xFFFFFFFF

/-- An operation completes with a status: result record, tag, event, counts (R123, R232). -/
def Dev.engDone (d : Dev) (k : Nat) (o : EngOp) (st : Byte) (units fail : Nat) : Dev :=
  let rcd := leBytes 4 units ++ leBytes 4 fail ++ leBytes 8 (timeWord d.ns).toNat
  let (st, d) := if o.res = 0 || !d.resOk o then (st, d) else match d.engWrite o o.res rcd with
    | .ok d => (st, d)
    | .error e => (e, if e = 0x14 then d.raiseDecode o.isl (some o.part) o.res else d)
  let d := d.dropOp k o
  let d := d.updThread o.tid (fun t => { t with tags := t.tags.map (fun g => if g.tag = o.tag then { g with done := true, status := st } else g) })
  let base := if o.fix then 352 else 320
  let d := d.count (evE o.isl base)
  let d := if o.fix then (if st = 0x16 then (d.count (evE o.isl 355)).incRf .fixEngUnrec (o.isl - 2) 0 32 1 else d)
    else match st.toNat with
      | 0x08 => (d.count (evE o.isl 322)).incRf .keyEngAuthf (o.isl - 2) 0 32 1
      | 0x10 => d.count (evE o.isl 325)
      | 0x0A => d.count (evE o.isl 326)
      | 0x12 => d.count (evE o.isl 327)
      | _ => d
  let d := if o.line < 30 then d.setEvent o.tid o.line else d
  d.retireAll

/-- Operations of a thread on an engine before one (R232). -/
def Dev.opsBefore (d : Dev) (k : Nat) (o : EngOp) : List EngOp :=
  (d.keys.ops.filter (fun e => e.1 < k && e.2.tid == o.tid && e.2.fix == o.fix)).map (·.2)

/-- Operations of a thread that ended before their turn complete once it comes. -/
def Dev.engDeliver (d : Dev) (tid : Nat) (fix : Bool) : Nat → Dev
  | 0 => d
  | n + 1 =>
    match d.keys.ops.find? (fun e => e.2.tid == tid && e.2.fix == fix) with
    | some (k, o) => match o.stage with
      | .ended st => (d.engDone k o st 0 noUnit).engDeliver tid fix n
      | _ => d
    | none => d
def Dev.engNext (d : Dev) (o : EngOp) : Dev := d.engDeliver o.tid o.fix d.keys.ops.length

/-- An operation ends before it has begun its work. -/
def Dev.engEnd (d : Dev) (k : Nat) (o : EngOp) (st : Byte) : Dev := (d.setOp k { o with stage := .ended st }).engNext o

/-! ## Acceptance (R232) -/

def Dev.engHeld (d : Dev) (isl p : Nat) (fix : Bool) : Nat :=
  (d.keys.ops.filter (fun e => e.2.isl == isl && e.2.fix == fix && e.2.part == p)).length
/-- Whether a partition's operation may take an entry. -/
def Dev.engRoom (d : Dev) (isl p : Nat) (fix : Bool) : Bool :=
  let w := fun q => 2 * d.share (if fix then .ptnCrFix else .ptnCrCiph) isl q
  let held := fun q => d.engHeld isl q fix
  decide (held p < w p) ||
  decide ((List.range 8).foldl (fun a q => a + held q) 1 + (List.range 8).foldl (fun a q => if q = p then a else a + (w q - held q)) 0 ≤ 512)

/-- The thread whose submission is accepted next: the oldest that may take an entry. -/
def Dev.engPick (d : Dev) (isl : Nat) (fix : Bool) : Option (Nat × Nat × Submission) :=
  let cs := d.thr.filterMap (fun (e : Nat × Thread) =>
    match (e.2.sub fix).head?, d.partOf e.1 with
    | some q, some p => if islOf e.1 = isl && d.engRoom isl p fix then some (e.1, p, q) else none
    | _, _ => none)
  cs.foldl (fun best (c : Nat × Nat × Submission) => match best with
    | none => some c
    | some b => if c.2.2.tick < b.2.2.tick ∨ (c.2.2.tick = b.2.2.tick ∧ c.1 < b.1) then some c else some b) none

/-- Each slot named is a hit in the key cache, and becomes its most recent entry, or a miss (R216). -/
def Dev.keyTouch (d : Dev) (isl n : Nat) : Dev :=
  let c := d.keyCache (isl - 2)
  if c.contains n then d.setKeyCache (isl - 2) (n :: c.erase n)
  else (d.count (evE isl 323)).incRf .keyEngMiss (isl - 2) 0 32 1

/-- The frame a frame operation names, when it is its thread's current frame (R229). -/
def Dev.engFrame (d : Dev) (tid : Nat) (desc : List Byte) : Option Nat :=
  let h := BitVec.ofNat 64 (leAt desc 8 8)
  match (d.thread tid).frame with
  | some f => if (d.frame f).any (fun x => handleOf f x == h) || d.isStandby tid then some f else none
  | none => none

/-- ENGINE_ACCEPT: R230, R232. -/
def execEngineAccept (e : Fin 4) (fix : Bool) (s : State) : Out :=
  event (fun d =>
    let isl := e.val + 2
    match d.engPick isl fix with
    | none => d
    | some (tid, p, q) =>
      let d := d.updThread tid (fun t => t.setSub fix ((t.sub fix).drop 1))
      let o : EngOp := { isl := isl, fix := fix, part := p, tid := tid, tag := q.tag, desc := q.desc, stage := .accepted, hold := 0, frame := none }
      let o := if o.onFrame then { o with frame := d.engFrame tid q.desc } else o
      let k := d.keys.nextOp
      let d := ({ d with keys := { d.keys with nextOp := k + 1 } }.setOp k o).engStat isl fix
      match d.acceptStatus o with
      | 0 => o.slots.foldl (fun d n => d.keyTouch isl n) d
      | st => d.engEnd k o st) s

/-! ## The key bus (R216, R218) -/

/-- A key enters a cache; a full one loses its least recently used entry that no running operation needs. -/
def Dev.cacheKey (d : Dev) (e n : Nat) : Dev :=
  let c := d.keyCache e
  if c.length < 1024 then d.setKeyCache e (n :: c)
  else
    let busy := fun m => d.keys.ops.any (fun o => o.2.isl == e + 2 && o.2.stage == .started && o.2.slots.contains m)
    match c.reverse.find? (fun m => !busy m) with
    | some m => d.setKeyCache e (n :: c.erase m)
    | none => d

/-- Operations of an island that wait for a slot's key. -/
def Dev.keyWaiters (d : Dev) (isl n : Nat) : List (Nat × EngOp) :=
  d.keys.ops.filter (fun e => e.2.isl == isl && e.2.stage == .accepted && e.2.slots.contains n)

/-- KEY_BUS_TRANSFER: a key an operation waits for arrives, fails its check word and is sent again, or fails again (R218). -/
def execKeyBusTransfer (e : Fin 4) (slot : BitVec 16) (ok : Bool) (s : State) : Out :=
  event (fun d =>
    let isl := e.val + 2
    let n := slot.toNat
    let rk := 65536 * e.val + n
    if (d.keyWaiters isl n).isEmpty || (d.keyCache e.val).contains n || (d.slot n).state = 0 then d
    else
      let good := ok && !d.injecting 900
      let d := d.useInjection 900
      if good then
        ({ d with keys := { d.keys with busRetry := d.keys.busRetry.erase rk } }.cacheKey e.val n).count 4
      else if d.keys.busRetry.contains rk then
        let d := ({ d with keys := { d.keys with busRetry := d.keys.busRetry.erase rk } }.raiseFree 901 isl none).count 6
        (d.keyWaiters isl n).foldl (fun d (w : Nat × EngOp) => d.engEnd w.1 w.2 0x15) d
      else
        let d := { d with keys := { d.keys with busRetry := rk :: d.keys.busRetry } }
        (((d.incRf .keyBusStat 0 0 16 1).setRf .keyBusStat 0 16 4 isl).raiseFree 900 isl none).count 5) s

/-! ## Start (R219, R222, R234, R241, R247) -/

/-- A seal map's header (R247). -/
structure SealMap where
  alg : Nat
  len : Nat
  dig : List Byte
  recOk : Bool
  first : Nat
  count : Nat
  s2 : Nat
  zeros : Bool

def sealMapOf (h : List Byte) : SealMap :=
  let z := (slice h 61 3).all (· == 0) && (slice h 112 16).all (· == 0)
  match parseRecord (h.take 48) with
  | some (alg, len, dig) => ⟨alg, len, dig, true, leAt h 48 8, leAt h 56 4, leAt h 60 1, z⟩
  | none => ⟨0, 0, [], false, leAt h 48 8, leAt h 56 4, leAt h 60 1, z⟩

/-- The header a SEAL, UNSEAL or TRANSCRIBE uses. -/
def Dev.sealMap (d : Dev) (o : EngOp) : Except Byte SealMap :=
  match d.engRead o (if o.code = 3 then o.mapOut else o.mapIn) 128 with
  | .ok h => .ok (sealMapOf h)
  | .error st => .error st

/-- A header's checks fail (R247). -/
def SealMap.bad (m : SealMap) (o : EngOp) : Bool :=
  let S := 2 ^ m.s2
  if o.code = 7 then
    m.count == 0 || decide (16777216 < m.count) || decide (m.s2 < 9) || decide (16 < m.s2) || !m.zeros || !m.recOk ||
    decide (m.len ≤ (m.count - 1) * S) || decide (m.count * S < m.len)
  else m.s2 != leAt o.desc 3 1 || !m.zeros || decide (o.sect < m.first) || decide (m.first + m.count < o.sect + o.count)

/-- Granules an operation reserves at its start (R234). -/
def Dev.holdOf (d : Dev) (o : EngOp) : Nat :=
  if o.code = 7 && !o.fix then
    match d.sealMap o with
    | .ok m => if m.bad o then 0 else (if m.count = 1 then 1 else 2) * granules (2 ^ m.s2)
    | .error _ => 0
  else o.holdNeed

/-- The reservation of an operation is not free now. -/
def Dev.holdWaits (d : Dev) (o : EngOp) : Bool :=
  let i := creditIdx o.isl o.part
  decide (d.rf .keyHoldQ i 0 13 < d.rf .keyHoldUse i 0 13 + d.holdOf o)

/-- The status with which a cipher operation ends at its start, after the hold: expiry, exhaustion, then its seal map (R219, R222, R230, R247). -/
def Dev.cipherStart (d : Dev) (o : EngOp) : Byte :=
  let enc := o.needs.filter (fun (e : Nat × Nat) => e.2 = 0 ∨ e.2 = 3)
  if enc.any (fun (e : Nat × Nat) => (d.slot e.1).expired) then 0x10
  else if enc.any (fun (e : Nat × Nat) => (d.slot e.1).exhausted) then 0x0A
  else if o.code = 3 ∨ o.code = 4 ∨ o.code = 7 then
    match d.sealMap o with
    | .ok m => if m.bad o then 0x04 else 0
    | .error st => st
  else 0

/-- The status with which a fixity operation ends at its start, and the device with a first segment's context initialised (R241). -/
def Dev.fixityStart (d : Dev) (o : EngOp) : Byte × Dev :=
  let alg := leAt o.desc 1 1
  if o.code ≠ 1 then (0, d)
  else if nbit (leAt o.desc 3 1) 0 then
    match d.engWrite o o.aux (Dig.init alg).pack with
    | .ok d => (0, d)
    | .error st => (st, d)
  else match d.engRead o o.aux 2 with
    | .ok c => (if leAt c 0 1 = 1 ∧ leAt c 1 1 = alg then 0 else 0x04, d)
    | .error st => (st, d)

/-- An accepted operation whose turn it is starts (R215, R230, R232, R234). -/
def Dev.engStart (d : Dev) (k : Nat) (o : EngOp) : Dev :=
  if o.fix then
    match d.fixityStart o with
    | (0, d) => d.setOp k { o with stage := .started }
    | (st, d) => d.engEnd k o st
  else if o.slots.any (fun n => (d.slot n).state ≠ 1) then d.engEnd k o 0x06
  else if !o.slots.all (fun n => (d.keyCache (o.isl - 2)).contains n) then d
  else
    let h := d.holdOf o
    if d.rf .keyHoldQ (creditIdx o.isl o.part) 0 13 < h then d.engEnd k o 0x13
    else if d.holdWaits o then d
    else
      let d := if d.isStandby o.tid then d else o.slots.eraseDups.foldl (fun d n => d.countUse n) d
      match d.cipherStart o with
      | 0 => (d.setOp k { o with stage := .started, hold := h }).addHold o.isl o.part h
      | st => (if st = 0x14 then d.raiseDecode o.isl (some o.part) (if o.code = 3 then o.mapOut else o.mapIn) else d).engEnd k o st

/-- ENGINE_OP_START: R230, R232. -/
def execEngineOpStart (op : Nat) (s : State) : Out :=
  event (fun d =>
    match d.op op with
    | none => d
    | some o => if o.stage = .accepted ∧ (d.opsBefore op o).all (fun b => b.stage != .accepted) then d.engStart op o else d) s

/-! ## Invocation values of an operation (R221, R224) -/

/-- Key of the values an active's operation has drawn. -/
def drawKey (tid tag : Nat) : Nat := 65536 * tid + tag
/-- The active's operations of a duplex partition keep their values for the standby's (R224). -/
def Dev.keepsDraws (d : Dev) (o : EngOp) : Bool := d.inDuplex o.part && !d.dpxExternal o.part && islOf o.tid == d.dpxActive o.part && timed o.tid
/-- The k-th invocation value of an operation from a slot: drawn from the key store, or, on a standby, the one its active's operation drew. In duplex a draw waits for the key-bus master unit (R420, R421). -/
def Dev.opDraw (d : Dev) (o : EngOp) (n k : Nat) : Draw :=
  if d.isStandby o.tid then
    match tabFind (drawKey (d.seenTid o.tid) o.tag) d.keys.draws with
    | none => .waits
    | some vs => match vs[k]? with
      | some v => .value v d
      | none => .exhausted
  else if d.inDuplex o.part && !d.rb .dpxCw o.part 0 then .waits
  else match d.draw n with
    | .value v d =>
      let key := drawKey o.tid o.tag
      .value v (if d.keepsDraws o then { d with keys := { d.keys with draws := tabIns key (tabGet d.keys.draws [] key ++ [v]) d.keys.draws } } else d)
    | r => r

/-! ## What an operation does (R225 to R228, R233, R241 to R250, R503) -/

/-- How an operation ends: status, units done, failing unit, and, for a decode error, its address. -/
structure EngEnd where
  status : Byte
  units : Nat
  fail : Nat
  addr : Nat := 0

/-- One unit of an operation. -/
inductive UnitRes (σ : Type) where
  | ok (x : σ)
  | stop (st : Byte) (addr : Nat) (x : σ)
  | waits

/-- The units of an operation in order, until one stops; none where one must wait. -/
def runUnits (f : Nat → σ → UnitRes σ) : Nat → Nat → σ → Option (EngEnd × σ)
  | 0, i, x => some (⟨0, i, noUnit, 0⟩, x)
  | n + 1, i, x => match f i x with
    | .ok y => runUnits f n (i + 1) y
    | .stop st a y => some (⟨st, i, i, a⟩, y)
    | .waits => none

/-- The tag of a sealed sector (R226). -/
def sealTag (x : KeySlot) (sect n : Nat) (ct : List Byte) : List Byte :=
  gcmTag (x.key 2) (x.salt.take 4 ++ beBytes 8 n) (leBytes 16 sect ++ ct) []
def sealSector (x : KeySlot) (sect n : Nat) (pt : List Byte) : List Byte :=
  let ct := xts true (x.key 0) (x.key 1) sect pt
  ct ++ sealTag x sect n ct
/-- A sealed sector's plaintext, where its tag verifies. -/
def unsealSector (x : KeySlot) (S sect n : Nat) (bs : List Byte) : Option (List Byte) :=
  let ct := bs.take S
  if sealTag x sect n ct = bs.drop S then some (xts false (x.key 0) (x.key 1) sect ct) else none

/-- One sector of XTS_ENC or XTS_DEC (R225). -/
def Dev.xtsUnit (o : EngOp) (i : Nat) (d : Dev) : UnitRes Dev :=
  let S := o.sector
  let x := d.slot (leAt o.desc 4 2)
  match d.engRead o (o.src + i * S) S with
  | .error st => .stop st (o.src + i * S) d
  | .ok bs => match d.engWrite o (o.dst + i * S) (xts (o.code == 1) (x.key 0) (x.key 1) (o.sect + i) bs) with
    | .error st => .stop st (o.dst + i * S) d
    | .ok d => .ok d

/-- One sector of SEAL (R226, R247). -/
def Dev.sealUnit (o : EngOp) (first i : Nat) (d : Dev) : UnitRes Dev :=
  let S := o.sector
  let n := leAt o.desc 4 2
  let x := d.slot n
  match d.engRead o (o.src + i * S) S with
  | .error st => .stop st (o.src + i * S) d
  | .ok bs => match d.opDraw o n i with
    | .waits => .waits
    | .exhausted => .stop 0x0A 0 d
    | .value v d => match d.engWrite o (o.dst + i * (S + 16)) (sealSector x (o.sect + i) v bs) with
      | .error st => .stop st (o.dst + i * (S + 16)) d
      | .ok d =>
        let m := o.mapOut + 128 + 8 * (o.sect + i - first)
        match d.engWrite o m (leBytes 8 v) with
        | .error st => .stop st m d
        | .ok d => .ok d

/-- One sector of UNSEAL (R226, R233, R247). -/
def Dev.unsealUnit (o : EngOp) (first i : Nat) (d : Dev) : UnitRes Dev :=
  let S := o.sector
  let x := d.slot (leAt o.desc 4 2)
  let m := o.mapIn + 128 + 8 * (o.sect + i - first)
  match d.engRead o m 8, d.engRead o (o.src + i * (S + 16)) (S + 16) with
  | .error st, _ => .stop st m d
  | _, .error st => .stop st (o.src + i * (S + 16)) d
  | .ok nb, .ok bs => match unsealSector x S (o.sect + i) (ofLe nb) bs with
    | none => .stop 0x08 0 d
    | some pt => match d.engWrite o (o.dst + i * S) pt with
      | .error st => .stop st (o.dst + i * S) d
      | .ok d => .ok d

/-- A transcription under way: the device and its two digests. -/
structure Trans where
  dev : Dev
  plain : Dig
  img : Dig

/-- One sector of TRANSCRIBE (R248). -/
def transUnit (o : EngOp) (m : SealMap) (i : Nat) (t : Trans) : UnitRes Trans :=
  let d := t.dev
  let S := 2 ^ m.s2
  let a := d.slot (leAt o.desc 4 2)
  let b := d.slot (leAt o.desc 6 2)
  let from_ := o.src + i * (S + 16)
  let e := o.mapIn + 128 + 8 * i
  match d.engRead o from_ (S + 16), d.engRead o e 8 with
  | .error st, _ => .stop st from_ t
  | _, .error st => .stop st e t
  | .ok bs, .ok nb => match unsealSector a S (m.first + i) (ofLe nb) bs with
    | none => .stop 0x08 0 t
    | some pt =>
      let t := { t with plain := t.plain.feed (pt.take (m.len - i * S)) }
      match d.opDraw o (leAt o.desc 6 2) i with
      | .waits => .waits
      | .exhausted => .stop 0x0A 0 t
      | .value v d =>
        let out := sealSector b (o.sect + i) v pt
        match d.engWrite o (o.dst + i * (S + 16)) out with
        | .error st => .stop st (o.dst + i * (S + 16)) { t with dev := d }
        | .ok d =>
          let g := o.mapOut + 128 + 8 * i
          match d.engWrite o g (leBytes 8 v) with
          | .error st => .stop st g { t with dev := d }
          | .ok d => .ok { dev := d, plain := t.plain, img := if nbit (leAt o.desc 1 1) 1 then t.img.feed out else t.img }

/-- The header TRANSCRIBE writes at its end (R248). -/
def transHeader (o : EngOp) (m : SealMap) (plain img : List Byte) : List Byte :=
  fixityRecord m.alg m.len plain ++ leBytes 8 o.sect ++ leBytes 4 m.count ++ [BitVec.ofNat 8 m.s2, 0, 0, 0] ++
  (if nbit (leAt o.desc 1 1) 1 then fixityRecord m.alg (m.count * (2 ^ m.s2 + 16)) img else List.replicate 48 0) ++ List.replicate 16 0

/-- TRANSCRIBE (R248 to R250). -/
def Dev.transcribe (d : Dev) (o : EngOp) (m : SealMap) : Option (EngEnd × Dev) :=
  match runUnits (transUnit o m) m.count 0 { dev := d, plain := Dig.init m.alg, img := Dig.init m.alg } with
  | none => none
  | some (e, t) =>
    if e.status ≠ 0 then some (e, t.dev)
    else
      let dig := t.plain.final
      match t.dev.engWrite o o.mapOut (transHeader o m dig t.img.final) with
      | .error st => some ({ e with status := st, addr := o.mapOut }, t.dev)
      | .ok d => some ({ e with status := if dig = m.dig then 0 else 0x12 }, d)

/-- The IV of a frame operation (R227). -/
def frameIv (x : KeySlot) (v : Nat) : List Byte :=
  if x.mode = 3 then xorB (x.salt.take 12) (x.salt.drop 12 ++ beBytes 8 v) else x.salt.take 4 ++ beBytes 8 v

/-- A message fails: no unit is done, and the message is the failing unit (R232). -/
def msgFail (st : Byte) (a : Nat := 0) : EngEnd := ⟨st, 0, 0, a⟩

/-- GCM_ENC and GCM_DEC on a frame's bytes with its IV in place: the frame's new bytes, or a tag that does not verify (R228). -/
def frameGcm (o : EngOp) (x : KeySlot) (v : Nat) (bs : List Byte) : Option (List Byte) :=
  let pe := o.payOff + o.count
  let iv := frameIv x v
  if o.code = 5 then
    let bs := patch bs o.ivOff (if x.mode = 3 then beBytes 4 (v % 2 ^ 32) else beBytes 8 v)
    let ct := gcmCrypt (x.key 0) iv (slice bs o.payOff o.count)
    some ((patch bs o.payOff ct).take pe ++ gcmTag (x.key 0) iv (slice bs o.aadOff o.aadLen) ct ++ bs.drop pe)
  else
    let ct := slice bs o.payOff o.count
    if gcmTag (x.key 0) iv (slice bs o.aadOff o.aadLen) ct = slice bs pe 16 then
      some ((patch bs o.payOff (gcmCrypt (x.key 0) iv ct)).take pe ++ bs.drop (pe + 16))
    else none

/-- A frame operation (R228). A frame that its thread no longer holds cannot be reached; a standby's frame is its active's. -/
def Dev.gcmFrame (d : Dev) (o : EngOp) : Option (EngEnd × Dev) :=
  let n := leAt o.desc 4 2
  let x := d.slot n
  if d.isStandby o.tid then some (⟨0, o.count, noUnit, 0⟩, d)
  else match o.frame.bind d.frame with
    | none => some (msgFail 0x14, d)
    | some f =>
      if o.frameBad (if x.mode = 3 then 4 else 8) f.bytes.length then some (msgFail 0x04, d)
      else
        let go := fun (d : Dev) (v : Nat) => match frameGcm o x v f.bytes with
          | some bs => (⟨0, o.count, noUnit, 0⟩, d.setFrame (o.frame.getD 0) { f with bytes := bs })
          | none => ((msgFail 0x08, d) : EngEnd × Dev)
        if o.code = 5 then
          match d.opDraw o n 0 with
          | .waits => none
          | .exhausted => some (msgFail 0x0A, d)
          | .value v d => some (go d v)
        else some (go d o.sect)

/-- GCM_ENC and GCM_DEC on memory (R503). -/
def Dev.gcmMem (d : Dev) (o : EngOp) : Option (EngEnd × Dev) :=
  let n := leAt o.desc 4 2
  let x := d.slot n
  let pe := o.payOff + o.count
  match d.engRead o o.src o.extent with
  | .error st => some (msgFail st o.src, d)
  | .ok buf =>
    let key := x.key 0
    let put := fun (d : Dev) (bs : List Byte) (off : Nat) (k : Dev → Option (EngEnd × Dev)) =>
      if bs.isEmpty then k d else match d.engWrite o (o.dst + off) bs with
        | .error st => some (msgFail st (o.dst + off), d)
        | .ok d => k d
    let fin := fun (d : Dev) => some ((⟨0, o.count, noUnit, 0⟩, d) : EngEnd × Dev)
    if o.code = 5 then
      match d.opDraw o n 0 with
      | .waits => none
      | .exhausted => some (msgFail 0x0A, d)
      | .value v d =>
        let buf := patch buf o.ivOff (beBytes 8 v)
        let iv := x.salt.take 4 ++ beBytes 8 v
        let ct := gcmCrypt key iv (slice buf o.payOff o.count)
        put d (patch (patch buf o.payOff ct) pe (gcmTag key iv (slice buf o.aadOff o.aadLen) ct)) 0 fin
    else
      let iv := x.salt.take 4 ++ slice buf o.ivOff 8
      let ct := slice buf o.payOff o.count
      if gcmTag key iv (slice buf o.aadOff o.aadLen) ct ≠ slice buf pe 16 then some (msgFail 0x08, d)
      else put d ((patch buf o.payOff (gcmCrypt key iv ct)).take pe) 0 (fun d => put d (buf.drop (pe + 16)) (pe + 16) fin)

/-- A cipher operation's effect; none where it waits for an invocation value (R223). -/
def Dev.runCipher (d : Dev) (o : EngOp) : Option (EngEnd × Dev) :=
  match o.code with
  | 1 | 2 => runUnits (Dev.xtsUnit o) o.count 0 d
  | 5 | 6 => if o.onFrame then d.gcmFrame o else d.gcmMem o
  | c => match d.sealMap o with
    | .error st => some (⟨st, 0, noUnit, if c = 3 then o.mapOut else o.mapIn⟩, d)
    | .ok m =>
      if c = 3 then runUnits (Dev.sealUnit o m.first) o.count 0 d
      else if c = 4 then runUnits (Dev.unsealUnit o m.first) o.count 0 d
      else d.transcribe o m

/-- The bytes of a range that can be read before the first failing access, in pieces of 64 bytes, and the status of that access. -/
def Dev.readableTo (d : Dev) (o : EngOp) (a len : Nat) : Nat × Option Byte :=
  match d.engCheck o a len with
  | none => (len, none)
  | some st =>
    match (List.range ((len + 63) / 64)).find? (fun k => (d.engCheck o (a + 64 * k) (Nat.min 64 (len - 64 * k))).isSome) with
    | some k => (64 * k, some ((d.engCheck o (a + 64 * k) (Nat.min 64 (len - 64 * k))).getD st))
    | none => (0, some st)

/-- DIGEST (R241): a segment absorbed; the last writes the record and ends the context. -/
def Dev.runDigest (d : Dev) (o : EngOp) : EngEnd × Dev :=
  let (n, bad) := if o.length = 0 then (0, none) else d.readableTo o o.src o.length
  match d.engRead o o.aux 2048 with
  | .error st => (⟨st, 0, 0, o.aux⟩, d)
  | .ok c =>
    let s := (Dig.unpack c).feed (d.read (d.engPhys o o.src) n)
    let total := s.len
    let last := nbit (leAt o.desc 3 1) 1
    let c' := if bad.isNone && last then 0 :: (s.pack.drop 1) else s.pack
    match d.engWrite o o.aux c', bad with
    | .error st, _ => (⟨st, 0, 0, o.aux⟩, d)
    | .ok d, some st => (⟨st, n, n, o.src + n⟩, d)
    | .ok d, none =>
      if last then
        match d.engWrite o o.recAddr (fixityRecord (leAt o.desc 1 1) total s.final) with
        | .error st => (⟨st, n, noUnit, o.recAddr⟩, d)
        | .ok d => (⟨0, n, noUnit, 0⟩, d)
      else (⟨0, n, noUnit, 0⟩, d)

/-- TREE_RUN (R243). -/
def Dev.runTree (d : Dev) (o : EngOp) : EngEnd × Dev :=
  match d.readableTo o o.src o.length with
  | (n, some st) => (⟨st, n, n, o.src + n⟩, d)
  | (n, none) =>
    let ls := (pieces leafSize (d.read (d.engPhys o o.src) n)).map (fun c => sha256 (0x00 :: c))
    let node := BitVec.ofNat 8 (ceilLog2 ls.length) :: List.replicate 7 0 ++ leBytes 8 o.param ++ treeOf ls.length ls
    match d.engWrite o o.aux node with
    | .error st => (⟨st, n, noUnit, o.aux⟩, d)
    | .ok d => (⟨0, n, noUnit, 0⟩, d)

/-- The value over leaves `f` to the end of level `l`'s node, from nodes given as (first leaf, end, value) (R243, R244). -/
def combineNodes (ns : List (Nat × Nat × List Byte)) (total : Nat) : Nat → Nat → Option (List Byte)
  | 0, f => (ns.find? (fun x => x.1 == f && x.2.1 == Nat.min (f + 1) total)).map (·.2.2)
  | l + 1, f =>
    let e := Nat.min (f + 2 ^ (l + 1)) total
    match ns.find? (fun x => x.1 == f && x.2.1 == e) with
    | some x => some x.2.2
    | none =>
      if !ns.any (fun x => x.1 == f) then none
      else match combineNodes ns total l f with
        | none => none
        | some a => if f + 2 ^ l < total then (combineNodes ns total l (f + 2 ^ l)).map (treeNode a) else some a

/-- A list of nodes covers an object in order: each follows the one before it, and every one but the last is full (R244). -/
def nodesCover (total : Nat) : Nat → List (Nat × Nat × Nat) → Bool
  | at_, [] => at_ == total
  | at_, (lev, f, _) :: ns => f == at_ && f % 2 ^ lev == 0 && decide (f < total) && (ns.isEmpty || decide (f + 2 ^ lev < total)) &&
      nodesCover total (Nat.min (f + 2 ^ lev) total) ns

/-- TREE_COMBINE (R244). -/
def Dev.runCombine (d : Dev) (o : EngOp) : EngEnd × Dev :=
  match d.engRead o o.src (48 * o.param) with
  | .error st =>
    let k := ((List.range o.param).find? (fun k => (d.engCheck o (o.src + 48 * k) 48).isSome)).getD 0
    (⟨st, k, k, o.src + 48 * k⟩, d)
  | .ok bs =>
    let total := leavesOf o.length
    let ps := pieces 48 bs
    let hs := ps.map (fun p => (leAt p 0 1, leAt p 8 8, leAt p 1 7))
    let vs := ps.map (fun p => (leAt p 8 8, Nat.min (leAt p 8 8 + 2 ^ leAt p 0 1) total, p.drop 16))
    if !hs.all (fun h => h.1 ≤ 32 && h.2.2 == 0) || !nodesCover total 0 hs then (⟨0x04, o.param, noUnit, 0⟩, d)
    else match combineNodes vs total (ceilLog2 total) 0 with
      | none => (⟨0x04, o.param, noUnit, 0⟩, d)
      | some v => match d.engWrite o o.recAddr (fixityRecord 5 o.length v) with
        | .error st => (⟨st, o.param, noUnit, o.recAddr⟩, d)
        | .ok d => (⟨0, o.param, noUnit, 0⟩, d)

/-- The shards some numbers name, or the first whose read fails. -/
def Dev.readShards (d : Dev) (o : EngOp) (addr : Nat → Nat) : List Nat → Except (Nat × Byte) (List (List Byte))
  | [] => .ok []
  | s :: ss => match d.engRead o (addr s) o.length with
    | .error st => .error (s, st)
    | .ok b => match d.readShards o addr ss with
      | .error e => .error e
      | .ok bs => .ok (b :: bs)

/-- Shards are written; the first whose write fails ends it. -/
def Dev.writeShards (d : Dev) (o : EngOp) (addr : Nat → Nat) : List (Nat × List Byte) → EngEnd × Dev
  | [] => (⟨0, o.length, noUnit, 0⟩, d)
  | (s, b) :: ss => match d.engWrite o (addr s) b with
    | .error st => (⟨st, 0, s, addr s⟩, d)
    | .ok d => d.writeShards o addr ss

/-- RS_ENCODE and RS_REBUILD (R245, R246). -/
def Dev.runRs (d : Dev) (o : EngOp) : EngEnd × Dev :=
  let k := o.rsK
  let m := o.rsM
  match d.engRead o o.src (8 * (k + m)) with
  | .error st => (⟨st, 0, noUnit, o.src⟩, d)
  | .ok tb =>
    let addr := fun s => leAt tb (8 * s) 8
    let erased := (List.range (k + m)).filter (fun s => nbit o.erase s)
    if (List.range (k + m)).any (fun s => !d.engAddr o (addr s) o.length) then (⟨0x04, 0, noUnit, 0⟩, d)
    else if o.code = 5 ∧ m < erased.length then (⟨0x16, 0, noUnit, 0⟩, d)
    else
      let chosen := if o.code = 4 then List.range k else ((List.range (k + m)).filter (fun s => !nbit o.erase s)).take k
      match d.readShards o addr chosen with
      | .error (s, st) => (⟨st, 0, s, addr s⟩, d)
      | .ok bs =>
        let outs := if o.code = 4 then (List.range m).map (fun j => (k + j, rsCombine (rsRow k (k + j)) bs))
          else
            let inv := rsInverse k chosen
            erased.map (fun s => (s, rsCombine (rsRebuildRow k inv s) bs))
        d.writeShards o addr outs

/-- A fixity operation's effect. -/
def Dev.runFixity (d : Dev) (o : EngOp) : EngEnd × Dev :=
  match o.code with
  | 1 => d.runDigest o
  | 2 => d.runTree o
  | 3 => d.runCombine o
  | _ => d.runRs o

/-! ## Charges (R236, R251, R327) -/

/-- Hundredths of a slot's side-channel factor (R237). -/
def scaFactor (sca : Byte) : Nat := match sca.toNat % 4 with | 0 => 100 | 1 => 60 | 2 => 80 | _ => 48
/-- Payload bytes an operation has worked on, by its units done. -/
def EngOp.payload (o : EngOp) (units S : Nat) : Nat := match o.code with | 5 | 6 => units | _ => units * S

/-- A charge at an engine, with the count of a unit served by borrowing. -/
def Dev.engCharge (d : Dev) (o : EngOp) (fix : Bool) (amount : Nat) : Dev :=
  let (cr, bal, rate, ev) := if fix then (Reg.ptnCrFix, Reg.ptnBalFix, 512, 5) else (Reg.ptnCrCiph, Reg.ptnBalCiph, 1000, 4)
  let borrowed := d.balance bal o.isl o.part ≤ 0
  let d := d.charge cr bal rate o.isl o.part amount
  if borrowed then d.count (evPart o.part ev) else d

/-- An operation's charges and byte counts. -/
def Dev.engCharges (d : Dev) (o : EngOp) (e : EngEnd) : Dev :=
  if o.fix then
    let data := if o.code = 4 ∨ o.code = 5 then e.units * o.rsK else 0
    let inp := if o.code = 1 ∨ o.code = 2 then e.units else if o.code = 3 then 48 * e.units else 0
    ((d.engCharge o true (if o.code = 4 ∨ o.code = 5 then data * 128 / 100 else inp)).countBy (evE o.isl 353) inp).countBy (evE o.isl 354) data
  else
    let f := fun n => scaFactor (d.slot n).sca
    let S := if o.code = 7 then (match d.sealMap o with | .ok m => 2 ^ m.s2 | .error _ => 0) else o.sector
    let b := o.payload e.units S
    let c := o.slots.foldl (fun a n => a + b * 100 / f n) 0
    let d := (d.engCharge o false c).countBy (evE o.isl 321) b
    if o.code = 7 then d.engCharge o true (b + (if nbit (leAt o.desc 1 1) 1 then e.units * (S + 16) else 0)) else d

/-- A started operation is carried out and completes; one that must wait for an invocation value is counted (R223). -/
def Dev.engRun (d : Dev) (k : Nat) (o : EngOp) : Dev :=
  match (if o.fix then some (d.runFixity o) else d.runCipher o) with
  | none => if d.isStandby o.tid then d else d.incRf .keyLogStat 0 16 16 1
  | some (e, d1) =>
    let d1 := d1.engCharges o e
    let d1 := if e.status = 0x14 && e.addr != 0 then d1.raiseDecode o.isl (some o.part) e.addr else d1
    let key := drawKey (d.seenTid o.tid) o.tag
    let dr := if d.isStandby o.tid then tabDel key d1.keys.draws
      else if !o.fix && d.keepsDraws o then tabIns key (tabGet d1.keys.draws [] key) d1.keys.draws else d1.keys.draws
    ({ d1 with keys := { d1.keys with draws := dr } }.engDone k o e.status e.units e.fail).engNext o

/-- ENGINE_OP_COMPLETE: the operations of a thread complete in the order of their submission (R232). -/
def execEngineOpComplete (op : Nat) (s : State) : Out :=
  event (fun d =>
    match d.op op with
    | none => d
    | some o => if o.stage = .started && (d.opsBefore op o).isEmpty then d.engRun op o else d) s

/-! ## Aborts (R87, R252) -/

/-- A started operation is cut off: a DIGEST's context is no longer valid. -/
def Dev.engCut (d : Dev) (o : EngOp) : Dev :=
  if o.fix && o.code == 1 && o.stage == .started then
    match d.engWrite o o.aux [0] with
    | .ok d => d
    | .error _ => d
  else d

/-- The operations that satisfy a condition are aborted, without a completion. -/
def Dev.abortOps (d : Dev) (p : EngOp → Bool) : Dev :=
  ((d.keys.ops.filter (fun e => p e.2)).foldl (fun d (e : Nat × EngOp) => (d.engCut e.2).dropOp e.1 e.2) d).retireAll

/-- Operations that wait for hold space, counted once a tick per island. -/
def Dev.holdTick (d : Dev) : Dev :=
  (List.range 4).foldl (fun d e =>
    if d.keys.ops.any (fun (x : Nat × EngOp) => x.2.isl == e + 2 && !x.2.fix && x.2.stage == .accepted &&
        (d.opsBefore x.1 x.2).all (fun b => b.stage != .accepted) && x.2.slots.all (fun n => (d.keyCache e).contains n) && d.holdWaits x.2) then
      d.count (evE (e + 2) 324)
    else d) d

end Sys2Proof.Machine
end

