-- ==== Sys2Proof/Machine/Sched.lean ====
section
/-! DEFINITION. Machine/Sched.lean: time gates, shapers, policers, selection by deficit round robin, transmission, preemption, and the scheduler's update interface (R141 of 04_packet_path.md, R178 to R203 of 05_scheduling_and_gates.md). Times named fx are device times in 2^-16 ns. -/
namespace Sys2Proof.Machine
open Sys2Proof

/-! ## Sub-ports (R133, R195) -/

/-- Mode of the physical port of a port index (R133). -/
def Dev.portModeOf (d : Dev) (x : Nat) : Nat := d.rf .portMode (x / 8) 0 3
/-- Whether a port index exists in its physical port's mode. -/
def Dev.subPort (d : Dev) (x : Nat) : Bool :=
  match d.portModeOf x with
  | 1 => x % 8 == 0
  | 2 => x % 4 == 0
  | 3 => x % 2 == 0
  | 4 => true
  | _ => false
/-- Rate of a sub-port in Gb/s; 1 where there is none. -/
def Dev.portRate (d : Dev) (x : Nat) : Nat :=
  match d.portModeOf x with
  | 1 => 800 | 2 => 400 | 3 => 200 | 4 => 100 | _ => 1
/-- A sub-port's link is up (PORT_LINK). -/
def Dev.portUp (d : Dev) (x : Nat) : Bool := d.rb .portLink (x / 8) (x % 8)
/-- Time on the wire of some bytes, in fx. -/
def Dev.wireFx (d : Dev) (x bytes : Nat) : Nat := bytes * 8 * 65536 / d.portRate x
/-- A frame's wire time (R195): its length, preamble and SFD. -/
def Dev.frameFx (d : Dev) (x len : Nat) : Nat := d.wireFx x (len + 8)
/-- Preemption is active on a sub-port (PORT_STATUS.mm_state = 2). -/
def Dev.mmActive (d : Dev) (x : Nat) : Bool := d.rf .portStatus x 0 2 == 2
/-- A class is preemptable on a sub-port now (R196). -/
def Dev.preemptable (d : Dev) (x c : Nat) : Bool := d.mmActive x && d.rb .schPortCfg x c

/-! ## Gate lists (R190 to R193, R200, R201) -/

def Dev.gateOf (d : Dev) (x : Nat) : Gate := tabGet d.pkt.gate {} x
def Dev.setGate (d : Dev) (x : Nat) (g : Gate) : Dev := { d with pkt := { d.pkt with gate := tabPut d.pkt.gate {} x g } }
/-- Entry `e` of a bank: its gates and its interval. -/
def Dev.gateEntry (d : Dev) (x bank e : Nat) : BitVec 8 × Nat :=
  let w := d.reg .gateList ((2 * x + bank) * 1024 + e)
  (w.setWidth 8, wf w 32 32)
def Dev.operBank (d : Dev) (x : Nat) : Nat := d.rf .gateStat x 2 1
def Dev.operCycle (d : Dev) (x : Nat) : Nat := d.rf .gateCycle x 0 32

/-- The entry in force at a position of a cycle, and how long it still lasts: the last entry holds to the cycle's end, and the list is cut there (R191). The list is the entries from number `e` on. -/
def gateAt (cycle : Nat) : List (BitVec 8 × Nat) → Nat → Nat → Nat × BitVec 8 × Nat
  | [], e, pos => (e, 255, cycle - pos)
  | [(g, _)], e, pos => (e, g, cycle - pos)
  | (g, n) :: rest, e, pos => if pos < n then (e, g, Nat.min (n - pos) (cycle - pos)) else
      let r := gateAt (cycle - n) rest (e + 1) (pos - n)
      r

/-- The entries of a bank. -/
def Dev.gateEntries (d : Dev) (x bank count : Nat) : List (BitVec 8 × Nat) := (List.range count).map (d.gateEntry x bank)

/-- Position of a time in the cycles that start at `base` (R191, R200). -/
def cyclePos (base cycle t : Nat) : Nat := (((t : Int) - base) % (Nat.max cycle 1 : Nat)).toNat

/-- TIME_QUAL.state is FREE or UNQUALIFIED and the sub-port then holds every gate open (R201). -/
def Dev.gatesHeld (d : Dev) (x : Nat) : Bool :=
  d.rb .schPortCfg x 8 && (d.rf .timeQual 0 0 3 == 0 || d.rf .timeQual 0 0 3 == 4)

/-- Start of the operational cycle that a pending switch cuts short or does not begin (R192): the last start at or before the change time. -/
def Dev.lastStart (d : Dev) (x c : Nat) : Nat := c - cyclePos (d.gateOf x).operBase (d.operCycle x) c

/-- The operational list runs on past S' to the change time: the cycle before it holds its last entry's states (R192). -/
def Dev.holdsOver (d : Dev) (x t : Nat) : Bool :=
  let g := d.gateOf x
  match g.change with
  | some c => d.rb .gateStat x 0 && decide (d.lastStart x c ≤ t) && decide (t < c) && decide (0 < c - d.lastStart x c) && decide (c - d.lastStart x c < g.adminExt)
  | none => false

/-- What a sub-port's lists give at a device time in ns: the entry in force, the gates, and the next time something may change (none: never) (R191, R192). -/
def Dev.gatesAt (d : Dev) (x t : Nat) : Nat × BitVec 8 × Option Nat :=
  let g := d.gateOf x
  let oper : Nat × BitVec 8 × Option Nat :=
    if !d.rb .gateStat x 0 then (0, 255, none)
    else
      let es := d.gateEntries x (d.operBank x) g.operCount
      if d.holdsOver x t then
        let r := gateAt (d.operCycle x) es 0 (d.operCycle x - 1)
        (r.1, r.2.1, g.change)
      else
        let r := gateAt (d.operCycle x) es 0 (cyclePos g.operBase (d.operCycle x) t)
        (r.1, r.2.1, some (t + r.2.2))
  match g.change with
  | none => oper
  | some c =>
    if t < c then (oper.1, oper.2.1, some (match oper.2.2 with | some n => Nat.min n c | none => c))
    else if !g.adminEn then (0, 255, none)
    else
      let es := d.gateEntries x (1 - d.operBank x) g.adminCount
      let r := gateAt g.adminCycle es 0 (cyclePos c g.adminCycle t)
      (r.1, r.2.1, some (t + r.2.2))

/-- The tick at or before a time, in ns: gates change at ticks (R26, R191). -/
def Dev.tickFloor (d : Dev) (fx : Nat) : Nat :=
  let a := Nat.max 1 (d.rf .timeAddend 0 0 32)
  (if d.time.now ≤ fx then d.time.now + (fx - d.time.now) / a * a else d.time.now - (d.time.now - fx + a - 1) / a * a) / 65536
/-- The first tick at or after a time in ns, in fx. -/
def Dev.tickCeil (d : Dev) (ns : Nat) : Nat :=
  let a := Nat.max 1 (d.rf .timeAddend 0 0 32)
  let fx := ns * 65536
  if d.time.now ≤ fx then d.time.now + (fx - d.time.now + a - 1) / a * a else d.time.now - (d.time.now - fx) / a * a

/-- A class's gate is open at a time in fx (R181, R201). -/
def Dev.gateOpen (d : Dev) (x c fx : Nat) : Bool := d.gatesHeld x || (d.gatesAt x (d.tickFloor fx)).2.1.getLsbD c

/-- The close, in ns, of the window of class `c` that is open at `t` (R195); none where it does not close within the changes looked at. -/
def Dev.closeFrom (d : Dev) (x c : Nat) : Nat → Nat → Option Nat
  | 0, _ => none
  | fuel + 1, t =>
    let r := d.gatesAt x t
    if !r.2.1.getLsbD c then some t
    else match r.2.2 with
      | none => none
      | some n => if n ≤ t then none else d.closeFrom x c fuel n

/-- The close of the window open at a time, in fx; none: unbounded. Two whole lists show every window. -/
def Dev.closeFx (d : Dev) (x c fx : Nat) : Option Nat :=
  if d.gatesHeld x then none
  else (d.closeFrom x c (2 * (d.gateOf x).operCount + 2 * (d.gateOf x).adminCount + 8) (d.tickFloor fx)).map d.tickCeil

/-- The entries of a cycle as they run: cut at its end, the last one to its end. -/
def runOf (cycle : Nat) : List (BitVec 8 × Nat) → List (BitVec 8 × Nat)
  | [] => []
  | [(g, _)] => [(g, cycle)]
  | (g, n) :: rest => if cycle ≤ n then [(g, cycle)] else (g, n) :: runOf (cycle - n) rest

/-- Longest run of open entries, going on from `cur`. -/
def longestRun (c : Nat) : List (BitVec 8 × Nat) → Nat → Nat → Nat
  | [], cur, best => Nat.max cur best
  | (g, n) :: rest, cur, best => if g.getLsbD c then longestRun c rest (cur + n) best else longestRun c rest 0 (Nat.max cur best)

/-- GATE_MAXWIN of a class for a list (R197): 0 never open, all ones unbounded. -/
def maxWindow (cycle : Nat) (es : List (BitVec 8 × Nat)) (c : Nat) : Nat :=
  let r := runOf cycle es
  if r.all (fun e => e.1.getLsbD c) then 0xFFFFFFFF else Nat.min 0xFFFFFFFF (longestRun c (r ++ r) 0 0)

/-! ## Shapers and policers (R185 to R189) -/

/-- Tokens of a shaper, signed, in 2^-8 byte; `i` is its register index. -/
def Dev.shpTok (d : Dev) (i : Nat) : Int := signed32 (d.rf .schShpTok i 0 32)
/-- A shaper that holds a queue back: it has a rate and no more than 0 tokens (R186). -/
def Dev.shpBlocks (d : Dev) (i : Nat) : Bool := d.rf .schShpRate i 0 28 != 0 && decide (d.shpTok i ≤ 0)
def Dev.setShpTok (d : Dev) (i : Nat) (t : Int) : Dev :=
  let d := d.setReg .schShpTok i (BitVec.ofNat 64 (t % 2 ^ 32).toNat)
  d.setRb .schShpStat i 1 (!d.shpBlocks i)

/-- The parent of a shaper, by register index. -/
def Dev.shpParent (d : Dev) (i : Nat) : Option Nat :=
  if d.rb .schShpParent i 15 then some (i / 8192 * 8192 + d.rf .schShpParent i 0 13) else none
/-- The shapers from one up, with a bound on how many. -/
def chainUp (parent : Nat → Option Nat) : Nat → Option Nat → List Nat
  | 0, _ => []
  | _ + 1, none => []
  | n + 1, some i => i :: chainUp parent n (parent i)
/-- The shaper a queue is attached to. -/
def Dev.txqShaper (d : Dev) (q : Nat) : Option Nat :=
  if d.rb .schTxqAtt q 15 then some (txqM q * 8192 + d.rf .schTxqAtt q 0 13) else none
/-- A queue's path (R185). -/
def Dev.txqPath (d : Dev) (q : Nat) : List Nat := chainUp d.shpParent 4 (d.txqShaper q)

/-! ## Selection (R181, R183, R195 to R199) -/

/-- How a selection ended and what it passed: a frame of a queue, and whether shaper-blocked or gate-blocked queues were passed over. -/
structure Pick where
  res : Option (Nat × Nat) := none
  shaper : Bool := false
  gate : Bool := false
  deriving DecidableEq, Repr

/-- The partition of a queue is inside the gap of a switch-over (R419). -/
def Dev.inGap (d : Dev) (p : Nat) : Bool := (d.duplex p).moved

/-- Why the head frame of a queue may not go at a start: 0 it may, 1 a shaper, 2 the window, 3 its partition switches over. -/
def Dev.headBlocked (d : Dev) (x c q start : Nat) (len : Nat) : Nat :=
  if d.inGap (d.txqPart q) then 3
  else if (d.txqPath q).any d.shpBlocks then 1
  else if d.preemptable x c then 0
  else match d.closeFx x c start with
    | some close => if start + d.frameFx x len ≤ close then 0 else 2
    | none => 0

/-- A head frame that no window of its class can hold (R197). -/
def Dev.gateLong (d : Dev) (x c len : Nat) : Bool :=
  let w := d.rf .gateMaxwin (8 * x + c) 0 32
  d.rb .gateStat x 0 && w != 0 && w != 0xFFFFFFFF && !d.preemptable x c && decide (w * 65536 < d.frameFx x len)

/-- The head frame of a queue and its length. -/
def Dev.txqHead (d : Dev) (q : Nat) : Option (Nat × Nat) :=
  match (d.txq q).frames with
  | f :: _ => some (f, match d.frame f with | some x => wireLen x.bytes | none => 64)
  | [] => none

/-- The head frame leaves its queue. -/
def Dev.dequeue (d : Dev) (q : Nat) : Dev :=
  let t := d.txq q
  let d := d.setTxq q { t with frames := t.frames.drop 1 }
  if t.frames.length ≤ 1 then d.retireTxq q else d

/-- The loop of R183 for a class of a sub-port at a projected start. -/
def Dev.drr (d : Dev) (x c start : Nat) : Nat → Pick → Dev × Pick
  | 0, p => (d, p)
  | fuel + 1, p =>
    let k := actKey x c
    let l := d.activeOf k
    let blocked := fun q => match d.txqHead q with | some (_, len) => d.headBlocked x c q start len | none => 3
    let long := fun q => match d.txqHead q with | some (_, len) => d.gateLong x c len | none => false
    match l with
    | [] => (d, p)
    | q :: rest =>
      if l.all (fun q => blocked q != 0 && !long q) then
        (d, { p with shaper := p.shaper || l.any (fun q => blocked q == 1), gate := p.gate || l.any (fun q => blocked q == 2) })
      else match d.txqHead q with
        | none => (d.retireTxq q).drr x c start fuel p
        | some (f, len) =>
          let m := txqM q
          if d.gateLong x c len then
            let d := ((d.count (evPort x 17)).raiseFree 772 (6 + m) (some (d.txqPart q))).freeEgress q f
            ((d.dequeue q).txDrop f).drr x c start fuel p
          else if blocked q ≠ 0 then
            (d.setActive k (rest ++ [q])).drr x c start fuel { p with shaper := p.shaper || blocked q == 1, gate := p.gate || blocked q == 2 }
          else
            let t := d.txq q
            let t := if t.fresh then { t with deficit := t.deficit + d.rf .schTxqDrr q 0 21, fresh := false } else t
            let need := d.chargedLen m (d.rf .schTxqDrr q 24 4) len
            if need ≤ t.deficit then
              let d := d.setTxq q { t with deficit := t.deficit - need }
              let d := (d.txqPath q).foldl (fun d i => if d.rf .schShpRate i 0 28 = 0 then d else d.setShpTok i (d.shpTok i - need * 256)) d
              (d.dequeue q, { p with res := some (q, f) })
            else ((d.setTxq q { t with fresh := true }).setActive k (rest ++ [q])).drr x c start fuel p

/-- Rounds of R183 that always suffice: the least quantum reaches the largest charged length in 152 visits. -/
def Dev.drrFuel (d : Dev) (k : Nat) : Nat :=
  let l := d.activeOf k
  160 * (l.length + 1) + l.foldl (fun a q => a + (d.txq q).frames.length) 0

/-- A class is selectable at a projected start: its gate is open and no PAUSE stops it (R181). -/
def Dev.classOpen (d : Dev) (x c start : Nat) : Bool :=
  d.gateOpen x c start && (match tabFind (8 * x + c) d.pkt.pauseEnd with | some e => decide (e ≤ start) | none => true)

/-- Classes from `c` down, those a test accepts: the first that yields a frame wins (R181). -/
def Dev.selectClass (d : Dev) (x start : Nat) (ok : Nat → Bool) : Nat → Pick → Dev × Pick × Nat
  | 0, p => (d, p, 0)
  | n + 1, p =>
    if ok n && d.classOpen x n start then
      let (d', p') := d.drr x n start (d.drrFuel (actKey x n)) p
      match p'.res with
      | some _ => (d', p', n)
      | none => d'.selectClass x start ok n p'
    else d.selectClass x start ok n p

/-- A frame begins on a sub-port's wire. A frame of a transmit ring learns its first-bit time, after the preamble and SFD (R137, R280). -/
def Dev.startFrame (d : Dev) (x c q f start : Nat) : Dev :=
  match d.frame f with
  | none => d
  | some y =>
    let w : OnWire := ⟨f, c, q, start, start + d.frameFx x (wireLen y.bytes), d.preemptable x c, 0⟩
    let d := d.setFrame f { y with txFirst := timeWord ((start + d.wireFx x 8) / 65536) }
    { d with pkt := { d.pkt with wire := tabIns x w d.pkt.wire } }

/-- A suspended frame goes on: preamble, SMD and count, then what is left of it (R198). -/
def Dev.resumeFrame (d : Dev) (x start : Nat) (w : OnWire) : Dev :=
  match d.frame w.frame with
  | none => { d with pkt := { d.pkt with susp := tabDel x d.pkt.susp } }
  | some y =>
    let w := { w with start := start, end_ := start + d.wireFx x (8 + (wireLen y.bytes - w.sent)) }
    { d with pkt := { d.pkt with wire := tabIns x w d.pkt.wire, susp := tabDel x d.pkt.susp } }

/-- One selection for a projected start: a class's frame begins, or a suspended frame goes on where no express frame is to go (R181, R198, R199). A frame above PORT_MAXFRAME is dropped by the MAC (R136). -/
def Dev.select (d : Dev) (x start : Nat) : Nat → Dev
  | 0 => d
  | n + 1 =>
    let susp := tabFind x d.pkt.susp
    let ok := fun c => susp.isNone || !d.preemptable x c
    let (d, p, c) := d.selectClass x start ok 8 {}
    let m := 6 + x / 16
    let d := d.countBy (evP m (576 + 6)) (b2n p.shaper)
    let d := d.countBy (evP m (576 + 7)) (b2n p.gate)
    match p.res, susp with
    | some (q, f), _ =>
      let d := d.count (evP m (576 + 5))
      let len := match d.frame f with | some y => wireLen y.bytes | none => 0
      if d.rf .portMaxframe x 0 14 < len then
        (((d.count (evPort x 10)).freeEgress q f).txDrop f).select x start n
      else d.startFrame x c q f start
    | none, some w => if d.classOpen x w.cls start then d.resumeFrame x start w else d
    | none, none => d

/-- How many frames one selection may drop before it finds one to send. -/
def Dev.selFuel (d : Dev) : Nat := d.pkt.frames.length + 1

/-- An idle sub-port selects at this tick (R181). -/
def Dev.selectIdle (d : Dev) (x : Nat) : Dev :=
  if (tabFind x d.pkt.wire).isSome || !d.subPort x || (d.rb .dpxExtPorts 0 x && !d.unitHeld 3) then d else d.select x d.time.now d.selFuel

/-! ## Preemption (R198, R199) -/

/-- The frame on the wire, if preemptable and whole, is cut at a time: its fragment ends at the first 8-byte boundary that the fragment minimum allows, unless fewer than 64 bytes would remain (R198). -/
def Dev.cut (d : Dev) (x at_ : Nat) : Dev :=
  match tabFind x d.pkt.wire, tabFind x d.pkt.susp with
  | some w, none =>
    match d.frame w.frame with
    | none => d
    | some y =>
      let onWire := ((at_ - w.start) * d.portRate x + 8 * 65536 - 1) / (8 * 65536)
      let least := 64 * (1 + d.rf .portMm x 2 2) - 4
      let data := roundUp (Nat.max (onWire - 8) least) 8
      if !w.preemptable || wireLen y.bytes < w.sent + data + 64 then d
      else
        let w1 := { w with end_ := w.start + d.wireFx x (8 + data + 4) }
        let w2 := { w with sent := w.sent + data }
        let d := { d with pkt := { d.pkt with wire := tabIns x w1 d.pkt.wire, susp := tabIns x w2 d.pkt.susp } }
        d.count (evP (6 + x / 16) (576 + 8))
  | _, _ => d

/-- The end of the frame on the wire and its inter-packet gap. -/
def Dev.nextStart (d : Dev) (x : Nat) (w : OnWire) : Nat := w.end_ + d.wireFx x 12

/-- While preemption is active, an express frame that could go now cuts a preemptable frame on the wire (R199). -/
def Dev.preempt (d : Dev) (x : Nat) : Dev :=
  match tabFind x d.pkt.wire with
  | some w =>
    if !w.preemptable || !d.mmActive x then d
    else
      let r := d.selectClass x d.time.now (fun c => !d.preemptable x c) 8 {}
      if r.2.1.res.isSome then d.cut x d.time.now else d
  | none => d

/-- Something has changed that a sub-port's selection may see: it selects if idle, or an express frame preempts. -/
def Dev.kick (d : Dev) (x : Nat) : Dev := (d.preempt x).selectIdle x
/-- The same for every sub-port of a port island that holds frames. -/
def Dev.kickAll (d : Dev) (m : Nat) : Dev :=
  ((d.pkt.active.map (fun e => e.1 / 8)).eraseDups.filter (fun x => x / 16 == m)).foldl (fun d x => d.kick x) d

/-! ## Checksums and digests on transmit (R141, R175) -/

/-- Bytes with a 16-bit checksum field set. -/
def putSum (bs : List Byte) (pos v : Nat) : List Byte := patch bs pos (beBytes 2 v)

/-- The checksums of one level inserted: the bytes, and how many could not be. -/
def insertLevel (r : Parsed) (outerZero : Bool) (bs : List Byte) (level : Nat) : List Byte × Nat :=
  match r.at_ level [3, 4] with
  | none => (bs, 1)
  | some ip =>
    let bs := if ip.kind = 3 then
        let z := putSum bs (ip.pos + 10) 0
        putSum z (ip.pos + 10) (inetChecksum (slice z ip.pos ip.len))
      else bs
    match l4Cover r bs level with
    | none => (bs, 1)
    | some (kind, pos, pseudo, seg) =>
      let off := pos + (if kind = 7 then 16 else 6)
      if fragAtOrOutside r bs level || bs.length < pos + seg then (bs, 1)
      else if outerZero && level == 0 && kind == 8 && ip.kind == 3 then (putSum bs off 0, 0)
      else
        let z := putSum bs off 0
        let v := 0xFFFF - foldSum (onesSum (slice z pos seg) (onesSum pseudo 0))
        (putSum z off (if kind = 8 && ip.kind = 4 && v = 0 then 0xFFFF else v), 0)

/-- The checksums an action's csum field asks for (R141): the innermost first, since an outer one covers it. -/
def Dev.insertSums (d : Dev) (x csum : Nat) (bs : List Byte) : List Byte × Nat :=
  let r := d.parse x bs
  let z := d.rb .portCsum (x / 8) 0
  let (bs, a) := if csum = 2 ∨ (csum = 3 ∧ r.level ≠ 0) then insertLevel r z bs r.level else (bs, 0)
  let (bs, b) := if csum = 1 ∨ csum = 3 then insertLevel r z bs 0 else (bs, 0)
  (bs, a + b)

/-- The ICRC of a RoCEv2 packet put in its place (R175). -/
def Dev.insertIcrc (d : Dev) (x : Nat) (bs : List Byte) : List Byte :=
  match (d.parse x bs).roce bs with
  | some (ip, u) =>
    let stop := u.pos + beAt bs (u.pos + 4) 2 - 4
    if bs.length < stop + 4 ∨ stop < u.pos + 20 then bs else patch bs stop (leBytes 4 (icrc bs ip u stop))
  | none => bs

/-- The digests of the whole PDUs from an offset on, for digest options (R175). -/
def pduDigests (digests : BitVec 2) : Nat → List Byte → Nat → Nat → List Byte
  | 0, bs, _, _ => bs
  | n + 1, bs, pos, stop =>
    let hlen := leAt bs (pos + 2) 1
    let pdo := leAt bs (pos + 3) 1
    let plen := leAt bs (pos + 4) 4
    if stop < pos + 8 ∨ plen < 8 ∨ stop < pos + plen then bs
    else
      let bs := if digests.getLsbD 0 && nbit (leAt bs (pos + 1) 1) 0 then patch bs (pos + hlen) (leBytes 4 (crc32c (slice bs pos hlen))) else bs
      let bs := if digests.getLsbD 1 && nbit (leAt bs (pos + 1) 1) 1 then
          patch bs (pos + plen - 4) (leBytes 4 (crc32c (slice bs (pos + pdo) (plen - pdo - 4)))) else bs
      pduDigests digests n bs (pos + plen) stop

/-- The NVMe/TCP digests of a frame under a context (R175). -/
def Dev.insertNvt (d : Dev) (x e ctx : Nat) (bs : List Byte) : List Byte :=
  let r := d.parse x bs
  match r.inner [7], r.inner [3, 4] with
  | some t, some ip =>
    let stop := if ip.kind = 3 then ip.pos + beAt bs (ip.pos + 2) 2 else ip.pos + 40 + beAt bs (ip.pos + 4) 2
    pduDigests (d.offCtx e ctx).digests bs.length bs (t.pos + t.len) (Nat.min stop bs.length)
  | _, _ => bs

/-- A frame's bytes as the MAC sends them, without the FCS: digests, ICRC, checksums, padding. The count is of checksums it could not insert. -/
def Dev.sentBytes (d : Dev) (x : Nat) (y : Frame) : List Byte × Nat :=
  let bs := if y.txFlags.getLsbD 3 then d.insertNvt x (y.isl - 2) y.txCtx y.bytes else y.bytes
  let bs := if y.txFlags.getLsbD 2 then d.insertIcrc x bs else bs
  let (bs, k) := d.insertSums x (actCsum y.action.toNat) bs
  (bs ++ List.replicate (60 - bs.length) 0, k)

/-! ## The end of a frame on the wire -/

/-- A whole frame leaves the wire: it is sent, or discarded while the link is down (R135); its completion follows (R277). -/
def Dev.sendDone (d : Dev) (x : Nat) (w : OnWire) (y : Frame) : Dev :=
  let d := d.freeEgress w.queue w.frame
  if !d.portUp x then (d.count (evPort x 11)).txDrop w.frame
  else
    let (bs, k) := d.sentBytes x y
    let d := (d.emit (.frame x bs)).countBy (evPort x 12) k
    let d := (d.count (evPort x 2)).countBy (evPort x 3) (wireLen y.bytes)
    ((d.count (evPart (d.txqPart w.queue) 3)).dropFrame w.frame).txComplete y 0

/-- The frame or fragment on the wire has ended. A fragment's end only frees the wire (R198). -/
def Dev.frameSent (d : Dev) (x : Nat) (w : OnWire) : Dev :=
  let d := { d with pkt := { d.pkt with wire := tabDel x d.pkt.wire } }
  match tabFind x d.pkt.susp, d.frame w.frame with
  | some v, some y => if v.frame = w.frame then d.count (evPort x 16) else d.sendDone x w y
  | none, some y => d.sendDone x w y
  | _, none => d

/-- FRAME_TX_COMPLETE: a frame or fragment finishes on the wire and the sub-port selects for the projected start (R181). -/
def Dev.frameTxComplete (d : Dev) (x : Nat) : Dev :=
  match tabFind x d.pkt.wire with
  | none => d.selectIdle x
  | some w =>
    if d.time.now < w.end_ then d
    else
      let start := d.nextStart x w
      let start := if d.time.now < start + d.rf .timeAddend 0 0 32 then start else d.time.now
      (d.frameSent x w).select x start d.selFuel

def execFrameTxComplete (x : Fin 32) (s : State) : Out := event (fun d => d.frameTxComplete x.val) s

/-! ## Enqueue (R179) -/

/-- TXQ_ENQUEUE: a frame arrives at its transmit queue and meets R179's checks. -/
def Dev.txqEnqueue (d : Dev) (f : Nat) : Dev :=
  match d.frame f with
  | none => d
  | some y =>
    if !d.pkt.arriving.contains f then d
    else
      let d := { d with pkt := { d.pkt with arriving := d.pkt.arriving.erase f } }
      let q := y.ind.number
      let m := txqM q
      if !d.txqOk q then (d.count (evP (6 + m) 576)).txDrop f
      else
        let pol := if d.rb .schTxqAtt q 31 then d.police m (d.rf .schTxqAtt q 16 12) (wireLen y.bytes) else (true, d)
        let d := pol.2
        if !pol.1 then d.txDrop f
        else match (if y.tx.isSome then none else d.txqRefuses q y.bytes) with
          | some k => (d.count (evP (6 + m) (576 + k))).txDrop f
          | none =>
            let d := (d.freeCells f).moveEgress (d.txqPart q) m (egressBytes y.bytes) 0
            let t := d.txq q
            let k := actKey (d.txqPort q) (d.txqClass q)
            let d := if t.frames.isEmpty then (d.setTxq q { frames := [f] }).setActive k (d.activeOf k ++ [q])
                     else d.setTxq q { t with frames := t.frames ++ [f] }
            d.kick (d.txqPort q)

def execTxqEnqueue (f : Nat) (s : State) : Out := event (fun d => d.txqEnqueue f) s

/-! ## Gate events (R191, R192, R198) -/

/-- A sub-port's gates as they stand now: GATE_STAT's entry, and a preemptable frame whose window has closed is cut at the close. -/
def Dev.gatesNow (d : Dev) (x at_ : Nat) : Dev :=
  let r := d.gatesAt x d.ns
  let d := (d.setGate x { d.gateOf x with gates := r.2.1, next := r.2.2.getD 0 }).setRf .gateStat x 3 10 (if d.rb .gateStat x 0 then r.1 else 0)
  let d := match tabFind x d.pkt.wire with
    | some w => if d.gateOpen x w.cls d.time.now then d else d.cut x at_
    | none => d
  d.kick x

/-- GATE_TRANSITION: an entry of the operational list begins (R191). -/
def execGateTransition (x : Fin 32) (s : State) : Out :=
  event (fun d =>
    let g := d.gateOf x.val
    if !d.rb .gateStat x.val 0 || d.ns < g.next then d else d.gatesNow x.val (d.tickCeil g.next)) s

/-- The administrative list becomes operational with S = C, and the banks swap (R192). -/
def Dev.gateSwitch (d : Dev) (x c : Nat) : Dev :=
  let g := d.gateOf x
  let bank := 1 - d.operBank x
  let es := d.gateEntries x bank g.adminCount
  let d := ((d.setRb .gateStat x 0 g.adminEn).setRb .gateStat x 1 false).setRf .gateStat x 2 1 bank
  let d := (d.setReg .gateCycle x (BitVec.ofNat 64 g.adminCycle)).setReg .gateExt x (BitVec.ofNat 64 g.adminExt)
  let d := (List.range 8).foldl (fun d k => d.setReg .gateMaxwin (8 * x + k) (BitVec.ofNat 64 (if g.adminEn then maxWindow g.adminCycle es k else 0))) d
  (d.setGate x { g with operBase := c, operCount := g.adminCount, change := none }).gatesNow x (d.tickCeil c)

/-- GATE_LIST_SWITCH: the change time has come (R192, R200). -/
def execGateListSwitch (x : Fin 32) (s : State) : Out :=
  event (fun d => match (d.gateOf x.val).change with
    | some c => if c ≤ d.ns then d.gateSwitch x.val c else d
    | none => d) s

/-- Why GATE_INSTALL is refused (R194): a count, an interval, a cycle or extension out of range, a reserved bit, a disabled port. -/
def Dev.gateBad (d : Dev) (x : Nat) (es : List Nat) (cycle ext : Nat) : Bool :=
  es.isEmpty || decide (1024 < es.length) || es.any (fun w => decide (w / 2 ^ 32 < 4) || fld w 8 24 != 0) ||
  decide (cycle < 1000) || decide (1000000000 < cycle) || decide (cycle < ext) || !d.subPort x

/-- GATE_INSTALL carried out (R192 to R194): the device, the result word and n. `base` is in ns. -/
def Dev.gateInstall (d : Dev) (x : Nat) (es : List Nat) (cycle ext : Nat) (enable : Bool) (base : Nat) : Dev × Nat × Nat :=
  let earliest := d.ns + 1000
  let n := if earliest ≤ base then 0 else (earliest - base + cycle - 1) / cycle
  let c := base + n * cycle
  let bank := 1 - d.operBank x
  let g := d.gateOf x
  let list := es.map (fun w => (BitVec.ofNat 8 w, w / 2 ^ 32))
  let sum := list.foldl (fun a e => a + e.2) 0
  let tooLong := fun k =>
    let w := maxWindow cycle list k
    enable && w != 0 && w != 0xFFFFFFFF && decide (w * 65536 < d.frameFx x (d.rf .portMaxframe x 0 14))
  let classes := (List.range 8).foldl (fun a k => if tooLong k then a + 2 ^ k else a) 0
  let word := b2n (n != 0) + 2 * b2n (classes != 0) + 4 * b2n (decide (cycle < sum)) + 8 * b2n (decide (sum < cycle)) +
    16 * b2n g.change.isSome + 256 * classes
  let d := (es.zip (List.range es.length)).foldl (fun d e => d.setReg .gateList ((2 * x + bank) * 1024 + e.2) (BitVec.ofNat 64 e.1)) d
  let d := (d.setReg .gateChange0 x (BitVec.ofNat 64 (c / nsPerSec % 2 ^ 32))).setReg .gateChange1 x (BitVec.ofNat 64 (c / nsPerSec / 2 ^ 32 % 2 ^ 16))
  let d := (d.setReg .gateChange2 x (BitVec.ofNat 64 (c % nsPerSec))).setRb .gateStat x 1 true
  let g' := { g with adminCount := es.length, adminEn := enable, adminCycle := cycle, adminExt := ext, change := some c }
  let d := d.setGate x g'
  (d.setGate x { g' with next := if d.rb .gateStat x 0 then g.next else c }, word, Nat.min n (2 ^ 64 - 1))

/-- A step of device time at a sub-port (R200): the gates of the new time take effect, and the cycles a forward step skips are counted. -/
def Dev.gateStep (d : Dev) (x old new : Nat) : Dev :=
  if !d.rb .gateStat x 0 then d
  else
    let g := d.gateOf x
    let cyc := Nat.max 1 (d.operCycle x)
    let skipped := if old < new then (new - Nat.min new g.operBase) / cyc - (old - Nat.min old g.operBase) / cyc else 0
    let d := (d.incRf .gateSkip x 0 32 skipped).countBy (evP (6 + x / 16) (576 + 10)) skipped
    d.gatesNow x d.time.now

/-! ## Refills (R186 to R188) -/

/-- The indices of a port island's copies of a register that differ from reset. -/
def Dev.listedIdx (d : Dev) (r : Reg) (per m : Nat) : List Nat :=
  (d.regs.filter (fun e => e.1 % 512 == r.code && e.1 / 512 / per == m)).map (fun e => e.1 / 512)

/-- A staged shaper change is in force (R188); busy_reject stays until the next accepted command (R203). -/
def Dev.applyShaper (d : Dev) (i : Nat) (c : ShpChange) : Dev :=
  let d := (d.setReg .schShpRate i (c.rate.setWidth 64)).setReg .schShpBurst i (c.burst.setWidth 64)
  let d := ((d.setReg .schShpParent i (c.parent.setWidth 64)).setRb .schShpStat i 0 false).setShpTok i (if c.full then c.burst.toNat * 256 else 0)
  d.setRf .schUpdStat (8 * (i / 8192) + c.part) 0 4 (if c.clamped then 10 else 0)
/-- A staged policer change is in force (R188). -/
def Dev.applyPolicer (d : Dev) (i : Nat) (c : ShpChange) : Dev :=
  let d := (d.setReg .schPolRate i (c.rate.setWidth 64)).setReg .schPolBurst i (c.burst.setWidth 64)
  let d := (d.setRf .schPolCfg i 4 4 c.parent.toNat).setReg .schPolTok i (BitVec.ofNat 64 (if c.full then c.burst.toNat * 256 else 0))
  d.setRf .schUpdStat (8 * (i / 4096) + c.part) 0 4 (if c.clamped then 10 else 0)

/-- `k` refill instants at a port island: staged changes replace the first, and every other shaper and policer takes its increments (R186, R188). -/
def Dev.refill (d : Dev) (m k : Nat) : Dev :=
  let shp := d.listedIdx .schShpRate 8192 m
  let d := shp.foldl (fun d i =>
    if (tabFind i d.pkt.shpPend).isSome then d
    else d.setShpTok i (min (d.shpTok i + d.rf .schShpRate i 0 28 * k) (d.rf .schShpBurst i 0 23 * 256))) d
  let pol := d.listedIdx .schPolRate 4096 m
  let d := pol.foldl (fun d i =>
    if (tabFind i d.pkt.polPend).isSome then d
    else d.setReg .schPolTok i (BitVec.ofNat 64 (Nat.min (d.rf .schPolTok i 0 32 + d.rf .schPolRate i 0 28 * k) (d.rf .schPolBurst i 0 23 * 256)))) d
  let later := k - 1
  let d := (d.pkt.shpPend.filter (fun e => e.1 / 8192 == m)).foldl (fun d e =>
    let d := d.applyShaper e.1 e.2
    if later = 0 then d else d.setShpTok e.1 (min (d.shpTok e.1 + e.2.rate.toNat * later) (e.2.burst.toNat * 256))) d
  let d := (d.pkt.polPend.filter (fun e => e.1 / 4096 == m)).foldl (fun d e =>
    let d := d.applyPolicer e.1 e.2
    if later = 0 then d else d.setReg .schPolTok e.1 (BitVec.ofNat 64 (Nat.min (d.rf .schPolTok e.1 0 32 + e.2.rate.toNat * later) (e.2.burst.toNat * 256)))) d
  { d with pkt := { d.pkt with shpPend := d.pkt.shpPend.filter (fun e => e.1 / 8192 != m), polPend := d.pkt.polPend.filter (fun e => e.1 / 4096 != m) } }

/-- SHAPER_REFILL: the whole microseconds since the last refill have come (R186). -/
def execShaperRefill (m : Fin 2) (s : State) : Out :=
  event (fun d =>
    let last := tabGet d.pkt.refillAt 0 m.val
    let k := d.ns / 1000 - last / 1000
    if k = 0 then d
    else
      let d := { d with pkt := { d.pkt with refillAt := tabPut d.pkt.refillAt 0 m.val (d.ns / 1000 * 1000) } }
      (d.refill m.val k).kickAll m.val) s

/-- A step of device time at a port island's refills (R187): a forward step's are skipped and counted, a backward step's come again. -/
def Dev.refillStep (d : Dev) (m new : Nat) : Dev :=
  let last := tabGet d.pkt.refillAt 0 m
  let next := (new + 999) / 1000 * 1000 - 1000
  let skipped := (next - Nat.min next last) / 1000
  let d := { d with pkt := { d.pkt with refillAt := tabPut d.pkt.refillAt 0 m next } }
  (d.incRf .schIslStat m 0 32 skipped).countBy (evP (6 + m) (576 + 9)) skipped

/-! ## The update interface (R203) -/

/-- What an operation of SCH_UPD comes to. -/
inductive Upd where
  | done (d : Dev)
  | clamped (d : Dev)
  | busy (d : Dev)
  | fail (code : Nat)

/-- An operation of a partition's SCH_UPD on a port island: ignored while the interface is busy; else its code is reported (R203). -/
def schUpd (p m : Nat) (f : Dev → Upd) (s : State) : Out :=
  event (fun d =>
    let k := 8 * m + p
    if d.rb .schUpdStat k 0 then d.setRb .schUpdStat k 4 true
    else match f d with
      | .done d => d.setReg .schUpdStat k 0
      | .clamped d => d.setReg .schUpdStat k 10
      | .busy d => d.setReg .schUpdStat k 1
      | .fail c => d.setReg .schUpdStat k (BitVec.ofNat 64 (2 * c))) s

/-- Word `j` of SCH_UPD_DATA. -/
def Dev.schData (d : Dev) (p m j : Nat) : Nat := d.rf .schUpdData ((8 * m + p) * 4 + j) 0 32
def Dev.setSchData (d : Dev) (p m j v : Nat) : Dev := d.setReg .schUpdData ((8 * m + p) * 4 + j) (BitVec.ofNat 64 (v % 2 ^ 32))

/-- A value held to a range. -/
def clampTo (lo hi v : Nat) : Nat := Nat.min hi (Nat.max lo v)

/-- Whether some path of a port island would be longer than four, or close a loop, under a parent function and a queue attachment (R185). -/
def Dev.pathsBad (d : Dev) (m : Nat) (parent : Nat → Option Nat) (start : Nat → Option Nat) (extra : List Nat) : Bool :=
  let qs := (d.listedIdx .schTxqAtt 32768 m) ++ extra
  qs.any (fun q => decide (4 < (chainUp parent 5 (start q)).length))

/-- QUEUE_SET: R203. -/
def execQueueSet (p : Fin 8) (m : Fin 2) (index : BitVec 16) (s : State) : Out :=
  schUpd p.val m.val (fun d =>
    let i := index.toNat
    let q := 32768 * m.val + i
    let drr := d.schData p.val m.val 0
    let att := d.schData p.val m.val 1
    let lim := d.schData p.val m.val 2 % 65536
    let quantum := clampTo 64 1048576 (drr % 2 ^ 21)
    let shp := if nbit att 15 then some (8192 * m.val + att % 8192) else none
    if 32768 ≤ i || !d.granted p.val 3 0 q then .fail 4
    else if nbit att 15 && !d.granted p.val 4 (6 + m.val) (att % 8192) then .fail 4
    else if nbit att 31 && !d.granted p.val 5 (6 + m.val) (fld att 16 12) then .fail 4
    else if d.pathsBad m.val d.shpParent (fun k => if k = q then shp else d.txqShaper k) [q] then .fail 3
    else
      let d := d.setReg .schTxqDrr q (BitVec.ofNat 64 (quantum + fld drr 24 4 * 2 ^ 24))
      let d := (d.setReg .schTxqAtt q (BitVec.ofNat 64 (att &&& 0x8FFF9FFF))).setReg .schTxqLim q (BitVec.ofNat 64 (Nat.max 1 lim))
      if quantum ≠ drr % 2 ^ 21 ∨ lim = 0 then .clamped d else .done d) s

/-- QUEUE_READ: R203. -/
def execQueueRead (p : Fin 8) (m : Fin 2) (index : BitVec 16) (s : State) : Out :=
  schUpd p.val m.val (fun d =>
    let q := 32768 * m.val + index.toNat
    if 32768 ≤ index.toNat || !d.granted p.val 3 0 q then .fail 4
    else
      let d := (d.setSchData p.val m.val 0 (d.reg .schTxqCfg q).toNat).setSchData p.val m.val 1 (d.reg .schTxqDrr q).toNat
      .done ((d.setSchData p.val m.val 2 (d.reg .schTxqAtt q).toNat).setSchData p.val m.val 3 (d.txqHeld q))) s

/-- QUEUE_FLUSH: R180, R203. -/
def execQueueFlush (p : Fin 8) (m : Fin 2) (index : BitVec 16) (s : State) : Out :=
  schUpd p.val m.val (fun d =>
    let q := 32768 * m.val + index.toNat
    if 32768 ≤ index.toNat || !d.granted p.val 3 0 q then .fail 4
    else .done ((d.flushTxq q).setSchData p.val m.val 3 (d.txq q).frames.length)) s

/-- SHAPER_SET: R185, R188, R203. -/
def execShaperSet (p : Fin 8) (m : Fin 2) (index : BitVec 16) (full : Bool) (s : State) : Out :=
  schUpd p.val m.val (fun d =>
    let i := 8192 * m.val + index.toNat
    let rate := d.schData p.val m.val 0 % 2 ^ 28
    let burst := d.schData p.val m.val 1 % 2 ^ 23
    let par := d.schData p.val m.val 2 &&& 0x9FFF
    let parent := if nbit par 15 then some (8192 * m.val + par % 8192) else none
    if 8192 ≤ index.toNat || !d.granted p.val 4 (6 + m.val) index.toNat then .fail 4
    else if nbit par 15 && !d.granted p.val 4 (6 + m.val) (par % 8192) then .fail 4
    else
      let up := fun k => if k = i then parent else d.shpParent k
      if d.pathsBad m.val up d.txqShaper [] || (chainUp up 8193 parent).contains i then .fail 3
      else
        let r := Nat.min rate 25600000
        let b := clampTo 64 8388607 burst
        let c : ShpChange := ⟨p.val, BitVec.ofNat 32 r, BitVec.ofNat 32 b, BitVec.ofNat 32 par, full, r != rate || b != burst⟩
        .busy ({ d with pkt := { d.pkt with shpPend := tabIns i c d.pkt.shpPend } }.setRb .schShpStat i 0 true)) s

/-- SHAPER_READ: R203. -/
def execShaperRead (p : Fin 8) (m : Fin 2) (index : BitVec 16) (s : State) : Out :=
  schUpd p.val m.val (fun d =>
    let i := 8192 * m.val + index.toNat
    if 8192 ≤ index.toNat || !d.granted p.val 4 (6 + m.val) index.toNat then .fail 4
    else
      let d := (d.setSchData p.val m.val 0 (d.reg .schShpRate i).toNat).setSchData p.val m.val 1 (d.reg .schShpBurst i).toNat
      .done ((d.setSchData p.val m.val 2 (d.reg .schShpParent i).toNat).setSchData p.val m.val 3 (d.reg .schShpTok i).toNat)) s

/-- POLICER_SET: R188, R189, R203. -/
def execPolicerSet (p : Fin 8) (m : Fin 2) (index : BitVec 16) (full : Bool) (s : State) : Out :=
  schUpd p.val m.val (fun d =>
    let i := 4096 * m.val + index.toNat
    let rate := d.schData p.val m.val 0 % 2 ^ 28
    let burst := d.schData p.val m.val 1 % 2 ^ 23
    if 4096 ≤ index.toNat || !d.granted p.val 5 (6 + m.val) index.toNat then .fail 4
    else
      let r := Nat.min rate 25600000
      let b := clampTo 64 8388607 burst
      let c : ShpChange := ⟨p.val, BitVec.ofNat 32 r, BitVec.ofNat 32 b, BitVec.ofNat 32 (d.schData p.val m.val 2 % 16), full, r != rate || b != burst⟩
      .busy { d with pkt := { d.pkt with polPend := tabIns i c d.pkt.polPend } }) s

/-- POLICER_READ: R203. -/
def execPolicerRead (p : Fin 8) (m : Fin 2) (index : BitVec 16) (s : State) : Out :=
  schUpd p.val m.val (fun d =>
    let i := 4096 * m.val + index.toNat
    if 4096 ≤ index.toNat || !d.granted p.val 5 (6 + m.val) index.toNat then .fail 4
    else
      let d := (d.setSchData p.val m.val 0 (d.reg .schPolRate i).toNat).setSchData p.val m.val 1 (d.reg .schPolBurst i).toNat
      .done ((d.setSchData p.val m.val 2 (d.reg .schPolCfg i).toNat).setSchData p.val m.val 3 (d.reg .schPolTok i).toNat)) s

/-- ING_POL_SET: R189, R203. -/
def execIngPolSet (p : Fin 8) (m : Fin 2) (index : BitVec 16) (s : State) : Out :=
  schUpd p.val m.val (fun d =>
    let v := d.schData p.val m.val 0
    if 16 ≤ index.toNat then .fail 4
    else if nbit v 15 && !d.granted p.val 5 (6 + m.val) (v % 4096) then .fail 4
    else .done (d.setReg .schIngPol ((8 * m.val + p.val) * 16 + index.toNat) (BitVec.ofNat 64 (v &&& 0x8FFF)))) s

end Sys2Proof.Machine
end

