-- ==== Sys2Proof/Machine/Reset.lean ====
section
/-! DEFINITION. Machine/Reset.lean: resets of cores, slices and partitions, containment, freezes, and the destruction of slices and partitions (R87, R88 of 02_engine_cores.md, R331 to R333, R338 to R341, R345 of 09_partitions_and_slices.md). -/
namespace Sys2Proof.Machine
open Sys2Proof

/-- A reset of a kind is counted: power-on, auxiliary, device, fundamental, hot, function-level, partition, slice, core, safe state (R444). -/
def Dev.lifeReset (d : Dev) (k : Nat) : Dev :=
  { d with life := { d.life with resets := tabPut d.life.resets 0 k (Nat.min (2 ^ 32 - 1) (tabGet d.life.resets 0 k + 1)) } }

/-- Ticks since a tick, as a 32-bit register holds them. -/
def Dev.ticksSince (d : Dev) (t : Nat) : Nat := Nat.min (d.time.tick - t) (2 ^ 32 - 1)

/-! ## Core reset (R87) -/

/-- A thread's state clears (R87, steps 6 and 8); operations keep their numbering. -/
def Dev.clearThread (d : Dev) (tid : Nat) : Dev := d.setThread tid { nextId := (d.thread tid).nextId }

/-- One thread's part of a core reset: its frames, claims and locks go, its operations are abandoned, its registers clear. -/
def Dev.resetThread (d : Dev) (tid : Nat) : Dev :=
  let d := (d.discardThreadFrames tid).dropClaims tid
  let held := (List.range 4096).filter (fun n => d.lockHeld n && d.lockOwner n == tid)
  let d := held.foldl (fun d n => d.freeLock n) d
  let d := { d with relPend := d.relPend.filter (fun r => r.2.1 != tid) }
  let d := d.discardOps (fun o => match o with | .load t _ => t == tid | _ => false)
  d.clearThread tid

/-- Registers that a core reset returns to their reset values. -/
def coreRegs : List Reg := [.coreIcachePin, .coreDbgCtl, .coreDbgStat]

/-- Steps 1 to 6 and 8 of R87 on a core, and with `full` step 7 and the per-core registers. -/
def Dev.coreReset (d : Dev) (c : Nat) (full : Bool) : Dev :=
  let ts := threadsOf c
  let d := d.abortOps (fun o => coreOf o.tid == c)
  let gs := (List.range 256).map (fun k => 256 * (islOfCore c - 2) + k)
  let d := (gs.filter (fun g => (d.groupMembers g).any (fun t => coreOf t == c))).foldl (fun d g => d.discardGroupQueue g) d
  let loads := ts.any (fun t => !(d.thread t).outs.isEmpty)
  let d := ts.foldl (fun d t => d.resetThread t) d
  let d := ts.foldl (fun d t => d.clearThread t) d
  let d := { d with keys := { d.keys with draws := d.keys.draws.filter (fun e => coreOf (e.1 / 65536) != c) } }
  let d := match d.partOfCore c with
    | none => d
    | some p =>
      if (d.supervisor p).any (fun t => coreOf t == c) then
        let d := (d.setRb .coreSupv p 31 false).setRf .coreFnqStat p 0 6 0
        d.setPart p { d.part p with notices := [], quietSince := none }
      else d
  let d := { d with cores := tabPut d.cores {} c { pinned := [], resetAt := d.time.tick } }
  let d := d.setReg .coreIcachePin c 0
  if full then
    let d := d.resetWhere coreRegs (fun _ i => i == c)
    let d := d.resetWhere [.coreBkpt] (fun _ i => i / 4 == c)
    let d := { d with cnt := { d.cnt with
      slot := d.cnt.slot.filter (fun e => coreOf (e.1 / 5) != c), slotLatch := d.cnt.slotLatch.filter (fun e => coreOf (e.1 / 5) != c) } }
    let d := d.zero (localAddr c 0) 0x40000
    let (v, d) := d.fresh
    (d.setReg .coreRstStat c (BitVec.ofNat 64 (v.toNat % 1001 + (if loads then 25000 else 0)))).lifeReset 8
  else d

/-- CORE_RESET: R87. Only a core that a partition holds runs; the others stay in reset (R50). -/
def execCoreReset (c : Fin 64) (s : State) : Out :=
  event (fun d => if (d.partOfCore c.val).isSome then d.coreReset c.val true else d) s

/-! ## Containment (R331) -/

/-- The faces of a partition's mailboxes follow its state. -/
def Dev.facesOf (d : Dev) (p : Nat) : Dev :=
  (d.mbxList.filter (fun m => decide (2 ≤ m) && (d.mbx m).part == p)).foldl (fun d m => d.faceShow m) d

/-- A partition is contained: its threads fault, its rings stop (through its state), its mailboxes show it down. -/
def Dev.containPart (d : Dev) (p : Nat) : Dev :=
  if d.partState p ≠ 1 then d
  else
    let d := (d.setRf .ptnState p 0 3 2).count (evPart p 7)
    let ts := (d.coresOf p).flatMap threadsOf
    let d := ts.foldl (fun d t => d.updThread t (fun x =>
      if x.st = .running ∨ x.st = .waiting then { x with st := .faulted, wait := .none, stepping := false } else x)) d
    d.facesOf p

/-! ## Slice reset (R338 to R340) -/

/-- The completion rings of a slice. -/
def Dev.cqsOf (d : Dev) (s : Nat) : List Nat :=
  match (d.slc s).grant with
  | some g => g.ranges.flatMap (fun r => if r.kind = 8 then (List.range r.count).map (· + r.first) else [])
  | none => []
/-- The resources of a kind a slice's grant names, in grant order. -/
def Dev.sliceNums (d : Dev) (s kind : Nat) : List Nat :=
  match (d.slc s).grant with
  | some g => g.ranges.flatMap (fun r => if r.kind = kind then (List.range r.count).map (· + r.first) else [])
  | none => []

/-- Program loads out for a slice fail at once (R338 step 7). -/
def Dev.failLoads (d : Dev) (s : Nat) : Dev :=
  let p := d.slicePart s
  let pasid := d.slicePasid s
  ((d.coresOf p).flatMap threadsOf).foldl (fun d t =>
    ((d.thread t).outs.filter (fun o => match o.kind with
      | .load sp _ _ _ => sp == 3#2 && wf o.pasid 0 20 == pasid
      | _ => false)).foldl (fun d o =>
        match o.kind with
        | .load _ ea _ _ =>
          let d := d.discardOps (fun h => h == .load t o.id)
          (d.updThread t (fun x => x.dropOut o)).lateExc t 3 o.pc o.slot ea
        | _ => d) d) d

/-- Steps 1 to 8 of R338. -/
def Dev.sliceResetBegin (d : Dev) (s : Nat) : Dev :=
  let d := (d.setSliceState s 3).lifeReset 7
  let d := (d.setSlice s { d.slc s with began := d.time.tick }).count (evPart (d.slicePart s) 11)
  let sqs := d.sqsOf s
  let cqs := d.cqsOf s
  let d := d.discardOps (fun o => match o with
    | .fetch n => sqs.contains n
    | .txRead n => sqs.contains n
    | _ => false)
  let d := (d.sliceNums s 6).foldl (fun d ch => d.abortChannel ch true) d
  let d := (d.chansOf (d.slicePart s)).foldl (fun d ch =>
    if d.rb .dmaChPasid ch 31 && d.rf .dmaChPasid ch 0 20 == d.slicePasid s then d.abortChannel ch false else d) d
  let d := (d.sliceNums s 3).foldl (fun d q => d.flushTxq q) d
  let d := sqs.foldl (fun d n => d.setSq n {}) d
  let gone := (d.overflow s).length + (d.dma.waiting.filter (fun c => cqs.contains c.cq)).length
  let d := cqs.foldl (fun d n => d.setOverflow s n []) (d.setOverflow s 0 [])
  let d := { d with dma := { d.dma with waiting := d.dma.waiting.filter (fun c => !cqs.contains c.cq) } }
  let d := d.setSlice s { d.slc s with discarded := gone }
  let d := d.drainChannels.drainWaiting
  let d := d.failLoads s
  d.resetEnds (fun e => e.kind == 3 && e.id == s)

/-- The registers marked SLICE of a ring. -/
def sqRegs : List Reg := [.ringSqBase, .ringSqCfg, .ringSqPoll, .ringSqCons, .ringSqRoute, .ringSqInbox, .ringSqDb, .ringSqStat]
def cqRegs : List Reg := [.ringCqBase, .ringCqCfg, .ringCqHead, .ringCqIrq, .ringCqStat]
def sliceRegs : List Reg := [.ringSliceStat, .ringSliceMalRing, .ringSliceMalPos, .ringSliceMalWhy, .slcFrzStat]
/-- The registers marked SLICE of a slice take their SLICE values. -/
def Dev.resetSliceRegs (d : Dev) (s : Nat) : Dev :=
  let sqs := d.sqsOf s
  let cqs := d.cqsOf s
  let d := d.resetWhere sqRegs (fun _ i => sqs.contains i)
  let d := d.resetWhere cqRegs (fun _ i => cqs.contains i)
  let d := d.resetWhere sliceRegs (fun _ i => i == s)
  let d := cqs.foldl (fun d n => d.setCq n {}) d
  sqs.foldl (fun d n => d.setSq n {}) d

/-- Slices a partition has, as PTN_STATE counts them. -/
def Dev.countSlices (d : Dev) (p : Nat) : Dev :=
  d.setRf .ptnState p 16 13 (d.ptn.slices.filter (fun e => e.2.grant.any (fun g => g.part == p))).length

/-- A slice is gone: its mailboxes are unconfigured, its owner fields cleared, its number free (R335, R345, R353). -/
def Dev.sliceRemove (d : Dev) (s : Nat) : Dev :=
  let p := d.slicePart s
  let ms := d.mbxList.filter (fun m => decide (2 ≤ m) && (d.mbx m).slice == some s)
  let d := ms.foldl (fun d m => d.dropMbx m) d
  let d := (d.sqsOf s).foldl (fun d n => d.setReg .ringSqOwner n (BitVec.ofNat 64 (d.rf .ringSqOwner n 12 3 * 2 ^ 12 + d.rf .ringSqOwner n 17 1 * 2 ^ 17))) d
  let d := (d.cqsOf s).foldl (fun d n => d.setRf .ringCqOwner n 0 12 0) d
  let d := (d.sliceNums s 6).foldl (fun d ch => (d.setRf .dmaChOwner ch 4 15 0).setRb .dmaChStat ch 4 false) d
  let d := d.setSlice s {}
  let d := d.resetWhere [.slcState, .slcVec, .slcOvfLim, .slcFrzStat] (fun _ i => i == s)
  d.countSlices p

/-- Whether every tag issued for a slice has retired (R338 step 9). -/
def Dev.sliceTags (d : Dev) (s : Nat) : Bool := d.host.reqs.any (fun e => e.2.slice == some s && !e.2.quarantined)

/-- Step 9 of R338: the reset ends; a destruction removes the slice; a command that waited takes effect (R340). -/
def Dev.sliceResetFinish (d : Dev) (s : Nat) : Dev :=
  let x := d.slc s
  let n := d.ticksSince x.began
  let d := (d.resetSliceRegs s).setReg .slcRstTime s (BitVec.ofNat 64 n)
  let d := d.setSliceState s 1
  if x.destroy then (d.sliceRemove s).fwFinishAt 0x31 s { r0 := BitVec.ofNat 64 x.discarded }
  else
    let d := d.setSlice s { d.slc s with waiting := none, discarded := 0 }
    match x.waiting with
    | some 0x32 => d.sliceResetBegin s
    | some 0x31 => (d.setSlice s { d.slc s with destroy := true }).sliceResetBegin s
    | _ => d.fwFinishAt 0x32 s { r0 := BitVec.ofNat 64 n }

/-- A reset of a slice from outside that does not wait for tags: function-level and port resets (R339). -/
def Dev.sliceResetNow (d : Dev) (s : Nat) : Dev :=
  let st := d.sliceState s
  if st = 0 then d
  else
    let d := if st = 3 then d else d.sliceResetBegin s
    d.sliceResetFinish s

/-- SLICE_RESET_END: a slice's reset ends when its last tag has retired (R338, R339). -/
def execSliceResetEnd (sl : Fin 4096) (s : State) : Out :=
  event (fun d => if d.sliceState sl.val = 3 && !d.sliceTags sl.val then d.sliceResetFinish sl.val else d) s

/-! ## Freeze (R341) -/

/-- Operations of a slice in flight: descriptors accepted, COPY transfers, TX frames, completions that wait, requests out. -/
def Dev.sliceFlight (d : Dev) (s : Nat) : Nat :=
  let cqs := d.cqsOf s
  let sqs := d.sqsOf s
  let ents := sqs.foldl (fun a n =>
    let x := d.sq n
    a + (if d.sqKind n = 0 ∨ d.sqKind n = 3 then 0 else x.entries.length) + x.reading.toList.length + x.open_) 0
  let chans := ((d.sliceNums s 6).filter (fun ch => (d.chan ch).armed.isSome || (d.chan ch).xfer.isSome)).length
  ents + chans + (d.dma.waiting.filter (fun c => cqs.contains c.cq)).length +
    (d.host.reqs.filter (fun e => e.2.slice == some s && !e.2.quarantined)).length

/-- SLC_FRZ_STAT of a slice. -/
def Dev.frzStat (d : Dev) (s : Nat) : Dev :=
  let n := d.sliceFlight s
  d.setReg .slcFrzStat s (BitVec.ofNat 64 (b2n (n == 0) + Nat.min n 65535 * 2 ^ 16))

/-- FREEZE_COMPLETE: nothing of a freezing slice is in flight any more. -/
def execFreezeComplete (sl : Fin 4096) (s : State) : Out :=
  event (fun d =>
    if d.sliceState sl.val = 4 && d.sliceFlight sl.val = 0 then ((d.setSliceState sl.val 5).frzStat sl.val).fwFinishAt 0x33 sl.val {} else d) s

/-- A SLICE_FREEZE of a slice is running. -/
def Dev.freezing (d : Dev) (s : Nat) : Bool := d.fw.running.any (fun r => r.1 == 0x33 && r.2.arg0.toNat == s)

/-- FREEZE_TIMEOUT: the freeze has not ended within the completion timeout and 1 ms; the slice stays FREEZING. -/
def execFreezeTimeout (sl : Fin 4096) (s : State) : Out :=
  event (fun d =>
    let x := d.slc sl.val
    if d.freezing sl.val && decide (x.began + ctvTicks (d.fn (d.slicePort sl.val) (d.sliceFn sl.val)).ctv + 250000 ≤ d.time.tick) then
      (d.frzStat sl.val).fwFinish 0x33 { status := 0x07, r0 := BitVec.ofNat 64 (d.sliceFlight sl.val) }
    else d) s

/-! ## Partition reset and destruction (R332, R333) -/

/-- The resources of a kind a partition's grant names, with their island field. -/
def Dev.partNums (d : Dev) (p kind : Nat) : List (Nat × Nat) :=
  match (d.part p).grant with
  | some g => g.ranges.flatMap (fun r => if r.kind = kind then (List.range r.count).map (fun k => (r.where_, r.first + k)) else [])
  | none => []
def Dev.partRanges (d : Dev) (p kind : Nat) : List Range :=
  match (d.part p).grant with
  | some g => g.ranges.filter (fun r => r.kind == kind)
  | none => []
/-- Whether a partition's grant covers a resource, by range. -/
def inRanges (rs : List Range) (n : Nat) : Bool := rs.any (fun r => decide (r.first ≤ n) && decide (n < r.first + r.count))
def inRangesAt (rs : List Range) (w n : Nat) : Bool := rs.any (fun r => r.where_ == w && decide (r.first ≤ n) && decide (n < r.first + r.count))

/-- The slices of a partition. -/
def Dev.slicesOf (d : Dev) (p : Nat) : List Nat :=
  (d.ptn.slices.filter (fun e => e.2.grant.any (fun g => g.part == p))).map (·.1)

/-- The registers marked PART, without those that hold the grant, of what a partition owns. -/
def Dev.resetPartRegs (d : Dev) (p : Nat) : Dev :=
  let own := fun k => d.partRanges p k
  let ch := own 6
  let sq := own 7
  let cq := own 8
  let tq := own 3
  let sh := own 4
  let po := own 5
  let d := d.resetWhere [.clsPartCfg, .clsPartWtbl, .clsPartStat, .clsMissTimeout, .ptnDownDrop] (fun _ i => i == p)
  let d := d.resetWhere [.clsHashKey] (fun _ i => i / 11 == p)
  let d := d.resetWhere [.clsHashSel] (fun _ i => i / 3 == p)
  let d := d.resetWhere [.clsFlowSel] (fun _ i => i / 8 == p)
  let d := d.resetWhere [.clsInd] (fun _ i => i / 4096 == p)
  let d := d.resetWhere [.clsUpdData] (fun _ i => i / 44 % 8 == p)
  let d := d.resetWhere [.clsUpdCmd, .clsUpdStat, .schUpdCmd, .schUpdStat] (fun _ i => i % 8 == p)
  let d := d.resetWhere [.schUpdData] (fun _ i => i / 4 % 8 == p)
  let d := d.resetWhere [.schIngPol] (fun _ i => i / 16 % 8 == p)
  let d := d.resetWhere [.schTxqDrr, .schTxqAtt, .schTxqLim] (fun _ i => inRanges tq i)
  let d := d.resetWhere [.schShpRate, .schShpBurst, .schShpParent, .schShpTok, .schShpStat] (fun _ i => inRangesAt sh (6 + i / 8192) (i % 8192))
  let d := d.resetWhere [.schPolRate, .schPolBurst, .schPolTok] (fun _ i => inRangesAt po (6 + i / 4096) (i % 4096))
  let d := po.foldl (fun d r => (List.range r.count).foldl (fun d k => d.setRf .schPolCfg (4096 * (r.where_ - 6) + r.first + k) 4 4 0) d) d
  let d := d.resetWhere [.dmaChSrc, .dmaChDst, .dmaChCnt, .dmaChMode, .dmaChPasid, .dmaChEvent, .dmaChSeed, .dmaChCq, .dmaChCqdata, .dmaChStat, .dmaChChk]
    (fun _ i => inRanges ch i)
  let d := d.resetWhere (.ringSqSvc :: sqRegs) (fun _ i => inRanges sq i)
  let d := d.resetWhere cqRegs (fun _ i => inRanges cq i)
  { d with
    dma := { d.dma with
      sq := d.dma.sq.filter (fun e => !inRanges sq e.1), cq := d.dma.cq.filter (fun e => !inRanges cq e.1) }
    pkt := { d.pkt with
      updPend := d.pkt.updPend.filter (fun e => e.1 % 8 != p)
      shpPend := d.pkt.shpPend.filter (fun e => !inRangesAt sh (6 + e.1 / 8192) (e.1 % 8192))
      polPend := d.pkt.polPend.filter (fun e => !inRangesAt po (6 + e.1 / 4096) (e.1 % 4096))
      polDrop := d.pkt.polDrop.filter (fun e => !inRangesAt po (6 + e.1 / 4096) (e.1 % 4096)) } }

/-- The frames of a partition that its reset discards: those it holds in ingress buffers and on their way, but not those a wire carries (R332 step 6). -/
def Dev.dropPartFrames (d : Dev) (p : Nat) : Dev :=
  let wires := (d.pkt.wire ++ d.pkt.susp).map (fun (e : Nat × OnWire) => e.2.frame)
  let gone := (d.pkt.frames.filter (fun e => e.2.part == p && !wires.contains e.1)).map (·.1)
  let keep := fun (l : List Nat) => l.filter (fun f => !gone.contains f)
  let d := { d with pkt := { d.pkt with
    clsQ := keep d.pkt.clsQ, missQ := keep d.pkt.missQ, arriving := keep d.pkt.arriving, toHost := keep d.pkt.toHost, fragHold := keep d.pkt.fragHold
    reorder := d.pkt.reorder.filter (fun r => r.part != p)
    frags := d.pkt.frags.filter (fun r => r.part != p)
    caches := d.pkt.caches.filter (fun e => e.1 % 8 != p) } }
  gone.foldl (fun d f => d.dropFrame f) d

/-- A partition's reset, or the first part of its destruction, begins: steps 1 to 7 of R332. -/
def Dev.partResetBegin (d : Dev) (p : Nat) (destroy : Bool) : Dev :=
  let d := (d.setRf .ptnState p 0 3 (if destroy then 4 else 3)).lifeReset 6
  let d := d.setPart p { d.part p with job := some ⟨destroy, d.time.tick⟩, startAt := none, notices := [], quietSince := none, quietRaised := false }
  let d := { d with flt := { d.flt with recovering := true } }.setPhase
  let d := (d.slicesOf p).foldl (fun d s => if d.sliceState s = 3 then d else d.sliceResetBegin s) d
  let d := (d.coresOf p).foldl (fun d c => d.coreReset c true) d
  let d := (d.setRb .coreSupv p 31 false).setRf .coreFnqStat p 0 6 0
  let d := d.abortOps (fun o => o.part == p)
  let d := (d.chansOf p).foldl (fun d ch => d.abortChannel ch true) d
  let d := (d.chansOf p).foldl (fun d ch => d.setChan ch { prevWin := (d.chan ch).prevWin }) d
  let d := (d.slotsOf p).foldl (fun d n => d.purgeSlot n) d
  let d := (d.partNums p 3).foldl (fun d q => d.flushTxq q.2) d
  let d := d.dropPartFrames p
  let owned := (d.chansOf p).filter (fun ch => d.rb .dmaChOwner ch 4)
  let d := (d.resetPartRegs p).creditFull p
  let d := owned.foldl (fun d ch => d.setRb .dmaChStat ch 4 true) d
  (d.resetEnds (fun e => (e.kind == 2 || e.kind == 4) && e.id == p)).facesOf p

/-- Zeros are written to the memory of a destroyed partition and to the instruction memory of its image (R333 step 4). -/
def Dev.zeroPart (d : Dev) (p : Nat) : Dev :=
  let d := (d.partRanges p 15).foldl (fun d r => d.zero (islAddr r.where_ (0x100000000 + r.first * 65536)) (r.count * 65536)) d
  let d := (d.partRanges p 16).foldl (fun d r => d.zero (islAddr r.where_ (0x120000000 + r.first * 4096)) (r.count * 4096)) d
  let d := (d.partRanges p 17).foldl (fun d r => d.zero (ddrAddr (r.first * 16777216)) (r.count * 16777216)) d
  match (d.part p).prog with
  | some g => g.code.foldl (fun d c => d.zero (islAddr c.isl (0x110000000 + c.first)) c.len) d
  | none => d

/-- A partition's rules are disabled and its exact tables emptied (R333 step 3). -/
def Dev.emptyTables (d : Dev) (p : Nat) : Dev :=
  let rs := d.partRanges p 11
  let off := fun (e : Nat × Rule) => if inRangesAt rs (2 + e.1 / 32768) (e.1 % 32768) then (e.1, { e.2 with enable := false }) else e
  let blank : Rule := {}
  let rules := (d.pkt.rules.map off).filter (fun (e : Nat × Rule) => e.2 != blank)
  let d := { d with pkt := { d.pkt with rules := rules } }
  (d.partNums p 10).foldl (fun (d : Dev) (t : Nat × Nat) =>
    if d.tdirKind t.2 = 1 then d.zero (d.tdirBase t.2) (2 ^ d.tdirK t.2 * 256) else d) d

/-- Everything a destroyed partition held returns to the device (R333 steps 5 and 6). -/
def Dev.releasePart (d : Dev) (p : Nat) : Dev :=
  let ports := (List.range 8).filter (fun h => (d.part p).grant.any (fun g => g.hostPorts.getLsbD h))
  let wins := d.partRanges p 18
  let ms := d.mbxList.filter (fun m => decide (2 ≤ m) && (d.mbx m).part == p)
  let d := ms.foldl (fun d m => d.dropMbx m) d
  let d := d.resetWhere [.hostWinAct, .hostWinStg] (fun _ i => ports.any (fun h => i / 256 == fnKey h (p + 1)))
  let d := (d.coresOf p).foldl (fun d c => d.setReg .coreCfg c 0) d
  let d := (d.partNums p 6).foldl (fun d n => d.resetReg .dmaChOwner n.2) d
  let d := (d.partNums p 7).foldl (fun d n => d.resetReg .ringSqOwner n.2) d
  let d := (d.partNums p 8).foldl (fun d n => d.resetReg .ringCqOwner n.2) d
  let sh := d.partRanges p 4
  let po := d.partRanges p 5
  let d := sh.foldl (fun (d : Dev) r => (List.range r.count).foldl (fun d k => d.setRf .schShpCfg (8192 * (r.where_ - 6) + r.first + k) 0 4 0) d) d
  let d := po.foldl (fun (d : Dev) r => (List.range r.count).foldl (fun d k => d.setRf .schPolCfg (4096 * (r.where_ - 6) + r.first + k) 0 4 0) d) d
  let d := (List.range 2).foldl (fun (d : Dev) m => d.setRf .schPartEq (8 * m + p) 0 16 0) d
  let d := d.resetWhere [.ptnCaps, .ptnCores0, .ptnCores1, .ptnOvf, .ptnStraitShare, .dpxCfg, .dpxCycle, .dpxStat, .dpxLastMm, .dpxSwTime, .dpxSwitches, .dpxLag, .dpxCw]
    (fun _ i => i == p)
  let d := d.resetWhere [.ptnCrCiph, .ptnCrFix, .ptnCrDma, .ptnBalCiph, .ptnBalFix, .ptnBalRd, .ptnBalWr, .keyHoldQ, .keyHoldUse] (fun _ i => i % 8 == p)
  let d := d.resetWhere [.cntWinCfg0, .cntWinCfg1, .cntWinCfg2, .cntWinCfg3, .cntWinStat] (fun _ i => inRanges wins i)
  let d := { d with
    cnt := { d.cnt with
      prog := d.cnt.prog.filter (fun e => e.1 / 512 != p)
      mirrorAt := d.cnt.mirrorAt.filter (fun e => !inRanges wins e.1), mirrorSeq := d.cnt.mirrorSeq.filter (fun e => !inRanges wins e.1) }
    ptn := { d.ptn with
      named := d.ptn.named.filter (fun e => e.2 != p + 1)
      straitCred := d.ptn.straitCred.filter (fun e => e.1 % 16 / 2 != p) } }
  let d := d.setDuplex p {}
  (d.setPart p {}).setRf .ptnState p 0 3 0

/-- The reset or destruction of a partition ends (R332, R333). -/
def Dev.partResetFinish (d : Dev) (p : Nat) (j : PartJob) : Dev :=
  let n := d.ticksSince j.began
  let d := d.setReg .ptnRstTime p (BitVec.ofNat 64 n)
  let d := { d with flt := { d.flt with recovering := false } }.setPhase
  let r : FwAns := { r0 := BitVec.ofNat 64 n }
  if j.destroy then
    let d := (d.slicesOf p).foldl (fun d s => d.sliceRemove s) d
    let d := (d.slotsOf p).foldl (fun d k => d.retire k) d
    let d := ((d.emptyTables p).zeroPart p).releasePart p
    d.fwFinish 0x21 r
  else
    let d := ((d.setPart p { d.part p with job := none }).setRf .ptnState p 0 3 1).facesOf p
    d.fwFinish 0x22 r

/-- PART_RESET_END: a partition's reset or destruction ends once no slice of it is being reset. -/
def execPartResetEnd (p : Fin 8) (s : State) : Out :=
  event (fun d =>
    match (d.part p.val).job with
    | some j => if (d.slicesOf p.val).any (fun s => d.sliceState s == 3) then d else d.partResetFinish p.val j
    | none => d) s

end Sys2Proof.Machine
end

