-- ==== Sys2Proof/Machine/Partition.lean ====
section
/-! DEFINITION. Machine/Partition.lean: partition grants and the partition commands (R323 to R326, R332, R333, R347 of 09_partitions_and_slices.md, R372 of 10_wenot_command_set.md). -/
namespace Sys2Proof.Machine
open Sys2Proof

/-! ## Range records (R324) -/

/-- The first number of a kind and the number after its last, for an island field that the kind allows. -/
def Dev.kindSpan (d : Dev) (kind where_ : Nat) : Option (Nat × Nat) :=
  let dev := where_ = 0
  let port := where_ = 6 ∨ where_ = 7
  let eng := 2 ≤ where_ ∧ where_ ≤ 5
  match kind with
  | 1 => if dev then some (0, 65536) else none
  | 2 => if dev then some (0, 4096) else none
  | 3 => if dev then some (0, 65536) else none
  | 4 => if port then some (0, 8192) else none
  | 5 => if port then some (0, 4096) else none
  | 6 => if dev then some (0, 1024) else none
  | 7 => if dev then some (0, 16384) else none
  | 8 => if dev then some (0, 16384) else none
  | 9 => if dev then some (0, 1024) else none
  | 10 => if dev then some (0, 256) else none
  | 11 => if eng then some (0, 32768) else none
  | 12 => if dev then some (0, 256) else none
  | 13 => if dev then some (2, 8192) else none
  | 14 => if eng then some (0, 16384) else none
  | 15 => if eng then some (0, 1024) else none
  | 16 => if eng then some (0, 2048 - d.rf .dmaIslCfg (where_ - 2) 16 12) else none
  | 17 => if where_ = 8 then some (0, d.board.ddr / 16777216) else none
  | 18 => if dev then some (0, 1024) else none
  | _ => none

/-- A range record of 8 bytes at an offset. -/
def rangeAt (p : List Byte) (off : Nat) : Range := ⟨leAt p off 1, leAt p (off + 1) 1, leAt p (off + 4) 2, leAt p (off + 6) 2 + 1⟩
/-- A record of a partition grant: its kind, its island field, its reserved bytes and its range are right. -/
def Dev.rangeOk (d : Dev) (p : List Byte) (off : Nat) : Bool :=
  let r := rangeAt p off
  leAt p (off + 2) 2 == 0 && (match d.kindSpan r.kind r.where_ with
    | some (lo, hi) => decide (lo ≤ r.first) && decide (r.first + r.count ≤ hi)
    | none => false)
/-- Two ranges of one kind and island that share a number. -/
def Range.meets (a b : Range) : Bool :=
  a.kind == b.kind && a.where_ == b.where_ && decide (a.first < b.first + b.count) && decide (b.first < a.first + a.count)

/-! ## Mailbox records (R347) -/

/-- A mailbox record of 24 bytes at an offset. -/
def mbxAt (p : List Byte) (off : Nat) : MbxRec :=
  ⟨leAt p off 2, leAt p (off + 2) 1, leAt p (off + 3) 1, leAt p (off + 4) 2, leAt p (off + 6) 2, leAt p (off + 8) 1, leAt p (off + 9) 1,
    leAt p (off + 10) 6, BitVec.ofNat 16 (leAt p (off + 16) 2)⟩

/-- What a mailbox record is checked against: the partition, its grant, and, in a slice grant, the slice's port and the other slices of the partition. -/
structure MbxCtx where
  part : Nat
  grant : Grant
  slicePort : Option Nat
  slices : List (Nat × Nat)

/-- An endpoint of a record belongs to the partition, or is the manager. -/
def MbxCtx.endOk (c : MbxCtx) (kind id port : Nat) : Bool :=
  match kind with
  | 1 => id == 0 && port == 0
  | 2 => id == c.part && decide (port < 8) && c.grant.hostPorts.getLsbD port
  | 3 => (match c.slicePort with
      | none => false
      | some h => if id = 0xFFFF then port == h else c.slices.any (fun s => s == (id, port)))
  | 4 => id == c.part && port == 0
  | _ => false

/-- The thread or group of prog_route is the partition's (R347). -/
def MbxCtx.routeOk (c : MbxCtx) (r : Nat) : Bool :=
  let n := fld r 0 10
  decide (fld r 11 5 < 30) &&
  (if nbit r 10 then c.grant.ranges.any (fun q => q.covers 9 0 n)
   else decide (n < 576) && c.grant.cores.getLsbD (coreOf n))

/-- A well-formed mailbox record whose bytes 18 to 23 are `rest`. -/
def MbxCtx.recOk (c : MbxCtx) (r : MbxRec) (rest : Nat) : Bool :=
  let faced := r.sndKind == 4 || r.rcvKind == 4
  rest == 0 && c.grant.ranges.any (fun q => q.covers 13 0 r.mbx) &&
  c.endOk r.sndKind r.sndId r.sndPort && c.endOk r.rcvKind r.rcvId r.rcvPort && !(r.sndKind == 1 && r.rcvKind == 1) &&
  (if faced then
    r.face % 64 == 0 && c.routeOk r.progRoute.toNat &&
    c.grant.ranges.any (fun q => q.kind == 15 && r.face / 2 ^ 44 == q.where_ &&
      decide (0x100000000 + q.first * 65536 ≤ r.face % 2 ^ 44) && decide (r.face % 2 ^ 44 + 64 ≤ 0x100000000 + (q.first + q.count) * 65536))
   else r.face == 0)

/-- No two records name one mailbox. -/
def mbxDistinct (ms : List MbxRec) : Bool := (ms.map (·.mbx)).eraseDups.length == ms.length

/-! ## The partition grant (R323) -/

/-- `n` little-endian numbers of `w` bytes at an offset. -/
def leList (p : List Byte) (off w n : Nat) : List Nat := (List.range n).map (fun k => leAt p (off + w * k) w)

/-- The grant's fields. -/
def grantOf (p : List Byte) : Grant :=
  let nr := leAt p 88 2
  { hostPorts := BitVec.ofNat 8 (leAt p 2 1), counterRead := nbit (leAt p 3 1) 0, cores := BitVec.ofNat 64 (leAt p 4 8),
    classes := BitVec.ofNat 16 (leAt p 12 2), maxSlices := leAt p 14 2, cipher := leList p 16 2 4, fixity := leList p 24 2 4,
    dma := leList p 32 2 4, strait := leAt p 40 2, hold := leList p 44 2 4, reorder := leList p 52 2 4, cache := leList p 60 4 4,
    ingress := leList p 76 2 2, egress := leList p 80 2 2, overflow := leAt p 84 4,
    ranges := (List.range nr).map (fun k => rangeAt p (96 + 8 * k)),
    mbxs := (List.range (leAt p 90 2)).map (fun k => mbxAt p (96 + 8 * nr + 24 * k)) }

/-- The first condition of R325: a malformed grant. -/
def Dev.grantBad (d : Dev) (p : List Byte) : Bool :=
  let nr := leAt p 88 2
  let nm := leAt p 90 2
  let g := grantOf p
  decide (p.length < 96) || leAt p 0 1 != 1 || decide (7 < leAt p 1 1) || decide (1 < leAt p 3 1) || decide (4096 < g.maxSlices) ||
  (g.cipher ++ g.fixity ++ g.dma).any (fun w => 256 < w) || decide (256 < g.strait) || leAt p 42 2 != 0 ||
  g.hold.any (fun w => 4096 < w) || g.reorder.any (fun w => 8192 < w) || g.cache.any (fun w => 131072 < w) ||
  decide (65536 < g.overflow) || decide (1024 < nr) || decide (1024 < nm) || leAt p 92 4 != 0 ||
  p.length != 96 + 8 * nr + 24 * nm || !(List.range nr).all (fun k => d.rangeOk p (96 + 8 * k))

/-- The second condition: host ports and mailbox records. -/
def Dev.grantRefs (d : Dev) (p : List Byte) : Bool :=
  let n := leAt p 1 1
  let g := grantOf p
  let c : MbxCtx := ⟨n, g, none, []⟩
  let base := 96 + 8 * g.ranges.length
  (List.range 8).all (fun h => !g.hostPorts.getLsbD h || d.rb .hostPortCfg h n) &&
  (List.range g.mbxs.length).all (fun k => c.recOk (mbxAt p (base + 24 * k)) (leAt p (base + 24 * k + 18) 6)) && mbxDistinct g.mbxs

/-- The key under which an image's owner field is listed: kind and number, where a shaper or policer number counts across the two port islands (R465). -/
def ownKey (kind where_ n : Nat) : Nat :=
  65536 * kind + (match kind with | 4 => 8192 * (where_ - 6) + n | 5 => 4096 * (where_ - 6) + n | _ => n)

/-- The partitions that exist, but one. -/
def Dev.others (d : Dev) (p : Nat) : List Grant :=
  ((List.range 8).filter (· != p)).filterMap (fun q => (d.part q).grant)

/-- A core or resource of a grant that another partition owns (R325). -/
def Dev.taken (d : Dev) (p : Nat) (g : Grant) : Bool :=
  (List.range 64).any (fun c => g.cores.getLsbD c && (match d.partOfCore c with | some q => q != p | none => false)) ||
  g.ranges.any (fun r => (d.others p).any (fun o => o.ranges.any (fun q => r.meets q))) ||
  d.ptn.named.any (fun e => e.2 != p + 1 &&
    g.ranges.any (fun r => decide (ownKey r.kind r.where_ r.first ≤ e.1) && decide (e.1 < ownKey r.kind r.where_ r.first + r.count)))

/-- The k-th entry of a list of four or two in every grant of some partitions, added up. -/
def sumAt (gs : List Grant) (f : Grant → List Nat) (k : Nat) : Nat := gs.foldl (fun a g => a + (f g).getD k 0) 0
/-- Some entry of a list adds up past a limit. -/
def overSum (gs : List Grant) (f : Grant → List Nat) (n limit : Nat) : Bool := (List.range n).any (fun k => limit < sumAt gs f k)

/-- Shares above 256, or a quota's sum above its total. -/
def Dev.quotasBad (d : Dev) (p : Nat) (g : Grant) : Bool :=
  let gs := g :: d.others p
  overSum gs (·.cipher) 4 256 || overSum gs (·.fixity) 4 256 || overSum gs (·.dma) 4 256 || overSum gs (fun x => [x.strait]) 1 256 ||
  overSum gs (·.hold) 4 4096 || overSum gs (·.reorder) 4 8192 || overSum gs (·.cache) 4 131072 || overSum gs (fun x => [x.overflow]) 1 65536 ||
  (List.range 2).any (fun m =>
    let ing := d.rf .portBuf (2 * m) 0 8 + d.rf .portBuf (2 * m + 1) 0 8
    decide (ing * 1024 < sumAt gs (·.ingress) m) || decide ((128 - ing) * 1024 < sumAt gs (·.egress) m))

/-! ## Taking a grant (R326) -/

/-- Registers that PART_CREATE resets in the core chapter's per-partition block (R89). -/
def partCoreRegs : List Reg := [.coreSupv, .coreQuietLimit, .coreClaimLease, .coreDbgPart, .coreQuietStat, .coreFnqStat]

/-- The owner field of a transmit queue: a change of its binding flushes it (R180). -/
def Dev.takeTxq (d : Dev) (p q : Nat) : Dev :=
  if d.txqPart q = p then d else (d.flushTxq q).setRf .schTxqCfg q 8 3 p

/-- The owner fields that a range record covers. -/
def Dev.takeRange (d : Dev) (p : Nat) (r : Range) : Dev :=
  let each := fun (f : Dev → Nat → Dev) => (List.range r.count).foldl (fun d k => f d (r.first + k)) d
  match r.kind with
  | 3 => each (fun d n => d.takeTxq p n)
  | 4 => each (fun d n => d.setRf .schShpCfg (8192 * (r.where_ - 6) + n) 0 4 (p + 8))
  | 5 => each (fun d n => d.setRf .schPolCfg (4096 * (r.where_ - 6) + n) 0 4 (p + 8))
  | 6 => each (fun d n => d.setRf .dmaChOwner n 0 4 (p + 8))
  | 7 => each (fun d n => (d.setRf .ringSqOwner n 12 3 p).setRb .ringSqOwner n 17 true)
  | 8 => each (fun d n => (d.setRf .ringCqOwner n 12 3 p).setRb .ringCqOwner n 15 true)
  | 10 => each (fun d n => d.setRf .clsTdir n 2 3 p)
  | 12 => each (fun d n => d.setRf .clsMirror n 0 3 p)
  | 18 => each (fun d n => d.setRf .cntWinCfg3 n 24 4 (p + 8))
  | _ => d

/-- The shares and quotas of a grant. -/
def Dev.takeQuotas (d : Dev) (p : Nat) (g : Grant) : Dev :=
  let d := (List.range 4).foldl (fun d e =>
    let i := 8 * e + p
    let d := (d.setReg .ptnCrCiph i (BitVec.ofNat 64 (g.cipher.getD e 0))).setReg .ptnCrFix i (BitVec.ofNat 64 (g.fixity.getD e 0))
    (d.setReg .ptnCrDma i (BitVec.ofNat 64 (g.dma.getD e 0))).setReg .keyHoldQ i (BitVec.ofNat 64 (g.hold.getD e 0))) d
  let d := (List.range 2).foldl (fun d m => d.setRf .schPartEq (8 * m + p) 0 16 (g.egress.getD m 0)) d
  let cores := g.cores.toNat
  let d := (d.setReg .ptnCores0 p (BitVec.ofNat 64 (cores % 2 ^ 32))).setReg .ptnCores1 p (BitVec.ofNat 64 (cores / 2 ^ 32))
  let d := (d.setReg .ptnOvf p (BitVec.ofNat 64 g.overflow)).setReg .ptnStraitShare p (BitVec.ofNat 64 g.strait)
  d.setReg .ptnCaps p (BitVec.ofNat 64 (b2n g.counterRead + g.classes.toNat * 2 ^ 16))

/-- Strait credit of a partition set full in both directions of every strait (R328): four bytes of share times the strait's 4,000 bytes a tick. -/
def Dev.straitFull (d : Dev) (p w : Nat) : Dev :=
  let t := (List.range 23).foldl (fun t s => (List.range 2).foldl (fun t k => tabPut t 0 (16 * s + 2 * p + k) (creditCap w 4000)) t) d.ptn.straitCred
  { d with ptn := { d.ptn with straitCred := t } }

/-- A checked grant takes effect. -/
def Dev.takeGrant (d : Dev) (p : Nat) (g : Grant) : Dev :=
  let blank : Part := {}
  let d := d.setPart p { blank with grant := some g }
  let d := d.resetWhere partCoreRegs (fun _ i => i == p)
  let d := d.resetPartRegs p
  let d := ((List.range 64).filter (fun c => g.cores.getLsbD c)).foldl (fun d c => (d.coreReset c true).setRf .coreCfg c 0 4 (p + 8)) d
  let d := g.ranges.foldl (fun d r => d.takeRange p r) d
  let d := ((d.takeQuotas p g).creditFull p).straitFull p g.strait
  let d := { d with cnt := { d.cnt with
    ev := d.cnt.ev.filter (fun e => !(decide (evPart p 0 ≤ e.1) && decide (e.1 < evPart p 64)))
    prog := d.cnt.prog.filter (fun e => e.1 / 512 != p) } }
  let d := d.setReg .ptnState p 1
  g.mbxs.foldl (fun d r => d.configMbx r p none) d

/-- The whole of R325: a grant's checks in order. -/
def Dev.grantCheck (d : Dev) (p : List Byte) : Except Byte (Nat × Grant) :=
  let n := leAt p 1 1
  let g := grantOf p
  if d.grantBad p then .error 0x04
  else if !d.grantRefs p then .error 0x04
  else if d.partState n ≠ 0 then .error 0x09
  else if d.taken n g then .error 0x03
  else if d.quotasBad n g then .error 0x03
  else .ok (n, g)

/-! ## The commands (R372) -/

/-- A grant takes DDR that is not yet zeroed after power-on (R453). -/
def Dev.ddrWaits (d : Dev) (g : Grant) : Bool := !d.boot.ddrZeroed && g.ranges.any (fun r => r.kind == 17)

/-- PART_CREATE: R325, R326. A grant with DDR waits for its zeroing (R453). -/
def execPartCreate (h : CmdHdr) (s : State) : Out :=
  wenot 0x20 false (fun p _ d =>
    match d.grantCheck p with
    | .error st => .fail st d
    | .ok (n, g) => if d.ddrWaits g then .hold d else .ok (d.takeGrant n g) n) h s

/-- PART_RESET and PART_DESTROY: the partition must exist, and not be in such a transition already; the answer comes when it ends. -/
def Dev.partJob (d : Dev) (h : CmdHdr) (destroy : Bool) : FwRes :=
  let p := h.arg0.toNat
  if 7 < p then .fail 0x04 d
  else match d.partState p with
    | 0 => .fail 0x06 d
    | 1 | 2 => .hold (d.partResetBegin p destroy)
    | _ => .fail 0x09 d

/-- PART_DESTROY: R333. -/
def execPartDestroy (h : CmdHdr) (s : State) : Out := wenot 0x21 true (fun _ h d => d.partJob h true) h s
/-- PART_RESET: R332. -/
def execPartReset (h : CmdHdr) (s : State) : Out := wenot 0x22 true (fun _ h d => d.partJob h false) h s

end Sys2Proof.Machine
end

