-- ==== Sys2Proof/Machine/Windows.lean ====
section
/-! DEFINITION. Machine/Windows.lean: counter windows: what they may show and how they are configured (R432 to R434, R448 of 12_counters_snapshots_lifetime.md). -/
namespace Sys2Proof.Machine
open Sys2Proof

/-! ## Counter windows (R432, R433) -/

/-- The partition a counter window belongs to. -/
def Dev.winOwner (d : Dev) (w : Nat) : Option Nat := if d.rb .cntWinCfg3 w 27 then some (d.rf .cntWinCfg3 w 24 3) else none

/-- Whether every event from `first` on lies in the own group, or below the partitions' groups where the grant lets the owner read those. -/
def Dev.winEvents (d : Dev) (p first n : Nat) : Bool :=
  (decide (4608 + 64 * p ≤ first) && decide (first + n ≤ 4608 + 64 * p + 64)) ||
  (d.rb .ptnCaps p 0 && decide (first + n ≤ 4608)) ||
  (d.rb .ptnCaps p 0 && p == 0 && decide (first + n ≤ 4672))

/-- Whether a window's owner may read `n` values from `first` on of a set (R433). -/
def Dev.winMay (d : Dev) (p set first n : Nat) : Bool :=
  match set with
  | 0 => decide (first + n ≤ 5120) && d.winEvents p first n
  | 1 => decide (first + n ≤ 512)
  | 2 => decide (first + n ≤ 2560) && (List.range n).all (fun k => d.partOfCore (coreOf ((first + k) / 5)) == some p)
  | _ => false

/-- A value of a set, by its number, for a partition. -/
def Dev.setValue (d : Dev) (p set n : Nat) : Word :=
  match set with
  | 0 => d.counter n
  | 1 => tabGet d.cnt.prog 0 (512 * p + n)
  | _ => tabGet d.cnt.slot 0 n

/-- Live value `k` of a counter window; zero where it is not valid (R433). -/
def Dev.winValue (d : Dev) (w k : Nat) : Word :=
  match d.winOwner w with
  | some p => if d.rb .cntWinCfg0 w 31 && decide (k ≤ d.rf .cntWinCfg0 w 13 6) then d.setValue p (d.rf .cntWinCfg0 w 19 2) (d.rf .cntWinCfg0 w 0 13 + k) else 0
  | none => 0

/-! ## Configuration (R433, R434, R448) -/

/-- Period of a counter window's mirror in ns (CNT_WIN_CFG_3). -/
def Dev.mirrorStep (d : Dev) (w : Nat) : Nat := d.rf .cntWinCfg3 w 0 20 * 1000

/-- The mirror of a window starts one period from now, or stops where there is no period. -/
def Dev.mirrorStart (d : Dev) (w : Nat) : Dev :=
  let step := d.mirrorStep w
  let d := d.setRb .cntWinStat w 0 false
  { d with cnt := { d.cnt with mirrorAt := if step = 0 then tabDel w d.cnt.mirrorAt else tabIns w (d.ns + step) d.cnt.mirrorAt } }

/-- CNT_WIN_CFG_0 as it is stored: valid stays set only for a range that the owner may read. -/
def Dev.winRange (d : Dev) (w v : Nat) : Nat :=
  let keep := fld v 0 21
  let ok := match d.winOwner w with
    | some p => d.winMay p (fld v 19 2) (fld v 0 13) (fld v 13 6 + 1)
    | none => false
  keep + (if nbit v 31 && ok then 2 ^ 31 else 0)

/-- A configuration register of a window is written. -/
def Dev.winWrite (d : Dev) (w r v : Nat) : Dev :=
  match r with
  | 0 => d.setReg .cntWinCfg0 w (BitVec.ofNat 64 (d.winRange w v))
  | 1 => (d.setReg .cntWinCfg1 w (BitVec.ofNat 64 (v % 2 ^ 32))).mirrorStart w
  | 2 => (d.setReg .cntWinCfg2 w (BitVec.ofNat 64 (v % 2 ^ 16))).mirrorStart w
  | _ => (d.setRf .cntWinCfg3 w 0 20 (Nat.min (v % 2 ^ 20) 1000000)).mirrorStart w

end Sys2Proof.Machine
end

