-- ==== Sys2Proof/Machine/Slices.lean ====
section
/-! DEFINITION. Machine/Slices.lean: slice grants, the slice commands, and the save format (R334 to R345 of 09_partitions_and_slices.md, R373 of 10_wenot_command_set.md). The fields of a save entry stand in the order of R342's table; their offsets are the model's (log entry 13). -/
namespace Sys2Proof.Machine
open Sys2Proof

/-! ## The slice grant (R335) -/

def sliceGrantOf (p : List Byte) : SliceGrant :=
  let nr := leAt p 14 2
  { part := leAt p 1 1, port := leAt p 2 1, pasid := leAt p 4 4, vecFirst := leAt p 8 2, vecCount := leAt p 10 2, ovfLimit := leAt p 12 2,
    ranges := (List.range nr).map (fun k => rangeAt p (24 + 8 * k)),
    mbxs := (List.range (leAt p 16 2)).map (fun k => mbxAt p (24 + 8 * nr + 24 * k)) }

/-- A record of a slice grant: kinds 1, 3, 6, 7, 8 and 18, with the ring kind in `where` for kind 7. -/
def Dev.sliceRangeOk (d : Dev) (p : List Byte) (off : Nat) : Bool :=
  let r := rangeAt p off
  leAt p (off + 2) 2 == 0 && [1, 3, 6, 7, 8, 18].contains r.kind && (if r.kind = 7 then decide (r.where_ ≤ 3) else r.where_ == 0) &&
  (match d.kindSpan r.kind 0 with
    | some (lo, hi) => decide (lo ≤ r.first) && decide (r.first + r.count ≤ hi)
    | none => false)

/-- The numbers of a kind in a list of ranges, in order. -/
def numsOf (rs : List Range) (kind : Nat) : List Nat :=
  rs.flatMap (fun r => if r.kind = kind then (List.range r.count).map (· + r.first) else [])
/-- The submission rings of one ring kind. -/
def ringsOf (rs : List Range) (rk : Nat) : List Nat := numsOf (rs.filter (fun r => r.where_ == rk)) 7

/-- COPY rings and channels pair up on their islands. -/
def pairsOk (rs : List Range) : Bool :=
  let a := ringsOf rs 2
  let b := numsOf rs 6
  a.length == b.length && (a.zip b).all (fun x => x.1 / 4096 == x.2 / 256)

/-- A malformed slice grant, but for what depends on its partition. -/
def Dev.sliceGrantBad (d : Dev) (p : List Byte) : Bool :=
  let nr := leAt p 14 2
  let nm := leAt p 16 2
  let g := sliceGrantOf p
  decide (p.length < 24) || leAt p 0 1 != 1 || decide (7 < g.part) || decide (7 < g.port) || leAt p 3 1 != 0 || decide (2 ^ 20 ≤ g.pasid) ||
  g.vecCount == 0 || decide (2048 < g.vecFirst + g.vecCount) || g.ovfLimit == 0 || decide (256 < g.ovfLimit) || leAt p 18 6 != 0 ||
  p.length != 24 + 8 * nr + 24 * nm || !(List.range nr).all (fun k => d.sliceRangeOk p (24 + 8 * k)) || !pairsOk g.ranges

/-- The slices of a partition that exist, with their ports. -/
def Dev.slicePorts (d : Dev) (p : Nat) : List (Nat × Nat) :=
  d.ptn.slices.filterMap (fun e => e.2.grant.bind (fun g => if g.part = p then some (e.1, g.port) else none))

/-- What a slice grant must agree on with its partition's grant (R335, R347). -/
def Dev.sliceRefs (d : Dev) (p : List Byte) (pg : Grant) : Bool :=
  let g := sliceGrantOf p
  let c : MbxCtx := ⟨g.part, pg, some g.port, d.slicePorts g.part⟩
  let base := 24 + 8 * g.ranges.length
  pg.hostPorts.getLsbD g.port &&
  (List.range g.mbxs.length).all (fun k => c.recOk (mbxAt p (base + 24 * k)) (leAt p (base + 24 * k + 18) 6)) && mbxDistinct g.mbxs

/-- Two slice-grant ranges of one kind that share a number. -/
def Range.meetsNum (a b : Range) : Bool := a.kind == b.kind && decide (a.first < b.first + b.count) && decide (b.first < a.first + a.count)

/-- A resource outside the partition's pools, or one that another slice holds; a PASID bound already; too many slices (R334 to R336). -/
def Dev.sliceTaken (d : Dev) (g : SliceGrant) (pg : Grant) : Bool :=
  let gs := d.ptn.slices.filterMap (fun e => e.2.grant)
  let mine := gs.filter (fun x => x.part == g.part)
  !g.ranges.all (fun r => (List.range r.count).all (fun k => pg.ranges.any (fun q => q.covers r.kind 0 (r.first + k)))) ||
  g.ranges.any (fun r => mine.any (fun o => o.ranges.any (fun q => r.meetsNum q))) ||
  g.mbxs.any (fun m => d.mbxValid m.mbx) || mine.any (fun x => x.port == g.port && x.pasid == g.pasid) ||
  decide (pg.maxSlices ≤ mine.length) || decide (4096 ≤ gs.length)

/-- R336: a slice grant's checks in order. -/
def Dev.sliceCheck (d : Dev) (p : List Byte) : Except Byte SliceGrant :=
  let g := sliceGrantOf p
  if d.sliceGrantBad p then .error 0x04
  else match (d.part g.part).grant with
    | none => .error 0x06
    | some pg =>
      if !d.sliceRefs p pg then .error 0x04
      else match d.partReady g.part with
        | some st => .error st
        | none => if d.sliceTaken g pg then .error 0x03 else .ok g

/-- The lowest free slice number. -/
def Dev.freeSlice (d : Dev) : Nat := ((List.range 4096).find? (fun s => (d.slc s).grant.isNone)).getD 0

/-- A slice is made from its grant, in a state: its owner fields, registers and mailboxes (R335). -/
def Dev.sliceMake (d : Dev) (s : Nat) (g : SliceGrant) (st : Nat) : Dev :=
  let blank : Slice := {}
  let d := d.setSlice s { blank with grant := some g }
  let d := d.setReg .slcState s (BitVec.ofNat 64 (st + g.part * 8 + g.port * 64 + g.pasid * 4096))
  let d := (d.setReg .slcVec s (BitVec.ofNat 64 (g.vecFirst + (g.vecCount - 1) * 2 ^ 16))).setReg .slcOvfLim s (BitVec.ofNat 64 g.ovfLimit)
  let pairs := (ringsOf g.ranges 2).zip (numsOf g.ranges 6)
  let chanOf := fun n => match pairs.find? (fun x => x.1 == n) with | some x => x.2 % 256 | none => 0
  let d := (List.range 4).foldl (fun d rk => (ringsOf g.ranges rk).foldl (fun d n =>
    d.setReg .ringSqOwner n (BitVec.ofNat 64 (s + g.part * 2 ^ 12 + rk * 2 ^ 15 + 2 ^ 17 + (if rk = 2 then chanOf n else 0) * 2 ^ 18))) d) d
  let d := (numsOf g.ranges 8).foldl (fun d n => d.setReg .ringCqOwner n (BitVec.ofNat 64 (s + g.part * 2 ^ 12 + 2 ^ 15))) d
  let d := pairs.foldl (fun d x => (d.setRf .dmaChOwner x.2 4 15 (1 + x.1 * 2)).setRb .dmaChStat x.2 4 true) d
  let d := (d.resetSliceRegs s).countSlices g.part
  g.mbxs.foldl (fun d r => d.configMbx r g.part (some s)) d

/-- SLICE_CREATE: R336. -/
def execSliceCreate (h : CmdHdr) (s : State) : Out :=
  wenot 0x30 false (fun p _ d =>
    match d.sliceCheck p with
    | .error st => .fail st d
    | .ok g =>
      let n := d.freeSlice
      .ok (d.sliceMake n g 1) n) h s

/-! ## Commands that name a slice (R337, R373) -/

/-- A slice command: its slice number, then the state table, then the state of the slice's partition unless the command is exempt (R337, R367). -/
def Dev.onSlice (d : Dev) (h : CmdHdr) (states : List Nat) (exempt : Bool) (f : Nat → FwRes) : FwRes :=
  let s := h.arg0.toNat
  if 4095 < s then .fail 0x04 d
  else if !states.contains (d.sliceState s) then .fail 0x09 d
  else if !exempt && d.partState (d.slicePart s) != 1 then .fail 0x09 d
  else f s

/-- SLICE_DESTROY: R345. One that meets a reset in progress waits for its end (R340). -/
def execSliceDestroy (h : CmdHdr) (s : State) : Out :=
  wenot 0x31 true (fun _ h d => d.onSlice h [1, 2, 3, 4, 5, 6] true (fun n =>
    if d.sliceState n = 3 then .hold (d.setSlice n { d.slc n with waiting := some 0x31 })
    else .hold ((d.setSlice n { d.slc n with destroy := true }).sliceResetBegin n))) h s

/-- SLICE_RESET: R338. -/
def execSliceReset (h : CmdHdr) (s : State) : Out :=
  wenot 0x32 true (fun _ h d => d.onSlice h [1, 2, 3, 4, 5, 6] false (fun n =>
    if d.sliceState n = 3 then .hold (d.setSlice n { d.slc n with waiting := some 0x32 })
    else .hold (d.sliceResetBegin n))) h s

/-- SLICE_FREEZE: R341. -/
def execSliceFreeze (h : CmdHdr) (s : State) : Out :=
  wenot 0x33 true (fun _ h d => d.onSlice h [1, 4] false (fun n =>
    .hold (((d.setSliceState n 4).setSlice n { d.slc n with began := d.time.tick }).frzStat n))) h s

/-- SLICE_THAW: R345. -/
def execSliceThaw (h : CmdHdr) (s : State) : Out :=
  wenot 0x36 true (fun _ h d => d.onSlice h [4, 5, 6] false (fun n => .ok ((d.setSliceState n 1).sliceDrain n))) h s

/-! ## Save (R342, R343) -/

/-- The position of a number in a list, 0xFFFF where it is not there. -/
def posIn (l : List Nat) (n : Nat) : Nat := match l.findIdx? (· == n) with | some k => k | none => 0xFFFF

/-- A section: its header and its entries of `size` bytes, padded. -/
def section_ (type size : Nat) (es : List (List Byte)) : List Byte :=
  leBytes 2 type ++ leBytes 2 0 ++ leBytes 4 size ++ leBytes 4 es.length ++ leBytes 4 0 ++ (es.map (fun e => slice e 0 size)).flatten

/-- Entry of a submission ring. -/
def Dev.saveSq (d : Dev) (g : SliceGrant) (n : Nat) : List Byte :=
  let rk := d.sqKind n
  let st := d.reg .ringSqStat n
  leBytes 2 (posIn (ringsOf g.ranges rk) n) ++ [BitVec.ofNat 8 rk, BitVec.ofNat 8 (d.rf .ringSqCfg n 1 5)] ++
  leBytes 8 (d.reg .ringSqBase n).toNat ++ leBytes 4 (d.reg .ringSqCfg n).toNat ++ leBytes 4 (d.reg .ringSqPoll n).toNat ++
  leBytes 8 (d.reg .ringSqCons n).toNat ++ leBytes 4 (d.reg .ringSqRoute n).toNat ++ leBytes 8 (d.reg .ringSqInbox n).toNat ++
  leBytes 2 (wf st 0 16) ++ [BitVec.ofNat 8 (wf st 16 2 + 4 * d.rf .ringSqCfg n 0 1 + 8 * wf st 20 1), 0] ++
  leBytes 2 (posIn (numsOf g.ranges 8) (d.rf .ringSqCfg n 8 14))
/-- Entry of a completion ring, its vector relative to the slice's first. -/
def Dev.saveCq (d : Dev) (g : SliceGrant) (n : Nat) : List Byte :=
  let irq := d.reg .ringCqIrq n
  leBytes 2 (posIn (numsOf g.ranges 8) n) ++ [BitVec.ofNat 8 (d.rf .ringCqCfg n 1 5), 0] ++
  leBytes 8 (d.reg .ringCqBase n).toNat ++ leBytes 4 (d.reg .ringCqCfg n).toNat ++ leBytes 4 (d.reg .ringCqHead n).toNat ++
  leBytes 4 (wset irq 0 11 (wf irq 0 11 + 2048 - g.vecFirst)).toNat ++ leBytes 2 (d.rf .ringCqStat n 0 16) ++ leBytes 2 (d.rf .ringCqStat n 16 1)
/-- Entry of an overflow completion. -/
def saveOvf (g : SliceGrant) (c : Cqe) : List Byte := leBytes 2 (posIn (numsOf g.ranges 8) c.cq) ++ leBytes 6 0 ++ c.bytes 0 0
/-- Entry of a transmit queue. -/
def Dev.saveTxq (d : Dev) (g : SliceGrant) (q : Nat) : List Byte :=
  leBytes 4 (posIn (numsOf g.ranges 3) q) ++ leBytes 4 (d.reg .schTxqDrr q).toNat ++ leBytes 4 (d.reg .schTxqLim q).toNat ++ leBytes 4 (d.reg .schTxqCfg q).toNat
/-- A route of a slice's side leaves with its vector relative to the slice's first. -/
def relRoute (first : Nat) (r : Nat) (back : Bool) : Nat :=
  if fld r 0 2 = 3 then setFld r 2 11 (if back then fld r 2 11 + first else fld r 2 11 + 2048 - first) else r
/-- The sides of a mailbox that are a slice's: sender, receiver. -/
def Dev.mbxSides (d : Dev) (s m : Nat) : Bool × Bool :=
  ((d.sndEnd m).kind == 3 && (d.sndEnd m).id == s, (d.rcvEnd m).kind == 3 && (d.rcvEnd m).id == s)
/-- Entry of a mailbox. -/
def Dev.saveMbx (d : Dev) (s : Nat) (g : SliceGrant) (k m : Nat) : List Byte :=
  let (snd, rcv) := d.mbxSides s m
  let bits := sideBits snd rcv
  let x := d.mbx m
  leBytes 2 k ++ [BitVec.ofNat 8 (b2n snd + 2 * b2n rcv), BitVec.ofNat 8 (d.rf .mbxStat m 0 2)] ++ leBytes 4 0 ++ leBytes 8 x.ptr.toNat ++
  leBytes 4 x.len.toNat ++ leBytes 4 (d.rf .mbxDbPend m 0 32 &&& bits) ++ leBytes 4 (d.rf .mbxDbMask m 0 32 &&& bits) ++ leBytes 4 0 ++
  ((List.range 32).map (fun b =>
    let r := (d.reg .mbxRoute (32 * m + b)).toNat
    leBytes 4 (if nbit bits b then relRoute g.vecFirst r false else r))).flatten
/-- Entry of a counter window. -/
def Dev.saveWin (d : Dev) (g : SliceGrant) (w : Nat) : List Byte :=
  leBytes 2 (posIn (numsOf g.ranges 18) w) ++ leBytes 4 (d.reg .cntWinCfg0 w).toNat ++ leBytes 4 (d.reg .cntWinCfg1 w).toNat ++
  leBytes 2 (d.rf .cntWinCfg2 w 0 16) ++ leBytes 4 (d.rf .cntWinCfg3 w 0 20)



/-- The state of a slice as SLICE_SAVE writes it. -/
def Dev.sliceSave (d : Dev) (s : Nat) (g : SliceGrant) : List Byte :=
  let sqs := numsOf g.ranges 7
  let kinds := (List.range 4).foldl (fun a k => if (ringsOf g.ranges k).isEmpty then a else a + 2 ^ k) 0
  let secs := [
    section_ 1 48 (sqs.map (fun n => d.saveSq g n)),
    section_ 2 32 ((numsOf g.ranges 8).map (fun n => d.saveCq g n)),
    section_ 3 24 ((d.overflow s).map (saveOvf g)),
    section_ 4 16 ((numsOf g.ranges 3).map (fun q => d.saveTxq g q)),
    section_ 5 160 ((List.range g.mbxs.length).zip (g.mbxs.map (·.mbx)) |>.map (fun (e : Nat × Nat) => d.saveMbx s g e.1 e.2)),
    section_ 6 64 ((numsOf g.ranges 1).map (fun n => (d.slot n).record n)),
    section_ 7 16 ((numsOf g.ranges 18).map (fun w => d.saveWin g w))]
  let body := secs.flatten
  let head := [0x4D, 0x59, 0x53, 0x4C, 1, 0] ++ leBytes 2 64 ++ leBytes 8 (64 + body.length) ++ leBytes 8 Config.deviceSerial.toNat ++
    [0xB1, BitVec.ofNat 8 kinds] ++ leBytes 2 secs.length ++ leBytes 4 g.pasid ++ leBytes 8 (timeWord d.ns).toNat ++ leBytes 2 g.ovfLimit ++
    leBytes 2 g.vecCount ++ leBytes 4 0
  let whole := head ++ leBytes 8 0 ++ leBytes 8 0 ++ body
  patch whole 48 (leBytes 8 (crc64 whole))

/-- SLICE_SAVE: R342. It only reads, so the state of the slice's partition does not refuse it (R367). -/
def execSliceSave (h : CmdHdr) (s : State) : Out :=
  wenot 0x34 true (fun _ h d => d.onSlice h [5] true (fun n =>
    match (d.slc n).grant with
    | none => .fail 0x09 d
    | some g =>
      let out := d.sliceSave n g
      .answer { r0 := BitVec.ofNat 64 out.length, out := out } d)) h s

/-! ## Restore (R344) -/

/-- The sections of a save: type, optional, entry size, entries. -/
def parseSections : Nat → List Byte → Option (List (Nat × Bool × Nat × List (List Byte)))
  | 0, bs => if bs.isEmpty then some [] else none
  | n + 1, bs =>
    let size := leAt bs 4 4
    let cnt := leAt bs 8 4
    if bs.length < 16 + size * cnt ∨ leAt bs 12 4 ≠ 0 then none
    else (parseSections n (bs.drop (16 + size * cnt))).map (fun r =>
      (leAt bs 0 2, nbit (leAt bs 2 2) 0, size, (List.range cnt).map (fun k => slice bs (16 + size * k) size)) :: r)

/-- Entry size of a known section. -/
def entrySize (type : Nat) : Option Nat :=
  match type with | 1 => some 48 | 2 => some 32 | 3 => some 24 | 4 => some 16 | 5 => some 160 | 6 => some 64 | 7 => some 16 | _ => none

/-- Check 1 of R344: the save's known sections by type, or none. -/
def parseSave (bs : List Byte) : Option (Nat → List (List Byte)) :=
  let n := leAt bs 8 8
  let bs := bs.take n
  if bs.length < 64 ∨ bs.length ≠ n ∨ leAt bs 0 4 ≠ 0x4C53594D ∨ leAt bs 4 1 ≠ 1 ∨ leAt bs 6 2 ≠ 64 ∨
      crc64 (patch bs 48 (leBytes 8 0)) ≠ leAt bs 48 8 then none
  else match parseSections (leAt bs 26 2) (bs.drop 64) with
    | none => none
    | some ss =>
      let ok := fun (x : Nat × Bool × Nat × List (List Byte)) => match entrySize x.1 with
        | some n => x.2.2.1 == n
        | none => x.2.1
      if ss.all ok then
        some (fun t => (ss.filter (fun (x : Nat × Bool × Nat × List (List Byte)) => x.1 == t)).flatMap (fun x => x.2.2.2))
      else none

/-- Check 2: the grant holds what the save uses; every position falls within it. -/
def saveFits (g : SliceGrant) (sec : Nat → List (List Byte)) : Bool :=
  let fits := fun t n => (sec t).all (fun e => decide (leAt e 0 2 < n)) && decide ((sec t).length ≤ n)
  let cqs := (numsOf g.ranges 8).length
  (sec 1).all (fun e => decide (leAt e 0 2 < (ringsOf g.ranges (leAt e 2 1)).length) && (leAt e 44 2 == 0xFFFF || decide (leAt e 44 2 < cqs))) &&
  fits 2 cqs && (sec 3).all (fun e => decide (leAt e 0 2 < cqs)) && fits 4 (numsOf g.ranges 3).length && fits 5 g.mbxs.length &&
  decide ((sec 6).length ≤ (numsOf g.ranges 1).length) && fits 7 (numsOf g.ranges 18).length && decide ((sec 3).length ≤ g.ovfLimit)

/-- Checks 3 and 4: the key references against the target's slots. -/
def Dev.keyRefs (d : Dev) (g : SliceGrant) (sec : Nat → List (List Byte)) : Option Byte :=
  let ks := (sec 6).zip (numsOf g.ranges 1)
  if ks.any (fun k =>
      let r := (d.slot k.2).record k.2
      slice r 4 2 != slice k.1 4 2 || slice r 28 4 != slice k.1 28 4) then some 0x04
  else if ks.any (fun k => decide ((d.slot k.2).inv < leAt k.1 40 8)) then some 0x05
  else none

/-- A submission ring takes its saved state. -/
def Dev.restoreSq (d : Dev) (g : SliceGrant) (e : List Byte) : Dev :=
  match (ringsOf g.ranges (leAt e 2 1))[leAt e 0 2]? with
  | none => d
  | some n =>
    let cq := (numsOf g.ranges 8).getD (leAt e 44 2) 0
    let d := (d.setReg .ringSqBase n (BitVec.ofNat 64 (leAt e 4 8))).setReg .ringSqCfg n (BitVec.ofNat 64 (setFld (leAt e 12 4) 8 14 cq))
    let d := (d.setReg .ringSqPoll n (BitVec.ofNat 64 (leAt e 16 4))).setReg .ringSqCons n (BitVec.ofNat 64 (leAt e 20 8))
    let d := (d.setReg .ringSqRoute n (BitVec.ofNat 64 (leAt e 28 4))).setReg .ringSqInbox n (BitVec.ofNat 64 (leAt e 32 8))
    let f := leAt e 42 1
    d.setReg .ringSqStat n (BitVec.ofNat 64 (leAt e 40 2 + f % 4 * 2 ^ 16 + f / 8 % 2 * 2 ^ 20))
/-- A completion ring takes its saved state. -/
def Dev.restoreCq (d : Dev) (g : SliceGrant) (e : List Byte) : Dev :=
  match (numsOf g.ranges 8)[leAt e 0 2]? with
  | none => d
  | some n =>
    let irq := leAt e 20 4
    let d := (d.setReg .ringCqBase n (BitVec.ofNat 64 (leAt e 4 8))).setReg .ringCqCfg n (BitVec.ofNat 64 (leAt e 12 4))
    let d := d.setReg .ringCqHead n (BitVec.ofNat 64 (leAt e 16 4))
    let v := fld irq 0 11 + g.vecFirst
    let ok := fld irq 0 11 < g.vecCount
    let d := d.setReg .ringCqIrq n (BitVec.ofNat 64 (setFld (setFld irq 0 11 v) 11 1 (if ok then fld irq 11 1 else 0)))
    d.setReg .ringCqStat n (BitVec.ofNat 64 (leAt e 24 2 + leAt e 26 2 % 2 * 2 ^ 16))
/-- An overflow entry of a save. -/
def cqeOf (cq : Nat) (b : List Byte) : Cqe :=
  ⟨cq, BitVec.ofNat 16 (leAt b 0 2), BitVec.ofNat 8 (leAt b 2 1), leAt b 3 1 / 4, BitVec.ofNat 16 (leAt b 4 2), BitVec.ofNat 16 (leAt b 6 2), BitVec.ofNat 64 (leAt b 8 8)⟩
/-- The overflow of a slice as saved. -/
def Dev.restoreOvf (d : Dev) (s : Nat) (g : SliceGrant) (es : List (List Byte)) : Dev :=
  let cqs := numsOf g.ranges 8
  let l := es.map (fun e => cqeOf (cqs.getD (leAt e 0 2) 0) (slice e 8 16))
  cqs.foldl (fun d n => d.overflowStat s n) (d.setOverflow s (cqs.headD 0) l)
/-- A mailbox's message and the slice's side of it as saved. -/
def Dev.restoreMbx (d : Dev) (s : Nat) (g : SliceGrant) (e : List Byte) : Dev :=
  match (g.mbxs.map (·.mbx))[leAt e 0 2]? with
  | none => d
  | some m =>
    let (snd, rcv) := d.mbxSides s m
    let bits := sideBits snd rcv
    let mix := fun (r : Reg) (v : Nat) (d : Dev) => d.setReg r m (BitVec.ofNat 64 (d.rf r m 0 32 - (d.rf r m 0 32 &&& bits) + (v &&& bits)))
    let d := d.setMbx m { d.mbx m with ptr := BitVec.ofNat 64 (leAt e 8 8), len := BitVec.ofNat 32 (leAt e 16 4) }
    let d := mix .mbxDbMask (leAt e 24 4) (mix .mbxDbPend (leAt e 20 4) (d.setRf .mbxStat m 0 2 (leAt e 3 1)))
    ((List.range 32).foldl (fun d b =>
      if nbit bits b then d.setReg .mbxRoute (32 * m + b) (BitVec.ofNat 64 (relRoute g.vecFirst (leAt e (32 + 4 * b) 4) true)) else d) d).faceShow m
/-- A transmit queue's quantum and limit as saved. -/
def Dev.restoreTxq (d : Dev) (g : SliceGrant) (e : List Byte) : Dev :=
  match (numsOf g.ranges 3)[leAt e 0 2]? with
  | none => d
  | some q => (d.setReg .schTxqDrr q (BitVec.ofNat 64 (leAt e 4 4))).setReg .schTxqLim q (BitVec.ofNat 64 (leAt e 8 4))
/-- A counter window's configuration as saved. -/
def Dev.restoreWin (d : Dev) (g : SliceGrant) (e : List Byte) : Dev :=
  match (numsOf g.ranges 18)[leAt e 0 2]? with
  | none => d
  | some w =>
    ((((d.winWrite w 0 (leAt e 2 4)).winWrite w 1 (leAt e 6 4)).winWrite w 2 (leAt e 10 2)).winWrite w 3 (leAt e 12 4))

/-- A save applied to a slice made for it. -/
def Dev.sliceLoad (d : Dev) (s : Nat) (g : SliceGrant) (sec : Nat → List (List Byte)) : Dev :=
  let d := (sec 1).foldl (fun d e => d.restoreSq g e) d
  let d := (sec 2).foldl (fun d e => d.restoreCq g e) d
  let d := (sec 4).foldl (fun d e => d.restoreTxq g e) d
  let d := (sec 5).foldl (fun d e => d.restoreMbx s g e) d
  let d := (sec 7).foldl (fun d e => d.restoreWin g e) d
  d.restoreOvf s g (sec 3)

/-- SLICE_RESTORE: R344. `save` is what the host memory at arg0 holds; arg1 says how much of it is read. -/
def execSliceRestore (h : CmdHdr) (save : List Byte) (s : State) : Out :=
  wenot 0x35 false (fun p h d =>
    match d.sliceCheck p with
    | .error st => .fail st d
    | .ok g =>
      match parseSave (save.take h.arg1.toNat) with
      | none => .fail 0x04 d
      | some sec =>
        if !saveFits g sec then .fail 0x03 d
        else match d.keyRefs g sec with
          | some st => .fail st d
          | none =>
            let n := d.freeSlice
            .ok ((d.sliceMake n g 6).sliceLoad n g sec) n) h s

end Sys2Proof.Machine
end

