-- ==== Sys2Proof/Machine/Life.lean ====
section
/-! DEFINITION. Machine/Life.lean: the serial memory and the lifetime records: thermal age, checkpoints, the log, their restoration (R442 to R447 of 12_counters_snapshots_lifetime.md, R455, R456 of 13_startup_and_configuration.md). -/
namespace Sys2Proof.Machine
open Sys2Proof

/-! ## Serial memory (R455, R456) -/

/-- The serial memory is usable (R455). -/
def Dev.smemOk (d : Dev) : Bool := d.board.smem && decide (16777216 ≤ d.board.smemSize)
/-- Bytes of the serial memory; an erased byte is 0xFF. -/
def Dev.flashRead (d : Dev) (a n : Nat) : List Byte := (List.range n).map (fun k => tabGet d.board.flash 0xFF (a + k))
/-- Bytes are programmed, pages of 256 bytes each: programming only clears bits. -/
def Dev.flashProgram (d : Dev) (a : Nat) (bs : List Byte) : Dev :=
  let fl := (bs.foldl (fun (x : Tab Byte × Nat) b => (tabPut x.1 0xFF x.2 (tabGet x.1 0xFF x.2 &&& b), x.2 + 1)) (d.board.flash, a)).1
  ({ d with board := { d.board with flash := fl } }).countBy 19 ((a + bs.length + 255) / 256 - a / 256)
/-- The region of R444's erase counts that an address lies in. -/
def flashRegion (a : Nat) : Nat :=
  if a < 0x1000 then 0 else if a < 0x400000 then 1 else if a < 0x800000 then 2 else if a < 0xC00000 then 3
  else if a < 0xD00000 then 4 else if a < 0xF00000 then 5 else 6
/-- A lifetime count moved up by one, saturating at 32 bits (R442). -/
def sat32 (t : Tab Nat) (k : Nat) : Tab Nat := tabPut t 0 k (Nat.min (2 ^ 32 - 1) (tabGet t 0 k + 1))
/-- A 4 KiB sector is erased and counted (R428, R444). -/
def Dev.flashErase (d : Dev) (a : Nat) : Dev :=
  let lo := a / 4096 * 4096
  let d := { d with
    board := { d.board with flash := d.board.flash.filter (fun e => e.1 < lo || lo + 4096 ≤ e.1) }
    life := { d.life with
      erases := sat32 d.life.erases (flashRegion a)
      logErases := if flashRegion a = 3 then sat32 d.life.logErases ((a - 0x800000) / 4096) else d.life.logErases } }
  d.count 18
/-- A range of the serial memory is erased. -/
def Dev.flashBlank (d : Dev) (lo n : Nat) : Bool := !d.board.flash.any (fun e => decide (lo ≤ e.1) && decide (e.1 < lo + n))

/-- Supply warning holds (CFG_SUPPLY.state). -/
def Dev.warned (d : Dev) : Bool := d.rf .cfgSupply 0 0 2 != 0

/-- The next sector of the lifetime log. -/
def logAhead (pos : Nat) : Nat := 0x800000 + (pos / 8 + 1) % 1024 * 4096
/-- LIFE_STAT.erased sector ready. -/
def Dev.lifeReady (d : Dev) : Dev :=
  let a := logAhead (d.rf .lifePos 0 0 13)
  d.setRb .lifeStat 0 0 (d.smemOk && !d.life.erases_.contains a && d.flashBlank a 4096)

/-- A sector is to be erased: at once, or, in supply warning, when that ends (R446, R474). -/
def Dev.eraseDue (d : Dev) (a : Nat) : Dev :=
  { d with life := { d.life with erases_ := d.life.erases_ ++ [a], eraseOn := d.life.eraseOn || (d.life.erases_.isEmpty && !d.warned) } }

/-- LOG_ERASE_DONE: the erase under way finishes, and the next one starts unless supply warning holds it (R446, R474). -/
def execLogEraseDone (s : State) : Out :=
  eventOn (fun d =>
    match d.life.erases_ with
    | [] => d
    | a :: as =>
      if !d.life.eraseOn then d
      else
        let d := { d with life := { d.life with erases_ := as, eraseOn := !as.isEmpty && !d.warned } }
        (d.flashErase a).lifeReady) s

/-! ## Thermal age (R443) -/

/-- The factor of R443 in units of 2^-24, from -40 degrees Celsius on. -/
def thermal0 : List Nat := [88, 102, 118, 137, 158, 183, 211, 243, 279, 321, 368, 422, 483, 553, 632, 722, 823, 937, 1067, 1213, 1378, 1563, 1771, 2006]
/-- The factor of R443 in units of 2^-24, from -16 degrees Celsius on. -/
def thermal1 : List Nat := [2269, 2565, 2896, 3266, 3681, 4145, 4663, 5241, 5886, 6604, 7403, 8292, 9280, 10377, 11594, 12943, 14437, 16091, 17921, 19943, 22176, 24640, 27358, 30353]
/-- The factor of R443 in units of 2^-24, from 8 degrees Celsius on. -/
def thermal2 : List Nat := [33650, 37279, 41268, 45653, 50467, 55749, 61543, 67891, 74844, 82453, 90775, 99871, 109808, 120655, 132489, 145392, 159452, 174763, 191427, 209553, 229257, 250665, 273910, 299137]
/-- The factor of R443 in units of 2^-24, from 32 degrees Celsius on. -/
def thermal3 : List Nat := [326499, 356159, 388294, 423092, 460751, 501488, 545528, 593116, 644511, 699990, 759845, 824390, 893959, 968905, 1049604, 1136456, 1229887, 1330345, 1438310, 1554289, 1678819, 1812469, 1955843, 2109579]
/-- The factor of R443 in units of 2^-24, from 56 degrees Celsius on. -/
def thermal4 : List Nat := [2274353, 2450881, 2639919, 2842264, 3058763, 3290307, 3537838, 3802349, 4084889, 4386564, 4708538, 5052042, 5418368, 5808879, 6225009, 6668268, 7140243, 7642604, 8177105, 8745591, 9349999, 9992362, 10674816, 11399603]
/-- The factor of R443 in units of 2^-24, from 80 degrees Celsius on. -/
def thermal5 : List Nat := [12169072, 12985688, 13852037, 14770827, 15744896, 16777216, 17870899, 19029204, 20255538, 21553468, 22926724, 24379202, 25914980, 27538313, 29253649, 31065633, 32979112, 34999146, 37131014, 39380223, 41752514, 44253874, 46890541, 49669016]
/-- The factor of R443 in units of 2^-24, from 104 degrees Celsius on. -/
def thermal6 : List Nat := [52596070, 55678754, 58924410, 62340678, 65935509, 69717176, 73694280, 77875766, 82270932, 86889442, 91741336, 96837043, 102187394, 107803635, 113697436, 119880912, 126366631, 133167628, 140297423, 147770032, 155599984, 163802337, 172392690, 181387205]
/-- The factor of R443 in units of 2^-24, from 128 degrees Celsius on. -/
def thermal7 : List Nat := [190802618, 200656258, 210966063, 221750602, 233029086, 244821391, 257148074, 270030395, 283490333, 297550608, 312234701, 327566874, 343572190, 360276537, 377706647, 395890121, 414855448, 434632034, 455250217, 476741299, 499137565, 522472312, 546779869]
/-- The factor of R443 for every whole degree from -40 to 150. -/
def thermalFactors : List Nat := thermal0 ++ thermal1 ++ thermal2 ++ thermal3 ++ thermal4 ++ thermal5 ++ thermal6 ++ thermal7

/-- The thermal age factor of a temperature in whole degrees, limited to -40 and 150. -/
def thermalFactor (t : Int) : Nat := thermalFactors.getD (Int.toNat (min 190 (t + 40))) 0

/-- An island's temperature in whole degrees, its hottest valid reading rounded down; none without a valid sensor (R493). -/
def Dev.islTemp (d : Dev) (i : Nat) : Option Int :=
  if d.rb .thermHot i 15 then
    let v := d.rf .thermHot i 0 12
    some ((if v < 2048 then (v : Int) else (v : Int) - 4096) / 4)
  else none

/-- One second of an island's thermal age, and its peak (R443). -/
def Dev.ageIsland (d : Dev) (i : Nat) : Dev :=
  match d.islTemp i with
  | none => d
  | some t =>
    let age := Nat.min (2 ^ 64 - 1) (tabGet d.life.age 0 i + thermalFactor t)
    let peak := Nat.max (tabGet d.life.peak 0 i) (Int.toNat (min 255 (t + 40)))
    { d with life := { d.life with age := tabPut d.life.age 0 i age, peak := tabPut d.life.peak 0 i peak } }

/-- THERMAL_AGE_UPDATE: a second of the reference clock has passed (R442, R443). -/
def execThermalAgeUpdate (s : State) : Out :=
  eventAny (fun d =>
    if decide (d.time.tick < d.life.ageAt + 250000000) then d
    else
      let one := fun (b : Bool) (n : Nat) => Nat.min (2 ^ 64 - 1) (n + b2n b)
      let d := { d with life := { d.life with
        ageAt := d.life.ageAt + 250000000, vinSecs := one d.life.vin d.life.vinSecs, vauxSecs := one d.life.vaux d.life.vauxSecs } }
      if d.life.vin && d.life.vaux then (List.range 8).foldl (fun d i => d.ageIsland i) d else d) s

/-! ## The record (R444) -/

/-- Eight-byte fields of a table, keys 0 to n - 1. -/
def tabBytes (w n : Nat) (t : Tab Nat) : List Byte := (List.range n).flatMap (fun k => leBytes w (tabGet t 0 k))

/-- The lifetime record of a kind, with a checkpoint number and a flag that a log write was skipped. -/
def Dev.lifeRecord (d : Dev) (kind seq : Nat) : List Byte :=
  let l := d.life
  let flags := b2n (d.rb .timeStatus 0 0) + 2 * b2n (d.rb .lifeStat 0 1) + 4 * b2n l.skipped
  let head := [0x4C, 0x49, 0x46, 0x45, 1, BitVec.ofNat 8 kind, BitVec.ofNat 8 flags, 0] ++ leBytes 8 seq ++ leBytes 8 (timeWord d.ns).toNat ++
    leBytes 2 (d.sec / 2 ^ 32) ++ leBytes 6 0 ++ leBytes 6 l.firstOn ++ leBytes 6 l.lastCkpt ++ leBytes 6 l.hwm ++ leBytes 2 0 ++
    leBytes 4 l.holdSecs ++ leBytes 8 0
  let body := leBytes 8 l.vinSecs ++ leBytes 8 l.vauxSecs ++ tabBytes 8 8 l.age ++ tabBytes 1 8 l.peak ++ leBytes 4 l.dips ++ leBytes 4 l.sags ++
    tabBytes 4 10 l.resets ++ tabBytes 4 4 l.eth ++ tabBytes 4 8 l.host ++ tabBytes 4 7 l.erases ++
    leBytes 4 (l.logErases.foldl (fun a e => Nat.max a e.2) 0) ++ leBytes 8 l.keyUses ++ leBytes 8 l.keyInvs ++ leBytes 8 l.faults ++ leBytes 208 0
  let whole := head ++ body
  patch whole 56 (leBytes 8 (crc64 whole))

/-- A record whose magic and check hold (R447). -/
def recordOk (r : List Byte) : Bool :=
  r.length == 512 && r.take 4 == [0x4C, 0x49, 0x46, 0x45] && crc64 (patch r 56 (leBytes 8 0)) == leAt r 56 8
/-- The number of a record's checkpoint. -/
def recordSeq (r : List Byte) : Nat := leAt r 8 8

/-! ## Checkpoints and the log (R445, R446) -/

/-- Address of a log entry. -/
def logAddr (k : Nat) : Nat := 0x800000 + k % 8192 * 512

/-- A log entry is programmed at the write position where that is erased, and the sector after one that the position enters is erased (R446). -/
def Dev.logWrite (d : Dev) (r : List Byte) : Dev :=
  let pos := d.rf .lifePos 0 0 13
  let a := logAddr pos
  if d.smemOk && !d.life.erases_.contains (a / 4096 * 4096) && d.flashBlank a 512 then
    let d := { d with life := { d.life with skipped := false } }
    let next := (pos + 1) % 8192
    let d := (d.flashProgram a r).setReg .lifePos 0 (BitVec.ofNat 64 next)
    let d := if next % 8 = 0 && !d.flashBlank (logAhead next) 4096 then d.eraseDue (logAhead next) else d
    d.lifeReady
  else { (d.incRf .lifeStat 0 16 16 1) with life := { d.life with skipped := true } }

/-- A record written in this tick takes a higher kind: the retention slot and the log entry that hold it (R445). -/
def Dev.raiseKind (d : Dev) (kind : Nat) : Dev :=
  let seq := (d.reg .lifeSeq 0).toNat
  let is := fun (x : Option (List Byte)) => x.any (fun r => recordSeq r == seq && decide (leAt r 5 1 < kind))
  let r := d.lifeRecord kind seq
  let a := logAddr (d.rf .lifePos 0 0 13 + 8191)
  let inLog := recordSeq (d.flashRead a 512) == seq && recordOk (d.flashRead a 512)
  if is d.life.rec0 || is d.life.rec1 then
    let d := { d with life := { d.life with
      rec0 := if is d.life.rec0 then some r else d.life.rec0, rec1 := if is d.life.rec1 then some r else d.life.rec1 } }
    if inLog then
      let fl := (r.foldl (fun (x : Tab Byte × Nat) b => (tabPut x.1 0xFF x.2 b, x.2 + 1)) (d.board.flash, a)).1
      { d with board := { d.board with flash := fl } }
    else d
  else d

/-- A checkpoint of a kind: the record goes to the older slot of retention memory and to the log (R445). Kinds that fall on one tick make one record, with the highest. -/
def Dev.checkpoint (d : Dev) (kind : Nat) : Dev :=
  let again := d.life.ckptAt == some d.time.tick
  let seq := (d.reg .lifeSeq 0).toNat + 1
  if again then d.raiseKind kind
  else
    let valid := d.rb .timeStatus 0 0
    let d := { d with life := { d.life with
      ckptAt := some d.time.tick
      firstOn := (if valid && d.life.firstOn = 0 then d.sec else d.life.firstOn), lastCkpt := (if valid then d.sec else 0) } }
    let d := (d.setReg .lifeSeq 0 (BitVec.ofNat 64 seq)).setReg .lifeLast 0 (timeWord d.ns)
    let r := d.lifeRecord kind seq
    let old := fun (x : Option (List Byte)) => (match x with | some r => recordSeq r + 1 | none => 0 : Nat)
    let d := if decide (old d.life.rec0 ≤ old d.life.rec1) then { d with life := { d.life with rec0 := some r } } else { d with life := { d.life with rec1 := some r } }
    d.logWrite r

/-- LIFETIME_CHECKPOINT: a whole ten minutes of device time (R445). -/
def execLifetimeCheckpoint (s : State) : Out :=
  eventOn (fun d => if decide (d.time.now % (600 * nsPerSec * 65536) < d.rf .timeAddend 0 0 32) then d.checkpoint 1 else d) s

/-! ## Restoration (R447) -/

/-- The log entries that hold anything, by number. -/
def Dev.logEntries (d : Dev) : List Nat :=
  ((d.board.flash.filter (fun e => decide (0x800000 ≤ e.1) && decide (e.1 < 0xC00000))).map (fun e => (e.1 - 0x800000) / 512)).eraseDups
/-- The valid record of a log entry. -/
def Dev.logRecord (d : Dev) (k : Nat) : Option (List Byte) :=
  let r := d.flashRead (logAddr k) 512
  if d.smemOk && recordOk r then some r else none
/-- The valid record with the highest number among some. -/
def newestRecord (rs : List (List Byte)) : Option (List Byte) :=
  rs.foldl (fun a r => match a with | some b => if recordSeq b < recordSeq r then some r else a | none => some r) none
/-- The valid records of retention memory. -/
def Dev.kept (d : Dev) : List (List Byte) := (d.life.rec0.toList ++ d.life.rec1.toList).filter recordOk
/-- The valid records of the log. -/
def Dev.logged (d : Dev) : List (List Byte) := if d.smemOk then d.logEntries.filterMap d.logRecord else []

/-- A table of `n` counts of `w` bytes at an offset of a record. -/
def countsAt (r : List Byte) (off w n : Nat) : Tab Nat :=
  (List.range n).foldl (fun t k => tabPut t 0 k (leAt r (off + w * k) w)) []

/-- The lifetime counters take a record's values; the record's highest erase count of a log sector stands under key 1,024, beside those of the sectors. -/
def Life.fromRecord (l : Life) (r : List Byte) : Life := { l with
  firstOn := leAt r 32 6, lastCkpt := leAt r 38 6, hwm := leAt r 44 6, holdSecs := leAt r 52 4, vinSecs := leAt r 64 8, vauxSecs := leAt r 72 8
  age := countsAt r 80 8 8, peak := countsAt r 144 1 8, dips := leAt r 152 4, sags := leAt r 156 4, resets := countsAt r 160 4 10
  eth := countsAt r 200 4 4, host := countsAt r 216 4 8, erases := countsAt r 248 4 7
  logErases := tabPut [] 0 1024 (leAt r 276 4), keyUses := leAt r 280 8, keyInvs := leAt r 288 8
  faults := leAt r 296 8 }

/-- The log's write position: after the newest entry (R446). -/
def Dev.logNext (d : Dev) : Nat :=
  let ks := d.logEntries.filter (fun k => (d.logRecord k).isSome)
  let seqOf := fun (k : Nat) => (match d.logRecord k with | some r => recordSeq r | none => 0 : Nat)
  match ks.foldl (fun (a : Option Nat) k => match a with | some b => if seqOf b < seqOf k then some k else a | none => some k) none with
  | some k => (k + 1) % 8192
  | none => 0

/-- LIFE_SEQ, LIFE_POS and LIFE_LAST as retention memory and the log give them (R448). -/
def Dev.lifeRegs (d : Dev) : Dev :=
  let r := newestRecord (d.kept ++ d.logged)
  let d := d.setReg .lifePos 0 (BitVec.ofNat 64 (if d.smemOk then d.logNext else 0))
  let d := match r with
    | some r => (d.setReg .lifeSeq 0 (BitVec.ofNat 64 (recordSeq r))).setReg .lifeLast 0 (BitVec.ofNat 64 (leAt r 16 8))
    | none => (d.resetReg .lifeSeq 0).resetReg .lifeLast 0
  d.lifeReady

/-- The counters are restored from the newest valid record, after a loss of VAUX (R447); what has been counted since is kept on top for the reset kinds that began. -/
def Dev.lifeRestore (d : Dev) : Dev :=
  match newestRecord (d.kept ++ d.logged) with
  | some r =>
    let fresh := d.life.resets
    let life := d.life.fromRecord r
    let resets := (List.range 10).foldl (fun t k => tabPut t 0 k (Nat.min (2 ^ 32 - 1) (tabGet t 0 k + tabGet fresh 0 k))) life.resets
    ({ d with life := { life with resets := resets, faults := life.faults + d.life.faults } }).setRb .lifeStat 0 1 true
  | none => d

end Sys2Proof.Machine
end

