-- ==== Sys2Proof/Machine/Ports.lean ====
section
/-! DEFINITION. Machine/Ports.lean: links, flow control, preemption verify, reception, steering, hashing and indirection, and the classifier's update interface (R133 to R139, R142, R149 to R152, R159, R169 to R173 of 04_packet_path.md). -/
namespace Sys2Proof.Machine
open Sys2Proof

/-! ## Links (R135, R138) -/

/-- PORT_STATUS.mm_state as PORT_MM starts it on a link that is up: off, verifying, or active at once (R138). -/
def Dev.mmStart (d : Dev) (x : Nat) : Dev :=
  let d := { d with pkt := { d.pkt with mmTries := tabDel x d.pkt.mmTries } }
  d.setRf .portStatus x 0 2 (if !d.portUp x || !d.rb .portMm x 0 then 0 else if d.rb .portMm x 1 then 2 else 1)

/-- A sub-port's link goes down (R135); the flag says that a frame was in reception. -/
def Dev.linkDown (d : Dev) (x : Nat) (inRx : Bool) : Dev :=
  if !d.portUp x then d
  else
    let d := ((d.setRb .portLink (x / 8) (x % 8) false).raiseFree 768 (6 + x / 16) none).count (evPort x 20)
    (if inRx then d.count (evPort x 7) else d).mmStart x

/-- PORT_LINK_DOWN. -/
def execPortLinkDown (x : Fin 32) (inRx : Bool) (s : State) : Out := eventOn (fun d => d.linkDown x.val inRx) s

/-- A link training of a physical port is counted (R444). -/
def Dev.ethTrain (d : Dev) (q : Nat) : Dev :=
  { d with life := { d.life with eth := tabPut d.life.eth 0 q (Nat.min (2 ^ 32 - 1) (tabGet d.life.eth 0 q + 1)) } }

/-- PORT_LINK_UP: a sub-port of the mode in force completes training. -/
def execPortLinkUp (x : Fin 32) (s : State) : Out :=
  eventOn (fun d =>
    if d.portUp x.val || !d.subPort x.val || !d.boot.imaged then d
    else ((d.setRb .portLink (x.val / 8) (x.val % 8) true).ethTrain (x.val / 8)).mmStart x.val) s

/-- PREEMPT_VERIFY: a verify attempt succeeds or fails; the third failure is FAILED (R138). -/
def execPreemptVerify (x : Fin 32) (ok : Bool) (s : State) : Out :=
  event (fun d =>
    if d.rf .portStatus x.val 0 2 ≠ 1 then d
    else if ok then d.setRf .portStatus x.val 0 2 2
    else if 2 ≤ tabGet d.pkt.mmTries 0 x.val then
      ({ d with pkt := { d.pkt with mmTries := tabDel x.val d.pkt.mmTries } }).setRf .portStatus x.val 0 2 3
    else { d with pkt := { d.pkt with mmTries := tabAdd d.pkt.mmTries x.val 1 } }) s

/-! ## PAUSE and PFC (R139) -/

/-- A class of a sub-port is stopped for some quanta of 512 bit times; zero quanta let it go. -/
def Dev.pauseClass (d : Dev) (x c quanta : Nat) : Dev :=
  let k := 8 * x + c
  if quanta = 0 then { d with pkt := { d.pkt with pauseEnd := tabDel k d.pkt.pauseEnd } }
  else { d with pkt := { d.pkt with pauseEnd := tabIns k (d.time.now + d.wireFx x (quanta * 64)) d.pkt.pauseEnd } }

/-- A MAC control frame is consumed: PAUSE acts in mode 1, PFC in mode 2. -/
def Dev.macControl (d : Dev) (x : Nat) (bs : List Byte) : Dev :=
  let mode := d.rf .portFc x 0 2
  match beAt bs 14 2 with
  | 0x0001 =>
    let d := d.count (evPort x 13)
    if mode = 1 then ((List.range 8).foldl (fun d c => d.pauseClass x c (beAt bs 16 2)) d).selectIdle x else d
  | 0x0101 =>
    let d := d.count (evPort x 14)
    if mode = 2 then
      ((List.range 8).foldl (fun d c => if nbit (beAt bs 16 2) c then d.pauseClass x c (beAt bs (18 + 2 * c) 2) else d) d).selectIdle x
    else d
  | _ => d

/-- PAUSE_EXPIRE: the quanta have run out. -/
def execPauseExpire (x : Fin 32) (c : Fin 8) (s : State) : Out :=
  event (fun d =>
    match tabFind (8 * x.val + c.val) d.pkt.pauseEnd with
    | some e => if e ≤ d.time.now then (d.pauseClass x.val c.val 0).kick x.val else d
    | none => d) s

/-! ## PTP messages on the time plane's ports (R35, R36) -/

/-- The offset and value of the EtherType behind up to two VLAN tags. -/
def etherTypeAt (bs : List Byte) : Nat × Nat :=
  let tag := fun t => t == 0x8100 || t == 0x88A8
  let t0 := beAt bs 12 2
  if !tag t0 then (12, t0) else
  let t1 := beAt bs 16 2
  if !tag t1 then (16, t1) else (20, beAt bs 20 2)

/-- A frame that carries a PTP message: EtherType 0x88F7, or UDP to port 319 or 320. -/
def isPtp (bs : List Byte) : Bool :=
  let (o, t) := etherTypeAt bs
  let port := fun p => p == 319 || p == 320
  if t = 0x88F7 then true
  else if t = 0x0800 then fbyte bs (o + 11) == 17 && port (beAt bs (o + 2 + 4 * (fbyte bs (o + 2) % 16) + 2) 2)
  else if t = 0x86DD then fbyte bs (o + 8) == 17 && port (beAt bs (o + 44) 2)
  else false

/-- The time-receiver port, or the standby port where it is used. -/
def Dev.timePort (d : Dev) (x : Nat) : Bool :=
  d.rf .timeSrc 0 8 5 == x || (d.rb .timeSrc 0 21 && d.rf .timeSrc 0 16 5 == x)

/-! ## Steering, hashing, indirection (R149 to R152) -/

/-- The steering key of a frame under a mode. -/
def steerKey (mode : Nat) (r : Parsed) (bs : List Byte) : Nat :=
  match mode with
  | 1 => (r.vlan bs).getD 0 % 4096
  | 2 => match r.at_ 0 [1] with | some h => beAt bs h.pos 6 | none => 0
  | 3 => match r.tunnel with | some h => tunnelId bs h | none => 0
  | _ => 0

/-- The partition that owns a frame: the lowest matching entry, or the sub-port's default. -/
def Dev.steer (d : Dev) (x : Nat) (r : Parsed) (bs : List Byte) : Option Nat :=
  let m := x / 16
  let mode := d.rf .portSteer x 0 2
  let key := steerKey mode r bs
  let hit := (List.range 4096).find? (fun e =>
    let w := d.reg .clsSteer (4096 * m + e)
    wbit w 63 && wf w 48 5 == x && (mode == 0 || wf w 0 48 == key))
  match hit with
  | some e => some (d.rf .clsSteer (4096 * m + e) 53 3)
  | none => if d.rb .portSteer x 5 then some (d.rf .portSteer x 2 3) else none

/-- The indirection entry a hash selects: the target, the island that classifies, and whether it is valid and granted (R151, R152). -/
def Dev.indirect (d : Dev) (p hash : Nat) : Target × Nat × Bool :=
  let w := d.reg .clsInd (4096 * p + hash % 4096)
  let kind := wf w 0 2
  let number := wf w 2 14
  if kind = 2 then (⟨2, number⟩, if number < 1024 then groupIsl number else 2 + wf w 16 2, number < 1024 && d.targetGranted p (groupIsl number) 2 number)
  else (⟨BitVec.ofNat 2 kind, number⟩, 2 + wf w 16 2, kind == 1 && d.targetGranted p (2 + wf w 16 2) 1 number)

/-- A frame with an owner is hashed, takes its indirection target, and goes to its classifier; an invalid entry drops it. -/
def Dev.toClassifier (d : Dev) (f : Nat) : Dev :=
  match d.frame f with
  | none => d
  | some x =>
    let h := d.hashOf x.part x.key
    let (t, isl, ok) := d.indirect x.part h
    if !ok then (d.count (evE isl (256 + 4))).dropFrame f
    else
      let d := d.setFrame f { x with hash := BitVec.ofNat 32 h, ind := t, isl := isl }
      { d with pkt := { d.pkt with clsQ := d.pkt.clsQ ++ [f] } }

/-! ## Fragments at the port island (R169 to R171) -/

/-- A frame that no partition owns yet is dropped: its cells are freed. -/
def Dev.dropUnowned (d : Dev) (f : Nat) : Dev :=
  match d.frame f with
  | none => d
  | some x =>
    let d := { d with pkt := { d.pkt with ingUse := tabSub d.pkt.ingUse (x.port / 8) x.cells, frames := tabDel f d.pkt.frames } }
    d.moveClassUse x.port (d.rxClass x.port x.bytes) 0 (x.cells * 256)

/-- The hold area takes a fragment, or drops it when it is full (R170). -/
def Dev.holdFragment (d : Dev) (f m : Nat) : Dev :=
  if 1024 ≤ d.rf .clsFragStat m 16 11 then (d.count (evP (6 + m) 519)).dropUnowned f
  else
    let d := d.updFrame f (fun y => { y with since := d.ns })
    ({ d with pkt := { d.pkt with fragHold := d.pkt.fragHold ++ [f] } }).fragStat m

/-- A later fragment takes its datagram's decision, or waits in the hold area (R170). -/
def Dev.takeLater (d : Dev) (f : Nat) (x : Frame) : Dev :=
  let m := x.port / 16
  match d.fragEntry x with
  | some e =>
    if e.decision.isSome then
      match d.chargeHold f e.part with
      | (some d, _) => match d.frame f with | some y => d.takeFragDecision f y e | none => d
      | (none, d) => d
    else d.holdFragment f m
  | none => d.holdFragment f m

/-- A first fragment takes a table entry for its datagram, or finds the table full (R171). -/
def Dev.firstFragment (d : Dev) (x : Frame) (p : Nat) : Dev :=
  let m := x.port / 16
  match x.frag, d.fragEntry x with
  | none, _ => d
  | _, some _ => d
  | some k, none =>
    if 32768 ≤ d.rf .clsFragStat m 0 16 then (d.count (evP (6 + m) 520)).raiseFree 771 (6 + m) (some p)
    else
      let e : FragEntry := { m := m, key := k, part := p, decision := none, created := d.ns, lastTaken := none }
      ({ d with pkt := { d.pkt with frags := d.pkt.frags ++ [e] } }).fragStat m

/-! ## Reception (R136, R137, R142) -/

/-- A frame that passed the MAC's checks is parsed, steered, charged and policed. -/
def Dev.ingress (d : Dev) (x : Nat) (bs : List Byte) (first last : Nat) : Dev :=
  let m := x / 16
  let r := d.parse x bs
  let frag := r.frag bs
  let later := match frag with | some h => laterFragment bs h | none => false
  let cells := cellsFor (frameLen bs)
  let y : Frame := {
    bytes := bs, port := x, rxFirst := timeWord (first / 65536), rxLast := timeWord (last / 65536)
    key := d.clsKey x r bs, wins := r.wins, hdrs := r.hdrs.map (fun h => (h.level, h.kind, h.pos, h.len)), cells := cells
    frag := frag.map (fun h => r.fragKey bs h), laterFrag := later
    moreFrags := match frag with | some h => moreFragments bs h | none => false }
  let (f, d) := d.newFrame y
  let d := { d with pkt := { d.pkt with ingUse := tabAdd d.pkt.ingUse (x / 8) cells } }
  let d := d.moveClassUse x (d.rxClass x bs) (cells * 256) 0
  let d := d.countBy (evP (6 + m) 512) (b2n r.trunc)
  let d := d.countBy (evP (6 + m) 513) (b2n r.limit)
  let d := d.countBy (evP (6 + m) 514) (b2n r.depth)
  if later then (d.count (evP (6 + m) 517)).takeLater f y
  else
    let d := if frag.isSome then d.count (evP (6 + m) 516) else d
    match d.steer x r bs with
    | none => (d.count (evP (6 + m) 515)).dropUnowned f
    | some p =>
      match d.chargeHold f p with
      | (none, d) => d
      | (some d, _) =>
        let pol := d.ingressPolice f
        if !pol.1 then pol.2 else (pol.2.firstFragment y p).toClassifier f

/-- FRAME_RECEIVE: a frame has been received (R136, R137, R139, R142). Nothing is a frame while the link is down (R135), and in the safe state no frame is taken (R408). -/
def Dev.frameReceive (d : Dev) (x : Nat) (fr : RxFrame) : Dev :=
  let n := frameLen fr.bytes
  if !d.subPort x || !d.portUp x then d
  else if fr.mmErr then d.count (evPort x 8)
  else if d.rf .portBuf (x / 8) 0 8 * 4096 < tabGet d.pkt.ingUse 0 (x / 8) + cellsFor n then d.count (evPort x 9)
  else if n < 64 then d.count (evPort x 4)
  else if d.rf .portMaxframe x 0 14 < n then d.count (evPort x 5)
  else if !fr.fcsOk then d.count (evPort x 6)
  else
    let d := (d.count (evPort x 0)).countBy (evPort x 1) n
    if beAt fr.bytes 12 2 = 0x8808 then d.macControl x fr.bytes
    else if d.timePort x && isPtp fr.bytes then d
    else d.ingress x fr.bytes (d.time.now - fr.durNs * 65536) d.time.now

def execFrameReceive (x : Fin 32) (fr : RxFrame) (s : State) : Out := event (fun d => d.frameReceive x.val fr) s

/-! ## The update interface (R159) -/

/-- Index of a partition's update block on engine island `e`. -/
def updIdx (e p : Nat) : Nat := 8 * e + p
/-- The 176 data bytes of an update block. -/
def Dev.updData (d : Dev) (e p : Nat) : List Byte :=
  (List.range 44).flatMap (fun j => leBytes 4 (d.rf .clsUpdData (updIdx e p * 44 + j) 0 32))
/-- Data bytes of an update block set, from word `j` on. -/
def Dev.setUpdData (d : Dev) (e p j : Nat) (bs : List Byte) : Dev :=
  (List.range (bs.length / 4)).foldl (fun d k =>
    d.setReg .clsUpdData (updIdx e p * 44 + j + k) (BitVec.ofNat 64 (leAt bs (4 * k) 4))) d

/-- CLS_UPD_STAT with an operation's code. -/
def Dev.updDone (d : Dev) (e p code : Nat) : Dev := d.setReg .clsUpdStat (updIdx e p) (BitVec.ofNat 64 (2 * code))

/-- An operation of a partition's CLS_UPD on an engine island: ignored while the interface is busy. -/
def clsUpd (p e : Nat) (f : Dev → Dev) (s : State) : Out :=
  event (fun d => if d.rb .clsUpdStat (updIdx e p) 0 then d.setRb .clsUpdStat (updIdx e p) 4 true else f d) s

/-- A rule within the partition's grants on an engine island (range kind 11). -/
def Dev.ruleOk (d : Dev) (p e i : Nat) : Bool := d.granted p 11 (e + 2) i

/-- RULE_WRITE: R159. -/
def execRuleWrite (p : Fin 8) (e : Fin 4) (index : BitVec 15) (s : State) : Out :=
  clsUpd p.val e.val (fun d =>
    let i := index.toNat
    let b := d.updData e.val p.val
    let a := leAt b 160 4
    if !d.ruleOk p.val e.val i then d.updDone e.val p.val 4
    else if !d.actionOk p.val true a then d.updDone e.val p.val 3
    else
      let old := d.rule e.val i
      let r : Rule := { value := b.take 80, mask := (b.drop 80).take 80, action := BitVec.ofNat 32 a,
                        enable := nbit (leAt b 164 1) 0, hits := if nbit (leAt b 164 1) 1 then 0 else old.hits }
      (d.setRule e.val i r).updDone e.val p.val 0) s

/-- RULE_DISABLE: R159. -/
def execRuleDisable (p : Fin 8) (e : Fin 4) (index : BitVec 15) (s : State) : Out :=
  clsUpd p.val e.val (fun d =>
    let i := index.toNat
    if !d.ruleOk p.val e.val i then d.updDone e.val p.val 4
    else (d.setRule e.val i { d.rule e.val i with enable := false }).updDone e.val p.val 0) s

/-- RULE_READ: R159. -/
def execRuleRead (p : Fin 8) (e : Fin 4) (index : BitVec 15) (s : State) : Out :=
  clsUpd p.val e.val (fun d =>
    let i := index.toNat
    if !d.ruleOk p.val e.val i then d.updDone e.val p.val 4
    else
      let r := d.rule e.val i
      let old := d.updData e.val p.val
      let bs := slice r.value 0 80 ++ slice r.mask 0 80 ++ leBytes 4 r.action.toNat ++
        [BitVec.ofNat 8 (b2n r.enable)] ++ slice old 165 3 ++ leBytes 8 r.hits.toNat
      (d.setUpdData e.val p.val 0 bs).updDone e.val p.val 0) s

/-- What an exact operation on a table comes to before DDR is reached: DENIED, BAD_FIELD, or busy until its writes finish. -/
def Dev.exactStart (d : Dev) (op p e t : Nat) : Dev :=
  if !(d.tdirKind t == 1 && d.exactOf p t) then d.updDone e p 4
  else if d.exactCheck t != .ok then d.updDone e p 3
  else
    let b := d.updData e p
    let key := b.take (8 * d.tdirN t)
    let d := { d with pkt := { d.pkt with updPend := tabIns (updIdx e p) (op, t, key, BitVec.ofNat 64 (leAt b 160 8)) d.pkt.updPend } }
    d.setReg .clsUpdStat (updIdx e p) 1

/-- EXACT_INSERT: R156, R159. -/
def execExactInsert (p : Fin 8) (e : Fin 4) (table : BitVec 8) (s : State) : Out :=
  clsUpd p.val e.val (fun d => d.exactStart 4 p.val e.val table.toNat) s
/-- EXACT_DELETE: R156, R159. -/
def execExactDelete (p : Fin 8) (e : Fin 4) (table : BitVec 8) (s : State) : Out :=
  clsUpd p.val e.val (fun d => d.exactStart 5 p.val e.val table.toNat) s
/-- EXACT_READ: R156, R159. -/
def execExactRead (p : Fin 8) (e : Fin 4) (table : BitVec 8) (s : State) : Out :=
  clsUpd p.val e.val (fun d => d.exactStart 6 p.val e.val table.toNat) s

/-- The caches of every island that hold a key take its new result, or lose it (R157). -/
def Dev.cacheUpdate (d : Dev) (p t : Nat) (key : List Byte) (r : Option Word) : Dev :=
  [2, 3, 4, 5].foldl (fun d isl =>
    let c := (d.cache isl p).filterMap (fun q => if q.table == t && q.key == key then r.map (fun v => { q with result := v }) else some q)
    d.setCache isl p c) d

/-- An exact operation's writes finish: the code, and the device after it. -/
def Dev.exactFinish (d : Dev) (e p op t : Nat) (key : List Byte) (res : Word) : Dev :=
  if d.exactCheck t != .ok then d.updDone e p 3
  else
    let v := wsetBit res 63 true
    match op with
    | 4 =>
      let slot := match d.exactFind t key with
        | some a => some a
        | none => (d.exactSlots t key).find? (fun a => !d.slotValid a)
      match slot with
      | none => d.updDone e p 1
      | some a =>
        let d := d.write a (slice key 0 32 ++ leBytes 8 v.toNat ++ List.replicate 24 0)
        (d.cacheUpdate p t key (some v)).updDone e p 0
    | 5 =>
      match d.exactFind t key with
      | none => d.updDone e p 2
      | some a =>
        let w := BitVec.ofNat 64 (ofLe (d.read (a + 32) 8))
        ((d.write (a + 32) (leBytes 8 (wsetBit w 63 false).toNat)).cacheUpdate p t key none).updDone e p 0
    | _ =>
      match d.exactFind t key with
      | none => d.updDone e p 2
      | some a => (d.setUpdData e p 40 (d.read (a + 32) 8)).updDone e p 0

/-- CLS_UPD_DONE: R156, R157, R159. -/
def execClsUpdDone (p : Fin 8) (e : Fin 4) (s : State) : Out :=
  event (fun d =>
    match tabFind (updIdx e.val p.val) d.pkt.updPend with
    | none => d
    | some (op, t, key, res) =>
      let d := { d with pkt := { d.pkt with updPend := tabDel (updIdx e.val p.val) d.pkt.updPend } }
      d.exactFinish e.val p.val op t key res) s

/-- A context within the partition's grants on an engine island (range kind 14). -/
def Dev.ctxOk (d : Dev) (p e i : Nat) : Bool := i < 16384 && d.granted p 14 (e + 2) i

/-- CTX_WRITE: R172. The layout of the data bytes is the model's (log entry 13): byte 0 type, 1 digest options, 2 log2 of the placement table, 3 SYNC; 4 to 7 expected sequence; 8 to 15 table address. -/
def execCtxWrite (p : Fin 8) (e : Fin 4) (index : BitVec 15) (s : State) : Out :=
  clsUpd p.val e.val (fun d =>
    let i := index.toNat
    let b := d.updData e.val p.val
    let typ := leAt b 0 1
    let j := leAt b 2 1
    if !d.ctxOk p.val e.val i then d.updDone e.val p.val 4
    else if 2 < typ ∨ (typ = 1 ∧ j ≠ 0 ∧ (j < 4 ∨ 12 < j)) then d.updDone e.val p.val 3
    else
      let c : OffCtx := { type := typ, seq := BitVec.ofNat 32 (leAt b 4 4), sync := nbit (leAt b 3 1) 0, digests := BitVec.ofNat 2 (leAt b 1 1),
                          table := leAt b 8 8 % 2 ^ 48, tableLog := j }
      (d.setOffCtx e.val i c).updDone e.val p.val 0) s

/-- CTX_RESYNC: R173. -/
def execCtxResync (p : Fin 8) (e : Fin 4) (index : BitVec 15) (s : State) : Out :=
  clsUpd p.val e.val (fun d =>
    let i := index.toNat
    if !d.ctxOk p.val e.val i then d.updDone e.val p.val 4
    else
      let q := leAt (d.updData e.val p.val) 4 4
      (d.setOffCtx e.val i { d.offCtx e.val i with seq := BitVec.ofNat 32 q, resync := true, raw := [] }).updDone e.val p.val 0) s

end Sys2Proof.Machine
end

