-- ==== Sys2Proof/Machine/Time.lean ====
section
/-! DEFINITION. Machine/Time.lean: the time plane: reference, straits, island copies, steps of device time, PTP, PPS and frequency inputs, quality and holdover, calendar (R11 to R47 of 01_islands_and_time.md). -/
namespace Sys2Proof.Machine
open Sys2Proof

/-- The time plane's state set. -/
def Dev.withTime (d : Dev) (t : Time) : Dev := { d with time := t }

/-! ## Steps of device time (R21, R27, R28) -/

/-- The first occurrence at or after `now` of a grid, and how many lie between the one due and it. -/
def regrid (at_ step now : Nat) : Nat × Nat :=
  let step := Nat.max 1 step
  if now ≤ at_ then (at_ - (at_ - now) / step * step, 0)
  else (at_ + (now - at_ + step - 1) / step * step, (now - at_ + step - 1) / step)

/-- Period of the counter dump in ns (CNT_DUMP_CFG). -/
def Dev.dumpStep (d : Dev) : Nat := d.rf .cntDumpCfg 0 0 22 * 1000000

/-- The periodic schedules of rings, counter windows, the dump and duplex cycle ends across a step to `new`. -/
def Dev.regridAll (d : Dev) (new : Nat) : Dev :=
  let sq := d.dma.sq.map (fun (e : Nat × SqSt) => (e.1, e.2.stepped (d.pollStep e.1) new))
  let mi := d.cnt.mirrorAt.map (fun (e : Nat × Nat) => (e.1, (regrid e.2 (d.mirrorStep e.1) new).1))
  let du := regrid d.cnt.dumpAt d.dumpStep new
  let on := d.rb .cntDumpCfg 0 31
  let cnt := { d.cnt with
    mirrorAt := mi, dumpAt := if on then du.1 else d.cnt.dumpAt
    dumpMissed := if on then d.cnt.dumpMissed + du.2 else d.cnt.dumpMissed
    dumpSeq := if on then d.cnt.dumpSeq + du.2 else d.cnt.dumpSeq }
  let dpx := d.dpx.ps.map (fun (e : Nat × Dpx) => (e.1, { e.2 with
    cycle := (new - e.2.start + Nat.max 1 (d.rf .dpxCycle e.1 0 32) - 1) / Nat.max 1 (d.rf .dpxCycle e.1 0 32) - 1 }))
  let d := { d with dma := { d.dma with sq := sq }, cnt := cnt, dpx := { d.dpx with ps := dpx } }
  if on then (d.incRf .cntDumpStat 0 32 16 du.2).countBy 16 du.2 else d

/-- Moments of the wires, held in device time, move with a step: what is on a wire ends when it would have ended. -/
def Dev.shiftWires (d : Dev) (delta : Int) : Dev :=
  let mv := fun (n : Nat) => ((n : Int) + delta).toNat
  let w := fun (e : Nat × OnWire) => (e.1, { e.2 with start := mv e.2.start, end_ := mv e.2.end_ })
  { d with pkt := { d.pkt with
      wire := d.pkt.wire.map w, susp := d.pkt.susp.map w
      pauseEnd := d.pkt.pauseEnd.map (fun (e : Nat × Nat) => (e.1, mv e.2)) } }

/-- TIME_HWM as the register holds it. -/
def Dev.hwmNow (d : Dev) : Nat := d.rf .timeHwm0 0 0 32 + d.rf .timeHwm1 0 0 16 * 2 ^ 32
/-- TIME_STATUS.behind_hwm follows device time and TIME_HWM (R45). -/
def Dev.behindHwm (d : Dev) : Dev := d.setRb .timeStatus 0 2 (decide (d.sec < d.hwmNow))

/-- Whether a step of some ns stays within the span of device time (R21). -/
def Dev.stepFits (d : Dev) (ns : Int) : Bool := decide (0 ≤ (d.ns : Int) + ns) && decide ((d.ns : Int) + ns ≤ maxNs)

/-- Device time steps by some ns, in every island at once (R27). -/
def Dev.applyStep (d : Dev) (ns : Int) : Dev :=
  let old := d.ns
  let now := ((d.time.now : Int) + ns * 65536).toNat
  let new := now / 65536
  let d := (d.withTime { d.time with now := now, steps := d.time.steps + 1 }).count 1
  let d := { d with thr := d.thr.map (fun (e : Nat × Thread) => (e.1, e.2.timerStep new)) }
  let d := (d.shiftWires (ns * 65536)).regridAll new
  let d := (List.range 32).foldl (fun d x => d.gateStep x old new) d
  ((d.refillStep 0 new).refillStep 1 new).behindHwm

/-! ## Quality and sources (R40 to R42) -/

def Dev.quality (d : Dev) : Nat := d.rf .timeQual 0 0 3
def Dev.setQuality (d : Dev) (q : Nat) : Dev := d.setRf .timeQual 0 0 3 q
/-- Source in use: 0 none, 1 PTP, 2 PPS_IN. -/
def Dev.source (d : Dev) : Nat := d.rf .timeQual 0 3 2
def Dev.setErr (d : Dev) (e : Nat) : Dev := d.setRf .timeQual 0 5 27 (Nat.min e (2 ^ 27 - 1))

/-- A step is allowed in the present quality (R28). -/
def Dev.stepAllowed (d : Dev) (ns : Int) (force : Bool) : Bool :=
  d.stepFits ns && (force || !(d.quality == 2 || d.quality == 3) || decide (ns.natAbs ≤ d.rf .timeStepLimit 0 0 32 * 1000000))

/-- The time quality becomes UNQUALIFIED, and is raised on entry (R41, R42). -/
def Dev.toUnqualified (d : Dev) : Dev :=
  if d.quality = 4 then d else (d.setQuality 4).raiseFree 258 0 none

/-- HOLDOVER is entered with an estimated error (R42). -/
def Dev.toHoldover (d : Dev) (err : Nat) : Dev :=
  (((d.setQuality 3).setErr err).withTime { d.time with hasEst := true }).raiseFree 257 0 none

/-- A source is present and not lost: PTP on either port, or a qualified PPS_IN with a known second (R37, R40). -/
def Dev.sourceUp (d : Dev) (s : Nat) : Bool :=
  match s with
  | 1 => d.time.ptpUp || (d.rb .timeSrc 0 21 && d.time.standbyUp)
  | 2 => d.rb .timeStatus 0 6 && d.time.secsKnown
  | _ => false

/-- The first source of TIME_SRC's list that is present; 0 where none is. -/
def Dev.bestSource (d : Dev) : Nat := ([0, 2, 4].map (fun lo => d.rf .timeSrc 0 lo 2)).find? d.sourceUp |>.getD 0

/-- The servo takes a source, starting in ACQUIRING (R40). -/
def Dev.takeSource (d : Dev) (s : Nat) : Dev :=
  let d := ((d.setQuality 1).setRf .timeQual 0 3 2 s).setRb .timeStatus 0 7 (s == 1 && !d.time.ptpUp)
  d.withTime { d.time with within := 0 }

/-- The source in use is lost: HOLDOVER, or FREE where no error estimate exists (R41). -/
def Dev.loseSource (d : Dev) : Dev :=
  let q := d.quality
  let d := (d.setRf .timeQual 0 3 2 0).setRb .timeStatus 0 7 false
  if q = 2 ∨ (q = 1 ∧ d.time.hasEst) then d.toHoldover d.time.lastOff.natAbs
  else if q = 1 then d.setQuality 0 else d

/-- The port PTP is in use on has changed between the receiver and the standby. -/
def Dev.standbyMoved (d : Dev) : Bool := d.source == 1 && d.rb .timeStatus 0 7 == d.time.ptpUp

/-- The servo looks at its sources again: a lost one is left, and the best one present is taken (R40). While REFCLK is lost nothing disciplines device time (R13). -/
def Dev.reselect (d : Dev) : Dev :=
  if d.time.refLost then d
  else
    let cur := d.source
    let listed := ([0, 2, 4].map (fun lo => d.rf .timeSrc 0 lo 2)).contains cur
    let gone := cur != 0 && (!d.sourceUp cur || !listed || (cur == 1 && d.standbyMoved && !d.time.ptpUp))
    let d := if gone then d.loseSource else d
    let best := d.bestSource
    if best = 0 ∨ (best = d.source && !d.standbyMoved) then d else d.takeSource best

/-- TIME_SRC has changed from an old value: a PTP port that was not one before has had no Announce yet, and the servo looks at its sources again (R40). -/
def Dev.srcChanged (d : Dev) (old : Word) : Dev :=
  let new := d.reg .timeSrc 0
  if old = new then d
  else
    (d.withTime { d.time with
      ptpUp := d.time.ptpUp && wf old 8 5 == wf new 8 5, standbyUp := d.time.standbyUp && wbit new 21 && wf old 16 5 == wf new 16 5 }).reselect

/-- A source is treated as lost (R28, R37, R40). -/
def Dev.dropSource (d : Dev) (s : Nat) : Dev :=
  let d := if s = 1 then
      d.withTime (if d.rb .timeStatus 0 7 then { d.time with standbyUp := false } else { d.time with ptpUp := false })
    else (d.withTime { d.time with ppsEdges := 0 }).setRb .timeStatus 0 6 false
  d.reselect

/-- The servo sets TIME_ADDEND to a value of its own within R22's range: a free value (log entry 5). -/
def Dev.slew (d : Dev) : Dev :=
  let (v, d) := d.fresh
  let v := v.toNat % 2 ^ 32
  let c := clampTo 0x3FF7D 0x40083 v
  (d.setReg .timeAddend 0 (BitVec.ofNat 64 c)).setRb .timeStatus 0 4 (c != v)

/-- The servo takes one measured offset, in ns, of the source in use (R28, R41), on the time master (R420). -/
def Dev.servo (d : Dev) (off : Int) : Dev :=
  let src := d.source
  if !d.unitHeld 1 then d
  else
    let big := decide (10000 < off.natAbs)
    let d := d.withTime { d.time with lastOff := off }
    if big && !d.stepAllowed (-off) false then (d.raiseFree 256 0 none).dropSource src
    else
      let d := if big then d.applyStep (-off) else d.slew
      if decide (off.natAbs ≤ d.rf .timeLockThresh 0 0 32) then
        let n := d.time.within + 1
        let d := d.withTime { d.time with within := n }
        if d.quality = 1 ∧ 16 ≤ n then
          let d := (d.setQuality 2).setRb .timeStatus 0 0 true
          d.withTime { d.time with hasEst := true, secsKnown := d.time.secsKnown || src == 1 }
        else d
      else
        let d := d.withTime { d.time with within := 0 }
        if d.quality = 2 then d.setQuality 1 else d

/-! ## Calendar (R43 to R45) -/

/-- The TAI − UTC offset in force at a second. -/
def Dev.utcOffset (d : Dev) : Int := (d.life.leap.filter (fun (e : Nat × Int) => e.1 ≤ d.sec)).getLast?.map (·.2) |>.getD 0
/-- TIME_UTC_OFFSET shows the offset in force (R44). -/
def Dev.showUtc (d : Dev) : Dev := d.setRf .timeUtcOffset 0 0 16 (d.utcOffset % 65536).toNat
/-- The grandmaster's announced offset differs from the one in force: LEAP_MISMATCH (R44). -/
def Dev.leapCheck (d : Dev) : Dev :=
  let d := d.showUtc
  if d.source = 1 ∧ d.rf .timeUtcOffset 0 0 16 ≠ d.rf .timeUtcOffset 0 16 16 then d.raiseFree 259 0 none else d

/-- LEAP_TABLE_EXPIRED: device time has passed the table's expiry date (R44). -/
def execLeapTableExpired (s : State) : Out :=
  eventOn (fun d =>
    if d.life.leapExpiry < d.sec ∧ !d.life.leap.isEmpty ∧ !d.rb .timeStatus 0 3 then (d.setRb .timeStatus 0 3 true).leapCheck else d) s

/-- TIME_HWM set, in the register and in retention memory. -/
def Dev.setHwm (d : Dev) (v : Nat) : Dev :=
  let d := { d with life := { d.life with hwm := v } }
  (d.setReg .timeHwm0 0 (BitVec.ofNat 64 (v % 2 ^ 32))).setReg .timeHwm1 0 (BitVec.ofNat 64 (v / 2 ^ 32 % 2 ^ 16))

/-- HWM_UPDATE: TIME_HWM advances while the calendar is valid (R45). -/
def execHwmUpdate (s : State) : Out :=
  eventOn (fun d =>
    let d := if d.rb .timeStatus 0 0 && decide (d.hwmNow < d.sec) then d.setHwm d.sec else d
    d.behindHwm.showUtc) s

/-! ## Reference and straits (R13, R17) -/

/-- REFCLK_QUALIFIED: REFCLK is found, and its frequency is fixed. -/
def execRefclkQualified (tenMHz : Bool) (s : State) : Out :=
  eventOn (fun d =>
    if d.time.refOk ∨ d.time.refLost then d
    else (d.withTime { d.time with refOk := true }).setRb .timeSrc 0 25 tenMHz) s

/-- Ticks in 100 ms. -/
def refWait : Nat := 25000000

/-- REF_LOST: a qualified REFCLK is lost, or none qualifies within 100 ms of the release (R13, R451). Without VIN the always-on counter stops with REFCLK (R46). -/
def execRefLost (s : State) : Out :=
  eventAny (fun d =>
    if !d.powered then { d with life := { d.life with auxRan := d.life.auxRan && d.life.vin } }
    else if d.time.refLost ∨ (!d.time.refOk ∧ d.time.tick < d.boot.began + refWait) then d
    else
      let d := (d.withTime { d.time with refLost := true }).raiseFree 130 0 none
      ((d.setRf .timeQual 0 3 2 0).setRb .timeStatus 0 7 false).toUnqualified) s

/-- The ends of a strait, the lower island number first (R14). -/
def straitEnds (s : Nat) : Nat × Nat :=
  if s < 8 then (2 + s / 2, 6 + s % 2)
  else [(1, 2), (1, 3), (1, 4), (1, 5), (0, 2), (0, 3), (0, 4), (0, 5), (2, 3), (4, 5), (0, 1), (0, 6), (0, 7), (1, 6), (1, 7)].getD (s - 8) (0, 0)

/-- STRAIT_CRC: a flit fails its CRC; `again` says that the same flit failed its last attempt too. Sixteen in a row take the strait down (R17). -/
def execStraitCrc (st : Fin 23) (toLow : Bool) (again : Bool) (s : State) : Out :=
  eventOn (fun d =>
    if d.time.down.contains st.val then d
    else
      let k := 2 * st.val + b2n toLow
      let n := if again then tabGet d.time.attempts 0 k + 1 else 1
      let (lo, hi) := straitEnds st.val
      let isl := if toLow then lo else hi
      let d := d.withTime { d.time with attempts := tabPut d.time.attempts 0 k n }
      let ev := 256 + 16 * st.val + 8 * b2n toLow
      let d := (((d.count (ev + 2)).count (ev + 3)).raiseFree (384 + st.val) isl none).useInjection (384 + st.val)
      if n < 16 then d
      else (d.withTime { d.time with down := d.time.down ++ [st.val] }).raiseFree (416 + st.val) isl none) s

/-! ## Island copies (R23 to R25) -/

/-- The copy of an island is latched (R23). -/
def Dev.timeLatch (d : Dev) (isl : Nat) : Dev :=
  let v := packTime (d.islNow isl)
  let d := (d.setReg .timeNow0 isl (BitVec.ofNat 64 (v % 2 ^ 32))).setReg .timeNow1 isl (BitVec.ofNat 64 (v / 2 ^ 32 % 2 ^ 32))
  d.setReg .timeNow2 isl (BitVec.ofNat 64 (v / 2 ^ 64))

/-- TIME_NOW_0_READ: R23. -/
def execTimeNow0Read (isl : Fin 8) (s : State) : Out :=
  eventOn (fun d => (d.timeLatch isl.val).emit (.readValue isl.val 0x100000 (BitVec.ofNat 64 (packTime (d.islNow isl.val) % 2 ^ 32)))) s

/-- DELAY_MEASURE: the sideband delays are measured, and every island's compensation follows them (R24). -/
def execDelayMeasure (delays : List Nat) (s : State) : Out :=
  eventOn (fun d => d.withTime { d.time with
    delay := (delays.zip (List.range 23)).foldl (fun t e => tabPut t 0 e.2 e.1) [] }) s

/-- Difference of a copy in ticks, without its sign. -/
def Dev.skewTicks (d : Dev) (v : Int) : Nat := v.natAbs / Nat.max 1 (d.rf .timeAddend 0 0 32)

/-- TIME_CHECK: an island compares its copy with the anchor's and loads it on a difference (R25); `upset` is what then disturbs the copy until the next check. -/
def execTimeCheck (isl : Fin 8) (upset : Int) (s : State) : Out :=
  eventOn (fun d =>
    if isl.val = 0 then d
    else
      let v := tabGet d.time.skew 0 isl.val
      let d := d.withTime { d.time with skew := tabPut d.time.skew 0 isl.val upset }
      if v = 0 then d
      else
        let n := d.skewTicks v
        let d := (d.count 2).raiseDev (264 + isl.val) isl.val (isl.val + n % 2 ^ 32 * 2 ^ 16)
        let d := d.setRb .timeSkewStat 0 isl.val true
        d.setRf .timeSkewStat 0 16 16 (Nat.max (d.rf .timeSkewStat 0 16 16) (Nat.min n 65535))) s

/-- A 64-bit two's complement number of ns. -/
def signed64 (n : Nat) : Int := (BitVec.ofNat 64 n).toInt

/-- TIME_CTL_STEP: a step written through TIME_CTL is applied or refused (R28). -/
def execTimeCtlStep (s : State) : Out :=
  eventOn (fun d =>
    if !d.rb .timeCtl 0 0 then d
    else
      let ns := signed64 (d.rf .timeStep0 0 0 32 + d.rf .timeStep1 0 0 32 * 2 ^ 32)
      let d := d.setRb .timeCtl 0 0 false
      if d.stepAllowed ns (d.rb .timeCtl 0 1) then d.applyStep ns else d.raiseFree 256 0 none) s

/-! ## PTP (R35, R36, R40, R44) -/

/-- PTP_MESSAGE_RX: a message on the receiver or standby port (R36). -/
def Dev.ptpRx (d : Dev) (m : PtpMsg) : Dev :=
  let x := m.port.val
  let main := d.rf .timeSrc 0 8 5 == x
  let standby := !main && d.rb .timeSrc 0 21 && d.rf .timeSrc 0 16 5 == x
  let inUse := d.source == 1 && (if d.rb .timeStatus 0 7 then standby else main)
  if !d.portUp x || !(main || standby) then d
  else
    let d := d.count 0
    match m.kind with
    | .announce utc clock =>
      let d := (d.withTime (if main then { d.time with ptpUp := true } else { d.time with standbyUp := true })).reselect
      let inUse := d.source == 1 && (if d.rb .timeStatus 0 7 then standby else main)
      if !inUse then d
      else
        let new := (utc % 65536).toNat
        let changed := decide (d.rf .timeUtcOffset 0 16 16 ≠ new) || !(d.time.clock == clock)
        let d := (d.setRf .timeUtcOffset 0 16 16 new).withTime { d.time with clock := clock }
        if changed then d.leapCheck else d
    | .sync off delay =>
      if inUse && !d.time.refLost then (d.withTime { d.time with pathDelay := delay }).servo off else d
    | .other => d

def execPtpMessageRx (m : PtpMsg) (s : State) : Out := eventOn (fun d => d.ptpRx m) s

/-- ANNOUNCE_TIMEOUT: the PTP port in use has seen no Announce within the receipt timeout (R40). -/
def execAnnounceTimeout (s : State) : Out :=
  eventOn (fun d => if d.source = 1 ∧ !d.time.refLost then d.dropSource 1 else d) s

/-- PTP_MESSAGE_TX: firmware sends a PTP message on a port, when the gate of class 7 is open (R36). Sync and Announce go out on ports that are not the receiver's; without the time master unit they are refused (R420, R421). -/
def execPtpMessageTx (x : Fin 32) (m : PtpSend) (s : State) : Out :=
  event (fun d =>
    let right := match m with | .delayReq => d.timePort x.val | _ => !d.timePort x.val
    if m != .delayReq && !d.unitHeld 1 then d.raiseFree 1415 0 none
    else if right && d.portUp x.val && d.gateOpen x.val 7 d.time.now then d.emit (.ptp x.val m (timeWord d.ns)) else d) s

/-! ## PPS and frequency (R37 to R39) -/

/-- PPS_IN_EDGE: a rising edge, whether it stayed high for 1 µs, and whether its spacing from the last accepted one, or its place by the expected second, is within 100 µs (R37). -/
def execPpsInEdge (highOneUs : Bool) (spacingOk : Bool) (s : State) : Out :=
  eventOn (fun d =>
    let reject := (d.incRf .timePpsInStat 0 0 32 1).count 3
    if !highOneUs then reject
    else if d.rb .timeStatus 0 6 then
      if !spacingOk then reject
      else
        let d := (d.withTime { d.time with ppsLast := d.ns }).reselect
        let f : Int := (d.ns % nsPerSec : Nat)
        let off := if f < 500000000 then f else f - nsPerSec
        if d.source = 2 ∧ !d.time.refLost then d.servo off else d
    else
      let n := if spacingOk && d.time.ppsEdges != 0 then d.time.ppsEdges + 1 else 1
      let d := d.withTime { d.time with ppsLast := d.ns, ppsEdges := n }
      if 4 ≤ n then (d.setRb .timeStatus 0 6 true).reselect else d) s

/-- PPS_IN_LOST: no accepted edge for 2 s (R37). -/
def execPpsInLost (s : State) : Out :=
  eventOn (fun d =>
    if d.time.ppsEdges = 0 ∨ d.ns < d.time.ppsLast + 2 * nsPerSec then d else d.dropSource 2) s

/-- FREQ_IN_QUALIFIED: R39. -/
def execFreqInQualified (s : State) : Out :=
  eventOn (fun d =>
    let d := d.setRb .timeStatus 0 5 true
    if d.rb .timeSrc 0 24 && !d.time.refLost then d.slew else d) s

/-- FREQ_IN_LOST: R39. -/
def execFreqInLost (s : State) : Out := eventOn (fun d => d.setRb .timeStatus 0 5 false) s

/-- HOLDOVER_SECOND: a second of HOLDOVER or UNQUALIFIED has passed (R42). -/
def execHoldoverSecond (s : State) : Out :=
  eventOn (fun d =>
    if d.quality ≠ 3 ∧ d.quality ≠ 4 then d
    else
      let rate := if d.rb .timeStatus 0 5 then d.rf .timeHoldRateF 0 0 32 else d.rf .timeHoldRate 0 0 32
      let d := (d.setErr (d.rf .timeQual 0 5 27 + rate)).incRf .timeHoldSecs 0 0 32 1
      let d := { d with life := { d.life with holdSecs := d.rf .timeHoldSecs 0 0 32 } }
      if d.quality = 3 ∧ d.rf .timeHoldLimit 0 0 32 < d.rf .timeQual 0 5 27 then d.toUnqualified else d) s

/-- The time quality squelches PPS_OUT, or it is off (R38), or another device is the time master (R420). -/
def Dev.ppsOff (d : Dev) : Bool := !d.rb .timePpsOut 0 0 || !d.unitHeld 1 || (d.rb .timePpsOut 0 1 && (d.quality == 0 || d.quality == 4))

/-- PPS_OUT_PULSE: PPS_OUT rises at a whole second, and falls when its high time is over (R38). -/
def execPpsOutPulse (s : State) : Out :=
  eventOn (fun d =>
    match d.time.ppsHigh with
    | some t => if t ≤ d.ns || d.ppsOff then (d.withTime { d.time with ppsHigh := none }).emit (.ppsOut false) else d
    | none =>
      if d.ppsOff || decide (d.rf .timeAddend 0 0 32 ≤ d.time.now % (nsPerSec * 65536)) then d
      else (d.withTime { d.time with ppsHigh := some (d.ns + d.rf .timePpsOut 0 8 10 * 1000000) }).emit (.ppsOut true)) s

/-- CLK_SPREAD_APPLY: a written spread setting takes effect at the next whole millisecond (R29). -/
def execClkSpreadApply (s : State) : Out :=
  eventOn (fun d =>
    if decide (d.rf .timeAddend 0 0 32 ≤ d.time.now % (1000000 * 65536)) then d
    else d.withTime { d.time with spread := (d.reg .timeClkSpread 0).setWidth 32 }) s

end Sys2Proof.Machine
end

