-- ==== Sys2Proof/Machine/Words.lean ====
section
/-! DEFINITION. Machine/Words.lean: the 32-bit words of Dunval, as PROG_LOAD reads them: formats, the opcode map, classes, legal words and bundles (R96 to R103 of 03_dunval_instruction_set.md). -/
namespace Sys2Proof.Machine
open Sys2Proof

/-! ## The fields of a word (R100) -/

def wOp (w : W32) : BitVec 6 := w.extractLsb' 26 6
def wPred (w : W32) : BitVec 4 := w.extractLsb' 22 4
def wRd (w : W32) : BitVec 5 := w.extractLsb' 17 5
def wRa (w : W32) : BitVec 5 := w.extractLsb' 12 5
def wRb (w : W32) : BitVec 5 := w.extractLsb' 7 5
def wWb (w : W32) : Bool := w.getLsbD 6
def wFunc (w : W32) : BitVec 6 := w.extractLsb' 0 6
def wImm (w : W32) : BitVec 12 := w.extractLsb' 0 12

/-- The rb operand of opcodes 0x00, 0x08 and 0x0D: with wb set rb[10:7] names a window and rb[11] is zero. -/
def wSrc (w : W32) : Option RbSrc :=
  if wWb w then (if w.getLsbD 11 then none else some (.win (w.extractLsb' 7 4))) else some (.reg (wRb w))

/-- The instruction a word spells in a thread's slot, by the opcode map of R102. None is a reserved opcode, an unlisted selector, or a field the map requires to be zero. -/
def decodeWord (tid : Fin 576) (slot : Slot) (w : W32) : Option Instr :=
  let i : Issue := ⟨tid, slot, wPred w⟩
  let rd := wRd w
  let ra := wRa w
  let rb := wRb w
  let f := (wFunc w).toNat
  let imm := wImm w
  let plain := fun (x : Instr) => if wWb w then none else some x
  let zero := fun (lo n : Nat) (x : Instr) => if (w >>> lo).toNat % 2 ^ n = 0 then some x else none
  let pos : BitVec 6 := w.extractLsb' 6 6
  let wm1 : BitVec 6 := w.extractLsb' 0 6
  match (wOp w).toNat with
  | 0x00 => (wSrc w).bind (fun s => match f with
      | 0 => some (.add i rd ra s) | 1 => some (.sub i rd ra s) | 2 => some (.and i rd ra s) | 3 => some (.or i rd ra s)
      | 4 => some (.xor i rd ra s) | 5 => some (.andn i rd ra s) | 6 => some (.shl i rd ra s) | 7 => some (.shr i rd ra s)
      | 8 => some (.sar i rd ra s) | 9 => some (.min i rd ra s) | 10 => some (.max i rd ra s) | 11 => some (.minu i rd ra s)
      | 12 => some (.maxu i rd ra s) | _ => none)
  | 0x01 => some (.addi i rd ra imm)
  | 0x02 => some (.andi i rd ra imm)
  | 0x03 => some (.ori i rd ra imm)
  | 0x04 => some (.xori i rd ra imm)
  | 0x05 => match w.toNat / 64 % 64 with
      | 0 => some (.shli i rd ra wm1) | 1 => some (.shri i rd ra wm1) | 2 => some (.sari i rd ra wm1) | _ => none
  | 0x06 => some (.movi i rd (w.extractLsb' 0 17))
  | 0x07 => zero 16 1 (.movsh i rd (w.extractLsb' 0 16))
  | 0x08 => (wSrc w).bind (fun s => match f with
      | 0 => some (.mul i rd ra s) | 1 => some (.mulhu i rd ra s) | 2 => some (.mulhs i rd ra s) | _ => none)
  | 0x09 => some (.bfx i rd ra pos wm1)
  | 0x0A => some (.bfxs i rd ra pos wm1)
  | 0x0B => some (.bfi i rd ra pos wm1)
  | 0x0C => zero 16 1 (.bfxw i rd (w.extractLsb' 12 4) pos wm1)
  | 0x0D => (wSrc w).bind (fun s =>
      if (w.toNat / 2 ^ 20 % 4 = 0) ∧ f < 8 then some (.cmp i (w.extractLsb' 0 3) (w.extractLsb' 17 3) ra s) else none)
  | 0x0E => some (.cmpi i (w.extractLsb' 19 3) (w.extractLsb' 16 3) (w.extractLsb' 11 5) (w.extractLsb' 0 11))
  | 0x0F => if f < 4 then plain (.plog i (w.extractLsb' 0 2) (w.extractLsb' 17 3) (w.extractLsb' 12 3) (w.extractLsb' 7 3)) else none
  | 0x10 => some (.br i (w.extractLsb' 0 22))
  | 0x11 => some (.call i (w.extractLsb' 0 22))
  | 0x12 => if f = 0 then plain (.jr i ra) else none
  | 0x14 => some (.ld i (w.extractLsb' 10 2) (w.extractLsb' 8 2) rd ra (w.extractLsb' 0 8))
  | 0x15 => some (.st i (w.extractLsb' 10 2) (w.extractLsb' 8 2) rd ra (w.extractLsb' 0 8))
  | 0x16 => match w.toNat % 16 with
      | 0 => some (.atomAdd i (w.extractLsb' 5 2) (w.extractLsb' 4 1) rd ra rb)
      | 1 => some (.atomSwap i (w.extractLsb' 5 2) (w.extractLsb' 4 1) rd ra rb)
      | 2 => some (.atomCas i (w.extractLsb' 5 2) (w.extractLsb' 4 1) rd ra rb)
      | _ => none
  | 0x17 => some (.lkacq i rd ra imm)
  | 0x18 => zero 17 5 (.lkrel i ra imm)
  | 0x19 => zero 0 22 (.fence i)
  | 0x1A => match f with
      | 0 => plain (.tnow i rd) | 1 => plain (.tnowh i rd) | 2 => plain (.tadd i rd ra rb) | 3 => plain (.twait i ra)
      | 4 => plain (.tset i ra rb) | 5 => plain (.tclr i) | _ => none
  | 0x1B => if f = 0 then plain (.waitev i rd ra) else none
  | 0x1C => zero 5 6 (if w.getLsbD 11 then .sigevG i ra (w.extractLsb' 0 5) else .sigevT i ra (w.extractLsb' 0 5))
  | 0x1D => match f with
      | 0 => plain (.pktGet i rd) | 1 => plain (.pktSend i ra rb) | 2 => plain (.pktDrop i ra)
      | 3 => if w.getLsbD 21 then none else plain (.wst i (w.extractLsb' 17 4) ra)
      | _ => none
  | 0x1E => zero 8 4 (.lkx i rd ra (w.extractLsb' 0 8))
  | 0x1F => zero 8 4 (.lkw i rd ra (w.extractLsb' 0 8))
  | 0x20 => if f < 4 then plain (.crc32c i (w.extractLsb' 0 2) rd ra rb)
      else if f < 8 then plain (.crc64 i (w.extractLsb' 0 2) rd ra rb)
      else if f = 8 then plain (.hash i rd ra rb) else none
  | 0x21 => zero 2 10 (.submit i rd ra (w.extractLsb' 0 2))
  | 0x22 => if f = 0 then plain (.accpoll i rd ra) else none
  | 0x23 => match f with
      | 0 => plain (.dclaim i rd ra) | 1 => plain (.drel i ra)
      | 2 => if w.getLsbD 21 then none else plain (.dwr i (w.extractLsb' 17 4) ra rb)
      | 3 => plain (.dstart i rd ra) | 4 => plain (.dpoll i rd ra) | _ => none
  | 0x24 => zero 9 3 (.cinc i ra (w.extractLsb' 0 9))
  | 0x25 => if f = 0 then plain (.snap i rd) else none
  | 0x26 => if f = 0 then plain (.mfsr i rd ra) else none
  | 0x27 => if f = 0 then plain (.mtsr i rd ra) else none
  | 0x28 => if f = 0 then plain (.tstart i rd ra rb) else none
  | _ => none

/-! ## Classes, ports, destinations (R97, R98, R102) -/

/-- Every class a word belongs to: an atomic belongs to class 6 and to its space's. -/
def wordClasses (w : W32) : List Nat :=
  match (wOp w).toNat with
  | 0x10 | 0x11 | 0x12 => [1]
  | 0x14 | 0x15 => [2 + w.toNat / 2 ^ 10 % 4]
  | 0x16 => [6, 2 + w.toNat / 2 ^ 5 % 4]
  | 0x17 | 0x18 => [7]
  | 0x1A | 0x1B | 0x1C => [8]
  | 0x1D => [9]
  | 0x1E | 0x1F => [10]
  | 0x20 => [11]
  | 0x21 | 0x22 => [12]
  | 0x23 => [13]
  | 0x24 | 0x25 => [14]
  | 0x26 => if 10 ≤ (wRa w).toNat ∧ (wRa w).toNat ≤ 12 then [15] else [0]
  | 0x28 => [15]
  | _ => [0]

/-- A port instruction (R97). -/
def wordPort (w : W32) : Bool :=
  let f := (wFunc w).toNat
  match (wOp w).toNat with
  | 0x14 | 0x15 => w.toNat / 2 ^ 10 % 4 != 0
  | 0x16 => w.toNat / 2 ^ 5 % 4 != 0
  | 0x17 | 0x18 | 0x1C | 0x1E | 0x1F | 0x21 | 0x24 | 0x25 | 0x28 => true
  | 0x1D => f < 3
  | 0x23 => f != 2
  | _ => false

/-- The name of a word's destination, 0 for none (R98): 1 to 31 a general register, 41 to 47 a predicate, 50 on a window, 1000 on a DWR channel and index. -/
def wordDest (w : W32) : Nat :=
  let f := (wFunc w).toNat
  let pd := fun (p : Nat) => if p = 0 then 0 else 40 + p
  match (wOp w).toNat with
  | 0x0D | 0x0F => pd ((wRd w).toNat % 8)
  | 0x0E => pd (w.toNat / 2 ^ 16 % 8)
  | 0x10 | 0x12 | 0x15 | 0x18 | 0x19 | 0x1C | 0x24 | 0x27 => 0
  | 0x11 => 31
  | 0x1A => if f < 3 then (wRd w).toNat else 0
  | 0x1D => if f = 0 then (wRd w).toNat else if f = 3 then 50 + (wRd w).toNat % 16 else 0
  | 0x23 => if f = 1 then 0 else if f = 2 then 1000 + 16 * (wRa w).toNat + (wRd w).toNat % 16 else (wRd w).toNat
  | _ => (wRd w).toNat

/-- A word that may stand in a slot (R96, R101, R103). -/
def wordLegal (slot : Slot) (w : W32) : Bool :=
  match decodeWord 0 slot w with
  | some i => i.wf
  | none => false

/-- A legal bundle (R96 to R98, R103). -/
def bundleLegal (a b : W32) : Bool :=
  wordLegal .a a && wordLegal .b b && !(wordPort a && wordPort b) && (wordDest a == 0 || wordDest a != wordDest b)

end Sys2Proof.Machine
end

