-- ==== Sys2Proof/Machine/Programs.lean ====
section
/-! DEFINITION. Machine/Programs.lean: program images, their checks, and PROG_LOAD, PROG_START and PROG_STOP (R374 to R378 of 10_wenot_command_set.md, R64, R75 of 02_engine_cores.md). -/
namespace Sys2Proof.Machine
open Sys2Proof

/-! ## The image (R374) -/

/-- A section entry. -/
structure Sect where
  kind : Nat
  isl : Nat
  core : Nat
  pinned : Bool
  zfill : Bool
  target : Nat
  len : Nat
  off : Nat
  deriving DecidableEq, Repr

def sectAt (p : List Byte) (o : Nat) : Sect :=
  ⟨leAt p o 1, leAt p (o + 1) 1, leAt p (o + 2) 1, nbit (leAt p (o + 3) 1) 0, nbit (leAt p (o + 3) 1) 1, leAt p (o + 8) 8, leAt p (o + 16) 4, leAt p (o + 20) 4⟩

/-- Offsets of the tables of an image. -/
def imgSecs (p : List Byte) : List Nat := (List.range (leAt p 6 2)).map (fun k => 64 + 32 * k)
def imgEnts (p : List Byte) : List Nat := (List.range (leAt p 14 2)).map (fun k => 64 + 32 * leAt p 6 2 + 8 * k)
def imgGrps (p : List Byte) : List Nat := (List.range (leAt p 12 2)).map (fun k => 64 + 32 * leAt p 6 2 + 8 * leAt p 14 2 + 32 * k)
def imgTables (p : List Byte) : Nat := 64 + 32 * leAt p 6 2 + 8 * leAt p 14 2 + 32 * leAt p 12 2

/-- A malformed section entry. -/
def sectBad (p : List Byte) (o : Nat) : Bool :=
  let x := sectAt p o
  x.kind == 0 || decide (4 < x.kind) || (if x.kind ≤ 2 then decide (x.isl < 2) || decide (5 < x.isl) else x.isl != 0) ||
  (if x.kind = 3 then decide (63 < x.core) else x.core != 0) || decide (3 < leAt p (o + 3) 1) || (x.pinned && x.kind != 1) ||
  leAt p (o + 4) 4 != 0 || leAt p (o + 24) 8 != 0 || (x.kind == 1 && (x.target % 8 != 0 || x.len % 8 != 0)) ||
  (if x.zfill then x.off != 0 else decide (p.length < x.off + x.len))

/-- A malformed group record. -/
def grpBad (p : List Byte) (o : Nat) : Bool :=
  decide (1023 < leAt p o 2) || decide (29 < leAt p (o + 2) 1) || decide (2 < leAt p (o + 3) 1) || leAt p (o + 4) 4 == 0 ||
  decide (1000 < leAt p (o + 4) 4) || leAt p (o + 24) 8 != 0

/-- The first offset whose record fails a test. -/
def firstBad (os : List Nat) (f : Nat → Bool) : Option Nat := os.find? f
/-- The first offset whose number has stood at an earlier offset. -/
def firstTwice (os : List Nat) (f : Nat → Nat) : Option Nat :=
  ((List.range os.length).find? (fun k => (os.take k).any (fun o => f o == f (os.getD k 0)))).map (fun k => os.getD k 0)

/-- Check 1 of R375: the offset of the first malformed field or record. -/
def imgBad (p : List Byte) : Option Nat :=
  let n := leAt p 8 4
  let sig := leAt p 20 4
  let fields : List (Bool × Nat) := [
    (p.length < 64 || leAt p 0 4 != 0x4D495644, 0), (leAt p 4 1 != 1, 4), (7 < leAt p 5 1, 5), (leAt p 6 2 == 0 || 64 < leAt p 6 2, 6),
    (n != p.length || n < imgTables p, 8), (1024 < leAt p 12 2, 12), (leAt p 14 2 == 0 || 512 < leAt p 14 2, 14), (leAt p 18 2 != 0, 18),
    (sig != 0 && (sig + 200 != n || sig < imgTables p || leAt p (sig + 97) 7 != 0), 20), ((slice p 24 40).any (· != 0), 24)]
  match fields.find? (·.1) with
  | some x => some x.2
  | none =>
    (firstBad (imgSecs p) (sectBad p)).orElse (fun _ =>
    (firstBad (imgEnts p) (fun o => decide (575 < leAt p o 2) || leAt p (o + 2) 2 != 0)).orElse (fun _ =>
    (firstTwice (imgEnts p) (fun o => leAt p o 2)).orElse (fun _ =>
    (firstBad (imgGrps p) (grpBad p)).orElse (fun _ => firstTwice (imgGrps p) (fun o => leAt p o 2)))))

/-! ## What the checks look at -/

/-- The islands an image reaches: a duplex partition's image is for the active island, and goes to the other one as well (R375). -/
def Dev.mirrorIsl (d : Dev) (p isl : Nat) : List Nat :=
  if d.inDuplex p && !d.dpxExternal p then [isl, peerIsl isl] else [isl]
/-- The cores an image is checked against: the partition's, or in duplex those of its active island. -/
def Dev.imgCores (d : Dev) (p : Nat) : List Nat :=
  (d.coresOf p).filter (fun c => !(d.inDuplex p && !d.dpxExternal p) || islOfCore c == d.dpxActive p)
/-- The threads of a group record. -/
def grpThreads (p : List Byte) (o : Nat) : List Nat :=
  ((List.range 128).filter (fun b => nbit (leAt p (o + 8) 16) b)).map (fun b => 128 * (leAt p o 2 / 256) + b)

/-- Check 3, R376: the signature block at an offset. -/
def Dev.sigOk (d : Dev) (p : List Byte) (sig : Nat) : Bool :=
  let key := slice p sig 97
  (match d.board.signReq with | some dig => sha256 key == dig | none => true) && leAt p sig 1 == 4 &&
  ecdsaVerify (sha384 (p.take sig)) (beAt p (sig + 1) 48) (beAt p (sig + 49) 48) (beAt p (sig + 104) 48) (beAt p (sig + 152) 48)

/-- Where a section stands: the start in the internal address space. -/
def sectAddr (x : Sect) : Nat :=
  match x.kind with
  | 1 => islAddr x.isl (0x110000000 + x.target)
  | 2 => x.target
  | 3 => localAddr x.core x.target
  | _ => ddrAddr x.target

/-- Check 5's rights: island and DDR data within the grant, local data within its core's memory. -/
def Dev.sectDenied (d : Dev) (p : Nat) (x : Sect) : Bool :=
  x.len != 0 && (match x.kind with
    | 2 => decide (x.target / 2 ^ 44 ≠ x.isl) || d.checkMem (.part p) x.target x.len != .ok ||
        (match d.region x.target x.len with | some (.island ..) => false | _ => true)
    | 3 => decide (0x40000 < x.target + x.len)
    | 4 => d.checkMem (.part p) (ddrAddr x.target) x.len != .ok
    | _ => false)
/-- Two sections that share a byte. -/
def sectMeets (a b : Sect) : Bool := decide (sectAddr a < sectAddr b + b.len) && decide (sectAddr b < sectAddr a + a.len)
/-- The first section that overlaps an earlier one. -/
def sectOverlap (p : List Byte) : Option Nat :=
  let os := imgSecs p
  ((List.range os.length).find? (fun k => (os.take k).any (fun o => sectMeets (sectAt p o) (sectAt p (os.getD k 0))))).map (fun k => os.getD k 0)

/-- Check 6: code within instruction memory of an island of the partition's cores, over no other partition's code. -/
def Dev.codeDenied (d : Dev) (p : Nat) (x : Sect) : Bool :=
  x.kind == 1 && (decide (0x800000 < x.target + x.len) || !(d.imgCores p).any (fun c => islOfCore c == x.isl) ||
    ((List.range 8).filter (· != p)).any (fun q => match (d.part q).prog with
      | some g => g.code.any (fun c => (d.mirrorIsl p x.isl).contains c.isl && decide (c.first < x.target + x.len) && decide (x.target < c.first + c.len))
      | none => false))

/-- The bundle at an offset of an image, and check 7: legal words of allowed classes. -/
def bundleBad (p : List Byte) (classes : BitVec 16) (o : Nat) : Bool :=
  let a := BitVec.ofNat 32 (leAt p o 4)
  let b := BitVec.ofNat 32 (leAt p (o + 4) 4)
  !bundleLegal a b || !(wordClasses a ++ wordClasses b).all (fun c => classes.getLsbD c)
/-- The offset of the first bad bundle of a section. A zero-filled section holds bundles of two NOPs, of class 0. -/
def codeBad (p : List Byte) (classes : BitVec 16) (o : Nat) : Option Nat :=
  let x := sectAt p o
  if x.kind ≠ 1 then none
  else if x.zfill then (if x.len = 0 || classes.getLsbD 0 then none else some o)
  else ((List.range (x.len / 8)).map (fun k => x.off + 8 * k)).find? (bundleBad p classes)

/-- The instruction-memory lines a section takes. -/
def sectLines (x : Sect) : List Nat :=
  if x.len = 0 then [] else (List.range ((x.target + x.len - 1) / 64 - x.target / 64 + 1)).map (fun k => x.target / 64 + k)
/-- The pinned lines of an island. -/
def pinLines (ss : List Sect) (isl : Nat) : List Nat := ((ss.filter (fun x => x.pinned && x.isl == isl)).flatMap sectLines).eraseDups
/-- The most pinned lines in one of the 128 cache sets. -/
def pinWays (ls : List Nat) : Nat := (List.range 128).foldl (fun a k => Nat.max a (ls.filter (fun l => l % 128 == k)).length) 0
/-- Check 8: the first pinned section with which its island has too much pinned code. -/
def pinBad (p : List Byte) : Option Nat :=
  let os := (imgSecs p).filter (fun o => (sectAt p o).pinned)
  os.find? (fun o =>
    let upTo := ((imgSecs p).filter (fun q => q ≤ o)).map (sectAt p)
    let ls := pinLines upTo (sectAt p o).isl
    decide (49152 < (upTo.filter (fun x => x.pinned && x.isl == (sectAt p o).isl)).foldl (fun a x => a + x.len) 0) || decide (6 < pinWays ls))

/-- Check 9: an entry address in a code section of its thread's island. -/
def imgEntryBad (p : List Byte) (o : Nat) : Bool :=
  let a := leAt p (o + 4) 4
  a % 8 != 0 || !(imgSecs p).any (fun q =>
    let x := sectAt p q
    x.kind == 1 && x.isl == islOf (leAt p o 2) && decide (x.target ≤ a) && decide (a + 8 ≤ x.target + x.len))

/-! ## PROG_LOAD (R375) -/

/-- A check of the image: the status and the offset of the first failure. -/
def imgFail (st : Byte) (o : Option Nat) : Option (Byte × Nat) := o.map (fun x => (st, x))

/-- Checks 4 to 9 in order. -/
def Dev.imgCheck (d : Dev) (n : Nat) (p : List Byte) : Option (Byte × Nat) :=
  let cores := d.imgCores n
  let on := fun t => cores.contains (coreOf t)
  let classes := wf (d.reg .ptnCaps n) 16 16
  (imgFail 0x05 (firstBad (imgEnts p) (fun o => !on (leAt p o 2)))).orElse (fun _ =>
  (imgFail 0x05 (firstBad (imgGrps p) (fun o => !d.granted n 9 0 (leAt p o 2) || !(grpThreads p o).all on))).orElse (fun _ =>
  (imgFail 0x04 (firstBad (imgGrps p) (fun o => (imgGrps p).any (fun q => decide (q < o) && (grpThreads p o).any (fun t => (grpThreads p q).contains t))))).orElse (fun _ =>
  (imgFail 0x05 (firstBad (imgSecs p) (fun o => (sectAt p o).kind == 3 && !cores.contains (sectAt p o).core))).orElse (fun _ =>
  (imgFail 0x05 (firstBad (imgSecs p) (fun o => d.sectDenied n (sectAt p o)))).orElse (fun _ =>
  (imgFail 0x04 (sectOverlap p)).orElse (fun _ =>
  (imgFail 0x05 (firstBad (imgSecs p) (fun o => d.codeDenied n (sectAt p o)))).orElse (fun _ =>
  (imgFail 0x04 ((imgSecs p).findSome? (codeBad p (BitVec.ofNat 16 classes)))).orElse (fun _ =>
  (imgFail 0x03 (pinBad p)).orElse (fun _ =>
  imgFail 0x04 (firstBad (imgEnts p) (imgEntryBad p)))))))))))

/-- A thread of a partition is not IDLE, or a start is ordered. -/
def Dev.started (d : Dev) (p : Nat) : Bool :=
  (d.part p).startAt.isSome || ((d.coresOf p).flatMap threadsOf).any (fun t => (d.thread t).st != .idle)

/-- A section's bytes go to memory, in duplex to both islands of the pair. -/
def Dev.loadSect (d : Dev) (n : Nat) (p : List Byte) (x : Sect) : Dev :=
  let bs := if x.zfill then List.replicate x.len 0 else slice p x.off x.len
  let put := fun (d : Dev) (a : Nat) => if x.zfill then d.zero a x.len else d.write a bs
  let a := sectAddr x
  if x.kind = 4 then put d a
  else (d.mirrorIsl n (a / 2 ^ 44)).foldl (fun d isl => put d (islAddr isl (a % 2 ^ 44))) d

/-- The loaded image's records. -/
def Dev.progOf (d : Dev) (n : Nat) (p : List Byte) : Prog :=
  let code := ((imgSecs p).map (sectAt p)).filter (fun x => x.kind == 1)
  { super := leAt p 16 2, code := code.flatMap (fun x => (d.mirrorIsl n x.isl).map (fun i => ⟨i, x.target, x.len, x.pinned⟩)),
    entries := (imgEnts p).map (fun o => (leAt p o 2, leAt p (o + 4) 4)),
    groups := (imgGrps p).map (fun o => ⟨leAt p o 2, leAt p (o + 2) 1, leAt p (o + 3) 1, leAt p (o + 4) 4, BitVec.ofNat 128 (leAt p (o + 8) 16)⟩) }

/-- A failed load: its status and the failing offset. -/
def loadFail (st : Byte) (o : Nat) (d : Dev) : FwRes := .answer { status := st, r0 := BitVec.ofNat 64 o } d

/-- PROG_LOAD: R375. -/
def execProgLoad (h : CmdHdr) (s : State) : Out :=
  wenot 0x40 false (fun p _ d =>
    match imgBad p with
    | some o => loadFail 0x04 o d
    | none =>
      let n := leAt p 5 1
      match d.partReady n with
      | some st => loadFail st 5 d
      | none =>
        let sig := leAt p 20 4
        if d.started n then loadFail 0x09 5 d
        else if (d.board.signReq.isSome && sig == 0) || (sig != 0 && !d.sigOk p sig) then loadFail 0x08 (if sig = 0 then 20 else sig) d
        else match d.imgCheck n p with
          | some (st, o) => loadFail st o d
          | none =>
            let d := (imgSecs p).foldl (fun d o => d.loadSect n p (sectAt p o)) d
            .ok (d.setPart n { d.part n with prog := some (d.progOf n p) })) h s

/-! ## PROG_START and PROG_STOP (R377, R378) -/

/-- The groups of an image are installed; the partition's other groups have no members. -/
def Dev.installGroups (d : Dev) (p : Nat) (g : Prog) : Dev :=
  let d := (d.partNums p 9).foldl (fun d n =>
    (List.range 4).foldl (fun d k => d.setReg .clsGrpMem (4 * n.2 + k) 0) (d.setReg .clsGrp n.2 (BitVec.ofNat 64 p))) d
  g.groups.foldl (fun d r =>
    let d := d.setReg .clsGrp r.group (BitVec.ofNat 64 (p + r.line * 2 ^ 4 + r.reorder * 2 ^ 9 + r.timeout * 2 ^ 12))
    (List.range 4).foldl (fun d k => d.setReg .clsGrpMem (4 * r.group + k) (BitVec.ofNat 64 (fld r.members.toNat (32 * k) 32))) d) d

/-- The pinned lines of an image are loaded in the caches of the partition's cores (R64). -/
def Dev.pinCode (d : Dev) (p : Nat) (g : Prog) : Dev :=
  (d.coresOf p).foldl (fun d c =>
    let ss := (g.code.filter (fun x => x.isl == islOfCore c)).map (fun x => (⟨1, x.isl, 0, x.pinned, false, x.first, x.len, 0⟩ : Sect))
    let ls := pinLines ss (islOfCore c)
    let d := { d with cores := tabPut d.cores {} c { tabGet d.cores {} c with pinned := ls } }
    d.setReg .coreIcachePin c (BitVec.ofNat 64 (pinWays ls))) d

/-- Slots in which a thread has issued or been stopped by its own bundle: what its cut counts (R414). -/
def Dev.slotCount (d : Dev) (t : Nat) : Word := tabGet d.cnt.slot 0 (5 * t) + tabGet d.cnt.slot 0 (5 * t + 1)
/-- The two islands of a partition are equal now: slot counts are compared from here on. -/
def Dev.setLead (d : Dev) (p : Nat) : Dev :=
  let ts := ((d.thr.map (·.1)).filter (fun t => timed t && d.partOf t == some p)).map d.activeTid
  let lead := ts.foldl (fun l t => tabPut l 0 t (d.slotCount (peerTid t) - d.slotCount t)) []
  d.setDuplex p { d.duplex p with lead := lead }
/-- The threads of a duplex partition start: its cycles count from here, and its standby is synchronised from the start unless it is held out (R410, R411). -/
def Dev.dpxStart (d : Dev) (p : Nat) : Dev :=
  if !d.inDuplex p then d
  else
    let x := d.duplex p
    let d := d.setDuplex p { x with
      start := d.ns, cycle := 0, cut := [], ckpt := none, due := none, chkActive := false, chkStandby := false, lastMm := none, resync := false, copied := false }
    let ok := !d.rb .dpxStat p 3 && (!d.dpxExternal p || d.dpx.ferryUp)
    (((d.setRb .dpxStat p 0 ok).setRb .dpxStat p 1 false)).setLead p

/-- Every entry thread starts in the state of R91 and R94; in duplex both islands of the pair. Frames already assigned to it stay its own. -/
def Dev.release (d : Dev) (p : Nat) : Dev :=
  match (d.part p).prog with
  | none => d
  | some g =>
    let d := d.setPart p { d.part p with startAt := none, quietSince := none, quietRaised := false }
    let d := g.entries.foldl (fun d e =>
      let ts := if d.inDuplex p && !d.dpxExternal p then [e.1, peerTid e.1] else [e.1]
      ts.foldl (fun d t => d.updThread t (fun x => { st := .running, pc := e.2, nextId := x.nextId, assigned := x.assigned })) d) d
    d.dpxStart p

/-- The supervisor an image names is a timed thread of the partition (R75). -/
def Dev.superOk (d : Dev) (p : Nat) (g : Prog) : Bool := timed g.super && (d.imgCores p).contains (coreOf g.super)

/-- The first tick at or after a time in ns, as a time in ns. -/
def Dev.tickAt (d : Dev) (ns : Nat) : Nat :=
  let a := Nat.max 1 (d.rf .timeAddend 0 0 32)
  if ns * 65536 ≤ d.time.now then d.ns else (d.time.now + (ns * 65536 - d.time.now + a - 1) / a * a) / 65536

/-- PROG_START: R377. -/
def execProgStart (h : CmdHdr) (s : State) : Out :=
  wenot 0x41 false (fun p h d =>
    let n := leAt p 0 1
    let fl := leAt p 1 1
    if p.length ≠ 16 ∨ 7 < n ∨ 7 < fl ∨ leAt p 2 2 ≠ 0 ∨ leAt p 12 4 ≠ 0 ∨ !timeWordOk h.arg0 then .fail 0x04 d
    else match d.partReady n, (d.part n).prog with
      | some st, _ => .fail st d
      | none, none => .fail 0x06 d
      | none, some g =>
        if d.started n then .fail 0x09 d
        else if !d.superOk n g then .fail 0x04 d
        else
          let keep := nbit fl 2
          let q := leAt p 4 4
          let l := leAt p 8 4
          let d := if keep then d else
            let d := (d.setReg .coreQuietLimit n (BitVec.ofNat 64 (Nat.min q 10000000))).setReg .coreClaimLease n (BitVec.ofNat 64 (Nat.min l 1000000))
            d.setReg .coreDbgPart n (BitVec.ofNat 64 (fl % 4))
          let d := (d.installGroups n g).pinCode n g
          let d := d.setReg .coreSupv n (BitVec.ofNat 64 (g.super + 2 ^ 31))
          let st : Byte := if !keep && (decide (10000000 < q) || decide (1000000 < l)) then 0x01 else 0
          let t := expandTime d.sec h.arg0
          let late := h.arg0 == 0 || decide (t ≤ d.ns)
          if late then .answer { status := st, r0 := timeWord d.ns, late := true } (d.release n)
          else .answer { status := st, r0 := timeWord (d.tickAt t) } (d.setPart n { d.part n with startAt := some (d.tickAt t) })) h s

/-- PROG_START_RELEASE: the start tick of a partition has come (R377). -/
def execProgStartRelease (p : Fin 8) (s : State) : Out :=
  event (fun d =>
    match (d.part p.val).startAt with
    | some t => if decide (t ≤ d.ns) && d.partState p.val == 1 then d.release p.val else d
    | none => d) s

/-- PROG_STOP: R378. Its duration is a free value within the command's bound. -/
def execProgStop (h : CmdHdr) (s : State) : Out :=
  wenot 0x42 true (fun _ h d =>
    let p := h.arg0.toNat
    if 7 < p then .fail 0x04 d
    else match d.partReady p with
      | some st => .fail st d
      | none =>
        let d := (d.coresOf p).foldl (fun d c => d.coreReset c false) d
        let d := (d.setRb .coreSupv p 31 false).setPart p { d.part p with startAt := none, quietSince := none }
        let (v, d) := d.fresh
        .ok d (v.toNat % 250001)) h s

end Sys2Proof.Machine
end

