-- ==== Sys2Proof/Machine/HostPort.lean ====
section
/-! DEFINITION. Machine/HostPort.lean: host links and ports, function resets, bus master enable, power states, interrupt enables, window commits, completions and their timeouts (R293 to R318 of 08_host_endpoint.md). -/
namespace Sys2Proof.Machine
open Sys2Proof

/-! ## A function stops (R312) -/

/-- The slices bound to a function of a host port (R298). -/
def Dev.fnSlices (d : Dev) (h f : Nat) : List Nat :=
  if f = 0 then [] else (d.slicesOf (f - 1)).filter (fun s => d.slicePort s == h)

/-- The channels of a partition with a transfer that reaches host memory through a function (R298). -/
def Dev.fnChans (d : Dev) (h f : Nat) : List Nat :=
  if f = 0 then []
  else (d.chansOf (f - 1)).filter (fun ch =>
    (d.chMode ch 0 2 != 0) && (match d.chanSlice ch (f - 1) with | some (_, g) => g.port == h | none => false))

/-- A submission ring stops with its function: its fetch read is discarded, and a TX frame not yet read completes with HOST_MASTER_DISABLED (R312). -/
def Dev.stopRing (d : Dev) (n : Nat) : Dev :=
  let x := d.sq n
  if d.sqKind n = 1 then
    let d := d.setSq n { x with flight := none, entries := [], reading := none }
    (x.reading.toList ++ x.entries).foldl (fun d e => d.txEntryEnd n e 0x17) d
  else d.setSq n { x with flight := none }

/-- What a function had under way when it stops issuing requests ends (R312). -/
def Dev.fnStop (d : Dev) (h f : Nat) : Dev :=
  let ss := d.fnSlices h f
  let d := (d.fnChans h f).foldl (fun d ch => d.failXfer ch 0x17) d
  let d := ss.foldl (fun d s => (d.sqsOf s).foldl (fun d n => d.stopRing n) d) d
  let d := ss.foldl (fun d s => d.failLoads s) d
  d.discardReqs (fun r => r.h == h && r.f == f && !r.quarantined)

/-- The faces of the mailboxes follow a change of the links and functions (R351, R356). -/
def Dev.showFaces (d : Dev) : Dev := d.mbxList.foldl (fun d m => d.faceShow m) d

/-! ## Function and port resets (R313, R314) -/

/-- A function's configuration space, window tables and interrupt state return to their reset values (R313 step 4). A changed bar2_log2 waits for a fundamental reset. -/
def Dev.fnConfigReset (d : Dev) (h f : Nat) : Dev :=
  let k := fnKey h f
  let before := d
  let d := d.setFn h f { bar2Log := (d.fn h f).bar2Log }
  let d := d.resetWhere [.hostFnStat, .hostFnIrq, .hostWinStat] (fun _ i => i == k)
  let d := d.resetWhere [.hostWinAct, .hostWinStg] (fun _ i => i / 256 == k)
  let d := d.resetWhere [.hostIntxPend] (fun _ i => i / 64 == k)
  (d.countTags h f).intaEdge before h f

/-- Steps 3 and 4 of R313 and what hangs on them: the slices are reset without waiting for tags, the function's mailbox endpoints are reset (R352, R353), a command in progress is abandoned (R364). In the safe state nothing beyond the function is cleared (R408). -/
def Dev.fnReset (d : Dev) (h f : Nat) : Dev :=
  let d := if d.safe then d else (d.fnSlices h f).foldl (fun d s => d.sliceResetNow s) d
  let d := d.fnConfigReset h f
  let d := d.resetEnds (fun e => (e.kind == 1 || e.kind == 2) && d.endFn e == some (h, f))
  if f = 0 && h = d.mgmtPort then { d.fwAbandon with fw := { d.fwAbandon.fw with posting := none } } else d

/-- A function-level reset (R313). -/
def Dev.functionReset (d : Dev) (h f : Nat) : Dev :=
  let d := (d.setRb .hostFnStat (fnKey h f) 28 false).fnStop h f
  let fresh := (d.host.reqs.filter (fun (e : Nat × HostReq) => e.2.h == h && e.2.f == f && !e.2.quarantined)).length
  let d := d.countBy (896 + 32 * (h / 4)) fresh
  let mark := fun (e : Nat × HostReq) => if e.2.h = h ∧ e.2.f = f then (e.1, { e.2 with quarantined := true }) else e
  let d := { d with host := { d.host with reqs := d.host.reqs.map mark } }
  ((d.fnReset h f).lifeReset 5).showFaces

/-- FUNCTION_LEVEL_RESET: R313. -/
def execFunctionLevelReset (h : Fin 8) (f : Fin 9) (s : State) : Out :=
  eventOn (fun d => if d.fnExists h.val f.val then d.functionReset h.val f.val else d) s

/-- An entry to the Detect or Recovery state is counted (R294, R444). -/
def Dev.hostTrain (d : Dev) (h : Nat) : Dev :=
  { d with life := { d.life with host := tabPut d.life.host 0 h (Nat.min (2 ^ 32 - 1) (tabGet d.life.host 0 h + 1)) } }

/-- Every function of a host port is reset as R314 says, its requests at once out of use. The link is down. -/
def Dev.portReset (d : Dev) (h : Nat) : Dev :=
  let d := d.resetReg .hostPortStat h
  let fs := (List.range 9).filter (fun f => d.fnExists h f)
  let d := fs.foldl (fun d f => (d.setRb .hostFnStat (fnKey h f) 28 false).fnStop h f) d
  let d := { d with host := { d.host with reqs := d.host.reqs.filter (fun e => e.2.h != h) } }
  let d := (List.range 9).foldl (fun d f => d.countTags h f) d
  (fs.foldl (fun d f => d.fnReset h f) d).showFaces

/-- HOST_LINK_DOWN: R295. -/
def execHostLinkDown (h : Fin 8) (s : State) : Out :=
  eventOn (fun d =>
    if d.hostPortExists h.val && d.linkUp h.val then (((d.raiseFree 1152 1 none).lifeReset 4).portReset h.val).hostTrain h.val else d) s

/-- HOT_RESET: a hot reset or a link disable of a host port (R314). -/
def execHotReset (h : Fin 8) (s : State) : Out :=
  eventOn (fun d => if d.hostPortExists h.val && d.linkUp h.val then ((d.lifeReset 4).portReset h.val).hostTrain h.val else d) s

/-- The BAR2 sizes that HOST_FN_CFG asks for take effect on a host port (R300). -/
def Dev.applyBar2 (d : Dev) (h : Nat) : Dev :=
  (List.range 9).foldl (fun d f => d.updFn h f (fun x => { x with bar2Log := d.rf .hostFnCfg (fnKey h f) 0 5 })) d

/-- FUNDAMENTAL_RESET: a host port's PERST input is asserted (R314). The inputs of unused host ports are ignored (R293). In the safe state DEVICE_RESET follows on the management port when FLT_CFG.perst_exit is set (R409, R450). -/
def execFundamentalReset (h : Fin 8) (s : State) : Out :=
  eventOn (fun d =>
    if !d.hostPortExists h.val || d.host.perst.getLsbD h.val then d
    else
      let d := { d with host := { d.host with perst := d.host.perst ||| (1#8 <<< h.val) } }
      ((d.lifeReset 3).portReset h.val).applyBar2 h.val) s

/-- Width and tag size of a trained link, as HOST_PORT_STAT holds them: the tag size is 8, 10 or 14 (R294, R304). -/
def trainStat (max : Nat) (t : LinkTrain) : Nat :=
  let rate := Nat.min t.rate.toNat max
  let width := Nat.min 16 (Nat.max 1 t.width.toNat)
  let tags := if t.tagBits = 14 then 14 else if t.tagBits = 10 then 10 else 8
  1 + rate * 2 + width * 2 ^ 4 + b2n (t.flit || decide (5 ≤ rate)) * 2 ^ 9 + width * 2 ^ 10 + tags * 2 ^ 16

/-- HOST_LINK_UP: a host port that may train, with its PERST released, finishes training (R294, R451). -/
def execHostLinkUp (h : Fin 8) (t : LinkTrain) (s : State) : Out :=
  eventOn (fun d =>
    let h := h.val
    if d.hostPortExists h && !d.host.perst.getLsbD h && d.host.training.getLsbD h && !d.linkUp h then
      (d.setReg .hostPortStat h (BitVec.ofNat 64 (trainStat (d.rf .hostLinkCfg (h / 4) 4 3) t))).showFaces
    else d) s

/-- TAG_QUARANTINE_RELEASE: the timeout in force before the reset has passed since the request's issue (R313). -/
def execTagQuarantineRelease (tag : Nat) (s : State) : Out :=
  eventOn (fun d =>
    match tabFind tag d.host.reqs with
    | some r => if r.quarantined && decide (r.tick + r.limit ≤ d.time.tick) then d.dropTag tag else d
    | none => d) s

/-! ## Bus master enable and power states (R312, R317) -/

/-- A function stops issuing requests, and its work ends (R312). -/
def Dev.masterOff (d : Dev) (h f : Nat) : Dev := ((d.fnStop h f).countTags h f).showFaces

/-- The raises a function has held are delivered (R310). -/
def Dev.sendHeld (d : Dev) (h f : Nat) : Dev :=
  let vs := (d.fn h f).held
  vs.foldl (fun d v => d.interrupt h f v) (d.updFn h f (fun x => { x with held := [] }))

/-- A function may issue again: fetch resumes, held completions are written, held interrupts are sent (R312). -/
def Dev.masterOn (d : Dev) (h f : Nat) : Dev :=
  let d := (d.fnSlices h f).foldl (fun d s => d.sliceDrain s) d
  (d.drainChannels.sendHeld h f).showFaces

/-- BUS_MASTER_ENABLE_CLEAR: R312. -/
def execBusMasterEnableClear (h : Fin 8) (f : Fin 9) (s : State) : Out :=
  eventOn (fun d =>
    if d.fnExists h.val f.val && d.bme h.val f.val then (d.setRb .hostFnStat (fnKey h.val f.val) 28 false).masterOff h.val f.val else d) s

/-- BUS_MASTER_ENABLE_SET: R312. Configuration requests are served once firmware serves commands (R454). -/
def execBusMasterEnableSet (h : Fin 8) (f : Fin 9) (s : State) : Out :=
  event (fun d =>
    if d.fnExists h.val f.val && d.linkUp h.val && d.fw.serving && !d.bme h.val f.val then
      (d.setRb .hostFnStat (fnKey h.val f.val) 28 true).masterOn h.val f.val
    else d) s

/-- D3HOT_ENTRY: the function issues nothing, and its work is handled as under R312 (R317). -/
def execD3hotEntry (h : Fin 8) (f : Fin 9) (s : State) : Out :=
  eventOn (fun d =>
    if d.fnExists h.val f.val && d.linkUp h.val && !d.d3 h.val f.val then (d.setRf .hostFnStat (fnKey h.val f.val) 29 2 3).masterOff h.val f.val else d) s

/-- D3HOT_EXIT: the function returns to D0 with its state intact (R317). -/
def execD3hotExit (h : Fin 8) (f : Fin 9) (s : State) : Out :=
  eventOn (fun d =>
    if d.fnExists h.val f.val && d.d3 h.val f.val then
      let d := d.setRf .hostFnStat (fnKey h.val f.val) 29 2 0
      if d.bme h.val f.val then d.masterOn h.val f.val else d.showFaces
    else d) s

/-! ## Interrupt enables (R310, R311) -/

/-- The vectors whose bits are set in a function's HOST_INTX_PEND. -/
def Dev.intxVectors (d : Dev) (h f : Nat) : List Nat :=
  (List.range 2048).filter (fun v => d.rb .hostIntxPend (64 * fnKey h f + v / 32) (v % 32))

/-- Pending messages that are no longer masked are sent (R310). -/
def Dev.sendPending (d : Dev) (h f : Nat) : Dev :=
  let x := d.fn h f
  if x.msixEn then
    if x.fnMask then d
    else
      let free := fun (v : Nat) => x.unmasked.contains v
      (x.pba.filter free).foldl (fun d v => d.interrupt h f v) (d.setFn h f { x with pba := x.pba.filter (fun v => !free v) })
  else if x.msiEn then
    let free := x.msiPend &&& ~~~ x.msiMask
    let vs := (List.range 32).filter (fun m => free.getLsbD m)
    vs.foldl (fun d v => d.interrupt h f v) (d.setFn h f { x with msiPend := x.msiPend &&& x.msiMask })
  else d

/-- Messages of MSI that the host may enable: 1, 2, 4, 8, 16 or 32. -/
def msiMessages (n : Nat) : Nat := 2 ^ Nat.min 5 (Nat.log2 (Nat.max n 1))

/-- The host's interrupt enables of a function change: pending INTx bits become messages of a mechanism that is enabled (R311), and what is no longer masked is sent. -/
def Dev.irqEnables (d : Dev) (h f : Nat) (e : IrqEnables) : Dev :=
  let before := d
  let d := d.updFn h f (fun x => { x with
    msixEn := e.msixEn, fnMask := e.fnMask, msiEn := e.msiEn, msiCount := msiMessages e.msiCount, msiMask := e.msiMask, intxDis := e.intxDis })
  let d := d.irqMech h f
  let d :=
    if e.msixEn || e.msiEn then
      let vs := d.intxVectors h f
      let d := d.resetWhere [.hostIntxPend] (fun _ i => i / 64 == fnKey h f)
      vs.foldl (fun d v => d.interrupt h f v) d
    else d
  (d.intaEdge before h f).sendPending h f

/-- INTERRUPT_ENABLE_CHANGE: R310, R311. -/
def execInterruptEnableChange (h : Fin 8) (f : Fin 9) (e : IrqEnables) (s : State) : Out :=
  event (fun d => if d.fnExists h.val f.val then d.irqEnables h.val f.val e else d) s

/-- VECTOR_UNMASK: a masked vector, or (none) the Function Mask, clears, and what is pending is sent (R310). -/
def execVectorUnmask (h : Fin 8) (f : Fin 9) (v : Option (Fin 2048)) (s : State) : Out :=
  event (fun d =>
    if d.fnExists h.val f.val then
      let d := d.updFn h.val f.val (fun x => match v with
        | none => { x with fnMask := false }
        | some v => { x with unmasked := if x.unmasked.contains v.val then x.unmasked else x.unmasked ++ [v.val] })
      d.sendPending h.val f.val
    else d) s

/-- The driver of a function itself, firmware or the debug interface (R320); writes through a secondary management function are denied (R297). -/
def Dev.ownFn (d : Dev) (who : Who) (h f : Nat) : Bool :=
  match who with
  | .fn h' f' => h'.val == h && f'.val == f && (f != 0 || h == d.mgmtPort)
  | _ => true

/-- A write of HOST_INTX_PEND clears the bits written as 1 (R311). -/
def Dev.intxClear (d : Dev) (h f i v : Nat) : Dev :=
  let k := 64 * fnKey h f + i
  let p := d.rf .hostIntxPend k 0 32
  (d.setReg .hostIntxPend k (BitVec.ofNat 64 (p - (p &&& v)))).intaEdge d h f

/-- HOST_INTX_PEND: R311. -/
def execHostIntxPend (who : Who) (h : Fin 8) (f : Fin 9) (i : Fin 64) (v : W32) (s : State) : Out :=
  eventOn (fun d => if d.ownFn who h.val f.val then d.intxClear h.val f.val i.val v.toNat else d.denyWrite who) s

/-! ## Window tables (R301, R302) -/

/-- The manager, through the primary management function; firmware; the debug interface (R297, R320). -/
def Dev.isManager (d : Dev) (who : Who) : Bool :=
  match who with
  | .fn h f => f.val == 0 && h.val == d.mgmtPort
  | _ => true

/-- log2 of the page size of a window entry (R300). -/
def Dev.pageLog (d : Dev) (h f e : Nat) : Nat := if e < 128 then 16 else (d.fn h f).bar2Log

/-- A valid staging entry that a commit refuses: a reserved bit, or a base that is no multiple of the page size (R301, R302). -/
def Dev.winBad (d : Dev) (h f e : Nat) : Bool :=
  let w := (d.reg .hostWinStg (256 * fnKey h f + e)).toNat
  nbit w 0 && (fld w 3 13 != 0 || fld w 48 16 != 0 || (fld w 16 32 * 65536) % 2 ^ d.pageLog h f e != 0)

/-- HOST_WIN_CTL.commit (R302). -/
def Dev.winCommit (d : Dev) (h f : Nat) : Dev :=
  let k := fnKey h f
  if d.rb .hostWinStat k 0 then d.setRb .hostWinStat k 1 true
  else
    let d := d.setRb .hostWinStat k 1 false
    match (List.range 256).find? (fun e => d.winBad h f e) with
    | some e => (d.setRb .hostWinStat k 2 true).setRf .hostWinStat k 3 8 e
    | none =>
      let old := d
      let d := (List.range 256).foldl (fun (d : Dev) e =>
        (d.setReg .hostWinAct (256 * k + e) (old.reg .hostWinStg (256 * k + e))).setReg .hostWinStg (256 * k + e) (old.reg .hostWinAct (256 * k + e))) d
      ((d.setRf .hostWinStat k 2 9 0).setRb .hostWinStat k 11 (!d.rb .hostWinStat k 11)).setRb .hostWinStat k 0 true

/-- HOST_WIN_COMMIT: R302. -/
def execHostWinCommit (who : Who) (h : Fin 8) (f : Fin 9) (s : State) : Out :=
  event (fun d => if d.isManager who then d.winCommit h.val f.val else d.denyWrite who) s

/-- WIN_COPY_DONE: firmware has copied the active bank into the staging bank (R302). -/
def execWinCopyDone (h : Fin 8) (f : Fin 9) (s : State) : Out :=
  event (fun d =>
    let k := fnKey h.val f.val
    if !d.rb .hostWinStat k 0 then d
    else
      let act := d
      let d := (List.range 256).foldl (fun (d : Dev) e => d.setReg .hostWinStg (256 * k + e) (act.reg .hostWinAct (256 * k + e))) d
      d.setRb .hostWinStat k 0 false) s

/-! ## Completions (R308, R309) -/

/-- Whether the operation of an outstanding request still waits for it. -/
def Dev.reqWanted (d : Dev) (r : HostReq) : Bool :=
  match r.op with
  | .discarded => false
  | .load t k => (d.thread t).outs.any (fun o => o.id == k)
  | _ => true

/-- HOST_COMPLETION_RX: a completion comes for a tag. It is kept for the operation that waits; for a quarantined tag or an operation that has ended it is discarded, and for a tag that is not out it is an Unexpected Completion (R309, R313). The function such a completion names is a free value. -/
def execHostCompletionRx (tag : Nat) (reply : Reply) (s : State) : Out :=
  eventOn (fun d =>
    match tabFind tag d.host.reqs with
    | none =>
      let (v, d) := d.fresh
      let h := v.toNat % 8
      let f := v.toNat / 8 % 9
      if d.fnExists h f then d.aer h f .unexpected else d.aer d.mgmtPort 0 .unexpected
    | some r =>
      if reply = .timeout ∨ r.reply.isSome then d
      else if r.quarantined then d
      else
        let d := match reply with
          | .data _ => d.countBy (evHost r.h 4) r.len
          | .part bs => d.countBy (evHost r.h 4) bs.length
          | _ => d
        if d.safe || !d.reqWanted r then d.dropTag tag
        else ({ d with host := { d.host with reqs := tabIns tag { r with reply := some reply } d.host.reqs } }).countTags r.h r.f) s

/-- The position of a thread's outstanding operation. -/
def Dev.outAt (d : Dev) (t k : Nat) : Option Nat := (d.thread t).outs.findIdx? (fun o => o.id == k)

/-- HOST_CPL_TIMEOUT: a non-posted request has not been answered within its function's timeout (R309). -/
def execHostCplTimeout (tag : Nat) (s : State) : Out :=
  eventOn (fun d =>
    match tabFind tag d.host.reqs with
    | none => d
    | some r =>
      if r.quarantined || r.reply.isSome || decide (d.time.tick < r.tick + r.limit) then d
      else
        let d := ((d.aer r.h r.f .completionTimeout).raiseFree 1153 1 (if r.f = 0 then none else some (r.f - 1))).count (evHost r.h 6)
        let told := ({ d with host := { d.host with reqs := tabIns tag { r with reply := some .timeout } d.host.reqs } }).countTags r.h r.f
        if d.safe then d.dropTag tag
        else match r.op with
          | .fetch n => told.fetchReturn n
          | .txRead n => told.txFrameRead n
          | .xferRead ch _ _ => (d.dropTag tag).failXfer ch 0x07
          | .readback ch => told.readbackReturn ch
          | .load t k => match d.outAt t k with
            | some j => (told.resultReturn t j .timeout).dropTag tag
            | none => d.dropTag tag
          | .dumpBack => told
          | .discarded => d.dropTag tag) s

/-- ASPM_L1_ENTRY: a host port with no request outstanding enters L1 (R318). -/
def execAspmL1Entry (h : Fin 8) (s : State) : Out :=
  eventOn (fun d =>
    if d.linkUp h.val && !d.rb .hostPortStat h.val 15 && d.tagsWhere (fun r => r.h == h.val) = 0 then
      (d.setRb .hostPortStat h.val 15 true).count (evHost h.val 11)
    else d) s

end Sys2Proof.Machine
end

