-- ==== Sys2Proof/Machine/Quiet.lean ====
section
/-! DEFINITION. Machine/Quiet.lean: the quiet detector (R78 to R80 of 02_engine_cores.md). -/
namespace Sys2Proof.Machine
open Sys2Proof

/-- Whether a route of a partition leads to a line of a thread. -/
def Dev.routesTo (d : Dev) (tid : Nat) (group : Bool) (n line line' : Nat) : Bool :=
  line == line' && (if group then (d.groupMembers n).contains tid else n == tid)

/-- The armed sources of a partition that can set a line of a thread: rings that poll, doorbells that are not masked, channels with a transfer, its own accelerator operations (R78). -/
def Dev.wakesBy (d : Dev) (p tid line : Nat) : Bool :=
  let rings := (d.regs.filter (fun (e : Nat × Word) => e.1 % 512 == Reg.ringSqCfg.code && e.2.getLsbD 0)).map (fun (e : Nat × Word) => e.1 / 512)
  rings.any (fun n => d.sqKind n == 3 && d.sqPart n == p && (d.sqSlice n).isSome &&
    (let r := d.reg .ringSqRoute n; d.routesTo tid (wbit r 15) (wf r 0 10) (wf r 10 5) line)) ||
  d.ptn.mbxs.any (fun (e : Nat × Mbx) => e.2.part == p && d.mbxValid e.1 && (List.range 32).any (fun b =>
    let r := 32 * e.1 + b
    let k := d.rf .mbxRoute r 0 2
    !d.rb .mbxDbMask e.1 b && (k == 1 || k == 2) && d.routesTo tid (k == 2) (d.rf .mbxRoute r 2 11) (d.rf .mbxRoute r 13 5) line)) ||
  d.dma.chans.any (fun (e : Nat × Chan) => d.chanPart e.1 == some p && (e.2.armed.isSome || e.2.xfer.isSome) &&
    (let ev := d.reg .dmaChEvent e.1
     let owner := (match e.2.xfer with | some x => x.tid | none => (match e.2.armed with | some a => a.tid | none => 1023) : Nat)
     match wf ev 15 2 with
     | 1 => owner == tid && wf ev 10 5 == line
     | 2 => d.routesTo tid false (wf ev 0 10) (wf ev 10 5) line
     | 3 => d.routesTo tid true (wf ev 0 10) (wf ev 10 5) line
     | _ => false)) ||
  ((d.thread tid).subC ++ (d.thread tid).subF).any (fun q => leAt q.desc 2 1 == line) || d.keys.ops.any (fun (e : Nat × EngOp) => e.2.tid == tid && e.2.line == line)

/-- A timed thread is wakeable (R78). -/
def Dev.wakeable (d : Dev) (p tid : Nat) : Bool :=
  let t := d.thread tid
  match t.st, t.wait with
  | .running, _ => true
  | .waiting, .twait _ => true
  | .waiting, .events _ mask =>
    (t.timer.isSome && mask.getLsbD 30) || (List.range 30).any (fun l => mask.getLsbD l && d.wakesBy p tid l)
  | _, _ => false

/-- A partition's started timed threads that execute for themselves. -/
def Dev.startedThreads (d : Dev) (p : Nat) : List Nat :=
  ((d.thr.map (·.1)).filter (fun t => timed t && d.partOf t == some p && !d.isStandby t)).filter (fun t => (d.thread t).st != .idle)

/-- A partition is quiet: it has started timed threads, every one is WAITING, and none is wakeable (R78). -/
def Dev.isQuiet (d : Dev) (p : Nat) : Bool :=
  let ts := d.startedThreads p
  !ts.isEmpty && ts.all (fun t => (d.thread t).st == .waiting && !d.wakeable p t)

/-- A thread of a partition is HALTED, so that the detector holds its count (R80). -/
def Dev.anyHalted (d : Dev) (p : Nat) : Bool := d.thr.any (fun (e : Nat × Thread) => d.partOf e.1 == some p && e.2.st == .halted)

/-- The detector's evaluation of one partition on a tick (R79, R80). -/
def Dev.quietEval (d : Dev) (p : Nat) : Dev :=
  let x := d.part p
  if d.anyHalted p then
    match x.quietSince with
    | some t => d.setPart p { x with quietSince := some (t + d.rf .timeAddend 0 0 32) }
    | none => d
  else if d.isQuiet p then d.setPart p { x with quietSince := some (x.quietSince.getD d.time.now) }
  else d.setPart p { x with quietSince := none, quietRaised := false }

/-- The detector's evaluation of every partition on a tick. -/
def Dev.quietTick (d : Dev) : Dev := (List.range 8).foldl (fun d p => if (d.part p).grant.isSome then d.quietEval p else d) d

/-- PARTITION_QUIET: a partition has been quiet for its limit without a break, and that has not been raised (R79, R80). -/
def execPartitionQuiet (p : Fin 8) (s : State) : Out :=
  event (fun d =>
    let limit := d.rf .coreQuietLimit p.val 0 32
    let x := d.part p.val
    match x.quietSince with
    | none => d
    | some t =>
      if limit = 0 || x.quietRaised || !d.isQuiet p.val || decide (d.time.now < t + limit * 1000 * 65536) then d
      else
        let d := d.setPart p.val { x with quietRaised := true }
        (d.incRf .coreQuietStat p.val 0 31 1).raiseFree 657 0 (some p.val)) s

end Sys2Proof.Machine
end

