-- ==== Sys2Proof/Machine/Views.lean ====
section
/-! DEFINITION. Machine/Views.lean: what a register reads as where its value follows other state (R23, R89, R341, R357, R432 to R435, R448). -/
namespace Sys2Proof.Machine
open Sys2Proof

/-! ## Registers as they read -/

/-- Thread states of a core's timed threads (R89). -/
def Dev.thrStates (d : Dev) (c : Nat) : Nat :=
  (List.range 8).foldl (fun a k => a + (d.thread (8 * c + k)).st.ctorIdx * 16 ^ k) 0
/-- The HALTED threads of a core (R89). -/
def Dev.haltedMask (d : Dev) (c : Nat) : Nat :=
  ((threadsOf c).zip (List.range 9)).foldl (fun a x => a + (if (d.thread x.1).st = .halted then 2 ^ x.2 else 0)) 0
/-- The threads of a core whose single step is under way (R89). -/
def Dev.stepMask (d : Dev) (c : Nat) : Nat :=
  ((threadsOf c).zip (List.range 9)).foldl (fun a x => a + (if (d.thread x.1).stepping then 2 ^ x.2 else 0)) 0
/-- A snapshot's copy of a register. -/
def Dev.snapReg (d : Dev) (r : Reg) (i : Nat) : Word := tabGet d.cnt.snap.regs (r.resetAt i) (regKey r i)

/-- What a copy of a register reads as. -/
def Dev.regNow (d : Dev) (r : Reg) (i : Nat) : Word :=
  match r with
  | .timeNow0 => BitVec.ofNat 64 (packTime (d.islNow i) % 2 ^ 32)
  | .coreThrState => BitVec.ofNat 64 (d.thrStates i)
  | .coreTbState => BitVec.ofNat 64 (d.thread (512 + i)).st.ctorIdx
  | .coreDbgStat => wset (d.reg r i) 0 9 (d.haltedMask i)
  | .coreDbgCtl => wset (d.reg r i) 16 9 (d.stepMask i)
  | .coreQuietStat => wsetBit (d.reg r i) 31 (d.isQuiet i)
  | .coreEvpend => ((d.thread ((threadsOf (i / 9)).getD (i % 9) 0)).ev).setWidth 64
  | .slcFrzStat => (d.frzStat i).reg r i
  | .cfgSupply =>
    match d.boot.warnAt with
    | some t => wset (d.reg r i) 8 24 (Nat.min (2 ^ 24 - 1) ((d.time.tick - t) / 250))
    | none => d.reg r i
  | .mbxStat => BitVec.ofNat 64 (d.mbxStatNow i)
  | .cntWinVal => d.winValue (i / 64) (i % 64)
  | .cntWinSnap => d.snapReg .cntWinVal i
  | .cntWinSnapTime => d.reg .snapLatch 0
  | _ => if r.info.acc = .wo then 0 else d.reg r i

/-- Registers whose reads follow other state: those copies that can differ from reset, as the device stands. -/
def Dev.derived (d : Dev) : List (Reg × Nat) :=
  let cores := (d.thr.map (fun (e : Nat × Thread) => coreOf e.1)).eraseDups
  let wins := (d.regs.filter (fun (e : Nat × Word) => e.1 % 512 == Reg.cntWinCfg0.code)).map (fun e => e.1 / 512)
  (Reg.cfgSupply, 0) :: (List.range 8).flatMap (fun i => [(Reg.timeNow0, i), (.coreQuietStat, i)]) ++
  cores.flatMap (fun c => [(Reg.coreThrState, c), (.coreTbState, c), (.coreDbgStat, c)] ++ (List.range 9).map (fun j => (Reg.coreEvpend, 9 * c + j))) ++
  d.ptn.slices.map (fun (e : Nat × Slice) => (Reg.slcFrzStat, e.1)) ++
  wins.flatMap (fun w => (Reg.cntWinSnapTime, w) :: (List.range 64).flatMap (fun k => [(Reg.cntWinVal, 64 * w + k), (.cntWinSnap, 64 * w + k)]))

/-- The registers of a snapshot set: access RO or RC (R435). -/
def statusRegs : List Reg := allRegs.filter (fun r => r.info.acc == .ro || r.info.acc == .rc)

/-- What every register of the snapshot set reads as now. -/
def Dev.statusNow (d : Dev) : Tab Word :=
  let codes := statusRegs.map Reg.code
  let base := d.regs.filter (fun (e : Nat × Word) => codes.contains (e.1 % 512))
  d.derived.foldl (fun t x => tabPut t (x.1.resetAt x.2) (regKey x.1 x.2) (d.regNow x.1 x.2)) base

/-- The offset in its island of a copy of a register, by its index there. -/
def Reg.offsetOf (r : Reg) (i : Nat) : Nat :=
  (r.info.dims.foldr (fun (x : Nat × Nat) (a : Nat × Nat) => (a.1 + a.2 % x.1 * x.2, a.2 / x.1)) (r.info.base, i)).1

end Sys2Proof.Machine
end

