-- ==== Sys2Proof/Machine/Snap.lean ====
section
/-! DEFINITION. Machine/Snap.lean: snapshots: arming, triggers, the latch, and reading one back (R435 to R439 of 12_counters_snapshots_lifetime.md, R386 of 10_wenot_command_set.md). -/
namespace Sys2Proof.Machine
open Sys2Proof

/-- The anchor's counting of triggers merged into one latch (SNAP_STAT). -/
def Dev.snapMerge (d : Dev) : Dev := d.incRf .snapStat 0 16 16 1

/-- A thread's request for the trigger is answered with a value. -/
def Dev.snapAnswer (d : Dev) (op : Nat × Nat) (v : Word) : Dev :=
  d.updThread op.1 (fun t => { t with outs := t.outs.map (fun o => if o.id = op.2 ∧ o.kind = .snap then { o with res := some v } else o) })

/-- A trigger of a cause reaches the anchor and is accepted at tick `a`: the first after an arm fixes L four ticks later, later ones until then merge, and any other SNAP gets 0 (R437, R438). -/
def Dev.snapAccept (d : Dev) (cause a : Nat) (op : Option (Nat × Nat)) : Dev :=
  let no := fun (d : Dev) => match op with | some o => d.snapAnswer o 0 | none => d
  let take := fun (d : Dev) => { d with cnt := { d.cnt with snapWait := d.cnt.snapWait ++ op.toList } }
  if !d.rb .snapCfg 0 cause then no d
  else match d.cnt.snapDue with
    | none =>
      let t := d.time.now + (a + 4 - d.time.tick) * d.rf .timeAddend 0 0 32
      take ({ d with cnt := { d.cnt with snapDue := some (a + 4, t) } }.setRf .snapStat 0 1 3 cause)
    | some (l, _) => if l ≤ a then no d else take d.snapMerge

/-- Every source is disarmed; requests that wait for a latch get 0. -/
def Dev.snapDisarm (d : Dev) : Dev :=
  let d := d.cnt.snapWait.foldl (fun d o => d.snapAnswer o 0) d
  (d.setReg .snapCfg 0 0).setReg .snapArmTime 0 0

/-- SNAP_ARM: R436. -/
def execSnapArm (h : CmdHdr) (s : State) : Out :=
  wenot 0x80 true (fun _ h d =>
    let src := h.arg0.toNat
    let timed := nbit src 0
    let fault := nbit src 1
    let param := h.arg1.toNat
    if timed && fault then .fail 0x04 d
    else if timed && !timeWordOk h.arg1 then .fail 0x04 d
    else if !timed && decide ((if fault then 3 else 0) < param) then .fail 0x04 d
    else
      let d := d.snapDisarm
      let d := { d with cnt := { d.cnt with snapDue := none, snapWait := [], snapFrom := d.time.tick + 4 } }
      let d := ((d.setReg .snapStat 0 0).setReg .snapLatch 0 0).setReg .snapLatchHi 0 0
      let d := d.setReg .snapPin 0 0
      let d := d.setReg .snapCfg 0 (BitVec.ofNat 64 (src + (if fault then param else 0) * 32))
      let d := if timed then d.setReg .snapArmTime 0 h.arg1 else d
      if nbit src 2 then
        let d := d.snapAccept 2 d.time.tick none
        match d.cnt.snapDue with
        | some (_, t) => .answer { r0 := timeWord (t / 65536) } d
        | none => .ok d
      else .ok d) h s

/-- SNAP_TIME_TRIGGER: device time has reached the armed time, not before four ticks after the arm: L is this tick (R437). A trigger accepted earlier keeps its L. -/
def execSnapTimeTrigger (s : State) : Out :=
  eventOn (fun d =>
    if d.rb .snapCfg 0 0 && decide (d.cnt.snapFrom ≤ d.time.tick) && decide (expandTime d.sec (d.reg .snapArmTime 0) ≤ d.ns) then
      let d := d.setRb .snapCfg 0 0 false
      match d.cnt.snapDue with
      | none => { d with cnt := { d.cnt with snapDue := some (d.time.tick, d.time.now) } }.setRf .snapStat 0 1 3 0
      | some (l, _) => if d.time.tick < l then d.snapMerge else d
    else d) s

/-- SNAP_IN_EDGE: a rising edge at SNAP_IN, not ignored for following another within 1 µs; accepted at the next tick (R437, R438, R489). -/
def execSnapInEdge (s : State) : Out :=
  eventOn (fun d =>
    let soon := match d.cnt.pinAt with | some t => decide (d.time.tick < t + 250) | none => false
    if soon then d
    else
      let d := { d with cnt := { d.cnt with pinAt := some d.time.tick } }
      let late := match d.cnt.snapDue with | some (l, _) => decide (l ≤ d.time.tick + 1) | none => false
      if !d.rb .snapCfg 0 4 || late then d
      else (d.setReg .snapPin 0 (timeWord d.ns)).snapAccept 4 (d.time.tick + 1) none) s

/-- SNAP_TRIGGER_ACCEPT: the oldest SNAP request reaches the anchor (R437, R438). -/
def execSnapTriggerAccept (s : State) : Out :=
  eventOn (fun d =>
    match d.cnt.snapReqs with
    | [] => d
    | (cause, op) :: rest => { d with cnt := { d.cnt with snapReqs := rest } }.snapAccept cause d.time.tick op) s

/-- SNAP_LATCH: tick L: every block copies its snapshot set, and every source is disarmed (R435 to R438). -/
def execSnapLatch (s : State) : Out :=
  eventOn (fun d =>
    match d.cnt.snapDue with
    | none => d
    | some (l, _) =>
      if d.time.tick < l ∨ d.rb .snapStat 0 0 then d
      else
        let copy : SnapCopy := ⟨d.statusNow, d.cnt.ev, d.cnt.prog, d.cnt.slot⟩
        let t := timeWord d.ns
        let d := d.cnt.snapWait.foldl (fun d o => d.snapAnswer o t) d
        let d := { d with cnt := { d.cnt with snap := copy, snapWait := [] } }
        let d := ((d.setRb .snapStat 0 0 true).setReg .snapLatch 0 t).setReg .snapLatchHi 0 (BitVec.ofNat 64 (d.sec / 2 ^ 32 % 2 ^ 16))
        ((d.setReg .snapCfg 0 0).setReg .snapArmTime 0 0).count 14) s

/-- SNAP: a request for the common trigger goes to the anchor (R126, R438); a standby's is not sent and takes the active's result by replay. -/
def execSnap (i : Issue) (rd : BitVec 5) (s : State) : Out :=
  let tid := i.tid.val
  issue i (Instr.wf (.snap i rd)) 1 true (destG rd) [rd]
    (fun t _ d =>
      let k := (d.thread tid).nextId
      let d := d.sendOp tid t i.slot .snap rd none
      .done (if d.isStandby tid then d else { d with cnt := { d.cnt with snapReqs := d.cnt.snapReqs ++ [(3, some (tid, k))] } })) s

/-! ## Reading a snapshot (R428, R439) -/

/-- The island that holds an event's counter (R428). -/
def evHome (e : Nat) : Nat :=
  if e < 256 then 0
  else if e < 624 then (straitEnds ((e - 256) / 16)).1
  else if e < 640 then 0
  else if e < 1152 then 1
  else if e < 3200 then 2 + (e - 1152) / 512
  else if e < 4608 then 6 + (e - 3200) / 704
  else 0

/-- The runs of consecutive numbers that a test accepts among `n` numbers from `k` on: first number and length. -/
def runs (p : Nat → Bool) : Nat → Nat → List (Nat × Nat)
  | 0, _ => []
  | n + 1, k =>
    if !p k then runs p n (k + 1)
    else match runs p n (k + 1) with
      | (f, c) :: rest => if f = k + 1 then (k, c + 1) :: rest else (k, 1) :: (f, c) :: rest
      | [] => [(k, 1)]

/-- A record of a snapshot: its header and its entries. -/
def snapRecord (isl set first : Nat) (es : List Word) : List Byte :=
  [BitVec.ofNat 8 isl, BitVec.ofNat 8 set, 0, 0] ++ leBytes 4 first ++ leBytes 4 es.length ++ leBytes 4 0 ++ es.flatMap (fun e => leBytes 8 e.toNat)

/-- The entries of an island's status registers: offset and value, two for a 64-bit register. -/
def Dev.snapStatus (d : Dev) (isl : Nat) : List Word :=
  let mine := statusRegs.filter (fun r => decide (r.info.isl ≤ isl) && decide (isl < r.info.isl + r.info.isls))
  mine.flatMap (fun r => (List.range r.info.perIsland).flatMap (fun k =>
    let v := (d.snapReg r ((isl - r.info.isl) * r.info.perIsland + k)).toNat
    let o := r.offsetOf k
    let lo := BitVec.ofNat 64 (o + v % 2 ^ 32 * 2 ^ 32)
    if r.info.bytes = 8 then [lo, BitVec.ofNat 64 (o + 4 + v / 2 ^ 32 * 2 ^ 32)] else [lo]))

/-- The records of an island for the sets selected; the first number of a record of status registers is a free value. -/
def Dev.snapIsland (d : Dev) (isl sets free : Nat) : List (List Byte) :=
  let c := d.cnt.snap
  let vals := fun (t : Tab Word) (first n : Nat) => (List.range n).map (fun k => tabGet t 0 (first + k))
  (if nbit sets 0 then (runs (fun e => evHome e == isl) 5120 0).map (fun r => snapRecord isl 0 r.1 (vals c.ctrs r.1 r.2)) else []) ++
  (if nbit sets 1 && isl == 0 then [snapRecord isl 1 0 (vals c.progs 0 4096)] else []) ++
  (if nbit sets 2 && decide (2 ≤ isl) && decide (isl ≤ 5) then [snapRecord isl 2 (640 * (isl - 2)) (vals c.slots (640 * (isl - 2)) 640)] else []) ++
  (if nbit sets 3 then [snapRecord isl 3 free (d.snapStatus isl)] else [])

/-- SNAP_READ: R439. -/
def execSnapRead (h : CmdHdr) (s : State) : Out :=
  wenot 0x81 true (fun _ h d =>
    let a := h.arg0.toNat
    if !d.rb .snapStat 0 0 then .fail 0x06 d
    else
      let (v, d) := d.fresh
      let recs := (List.range 8).flatMap (fun isl => if nbit a isl then d.snapIsland isl (a / 256) (v.toNat % 2 ^ 32) else [])
      let head := leBytes 8 (d.reg .snapLatch 0).toNat ++ leBytes 2 (d.reg .snapLatchHi 0).toNat ++ [BitVec.ofNat 8 (d.rf .snapStat 0 1 3), 0] ++
        leBytes 4 recs.length ++ leBytes 8 (d.reg .snapPin 0).toNat ++ leBytes 8 0
      .answer { r0 := d.reg .snapLatch 0, out := head ++ recs.flatten } d) h s

end Sys2Proof.Machine
end

