-- ==== Sys2Proof/Machine/CountEv.lean ====
section
/-! DEFINITION. Machine/CountEv.lean: reads of counters, counter windows and their faces, and the periodic dump (R429 to R434, R440, R441, R448 of 12_counters_snapshots_lifetime.md). -/
namespace Sys2Proof.Machine
open Sys2Proof

/-! ## Reads that latch (R429, R431) -/

/-- A requester's key among the latches of high words. -/
def latchKey : Who → Nat
  | .firmware => 0
  | .debug => 1
  | .fn h f => 2 + fnKey h.val f.val

/-- A 4-byte read of a counter's low word latches the high word for its requester. -/
def Dev.lowRead (d : Dev) (who : Who) (v : Word) : Word × Dev :=
  (BitVec.ofNat 64 (v.toNat % 2 ^ 32),
    { d with cnt := { d.cnt with hiLatch := tabPut d.cnt.hiLatch 0 (latchKey who) (BitVec.ofNat 32 (v.toNat / 2 ^ 32)) } })

/-- COUNTER_LOW_READ: only the manager, through its primary function, reads a counter's register (R429, R448). -/
def execCounterLowRead (who : Who) (ev : Fin 5120) (s : State) : Out :=
  eventOn (fun d =>
    if !d.isManager who then d.denyRead who
    else
      let (v, d) := d.lowRead who (d.counter ev.val)
      d.emit (.readValue (evHome ev.val) (0x6000000 + 8 * ev.val) v)) s

/-- A read of a thread's retired counter latches its other four. -/
def Dev.retiredRead (d : Dev) (tid : Nat) : Dev :=
  { d with cnt := { d.cnt with slotLatch := [1, 2, 3, 4].foldl (fun t c => tabPut t 0 (5 * tid + c) (tabGet d.cnt.slot 0 (5 * tid + c))) d.cnt.slotLatch } }

/-- SLOT_RETIRED_READ: R431. -/
def execSlotRetiredRead (tid : Fin 512) (s : State) : Out :=
  eventOn (fun d => (d.retiredRead tid.val).emit (.readValue (islOf tid.val) (0x6200000 + tid.val % 128 * 0x80) (tabGet d.cnt.slot 0 (5 * tid.val)))) s

/-! ## Windows (R432 to R434) -/

/-- CNT_WIN_CFG_WRITE: the owning partition's driver, firmware or the debug interface writes a window's configuration (R432, R448). -/
def execCntWinCfgWrite (who : Who) (w : Fin 1024) (r : Fin 4) (v : W32) (s : State) : Out :=
  eventOn (fun d =>
    let may := match who, d.winOwner w.val with
      | .fn _ _, some p => d.mayDrive who p
      | .fn _ _, none => false
      | _, _ => true
    if may then d.winWrite w.val r.val v.toNat else d.denyWrite who) s

/-- A face's address, where its owner's grant holds the whole of it: island or lagoon memory on a multiple of 64 bytes. -/
def Dev.winFace (d : Dev) (w p n : Nat) : Option (Nat × Nat) :=
  let a := d.rf .cntWinCfg1 w 0 32 + d.rf .cntWinCfg2 w 0 16 * 2 ^ 32
  if a % 64 ≠ 0 ∨ d.checkMem (.part p) a n ≠ .ok then none
  else match d.region a n with
    | some (.island isl _) => some (a, isl)
    | some (.lagoon isl _) => some (a, isl)
    | _ => none

/-- COUNTER_FACE_MIRROR: an instant of a window's mirror: the odd sequence word, the time, the values, the even sequence word; in duplex on both islands of the pair (R434). -/
def execCounterFaceMirror (w : Fin 1024) (s : State) : Out :=
  event (fun d =>
    match tabFind w.val d.cnt.mirrorAt, d.winOwner w.val with
    | some at_, some p =>
      if d.ns < at_ then d
      else
        let n := d.rf .cntWinCfg0 w.val 13 6 + 1
        match d.winFace w.val p (16 + 8 * n) with
        | none => { d.setRb .cntWinStat w.val 0 true with cnt := { d.cnt with mirrorAt := tabDel w.val d.cnt.mirrorAt } }
        | some (a, isl) =>
          let seq := tabGet d.cnt.mirrorSeq 0 w.val + 2
          let bs := leBytes 8 seq.toNat ++ leBytes 8 (timeWord at_).toNat ++ (List.range n).flatMap (fun k => leBytes 8 (d.winValue w.val k).toNat)
          let isls := if d.inDuplex p && !d.dpxExternal p then [isl, peerIsl isl] else [isl]
          let d := isls.foldl (fun d i => d.write (islAddr i (a % 2 ^ 44)) bs) d
          { d with cnt := { d.cnt with
              mirrorSeq := tabPut d.cnt.mirrorSeq 0 w.val seq
              mirrorAt := tabIns w.val (at_ + Nat.max 1000 (d.mirrorStep w.val)) d.cnt.mirrorAt } }
    | _, _ => d) s

/-! ## The dump (R440, R441) -/

/-- The dump core. -/
def Dev.dumpCore (d : Dev) : Nat := d.rf .cntDumpCfg 0 24 6
/-- The events a dump lists, in range order, at most 1,024. -/
def Dev.dumpList (d : Dev) : List Nat :=
  ((List.range 8).flatMap (fun r => (List.range (d.rf .cntDumpRange r 13 11)).map (fun k => d.rf .cntDumpRange r 0 13 + k))).take 1024
/-- Lines of 64 bytes of a dump with `e` values. -/
def dumpLines (e : Nat) : Nat := (32 + 8 * e + 63) / 64
/-- Host address of the present dump. -/
def Dev.dumpAddr (d : Dev) (e : Nat) : Nat :=
  (d.reg .cntDumpBase 0).toNat + d.cnt.dumpNo % 2 ^ (d.rf .cntDumpRing 0 0 4) * (64 * dumpLines e)

/-- COUNTER_DUMP_INSTANT: the counters of the dump are copied, or the instant is missed: no partition holds the dump core, or the previous dump is still being written. -/
def execCounterDumpInstant (s : State) : Out :=
  eventOn (fun d =>
    if !d.rb .cntDumpCfg 0 31 ∨ d.ns < d.cnt.dumpAt then d
    else
      let at_ := d.cnt.dumpAt
      let missed := (d.partOfCore d.dumpCore).isNone || d.cnt.dump.isSome || d.cnt.dumpBack || d.safe
      let d := { d with cnt := { d.cnt with dumpAt := at_ + Nat.max 1 d.dumpStep, dumpSeq := d.cnt.dumpSeq + 1 } }
      let d := d.setRf .cntDumpStat 0 0 32 d.cnt.dumpSeq
      if missed then
        let d := (d.incRf .cntDumpStat 0 32 16 1).count 16
        { d with cnt := { d.cnt with dumpMissed := d.cnt.dumpMissed + 1 } }
      else if d.dumpList.isEmpty then d
      else { d with cnt := { d.cnt with
        dump := some (at_, d.dumpList.map d.counter, 0), dumpNo := d.cnt.dumpSeq, dumpGap := d.cnt.dumpMissed, dumpMissed := 0 } }) s

/-- The header of a dump of an instant, as it is written now (R441). -/
def Dev.dumpHeader (d : Dev) (at_ e : Nat) : List Byte :=
  let late := d.ns - at_ - d.rf .cntDumpSlack 0 0 20 * 1000
  let isLate := decide (0 < late)
  let flags := b2n isLate + 2 * b2n (d.cnt.dumpGap != 0)
  [0x4D, 0x34, 0x43, 0x44, 1, BitVec.ofNat 8 flags] ++ leBytes 2 e ++ leBytes 8 d.cnt.dumpNo ++ leBytes 8 (timeWord at_).toNat ++
    leBytes 2 (at_ / nsPerSec / 2 ^ 32) ++ leBytes 2 (Nat.min d.cnt.dumpGap 65535) ++
    leBytes 4 (if isLate then Nat.min (late / 1000) (2 ^ 32 - 1) else 0)

/-- The counter-dump helper has a line to write on its core (R56): the header's line, the last, also needs a tag for its read-back. -/
def Dev.dumpWork (d : Dev) (c : Nat) : Bool :=
  c == d.dumpCore && (match d.cnt.dump with
    | some (_, vs, k) => decide (k + 1 < dumpLines vs.length) || !d.canIssue d.mgmtPort 0 || d.tagFree d.mgmtPort 0
    | none => false)

/-- The dump is abandoned: the instants missed before it stay missed for the next one (R441). -/
def Dev.dumpAbandon (d : Dev) : Dev :=
  { d.setRb .cntDumpStat 0 48 true with cnt := { d.cnt with dump := none, dumpMissed := d.cnt.dumpMissed + d.cnt.dumpGap, dumpGap := 0 } }

/-- The helper writes one 64-byte line: the values first, the line with the header last, then the read-back (R440). A dump that the function cannot write is abandoned. -/
def Dev.dumpLine (d : Dev) : Dev :=
  match d.cnt.dump with
  | none => d
  | some (at_, vs, k) =>
    let h := d.mgmtPort
    let n := dumpLines vs.length
    let a := d.dumpAddr vs.length
    if !d.canIssue h 0 then d.dumpAbandon
    else
      let body := vs.flatMap (fun v => leBytes 8 v.toNat)
      if k + 1 < n then
        let d := d.hostWrite h 0 0 (a + 64 * (k + 1)) (slice body (64 * (k + 1) - 32) 64)
        { d with cnt := { d.cnt with dump := some (at_, vs, k + 1) } }
      else
        let late := decide (at_ + d.rf .cntDumpSlack 0 0 20 * 1000 < d.ns)
        let d := d.hostWrite h 0 0 a (d.dumpHeader at_ vs.length ++ slice body 0 32)
        let d := (if late then d.count 15 else d).hostRead h 0 none .dumpBack a 1
        { d with cnt := { d.cnt with dump := none, dumpBack := true } }

/-- DUMP_COMPLETE: the read-back of a dump's header comes back, or fails (R440, R441). A reply that has come decides; a request that has been discarded has failed. -/
def execDumpComplete (ok : Bool) (s : State) : Out :=
  eventOn (fun d =>
    if !d.cnt.dumpBack then d
    else
      let good := match d.replyFor .dumpBack with
        | some (_, .data _) => true
        | some _ => false
        | none => ok && (d.tagFor .dumpBack).isSome
      let d := d.endOp .dumpBack
      let d := { d with cnt := { d.cnt with dumpBack := false } }
      if good then { d with cnt := { d.cnt with dumpGap := 0 } } else d.dumpAbandon) s

end Sys2Proof.Machine
end

