-- ==== Sys2Proof/Machine/Faults.lean ====
section
/-! DEFINITION. Machine/Faults.lean: pending faults and fault notices (R76 of 02_engine_cores.md, R94 of 03_dunval_instruction_set.md, R400, R426 of 11_faults_and_duplex.md). -/
namespace Sys2Proof.Machine
open Sys2Proof

/-- FLT_CPEND_c follows the pending faults. -/
def Dev.showCpend (d : Dev) (c : Nat) : Dev :=
  let scopes := (List.range 9).foldl (fun a k => a + (if d.flt.pend.any (fun f => f.source / 128 == c && f.scope == k) then 2 ^ k else 0)) 0
  d.setReg .fltCpend c (BitVec.ofNat 64 scopes)

/-- Pending faults that a test accepts are acknowledged. -/
def Dev.ackWhere (d : Dev) (p : PendFault → Bool) : Dev :=
  let d := { d with flt := { d.flt with pend := d.flt.pend.filter (fun f => !p f) } }
  (List.range 16).foldl (fun d c => d.showCpend c) d

/-- The fault of a notice is acknowledged: the oldest pending one of its source in the partition whose notice was queued. -/
def Dev.ackNotice (d : Dev) (p source : Nat) : Dev :=
  match d.flt.pend.find? (fun f => f.source == source && f.scope == p && f.noticed) with
  | some f => { d with flt := { d.flt with pend := d.flt.pend.erase f } }.showCpend (source / 128)
  | none => d

/-- The first word of a notice (R94). -/
def Notice.word (n : Notice) (left : Nat) : Word :=
  BitVec.ofNat 64 (n.source % 2 ^ 11 + (n.tid.getD 0x3FF) % 2 ^ 10 * 2 ^ 11 + n.exc % 16 * 2 ^ 21 + left % 64 * 2 ^ 32 + 2 ^ 63)

/-- The supervisor removes the oldest notice of its partition: its first word, 0 with none (R94, R400). -/
def Dev.popNotice (d : Dev) (p tid : Nat) : Word × Dev :=
  match (d.part p).notices with
  | [] => (0, d)
  | n :: rest =>
    let d := (d.setPart p { d.part p with notices := rest }).setRf .coreFnqStat p 0 6 rest.length
    let d := d.updThread tid (fun t => { t with fnqTime := n.time, fnqDet := n.detail })
    (n.word rest.length, if n.pend then d.ackNotice p n.source else d)

end Sys2Proof.Machine
end

