-- ==== Sys2Proof/Machine/Special.lean ====
section
/-! DEFINITION. Machine/Special.lean: program counters, special registers and TSTART (R94, R95, R126, R127 of 03_dunval_instruction_set.md), the debug interface (R81, R82, R84 of 02_engine_cores.md), freed slots (R55, R56). -/
namespace Sys2Proof.Machine
open Sys2Proof

/-- CINC: R126. The addition goes through the store queue (R129, R430). -/
def execCinc (i : Issue) (ra : BitVec 5) (n : BitVec 9) (s : State) : Out :=
  issue i (Instr.wf (.cinc i ra n)) 1 true 0 [ra]
    (fun t _ d =>
      if t.stq.length ≥ 4 then .starve
      else onThread i (fun x => { x with stq := x.stq ++ [⟨.count n.toNat (t.reg ra), t.pc, i.slot, t.pasid⟩] }) d) s

/-! ## Special registers (R94) -/

/-- SR_CLAIMS: the granted claims, claim 0 and claim 1. -/
def claimsWord (cs : List Claim) : Word :=
  let one := fun (c : Option Claim) => (match c with | some c => c.ch % 1024 + 2 ^ 15 | none => 0 : Nat)
  BitVec.ofNat 64 (one cs[0]? + one cs[1]? * 2 ^ 16)

/-- The value of a readable special register, and the device after the read. -/
def Dev.readSr (d : Dev) (tid p n : Nat) : Word × Dev :=
  let t := d.thread tid
  match n with
  | 0 => (BitVec.ofNat 64 (d.seenTid tid), d)
  | 1 => (BitVec.ofNat 64 p, d)
  | 2 => (BitVec.ofNat 64 (coreOf (d.seenTid tid)), d)
  | 3 => (t.ev.setWidth 64, d)
  | 5 => ((match t.timer with | some x => timeWord x | none => 0), d)
  | 6 => (BitVec.ofNat 64 t.period, d)
  | 7 => (BitVec.ofNat 64 t.skip, d.updThread tid (fun x => { x with skip := 0 }))
  | 8 => ((match t.frame with | some f => (match d.frame f with | some x => handleOf f x | none => 0) | none => 0), d)
  | 9 => (t.pasid, d)
  | 10 => d.popNotice p tid
  | 11 => (t.fnqTime, d)
  | 12 => (t.fnqDet, d)
  | 13 => (BitVec.ofNat 64 t.tags.length, d)
  | _ => (claimsWord t.held, d)

/-- Special registers whose values enter a thread from outside it, so that a standby takes the active's (R412). -/
def srReplayed (n : Nat) : Bool := n == 3 || n == 7 || n == 8 || decide (10 ≤ n)

/-- MFSR: R94, R126, R127. -/
def execMfsr (i : Issue) (rd : BitVec 5) (sr : BitVec 5) (s : State) : Out :=
  let tid := i.tid.val
  let n := sr.toNat
  issue i (Instr.wf (.mfsr i rd sr)) 1 false (destG rd) [rd]
    (fun _ _ d =>
      if n = 4 ∨ 15 ≤ n then .exc 1 n
      else if 10 ≤ n ∧ n ≤ 12 ∧ !d.isSupervisor tid then .exc 2 n
      else match d.partOf tid with
        | none => .starve
        | some p =>
          if d.replays tid && srReplayed n then
            match (d.thread tid).takeReplay 1 with
            | none => .starve
            | some (vs, t') => .done (d.setThread tid (t'.setReg rd (vs.getD 0 0)))
          else
            let (v, d) := d.readSr tid p n
            let d := d.updThread tid (fun t => t.setReg rd v)
            .done (if srReplayed n then d.recordInput tid v else d)) s

/-- MTSR: R94, R126. -/
def execMtsr (i : Issue) (sr : BitVec 5) (ra : BitVec 5) (s : State) : Out :=
  let tid := i.tid.val
  let n := sr.toNat
  issue i (Instr.wf (.mtsr i sr ra)) 1 false 0 [ra]
    (fun t _ d =>
      let v := t.reg ra
      if n = 4 then
        let m : W32 := if d.isSupervisor tid then v.setWidth 32 else v.setWidth 32 &&& 0x7FFFFFFF#32
        onThread i (fun x => { x with ev := x.ev &&& ~~~ m }) d
      else if n = 9 then onThread i (fun x => { x with pasid := v &&& 0x800FFFFF#64 }) d
      else .exc 1 n) s

/-! ## TSTART (R126) -/

/-- A thread that TSTART starts: it resumes at an address with everything else as it was. -/
def Thread.restart (t : Thread) (pc : Nat) : Thread := { t with st := .running, wait := .none, stepping := false, pc := pc }

/-- The thread a TSTART of a thread acts on: in duplex the thread it names on its own island (R413). -/
def Dev.startTarget (d : Dev) (tid target : Nat) : Nat :=
  match d.partOf tid with
  | some p =>
    if !d.inDuplex p || d.dpxExternal p || islOf tid == islOf target || (!timed target && d.isStandby tid) then target else peerTid target
  | none => target

/-- What TSTART of a target at an address answers: 0 started, 1 not IDLE or FAULTED, 2 outside the executable sections. -/
def Dev.startResult (d : Dev) (p t pc : Nat) : Nat :=
  let st := (d.thread t).st
  if st ≠ .idle ∧ st ≠ .faulted then 1 else if pc % 8 ≠ 0 ∨ !fetchOk d p t pc then 2 else 0

/-- TSTART: R126, R127. Background threads run on the active island only, so a standby takes the result of starting one by replay (R412). -/
def execTstart (i : Issue) (rd ra rb : BitVec 5) (s : State) : Out :=
  let tid := i.tid.val
  issue i (Instr.wf (.tstart i rd ra rb)) 1 true (destG rd) [rd, ra, rb]
    (fun t _ d =>
      let target := (t.reg ra).toNat % 1024
      let pc := (t.reg rb).toNat % 2 ^ 23
      let u := d.startTarget tid target
      let result := fun (v : Nat) (d : Dev) =>
        if coreOf u = coreOf tid ∨ coreOf u = coreOf (d.seenTid tid) then d.updThread tid (fun x => x.setReg rd (BitVec.ofNat 64 v))
        else d.sendOp tid t i.slot (.tstart target pc) rd (some (BitVec.ofNat 64 v))
      if !d.isSupervisor tid then .exc 2 target
      else match d.partOf tid with
        | none => .starve
        | some p =>
          if 576 ≤ target ∨ d.partOf target ≠ some p ∨ u = tid then .exc 3 target
          else if d.replays tid && !timed target then
            match (d.thread tid).takeReplay 1 with
            | none => .starve
            | some (vs, t') => .done (result (vs.getD 0 0).toNat (d.setThread tid t'))
          else
            let v := d.startResult p u pc
            let d := if v = 0 then d.updThread u (fun x => x.restart pc) else d
            let d := result v d
            .done (if timed target then d else d.recordInput tid (BitVec.ofNat 64 v))) s

/-! ## Debug (R81, R82, R84) -/

/-- A halt stops the leases of the thread's claims, where the partition says so (R84). -/
def Dev.holdLeases (d : Dev) (p tid : Nat) : Dev :=
  if d.rb .coreDbgPart p 1 then
    d.updThread tid (fun t => { t with claims := t.claims.map (fun c => match c.leaseEnd with
      | some e => if d.ns < e then { c with leaseEnd := none, leaseLeft := e - d.ns } else c
      | none => c) })
  else d
/-- At resume they continue from what is left. -/
def Dev.runLeases (d : Dev) (tid : Nat) : Dev :=
  d.updThread tid (fun t => { t with claims := t.claims.map (fun c =>
    if c.leaseLeft = 0 then c else { c with leaseEnd := some (d.ns + c.leaseLeft), leaseLeft := 0 }) })

/-- A debug request about a thread: carried out, or refused with its bits set (R81). -/
def Dev.debugAsk (d : Dev) (tid : Nat) (act : Nat → Dev → Dev) : Dev :=
  let c := coreOf tid
  match d.partOf tid with
  | none => d
  | some p =>
    let duplex := d.inDuplex p
    let banned := !d.rb .coreDbgPart p 0
    let d := if duplex then d.setRb .coreDbgStat c 16 true else d
    let d := if banned then d.setRb .coreDbgStat c 17 true else d
    if duplex || banned then d else act p d

/-- A thread stops for the debug interface; what it waits for is remembered. -/
def Dev.haltThread (d : Dev) (p tid : Nat) : Dev :=
  let d := d.setRb .coreDbgCtl (coreOf tid) (idxOf tid) true
  let st := (d.thread tid).st
  if st = .running ∨ st = .waiting then
    (d.updThread tid (fun t => { t with st := .halted, stepping := false })).holdLeases p tid
  else d

/-- A HALTED thread goes on, to stop again after one bundle when it steps: to RUNNING, or to WAITING, which completes if its event has come (R82). -/
def Dev.resumeThread (d : Dev) (tid : Nat) (step : Bool) : Dev :=
  let t := d.thread tid
  match t.wait with
  | .none => d.setThread tid { t with st := .running, stepping := step }
  | .twait _ => d.setThread tid { t with st := .waiting, stepping := step }
  | .events rd mask =>
    let t := { t with st := .waiting, stepping := step }
    if t.ev &&& mask = 0 then d.setThread tid t
    else (d.setThread tid (t.takeEvents rd mask).wake).count (evE (islOf tid) (16 * (coreOf tid % 16) + 12))

/-- DEBUG_HALT: R82. -/
def execDebugHalt (tid : Fin 576) (s : State) : Out :=
  event (fun d => d.debugAsk tid.val (fun p d => d.haltThread p tid.val)) s

/-- DEBUG_STEP: a HALTED thread issues one bundle (R82). -/
def execDebugStep (tid : Fin 576) (s : State) : Out :=
  event (fun d => d.debugAsk tid.val (fun _ d => if (d.thread tid.val).st = .halted then d.resumeThread tid.val true else d)) s

/-- A thread's halt bit is cleared, and a HALTED thread resumes. -/
def Dev.debugRun (d : Dev) (tid : Nat) : Dev :=
  let d := d.setRb .coreDbgCtl (coreOf tid) (idxOf tid) false
  if (d.thread tid).st = .halted then (d.resumeThread tid false).runLeases tid else d

/-- DEBUG_RESUME: R82. -/
def execDebugResume (tid : Fin 576) (s : State) : Out :=
  event (fun d => d.debugAsk tid.val (fun _ d => d.debugRun tid.val)) s

/-- An enabled breakpoint of a core names an address (R81). -/
def Dev.breakAt (d : Dev) (c pc : Nat) : Bool :=
  (List.range 4).any (fun j => d.rb .coreBkpt (4 * c + j) 0 && d.rf .coreBkpt (4 * c + j) 3 20 == pc / 8)

/-- BREAKPOINT_HIT: a RUNNING thread comes to an address of an enabled breakpoint of its core (R81). -/
def execBreakpointHit (tid : Fin 576) (s : State) : Out :=
  event (fun d =>
    match d.partOf tid.val with
    | none => d
    | some p =>
      let t := d.thread tid.val
      if t.st = .running && d.breakAt (coreOf tid.val) t.pc && d.rb .coreDbgPart p 0 && !d.inDuplex p then d.haltThread p tid.val else d) s

/-! ## Freed slots (R55, R56) -/

/-- A ring whose read-ahead the prefetch helper of a core would take: the one named, or the first with work. -/
def Dev.prefetchRing (d : Dev) (c : Nat) (ring : Option (Fin 16384)) : Option Nat :=
  let first := ((d.regs.filter (fun (e : Nat × Word) => e.1 % 512 == Reg.ringSqSvc.code)).map (fun (e : Nat × Word) => e.1 / 512)).find? (fun n => d.prefetchWork c n)
  match ring with
  | some n => if d.prefetchWork c n.val then some n.val else first
  | none => first

/-- FREED_SLOT: a waiting slot of a timed thread goes to a helper with work, else to tb, which issues by its own commands, else unused. -/
def execFreedSlot (tid : Fin 512) (ring : Option (Fin 16384)) (s : State) : Out :=
  event (fun d =>
    let c := coreOf tid.val
    if (d.partOf tid.val).isNone || (d.thread tid.val).st == .running then d
    else
      let d := d.slots tid.val 4 1
      let ev := fun k => evE (islOfCore c) (16 * (c % 16) + k)
      match d.prefetchRing c ring with
      | some n => (d.prefetch n).count (ev 2)
      | none =>
        if d.dumpWork c then d.dumpLine.count (ev 2)
        else if (d.thread (512 + c)).st = .running then d else d.count (ev 3)) s

end Sys2Proof.Machine
end

