-- ==== Sys2Proof/Machine/Collector.lean ====
section
/-! DEFINITION. Machine/Collector.lean: the fault collector: collection, severity, escalation, history, notices, injection and the safe state (R76, R77 of 02_engine_cores.md, R393 to R409 of 11_faults_and_duplex.md, R386 of 10_wenot_command_set.md). -/
namespace Sys2Proof.Machine
open Sys2Proof

/-! ## Sources (R394 to R396) -/

/-- A memory kind is present on an island (R394). -/
def memPresent (isl k : Nat) : Bool :=
  let e := decide (2 ≤ isl) && decide (isl ≤ 5)
  match k with
  | 0 => isl == 0 || e
  | 1 | 2 | 3 | 4 => e
  | 5 => decide (6 ≤ isl) && decide (isl ≤ 7)
  | 6 => isl == 1
  | _ => true

/-- A MEM_ source that can be raised. -/
def memSource (n : Nat) : Bool := n / 128 == 4 && memPresent ((n - 512) / 16) ((n - 512) % 16 / 2)
/-- MEM_CE_i_k. -/
def memCe (n : Nat) : Bool := memSource n && n % 2 == 0
/-- A checker source (R395). -/
def checkerSource (n : Nat) : Bool := memSource n || (decide (384 ≤ n) && decide (n ≤ 406)) || n == 900 || n == 1414 || n == 0 || n == 1
/-- A checker source whose checks this model's other commands do not make, so that its faults come from outside. -/
def extSource (n : Nat) : Bool := memSource n || n == 0 || n == 1 || n == 1414

/-- The programmed severity of a source. -/
def Dev.sevOf (d : Dev) (n : Nat) : Nat := d.rf .fltSev (n / 16) (n % 16 * 2) 2

/-! ## History (R404, R405) -/

/-- A history entry's four words. -/
def histWords (r : Report) (eff prog seq : Nat) (esc : Bool) : List Word :=
  let ns := r.time / 65536
  let sev := eff + prog * 4 + r.isl % 8 * 16
  let scope := (match r.part with | some p => p % 8 + 8 | none => 0 : Nat)
  let thr := (match r.tid with | some t => t % 1024 + 2 ^ 15 | none => 0 : Nat)
  [timeWord ns,
   BitVec.ofNat 64 (r.source % 2 ^ 11 + r.source / 128 % 16 * 2 ^ 11 + b2n esc * 2 ^ 15 + sev * 2 ^ 16 + scope * 2 ^ 24 + thr * 2 ^ 32 + seq % 2 ^ 16 * 2 ^ 48),
   r.detail,
   BitVec.ofNat 64 (ns / nsPerSec / 2 ^ 32 % 2 ^ 16)]

/-- Entries held in the history queue. -/
def Dev.histCount (d : Dev) : Nat := d.rf .fltStat 0 3 5

/-- The history queue takes an entry; a full one loses its oldest. -/
def Dev.histPush (d : Dev) (ws : List Word) : Dev :=
  let n := d.histCount
  let put := fun (d : Dev) (e : Nat) (ws : List Word) => (ws.zip (List.range 4)).foldl (fun d x => d.setReg .fltHist (4 * e + x.2) x.1) d
  if n < 16 then (put d n ws).setRf .fltStat 0 3 5 (n + 1)
  else
    let old := d
    let d := (List.range 60).foldl (fun d k => d.setReg .fltHist k (old.reg .fltHist (k + 4))) d
    ((put d 15 ws).incRf .fltStat 0 16 16 1).count 8

/-! ## Effective severity (R77, R398, R401, R402) -/

/-- The severity a fault is raised at: its programmed one, at least 2 for the supervisor's own (R77). -/
def Dev.baseSev (d : Dev) (r : Report) : Nat :=
  let own := match r.part, r.tid with
    | some p, some t => d.supervisor p == some t
    | _, _ => false
  if own then Nat.max (d.sevOf r.source) 2 else d.sevOf r.source

/-- A fault's scope: 0 to 7 a partition, 8 the device. -/
def Report.scope (r : Report) : Nat := match r.part with | some p => p | none => 8

/-- The highest effective severity among pending faults of a class in a scope. -/
def Dev.pendMax (d : Dev) (cls scope : Nat) : Option Nat :=
  (d.flt.pend.filter (fun f => f.source / 128 == cls && f.scope == scope)).foldl
    (fun a f => some (match a with | some m => Nat.max m f.sev | none => f.sev)) none

/-- The effective severity of a report, and whether escalation raised it. -/
def Dev.effSev (d : Dev) (r : Report) : Nat × Bool :=
  let base := d.baseSev r
  if d.phaseNow ≠ 1 then (if r.source / 128 = 0 then (3, false) else (base, false))
  else match d.pendMax (r.source / 128) r.scope with
    | none => (base, false)
    | some m =>
      let cap := if r.part.isNone || d.sevOf r.source = 3 then 3 else 2
      let eff := Nat.min cap (Nat.max base m + 1)
      (eff, decide (base < eff))

/-! ## The safe state (R408) -/

/-- A port ends its frame in transmission with an error code. -/
def Dev.cutWire (d : Dev) (x : Nat) : Dev :=
  let gone := fun (d : Dev) (w : OnWire) => (d.freeEgress w.queue w.frame).dropFrame w.frame
  let d := match tabFind x d.pkt.susp with | some v => gone d v | none => d
  match tabFind x d.pkt.wire with
  | some w => (gone d w).emit (.portError x)
  | none => d

/-- A transfer is dropped with no status, entry or event (R272). -/
def Dev.dropXfer (d : Dev) (ch : Nat) : Dev :=
  match (d.chan ch).xfer with
  | none => d
  | some _ =>
    let d := (d.setChan ch { d.chan ch with xfer := none }).stageStat (chanIsl ch)
    (d.setRb .dmaChStat ch 0 false).setRb .dmaChStat ch 5 false

/-- Every causeway unit this device holds for a partition is released. -/
def Dev.dropUnits (d : Dev) (p : Nat) : Dev :=
  let held := d.rf .dpxCw p 0 4
  let d := if d.dpxExternal p then (List.range 4).foldl (fun d u => if nbit held u then d.emit (.causeway u false) else d) d else d
  d.setReg .dpxCw p 0

/-- Every function reports Uncorrectable Internal Error, as fatal (R315). -/
def Dev.internalError (d : Dev) : Dev :=
  (List.range 72).foldl (fun d k =>
    if d.fnExists (k / 9) (k % 9) then (d.updFn (k / 9) (k % 9) (fun x => { x with internalFatal := true })).aer (k / 9) (k % 9) .internal else d) d

/-- The device enters the safe state on a fault: what the islands hold from tick 4 on is set at the decision. -/
def Dev.enterSafe (d : Dev) (source : Nat) : Dev :=
  let d := d.setReg .fltSafeCause 0 (BitVec.ofNat 64 (source % 2 ^ 11 + 2 ^ 15 + d.phaseNow * 2 ^ 16))
  let d := ((d.setReg .fltSafeTime 0 (timeWord d.ns)).setRb .fltStat 0 2 true).lifeReset 9
  let d := { d.fwAbandon with fw := { d.fwAbandon.fw with posting := none } }
  let d := (List.range 32).foldl (fun d x => d.cutWire x) d
  let d := { d with pkt := { d.pkt with wire := [], susp := [] } }
  let d := (d.dma.chans.map (·.1)).foldl (fun d ch => d.dropXfer ch) d
  let d := (d.abortOps (fun _ => true)).purgeKeys
  let d := (List.range 8).foldl (fun d p => d.dropUnits p) d
  let d := (d.discardReqs (fun r => !r.quarantined)).internalError
  let d := { d.setReg .fltInjStat 0 0 with flt := { (d.setReg .fltInjStat 0 0).flt with injEnd := none } }.setPhase
  let d := { d with life := { d.life with histCopy := (List.range 64).foldl (fun t k => tabPut t 0 k (d.reg .fltHist k)) [] } }
  (d.checkpoint 3).showFaces

/-! ## Notices (R76) -/

/-- Faults whose notice goes to the supervisor at every severity (R79, R220). -/
def alwaysNoticed (n : Nat) : Bool := n == 657 || n == 896 || n == 897

/-- Firmware's view of a thread follows a notice of its fault (R390). -/
def Dev.viewTold (d : Dev) (tid : Nat) : Dev :=
  { d with fw := { d.fw with view := tabDel (196608 + tid) d.fw.view, viewSince := tabDel (196608 + tid) d.fw.viewSince } }
/-- A thread's fault notice is lost: firmware's view of the thread stays RUNNING (R390, R392). -/
def Dev.viewMissed (d : Dev) (tid : Nat) : Dev :=
  if (d.thread tid).st = .faulted then { d with fw := { d.fw with view := tabIns (196608 + tid) 1 d.fw.view } } else d

/-- A notice for the partition's supervisor: queued, or counted when the queue is full or there is no supervisor. -/
def Dev.notify (d : Dev) (p : Nat) (r : Report) (pend : Bool) : Bool × Dev :=
  let lost := fun (d : Dev) => ((match r.tid with | some t => d.viewMissed t | none => d).incRf .coreFnqStat p 16 16 1).count (evPart p 10)
  match d.supervisor p with
  | none => (false, lost d)
  | some sup =>
    let x := d.part p
    if 32 ≤ x.notices.length then (false, (lost d).setEvent sup 31)
    else
      let n : Notice := ⟨r.source, r.tid, r.exc, timeWord (r.time / 65536), r.detail, pend⟩
      let d := match r.tid with | some t => d.viewTold t | none => d
      let d := (d.setPart p { x with notices := x.notices ++ [n] }).setRf .coreFnqStat p 0 6 (x.notices.length + 1)
      (true, d.setEvent sup 31)

/-! ## Duplex (R416) -/

/-- The islands a checker fault counts for: where it was detected, and both ends of a strait. -/
def checkIslands (r : Report) : List Nat :=
  if 384 ≤ r.source ∧ r.source ≤ 406 then [(straitEnds (r.source - 384)).1, (straitEnds (r.source - 384)).2] else [r.isl]

/-- The islands of a duplex partition on this device. -/
def Dev.dpxIslands (d : Dev) (p : Nat) : List Nat :=
  if d.dpxExternal p then [d.dpxActive p] else [d.dpxActive p, peerIsl (d.dpxActive p)]

/-- A checker fault is noted for the comparison of a partition. -/
def Dev.noteCheck (d : Dev) (r : Report) (p : Nat) : Dev :=
  let x := d.duplex p
  let is := checkIslands r
  let here := fun (active : Bool) =>
    if d.dpxExternal p then is.contains (d.dpxActive p) && (d.reg .dpxCw p != 0) == active
    else is.contains (if active then d.dpxActive p else peerIsl (d.dpxActive p))
  d.setDuplex p { x with chkActive := x.chkActive || here true, chkStandby := x.chkStandby || here false }

/-- A checker fault of a partition's pair is left to the duplex decision: the standby is synchronised, and the scope is the partition or the device. -/
def Dev.dpxTakes (d : Dev) (r : Report) : Bool :=
  checkerSource r.source && !memCe r.source && (List.range 8).any (fun p =>
    d.inDuplex p && d.rb .dpxStat p 0 && (r.part == some p || r.part.isNone) && (checkIslands r).any (fun i => (d.dpxIslands p).contains i))

/-! ## Collection (R397, R398) -/

/-- A fault that acts becomes pending, in its scope. -/
def Dev.addPend (d : Dev) (r : Report) (eff : Nat) (noticed : Bool) : Dev :=
  if eff = 0 then d
  else
    let f : PendFault := ⟨r.source, r.scope, eff, noticed⟩
    let c := { d.flt with pend := d.flt.pend ++ [f] }
    ({ d with flt := c }).showCpend (r.source / 128)

/-- What a fault of partition scope below severity 3 does. -/
def Dev.actPart (d : Dev) (p : Nat) (r : Report) (eff : Nat) : Dev :=
  if eff = 2 ∧ d.partState p ≠ 1 then d
  else
    let own := (match r.tid with | some t => d.supervisor p == some t | none => false)
    let tell := !own && (decide (1 ≤ eff) || r.tid.isSome || alwaysNoticed r.source)
    let (noticed, d) := if tell then d.notify p r (decide (1 ≤ eff)) else (false, d)
    let d := d.addPend r eff noticed
    if eff = 2 then (d.containPart p).interruptManager
    else if eff = 1 ∧ d.rb .fltCfg 0 1 then d.interruptManager else d

/-- What a fault does at its effective severity (R398). The completion of a switch-over always interrupts the manager (R419). -/
def Dev.actFault (d : Dev) (r : Report) (eff : Nat) : Dev :=
  let always := fun (d : Dev) => if r.source = 1411 then d.interruptManager else d
  if eff = 3 then ((d.addPend r eff false).enterSafe r.source)
  else match r.part with
    | some p => always (d.actPart p r eff)
    | none => if eff = 0 then always d else (d.addPend r eff false).interruptManager

/-- The collector takes a report. -/
def Dev.takeReport (d : Dev) (r : Report) : Dev :=
  let (eff, esc) := d.effSev r
  let seq := d.flt.seq
  let f := { d.flt with last := tabPut d.flt.last 0 r.source (timeWord (r.time / 65536)), seq := (seq + 1) % 2 ^ 16 }
  let d := ({ d with flt := f, life := { d.life with faults := Nat.min (2 ^ 64 - 1) (d.life.faults + 1) } }).count 7
  let d := d.incRf .fltCnt r.source 0 32 1
  let d := if d.rf .fltCfg 0 2 2 ≤ eff then d.histPush (histWords r eff (d.sevOf r.source) seq esc) else d
  if d.safe then d
  else
    let d := if d.rb .snapCfg 0 1 && decide (d.rf .snapCfg 0 5 2 ≤ eff) then d.snapAccept 1 d.time.tick none else d
    let takes := d.dpxTakes r
    let d := if checkerSource r.source && !memCe r.source then
        ((List.range 8).filter (fun p => d.inDuplex p)).foldl (fun d p => d.noteCheck r p) d else d
    if takes then d.addPend r eff false else d.actFault r eff

/-- The next report the collector may take on this tick: one of a source it has not taken yet. -/
def Dev.nextReport (d : Dev) : Option Report :=
  let taken := if d.flt.takenAt = d.time.tick then d.flt.taken else []
  d.flt.queue.find? (fun r => !taken.contains r.source)

/-- A report from a checker outside this model's commands joins the queue; it uses up an inverted check. -/
def Dev.extReport (d : Dev) (e : ExtFault) : Dev :=
  if !extSource e.source then d
  else
    let part := if memSource e.source && !memCe e.source then e.part.map (·.val) else none
    let tid := if part.isSome then e.tid.map (·.val) else none
    (d.raise e.source e.isl.val part tid 0 e.detail.toNat).useInjection e.source

/-- FAULT_COLLECT: a report that comes from outside, if one does, joins the queue, and the collector takes the first it may (R397). -/
def execFaultCollect (ext : Option ExtFault) (s : State) : Out :=
  eventOn (fun d =>
    let d := match ext with | some e => d.extReport e | none => d
    match d.nextReport with
    | none => d
    | some r =>
      let taken := if d.flt.takenAt = d.time.tick then d.flt.taken else []
      let f := { d.flt with queue := d.flt.queue.erase r, takenAt := d.time.tick, taken := r.source :: taken }
      { d with flt := f }.takeReport r) s

/-- FLT_WATCHDOG: a report has waited more than 1,024 ticks; the independent logic raises and acts (R403). -/
def execFltWatchdog (s : State) : Out :=
  event (fun d =>
    if d.flt.queue.any (fun r => decide (r.tick + 1024 < d.time.tick)) then
      let (v, d) := d.fresh
      d.takeReport ⟨2, 0, none, none, 0, v, d.time.tick, d.time.now⟩
    else d) s

/-! ## Injection (R407) -/

/-- INJECTION_CANCEL: a second of device time has passed. -/
def execInjectionCancel (s : State) : Out :=
  eventOn (fun d =>
    match d.flt.injEnd with
    | some t => if t ≤ d.ns then { d.setReg .fltInjStat 0 0 with flt := { d.flt with injEnd := none } }.setPhase else d
    | none => d) s

/-- FAULT_INJECT: R386, R407. -/
def execFaultInject (h : CmdHdr) (s : State) : Out :=
  wenot 0x92 true (fun _ h d =>
    let n := h.arg0.toNat
    let k := h.arg1.toNat
    if k = 0 then .fail 0x04 d
    else if !d.rb .fltCfg 0 4 || !checkerSource n then .fail 0x05 d
    else
      let d := d.setReg .fltInjStat 0 (BitVec.ofNat 64 (n + 2 ^ 15 + k * 2 ^ 16))
      .ok { d with flt := { d.flt with injEnd := some (d.ns + nsPerSec) } }.setPhase) h s

/-! ## FAULT_READ and FAULT_ACK (R386, R400, R404, R406) -/

/-- The status record of a source (R406). -/
def Dev.faultRecord (d : Dev) (n : Nat) : List Byte :=
  let scopes := (List.range 9).foldl (fun a k => a + (if d.flt.pend.any (fun f => f.source == n && f.scope == k) then 2 ^ k else 0)) 0
  leBytes 2 n ++ [BitVec.ofNat 8 (d.sevOf n + 4 * b2n (checkerSource n)), 0] ++ leBytes 2 scopes ++ leBytes 2 0 ++
    leBytes 4 (d.rf .fltCnt n 0 32) ++ leBytes 4 0 ++ leBytes 8 (tabGet d.flt.last 0 n).toNat

/-- FAULT_READ: the history queue, or a range of sources. -/
def execFaultRead (h : CmdHdr) (s : State) : Out :=
  wenot 0x90 true (fun _ h d =>
    let a := h.arg1.toNat
    match h.arg0.toNat with
    | 0 =>
      if a ≠ 0 then .fail 0x04 d
      else
        let n := d.histCount
        let out := (List.range (4 * n)).flatMap (fun k => leBytes 8 (d.reg .fltHist k).toNat)
        .answer { r0 := BitVec.ofNat 64 n, out := out } d
    | 1 =>
      let first := fld a 0 11
      let n := fld a 11 11 + 1
      if 2 ^ 22 ≤ a ∨ 2048 < first + n then .fail 0x04 d
      else .answer { r0 := BitVec.ofNat 64 n, out := (List.range n).flatMap (fun k => d.faultRecord (first + k)) } d
    | _ => .fail 0x04 d) h s

/-- FAULT_ACK: every pending fault of a source, or every pending fault. -/
def execFaultAck (h : CmdHdr) (s : State) : Out :=
  wenot 0x91 true (fun _ h d => .ok (d.ackWhere (fun f => wbit h.arg1 0 || f.source == h.arg0.toNat))) h s

end Sys2Proof.Machine
end

