-- ==== Sys2Proof/Machine/Fields.lean ====
section
/-! DEFINITION. Machine/Fields.lean: the configuration registers' fields, the ranges they are held to, and the check of one word (R466, R467 of 13_startup_and_configuration.md, R47, R177, R204, R292, R320, R426, R448, R500). -/
namespace Sys2Proof.Machine
open Sys2Proof

/-- What a field is held to. -/
inductive FieldChk where
  | num (lo hi : Nat)
  /-- A signed number of 8 bits -/
  | signed (lo hi : Int)
  | enum (ok : List Nat) (dflt : Nat)
  /-- A port index that must exist under PORT_MODE -/
  | port
  /-- A host port that bif provides -/
  | mgmt
  /-- Partitions of a host port that bif must provide -/
  | parts
  /-- At most PORT_FC_THR.xoff -/
  | xon
  /-- An engine island, in a wildcard entry of the table directory -/
  | ruleIsl
  /-- A range, in a wildcard entry of the table directory -/
  | ruleNum (lo hi : Nat)
  deriving DecidableEq, Repr

/-- A field of a configuration register that has a range. -/
structure FieldDef where
  lo : Nat
  width : Nat
  chk : FieldChk
  deriving DecidableEq, Repr

/-- The fields with a range, in ascending bit order. -/
def fieldsOf : Reg → List FieldDef
  | .timeSrc => [⟨0, 2, .enum [0, 1, 2] 1⟩, ⟨2, 2, .enum [0, 1, 2] 2⟩, ⟨4, 2, .enum [0, 1, 2] 0⟩, ⟨8, 5, .port⟩, ⟨16, 5, .port⟩, ⟨26, 2, .enum [0, 1] 0⟩]
  | .timePpsOut => [⟨8, 10, .num 1 500⟩]
  | .timeClkSpread => [⟨0, 2, .enum [0, 1, 2] 2⟩, ⟨2, 2, .enum [0, 1, 2] 2⟩, ⟨4, 2, .enum [0, 1, 2] 2⟩]
  | .portMode => [⟨0, 3, .enum [0, 1, 2, 3, 4] 0⟩]
  | .portBuf => [⟨0, 8, .num 8 56⟩]
  | .portMaxframe => [⟨0, 14, .num 1518 9600⟩]
  | .portFc => [⟨0, 2, .enum [0, 1, 2] 0⟩]
  | .portFcThr => [⟨16, 16, .xon⟩]
  | .prsUser => [⟨6, 2, .enum [0, 1, 2] 0⟩, ⟨14, 2, .enum [0, 1, 2] 0⟩, ⟨22, 2, .enum [0, 1, 2] 0⟩, ⟨30, 2, .enum [0, 1, 2] 0⟩]
  | .clsFragHold => [⟨0, 32, .num 10 100000⟩]
  | .clsFragLife => [⟨0, 32, .num 1 100⟩]
  | .clsSteer => [⟨48, 5, .port⟩]
  | .clsTdir => [⟨0, 2, .enum [0, 1, 2] 0⟩, ⟨6, 5, .num 2 26⟩, ⟨16, 4, .ruleIsl⟩, ⟨20, 16, .ruleNum 0 32767⟩, ⟨36, 16, .ruleNum 1 32768⟩]
  | .clsMirror => [⟨21, 14, .num 0 9600⟩]
  | .schTxqCfg => [⟨0, 5, .port⟩]
  | .schOvh => [⟨0, 8, .signed (-32) 127⟩]
  | .dmaIslCfg => [⟨4, 7, .num 1 64⟩, ⟨16, 12, .num 64 2048⟩]
  | .hostLinkCfg => [⟨0, 2, .enum [0, 1, 2] 0⟩, ⟨8, 2, .mgmt⟩]
  | .hostPortCfg => [⟨0, 8, .parts⟩]
  | .hostFnCfg => [⟨0, 5, .num 16 30⟩]
  | .hostFnTags => [⟨0, 14, .num 16 8192⟩]
  | .cntDumpCfg => [⟨0, 22, .num 1 3600000⟩]
  | .cntDumpRing => [⟨0, 4, .num 1 12⟩]
  | .cntDumpSlack => [⟨0, 20, .num 1 1000000⟩]
  | .cntDumpRange => [⟨13, 11, .num 0 1024⟩]
  | .thermCfg => [⟨0, 8, .num 100 150⟩, ⟨8, 8, .num 151 158⟩, ⟨16, 8, .num 159 165⟩]
  | _ => []

/-- The defined bits of a parser node's word (R144). -/
def nodeMask (word : Nat) : Nat :=
  match word with
  | 0 => 0x3FFF3FFF
  | 1 => 0xFFFFFFFF
  | 10 => 0xFFFFFF7F
  | 11 => 0x3
  | n => if n ≤ 9 then 0xFFFFFFFF else 0

/-- The defined bits of a configuration register. -/
def defMask (r : Reg) (i : Nat) : Nat :=
  match r with
  | .timeSrc => 0x1F3F1F3F
  | .timePpsOut => 0x3FF03
  | .timeClkSpread => 0x3F
  | .portMode => 7
  | .portPhy => 3
  | .portBuf => 0xFF
  | .portCsum => 1
  | .portMaxframe => 0x3FFF
  | .portMm => 0xF
  | .portFc => 0x1F
  | .portSteer => 0x3F
  | .prsNode => nodeMask (i % 16)
  | .prsStart => 0x1F
  | .prsUserk => 0xFFFF
  | .prsCtl => 1
  | .clsSteer => 0x80FFFFFFFFFFFFFF
  | .clsTdir => 0xFFFFFFFFFFFF1FFF
  | .clsMirror => 0x7FFFFFFFF
  | .schTxqCfg => 0xFFF
  | .schShpCfg => 0xF
  | .schPolCfg => 0xFF
  | .schOvh => 0xFF
  | .schPortCfg => 0x1FF
  | .dmaChOwner => 0x7FFFF
  | .dmaIslCfg => 0xFFF07F7
  | .ringSqOwner => 0x3FFFFFF
  | .ringCqOwner => 0xFFFF
  | .hostLinkCfg => if i = 0 then 0x373 else 0x73
  | .hostPortCfg => 0xFF
  | .hostFnCfg => 0x1F
  | .hostFnTags => 0x3FFF
  | .fltCfg => 0x1F
  | .fltIrq => 0xFFF
  | .dpxExt => 1
  | .cntDumpCfg => 0xBF3FFFFF
  | .cntDumpBase => 0xFFFFFFFFFFFFF000
  | .cntDumpRing => 0xF
  | .cntDumpSlack => 0xFFFFF
  | .cntDumpRange => 0xFFFFFF
  | .ioSlew => 0xFF
  | .thermCfg => 0x1FFFFFF
  | _ => if r.info.bytes = 8 then 2 ^ 64 - 1 else 2 ^ 32 - 1

/-- Bits of a configuration register that a configuration write leaves alone in silence: REFCLK's frequency, a queue of bytes in use, and a field with its own write access. -/
def ownMask (r : Reg) : Nat :=
  match r with
  | .timeSrc => 0x2000000
  | .schPartEq => 0xFFFF0000
  | .schPolCfg => 0xF0
  | _ => 0

/-- A numeric field at its nearest limit: the report's kind (R468) and the value, or nothing where it is in range. -/
def nearest (lo hi x : Nat) : Option (Nat × Nat) := if x < lo then some (1, lo) else if hi < x then some (2, hi) else none

/-- Host ports that a bifurcation of a link provides (R293). -/
def bifPorts (b : Nat) : Nat := match b with | 1 => 2 | 2 => 4 | _ => 1

/-- A field's value as R466 and R467 store it, where it differs: the kind of the report entry and the value. -/
def Dev.holdField (d : Dev) (r : Reg) (i v : Nat) (f : FieldDef) : Option (Nat × Nat) :=
  let x := fld v f.lo f.width
  let wild := r == .clsTdir && fld v 0 2 == 2
  match f.chk with
  | .num lo hi => if r == .clsMirror then (if x = 0 then none else nearest 64 9600 x) else nearest lo hi x
  | .signed lo hi =>
    let y : Int := if x < 128 then x else (x : Int) - 256
    if y < lo then some (1, (lo % 256).toNat) else if hi < y then some (2, hi.toNat) else none
  | .enum ok dflt => if ok.contains x then none else some (3, dflt)
  | .port => if x = 0 || d.subPort x then none else some (3, 0)
  | .mgmt => if i = 0 ∧ x ≠ 0 ∧ bifPorts (fld v 0 2) ≤ x then some (3, 0) else none
  | .parts =>
    if x ≠ 0 ∧ bifPorts (d.rf .hostLinkCfg (i / 4) 0 2) ≤ i % 4 then some (3, 0) else none
  | .xon => nearest 0 (fld v 0 16) x
  | .ruleIsl => if wild && !(decide (2 ≤ x) && decide (x ≤ 5)) then some (3, 0) else none
  | .ruleNum lo hi => if wild then nearest lo hi x else none

/-- One change that R466 made to a word: lowest bit, width, kind, value found, value stored. -/
structure FieldFix where
  lo : Nat
  width : Nat
  kind : Nat
  found : Nat
  used : Nat
  deriving DecidableEq, Repr

/-- The fields of a register whose highest bit lies in a word are held to their ranges in ascending bit order. -/
def Dev.holdFields (d : Dev) (r : Reg) (i byte : Nat) (v : Nat) (fs : List FieldDef) : Nat × List FieldFix :=
  fs.foldl (fun (a : Nat × List FieldFix) f =>
    let top := f.lo + f.width - 1
    if top < 8 * byte ∨ 8 * byte + 32 ≤ top then a
    else match d.holdField r i a.1 f with
      | some (k, u) => (setFld a.1 f.lo f.width u, a.2 ++ [⟨f.lo, f.width, k, fld a.1 f.lo f.width, u⟩])
      | none => a) (v, [])

/-- One configuration word is checked and stored (R466): the device with it, and what the check changed. A word that is no configuration register's is not applied. -/
def Dev.confWord (d : Dev) (isl off v : Nat) : Dev × List FieldFix :=
  match regAt isl off with
  | some (r, i, byte) =>
    if r.info.acc ≠ .rwp ∨ byte % 4 ≠ 0 then (d, [⟨0, 0, 5, v, 0⟩])
    else
      let own := ownMask r >>> (8 * byte) % 2 ^ 32
      let mask := defMask r i >>> (8 * byte) % 2 ^ 32
      let bad := v &&& ((2 ^ 32 - 1) ^^^ (mask ||| own))
      let old := (d.reg r i).toNat
      let v1 := (v &&& (mask &&& ((2 ^ 32 - 1) ^^^ own))) ||| (fld old (8 * byte) 32 &&& own)
      let (w, fs) := d.holdFields r i byte (setFld old (8 * byte) 32 v1) (fieldsOf r)
      let res := if bad = 0 then [] else [(⟨0, 0, 4, bad, fld w (8 * byte) 32⟩ : FieldFix)]
      (d.setReg r i (BitVec.ofNat 64 w), res ++ fs)
  | none => (d, [⟨0, 0, 5, v, 0⟩])

/-- The fields that a check clamped or defaulted. -/
def clampsOf (fs : List FieldFix) : Nat := (fs.filter (fun f => decide (1 ≤ f.kind) && decide (f.kind ≤ 3))).length

end Sys2Proof.Machine
end

