-- ==== Sys2Proof/Machine/Setup.lean ====
section
/-! DEFINITION. Machine/Setup.lean: Plador images, staging and committing a configuration, its report, and serial-memory updates (R457 to R470 of 13_startup_and_configuration.md, R370, R371, R388, R389 of 10_wenot_command_set.md). -/
namespace Sys2Proof.Machine
open Sys2Proof

/-! ## Records (R459, R460) -/

/-- Whether every byte from an offset to the end is zero. -/
def zeroFrom (r : List Byte) (off : Nat) : Bool := (r.drop off).all (· == 0)
/-- The type of a record. -/
def recType (r : List Byte) : Nat := leAt r 0 2
/-- The words of a REG record. -/
def regWords (r : List Byte) : List Nat := (List.range (leAt r 10 2)).map (fun k => leAt r (16 + 4 * k) 4)

/-- A record of valid length with its reserved bytes zero. -/
def recOk (r : List Byte) : Bool :=
  leAt r 2 2 == 0 && (match recType r with
    | 0 | 2 | 3 | 5 => leAt r 8 8 == 0
    | 1 =>
      let n := leAt r 10 2
      decide (leAt r 8 1 ≤ 7) && leAt r 9 1 == 0 && decide (1 ≤ n) && decide (n ≤ 16384) && leAt r 12 4 % 4 == 0 && decide (leAt r 12 4 < 2 ^ 28) &&
      r.length == roundUp (16 + 4 * n) 8 && zeroFrom r (16 + 4 * n)
    | 4 => decide (leAt r 8 8 ≤ 1)
    | 6 => decide (leAt r 8 8 ≤ 7) && r.length == 32 && zeroFrom r 24
    | _ => true)

/-- Records that chain exactly to the end of some bytes; nothing where they do not. -/
def recChain : Nat → List Byte → Option (List (List Byte))
  | _, [] => some []
  | 0, _ => none
  | n + 1, bs =>
    let len := leAt bs 4 4
    if bs.length < 16 ∨ len < 16 ∨ len % 8 ≠ 0 ∨ bs.length < len then none
    else (recChain n (bs.drop len)).map (fun rs => bs.take len :: rs)
/-- The records of some bytes. -/
def recsOf (bs : List Byte) : Option (List (List Byte)) :=
  match recChain (bs.length / 16 + 1) bs with
  | some rs => if rs.all recOk then some rs else none
  | none => none

/-! ## Images (R458, R460) -/

/-- Where the two images stand in the serial memory: 1 A, 2 B (R456). -/
def imgBase (k : Nat) : Nat := if k = 1 then 0x1000 else 0x400000
/-- The largest image. -/
def imgMax : Nat := 4190208

/-- A header as R458 gives it, of an image of some length. -/
def imgHeadOk (p : List Byte) : Bool :=
  let total := leAt p 8 4
  let sig := leAt p 40 4
  p.take 4 == [0x50, 0x4C, 0x44, 0x52] && leAt p 4 1 == 1 && decide (leAt p 5 1 ≤ 1) && leAt p 6 2 == 64 && decide (64 ≤ total) && decide (total ≤ imgMax) &&
  (if nbit (leAt p 5 1) 0 then decide (64 ≤ sig) && sig + 200 == total else sig == 0) && (slice p 44 20).all (· == 0)

/-- The header bytes of the image at a place. -/
def Dev.imgHead (d : Dev) (k : Nat) : List Byte := d.flashRead (imgBase k) 64
/-- Generation of an image. -/
def genOf (p : List Byte) : Nat := leAt p 16 8
/-- Where the records of an image end. -/
def recsEnd (p : List Byte) : Nat := if leAt p 40 4 = 0 then leAt p 8 4 else leAt p 40 4

/-- An image that is structurally valid: its records (R460). -/
def Dev.imgRecords (d : Dev) (p : List Byte) : Option (List (List Byte)) :=
  if !imgHeadOk p || p.length ≠ leAt p 8 4 || crc64 (patch p 32 (leBytes 8 0)) ≠ leAt p 32 8 then none
  else
    let sig := leAt p 40 4
    if (d.board.signReq.isSome && sig == 0) || (sig != 0 && (leAt p (sig + 97) 7 != 0 || !d.sigOk p sig)) then none
    else match recsOf (slice p 64 (recsEnd p - 64)) with
      | some rs => if rs.length = leAt p 12 4 then some rs else none
      | none => none

/-- The image at a place, where its header is valid. -/
def Dev.imgAt (d : Dev) (k : Nat) : Option (List Byte) :=
  if k ≠ 0 ∧ d.smemOk ∧ imgHeadOk (d.imgHead k) then some (d.flashRead (imgBase k) (leAt (d.imgHead k) 8 4)) else none
/-- The running image's records. -/
def Dev.runRecords (d : Dev) : List (List Byte) := ((d.imgAt d.boot.image).bind d.imgRecords).getD []
/-- The place of the image that is not running. -/
def Dev.imgFree (d : Dev) : Nat := if d.boot.image = 1 then 2 else 1

/-! ## Report entries (R468) -/

/-- A report entry of 24 bytes. -/
def entry (recNo type off : Nat) (f : FieldFix) (status : Byte) : List Byte :=
  leBytes 2 recNo ++ leBytes 2 type ++ leBytes 4 off ++ [BitVec.ofNat 8 f.lo, BitVec.ofNat 8 f.width, BitVec.ofNat 8 f.kind, status, 0, 0, 0, 0] ++
    leBytes 4 f.found ++ leBytes 4 f.used
/-- An entry about a whole record. -/
def wholeEntry (recNo type kind : Nat) (status : Byte) : List Byte := entry recNo type 0 ⟨0, 0, kind, 0, 0⟩ status

/-- Entries arise: the first 256 are kept. -/
def Dev.addEnts (d : Dev) (es : List (List Byte)) : Dev :=
  { d with fw := { d.fw with ents := (d.fw.ents ++ es).take 256, entTotal := d.fw.entTotal + es.length } }

/-- The report as its header and entries give it. -/
def Dev.reportBytes (d : Dev) (source flags image gen : Nat) : List Byte :=
  let head := [0x43, 0x52, 0x50, 0x54, 1, BitVec.ofNat 8 source, BitVec.ofNat 8 (flags + b2n (decide (256 < d.fw.entTotal))), BitVec.ofNat 8 image] ++
    leBytes 8 gen ++ leBytes 8 (timeWord d.ns).toNat ++ leBytes 8 d.fw.reportSeq ++ leBytes 2 d.fw.ents.length ++ [0, 0] ++
    leBytes 4 (Nat.min d.fw.entTotal (2 ^ 32 - 1)) ++ leBytes 24 0
  let whole := head ++ d.fw.ents.flatten
  patch whole 40 (leBytes 8 (crc64 whole))

/-- A report whose check is correct. -/
def reportOk (r : List Byte) : Bool := r.take 4 == [0x43, 0x52, 0x50, 0x54] && crc64 (patch r 40 (leBytes 8 0)) == leAt r 40 8

/-! ## The report log (R470) -/

/-- Address of a slot of the report log. -/
def slotAddr (k : Nat) : Nat := 0xC00000 + k % 128 * 8192
/-- A slot is erased, and no erase of it is to come. -/
def Dev.slotBlank (d : Dev) (k : Nat) : Bool :=
  d.flashBlank (slotAddr k) 8192 && !d.life.erases_.contains (slotAddr k) && !d.life.erases_.contains (slotAddr k + 4096)
/-- The sectors of a slot that hold anything are to be erased. -/
def Dev.eraseSlot (d : Dev) (k : Nat) : Dev :=
  [slotAddr k, slotAddr k + 4096].foldl (fun d a => if d.flashBlank a 4096 || d.life.erases_.contains a then d else d.eraseDue a) d
/-- A report goes to the log, where its slot is erased. -/
def Dev.logReport (d : Dev) : Dev :=
  let k := d.fw.reportPos
  if d.smemOk && d.slotBlank k then
    let d := d.flashProgram (slotAddr k) d.fw.report
    let d := { d with fw := { d.fw with reportPos := (k + 1) % 128 } }
    d.eraseSlot (k + 2)
  else d.incRf .cfgRptStat 0 16 16 1
/-- The report in a slot of the log, where its check is correct. -/
def Dev.reportAt (d : Dev) (k : Nat) : Option (List Byte) :=
  let h := d.flashRead (slotAddr k) 64
  let r := d.flashRead (slotAddr k) (64 + 24 * Nat.min 256 (leAt h 32 2))
  if d.smemOk && reportOk r then some r else none
/-- Slots of the log that hold anything. -/
def Dev.reportSlots (d : Dev) : List Nat :=
  ((d.board.flash.filter (fun e => decide (0xC00000 ≤ e.1) && decide (e.1 < 0xD00000))).map (fun e => (e.1 - 0xC00000) / 8192)).eraseDups
/-- The newest logged report and its slot. -/
def Dev.newestReport (d : Dev) : Option (Nat × List Byte) :=
  (d.reportSlots.filterMap (fun k => (d.reportAt k).map (fun r => (k, r)))).foldl
    (fun a x => match a with | some b => if leAt b.2 24 8 < leAt x.2 24 8 then some x else a | none => some x) none

/-- CFG_RPT_STAT after a report that is no dry run. -/
def Dev.reportStat (d : Dev) (noImage : Bool) : Dev :=
  let n := d.fw.ents.length
  d.setRf .cfgRptStat 0 0 11 (n + b2n (decide (256 < d.fw.entTotal)) * 512 + b2n (decide (0 < n) || noImage) * 1024)

/-! ## Applying records (R465 to R467) -/

/-- The words of a REG record are checked and stored, in order. -/
def Dev.confRecord (d : Dev) (recNo : Nat) (r : List Byte) : Dev × Nat :=
  let isl := leAt r 8 1
  let off := leAt r 12 4
  ((regWords r).zip (List.range (regWords r).length)).foldl (fun (a : Dev × Nat) w =>
    let (d, fs) := a.1.confWord isl (off + 4 * w.2) w.1
    (d.addEnts (fs.map (fun f => entry recNo 1 (16 + 4 * w.2) f 0)), a.2 + clampsOf fs)) (d, 0)

/-- The REG records of a list are checked and stored in the registers, records being numbered from 0; an unknown type is reported. -/
def Dev.confRecords (d : Dev) (rs : List (List Byte)) : Dev × Nat :=
  (rs.zip (List.range rs.length)).foldl (fun (a : Dev × Nat) r =>
    match recType r.1 with
    | 1 => let (d, n) := a.1.confRecord r.2 r.1; (d, a.2 + n)
    | t => if t ≤ 6 then a else (a.1.addEnts [wholeEntry r.2 t 7 0], a.2)) (d, 0)

/-- The copies of a register that two devices hold differently. -/
def Dev.changed (d e : Dev) (r : Reg) : List Nat :=
  (((d.regs ++ e.regs).filter (fun (x : Nat × Word) => x.1 % 512 == r.code)).map (fun x => x.1 / 512)).eraseDups.filter (fun i => d.reg r i != e.reg r i)

/-- The register that holds the owner of a resource, the resource's kind, island and number, and the bits that name the owner. -/
def ownerOf (r : Reg) (i : Nat) : Option (Nat × Nat × Nat × Nat) :=
  match r with
  | .schTxqCfg => some (3, 0, i, 0x700)
  | .schShpCfg => some (4, 6 + i / 8192, i % 8192, 0xF)
  | .schPolCfg => some (5, 6 + i / 4096, i % 4096, 0xF)
  | .dmaChOwner => some (6, 0, i, 0x7FFFF)
  | .ringSqOwner => some (7, 0, i, 0x3FFFFFF)
  | .ringCqOwner => some (8, 0, i, 0xFFFF)
  | .clsTdir => some (10, 0, i, 0x1C)
  | .clsMirror => some (12, 0, i, 7)
  | _ => none
def ownerRegs : List Reg := [.schTxqCfg, .schShpCfg, .schPolCfg, .dmaChOwner, .ringSqOwner, .ringCqOwner, .clsTdir, .clsMirror]

/-- The partition an owner register's value names, where it names one. -/
def namedBy (r : Reg) (v : Word) : Option Nat :=
  match r with
  | .schTxqCfg => if wbit v 11 then some (wf v 8 3) else none
  | .schShpCfg | .schPolCfg | .dmaChOwner => if wbit v 3 then some (wf v 0 3) else none
  | .ringSqOwner => if wbit v 17 then some (wf v 12 3) else none
  | .ringCqOwner => if wbit v 15 then some (wf v 12 3) else none
  | .clsTdir => if wf v 0 2 = 0 then none else some (wf v 2 3)
  | .clsMirror => if v = 0 then none else some (wf v 0 3)
  | _ => none

/-- The owner fields that differ in `e` count as owned by the partition they name (R465). -/
def Dev.nameOwners (d e : Dev) : Dev :=
  ownerRegs.foldl (fun (x : Dev) r => (d.changed e r).foldl (fun (x : Dev) i =>
    match ownerOf r i with
    | some (k, w, n, _) =>
      let t := (match namedBy r (e.reg r i) with
        | some p => tabIns (ownKey k w n) (p + 1) x.ptn.named
        | none => tabDel (ownKey k w n) x.ptn.named)
      { x with ptn := { x.ptn with named := t } }
    | none => x) x) e

/-! ## Constraints that span records (R155, R185, R371) -/

/-- A commit would change the owner of a resource of a partition that exists. -/
def Dev.ownersBad (d e : Dev) : Bool :=
  ownerRegs.any (fun r => (d.changed e r).any (fun i => match ownerOf r i with
    | some (k, w, n, m) => (List.range 8).any (fun p => d.granted p k w n) && ((d.reg r i).toNat &&& m) != ((e.reg r i).toNat &&& m)
    | none => false)) ||
  (d.changed e .schPartEq).any (fun i => d.partState (i % 8) ≠ 0)

/-- Entries of the table directory of a kind: number and value. -/
def Dev.tdirOf (e : Dev) (kind : Nat) : List (Nat × Nat) :=
  ((e.regs.filter (fun (x : Nat × Word) => x.1 % 512 == Reg.clsTdir.code && wf x.2 0 2 == kind)).map (fun x => (x.1 / 512, x.2.toNat)))

/-- The table directory's constraints: the status of the first that fails. -/
def Dev.tdirBad (d e : Dev) : Option Byte :=
  let ex := e.tdirOf 1
  let wild := e.tdirOf 2
  let new := d.changed e .clsTdir
  let spanOut := fun (x : Nat × Nat) =>
    let p := fld x.2 2 3
    d.partState p ≠ 0 && d.checkMem (.part p) (fld x.2 16 48) (2 ^ fld x.2 6 5 * 256) != .ok
  let meet := fun (a b : Nat × Nat) => a.1 != b.1 && fld a.2 16 4 == fld b.2 16 4 &&
    decide (fld a.2 20 16 < fld b.2 20 16 + fld b.2 36 16) && decide (fld b.2 20 16 < fld a.2 20 16 + fld a.2 36 16)
  let resident := fun (p : Nat) => (ex.filter (fun x => nbit x.2 5 && fld x.2 2 3 == p)).foldl (fun a x => a + 2 ^ (fld x.2 6 5 + 2)) 0
  let crowded := (List.range 8).any (fun p => match (d.part p).grant with
    | some g => (List.range 4).any (fun k => g.cache.getD k 0 ≠ 0 && decide (g.cache.getD k 0 < resident p))
    | none => false)
  if new.isEmpty then none
  else if (ex.filter (fun x => new.contains x.1)).any spanOut then some 0x04
  else if wild.any (fun a => wild.any (meet a)) then some 0x04
  else if decide (2 ^ 28 < ex.foldl (fun a x => a + 2 ^ (fld x.2 6 5 + 2)) 0) || crowded then some 0x03
  else none

/-- The constraints of a commit that span records: the status of the first that fails. -/
def Dev.commitBad (d e : Dev) : Option Byte :=
  if d.ownersBad e then some 0x09
  else if (List.range 2).any (fun m => e.pathsBad m e.shpParent e.txqShaper []) then some 0x04
  else d.tdirBad e

/-! ## Values take effect (R371) -/

/-- A physical port changes its mode or its PHY: the sub-ports whose link was up go down and train anew (R135). -/
def Dev.retrain (d : Dev) (q : Nat) : Dev := (List.range 8).foldl (fun d s => d.linkDown (8 * q + s) false) d

/-- HOST_LINK_STAT.overcommit follows the tag budgets of a link's functions (R305). -/
def Dev.overcommit (d : Dev) : Dev :=
  (List.range 2).foldl (fun d l =>
    let sum := (List.range 36).foldl (fun a k => if d.fnExists (4 * l + k / 9) (k % 9) then a + d.rf .hostFnTags (36 * l + k) 0 14 else a) 0
    d.setRb .hostLinkStat l 31 (decide (8192 < sum))) d

/-- The committed values in `e`'s registers take effect on the device, each as its owning rule says. -/
def Dev.commitRegs (d e : Dev) : Dev :=
  let d0 := d
  let d := ((d0.changed e .portMode ++ d0.changed e .portPhy).eraseDups).foldl (fun d q => d.retrain q) d
  let d := (d0.changed e .schTxqCfg).foldl (fun d q => d.flushTxq q) d
  let stale := d0.changed e .clsTdir
  let drop := fun (x : Nat × List CacheEntry) => (x.1, x.2.filter (fun c => !stale.contains c.table))
  let caches := (d.pkt.caches.map drop).filter (fun (x : Nat × List CacheEntry) => !x.2.isEmpty)
  let d := { d with pkt := { d.pkt with caches := caches } }
  let put := fun (d : Dev) r => (d0.changed e r).foldl (fun (d : Dev) i => d.setReg r i (e.reg r i)) d
  let d := (allRegs.filter (fun r => r.info.acc == .rwp && r != .dmaIslCfg)).foldl put d
  let d := (d0.changed e .portMm).foldl (fun d x => d.mmStart x) d
  let d := (d0.changed e .dmaIslCfg).foldl (fun (d : Dev) i =>
    let old := d0.reg .dmaIslCfg i
    let new := e.reg .dmaIslCfg i
    if (old.toNat &&& 0xFFF0007) = (new.toNat &&& 0xFFF0007) then d.setReg .dmaIslCfg i new
    else
      let t := tabIns i (new.setWidth 32) d.dma.modePend
      ({ d with dma := { d.dma with modePend := t } }).setRb .dmaIslStat i 16 true) d
  let d := if d0.reg .cntDumpCfg 0 = e.reg .cntDumpCfg 0 then d
    else { d with cnt := { d.cnt with dumpAt := d.ns + Nat.max 1 d.dumpStep } }
  (((d0.nameOwners { d with regs := d.regs }).overcommit).srcChanged (d0.reg .timeSrc 0)).kickAll 0 |>.kickAll 1

/-! ## Serial-memory writes (R388, R389) -/

/-- The sectors that a write touches, each with the address and length of its part. -/
def sectorsOf (a n : Nat) : List (Nat × Nat) :=
  if n = 0 then []
  else (List.range ((a + n - 1) / 4096 - a / 4096 + 1)).map (fun k =>
    let lo := Nat.max a ((a / 4096 + k) * 4096)
    (lo, Nat.min (a + n) ((a / 4096 + k + 1) * 4096) - lo))
/-- Whether a write needs an erase. -/
def Dev.needsErase (d : Dev) (a n : Nat) : Bool := (sectorsOf a n).any (fun s => !d.flashBlank s.1 s.2)
/-- Bytes are written: a sector whose part is not erased is erased first, with the bytes beside the part kept. The count of erases comes with it. -/
def Dev.flashWrite (d : Dev) (a : Nat) (bs : List Byte) : Dev × Nat :=
  (sectorsOf a bs.length).foldl (fun (x : Dev × Nat) s =>
    let part := (bs.drop (s.1 - a)).take s.2
    if x.1.flashBlank s.1 s.2 then (x.1.flashProgram s.1 part, x.2)
    else
      let lo := s.1 / 4096 * 4096
      let whole := patch (x.1.flashRead lo 4096) (s.1 - lo) part
      ((x.1.flashErase s.1).flashProgram lo whole, x.2 + 1)) (d, 0)

/-! ## The image of the running configuration (R464) -/

/-- The REG record of one copy of a register. -/
def regRecord (r : Reg) (i : Nat) (v : Word) : List Byte :=
  let isl := r.info.isl + i / r.info.perIsland
  let off := r.offsetOf (i % r.info.perIsland)
  let n := r.info.bytes / 4
  leBytes 2 1 ++ leBytes 2 0 ++ leBytes 4 24 ++ [BitVec.ofNat 8 isl, 0] ++ leBytes 2 n ++ leBytes 4 off ++ leBytes 8 v.toNat

/-- The configuration registers in the order in which an image stores them: those that others depend on come first (R467). -/
def imageRegs : List Reg :=
  let first := [Reg.portMode, .hostLinkCfg]
  first ++ allRegs.filter (fun r => r.info.acc == .rwp && !first.contains r)
/-- REG records of every configuration value that differs from its default. -/
def Dev.runRegs (d : Dev) : List (List Byte) :=
  imageRegs.flatMap (fun r => (d.regs.filter (fun (x : Nat × Word) => x.1 % 512 == r.code)).map (fun x => regRecord r (x.1 / 512) x.2))

/-- The image that CFG_COMMIT with persist writes. -/
def Dev.runImage (d : Dev) (staged : List (List Byte)) : List Byte :=
  let old := d.runRecords
  let mine := staged.filter (fun r => recType r == 6)
  let ids := (List.range 8).filterMap (fun h => ((mine.reverse ++ old.filter (fun r => recType r == 6))).find? (fun r => leAt r 8 1 == h))
  let rs := d.runRegs ++ ids ++ old.filter (fun r => decide (2 ≤ recType r) && decide (recType r ≤ 5))
  let gen := (match d.imgAt d.boot.image with | some p => genOf p | none => 0 : Nat)
  let body := rs.flatten
  let head := [0x50, 0x4C, 0x44, 0x52, 1, 0] ++ leBytes 2 64 ++ leBytes 4 (64 + body.length) ++ leBytes 4 rs.length ++ leBytes 8 (gen + 1) ++
    leBytes 8 (timeWord d.ns).toNat ++ leBytes 32 0
  let whole := head ++ body
  patch whole 32 (leBytes 8 (crc64 whole))

/-! ## The commands (R370, R371, R388) -/

/-- Bytes in the staging area. -/
def Dev.stagedLen (d : Dev) : Nat := d.fw.staged.foldl (fun a r => a + r.length) 0
/-- The staging area holds some records. -/
def Dev.setStaged (d : Dev) (rs : List (List Byte)) : Dev :=
  let d := { d with fw := { d.fw with staged := rs } }
  d.setReg .cfgStageStat 0 (BitVec.ofNat 64 d.stagedLen)

/-- CFG_STAGE: R370, R460. -/
def execCfgStage (h : CmdHdr) (s : State) : Out :=
  wenot 0x11 false (fun p h d =>
    match recsOf p with
    | none => .fail 0x04 d
    | some rs =>
      if !rs.all (fun r => [0, 1, 6].contains (recType r)) then .fail 0x04 d
      else
        let all := (if h.arg0 = 1 then [] else d.fw.staged) ++ rs
        if 1048576 < all.foldl (fun a r => a + r.length) 0 then .fail 0x03 d
        else
          let d := d.setStaged all
          .ok d d.stagedLen) h s

/-- CFG_COMMIT: R371, R464, R466 to R470. -/
def execCfgCommit (h : CmdHdr) (s : State) : Out :=
  wenot 0x12 true (fun _ h d =>
    let persist := nbit h.arg0.toNat 0
    let dry := nbit h.arg0.toNat 1
    let d := { d with fw := { d.fw with ents := [], entTotal := 0, reportSeq := d.fw.reportSeq + 1 } }
    let (e, clamps) := d.confRecords d.fw.staged
    let d := { d with fw := e.fw }
    let d := { d with fw := { d.fw with report := d.reportBytes (if dry then 2 else 1) 0 0 0 } }
    let st : Byte := if clamps = 0 then 0 else 0x01
    let r0 := BitVec.ofNat 64 clamps
    if dry then .answer { status := st, r0 := r0 } d
    else
      let d := (d.reportStat false).logReport
      let e := { e with board := d.board, life := d.life, cnt := d.cnt, fw := d.fw }
      if !persist && d.fw.staged.any (fun r => recType r == 6) then .fail 0x04 d
      else match d.commitBad e with
        | some c => .fail c d
        | none =>
          if persist && d.warned then .fail 0x02 d
          else
            let img := (d.commitRegs e).runImage d.fw.staged
            if persist && !(d.smemOk && decide (img.length ≤ imgMax)) then .fail 0x03 d
            else
              let d := d.commitRegs e
              let d := if persist then (d.flashWrite (imgBase d.imgFree) img).1 else d
              .answer { status := st, r0 := r0 } (d.setStaged [])) h s

/-- CFG_REPORT: R371, R469, R470. -/
def execCfgReport (h : CmdHdr) (s : State) : Out :=
  wenot 0x10 true (fun _ h d =>
    let give := fun (r : List Byte) => FwRes.answer { r0 := BitVec.ofNat 64 (leAt r 32 2), out := r } d
    if h.arg0 = 0 then give d.fw.report
    else match d.newestReport with
      | some x => give x.2
      | none => .fail 0x06 d) h s

/-- SMEM_UPDATE: R388, R389. -/
def execSmemUpdate (h : CmdHdr) (s : State) : Out :=
  wenot 0xC0 false (fun p _ d =>
    let target := leAt p 0 1
    let off := leAt p 4 4
    let n := leAt p 8 4
    let bs := p.drop 16
    let a := if target = 1 then imgBase d.imgFree else 0xF00000 + off
    if p.length < 16 ∨ (target ≠ 1 ∧ target ≠ 2) ∨ leAt p 1 3 ≠ 0 ∨ leAt p 12 4 ≠ 0 ∨ bs.length ≠ n then .fail 0x04 d
    else if !d.smemOk || (target = 2 && decide (d.board.smemSize < a + n)) then .fail 0x04 d
    else if target = 1 && (off ≠ 0 || decide (imgMax < n) || !imgHeadOk bs || leAt bs 8 4 ≠ n) then .fail 0x04 d
    else if d.warned && d.needsErase a n then .fail 0x02 d
    else
      let (d, er) := d.flashWrite a bs
      .ok d n er) h s

end Sys2Proof.Machine
end

