-- ==== Sys2Proof/Machine/Wenot.lean ====
section
/-! DEFINITION. Machine/Wenot.lean: the Wenot commands on identity, status, time, gates and lifetime records, and firmware's samples of its management view (R369, R382 to R386, R390 to R392 of 10_wenot_command_set.md, R447 of 12_counters_snapshots_lifetime.md). -/
namespace Sys2Proof.Machine
open Sys2Proof

/-! ## Identity and status (R369) -/

/-- The record of DEV_IDENTIFY. -/
def Dev.identity (d : Dev) : List Byte :=
  [0x4D, 0x38, 0x36, 0x34, 0x2D, 0x48, 0x58] ++ leBytes 9 0 ++ [0xB1, 1] ++ leBytes 2 Config.vendorId.toNat ++ leBytes 8 Config.deviceSerial.toNat ++
    leBytes 4 Config.romId.toNat ++ leBytes 8 d.board.ddr ++
    [BitVec.ofNat 8 (b2n d.board.root.isSome + 2 * b2n d.board.signReq.isSome + 4 * b2n (d.rb .fltCfg 0 4))] ++ leBytes 23 0

/-- DEV_IDENTIFY: R369. -/
def execDevIdentify (h : CmdHdr) (s : State) : Out :=
  wenot 0x01 true (fun _ _ d => .answer { out := d.identity } d) h s

/-- The leap table is absent or expired (R369, R384). -/
def Dev.leapGone (d : Dev) : Bool := d.life.leap.isEmpty || d.rb .timeStatus 0 3

/-- The management-view log as 96 bytes (R392). -/
def Dev.viewBytes (d : Dev) : List Byte :=
  let one := fun (e : Nat × Nat × Nat × Nat × Nat) =>
    let (item, obj, view, data, sec) := e
    [BitVec.ofNat 8 item] ++ leBytes 2 obj ++ [BitVec.ofNat 8 view, BitVec.ofNat 8 data, BitVec.ofNat 8 (Nat.min 255 (d.sec - sec))]
  let bs := d.fw.viewLog.flatMap one
  bs ++ leBytes (96 - bs.length) 0

/-- The record of DEV_STATUS. -/
def Dev.statusRecord (d : Dev) : List Byte :=
  let st := (if d.warned then 2 else if d.rb .cfgBootStat 0 4 then 0 else 1 : Nat)
  let sum := b2n (d.rb .cfgRptStat 0 10) + 2 * b2n d.leapGone + 4 * b2n (d.viewOpen || d.fw.viewUnread)
  let (op, seq, took) := d.fw.abandoned.getD (0, 0, false)
  [BitVec.ofNat 8 st, BitVec.ofNat 8 sum] ++ (List.range 8).map (fun p => BitVec.ofNat 8 (d.partState p)) ++ [BitVec.ofNat 8 d.quality] ++
    [BitVec.ofNat 8 (d.flt.pend.foldl (fun a f => Nat.max a f.sev) 0)] ++ leBytes 2 (Nat.min 65535 d.fw.orphans) ++ leBytes 2 op ++
    leBytes 4 seq.toNat ++ [BitVec.ofNat 8 (b2n took)] ++ leBytes 11 0 ++ d.viewBytes

/-- DEV_STATUS: the record, whose read clears the summary of the view log (R369, R392). -/
def execDevStatus (h : CmdHdr) (s : State) : Out :=
  wenot 0x02 true (fun _ _ d => .answer { out := d.statusRecord } { d with fw := { d.fw with viewUnread := false } }) h s

/-! ## Time (R382 to R384) -/

/-- TIME_SET: R28, R41, R46, R382. -/
def execTimeSet (h : CmdHdr) (s : State) : Out :=
  wenot 0x60 true (fun _ h d =>
    let a := h.arg0.toNat
    let b := h.arg1.toNat
    let rel := nbit b 33
    let ns := fld b 0 30
    let bad := fld b 30 2 != 0 || fld b 34 30 != 0 || (if rel then ns != 0 else fld a 48 16 != 0 || decide (nsPerSec ≤ ns))
    let step : Int := if rel then h.arg0.toInt else ((a * nsPerSec + ns : Nat) : Int) - d.ns
    let word := BitVec.ofInt 64 step
    if bad || !d.stepFits step then .fail 0x04 d
    else if !d.stepAllowed step (nbit b 32) then .answer { status := 0x05, r1 := word } d
    else
      let free := d.quality = 0
      let d := (d.applyStep step).setRb .timeStatus 0 0 true
      let d := d.withTime { d.time with secsKnown := true }
      let d := (if free then d.toHoldover 0 else d).behindHwm.leapCheck
      .answer { r0 := word } d) h s

/-- The registers whose running values TIME_STATUS writes, in the order of its mask. -/
def timeRunning : List Reg := [.timeHoldLimit, .timeHoldRate, .timeHoldRateF, .timeLockThresh, .timeStepLimit, .timePpsOut, .timeClkSpread]

/-- The record of TIME_STATUS. -/
def Dev.timeRecord (d : Dev) : List Byte :=
  let w := fun r => leBytes 4 (d.reg r 0).toNat
  leBytes 8 (timeWord d.ns).toNat ++ leBytes 2 (d.sec / 2 ^ 32) ++ leBytes 2 0 ++ w .timeQual ++ w .timeStatus ++ w .timeSrc ++
    leBytes 8 (BitVec.ofInt 64 d.time.lastOff).toNat ++ leBytes 8 d.time.pathDelay ++ leBytes 8 d.time.clock.toNat ++ w .timeHoldSecs ++
    w .timeUtcOffset ++ w .timeSkewStat ++ leBytes 4 (d.life.leap.length + b2n (d.rb .timeStatus 0 3) * 2 ^ 31)

/-- TIME_STATUS: running values that the mask selects are stored under their registers' checks, and the record is written (R383). -/
def execTimeStatus (h : CmdHdr) (s : State) : Out :=
  wenot 0x61 false (fun p h d =>
    let mask := h.arg0.toNat
    let ks := (List.range 7).filter (nbit mask)
    let need := (match ks.getLast? with | some k => 4 * k + 4 | none => 0 : Nat)
    if p.length < need then .fail 0x04 d
    else
      let (d, n) := ks.foldl (fun (x : Dev × Nat) k =>
        let (e, fs) := x.1.confWord 0 (timeRunning.getD k .timeHoldLimit).info.base (leAt p (4 * k) 4)
        (e, x.2 + fs.length)) (d, 0)
      .answer { status := if n = 0 then 0 else 0x01, out := d.timeRecord } d) h s

/-- The entries of a LEAP_TABLE payload. -/
def leapEntries (p : List Byte) : List (Nat × Int) :=
  (List.range (leAt p 0 2)).map (fun k => (leAt p (16 + 16 * k) 8, (BitVec.ofNat 16 (leAt p (24 + 16 * k) 2)).toInt))
/-- A LEAP_TABLE payload that R384 calls malformed. -/
def leapBad (p : List Byte) : Bool :=
  let n := leAt p 0 2
  let es := leapEntries p
  p.length != 16 + 16 * n || decide (64 < n) || leAt p 2 6 != 0 || (List.range n).any (fun k => leAt p (26 + 16 * k) 6 != 0) ||
  (es.zip (es.drop 1)).any (fun x => decide (x.2.1 ≤ x.1.1))

/-- LEAP_TABLE: R44, R384. -/
def execLeapTable (h : CmdHdr) (s : State) : Out :=
  wenot 0x62 false (fun p _ d =>
    if leapBad p then .fail 0x04 d
    else
      let d := { d with life := { d.life with leap := leapEntries p, leapExpiry := leAt p 8 8 } }
      let d := d.setRb .timeStatus 0 3 (!d.life.leap.isEmpty && decide (d.life.leapExpiry < d.sec))
      .ok d.leapCheck (leAt p 0 2)) h s

/-! ## Gates (R385) -/

/-- GATE_INSTALL: R192 to R194, R385. -/
def execGateInstall (h : CmdHdr) (s : State) : Out :=
  wenot 0x70 false (fun p _ d =>
    let x := leAt p 0 1
    let n := leAt p 2 2
    let es := (List.range n).map (fun k => leAt p (32 + 8 * k) 8)
    let cycle := leAt p 4 4
    let ext := leAt p 8 4
    if p.length ≠ 32 + 8 * n ∨ 32 ≤ x ∨ 2 ≤ leAt p 1 1 ∨ leAt p 12 4 ≠ 0 ∨ 2 ^ 48 ≤ leAt p 16 8 ∨ nsPerSec ≤ leAt p 24 4 ∨ leAt p 28 4 ≠ 0 then .fail 0x04 d
    else if d.gateBad x es cycle ext then .fail 0x04 d
    else
      let (d, word, k) := d.gateInstall x es cycle ext (nbit (leAt p 1 1) 0) (leAt p 16 8 * nsPerSec + leAt p 24 4)
      .ok d word k) h s

/-! ## Lifetime records (R386, R444, R447) -/

/-- The valid log entry a number of entries before the newest one. -/
def Dev.logAged (d : Dev) (n : Nat) : Option (List Byte) :=
  let pos := d.rf .lifePos 0 0 13
  if d.smemOk && decide (n < 8192) then d.logRecord ((pos + 8191 - n) % 8192) else none

/-- LIFE_READ: R386, R447. -/
def execLifeRead (h : CmdHdr) (s : State) : Out :=
  wenot 0xB0 true (fun _ h d =>
    let a := h.arg1.toNat
    let give := fun (r : Option (List Byte)) => (match r with | some r => FwRes.answer { out := r } d | none => .fail 0x06 d : FwRes)
    match h.arg0.toNat with
    | 0 => if a ≠ 0 then .fail 0x04 d else give (some (d.lifeRecord 0 (d.reg .lifeSeq 0).toNat))
    | 1 => if a ≠ 0 then .fail 0x04 d else give (newestRecord d.kept)
    | 2 => give (d.logAged a)
    | _ => .fail 0x04 d) h s

/-! ## The management view (R390 to R392) -/

/-- The data path's value of a thread item: the state of R50. -/
def thrCode : ThrState → Nat
  | .idle => 0
  | .running => 1
  | .waiting => 2
  | .halted => 3
  | .faulted => 4

/-- VIEW_SAMPLE: firmware compares an item with the data path. Its view of a thread falls behind when a fault notice of the thread is lost; every other item's view follows the commands and notices that change it. -/
def execViewSample (item : Fin 8) (obj : BitVec 16) (s : State) : Out :=
  event (fun d =>
    let k := 65536 * (item.val + 1) + obj.toNat
    let put := fun (d : Dev) (v s : Tab Nat) => { d with fw := { d.fw with view := v, viewSince := s } }
    let data := thrCode (d.thread obj.toNat).st
    match tabFind k d.fw.view with
    | none => d
    | some v =>
      if !d.fwServes || d.fw.running.isSome then d
      else if data ≠ 4 then put d (tabDel k d.fw.view) (tabDel k d.fw.viewSince)
      else match tabFind k d.fw.viewSince with
        | none => put d d.fw.view (tabIns k d.time.tick d.fw.viewSince)
        | some t =>
          if d.time.tick ≤ t + 250000 then d
          else
            let d := (put d (tabDel k d.fw.view) (tabDel k d.fw.viewSince)).raiseFree 1282 0 none
            let log := (d.fw.viewLog ++ [(item.val + 1, obj.toNat, v, data, d.sec)])
            { d with fw := { d.fw with viewLog := log.drop (log.length - 16), viewUnread := true } }) s

end Sys2Proof.Machine
end

