-- ==== Sys2Proof/Machine/Boot.lean ====
section
/-! DEFINITION. Machine/Boot.lean: power, resets of the device, start-up, the boot image, supply warning (R12, R46 of 01_islands_and_time.md, R442, R447 of 12_counters_snapshots_lifetime.md, R449 to R479 of 13_startup_and_configuration.md, R483 of 14_electrical_and_package.md). -/
namespace Sys2Proof.Machine
open Sys2Proof

/-! ## What a loss of power and a device reset leave (R449, R471, R478) -/

/-- The device with everything outside the always-on domain cleared: pins, the board, the serial memory with its key log, and what the device has emitted stay. -/
def Dev.dark (d : Dev) : Dev :=
  { regs := d.regs.filter (fun (e : Nat × Word) => e.1 % 512 == Reg.ioStrap.code)
    keys := { log := d.keys.log, logBad := d.keys.logBad }
    life := { d.life with erases_ := [], eraseOn := false, skipped := false }
    board := d.board
    boot := { rstN := d.boot.rstN }
    host := { perst := d.host.perst }
    dpx := { cwIn := d.dpx.cwIn }
    time := { tick := d.time.tick }
    outs := d.outs
    free := d.free }

/-- Every causeway unit is released. -/
def Dev.dropAllUnits (d : Dev) : Dev := (List.range 8).foldl (fun d p => d.dropUnits p) d

/-- VIN is gone: everything outside the always-on domain stops, and its time counter goes on from here (R46, R478). -/
def Dev.brownOut (d : Dev) : Dev :=
  let d := d.dropAllUnits
  let d := if d.time.ppsHigh.isSome then d.emit (.ppsOut false) else d
  let l := { d.life with
    vin := false, auxTime := d.time.now, auxTick := d.time.tick, auxRan := d.life.vaux && d.time.refOk && !d.time.refLost
    auxErr := d.rf .timeQual 0 5 27, auxRate := d.rf .timeHoldRate 0 0 32, auxCal := d.rb .timeStatus 0 0, wasSafe := d.safe && d.life.vaux }
  { d with life := l }.dark

/-- BROWN_OUT: VIN falls below 2.45 V (R478). -/
def execBrownOut (s : State) : Out := eventAny (fun d => if d.life.vin then d.brownOut else d) s

/-- Registers that a device reset keeps: device time and quality, snapshots, the history, the lifetime and supply registers (R47, R426, R448, R471, R479). -/
def drKeeps : List Reg := [.timeNow0, .timeNow1, .timeNow2, .timeAddend, .timeStep0, .timeStep1, .timeCtl, .timeStatus, .timeQual, .timePpsInStat,
  .timeHwm0, .timeHwm1, .timeUtcOffset, .timeSkewStat, .timeHoldSecs, .fltSafeCause, .fltSafeTime, .fltHist, .snapCfg, .snapArmTime, .snapStat,
  .snapLatch, .snapLatchHi, .snapPin, .lifeStat, .lifeSeq, .lifePos, .lifeLast, .cfgSupply, .ioStrap]

/-- The device after a device reset, before it starts up: as after a power-on, but for what a device reset keeps. -/
def Dev.devCleared (d : Dev) : Dev :=
  let codes := drKeeps.map Reg.code
  let e := d.dark
  let t := { d.time with refOk := false, refLost := false, attempts := [], down := [], delay := [] }
  let e := { e with
    regs := d.regs.filter (fun (x : Nat × Word) => codes.contains (x.1 % 512))
    time := t
    flt := { seq := d.flt.seq }
    cnt := { snap := d.cnt.snap, snapFrom := d.cnt.snapFrom, pinAt := d.cnt.pinAt }
    boot := { e.boot with warnAt := d.boot.warnAt } }
  (e.setRf .fltStat 0 3 5 (d.rf .fltStat 0 3 5)).setRf .fltStat 0 16 16 (d.rf .fltStat 0 16 16)

/-! ## The boot image (R457, R461 to R463) -/

/-- A valid boot block. -/
def blockOk (b : List Byte) : Bool :=
  b.take 4 == [0x4D, 0x59, 0x42, 0x42] && leAt b 4 1 == 1 && decide (leAt b 5 1 ≤ 2) && decide (1 ≤ leAt b 6 1) && decide (leAt b 6 1 ≤ 15) &&
  decide (25 ≤ leAt b 7 1) && decide (leAt b 7 1 ≤ 133) && (slice b 8 48).all (· == 0) && crc64 (patch b 56 (leBytes 8 0)) == leAt b 56 8

/-- An image's header is valid. -/
def Dev.headOk (d : Dev) (k : Nat) : Bool := d.smemOk && imgHeadOk (d.imgHead k)
/-- An image's trial count. -/
def Dev.trial (d : Dev) (k : Nat) : Nat := tabGet d.life.trials 0 (k - 1)

/-- Images are read in order until one is structurally valid: the device, with the trial counts of those it began to read, and the one taken. -/
def Dev.readImages (d : Dev) : List Nat → Dev × Nat
  | [] => (d, 0)
  | k :: ks =>
    let d := { d with life := { d.life with trials := tabPut d.life.trials 0 (k - 1) (d.trial k + 1) } }
    if ((d.imgAt k).bind d.imgRecords).isSome then (d, k) else d.readImages ks

/-- CFG_TRIAL follows the trial counts. -/
def Dev.showTrials (d : Dev) : Dev := (d.setRf .cfgTrial 0 0 4 (d.trial 1)).setRf .cfgTrial 0 4 4 (d.trial 2)

/-- Start-up begins: the boot block is read, the image chosen, and the logs' positions found (R452, R457, R461, R462). -/
def Dev.bootBegin (d : Dev) : Dev :=
  let b := d.flashRead 0 64
  let good := d.smemOk && blockOk b
  let select := if good then leAt b 5 1 else 0
  let limit := if good then leAt b 6 1 else 3
  let all := (if select = 0 then [1, 2] else [select] : List Nat)
  let valid := all.filter d.headOk
  let order := if valid.length = 2 && decide (genOf (d.imgHead 1) < genOf (d.imgHead 2)) then [2, 1] else valid
  let tooOld := fun (k : Nat) => all.contains k && (!d.headOk k || decide (limit ≤ d.trial k))
  let passed := 256 * b2n (tooOld 1) + 512 * b2n (tooOld 2)
  let (d, k) := d.readImages (order.filter (fun k => !tooOld k))
  let first := order.head?.getD 0
  let boot := { d.boot with began := d.time.tick, image := k, fallback := k != 0 && k != first, blockBad := !good }
  let d := { d with boot := boot }
  let d := (d.setReg .cfgTrial 0 (BitVec.ofNat 64 passed)).showTrials
  let d := d.setReg .cfgBootStat 0 (BitVec.ofNat 64 (k + 4 * b2n boot.fallback + 8 * b2n boot.blockBad + 16))
  let d := d.setReg .cfgBootGen 0 (BitVec.ofNat 64 (if k = 0 then 0 else genOf (d.imgHead k)))
  match d.newestReport with
  | some (slot, r) => { d with fw := { d.fw with reportPos := (slot + 1) % 128, reportSeq := leAt r 24 8 } }
  | none => d

/-! ## Power-on (R46, R449, R452) -/

/-- The greatest TIME_HWM of retention memory and the log. -/
def Dev.hwmSaved (d : Dev) : Nat := (d.kept ++ d.logged).foldl (fun a r => Nat.max a (leAt r 44 6)) 0

/-- Device time is loaded after a power-on (R46). -/
def Dev.loadTime (d : Dev) : Dev :=
  let l := d.life
  let gap := (d.time.tick - l.auxTick) * 4
  let ran := !l.lost && l.vaux && l.auxRan
  let hwm := d.hwmSaved
  let d :=
    if ran then
      let d := d.withTime { d.time with now := (l.auxTime / 65536 + gap) / 1000 * 1000 * 65536, hasEst := true, secsKnown := l.auxCal }
      ((d.setQuality 3).setErr (l.auxErr + gap / nsPerSec * l.auxRate)).setRb .timeStatus 0 0 l.auxCal
    else (d.withTime { d.time with now := hwm * nsPerSec * 65536 }).setRb .timeStatus 0 1 true
  let d := d.setRf .timeHoldSecs 0 0 32 d.life.holdSecs
  (d.setHwm hwm).behindHwm

/-- POWER_ON_RESET: VIN has risen and is qualified; a VIN still up has fallen before (R449, R452). -/
def execPowerOnReset (s : State) : Out :=
  eventAny (fun d =>
    let d := if d.life.vin then d.brownOut else d
    let kept := !d.life.lost && d.life.vaux
    let was := d.life.wasSafe
    let d := ({ d with life := { d.life with vin := true, wasSafe := false } }.lifeReset 0).loadTime.lifeRegs
    let d := d.resetReg .lifeStat 0
    let d := d.setReg .cfgRstCause 0 (BitVec.ofNat 64 (b2n kept + 8 * b2n kept + 16 * b2n was))
    let d := { d with boot := { d.boot with poAt := some d.time.tick } }
    if d.boot.rstN then d else d.bootBegin) s

/-! ## Device reset (R409, R449) -/

/-- DEVICE_RESET: DEV_RST_N, or PERST of the primary management port in the safe state. The pin holds the device until it is released. -/
def execDeviceReset (perst : Bool) (s : State) : Out :=
  eventAny (fun d =>
    let go := if perst then d.powered && d.safe && d.rb .fltCfg 0 0 && d.host.perst.getLsbD d.mgmtPort else !d.boot.rstN
    if !go then d
    else if !d.life.vin then { d with boot := { d.boot with rstN := true } }
    else
      let safe := d.safe
      let d := (d.dropAllUnits.lifeReset 2).devCleared
      let d := d.setReg .cfgRstCause 0 (BitVec.ofNat 64 ((if perst then 3 else 2) + 8 * b2n (!d.life.lost) + 16 * b2n safe))
      if perst then d.bootBegin else { d with boot := { d.boot with rstN := true } }) s

/-- DEV_RST_N_RELEASE: start-up proceeds (R452). -/
def execDevRstNRelease (s : State) : Out :=
  eventAny (fun d =>
    if !d.boot.rstN then d
    else
      let d := { d with boot := { d.boot with rstN := false } }
      if d.life.vin then d.bootBegin else d) s

/-- PERST_RELEASE: a host port's PERST input is deasserted; the port trains once the image is applied (R451). -/
def execPerstRelease (h : Fin 8) (s : State) : Out :=
  eventAny (fun d =>
    if !d.host.perst.getLsbD h.val then d
    else
      let d := { d with host := { d.host with perst := d.host.perst &&& ~~~ (1#8 <<< h.val) } }
      if d.powered && d.boot.imaged && d.hostPortExists h.val then d.hostTrain h.val else d) s

/-! ## The always-on domain (R12, R447, R449, R483) -/

/-- VAUX is gone: the always-on domain loses what it holds. -/
def Dev.vauxGone (d : Dev) : Dev :=
  { d with life := {
      vin := d.life.vin, vaux := false, resets := [], erases_ := d.life.erases_, eraseOn := d.life.eraseOn, skipped := d.life.skipped
      ckptAt := d.life.ckptAt, ageAt := d.life.ageAt } }

/-- VAUX_LOST: R483. -/
def execVauxLost (s : State) : Out := eventAny (fun d => if d.life.vaux then d.vauxGone else d) s

/-- The lifetime counters are restored after a loss of VAUX (R447). -/
def Dev.auxRestore (d : Dev) : Dev :=
  if !d.life.lost then d
  else
    let hwm := d.hwmNow
    let d := { d with life := { d.life with lost := false } }.lifeRestore
    { d with life := { d.life with hwm := Nat.max d.life.hwm hwm } }.lifeRegs

/-- AUX_RESET: VAUX has risen; with VIN present the counters are restored at once, else once firmware serves (R447, R449). -/
def execAuxReset (s : State) : Out :=
  eventAny (fun d =>
    let d := if d.life.vaux then d.vauxGone else d
    let d := { d with life := { d.life with vaux := true } }.lifeReset 1
    let d := d.setReg .ioStrap 0 (BitVec.ofNat 64 (d.board.smbAddr.toNat + (0x68 + d.board.smbAddr.toNat) * 4))
    if d.powered then d.auxRestore else d) s

/-! ## The image takes effect (R452, R463, R465 to R468) -/

/-- The boot report is made from the entries that have arisen (R468). -/
def Dev.bootReport (d : Dev) (log : Bool) : Dev :=
  let (es, n, seq) := (d.fw.ents, d.fw.entTotal, d.fw.reportSeq)
  let d := { d with fw := { d.fw with ents := d.boot.ents, entTotal := d.boot.entTotal, reportSeq := d.boot.rptSeq } }
  let flags := 2 * b2n d.boot.fallback + 4 * b2n (d.boot.image = 0) + 8 * b2n d.boot.blockBad
  let d := { d with fw := { d.fw with report := d.reportBytes 0 flags d.boot.image (d.reg .cfgBootGen 0).toNat } }
  let d := d.reportStat (d.boot.image = 0)
  let d := if log then d.logReport else d
  { d with fw := { d.fw with ents := es, entTotal := n, reportSeq := seq } }

/-- The identities of PCI_ID records are stored, one word per host port (R459, R465). -/
def Dev.takeIds (d : Dev) (rs : List (List Byte)) : Dev :=
  (rs.filter (fun r => recType r == 6)).foldl (fun d r =>
    { d with fw := { d.fw with pciIds := tabPut d.fw.pciIds 0 (leAt r 8 1) (BitVec.ofNat 64 (leAt r 16 8)) } }) d

/-- The checked values take effect: host ports and Ethernet ports may train, time sources are selected. -/
def Dev.imageApply (d : Dev) : Dev :=
  let d0 := d
  let rs := d.runRecords
  let block := if d.boot.blockBad then [wholeEntry 0xFFFF 0 6 0x04] else []
  let d := { d with fw := { d.fw with ents := block, entTotal := block.length, reportSeq := d.fw.reportSeq + 1 } }
  let d := ((d0.nameOwners (d.confRecords rs).1).takeIds rs).overcommit
  let boot := { d.boot with imaged := true, ents := d.fw.ents, entTotal := d.fw.entTotal, rptSeq := d.fw.reportSeq }
  let links := tabPut (tabPut [] 0 0 (d.rf .hostLinkCfg 0 0 2)) 0 1 (d.rf .hostLinkCfg 1 0 2)
  let objs := (rs.zip (List.range rs.length)).filterMap (fun r => if 2 ≤ recType r.1 ∧ recType r.1 ≤ 5 then some (r.2, r.1) else none)
  let host := { d.host with bifNow := links, training := 255 }
  let time := { d.time with spread := (d.reg .timeClkSpread 0).setWidth 32 }
  let d := { d with boot := boot, host := host, time := time, fw := { d.fw with imgObjs := objs } }
  let d := (List.range 8).foldl (fun d h =>
    let d := d.applyBar2 h
    if d.hostPortExists h && !d.host.perst.getLsbD h then d.hostTrain h else d) d
  let d := if d.rb .cntDumpCfg 0 31 then { d with cnt := { d.cnt with dumpAt := d.ns + Nat.max 1 d.dumpStep } } else d
  (d.bootReport false).reselect

/-- IMAGE_APPLY: R452. -/
def execImageApply (s : State) : Out := event (fun d => if d.boot.imaged then d else d.imageApply) s

/-! ## Image objects (R465) -/

/-- The header of the command that an image record is carried out as. -/
def objHdr (p : List Byte) : CmdHdr :=
  { version := 1, rsv := false, seq := 0, payloadAddr := 8, payloadLen := BitVec.ofNat 32 p.length, resp := 0, out := 0, outLen := 0, arg0 := 0, arg1 := 0,
    payload := p, readOk := true, backOk := true }

/-- A command is carried out for an image record, beside whatever command firmware has in progress: the device after it, and its status. -/
def Dev.asGuest (d : Dev) (f : State → Out) : Dev × Byte :=
  let fw := d.fw
  let e := { d with fw := { fw with taken := some (0, 64), running := none, mute := false, owned := none, guest := 2, forward := none, imgStatus := none } }
  match f { dev := e, bundle := none, pending := [] } with
  | .next t =>
    let g := t.dev.fw
    ({ t.dev with fw := { g with
        taken := fw.taken, running := fw.running, mute := fw.mute, owned := fw.owned, guest := fw.guest, forward := fw.forward, imgStatus := none } },
     g.imgStatus.getD 0)
  | _ => (d, 0x09)

/-- An image record of types 2 to 5 is carried out. PROG_START keeps the partition's values. -/
def Dev.runObj (d : Dev) (r : List Byte) : Dev × Byte :=
  let body := r.drop 16
  match recType r with
  | 2 => d.asGuest (execPartCreate (objHdr body))
  | 3 => d.asGuest (execSliceCreate (objHdr body))
  | 4 =>
    let n := leAt body 8 4
    let img := if zeroFrom body n then body.take n else body
    let (d, st) := d.asGuest (execProgLoad (objHdr img))
    if st = 0 && nbit (leAt r 8 1) 0 then d.asGuest (execProgStart (objHdr (slice body 5 1 ++ [4] ++ leBytes 14 0))) else (d, st)
  | _ => d.asGuest (execGateInstall (objHdr body))

/-- A PART record waits for DDR that is not zeroed yet (R453). -/
def Dev.objWaits (d : Dev) (r : List Byte) : Bool :=
  recType r == 2 && (match d.grantCheck (r.drop 16) with | .ok (_, g) => d.ddrWaits g | .error _ => false)

/-- The image's records are carried out in order, up to one that waits; a failure is an entry of the boot report. -/
def Dev.runObjs : List (Nat × List Byte) → Dev → Dev
  | [], d => { d with fw := { d.fw with imgObjs := [] } }
  | (k, r) :: rest, d =>
    if d.objWaits r then { d with fw := { d.fw with imgObjs := (k, r) :: rest } }
    else
      let (d, st) := d.runObj r
      let bad := decide (1 < st.toNat)
      let es := if bad then [wholeEntry k (recType r) 6 st] else []
      Dev.runObjs rest { d with boot := { d.boot with ents := (d.boot.ents ++ es).take 256, entTotal := d.boot.entTotal + es.length } }

/-- The image's records go on; the boot report is logged when the last one has been dealt with. -/
def Dev.goObjs (d : Dev) : Dev :=
  let d := Dev.runObjs d.fw.imgObjs d
  let d := if d.fw.imgObjs.isEmpty then d.bootReport true else d
  d.setRb .cfgBootStat 0 4 (!(d.boot.ddrZeroed && d.fw.imgObjs.isEmpty))

/-! ## Firmware serves (R209, R447, R452, R462) -/

/-- Every persistent slot is reloaded from the key log, its counter at its durable ceiling; a record that fails its check is not (R209, R223). -/
def Dev.reloadKeys (d : Dev) : Dev :=
  if !d.smemOk then d
  else d.keys.log.foldl (fun d (e : Nat × KeySlot) =>
    if d.keys.logBad.contains e.1 then d.raiseDev 899 0 e.1
    else
      let d := d.setSlot e.1 { e.2 with state := 1, near := false }
      if modeCounts e.2.mode then d.setInv e.1 e.2.ceiling else d) d.keyCounts

/-- Sectors and slots ahead of the logs' positions are erased where they are not (R446, R470). -/
def Dev.eraseAhead (d : Dev) : Dev :=
  if !d.smemOk then d
  else
    let a := logAhead (d.rf .lifePos 0 0 13)
    let d := if d.flashBlank a 4096 || d.life.erases_.contains a then d else d.eraseDue a
    (d.eraseSlot (d.fw.reportPos + 1)).lifeReady

/-- FIRMWARE_READY: firmware begins to serve commands, and carries out the image's records. -/
def execFirmwareReady (s : State) : Out :=
  event (fun d =>
    if !d.boot.imaged || d.fw.serving then d
    else
      let d := (d.reloadKeys.auxRestore).eraseAhead
      let d := { d with fw := { d.fw with serving := true }, boot := { d.boot with servedAt := some d.time.tick } }.setPhase
      let d := d.setRf .cfgBootStat 0 16 16 (Nat.min 65535 ((d.time.tick - d.boot.began) / 250000))
      d.goObjs.showFaces) s

/-- DDR_ZERO_DONE: what waited for DDR goes on: the image's records, then a PART_CREATE (R453). -/
def execDdrZeroDone (s : State) : Out :=
  let d := s.dev
  if !d.live || !d.fw.serving || d.boot.ddrZeroed then .next { s with bundle := none }
  else
    let d := { d with boot := { d.boot with ddrZeroed := true } }
    let d := if d.fw.imgObjs.isEmpty then d.setRb .cfgBootStat 0 4 false else d.goObjs
    match d.fw.running with
    | some (0x20, h) => execPartCreate h { s with dev := { d with fw := { d.fw with running := none, taken := some (0, 64) } } }
    | _ => .next { s with bundle := none, dev := d }

/-- TRIAL_CLEAR: firmware has served for 60 s of the reference clock (R462). -/
def execTrialClear (s : State) : Out :=
  event (fun d =>
    match d.boot.servedAt with
    | some t =>
      if d.time.tick < t + 15000000000 ∨ d.boot.image = 0 then d
      else { d with life := { d.life with trials := tabPut d.life.trials 0 (d.boot.image - 1) 0 } }.showTrials
    | none => d) s

/-! ## Supply warning (R474 to R477) -/

/-- SUPPLY_WARN: R474. In the tick of the power-on reset VIN has not risen above 2.70 V yet: the device leaves reset in supply warning, and no dip is counted and no checkpoint made (R482). -/
def execSupplyWarn (s : State) : Out :=
  eventAny (fun d =>
    if !d.life.vin || d.boot.warnAt.isSome then d
    else
      let d := if d.powered then d.raiseFree 128 0 none else d
      let d := { d with boot := { d.boot with warnAt := some d.time.tick } }
      let d := d.setReg .cfgSupply 0 1
      if d.boot.poAt = some d.time.tick then d
      else { d with life := { d.life with dips := Nat.min (2 ^ 32 - 1) (d.life.dips + 1) } }.checkpoint 2) s

/-- SUPPLY_SAG: a warning has lasted 50 ms (R476). -/
def execSupplySag (s : State) : Out :=
  eventAny (fun d =>
    match d.boot.warnAt with
    | some t =>
      if d.time.tick < t + 12500000 ∨ d.rb .cfgSupply 0 2 then d
      else
        let d := if d.powered then d.raiseFree 129 0 none else d
        { d.setRb .cfgSupply 0 2 true with life := { d.life with sags := Nat.min (2 ^ 32 - 1) (d.life.sags + 1) } }
    | none => d) s

/-- SUPPLY_WARN_END: VIN has stayed above 2.70 V for 100 µs (R477). -/
def execSupplyWarnEnd (s : State) : Out :=
  eventAny (fun d =>
    match d.boot.warnAt with
    | some t =>
      let us := Nat.min (2 ^ 24 - 1) ((d.time.tick - t) / 250)
      let d := { d with boot := { d.boot with warnAt := none } }
      let d := (d.setRf .cfgSupply 0 0 2 0).setRf .cfgSupply 0 8 24 us
      { d with life := { d.life with eraseOn := d.life.eraseOn || !d.life.erases_.isEmpty } }
    | none => d) s

end Sys2Proof.Machine
end

