-- ==== Sys2Proof/Machine/Duplex.lean ====
section
/-! DEFINITION. Machine/Duplex.lean: duplex operation: pairing, comparison, checkpoints, rejoining, switch-over, and the causeway (R410 to R424 of 11_faults_and_duplex.md, R387 of 10_wenot_command_set.md). -/
namespace Sys2Proof.Machine
open Sys2Proof

/-! ## Pairing (R387, R410, R422, R424) -/

/-- The island of this device that a pair's other side is: the other island of the pair, or the same island of the partner. -/
def Dev.dpxOther (d : Dev) (p isl : Nat) : Nat := if d.dpxExternal p then isl + 8 else peerIsl isl

/-- The cores of a grant on an island. -/
def Grant.coresOn (g : Grant) (isl : Nat) : Nat := fld g.cores.toNat (16 * (isl - 2)) 16
/-- What a grant holds of an island's own resources, as kind, first number and count. -/
def Grant.ownOn (g : Grant) (isl : Nat) : List (Nat × Nat × Nat) :=
  (g.ranges.filter (fun r => r.where_ == isl && (r.kind == 11 || decide (14 ≤ r.kind)) && decide (r.kind ≤ 16))).map (fun r => (r.kind, r.first, r.count))
/-- The grants of two islands match, core index for core index and quota for quota, and no other island holds a core (R410). -/
def Grant.pairs (g : Grant) (a b : Nat) : Bool :=
  let same := fun (l : List Nat) => l.getD (a - 2) 0 == l.getD (b - 2) 0
  g.coresOn a == g.coresOn b && [2, 3, 4, 5].all (fun i => i == a || i == b || g.coresOn i == 0) &&
  same g.cipher && same g.fixity && same g.dma && same g.hold && same g.reorder && same g.cache &&
  (g.ownOn a).all (fun r => (g.ownOn b).contains r) && (g.ownOn b).all (fun r => (g.ownOn a).contains r)

/-- The four units of an external pair are this device's. -/
def Dev.takeUnits (d : Dev) (p : Nat) : Dev :=
  (List.range 4).foldl (fun d u => if d.rb .dpxCw p u then d else (d.setRb .dpxCw p u true).emit (.causeway u true)) d

/-- A partition leaves duplex, or its pairing begins anew: every unit it holds is released. -/
def Dev.dpxClear (d : Dev) (p : Nat) : Dev :=
  let d := (d.dropUnits p).resetWhere [.dpxCfg, .dpxCycle, .dpxStat] (fun _ i => i == p)
  let d := { d with dpx := { d.dpx with released := d.dpx.released.filter (fun e => e.1 / 4 != p) } }
  d.setDuplex p {}

/-- An unsynchronised standby begins to rejoin by full copy, unless it is held out or the ferry is down (R418). -/
def Dev.rejoin (d : Dev) (p : Nat) : Dev :=
  if d.rb .dpxStat p 3 || (d.dpxExternal p && !d.dpx.ferryUp) then d
  else (d.setRb .dpxStat p 1 true).setDuplex p { d.duplex p with copied := false }

/-- The standby is no longer synchronised. -/
def Dev.unsync (d : Dev) (p : Nat) : Dev :=
  ((d.setRb .dpxStat p 0 false).setRb .dpxStat p 1 false).setDuplex p { d.duplex p with due := none, ckpt := none, resync := false, copied := false }

/-- The duplex cycle a DUPLEX_CONFIG stores, and whether it was clamped. -/
def dpxCycleOf (n : Nat) (ext : Bool) : Nat × Bool :=
  let want := if n = 0 then 10000 else n
  let c := Nat.min 10000000 (Nat.max (if ext then 10000 else 1000) want)
  (c, c != want)

/-- DUPLEX_CONFIG: R387, R410, R411, R418, R422 to R424. -/
def execDuplexConfig (h : CmdHdr) (s : State) : Out :=
  wenot 0xA0 false (fun b _ d =>
    let p := leAt b 0 1
    let pair := leAt b 1 1
    let act := leAt b 2 1
    let fl := leAt b 3 1
    let enable := nbit fl 0
    let ext := nbit fl 1
    let (cyc, clamped) := dpxCycleOf (leAt b 4 4) ext
    let within := decide (2 ≤ act) && decide (act ≤ 5) && (ext || (decide (pair ≤ 1) && act / 2 == pair + 1))
    let st : Byte := if clamped then 0x01 else 0
    if b.length ≠ 16 ∨ 7 < p ∨ 3 < fl ∨ leAt b 8 8 ≠ 0 ∨ !within then .fail 0x04 d
    else match d.partReady p, (d.part p).grant with
      | some e, _ => .fail e d
      | none, none => .fail 0x06 d
      | none, some g =>
        let cfg := 1 + (if ext then 0 else pair * 2) + act * 4 + b2n ext * 32
        if enable && d.rb .dpxStat p 3 && d.rf .dpxCfg p 0 6 == cfg && d.rf .dpxCycle p 0 32 == cyc then
          .answer { status := st } ((d.setRb .dpxStat p 3 false).rejoin p)
        else if d.started p then .fail 0x09 d
        else if !(if ext then [2, 3, 4, 5].all (fun i => i == act || g.coresOn i == 0) else g.pairs act (peerIsl act)) then .fail 0x04 d
        else if d.rb .coreDbgPart p 0 then .fail 0x05 d
        else if enable && ext && (d.slotsOf p).any (fun n => (d.slot n).generated) then .fail 0x04 d
        else
          let d := d.dpxClear p
          if !enable then .answer { status := st } d.setPhase
          else
            let d := (d.setReg .dpxCfg p (BitVec.ofNat 64 cfg)).setReg .dpxCycle p (BitVec.ofNat 64 cyc)
            let d := if !ext then d.setReg .dpxCw p 1 else if d.dpx.cwIn = 0 then d.takeUnits p else d
            .answer { status := st } d.setPhase) h s

/-! ## Checkpoints (R415, R417, R418) -/

/-- The spans of a partition's island, lagoon and local data memories on an island. -/
def Dev.dpxSpans (d : Dev) (p isl : Nat) : List (Nat × Nat) :=
  let of := fun (kind base unit : Nat) => ((d.partRanges p kind).filter (fun r => r.where_ == isl)).map
    (fun r => (islAddr isl (base + r.first * unit), r.count * unit))
  of 15 0x100000000 65536 ++ of 16 0x120000000 4096 ++ ((d.coresOf p).filter (fun c => islOfCore c == isl)).map (fun c => (localAddr c 0, 0x40000))
/-- Whether an address lies in one of some spans. -/
def inSpans (ss : List (Nat × Nat)) (a : Nat) : Bool := ss.any (fun s => decide (s.1 ≤ a) && decide (a < s.1 + s.2))
/-- The timed threads of a partition on an island. -/
def Dev.dpxThreads (d : Dev) (p isl : Nat) : List Nat :=
  (d.thr.map (·.1)).filter (fun t => timed t && islOf t == isl && d.partOf t == some p)

/-- The active's checkpoint. -/
def Dev.takeCkpt (d : Dev) (p : Nat) : Ckpt :=
  let isl := d.dpxActive p
  let ss := d.dpxSpans p isl
  { mem := d.mem.filter (fun c => inSpans ss c.1), thr := (d.dpxThreads p isl).map (fun t => (t, d.thread t)) }

/-- The memories of a checkpoint on the standby island. -/
def Dev.copyMem (d : Dev) (p : Nat) (mem : List Host.Cell) : Dev :=
  let dst := peerIsl (d.dpxActive p)
  let ss := d.dpxSpans p dst
  let rest := d.mem.filter (fun c => !inSpans ss c.1)
  { d with mem := mem.foldl (fun m c => tabPut m 0 (islAddr dst (c.1 % 2 ^ 44)) c.2) rest }

/-- A thread of the active as the standby takes it: frames and recorded inputs come by replay. -/
def Thread.shadow (t : Thread) : Thread := { t with assigned := [], replay := [], ev := 0 }

/-- The standby takes a checkpoint: its memories and its threads. -/
def Dev.applyCkpt (d : Dev) (p : Nat) (k : Ckpt) : Dev :=
  let d := d.copyMem p k.mem
  let d := (d.dpxThreads p (peerIsl (d.dpxActive p))).foldl (fun d t => d.setThread t { nextId := (d.thread t).nextId }) d
  (k.thr.foldl (fun d e => d.setThread (peerTid e.1) e.2.shadow) d).setLead p

/-- Every duplexed thread of the standby stands at the cut. -/
def Dev.atCut (d : Dev) (p : Nat) : Bool :=
  (d.dpxThreads p (d.dpxActive p)).all (fun t => d.slotCount (peerTid t) == tabGet (d.duplex p).cut 0 t + tabGet (d.duplex p).lead 0 t)

/-- The standby holds the state of this cycle end. -/
def Dev.resynced (d : Dev) (p : Nat) : Dev :=
  let d := if d.dpxExternal p then d else d.applyCkpt p (d.takeCkpt p)
  ((d.setRb .dpxStat p 0 true).setRb .dpxStat p 1 false).setDuplex p { d.duplex p with resync := false, copied := false, due := none, ckpt := none }

/-- DUPLEX_LAG is raised, and the standby is to be copied anew (R414, R415, R423). -/
def Dev.lagged (d : Dev) (p : Nat) : Dev := ((d.raiseFree 1412 0 (some p)).unsync p).rejoin p

/-- The start tick and cut of a cycle end: the count of slots of every duplexed thread of the active (R414). -/
def Dev.fixCut (d : Dev) (p : Nat) : Dev :=
  let cut := (d.dpxThreads p (d.dpxActive p)).foldl (fun c t => tabPut c 0 t (d.slotCount t)) []
  let k := if d.dpxExternal p then none else some (d.takeCkpt p)
  d.setDuplex p { d.duplex p with cut := cut, ckpt := k, due := some d.time.tick }

/-- A switch-over is in progress (DPX_STAT.switching). -/
def Dev.switching (d : Dev) (p : Nat) : Bool := d.rb .dpxStat p 2

/-- DUPLEX_CYCLE_END: R410, R414, R415, R417, R418. -/
def execDuplexCycleEnd (p : Fin 8) (s : State) : Out :=
  event (fun d =>
    let p := p.val
    let x := d.duplex p
    let step := Nat.max 1 (d.rf .dpxCycle p 0 32)
    if !d.inDuplex p || !d.started p || decide (d.ns < x.start + (x.cycle + 1) * step) then d
    else
      let d := d.setDuplex p { x with cycle := (d.ns - x.start) / step }
      if d.switching p then d
      else if d.rb .dpxStat p 0 then (if x.due.isSome then d.lagged p else d.fixCut p)
      else if x.resync || (x.copied && d.rb .dpxStat p 1) then d.resynced p
      else d) s

/-! ## The decision (R416 to R418) -/

/-- A decision for a switch-over falls at a tick. -/
def Dev.switchDecide (d : Dev) (p at_ ns : Nat) : Dev :=
  let d := (d.setDuplex p { d.duplex p with decided := some at_, due := none, ckpt := none }).setReg .dpxSwTime p (timeWord ns)
  (d.setRb .dpxStat p 2 true).setPhase

/-- An island loses a decision: the second within a second of device time holds it out (R418). -/
def Dev.loses (d : Dev) (p isl : Nat) : Dev :=
  let x := d.duplex p
  let again := (tabFind isl x.losses).any (fun t => decide (d.ns ≤ t + nsPerSec))
  let d := d.setDuplex p { x with losses := tabIns isl d.ns x.losses }
  if again then (d.setRb .dpxStat p 3 true).setRb .dpxStat p 1 false else d

/-- A mismatch with no checker fault (R416, R417). -/
def Dev.mismatch (d : Dev) (p : Nat) : Dev :=
  let x := d.duplex p
  let d := ((d.raiseFree 1408 0 (some p)).incRf .dpxStat p 16 16 1).count (evPart p 8)
  let d := d.setReg .dpxLastMm p (BitVec.ofNat 64 (x.cycle % 2 ^ 32))
  let d := if x.lastMm.any (fun m => decide (x.cycle ≤ m + 16)) then d.raiseFree 1409 0 (some p) else d
  let d := d.unsync p
  d.setDuplex p { d.duplex p with lastMm := some x.cycle, resync := true }

/-- How long the anchor waits for the standby's digest, in ticks (R414, R423). -/
def Dev.digestWait (d : Dev) (p : Nat) : Nat := if d.dpxExternal p then 25000 else 256

/-- The lag seen at a comparison is a free value of at most the time since the cycle end. -/
def Dev.seeLag (d : Dev) (p ticks : Nat) : Dev :=
  let (v, d) := d.fresh
  d.setRf .dpxLag p 0 16 (Nat.min 65535 (Nat.max (d.rf .dpxLag p 0 16) (v.toNat % (ticks + 1))))

/-- The table of R416. -/
def Dev.compare (d : Dev) (p : Nat) (differ : Bool) : Dev :=
  let x := d.duplex p
  let isl := d.dpxActive p
  let standby := d.dpxOther p isl
  let d := d.setDuplex p { x with chkActive := false, chkStandby := false, due := none }
  match x.chkActive, x.chkStandby with
  | true, false => (d.loses p isl).switchDecide p d.time.tick d.ns
  | false, true => ((d.loses p standby).unsync p).rejoin p
  | true, true => ((d.raiseFree 1410 0 (some p)).unsync p).rejoin p
  | false, false =>
    if differ then d.mismatch p
    else
      let d := match x.ckpt with
        | some k => if d.atCut p then d.applyCkpt p k else d
        | none => d
      d.setDuplex p { d.duplex p with ckpt := none }

/-- DUPLEX_COMPARE: the later digest of a cycle has arrived, not later than its bound after the cycle end. -/
def execDuplexCompare (p : Fin 8) (differ : Bool) (s : State) : Out :=
  event (fun d =>
    match (d.duplex p.val).due with
    | some t => if d.time.tick ≤ t + d.digestWait p.val then (d.seeLag p.val (d.time.tick - t)).compare p.val differ else d
    | none => d) s

/-- DUPLEX_LAG: the standby's digest, its checkpoint or the ferry's backlog misses its bound. -/
def execDuplexLag (p : Fin 8) (s : State) : Out :=
  event (fun d =>
    if d.inDuplex p.val && d.started p.val && d.rb .dpxStat p.val 0 && !d.switching p.val then d.lagged p.val else d) s

/-- REJOIN_COPY_DONE: the memories of the active stand on the rejoining island (R418). -/
def execRejoinCopyDone (p : Fin 8) (s : State) : Out :=
  event (fun d =>
    let p := p.val
    if !d.inDuplex p || !d.rb .dpxStat p 1 || (d.dpxExternal p && !d.dpx.ferryUp) then d
    else
      let d := if d.dpxExternal p then d else d.copyMem p (d.takeCkpt p).mem
      d.setDuplex p { d.duplex p with copied := true }) s

/-! ## Switch-over (R419, R421, R423) -/

/-- The threads of the old active stop: what they had out is discarded; the background threads, which run on the active island only, are idle (R412, R419). -/
def Dev.stopIsland (d : Dev) (p isl : Nat) : Dev :=
  ((d.thr.map (·.1)).filter (fun t => islOf t == isl && d.partOf t == some p)).foldl (fun d t =>
    d.updThread t (fun x => if timed t then { x with outs := [], stq := [], storeErrs := [], assigned := [], ev := 0 }
      else { nextId := x.nextId })) d

/-- Engine and DMA work of a partition on an island is aborted (R419). -/
def Dev.abortIsland (d : Dev) (p isl : Nat) : Dev :=
  ((d.chansOf p).filter (fun ch => chanIsl ch == isl)).foldl (fun d ch => d.abortChannel ch false) (d.abortOps (fun o => o.part == p && o.isl == isl))

/-- What the old active's threads own of the device goes to their shadows: events and frames that wait for them, claims, committed sets and locks. -/
def Dev.handOver (d : Dev) (p old : Nat) : Dev :=
  let mine := fun t => timed t && islOf t == old && d.partOf t == some p
  let heir := fun t => if mine t then peerTid t else t
  let d := (d.dpxThreads p old).foldl (fun d t =>
    let x := d.thread t
    d.updThread (peerTid t) (fun y => { y with ev := x.ev, assigned := x.assigned })) d
  let d := (d.chansOf p).foldl (fun d ch =>
    let c := d.chan ch
    d.setChan ch { c with claim := c.claim.map heir, armed := c.armed.map (fun a => { a with tid := heir a.tid }) }) d
  (d.partNums p 2).foldl (fun d n =>
    if d.lockHeld n.2 && mine (d.lockOwner n.2) then d.setRf .lock n.2 0 10 (peerTid (d.lockOwner n.2)) else d) d

/-- The decision reaches both islands of a pair in the package: the roles are exchanged. -/
def Dev.exchange (d : Dev) (p : Nat) : Dev :=
  let old := d.dpxActive p
  let d := ((d.handOver p old).abortIsland p old).stopIsland p old
  let d := match d.supervisor p with
    | some t => if islOf t = old then d.setRf .coreSupv p 0 9 (peerTid t) else d
    | none => d
  let d := (d.setRf .dpxCfg p 2 3 (peerIsl old)).setRb .dpxCw p 0 false
  { d with dpx := { d.dpx with released := tabIns (4 * p) d.time.tick d.dpx.released } }

/-- A unit whose release the arbiter observed at least 2 ticks ago is granted to this device (R421). -/
def Dev.grantUnit (d : Dev) (p u : Nat) : Dev :=
  match tabFind (4 * p + u) d.dpx.released with
  | some t =>
    if t + 2 ≤ d.time.tick then
      let d := { d with dpx := { d.dpx with released := tabDel (4 * p + u) d.dpx.released } }
      let d := (d.setRb .dpxCw p u true).count 17
      if d.dpxExternal p then d.emit (.causeway u true) else d
    else d
  | none => d

/-- The released units of a partition are granted to this device. -/
def Dev.grantUnits (d : Dev) (p : Nat) : Dev := (List.range 4).foldl (fun d u => d.grantUnit p u) d

/-- The effects of D + 3. -/
def Dev.switchMove (d : Dev) (p : Nat) : Dev :=
  let isl := d.dpxActive p
  let d :=
    if !d.dpxExternal p then d.exchange p
    else if d.reg .dpxCw p = 0 then d.grantUnits p
    else (((d.dropUnits p).abortIsland p isl).stopIsland p isl)
  let d := d.unsync p
  d.setDuplex p { d.duplex p with moved := true }

/-- DUPLEX_SWITCH's stated tick has come: the decision, or STATE where the standby is no longer synchronised. -/
def Dev.orderedSwitch (d : Dev) (p : Nat) : Dev :=
  match (d.duplex p).ordered with
  | none => d
  | some (t, _) =>
    if d.ns < t then d
    else
      let d := d.setDuplex p { d.duplex p with ordered := none }
      if d.switching p || !d.rb .dpxStat p 0 then d.fwFinish 0xA1 { status := 0x09 }
      else d.switchDecide p (d.time.tick - (d.time.now - t * 65536) / Nat.max 1 (d.rf .timeAddend 0 0 32)) t

/-- SWITCH_OVER: a decision falls, where one is ordered for this time, and reaches both islands 3 ticks after it. -/
def execSwitchOver (p : Fin 8) (s : State) : Out :=
  event (fun d =>
    let p := p.val
    let d := d.orderedSwitch p
    let x := d.duplex p
    match x.decided with
    | some t => if !x.moved && decide (t + 3 ≤ d.time.tick) then d.switchMove p else d
    | none => d) s

/-- DUPLEX_SWITCHED: D + 64. -/
def execDuplexSwitched (p : Fin 8) (s : State) : Out :=
  event (fun d =>
    let p := p.val
    let x := d.duplex p
    match x.decided with
    | none => d
    | some t =>
      if !x.moved || decide (d.time.tick < t + 64) then d
      else
        let d := d.setDuplex p { x with decided := none, moved := false, held := [] }
        let d := x.held.foldl (fun d w => d.hostEmit w.1 w.2.1 w.2.2.1 w.2.2.2.1 w.2.2.2.2) d
        let d := (d.grantUnits p).setRb .dpxStat p 2 false
        let d := (((d.incRf .dpxSwitches p 0 32 1).count (evPart p 9)).raiseFree 1411 0 (some p)).setPhase
        let d := ((d.rejoin p).kickAll 0).kickAll 1
        match d.fw.running with
        | some (0xA1, h) => if h.arg0.toNat = p then d.fwFinish 0xA1 { r0 := d.reg .dpxSwTime p } else d
        | _ => d) s

/-- DUPLEX_SWITCH: R387. It answers once the switch-over is complete. -/
def execDuplexSwitch (h : CmdHdr) (s : State) : Out :=
  wenot 0xA1 true (fun _ h d =>
    let p := h.arg0.toNat
    let t := expandTime d.sec h.arg1
    let now := h.arg1 == 0 || decide (t ≤ d.ns)
    if 7 < p ∨ !timeWordOk h.arg1 ∨ (!now && decide (d.ns + nsPerSec < t)) then .fail 0x04 d
    else match d.partReady p with
      | some e => .fail e d
      | none =>
        if !d.inDuplex p then .fail 0x09 d
        else if d.switching p then .fail 0x02 d
        else if !d.rb .dpxStat p 0 then .fail 0x09 d
        else if now then .hold (d.switchDecide p d.time.tick d.ns)
        else .hold (d.setDuplex p { d.duplex p with ordered := some (d.tickAt t, h) })) h s

/-! ## Causeway units and the ferry (R420 to R423) -/

/-- CAUSEWAY_RELEASE: the owner of an external pair's unit gives it up (R421). In the package the only unit that changes sides is released by the switch-over itself. -/
def execCausewayRelease (p : Fin 8) (unit : Fin 4) (s : State) : Out :=
  event (fun d =>
    if d.inDuplex p.val && d.dpxExternal p.val && d.rb .dpxCw p.val unit.val then (d.setRb .dpxCw p.val unit.val false).emit (.causeway unit.val false)
    else d) s

/-- CAUSEWAY_GRANT: a released unit is granted to this side, no earlier than 2 ticks after its release was observed (R421). -/
def execCausewayGrant (p : Fin 8) (unit : Fin 4) (s : State) : Out := event (fun d => d.grantUnit p.val unit.val) s

/-- The partner's lines as an externally paired partition sees them change: released lines let a synchronised standby take over (R423), and lines that rise beside this side's own are a tie (R422). -/
def Dev.causewayIn (d : Dev) (p : Nat) (old new : BitVec 4) : Dev :=
  if !d.inDuplex p || !d.dpxExternal p then d
  else if d.reg .dpxCw p = 0 then
    if old ≠ 0 ∧ new = 0 ∧ d.rb .dpxStat p 0 ∧ !d.switching p then
      let rel := (List.range 4).foldl (fun r u => tabIns (4 * p + u) d.time.tick r) d.dpx.released
      ({ d with dpx := { d.dpx with released := rel } }).switchDecide p d.time.tick d.ns
    else d
  else if old = 0 ∧ new ≠ 0 ∧ d.rb .dpxExt 0 0 then d.dropUnits p
  else d

/-- CAUSEWAY_IN_CHANGE: the filtered lines of the partner change. -/
def execCausewayInChange (lines : BitVec 4) (s : State) : Out :=
  event (fun d =>
    let old := d.dpx.cwIn
    let d := { d with dpx := { d.dpx with cwIn := lines } }
    (List.range 8).foldl (fun d p => d.causewayIn p old lines) d) s

/-- The partitions paired over the external ferry. -/
def Dev.ferryParts (d : Dev) : List Nat := (List.range 8).filter (fun p => d.inDuplex p && d.dpxExternal p)

/-- FERRY_LINK_DOWN: R423. -/
def execFerryLinkDown (s : State) : Out :=
  event (fun d =>
    if !d.dpx.ferryUp then d
    else
      let d := { d with dpx := { d.dpx with ferryUp := false } }
      if d.ferryParts.isEmpty then d
      else d.ferryParts.foldl (fun d p => if d.switching p then d else d.unsync p) (d.raiseFree 1413 0 none)) s

/-- FERRY_LINK_UP: an unsynchronised standby can begin to rejoin (R418). -/
def execFerryLinkUp (s : State) : Out :=
  event (fun d =>
    if d.dpx.ferryUp then d
    else
      let d := { d with dpx := { d.dpx with ferryUp := true } }
      d.ferryParts.foldl (fun d p => if d.rb .dpxStat p 0 || !d.started p then d else d.rejoin p) d) s

end Sys2Proof.Machine
end

