-- ==== Sys2Proof/Machine/Forward.lean ====
section
/-! DEFINITION. Machine/Forward.lean: Wenot commands that go over the ferry between the two devices of an external pair (R425 of 11_faults_and_duplex.md). -/
namespace Sys2Proof.Machine
open Sys2Proof

/-- The partner has ended the command forwarded to it: firmware responds, and a partner with another status is held out. -/
def Dev.forwardAnswer (d : Dev) (st : Byte) : Dev :=
  match d.fw.forward with
  | none => d
  | some w =>
    if !d.dpx.ferryUp then d
    else
      let differs := st != w.status
      let r1 := if differs then (w.r1 &&& 0x00FFFFFFFFFFFFFF#64) ||| (st.setWidth 64 <<< 56) else w.r1
      let d := if differs && d.inDuplex w.part then (d.unsync w.part).setRb .dpxStat w.part 3 true else d
      d.fwRespond w.opcode w.hdr { status := w.status, r0 := w.r0, r1 := r1, out := w.out, late := w.late } differs

/-- A command of the partner is executed here, as its opcode says, without the ownership check. -/
def forwardExecute (opcode : Nat) (h : CmdHdr) (save : List Byte) (s : State) : Out :=
  let d := s.dev
  let dev := { d with fw := { d.fw with taken := some (0, 64), guest := 1 } }
  let s' := { s with dev := dev }
  let h := { h with readOk := true }
  match opcode with
  | 0x20 => execPartCreate h s'
  | 0x21 => execPartDestroy h s'
  | 0x22 => execPartReset h s'
  | 0x30 => execSliceCreate h s'
  | 0x31 => execSliceDestroy h s'
  | 0x32 => execSliceReset h s'
  | 0x33 => execSliceFreeze h s'
  | 0x34 => execSliceSave h s'
  | 0x35 => execSliceRestore h save s'
  | 0x36 => execSliceThaw h s'
  | 0x40 => execProgLoad h s'
  | 0x41 => execProgStart h s'
  | 0x42 => execProgStop h s'
  | 0x50 => execKeyImport h s'
  | 0x51 => execKeyGenerate h s'
  | 0x52 => execKeyRetire h s'
  | 0x53 => execKeyQuery h s'
  | 0x70 => execGateInstall h s'
  | 0xA1 => execDuplexSwitch h s'
  | _ => .next { s with bundle := none }

/-- Firmware can take a command from the ferry: it serves, it has none in progress, and the link is up. -/
def Dev.forwardReady (d : Dev) : Bool := d.live && d.fwServes && d.fw.taken.isNone && d.fw.running.isNone && d.dpx.ferryUp

/-- FORWARDED_COMMAND: a command of the partner, or the partner's answer to one of this device (R425). -/
def execForwardedCommand (c : Forwarded) (s : State) : Out :=
  match c with
  | .answer st => event (fun d => d.forwardAnswer st) s
  | .execute opcode h save => if s.dev.forwardReady then forwardExecute opcode.toNat h save s else .next { s with bundle := none }

/-- FORWARD_TIMEOUT: 10 ms have passed since forwarding began: TIMEOUT (R425). -/
def execForwardTimeout (s : State) : Out :=
  event (fun d =>
    match d.fw.forward with
    | none => d
    | some w =>
      if d.time.tick < w.since + 2500000 then d
      else d.fwRespond w.opcode w.hdr { status := 0x07, r0 := w.r0, r1 := w.r1, out := w.out, late := w.late } false) s

end Sys2Proof.Machine
end

