-- ==== Sys2Proof/Machine/Thermal.lean ====
section
/-! DEFINITION. Machine/Thermal.lean: the temperature sensors, the thermal faults, the governor and the SMBus slave (R490, R493 to R495, R500 of 14_electrical_and_package.md). -/
namespace Sys2Proof.Machine
open Sys2Proof

/-! ## Conversion (R493, R494) -/

/-- A valid reading, in quarter degrees: from -55 to 175 degrees. -/
def sensorOk : Sensor → Bool
  | some v => decide (-220 ≤ v) && decide (v ≤ 700)
  | none => false

/-- One sensor's register after a conversion. -/
def Dev.sensorShow (d : Dev) (n : Nat) (v : Sensor) : Dev :=
  let d := match v with
    | some q => d.setRf .thermSens n 0 12 (BitVec.ofInt 12 q).toNat
    | none => d
  d.setRb .thermSens n 15 (sensorOk v)

/-- An island's hottest valid reading among its four. -/
def hottest (vs : List Sensor) : Sensor :=
  vs.foldl (fun a v => if sensorOk v then (match a with | some m => some (max m (v.getD m)) | none => v) else a) none

/-- A tick noted in a table under a condition: it stays while the condition does. -/
def sinceIf (t : Tab Nat) (k now : Nat) (b : Bool) : Tab Nat :=
  if !b then tabDel k t else if (tabFind k t).isSome then t else tabIns k now t

/-- An island's temperature after a conversion, and what it starts or ends. -/
def Dev.islandHeat (d : Dev) (i : Nat) (vs : List Sensor) : Dev :=
  let hot := hottest vs
  let d := d.setReg .thermHot i (match hot with
    | some q => BitVec.ofNat 64 ((BitVec.ofInt 12 q).toNat + 2 ^ 15)
    | none => 0)
  let warn : Int := d.rf .thermCfg 0 0 8
  let gov : Int := d.rf .thermCfg 0 8 8
  let crit : Int := d.rf .thermCfg 0 16 8
  let above := fun (t : Int) => (match hot with | some q => decide (4 * t < q) | none => false : Bool)
  let raised := d.boot.hotRaised.getLsbD i
  let bit : BitVec 8 := 1#8 <<< i
  let d := d.setRb .thermStat 0 (i + 1) (above warn)
  let d := if above warn && !raised then d.raiseFree (136 + i) i none else d
  let cold := (match hot with | some q => decide (q ≤ 4 * (warn - 5)) | none => false : Bool)
  let hotRaised := if above warn then d.boot.hotRaised ||| bit else if cold then d.boot.hotRaised &&& ~~~ bit else d.boot.hotRaised
  let bad := above crit || hot.isNone
  let boot := { d.boot with
    hotRaised := hotRaised, critSince := sinceIf d.boot.critSince i d.time.tick bad, govSince := sinceIf d.boot.govSince i d.time.tick (above gov)
    critRaised := if bad then d.boot.critRaised else d.boot.critRaised &&& ~~~ bit }
  { d with boot := boot }

/-- Every island is 4 degrees or more below gov_enter. -/
def Dev.allCool (d : Dev) : Bool :=
  (List.range 8).all (fun i => d.rb .thermHot i 15 && decide ((BitVec.ofNat 12 (d.rf .thermHot i 0 12)).toInt ≤ 4 * ((d.rf .thermCfg 0 8 8 : Int) - 4)))

/-- THERMAL_SENSOR_CONVERT: the 32 sensors convert, sensor j of island i being reading 4i + j (R493). -/
def execThermalSensorConvert (readings : List Sensor) (s : State) : Out :=
  eventOn (fun d =>
    let v := fun (n : Nat) => readings.getD n none
    let d := (List.range 32).foldl (fun d n => d.sensorShow n (v n)) d
    let d := (List.range 8).foldl (fun d i => d.islandHeat i ((List.range 4).map (fun j => v (4 * i + j)))) d
    { d with boot := { d.boot with coolSince := if d.allCool then some (d.boot.coolSince.getD d.time.tick) else none } }) s

/-- THERMAL_CRIT: an island has been above crit for 100 µs, or has no valid sensor (R493, R494). -/
def execThermalCrit (isl : Fin 8) (s : State) : Out :=
  eventOn (fun d =>
    match tabFind isl.val d.boot.critSince with
    | none => d
    | some t =>
      if d.boot.critRaised.getLsbD isl.val || (d.rb .thermHot isl.val 15 && decide (d.time.tick < t + 25000)) then d
      else
        let boot := { d.boot with critRaised := d.boot.critRaised ||| (1#8 <<< isl.val) }
        { d with boot := boot }.raiseFree (144 + isl.val) isl.val none) s

/-! ## The governor (R495) -/

/-- GOVERNOR_ENTER: an island has been above gov_enter for 1 ms. -/
def execGovernorEnter (s : State) : Out :=
  eventOn (fun d =>
    if d.rb .thermCfg 0 24 && !d.rb .thermStat 0 0 && d.boot.govSince.any (fun (e : Nat × Nat) => decide (e.2 + 250000 ≤ d.time.tick)) then
      (d.setRb .thermStat 0 0 true).incRf .thermStat 0 16 16 1
    else d) s

/-- GOVERNOR_RELEASE: every island has been 4 degrees below gov_enter for 100 ms, or the governor is off. -/
def execGovernorRelease (s : State) : Out :=
  eventOn (fun d =>
    let cool := d.boot.coolSince.any (fun t => decide (t + 25000000 ≤ d.time.tick))
    if d.rb .thermStat 0 0 && (cool || !d.rb .thermCfg 0 24) then d.setRb .thermStat 0 0 false else d) s

/-! ## SMBus (R490) -/

/-- SMB_ALERT_N is driven low. -/
def Dev.smbAlert (d : Dev) : Bool := d.life.vaux && d.flt.pend.any (fun f => decide (2 ≤ f.sev))

/-- What the SMBus slave answers: the live lifetime record, CFG_RST_CAUSE, a thermal register, or DEV_IDENTIFY's record. -/
def Dev.smbAnswer (d : Dev) (r : SmbRead) : List Byte :=
  match r with
  | .life =>
    let seq := (if d.life.vin then (d.reg .lifeSeq 0).toNat else match newestRecord d.kept with | some r => recordSeq r | none => 0 : Nat)
    d.lifeRecord 0 seq
  | .rstCause => leBytes 4 (d.reg .cfgRstCause 0).toNat
  | .therm off =>
    match regAt 0 (0x7200000 + off % 4096) with
    | some (r, i, _) => leBytes 4 (d.reg r i).toNat
    | none => leBytes 4 0
  | .identify => d.identity

/-- SMBUS_READ: the slave answers whenever VAUX is present (R490). -/
def execSmbusRead (r : SmbRead) (s : State) : Out :=
  eventAny (fun d => if d.life.vaux then d.emit (.smbus (d.smbAnswer r)) else d) s

end Sys2Proof.Machine
end

