-- ==== Sys2Proof/Machine/Access.lean ====
section
/-! DEFINITION. Machine/Access.lean: reads and writes of register space: the rights at the target, the access codes, and the registers whose write acts (R7, R8 of 00_scope.md, R501 and R348 of 09_partitions_and_slices.md, R47, R89, R177, R204, R253, R292, R320, R357, R426, R429, R431, R448, R479, R500). -/
namespace Sys2Proof.Machine
open Sys2Proof

/-- What a command that takes events does to a device, the commands waiting left aside. -/
def runOn (f : State → Out) (d : Dev) : Dev :=
  match f ⟨d, none, []⟩ with
  | .next s => s.dev
  | _ => d

/-! ## Rights (R501) -/

/-- The registers of the anchor's time block and the TIME_NOW copies (R47). -/
def timeRegs : List Reg := [.timeNow0, .timeNow1, .timeNow2, .timeAddend, .timeStep0, .timeStep1, .timeCtl, .timeStatus, .timeSrc, .timeQual,
  .timeHoldLimit, .timeHoldRate, .timeHoldRateF, .timeLockThresh, .timeStepLimit, .timePpsOut, .timePpsInStat, .timeClkSpread, .timeHwm0, .timeHwm1,
  .timeUtcOffset, .timeSkewStat, .timeHoldSecs]

/-- The registers of the mailbox blocks, which follow R348. -/
def mbxRegs : List Reg := [.mbxCfg, .mbxStat, .mbxTxPtr0, .mbxTxPtr1, .mbxTxLen, .mbxSend, .mbxRxPtr0, .mbxRxPtr1, .mbxRxLen, .mbxDbRing, .mbxDbPend,
  .mbxDbMask, .mbxFace0, .mbxFace1, .mbxRoute]

/-- The partition of a slice that exists. -/
def Dev.slcOwner (d : Dev) (s : Nat) : Option Nat := if d.sliceState s = 0 then none else some (d.slicePart s)

/-- The partition that owns the block or resource of a register: a per-partition block, an owner field, a ring or channel, a counter window (R501). -/
def Dev.regOwner (d : Dev) (r : Reg) (i : Nat) : Option Nat :=
  let fnOwner := fun (k : Nat) => if k % 9 = 0 then none else some (k % 9 - 1)
  match r with
  | .coreCfg | .coreThrState | .coreTbState | .coreIcachePin | .coreDbgCtl | .coreDbgStat | .coreRstStat => d.partOfCore i
  | .coreBkpt => d.partOfCore (i / 4)
  | .coreEvpend => d.partOfCore (i / 9)
  | .coreSupv | .coreQuietLimit | .coreClaimLease | .coreDbgPart | .coreQuietStat | .coreFnqStat => some i
  | .lock => (List.range 8).find? (fun p => d.granted p 2 0 i)
  | .clsPartCfg | .clsPartWtbl | .clsPartStat | .clsMissTimeout => some i
  | .clsHashKey => some (i / 11)
  | .clsHashSel => some (i / 3)
  | .clsFlowSel => some (i / 8)
  | .clsInd => some (i / 4096)
  | .clsGrp => (List.range 8).find? (fun p => d.granted p 9 0 i && d.rf .clsGrp i 0 3 == p)
  | .clsGrpMem => (List.range 8).find? (fun p => d.granted p 9 0 (i / 4) && d.rf .clsGrp (i / 4) 0 3 == p)
  | .clsUpdData => some (i / 44 % 8)
  | .clsUpdCmd | .clsUpdStat | .schUpdCmd | .schUpdStat | .schPartEq => some (i % 8)
  | .schUpdData => some (i / 4 % 8)
  | .schIngPol => some (i / 16 % 8)
  | .clsTdir | .clsMirror | .dmaChOwner => namedBy r (d.reg r i)
  | .schTxqCfg | .schTxqDrr | .schTxqAtt | .schTxqLim => namedBy .schTxqCfg (d.reg .schTxqCfg i)
  | .schShpCfg | .schShpRate | .schShpBurst | .schShpParent | .schShpTok | .schShpStat => namedBy .schShpCfg (d.reg .schShpCfg i)
  | .schPolCfg | .schPolRate | .schPolBurst | .schPolTok => namedBy .schPolCfg (d.reg .schPolCfg i)
  | .keyHoldQ | .keyHoldUse | .ptnCrCiph | .ptnCrFix | .ptnCrDma | .ptnBalCiph | .ptnBalFix | .ptnBalRd | .ptnBalWr => some (i % 8)
  | .dmaChSrc | .dmaChDst | .dmaChCnt | .dmaChMode | .dmaChPasid | .dmaChEvent | .dmaChSeed | .dmaChCq | .dmaChCqdata | .dmaChStat | .dmaChChk =>
    namedBy .dmaChOwner (d.reg .dmaChOwner i)
  | .ringSqBase | .ringSqCfg | .ringSqPoll | .ringSqCons | .ringSqRoute | .ringSqInbox | .ringSqDb | .ringSqStat | .ringSqOwner | .ringSqSvc =>
    (d.sqSlice i).map d.slicePart
  | .ringCqBase | .ringCqCfg | .ringCqHead | .ringCqIrq | .ringCqStat | .ringCqOwner => (d.cqSlice i).map d.slicePart
  | .ringSliceStat | .ringSliceMalRing | .ringSliceMalPos | .ringSliceMalWhy | .slcState | .slcVec | .slcRstTime | .slcOvfLim | .slcFrzStat => d.slcOwner i
  | .hostFnCfg | .hostFnTags | .hostFnStat | .hostFnIrq | .hostWinCtl | .hostWinStat => fnOwner i
  | .hostIntxPend => fnOwner (i / 64)
  | .hostWinAct | .hostWinStg => fnOwner (i / 256)
  | .ptnState | .ptnRstTime | .ptnCaps | .ptnDownDrop | .ptnCores0 | .ptnCores1 | .ptnOvf | .ptnStraitShare => some i
  | .dpxCfg | .dpxCycle | .dpxStat | .dpxLastMm | .dpxSwTime | .dpxSwitches | .dpxLag | .dpxCw => some i
  | .cntWinCfg0 | .cntWinCfg1 | .cntWinCfg2 | .cntWinCfg3 | .cntWinStat | .cntWinSnapTime => d.winOwner i
  | .cntWinVal | .cntWinSnap => d.winOwner (i / 64)
  | _ => none

/-- Whether a requester may read a register that is no mailbox's: firmware, the debug interface and the manager every one, a partition its own and the time block (R501). -/
def Dev.mayRead (d : Dev) (who : Who) (r : Reg) (i : Nat) : Bool :=
  match whoPart who with
  | none => true
  | some p => timeRegs.contains r || d.regOwner r i == some p

/-- Whether a requester may write a register that is no mailbox's: where the register's chapter gives drivers, or the manager, a write access (R501). TIME_ registers are firmware's alone (R47). -/
def Dev.mayWrite (d : Dev) (who : Who) (r : Reg) (i : Nat) : Bool :=
  match who with
  | .firmware => true
  | .debug => !timeRegs.contains r
  | .fn .. =>
    match r with
    | .clsPartCfg | .clsPartWtbl | .clsPartStat | .clsMissTimeout | .clsHashKey | .clsHashSel | .clsFlowSel | .clsInd
    | .clsUpdData | .clsUpdCmd | .clsUpdStat | .schUpdData | .schUpdCmd | .cntWinCfg0 | .cntWinCfg1 | .cntWinCfg2 | .cntWinCfg3 =>
      (match d.regOwner r i with | some p => d.mayDrive who p | none => false)
    | .ringSqBase | .ringSqCfg | .ringSqPoll | .ringSqCons | .ringSqRoute | .ringSqInbox | .ringSqDb | .ringSqStat => d.mayRing who (d.sqSlice i)
    | .ringCqBase | .ringCqCfg | .ringCqHead | .ringCqIrq | .ringCqStat => d.mayRing who (d.cqSlice i)
    | .hostIntxPend => d.ownFn who (i / 64 / 9) (i / 64 % 9)
    | .hostWinStg | .hostWinCtl => d.isManager who
    | _ => false

/-! ## Stored values (R7, R8) -/

/-- The bits of a register that software writes which are no reserved bits. -/
def rwMask (r : Reg) : Nat :=
  match r with
  | .coreCfg => 0xF
  | .coreBkpt => 0x7FFFF9
  | .coreSupv => 0x800001FF
  | .coreDbgPart => 3
  | .lock => 0x3FF000103FF
  | .clsPartCfg => 0x1FFFFFF
  | .clsInd => 0x3FFFF
  | .schTxqDrr => 0xF1FFFFF
  | .schTxqAtt => 0x8FFF9FFF
  | .schTxqLim => 0xFFFF
  | .schShpRate | .schPolRate => 0xFFFFFFF
  | .schShpBurst | .schPolBurst => 0x7FFFFF
  | .schShpParent => 0x9FFF
  | .schIngPol => 0x8FFF
  | .keyHoldQ => 0x1FFF
  | .ringSqBase | .ringCqBase => 0xFFFFFFFFFFFFF000
  | .ringSqPoll => 0x3FFFF
  | .ringSqCons => 0xFFFFFFFFFFFFFFFC
  | .ringSqRoute => 0xFFFF
  | .ringSqInbox => 0xFFFFFFFFFFFC0
  | .ringSqSvc => 0x1F
  | _ => if r.info.bytes = 8 then 2 ^ 64 - 1 else 2 ^ 32 - 1

/-- The fields with a range of a register that software writes. -/
def rwFields (r : Reg) : List FieldDef :=
  match r with
  | .coreQuietLimit => [⟨0, 32, .num 0 10000000⟩]
  | .coreClaimLease => [⟨0, 32, .num 0 1000000⟩]
  | .clsMissTimeout => [⟨0, 32, .num 1 100⟩]
  | .clsGrp => [⟨12, 20, .num 1 1000⟩]
  | .schTxqDrr => [⟨0, 21, .num 64 1048576⟩]
  | .schTxqLim => [⟨0, 16, .num 1 65535⟩]
  | .schShpRate | .schPolRate => [⟨0, 28, .num 0 25600000⟩]
  | .schShpBurst | .schPolBurst => [⟨0, 23, .num 64 8388607⟩]
  | .keyHoldQ => [⟨0, 13, .num 0 4096⟩]
  | .ringSqPoll => [⟨0, 18, .num 4 250000⟩]
  | .ringSqRoute => [⟨10, 5, .num 0 29⟩]
  | .ringSqInbox => [⟨48, 4, .num 2 12⟩]
  | .ringCqIrq => [⟨12, 9, .num 1 256⟩, ⟨21, 11, .num 0 1000⟩]
  | _ => []

/-- An RW register is written: reserved bits are left out, a field outside its range takes the nearest limit. -/
def Dev.rwStore (d : Dev) (r : Reg) (i v : Nat) : Dev :=
  d.setReg r i (BitVec.ofNat 64 ((rwFields r).foldl (fun (v : Nat) f =>
    match d.holdField r i v f with
    | some (_, u) => setFld v f.lo f.width u
    | none => v) (v &&& rwMask r)))

/-! ## Writes that act -/

/-- CORE_DBG_CTL: halt bits that change halt and resume their threads, step bits step them (R82, R89). -/
def Dev.dbgCtlWrite (d : Dev) (c v : Nat) : Dev :=
  ((threadsOf c).zip (List.range 9)).foldl (fun (d : Dev) (x : Nat × Nat) =>
    let t := Fin.ofNat 576 x.1
    let halt := nbit v x.2
    let d := if halt = d.rb .coreDbgCtl c x.2 then d else runOn (if halt then execDebugHalt t else execDebugResume t) d
    if nbit v (16 + x.2) then runOn (execDebugStep t) d else d) d

/-- CLS_UPD_CMD: the operation named by [3:0] (R159, R177). An operation code that names none fails with BAD_FIELD, as a reserved value of the command (DEDUCED). -/
def Dev.clsUpdWrite (d : Dev) (p e v : Nat) : Dev :=
  let p := Fin.ofNat 8 p
  let e := Fin.ofNat 4 e
  let t := BitVec.ofNat 8 (fld v 4 8)
  let k := BitVec.ofNat 15 (fld v 12 15)
  runOn (match fld v 0 4 with
    | 1 => execRuleWrite p e k
    | 2 => execRuleDisable p e k
    | 3 => execRuleRead p e k
    | 4 => execExactInsert p e t
    | 5 => execExactDelete p e t
    | 6 => execExactRead p e t
    | 7 => execCtxWrite p e k
    | 8 => execCtxResync p e k
    | _ => clsUpd p.val e.val (fun d => d.updDone e.val p.val 3)) d

/-- SCH_UPD_CMD: the operation named by [3:0] (R203, R204). -/
def Dev.schUpdWrite (d : Dev) (p m v : Nat) : Dev :=
  let p := Fin.ofNat 8 p
  let m := Fin.ofNat 2 m
  let k := BitVec.ofNat 16 (fld v 4 16)
  let full := nbit v 20
  runOn (match fld v 0 4 with
    | 1 => execQueueSet p m k
    | 2 => execQueueRead p m k
    | 3 => execQueueFlush p m k
    | 4 => execShaperSet p m k full
    | 5 => execShaperRead p m k
    | 6 => execPolicerSet p m k full
    | 7 => execPolicerRead p m k
    | 8 => execIngPolSet p m k
    | _ => schUpd p.val m.val (fun _ => .fail 3)) d

/-- HOST_WIN_STG: while a commit's copy runs the write is ignored (R302). -/
def Dev.winStage (d : Dev) (e v : Nat) : Dev :=
  let k := e / 256
  if d.rb .hostWinStat k 0 then d.setRb .hostWinStat k 1 true
  else (d.setRb .hostWinStat k 1 false).setReg .hostWinStg e (BitVec.ofNat 64 v)

/-- HOST_WIN_CTL (R302). -/
def Dev.winCtl (d : Dev) (k v : Nat) : Dev :=
  if nbit v 0 then d.winCommit (k / 9) (k % 9)
  else if d.rb .hostWinStat k 0 then d.setRb .hostWinStat k 1 true
  else d.setRb .hostWinStat k 1 false

/-- A configuration register's running value is written under the checks of a commit, and takes effect as one (R8, R466, R371). -/
def Dev.runningWrite (d : Dev) (isl off n v : Nat) : Dev :=
  let e := (d.confWord isl off (v % 2 ^ 32)).1
  let e := if n = 8 then (e.confWord isl (off + 4) (v / 2 ^ 32)).1 else e
  d.commitRegs e

/-- `n` bytes of value `v` are written from byte `byte` of a register, under its access code (R8) or as the register's own rule says. -/
def Dev.regEffect (d : Dev) (isl off : Nat) (r : Reg) (i byte n v : Nat) : Dev :=
  let old := (d.reg r i).toNat
  let new := setFld old (8 * byte) (8 * n) v
  let ones := v % 2 ^ (8 * n) * 2 ^ (8 * byte)
  match r with
  | .timeCtl => d.setReg r i (BitVec.ofNat 64 ((old ||| v) % 2 + v / 2 % 2 * 2))
  | .coreDbgCtl => d.dbgCtlWrite i v
  | .coreDbgStat => d.setReg r i (BitVec.ofNat 64 (old - (old &&& v &&& 0x30000)))
  | .clsUpdCmd => d.clsUpdWrite (i % 8) (i / 8) v
  | .schUpdCmd => d.schUpdWrite (i % 8) (i / 8) v
  | .ringSqCfg => d.sqCfgWrite i new
  | .ringCqCfg => d.cqCfgWrite i new
  | .ringSqDb => runOn (execRingSqDb .firmware (Fin.ofNat 16384 i)) d
  | .ringCqHead => runOn (execRingCqHead .firmware (Fin.ofNat 16384 i) (BitVec.ofNat 32 new)) d
  | .ringSqBase | .ringSqPoll | .ringSqCons | .ringSqRoute | .ringSqInbox => if d.rb .ringSqCfg i 0 then d else d.rwStore r i new
  | .ringCqBase | .ringCqIrq => if d.rb .ringCqCfg i 0 then d else d.rwStore r i new
  | .hostWinStg => d.winStage i new
  | .hostWinCtl => d.winCtl i v
  | .hostIntxPend => d.intxClear (i / 64 / 9) (i / 64 % 9) (i % 64) v
  | .cntWinCfg0 => d.winWrite i 0 v
  | .cntWinCfg1 => d.winWrite i 1 v
  | .cntWinCfg2 => d.winWrite i 2 v
  | .cntWinCfg3 => d.winWrite i 3 v
  | .schPolCfg => (d.runningWrite isl off n v).setRf .schPolCfg i 4 4 (fld v 4 4)
  | _ =>
    match r.info.acc with
    | .rw => d.rwStore r i new
    | .rwp => d.runningWrite isl off n v
    | .w1c => d.setReg r i (BitVec.ofNat 64 (old - (old &&& ones)))
    | .w1s => d.setReg r i (BitVec.ofNat 64 (old ||| ones))
    | .ro | .rc | .wo => d

/-! ## Mailbox blocks (R348, R351, R354) -/

/-- A route as it is stored: a thread or group of the mailbox's partition, a vector in the endpoint's range, or none (R354). -/
def Dev.routeWord (d : Dev) (m : Nat) (e : MbxEnd) (v : Nat) : Nat :=
  let p := (d.mbx m).part
  let id := fld v 2 11
  let ok := match fld v 0 2 with
    | 1 => decide (2 ≤ m) && d.partOf id == some p && decide (id < 576) && decide (fld v 13 5 < 30)
    | 2 => decide (2 ≤ m) && d.groupOk p id && decide (fld v 13 5 < 30)
    | 3 => e.kind != 3 || (decide (d.rf .slcVec e.id 0 11 ≤ id) && decide (id ≤ d.rf .slcVec e.id 0 11 + d.rf .slcVec e.id 16 12))
    | _ => false
  if ok then v % 2 ^ 18 else 0

/-- MBX_ROUTE_b: the owner of the bit writes its route; firmware writes every route (R354, R357). -/
def Dev.routeWrite (d : Dev) (who : Who) (m b v : Nat) : Dev :=
  let e := if b < 30 then d.rcvEnd m else d.sndEnd m
  let own := who == .firmware || who == .debug || d.isEnd who e
  if !d.mbxValid m || !own then (d.mbxDenied who).denyWrite who
  else if 30 ≤ b && d.isEnd who e && d.rxDown m then d.denyWrite who
  else d.setReg .mbxRoute (32 * m + b) (BitVec.ofNat 64 (d.routeWord m e v))

/-- A 4-byte write to a register of a mailbox. A register that is RO to both sides takes no side's write. -/
def Dev.mbxWrite (d : Dev) (who : Who) (r : Reg) (i v : Nat) : Dev :=
  let m := Fin.ofNat 8192 i
  let w := BitVec.ofNat 32 v
  match r with
  | .mbxTxPtr0 | .mbxTxPtr1 | .mbxTxLen => d.sndWrite who i (fun d => d.setReg r i (BitVec.ofNat 64 v))
  | .mbxSend => runOn (execMbxSend who m) d
  | .mbxDbRing => runOn (execMbxDbRing who m w) d
  | .mbxDbPend => runOn (execMbxDbPend who m w) d
  | .mbxDbMask => runOn (execMbxDbMask who m w) d
  | .mbxStat => runOn (execMbxStatWrite who m w) d
  | .mbxRoute => d.routeWrite who (i / 32) (i % 32) v
  | _ => if who = .firmware ∨ who = .debug then d else (d.mbxDenied who).denyWrite who

/-- A read of a register of a mailbox by its endpoints, firmware or the debug interface: R348; a sender whose receiver is down reads nothing (R351). -/
def Dev.mbxWord (d : Dev) (who : Who) (r : Reg) (i : Nat) : Option Word × Dev :=
  let m := if r = .mbxRoute then i / 32 else i
  let snd := d.isEnd who (d.sndEnd m)
  let rcv := d.isEnd who (d.rcvEnd m)
  let own := who == .firmware || who == .debug
  if r = .mbxRxPtr0 then d.rxPtrRead who m
  else if !(own || d.mbxValid m && (rcv || snd && r != .mbxRxPtr1 && r != .mbxRxLen)) then (none, (d.mbxDenied who).denyRead who)
  else if !own && snd && !rcv && d.rxDown m then (none, d.denyRead who)
  else (some (d.regNow r i), d)

/-! ## Counters (R429, R431, R448) -/

/-- A counter or its snapshot copy. -/
inductive CtrAt where
  | ev (e : Nat)
  | prog (k : Nat)
  | slot (k : Nat)
  | evSnap (e : Nat)
  | progSnap (k : Nat)
  | slotSnap (k : Nat)
  deriving DecidableEq, Repr

/-- The counter at an offset of an island's register space. -/
def ctrAt (isl off : Nat) : Option CtrAt :=
  let within := fun (lo n : Nat) => decide (lo ≤ off) && decide (off < lo + n)
  let prog := fun (lo : Nat) => (off - lo) / 0x1000 * 512 + (off - lo) % 0x1000 / 8
  if within 0x6000000 40960 then (if evHome ((off - 0x6000000) / 8) = isl then some (.ev ((off - 0x6000000) / 8)) else none)
  else if within 0x6080000 40960 then (if evHome ((off - 0x6080000) / 8) = isl then some (.evSnap ((off - 0x6080000) / 8)) else none)
  else if isl = 0 && within 0x6100000 0x8000 then some (.prog (prog 0x6100000))
  else if isl = 0 && within 0x6180000 0x8000 then some (.progSnap (prog 0x6180000))
  else if 2 ≤ isl && isl ≤ 5 && within 0x6200000 0x4000 then
    let tid := 128 * (isl - 2) + (off - 0x6200000) / 0x80
    let o := off % 0x80
    if o < 40 then some (.slot (5 * tid + o / 8)) else if 0x40 ≤ o && o < 0x68 then some (.slotSnap (5 * tid + (o - 0x40) / 8)) else none
  else none

/-- The value a counter reads as. -/
def Dev.ctrValue (d : Dev) (c : CtrAt) : Word :=
  match c with
  | .ev e => d.counter e
  | .prog k => tabGet d.cnt.prog 0 k
  | .slot k => if k % 5 = 0 then tabGet d.cnt.slot 0 k else tabGet d.cnt.slotLatch 0 k
  | .evSnap e => tabGet d.cnt.snap.ctrs 0 e
  | .progSnap k => tabGet d.cnt.snap.progs 0 k
  | .slotSnap k => tabGet d.cnt.snap.slots 0 k

/-- A word of a counter: the low word of a 4-byte read latches the high word, which a later read returns (R429). A read of a retired counter latches its thread's other four (R431). Only the manager, through its primary function, firmware and the debug interface read counters (R448). -/
def Dev.ctrWord (d : Dev) (who : Who) (c : CtrAt) (high whole : Bool) : Option Word × Dev :=
  if !d.isManager who then (none, d.denyRead who)
  else
    let d := match c with
      | .slot k => if k % 5 = 0 && !high then d.retiredRead (k / 5) else d
      | _ => d
    let v := d.ctrValue c
    if whole then (some (BitVec.ofNat 64 (if high then v.toNat / 2 ^ 32 else v.toNat % 2 ^ 32)), d)
    else if high then (some ((tabGet d.cnt.hiLatch 0 (latchKey who)).setWidth 64), d)
    else let (w, d) := d.lowRead who v; (some w, d)

/-! ## Reads -/

/-- The partition blocks of the classifier stand at the same offsets in the port and engine islands, and mirror each other (R177); the model keeps them at P0. -/
def blockIsl (isl off : Nat) : Nat := if 0x740000 ≤ off && off < 0x780000 && 2 ≤ isl && isl ≤ 7 then 6 else isl

/-- The 4-byte word at an offset of an island's register space, as a requester reads it: nothing where the read is denied, and the device after it. -/
def Dev.regWord (d : Dev) (who : Who) (isl off : Nat) (whole : Bool) : Option Word × Dev :=
  match ctrAt isl off with
  | some c => d.ctrWord who c (off / 4 % 2 == 1) whole
  | none =>
    match regAt (blockIsl isl off) off with
    | none => (some 0, d)
    | some (r, i, byte) =>
      if mbxRegs.contains r then
        let (v, d) := d.mbxWord who r i
        (v.map (fun w => BitVec.ofNat 64 (w.toNat % 2 ^ 32)), d)
      else if !d.mayRead who r i then (none, d.denyRead who)
      else
        let d := if r = .timeNow0 then d.timeLatch i else d
        let v := (d.regNow r i).toNat
        let w := some (BitVec.ofNat 64 (v / 2 ^ (8 * byte) % 2 ^ 32))
        if r = .cntWinVal && !whole then
          if byte = 0 then let (x, d) := d.lowRead who (BitVec.ofNat 64 v); (some x, d)
          else (some ((tabGet d.cnt.hiLatch 0 (latchKey who)).setWidth 64), d)
        else if r.info.acc = .rc then (w, d.setReg r i 0)
        else (w, d)

/-- A naturally aligned read of 4 or 8 bytes of register space (R8, R501). -/
def Dev.regRead (d : Dev) (who : Who) (isl off : Nat) (eight : Bool) : Option Word × Dev :=
  if !eight then d.regWord who isl off false
  else match regAt isl off with
    | some (.mbxRxPtr0, i, 0) => d.rxPtrRead who i
    | _ =>
      match d.regWord who isl off true with
      | (none, e) => (none, e)
      | (some lo, e) =>
        match e.regWord who isl (off + 4) true with
        | (none, _) => (none, d.denyRead who)
        | (some hi, e) => (some (BitVec.ofNat 64 (lo.toNat + hi.toNat * 2 ^ 32)), e)

/-! ## Writes -/

/-- One write of 4 bytes, or of 8 to an 8-byte register, at an offset of an island's register space; nothing where it is denied. A write to a reserved register, to a counter, or to bits with no register is ignored (R7). -/
def Dev.regPut (d : Dev) (who : Who) (isl off n v : Nat) : Option Dev :=
  match regAt (blockIsl isl off) off with
  | none => if (ctrAt isl off).isSome && !d.isManager who then none else some d
  | some (r, i, byte) =>
    if mbxRegs.contains r then some (d.mbxWrite who r i v)
    else if !d.mayWrite who r i then none
    else some (d.regEffect (blockIsl isl off) off r i byte n v)

/-- Whether an offset starts an 8-byte register. -/
def wideAt (isl off : Nat) : Bool :=
  match regAt (blockIsl isl off) off with
  | some (r, _, byte) => r.info.bytes == 8 && byte == 0
  | none => false

/-- A naturally aligned write of 4 or 8 bytes of register space: an 8-byte write to two registers writes the lower one first; a denied one changes nothing (R8, R501). -/
def Dev.regWrite (d : Dev) (who : Who) (isl off : Nat) (eight : Bool) (v : Word) : Dev :=
  let lo := v.toNat % 2 ^ 32
  let done := if !eight then d.regPut who isl off 4 lo
    else if wideAt isl off then d.regPut who isl off 8 v.toNat
    else (d.regPut who isl off 4 lo).bind (fun d => d.regPut who isl (off + 4) 4 (v.toNat / 2 ^ 32))
  match done with
  | some d => d
  | none => d.denyWrite who

/-- Whether an offset and a width are naturally aligned (R303). -/
def aligned (off : Nat) (eight : Bool) : Bool := if eight then off % 8 == 0 else off % 4 == 0

/-- REGISTER_WRITE: a write of register space (R8, R501). One that is not naturally aligned is refused. -/
def execRegisterWrite (who : Who) (isl : Fin 8) (off : Nat) (eight : Bool) (v : Word) (s : State) : Out :=
  eventOn (fun d => if aligned off eight then d.regWrite who isl.val off eight v else d.denyWrite who) s

/-- REGISTER_READ_CLEAR: a read of an RC register returns its value and clears it (R8). -/
def execRegisterReadClear (who : Who) (isl : Fin 8) (off : Nat) (s : State) : Out :=
  eventOn (fun d =>
    if !aligned off false then d.denyRead who
    else match d.regRead who isl.val off false with
      | (some v, e) => e.emit (.readValue isl.val off v)
      | (none, e) => e) s

end Sys2Proof.Machine
end

