-- ==== Sys2Proof/Machine/Inbound.lean ====
section
/-! DEFINITION. Machine/Inbound.lean: what the host asks of the device: memory requests to the BARs and configuration requests (R298 to R303 of 08_host_endpoint.md, R454 of 13_startup_and_configuration.md). -/
namespace Sys2Proof.Machine
open Sys2Proof

/-! ## Memory requests (R300 to R303) -/

/-- One page's part of a request: its window entry, the internal address and the length. -/
structure Piece where
  entry : Word
  addr : Nat
  len : Nat
  deriving DecidableEq, Repr

/-- The parts of a request to BAR0 or BAR2: two where it crosses a page (R301, R302). Nothing where it lies outside the BAR. -/
def Dev.pieces (d : Dev) (h f bar off len : Nat) : Option (List Piece) :=
  let first := if bar = 0 then 0 else 128
  let z := if bar = 0 then 16 else (d.fn h f).bar2Log
  if bar ≠ 0 ∧ bar ≠ 2 ∨ 128 * 2 ^ z < off + len then none
  else
    let at_ := fun (o n : Nat) =>
      let w := d.reg .hostWinAct (256 * fnKey h f + first + o / 2 ^ z)
      (⟨w, wf w 16 32 * 65536 + o % 2 ^ z, n⟩ : Piece)
    let room := 2 ^ z - off % 2 ^ z
    some (if len ≤ room then [at_ off len] else [at_ off room, at_ (off + room) (len - room)])

/-- For whom an inbound access acts at the target (R501). -/
def inboundDom (f : Nat) : Dom := if f = 0 then .manager else .part (f - 1)

/-- The parts of an access in memory: what the target answers, the worst answer of all parts. -/
def Dev.checkPieces (d : Dev) (f : Nat) (ps : List Piece) : MemChk :=
  let cs := ps.map (fun p => d.checkMem (inboundDom f) p.addr p.len)
  if cs.contains .decode then .decode else if cs.contains .denied then .denied else .ok

/-- Inbound bytes reach internal memory; in duplex an island memory of a pair on both islands (R412). -/
def Dev.inboundStore (d : Dev) (a : Nat) (bs : List Byte) : Dev :=
  match (List.range 8).find? (fun p => d.inDuplex p && d.checkMem (.part p) a bs.length == .ok) with
  | some p => d.writeDup p a bs
  | none => d.write a bs

/-- A request that is refused as unsupported: a read is answered, a write is discarded and logged (R303). -/
def Dev.inboundUr (d : Dev) (r : Inbound) : Dev :=
  let d := d.aer r.h.val r.f.val .unsupported
  if r.write then d else (d.emit (.unsupported r.h.val r.f.val)).count (evHost r.h.val 7)

/-- A request that is refused by Completer Abort: a read is answered, a write is discarded and logged (R303). -/
def Dev.inboundCa (d : Dev) (r : Inbound) : Dev :=
  if r.write then d.denyWrite (.fn r.h r.f) else d.denyRead (.fn r.h r.f)

/-- A naturally aligned request to register space: a denied read has been answered where it was denied. -/
def Dev.inboundReg (d : Dev) (r : Inbound) (isl off : Nat) : Dev :=
  let who := Who.fn r.h r.f
  let eight := r.len == 8
  if r.write then
    if r.poisoned then d.aer r.h.val r.f.val .poisoned
    else d.regWrite who isl off eight (BitVec.ofNat 64 (leAt r.data 0 r.len))
  else match d.regRead who isl off eight with
    | (some v, e) => if r.ecc then e.emit (.poisonedCpl r.h.val r.f.val) else e.emit (.completion r.h.val r.f.val (leBytes r.len v.toNat))
    | (none, e) => e

/-- A request to memory through its parts. -/
def Dev.inboundMem (d : Dev) (r : Inbound) (ps : List Piece) : Dev :=
  let h := r.h.val
  let f := r.f.val
  match d.checkPieces f ps with
  | .decode =>
    let bad := (ps.find? (fun p => d.checkMem (inboundDom f) p.addr p.len == .decode)).map (·.addr)
    (d.raiseDecode 1 (whoPart (.fn r.h r.f)) (bad.getD 0)).inboundCa r
  | .denied => d.inboundCa r
  | .ok =>
    if !r.write then
      if r.ecc then d.emit (.poisonedCpl h f) else d.emit (.completion h f (ps.flatMap (fun p => d.read p.addr p.len)))
    else if r.poisoned then d.aer h f .poisoned
    else
      (ps.foldl (fun (x : Dev × List Byte) p => (x.1.inboundStore p.addr (x.2.take p.len), x.2.drop p.len)) (d, r.data)).1

/-- A request to BAR0 or BAR2 through the window table, by the conditions of R303 in their order. -/
def Dev.inboundWindow (d : Dev) (r : Inbound) (len : Nat) : Dev :=
  match d.pieces r.h.val r.f.val r.bar r.off len with
  | none => d.inboundUr r
  | some ps =>
    let may := fun (p : Piece) => if r.write then wbit p.entry 2 && (r.f.val != 0 || d.isManager (.fn r.h r.f)) else wbit p.entry 1
    if !ps.all (fun p => wbit p.entry 0) then d.inboundUr r
    else if !ps.all may then ((d.raiseFree 1154 1 (whoPart (.fn r.h r.f))).count (evHost r.h.val 9)).inboundCa r
    else match ps with
      | [p] => match d.region p.addr p.len with
        | some (.regs isl off) => if (len = 4 ∨ len = 8) ∧ off % len = 0 then d.inboundReg r isl off else d.inboundCa r
        | _ => d.inboundMem r ps
      | _ => if ps.any (fun p => match d.region p.addr p.len with | some (.regs ..) => true | _ => false) then d.inboundCa r else d.inboundMem r ps

/-! ## The MSI-X structures in BAR4 (R300, R310) -/

/-- A byte of BAR4: the table with its mask bits, the pending bits, zeros. -/
def Dev.bar4Byte (d : Dev) (h f o : Nat) : Byte :=
  let x := d.fn h f
  if o < 0x8000 then
    if o % 16 = 12 then BitVec.ofNat 8 (b2n (!x.unmasked.contains (o / 16))) else tabGet x.msixTable 0 o
  else if o < 0x8100 then BitVec.ofNat 8 ((List.range 8).foldl (fun a k => a + b2n (x.pba.contains (8 * (o - 0x8000) + k)) * 2 ^ k) 0)
  else 0

/-- A byte of the MSI-X table is written: in a vector control word only the mask bit exists. The pending bits take no write. -/
def Dev.bar4Put (d : Dev) (h f o : Nat) (b : Byte) : Dev :=
  if 0x8000 ≤ o then d
  else if o % 16 = 12 then
    let v := o / 16
    d.updFn h f (fun x =>
      let rest := x.unmasked.filter (· != v)
      { x with unmasked := if b.getLsbD 0 then rest else rest ++ [v] })
  else if 12 < o % 16 then d
  else d.updFn h f (fun x => { x with msixTable := tabPut x.msixTable 0 o b })

/-- A request to BAR4; what a write unmasks is sent (R310). -/
def Dev.inboundMsix (d : Dev) (r : Inbound) (len : Nat) : Dev :=
  let h := r.h.val
  let f := r.f.val
  if 0x10000 < r.off + len then d.inboundUr r
  else if !r.write then d.emit (.completion h f ((List.range len).map (fun k => d.bar4Byte h f (r.off + k))))
  else if r.poisoned then d.aer h f .poisoned
  else ((r.data.zip (List.range len)).foldl (fun (d : Dev) (x : Byte × Nat) => d.bar4Put h f (r.off + x.2) x.1) d).sendPending h f

/-- INBOUND_REQUEST: R303; until firmware serves commands every request is discarded as unsupported (R454). A request to a function that a port does not present, or over a link that is down, does not arrive. -/
def execInboundRequest (r : Inbound) (s : State) : Out :=
  eventOn (fun d =>
    let h := r.h.val
    let f := r.f.val
    let len := if r.write then r.data.length else r.len
    let r := { r with len := len }
    if !d.fnExists h f || !d.linkUp h then d
    else
      let d := d.wakeLink h
      if !d.fw.serving || d.d3 h f || !(d.fn h f).mse then d.inboundUr r
      else if r.bar = 4 then d.inboundMsix r len
      else d.inboundWindow r len) s

/-! ## Configuration requests (R298, R299, R454) -/

/-- The Command register as the function holds it: Memory Space Enable, Bus Master Enable, Interrupt Disable (the bit places are the PCI standard's: log entry 13). -/
def Dev.pciCommand (d : Dev) (h f : Nat) : Nat :=
  2 * b2n (d.fn h f).mse + 4 * b2n (d.bme h f) + 1024 * b2n (d.fn h f).intxDis

/-- The identity words of a function's configuration space (R298). -/
def Dev.cfgWord (d : Dev) (h f off : Nat) : Option W32 :=
  let ids := (tabGet d.fw.pciIds 0 h).toNat
  match off with
  | 0x00 => some (BitVec.ofNat 32 (Config.vendorId.toNat + (if f = 0 then 0x8640 else 0x8641) * 2 ^ 16))
  | 0x04 => some (BitVec.ofNat 32 (d.pciCommand h f + 2 ^ 20 + b2n (d.intaOn h f) * 2 ^ 19))
  | 0x08 => some (BitVec.ofNat 32 (0xB1 + (if f = 0 then 0x120000 else 0x028000) * 2 ^ 8))
  | 0x2C => some (BitVec.ofNat 32 (ids / (if f = 0 then 1 else 2 ^ 32)))
  | _ => none

/-- A write of the Command register: the enables it changes take their effects (R303, R310 to R312). -/
def Dev.commandWrite (d : Dev) (h f : Nat) (w : W32) : Dev :=
  let x := d.fn h f
  let d := d.setFn h f { x with mse := w.getLsbD 1 }
  let on := w.getLsbD 2
  let d := if on = d.bme h f then d
    else
      let e := d.setRb .hostFnStat (fnKey h f) 28 on
      if on then e.masterOn h f else e.masterOff h f
  let y := d.fn h f
  d.irqEnables h f ⟨y.msixEn, y.fnMask, y.msiEn, y.msiCount, y.msiMask, w.getLsbD 10⟩

/-- CONFIG_REQUEST: a read, or a write of a value, of a word of configuration space (R298, R454). A word whose place the spec does not give reads as a free value; a write to it is the standard's and changes nothing here. -/
def execConfigRequest (h : Fin 8) (f : Fin 9) (off : BitVec 12) (w : Option W32) (s : State) : Out :=
  eventOn (fun d =>
    let o := off.toNat / 4 * 4
    if !d.fnExists h.val f.val || !d.linkUp h.val then d
    else if !d.fw.serving then d.emit (.retryStatus h.val f.val)
    else match w with
      | some w => if o = 4 then d.commandWrite h.val f.val w else d
      | none => match d.cfgWord h.val f.val o with
        | some v => d.emit (.cfgValue h.val f.val o v)
        | none =>
          let (v, d) := d.fresh
          d.emit (.cfgValue h.val f.val o (v.setWidth 32))) s

end Sys2Proof.Machine
end

