-- ==== Sys2Proof/Machine/Tick.lean ====
section
/-! DEFINITION. Machine/Tick.lean: what one tick of the device clock does with no command: device time, credits, store queues, and the counters of ticks (R3 of 00_scope.md, R21, R67, R79, R259, R304, R328, R428). Log entry 4. -/
namespace Sys2Proof.Machine
open Sys2Proof

/-- A ring of host port `h` waits for a tag: its fetch read is due, or a TX frame waits to be read (R304). -/
def Dev.ringWaits (d : Dev) (h n : Nat) : Bool :=
  match d.sqSlice n with
  | some s =>
    let due := d.fetchOn n && d.fetchDue n || d.sqKind n == 1 && !(d.sq n).entries.isEmpty && (d.sq n).reading.isNone && !d.txBlocked n
    d.slicePort s == h && due && d.sliceIssues s && !d.tagFree h (d.sliceFn s)
  | none => false

/-- A channel's transfer waits for a tag of host port `h`: a burst from host memory, or its read-back (R304, R305). -/
def Dev.chanWaits (d : Dev) (h ch : Nat) : Bool :=
  match (d.chan ch).xfer, d.chanPart ch with
  | some x, some p =>
    (match d.chanSlice ch p with
      | some (_, g) =>
        let burst := d.chMode ch 0 1 == 1 && x.stage == .moving && decide (x.issued < x.cnt)
        let back := x.stage == .readback && (d.tagFor (.readback ch)).isNone
        g.port == h && (burst || back) && d.canIssue h (p + 1) && !d.tagFree h (p + 1)
      | none => false)
  | _, _ => false

/-- Some requester of a host port waits for a tag. -/
def Dev.tagWaits (d : Dev) (h : Nat) : Bool :=
  d.dma.sq.any (fun (e : Nat × SqSt) => d.ringWaits h e.1) || d.dma.chans.any (fun (e : Nat × Chan) => d.chanWaits h e.1)

/-- The counters of ticks: the staging area of an island full, a host port with a requester that waits for a tag, a link whose tags are all in use (R428). -/
def Dev.countTick (d : Dev) : Dev :=
  let d := (List.range 4).foldl (fun (d : Dev) e => if d.rf .dmaIslCfg e 16 12 ≤ d.rf .dmaIslStat e 0 12 then d.count (evE (e + 2) 389) else d) d
  let d := (List.range 8).foldl (fun (d : Dev) h => if d.tagWaits h then d.count (evHost h 10) else d) d
  (List.range 2).foldl (fun (d : Dev) l => if 8192 ≤ d.tagsWhere (fun r => r.h / 4 == l) then d.count (897 + 32 * l) else d) d

/-- Every thread's oldest queued store is delivered (R67). -/
def Dev.drainStores (d : Dev) : Dev :=
  (d.thr.map (fun (e : Nat × Thread) => e.1)).foldl (fun (d : Dev) t => d.drainOne t) d

/-- One tick: what the running device does, then device time. Without VIN only the count of ticks goes on. -/
def Dev.tick (d : Dev) : Dev :=
  let d := if d.live then d.creditTick.drainStores.holdTick.quietTick.countTick else d
  let now := if d.life.vin then d.time.now + d.rf .timeAddend 0 0 32 else d.time.now
  { d with time := { d.time with now := now, tick := d.time.tick + 1 } }

/-- A tick of the machine on an empty queue: an open bundle closes. -/
def tickStep (s : State) : State := { s with dev := s.dev.tick, bundle := none }

end Sys2Proof.Machine
end

