-- ==== Sys2Proof/Machine/Dispatch.lean ====
section
/-! DEFINITION. Machine/Dispatch.lean: every command's meaning, by its constructor. -/
namespace Sys2Proof.Machine
open Sys2Proof

def exec (i : Instr) (s : State) : Host.Outcome State Fault Refusal :=
  match i with
  | .add ix rd ra rb => Sys2Proof.Machine.execAdd ix rd ra rb s
  | .sub ix rd ra rb => Sys2Proof.Machine.execSub ix rd ra rb s
  | .and ix rd ra rb => Sys2Proof.Machine.execAnd ix rd ra rb s
  | .or ix rd ra rb => Sys2Proof.Machine.execOr ix rd ra rb s
  | .xor ix rd ra rb => Sys2Proof.Machine.execXor ix rd ra rb s
  | .andn ix rd ra rb => Sys2Proof.Machine.execAndn ix rd ra rb s
  | .shl ix rd ra rb => Sys2Proof.Machine.execShl ix rd ra rb s
  | .shr ix rd ra rb => Sys2Proof.Machine.execShr ix rd ra rb s
  | .sar ix rd ra rb => Sys2Proof.Machine.execSar ix rd ra rb s
  | .min ix rd ra rb => Sys2Proof.Machine.execMin ix rd ra rb s
  | .max ix rd ra rb => Sys2Proof.Machine.execMax ix rd ra rb s
  | .minu ix rd ra rb => Sys2Proof.Machine.execMinu ix rd ra rb s
  | .maxu ix rd ra rb => Sys2Proof.Machine.execMaxu ix rd ra rb s
  | .addi ix rd ra imm => Sys2Proof.Machine.execAddi ix rd ra imm s
  | .andi ix rd ra imm => Sys2Proof.Machine.execAndi ix rd ra imm s
  | .ori ix rd ra imm => Sys2Proof.Machine.execOri ix rd ra imm s
  | .xori ix rd ra imm => Sys2Proof.Machine.execXori ix rd ra imm s
  | .shli ix rd ra n => Sys2Proof.Machine.execShli ix rd ra n s
  | .shri ix rd ra n => Sys2Proof.Machine.execShri ix rd ra n s
  | .sari ix rd ra n => Sys2Proof.Machine.execSari ix rd ra n s
  | .movi ix rd imm => Sys2Proof.Machine.execMovi ix rd imm s
  | .movsh ix rd imm => Sys2Proof.Machine.execMovsh ix rd imm s
  | .mul ix rd ra rb => Sys2Proof.Machine.execMul ix rd ra rb s
  | .mulhu ix rd ra rb => Sys2Proof.Machine.execMulhu ix rd ra rb s
  | .mulhs ix rd ra rb => Sys2Proof.Machine.execMulhs ix rd ra rb s
  | .bfx ix rd ra pos wm1 => Sys2Proof.Machine.execBfx ix rd ra pos wm1 s
  | .bfxs ix rd ra pos wm1 => Sys2Proof.Machine.execBfxs ix rd ra pos wm1 s
  | .bfi ix rd ra pos wm1 => Sys2Proof.Machine.execBfi ix rd ra pos wm1 s
  | .bfxw ix rd w pos wm1 => Sys2Proof.Machine.execBfxw ix rd w pos wm1 s
  | .cmp ix cond pd ra rb => Sys2Proof.Machine.execCmp ix cond pd ra rb s
  | .cmpi ix cond pd ra imm => Sys2Proof.Machine.execCmpi ix cond pd ra imm s
  | .plog ix op pd pa pb => Sys2Proof.Machine.execPlog ix op pd pa pb s
  | .br ix off => Sys2Proof.Machine.execBr ix off s
  | .call ix off => Sys2Proof.Machine.execCall ix off s
  | .jr ix ra => Sys2Proof.Machine.execJr ix ra s
  | .ld ix sp sz rd ra off => Sys2Proof.Machine.execLd ix sp sz rd ra off s
  | .st ix sp sz rs ra off => Sys2Proof.Machine.execSt ix sp sz rs ra off s
  | .atomAdd ix sp sz rd ra rb => Sys2Proof.Machine.execAtomAdd ix sp sz rd ra rb s
  | .atomSwap ix sp sz rd ra rb => Sys2Proof.Machine.execAtomSwap ix sp sz rd ra rb s
  | .atomCas ix sp sz rd ra rb => Sys2Proof.Machine.execAtomCas ix sp sz rd ra rb s
  | .memResultReturn tid k reply => Sys2Proof.Machine.execMemResultReturn tid k reply s
  | .storeErrorResponse tid => Sys2Proof.Machine.execStoreErrorResponse tid s
  | .memTimeout tid k => Sys2Proof.Machine.execMemTimeout tid k s
  | .lkacq ix rd ra imm => Sys2Proof.Machine.execLkacq ix rd ra imm s
  | .lkrel ix ra imm => Sys2Proof.Machine.execLkrel ix ra imm s
  | .lockArbitrate lock who => Sys2Proof.Machine.execLockArbitrate lock who s
  | .lockReleaseArrive lock => Sys2Proof.Machine.execLockReleaseArrive lock s
  | .fence ix => Sys2Proof.Machine.execFence ix s
  | .tnow ix rd => Sys2Proof.Machine.execTnow ix rd s
  | .tnowh ix rd => Sys2Proof.Machine.execTnowh ix rd s
  | .tadd ix rd ra rb => Sys2Proof.Machine.execTadd ix rd ra rb s
  | .twait ix ra => Sys2Proof.Machine.execTwait ix ra s
  | .twaitExpire tid => Sys2Proof.Machine.execTwaitExpire tid s
  | .tset ix ra rb => Sys2Proof.Machine.execTset ix ra rb s
  | .tclr ix => Sys2Proof.Machine.execTclr ix s
  | .timerEv30Fire tid => Sys2Proof.Machine.execTimerEv30Fire tid s
  | .waitev ix rd ra => Sys2Proof.Machine.execWaitev ix rd ra s
  | .sigevT ix ra line => Sys2Proof.Machine.execSigevT ix ra line s
  | .sigevG ix ra line => Sys2Proof.Machine.execSigevG ix ra line s
  | .pktGet ix rd => Sys2Proof.Machine.execPktGet ix rd s
  | .pktSend ix ra rb => Sys2Proof.Machine.execPktSend ix ra rb s
  | .pktDrop ix ra => Sys2Proof.Machine.execPktDrop ix ra s
  | .wst ix w ra => Sys2Proof.Machine.execWst ix w ra s
  | .lkx ix rd ra table => Sys2Proof.Machine.execLkx ix rd ra table s
  | .lkw ix rd ra table => Sys2Proof.Machine.execLkw ix rd ra table s
  | .crc32c ix sz rd ra rb => Sys2Proof.Machine.execCrc32c ix sz rd ra rb s
  | .crc64 ix sz rd ra rb => Sys2Proof.Machine.execCrc64 ix sz rd ra rb s
  | .hash ix rd ra rb => Sys2Proof.Machine.execHash ix rd ra rb s
  | .submit ix rd ra unit => Sys2Proof.Machine.execSubmit ix rd ra unit s
  | .accpoll ix rd ra => Sys2Proof.Machine.execAccpoll ix rd ra s
  | .dclaim ix rd ra => Sys2Proof.Machine.execDclaim ix rd ra s
  | .claimArbitrate ch who => Sys2Proof.Machine.execClaimArbitrate ch who s
  | .dwr ix idx ra rb => Sys2Proof.Machine.execDwr ix idx ra rb s
  | .dstart ix rd ra => Sys2Proof.Machine.execDstart ix rd ra s
  | .drel ix ra => Sys2Proof.Machine.execDrel ix ra s
  | .dpoll ix rd ra => Sys2Proof.Machine.execDpoll ix rd ra s
  | .cinc ix ra n => Sys2Proof.Machine.execCinc ix ra n s
  | .snap ix rd => Sys2Proof.Machine.execSnap ix rd s
  | .mfsr ix rd sr => Sys2Proof.Machine.execMfsr ix rd sr s
  | .mtsr ix sr ra => Sys2Proof.Machine.execMtsr ix sr ra s
  | .tstart ix rd ra rb => Sys2Proof.Machine.execTstart ix rd ra rb s
  | .claimExpired tid ch => Sys2Proof.Machine.execClaimExpired tid ch s
  | .partitionQuiet p => Sys2Proof.Machine.execPartitionQuiet p s
  | .debugHalt tid => Sys2Proof.Machine.execDebugHalt tid s
  | .debugStep tid => Sys2Proof.Machine.execDebugStep tid s
  | .debugResume tid => Sys2Proof.Machine.execDebugResume tid s
  | .breakpointHit tid => Sys2Proof.Machine.execBreakpointHit tid s
  | .coreReset c => Sys2Proof.Machine.execCoreReset c s
  | .timeNow0Read isl => Sys2Proof.Machine.execTimeNow0Read isl s
  | .refclkQualified tenMHz => Sys2Proof.Machine.execRefclkQualified tenMHz s
  | .refLost => Sys2Proof.Machine.execRefLost s
  | .delayMeasure delays => Sys2Proof.Machine.execDelayMeasure delays s
  | .timeCheck isl upset => Sys2Proof.Machine.execTimeCheck isl upset s
  | .timeCtlStep => Sys2Proof.Machine.execTimeCtlStep s
  | .ptpMessageRx m => Sys2Proof.Machine.execPtpMessageRx m s
  | .announceTimeout => Sys2Proof.Machine.execAnnounceTimeout s
  | .ppsInEdge highOneUs spacingOk => Sys2Proof.Machine.execPpsInEdge highOneUs spacingOk s
  | .ppsInLost => Sys2Proof.Machine.execPpsInLost s
  | .freqInQualified => Sys2Proof.Machine.execFreqInQualified s
  | .freqInLost => Sys2Proof.Machine.execFreqInLost s
  | .holdoverSecond => Sys2Proof.Machine.execHoldoverSecond s
  | .ppsOutPulse => Sys2Proof.Machine.execPpsOutPulse s
  | .hwmUpdate => Sys2Proof.Machine.execHwmUpdate s
  | .clkSpreadApply => Sys2Proof.Machine.execClkSpreadApply s
  | .straitCrc st toLow again => Sys2Proof.Machine.execStraitCrc st toLow again s
  | .portLinkDown x inRx => Sys2Proof.Machine.execPortLinkDown x inRx s
  | .portLinkUp x => Sys2Proof.Machine.execPortLinkUp x s
  | .frameReceive x fr => Sys2Proof.Machine.execFrameReceive x fr s
  | .pauseExpire x c => Sys2Proof.Machine.execPauseExpire x c s
  | .preemptVerify x ok => Sys2Proof.Machine.execPreemptVerify x ok s
  | .classify f => Sys2Proof.Machine.execClassify f s
  | .flowMissReturn f => Sys2Proof.Machine.execFlowMissReturn f s
  | .clsMissTo f => Sys2Proof.Machine.execClsMissTo f s
  | .groupQueueAssign g => Sys2Proof.Machine.execGroupQueueAssign g s
  | .reorderTimeout f => Sys2Proof.Machine.execReorderTimeout f s
  | .fragHoldExpired f => Sys2Proof.Machine.execFragHoldExpired f s
  | .fragEntryFree m k => Sys2Proof.Machine.execFragEntryFree m k s
  | .txqEnqueue f => Sys2Proof.Machine.execTxqEnqueue f s
  | .frameTxComplete x => Sys2Proof.Machine.execFrameTxComplete x s
  | .gateTransition x => Sys2Proof.Machine.execGateTransition x s
  | .gateListSwitch x => Sys2Proof.Machine.execGateListSwitch x s
  | .shaperRefill m => Sys2Proof.Machine.execShaperRefill m s
  | .queueSet p m index => Sys2Proof.Machine.execQueueSet p m index s
  | .queueRead p m index => Sys2Proof.Machine.execQueueRead p m index s
  | .queueFlush p m index => Sys2Proof.Machine.execQueueFlush p m index s
  | .shaperSet p m index full => Sys2Proof.Machine.execShaperSet p m index full s
  | .shaperRead p m index => Sys2Proof.Machine.execShaperRead p m index s
  | .policerSet p m index full => Sys2Proof.Machine.execPolicerSet p m index full s
  | .policerRead p m index => Sys2Proof.Machine.execPolicerRead p m index s
  | .ingPolSet p m index => Sys2Proof.Machine.execIngPolSet p m index s
  | .ruleWrite p e index => Sys2Proof.Machine.execRuleWrite p e index s
  | .ruleDisable p e index => Sys2Proof.Machine.execRuleDisable p e index s
  | .ruleRead p e index => Sys2Proof.Machine.execRuleRead p e index s
  | .exactInsert p e table => Sys2Proof.Machine.execExactInsert p e table s
  | .exactDelete p e table => Sys2Proof.Machine.execExactDelete p e table s
  | .exactRead p e table => Sys2Proof.Machine.execExactRead p e table s
  | .ctxWrite p e index => Sys2Proof.Machine.execCtxWrite p e index s
  | .ctxResync p e index => Sys2Proof.Machine.execCtxResync p e index s
  | .engineAccept e fix => Sys2Proof.Machine.execEngineAccept e fix s
  | .engineOpStart op => Sys2Proof.Machine.execEngineOpStart op s
  | .engineOpComplete op => Sys2Proof.Machine.execEngineOpComplete op s
  | .keyBusTransfer e slot ok => Sys2Proof.Machine.execKeyBusTransfer e slot ok s
  | .keyDateCheck => Sys2Proof.Machine.execKeyDateCheck s
  | .ceilingWriteDone slot => Sys2Proof.Machine.execCeilingWriteDone slot s
  | .rngFail => Sys2Proof.Machine.execRngFail s
  | .handover ch => Sys2Proof.Machine.execHandover ch s
  | .burstReadIssue e => Sys2Proof.Machine.execBurstReadIssue e s
  | .burstReadData ch => Sys2Proof.Machine.execBurstReadData ch s
  | .readbackReturn ch => Sys2Proof.Machine.execReadbackReturn ch s
  | .transferError ch => Sys2Proof.Machine.execTransferError ch s
  | .dmaModeApply e => Sys2Proof.Machine.execDmaModeApply e s
  | .ringPoll n => Sys2Proof.Machine.execRingPoll n s
  | .ringSqDb who n => Sys2Proof.Machine.execRingSqDb who n s
  | .fetchReturn n => Sys2Proof.Machine.execFetchReturn n s
  | .rxDeliver f => Sys2Proof.Machine.execRxDeliver f s
  | .txFrameRead n => Sys2Proof.Machine.execTxFrameRead n s
  | .inboxDeliver n => Sys2Proof.Machine.execInboxDeliver n s
  | .ringCqHead who n v => Sys2Proof.Machine.execRingCqHead who n v s
  | .cqIrqTimer n => Sys2Proof.Machine.execCqIrqTimer n s
  | .ringSqCfgWrite who n v => Sys2Proof.Machine.execRingSqCfgWrite who n v s
  | .ringCqCfgWrite who n v => Sys2Proof.Machine.execRingCqCfgWrite who n v s
  | .hostLinkDown h => Sys2Proof.Machine.execHostLinkDown h s
  | .hostLinkUp h t => Sys2Proof.Machine.execHostLinkUp h t s
  | .hotReset h => Sys2Proof.Machine.execHotReset h s
  | .fundamentalReset h => Sys2Proof.Machine.execFundamentalReset h s
  | .functionLevelReset h f => Sys2Proof.Machine.execFunctionLevelReset h f s
  | .tagQuarantineRelease tag => Sys2Proof.Machine.execTagQuarantineRelease tag s
  | .busMasterEnableClear h f => Sys2Proof.Machine.execBusMasterEnableClear h f s
  | .busMasterEnableSet h f => Sys2Proof.Machine.execBusMasterEnableSet h f s
  | .d3hotEntry h f => Sys2Proof.Machine.execD3hotEntry h f s
  | .d3hotExit h f => Sys2Proof.Machine.execD3hotExit h f s
  | .interruptEnableChange h f e => Sys2Proof.Machine.execInterruptEnableChange h f e s
  | .vectorUnmask h f v => Sys2Proof.Machine.execVectorUnmask h f v s
  | .hostIntxPend who h f ix v => Sys2Proof.Machine.execHostIntxPend who h f ix v s
  | .hostWinCommit who h f => Sys2Proof.Machine.execHostWinCommit who h f s
  | .winCopyDone h f => Sys2Proof.Machine.execWinCopyDone h f s
  | .inboundRequest r => Sys2Proof.Machine.execInboundRequest r s
  | .configRequest h f off w => Sys2Proof.Machine.execConfigRequest h f off w s
  | .hostCompletionRx tag reply => Sys2Proof.Machine.execHostCompletionRx tag reply s
  | .hostCplTimeout tag => Sys2Proof.Machine.execHostCplTimeout tag s
  | .aspmL1Entry h => Sys2Proof.Machine.execAspmL1Entry h s
  | .mbxSend who m => Sys2Proof.Machine.execMbxSend who m s
  | .mbxRxPtr0Read who m => Sys2Proof.Machine.execMbxRxPtr0Read who m s
  | .mbxDbRing who m v => Sys2Proof.Machine.execMbxDbRing who m v s
  | .mbxDbPend who m v => Sys2Proof.Machine.execMbxDbPend who m v s
  | .mbxDbMask who m v => Sys2Proof.Machine.execMbxDbMask who m v s
  | .mbxStatWrite who m v => Sys2Proof.Machine.execMbxStatWrite who m v s
  | .faceStore m off v => Sys2Proof.Machine.execFaceStore m off v s
  | .sliceResetEnd st => Sys2Proof.Machine.execSliceResetEnd st s
  | .freezeComplete st => Sys2Proof.Machine.execFreezeComplete st s
  | .freezeTimeout st => Sys2Proof.Machine.execFreezeTimeout st s
  | .partResetEnd p => Sys2Proof.Machine.execPartResetEnd p s
  | .firmwarePoll h => Sys2Proof.Machine.execFirmwarePoll h s
  | .devIdentify h => Sys2Proof.Machine.execDevIdentify h s
  | .devStatus h => Sys2Proof.Machine.execDevStatus h s
  | .cfgReport h => Sys2Proof.Machine.execCfgReport h s
  | .cfgStage h => Sys2Proof.Machine.execCfgStage h s
  | .cfgCommit h => Sys2Proof.Machine.execCfgCommit h s
  | .partCreate h => Sys2Proof.Machine.execPartCreate h s
  | .partDestroy h => Sys2Proof.Machine.execPartDestroy h s
  | .partReset h => Sys2Proof.Machine.execPartReset h s
  | .sliceCreate h => Sys2Proof.Machine.execSliceCreate h s
  | .sliceDestroy h => Sys2Proof.Machine.execSliceDestroy h s
  | .sliceReset h => Sys2Proof.Machine.execSliceReset h s
  | .sliceFreeze h => Sys2Proof.Machine.execSliceFreeze h s
  | .sliceSave h => Sys2Proof.Machine.execSliceSave h s
  | .sliceRestore h save => Sys2Proof.Machine.execSliceRestore h save s
  | .sliceThaw h => Sys2Proof.Machine.execSliceThaw h s
  | .progLoad h => Sys2Proof.Machine.execProgLoad h s
  | .progStart h => Sys2Proof.Machine.execProgStart h s
  | .progStartRelease p => Sys2Proof.Machine.execProgStartRelease p s
  | .progStop h => Sys2Proof.Machine.execProgStop h s
  | .keyImport h => Sys2Proof.Machine.execKeyImport h s
  | .keyGenerate h => Sys2Proof.Machine.execKeyGenerate h s
  | .keyRetire h => Sys2Proof.Machine.execKeyRetire h s
  | .keyQuery h => Sys2Proof.Machine.execKeyQuery h s
  | .timeSet h => Sys2Proof.Machine.execTimeSet h s
  | .timeStatus h => Sys2Proof.Machine.execTimeStatus h s
  | .leapTable h => Sys2Proof.Machine.execLeapTable h s
  | .gateInstall h => Sys2Proof.Machine.execGateInstall h s
  | .snapArm h => Sys2Proof.Machine.execSnapArm h s
  | .snapRead h => Sys2Proof.Machine.execSnapRead h s
  | .faultRead h => Sys2Proof.Machine.execFaultRead h s
  | .faultAck h => Sys2Proof.Machine.execFaultAck h s
  | .faultInject h => Sys2Proof.Machine.execFaultInject h s
  | .duplexConfig h => Sys2Proof.Machine.execDuplexConfig h s
  | .duplexSwitch h => Sys2Proof.Machine.execDuplexSwitch h s
  | .lifeRead h => Sys2Proof.Machine.execLifeRead h s
  | .smemUpdate h => Sys2Proof.Machine.execSmemUpdate h s
  | .viewSample item obj => Sys2Proof.Machine.execViewSample item obj s
  | .faultCollect ext => Sys2Proof.Machine.execFaultCollect ext s
  | .fltWatchdog => Sys2Proof.Machine.execFltWatchdog s
  | .injectionCancel => Sys2Proof.Machine.execInjectionCancel s
  | .duplexCycleEnd p => Sys2Proof.Machine.execDuplexCycleEnd p s
  | .duplexCompare p differ => Sys2Proof.Machine.execDuplexCompare p differ s
  | .duplexLag p => Sys2Proof.Machine.execDuplexLag p s
  | .switchOver p => Sys2Proof.Machine.execSwitchOver p s
  | .duplexSwitched p => Sys2Proof.Machine.execDuplexSwitched p s
  | .rejoinCopyDone p => Sys2Proof.Machine.execRejoinCopyDone p s
  | .causewayRelease p unit => Sys2Proof.Machine.execCausewayRelease p unit s
  | .causewayGrant p unit => Sys2Proof.Machine.execCausewayGrant p unit s
  | .causewayInChange lines => Sys2Proof.Machine.execCausewayInChange lines s
  | .ferryLinkDown => Sys2Proof.Machine.execFerryLinkDown s
  | .forwardedCommand c => Sys2Proof.Machine.execForwardedCommand c s
  | .forwardTimeout => Sys2Proof.Machine.execForwardTimeout s
  | .counterLowRead who ev => Sys2Proof.Machine.execCounterLowRead who ev s
  | .slotRetiredRead tid => Sys2Proof.Machine.execSlotRetiredRead tid s
  | .cntWinCfgWrite who w r v => Sys2Proof.Machine.execCntWinCfgWrite who w r v s
  | .counterFaceMirror w => Sys2Proof.Machine.execCounterFaceMirror w s
  | .snapInEdge => Sys2Proof.Machine.execSnapInEdge s
  | .snapTimeTrigger => Sys2Proof.Machine.execSnapTimeTrigger s
  | .snapTriggerAccept => Sys2Proof.Machine.execSnapTriggerAccept s
  | .snapLatch => Sys2Proof.Machine.execSnapLatch s
  | .counterDumpInstant => Sys2Proof.Machine.execCounterDumpInstant s
  | .dumpComplete ok => Sys2Proof.Machine.execDumpComplete ok s
  | .thermalAgeUpdate => Sys2Proof.Machine.execThermalAgeUpdate s
  | .lifetimeCheckpoint => Sys2Proof.Machine.execLifetimeCheckpoint s
  | .logEraseDone => Sys2Proof.Machine.execLogEraseDone s
  | .powerOnReset => Sys2Proof.Machine.execPowerOnReset s
  | .auxReset => Sys2Proof.Machine.execAuxReset s
  | .vauxLost => Sys2Proof.Machine.execVauxLost s
  | .deviceReset perst => Sys2Proof.Machine.execDeviceReset perst s
  | .imageApply => Sys2Proof.Machine.execImageApply s
  | .firmwareReady => Sys2Proof.Machine.execFirmwareReady s
  | .ddrZeroDone => Sys2Proof.Machine.execDdrZeroDone s
  | .trialClear => Sys2Proof.Machine.execTrialClear s
  | .supplyWarn => Sys2Proof.Machine.execSupplyWarn s
  | .supplySag => Sys2Proof.Machine.execSupplySag s
  | .supplyWarnEnd => Sys2Proof.Machine.execSupplyWarnEnd s
  | .thermalSensorConvert readings => Sys2Proof.Machine.execThermalSensorConvert readings s
  | .thermalCrit isl => Sys2Proof.Machine.execThermalCrit isl s
  | .governorEnter => Sys2Proof.Machine.execGovernorEnter s
  | .governorRelease => Sys2Proof.Machine.execGovernorRelease s
  | .smbusRead r => Sys2Proof.Machine.execSmbusRead r s
  | .registerWrite who isl off eight v => Sys2Proof.Machine.execRegisterWrite who isl off eight v s
  | .brownOut => Sys2Proof.Machine.execBrownOut s
  | .rngHealthPass => Sys2Proof.Machine.execRngHealthPass s
  | .ferryLinkUp => Sys2Proof.Machine.execFerryLinkUp s
  | .freedSlot tid ring => Sys2Proof.Machine.execFreedSlot tid ring s
  | .clsUpdDone p e => Sys2Proof.Machine.execClsUpdDone p e s
  | .ptpMessageTx x m => Sys2Proof.Machine.execPtpMessageTx x m s
  | .leapTableExpired => Sys2Proof.Machine.execLeapTableExpired s
  | .perstRelease h => Sys2Proof.Machine.execPerstRelease h s
  | .devRstNRelease => Sys2Proof.Machine.execDevRstNRelease s
  | .registerReadClear who isl off => Sys2Proof.Machine.execRegisterReadClear who isl off s

end Sys2Proof.Machine
end

