-- ==== Sys2Proof/Safety.lean ====
section
/-! DEFINITION. Safety.lean: the words the claims are said in: a step that answers, the states an issue rule allows, and what a command leaves as it was. -/
namespace Sys2Proof
open Sys2Proof.Machine

/-- A step answers a next state. -/
def Runs (s : State) : Prop := ∃ t, step s = .next t

/-! ## Commands that are events of the block -/

/-- A command is carried out: it answers a next state with the queue as it was, whose device has the property. -/
def Answers (c : Instr) (s : State) (p : Dev → Prop) : Prop := ∃ t, exec c s = .next t ∧ t.pending = s.pending ∧ p t.dev

/-- Every register but those of the listed names, all of memory and every thread are as they were. -/
def Keeps (rs : List Reg) (d d' : Dev) : Prop :=
  (∀ r k, r ∉ rs → d'.reg r k = d.reg r k) ∧ d'.mem = d.mem ∧ d'.thr = d.thr

/-- A fault report is handed to the collector, in its place in the collector's order (R397), and no other. -/
def Raises (source isl : Nat) (part tid : Option Nat) (exc : Nat) (detail : Word) (d d' : Dev) : Prop :=
  d'.flt.queue = insertReport ⟨source, isl, part, tid, exc, detail, d.time.tick, d.time.now⟩ d.flt.queue

/-- The same with a detail that the spec leaves open: a free value. -/
def RaisesSome (source isl : Nat) (part : Option Nat) (d d' : Dev) : Prop := ∃ v, Raises source isl part none 0 v d d'

/-- Each event counter has moved up by the number of times it stands in the list, and no other has moved. -/
def Counts (evs : List Nat) (d d' : Dev) : Prop := ∀ e, d'.counter e = d.counter e + BitVec.ofNat 64 (evs.count e)

/-! ## Dunval instructions -/

/-- Whether an instruction may issue from the device as it stands for a thread: the device runs, the thread's core belongs to a partition, the thread is RUNNING, and it may fetch its bundle (R50, R52, R104, R408). -/
def mayIssue (d : Dev) (tid : Nat) : Prop :=
  d.live = true ∧ (d.thread tid).st = .running ∧ ∃ p, d.partOf tid = some p ∧ fetchOk d p tid (d.thread tid).pc = true

/-- The thread can issue its next bundle: it may issue, is no stale standby and waits at no fence (R52, R113, R417). -/
def Ready (d : Dev) (tid : Nat) : Prop :=
  mayIssue d tid ∧ d.isStale tid = false ∧ ((d.thread tid).fence = false ∨ ((d.thread tid).outs = [] ∧ (d.thread tid).stq = []))

/-- An open bundle belongs to an engine thread, and unless its slot A did not issue it has kept the device as it stood when that thread could issue (R96, R98). -/
def BundleOk (s : State) : Prop :=
  ∀ b, s.bundle = some b → b.tid < 576 ∧ (b.dead = false → mayIssue b.before b.tid)

/-- The instruction opens a bundle of its thread: it stands in slot A, or alone in slot B. -/
def Opens (i : Issue) (s : State) : Prop := i.slot = .a ∨ ∀ b, s.bundle = some b → b.tid ≠ i.tid.val

/-- The instruction stands in slot B behind a slot A of its thread that issued, and the two make a legal bundle (R97: `port` says that it is a port instruction; R98: `dest` names its destination, 0 for none). `d0` is the device as it stood before the bundle. -/
def Follows (i : Issue) (port : Bool) (dest : Nat) (s : State) (d0 : Dev) : Prop :=
  i.slot = .b ∧ ∃ b, s.bundle = some b ∧ b.tid = i.tid.val ∧ b.dead = false ∧ (b.port && port) = false ∧
    (dest = 0 ∨ dest ≠ b.dest) ∧ b.before = d0

/-- The instruction issues, in either slot, and reads its operands from `d0`, the device as it stood before its bundle (R98). -/
def Offered (i : Issue) (port : Bool) (dest : Nat) (s : State) (d0 : Dev) : Prop :=
  (Opens i s ∧ Ready s.dev i.tid.val ∧ d0 = s.dev) ∨ Follows i port dest s d0

/-- The instruction issues, is not predicated off (R101), and none of the registers in `uses` waits for a result (R52). -/
def Issues (i : Issue) (port : Bool) (dest : Nat) (uses : List (BitVec 5)) (s : State) (d0 : Dev) : Prop :=
  Offered i port dest s d0 ∧ predOn (d0.thread i.tid.val) i.pred = true ∧ ∀ r ∈ uses, (d0.thread i.tid.val).busy r = false

/-- The event counter of the bundles a thread issues (R428). -/
def issueEvent (tid : Nat) : Nat := evE (islOf tid) (16 * (coreOf tid % 16) + (if timed tid then 0 else 1))

/-- Two states of a thread differ at most in what the issue of a bundle moves: its pc, its run state and its fence. -/
def Machine.Thread.moved (t t' : Thread) : Thread := { t with pc := t'.pc, st := t'.st, stepping := t'.stepping, fence := t'.fence }

/-- An instruction of a thread leaves the rest of the device alone: every register, byte of memory and table of it, every other thread, every event counter but its issue counter. -/
def OnlyThread (tid : Nat) (s t : State) : Prop :=
  t.pending = s.pending ∧
  t.dev = { s.dev with thr := t.dev.thr, cnt := { s.dev.cnt with ev := t.dev.cnt.ev, slot := t.dev.cnt.slot } } ∧
  (∀ u, u ≠ tid → t.dev.thread u = s.dev.thread u) ∧
  (∀ e, e ≠ issueEvent tid → t.dev.counter e = s.dev.counter e)

/-- An instruction of a thread writes `v` to its general register `rd` (nothing, where `rd` is g0) and leaves every other register, predicate and window and the rest of the device alone. -/
def WritesReg (i : Issue) (rd : BitVec 5) (v : Word) (s t : State) : Prop :=
  OnlyThread i.tid.val s t ∧
  (∀ r, (t.dev.thread i.tid.val).reg r = if r = rd ∧ rd ≠ 0 then v else (s.dev.thread i.tid.val).reg r) ∧
  t.dev.thread i.tid.val = { (s.dev.thread i.tid.val).moved (t.dev.thread i.tid.val) with g := (t.dev.thread i.tid.val).g }

/-- The device after a bundle of a thread has left its slot, before the instruction's own effect. -/
def afterIssue (d : Dev) (tid : Nat) : Dev := (d.updThread tid Thread.issued).count (issueEvent tid)

/-- The instruction stands behind an open bundle of its thread. -/
def Joins (i : Issue) (s : State) : Bool := i.slot == .b && s.bundle.any (fun b => b.tid == i.tid.val)

/-- The device an instruction's effect changes: behind a slot A the device as that left it, else the device with the thread past its bundle. -/
def actsOn (i : Issue) (s : State) : Dev := if Joins i s then s.dev else afterIssue s.dev i.tid.val

/-- The whole effect of an instruction is `d`, but for the counts of its thread's slots (R53). -/
def Does (d : Dev) (s t : State) : Prop :=
  t.pending = s.pending ∧ t.dev = { d with cnt := { d.cnt with slot := t.dev.cnt.slot } }

/-- An instruction changes its thread by `f` and nothing else. -/
def ChangesThread (i : Issue) (f : Thread → Thread) (s t : State) : Prop :=
  OnlyThread i.tid.val s t ∧ t.dev.thread i.tid.val = f ((actsOn i s).thread i.tid.val)

/-- An instruction raises an exception instead of having its effect (R129): the thread is FAULTED at its bundle, and every register, every byte of memory and every other thread is as it stood before the bundle; unless the thread is a standby's, the fault's report with the detail of R94 is on its way. -/
def Excepts (i : Issue) (code operand : Nat) (d0 : Dev) (s t : State) : Prop :=
  t.pending = s.pending ∧ t.dev.regs = d0.regs ∧ t.dev.mem = d0.mem ∧
  (∀ u, u ≠ i.tid.val → t.dev.thread u = d0.thread u) ∧
  t.dev.thread i.tid.val = { d0.thread i.tid.val with st := .faulted, stepping := false } ∧
  t.dev.flt.queue = (if d0.isStandby i.tid.val then d0.flt.queue else
    insertReport ⟨639 + code, islOf i.tid.val, d0.partOf i.tid.val, some i.tid.val, code,
      BitVec.ofNat 64 (fld (d0.thread i.tid.val).pc 3 20 * 2 ^ 3 + (if i.slot = .b then 2 ^ 23 else 0) + operand % 2 ^ 40 * 2 ^ 24),
      d0.time.tick, d0.time.now⟩ d0.flt.queue)

/-- A thread of a partition that does not run in duplex (R410), with no recorded inputs left to take. -/
def Simplex (d : Dev) (tid : Nat) : Prop := (∃ p, d.partOf tid = some p ∧ d.inDuplex p = false) ∧ (d.thread tid).replay = []

/-- A bundle gives back its thread's slot and nothing of it happens (R53): every register, thread and byte is as it stood before the bundle. -/
def Starves (d0 : Dev) (s t : State) : Prop :=
  t.pending = s.pending ∧ t.dev = { d0 with cnt := { d0.cnt with slot := t.dev.cnt.slot } }

end Sys2Proof
end

