-- ==== Sys2Proof/Certificates/Slice0/Obligations.lean ====
section
/-! DEFINITION. Certificates/Slice0/Obligations.lean: the statements about this model that are to be proved. -/
open Sys2Proof Sys2Proof.Machine

/-- A step takes the command at the front of the queue and executes it with the queue's rest. -/
def Obligations.StepExecutesFrontCommand : Prop :=
  ∀ (c : Instr) (s : State), step { s with pending := c :: s.pending } = exec c s

namespace Sys2Proof.Claims

/-- R108: the instructions of two register operands and the value each writes, said on the numbers that the registers hold. -/
def regOps : List ((Issue → BitVec 5 → BitVec 5 → RbSrc → Instr) × (Word → Word → Word)) :=
  [(.add, fun a b => BitVec.ofNat 64 (a.toNat + b.toNat)),
   (.sub, fun a b => BitVec.ofInt 64 ((a.toNat : Int) - b.toNat)),
   (.and, fun a b => a &&& b),
   (.or, fun a b => a ||| b),
   (.xor, fun a b => a ^^^ b),
   (.andn, fun a b => a &&& ~~~b),
   (.shl, fun a b => BitVec.ofNat 64 (a.toNat * 2 ^ (b.toNat % 64))),
   (.shr, fun a b => BitVec.ofNat 64 (a.toNat / 2 ^ (b.toNat % 64))),
   (.sar, fun a b => BitVec.ofInt 64 (a.toInt / 2 ^ (b.toNat % 64))),
   (.min, fun a b => BitVec.ofInt 64 (min a.toInt b.toInt)),
   (.max, fun a b => BitVec.ofInt 64 (max a.toInt b.toInt)),
   (.minu, fun a b => BitVec.ofNat 64 (min a.toNat b.toNat)),
   (.maxu, fun a b => BitVec.ofNat 64 (max a.toNat b.toNat)),
   (.mul, fun a b => BitVec.ofNat 64 (a.toNat * b.toNat)),
   (.mulhu, fun a b => BitVec.ofNat 64 (a.toNat * b.toNat / 2 ^ 64)),
   (.mulhs, fun a b => BitVec.ofInt 64 (a.toInt * b.toInt / 2 ^ 64))]

/-- R108: the instructions of one register and a 12-bit immediate. -/
def immOps : List ((Issue → BitVec 5 → BitVec 5 → BitVec 12 → Instr) × (Word → BitVec 12 → Word)) :=
  [(.addi, fun a m => BitVec.ofInt 64 (a.toNat + m.toInt)),
   (.andi, fun a m => a &&& BitVec.ofNat 64 m.toNat),
   (.ori, fun a m => a ||| BitVec.ofNat 64 m.toNat),
   (.xori, fun a m => a ^^^ BitVec.ofNat 64 m.toNat)]

/-- R108: the shifts by a constant. -/
def shiftOps : List ((Issue → BitVec 5 → BitVec 5 → BitVec 6 → Instr) × (Word → Nat → Word)) :=
  [(.shli, fun a n => BitVec.ofNat 64 (a.toNat * 2 ^ n)),
   (.shri, fun a n => BitVec.ofNat 64 (a.toNat / 2 ^ n)),
   (.sari, fun a n => BitVec.ofInt 64 (a.toInt / 2 ^ n))]

/-- The condition codes of R109, on numbers. -/
def condTrue (cond : BitVec 3) (a b : Word) : Prop :=
  (cond = 0 ∧ a = b) ∨ (cond = 1 ∧ a ≠ b) ∨ (cond = 2 ∧ a.toInt < b.toInt) ∨ (cond = 3 ∧ b.toInt ≤ a.toInt) ∨
  (cond = 4 ∧ a.toNat < b.toNat) ∨ (cond = 5 ∧ b.toNat ≤ a.toNat) ∨ (cond = 6 ∧ a &&& b ≠ 0)

/-- PLOG's operations (R102, R109), on truth values. -/
def plogTrue (op : BitVec 2) (a b : Prop) : Prop :=
  (op = 0 ∧ a ∧ b) ∨ (op = 1 ∧ (a ∨ b)) ∨ (op = 2 ∧ ¬(a ↔ b)) ∨ (op = 3 ∧ a ∧ ¬b)

/-- The slots of a timed thread that a bundle opened by an instruction takes count as retired (R53, R431), and no other outcome is counted. -/
def Costs (i : Issue) (n : Nat) (s t : State) : Prop :=
  Opens i s → timed i.tid.val = true → ∀ c < 5, tabGet t.dev.cnt.slot 0 (5 * i.tid.val + c) =
    tabGet s.dev.cnt.slot 0 (5 * i.tid.val + c) + (if c = 0 then BitVec.ofNat 64 n else 0)

end Sys2Proof.Claims

/-- R108 for ADD, SUB, AND, OR, XOR, ANDN, the shifts, minima, maxima and products of two operands: each writes its value to rd and nothing else; a write to g0 is discarded. R108 for the instructions with an immediate: ADDI, ANDI, ORI, XORI, SHLI, SHRI, SARI, MOVI and MOVSH. -/
def Obligations.RegisterAndImmediateOperationsWriteTheirValue : Prop :=
  (∀ (i : Issue) (rd ra : BitVec 5) (rb : RbSrc) (s : State) (d0 : Dev),
    i.predOk = true → Issues i false (destG rd) (rd :: ra :: rbRegs rb) s d0 →
    ∀ e ∈ Claims.regOps, ∃ t, exec (e.1 i rd ra rb) s = .next t ∧
      WritesReg i rd (e.2 ((d0.thread i.tid.val).reg ra) (rbVal (d0.thread i.tid.val) rb)) s t) ∧
  (∀ (i : Issue) (rd ra : BitVec 5) (s : State) (d0 : Dev), i.predOk = true →
    (Issues i false (destG rd) [rd, ra] s d0 → ∀ m, ∀ e ∈ Claims.immOps, ∃ t, exec (e.1 i rd ra m) s = .next t ∧
      WritesReg i rd (e.2 ((d0.thread i.tid.val).reg ra) m) s t) ∧
    (Issues i false (destG rd) [rd, ra] s d0 → ∀ n, ∀ e ∈ Claims.shiftOps, ∃ t, exec (e.1 i rd ra n) s = .next t ∧
      WritesReg i rd (e.2 ((d0.thread i.tid.val).reg ra) n.toNat) s t) ∧
    (Issues i false (destG rd) [rd] s d0 → ∀ m : BitVec 17, ∃ t, exec (.movi i rd m) s = .next t ∧
      WritesReg i rd (BitVec.ofInt 64 m.toInt) s t) ∧
    (Issues i false (destG rd) [rd] s d0 → ∀ m : BitVec 16, ∃ t, exec (.movsh i rd m) s = .next t ∧
      WritesReg i rd (BitVec.ofNat 64 (((d0.thread i.tid.val).reg rd).toNat * 2 ^ 16 + m.toNat)) s t))

/-- R108 for BFX, BFXS, BFI and BFXW, bit by bit: the extracts take bits [pos + width - 1 : pos], with zeros or the top bit above them; BFI replaces those bits of rd and keeps the others. -/
def Obligations.BitFieldOperationsMoveTheirBits : Prop :=
  ∀ (i : Issue) (rd ra : BitVec 5) (w : BitVec 4) (pos wm1 : BitVec 6) (s : State) (d0 : Dev),
    i.predOk = true → pos.toNat + wm1.toNat + 1 ≤ 64 → Issues i false (destG rd) [rd, ra] s d0 →
    (∃ t v, exec (.bfx i rd ra pos wm1) s = .next t ∧ WritesReg i rd v s t ∧
      ∀ k < 64, v.getLsbD k = (decide (k ≤ wm1.toNat) && ((d0.thread i.tid.val).reg ra).getLsbD (pos.toNat + k))) ∧
    (∃ t v, exec (.bfxs i rd ra pos wm1) s = .next t ∧ WritesReg i rd v s t ∧
      ∀ k < 64, v.getLsbD k = ((d0.thread i.tid.val).reg ra).getLsbD (pos.toNat + min k wm1.toNat)) ∧
    (∃ t v, exec (.bfi i rd ra pos wm1) s = .next t ∧ WritesReg i rd v s t ∧
      ∀ k < 64, v.getLsbD k = if pos.toNat ≤ k ∧ k ≤ pos.toNat + wm1.toNat
        then ((d0.thread i.tid.val).reg ra).getLsbD (k - pos.toNat) else ((d0.thread i.tid.val).reg rd).getLsbD k) ∧
    (∃ t v, exec (.bfxw i rd w pos wm1) s = .next t ∧ WritesReg i rd v s t ∧
      ∀ k < 64, v.getLsbD k = (decide (k ≤ wm1.toNat) && ((d0.thread i.tid.val).win w).getLsbD (pos.toNat + k)))

/-- R109: CMP, CMPI and PLOG set pd to their outcome at the cost of one slot and change nothing else; a write to p0 is discarded, and a compare that is predicated off leaves every predicate. -/
def Obligations.ComparesSetTheirPredicate : Prop :=
  ∀ (i : Issue) (pd : BitVec 3) (s : State) (d0 : Dev), i.predOk = true →
    (∀ cond ra rb, cond ≠ 7#3 → Issues i false (destP pd) (ra :: rbRegs rb) s d0 →
      ∃ t v, exec (.cmp i cond pd ra rb) s = .next t ∧ ChangesThread i (fun x => x.setPred pd v) s t ∧ Claims.Costs i 1 s t ∧
        (v = true ↔ Claims.condTrue cond ((d0.thread i.tid.val).reg ra) (rbVal (d0.thread i.tid.val) rb))) ∧
    (∀ cond ra (m : BitVec 11), cond ≠ 7#3 → Issues i false (destP pd) [ra] s d0 →
      ∃ t v, exec (.cmpi i cond pd ra m) s = .next t ∧ ChangesThread i (fun x => x.setPred pd v) s t ∧ Claims.Costs i 1 s t ∧
        (v = true ↔ Claims.condTrue cond ((d0.thread i.tid.val).reg ra) (BitVec.ofInt 64 m.toInt))) ∧
    (∀ op pa pb, Issues i false (destP pd) [] s d0 →
      ∃ t v, exec (.plog i op pd pa pb) s = .next t ∧ ChangesThread i (fun x => x.setPred pd v) s t ∧ Claims.Costs i 1 s t ∧
        (v = true ↔ Claims.plogTrue op ((d0.thread i.tid.val).pred pa = true) ((d0.thread i.tid.val).pred pb = true))) ∧
    (∀ (x : Thread) (v : Bool) (q : BitVec 3), (x.setPred pd v).pred q = if q = 0 then true else if q = pd then v else x.pred q) ∧
    (∀ cond ra rb m, cond ≠ 7#3 → Offered i false (destP pd) s d0 → predOn (d0.thread i.tid.val) i.pred = false →
      (∃ t, exec (.cmp i cond pd ra rb) s = .next t ∧ ∀ q, (t.dev.thread i.tid.val).pred q = (s.dev.thread i.tid.val).pred q) ∧
      (∃ t, exec (.cmpi i cond pd ra m) s = .next t ∧ ∀ q, (t.dev.thread i.tid.val).pred q = (s.dev.thread i.tid.val).pred q))

/-- R110: BR and CALL go to the bundle's own address plus the offset in bundles, in the 23 bits of the pc; CALL writes the next bundle's address to g31; JR goes to ra where that is a bundle address and else raises MISALIGNED; each costs one slot. -/
def Obligations.BranchesSetThePc : Prop :=
  ∀ (i : Issue) (s : State) (d0 : Dev), i.predOk = true → i.slot = .a → (d0.thread i.tid.val).pc < 2 ^ 23 →
    (∀ off : BitVec 22, Issues i false 0 [] s d0 → ∃ t, exec (.br i off) s = .next t ∧ ∃ n : Nat, n < 2 ^ 23 ∧
      (n : Int) = ((d0.thread i.tid.val).pc + 8 * off.toInt) % 2 ^ 23 ∧ ChangesThread i (fun x => { x with pc := n }) s t ∧ Claims.Costs i 1 s t) ∧
    (∀ off : BitVec 22, Issues i false (destG 31) [31] s d0 → ∃ t, exec (.call i off) s = .next t ∧ ∃ n : Nat, n < 2 ^ 23 ∧
      (n : Int) = ((d0.thread i.tid.val).pc + 8 * off.toInt) % 2 ^ 23 ∧
      ChangesThread i (fun x => { x.setReg 31 (BitVec.ofNat 64 (((d0.thread i.tid.val).pc + 8) % 2 ^ 23)) with pc := n }) s t ∧ Claims.Costs i 1 s t) ∧
    (∀ ra, Issues i false 0 [ra] s d0 → (((d0.thread i.tid.val).reg ra).toNat % 8 = 0 → ∃ t, exec (.jr i ra) s = .next t ∧
      ChangesThread i (fun x => { x with pc := ((d0.thread i.tid.val).reg ra).toNat % 2 ^ 23 }) s t ∧ Claims.Costs i 1 s t) ∧
      (((d0.thread i.tid.val).reg ra).toNat % 8 ≠ 0 → ∃ t, exec (.jr i ra) s = .next t ∧
        Excepts i 4 ((d0.thread i.tid.val).reg ra).toNat d0 s t))

/-- R111, R106, R93: a load from local data memory writes the zero-extended little-endian bytes at its effective address, as they stood before the bundle (R98), to rd in its own slot; a load from another space goes out with the store-queue bytes it must see (R67), and changes nothing else. -/
def Obligations.LoadsReadOrGoOut : Prop :=
  ∀ (i : Issue) (sp sz : BitVec 2) (rd ra : BitVec 5) (off : BitVec 8) (s : State) (d0 : Dev) (ea : Nat),
    i.predOk = true → Issues i (sp != 0#2) (destG rd) [rd, ra] s d0 →
    (ea : Int) = (((d0.thread i.tid.val).reg ra).toNat + off.toInt * (2 ^ sz.toNat : Nat)) % 2 ^ 64 →
    (sp = 0#2 → ea % 2 ^ sz.toNat = 0 → ea + 2 ^ sz.toNat ≤ 0x40000 → ∃ t, exec (.ld i sp sz rd ra off) s = .next t ∧
      WritesReg i rd (BitVec.ofNat 64 (ofLe (d0.read (localAddr (coreOf i.tid.val) ea) (2 ^ sz.toNat)))) s t) ∧
    (sp ≠ 0#2 → issueCheck (actsOn i s) i.tid.val (d0.thread i.tid.val).pasid sp ea (2 ^ sz.toNat) = none →
      (d0.thread i.tid.val).loadsOut < 4 → bankBusy (actsOn i s) i.tid.val (bankOf (actsOn i s) i.tid.val sp ea (2 ^ sz.toNat)) = false →
      ∃ t, exec (.ld i sp sz rd ra off) s = .next t ∧ t.pending = s.pending ∧ t.dev.mem = s.dev.mem ∧
        (∀ r k, sp ≠ 3#2 ∨ r ∉ [Reg.hostFnStat, .hostLinkStat, .hostPortStat] → t.dev.reg r k = s.dev.reg r k) ∧
        (∀ u, u ≠ i.tid.val → t.dev.thread u = s.dev.thread u) ∧
        t.dev.thread i.tid.val = (let x := (actsOn i s).thread i.tid.val
          { x with outs := x.outs ++ [⟨x.nextId, .load sp ea (2 ^ sz.toNat) (forwarded (d0.thread i.tid.val).stq sp ea (2 ^ sz.toNat)), rd,
              (d0.thread i.tid.val).pc, i.slot, s.dev.ns, (d0.thread i.tid.val).pasid, none⟩], nextId := x.nextId + 1 }))

/-- R111, R65, R67: a store to local data memory is complete at once, its bytes least significant first; every other byte stays as it was. A store to another space joins the thread's store queue where that has room, and changes no memory yet. -/
def Obligations.StoresWriteOrQueue : Prop :=
  ∀ (i : Issue) (sp sz : BitVec 2) (rs ra : BitVec 5) (off : BitVec 8) (s : State) (d0 : Dev) (ea : Nat),
    i.predOk = true → Issues i (sp != 0#2) 0 [rs, ra] s d0 →
    (ea : Int) = (((d0.thread i.tid.val).reg ra).toNat + off.toInt * (2 ^ sz.toNat : Nat)) % 2 ^ 64 →
    (sp = 0#2 → ea % 2 ^ sz.toNat = 0 → ea + 2 ^ sz.toNat ≤ 0x40000 → ∃ t, exec (.st i sp sz rs ra off) s = .next t ∧
      t.pending = s.pending ∧ t.dev.regs = s.dev.regs ∧ (∀ u, u ≠ i.tid.val → t.dev.thread u = s.dev.thread u) ∧
      t.dev.thread i.tid.val = (actsOn i s).thread i.tid.val ∧
      (∀ k < 2 ^ sz.toNat, t.dev.byte (localAddr (coreOf i.tid.val) ea + k) =
        BitVec.ofNat 8 (((d0.thread i.tid.val).reg rs).toNat / 256 ^ k)) ∧
      (∀ a, a < localAddr (coreOf i.tid.val) ea ∨ localAddr (coreOf i.tid.val) ea + 2 ^ sz.toNat ≤ a → t.dev.byte a = s.dev.byte a)) ∧
    (sp ≠ 0#2 → issueCheck (actsOn i s) i.tid.val (d0.thread i.tid.val).pasid sp ea (2 ^ sz.toNat) = none →
      (d0.thread i.tid.val).stq.length < 4 → bankBusy (actsOn i s) i.tid.val (bankOf (actsOn i s) i.tid.val sp ea (2 ^ sz.toNat)) = false →
      ∃ t, exec (.st i sp sz rs ra off) s = .next t ∧ ChangesThread i (fun x => { x with stq := x.stq ++
        [⟨.store sp ea (leBytes (2 ^ sz.toNat) ((d0.thread i.tid.val).reg rs).toNat), (d0.thread i.tid.val).pc, i.slot, (d0.thread i.tid.val).pasid⟩] }) s t)

namespace Sys2Proof.Claims

/-- The new memory value of an atomic of `n` bytes (R112), from the old one and the values of rb and rd. -/
def atomNew (op : Nat) (n old vb vd : Nat) : Nat :=
  match op with
  | 0 => (old + vb) % 2 ^ (8 * n)
  | 1 => vb % 2 ^ (8 * n)
  | _ => if old = vd % 2 ^ (8 * n) then vb % 2 ^ (8 * n) else old

/-- The three atomics of R112 by number. -/
def atomOp (op : Nat) (i : Issue) (sp : BitVec 2) (sz : BitVec 1) (rd ra rb : BitVec 5) : Instr :=
  match op with
  | 0 => .atomAdd i sp sz rd ra rb
  | 1 => .atomSwap i sp sz rd ra rb
  | _ => .atomCas i sp sz rd ra rb

/-- What an atomic that goes out asks of its target. -/
def atomKind (op : Nat) (sp : BitVec 2) (ea n : Nat) (vb vd : Word) : OutKind :=
  match op with
  | 0 => .atomAdd sp ea n vb
  | 1 => .atomSwap sp ea n vb
  | _ => .atomCas sp ea n vb vd

end Sys2Proof.Claims

/-- R112: in local space ATOM.ADD, ATOM.SWAP and ATOM.CAS write the old value to rd and the new one to memory in one step, and every byte outside the operand stays; in island and DDR space they go out to their target and change no memory yet. -/
def Obligations.AtomicsSwapInOneStep : Prop :=
  ∀ (op : Nat) (i : Issue) (sp : BitVec 2) (sz : BitVec 1) (rd ra rb : BitVec 5) (s : State) (d0 : Dev) (ea n : Nat),
    op < 3 → i.predOk = true → sp ≠ 3#2 → Issues i (sp != 0#2) (destG rd) [rd, ra, rb] s d0 →
    ea = ((d0.thread i.tid.val).reg ra).toNat → n = (if sz = 0#1 then 4 else 8) →
    (sp = 0#2 → ea % n = 0 → ea + n ≤ 0x40000 → ∃ t, exec (Claims.atomOp op i sp sz rd ra rb) s = .next t ∧
      t.pending = s.pending ∧ t.dev.regs = s.dev.regs ∧ (∀ u, u ≠ i.tid.val → t.dev.thread u = s.dev.thread u) ∧
      t.dev.thread i.tid.val = ((actsOn i s).thread i.tid.val).setReg rd (BitVec.ofNat 64 (ofLe (s.dev.read (localAddr (coreOf i.tid.val) ea) n))) ∧
      ofLe (t.dev.read (localAddr (coreOf i.tid.val) ea) n) = Claims.atomNew op n (ofLe (s.dev.read (localAddr (coreOf i.tid.val) ea) n))
        ((d0.thread i.tid.val).reg rb).toNat ((d0.thread i.tid.val).reg rd).toNat ∧
      (∀ a, a < localAddr (coreOf i.tid.val) ea ∨ localAddr (coreOf i.tid.val) ea + n ≤ a → t.dev.byte a = s.dev.byte a)) ∧
    (sp ≠ 0#2 → issueCheck (actsOn i s) i.tid.val (d0.thread i.tid.val).pasid sp ea n = none →
      bankBusy (actsOn i s) i.tid.val (bankOf (actsOn i s) i.tid.val sp ea n) = false →
      ∃ t, exec (Claims.atomOp op i sp sz rd ra rb) s = .next t ∧ ChangesThread i (fun x => { x with
        outs := x.outs ++ [⟨x.nextId, Claims.atomKind op sp ea n ((d0.thread i.tid.val).reg rb) ((d0.thread i.tid.val).reg rd), rd,
          (d0.thread i.tid.val).pc, i.slot, s.dev.ns, (d0.thread i.tid.val).pasid, none⟩], nextId := x.nextId + 1 }) s t)

/-- R107: what is checked of a load, store or atomic in its issue slot, and the immediate exception a failure raises: MISALIGNED, ACCESS_DENIED beyond the local range, ADDR_DECODE for high address bits in island or DDR space, ACCESS_DENIED for an island-space target that is neither island memory nor the thread's own lagoon, and for host space without a valid SR_PASID. -/
def Obligations.MemoryAccessesAreCheckedAtIssue : Prop :=
  ∀ (i : Issue) (sp sz : BitVec 2) (r ra rb : BitVec 5) (off : BitVec 8) (s : State) (d0 : Dev) (ea n code : Nat), i.predOk = true →
    ((n = 2 ^ sz.toNat ∧ (ea : Int) = (((d0.thread i.tid.val).reg ra).toNat + off.toInt * n) % 2 ^ 64) ∨
     ((n = 4 ∨ n = 8) ∧ ea = ((d0.thread i.tid.val).reg ra).toNat)) →
    ((ea % n ≠ 0 ∧ code = 4) ∨
     (ea % n = 0 ∧ sp = 0#2 ∧ 0x40000 < ea + n ∧ code = 3) ∨
     (ea % n = 0 ∧ sp = 1#2 ∧ 2 ^ 48 ≤ ea ∧ code = 5) ∨
     (ea % n = 0 ∧ sp = 2#2 ∧ 2 ^ 38 ≤ ea ∧ code = 5) ∨
     (ea % n = 0 ∧ sp = 1#2 ∧ ea < 2 ^ 48 ∧ (∀ k o, (actsOn i s).region ea n ≠ some (.island k o)) ∧
       (∀ o, (actsOn i s).region ea n ≠ some (.lagoon (islOf ((actsOn i s).seenTid i.tid.val)) o)) ∧ code = 3) ∨
     (ea % n = 0 ∧ sp = 3#2 ∧ (d0.thread i.tid.val).pasid.getLsbD 31 = false ∧ code = 3)) →
    (n = 2 ^ sz.toNat → (ea : Int) = (((d0.thread i.tid.val).reg ra).toNat + off.toInt * n) % 2 ^ 64 →
      (Issues i (sp != 0#2) (destG r) [r, ra] s d0 → ∃ t, exec (.ld i sp sz r ra off) s = .next t ∧ Excepts i code ea d0 s t) ∧
      (Issues i (sp != 0#2) 0 [r, ra] s d0 → ∃ t, exec (.st i sp sz r ra off) s = .next t ∧ Excepts i code ea d0 s t)) ∧
    ((n = 4 ∨ n = 8) → ea = ((d0.thread i.tid.val).reg ra).toNat → sp ≠ 3#2 → ∀ op < 3, Issues i (sp != 0#2) (destG r) [r, ra, rb] s d0 →
      ∃ t, exec (Claims.atomOp op i sp (if n = 4 then 0#1 else 1#1) r ra rb) s = .next t ∧ Excepts i code ea d0 s t)

/-- R68, R111, R112, R129: the result of an outstanding operation of a thread of a powered device. A value that its target has given goes to its destination; a load that its target allows takes memory's bytes with the forwarded ones in their places; a refused access is a late exception, which writes no destination. An operation of DDR or host memory, or a lookup's miss, that has been out for 100 us is abandoned (R69); a failed store is reported and its thread goes on. -/
def Obligations.OutstandingResultsReturn : Prop :=
  ∀ (tid : Fin 576) (k : Nat) (reply : Reply) (o : OutOp) (s : State), s.dev.powered = true → (s.dev.thread tid.val).outs[k]? = some o →
    (∀ v, Simplex s.dev tid.val → o.res = some v → ∃ t, exec (.memResultReturn tid k reply) s = .next t ∧ t.pending = s.pending ∧
      t.dev.mem = s.dev.mem ∧ t.dev.regs = s.dev.regs ∧ (∀ u, u ≠ tid.val → t.dev.thread u = s.dev.thread u) ∧
      t.dev.thread tid.val = { s.dev.thread tid.val with outs := (s.dev.thread tid.val).outs.erase o }.setReg o.rd v) ∧
    (∀ p sp ea n fwd, Simplex s.dev tid.val → s.dev.partOf tid.val = some p → o.res = none → o.kind = .load sp ea n fwd → sp.toNat < 3 →
      s.dev.checkMem (.part p) (physAddr s.dev tid.val sp ea) n = .ok → ∃ t, exec (.memResultReturn tid k reply) s = .next t ∧
      t.pending = s.pending ∧ t.dev.mem = s.dev.mem ∧ t.dev.regs = s.dev.regs ∧ (∀ u, u ≠ tid.val → t.dev.thread u = s.dev.thread u) ∧
      t.dev.thread tid.val = { s.dev.thread tid.val with outs := (s.dev.thread tid.val).outs.erase o }.setReg o.rd
        (BitVec.ofNat 64 (ofLe ((List.range n).map (fun j => (tabFind (ea + j) fwd).getD (s.dev.byte (physAddr s.dev tid.val sp ea + j))))))) ∧
    (∀ p sp ea n fwd, Simplex s.dev tid.val → s.dev.partOf tid.val = some p → o.res = none → o.kind = .load sp ea n fwd → sp.toNat < 3 →
      s.dev.checkMem (.part p) (physAddr s.dev tid.val sp ea) n = .denied → (s.dev.thread tid.val).st ≠ .idle →
      ∃ t, exec (.memResultReturn tid k reply) s = .next t ∧ t.dev.mem = s.dev.mem ∧ (t.dev.thread tid.val).st = .faulted ∧
      (∀ r, (t.dev.thread tid.val).reg r = (s.dev.thread tid.val).reg r) ∧ (∀ u, u ≠ tid.val → t.dev.thread u = s.dev.thread u)) ∧
    (∀ operand, o.timesOut = some operand → o.since + 100000 ≤ s.dev.ns → (s.dev.thread tid.val).st ≠ .idle → s.dev.isStandby tid.val = false →
      ∃ t, exec (.memTimeout tid k) s = .next t ∧ t.pending = s.pending ∧ t.dev.mem = s.dev.mem ∧
      t.dev.thread tid.val = { s.dev.thread tid.val with outs := (s.dev.thread tid.val).outs.erase o, st := .faulted, wait := .none, stepping := false } ∧
      (∀ u, u ≠ tid.val → t.dev.thread u = s.dev.thread u) ∧
      t.dev.flt.queue = insertReport ⟨645, islOf tid.val, s.dev.partOf tid.val, some tid.val, 6,
        BitVec.ofNat 64 (excDetail o.pc o.slot operand), s.dev.time.tick, s.dev.time.now⟩ s.dev.flt.queue) ∧
    (∀ e es, s.dev.live = true → (s.dev.thread tid.val).storeErrs = e :: es → s.dev.isStandby tid.val = false →
      ∃ t, exec (.storeErrorResponse tid) s = .next t ∧ t.pending = s.pending ∧ t.dev.mem = s.dev.mem ∧
      t.dev.thread tid.val = { s.dev.thread tid.val with storeErrs := es } ∧ (∀ u, u ≠ tid.val → t.dev.thread u = s.dev.thread u) ∧
      t.dev.flt.queue = insertReport ⟨639 + e.code, islOf tid.val, s.dev.partOf tid.val, some tid.val, e.code,
        BitVec.ofNat 64 (excDetail e.pc e.slot e.ea), s.dev.time.tick, s.dev.time.now⟩ s.dev.flt.queue)

namespace Sys2Proof.Claims

/-- How far a thread stands behind another in global thread order, going round (R72). -/
def after (prev tid : Nat) : Nat := (tid + 576 - prev - 1) % 576

/-- A thread has an acquire of a lock out that waits for its arbiter. -/
def acquires (d : Dev) (n tid : Nat) : Prop := d.asks tid (fun k => k == OutKind.acquire n) = true

/-- The lock register of an owner and a previous winner (R71, R72). -/
def lockWord (owner prev : Nat) : Word := BitVec.ofNat 64 (owner + 2 ^ 16 + prev * 2 ^ 32)

end Sys2Proof.Claims

/-- R70, R114: LKACQ and LKREL of a lock in the partition's grant send their request, LKREL after the thread's earlier stores (R67); of any other number they raise ACCESS_DENIED and no lock is touched. R71, R72: of the acquires that meet at a free lock the first in global thread order after the lock's previous winner takes it, becomes its previous winner and reads its own id with the acquired bit; a held lock stays as it is and the requester reads its owner's id; a release by the owner frees the lock and keeps its previous winner; a release by another thread leaves it and raises LOCK_MISUSE with the lock number and both ids. -/
def Obligations.LocksAreAskedForAndArbitrated : Prop :=
  (∀ (i : Issue) (rd ra : BitVec 5) (imm : BitVec 12) (s : State) (d0 : Dev) (p n : Nat),
    i.predOk = true → (actsOn i s).partOf i.tid.val = some p → (n : Int) = (((d0.thread i.tid.val).reg ra).toNat + imm.toNat) % 2 ^ 64 →
    (n < 4096 → (actsOn i s).granted p 2 0 n = true → Issues i true (destG rd) [rd, ra] s d0 → ∃ t, exec (.lkacq i rd ra imm) s = .next t ∧
      t.dev.regs = s.dev.regs ∧ t.dev.mem = s.dev.mem ∧ t.pending = s.pending ∧ (∀ u, u ≠ i.tid.val → t.dev.thread u = s.dev.thread u) ∧
      t.dev.thread i.tid.val = (let x := (actsOn i s).thread i.tid.val
        { x with outs := x.outs ++ [⟨x.nextId, .acquire n, rd, (d0.thread i.tid.val).pc, i.slot, s.dev.ns, (d0.thread i.tid.val).pasid, none⟩],
                 nextId := x.nextId + 1 })) ∧
    (n < 4096 → (actsOn i s).granted p 2 0 n = true → (actsOn i s).isStandby i.tid.val = false → ((actsOn i s).thread i.tid.val).stq = [] →
      Issues i true 0 [ra] s d0 → ∃ t, exec (.lkrel i ra imm) s = .next t ∧
      Does { actsOn i s with relPend := s.dev.relPend ++ [(n, i.tid.val, (d0.thread i.tid.val).pc, i.slot)] } s t) ∧
    (n < 4096 → (actsOn i s).granted p 2 0 n = true → ((actsOn i s).flush i.tid.val).isStandby i.tid.val = false → Issues i true 0 [ra] s d0 →
      ∃ t, exec (.lkrel i ra imm) s = .next t ∧ Does { (actsOn i s).flush i.tid.val with
        relPend := ((actsOn i s).flush i.tid.val).relPend ++ [(n, i.tid.val, (d0.thread i.tid.val).pc, i.slot)] } s t) ∧
    (4096 ≤ n ∨ (actsOn i s).granted p 2 0 n = false →
      (Issues i true (destG rd) [rd, ra] s d0 → ∃ t, exec (.lkacq i rd ra imm) s = .next t ∧ Excepts i 3 n d0 s t) ∧
      (Issues i true 0 [ra] s d0 → ∃ t, exec (.lkrel i ra imm) s = .next t ∧ Excepts i 3 n d0 s t))) ∧
  (∀ (lock : Fin 4096) (s : State), s.dev.live = true →
    (∀ (who : List (Fin 576)) (w : Fin 576), s.dev.lockHeld lock.val = false → s.dev.lockPrev lock.val < 576 → w ∈ who →
      Claims.acquires s.dev lock.val w.val →
      (∀ u ∈ who, Claims.acquires s.dev lock.val u.val → Claims.after (s.dev.lockPrev lock.val) w.val ≤ Claims.after (s.dev.lockPrev lock.val) u.val) →
      ∃ t, exec (.lockArbitrate lock who) s = .next t ∧ t.pending = s.pending ∧ t.dev.mem = s.dev.mem ∧
        t.dev.reg .lock lock.val = Claims.lockWord w.val w.val ∧
        (∀ r k, (r ≠ Reg.lock ∨ k ≠ lock.val) → t.dev.reg r k = s.dev.reg r k) ∧
        (∃ o ∈ (t.dev.thread w.val).outs, o.kind = .acquire lock.val ∧ o.res = some (BitVec.ofNat 64 (2 ^ 16 + w.val)))) ∧
    (∀ w : Fin 576, s.dev.lockHeld lock.val = true → Claims.acquires s.dev lock.val w.val →
      ∃ t, exec (.lockArbitrate lock [w]) s = .next t ∧ t.pending = s.pending ∧ t.dev.regs = s.dev.regs ∧ t.dev.mem = s.dev.mem ∧
        (∃ o ∈ (t.dev.thread w.val).outs, o.kind = .acquire lock.val ∧ o.res = some (BitVec.ofNat 64 (s.dev.lockOwner lock.val)))) ∧
    (∀ tid pc sl, s.dev.relPend.find? (fun r => r.1 == lock.val) = some (lock.val, tid, pc, sl) → s.dev.lockHeld lock.val = true →
      s.dev.lockOwner lock.val = tid → ∃ t, exec (.lockReleaseArrive lock) s = .next t ∧ t.pending = s.pending ∧
        t.dev.lockHeld lock.val = false ∧ t.dev.lockPrev lock.val = s.dev.lockPrev lock.val ∧ t.dev.flt.queue = s.dev.flt.queue ∧
        (∀ r k, (r ≠ Reg.lock ∨ k ≠ lock.val) → t.dev.reg r k = s.dev.reg r k)) ∧
    (∀ tid pc sl, s.dev.relPend.find? (fun r => r.1 == lock.val) = some (lock.val, tid, pc, sl) →
      (s.dev.lockHeld lock.val = false ∨ s.dev.lockOwner lock.val ≠ tid) → ∃ t, exec (.lockReleaseArrive lock) s = .next t ∧
        t.pending = s.pending ∧ t.dev.regs = s.dev.regs ∧ t.dev.mem = s.dev.mem ∧
        t.dev.flt.queue = insertReport ⟨656, 2 + lock.val / 1024, s.dev.partOf tid, some tid, 0,
          BitVec.ofNat 64 (lock.val + (if s.dev.lockHeld lock.val then s.dev.lockOwner lock.val else 0x3FF) * 2 ^ 16 + tid * 2 ^ 32),
          s.dev.time.tick, s.dev.time.now⟩ s.dev.flt.queue))

/-- R115, R105, R61: TADD writes the normalised sum of a time word and signed nanoseconds; TNOWH writes seconds [47:32] of the tick of the last TNOW; TSET arms the ev30 timer and TCLR disarms it, and neither touches a pending bit; a time word whose nanoseconds are 1,000,000,000 or more raises TIME_FORMAT in TADD, TWAIT and TSET. R32, R115: TNOW writes a time word that names one of the two newest ticks of the thread's island, or the tick its thread last saw where that is later and no step of device time lies between; the tick it names is kept for TNOWH and for the next TNOW. -/
def Obligations.TimeInstructionsUseTimeWords : Prop :=
  (∀ (i : Issue) (rd ra rb : BitVec 5) (s : State) (d0 : Dev), i.predOk = true →
    (∀ (sec ns : Nat), Issues i false (destG rd) [rd, ra, rb] s d0 → ns < 1000000000 → sec < 2 ^ 32 →
      ((d0.thread i.tid.val).reg ra).toNat = sec * 2 ^ 32 + ns → ∃ t, ∃ q m : Int, exec (.tadd i rd ra rb) s = .next t ∧
        0 ≤ m ∧ m < 1000000000 ∧ q * 1000000000 + m = ns + ((d0.thread i.tid.val).reg rb).toInt ∧
        WritesReg i rd (BitVec.ofNat 64 (((sec + q) % 2 ^ 32).toNat * 2 ^ 32 + m.toNat)) s t) ∧
    (Issues i false (destG rd) [rd] s d0 → ∃ t, exec (.tnowh i rd) s = .next t ∧
      WritesReg i rd (BitVec.ofNat 64 ((d0.thread i.tid.val).tnow / 65536 / 1000000000 / 2 ^ 32 % 2 ^ 16)) s t) ∧
    (Issues i false 0 [ra, rb] s d0 → ((d0.thread i.tid.val).reg ra).toNat % 2 ^ 32 < 1000000000 → ∃ t, exec (.tset i ra rb) s = .next t ∧
      ChangesThread i (fun x => { x with
        period := ((d0.thread i.tid.val).reg rb).toNat % 2 ^ 32
        timer := some (expandTime ((actsOn i s).islNs (islOf i.tid.val) / 1000000000) ((d0.thread i.tid.val).reg ra)) }) s t) ∧
    (Issues i false 0 [] s d0 → ∃ t, exec (.tclr i) s = .next t ∧ ChangesThread i (fun x => { x with timer := none, period := 0 }) s t) ∧
    (1000000000 ≤ ((d0.thread i.tid.val).reg ra).toNat % 2 ^ 32 →
      (Issues i false (destG rd) [rd, ra, rb] s d0 → ∃ t, exec (.tadd i rd ra rb) s = .next t ∧ Excepts i 8 ((d0.thread i.tid.val).reg ra).toNat d0 s t) ∧
      (i.slot = .a → Issues i false 0 [ra] s d0 → ∃ t, exec (.twait i ra) s = .next t ∧ Excepts i 8 ((d0.thread i.tid.val).reg ra).toNat d0 s t) ∧
      (Issues i false 0 [ra, rb] s d0 → ∃ t, exec (.tset i ra rb) s = .next t ∧ Excepts i 8 ((d0.thread i.tid.val).reg ra).toNat d0 s t)) ∧
    (∀ (now sec ns : Nat), ns < 1000000000 → sec < 2 ^ 32 → 2 ^ 31 ≤ now ∨ sec ≤ now + 2 ^ 31 →
      ∃ q : Nat, expandTime now (BitVec.ofNat 64 (sec * 2 ^ 32 + ns)) = q * 1000000000 + ns ∧
      q % 2 ^ 32 = sec ∧ q ≤ now + 2 ^ 31 ∧ now ≤ q + 2 ^ 31)) ∧
  (∀ (i : Issue) (rd : BitVec 5) (s : State) (d0 : Dev), i.predOk = true → Issues i false (destG rd) [rd] s d0 → Simplex (actsOn i s) i.tid.val →
    ∃ t at_, exec (.tnow i rd) s = .next t ∧ t.pending = s.pending ∧ t.dev.regs = s.dev.regs ∧ t.dev.mem = s.dev.mem ∧
      (∀ u, u ≠ i.tid.val → t.dev.thread u = s.dev.thread u) ∧
      t.dev.thread i.tid.val = { (actsOn i s).thread i.tid.val with tnow := at_, tnowSteps := s.dev.time.steps }.setReg rd (timeWord (at_ / 65536)) ∧
      (at_ ≤ (s.dev.islNow (islOf i.tid.val)) ∨ at_ = (s.dev.thread i.tid.val).tnow) ∧
      s.dev.islNow (islOf i.tid.val) ≤ at_ + s.dev.rf .timeAddend 0 0 32 ∧
      ((s.dev.thread i.tid.val).tnowSteps = s.dev.time.steps → (s.dev.thread i.tid.val).tnow ≤ at_))

/-- R62, R58, R26: a TWAIT whose target is at or before device time completes in its own slot; otherwise its thread is WAITING until its island's time reaches the target, and then runs on with everything else as it was. The ev30 timer takes no part. R59, R61: when a thread's timer has come, ev30 becomes pending and a WAITEV that selects it completes; a one-shot timer is then disarmed, a periodic one moves to its first occurrence after device time and adds those it passed over to the skip count. -/
def Obligations.WaitsAndTimersFollowDeviceTime : Prop :=
  ((∀ (i : Issue) (ra : BitVec 5) (s : State) (d0 : Dev), i.predOk = true → i.slot = .a → Issues i false 0 [ra] s d0 →
    ((d0.thread i.tid.val).reg ra).toNat % 2 ^ 32 < 1000000000 → ∀ target, target = expandTime ((actsOn i s).islNs (islOf i.tid.val) / 1000000000) ((d0.thread i.tid.val).reg ra) →
    (target ≤ (actsOn i s).islNs (islOf i.tid.val) → ∃ t, exec (.twait i ra) s = .next t ∧ ChangesThread i (fun x => x) s t) ∧
    ((actsOn i s).islNs (islOf i.tid.val) < target → ∃ t, exec (.twait i ra) s = .next t ∧
      ChangesThread i (fun x => { x with st := .waiting, wait := .twait target, stepping := (d0.thread i.tid.val).stepping }) s t)) ∧
  (∀ (tid : Fin 576) (s : State) (target : Nat), s.dev.live = true → (s.dev.thread tid.val).st = .waiting → (s.dev.thread tid.val).wait = .twait target →
    (target ≤ s.dev.islNs (islOf tid.val) → ∃ t, exec (.twaitExpire tid) s = .next t ∧ t.pending = s.pending ∧
      t.dev.thread tid.val = (s.dev.thread tid.val).wake ∧ t.dev.regs = s.dev.regs ∧ t.dev.mem = s.dev.mem ∧ (∀ u, u ≠ tid.val → t.dev.thread u = s.dev.thread u)) ∧
    (s.dev.islNs (islOf tid.val) < target → ∃ t, exec (.twaitExpire tid) s = .next t ∧ t.dev = s.dev))) ∧
  (∀ (tid : Fin 576) (s : State) (target : Nat), s.dev.live = true → (s.dev.thread tid.val).timer = some target → target ≤ s.dev.islNs (islOf tid.val) →
    ∃ t, exec (.timerEv30Fire tid) s = .next t ∧ t.pending = s.pending ∧ t.dev.mem = s.dev.mem ∧ t.dev.regs = s.dev.regs ∧
      ((s.dev.thread tid.val).st = .running → (t.dev.thread tid.val).ev = (s.dev.thread tid.val).ev ||| 0x40000000#32 ∧
        (∀ u, u ≠ tid.val → t.dev.thread u = s.dev.thread u)) ∧
      (Simplex s.dev tid.val → ∀ rd mask, (s.dev.thread tid.val).st = .waiting → (s.dev.thread tid.val).wait = .events rd mask → mask.getLsbD 30 = true →
        (s.dev.thread tid.val).stepping = false → (t.dev.thread tid.val).st = .running ∧ (t.dev.thread tid.val).wait = .none ∧
        (rd ≠ 0 → (t.dev.thread tid.val).reg rd = (((s.dev.thread tid.val).ev ||| 0x40000000#32) &&& mask).setWidth 64) ∧
        (t.dev.thread tid.val).ev = ((s.dev.thread tid.val).ev ||| 0x40000000#32) &&& ~~~mask) ∧
      ((s.dev.thread tid.val).period = 0 → (t.dev.thread tid.val).timer = none) ∧
      (0 < (s.dev.thread tid.val).period → ∃ n, (t.dev.thread tid.val).timer = some (target + (n + 1) * (4 * (s.dev.thread tid.val).period)) ∧
        target + n * (4 * (s.dev.thread tid.val).period) ≤ s.dev.islNs (islOf tid.val) ∧
        s.dev.islNs (islOf tid.val) < target + (n + 1) * (4 * (s.dev.thread tid.val).period) ∧
        (t.dev.thread tid.val).skip = min ((s.dev.thread tid.val).skip + n) (2 ^ 32 - 1)))

namespace Sys2Proof.Claims

/-- R116: the effective mask of a WAITEV: bit 31 is in it for the supervisor alone. -/
def effMask (sup : Bool) (v : Word) (m : W32) : Prop := ∀ k < 32, m.getLsbD k = if k = 31 then sup else v.getLsbD k

end Sys2Proof.Claims

/-- R60, R116: WAITEV with an empty effective mask writes 0 and does not wait; with a pending bit in the mask it completes in its slot, clears the bits it selects and writes them to rd; else its thread is WAITING for them. FENCE holds the next bundle of its thread (R113). R117, R59: SIGEV.T sets the named line in its target after the thread's earlier stores, and SIGEV.G in every member of the group; a line above ev29 raises EVENT_LINE, and a target outside the partition ACCESS_DENIED. -/
def Obligations.EventsAreTakenAndSignalled : Prop :=
  (∀ (i : Issue) (rd ra : BitVec 5) (s : State) (d0 : Dev), i.predOk = true →
    (i.slot = .a → Issues i false (destG rd) [rd, ra] s d0 → Simplex (actsOn i s) i.tid.val → ∀ m, Claims.effMask ((actsOn i s).isSupervisor i.tid.val) ((d0.thread i.tid.val).reg ra) m →
      (m = 0 → ∃ t, exec (.waitev i rd ra) s = .next t ∧ WritesReg i rd 0 s t) ∧
      (((actsOn i s).thread i.tid.val).ev &&& m ≠ 0 → ∃ t, exec (.waitev i rd ra) s = .next t ∧
        ChangesThread i (fun x => { x with ev := x.ev &&& ~~~m }.setReg rd ((x.ev &&& m).setWidth 64)) s t) ∧
      (m ≠ 0 → ((actsOn i s).thread i.tid.val).ev &&& m = 0 → ∃ t, exec (.waitev i rd ra) s = .next t ∧
        ChangesThread i (fun x => { x with st := .waiting, wait := .events rd m, stepping := (d0.thread i.tid.val).stepping }) s t)) ∧
    (Issues i false 0 [] s d0 → ∃ t, exec (.fence i) s = .next t ∧ ChangesThread i (fun x => { x with fence := true }) s t) ∧
    (i.slot = .a → (s.dev.thread i.tid.val).fence = true → mayIssue s.dev i.tid.val → s.dev.isStale i.tid.val = false →
      ((s.dev.thread i.tid.val).outs ≠ [] ∨ (s.dev.thread i.tid.val).stq ≠ []) → ∃ t, exec (.fence i) s = .next t ∧ Starves s.dev s t)) ∧
  (∀ (i : Issue) (ra line : BitVec 5) (s : State) (d0 : Dev), i.predOk = true → Issues i true 0 [ra] s d0 →
    (∀ target, target = ((d0.thread i.tid.val).reg ra).toNat % 1024 → line.toNat < 30 → target < 576 →
      (actsOn i s).partOf target = (actsOn i s).partOf i.tid.val → Simplex (actsOn i s) i.tid.val → Simplex (actsOn i s) target →
      ((actsOn i s).thread i.tid.val).stq = [] → ((actsOn i s).thread target).st = .running →
      ∃ t, exec (.sigevT i ra line) s = .next t ∧ t.pending = s.pending ∧ t.dev.regs = s.dev.regs ∧ t.dev.mem = s.dev.mem ∧
        t.dev.thread target = { (actsOn i s).thread target with ev := ((actsOn i s).thread target).ev ||| (1#32 <<< line.toNat) } ∧
        (∀ u, u ≠ target → t.dev.thread u = (actsOn i s).thread u)) ∧
    (∀ target, target = ((d0.thread i.tid.val).reg ra).toNat % 1024 → line.toNat < 30 → target < 576 →
      (actsOn i s).partOf target = (actsOn i s).partOf i.tid.val → ((actsOn i s).flush i.tid.val).isStandby i.tid.val = false →
      ∃ t d, exec (.sigevT i ra line) s = .next t ∧ d = ((actsOn i s).flush i.tid.val).setEvent (((actsOn i s).flush i.tid.val).activeTid target) line.toNat ∧
        t.dev.thr = d.thr ∧ t.dev.mem = d.mem ∧ t.dev.regs = d.regs) ∧
    (∀ g p, g = ((d0.thread i.tid.val).reg ra).toNat % 65536 → line.toNat < 30 → (actsOn i s).partOf i.tid.val = some p →
      (actsOn i s).groupOk p g = true → ((actsOn i s).flush i.tid.val).isStandby i.tid.val = false →
      ∃ t d, exec (.sigevG i ra line) s = .next t ∧
        d = (((actsOn i s).flush i.tid.val).groupMembers g).foldl (fun d u => d.setEvent u line.toNat) ((actsOn i s).flush i.tid.val) ∧
        t.dev.thr = d.thr ∧ t.dev.mem = d.mem ∧ t.dev.regs = d.regs) ∧
    (30 ≤ line.toNat → (∃ t, exec (.sigevT i ra line) s = .next t ∧ Excepts i 7 line.toNat d0 s t) ∧
      (∃ t, exec (.sigevG i ra line) s = .next t ∧ Excepts i 7 line.toNat d0 s t)) ∧
    (line.toNat < 30 → (∀ target, target = ((d0.thread i.tid.val).reg ra).toNat % 1024 →
        576 ≤ target ∨ (actsOn i s).partOf target ≠ (actsOn i s).partOf i.tid.val → ∃ t, exec (.sigevT i ra line) s = .next t ∧ Excepts i 3 target d0 s t) ∧
      (∀ g p, g = ((d0.thread i.tid.val).reg ra).toNat % 65536 → (actsOn i s).partOf i.tid.val = some p → (actsOn i s).groupOk p g = false →
        ∃ t, exec (.sigevG i ra line) s = .next t ∧ Excepts i 3 g d0 s t)))

/-- R118, R119, R92: PKT.GET takes the thread's oldest assigned frame: it becomes current, rd reads its handle and the windows hold its bytes; with none assigned rd reads 0 and nothing else changes. WST writes a window and marks it. PKT.SEND and PKT.DROP end the current frame, PKT.SEND with the bytes that WST wrote and the action word, PKT.DROP as a counted drop. R118, R127: a packet instruction of a background thread raises PRIV_INSN; PKT.GET with a frame held, and WST, PKT.SEND and PKT.DROP without the matching current frame, raise PKT_STATE. -/
def Obligations.PacketInstructionsHoldOneFrame : Prop :=
  (∀ (i : Issue) (w : BitVec 4) (rd ra rb : BitVec 5) (s : State) (d0 : Dev), i.predOk = true → i.tid.val < 512 →
    (Issues i true (destG rd) [rd] s d0 → Simplex (actsOn i s) i.tid.val → (d0.thread i.tid.val).frame = none →
      ((actsOn i s).thread i.tid.val).assigned = [] → ∃ t, exec (.pktGet i rd) s = .next t ∧ WritesReg i rd 0 s t) ∧
    (∀ f x, Issues i true (destG rd) [rd] s d0 → Simplex (actsOn i s) i.tid.val → (d0.thread i.tid.val).frame = none →
      ((actsOn i s).thread i.tid.val).assigned = [f] → s.dev.frame f = some x → ∃ t, exec (.pktGet i rd) s = .next t ∧
      t.pending = s.pending ∧ t.dev.regs = s.dev.regs ∧ t.dev.mem = s.dev.mem ∧ t.dev.pkt = s.dev.pkt ∧ (∀ u, u ≠ i.tid.val → t.dev.thread u = s.dev.thread u) ∧
      t.dev.thread i.tid.val = { (actsOn i s).thread i.tid.val with assigned := [], frame := some f, w := frameWindows x, wst := 0 }.setReg rd (handleOf f x)) ∧
    (Issues i false (destW w) [ra] s d0 → (d0.thread i.tid.val).frame.isSome = true → ∃ t, exec (.wst i w ra) s = .next t ∧
      ChangesThread i (fun x => { x.setWin w ((d0.thread i.tid.val).reg ra) with wst := x.wst ||| (1#16 <<< w.toNat) }) s t) ∧
    (∀ f x, Issues i true 0 [ra, rb] s d0 → (actsOn i s).isStandby i.tid.val = false → (d0.thread i.tid.val).frame = some f → d0.frame f = some x →
      handleOf f x = (d0.thread i.tid.val).reg ra → ∃ t d, exec (.pktSend i ra rb) s = .next t ∧
      d = (((actsOn i s).updThread i.tid.val (fun x => { x with frame := none, w := [], wst := 0 })).setFrame f (applyWst x (d0.thread i.tid.val))).completeFrame f
        (((d0.thread i.tid.val).reg rb).toNat % 2 ^ 32) ∧ t.pending = s.pending ∧ t.dev.regs = d.regs ∧ t.dev.mem = d.mem ∧ t.dev.pkt = d.pkt ∧ t.dev.thr = d.thr) ∧
    (∀ f x, Issues i true 0 [ra] s d0 → (actsOn i s).isStandby i.tid.val = false → (d0.thread i.tid.val).frame = some f → d0.frame f = some x →
      handleOf f x = (d0.thread i.tid.val).reg ra → ∃ t, exec (.pktDrop i ra) s = .next t ∧
      Does (((((actsOn i s).updThread i.tid.val (fun x => { x with frame := none, w := [], wst := 0 })).count (evE (islOf i.tid.val) 257)).freeEntry f).dropFrame f) s t)) ∧
  (∀ (i : Issue) (w : BitVec 4) (rd ra rb : BitVec 5) (s : State) (d0 : Dev), i.predOk = true →
    (512 ≤ i.tid.val →
      (Issues i true (destG rd) [rd] s d0 → ∃ t, exec (.pktGet i rd) s = .next t ∧ Excepts i 2 0 d0 s t) ∧
      (Issues i true 0 [ra, rb] s d0 → ∃ t, exec (.pktSend i ra rb) s = .next t ∧ Excepts i 2 0 d0 s t) ∧
      (Issues i true 0 [ra] s d0 → ∃ t, exec (.pktDrop i ra) s = .next t ∧ Excepts i 2 0 d0 s t) ∧
      (Issues i false (destW w) [ra] s d0 → ∃ t, exec (.wst i w ra) s = .next t ∧ Excepts i 2 0 d0 s t)) ∧
    (i.tid.val < 512 → (d0.thread i.tid.val).frame.isSome = true → Issues i true (destG rd) [rd] s d0 →
      ∃ t, exec (.pktGet i rd) s = .next t ∧ Excepts i 9 0 d0 s t) ∧
    (i.tid.val < 512 → (d0.thread i.tid.val).frame = none ∨ (∃ f x, (d0.thread i.tid.val).frame = some f ∧ d0.frame f = some x ∧ handleOf f x ≠ (d0.thread i.tid.val).reg ra) →
      (Issues i true 0 [ra, rb] s d0 → ∃ t, exec (.pktSend i ra rb) s = .next t ∧ Excepts i 9 ((d0.thread i.tid.val).reg ra).toNat d0 s t) ∧
      (Issues i true 0 [ra] s d0 → ∃ t, exec (.pktDrop i ra) s = .next t ∧ Excepts i 9 ((d0.thread i.tid.val).reg ra).toNat d0 s t)) ∧
    (i.tid.val < 512 → (d0.thread i.tid.val).frame = none → Issues i false (destW w) [ra] s d0 →
      ∃ t, exec (.wst i w ra) s = .next t ∧ Excepts i 9 0 d0 s t))

namespace Sys2Proof.Claims

/-- R121: one bit of the bare CRC update with a reflected polynomial: the register moves down a bit, and takes the polynomial where the bit that falls out differs from the message's. -/
def crcBit (poly c b : Nat) : Nat := if (c + b) % 2 = 1 then (c / 2) ^^^ poly else c / 2

/-- The update over the low `n` bits of a message, bit 0 first. -/
def crcBits (poly : Nat) : Nat → Nat → Nat → Nat
  | 0, c, _ => c
  | n + 1, c, m => crcBits poly n (crcBit poly c (m % 2)) (m / 2)

/-- R120, R151: the 32-bit Toeplitz hash of 64 data bits, bit 63 first: each data bit that is set adds the 32 key bits that start at its place, counted from key bit `start` (bit 0 of the key first). -/
def toeplitzBits (key : Nat → Bool) (start : Nat) (data : Word) (k : Nat) : Bool :=
  (List.range 64).foldl (fun a j => a.xor (data.getLsbD (63 - j) && key (start + j + (31 - k)))) false

end Sys2Proof.Claims

/-- R120, R121: CRC32C and CRC64 write the bare update of ra over the low bytes of rb, least significant byte first, with the reflected polynomials 0x82F63B78 and 0xC96C5795D7870F42; HASH writes the Toeplitz hash of ra under the partition's key from key bit rb[7:0]. None of them changes anything else. -/
def Obligations.ChecksumsAndHash : Prop :=
  ∀ (i : Issue) (sz : BitVec 2) (rd ra rb : BitVec 5) (s : State) (d0 : Dev), i.predOk = true →
    Issues i false (destG rd) [rd, ra, rb] s d0 →
    (∃ t, exec (.crc32c i sz rd ra rb) s = .next t ∧ WritesReg i rd (BitVec.ofNat 64
      (Claims.crcBits 0x82F63B78 (8 * 2 ^ sz.toNat) (((d0.thread i.tid.val).reg ra).toNat % 2 ^ 32) ((d0.thread i.tid.val).reg rb).toNat)) s t) ∧
    (∃ t, exec (.crc64 i sz rd ra rb) s = .next t ∧ WritesReg i rd (BitVec.ofNat 64
      (Claims.crcBits 0xC96C5795D7870F42 (8 * 2 ^ sz.toNat) ((d0.thread i.tid.val).reg ra).toNat ((d0.thread i.tid.val).reg rb).toNat)) s t) ∧
    (∀ p, (actsOn i s).partOf i.tid.val = some p → ∃ t v, exec (.hash i rd ra rb) s = .next t ∧ WritesReg i rd v s t ∧
      ∀ k < 64, v.getLsbD k = (decide (k < 32) && Claims.toeplitzBits (fun q => ((actsOn i s).hashKey p).testBit (351 - q))
        (((d0.thread i.tid.val).reg rb).toNat % 256) ((d0.thread i.tid.val).reg ra) k))

/-- R120: LKX and LKW of a table of the partition go out with the key in their consecutive registers; an LKX whose entry the island's cache answers, and every LKW, has its result at once: the hit bit with the entry's result field, or with the rule's index and action word, and 0 for a miss; a table that is not the partition's raises ACCESS_DENIED, and an LKX key beyond g31 ILLEGAL_INSN. -/
def Obligations.LookupsAskTheirTable : Prop :=
  ∀ (i : Issue) (rd ra : BitVec 5) (table : BitVec 8) (s : State) (d0 : Dev) (p : Nat), i.predOk = true →
    (actsOn i s).partOf i.tid.val = some p → (actsOn i s).isStandby i.tid.val = false →
    (∀ v d, Issues i true (destG rd) [rd, ra] s d0 → (actsOn i s).exactOf p table.toNat = true →
      ra.toNat + (actsOn i s).tdirN table.toNat ≤ 32 → (∀ k < (actsOn i s).tdirN table.toNat, (d0.thread i.tid.val).busy (BitVec.ofNat 5 (ra.toNat + k)) = false) →
      (actsOn i s).exactFast (islOf i.tid.val) p table.toNat (keyOfRegs (d0.thread i.tid.val) ra.toNat ((actsOn i s).tdirN table.toNat)) = some (v, d) →
      ∃ t, exec (.lkx i rd ra table) s = .next t ∧ t.pending = s.pending ∧ t.dev.mem = d.mem ∧
        (t.dev.thread i.tid.val).outs = (d.thread i.tid.val).outs ++ [⟨(d.thread i.tid.val).nextId,
          .lkx table.toNat (keyOfRegs (d0.thread i.tid.val) ra.toNat ((actsOn i s).tdirN table.toNat)), rd, (d0.thread i.tid.val).pc, i.slot, d.ns,
          (d0.thread i.tid.val).pasid, some (v.getD 0)⟩]) ∧
    (Issues i true (destG rd) [rd, ra] s d0 → (actsOn i s).exactOf p table.toNat = true →
      ra.toNat + (actsOn i s).tdirN table.toNat ≤ 32 → (∀ k < (actsOn i s).tdirN table.toNat, (d0.thread i.tid.val).busy (BitVec.ofNat 5 (ra.toNat + k)) = false) →
      (actsOn i s).exactFast (islOf i.tid.val) p table.toNat (keyOfRegs (d0.thread i.tid.val) ra.toNat ((actsOn i s).tdirN table.toNat)) = none →
      ∃ t, exec (.lkx i rd ra table) s = .next t ∧ t.pending = s.pending ∧ t.dev.mem = s.dev.mem ∧ t.dev.regs = s.dev.regs ∧
        t.dev.thread i.tid.val = (let x := (actsOn i s).thread i.tid.val
          { x with outs := x.outs ++ [⟨x.nextId, .lkx table.toNat (keyOfRegs (d0.thread i.tid.val) ra.toNat ((actsOn i s).tdirN table.toNat)), rd,
              (d0.thread i.tid.val).pc, i.slot, s.dev.ns, (d0.thread i.tid.val).pasid, none⟩], nextId := x.nextId + 1 })) ∧
    (Issues i true (destG rd) (rd :: (List.range 10).map (fun k => BitVec.ofNat 5 (ra.toNat + k))) s d0 → ra.toNat ≤ 22 →
      ((actsOn i s).wildRange p table.toNat ((actsOn i s).rf .clsTdir table.toNat 16 4)).isSome = true →
      ∃ t v, exec (.lkw i rd ra table) s = .next t ∧
        (match (actsOn i s).wildLookup p table.toNat ((actsOn i s).rf .clsTdir table.toNat 16 4) (keyOfRegs (d0.thread i.tid.val) ra.toNat 10) with
          | some (n, r) => v = BitVec.ofNat 64 (2 ^ 63 + n * 2 ^ 32 + r.action.toNat)
          | none => v = 0) ∧
        ChangesThread i (fun x => { x with
          outs := x.outs ++ [⟨x.nextId, .lkw table.toNat (keyOfRegs (d0.thread i.tid.val) ra.toNat 10), rd, (d0.thread i.tid.val).pc, i.slot, s.dev.ns,
            (d0.thread i.tid.val).pasid, some v⟩]
          nextId := x.nextId + 1 }) s t) ∧
    (Issues i true (destG rd) [rd, ra] s d0 → (actsOn i s).exactOf p table.toNat = false →
      ∃ t, exec (.lkx i rd ra table) s = .next t ∧ Excepts i 3 table.toNat d0 s t) ∧
    (Issues i true (destG rd) [rd, ra] s d0 → (actsOn i s).exactOf p table.toNat = true → 32 < ra.toNat + (actsOn i s).tdirN table.toNat →
      ∃ t, exec (.lkx i rd ra table) s = .next t ∧ Excepts i 1 ra.toNat d0 s t) ∧
    (Issues i true (destG rd) (rd :: (List.range 10).map (fun k => BitVec.ofNat 5 (ra.toNat + k))) s d0 → ra.toNat ≤ 22 →
      ((actsOn i s).wildRange p table.toNat ((actsOn i s).rf .clsTdir table.toNat 16 4)).isNone = true →
      ∃ t, exec (.lkw i rd ra table) s = .next t ∧ Excepts i 3 table.toNat d0 s t)

/-- R122, R123: SUBMIT copies the 64-byte descriptor into the thread's queue of the named unit after its earlier stores, and rd reads a tag that none of the thread's outstanding ones has, from 1 to 65,535; with 16 outstanding it submits nothing and rd reads 0; with the queue full it starves; a misaligned or outside offset is an exception. ACCPOLL reads a tag's word and retires a tag that is done. -/
def Obligations.SubmissionsCarryTags : Prop :=
  ∀ (i : Issue) (rd ra : BitVec 5) (unit : BitVec 2) (s : State) (d0 : Dev), i.predOk = true →
    (i.slot = .a → unit.toNat < 2 → Issues i true (destG rd) [rd, ra] s d0 → ∀ off, off = ((d0.thread i.tid.val).reg ra).toNat →
      (off % 64 = 0 → off < 0x40000 → (d0.thread i.tid.val).tags.length < 16 → ((d0.thread i.tid.val).sub (unit == 1#2)).length < 4 →
        ((actsOn i s).thread i.tid.val).stq = [] → ∃ t n, exec (.submit i rd ra unit) s = .next t ∧ 1 ≤ n ∧ n ≤ 65535 ∧
        (∀ g ∈ (d0.thread i.tid.val).tags, g.tag ≠ n) ∧ t.pending = s.pending ∧ t.dev.regs = s.dev.regs ∧ t.dev.mem = s.dev.mem ∧
        (∀ u, u ≠ i.tid.val → t.dev.thread u = s.dev.thread u) ∧
        t.dev.thread i.tid.val = (let x := (actsOn i s).thread i.tid.val
          { (x.setSub (unit == 1#2) (x.sub (unit == 1#2) ++ [⟨n, s.dev.time.tick, d0.read (localAddr (coreOf i.tid.val) off) 64⟩])).setReg rd (BitVec.ofNat 64 n)
            with tags := x.tags ++ [⟨n, false, 0⟩], lastTag := n })) ∧
      (off % 64 = 0 → off < 0x40000 → 16 ≤ (d0.thread i.tid.val).tags.length → ∃ t, exec (.submit i rd ra unit) s = .next t ∧ WritesReg i rd 0 s t) ∧
      (off % 64 = 0 → off < 0x40000 → (d0.thread i.tid.val).tags.length < 16 → 4 ≤ ((d0.thread i.tid.val).sub (unit == 1#2)).length →
        ∃ t, exec (.submit i rd ra unit) s = .next t ∧ Starves s.dev s t) ∧
      (off % 64 ≠ 0 → ∃ t, exec (.submit i rd ra unit) s = .next t ∧ Excepts i 4 off d0 s t) ∧
      (off % 64 = 0 → 0x40000 ≤ off → ∃ t, exec (.submit i rd ra unit) s = .next t ∧ Excepts i 3 off d0 s t)) ∧
    (Issues i false (destG rd) [rd, ra] s d0 → Simplex (actsOn i s) i.tid.val → ∀ n, n = ((d0.thread i.tid.val).reg ra).toNat →
      (∀ g, (d0.thread i.tid.val).tags.find? (fun g => g.tag == n) = some g → ∃ t, exec (.accpoll i rd ra) s = .next t ∧
        ChangesThread i (fun x => { x with tags := if g.done then x.tags.filter (fun q => q.tag != n) else x.tags }.setReg rd
          (BitVec.ofNat 64 ((if g.done then 2 ^ 31 else 0) + g.status.toNat * 2 ^ 16 + g.tag))) s t) ∧
      ((d0.thread i.tid.val).tags.find? (fun g => g.tag == n) = none → ∃ t, exec (.accpoll i rd ra) s = .next t ∧ WritesReg i rd 0 s t))

/-- R124, R125: DCLAIM of a channel that is granted to the partition on the thread's island sends its request with an open shadow set; DWR writes the thread's shadow set of the channel and is discarded without a claim; DSTART with no claim reads 1; DREL of a request keeps the request and discards its shadow set; DPOLL asks for the status register; a channel of another island or partition raises ACCESS_DENIED in DCLAIM and DPOLL. -/
def Obligations.ClaimsAndShadowSetsAreTheThreads : Prop :=
  ∀ (i : Issue) (idx : BitVec 4) (rd ra rb : BitVec 5) (s : State) (d0 : Dev) (ch : Nat), i.predOk = true → ch = ((d0.thread i.tid.val).reg ra).toNat →
    ((actsOn i s).chanOk i.tid.val ch = true → Issues i true (destG rd) [rd, ra] s d0 →
      (∃ t, exec (.dclaim i rd ra) s = .next t ∧ ChangesThread i (fun x => { x with
        outs := x.outs ++ [⟨x.nextId, .claim ch, rd, (d0.thread i.tid.val).pc, i.slot, s.dev.ns, (d0.thread i.tid.val).pasid, none⟩]
        nextId := x.nextId + 1
        claims := x.claims ++ [⟨ch, false, none, 0, []⟩] }) s t) ∧
      (∃ t, exec (.dpoll i rd ra) s = .next t ∧ ChangesThread i (fun x => { x with
        outs := x.outs ++ [⟨x.nextId, .dpoll ch, rd, (d0.thread i.tid.val).pc, i.slot, s.dev.ns, (d0.thread i.tid.val).pasid, none⟩]
        nextId := x.nextId + 1 }) s t)) ∧
    ((actsOn i s).chanOk i.tid.val ch = false → Issues i true (destG rd) [rd, ra] s d0 →
      (∃ t, exec (.dclaim i rd ra) s = .next t ∧ Excepts i 3 ch d0 s t) ∧ (∃ t, exec (.dpoll i rd ra) s = .next t ∧ Excepts i 3 ch d0 s t)) ∧
    (Issues i false (destD ra idx) [ra, rb] s d0 →
      (∀ k, ((actsOn i s).thread i.tid.val).claimAt ch = some k → ∃ t, exec (.dwr i idx ra rb) s = .next t ∧ ChangesThread i (fun x => { x with
        claims := x.claims.modify k (fun c => { c with shadow := tabIns idx.toNat ((d0.thread i.tid.val).reg rb) c.shadow }) }) s t) ∧
      (((actsOn i s).thread i.tid.val).claimAt ch = none → ∃ t, exec (.dwr i idx ra rb) s = .next t ∧ ChangesThread i (fun x => x) s t)) ∧
    (i.slot = .a → Issues i true (destG rd) [rd, ra] s d0 →
      (((actsOn i s).thread i.tid.val).claimAt ch = none → ∃ t, exec (.dstart i rd ra) s = .next t ∧ WritesReg i rd 1 s t) ∧
      (∀ k c, ((actsOn i s).thread i.tid.val).claimAt ch = some k → ((actsOn i s).thread i.tid.val).claims[k]? = some c → c.granted = false →
        ∃ t, exec (.dstart i rd ra) s = .next t ∧ Starves s.dev s t) ∧
      (∀ k c, ((actsOn i s).thread i.tid.val).claimAt ch = some k → ((actsOn i s).thread i.tid.val).claims[k]? = some c → c.granted = true →
        (actsOn i s).isStandby i.tid.val = false → ∃ t, exec (.dstart i rd ra) s = .next t ∧ t.pending = s.pending ∧ t.dev.mem = s.dev.mem ∧
        (t.dev.chan ch).armed = some ⟨i.tid.val, none, false, c.shadow⟩ ∧ (t.dev.chan ch).claim = none ∧
        t.dev.rb .dmaChStat ch 1 = true ∧ t.dev.rb .dmaChStat ch 2 = false ∧ (∀ r j, r ≠ Reg.dmaChStat ∨ j ≠ ch → t.dev.reg r j = s.dev.reg r j) ∧
        (∀ u, u ≠ i.tid.val → t.dev.thread u = s.dev.thread u) ∧
        t.dev.thread i.tid.val = { (actsOn i s).thread i.tid.val with claims := ((actsOn i s).thread i.tid.val).claims.eraseIdx k }.setReg rd 0)) ∧
    (Issues i true 0 [ra] s d0 →
      (((actsOn i s).thread i.tid.val).claimAt ch = none → ∃ t, exec (.drel i ra) s = .next t ∧ ChangesThread i (fun x => x) s t) ∧
      (∀ k c, ((actsOn i s).thread i.tid.val).claimAt ch = some k → ((actsOn i s).thread i.tid.val).claims[k]? = some c → c.granted = true →
        (actsOn i s).isStandby i.tid.val = false → ∃ t, exec (.drel i ra) s = .next t ∧ t.pending = s.pending ∧ t.dev.mem = s.dev.mem ∧
        (t.dev.chan ch).claim = none ∧ t.dev.rb .dmaChStat ch 2 = false ∧ (∀ r j, r ≠ Reg.dmaChStat ∨ j ≠ ch → t.dev.reg r j = s.dev.reg r j) ∧
        t.dev.thread i.tid.val = { (actsOn i s).thread i.tid.val with claims := ((actsOn i s).thread i.tid.val).claims.eraseIdx k }) ∧
      (∀ k c, ((actsOn i s).thread i.tid.val).claimAt ch = some k → ((actsOn i s).thread i.tid.val).claims[k]? = some c → c.granted = false →
        ∃ t, exec (.drel i ra) s = .next t ∧ ChangesThread i (fun x => { x with claims := x.claims.modify k (fun c => { c with shadow := [] }) }) s t))

/-- R262, R72, R85: of the claim requests that meet at a free channel the first thread in global thread order after its previous winner that holds fewer than two claims takes it, and reads bit 0; at a held channel the requester reads bit 1 and nothing of the channel changes. A claim whose lease has run out is dropped with its shadow set, the channel is free, and CLAIM_EXPIRED carries the channel and the thread. -/
def Obligations.ChannelArbiterGrantsOneClaim : Prop :=
  ∀ (ch : Fin 1024) (s : State), s.dev.live = true →
    (∀ w : Fin 576, s.dev.chanHeld ch.val = false → s.dev.asks w.val (fun k => k == OutKind.claim ch.val) = true →
      ((s.dev.thread w.val).held).length < 2 → ∃ t, exec (.claimArbitrate ch [w]) s = .next t ∧ t.pending = s.pending ∧ t.dev.mem = s.dev.mem ∧
        (t.dev.chan ch.val).claim = some w.val ∧ (t.dev.chan ch.val).prevWin = w.val ∧ t.dev.rb .dmaChStat ch.val 2 = true ∧
        (∀ r j, r ≠ Reg.dmaChStat ∨ j ≠ ch.val → t.dev.reg r j = s.dev.reg r j) ∧
        (∃ o ∈ (t.dev.thread w.val).outs, o.kind = .claim ch.val ∧ o.res = some 1)) ∧
    (∀ (who : List (Fin 576)) (w : Fin 576), s.dev.chanHeld ch.val = false → (s.dev.chan ch.val).prevWin < 576 → w ∈ who →
      s.dev.asks w.val (fun k => k == OutKind.claim ch.val) = true → ((s.dev.thread w.val).held).length < 2 →
      (∀ u ∈ who, s.dev.asks u.val (fun k => k == OutKind.claim ch.val) = true → ((s.dev.thread u.val).held).length < 2 →
        Claims.after (s.dev.chan ch.val).prevWin w.val ≤ Claims.after (s.dev.chan ch.val).prevWin u.val) →
      ∃ t, exec (.claimArbitrate ch who) s = .next t ∧ (t.dev.chan ch.val).claim = some w.val ∧ (t.dev.chan ch.val).prevWin = w.val) ∧
    (∀ w : Fin 576, s.dev.chanHeld ch.val = true → s.dev.asks w.val (fun k => k == OutKind.claim ch.val) = true →
      ∃ t, exec (.claimArbitrate ch [w]) s = .next t ∧ t.dev.regs = s.dev.regs ∧ t.dev.chan ch.val = s.dev.chan ch.val ∧
        (∃ o ∈ (t.dev.thread w.val).outs, o.kind = .claim ch.val ∧
          o.res = some (BitVec.ofNat 64 (2 + (if 2 ≤ ((s.dev.thread w.val).held).length then 4 else 0))))) ∧
    (∀ (tid : Fin 576) c e, (s.dev.thread tid.val).claims.find? (fun c => c.ch == ch.val && c.granted) = some c → c.leaseEnd = some e → e ≤ s.dev.ns →
      s.dev.isStandby tid.val = false → ∃ t, exec (.claimExpired tid ch) s = .next t ∧ t.pending = s.pending ∧ t.dev.mem = s.dev.mem ∧
        t.dev.thread tid.val = { s.dev.thread tid.val with claims := (s.dev.thread tid.val).claims.erase c } ∧ (t.dev.chan ch.val).claim = none ∧
        t.dev.flt.queue = insertReport ⟨658, islOf tid.val, s.dev.partOf tid.val, some tid.val, 0, BitVec.ofNat 64 (ch.val + tid.val * 2 ^ 16),
          s.dev.time.tick, s.dev.time.now⟩ s.dev.flt.queue)

/-- R126, R430, R94, R127: CINC joins the store queue; SNAP sends its request to the anchor; MTSR clears event bits or sets SR_PASID; MFSR reads the thread's own state and leaves the rest alone; TSTART restarts a thread of the partition and reads 0, 1 or 2; a reserved or write-only register, and TSTART or SR_FNQ of a thread that is not the supervisor, are exceptions. -/
def Obligations.SpecialRegistersAndSupervisor : Prop :=
  ∀ (i : Issue) (n : BitVec 9) (sr rd ra rb : BitVec 5) (s : State) (d0 : Dev), i.predOk = true →
    (Issues i true 0 [ra] s d0 → (d0.thread i.tid.val).stq.length < 4 → ∃ t, exec (.cinc i ra n) s = .next t ∧ ChangesThread i (fun x => { x with
      stq := x.stq ++ [⟨.count n.toNat ((d0.thread i.tid.val).reg ra), (d0.thread i.tid.val).pc, i.slot, (d0.thread i.tid.val).pasid⟩] }) s t) ∧
    (Issues i true (destG rd) [rd] s d0 → (actsOn i s).isStandby i.tid.val = false → ∃ t, exec (.snap i rd) s = .next t ∧ t.dev.regs = s.dev.regs ∧
      t.dev.mem = s.dev.mem ∧ t.dev.cnt.snapReqs = s.dev.cnt.snapReqs ++ [(3, some (i.tid.val, ((actsOn i s).thread i.tid.val).nextId))] ∧
      t.dev.thread i.tid.val = (let x := (actsOn i s).thread i.tid.val
        { x with outs := x.outs ++ [⟨x.nextId, .snap, rd, (d0.thread i.tid.val).pc, i.slot, s.dev.ns, (d0.thread i.tid.val).pasid, none⟩],
                 nextId := x.nextId + 1 })) ∧
    (Issues i false 0 [ra] s d0 →
      (sr = 4 → ∃ t m, exec (.mtsr i sr ra) s = .next t ∧ ChangesThread i (fun x => { x with ev := x.ev &&& ~~~m }) s t ∧
        ∀ k < 32, m.getLsbD k = (((d0.thread i.tid.val).reg ra).getLsbD k && (k != 31 || (actsOn i s).isSupervisor i.tid.val))) ∧
      (sr = 9 → ∃ t, exec (.mtsr i sr ra) s = .next t ∧ ChangesThread i (fun x => { x with pasid := (d0.thread i.tid.val).reg ra &&& 0x800FFFFF#64 }) s t) ∧
      (sr ≠ 4 → sr ≠ 9 → ∃ t, exec (.mtsr i sr ra) s = .next t ∧ Excepts i 1 sr.toNat d0 s t)) ∧
    (∀ p, Issues i false (destG rd) [rd] s d0 → Simplex (actsOn i s) i.tid.val → (actsOn i s).partOf i.tid.val = some p →
      (sr = 0 → ∃ t, exec (.mfsr i rd sr) s = .next t ∧ WritesReg i rd (BitVec.ofNat 64 i.tid.val) s t) ∧
      (sr = 1 → ∃ t, exec (.mfsr i rd sr) s = .next t ∧ WritesReg i rd (BitVec.ofNat 64 p) s t) ∧
      (sr = 2 → ∃ t, exec (.mfsr i rd sr) s = .next t ∧ WritesReg i rd (BitVec.ofNat 64 (coreOf i.tid.val)) s t) ∧
      (sr = 3 → ∃ t, exec (.mfsr i rd sr) s = .next t ∧ WritesReg i rd ((s.dev.thread i.tid.val).ev.setWidth 64) s t) ∧
      (sr = 6 → ∃ t, exec (.mfsr i rd sr) s = .next t ∧ WritesReg i rd (BitVec.ofNat 64 (s.dev.thread i.tid.val).period) s t) ∧
      (sr = 7 → ∃ t, exec (.mfsr i rd sr) s = .next t ∧ ChangesThread i (fun x => { x with skip := 0 }.setReg rd (BitVec.ofNat 64 x.skip)) s t) ∧
      (sr = 9 → ∃ t, exec (.mfsr i rd sr) s = .next t ∧ WritesReg i rd (s.dev.thread i.tid.val).pasid s t) ∧
      (sr = 13 → ∃ t, exec (.mfsr i rd sr) s = .next t ∧ WritesReg i rd (BitVec.ofNat 64 (s.dev.thread i.tid.val).tags.length) s t) ∧
      (sr = 5 → ∃ t, exec (.mfsr i rd sr) s = .next t ∧ WritesReg i rd (match (s.dev.thread i.tid.val).timer with | some x => timeWord x | none => 0) s t) ∧
      (sr = 8 → (s.dev.thread i.tid.val).frame = none → ∃ t, exec (.mfsr i rd sr) s = .next t ∧ WritesReg i rd 0 s t) ∧
      (∀ f x, sr = 8 → (s.dev.thread i.tid.val).frame = some f → s.dev.frame f = some x → ∃ t, exec (.mfsr i rd sr) s = .next t ∧ WritesReg i rd (handleOf f x) s t) ∧
      (sr = 14 → ∃ t, exec (.mfsr i rd sr) s = .next t ∧ WritesReg i rd (claimsWord (s.dev.thread i.tid.val).held) s t) ∧
      ((actsOn i s).isSupervisor i.tid.val = true →
        (sr = 11 → ∃ t, exec (.mfsr i rd sr) s = .next t ∧ WritesReg i rd (s.dev.thread i.tid.val).fnqTime s t) ∧
        (sr = 12 → ∃ t, exec (.mfsr i rd sr) s = .next t ∧ WritesReg i rd (s.dev.thread i.tid.val).fnqDet s t) ∧
        (sr = 10 → (s.dev.part p).notices = [] → ∃ t, exec (.mfsr i rd sr) s = .next t ∧ WritesReg i rd 0 s t) ∧
        (∀ q rest, sr = 10 → (s.dev.part p).notices = q :: rest → ∃ t, exec (.mfsr i rd sr) s = .next t ∧ (t.dev.part p).notices = rest ∧
          (t.dev.thread i.tid.val).fnqTime = q.time ∧ (t.dev.thread i.tid.val).fnqDet = q.detail ∧
          (rd ≠ 0 → (t.dev.thread i.tid.val).reg rd = q.word rest.length) ∧ (∀ u, u ≠ i.tid.val → t.dev.thread u = s.dev.thread u))) ∧
      (sr = 4 ∨ 15 ≤ sr.toNat → ∃ t, exec (.mfsr i rd sr) s = .next t ∧ Excepts i 1 sr.toNat d0 s t) ∧
      (10 ≤ sr.toNat → sr.toNat ≤ 12 → (actsOn i s).isSupervisor i.tid.val = false → ∃ t, exec (.mfsr i rd sr) s = .next t ∧ Excepts i 2 sr.toNat d0 s t)) ∧
    (∀ p target, Issues i true (destG rd) [rd, ra, rb] s d0 → target = ((d0.thread i.tid.val).reg ra).toNat % 1024 →
      ((actsOn i s).isSupervisor i.tid.val = false → ∃ t, exec (.tstart i rd ra rb) s = .next t ∧ Excepts i 2 target d0 s t) ∧
      ((actsOn i s).isSupervisor i.tid.val = true → (actsOn i s).partOf i.tid.val = some p → 576 ≤ target ∨ (actsOn i s).partOf target ≠ some p →
        ∃ t, exec (.tstart i rd ra rb) s = .next t ∧ Excepts i 3 target d0 s t) ∧
      ((actsOn i s).isSupervisor i.tid.val = true → Simplex (actsOn i s) i.tid.val → (actsOn i s).partOf i.tid.val = some p →
        (actsOn i s).partOf target = some p → target < 576 → target ≠ i.tid.val → coreOf target = coreOf i.tid.val →
        ((actsOn i s).thread target).st = .idle ∨ ((actsOn i s).thread target).st = .faulted →
        ((d0.thread i.tid.val).reg rb).toNat % 8 = 0 → fetchOk (actsOn i s) p target (((d0.thread i.tid.val).reg rb).toNat % 2 ^ 23) = true →
        ∃ t, exec (.tstart i rd ra rb) s = .next t ∧ t.pending = s.pending ∧ t.dev.regs = s.dev.regs ∧ t.dev.mem = s.dev.mem ∧
        t.dev.thread target = { (actsOn i s).thread target with st := .running, wait := .none, stepping := false, pc := ((d0.thread i.tid.val).reg rb).toNat % 2 ^ 23 } ∧
        t.dev.thread i.tid.val = ((actsOn i s).thread i.tid.val).setReg rd 0) ∧
      ((actsOn i s).isSupervisor i.tid.val = true → Simplex (actsOn i s) i.tid.val → (actsOn i s).partOf i.tid.val = some p →
        (actsOn i s).partOf target = some p → target < 576 → target ≠ i.tid.val → coreOf target = coreOf i.tid.val →
        ((actsOn i s).thread target).st = .running ∨ ((actsOn i s).thread target).st = .waiting ∨ ((actsOn i s).thread target).st = .halted →
        ∃ t, exec (.tstart i rd ra rb) s = .next t ∧ WritesReg i rd 1 s t))

namespace Sys2Proof.Claims

/-- The thread, slot and predicate of a Dunval instruction; the other commands of the block have none. -/
def issueOf : Instr → Option Issue
  | .add i _ _ _ | .sub i _ _ _ | .and i _ _ _ | .or i _ _ _ | .xor i _ _ _ | .andn i _ _ _ | .shl i _ _ _
  | .shr i _ _ _ | .sar i _ _ _ | .min i _ _ _ | .max i _ _ _ | .minu i _ _ _ | .maxu i _ _ _ | .addi i _ _ _
  | .andi i _ _ _ | .ori i _ _ _ | .xori i _ _ _ | .shli i _ _ _ | .shri i _ _ _ | .sari i _ _ _ | .movi i _ _
  | .movsh i _ _ | .mul i _ _ _ | .mulhu i _ _ _ | .mulhs i _ _ _ | .bfx i _ _ _ _ | .bfxs i _ _ _ _ | .bfi i _ _ _ _
  | .bfxw i _ _ _ _ | .cmp i _ _ _ _ | .cmpi i _ _ _ _ | .plog i _ _ _ _ | .br i _ | .call i _ | .jr i _
  | .ld i _ _ _ _ _ | .st i _ _ _ _ _ | .atomAdd i _ _ _ _ _ | .atomSwap i _ _ _ _ _ | .atomCas i _ _ _ _ _
  | .lkacq i _ _ _ | .lkrel i _ _ | .fence i | .tnow i _ | .tnowh i _ | .tadd i _ _ _ | .twait i _ | .tset i _ _
  | .tclr i | .waitev i _ _ | .sigevT i _ _ | .sigevG i _ _ | .pktGet i _ | .pktSend i _ _ | .pktDrop i _ | .wst i _ _
  | .lkx i _ _ _ | .lkw i _ _ _ | .crc32c i _ _ _ _ | .crc64 i _ _ _ _ | .hash i _ _ _ | .submit i _ _ _
  | .accpoll i _ _ | .dclaim i _ _ | .dwr i _ _ _ | .dstart i _ _ | .drel i _ | .dpoll i _ _ | .cinc i _ _ | .snap i _
  | .mfsr i _ _ | .mtsr i _ _ | .tstart i _ _ _ => some i
  | _ => none

end Sys2Proof.Claims

/-- R50, R52, R99, R101, R104, R408: what every Dunval instruction that opens a bundle does where it does not act. In a device that does not run, nothing changes; a thread that is not RUNNING issues nothing; a bundle outside the executable sections of the partition raises ACCESS_DENIED with its own address; an instruction that is predicated off passes its bundle and waits for nothing. R98, R101: an instruction in slot B that is predicated off leaves what slot A did, and one behind a slot A that raised an exception or starved does nothing. -/
def Obligations.InstructionsIssueAndShareTheirBundle : Prop :=
  (∀ (c : Instr) (i : Issue) (s : State), Claims.issueOf c = some i → c.wf = true → Opens i s →
    (s.dev.live = false → ∃ t, exec c s = .next t ∧ t.pending = s.pending ∧ t.dev = s.dev) ∧
    (s.dev.partOf i.tid.val = none → ∃ t, exec c s = .next t ∧ t.pending = s.pending ∧ t.dev = s.dev) ∧
    ((s.dev.thread i.tid.val).st ≠ .running → ∃ t, exec c s = .next t ∧ Starves s.dev s t) ∧
    (∀ p, s.dev.live = true → s.dev.partOf i.tid.val = some p → (s.dev.thread i.tid.val).st = .running → s.dev.isStale i.tid.val = false →
      (s.dev.thread i.tid.val).fence = false → fetchOk s.dev p i.tid.val (s.dev.thread i.tid.val).pc = false →
      ∃ t, exec c s = .next t ∧ Excepts i 3 (s.dev.thread i.tid.val).pc s.dev s t) ∧
    (Ready s.dev i.tid.val → predOn (s.dev.thread i.tid.val) i.pred = false →
      ∃ t, exec c s = .next t ∧ Does (afterIssue s.dev i.tid.val) s t)) ∧
  (∀ (c : Instr) (i : Issue) (s : State) (b : OpenBundle), Claims.issueOf c = some i → c.wf = true → i.slot = .b → s.bundle = some b → b.tid = i.tid.val →
    (b.dead = true → ∃ t, exec c s = .next t ∧ t.pending = s.pending ∧ t.dev = s.dev ∧ t.bundle = none) ∧
    (∀ t, exec c s = .next t → t.bundle = none ∧ t.pending = s.pending))

/-- R81, R82: in a partition that allows debugging and does not run in duplex, a halt stops a RUNNING or WAITING thread and remembers what it waits for; a step and a resume put a HALTED thread back to RUNNING, a step to halt again after one bundle; an enabled breakpoint halts the RUNNING thread of its core that comes to its address. A refused request sets its refusal bits and changes nothing else. R87: a core reset of a core that a partition holds leaves all nine threads IDLE, with every register, predicate, window, pending event, timer, claim and queue clear, the core's local data memory zero, its instruction cache unpinned, and its debug registers and breakpoints at their reset values. R79, R80: a partition that has been quiet for its limit without a break raises PARTITION_QUIET once, which is counted, and not again until it has stopped being quiet; a limit of 0 disables the detector. The detail is left open by the spec. -/
def Obligations.CoresAreDebuggedResetAndWatched : Prop :=
  ((∀ (tid : Fin 576) (s : State) (p : Nat), s.dev.live = true → s.dev.partOf tid.val = some p →
    (s.dev.rb .coreDbgPart p 0 = true → s.dev.inDuplex p = false →
      ((s.dev.thread tid.val).st = .running ∨ (s.dev.thread tid.val).st = .waiting → s.dev.rb .coreDbgPart p 1 = false →
        (∃ t, exec (.debugHalt tid) s = .next t ∧ t.pending = s.pending ∧ t.dev.mem = s.dev.mem ∧
          t.dev.thread tid.val = { s.dev.thread tid.val with st := .halted, stepping := false } ∧ (∀ u, u ≠ tid.val → t.dev.thread u = s.dev.thread u) ∧
          t.dev.rb .coreDbgCtl (coreOf tid.val) (idxOf tid.val) = true ∧ (∀ r j, r ≠ Reg.coreDbgCtl ∨ j ≠ coreOf tid.val → t.dev.reg r j = s.dev.reg r j)) ∧
        ((s.dev.thread tid.val).st = .running → s.dev.breakAt (coreOf tid.val) (s.dev.thread tid.val).pc = true →
          ∃ t, exec (.breakpointHit tid) s = .next t ∧ t.pending = s.pending ∧ t.dev.mem = s.dev.mem ∧
          t.dev.thread tid.val = { s.dev.thread tid.val with st := .halted, stepping := false } ∧ (∀ u, u ≠ tid.val → t.dev.thread u = s.dev.thread u))) ∧
      ((s.dev.thread tid.val).st = .halted → (s.dev.thread tid.val).wait = .none →
        (∃ t, exec (.debugStep tid) s = .next t ∧ t.pending = s.pending ∧ t.dev.regs = s.dev.regs ∧ t.dev.mem = s.dev.mem ∧
          t.dev.thread tid.val = { s.dev.thread tid.val with st := .running, stepping := true } ∧ (∀ u, u ≠ tid.val → t.dev.thread u = s.dev.thread u)) ∧
        ((∀ c ∈ (s.dev.thread tid.val).claims, c.leaseLeft = 0) → ∃ t, exec (.debugResume tid) s = .next t ∧ t.pending = s.pending ∧ t.dev.mem = s.dev.mem ∧
          t.dev.thread tid.val = { s.dev.thread tid.val with st := .running, stepping := false } ∧ (∀ u, u ≠ tid.val → t.dev.thread u = s.dev.thread u) ∧
          t.dev.rb .coreDbgCtl (coreOf tid.val) (idxOf tid.val) = false))) ∧
    (s.dev.rb .coreDbgPart p 0 = false ∨ s.dev.inDuplex p = true → ∀ c ∈ [Instr.debugHalt tid, .debugStep tid, .debugResume tid],
      ∃ t, exec c s = .next t ∧ t.pending = s.pending ∧ t.dev.thr = s.dev.thr ∧ t.dev.mem = s.dev.mem ∧
        (∀ r j, r ≠ Reg.coreDbgStat ∨ j ≠ coreOf tid.val → t.dev.reg r j = s.dev.reg r j) ∧
        (s.dev.inDuplex p = true → t.dev.rb .coreDbgStat (coreOf tid.val) 16 = true) ∧
        (s.dev.rb .coreDbgPart p 0 = false → t.dev.rb .coreDbgStat (coreOf tid.val) 17 = true))) ∧
  (∀ (c : Fin 64) (s : State), s.dev.live = true → (s.dev.partOfCore c.val).isSome = true →
    ∃ t, exec (.coreReset c) s = .next t ∧ t.pending = s.pending ∧
      (∀ u ∈ threadsOf c.val, ∃ n, t.dev.thread u = { nextId := n }) ∧
      (∀ k < 0x40000, t.dev.byte (localAddr c.val k) = 0) ∧
      t.dev.reg .coreIcachePin c.val = 0 ∧ t.dev.reg .coreDbgCtl c.val = 0 ∧ t.dev.reg .coreDbgStat c.val = 0 ∧
      (∀ j < 4, t.dev.reg .coreBkpt (4 * c.val + j) = 0))) ∧
  (∀ (p : Fin 8) (s : State) (since : Nat), s.dev.live = true → (s.dev.part p.val).quietSince = some since →
    (0 < s.dev.rf .coreQuietLimit p.val 0 32 → (s.dev.part p.val).quietRaised = false → s.dev.isQuiet p.val = true →
      since + s.dev.rf .coreQuietLimit p.val 0 32 * 1000 * 65536 ≤ s.dev.time.now →
      ∃ t, exec (.partitionQuiet p) s = .next t ∧ t.pending = s.pending ∧ t.dev.mem = s.dev.mem ∧ t.dev.thr = s.dev.thr ∧
        (t.dev.part p.val).quietRaised = true ∧ (∃ r ∈ t.dev.flt.queue, r.source = 657 ∧ r.part = some p.val) ∧
        (s.dev.rf .coreQuietStat p.val 0 31 < 2 ^ 31 - 1 → t.dev.rf .coreQuietStat p.val 0 31 = s.dev.rf .coreQuietStat p.val 0 31 + 1) ∧
        (∀ r j, r ≠ Reg.coreQuietStat ∨ j ≠ p.val → t.dev.reg r j = s.dev.reg r j)) ∧
    ((s.dev.part p.val).quietRaised = true ∨ s.dev.rf .coreQuietLimit p.val 0 32 = 0 → ∃ t, exec (.partitionQuiet p) s = .next t ∧ t.dev = s.dev))

/-- R13, R17, R23 to R25: a read of TIME_NOW_0 latches the island's whole 96-bit time; REFCLK's frequency is fixed at its qualification, and its loss ends the source and makes the quality UNQUALIFIED; a check loads a copy that differs, records the largest difference and raises TIME_SKEW; a flit that fails its CRC sixteen times in a row takes its strait down. R21, R27, R28: a step written through TIME_CTL clears its bit; where the rules allow it device time moves by that many nanoseconds in every island at once, and else it is refused, device time stays and TIME_STEP_REFUSED is raised. No step leaves the span of device time, whatever the force flag. -/
def Obligations.TimePlaneKeepsItsCopiesAndSteps : Prop :=
  (∀ (s : State), s.dev.powered = true →
    (∀ isl : Fin 8, s.dev.islNow isl.val < 2 ^ 48 * 1000000000 * 65536 → Answers (.timeNow0Read isl) s (fun d =>
      Keeps [.timeNow0, .timeNow1, .timeNow2] s.dev d ∧ ∃ sec ns frac : Nat, ns < 1000000000 ∧ frac < 65536 ∧
        (sec * 1000000000 + ns) * 65536 + frac = s.dev.islNow isl.val ∧
        (d.reg .timeNow0 isl.val).toNat = (sec * 2 ^ 48 + ns * 2 ^ 16 + frac) % 2 ^ 32 ∧
        (d.reg .timeNow1 isl.val).toNat = (sec * 2 ^ 48 + ns * 2 ^ 16 + frac) / 2 ^ 32 % 2 ^ 32 ∧
        (d.reg .timeNow2 isl.val).toNat = (sec * 2 ^ 48 + ns * 2 ^ 16 + frac) / 2 ^ 64)) ∧
    (∀ ten, s.dev.time.refOk = false → s.dev.time.refLost = false → Answers (.refclkQualified ten) s (fun d =>
      d.time.refOk = true ∧ d.rb .timeSrc 0 25 = ten ∧ (∀ b, b ≠ 25 → d.rb .timeSrc 0 b = s.dev.rb .timeSrc 0 b) ∧ Keeps [.timeSrc] s.dev d)) ∧
    (s.dev.time.refOk = true → s.dev.time.refLost = false → s.dev.quality ≠ 4 → Answers .refLost s (fun d =>
      d.time.refLost = true ∧ d.quality = 4 ∧ d.source = 0 ∧ Keeps [.timeQual, .timeStatus] s.dev d ∧
      (∃ r ∈ d.flt.queue, r.source = 130) ∧ (∃ r ∈ d.flt.queue, r.source = 258))) ∧
    (∀ delays, Answers (.delayMeasure delays) s (fun d => d.regs = s.dev.regs ∧ d.time.now = s.dev.time.now ∧ d.time.skew = s.dev.time.skew ∧
      Keeps [] s.dev d ∧ ∀ k, k < 23 → k < delays.length → tabGet d.time.delay 0 k = delays.getD k 0)) ∧
    (∀ (isl : Fin 8) (upset : Int), isl.val ≠ 0 → Answers (.timeCheck isl upset) s (fun d =>
      tabGet d.time.skew 0 isl.val = upset ∧ (∀ k, k ≠ isl.val → tabGet d.time.skew 0 k = tabGet s.dev.time.skew 0 k) ∧ d.time.now = s.dev.time.now ∧
      (tabGet s.dev.time.skew 0 isl.val = 0 → d.regs = s.dev.regs ∧ d.flt = s.dev.flt) ∧
      (tabGet s.dev.time.skew 0 isl.val ≠ 0 → d.rb .timeSkewStat 0 isl.val = true ∧ Keeps [.timeSkewStat] s.dev d ∧
        Raises (264 + isl.val) isl.val none none 0 (BitVec.ofNat 64 (isl.val + s.dev.skewTicks (tabGet s.dev.time.skew 0 isl.val) % 2 ^ 32 * 2 ^ 16)) s.dev d ∧
        d.rf .timeSkewStat 0 16 16 = max (s.dev.rf .timeSkewStat 0 16 16) (min (s.dev.skewTicks (tabGet s.dev.time.skew 0 isl.val)) 65535)))) ∧
    (∀ (st : Fin 23) (low again : Bool), s.dev.time.down.contains st.val = false → Answers (.straitCrc st low again) s (fun d =>
      tabGet d.time.attempts 0 (2 * st.val + b2n low) = (if again then tabGet s.dev.time.attempts 0 (2 * st.val + b2n low) + 1 else 1) ∧
      (∃ r ∈ d.flt.queue, r.source = 384 + st.val) ∧
      (16 ≤ tabGet d.time.attempts 0 (2 * st.val + b2n low) → st.val ∈ d.time.down ∧ ∃ r ∈ d.flt.queue, r.source = 416 + st.val) ∧
      (tabGet d.time.attempts 0 (2 * st.val + b2n low) < 16 → d.time.down = s.dev.time.down)))) ∧
  (∀ (s : State) (ns : Int), s.dev.powered = true → s.dev.rb .timeCtl 0 0 = true →
    ns = (BitVec.ofNat 64 (s.dev.rf .timeStep0 0 0 32 + s.dev.rf .timeStep1 0 0 32 * 2 ^ 32)).toInt →
    (0 ≤ (s.dev.ns : Int) + ns → (s.dev.ns : Int) + ns < 2 ^ 48 * 1000000000 →
      (s.dev.rb .timeCtl 0 1 = true ∨ (s.dev.quality ≠ 2 ∧ s.dev.quality ≠ 3) ∨ ns.natAbs ≤ s.dev.rf .timeStepLimit 0 0 32 * 1000000) →
      Answers .timeCtlStep s (fun d => d = (s.dev.setRb .timeCtl 0 0 false).applyStep ns ∧ d.ns = ((s.dev.ns : Int) + ns).toNat ∧
        d.time.skew = s.dev.time.skew ∧ d.time.steps = s.dev.time.steps + 1 ∧ d.mem = s.dev.mem)) ∧
    (((s.dev.ns : Int) + ns < 0 ∨ 2 ^ 48 * 1000000000 ≤ (s.dev.ns : Int) + ns ∨
      (s.dev.rb .timeCtl 0 1 = false ∧ (s.dev.quality = 2 ∨ s.dev.quality = 3) ∧ s.dev.rf .timeStepLimit 0 0 32 * 1000000 < ns.natAbs)) →
      Answers .timeCtlStep s (fun d => d.rb .timeCtl 0 0 = false ∧ d.time.now = s.dev.time.now ∧ RaisesSome 256 0 none s.dev d ∧ Keeps [.timeCtl] s.dev d)))

/-- R36, R37, R39 to R42: an Announce on the time-receiver port brings its source up, and with no source in use the servo takes it in ACQUIRING; a Sync within TIME_LOCK_THRESH counts towards the sixteen that lock; the loss of Announces of a LOCKED source is HOLDOVER with the last offset as its error; PPS_IN qualifies at its fourth accepted edge, counts a short pulse as rejected, and is lost after 2 s; FREQ_IN's qualification shows in TIME_STATUS. R29, R36, R38, R42, R44, R45: each second of HOLDOVER or UNQUALIFIED adds the rate to the estimated error and one to TIME_HOLD_SECS, and a limit passed in HOLDOVER is UNQUALIFIED; TIME_HWM follows a valid calendar upwards and shows whether device time is behind it; a leap table past its date shows as expired; PPS_OUT rises at a whole second for its width; a spread setting takes effect at a whole millisecond; a PTP message leaves on an open port with the device's time. -/
def Obligations.TimeSourcesHoldoverAndOutputs : Prop :=
  (∀ (s : State), s.dev.powered = true → s.dev.time.refLost = false →
    (∀ (m : PtpMsg) utc clock, m.kind = .announce utc clock → s.dev.rf .timeSrc 0 8 5 = m.port.val → s.dev.portUp m.port.val = true →
      s.dev.source = 0 → s.dev.rf .timeSrc 0 0 2 = 1 → Answers (.ptpMessageRx m) s (fun d =>
        d.time.ptpUp = true ∧ d.source = 1 ∧ d.quality = 1 ∧ d.time.within = 0 ∧ d.rf .timeUtcOffset 0 16 16 = (utc % 65536).toNat)) ∧
    (∀ (m : PtpMsg) off delay, m.kind = .sync off delay → s.dev.rf .timeSrc 0 8 5 = m.port.val → s.dev.portUp m.port.val = true →
      s.dev.source = 1 → s.dev.rb .timeStatus 0 7 = false → s.dev.unitHeld 1 = true → off.natAbs ≤ 10000 →
      off.natAbs ≤ s.dev.rf .timeLockThresh 0 0 32 → s.dev.quality = 1 → Answers (.ptpMessageRx m) s (fun d =>
        d.time.within = s.dev.time.within + 1 ∧ d.time.lastOff = off ∧ d.time.now = s.dev.time.now ∧
        d.quality = (if 16 ≤ s.dev.time.within + 1 then 2 else 1) ∧ (16 ≤ s.dev.time.within + 1 → d.rb .timeStatus 0 0 = true) ∧
        0x3FF7D ≤ d.rf .timeAddend 0 0 32 ∧ d.rf .timeAddend 0 0 32 ≤ 0x40083 ∧ Keeps [.timeAddend, .timeStatus, .timeQual] s.dev d)) ∧
    (s.dev.source = 1 → s.dev.quality = 2 → s.dev.rb .timeStatus 0 7 = false → s.dev.time.standbyUp = false → s.dev.sourceUp 2 = false →
      Answers .announceTimeout s (fun d => d.time.ptpUp = false ∧ d.quality = 3 ∧ d.source = 0 ∧
        d.rf .timeQual 0 5 27 = min s.dev.time.lastOff.natAbs (2 ^ 27 - 1) ∧ RaisesSome 257 0 none s.dev d)) ∧
    (∀ ok, Answers (.ppsInEdge false ok) s (fun d => Keeps [.timePpsInStat] s.dev d ∧ d.time = s.dev.time ∧
      (s.dev.rf .timePpsInStat 0 0 32 < 2 ^ 32 - 1 → d.rf .timePpsInStat 0 0 32 = s.dev.rf .timePpsInStat 0 0 32 + 1))) ∧
    (s.dev.rb .timeStatus 0 6 = false → s.dev.time.ppsEdges = 3 → Answers (.ppsInEdge true true) s (fun d =>
      d.rb .timeStatus 0 6 = true ∧ d.time.ppsLast = s.dev.ns ∧ d.time.now = s.dev.time.now ∧ d.mem = s.dev.mem)) ∧
    (s.dev.rb .timeStatus 0 6 = false → s.dev.time.ppsEdges < 3 → Answers (.ppsInEdge true true) s (fun d =>
      d.time.ppsEdges = s.dev.time.ppsEdges + 1 ∧ d.time.ppsLast = s.dev.ns ∧ Keeps [] s.dev d)) ∧
    (s.dev.time.ppsEdges ≠ 0 → s.dev.time.ppsLast + 2000000000 ≤ s.dev.ns → Answers .ppsInLost s (fun d =>
      d.rb .timeStatus 0 6 = false ∧ d.time.ppsEdges = 0 ∧ d.time.now = s.dev.time.now ∧ d.mem = s.dev.mem)) ∧
    (s.dev.rb .timeSrc 0 24 = false → Answers .freqInQualified s (fun d => d.rb .timeStatus 0 5 = true ∧ Keeps [.timeStatus] s.dev d)) ∧
    Answers .freqInLost s (fun d => d.rb .timeStatus 0 5 = false ∧ Keeps [.timeStatus] s.dev d)) ∧
  (∀ (s : State), s.dev.powered = true →
    (∀ rate, rate = (if s.dev.rb .timeStatus 0 5 then s.dev.rf .timeHoldRateF 0 0 32 else s.dev.rf .timeHoldRate 0 0 32) →
      s.dev.quality = 3 ∨ s.dev.quality = 4 → Answers .holdoverSecond s (fun d =>
      d.rf .timeQual 0 5 27 = min (s.dev.rf .timeQual 0 5 27 + rate) (2 ^ 27 - 1) ∧
      d.rf .timeHoldSecs 0 0 32 = min (s.dev.rf .timeHoldSecs 0 0 32 + 1) (2 ^ 32 - 1) ∧
      d.quality = (if s.dev.rf .timeHoldLimit 0 0 32 < min (s.dev.rf .timeQual 0 5 27 + rate) (2 ^ 27 - 1) then 4 else s.dev.quality) ∧
      Keeps [.timeQual, .timeHoldSecs] s.dev d)) ∧
    (s.dev.rb .timeStatus 0 0 = true → s.dev.hwmNow < s.dev.sec → s.dev.sec < 2 ^ 48 → Answers .hwmUpdate s (fun d =>
      d.hwmNow = s.dev.sec ∧ d.rb .timeStatus 0 2 = false ∧ Keeps [.timeHwm0, .timeHwm1, .timeStatus, .timeUtcOffset] s.dev d)) ∧
    (s.dev.rb .timeStatus 0 0 = false ∨ s.dev.sec ≤ s.dev.hwmNow → Answers .hwmUpdate s (fun d =>
      d.hwmNow = s.dev.hwmNow ∧ (d.rb .timeStatus 0 2 = true ↔ s.dev.sec < s.dev.hwmNow) ∧ Keeps [.timeStatus, .timeUtcOffset] s.dev d)) ∧
    (s.dev.life.leapExpiry < s.dev.sec → s.dev.life.leap ≠ [] → s.dev.rb .timeStatus 0 3 = false → Answers .leapTableExpired s (fun d =>
      d.rb .timeStatus 0 3 = true ∧ Keeps [.timeStatus, .timeUtcOffset] s.dev d)) ∧
    (s.dev.time.ppsHigh = none → s.dev.ppsOff = false → s.dev.time.now % (1000000000 * 65536) < s.dev.rf .timeAddend 0 0 32 →
      Answers .ppsOutPulse s (fun d => d.time.ppsHigh = some (s.dev.ns + s.dev.rf .timePpsOut 0 8 10 * 1000000) ∧
        d.outs = .ppsOut true :: s.dev.outs ∧ Keeps [] s.dev d)) ∧
    (∀ e, s.dev.time.ppsHigh = some e → e ≤ s.dev.ns → Answers .ppsOutPulse s (fun d => d.time.ppsHigh = none ∧
        d.outs = .ppsOut false :: s.dev.outs ∧ Keeps [] s.dev d)) ∧
    (s.dev.time.now % (1000000 * 65536) < s.dev.rf .timeAddend 0 0 32 → Answers .clkSpreadApply s (fun d =>
      d.time.spread.toNat = (s.dev.reg .timeClkSpread 0).toNat % 2 ^ 32 ∧ d.time.now = s.dev.time.now ∧ Keeps [] s.dev d)) ∧
    (∀ (x : Fin 32) (m : PtpSend), s.dev.live = true → s.dev.unitHeld 1 = true → s.dev.portUp x.val = true → s.dev.gateOpen x.val 7 s.dev.time.now = true →
      (m = .delayReq ↔ s.dev.timePort x.val = true) → Answers (.ptpMessageTx x m) s (fun d =>
        d.outs = .ptp x.val m (timeWord s.dev.ns) :: s.dev.outs ∧ Keeps [] s.dev d)))

/-- R135, R138, R139: a sub-port's link that goes down shows it in PORT_LINK, ends preemption, raises PORT_LINK_DOWN and counts the frame in reception; training brings it up, is counted for the physical port and starts verification as PORT_MM asks; the third failed verify attempt is FAILED; a stop's end lets the class go and the sub-port select. -/
def Obligations.PortLinksFollowTheirTraining : Prop :=
  ∀ (x : Fin 32) (s : State),
    (∀ inRx, s.dev.powered = true → s.dev.portUp x.val = true → Answers (.portLinkDown x inRx) s (fun d =>
      d.portUp x.val = false ∧ d.rf .portStatus x.val 0 2 = 0 ∧ RaisesSome 768 (6 + x.val / 16) none s.dev d ∧
      Counts (evPort x.val 20 :: if inRx then [evPort x.val 7] else []) s.dev d ∧ Keeps [.portLink, .portStatus] s.dev d)) ∧
    (s.dev.powered = true → s.dev.portUp x.val = false → s.dev.subPort x.val = true → s.dev.boot.imaged = true → Answers (.portLinkUp x) s (fun d =>
      d.portUp x.val = true ∧ Keeps [.portLink, .portStatus] s.dev d ∧
      d.rf .portStatus x.val 0 2 = (if s.dev.rb .portMm x.val 0 = false then 0 else if s.dev.rb .portMm x.val 1 then 2 else 1) ∧
      tabGet d.life.eth 0 (x.val / 8) = min (2 ^ 32 - 1) (tabGet s.dev.life.eth 0 (x.val / 8) + 1))) ∧
    (s.dev.live = true → s.dev.rf .portStatus x.val 0 2 = 1 → Answers (.preemptVerify x true) s (fun d =>
      d.rf .portStatus x.val 0 2 = 2 ∧ Keeps [.portStatus] s.dev d)) ∧
    (s.dev.live = true → s.dev.rf .portStatus x.val 0 2 = 1 → Answers (.preemptVerify x false) s (fun d =>
      Keeps [.portStatus] s.dev d ∧
      (tabGet s.dev.pkt.mmTries 0 x.val < 2 → d.rf .portStatus x.val 0 2 = 1 ∧ tabGet d.pkt.mmTries 0 x.val = tabGet s.dev.pkt.mmTries 0 x.val + 1) ∧
      (2 ≤ tabGet s.dev.pkt.mmTries 0 x.val → d.rf .portStatus x.val 0 2 = 3))) ∧
    (∀ (c : Fin 8) e, s.dev.live = true → tabFind (8 * x.val + c.val) s.dev.pkt.pauseEnd = some e → e ≤ s.dev.time.now → Answers (.pauseExpire x c) s (fun d =>
      ∃ d1, tabFind (8 * x.val + c.val) d1.pkt.pauseEnd = none ∧ (∀ k, k ≠ 8 * x.val + c.val → tabFind k d1.pkt.pauseEnd = tabFind k s.dev.pkt.pauseEnd) ∧
        Keeps [] s.dev d1 ∧ d = d1.kick x.val))

namespace Sys2Proof.Claims
/-- The MAC's check that a received frame fails first, by the sub-port's counter (R136, R142); none where it is a good frame. -/
def macDrop (d : Dev) (x : Nat) (fr : RxFrame) : Option Nat :=
  if fr.mmErr then some 8
  else if d.rf .portBuf (x / 8) 0 8 * 4096 < tabGet d.pkt.ingUse 0 (x / 8) + (fr.bytes.length + 4 + 255) / 256 then some 9
  else if fr.bytes.length + 4 < 64 then some 4
  else if d.rf .portMaxframe x 0 14 < fr.bytes.length + 4 then some 5
  else if !fr.fcsOk then some 6
  else none
end Sys2Proof.Claims

/-- R136, R139, R142, R149, R151: a frame that fails a check of the MAC is counted under that check and nothing else; a good frame is counted with its bytes; PAUSE in mode 1 and PFC in mode 2 stop their classes for 512 bit times a quantum, and a PTP message on the time-receiver port is consumed; any other unfragmented frame takes buffer cells, is steered to its partition, and with room in the partition's hold quota and a valid indirection entry waits for the classifier of that entry's island; without an owner or a valid entry it is held no more. -/
def Obligations.ReceivedFramesAreCheckedAndSteered : Prop :=
  ∀ (x : Fin 32) (fr : RxFrame) (s : State), s.dev.live = true → s.dev.subPort x.val = true → s.dev.portUp x.val = true →
    (∀ k, Claims.macDrop s.dev x.val fr = some k → Answers (.frameReceive x fr) s (fun d =>
      d.pkt = s.dev.pkt ∧ Counts [evPort x.val k] s.dev d ∧ Keeps [] s.dev d)) ∧
    (Claims.macDrop s.dev x.val fr = none →
      (beAt fr.bytes 12 2 = 0x8808 → beAt fr.bytes 14 2 = 1 → s.dev.rf .portFc x.val 0 2 = 1 → Answers (.frameReceive x fr) s (fun d =>
        ∃ d1, (∀ c < 8, tabFind (8 * x.val + c) d1.pkt.pauseEnd = if beAt fr.bytes 16 2 = 0 then none else
            some (s.dev.time.now + s.dev.wireFx x.val (beAt fr.bytes 16 2 * 64))) ∧ Keeps [] s.dev d1 ∧ d = d1.selectIdle x.val)) ∧
      (beAt fr.bytes 12 2 = 0x8808 → beAt fr.bytes 14 2 = 0x0101 → s.dev.rf .portFc x.val 0 2 = 2 → Answers (.frameReceive x fr) s (fun d =>
        ∃ d1, (∀ c < 8, tabFind (8 * x.val + c) d1.pkt.pauseEnd = if (beAt fr.bytes 16 2).testBit c = false then tabFind (8 * x.val + c) s.dev.pkt.pauseEnd
            else if beAt fr.bytes (18 + 2 * c) 2 = 0 then none else some (s.dev.time.now + s.dev.wireFx x.val (beAt fr.bytes (18 + 2 * c) 2 * 64))) ∧
          Keeps [] s.dev d1 ∧ d = d1.selectIdle x.val)) ∧
      (beAt fr.bytes 12 2 ≠ 0x8808 → s.dev.timePort x.val = true → isPtp fr.bytes = true → Answers (.frameReceive x fr) s (fun d =>
        d.pkt = s.dev.pkt ∧ Keeps [] s.dev d ∧ d.counter (evPort x.val 1) = s.dev.counter (evPort x.val 1) + BitVec.ofNat 64 (fr.bytes.length + 4))) ∧
      (∀ r, beAt fr.bytes 12 2 ≠ 0x8808 → (s.dev.timePort x.val && isPtp fr.bytes) = false → r = s.dev.parse x.val fr.bytes → r.frag fr.bytes = none →
        (s.dev.steer x.val r fr.bytes = none → Answers (.frameReceive x fr) s (fun d =>
          d.frame s.dev.pkt.nextFrame = none ∧ d.pkt.clsQ = s.dev.pkt.clsQ ∧ Keeps [] s.dev d)) ∧
        (∀ p hash, s.dev.steer x.val r fr.bytes = some p → hash = s.dev.hashOf p (s.dev.clsKey x.val r fr.bytes) → s.dev.partState p < 2 →
          s.dev.holdFits p (x.val / 16) ((fr.bytes.length + 4 + 255) / 256) = true →
          s.dev.rb .schIngPol ((8 * (x.val / 16) + p) * 16 + x.val % 16) 15 = false → Answers (.frameReceive x fr) s (fun d =>
            Keeps [] s.dev d ∧ d.pkt.nextFrame = s.dev.pkt.nextFrame + 1 ∧
            ((s.dev.indirect p hash).2.2 = false → d.frame s.dev.pkt.nextFrame = none ∧ d.pkt.clsQ = s.dev.pkt.clsQ) ∧
            ((s.dev.indirect p hash).2.2 = true → d.pkt.clsQ = s.dev.pkt.clsQ ++ [s.dev.pkt.nextFrame] ∧ ∃ y, d.frame s.dev.pkt.nextFrame = some y ∧
              y.bytes = fr.bytes ∧ y.port = x.val ∧ y.part = p ∧ y.cells = (fr.bytes.length + 4 + 255) / 256 ∧ y.hash = BitVec.ofNat 32 hash ∧
              y.ind = (s.dev.indirect p hash).1 ∧ y.isl = (s.dev.indirect p hash).2.1)))))

namespace Sys2Proof.Claims
/-- A frame has left the classifier's queues for a host queue with its action, and neither registers nor memory nor threads have changed. -/
def SentToHost (f : Nat) (x : Frame) (a number : Nat) (d d' : Dev) : Prop :=
  d'.pkt.clsQ = d.pkt.clsQ.erase f ∧ d'.pkt.missQ = d.pkt.missQ.erase f ∧ d'.pkt.toHost = d.pkt.toHost ++ [f] ∧
  (∃ y, d'.frame f = some y ∧ y.bytes = x.bytes ∧ y.part = x.part ∧ y.action = BitVec.ofNat 32 a ∧ y.ind = ⟨1, number⟩) ∧ Keeps [] d d'
end Sys2Proof.Claims

/-- R153, R158, R160 to R162, R331: the next frame of its port, partition and island that waits for the classifier takes the action of the lowest enabled rule its key matches, whose hits move up by one; without a rule and without a flow table it goes to its indirection target; a frame whose flow-table read finds nothing, or takes longer than CLS_MISS_TIMEOUT, which raises the fault, goes there too. A frame of a partition that is down is dropped. Shown for frames that are no fragments and for actions and targets that name one of the partition's own host queues. R165 to R168, R170, R171: while no stopped member holds frames, the waiting frames of a group are assigned until none waits or no member accepts; a held frame whose time is up skips the incomplete frames ahead of it in its order, and what is then ready goes; a fragment that has waited its time leaves the hold area, and a fragment-table entry past its life leaves the table, which CLS_FRAG_STAT shows. -/
def Obligations.ClassifierGroupsAndReorderMoveFrames : Prop :=
  (∀ (f : Nat) (x : Frame) (number : Nat) (s : State), s.dev.live = true → s.dev.frame f = some x → x.fragDec = none → x.frag = none →
    number < 16384 → s.dev.targetGranted x.part x.isl 1 number = true →
    (f ∈ s.dev.pkt.clsQ → f ∉ s.dev.pkt.missQ → s.dev.isNext f x = true →
      (∀ i r, s.dev.partState x.part < 2 → s.dev.rf .clsPartWtbl x.part (8 * (x.isl - 2)) 8 ≠ 255 →
        s.dev.wildLookup x.part (s.dev.rf .clsPartWtbl x.part (8 * (x.isl - 2)) 8) x.isl x.key = some (i, r) →
        r.action.toNat = 1 + 1 * 4 + number * 16 → Answers (.classify f) s (fun d =>
          Claims.SentToHost f x r.action.toNat number s.dev d ∧ (d.rule (x.isl - 2) i) = { r with hits := r.hits + 1 })) ∧
      (s.dev.partState x.part < 2 → s.dev.rf .clsPartWtbl x.part (8 * (x.isl - 2)) 8 = 255 → s.dev.rb .clsPartCfg x.part 9 = false → x.ind = ⟨1, number⟩ →
        Answers (.classify f) s (Claims.SentToHost f x (5 + number * 16) number s.dev)) ∧
      (2 ≤ s.dev.partState x.part → Answers (.classify f) s (fun d =>
        d.frame f = none ∧ d.pkt.clsQ = s.dev.pkt.clsQ.erase f ∧ Keeps [.ptnDownDrop] s.dev d))) ∧
    (f ∈ s.dev.pkt.missQ → f ∉ s.dev.pkt.clsQ → x.ind = ⟨1, number⟩ →
      (∀ ft, ft = s.dev.rf .clsPartCfg x.part 1 8 → s.dev.exactCheck ft = .ok → s.dev.exactFind ft (s.dev.flowKey x.part (s.dev.tdirN ft) x.key) = none →
        Answers (.flowMissReturn f) s (Claims.SentToHost f x (5 + number * 16) number s.dev)) ∧
      (x.since + s.dev.rf .clsMissTimeout x.part 0 32 * 1000 ≤ s.dev.ns → Answers (.clsMissTo f) s (fun d =>
        Claims.SentToHost f x (5 + number * 16) number s.dev d ∧ RaisesSome 769 x.isl (some x.part) s.dev d)) ∧
      (s.dev.ns < x.since + s.dev.rf .clsMissTimeout x.part 0 32 * 1000 → Answers (.clsMissTo f) s (fun d => d = s.dev)))) ∧
  (∀ (s : State), s.dev.live = true →
    (∀ g : Fin 1024, (s.dev.group g.val).queue.length ≤ 64 →
      (∀ t ∈ s.dev.groupMembers g.val, ((s.dev.thread t).st = .halted ∨ (s.dev.thread t).st = .faulted) → (s.dev.thread t).assigned = []) →
      Answers (.groupQueueAssign g) s (fun d => ((d.group g.val).queue = [] ∨ d.nextMember g.val = none) ∧ d.regs = s.dev.regs ∧ d.mem = s.dev.mem ∧
        ((s.dev.group g.val).queue.length = 1 → ∀ u, s.dev.nextMember g.val = some u → (d.group g.val).queue = [] ∧ (d.group g.val).last = u ∧
          (d.thread u).assigned = (s.dev.thread u).assigned ++ (s.dev.group g.val).queue))) ∧
    (∀ f r w at_, s.dev.entryOf f = some r → r.done = some (w, at_) →
      (s.dev.ns < at_ + s.dev.rf .clsGrp r.group 12 20 * 1000 → Answers (.reorderTimeout f) s (fun d => d = s.dev)) ∧
      (at_ + s.dev.rf .clsGrp r.group 12 20 * 1000 ≤ s.dev.ns → Answers (.reorderTimeout f) s (fun d => ∃ d1, d = d1.releaseAll r.group r.order ∧ Keeps [] s.dev d1 ∧
        ∀ k, s.dev.pkt.reorder.findIdx? (· == r) = some k → d1.pkt.reorder =
          (s.dev.pkt.reorder.take k).map (fun q => if q.group = r.group ∧ q.order = r.order ∧ q.done = none then { q with skipped := true } else q) ++
            s.dev.pkt.reorder.drop k))) ∧
    (∀ f x, s.dev.frame f = some x → f ∈ s.dev.pkt.fragHold →
      x.since + s.dev.rf .clsFragHold (x.port / 16) 0 32 * 1000 ≤ s.dev.ns → Answers (.fragHoldExpired f) s (fun d =>
        d.frame f = none ∧ d.pkt.fragHold = s.dev.pkt.fragHold.erase f ∧ d.counter (evP (6 + x.port / 16) 518) = s.dev.counter (evP (6 + x.port / 16) 518) + 1 ∧
        d.rf .clsFragStat (x.port / 16) 0 16 = (s.dev.pkt.frags.filter (fun e => e.m == x.port / 16)).length % 65536 ∧
        d.rf .clsFragStat (x.port / 16) 16 11 = (d.pkt.fragHold.filter (fun g => (d.frame g).any (fun y => y.port / 16 == x.port / 16))).length % 2048 ∧
        Keeps [.clsFragStat] s.dev d)) ∧
    (∀ (m : Fin 2) k e, (s.dev.pkt.frags.filter (fun e => e.m == m.val))[k]? = some e →
      e.created + s.dev.rf .clsFragLife m.val 0 32 * 1000000 ≤ s.dev.ns ∨ (∃ t, e.lastTaken = some t ∧ t + 100000 ≤ s.dev.ns) →
      Answers (.fragEntryFree m k) s (fun d => d.pkt.frags = s.dev.pkt.frags.erase e ∧ Keeps [.clsFragStat] s.dev d ∧
        d.rf .clsFragStat m.val 0 16 = (d.pkt.frags.filter (fun e => e.m == m.val)).length % 65536)))

/-- R178 to R181, R195: a frame that arrives at its transmit queue is held there and takes egress buffer, or is dropped and counted under the first check of R179 that it fails; the end of a frame on the wire sends its bytes, or discards them while the link is down, and the sub-port selects for the projected start, an inter-packet gap of 12 bytes later or now. -/
def Obligations.TransmitQueuesTakeAndSendFrames : Prop :=
  ∀ (s : State), s.dev.live = true →
    (∀ f y q m, s.dev.frame f = some y → y.tx = none → f ∈ s.dev.pkt.arriving → q = y.ind.number → m = q / 32768 →
      (s.dev.txqOk q = false → Answers (.txqEnqueue f) s (fun d => d.frame f = none ∧ d.pkt.arriving = s.dev.pkt.arriving.erase f ∧ d.pkt.txq = s.dev.pkt.txq ∧
        d.counter (evP (6 + m) 576) = s.dev.counter (evP (6 + m) 576) + 1 ∧ Keeps [] s.dev d)) ∧
      (s.dev.txqOk q = true → s.dev.rb .schTxqAtt q 31 = false →
        (∀ k, s.dev.txqRefuses q y.bytes = some k → Answers (.txqEnqueue f) s (fun d =>
          d.frame f = none ∧ d.pkt.arriving = s.dev.pkt.arriving.erase f ∧ d.pkt.txq = s.dev.pkt.txq ∧ Keeps [] s.dev d ∧
          d.counter (evP (6 + m) (576 + k)) = s.dev.counter (evP (6 + m) (576 + k)) + 1)) ∧
        (s.dev.txqRefuses q y.bytes = none → Answers (.txqEnqueue f) s (fun d => ∃ d1, d = d1.kick (s.dev.txqPort q) ∧
          (d1.txq q).frames = (s.dev.txq q).frames ++ [f] ∧ (∀ k, k ≠ q → d1.txq k = s.dev.txq k) ∧ d1.pkt.arriving = s.dev.pkt.arriving.erase f ∧
          tabGet d1.pkt.eqUse 0 (2 * s.dev.txqPart q + m) = tabGet s.dev.pkt.eqUse 0 (2 * s.dev.txqPart q + m) + egressBytes y.bytes ∧
          (∃ z, d1.frame f = some z ∧ z.cells = 0 ∧ z.bytes = y.bytes) ∧ Keeps [.schPartEq] s.dev d1)))) ∧
    (∀ (x : Fin 32) w y, tabFind x.val s.dev.pkt.wire = some w → w.end_ ≤ s.dev.time.now → tabFind x.val s.dev.pkt.susp = none → s.dev.frame w.frame = some y →
      ∀ start, start = (if s.dev.time.now < w.end_ + s.dev.wireFx x.val 12 + s.dev.rf .timeAddend 0 0 32 then w.end_ + s.dev.wireFx x.val 12 else s.dev.time.now) →
      (s.dev.portUp x.val = true → Answers (.frameTxComplete x) s (fun d => ∃ d1 os, d = (d1.txComplete y 0).select x.val start s.dev.selFuel ∧
        d1.outs = os ++ .frame x.val ((s.dev.freeEgress w.queue w.frame).sentBytes x.val y).1 :: s.dev.outs ∧ d1.frame w.frame = none ∧ tabFind x.val d1.pkt.wire = none ∧
        d1.counter (evPort x.val 2) = s.dev.counter (evPort x.val 2) + 1 ∧ Keeps [.schPartEq] s.dev d1)) ∧
      (s.dev.portUp x.val = false → y.tx = none → Answers (.frameTxComplete x) s (fun d => ∃ d1, d = d1.select x.val start s.dev.selFuel ∧
        d1.frame w.frame = none ∧ tabFind x.val d1.pkt.wire = none ∧ d1.counter (evPort x.val 11) = s.dev.counter (evPort x.val 11) + 1 ∧
        Keeps [.schPartEq] s.dev d1)))

namespace Sys2Proof.Claims
/-- The intervals of the first `k` entries of a gate list. -/
def intervals (es : List (BitVec 8 × Nat)) (k : Nat) : Nat := ((es.take k).map Prod.snd).sum
end Sys2Proof.Claims

/-- R191: at a position of the cycle the entry in force is the one whose interval holds the position, and past the intervals' sum it is the last entry, to the cycle's end. -/
def Obligations.GateListEntryInForce : Prop :=
  ∀ (es : List (BitVec 8 × Nat)) (cycle pos k : Nat) (g : BitVec 8) (n : Nat), es[k]? = some (g, n) → Claims.intervals es k ≤ pos → pos < cycle →
    (k + 1 = es.length ∨ pos < Claims.intervals es (k + 1)) →
    (gateAt cycle es 0 pos).1 = k ∧ (gateAt cycle es 0 pos).2.1 = g ∧
    pos + (gateAt cycle es 0 pos).2.2 = (if k + 1 = es.length then cycle else min cycle (Claims.intervals es (k + 1)))

/-- R186, R188, R191, R192: at its time an entry's gates come into force on the sub-port; at the change time the administrative list becomes operational with its cycle, its extension and GATE_MAXWIN, the banks swap, and nothing is pending; at each whole microsecond every shaper with a rate takes its increments up to its burst, and a staged change replaces the first refill with its rate, burst, parent and fill. -/
def Obligations.GatesAndShapersFollowDeviceTime : Prop :=
  ∀ (s : State), s.dev.live = true →
    (∀ x : Fin 32, s.dev.rb .gateStat x.val 0 = true → (s.dev.gateOf x.val).next ≤ s.dev.ns → tabFind x.val s.dev.pkt.wire = none →
      Answers (.gateTransition x) s (fun d => ∃ d1, d = d1.kick x.val ∧ (d1.gateOf x.val).gates = (s.dev.gatesAt x.val s.dev.ns).2.1 ∧
        d1.rf .gateStat x.val 3 10 = (s.dev.gatesAt x.val s.dev.ns).1 % 1024 ∧ Keeps [.gateStat] s.dev d1 ∧
        (∀ y, y ≠ x.val → d1.gateOf y = s.dev.gateOf y))) ∧
    (∀ (x : Fin 32) c g, g = s.dev.gateOf x.val → g.change = some c → c ≤ s.dev.ns → Answers (.gateListSwitch x) s (fun d =>
      ∃ d1, d = d1.gatesNow x.val (s.dev.tickCeil c) ∧ d1.rb .gateStat x.val 0 = g.adminEn ∧ d1.rb .gateStat x.val 1 = false ∧
        d1.operBank x.val = 1 - s.dev.operBank x.val ∧ (d1.reg .gateCycle x.val).toNat = g.adminCycle % 2 ^ 64 ∧ (d1.reg .gateExt x.val).toNat = g.adminExt % 2 ^ 64 ∧
        (d1.gateOf x.val).change = none ∧ (d1.gateOf x.val).operBase = c ∧ (d1.gateOf x.val).operCount = g.adminCount ∧
        (∀ k < 8, d1.rf .gateMaxwin (8 * x.val + k) 0 32 =
          if g.adminEn then maxWindow g.adminCycle (s.dev.gateEntries x.val (1 - s.dev.operBank x.val) g.adminCount) k else 0) ∧
        Keeps [.gateStat, .gateCycle, .gateExt, .gateMaxwin] s.dev d1)) ∧
    (∀ (m : Fin 2) k, k = s.dev.ns / 1000 - tabGet s.dev.pkt.refillAt 0 m.val / 1000 → 0 < k →
      (s.dev.pkt.shpPend = [] → s.dev.pkt.polPend = [] → Answers (.shaperRefill m) s (fun d => ∃ d1, d = d1.kickAll m.val ∧
        tabGet d1.pkt.refillAt 0 m.val = s.dev.ns / 1000 * 1000 ∧ Keeps [.schShpTok, .schShpStat, .schPolTok] s.dev d1 ∧
        ∀ i, (s.dev.listedIdx .schShpRate 8192 m.val).count i = 1 → s.dev.rf .schShpRate i 0 28 ≠ 0 →
          d1.shpTok i = min (s.dev.shpTok i + s.dev.rf .schShpRate i 0 28 * k) (s.dev.rf .schShpBurst i 0 23 * 256))) ∧
      (∀ i c, k = 1 → s.dev.pkt.shpPend = [(i, c)] → s.dev.pkt.polPend = [] → i / 8192 = m.val → c.burst.toNat < 2 ^ 23 → Answers (.shaperRefill m) s (fun d =>
        ∃ d1 : Dev, d = d1.kickAll m.val ∧ d1.pkt.shpPend = [] ∧ d1.reg .schShpRate i = c.rate.setWidth 64 ∧ d1.reg .schShpBurst i = c.burst.setWidth 64 ∧
          d1.reg .schShpParent i = c.parent.setWidth 64 ∧ d1.rb .schShpStat i 0 = false ∧ d1.shpTok i = (if c.full then c.burst.toNat * 256 else 0) ∧
          d1.rf .schUpdStat (8 * m.val + c.part) 0 4 = (if c.clamped then 10 else 0))))

namespace Sys2Proof.Claims
/-- The scheduler's update commands for one partition, island and index (R203). -/
def schUpdates (p : Fin 8) (m : Fin 2) (index : BitVec 16) (full : Bool) : List Instr :=
  [.queueSet p m index, .queueRead p m index, .queueFlush p m index, .shaperSet p m index full, .shaperRead p m index,
   .policerSet p m index full, .policerRead p m index, .ingPolSet p m index]
/-- An update interface ends with a status and has changed the given registers only. -/
def Ends (stat : Reg) (k : Nat) (v : Word) (rs : List Reg) (d d' : Dev) : Prop := d'.reg stat k = v ∧ Keeps (stat :: rs) d d'
end Sys2Proof.Claims

/-- R180, R185, R188, R189, R203: a command written while the interface is busy only sets busy_reject; a queue, shaper or policer not granted ends in DENIED and changes nothing; a queue's settings, a sub-port's policer map and the reads act at once, a flush leaves the queue empty and reports how many frames it held; a shaper's or policer's settings are staged, held to their ranges, and the interface stays busy. -/
def Obligations.SchedulerUpdatesActForTheirPartition : Prop :=
  ∀ (p : Fin 8) (m : Fin 2) (index : BitVec 16) (full : Bool) (s : State) (k q sh po : Nat) (w : Nat → Nat), s.dev.live = true →
    k = 8 * m.val + p.val → q = 32768 * m.val + index.toNat → sh = 8192 * m.val + index.toNat → po = 4096 * m.val + index.toNat →
    (∀ j, w j = s.dev.rf .schUpdData (k * 4 + j) 0 32) →
    (s.dev.rb .schUpdStat k 0 = true → ∀ c ∈ Claims.schUpdates p m index full, Answers c s (fun d =>
      d.rb .schUpdStat k 4 = true ∧ (∀ b, b ≠ 4 → d.rb .schUpdStat k b = s.dev.rb .schUpdStat k b) ∧ Keeps [.schUpdStat] s.dev d ∧ d.pkt = s.dev.pkt)) ∧
    (s.dev.rb .schUpdStat k 0 = false →
      ((32768 ≤ index.toNat ∨ s.dev.granted p.val 3 0 q = false) → ∀ c ∈ [Instr.queueSet p m index, .queueRead p m index, .queueFlush p m index],
        Answers c s (fun d => Claims.Ends .schUpdStat k 8 [] s.dev d ∧ d.pkt = s.dev.pkt)) ∧
      ((8192 ≤ index.toNat ∨ s.dev.granted p.val 4 (6 + m.val) index.toNat = false) → ∀ c ∈ [Instr.shaperSet p m index full, .shaperRead p m index],
        Answers c s (fun d => Claims.Ends .schUpdStat k 8 [] s.dev d ∧ d.pkt = s.dev.pkt)) ∧
      ((4096 ≤ index.toNat ∨ s.dev.granted p.val 5 (6 + m.val) index.toNat = false) → ∀ c ∈ [Instr.policerSet p m index full, .policerRead p m index],
        Answers c s (fun d => Claims.Ends .schUpdStat k 8 [] s.dev d ∧ d.pkt = s.dev.pkt)) ∧
      (index.toNat < 32768 → s.dev.granted p.val 3 0 q = true →
        ((w 1).testBit 15 = false → (w 1).testBit 31 = false → s.dev.pathsBad m.val s.dev.shpParent (fun j => if j = q then none else s.dev.txqShaper j) [q] = false →
          Answers (.queueSet p m index) s (fun d => d.rf .schTxqDrr q 0 21 = min 1048576 (max 64 (w 0 % 2 ^ 21)) ∧ d.rf .schTxqDrr q 24 4 = w 0 / 2 ^ 24 % 16 ∧
            d.rb .schTxqAtt q 15 = false ∧ d.rb .schTxqAtt q 31 = false ∧ d.rf .schTxqLim q 0 16 = max 1 (w 2 % 65536) ∧
            Claims.Ends .schUpdStat k (if min 1048576 (max 64 (w 0 % 2 ^ 21)) ≠ w 0 % 2 ^ 21 ∨ w 2 % 65536 = 0 then 10 else 0)
              [.schTxqDrr, .schTxqAtt, .schTxqLim] s.dev d ∧ d.pkt = s.dev.pkt)) ∧
        Answers (.queueRead p m index) s (fun d => Claims.Ends .schUpdStat k 0 [.schUpdData] s.dev d ∧
          d.rf .schUpdData (k * 4) 0 32 = s.dev.rf .schTxqCfg q 0 32 ∧ d.rf .schUpdData (k * 4 + 1) 0 32 = s.dev.rf .schTxqDrr q 0 32 ∧
          d.rf .schUpdData (k * 4 + 2) 0 32 = s.dev.rf .schTxqAtt q 0 32 ∧ d.rf .schUpdData (k * 4 + 3) 0 32 = s.dev.txqHeld q % 2 ^ 32) ∧
        Answers (.queueFlush p m index) s (fun d => d.reg .schUpdStat k = 0 ∧ (d.txq q).frames = [] ∧ d.rf .schUpdData (k * 4 + 3) 0 32 = (s.dev.txq q).frames.length % 2 ^ 32)) ∧
      (index.toNat < 8192 → s.dev.granted p.val 4 (6 + m.val) index.toNat = true →
        ((w 2).testBit 15 = false → s.dev.pathsBad m.val (fun j => if j = sh then none else s.dev.shpParent j) s.dev.txqShaper [] = false →
          Answers (.shaperSet p m index full) s (fun d => Claims.Ends .schUpdStat k 1 [.schShpStat] s.dev d ∧ d.rb .schShpStat sh 0 = true ∧
            ∃ c, tabFind sh d.pkt.shpPend = some c ∧ c.rate.toNat = min (w 0 % 2 ^ 28) 25600000 ∧ c.burst.toNat = min 8388607 (max 64 (w 1 % 2 ^ 23)) ∧ c.full = full)) ∧
        Answers (.shaperRead p m index) s (fun d => Claims.Ends .schUpdStat k 0 [.schUpdData] s.dev d ∧ d.pkt = s.dev.pkt ∧
          d.rf .schUpdData (k * 4) 0 32 = s.dev.rf .schShpRate sh 0 32 ∧ d.rf .schUpdData (k * 4 + 1) 0 32 = s.dev.rf .schShpBurst sh 0 32 ∧
          d.rf .schUpdData (k * 4 + 2) 0 32 = s.dev.rf .schShpParent sh 0 32 ∧ d.rf .schUpdData (k * 4 + 3) 0 32 = s.dev.rf .schShpTok sh 0 32)) ∧
      (index.toNat < 4096 → s.dev.granted p.val 5 (6 + m.val) index.toNat = true →
        Answers (.policerSet p m index full) s (fun d => Claims.Ends .schUpdStat k 1 [] s.dev d ∧
          ∃ c, tabFind po d.pkt.polPend = some c ∧ c.rate.toNat = min (w 0 % 2 ^ 28) 25600000 ∧ c.burst.toNat = min 8388607 (max 64 (w 1 % 2 ^ 23)) ∧
            c.parent.toNat = w 2 % 16 ∧ c.full = full) ∧
        Answers (.policerRead p m index) s (fun d => Claims.Ends .schUpdStat k 0 [.schUpdData] s.dev d ∧ d.pkt = s.dev.pkt ∧
          d.rf .schUpdData (k * 4) 0 32 = s.dev.rf .schPolRate po 0 32 ∧ d.rf .schUpdData (k * 4 + 1) 0 32 = s.dev.rf .schPolBurst po 0 32 ∧
          d.rf .schUpdData (k * 4 + 2) 0 32 = s.dev.rf .schPolCfg po 0 32 ∧ d.rf .schUpdData (k * 4 + 3) 0 32 = s.dev.rf .schPolTok po 0 32)) ∧
      (index.toNat < 16 → ((w 0).testBit 15 = false ∨ s.dev.granted p.val 5 (6 + m.val) (w 0 % 4096) = true) → Answers (.ingPolSet p m index) s (fun d =>
        Claims.Ends .schUpdStat k 0 [.schIngPol] s.dev d ∧ d.pkt = s.dev.pkt ∧ d.rf .schIngPol (k * 16 + index.toNat) 0 12 = w 0 % 4096 ∧
        d.rb .schIngPol (k * 16 + index.toNat) 15 = (w 0).testBit 15)))

namespace Sys2Proof.Claims
/-- The classifier's update commands for one partition, engine island, index and table (R159). -/
def clsUpdates (p : Fin 8) (e : Fin 4) (i : BitVec 15) (t : BitVec 8) : List Instr :=
  [.ruleWrite p e i, .ruleDisable p e i, .ruleRead p e i, .exactInsert p e t, .exactDelete p e t, .exactRead p e t, .ctxWrite p e i, .ctxResync p e i]
/-- An update interface of the classifier reports a code and is no longer busy; registers but its status, and memory and threads, are as they were. -/
def Reports (p : Fin 8) (e : Fin 4) (code : Nat) (rs : List Reg) (d d' : Dev) : Prop :=
  d'.reg .clsUpdStat (8 * e.val + p.val) = BitVec.ofNat 64 (2 * code) ∧ Keeps (.clsUpdStat :: rs) d d'
end Sys2Proof.Claims

/-- R159, R172, R173: a command written while the interface is busy only sets busy_reject; a rule, table or context not granted ends in DENIED; a write with a malformed action ends in BAD_FIELD; else a rule is written with its hits kept or cleared, disabled or read out, an exact operation makes the interface busy, and a context is written or re-synchronised. The places of a context's fields in the data bytes are the model's (log entry 13). R156, R157, R159: an exact operation whose writes finish stores the key with its result in its entry or the first free one of its two buckets, in insert order, clears the entry's valid bit, or reads the result out; without an entry, and without a free one, it reports NOT_FOUND or FULL; afterwards no island's cache holds an old result of the key. -/
def Obligations.ClassifierUpdatesActForTheirPartition : Prop :=
  (∀ (p : Fin 8) (e : Fin 4) (i : BitVec 15) (t : BitVec 8) (s : State) (k n : Nat) (b : List Byte), s.dev.live = true →
    k = 8 * e.val + p.val → n = i.toNat → b = s.dev.updData e.val p.val →
    (s.dev.rb .clsUpdStat k 0 = true → ∀ c ∈ Claims.clsUpdates p e i t, Answers c s (fun d =>
      d.rb .clsUpdStat k 4 = true ∧ (∀ j, j ≠ 4 → d.rb .clsUpdStat k j = s.dev.rb .clsUpdStat k j) ∧ Keeps [.clsUpdStat] s.dev d ∧ d.pkt = s.dev.pkt)) ∧
    (s.dev.rb .clsUpdStat k 0 = false →
      (s.dev.granted p.val 11 (e.val + 2) n = false → ∀ c ∈ [Instr.ruleWrite p e i, .ruleDisable p e i, .ruleRead p e i],
        Answers c s (fun d => Claims.Reports p e 4 [] s.dev d ∧ d.pkt = s.dev.pkt)) ∧
      (s.dev.exactOf p.val t.toNat = false → ∀ c ∈ [Instr.exactInsert p e t, .exactDelete p e t, .exactRead p e t],
        Answers c s (fun d => Claims.Reports p e 4 [] s.dev d ∧ d.pkt = s.dev.pkt)) ∧
      (16384 ≤ n ∨ s.dev.granted p.val 14 (e.val + 2) n = false → ∀ c ∈ [Instr.ctxWrite p e i, .ctxResync p e i],
        Answers c s (fun d => Claims.Reports p e 4 [] s.dev d ∧ d.pkt = s.dev.pkt)) ∧
      (s.dev.granted p.val 11 (e.val + 2) n = true →
        (s.dev.actionOk p.val true (leAt b 160 4) = false → Answers (.ruleWrite p e i) s (fun d => Claims.Reports p e 3 [] s.dev d ∧ d.pkt = s.dev.pkt)) ∧
        (s.dev.actionOk p.val true (leAt b 160 4) = true → Answers (.ruleWrite p e i) s (fun d => Claims.Reports p e 0 [] s.dev d ∧
          d.rule e.val n = { value := b.take 80, mask := (b.drop 80).take 80, action := BitVec.ofNat 32 (leAt b 160 4), enable := (leAt b 164 1).testBit 0,
                             hits := if (leAt b 164 1).testBit 1 then 0 else (s.dev.rule e.val n).hits } ∧
          (∀ j < 32768, j ≠ n → d.rule e.val j = s.dev.rule e.val j))) ∧
        Answers (.ruleDisable p e i) s (fun d => Claims.Reports p e 0 [] s.dev d ∧ d.rule e.val n = { s.dev.rule e.val n with enable := false } ∧
          (∀ j < 32768, j ≠ n → d.rule e.val j = s.dev.rule e.val j)) ∧
        Answers (.ruleRead p e i) s (fun d => Claims.Reports p e 0 [.clsUpdData] s.dev d ∧ d.pkt = s.dev.pkt ∧
          slice (d.updData e.val p.val) 0 80 = slice (s.dev.rule e.val n).value 0 80 ∧ slice (d.updData e.val p.val) 80 80 = slice (s.dev.rule e.val n).mask 0 80 ∧
          leAt (d.updData e.val p.val) 160 4 = (s.dev.rule e.val n).action.toNat ∧ leAt (d.updData e.val p.val) 164 1 = b2n (s.dev.rule e.val n).enable ∧
          leAt (d.updData e.val p.val) 168 8 = (s.dev.rule e.val n).hits.toNat)) ∧
      (s.dev.exactOf p.val t.toNat = true → s.dev.exactCheck t.toNat = .ok → ∀ x ∈ [(Instr.exactInsert p e t, 4), (.exactDelete p e t, 5), (.exactRead p e t, 6)],
        Answers x.1 s (fun d => d.reg .clsUpdStat k = 1 ∧ Keeps [.clsUpdStat] s.dev d ∧
          tabFind k d.pkt.updPend = some (x.2, t.toNat, b.take (8 * s.dev.tdirN t.toNat), BitVec.ofNat 64 (leAt b 160 8)))) ∧
      (n < 16384 → s.dev.granted p.val 14 (e.val + 2) n = true →
        (leAt b 0 1 = 0 ∨ leAt b 0 1 = 2 ∨ (leAt b 0 1 = 1 ∧ (leAt b 2 1 = 0 ∨ (4 ≤ leAt b 2 1 ∧ leAt b 2 1 ≤ 12))) → Answers (.ctxWrite p e i) s (fun d =>
          Claims.Reports p e 0 [] s.dev d ∧ (d.offCtx e.val n).type = leAt b 0 1 ∧ (d.offCtx e.val n).seq = BitVec.ofNat 32 (leAt b 4 4) ∧
          (d.offCtx e.val n).sync = (leAt b 3 1).testBit 0 ∧ (d.offCtx e.val n).digests = BitVec.ofNat 2 (leAt b 1 1) ∧
          (∀ j < 16384, j ≠ n → d.offCtx e.val j = s.dev.offCtx e.val j))) ∧
        Answers (.ctxResync p e i) s (fun d => Claims.Reports p e 0 [] s.dev d ∧ (d.offCtx e.val n).seq = BitVec.ofNat 32 (leAt b 4 4) ∧
          (d.offCtx e.val n).resync = true ∧ (d.offCtx e.val n).type = (s.dev.offCtx e.val n).type ∧ (d.offCtx e.val n).sync = (s.dev.offCtx e.val n).sync ∧
          (∀ j < 16384, j ≠ n → d.offCtx e.val j = s.dev.offCtx e.val j))))) ∧
  (∀ (p : Fin 8) (e : Fin 4) (s : State) (op t : Nat) (key : List Byte) (res : Word), s.dev.live = true →
    tabFind (8 * e.val + p.val) s.dev.pkt.updPend = some (op, t, key, res) → s.dev.exactCheck t = .ok →
    (op = 4 → ∀ a, (s.dev.exactFind t key = some a ∨ (s.dev.exactFind t key = none ∧ (s.dev.exactSlots t key).find? (fun a => !s.dev.slotValid a) = some a)) →
      Answers (.clsUpdDone p e) s (fun d => d.reg .clsUpdStat (8 * e.val + p.val) = 0 ∧ tabFind (8 * e.val + p.val) d.pkt.updPend = none ∧
        d.mem = (s.dev.write a (slice key 0 32 ++ leBytes 8 (res ||| 0x8000000000000000#64).toNat ++ List.replicate 24 0)).mem ∧
        (∀ isl ∈ [2, 3, 4, 5], ∀ c ∈ d.cache isl p.val, c.table = t → c.key = key → c.result = res ||| 0x8000000000000000#64))) ∧
    (op = 4 → s.dev.exactFind t key = none → (s.dev.exactSlots t key).find? (fun a => !s.dev.slotValid a) = none → Answers (.clsUpdDone p e) s (fun d =>
      Claims.Reports p e 1 [] s.dev d ∧ tabFind (8 * e.val + p.val) d.pkt.updPend = none)) ∧
    (op = 5 → ∀ a, s.dev.exactFind t key = some a → Answers (.clsUpdDone p e) s (fun d => d.reg .clsUpdStat (8 * e.val + p.val) = 0 ∧ d.slotValid a = false ∧
      (∀ b, b < a + 32 ∨ a + 40 ≤ b → d.byte b = s.dev.byte b) ∧ (∀ isl ∈ [2, 3, 4, 5], ∀ c ∈ d.cache isl p.val, ¬ (c.table = t ∧ c.key = key)))) ∧
    (op = 6 → ∀ a, s.dev.exactFind t key = some a → Answers (.clsUpdDone p e) s (fun d => Claims.Reports p e 0 [.clsUpdData] s.dev d ∧
      leAt (d.updData e.val p.val) 160 8 = ofLe (s.dev.read (a + 32) 8))) ∧
    (op = 5 ∨ op = 6 → s.dev.exactFind t key = none → Answers (.clsUpdDone p e) s (fun d => Claims.Reports p e 2 [] s.dev d ∧
      tabFind (8 * e.val + p.val) d.pkt.updPend = none)))

namespace Sys2Proof.Claims
/-- The operation a submission becomes when its engine accepts it (R229, R232). -/
def opOf (d : Dev) (e : Fin 4) (fix : Bool) (tid p : Nat) (q : Submission) : EngOp :=
  ⟨e.val + 2, fix, p, tid, q.tag, q.desc, .accepted, 0, if !fix && (leAt q.desc 1 1).testBit 0 then d.engFrame tid q.desc else none⟩
/-- A thread's tags with one marked done with a status (R123). -/
def tagsDone (ts : List Tag) (tag : Nat) (st : Byte) : List Tag := ts.map (fun g => if g.tag = tag then { g with done := true, status := st } else g)
end Sys2Proof.Claims

/-- R123, R225, R230, R232, R234: an engine accepts the oldest submission that may take an entry; one that passes the checks waits for its turn, one that fails a check, with no earlier operation of its thread outstanding, completes at once with that status; an accepted operation whose turn it is, whose slots are ACTIVE and cached and whose hold space is free, starts, counts its slots' uses and takes its granules; a started operation that comes first completes its tag with the status of its work; XTS on one sector writes the transformed sector. -/
def Obligations.EngineOperationsAreAcceptedStartedAndDone : Prop :=
  ∀ (s : State), s.dev.live = true →
    (∀ (e : Fin 4) fix tid p q k o, s.dev.engPick (e.val + 2) fix = some (tid, p, q) → k = s.dev.keys.nextOp → o = Claims.opOf s.dev e fix tid p q →
      (s.dev.acceptStatus o = 0 → Answers (.engineAccept e fix) s (fun d => d.op k = some o ∧ d.keys.nextOp = k + 1 ∧
        d.thread tid = (s.dev.thread tid).setSub fix (((s.dev.thread tid).sub fix).drop 1) ∧ d.mem = s.dev.mem ∧ (∀ j, j ≠ k → d.op j = s.dev.op j))) ∧
      (s.dev.acceptStatus o ≠ 0 → leAt q.desc 56 8 = 0 → (∀ x ∈ s.dev.keys.ops, ¬ (x.2.tid = tid ∧ x.2.fix = fix)) → Answers (.engineAccept e fix) s (fun d =>
        d.op k = none ∧ (d.thread tid).tags = Claims.tagsDone (s.dev.thread tid).tags q.tag (s.dev.acceptStatus o) ∧ d.mem = s.dev.mem))) ∧
    (∀ k o, s.dev.op k = some o → o.stage = .accepted → (∀ b ∈ s.dev.opsBefore k o, b.stage ≠ .accepted) →
      (o.fix = true → o.code ≠ 1 → Answers (.engineOpStart k) s (fun d => d.op k = some { o with stage := .started } ∧ Keeps [] s.dev d)) ∧
      (∀ h, o.fix = false → (∀ n ∈ o.slots, (s.dev.slot n).state = 1 ∧ n ∈ s.dev.keyCache (o.isl - 2)) → h = s.dev.holdOf o →
        s.dev.rf .keyHoldUse (creditIdx o.isl o.part) 0 13 + h ≤ s.dev.rf .keyHoldQ (creditIdx o.isl o.part) 0 13 → s.dev.cipherStart o = 0 → s.dev.isStandby o.tid = false →
        Answers (.engineOpStart k) s (fun d => d.op k = some { o with stage := .started, hold := h } ∧ d.mem = s.dev.mem ∧ d.thr = s.dev.thr ∧
          d.rf .keyHoldUse (creditIdx o.isl o.part) 0 13 = s.dev.rf .keyHoldUse (creditIdx o.isl o.part) 0 13 + h ∧
          (∀ n, d.slot n = if n ∈ o.slots then { s.dev.slot n with useCount := min (2 ^ 64 - 1) ((s.dev.slot n).useCount + 1) } else s.dev.slot n)))) ∧
    (∀ k o r, s.dev.op k = some o → o.stage = .started → s.dev.opsBefore k o = [] → o.res = 0 → o.tid < 576 →
      (if o.fix then some (s.dev.runFixity o) else s.dev.runCipher o) = some r →
      Answers (.engineOpComplete k) s (fun d => ∃ d2 : Dev, d = d2.engNext o ∧ d2.op k = none ∧ d2.mem = r.2.mem ∧
        (d2.thread o.tid).tags = Claims.tagsDone (r.2.thread o.tid).tags o.tag r.1.status)) ∧
    (∀ k o, s.dev.op k = some o → o.stage = .started → s.dev.opsBefore k o = [] → o.fix = false → s.dev.runCipher o = none → s.dev.isStandby o.tid = false →
      Answers (.engineOpComplete k) s (fun d => d.op k = some o ∧ Keeps [.keyLogStat] s.dev d)) ∧
    (∀ (o : EngOp) (S : Nat) (x : KeySlot), o.code = 1 ∨ o.code = 2 → o.count = 1 → S = 2 ^ leAt o.desc 3 1 → x = s.dev.slot (leAt o.desc 4 2) → s.dev.isStandby o.tid = false →
      s.dev.engCheck o o.src S = none → s.dev.engCheck o o.dst (xts (o.code == 1) (x.key 0) (x.key 1) o.sect (s.dev.read (s.dev.engPhys o o.src) S)).length = none →
      s.dev.runCipher o = some (⟨0, 1, noUnit, 0⟩,
        s.dev.write (s.dev.engPhys o o.dst) (xts (o.code == 1) (x.key 0) (x.key 1) o.sect (s.dev.read (s.dev.engPhys o o.src) S))))

/-- R214, R218 to R220, R223: a key that an operation waits for enters its island's cache; a transfer that fails is counted, raises KEYBUS_CRC and is sent again, and one that fails again raises KEYBUS_FAIL and ends its operations with status 0x15; each second a slot past its expiry is expired and a slot past its verification date has raised its notice, once each, with the slot and its owner in the detail; a durable ceiling is the slot's; a failed health test of the random generator shows in KEY_RNG_STAT and raises RNG_FAULT. -/
def Obligations.KeysArriveExpireAndKeepTheirCeilings : Prop :=
  ∀ (s : State), s.dev.powered = true →
    (∀ (e : Fin 4) (slot : BitVec 16), s.dev.live = true → s.dev.keyWaiters (e.val + 2) slot.toNat ≠ [] → slot.toNat ∉ s.dev.keyCache e.val →
      (s.dev.slot slot.toNat).state ≠ 0 → s.dev.injecting 900 = false →
      ((s.dev.keyCache e.val).length < 1024 → Answers (.keyBusTransfer e slot true) s (fun d =>
        d.keyCache e.val = slot.toNat :: s.dev.keyCache e.val ∧ Counts [4] s.dev d ∧ Keeps [.keyEngStat] s.dev d)) ∧
      (65536 * e.val + slot.toNat ∉ s.dev.keys.busRetry → Answers (.keyBusTransfer e slot false) s (fun d =>
        RaisesSome 900 (e.val + 2) none s.dev d ∧ Counts [5] s.dev d ∧ Keeps [.keyBusStat] s.dev d ∧ d.keyCache e.val = s.dev.keyCache e.val ∧
        65536 * e.val + slot.toNat ∈ d.keys.busRetry ∧ d.rf .keyBusStat 0 16 4 = e.val + 2 ∧
        d.rf .keyBusStat 0 0 16 = min (s.dev.rf .keyBusStat 0 0 16 + 1) 65535)) ∧
      (65536 * e.val + slot.toNat ∈ s.dev.keys.busRetry → Answers (.keyBusTransfer e slot false) s (fun d => ∃ d1, RaisesSome 901 (e.val + 2) none s.dev d1 ∧
        Counts [6] s.dev d1 ∧ Keeps [] s.dev d1 ∧ d = (s.dev.keyWaiters (e.val + 2) slot.toNat).foldl (fun d w => d.engEnd w.1 w.2 0x15) d1))) ∧
    Answers .keyDateCheck s (fun d => (∀ n, d.slot n =
        { s.dev.slot n with
          expired := (s.dev.slot n).expired || ((s.dev.slot n).expires != 0 && decide ((s.dev.slot n).expires ≤ s.dev.dateNow))
          dueRaised := (s.dev.slot n).dueRaised || ((s.dev.slot n).verifyDue != 0 && decide ((s.dev.slot n).verifyDue ≤ s.dev.dateNow)) }) ∧
      Keeps [.keyStat, .keyDateStat] s.dev d ∧
      ∀ n x, x = s.dev.slot n → x.expires ≠ 0 → x.expires ≤ s.dev.dateNow → x.expired = false →
        ∃ r ∈ d.flt.queue, r.source = 896 ∧ r.part = some x.owner ∧ r.detail = BitVec.ofNat 64 (n + x.owner * 2 ^ 16)) ∧
    (∀ (slot : BitVec 16) c, tabFind slot.toNat s.dev.keys.ceilPend = some c → Answers (.ceilingWriteDone slot) s (fun d =>
      d.slot slot.toNat = { s.dev.slot slot.toNat with ceiling := c } ∧ (∀ n, n ≠ slot.toNat → d.slot n = s.dev.slot n) ∧ tabFind slot.toNat d.keys.ceilPend = none ∧
      d.rf .keyLogStat 0 0 14 = d.keys.ceilPend.length % 2 ^ 14 ∧
      ((s.dev.slot slot.toNat).persistent = true → tabGet d.keys.log {} slot.toNat = d.slot slot.toNat) ∧ Keeps [.keyStat, .keyDateStat, .keyLogStat] s.dev d)) ∧
    Answers .rngFail s (fun d => d.rb .keyRngStat 0 0 = false ∧ d.rf .keyRngStat 0 16 16 = min (s.dev.rf .keyRngStat 0 16 16 + 1) 65535 ∧
      RaisesSome 902 0 none s.dev d ∧ Keeps [.keyRngStat] s.dev d) ∧
    Answers .rngHealthPass s (fun d => d.rb .keyRngStat 0 0 = true ∧ (∀ b, b ≠ 0 → d.rb .keyRngStat 0 b = s.dev.rb .keyRngStat 0 b) ∧ Keeps [.keyRngStat] s.dev d)

namespace Sys2Proof.Claims
/-- A channel's registers with the written indices of a set in place (R264): each takes its value in the register's width. -/
def withSet (d : Dev) (ch : Nat) (sh : Tab Word) : Dev :=
  sh.foldl (fun d e => match shadowReg e.1 with
    | some (r, w) => d.setReg r ch (BitVec.ofNat 64 (e.2.toNat % 2 ^ w))
    | none => d) d
/-- A transfer has ended with a status and a count of bytes, and its channel, which posts to no ring, is free (R270, R271): what is left to do is its event. -/
def Ended (ch : Nat) (st done : Nat) (d' : Dev) : Prop :=
  (d'.chan ch).xfer = none ∧ d'.rf .dmaChStat ch 8 8 = st ∧ d'.rb .dmaChStat ch 0 = false ∧ d'.rb .dmaChStat ch 3 = true ∧ d'.rf .dmaChStat ch 32 32 = done % 2 ^ 32
end Sys2Proof.Claims

/-- R255, R256, R258, R263, R264, R266 to R268, R270, R271, R278: an idle channel takes its armed set, whose written indices replace its registers, and starts, or ends at once with BAD_FIELD; a COPY ring arms its next entry; the picked channel issues its next burst, from host memory as a host read; a burst's data is written in order at its place, after the last byte the checksum is final and the read-back is awaited; the read-back ends the transfer OK; a read that the target refuses ends it with the target's status, and a decode error raises ADDR_DECODE; a committed mode takes effect when no burst is in flight. -/
def Obligations.DmaTransfersMoveTheirBytes : Prop :=
  ∀ (s : State), s.dev.live = true →
    (∀ (ch : Fin 1024) a p d0, (s.dev.chan ch.val).armed = some a → s.dev.chanPart ch.val = some p → s.dev.chanBusy ch.val = false →
      s.dev.rb .dmaChOwner ch.val 4 = false → d0 = Claims.withSet s.dev ch.val a.shadow →
      (d0.setBad ch.val p a.shadow = false → Answers (.handover ch) s (fun d => Keeps [.dmaChStat] d0 d ∧ (d.chan ch.val).armed = none ∧
        (d.chan ch.val).xfer = some ⟨a.tid, a.ring, a.errOnly, (d0.reg .dmaChSrc ch.val).toNat, (d0.reg .dmaChDst ch.val).toNat, d0.rf .dmaChCnt ch.val 0 32, 0, 0, [], [], .moving, 0⟩ ∧
        d.rb .dmaChStat ch.val 0 = true ∧ d.rb .dmaChStat ch.val 1 = false ∧ d.rb .dmaChStat ch.val 3 = false ∧ d.rf .dmaChStat ch.val 32 32 = 0)) ∧
      (d0.setBad ch.val p a.shadow = true → d0.rb .dmaChCq ch.val 15 = false → Answers (.handover ch) s (fun d => ∃ (d1 : Dev) (x : Xfer),
        d = d1.xferEvent ch.val x ∧ x.tid = a.tid ∧ Claims.Ended ch.val 4 0 d1 ∧ (d1.chan ch.val).armed = none ∧ Keeps [.dmaChStat, .dmaIslStat] d0 d1))) ∧
    (∀ (d : Dev) (ch k : Nat) (sh : Tab Word) r w v, (sh.map Prod.fst).Nodup → (k, v) ∈ sh → shadowReg k = some (r, w) →
      ((Claims.withSet d ch sh).reg r ch).toNat = v.toNat % 2 ^ w) ∧
    (∀ (ch : Fin 1024) n sl e es, (s.dev.chan ch.val).armed = none → s.dev.rb .dmaChOwner ch.val 4 = true → n = s.dev.rf .dmaChOwner ch.val 5 14 →
      s.dev.sqSlice n = some sl → s.dev.sqKind n = 2 → s.dev.sqChan n = ch.val → (s.dev.sq n).entries = e :: es → Answers (.handover ch) s (fun d =>
        (d.sq n).entries = es ∧ (d.chan ch.val).armed = some ⟨0, some (n, BitVec.ofNat 16 (leAt e 0 2)), (leAt e 3 1).testBit 1, s.dev.copySet n sl e⟩ ∧
        d.rb .dmaChStat ch.val 1 = true ∧ Keeps [.dmaChStat] s.dev d)) ∧
    (∀ (e : Fin 4) ch p b x, s.dev.pickChannel (e.val + 2) = some (ch, p, b) → chanIsl ch = e.val + 2 → (s.dev.chan ch).xfer = some x →
      (s.dev.chMode ch 0 1 = 0 ∨ (∃ sl g, s.dev.chanSlice ch p = some (sl, g) ∧ s.dev.sliceState sl ≠ 3 ∧ s.dev.canIssue g.port (p + 1) = true)) →
      Answers (.burstReadIssue e) s (fun d => d.mem = s.dev.mem ∧ d.thr = s.dev.thr ∧
        (d.chan ch).xfer = some { x with issued := x.issued + (s.dev.nextBurst ch x).len, bursts := x.bursts ++ [s.dev.nextBurst ch x] } ∧
        (s.dev.chMode ch 0 1 = 1 → ∃ t r, tabFind t d.host.reqs = some r ∧ r.op = .xferRead ch (s.dev.nextBurst ch x).off (s.dev.nextBurst ch x).len ∧
          r.addr = x.src + (s.dev.nextBurst ch x).off ∧ r.len = (s.dev.nextBurst ch x).len ∧ r.reply = none))) ∧
    (∀ (ch : Fin 1024) x p b bs data, (s.dev.chan ch.val).xfer = some x → s.dev.chanPart ch.val = some p → x.stage = .moving → x.bursts = b :: bs →
      s.dev.chMode ch.val 0 1 = 0 → s.dev.chMode ch.val 1 1 = 0 → s.dev.chMode ch.val 14 1 = 0 → s.dev.xferCheck ch.val p (x.src + b.off) b.len = none →
      data = s.dev.read (x.src + b.off) b.len → s.dev.xferCheck ch.val p (x.dst + b.off) b.len = none → Answers (.burstReadData ch) s (fun d =>
        d.mem = (s.dev.writeDup p (x.dst + b.off) data).mem ∧ d.thr = s.dev.thr ∧ ∃ y, (d.chan ch.val).xfer = some y ∧ y.written = x.written + b.len ∧ y.bursts = bs ∧
          y.stage = (if x.written + b.len = x.cnt then .readback else .moving) ∧
          y.data = (if s.dev.chMode ch.val 12 2 = 0 then [] else if s.dev.descends ch.val x then data ++ x.data else x.data ++ data) ∧
          (x.written + b.len = x.cnt → s.dev.chMode ch.val 12 2 ≠ 0 →
            d.reg .dmaChChk ch.val = streamCheck (s.dev.chMode ch.val 12 2) (s.dev.reg .dmaChSeed ch.val) y.data) ∧
          d.rf .dmaChStat ch.val 32 32 = (if s.dev.descends ch.val x = true ∧ x.written + b.len < x.cnt then 0 else (x.written + b.len) % 2 ^ 32))) ∧
    (∀ (ch : Fin 1024) x, (s.dev.chan ch.val).xfer = some x → x.stage = .readback → s.dev.chMode ch.val 1 1 = 0 → s.dev.ns ≤ x.readAt + 100000 →
      s.dev.rb .dmaChCq ch.val 15 = false → Answers (.readbackReturn ch) s (fun d => ∃ (d1 : Dev) (y : Xfer), d = d1.xferEvent ch.val y ∧ y.tid = x.tid ∧
        Claims.Ended ch.val 0 x.cnt d1 ∧ d1.mem = s.dev.mem ∧ d1.thr = s.dev.thr)) ∧
    (∀ (ch : Fin 1024) x p b bs st, (s.dev.chan ch.val).xfer = some x → s.dev.chanPart ch.val = some p → x.stage = .moving → x.bursts = b :: bs →
      s.dev.chMode ch.val 0 1 = 0 → s.dev.xferCheck ch.val p (x.src + b.off) b.len = some st → s.dev.rb .dmaChCq ch.val 15 = false → Answers (.transferError ch) s (fun d =>
        ∃ (d1 : Dev) (y : Xfer), d = d1.xferEvent ch.val y ∧ y.tid = x.tid ∧ d1.mem = s.dev.mem ∧ d1.thr = s.dev.thr ∧
        Claims.Ended ch.val st.toNat (if s.dev.descends ch.val x = true ∧ x.written < x.cnt then 0 else x.written) d1 ∧
        (st = 0x14 → Raises 644 (chanIsl ch.val) (some p) none 0 (BitVec.ofNat 64 (x.src + b.off)) s.dev d1))) ∧
    (∀ (e : Fin 4) v, tabFind e.val s.dev.dma.modePend = some v →
      (s.dev.rf .dmaIslStat e.val 0 12 = 0 → Answers (.dmaModeApply e) s (fun d => d.reg .dmaIslCfg e.val = v.setWidth 64 ∧ d.rb .dmaIslStat e.val 16 = false ∧
        tabFind e.val d.dma.modePend = none ∧ Keeps [.dmaIslCfg, .dmaIslStat] s.dev d)) ∧
      (s.dev.rf .dmaIslStat e.val 0 12 ≠ 0 → Answers (.dmaModeApply e) s (fun d => d = s.dev)))

/-- R279, R283 to R286, R289, R291, R501: a doorbell wakes its enabled ring; one from a function that is not the slice's partition's is denied with AER Completer Abort; a woken ring with a tag free sends a fetch read of its head entry and its read-ahead; an owned, well-formed head entry that comes back is accepted, and the head moves past it; an error response or timeout disables the ring and raises its fault; a ring is enabled with both indices at 0 and its phase at 1, and an enabled ring only takes the clearing of enable. -/
def Obligations.SubmissionRingsFetchTheirEntries : Prop :=
  ∀ (n : Fin 16384) (s : State), s.dev.live = true →
    (∀ who, s.dev.mayRing who (s.dev.sqSlice n.val) = true → Answers (.ringSqDb who n) s (fun d =>
      d.sq n.val = { s.dev.sq n.val with wake := s.dev.rb .ringSqCfg n.val 0 || (s.dev.sq n.val).wake } ∧ Counts [evE (ringIsl n.val) 451] s.dev d ∧ Keeps [] s.dev d)) ∧
    (∀ h f, s.dev.mayRing (.fn h f) (s.dev.sqSlice n.val) = false → ∀ c ∈ [Instr.ringSqDb (.fn h f) n, .ringSqCfgWrite (.fn h f) n 0], Answers c s (fun d =>
      (d.fn h.val f.val).aer = .completerAbort :: (s.dev.fn h.val f.val).aer ∧ d.dma = s.dev.dma ∧ Keeps [] s.dev d)) ∧
    (∀ sl, s.dev.sqSlice n.val = some sl → (s.dev.sq n.val).flight = none → s.dev.fetchOn n.val = true → (s.dev.sq n.val).wake = true →
      s.dev.tagFree (s.dev.slicePort sl) (s.dev.sliceFn sl) = true → Answers (.ringPoll n) s (fun d =>
        (d.sq n.val).flight = some (min (1 + (s.dev.sq n.val).ahead) (s.dev.sqSize n.val)) ∧ (d.sq n.val).wake = false ∧ d.mem = s.dev.mem ∧
        (d.sq n.val).entries = (s.dev.sq n.val).entries ∧ ∃ t r, tabFind t d.host.reqs = some r ∧ r.op = .fetch n.val ∧ r.reply = none ∧
          r.addr = (s.dev.reg .ringSqBase n.val).toNat + 64 * s.dev.rf .ringSqStat n.val 0 16 ∧
          r.len = 64 * min (1 + (s.dev.sq n.val).ahead) (s.dev.sqSize n.val))) ∧
    (∀ sl t bs e, s.dev.replyFor (.fetch n.val) = some (t, .data bs) → (s.dev.sq n.val).flight = some 1 → s.dev.sqSlice n.val = some sl →
      s.dev.rb .ringSqCfg n.val 0 = true → s.dev.sliceRuns sl = true → s.dev.sliceIssues sl = true → s.dev.sqKind n.val ≠ 2 → e = slice bs 0 64 →
      s.dev.rf .ringSqStat n.val 0 16 + 1 ≠ s.dev.sqSize n.val → leAt e 3 1 % 2 = s.dev.rf .ringSqStat n.val 17 1 → s.dev.entryBad n.val sl e = none →
      s.dev.rf .ringSqStat n.val 0 16 + 1 < 65536 → Answers (.fetchReturn n) s (fun d =>
        (d.sq n.val).entries = (s.dev.sq n.val).entries ++ [e] ∧ (d.sq n.val).flight = none ∧ (d.sq n.val).wake = true ∧
        d.rf .ringSqStat n.val 0 16 = s.dev.rf .ringSqStat n.val 0 16 + 1 ∧ d.rf .ringSqStat n.val 16 2 = s.dev.rf .ringSqStat n.val 16 2 ∧ d.mem = s.dev.mem)) ∧
    (∀ sl t k r, s.dev.replyFor (.fetch n.val) = some (t, r) → (r = .error ∨ r = .timeout) → (s.dev.sq n.val).flight = some k → s.dev.sqSlice n.val = some sl →
      s.dev.rb .ringSqCfg n.val 0 = true → s.dev.sliceRuns sl = true → s.dev.sliceIssues sl = true → Answers (.fetchReturn n) s (fun d =>
        d.rb .ringSqCfg n.val 0 = false ∧ d.rb .ringSqStat n.val 18 = true ∧ RaisesSome 1026 (ringIsl n.val) (some (s.dev.slicePart sl)) s.dev d ∧
        (d.sq n.val).flight = none ∧ d.mem = s.dev.mem)) ∧
    (∀ who (v : W32), s.dev.mayRing who (s.dev.sqSlice n.val) = true →
      (s.dev.rb .ringSqCfg n.val 0 = false → v.getLsbD 0 = true → Answers (.ringSqCfgWrite who n v) s (fun d =>
        d.rb .ringSqCfg n.val 0 = true ∧ d.rf .ringSqCfg n.val 1 5 = min 16 (max 4 (v.toNat / 2 % 32)) ∧ d.rf .ringSqCfg n.val 8 14 = v.toNat / 256 % 2 ^ 14 ∧
        d.rf .ringSqStat n.val 0 17 = 0 ∧ d.rf .ringSqStat n.val 17 1 = 1 ∧ Keeps [.ringSqCfg, .ringSqStat] s.dev d)) ∧
      (s.dev.rb .ringSqCfg n.val 0 = true → Answers (.ringSqCfgWrite who n v) s (fun d => d.rb .ringSqCfg n.val 0 = v.getLsbD 0 ∧
        (∀ b, b ≠ 0 → d.rb .ringSqCfg n.val b = s.dev.rb .ringSqCfg n.val b) ∧ d.dma = s.dev.dma ∧ Keeps [.ringSqCfg] s.dev d)))

namespace Sys2Proof.Claims
/-- A function's posted writes leave the device at once: its partition is not inside the gap of a switch-over (R419). -/
def NoGap (d : Dev) (f : Nat) : Prop := f = 0 ∨ (d.duplex (f - 1)).moved = false
end Sys2Proof.Claims

/-- R276, R277, R279, R280, R288, R290, R291: a frame for a host queue is written into the next fetched buffer, truncated to it, with its time word first where asked, and its completion is posted; with no buffer it is dropped and counted; a TX ring's next entry is read from host memory, and the frame read goes to its transmit queue; a PROG ring's oldest entry is copied to its inbox slot while there is room, the produced count moves on and the route is signalled; the driver's head acknowledges what it passes; a completion ring's timer raises its interrupt; a completion ring is enabled empty at phase 1. -/
def Obligations.RingsCarryFramesEntriesAndCompletions : Prop :=
  ∀ (s : State), s.dev.live = true →
    (∀ f x q sl e es room st, s.dev.frame f = some x → f ∈ s.dev.pkt.toHost → q = x.ind.number → s.dev.sqSlice q = some sl → s.dev.sliceIssues sl = true →
      s.dev.sliceRuns sl = true → s.dev.sqKind q = 0 → s.dev.overflowFull sl = false → (s.dev.sq q).entries = e :: es →
      room = leAt e 16 4 - (if s.dev.rb .ringSqCfg q 22 then 8 else 0) → st = (if room < x.bytes.length then 0x19 else 0 : Byte) →
      ((leAt e 3 1).testBit 1 = false ∨ st ≠ 0) → Answers (.rxDeliver f) s (fun d => ∃ d1 : Dev,
        d = d1.post ⟨s.dev.rf .ringSqCfg q 8 14, BitVec.ofNat 16 (leAt e 0 2), st, 0, BitVec.ofNat 16 q, BitVec.ofNat 16 (x.bytes.length + 4), rxDetail x⟩ ∧
        d1.frame f = none ∧ d1.pkt.toHost = s.dev.pkt.toHost.erase f ∧ (d1.sq q).entries = es ∧ d1.mem = s.dev.mem ∧
        (Claims.NoGap s.dev (s.dev.sliceFn sl) → .hostWrite (s.dev.slicePort sl) (s.dev.sliceFn sl) (s.dev.slicePasidWord sl)
          (leAt e 8 8 + (if s.dev.rb .ringSqCfg q 22 then 8 else 0)) (x.bytes.take room) ∈ d1.outs))) ∧
    (∀ f x q sl, s.dev.frame f = some x → f ∈ s.dev.pkt.toHost → q = x.ind.number → s.dev.sqSlice q = some sl → s.dev.sliceIssues sl = true →
      (s.dev.sliceRuns sl = false ∨ s.dev.sqKind q ≠ 0 ∨ s.dev.overflowFull sl = true ∨ (s.dev.sq q).entries = []) → Answers (.rxDeliver f) s (fun d =>
        d.frame f = none ∧ d.counter (evE (ringIsl q) 455) = s.dev.counter (evE (ringIsl q) 455) + 1 ∧ d.dma = s.dev.dma ∧ Keeps [] s.dev d)) ∧
    (∀ (n : Fin 16384) sl e es, s.dev.sqSlice n.val = some sl → s.dev.sqKind n.val = 1 → (s.dev.sq n.val).entries = e :: es → (s.dev.sq n.val).reading = none →
      s.dev.txBlocked n.val = false → s.dev.sliceIssues sl = true → s.dev.tagFree (s.dev.slicePort sl) (s.dev.sliceFn sl) = true → Answers (.txFrameRead n) s (fun d =>
        (d.sq n.val).entries = es ∧ (d.sq n.val).reading = some e ∧ d.mem = s.dev.mem ∧ ∃ t r, tabFind t d.host.reqs = some r ∧ r.op = .txRead n.val ∧
          r.addr = leAt e 8 8 ∧ r.len = leAt e 16 2 ∧ r.reply = none)) ∧
    (∀ (n : Fin 16384) sl e t bs, s.dev.sqSlice n.val = some sl → (s.dev.sq n.val).reading = some e → s.dev.replyFor (.txRead n.val) = some (t, .data bs) →
      Answers (.txFrameRead n) s (fun d => (d.sq n.val).reading = none ∧ d.pkt.arriving = s.dev.pkt.arriving ++ [s.dev.pkt.nextFrame] ∧ d.mem = s.dev.mem ∧
        ∃ y, d.frame s.dev.pkt.nextFrame = some y ∧ y.bytes = slice bs 0 (leAt e 16 2) ∧ y.part = s.dev.slicePart sl ∧ y.ind = ⟨0, leAt e 18 2⟩ ∧
          y.tx = some (n.val, BitVec.ofNat 16 (leAt e 0 2)))) ∧
    (∀ (n : Fin 16384) sl e es a j produced, s.dev.sqSlice n.val = some sl → s.dev.sqKind n.val = 3 → (s.dev.sq n.val).entries = e :: es →
      a = s.dev.rf .ringSqInbox n.val 0 48 → j = min 12 (max 2 (s.dev.rf .ringSqInbox n.val 48 4)) → produced = ofLe (s.dev.read a 8) →
      (∃ off, s.dev.region a (64 + 64 * 2 ^ j) = some (.island (ringIsl n.val) off)) → s.dev.checkMem (.part (s.dev.sqPart n.val)) a (64 + 64 * 2 ^ j) = .ok →
      (produced + 2 ^ 64 - ofLe (s.dev.read (a + 8) 8)) % 2 ^ 64 < 2 ^ j → Answers (.inboxDeliver n) s (fun d => ∃ d1 : Dev,
        d = d1.route (s.dev.sqPart n.val) (s.dev.rb .ringSqRoute n.val 15) (s.dev.rf .ringSqRoute n.val 0 10) (s.dev.rf .ringSqRoute n.val 10 5) ∧
        (d1.sq n.val).entries = es ∧ d1.mem = ((s.dev.write (a + 64 + 64 * (produced % 2 ^ j)) (slice e 0 64)).write a (leBytes 8 (produced + 1))).mem ∧
        d1.regs = s.dev.regs ∧ d1.thr = s.dev.thr)) ∧
    (∀ who (n : Fin 16384) (v : W32), s.dev.mayRing who (s.dev.cqSlice n.val) = true → Answers (.ringCqHead who n v) s (fun d => ∃ d1 : Dev,
      d = (d1.cqDrain n.val).drainChannels ∧ d1.rf .ringCqHead n.val 0 17 = v.toNat % 2 ^ 17 ∧ Keeps [.ringCqHead] s.dev d1 ∧ (d1.cq n.val).timer = (s.dev.cq n.val).timer ∧
      (v.toNat % 65536 < s.dev.cqSize n.val → s.dev.rf .ringCqHead n.val 0 16 ≤ v.toNat % 65536 → s.dev.rf .ringCqHead n.val 16 1 = v.toNat / 65536 % 2 →
        (d1.cq n.val).unacked = (s.dev.cq n.val).unacked - (v.toNat % 65536 - s.dev.rf .ringCqHead n.val 0 16)))) ∧
    (∀ (n : Fin 16384) t sl, (s.dev.cq n.val).timer = some t → s.dev.cqSlice n.val = some sl →
      (t ≤ s.dev.ns → Answers (.cqIrqTimer n) s (fun d => ∃ d1 : Dev, (d1.cq n.val).timer = none ∧ (∀ m, m ≠ n.val → d1.cq m = s.dev.cq m) ∧ Keeps [] s.dev d1 ∧
        d = (if s.dev.rb .ringCqIrq n.val 11 then d1.interrupt (s.dev.slicePort sl) (s.dev.sliceFn sl) (s.dev.rf .ringCqIrq n.val 0 11) else d1))) ∧
      (s.dev.ns < t → Answers (.cqIrqTimer n) s (fun d => d = s.dev))) ∧
    (∀ who (n : Fin 16384) (v : W32), s.dev.mayRing who (s.dev.cqSlice n.val) = true →
      (s.dev.rb .ringCqCfg n.val 0 = false → v.getLsbD 0 = true → Answers (.ringCqCfgWrite who n v) s (fun d => ∃ d1 : Dev, d = (d1.cqDrain n.val).drainChannels ∧
        d1.rb .ringCqCfg n.val 0 = true ∧ d1.rf .ringCqCfg n.val 1 5 = min 16 (max 4 (v.toNat / 2 % 32)) ∧ d1.rf .ringCqStat n.val 0 17 = 2 ^ 16 ∧
        d1.rf .ringCqHead n.val 0 17 = 0 ∧ d1.cq n.val = {} ∧ Keeps [.ringCqCfg, .ringCqStat, .ringCqHead] s.dev d1)) ∧
      (s.dev.rb .ringCqCfg n.val 0 = true → Answers (.ringCqCfgWrite who n v) s (fun d => d.rb .ringCqCfg n.val 0 = v.getLsbD 0 ∧ d.dma = s.dev.dma ∧
        Keeps [.ringCqCfg] s.dev d)))

namespace Sys2Proof.Claims
/-- A function carries no slice and no transfer, and no mailbox shows a face: what it stops is only its requests. -/
def FnQuiet (d : Dev) (h f : Nat) : Prop := d.fnSlices h f = [] ∧ d.fnChans h f = [] ∧ ∀ m ∈ d.mbxList, d.faceAddr m = none
/-- No manager's or driver's end of a mailbox lies on a function. -/
def NoEnds (d : Dev) (h f : Nat) : Prop := ∀ m ∈ d.mbxList, ∀ e ∈ [d.sndEnd m, d.rcvEnd m], e.kind = 1 ∨ e.kind = 2 → d.endFn e ≠ some (h, f)
/-- A function is as its reset leaves it (R313 step 4): interrupts off and nothing pending, memory and bus master enable clear, in D0, its window tables empty; a changed BAR2 size waits. -/
def FnReset (h f : Nat) (d d' : Dev) : Prop :=
  d'.fn h f = { bar2Log := (d.fn h f).bar2Log } ∧ d'.bme h f = false ∧ d'.d3 h f = false ∧ d'.reg .hostWinStat (fnKey h f) = 0 ∧
  (∀ e < 256, d'.reg .hostWinAct (256 * fnKey h f + e) = 0 ∧ d'.reg .hostWinStg (256 * fnKey h f + e) = 0) ∧ (∀ i < 64, d'.reg .hostIntxPend (64 * fnKey h f + i) = 0)
/-- A host port other than the management port has been reset with its functions: its link is down, none of its requests is out, and every function it presents is reset (R314). -/
def PortReset (h : Nat) (d d' : Dev) : Prop :=
  d'.linkUp h = false ∧ (∀ t r, tabFind t d'.host.reqs = some r → r.h ≠ h) ∧ (∀ f < 9, d.fnExists h f = true → d'.fn h f = { bar2Log := (d.fn h f).bar2Log } ∧ d'.bme h f = false) ∧
  d'.mem = d.mem ∧ d'.thr = d.thr
/-- A count of the lifetime counters has moved up by one, saturating. -/
def Up (d d' : Tab Nat) (k : Nat) : Prop := tabGet d' 0 k = min (2 ^ 32 - 1) (tabGet d 0 k + 1)
end Sys2Proof.Claims

/-- R293 to R295, R313, R314, R318, R444, R451: a host port that may train comes up with the rate and width it trained to; a link that goes down raises its fault, and with a hot reset and an asserted PERST, resets the port with its functions, each counted; a function-level reset clears the function and quarantines its outstanding requests; a released PERST lets the port train; an idle link enters L1. Shown for functions without slices, transfers or mailbox ends of their own, and for ports other than the management port. -/
def Obligations.HostLinksAndFunctionsReset : Prop :=
  ∀ (h : Fin 8) (s : State),
    (∀ t, s.dev.powered = true → s.dev.hostPortExists h.val = true → s.dev.host.perst.getLsbD h.val = false → s.dev.host.training.getLsbD h.val = true → s.dev.linkUp h.val = false →
      (∀ m ∈ s.dev.mbxList, s.dev.faceAddr m = none) → Answers (.hostLinkUp h t) s (fun d => d.linkUp h.val = true ∧
        d.rf .hostPortStat h.val 1 3 = min t.rate.toNat (s.dev.rf .hostLinkCfg (h.val / 4) 4 3) ∧ d.rf .hostPortStat h.val 4 5 = min 16 (max 1 t.width.toNat) ∧
        d.rb .hostPortStat h.val 9 = (t.flit || decide (5 ≤ min t.rate.toNat (s.dev.rf .hostLinkCfg (h.val / 4) 4 3))) ∧ Keeps [.hostPortStat] s.dev d)) ∧
    (s.dev.powered = true → s.dev.hostPortExists h.val = true → h.val ≠ s.dev.mgmtPort → (∀ f < 9, Claims.FnQuiet s.dev h.val f ∧ Claims.NoEnds s.dev h.val f) →
      (s.dev.linkUp h.val = true →
        Answers (.hostLinkDown h) s (fun d => Claims.PortReset h.val s.dev d ∧ RaisesSome 1152 1 none s.dev d ∧ Claims.Up s.dev.life.host d.life.host h.val ∧
          Claims.Up s.dev.life.resets d.life.resets 4) ∧
        Answers (.hotReset h) s (fun d => Claims.PortReset h.val s.dev d ∧ d.flt = s.dev.flt ∧ Claims.Up s.dev.life.host d.life.host h.val ∧
          Claims.Up s.dev.life.resets d.life.resets 4)) ∧
      (s.dev.host.perst.getLsbD h.val = false → Answers (.fundamentalReset h) s (fun d => d.linkUp h.val = false ∧ d.host.perst.getLsbD h.val = true ∧
        (∀ f < 9, (d.fn h.val f).bar2Log = s.dev.rf .hostFnCfg (fnKey h.val f) 0 5) ∧ Claims.Up s.dev.life.resets d.life.resets 3 ∧ d.mem = s.dev.mem))) ∧
    (∀ f : Fin 9, s.dev.powered = true → s.dev.fnExists h.val f.val = true → f.val ≠ 0 → Claims.FnQuiet s.dev h.val f.val → Claims.NoEnds s.dev h.val f.val →
      Answers (.functionLevelReset h f) s (fun d => Claims.FnReset h.val f.val s.dev d ∧ d.mem = s.dev.mem ∧ d.thr = s.dev.thr ∧ Claims.Up s.dev.life.resets d.life.resets 5 ∧
        ∀ t r, tabFind t d.host.reqs = some r → r.h = h.val → r.f = f.val → r.quarantined = true)) ∧
    (s.dev.host.perst.getLsbD h.val = true → Answers (.perstRelease h) s (fun d => d.host.perst.getLsbD h.val = false ∧ Keeps [] s.dev d ∧
      (∀ k, k ≠ h.val → d.host.perst.getLsbD k = s.dev.host.perst.getLsbD k) ∧
      ((s.dev.powered && s.dev.boot.imaged && s.dev.hostPortExists h.val) = true → Claims.Up s.dev.life.host d.life.host h.val))) ∧
    (s.dev.powered = true → s.dev.linkUp h.val = true → s.dev.rb .hostPortStat h.val 15 = false → (∀ e ∈ s.dev.host.reqs, e.2.h = h.val → e.2.reply ≠ none) →
      Answers (.aspmL1Entry h) s (fun d => d.rb .hostPortStat h.val 15 = true ∧ d.linkUp h.val = true ∧ Counts [evHost h.val 11] s.dev d ∧ Keeps [.hostPortStat] s.dev d))

/-- R310 to R313, R317: a quarantined tag returns once its timeout has passed; a function whose bus master enable is cleared, or that enters D3hot, may issue nothing and discards what its requests bring back; enabled again it may issue, and its held interrupt is sent; the host's enables choose the mechanism, and enabling MSI-X or MSI clears HOST_INTX_PEND; a vector unmasked while pending is sent; HOST_INTX_PEND clears what is written as 1, and INTA follows. -/
def Obligations.HostFunctionsIssueOnlyWhileEnabled : Prop :=
  ∀ (h : Fin 8) (f : Fin 9) (s : State) (k : Nat), s.dev.powered = true → k = fnKey h.val f.val →
    (∀ tag r, tabFind tag s.dev.host.reqs = some r → r.quarantined = true →
      (r.tick + r.limit ≤ s.dev.time.tick → Answers (.tagQuarantineRelease tag) s (fun d => tabFind tag d.host.reqs = none ∧
        (∀ t, t ≠ tag → tabFind t d.host.reqs = tabFind t s.dev.host.reqs) ∧ Keeps [.hostFnStat, .hostLinkStat] s.dev d)) ∧
      (s.dev.time.tick < r.tick + r.limit → Answers (.tagQuarantineRelease tag) s (fun d => d = s.dev))) ∧
    (s.dev.fnExists h.val f.val = true → Claims.FnQuiet s.dev h.val f.val →
      ∀ c, (c = Instr.busMasterEnableClear h f ∧ s.dev.bme h.val f.val = true) ∨ (c = .d3hotEntry h f ∧ s.dev.linkUp h.val = true ∧ s.dev.d3 h.val f.val = false) →
      Answers c s (fun d => d.canIssue h.val f.val = false ∧ Keeps [.hostFnStat, .hostLinkStat] s.dev d ∧ (c = .d3hotEntry h f → d.d3 h.val f.val = true) ∧
        ∀ t r, tabFind t d.host.reqs = some r → r.h = h.val → r.f = f.val → r.quarantined = false → r.op = .discarded ∧ r.reply = none)) ∧
    (s.dev.fnExists h.val f.val = true → Claims.FnQuiet s.dev h.val f.val → s.dev.dma.cqWait = [] → s.dev.linkUp h.val = true →
      ∀ c, (c = Instr.busMasterEnableSet h f ∧ s.dev.live = true ∧ s.dev.fw.serving = true ∧ s.dev.bme h.val f.val = false ∧ s.dev.d3 h.val f.val = false) ∨
        (c = .d3hotExit h f ∧ s.dev.d3 h.val f.val = true ∧ s.dev.bme h.val f.val = true) →
      ((s.dev.fn h.val f.val).held = [] → Answers c s (fun d => d.canIssue h.val f.val = true ∧ d.host.reqs = s.dev.host.reqs ∧ d.outs = s.dev.outs ∧
        Keeps [.hostFnStat] s.dev d)) ∧
      (∀ v, (s.dev.fn h.val f.val).held = [v] → (s.dev.fn h.val f.val).msixEn = true → (s.dev.fn h.val f.val).fnMask = false → v ∈ (s.dev.fn h.val f.val).unmasked →
        Answers c s (fun d => d.canIssue h.val f.val = true ∧ (d.fn h.val f.val).held = [] ∧ d.outs = .msix h.val f.val v :: s.dev.outs))) ∧
    (∀ e, s.dev.live = true → s.dev.fnExists h.val f.val = true →
      (s.dev.intxAny h.val f.val = false → (s.dev.fn h.val f.val).pba = [] → (s.dev.fn h.val f.val).msiPend = 0 → Answers (.interruptEnableChange h f e) s (fun d =>
        d.fn h.val f.val = { s.dev.fn h.val f.val with
          msixEn := e.msixEn, fnMask := e.fnMask, msiEn := e.msiEn, msiCount := msiMessages e.msiCount, msiMask := e.msiMask, intxDis := e.intxDis } ∧
        d.rf .hostFnIrq k 0 2 = (if e.msixEn then 1 else if e.msiEn then 2 else if e.intxDis then 0 else 3) ∧ d.outs = s.dev.outs ∧ Keeps [.hostFnIrq] s.dev d)) ∧
      (e.msixEn = true ∨ e.msiEn = true → Answers (.interruptEnableChange h f e) s (fun d => ∀ i < 64, d.reg .hostIntxPend (64 * k + i) = 0))) ∧
    (∀ v : Fin 2048, s.dev.live = true → s.dev.fnExists h.val f.val = true → (s.dev.fn h.val f.val).msixEn = true → (s.dev.fn h.val f.val).fnMask = false →
      v.val ∉ (s.dev.fn h.val f.val).unmasked →
      ((s.dev.fn h.val f.val).pba = [] → Answers (.vectorUnmask h f (some v)) s (fun d => v.val ∈ (d.fn h.val f.val).unmasked ∧ d.outs = s.dev.outs ∧ Keeps [] s.dev d)) ∧
      ((s.dev.fn h.val f.val).pba = [v.val] → s.dev.bme h.val f.val = true → Answers (.vectorUnmask h f (some v)) s (fun d =>
        v.val ∈ (d.fn h.val f.val).unmasked ∧ (d.fn h.val f.val).pba = [] ∧ d.outs = .msix h.val f.val v.val :: s.dev.outs))) ∧
    (∀ who (i : Fin 64) (v : W32) (p : BitVec 32), s.dev.ownFn who h.val f.val = true → p.toNat = s.dev.rf .hostIntxPend (64 * k + i.val) 0 32 →
      Answers (.hostIntxPend who h f i v) s (fun d => d.reg .hostIntxPend (64 * k + i.val) = (p &&& ~~~ v).setWidth 64 ∧
        (∀ j, j ≠ 64 * k + i.val → d.reg .hostIntxPend j = s.dev.reg .hostIntxPend j) ∧ Keeps [.hostIntxPend] s.dev d ∧
        d.outs = (if d.intaOn h.val f.val = s.dev.intaOn h.val f.val then s.dev.outs else .inta h.val f.val (d.intaOn h.val f.val) :: s.dev.outs)))

/-- R297 to R303, R308, R309, R454, R501: the manager's commit of a window table exchanges the two banks and is busy until firmware has copied the new one, is refused while busy, and names the first bad entry; an inbound read or write of one page through a valid entry that permits it reaches memory that its function may reach, one through an invalid entry is an Unsupported Request, and one the entry does not permit is denied and raises HOST_WIN_DENIED; configuration space answers the identity, or Request Retry Status until firmware serves; a completion is kept for the operation that waits for it and returns the tag of one that has ended; a request past its timeout is logged in AER and raises its fault. -/
def Obligations.HostWindowsAndCompletions : Prop :=
  ∀ (h : Fin 8) (f : Fin 9) (s : State) (k : Nat), s.dev.powered = true → k = fnKey h.val f.val →
    (∀ who, s.dev.live = true → s.dev.isManager who = true →
      (s.dev.rb .hostWinStat k 0 = true → Answers (.hostWinCommit who h f) s (fun d => d.rb .hostWinStat k 1 = true ∧ d.rb .hostWinStat k 0 = true ∧ Keeps [.hostWinStat] s.dev d)) ∧
      (∀ e, s.dev.rb .hostWinStat k 0 = false → (List.range 256).find? (fun e => s.dev.winBad h.val f.val e) = some e → Answers (.hostWinCommit who h f) s (fun d =>
        d.rb .hostWinStat k 2 = true ∧ d.rf .hostWinStat k 3 8 = e ∧ d.rb .hostWinStat k 0 = false ∧ Keeps [.hostWinStat] s.dev d)) ∧
      (s.dev.rb .hostWinStat k 0 = false → (∀ e < 256, s.dev.winBad h.val f.val e = false) → Answers (.hostWinCommit who h f) s (fun d =>
        d.rb .hostWinStat k 0 = true ∧ d.rb .hostWinStat k 11 = !s.dev.rb .hostWinStat k 11 ∧ Keeps [.hostWinStat, .hostWinAct, .hostWinStg] s.dev d ∧
        ∀ e < 256, d.reg .hostWinAct (256 * k + e) = s.dev.reg .hostWinStg (256 * k + e) ∧ d.reg .hostWinStg (256 * k + e) = s.dev.reg .hostWinAct (256 * k + e)))) ∧
    (s.dev.live = true → s.dev.rb .hostWinStat k 0 = true → Answers (.winCopyDone h f) s (fun d => d.rb .hostWinStat k 0 = false ∧
      (∀ e < 256, d.reg .hostWinStg (256 * k + e) = s.dev.reg .hostWinAct (256 * k + e)) ∧ Keeps [.hostWinStat, .hostWinStg] s.dev d)) ∧
    (∀ (r : Inbound) (w : Word) (z a : Nat), r.h = h → r.f = f → s.dev.fnExists h.val f.val = true → s.dev.linkUp h.val = true → s.dev.fw.serving = true → s.dev.d3 h.val f.val = false →
      (s.dev.fn h.val f.val).mse = true → (r.bar = 0 ∧ z = 16 ∨ r.bar = 2 ∧ z = (s.dev.fn h.val f.val).bar2Log) → (r.write = true → r.len = r.data.length) →
      r.off + r.len ≤ 128 * 2 ^ z → r.off % 2 ^ z + r.len ≤ 2 ^ z → w = s.dev.reg .hostWinAct (256 * k + (if r.bar = 0 then 0 else 128) + r.off / 2 ^ z) →
      a = wf w 16 32 * 65536 + r.off % 2 ^ z →
      (wbit w 0 = false → Answers (.inboundRequest r) s (fun d => d.mem = s.dev.mem ∧ (d.fn h.val f.val).aer = .unsupported :: (s.dev.fn h.val f.val).aer ∧
        (r.write = false → d.outs = .unsupported h.val f.val :: s.dev.outs) ∧ Keeps [.hostPortStat] s.dev d)) ∧
      (wbit w 0 = true → wbit w (if r.write then 2 else 1) = false → Answers (.inboundRequest r) s (fun d => d.mem = s.dev.mem ∧
        RaisesSome 1154 1 (if f.val = 0 then none else some (f.val - 1)) s.dev d ∧ (d.fn h.val f.val).aer = .completerAbort :: (s.dev.fn h.val f.val).aer ∧
        (r.write = false → d.outs = .completerAbort h.val f.val :: s.dev.outs) ∧ Keeps [.hostPortStat] s.dev d)) ∧
      (wbit w 0 = true → (∀ isl off, s.dev.region a r.len ≠ some (.regs isl off)) → s.dev.checkMem (if f.val = 0 then .manager else .part (f.val - 1)) a r.len = .ok →
        (r.write = false → r.ecc = false → wbit w 1 = true → Answers (.inboundRequest r) s (fun d => Keeps [.hostPortStat] s.dev d ∧
          d.outs = .completion h.val f.val (s.dev.read a r.len) :: s.dev.outs)) ∧
        (r.write = true → r.poisoned = false → wbit w 2 = true → (f.val = 0 → h.val = s.dev.mgmtPort) → (∀ p < 8, s.dev.inDuplex p = false) → Answers (.inboundRequest r) s (fun d =>
          d.mem = (s.dev.write a r.data).mem ∧ d.outs = s.dev.outs ∧ d.thr = s.dev.thr ∧ ∀ q i, q ≠ Reg.hostPortStat → d.reg q i = s.dev.reg q i)))) ∧
    (∀ off : BitVec 12, s.dev.fnExists h.val f.val = true → s.dev.linkUp h.val = true →
      (s.dev.fw.serving = false → ∀ w, Answers (.configRequest h f off w) s (fun d => d.outs = .retryStatus h.val f.val :: s.dev.outs ∧ Keeps [] s.dev d)) ∧
      (s.dev.fw.serving = true → Answers (.configRequest h f off none) s (fun d => ∃ v, d.outs = .cfgValue h.val f.val (off.toNat / 4 * 4) v :: s.dev.outs ∧ Keeps [] s.dev d ∧
        (off.toNat / 4 = 0 → v.toNat / 65536 = (if f.val = 0 then 0x8640 else 0x8641)) ∧ (off.toNat / 4 = 2 → v.toNat / 256 = (if f.val = 0 then 0x120000 else 0x028000))))) ∧
    (∀ tag r rep, tabFind tag s.dev.host.reqs = some r → rep ≠ .timeout → r.reply = none → r.quarantined = false → s.dev.safe = false →
      (s.dev.reqWanted r = true → Answers (.hostCompletionRx tag rep) s (fun d => tabFind tag d.host.reqs = some { r with reply := some rep } ∧ Keeps [.hostFnStat, .hostLinkStat] s.dev d)) ∧
      (s.dev.reqWanted r = false → Answers (.hostCompletionRx tag rep) s (fun d => tabFind tag d.host.reqs = none ∧ Keeps [.hostFnStat, .hostLinkStat] s.dev d))) ∧
    (∀ tag r, tabFind tag s.dev.host.reqs = some r → r.reply = none → r.quarantined = false → r.tick + r.limit ≤ s.dev.time.tick → s.dev.safe = false →
      (r.op = .discarded → Answers (.hostCplTimeout tag) s (fun d => tabFind tag d.host.reqs = none ∧ (d.fn r.h r.f).aer = .completionTimeout :: (s.dev.fn r.h r.f).aer ∧
        RaisesSome 1153 1 (if r.f = 0 then none else some (r.f - 1)) s.dev d ∧ Counts [evHost r.h 6] s.dev d ∧ Keeps [.hostFnStat, .hostLinkStat] s.dev d)) ∧
      (∀ ch off len, r.op = .xferRead ch off len → Answers (.hostCplTimeout tag) s (fun d => ∃ d1 : Dev, d = d1.failXfer ch 7 ∧ tabFind tag d1.host.reqs = none ∧
        RaisesSome 1153 1 (if r.f = 0 then none else some (r.f - 1)) s.dev d1 ∧ Keeps [.hostFnStat, .hostLinkStat] s.dev d1)))

namespace Sys2Proof.Claims
/-- Of a register, only the copy with one index may have changed. -/
def OnlyAt (r : Reg) (i : Nat) (d d' : Dev) : Prop := ∀ j, j ≠ i → d'.reg r j = d.reg r j
/-- A mailbox access is refused with Completer Abort at the function that made it; the mailbox, and every register but those of the function's error reporting, stay (R303, R348, R351). -/
def Refused (who : Who) (d d' : Dev) : Prop :=
  Keeps [] d d' ∧ d'.ptn = d.ptn ∧ ∀ h f, who = .fn h f → (d'.fn h.val f.val).aer = .completerAbort :: (d.fn h.val f.val).aer
/-- Whether a doorbell bit is one of the bits of the endpoint's side: 0 to 29 the receiver's, 30 and 31 the sender's. -/
def side (snd rcv : Bool) (b : Nat) : Bool := if b < 30 then rcv else snd
end Sys2Proof.Claims

/-- R348 to R352, R354, R357: posting on an empty mailbox makes the staged values its message, posting on a full one is refused, and nothing else of the device changes; the receiver's read returns and latches the message, clears full and rings bit 30; a ring sets pending bits, and sends the route of an unmasked one; each side clears the pending bits, and writes the mask bits, of its own side only; an access by anyone else, or to an unconfigured mailbox, is denied and raises MBX_DENIED; one by a sender whose receiver is down is refused. Said for mailboxes without a face. -/
def Obligations.MailboxesCarryTheirMessages : Prop :=
  ∀ (who : Who) (m : Fin 8192) (v : W32) (s : State) (snd rcv down : Bool), s.dev.powered = true → s.dev.faceAddr m.val = none →
    snd = (s.dev.mbxValid m.val && s.dev.isEnd who (s.dev.sndEnd m.val)) → rcv = (s.dev.mbxValid m.val && s.dev.isEnd who (s.dev.rcvEnd m.val)) → down = s.dev.rxDown m.val →
    (snd = true → down = false →
      (s.dev.rb .mbxStat m.val 0 = false → Answers (.mbxSend who m) s (fun d => d.rb .mbxStat m.val 0 = true ∧ d.rb .mbxStat m.val 1 = false ∧ d.rb .mbxStat m.val 5 = false ∧
        (d.mbx m.val).ptr.toNat = s.dev.rf .mbxTxPtr0 m.val 0 32 + s.dev.rf .mbxTxPtr1 m.val 0 32 * 2 ^ 32 ∧ (d.mbx m.val).len.toNat = s.dev.rf .mbxTxLen m.val 0 32 ∧
        Keeps [.mbxStat] s.dev d ∧ Claims.OnlyAt .mbxStat m.val s.dev d ∧ Counts [11] s.dev d)) ∧
      (s.dev.rb .mbxStat m.val 0 = true → Answers (.mbxSend who m) s (fun d => d.rb .mbxStat m.val 3 = true ∧ d.rb .mbxStat m.val 0 = true ∧ d.ptn = s.dev.ptn ∧
        Keeps [.mbxStat] s.dev d ∧ Claims.OnlyAt .mbxStat m.val s.dev d ∧ Counts [12] s.dev d)) ∧
      ((∀ b < 30, v.getLsbD b = true → s.dev.rb .mbxDbPend m.val b = true ∨ s.dev.rb .mbxDbMask m.val b = true) → m.val ≠ 0 ∨ v.getLsbD 0 = false →
        Answers (.mbxDbRing who m v) s (fun d => (∀ b < 32, d.rb .mbxDbPend m.val b = (s.dev.rb .mbxDbPend m.val b || (decide (b < 30) && v.getLsbD b))) ∧
          Keeps [.mbxDbPend] s.dev d ∧ Claims.OnlyAt .mbxDbPend m.val s.dev d)) ∧
      (∀ b < 30, v = 1#32 <<< b → s.dev.rb .mbxDbPend m.val b = false → s.dev.rb .mbxDbMask m.val b = false → m.val ≠ 0 ∨ b ≠ 0 →
        Answers (.mbxDbRing who m v) s (fun d => ∃ d1 : Dev, d1.rb .mbxDbPend m.val b = true ∧ Keeps [.mbxDbPend] s.dev d1 ∧
          (s.dev.rf .mbxRoute (32 * m.val + b) 0 2 = 0 → d = d1) ∧
          (s.dev.rf .mbxRoute (32 * m.val + b) 0 2 = 1 →
            d = d1.route (s.dev.mbx m.val).part false (s.dev.rf .mbxRoute (32 * m.val + b) 2 11) (s.dev.rf .mbxRoute (32 * m.val + b) 13 5)) ∧
          (∀ h f, s.dev.rf .mbxRoute (32 * m.val + b) 0 2 = 3 → s.dev.endFn (s.dev.rcvEnd m.val) = some (h, f) →
            d = d1.interrupt h f (s.dev.rf .mbxRoute (32 * m.val + b) 2 11)))) ∧
      Answers (.mbxStatWrite who m v) s (fun d => d.rb .mbxStat m.val 2 = (s.dev.rb .mbxStat m.val 2 && !v.getLsbD 2) ∧
        d.rb .mbxStat m.val 3 = (s.dev.rb .mbxStat m.val 3 && !v.getLsbD 3) ∧ (∀ b, b ≠ 2 → b ≠ 3 → d.rb .mbxStat m.val b = s.dev.rb .mbxStat m.val b) ∧
        Keeps [.mbxStat] s.dev d ∧ Claims.OnlyAt .mbxStat m.val s.dev d)) ∧
    (rcv = true → (m.val ≠ 1 ∨ s.dev.fw.posting = none) →
      (s.dev.rb .mbxStat m.val 0 = true → s.dev.rb .mbxDbPend m.val 30 = true ∨ s.dev.rb .mbxDbMask m.val 30 = true → Answers (.mbxRxPtr0Read who m) s (fun d =>
        d.outs = .readValue 0 (0x3000018 + 64 * m.val) (s.dev.mbx m.val).ptr :: s.dev.outs ∧ d.rf .mbxRxPtr0 m.val 0 32 = (s.dev.mbx m.val).ptr.toNat % 2 ^ 32 ∧
        d.rf .mbxRxPtr1 m.val 0 32 = (s.dev.mbx m.val).ptr.toNat / 2 ^ 32 ∧ d.rf .mbxRxLen m.val 0 32 = (s.dev.mbx m.val).len.toNat ∧
        d.rb .mbxStat m.val 0 = false ∧ d.rb .mbxStat m.val 5 = true ∧ d.rb .mbxDbPend m.val 30 = true ∧
        Keeps [.mbxRxPtr0, .mbxRxPtr1, .mbxRxLen, .mbxStat, .mbxDbPend] s.dev d)) ∧
      (s.dev.rb .mbxStat m.val 0 = false → Answers (.mbxRxPtr0Read who m) s (fun d => d.outs = .readValue 0 (0x3000018 + 64 * m.val) 0 :: s.dev.outs ∧
        d.reg .mbxRxPtr0 m.val = 0 ∧ d.reg .mbxRxPtr1 m.val = 0 ∧ d.reg .mbxRxLen m.val = 0 ∧ Keeps [.mbxRxPtr0, .mbxRxPtr1, .mbxRxLen] s.dev d))) ∧
    ((snd || rcv) = true → (rcv = true ∨ down = false) →
      Answers (.mbxDbPend who m v) s (fun d => (∀ b < 32, d.rb .mbxDbPend m.val b = (s.dev.rb .mbxDbPend m.val b && !(Claims.side snd rcv b && v.getLsbD b))) ∧
        Keeps [.mbxDbPend] s.dev d ∧ Claims.OnlyAt .mbxDbPend m.val s.dev d) ∧
      ((∀ b < 32, s.dev.rb .mbxDbPend m.val b = false) → Answers (.mbxDbMask who m v) s (fun d =>
        (∀ b < 32, d.rb .mbxDbMask m.val b = if Claims.side snd rcv b then v.getLsbD b else s.dev.rb .mbxDbMask m.val b) ∧
        Keeps [.mbxDbMask] s.dev d ∧ Claims.OnlyAt .mbxDbMask m.val s.dev d))) ∧
    (∀ c, (snd = false ∧ (c = Instr.mbxSend who m ∨ c = .mbxDbRing who m v ∨ c = .mbxStatWrite who m v)) ∨ (rcv = false ∧ c = .mbxRxPtr0Read who m) ∨
        ((snd || rcv) = false ∧ (c = .mbxDbPend who m v ∨ c = .mbxDbMask who m v)) →
      Answers c s (fun d => Claims.Refused who s.dev d ∧ RaisesSome 1280 0 (match who with | .fn _ f => if f.val = 0 then none else some (f.val - 1) | _ => none) s.dev d)) ∧
    (snd = true → down = true → ∀ c, c = Instr.mbxSend who m ∨ c = .mbxDbRing who m v ∨ c = .mbxStatWrite who m v ∨ (rcv = false ∧ (c = .mbxDbPend who m v ∨ c = .mbxDbMask who m v)) →
      Answers c s (fun d => Claims.Refused who s.dev d ∧ d.flt = s.dev.flt))

/-- R356: a program's store to the face of its mailbox stages the pointer or the length, posts them and has the device write 0 when done, reads the message by leaving bit 63 of rx_state clear, rings and clears doorbell bits and writes their masks; a word of the other side, and one that the face does not list, is ordinary memory. -/
def Obligations.MailboxFacesActForPrograms : Prop :=
  ∀ (m : Fin 8192) (v : Word) (s : State) (a : Nat) (snd rcv : Bool), s.dev.live = true → s.dev.faceAddr m.val = some a → s.dev.inDuplex (s.dev.mbx m.val).part = false →
    snd = decide ((s.dev.sndEnd m.val).kind = 4) → rcv = decide ((s.dev.rcvEnd m.val).kind = 4) →
    (∀ off, (off = 0 ∨ off = 8) → Answers (.faceStore m off v) s (fun d => d.mem = (s.dev.write (a + off) (leBytes 8 v.toNat)).mem ∧ d.thr = s.dev.thr ∧ d.ptn = s.dev.ptn ∧
      (∀ r k, r ≠ Reg.mbxTxPtr0 → r ≠ .mbxTxPtr1 → r ≠ .mbxTxLen → d.reg r k = s.dev.reg r k) ∧
      (snd = true → off = 0 → d.rf .mbxTxPtr0 m.val 0 32 = v.toNat % 2 ^ 32 ∧ d.rf .mbxTxPtr1 m.val 0 32 = v.toNat / 2 ^ 32) ∧
      (snd = true → off = 8 → d.rf .mbxTxLen m.val 0 32 = v.toNat % 2 ^ 32) ∧ (snd = false → d.regs = s.dev.regs))) ∧
    (snd = true → v ≠ 0 → s.dev.rxDown m.val = false → s.dev.rb .mbxStat m.val 0 = false → Answers (.faceStore m 0x10 v) s (fun d => d.rb .mbxStat m.val 0 = true ∧
      (d.mbx m.val).ptr.toNat = s.dev.rf .mbxTxPtr0 m.val 0 32 + s.dev.rf .mbxTxPtr1 m.val 0 32 * 2 ^ 32 ∧ (d.mbx m.val).len.toNat = s.dev.rf .mbxTxLen m.val 0 32 ∧
      d.read (a + 0x10) 8 = leBytes 8 0 ∧ (rcv = true → d.read (a + 0x18) 8 = leBytes 8 (d.mbx m.val).ptr.toNat ∧
        d.read (a + 0x20) 8 = leBytes 8 ((d.mbx m.val).len.toNat + 2 ^ 63)) ∧ (∀ x, x < a ∨ a + 64 ≤ x → d.byte x = s.dev.byte x))) ∧
    (rcv = true → v.toNat < 2 ^ 63 → s.dev.rb .mbxStat m.val 0 = true → s.dev.rb .mbxDbPend m.val 30 = true ∨ s.dev.rb .mbxDbMask m.val 30 = true →
      Answers (.faceStore m 0x20 v) s (fun d => d.rb .mbxStat m.val 0 = false ∧ d.rb .mbxStat m.val 5 = true ∧ d.rb .mbxDbPend m.val 30 = true ∧
        (∀ x, x < a ∨ a + 64 ≤ x → d.byte x = s.dev.byte x) ∧ d.thr = s.dev.thr)) ∧
    (snd = true → s.dev.rxDown m.val = false → (∀ b < 30, v.getLsbD b = true → s.dev.rb .mbxDbPend m.val b = true ∨ s.dev.rb .mbxDbMask m.val b = true) →
      Answers (.faceStore m 0x28 v) s (fun d => (∀ b < 32, d.rb .mbxDbPend m.val b = (s.dev.rb .mbxDbPend m.val b || (decide (b < 30) && v.getLsbD b))) ∧
        d.read (a + 0x28) 8 = leBytes 8 0 ∧ Claims.OnlyAt .mbxDbPend m.val s.dev d ∧ d.thr = s.dev.thr)) ∧
    (Answers (.faceStore m 0x30 v) s (fun d => (∀ b < 32, d.rb .mbxDbPend m.val b = (s.dev.rb .mbxDbPend m.val b && !(Claims.side snd rcv b && v.getLsbD b))) ∧
      (∀ r k, r ≠ Reg.mbxDbPend → d.reg r k = s.dev.reg r k) ∧ d.thr = s.dev.thr)) ∧
    ((∀ b < 32, s.dev.rb .mbxDbPend m.val b = false) → Answers (.faceStore m 0x38 v) s (fun d =>
      (∀ b < 32, d.rb .mbxDbMask m.val b = if Claims.side snd rcv b then v.getLsbD b else s.dev.rb .mbxDbMask m.val b) ∧
      (∀ r k, r ≠ Reg.mbxDbMask → d.reg r k = s.dev.reg r k) ∧ d.thr = s.dev.thr))

/-- R326, R331, R332, R338, R339, R341, R377: a slice's reset ends once its last tag has retired, with its rings off and its duration kept; a freezing slice with nothing in flight is FROZEN, and one that has not frozen within its bound answers TIMEOUT and stays FREEZING; a partition's reset ends, with the partition ACTIVE, once none of its slices is being reset; and the entry threads of a partition start at its start tick. -/
def Obligations.ResetsFreezesAndStartsEnd : Prop :=
  ∀ (s : State), s.dev.live = true →
    (∀ sl : Fin 4096,
      (s.dev.sliceState sl.val ≠ 3 ∨ s.dev.sliceTags sl.val = true → Answers (.sliceResetEnd sl) s (fun d => d = s.dev)) ∧
      (s.dev.sliceState sl.val = 3 → s.dev.sliceTags sl.val = false → (s.dev.slc sl.val).destroy = false → (s.dev.slc sl.val).waiting = none → s.dev.fw.running = none →
        Answers (.sliceResetEnd sl) s (fun d => d.sliceState sl.val = 1 ∧ (d.slc sl.val).grant = (s.dev.slc sl.val).grant ∧
          (d.reg .slcRstTime sl.val).toNat = min (s.dev.time.tick - (s.dev.slc sl.val).began) (2 ^ 32 - 1) ∧ (∀ n ∈ s.dev.sqsOf sl.val, d.rb .ringSqCfg n 0 = false) ∧
          (∀ n ∈ s.dev.cqsOf sl.val, d.rb .ringCqCfg n 0 = false) ∧ d.reg .ringSliceStat sl.val = 0 ∧ d.mem = s.dev.mem ∧ d.thr = s.dev.thr)) ∧
      (s.dev.sliceState sl.val = 4 → s.dev.sliceFlight sl.val = 0 → s.dev.fw.running = none → Answers (.freezeComplete sl) s (fun d =>
        d.sliceState sl.val = 5 ∧ d.reg .slcFrzStat sl.val = 1 ∧ Keeps [.slcState, .slcFrzStat] s.dev d)) ∧
      (s.dev.sliceState sl.val ≠ 4 ∨ s.dev.sliceFlight sl.val ≠ 0 → Answers (.freezeComplete sl) s (fun d => d = s.dev)) ∧
      (∀ h, s.dev.fw.running = some (0x33, h) → h.arg0.toNat = sl.val → s.dev.fw.owned = none → s.dev.fw.forward = none →
        (s.dev.slc sl.val).began + ctvTicks (s.dev.fn (s.dev.slicePort sl.val) (s.dev.sliceFn sl.val)).ctv + 250000 ≤ s.dev.time.tick →
        Answers (.freezeTimeout sl) s (fun d => ∃ d1 : Dev, d = d1.fwRespond 0x33 h { status := 7, r0 := BitVec.ofNat 64 (s.dev.sliceFlight sl.val) } false ∧
          Keeps [.slcFrzStat] s.dev d1 ∧ d1.fw = s.dev.fw))) ∧
    (∀ (p : Fin 8) (j : PartJob), (s.dev.part p.val).job = some j →
      (∀ n ∈ s.dev.slicesOf p.val, s.dev.sliceState n = 3 → Answers (.partResetEnd p) s (fun d => d = s.dev)) ∧
      ((∀ n ∈ s.dev.slicesOf p.val, s.dev.sliceState n ≠ 3) → j.destroy = false → s.dev.fw.running = none → (∀ m ∈ s.dev.mbxList, s.dev.faceAddr m = none) →
        Answers (.partResetEnd p) s (fun d => d.partState p.val = 1 ∧ (d.part p.val).job = none ∧ (d.part p.val).grant = (s.dev.part p.val).grant ∧
          (d.reg .ptnRstTime p.val).toNat = min (s.dev.time.tick - j.began) (2 ^ 32 - 1) ∧ d.flt.recovering = false ∧ Keeps [.ptnRstTime, .ptnState, .fltStat] s.dev d))) ∧
    (∀ (p : Fin 8) (t : Nat), (s.dev.part p.val).startAt = some t →
      (s.dev.ns < t → Answers (.progStartRelease p) s (fun d => d = s.dev)) ∧
      (∀ g, t ≤ s.dev.ns → s.dev.partState p.val = 1 → (s.dev.part p.val).prog = some g → s.dev.inDuplex p.val = false → g.entries.Pairwise (fun x y => x.1 ≠ y.1) →
        Answers (.progStartRelease p) s (fun d => (d.part p.val).startAt = none ∧
          (∀ e ∈ g.entries, d.thread e.1 = { st := .running, pc := e.2, nextId := (s.dev.thread e.1).nextId, assigned := (s.dev.thread e.1).assigned }) ∧
          (∀ u, (∀ e ∈ g.entries, e.1 ≠ u) → d.thread u = s.dev.thread u) ∧ d.regs = s.dev.regs ∧ d.mem = s.dev.mem)))

namespace Sys2Proof.Claims
/-- The commands of Wenot: opcode, whether the command takes no payload, header (R368). -/
def wenotRow : Instr → Option (Nat × Bool × CmdHdr)
  | .devIdentify h => some (0x01, true, h)
  | .devStatus h => some (0x02, true, h)
  | .cfgReport h => some (0x10, true, h)
  | .cfgStage h => some (0x11, false, h)
  | .cfgCommit h => some (0x12, true, h)
  | .partCreate h => some (0x20, false, h)
  | .partDestroy h => some (0x21, true, h)
  | .partReset h => some (0x22, true, h)
  | .sliceCreate h => some (0x30, false, h)
  | .sliceDestroy h => some (0x31, true, h)
  | .sliceReset h => some (0x32, true, h)
  | .sliceFreeze h => some (0x33, true, h)
  | .sliceSave h => some (0x34, true, h)
  | .sliceRestore h _ => some (0x35, false, h)
  | .sliceThaw h => some (0x36, true, h)
  | .progLoad h => some (0x40, false, h)
  | .progStart h => some (0x41, false, h)
  | .progStop h => some (0x42, true, h)
  | .keyImport h => some (0x50, false, h)
  | .keyGenerate h => some (0x51, false, h)
  | .keyRetire h => some (0x52, true, h)
  | .keyQuery h => some (0x53, false, h)
  | .timeSet h => some (0x60, true, h)
  | .timeStatus h => some (0x61, false, h)
  | .leapTable h => some (0x62, false, h)
  | .gateInstall h => some (0x70, false, h)
  | .snapArm h => some (0x80, true, h)
  | .snapRead h => some (0x81, true, h)
  | .faultRead h => some (0x90, true, h)
  | .faultAck h => some (0x91, true, h)
  | .faultInject h => some (0x92, true, h)
  | .duplexConfig h => some (0xA0, false, h)
  | .duplexSwitch h => some (0xA1, true, h)
  | .lifeRead h => some (0xB0, true, h)
  | .smemUpdate h => some (0xC0, false, h)
  | _ => none
/-- Firmware serves and has taken a message of the manager from mailbox 0 (R361). -/
def Taken (d : Dev) (ptr : Word) : Prop :=
  d.live = true ∧ d.fwServes = true ∧ (∃ n, d.fw.taken = some (ptr, n)) ∧ d.fw.guest = 0 ∧ d.fw.mute = false
/-- Mailbox 1 still holds an unread message, so firmware waits with its post (R362). -/
def Busy1 (d : Dev) : Prop := d.rxDown 1 = false ∧ d.rb .mbxStat 1 0 = true
/-- The output of a response: its 32 bytes to host memory, and the answer as the device's observer sees it (R361, R362). -/
def responseOuts (d : Dev) (opcode : Nat) (h : CmdHdr) (a : FwAns) : List OutEv :=
  let fl := b2n d.viewOpen + 2 * b2n a.late
  [.command opcode a.status h.seq a.r0 a.r1 (BitVec.ofNat 8 fl), .hostWrite d.mgmtPort 0 0 h.resp.toNat (fwResponse opcode a fl h.seq (timeWord d.ns))]
end Sys2Proof.Claims

namespace Sys2Proof.Claims
/-- Firmware has taken a command whose header is well formed, whose payload is `p`, and which names no partition that is paired with another device; the command acts on `e` (R361, R367, R420). -/
def Wenot (opcode : Nat) (np : Bool) (h : CmdHdr) (p : List Byte) (d e : Dev) : Prop :=
  (∃ ptr, Taken d ptr) ∧ d.fw.running = none ∧ h.readOk = true ∧ headerBad np h = false ∧ argBad opcode h = false ∧ p = slice h.payload 0 h.payloadLen.toNat ∧
  d.fwOwner opcode p h = none ∧ e = { d with fw := { d.fw with taken := none, owned := none } }
/-- The command answers `a`, which fits its output buffer, after an effect that leaves a device with the property. -/
def Gives (c : Instr) (opcode : Nat) (h : CmdHdr) (s : State) (a : FwAns) (p : Dev → Prop) : Prop :=
  a.out.length ≤ h.outLen.toNat → Answers c s (fun d => ∃ d1 : Dev, d = d1.fwEnd opcode h a ∧ p d1)
/-- The command has begun: it answers when a later event ends it. -/
def Begins (c : Instr) (opcode : Nat) (h : CmdHdr) (s : State) (p : Dev → Prop) : Prop :=
  Answers c s (fun d => d.fw.running = some (opcode, h) ∧ ∃ d1 : Dev, d = { d1 with fw := { d1.fw with running := some (opcode, h) } } ∧ p d1)
end Sys2Proof.Claims

/-- R323 to R326, R332 to R345, R372, R373: a partition grant that passes its checks is taken, one with DDR once that is zeroed; a partition's reset and destruction begin with the state RESETTING or DESTROYING, and so does a slice's, while a slice being reset makes a destruction or a further reset wait; a slice grant that passes makes an ACTIVE slice; a freeze begins, a thaw makes the slice ACTIVE, a save of a FROZEN slice only reads, and a restore makes a RESTORED slice from grant and save. What each command does beyond the facts stated is named as the model's operation. -/
def Obligations.PartitionAndSliceCommandsAct : Prop :=
  ∀ (h : CmdHdr) (p : List Byte) (s : State) (e : Dev),
    (∀ n g, Claims.Wenot 0x20 false h p s.dev e → e.grantCheck p = .ok (n, g) →
      (e.ddrWaits g = true → Claims.Begins (.partCreate h) 0x20 h s (fun d => d = e)) ∧
      (e.ddrWaits g = false → Claims.Gives (.partCreate h) 0x20 h s { r0 := BitVec.ofNat 64 n } (fun d => d = e.takeGrant n g ∧ d.partState n = 1 ∧ (d.part n).grant = some g ∧
        ∀ c < 64, g.cores.getLsbD c = true → d.partOfCore c = some n))) ∧
    (∀ n, n = h.arg0.toNat → e.partState n = 1 ∨ e.partState n = 2 →
      (Claims.Wenot 0x21 true h p s.dev e → Claims.Begins (.partDestroy h) 0x21 h s (fun d => d = e.partResetBegin n true ∧ d.partState n = 4)) ∧
      (Claims.Wenot 0x22 true h p s.dev e → Claims.Begins (.partReset h) 0x22 h s (fun d => d = e.partResetBegin n false ∧ d.partState n = 3))) ∧
    (∀ g n, Claims.Wenot 0x30 false h p s.dev e → e.sliceCheck p = .ok g → n = e.freeSlice → (∃ k < 4096, (e.slc k).grant = none) →
      Claims.Gives (.sliceCreate h) 0x30 h s { r0 := BitVec.ofNat 64 n } (fun d => d = e.sliceMake n g 1 ∧ d.sliceState n = 1 ∧ (d.slc n).grant = some g)) ∧
    (∀ n, n = h.arg0.toNat →
      (Claims.Wenot 0x31 true h p s.dev e → 1 ≤ e.sliceState n → e.sliceState n ≤ 6 →
        Claims.Begins (.sliceDestroy h) 0x31 h s (fun d => d.sliceState n = 3 ∧
          (e.sliceState n = 3 → d = e.setSlice n { e.slc n with waiting := some 0x31 }) ∧
          (e.sliceState n ≠ 3 → d = (e.setSlice n { e.slc n with destroy := true }).sliceResetBegin n))) ∧
      (Claims.Wenot 0x32 true h p s.dev e → 1 ≤ e.sliceState n → e.sliceState n ≤ 6 → e.partState (e.slicePart n) = 1 →
        Claims.Begins (.sliceReset h) 0x32 h s (fun d => d.sliceState n = 3 ∧
          (e.sliceState n = 3 → d = e.setSlice n { e.slc n with waiting := some 0x32 }) ∧ (e.sliceState n ≠ 3 → d = e.sliceResetBegin n))) ∧
      (Claims.Wenot 0x33 true h p s.dev e → e.sliceState n = 1 ∨ e.sliceState n = 4 → e.partState (e.slicePart n) = 1 →
        Claims.Begins (.sliceFreeze h) 0x33 h s (fun d => d.sliceState n = 4 ∧ (d.slc n).began = e.time.tick ∧
          d.reg .slcFrzStat n = BitVec.ofNat 64 ((if e.sliceFlight n = 0 then 1 else 0) + min (e.sliceFlight n) 65535 * 2 ^ 16) ∧ Keeps [.slcState, .slcFrzStat] e d)) ∧
      (Claims.Wenot 0x36 true h p s.dev e → 4 ≤ e.sliceState n → e.sliceState n ≤ 6 → e.partState (e.slicePart n) = 1 →
        Claims.Gives (.sliceThaw h) 0x36 h s {} (fun d => ∃ d1 : Dev, d1.sliceState n = 1 ∧ Keeps [.slcState] e d1 ∧ d = d1.sliceDrain n)) ∧
      (∀ g, Claims.Wenot 0x34 true h p s.dev e → e.sliceState n = 5 → (e.slc n).grant = some g →
        Claims.Gives (.sliceSave h) 0x34 h s { r0 := BitVec.ofNat 64 (e.sliceSave n g).length, out := e.sliceSave n g } (fun d => d = e))) ∧
    (∀ save g sec n, Claims.Wenot 0x35 false h p s.dev e → e.sliceCheck p = .ok g → parseSave (save.take h.arg1.toNat) = some sec → saveFits g sec = true →
      e.keyRefs g sec = none → n = e.freeSlice → (∃ k < 4096, (e.slc k).grant = none) →
      Claims.Gives (.sliceRestore h save) 0x35 h s { r0 := BitVec.ofNat 64 n } (fun d => d = (e.sliceMake n g 6).sliceLoad n g sec ∧ d.sliceState n = 6 ∧ (d.slc n).grant = some g))

/-- R374 to R381, R205 to R215, R219, R220: an image that passes its checks is loaded; PROG_START names the supervisor, and releases the threads at once, with late_start set, or orders them for the tick of its start time; PROG_STOP leaves the partition without a supervisor and answers a duration within its bound; KEY_IMPORT and KEY_GENERATE fill the slot they name or find, with unwrapped or generated material, and answer its key check value; a slot without operations is EMPTY once retired, another is RETIRING; KEY_QUERY reads slots, and with set_dates re-arms the notice of a date it moves on. -/
def Obligations.ProgramAndKeyCommandsAct : Prop :=
  ∀ (h : CmdHdr) (p : List Byte) (s : State) (e : Dev),
    (∀ n sig, Claims.Wenot 0x40 false h p s.dev e → imgBad p = none → n = leAt p 5 1 → sig = leAt p 20 4 → e.partState n = 1 → e.started n = false →
      ((sig = 0 ∧ e.board.signReq = none) ∨ (sig ≠ 0 ∧ e.sigOk p sig = true)) → e.imgCheck n p = none →
      Claims.Gives (.progLoad h) 0x40 h s {} (fun d => (d.part n).prog = some (e.progOf n p) ∧ d.mem = ((imgSecs p).foldl (fun (d : Dev) o => d.loadSect n p (sectAt p o)) e).mem ∧
        d.regs = e.regs ∧ d.thr = e.thr)) ∧
    (∀ n g, Claims.Wenot 0x41 false h p s.dev e → p.length = 16 → n = leAt p 0 1 → n ≤ 7 → leAt p 1 1 ≤ 3 → leAt p 2 2 = 0 → leAt p 12 4 = 0 → timeWordOk h.arg0 = true →
      leAt p 4 4 ≤ 10000000 → leAt p 8 4 ≤ 1000000 → e.partState n = 1 → (e.part n).prog = some g → e.started n = false → e.superOk n g = true →
      (h.arg0 = 0 ∨ expandTime e.sec h.arg0 ≤ e.ns → Claims.Gives (.progStart h) 0x41 h s { r0 := timeWord e.ns, late := true } (fun d => ∃ d1 : Dev, d = d1.release n ∧
        d1.supervisor n = some g.super ∧ d1.thr = e.thr ∧ d1.mem = e.mem ∧ (d1.reg .coreQuietLimit n).toNat = leAt p 4 4 ∧ (d1.reg .coreClaimLease n).toNat = leAt p 8 4)) ∧
      (h.arg0 ≠ 0 → e.ns < expandTime e.sec h.arg0 → Claims.Gives (.progStart h) 0x41 h s { r0 := timeWord (e.tickAt (expandTime e.sec h.arg0)) } (fun d =>
        (d.part n).startAt = some (e.tickAt (expandTime e.sec h.arg0)) ∧ d.supervisor n = some g.super ∧ d.thr = e.thr ∧ d.mem = e.mem))) ∧
    (∀ n, Claims.Wenot 0x42 true h p s.dev e → n = h.arg0.toNat → e.partState n = 1 → ∃ v, v ≤ 250000 ∧
      Claims.Gives (.progStop h) 0x42 h s { r0 := BitVec.ofNat 64 v } (fun d => d.supervisor n = none ∧ (d.part n).startAt = none ∧
        ∃ d1 : Dev, d1 = (e.coresOf n).foldl (fun d c => d.coreReset c false) e ∧ d.thr = d1.thr ∧ d.mem = d1.mem)) ∧
    (∀ n kek from_ m, Claims.Wenot 0x50 false h p s.dev e → keyFieldsBad p true = false → e.keyChecks p e.board.root.isNone = .ok n → e.keyKek p = .ok (kek, from_) →
      (leAt p 3 1 = 0 ∨ e.boot.warnAt = none) → kwpUnwrap kek (slice p 40 (leAt p 34 2)) = some m → m.length = materialLen (leAt p 4 1) (if leAt p 5 1 = 1 then 32 else 16) →
      Claims.Gives (.keyImport h) 0x50 h s { r0 := BitVec.ofNat 64 n, r1 := (kcvOf (m.take (if leAt p 5 1 = 1 then 32 else 16))).setWidth 64 } (fun d =>
        d.slot n = keyOf p m false e.sec ∧ (leAt p 3 1 = 1 → tabGet d.keys.log {} n = keyOf p m false e.sec) ∧
        (∀ k, k ≠ n → from_ ≠ some k → d.slot k = e.slot k) ∧ Keeps [.keyStat, .keyDateStat] e d)) ∧
    (∀ n m, Claims.Wenot 0x51 false h p s.dev e → keyFieldsBad p false = false → e.rb .keyRngStat 0 0 = true → e.keyChecks p (leAt p 3 1 == 1 && e.board.root.isNone) = .ok n →
      (e.inDuplex (leAt p 2 1) && e.dpxExternal (leAt p 2 1)) = false → (leAt p 3 1 = 0 ∨ e.boot.warnAt = none) →
      m = (List.range (materialLen (leAt p 4 1) (if leAt p 5 1 = 1 then 32 else 16))).map (Config.randomByte e.free) →
      Claims.Gives (.keyGenerate h) 0x51 h s { r0 := BitVec.ofNat 64 n, r1 := (kcvOf (m.take (if leAt p 5 1 = 1 then 32 else 16))).setWidth 64 } (fun d =>
        d.slot n = keyOf p m true e.sec ∧ (∀ k, k ≠ n → d.slot k = e.slot k) ∧ Keeps [.keyStat, .keyDateStat] e d)) ∧
    (∀ n, Claims.Wenot 0x52 true h p s.dev e → n = h.arg0.toNat → (e.slot n).state ≠ 0 →
      (e.slotInUse n = true → Claims.Begins (.keyRetire h) 0x52 h s (fun d => d.slot n = { e.slot n with state := 2 } ∧ (∀ k, k ≠ n → d.slot k = e.slot k) ∧ n ∈ d.keys.retiring)) ∧
      (e.slotInUse n = false → n ∉ e.keys.retiring → Claims.Gives (.keyRetire h) 0x52 h s {} (fun d => d.slot n = {} ∧ (∀ k, k ≠ n → d.slot k = e.slot k) ∧
        ∀ i < 4, n ∉ (e.keyCache i).erase n → n ∉ d.keyCache i))) ∧
    (∀ first count, Claims.Wenot 0x53 false h p s.dev e → first = wf h.arg0 0 16 → count = wf h.arg0 16 10 + 1 → h.arg0.toNat < 2 ^ 26 → h.arg1.toNat < 2 →
      (h.arg1 = 0 → p = [] → first + count ≤ 65536 → Claims.Gives (.keyQuery h) 0x53 h s
        { r0 := BitVec.ofNat 64 count, out := (List.range count).flatMap (fun k => (e.slot (first + k)).record (first + k)) } (fun d => d = e)) ∧
      (∀ x, h.arg1 = 1 → p.length = 16 → count = 1 → leAt p 6 2 = 0 → leAt p 14 2 = 0 → (e.slot first).state ≠ 0 → e.partState (e.slot first).owner = 1 →
        x = { e.slot first with
              expires := leAt p 0 6, verifyDue := leAt p 8 6, expired := (e.slot first).expired && !movedOn (e.slot first).expires (leAt p 0 6),
              dueRaised := (e.slot first).dueRaised && !movedOn (e.slot first).verifyDue (leAt p 8 6) } →
        Claims.Gives (.keyQuery h) 0x53 h s { r0 := 1, out := x.record first } (fun d => d.slot first = x ∧ (∀ k, k ≠ first → d.slot k = e.slot k) ∧
          Keeps [.keyStat, .keyDateStat] e d)))

/-- R369 to R371, R382 to R388, R436, R439, R400, R404, R406, R407, R410, R411: what the remaining commands answer and change: identity, status, the configuration report and staging area; a dry run of a commit that changes no register; device time, the running time values, the leap table, a gate list; arming and reading a snapshot; reading and acknowledging faults and arming an injection; pairing and ordering a switch-over; the live lifetime record; a write of the serial memory. -/
def Obligations.OtherWenotCommandsAct : Prop :=
  ∀ (h : CmdHdr) (p : List Byte) (s : State) (e : Dev),
    (Claims.Wenot 0x01 true h p s.dev e → Claims.Gives (.devIdentify h) 0x01 h s { out := e.identity } (fun d => d = e)) ∧
    (Claims.Wenot 0x02 true h p s.dev e → Claims.Gives (.devStatus h) 0x02 h s { out := e.statusRecord } (fun d => d = { e with fw := { e.fw with viewUnread := false } }) ∧
      ∀ k < 8, e.statusRecord.getD (2 + k) 0 = BitVec.ofNat 8 (e.partState k)) ∧
    (Claims.Wenot 0x10 true h p s.dev e → h.arg0 = 0 → Claims.Gives (.cfgReport h) 0x10 h s { r0 := BitVec.ofNat 64 (leAt e.fw.report 32 2), out := e.fw.report } (fun d => d = e)) ∧
    (∀ rs all, Claims.Wenot 0x11 false h p s.dev e → recsOf p = some rs → (∀ r ∈ rs, recType r = 0 ∨ recType r = 1 ∨ recType r = 6) →
      all = (if h.arg0 = 1 then [] else e.fw.staged) ++ rs → (all.map List.length).sum ≤ 1048576 →
      Claims.Gives (.cfgStage h) 0x11 h s { r0 := BitVec.ofNat 64 (all.map List.length).sum } (fun d => d.fw.staged = all ∧ Keeps [.cfgStageStat] e d ∧
        (d.reg .cfgStageStat 0).toNat = (all.map List.length).sum)) ∧
    (∀ (x : Dev) n, Claims.Wenot 0x12 true h p s.dev e → (x, n) = ({ e with fw := { e.fw with ents := [], entTotal := 0, reportSeq := e.fw.reportSeq + 1 } } : Dev).confRecords e.fw.staged →
      (h.arg0 = 2 → Claims.Gives (.cfgCommit h) 0x12 h s { status := if n = 0 then 0 else 1, r0 := BitVec.ofNat 64 n } (fun d => d.regs = e.regs ∧ d.mem = e.mem ∧ d.thr = e.thr ∧
        d.board = e.board ∧ d.fw.staged = e.fw.staged)) ∧
      (h.arg0 = 0 → (∀ r ∈ e.fw.staged, recType r ≠ 6) → Answers (.cfgCommit h) s (fun d => ∃ d1 e1 : Dev, Keeps [.cfgRptStat] e d1 ∧ e1.regs = x.regs ∧
        d = (match d1.commitBad e1 with
          | some c => d1.fwEnd 0x12 h { status := c }
          | none => ((d1.commitRegs e1).setStaged []).fwEnd 0x12 h { status := if n = 0 then 0 else 1, r0 := BitVec.ofNat 64 n })))) ∧
    (∀ step : Int, Claims.Wenot 0x60 true h p s.dev e → h.arg1.toNat = 2 ^ 33 ∨ h.arg1.toNat = 2 ^ 33 + 2 ^ 32 → step = h.arg0.toInt →
      (e.stepAllowed step (wbit h.arg1 32) = true → Claims.Gives (.timeSet h) 0x60 h s { r0 := BitVec.ofInt 64 step } (fun d =>
        d.ns = ((e.ns : Int) + step).toNat ∧ d.rb .timeStatus 0 0 = true ∧ d.time.secsKnown = true ∧ d.mem = e.mem)) ∧
      (e.stepFits step = true → e.stepAllowed step (wbit h.arg1 32) = false → Claims.Gives (.timeSet h) 0x60 h s { status := 5, r1 := BitVec.ofInt 64 step } (fun d => d = e))) ∧
    (Claims.Wenot 0x61 false h p s.dev e →
      (h.arg0 = 0 → Claims.Gives (.timeStatus h) 0x61 h s { out := e.timeRecord } (fun d => d = e)) ∧
      (∀ k d1 fs, k < 7 → h.arg0.toNat = 2 ^ k → 4 * k + 4 ≤ p.length → (d1, fs) = e.confWord 0 (timeRunning.getD k .timeHoldLimit).info.base (leAt p (4 * k) 4) →
        Claims.Gives (.timeStatus h) 0x61 h s { status := if fs = [] then 0 else 1, out := d1.timeRecord } (fun d => d = d1))) ∧
    (Claims.Wenot 0x62 false h p s.dev e → leapBad p = false → Claims.Gives (.leapTable h) 0x62 h s { r0 := BitVec.ofNat 64 (leAt p 0 2) } (fun d =>
      d.life.leap = leapEntries p ∧ d.life.leapExpiry = leAt p 8 8 ∧ d.time = e.time ∧ Keeps [.timeStatus, .timeUtcOffset] e d)) ∧
    (∀ x es base, Claims.Wenot 0x70 false h p s.dev e → x = leAt p 0 1 → x < 32 → es = (List.range (leAt p 2 2)).map (fun k => leAt p (32 + 8 * k) 8) →
      p.length = 32 + 8 * leAt p 2 2 → leAt p 1 1 ≤ 1 → leAt p 12 4 = 0 → leAt p 16 8 < 2 ^ 48 → leAt p 24 4 < 1000000000 → leAt p 28 4 = 0 →
      e.gateBad x es (leAt p 4 4) (leAt p 8 4) = false → base = leAt p 16 8 * 1000000000 + leAt p 24 4 → e.ns + 1000 ≤ base →
      ∃ word, Claims.Gives (.gateInstall h) 0x70 h s { r0 := BitVec.ofNat 64 word } (fun d => d.rb .gateStat x 1 = true ∧ (d.gateOf x).change = some base ∧
        (d.gateOf x).adminCount = es.length ∧ (d.gateOf x).adminCycle = leAt p 4 4 ∧ (∀ k < es.length, (d.reg .gateList ((2 * x + (1 - e.operBank x)) * 1024 + k)).toNat = es.getD k 0) ∧
        d.time = e.time ∧ d.mem = e.mem)) ∧
    (Claims.Wenot 0x80 true h p s.dev e → (h.arg0 = 8 ∨ h.arg0 = 16 ∨ h.arg0 = 24) → h.arg1 = 0 → Claims.Gives (.snapArm h) 0x80 h s {} (fun d =>
      d.reg .snapCfg 0 = h.arg0 ∧ d.reg .snapStat 0 = 0 ∧ d.reg .snapLatch 0 = 0 ∧ d.reg .snapPin 0 = 0 ∧ d.cnt.snapDue = none ∧ d.cnt.snap = e.cnt.snap)) ∧
    (Claims.Wenot 0x81 true h p s.dev e → e.rb .snapStat 0 0 = false → Claims.Gives (.snapRead h) 0x81 h s { status := 6 } (fun d => d = e)) ∧
    (Claims.Wenot 0x81 true h p s.dev e → e.rb .snapStat 0 0 = true → h.arg0 = 0x1FF → ∃ out, Claims.Gives (.snapRead h) 0x81 h s { r0 := e.reg .snapLatch 0, out := out } (fun d =>
      d.regs = e.regs ∧ d.cnt = e.cnt ∧ Keeps [] e d) ∧ leAt out 0 8 = (e.reg .snapLatch 0).toNat ∧ 32 ≤ out.length) ∧
    (Claims.Wenot 0x90 true h p s.dev e → (h.arg0 = 0 → h.arg1 = 0 → Claims.Gives (.faultRead h) 0x90 h s
        { r0 := BitVec.ofNat 64 e.histCount, out := (List.range (4 * e.histCount)).flatMap (fun k => leBytes 8 (e.reg .fltHist k).toNat) } (fun d => d = e)) ∧
      (∀ n, h.arg0 = 1 → n < 2048 → h.arg1.toNat = n → Claims.Gives (.faultRead h) 0x90 h s { r0 := 1, out := e.faultRecord n } (fun d => d = e))) ∧
    (Claims.Wenot 0x91 true h p s.dev e → Claims.Gives (.faultAck h) 0x91 h s {} (fun d => Keeps [.fltCpend] e d ∧
      d.flt.pend = e.flt.pend.filter (fun f => !(wbit h.arg1 0 || f.source == h.arg0.toNat)))) ∧
    (∀ n k, Claims.Wenot 0x92 true h p s.dev e → n = h.arg0.toNat → k = h.arg1.toNat → k ≠ 0 → e.rb .fltCfg 0 4 = true → checkerSource n = true →
      Claims.Gives (.faultInject h) 0x92 h s {} (fun d => d.rf .fltInjStat 0 0 11 = n ∧ d.rb .fltInjStat 0 15 = true ∧ d.rf .fltInjStat 0 16 16 = k ∧
        d.flt.injEnd = some (e.ns + 1000000000) ∧ d.rf .fltStat 0 0 2 = 2 ∧ Keeps [.fltInjStat, .fltStat] e d)) ∧
    (∀ n act g, Claims.Wenot 0xA0 false h p s.dev e → p.length = 16 → n = leAt p 0 1 → n ≤ 7 → act = leAt p 2 1 → 2 ≤ act → act ≤ 5 → leAt p 1 1 ≤ 1 → act / 2 = leAt p 1 1 + 1 →
      leAt p 3 1 = 1 → leAt p 8 8 = 0 → 1000 ≤ leAt p 4 4 → leAt p 4 4 ≤ 10000000 → e.partState n = 1 → (e.part n).grant = some g → e.started n = false → e.rb .dpxStat n 3 = false →
      g.pairs act (peerIsl act) = true → e.rb .coreDbgPart n 0 = false → e.inDuplex n = false → Claims.Gives (.duplexConfig h) 0xA0 h s {} (fun d =>
        d.inDuplex n = true ∧ d.dpxExternal n = false ∧ d.dpxActive n = act ∧ (d.reg .dpxCycle n).toNat = leAt p 4 4 ∧ d.reg .dpxCw n = 1 ∧ d.reg .dpxStat n = 0 ∧
        Keeps [.dpxCfg, .dpxCycle, .dpxStat, .dpxCw, .fltStat] e d)) ∧
    (∀ n, Claims.Wenot 0xA1 true h p s.dev e → n = h.arg0.toNat → h.arg1 = 0 → e.partState n = 1 → e.inDuplex n = true → e.switching n = false → e.rb .dpxStat n 0 = true →
      Claims.Begins (.duplexSwitch h) 0xA1 h s (fun d => (d.duplex n).decided = some e.time.tick ∧ d.switching n = true ∧ d.reg .dpxSwTime n = timeWord e.ns ∧
        Keeps [.dpxStat, .dpxSwTime, .fltStat] e d)) ∧
    (Claims.Wenot 0xB0 true h p s.dev e → h.arg0 = 0 → h.arg1 = 0 → Claims.Gives (.lifeRead h) 0xB0 h s { out := e.lifeRecord 0 (e.reg .lifeSeq 0).toNat } (fun d => d = e)) ∧
    (∀ n off, Claims.Wenot 0xC0 false h p s.dev e → off = leAt p 4 4 → n = leAt p 8 4 → p.length = 16 + n → leAt p 0 1 = 2 → leAt p 1 3 = 0 → leAt p 12 4 = 0 → e.smemOk = true →
      0xF00000 + off + n ≤ e.board.smemSize → e.flashBlank (0xF00000 + off) n = true →
      Claims.Gives (.smemUpdate h) 0xC0 h s { r0 := BitVec.ofNat 64 n } (fun d => d.flashRead (0xF00000 + off) n = p.drop 16 ∧ d.life = e.life ∧ Keeps [] e d))

namespace Sys2Proof.Claims
/-- The oldest report of the collector's queue is one it may take on this tick, no report comes from outside, and no rule but that of R398 acts on it: it is of no thread and of no checker, the phase is RUN, no fault of its class is pending in its scope, snapshots are not armed for faults and the manager has no fault vector (R397, R401, R402). -/
def Plain (d : Dev) (r : Report) (rest : List Report) : Prop :=
  d.flt.queue = r :: rest ∧ (d.flt.takenAt ≠ d.time.tick ∨ r.source ∉ d.flt.taken) ∧ d.safe = false ∧ d.phaseNow = 1 ∧ r.tid = none ∧ checkerSource r.source = false ∧
  d.pendMax (r.source / 128) r.scope = none ∧ d.rb .snapCfg 0 1 = false ∧ d.rb .fltIrq 0 11 = false ∧ r.source ≠ 1411 ∧ r.source < 2048
/-- A report has been collected: it has left the queue, is counted for its source and in all, and has the next collection number (R397, R405, R406). -/
def Collected (r : Report) (rest : List Report) (d d' : Dev) : Prop :=
  d'.flt.queue = rest ∧ d'.flt.seq = (d.flt.seq + 1) % 2 ^ 16 ∧ tabGet d'.flt.last 0 r.source = timeWord (r.time / 65536) ∧
  d'.rf .fltCnt r.source 0 32 = min (2 ^ 32 - 1) (d.rf .fltCnt r.source 0 32 + 1) ∧ d'.counter 7 = d.counter 7 + 1
/-- The commands that one device of an external pair sends to the other, by opcode (R420, R425). -/
def forwardRow (opcode : Nat) (h : CmdHdr) (save : List Byte) : Option Instr :=
  match opcode with
  | 0x20 => some (.partCreate h)
  | 0x21 => some (.partDestroy h)
  | 0x22 => some (.partReset h)
  | 0x30 => some (.sliceCreate h)
  | 0x31 => some (.sliceDestroy h)
  | 0x32 => some (.sliceReset h)
  | 0x33 => some (.sliceFreeze h)
  | 0x34 => some (.sliceSave h)
  | 0x35 => some (.sliceRestore h save)
  | 0x36 => some (.sliceThaw h)
  | 0x40 => some (.progLoad h)
  | 0x41 => some (.progStart h)
  | 0x42 => some (.progStop h)
  | 0x50 => some (.keyImport h)
  | 0x51 => some (.keyGenerate h)
  | 0x52 => some (.keyRetire h)
  | 0x53 => some (.keyQuery h)
  | 0x70 => some (.gateInstall h)
  | 0xA1 => some (.duplexSwitch h)
  | _ => none
end Sys2Proof.Claims

/-- R331, R390 to R392, R397, R398, R400 to R405, R407, R408: the collector takes the first report it may, counts it, and acts on its severity: 0 only records it, 1 and above leave it pending in its scope, 2 contains an ACTIVE partition, 3 enters the safe state with cause and time latched; with nothing to take it does nothing; in the safe state a report is only recorded; a report that has waited more than 1,024 ticks is FLT_WATCHDOG; an injection is cancelled after a second; and firmware's view of a thread that stays wrong for more than a millisecond is reported, logged and corrected. -/
def Obligations.FaultsAreCollectedAndActOnTheirSeverity : Prop :=
  ∀ (s : State), s.dev.powered = true →
    (s.dev.flt.queue = [] → Answers (.faultCollect none) s (fun d => d = s.dev)) ∧
    (∀ r rest, Claims.Plain s.dev r rest →
      (s.dev.sevOf r.source = 0 → alwaysNoticed r.source = false → Answers (.faultCollect none) s (fun d => Claims.Collected r rest s.dev d ∧ d.flt.pend = s.dev.flt.pend ∧
        Keeps [.fltCnt, .fltStat, .fltHist] s.dev d ∧ d.ptn = s.dev.ptn)) ∧
      (r.part = none → s.dev.sevOf r.source = 1 ∨ s.dev.sevOf r.source = 2 → Answers (.faultCollect none) s (fun d => Claims.Collected r rest s.dev d ∧
        d.flt.pend = s.dev.flt.pend ++ [⟨r.source, 8, s.dev.sevOf r.source, false⟩] ∧ d.rb .fltCpend (r.source / 128) 8 = true ∧
        Keeps [.fltCnt, .fltStat, .fltHist, .fltCpend] s.dev d ∧ d.ptn = s.dev.ptn)) ∧
      (∀ p, p < 8 → r.part = some p → s.dev.sevOf r.source = 2 → s.dev.partState p = 1 → s.dev.supervisor p = none → Answers (.faultCollect none) s (fun d =>
        Claims.Collected r rest s.dev d ∧ d.flt.pend = s.dev.flt.pend ++ [⟨r.source, p, 2, false⟩] ∧ d.partState p = 2 ∧
        (∀ t < 576, s.dev.partOf t = some p → ((s.dev.thread t).st = .running ∨ (s.dev.thread t).st = .waiting) → (d.thread t).st = .faulted) ∧
        (∀ t, s.dev.partOf t ≠ some p → d.thread t = s.dev.thread t))) ∧
      (s.dev.sevOf r.source = 3 → Answers (.faultCollect none) s (fun d => d.safe = true ∧ d.live = false ∧ d.rf .fltSafeCause 0 0 11 = r.source ∧ d.rb .fltSafeCause 0 15 = true ∧
        d.rf .fltSafeCause 0 16 2 = 1 ∧ d.reg .fltSafeTime 0 = timeWord s.dev.ns ∧ (∀ p < 8, d.reg .dpxCw p = 0) ∧ (∀ i < 4, d.keyCache i = [])))) ∧
    (∀ r rest, s.dev.flt.queue = r :: rest → s.dev.flt.takenAt ≠ s.dev.time.tick → s.dev.safe = true → Answers (.faultCollect none) s (fun d =>
      Claims.Collected r rest s.dev d ∧ d.flt.pend = s.dev.flt.pend ∧ Keeps [.fltCnt, .fltStat, .fltHist] s.dev d ∧ d.ptn = s.dev.ptn)) ∧
    (s.dev.live = true →
      ((∀ r ∈ s.dev.flt.queue, s.dev.time.tick ≤ r.tick + 1024) → Answers .fltWatchdog s (fun d => d = s.dev)) ∧
      (∀ r ∈ s.dev.flt.queue, r.tick + 1024 < s.dev.time.tick → s.dev.sevOf 2 = 3 → s.dev.rb .snapCfg 0 1 = false → Answers .fltWatchdog s (fun d =>
        d.safe = true ∧ d.rf .fltSafeCause 0 0 11 = 2 ∧ d.rf .fltCnt 2 0 32 = min (2 ^ 32 - 1) (s.dev.rf .fltCnt 2 0 32 + 1)))) ∧
    (∀ t, s.dev.flt.injEnd = some t →
      (t ≤ s.dev.ns → Answers .injectionCancel s (fun d => d.reg .fltInjStat 0 = 0 ∧ d.flt.injEnd = none ∧ Keeps [.fltInjStat, .fltStat] s.dev d)) ∧
      (s.dev.ns < t → Answers .injectionCancel s (fun d => d = s.dev))) ∧
    (∀ (item : Fin 8) (obj : BitVec 16) (v : Nat), s.dev.live = true → s.dev.fwServes = true → s.dev.fw.running = none →
      tabFind (65536 * (item.val + 1) + obj.toNat) s.dev.fw.view = some v →
      ((s.dev.thread obj.toNat).st ≠ .faulted → Answers (.viewSample item obj) s (fun d => tabFind (65536 * (item.val + 1) + obj.toNat) d.fw.view = none ∧ d.regs = s.dev.regs ∧
        d.flt = s.dev.flt ∧ Keeps [] s.dev d)) ∧
      (∀ t, (s.dev.thread obj.toNat).st = .faulted → tabFind (65536 * (item.val + 1) + obj.toNat) s.dev.fw.viewSince = some t →
        (s.dev.time.tick ≤ t + 250000 → Answers (.viewSample item obj) s (fun d => d = s.dev)) ∧
        (t + 250000 < s.dev.time.tick → Answers (.viewSample item obj) s (fun d => tabFind (65536 * (item.val + 1) + obj.toNat) d.fw.view = none ∧ RaisesSome 1282 0 none s.dev d ∧
          d.fw.viewUnread = true ∧ d.fw.viewLog.getLast? = some (item.val + 1, obj.toNat, v, 4, s.dev.sec) ∧ Keeps [] s.dev d))))

/-- R361 to R363, R367, R420: firmware takes the message of mailbox 0, counts and discards an orphan, and answers a malformed one with its pointer and length 0 and CMD_HEADER_ERR, as it does a header that it cannot read; a header with a wrong version, reserved field or argument fails with BAD_FIELD, one for a partition that the other device owns with DENIED, and an output buffer that is too small with NO_RESOURCE, all with no other effect; a response is written to host memory, output first, and then posted, or waits where mailbox 1 still holds a message. R420, R425: a command that the partner forwards is executed here as its opcode says, without the ownership check, and answers on the ferry; the partner's answer ends the forwarded command, with partner_differs, and holds a partner with another status out; a partner that has not answered within 10 ms ends it with TIMEOUT. -/
def Obligations.WenotCommandsAreCheckedForwardedAndAnswered : Prop :=
  (∀ (s : State), s.dev.live = true →
    (∀ h, s.dev.fwFree = true →
      (s.dev.rb .mbxStat 0 0 = false → Answers (.firmwarePoll h) s (fun d => d = s.dev)) ∧
      (s.dev.rb .mbxStat 0 0 = true → s.dev.rb .mbxDbPend 0 30 = true ∨ s.dev.rb .mbxDbMask 0 30 = true → s.dev.faceAddr 0 = none →
        (s.dev.rb .mbxStat 0 1 = false → (s.dev.mbx 0).len = 64 → (s.dev.mbx 0).ptr.toNat % 64 = 0 → h.readOk = true → Answers (.firmwarePoll h) s (fun d =>
          d.fw = { s.dev.fw with taken := some ((s.dev.mbx 0).ptr, 64) } ∧ d.rb .mbxStat 0 0 = false ∧ d.rb .mbxStat 0 5 = true ∧ d.rb .mbxDbPend 0 0 = false ∧
          Keeps [.mbxRxPtr0, .mbxRxPtr1, .mbxRxLen, .mbxStat, .mbxDbPend] s.dev d)) ∧
        (s.dev.rb .mbxStat 0 1 = true → Answers (.firmwarePoll h) s (fun d => d.fw = { s.dev.fw with orphans := min 65535 (s.dev.fw.orphans + 1) } ∧
          d.rb .mbxStat 0 0 = false ∧ Counts [10] s.dev d ∧ Keeps [.mbxRxPtr0, .mbxRxPtr1, .mbxRxLen, .mbxStat, .mbxDbPend] s.dev d)) ∧
        (s.dev.rb .mbxStat 0 1 = false → (s.dev.mbx 0).len ≠ 64 ∨ (s.dev.mbx 0).ptr.toNat % 64 ≠ 0 → Claims.Busy1 s.dev → Answers (.firmwarePoll h) s (fun d =>
          d.fw = { s.dev.fw with posting := some ((s.dev.mbx 0).ptr, 0) } ∧ RaisesSome 1281 0 none s.dev d ∧
          Keeps [.mbxRxPtr0, .mbxRxPtr1, .mbxRxLen, .mbxStat, .mbxDbPend] s.dev d)))) ∧
    (∀ c opcode np h ptr, Claims.wenotRow c = some (opcode, np, h) → Claims.Taken s.dev ptr → Claims.Busy1 s.dev →
      (h.readOk = false → Answers c s (fun d => d.fw = { s.dev.fw with taken := none, posting := some (ptr, 0) } ∧ RaisesSome 1281 0 none s.dev d ∧
        d.outs = s.dev.outs ∧ Keeps [] s.dev d)) ∧
      (∀ st, h.readOk = true → h.backOk = true →
        ((h.version ≠ 1 ∨ h.rsv = true ∨ (np = true ∧ h.payloadLen ≠ 0) ∨ argBad opcode h = true) ∧ st = 4#8 ∨
          (headerBad np h = false ∧ argBad opcode h = false ∧ s.dev.fwOwner opcode (slice h.payload 0 h.payloadLen.toNat) h = some false) ∧ st = 5#8) →
        Answers c s (fun d => d.outs = Claims.responseOuts s.dev opcode h { status := st } ++ s.dev.outs ∧ d.ptn = s.dev.ptn ∧ d.flt = s.dev.flt ∧ Keeps [.hostPortStat] s.dev d ∧
          d.fw = { s.dev.fw with taken := none, running := none, owned := none, forward := none, posting := some (h.resp, 32) }))) ∧
    (∀ h ptr, Claims.Taken s.dev ptr → h.readOk = true → h.backOk = true → headerBad true h = false → argBad 1 h = false → h.out ≠ 0 →
      (h.outLen.toNat < 64 → Claims.Busy1 s.dev → Answers (.devIdentify h) s (fun d =>
        d.outs = Claims.responseOuts s.dev 1 h { status := 3, r1 := 64 } ++ s.dev.outs ∧ Keeps [.hostPortStat] s.dev d)) ∧
      (64 ≤ h.outLen.toNat → s.dev.rxDown 1 = false → s.dev.faceAddr 1 = none → s.dev.rb .mbxStat 1 0 = false → s.dev.rb .mbxDbPend 1 0 = true ∨ s.dev.rb .mbxDbMask 1 0 = true →
        Answers (.devIdentify h) s (fun d => ∃ out : List Byte, out.length = 64 ∧ out.take 7 = [0x4D, 0x38, 0x36, 0x34, 0x2D, 0x48, 0x58] ∧
          d.outs = Claims.responseOuts s.dev 1 h { out := out } ++ .hostWrite s.dev.mgmtPort 0 0 h.out.toNat out :: s.dev.outs ∧
          d.rb .mbxStat 1 0 = true ∧ (d.mbx 1).ptr = h.resp ∧ (d.mbx 1).len = 32 ∧ d.rb .mbxDbPend 1 0 = true ∧
          Keeps [.mbxStat, .mbxDbPend, .hostPortStat] s.dev d)))) ∧
  (∀ (s : State),
    (∀ (opcode : BitVec 16) h save c e, s.dev.forwardReady = true → Claims.forwardRow opcode.toNat { h with readOk := true } save = some c →
      e = { s.dev with fw := { s.dev.fw with taken := some (0, 64), guest := 1 } } →
      exec (.forwardedCommand (.execute opcode h save)) s = exec c { s with dev := e } ∧
      (∀ np hd, Claims.wenotRow c = some (opcode.toNat, np, hd) → headerBad np hd = true → Answers (.forwardedCommand (.execute opcode h save)) s (fun d =>
        d.outs = .ferry opcode.toNat 4 :: s.dev.outs ∧ d.fw.guest = 0 ∧ d.fw.taken = none ∧ d.ptn = s.dev.ptn ∧ Keeps [] s.dev d))) ∧
    (∀ opcode h save, s.dev.forwardReady = false → Answers (.forwardedCommand (.execute opcode h save)) s (fun d => d = s.dev)) ∧
    (∀ w st, s.dev.live = true → s.dev.fw.forward = some w → s.dev.dpx.ferryUp = true →
      (st = w.status → Answers (.forwardedCommand (.answer st)) s (fun d =>
        d = s.dev.fwRespond w.opcode w.hdr { status := w.status, r0 := w.r0, r1 := w.r1, out := w.out, late := w.late } false)) ∧
      (st ≠ w.status → s.dev.inDuplex w.part = true → Answers (.forwardedCommand (.answer st)) s (fun d => ∃ (d1 : Dev) (r1 : Word),
        d = d1.fwRespond w.opcode w.hdr { status := w.status, r0 := w.r0, r1 := r1, out := w.out, late := w.late } true ∧ r1.toNat / 2 ^ 56 = st.toNat ∧
        r1.toNat % 2 ^ 56 = w.r1.toNat % 2 ^ 56 ∧ d1.rb .dpxStat w.part 3 = true ∧ d1.rb .dpxStat w.part 0 = false ∧ Keeps [.dpxStat] s.dev d1))) ∧
    (∀ w, s.dev.live = true → s.dev.fw.forward = some w →
      (s.dev.time.tick < w.since + 2500000 → Answers .forwardTimeout s (fun d => d = s.dev)) ∧
      (w.since + 2500000 ≤ s.dev.time.tick → Answers .forwardTimeout s (fun d =>
        d = s.dev.fwRespond w.opcode w.hdr { status := 7, r0 := w.r0, r1 := w.r1, out := w.out, late := w.late } false))))

/-- R410, R412, R414 to R419, R421 to R423: at a cycle end the cut is fixed and its comparison falls due, or DUPLEX_LAG is raised where the last one has not been made; the comparison decides by the table of R416; a standby that lags, or whose ferry is down, is no longer synchronised; the decision exchanges the roles of a pair three ticks after it, and 64 ticks after it the switch-over is complete, counted and raised; a full copy puts the active's memories on the rejoining island; an external pair's units are released and granted one by one, no grant within two ticks of its release, and a synchronised standby takes over when the partner's lines are released. -/
def Obligations.DuplexPairsCompareAndSwitchOver : Prop :=
  ∀ (p : Fin 8) (s : State) (x : Dpx) (step : Nat), s.dev.live = true → s.dev.inDuplex p.val = true → x = s.dev.duplex p.val → step = max 1 (s.dev.rf .dpxCycle p.val 0 32) →
    (s.dev.ns < x.start + (x.cycle + 1) * step → Answers (.duplexCycleEnd p) s (fun d => d = s.dev)) ∧
    (s.dev.started p.val = true → x.start + (x.cycle + 1) * step ≤ s.dev.ns → s.dev.switching p.val = false → s.dev.rb .dpxStat p.val 0 = true →
      (x.due = none → Answers (.duplexCycleEnd p) s (fun d => (d.duplex p.val).cycle = (s.dev.ns - x.start) / step ∧ (d.duplex p.val).due = some s.dev.time.tick ∧
        (∀ t ∈ s.dev.dpxThreads p.val (s.dev.dpxActive p.val), tabGet (d.duplex p.val).cut 0 t = s.dev.slotCount t) ∧ Keeps [] s.dev d)) ∧
      (x.due ≠ none → s.dev.dpxExternal p.val = false → Answers (.duplexCycleEnd p) s (fun d => d.rb .dpxStat p.val 0 = false ∧ RaisesSome 1412 0 (some p.val) s.dev d ∧
        (s.dev.rb .dpxStat p.val 3 = false → d.rb .dpxStat p.val 1 = true) ∧ Keeps [.dpxStat] s.dev d))) ∧
    (∀ t differ, x.due = some t →
      (t + s.dev.digestWait p.val < s.dev.time.tick → Answers (.duplexCompare p differ) s (fun d => d = s.dev)) ∧
      (s.dev.time.tick ≤ t + s.dev.digestWait p.val →
        (x.chkActive = false → x.chkStandby = false → x.ckpt = none → differ = false → Answers (.duplexCompare p differ) s (fun d => (d.duplex p.val).due = none ∧
          d.flt = s.dev.flt ∧ Keeps [.dpxLag] s.dev d)) ∧
        (x.chkActive = false → x.chkStandby = false → x.lastMm = none → differ = true → Answers (.duplexCompare p differ) s (fun d => d.rb .dpxStat p.val 0 = false ∧
          (d.duplex p.val).resync = true ∧ (d.duplex p.val).lastMm = some x.cycle ∧ RaisesSome 1408 0 (some p.val) s.dev d ∧ Keeps [.dpxLag, .dpxStat, .dpxLastMm] s.dev d)) ∧
        (x.chkActive = true → x.chkStandby = false → Answers (.duplexCompare p differ) s (fun d => d.switching p.val = true ∧ (d.duplex p.val).decided = some s.dev.time.tick ∧
          d.reg .dpxSwTime p.val = timeWord s.dev.ns ∧ Keeps [.dpxLag, .dpxStat, .dpxSwTime, .fltStat] s.dev d)) ∧
        (x.chkActive = false → x.chkStandby = true → Answers (.duplexCompare p differ) s (fun d => d.rb .dpxStat p.val 0 = false ∧ (d.duplex p.val).due = none ∧
          d.dpxActive p.val = s.dev.dpxActive p.val ∧ d.flt = s.dev.flt ∧ Keeps [.dpxLag, .dpxStat] s.dev d)) ∧
        (x.chkActive = true → x.chkStandby = true → Answers (.duplexCompare p differ) s (fun d => d.rb .dpxStat p.val 0 = false ∧ RaisesSome 1410 0 (some p.val) s.dev d ∧
          Keeps [.dpxLag, .dpxStat] s.dev d)))) ∧
    (s.dev.started p.val = true → s.dev.rb .dpxStat p.val 0 = true → s.dev.switching p.val = false → s.dev.dpxExternal p.val = false → s.dev.rb .dpxStat p.val 3 = false →
      Answers (.duplexLag p) s (fun d => d.rb .dpxStat p.val 0 = false ∧ d.rb .dpxStat p.val 1 = true ∧ RaisesSome 1412 0 (some p.val) s.dev d ∧ Keeps [.dpxStat] s.dev d)) ∧
    (∀ t, x.decided = some t → x.ordered = none → x.moved = false →
      (s.dev.time.tick < t + 3 → Answers (.switchOver p) s (fun d => d = s.dev)) ∧
      (t + 3 ≤ s.dev.time.tick → s.dev.dpxExternal p.val = false → 2 ≤ s.dev.dpxActive p.val → s.dev.dpxActive p.val ≤ 5 → Answers (.switchOver p) s (fun d =>
        d.dpxActive p.val = peerIsl (s.dev.dpxActive p.val) ∧ (d.duplex p.val).moved = true ∧ d.rb .dpxStat p.val 0 = false ∧ d.rb .dpxCw p.val 0 = false))) ∧
    (∀ t, x.decided = some t → x.moved = true →
      (s.dev.time.tick < t + 64 → Answers (.duplexSwitched p) s (fun d => d = s.dev)) ∧
      (t + 64 ≤ s.dev.time.tick → x.held = [] → s.dev.fw.running = none → s.dev.dpxExternal p.val = false → Answers (.duplexSwitched p) s (fun d => ∃ d1 : Dev,
        d = (d1.kickAll 0).kickAll 1 ∧ d1.switching p.val = false ∧ (d1.duplex p.val).decided = none ∧ (d1.duplex p.val).moved = false ∧ RaisesSome 1411 0 (some p.val) s.dev d1 ∧
        d1.rf .dpxSwitches p.val 0 32 = min (2 ^ 32 - 1) (s.dev.rf .dpxSwitches p.val 0 32 + 1) ∧
        (∀ r, tabFind (4 * p.val) s.dev.dpx.released = some r → r + 2 ≤ s.dev.time.tick → d1.rb .dpxCw p.val 0 = true) ∧ Keeps [.dpxStat, .dpxSwitches, .dpxCw, .fltStat] s.dev d1))) ∧
    (s.dev.rb .dpxStat p.val 1 = true → s.dev.dpxExternal p.val = false → Answers (.rejoinCopyDone p) s (fun d => (d.duplex p.val).copied = true ∧ d.regs = s.dev.regs ∧
      d.thr = s.dev.thr ∧ d.mem = (s.dev.copyMem p.val (s.dev.takeCkpt p.val).mem).mem)) ∧
    (∀ u : Fin 4, s.dev.dpxExternal p.val = true →
      (s.dev.rb .dpxCw p.val u.val = true → Answers (.causewayRelease p u) s (fun d => d.rb .dpxCw p.val u.val = false ∧ (∀ k, k ≠ u.val → d.rb .dpxCw p.val k = s.dev.rb .dpxCw p.val k) ∧
        d.outs = .causeway u.val false :: s.dev.outs ∧ Keeps [.dpxCw] s.dev d)) ∧
      (∀ r, tabFind (4 * p.val + u.val) s.dev.dpx.released = some r →
        (s.dev.time.tick < r + 2 → Answers (.causewayGrant p u) s (fun d => d = s.dev)) ∧
        (r + 2 ≤ s.dev.time.tick → Answers (.causewayGrant p u) s (fun d => d.rb .dpxCw p.val u.val = true ∧ d.outs = .causeway u.val true :: s.dev.outs ∧
          Counts [17] s.dev d ∧ Keeps [.dpxCw] s.dev d)))) ∧
    (∀ lines : BitVec 4, (∀ q < 8, s.dev.inDuplex q = true → s.dev.dpxExternal q = false) → Answers (.causewayInChange lines) s (fun d => d.dpx.cwIn = lines ∧
      Keeps [] s.dev d ∧ d.outs = s.dev.outs)) ∧
    (s.dev.dpxExternal p.val = true → (∀ q < 8, q ≠ p.val → s.dev.inDuplex q = false) →
      (s.dev.reg .dpxCw p.val = 0 → s.dev.dpx.cwIn ≠ 0 → s.dev.rb .dpxStat p.val 0 = true → s.dev.switching p.val = false → Answers (.causewayInChange 0) s (fun d =>
        d.dpx.cwIn = 0 ∧ (d.duplex p.val).decided = some s.dev.time.tick ∧ d.switching p.val = true ∧ d.reg .dpxSwTime p.val = timeWord s.dev.ns)) ∧
      (s.dev.dpx.ferryUp = true → s.dev.switching p.val = false → Answers .ferryLinkDown s (fun d => d.dpx.ferryUp = false ∧ d.rb .dpxStat p.val 0 = false ∧ RaisesSome 1413 0 none s.dev d ∧
        Keeps [.dpxStat] s.dev d)) ∧
      (s.dev.dpx.ferryUp = false → s.dev.rb .dpxStat p.val 0 = false → s.dev.started p.val = true → s.dev.rb .dpxStat p.val 3 = false → Answers .ferryLinkUp s (fun d =>
        d.dpx.ferryUp = true ∧ d.rb .dpxStat p.val 1 = true ∧ d.flt = s.dev.flt ∧ Keeps [.dpxStat] s.dev d)))

/-- R429, R431 to R434, R448: a manager's 4-byte read of a counter's low word returns it and latches the high word for that requester, and a driver's is refused; a read of a thread's retired counter latches its other four; a window's configuration is written by its owner's driver, firmware or the debug interface only, and keeps valid set only for values that the owner may read; at its instant a mirror writes the time, the values and the next even sequence word to a face inside the grant, and stops with face_err where the face is not; a freed slot goes to a read-ahead or a dump line that waits, else it is unused or tb's. -/
def Obligations.CountersAndWindowsAreRead : Prop :=
  ∀ (s : State), s.dev.powered = true →
    (∀ who (ev : Fin 5120),
      (s.dev.isManager who = true → Answers (.counterLowRead who ev) s (fun d => Keeps [] s.dev d ∧
        d.outs = .readValue (evHome ev.val) (0x6000000 + 8 * ev.val) (BitVec.ofNat 64 ((s.dev.counter ev.val).toNat % 2 ^ 32)) :: s.dev.outs ∧
        (tabGet d.cnt.hiLatch 0 (latchKey who)).toNat = (s.dev.counter ev.val).toNat / 2 ^ 32 ∧
        (∀ k, k ≠ latchKey who → tabGet d.cnt.hiLatch 0 k = tabGet s.dev.cnt.hiLatch 0 k) ∧ ∀ e, d.counter e = s.dev.counter e)) ∧
      (∀ h f, who = .fn h f → s.dev.isManager who = false → Answers (.counterLowRead who ev) s (fun d => Claims.Refused who s.dev d ∧
        d.outs = .completerAbort h.val f.val :: s.dev.outs ∧ Counts [evHost h.val 8] s.dev d))) ∧
    (∀ tid : Fin 512, Answers (.slotRetiredRead tid) s (fun d => Keeps [] s.dev d ∧ d.cnt.slot = s.dev.cnt.slot ∧
      d.outs = .readValue (islOf tid.val) (0x6200000 + tid.val % 128 * 0x80) (tabGet s.dev.cnt.slot 0 (5 * tid.val)) :: s.dev.outs ∧
      ∀ c, 1 ≤ c → c ≤ 4 → tabGet d.cnt.slotLatch 0 (5 * tid.val + c) = tabGet s.dev.cnt.slot 0 (5 * tid.val + c))) ∧
    (∀ who (w : Fin 1024) (v : W32) p, s.dev.winOwner w.val = some p →
      (s.dev.mayDrive who p = true →
        Answers (.cntWinCfgWrite who w 0 v) s (fun d => Keeps [.cntWinCfg0] s.dev d ∧ Claims.OnlyAt .cntWinCfg0 w.val s.dev d ∧ d.rf .cntWinCfg0 w.val 0 21 = v.toNat % 2 ^ 21 ∧
          d.rb .cntWinCfg0 w.val 31 = (v.getLsbD 31 && s.dev.winMay p (v.toNat / 2 ^ 19 % 4) (v.toNat % 2 ^ 13) (v.toNat / 2 ^ 13 % 64 + 1))) ∧
        Answers (.cntWinCfgWrite who w 1 v) s (fun d => Keeps [.cntWinCfg1, .cntWinStat] s.dev d ∧ d.rf .cntWinCfg1 w.val 0 32 = v.toNat ∧ d.rb .cntWinStat w.val 0 = false) ∧
        Answers (.cntWinCfgWrite who w 3 v) s (fun d => Keeps [.cntWinCfg3, .cntWinStat] s.dev d ∧ d.winOwner w.val = some p ∧
          d.rf .cntWinCfg3 w.val 0 20 = min (v.toNat % 2 ^ 20) 1000000 ∧
          tabFind w.val d.cnt.mirrorAt = if v.toNat % 2 ^ 20 = 0 then none else some (s.dev.ns + min (v.toNat % 2 ^ 20) 1000000 * 1000))) ∧
      (∀ h f r, who = .fn h f → s.dev.mayDrive who p = false → Answers (.cntWinCfgWrite who w r v) s (fun d => Claims.Refused who s.dev d ∧ d.cnt = s.dev.cnt))) ∧
    (∀ (w : Fin 1024) at_ p n, s.dev.live = true → tabFind w.val s.dev.cnt.mirrorAt = some at_ → s.dev.winOwner w.val = some p → n = s.dev.rf .cntWinCfg0 w.val 13 6 + 1 →
      (s.dev.ns < at_ → Answers (.counterFaceMirror w) s (fun d => d = s.dev)) ∧
      (at_ ≤ s.dev.ns → s.dev.winFace w.val p (16 + 8 * n) = none → Answers (.counterFaceMirror w) s (fun d => d.rb .cntWinStat w.val 0 = true ∧
        tabFind w.val d.cnt.mirrorAt = none ∧ Keeps [.cntWinStat] s.dev d)) ∧
      (∀ a isl, at_ ≤ s.dev.ns → s.dev.winFace w.val p (16 + 8 * n) = some (a, isl) → isl = a / 2 ^ 44 → s.dev.inDuplex p = false → Answers (.counterFaceMirror w) s (fun d =>
        d.read a 8 = leBytes 8 (tabGet s.dev.cnt.mirrorSeq 0 w.val + 2).toNat ∧ d.read (a + 8) 8 = leBytes 8 (timeWord at_).toNat ∧
        (∀ k < n, d.read (a + 16 + 8 * k) 8 = leBytes 8 (s.dev.winValue w.val k).toNat) ∧ (∀ x, x < a ∨ a + 16 + 8 * n ≤ x → d.byte x = s.dev.byte x) ∧
        d.regs = s.dev.regs ∧ d.thr = s.dev.thr ∧ tabFind w.val d.cnt.mirrorAt = some (at_ + max 1000 (s.dev.mirrorStep w.val))))) ∧
    (∀ (tid : Fin 512) ring c, s.dev.live = true → c = coreOf tid.val →
      (s.dev.partOf tid.val = none ∨ (s.dev.thread tid.val).st = .running → Answers (.freedSlot tid ring) s (fun d => d = s.dev)) ∧
      (∀ p, s.dev.partOf tid.val = some p → (s.dev.thread tid.val).st ≠ .running →
        (s.dev.prefetchRing c ring = none → s.dev.dumpWork c = false → Answers (.freedSlot tid ring) s (fun d => Keeps [] s.dev d ∧ d.dma = s.dev.dma ∧
          tabGet d.cnt.slot 0 (5 * tid.val + 4) = tabGet s.dev.cnt.slot 0 (5 * tid.val + 4) + 1 ∧
          Counts (if (s.dev.thread (512 + c)).st = .running then [] else [evE (islOfCore c) (16 * (c % 16) + 3)]) s.dev d)) ∧
        (∀ n, s.dev.prefetchRing c ring = some n → Answers (.freedSlot tid ring) s (fun d => Keeps [] s.dev d ∧ (d.sq n).ahead = 7 ∧ (∀ k, k ≠ n → d.sq k = s.dev.sq k) ∧
          Counts [evE (islOfCore c) (16 * (c % 16) + 2)] s.dev d)) ∧
        (∀ at_ vs k, s.dev.prefetchRing c ring = none → s.dev.dumpWork c = true → s.dev.cnt.dump = some (at_, vs, k) → k + 1 < dumpLines vs.length → s.dev.canIssue s.dev.mgmtPort 0 = true →
          Answers (.freedSlot tid ring) s (fun d => d.cnt.dump = some (at_, vs, k + 1) ∧ Keeps [.hostPortStat] s.dev d ∧
            d.outs = .hostWrite s.dev.mgmtPort 0 0 (s.dev.dumpAddr vs.length + 64 * (k + 1)) (slice (vs.flatMap (fun v => leBytes 8 v.toNat)) (64 * k + 32) 64) :: s.dev.outs))))

/-- R435 to R441: the anchor accepts a pin edge of an armed source for the next tick and ignores one within a microsecond of another, the oldest SNAP request for this tick, and an armed time for the tick at which it is reached; the first fixes L four ticks later, one accepted before L merges, and one of a source that is not armed is answered with 0; at L, and not before, every block's copy is taken once, the waiting requests get L, and every source is disarmed. A dump's counters are copied at its instant, or the instant is missed and counted while another dump is being written or no partition holds the dump core; the read-back ends the dump, with write_err where it fails. -/
def Obligations.SnapshotsAndDumpsAreTaken : Prop :=
  ∀ (s : State) (add : Nat), s.dev.powered = true → add = s.dev.rf .timeAddend 0 0 32 →
    (s.dev.rb .snapCfg 0 4 = true → (∀ t, s.dev.cnt.pinAt = some t → t + 250 ≤ s.dev.time.tick) → s.dev.cnt.snapDue = none → Answers .snapInEdge s (fun d =>
      d.cnt.snapDue = some (s.dev.time.tick + 5, s.dev.time.now + 5 * add) ∧ d.cnt.pinAt = some s.dev.time.tick ∧ d.rf .snapStat 0 1 3 = 4 ∧ d.reg .snapPin 0 = timeWord s.dev.ns ∧
      Keeps [.snapStat, .snapPin] s.dev d)) ∧
    (∀ t, s.dev.cnt.pinAt = some t → s.dev.time.tick < t + 250 → Answers .snapInEdge s (fun d => d = s.dev)) ∧
    (∀ rest tid op, s.dev.cnt.snapReqs = (3, some (tid, op)) :: rest →
      (s.dev.rb .snapCfg 0 3 = true → s.dev.cnt.snapDue = none → Answers .snapTriggerAccept s (fun d => d.cnt.snapReqs = rest ∧
        d.cnt.snapDue = some (s.dev.time.tick + 4, s.dev.time.now + 4 * add) ∧ d.cnt.snapWait = s.dev.cnt.snapWait ++ [(tid, op)] ∧ d.rf .snapStat 0 1 3 = 3 ∧ Keeps [.snapStat] s.dev d)) ∧
      (∀ l t, s.dev.rb .snapCfg 0 3 = true → s.dev.cnt.snapDue = some (l, t) → s.dev.time.tick < l → Answers .snapTriggerAccept s (fun d => d.cnt.snapReqs = rest ∧
        d.cnt.snapDue = some (l, t) ∧ d.cnt.snapWait = s.dev.cnt.snapWait ++ [(tid, op)] ∧ d.rf .snapStat 0 16 16 = min 65535 (s.dev.rf .snapStat 0 16 16 + 1) ∧ Keeps [.snapStat] s.dev d)) ∧
      (s.dev.rb .snapCfg 0 3 = false → Answers .snapTriggerAccept s (fun d => d.cnt.snapReqs = rest ∧ d.cnt.snapDue = s.dev.cnt.snapDue ∧ d.regs = s.dev.regs ∧ d.mem = s.dev.mem ∧
        (∀ o ∈ (d.thread tid).outs, o.id = op → o.kind = .snap → o.res = some 0)))) ∧
    (s.dev.rb .snapCfg 0 0 = true → s.dev.cnt.snapFrom ≤ s.dev.time.tick → s.dev.cnt.snapDue = none → expandTime s.dev.sec (s.dev.reg .snapArmTime 0) ≤ s.dev.ns →
      Answers .snapTimeTrigger s (fun d => d.cnt.snapDue = some (s.dev.time.tick, s.dev.time.now) ∧ d.rb .snapCfg 0 0 = false ∧ d.rf .snapStat 0 1 3 = 0 ∧
        Keeps [.snapCfg, .snapStat] s.dev d)) ∧
    (∀ l t, s.dev.cnt.snapDue = some (l, t) →
      (s.dev.time.tick < l ∨ s.dev.rb .snapStat 0 0 = true → Answers .snapLatch s (fun d => d = s.dev)) ∧
      (l ≤ s.dev.time.tick → s.dev.rb .snapStat 0 0 = false → Answers .snapLatch s (fun d => d.rb .snapStat 0 0 = true ∧ d.reg .snapLatch 0 = timeWord s.dev.ns ∧ d.reg .snapCfg 0 = 0 ∧
        d.cnt.snapWait = [] ∧ (∀ e, tabGet d.cnt.snap.ctrs 0 e = s.dev.counter e) ∧ d.cnt.snap.progs = s.dev.cnt.prog ∧ d.cnt.snap.slots = s.dev.cnt.slot ∧ d.mem = s.dev.mem ∧
        (∀ x ∈ s.dev.cnt.snapWait, ∀ o ∈ (d.thread x.1).outs, o.id = x.2 → o.kind = .snap → o.res = some (timeWord s.dev.ns)) ∧ Counts [14] s.dev d))) ∧
    (s.dev.rb .cntDumpCfg 0 31 = true → s.dev.cnt.dumpAt ≤ s.dev.ns → s.dev.safe = false → ∀ p, s.dev.partOfCore s.dev.dumpCore = some p →
      (s.dev.cnt.dump = none → s.dev.cnt.dumpBack = false → s.dev.dumpList ≠ [] → Answers .counterDumpInstant s (fun d =>
        d.cnt.dump = some (s.dev.cnt.dumpAt, s.dev.dumpList.map s.dev.counter, 0) ∧ d.cnt.dumpSeq = s.dev.cnt.dumpSeq + 1 ∧
        d.cnt.dumpAt = s.dev.cnt.dumpAt + max 1 s.dev.dumpStep ∧ Keeps [.cntDumpStat] s.dev d)) ∧
      (s.dev.cnt.dump ≠ none → Answers .counterDumpInstant s (fun d => d.cnt.dump = s.dev.cnt.dump ∧ d.cnt.dumpMissed = s.dev.cnt.dumpMissed + 1 ∧
        d.cnt.dumpSeq = s.dev.cnt.dumpSeq + 1 ∧ Counts [16] s.dev d ∧ Keeps [.cntDumpStat] s.dev d))) ∧
    (s.dev.rb .cntDumpCfg 0 31 = false ∨ s.dev.ns < s.dev.cnt.dumpAt → Answers .counterDumpInstant s (fun d => d = s.dev)) ∧
    (∀ ok tag, s.dev.cnt.dumpBack = true →
      (∀ bs, s.dev.replyFor .dumpBack = some (tag, .data bs) → Answers (.dumpComplete ok) s (fun d => d.cnt.dumpBack = false ∧ Keeps [.hostFnStat, .hostLinkStat] s.dev d)) ∧
      (∀ r, s.dev.replyFor .dumpBack = some (tag, r) → (∀ bs, r ≠ .data bs) → Answers (.dumpComplete ok) s (fun d => d.cnt.dumpBack = false ∧ d.rb .cntDumpStat 0 48 = true ∧
        Keeps [.hostFnStat, .hostLinkStat, .cntDumpStat] s.dev d)))

/-- R442 to R446, R474: each second of the reference clock adds to the supply counts and, with VIN and VAUX present, an island's thermal factor at its hottest reading to its thermal age, and keeps its peak; at a whole ten minutes of device time a checkpoint takes the next number, its record goes to the older of the two retention slots, and to the log where its place is erased; a checkpoint without an erased place counts in log_skipped; the erase under way ends with its sector erased and counted, and the next one starts unless supply warning holds it. -/
def Obligations.LifetimeRecordsAreKept : Prop :=
  ∀ (s : State),
    (s.dev.time.tick < s.dev.life.ageAt + 250000000 → Answers .thermalAgeUpdate s (fun d => d = s.dev)) ∧
    (s.dev.life.ageAt + 250000000 ≤ s.dev.time.tick → s.dev.life.vin = true → s.dev.life.vaux = true → Answers .thermalAgeUpdate s (fun d =>
      d.life.ageAt = s.dev.life.ageAt + 250000000 ∧ d.life.vinSecs = min (2 ^ 64 - 1) (s.dev.life.vinSecs + 1) ∧ d.life.vauxSecs = min (2 ^ 64 - 1) (s.dev.life.vauxSecs + 1) ∧ d.regs = s.dev.regs ∧
      Keeps [] s.dev d ∧ (∀ i < 8, ∀ t, s.dev.islTemp i = some t → tabGet d.life.age 0 i = min (2 ^ 64 - 1) (tabGet s.dev.life.age 0 i + thermalFactor t) ∧
        tabGet d.life.peak 0 i = max (tabGet s.dev.life.peak 0 i) (min 255 (t + 40)).toNat) ∧
      (∀ i < 8, s.dev.islTemp i = none → tabGet d.life.age 0 i = tabGet s.dev.life.age 0 i ∧ tabGet d.life.peak 0 i = tabGet s.dev.life.peak 0 i))) ∧
    (s.dev.powered = true → s.dev.rf .timeAddend 0 0 32 ≤ s.dev.time.now % (600 * 1000000000 * 65536) → Answers .lifetimeCheckpoint s (fun d => d = s.dev)) ∧
    (∀ seq, s.dev.powered = true → s.dev.time.now % (600 * 1000000000 * 65536) < s.dev.rf .timeAddend 0 0 32 → s.dev.life.ckptAt ≠ some s.dev.time.tick →
      seq = (s.dev.reg .lifeSeq 0).toNat + 1 → seq < 2 ^ 64 →
      (s.dev.smemOk = false → Answers .lifetimeCheckpoint s (fun d => (d.reg .lifeSeq 0).toNat = seq ∧ d.reg .lifeLast 0 = timeWord s.dev.ns ∧ d.board = s.dev.board ∧ d.life.skipped = true ∧
        d.rf .lifeStat 0 16 16 = min 65535 (s.dev.rf .lifeStat 0 16 16 + 1) ∧ Keeps [.lifeSeq, .lifeLast, .lifeStat] s.dev d ∧
        ∃ rec, recordSeq rec = seq ∧ leAt rec 5 1 = 1 ∧ (s.dev.life.rec0 = none → d.life.rec0 = some rec ∧ d.life.rec1 = s.dev.life.rec1) ∧
          (∀ a b, s.dev.life.rec0 = some a → s.dev.life.rec1 = some b → (recordSeq a ≤ recordSeq b → d.life.rec0 = some rec ∧ d.life.rec1 = some b) ∧
            (recordSeq b < recordSeq a → d.life.rec0 = some a ∧ d.life.rec1 = some rec)))) ∧
      (∀ pos, s.dev.smemOk = true → pos = s.dev.rf .lifePos 0 0 13 → s.dev.flashBlank (logAddr pos) 512 = true → s.dev.life.erases_ = [] → Answers .lifetimeCheckpoint s (fun d =>
        (d.reg .lifePos 0).toNat = (pos + 1) % 8192 ∧ d.life.skipped = false ∧ (∃ rec, d.flashRead (logAddr pos) 512 = rec ∧ recordSeq rec = seq ∧ (d.life.rec0 = some rec ∨ d.life.rec1 = some rec)) ∧
        Keeps [.lifeSeq, .lifeLast, .lifeStat, .lifePos] s.dev d))) ∧
    (∀ a rest, s.dev.powered = true → s.dev.life.erases_ = a :: rest →
      (s.dev.life.eraseOn = false → Answers .logEraseDone s (fun d => d = s.dev)) ∧
      (s.dev.life.eraseOn = true → Answers .logEraseDone s (fun d => d.life.erases_ = rest ∧ d.life.eraseOn = (decide (rest ≠ []) && !s.dev.warned) ∧
        d.flashBlank (a / 4096 * 4096) 4096 = true ∧ tabGet d.life.erases 0 (flashRegion a) = min (2 ^ 32 - 1) (tabGet s.dev.life.erases 0 (flashRegion a) + 1) ∧
        (∀ x, x / 4096 ≠ a / 4096 → tabGet d.board.flash 0xFF x = tabGet s.dev.board.flash 0xFF x) ∧ Counts [18] s.dev d ∧ Keeps [.lifeStat] s.dev d))) ∧
    (s.dev.life.erases_ = [] → Answers .logEraseDone s (fun d => d = s.dev))

/-- R12, R46, R47, R447, R449, R451, R452, R454, R462, R471, R474, R476 to R479, R482, R483: power-on, auxiliary, device and fundamental resets are counted by kind and leave their cause; a device reset keeps device time, the history, the snapshot and lifetime registers and returns every other register; a loss of VIN leaves the always-on domain and the board; device time resumes from the always-on time or the recorded greatest second; start-up begins when no pin holds it; the image takes effect once, firmware serves from then on with the persistent keys reloaded, what waits for zeroed DDR goes on, and 60 s of service clear the image's trial count; a supply warning, a sag and the warning's end act on CFG_SUPPLY, their counts and their reports, and a warning at the release from power-on reset (R482; that a SUPPLY_WARN in the tick of the power-on reset is that one is the model's reading, log entry 137) is reported, but neither counted as a dip nor checkpointed. -/
def Obligations.StartUpAndSupply : Prop :=
  ∀ (s : State),
    (s.dev.life.vin = false → Answers .powerOnReset s (fun d =>
      d.life.vin = true ∧ tabGet d.life.resets 0 0 = min (2 ^ 32 - 1) (tabGet s.dev.life.resets 0 0 + 1) ∧ d.mem = s.dev.mem ∧ d.thr = s.dev.thr ∧ d.board = s.dev.board ∧
      d.rf .cfgRstCause 0 0 3 = b2n (!s.dev.life.lost && s.dev.life.vaux) ∧ d.rb .cfgRstCause 0 3 = (!s.dev.life.lost && s.dev.life.vaux) ∧ d.rb .cfgRstCause 0 4 = s.dev.life.wasSafe ∧
      (s.dev.life.lost = false → s.dev.life.vaux = true → s.dev.life.auxRan = true →
        d.time.now = (s.dev.life.auxTime / 65536 + (s.dev.time.tick - s.dev.life.auxTick) * 4) / 1000 * 1000 * 65536 ∧ d.rb .timeStatus 0 0 = s.dev.life.auxCal) ∧
      (s.dev.life.lost = true ∨ s.dev.life.vaux = false ∨ s.dev.life.auxRan = false → d.time.now = s.dev.hwmSaved * 1000000000 * 65536 ∧ d.rb .timeStatus 0 1 = true) ∧
      (s.dev.boot.rstN = false → d.rb .cfgBootStat 0 4 = true ∧ d.boot.began = s.dev.time.tick ∧ d.rf .cfgBootStat 0 0 2 = d.boot.image))) ∧
    (s.dev.life.vaux = false → s.dev.powered = false → Answers .auxReset s (fun d => d.life.vaux = true ∧
      tabGet d.life.resets 0 1 = min (2 ^ 32 - 1) (tabGet s.dev.life.resets 0 1 + 1) ∧ d.rf .ioStrap 0 0 2 = s.dev.board.smbAddr.toNat % 4 ∧ d.life.lost = s.dev.life.lost ∧ Keeps [.ioStrap] s.dev d)) ∧
    (s.dev.life.vaux = true → Answers .vauxLost s (fun d => d.life.vaux = false ∧ d.life.lost = true ∧ d.life.rec0 = none ∧ d.life.rec1 = none ∧ d.life.age = [] ∧ d.life.resets = [] ∧
      d.life.vin = s.dev.life.vin ∧ Keeps [] s.dev d ∧ d.board = s.dev.board ∧ d.time = s.dev.time)) ∧
    (s.dev.life.vaux = false → Answers .vauxLost s (fun d => d = s.dev)) ∧
    (s.dev.boot.rstN = false → s.dev.life.vin = true → Answers (.deviceReset false) s (fun d =>
      d.boot.rstN = true ∧ tabGet d.life.resets 0 2 = min (2 ^ 32 - 1) (tabGet s.dev.life.resets 0 2 + 1) ∧ d.mem = [] ∧ d.thr = [] ∧ d.keys.slots = [] ∧ d.keys.log = s.dev.keys.log ∧
      d.board = s.dev.board ∧ d.time.now = s.dev.time.now ∧ d.time.tick = s.dev.time.tick ∧ d.cnt.snap = s.dev.cnt.snap ∧ d.safe = false ∧
      (∀ r k, r ∈ drKeeps → d.reg r k = s.dev.reg r k) ∧ (∀ r k, r ∉ drKeeps → r ≠ .fltStat → r ≠ .cfgRstCause → d.reg r k = r.resetAt k) ∧
      d.rf .cfgRstCause 0 0 3 = 2 ∧ d.rb .cfgRstCause 0 4 = s.dev.safe)) ∧
    (s.dev.powered = true → s.dev.safe = true → s.dev.rb .fltCfg 0 0 = true → s.dev.host.perst.getLsbD s.dev.mgmtPort = true → Answers (.deviceReset true) s (fun d =>
      d.boot.rstN = false ∧ d.safe = false ∧ d.rf .cfgRstCause 0 0 3 = 3 ∧ d.rb .cfgRstCause 0 4 = true ∧ d.mem = [] ∧ d.thr = [] ∧ d.rb .cfgBootStat 0 4 = true ∧
      (∀ r k, r ∈ drKeeps → d.reg r k = s.dev.reg r k))) ∧
    (s.dev.safe = false ∨ s.dev.rb .fltCfg 0 0 = false → Answers (.deviceReset true) s (fun d => d = s.dev)) ∧
    (s.dev.boot.rstN = true → s.dev.life.vin = true → Answers .devRstNRelease s (fun d => d.boot.rstN = false ∧ d.rb .cfgBootStat 0 4 = true ∧ d.boot.began = s.dev.time.tick ∧
      Keeps [.cfgTrial, .cfgBootStat, .cfgBootGen] s.dev d)) ∧
    (s.dev.life.vin = true → Answers .brownOut s (fun d => d.life.vin = false ∧ d.life.auxTime = s.dev.time.now ∧ d.life.auxTick = s.dev.time.tick ∧ d.board = s.dev.board ∧ d.keys.log = s.dev.keys.log ∧
      d.mem = [] ∧ d.thr = [] ∧ d.keys.slots = [] ∧ d.life.rec0 = s.dev.life.rec0 ∧ d.life.resets = s.dev.life.resets ∧ (∀ r k, r ≠ .ioStrap → d.reg r k = r.resetAt k))) ∧
    (s.dev.live = true → s.dev.boot.imaged = false → Answers .imageApply s (fun d => d.boot.imaged = true ∧ d.mem = s.dev.mem ∧ d.thr = s.dev.thr ∧ d.host.training = 255 ∧
      (∀ h < 8, (d.hostPortExists h = true ∧ s.dev.host.perst.getLsbD h = false → tabGet d.life.host 0 h = min (2 ^ 32 - 1) (tabGet s.dev.life.host 0 h + 1)) ∧
        (d.hostPortExists h = false ∨ s.dev.host.perst.getLsbD h = true → tabGet d.life.host 0 h = tabGet s.dev.life.host 0 h)))) ∧
    (s.dev.live = true → s.dev.boot.imaged = true → Answers .imageApply s (fun d => d = s.dev)) ∧
    (s.dev.live = true → s.dev.boot.imaged = true → s.dev.fw.serving = false → s.dev.fw.imgObjs = [] → Answers .firmwareReady s (fun d =>
      d.fw.serving = true ∧ d.boot.servedAt = some s.dev.time.tick ∧ d.rf .cfgBootStat 0 16 16 = min 65535 ((s.dev.time.tick - s.dev.boot.began) / 250000) ∧
      d.rb .cfgBootStat 0 4 = (!s.dev.boot.ddrZeroed) ∧ d.thr = s.dev.thr ∧
      (∀ pre n k, s.dev.smemOk = true → s.dev.keys.log = pre ++ [(n, k)] → n ∉ s.dev.keys.logBad → (d.slot n).state = 1 ∧ (d.slot n).material = k.material ∧ (modeCounts k.mode = true → (d.slot n).inv = k.ceiling)))) ∧
    (s.dev.live = true → s.dev.fw.serving = true → s.dev.boot.ddrZeroed = false →
      (s.dev.fw.imgObjs = [] → s.dev.fw.running = none → Answers .ddrZeroDone s (fun d => d.boot.ddrZeroed = true ∧ d.rb .cfgBootStat 0 4 = false ∧ Keeps [.cfgBootStat] s.dev d)) ∧
      (∀ h d, s.dev.fw.running = some (0x20, h) → s.dev.fw.imgObjs = [] → d = { s.dev with boot := { s.dev.boot with ddrZeroed := true } }.setRb .cfgBootStat 0 4 false →
        exec .ddrZeroDone s = exec (.partCreate h) { s with dev := { d with fw := { d.fw with running := none, taken := some (0, 64) } } })) ∧
    (∀ t, s.dev.live = true → s.dev.boot.servedAt = some t →
      (t + 15000000000 ≤ s.dev.time.tick → s.dev.boot.image = 1 ∨ s.dev.boot.image = 2 → Answers .trialClear s (fun d =>
        d.rf .cfgTrial 0 (4 * (s.dev.boot.image - 1)) 4 = 0 ∧ tabGet d.life.trials 0 (s.dev.boot.image - 1) = 0 ∧ Keeps [.cfgTrial] s.dev d)) ∧
      (s.dev.time.tick < t + 15000000000 → Answers .trialClear s (fun d => d = s.dev))) ∧
    (s.dev.life.vin = true → s.dev.boot.warnAt = none → s.dev.boot.poAt = some s.dev.time.tick → Answers .supplyWarn s (fun d => d.boot.warnAt = some s.dev.time.tick ∧
      d.rf .cfgSupply 0 0 2 = 1 ∧ d.life = s.dev.life ∧ (s.dev.powered = true → RaisesSome 128 0 none s.dev d) ∧ Keeps [.cfgSupply] s.dev d)) ∧
    (s.dev.life.vin = true → s.dev.boot.warnAt = none → s.dev.boot.poAt ≠ some s.dev.time.tick → Answers .supplyWarn s (fun d => d.boot.warnAt = some s.dev.time.tick ∧ d.rf .cfgSupply 0 0 2 = 1 ∧
      d.life.dips = min (2 ^ 32 - 1) (s.dev.life.dips + 1) ∧ (s.dev.powered = true → RaisesSome 128 0 none s.dev d) ∧
      (s.dev.life.ckptAt ≠ some s.dev.time.tick → d.life.ckptAt = some s.dev.time.tick ∧ d.reg .lifeSeq 0 = s.dev.reg .lifeSeq 0 + 1) ∧
      Keeps [.cfgSupply, .lifeSeq, .lifeLast, .lifeStat, .lifePos] s.dev d)) ∧
    (∀ t, s.dev.boot.warnAt = some t →
      (t + 12500000 ≤ s.dev.time.tick → s.dev.rb .cfgSupply 0 2 = false → Answers .supplySag s (fun d => d.rb .cfgSupply 0 2 = true ∧ d.life.sags = min (2 ^ 32 - 1) (s.dev.life.sags + 1) ∧
        (s.dev.powered = true → RaisesSome 129 0 none s.dev d) ∧ Keeps [.cfgSupply] s.dev d)) ∧
      (s.dev.time.tick < t + 12500000 ∨ s.dev.rb .cfgSupply 0 2 = true → Answers .supplySag s (fun d => d = s.dev)) ∧
      Answers .supplyWarnEnd s (fun d => d.boot.warnAt = none ∧ d.rf .cfgSupply 0 0 2 = 0 ∧ d.rf .cfgSupply 0 8 24 = min (2 ^ 24 - 1) ((s.dev.time.tick - t) / 250) ∧
        d.life.eraseOn = (s.dev.life.eraseOn || decide (s.dev.life.erases_ ≠ [])) ∧ Keeps [.cfgSupply] s.dev d)) ∧
    (s.dev.boot.warnAt = none → Answers .supplySag s (fun d => d = s.dev) ∧ Answers .supplyWarnEnd s (fun d => d = s.dev))

namespace Sys2Proof.Claims
/-- The readings of an island's four sensors. -/
def islReadings (readings : List Sensor) (i : Nat) : List Sensor := (List.range 4).map (fun j => readings.getD (4 * i + j) none)
/-- An island's hottest valid reading lies above a limit in whole degrees. -/
def Above (readings : List Sensor) (i : Nat) (limit : Int) : Prop := ∃ q, hottest (islReadings readings i) = some q ∧ 4 * limit < q
/-- Registers whose write the model treats by a rule of their own, beside their access code. -/
def ownRule : List Reg := [.timeCtl, .coreDbgCtl, .coreDbgStat, .clsUpdCmd, .schUpdCmd, .ringSqCfg, .ringCqCfg, .ringSqDb, .ringCqHead, .ringSqBase, .ringSqPoll, .ringSqCons,
  .ringSqRoute, .ringSqInbox, .ringCqBase, .ringCqIrq, .hostWinStg, .hostWinCtl, .hostIntxPend, .cntWinCfg0, .cntWinCfg1, .cntWinCfg2, .cntWinCfg3, .schPolCfg]
end Sys2Proof.Claims

/-- R490, R493 to R495: a conversion shows every sensor's reading or marks it invalid, an island's hottest valid one, and which islands are above the warning limit, of which the one that has just risen raises THERMAL_i; an island above the critical limit for 100 us, or with no valid sensor, raises THERMAL_CRIT_i once; the governor is entered and counted after 1 ms and released after 100 ms; the SMBus slave reads while VAUX is present and changes nothing. -/
def Obligations.TemperaturesActOnTheDevice : Prop :=
  ∀ (s : State),
    (∀ readings : List Sensor, s.dev.powered = true → Answers (.thermalSensorConvert readings) s (fun d => d.mem = s.dev.mem ∧ d.thr = s.dev.thr ∧
      (∀ r k, r ≠ .thermSens → r ≠ .thermHot → r ≠ .thermStat → d.reg r k = s.dev.reg r k) ∧
      (∀ n < 32, d.rb .thermSens n 15 = sensorOk (readings.getD n none) ∧ ∀ q, readings.getD n none = some q → sensorOk (some q) = true → d.rf .thermSens n 0 12 = (q % 4096).toNat) ∧
      (∀ i < 8, (d.rb .thermHot i 15 = true ↔ ∃ j < 4, sensorOk (readings.getD (4 * i + j) none) = true) ∧
        (∀ j < 4, ∀ q, readings.getD (4 * i + j) none = some q → sensorOk (some q) = true → (∀ k < 4, ∀ u, readings.getD (4 * i + k) none = some u → sensorOk (some u) = true → u ≤ q) →
          d.rf .thermHot i 0 12 = (q % 4096).toNat) ∧
        (d.rb .thermStat 0 (i + 1) = true ↔ Claims.Above readings i (s.dev.rf .thermCfg 0 0 8)) ∧
        ((∀ j < 8, (Claims.Above readings j (s.dev.rf .thermCfg 0 0 8) ∧ s.dev.boot.hotRaised.getLsbD j = false) ↔ j = i) → RaisesSome (136 + i) i none s.dev d)) ∧
      ((∀ j < 8, Claims.Above readings j (s.dev.rf .thermCfg 0 0 8) → s.dev.boot.hotRaised.getLsbD j = true) → d.flt = s.dev.flt))) ∧
    (∀ (isl : Fin 8) t, s.dev.powered = true → tabFind isl.val s.dev.boot.critSince = some t →
      (s.dev.boot.critRaised.getLsbD isl.val = false → s.dev.rb .thermHot isl.val 15 = false ∨ t + 25000 ≤ s.dev.time.tick → Answers (.thermalCrit isl) s (fun d =>
        RaisesSome (144 + isl.val) isl.val none s.dev d ∧ d.boot.critRaised.getLsbD isl.val = true ∧ Keeps [] s.dev d)) ∧
      (s.dev.rb .thermHot isl.val 15 = true → s.dev.time.tick < t + 25000 → Answers (.thermalCrit isl) s (fun d => d = s.dev))) ∧
    (∀ i t, s.dev.powered = true → s.dev.rb .thermCfg 0 24 = true → s.dev.rb .thermStat 0 0 = false → (i, t) ∈ s.dev.boot.govSince → t + 250000 ≤ s.dev.time.tick →
      Answers .governorEnter s (fun d => d.rb .thermStat 0 0 = true ∧ d.rf .thermStat 0 16 16 = min 65535 (s.dev.rf .thermStat 0 16 16 + 1) ∧ Keeps [.thermStat] s.dev d)) ∧
    (s.dev.rb .thermCfg 0 24 = false ∨ s.dev.rb .thermStat 0 0 = true ∨ (∀ e ∈ s.dev.boot.govSince, s.dev.time.tick < e.2 + 250000) → Answers .governorEnter s (fun d => d = s.dev)) ∧
    (s.dev.powered = true → s.dev.rb .thermStat 0 0 = true →
      (s.dev.rb .thermCfg 0 24 = false ∨ (∃ t, s.dev.boot.coolSince = some t ∧ t + 25000000 ≤ s.dev.time.tick) → Answers .governorRelease s (fun d =>
        d.rb .thermStat 0 0 = false ∧ Keeps [.thermStat] s.dev d)) ∧
      (s.dev.rb .thermCfg 0 24 = true → (∀ t, s.dev.boot.coolSince = some t → s.dev.time.tick < t + 25000000) → Answers .governorRelease s (fun d => d = s.dev))) ∧
    (∀ r, (s.dev.life.vaux = false → Answers (.smbusRead r) s (fun d => d = s.dev)) ∧
      (s.dev.life.vaux = true → Answers (.smbusRead r) s (fun d => ∃ bs, d = { s.dev with outs := .smbus bs :: s.dev.outs } ∧
        (r = .rstCause → leAt bs 0 4 = (s.dev.reg .cfgRstCause 0).toNat % 2 ^ 32) ∧ (r = .therm 4 → leAt bs 0 4 = (s.dev.reg .thermStat 0).toNat % 2 ^ 32) ∧
        (r = .life → bs.take 4 = [0x4C, 0x49, 0x46, 0x45] ∧ leAt bs 5 1 = 0) ∧ (r = .identify → bs = s.dev.identity))))

/-- R7, R8, R303, R501: an access that is not naturally aligned, or by a requester without the right, is denied and changes no register; a partition reads the blocks and resources it owns and the time block only, and only the manager, firmware and the debug interface read the others; a write of an RO or RC register changes nothing, one of an RW register without ranges stores the bits that are not reserved and nothing else; a read of an RC register returns its value and clears it; a reserved offset reads as zero and its write is ignored. That a write without a write access is denied and not ignored is log entry 71's reading. -/
def Obligations.RegistersFollowTheirAccessCodes : Prop :=
  ∀ (s : State) (who : Who) (isl : Fin 8) (off : Nat), s.dev.powered = true →
    (∀ v, off % 4 ≠ 0 → Answers (.registerWrite who isl off false v) s (fun d => Claims.Refused who s.dev d) ∧ Answers (.registerReadClear who isl off) s (fun d => Claims.Refused who s.dev d)) ∧
    (off % 4 = 0 → ctrAt isl.val off = none → regAt (blockIsl isl.val off) off = none →
      (∀ v, Answers (.registerWrite who isl off false v) s (fun d => d = s.dev)) ∧
      Answers (.registerReadClear who isl off) s (fun d => d = { s.dev with outs := .readValue isl.val off 0 :: s.dev.outs })) ∧
    (∀ r i v, off % 4 = 0 → ctrAt isl.val off = none → regAt (blockIsl isl.val off) off = some (r, i, 0) → r ∉ mbxRegs → r ∉ Claims.ownRule → r.info.bytes = 4 →
      (∀ h f p, who = .fn h f → f.val = p + 1 → r ∉ timeRegs → s.dev.regOwner r i ≠ some p → Answers (.registerReadClear who isl off) s (fun d => Claims.Refused who s.dev d ∧
        d.outs = .completerAbort h.val f.val :: s.dev.outs ∧ Counts [evHost h.val 8] s.dev d)) ∧
      (r.info.acc = .rc → s.dev.mayRead who r i = true → Answers (.registerReadClear who isl off) s (fun d => d.reg r i = 0 ∧ Keeps [r] s.dev d ∧ Claims.OnlyAt r i s.dev d ∧
        d.outs = .readValue isl.val off (BitVec.ofNat 64 ((s.dev.reg r i).toNat % 2 ^ 32)) :: s.dev.outs)) ∧
      (s.dev.mayWrite who r i = false → Answers (.registerWrite who isl off false v) s (fun d => Claims.Refused who s.dev d)) ∧
      (s.dev.mayWrite who r i = true → r.info.acc = .ro ∨ r.info.acc = .rc → Answers (.registerWrite who isl off false v) s (fun d => d = s.dev)) ∧
      (s.dev.mayWrite who r i = true → r.info.acc = .rw → rwFields r = [] → Answers (.registerWrite who isl off false v) s (fun d =>
        (d.reg r i).toNat = v.toNat % 2 ^ 32 &&& rwMask r ∧ Keeps [r] s.dev d ∧ Claims.OnlyAt r i s.dev d))) ∧
    (∀ r i, (s.dev.mayRead .firmware r i = true ∧ s.dev.mayWrite .firmware r i = true) ∧ (∀ h f, f.val = 0 → s.dev.mayRead (.fn h f) r i = true) ∧
      (∀ h f p, f.val = p + 1 → (s.dev.mayRead (.fn h f) r i = true ↔ r ∈ timeRegs ∨ s.dev.regOwner r i = some p)) ∧
      (r ∈ timeRegs → ∀ who, who ≠ .firmware → s.dev.mayWrite who r i = false))

/-- The commands that wait are first in, first out: whatever a command does, a step takes away the one at the front and leaves the others in their order, and a tick takes none (tier 3; the queue is the model's own, log entry 8). -/
def Obligations.CommandQueueIsFirstInFirstOut : Prop :=
  ∀ (s t : State), step s = .next t → t.pending = s.pending.tail

/-- R96, R98, R104: in every step, an open bundle stays one of an engine thread that could issue when the bundle opened, and a bundle is open only behind an instruction (tier 3). -/
def Obligations.OpenBundlesStayOfThreadsThatCouldIssue : Prop :=
  ∀ (s t : State), BundleOk s → step s = .next t → BundleOk t

namespace Sys2Proof.Claims
/-- Internal memory has its canonical form, and so has the memory that an open bundle would give back. -/
def MemoryOk (s : State) : Prop := Memory.wf s.dev.mem = true ∧ ∀ b, s.bundle = some b → Memory.wf b.before.mem = true
end Sys2Proof.Claims

/-- Every step keeps internal memory in its canonical form: addresses strictly rising, and no byte listed that reads as an unlisted one (tier 3). -/
def Obligations.MemoryKeepsItsCanonicalForm : Prop :=
  ∀ (s t : State), Claims.MemoryOk s → step s = .next t → Claims.MemoryOk t

/-- R3, R7, R21, R47, R50, R57, R205, R321, R452: after reset every register copy holds its reset value, among them TIME_ADDEND 4 ns, memory, threads and key slots are empty, no partition exists, starting is set, nothing waits, and the invariants hold; a step with nothing waiting is one tick: the count of ticks goes on, device time moves by TIME_ADDEND while VIN is present, and in a device that does not run nothing else changes. The values that the spec does not give are log entries 1 to 3, the tick on an empty queue log entry 4. -/
def Obligations.ResetLeavesTheStatedStateAndTicksPass : Prop :=
  (∀ r k, State.reset.dev.reg r k = r.resetAt k) ∧ State.reset.dev.reg .timeAddend 0 = 0x40000 ∧ State.reset.dev.rb .cfgBootStat 0 4 = true ∧ State.reset.dev.reg .coreQuietLimit 0 = 10000 ∧
  (∀ a, State.reset.dev.byte a = 0) ∧ (∀ n, (State.reset.dev.slot n).state = 0) ∧ (∀ t, State.reset.dev.partOf t = none) ∧ (∀ p, State.reset.dev.partState p = 0) ∧ (∀ e, State.reset.dev.counter e = 0) ∧
  State.reset.dev.fw.serving = false ∧ State.reset.pending = [] ∧ BundleOk State.reset ∧ Claims.MemoryOk State.reset ∧
  (∀ s : State, s.pending = [] → ∃ t, step s = .next t ∧ t.pending = [] ∧ t.bundle = none ∧ t.dev.time.tick = s.dev.time.tick + 1 ∧
    t.dev.time.now = s.dev.time.now + (if s.dev.life.vin = true then s.dev.rf .timeAddend 0 0 32 else 0) ∧
    (s.dev.live = false → t.dev = { s.dev with time := t.dev.time } ∧ t.dev.time = { s.dev.time with now := t.dev.time.now, tick := t.dev.time.tick }))
end

