-- ==== Sys2Proof/Laws/Tab.lean ====
section
/-! SUPPORT. Laws/Tab.lean: sparse tables: reading after writing, and that writing keeps the canonical form. -/
namespace Sys2Proof.Machine
open Sys2Proof

@[simp] theorem tabFind_nil (k : Nat) : tabFind k ([] : Tab α) = none := rfl
@[simp] theorem tabGet_nil (d : α) (k : Nat) : tabGet ([] : Tab α) d k = d := rfl

@[simp] theorem tabFind_del_same (k : Nat) (t : Tab α) : tabFind k (tabDel k t) = none := by
  induction t with
  | nil => rfl
  | cons e t ih =>
    obtain ⟨k', a⟩ := e
    by_cases h : k = k'
    · simp [tabDel, h] at ih ⊢; exact ih
    · simp [tabDel, tabFind, h, ih]

theorem tabFind_del_ne {k j : Nat} (h : j ≠ k) (t : Tab α) : tabFind j (tabDel k t) = tabFind j t := by
  induction t with
  | nil => rfl
  | cons e t ih =>
    obtain ⟨k', a⟩ := e
    by_cases hk : k = k'
    · subst hk; simp [tabDel, tabFind, h, ih]
    · by_cases hj : j = k'
      · simp [tabDel, tabFind, hk, hj]
      · simp [tabDel, tabFind, hk, hj, ih]

@[simp] theorem tabFind_ins_same (k : Nat) (a : α) (t : Tab α) : tabFind k (tabIns k a t) = some a := by
  induction t with
  | nil => simp [tabIns, tabFind]
  | cons e t ih =>
    obtain ⟨k', b⟩ := e
    unfold tabIns
    split
    · simp [tabFind]
    · split
      · simp [tabFind]
      · next hk => simp [tabFind, hk, ih]

theorem tabFind_ins_ne {k j : Nat} (h : j ≠ k) (a : α) (t : Tab α) : tabFind j (tabIns k a t) = tabFind j t := by
  induction t with
  | nil => simp [tabIns, tabFind, h]
  | cons e t ih =>
    obtain ⟨k', b⟩ := e
    unfold tabIns
    split
    · simp [tabFind, h]
    · split
      · next hk => subst hk; simp [tabFind, h]
      · by_cases hj : j = k'
        · simp [tabFind, hj]
        · simp [tabFind, hj, ih]

@[simp] theorem tabGet_ins_same (d : α) (k : Nat) (a : α) (t : Tab α) : tabGet (tabIns k a t) d k = a := by simp [tabGet]
@[simp] theorem tabGet_del_same (d : α) (k : Nat) (t : Tab α) : tabGet (tabDel k t) d k = d := by simp [tabGet]

@[simp] theorem tabGet_put_same [DecidableEq α] (t : Tab α) (d : α) (k : Nat) (a : α) : tabGet (tabPut t d k a) d k = a := by
  unfold tabPut
  split
  · next h => simp [h]
  · simp

theorem tabGet_put_ne [DecidableEq α] (t : Tab α) (d : α) {k j : Nat} (a : α) (h : j ≠ k) (d' : α) :
    tabGet (tabPut t d k a) d' j = tabGet t d' j := by
  unfold tabPut tabGet
  split
  · rw [tabFind_del_ne h]
  · rw [tabFind_ins_ne h]

theorem tabGet_put [DecidableEq α] (t : Tab α) (d : α) (k j : Nat) (a : α) :
    tabGet (tabPut t d k a) d j = if j = k then a else tabGet t d j := by
  split
  · next h => subst h; simp
  · next h => exact tabGet_put_ne t d a h d

/-! ## The canonical form -/

theorem tabDel_mem {k : Nat} {t : Tab α} {e : Nat × α} (h : e ∈ tabDel k t) : e ∈ t := by
  induction t with
  | nil => simp [tabDel] at h
  | cons x t ih =>
    obtain ⟨k', b⟩ := x
    unfold tabDel at h
    split at h
    · exact List.mem_cons_of_mem _ (ih h)
    · rcases List.mem_cons.mp h with rfl | h
      · exact List.mem_cons_self
      · exact List.mem_cons_of_mem _ (ih h)

theorem tabIns_mem {k : Nat} {a : α} {t : Tab α} {e : Nat × α} (h : e ∈ tabIns k a t) : e = (k, a) ∨ e ∈ t := by
  induction t with
  | nil => simpa [tabIns] using h
  | cons x t ih =>
    obtain ⟨k', b⟩ := x
    unfold tabIns at h
    split at h
    · simpa using h
    · split at h
      · rcases List.mem_cons.mp h with h | h
        · exact .inl h
        · exact .inr (List.mem_cons_of_mem _ h)
      · rcases List.mem_cons.mp h with rfl | h
        · exact .inr List.mem_cons_self
        · rcases ih h with h | h
          · exact .inl h
          · exact .inr (List.mem_cons_of_mem _ h)

theorem tabWf_cons [DecidableEq α] {d : α} {k : Nat} {a : α} {t : Tab α} :
    tabWf d ((k, a) :: t) = true ↔ a ≠ d ∧ (∀ e ∈ t, k < e.1) ∧ tabWf d t = true := by
  simp [tabWf, and_assoc]

theorem tabWf_del [DecidableEq α] {d : α} {t : Tab α} (k : Nat) (h : tabWf d t = true) : tabWf d (tabDel k t) = true := by
  induction t with
  | nil => simpa [tabDel] using h
  | cons x t ih =>
    obtain ⟨k', b⟩ := x
    obtain ⟨hb, hlt, ht⟩ := tabWf_cons.mp h
    unfold tabDel
    split
    · exact ih ht
    · exact tabWf_cons.mpr ⟨hb, fun e he => hlt e (tabDel_mem he), ih ht⟩

theorem tabWf_ins [DecidableEq α] {d : α} {t : Tab α} (k : Nat) {a : α} (ha : a ≠ d) (h : tabWf d t = true) :
    tabWf d (tabIns k a t) = true := by
  induction t with
  | nil => simp [tabIns, tabWf, ha]
  | cons x t ih =>
    obtain ⟨k', b⟩ := x
    obtain ⟨hb, hlt, ht⟩ := tabWf_cons.mp h
    unfold tabIns
    split
    · next hk =>
      refine tabWf_cons.mpr ⟨ha, fun e he => ?_, h⟩
      rcases List.mem_cons.mp he with rfl | he
      · exact hk
      · exact Nat.lt_trans hk (hlt e he)
    · split
      · next hk => subst hk; exact tabWf_cons.mpr ⟨ha, hlt, ht⟩
      · next h1 h2 =>
        refine tabWf_cons.mpr ⟨hb, fun e he => ?_, ih ht⟩
        rcases tabIns_mem he with rfl | he
        · show k' < k; omega
        · exact hlt e he

theorem tabWf_put [DecidableEq α] {d : α} {t : Tab α} (k : Nat) (a : α) (h : tabWf d t = true) : tabWf d (tabPut t d k a) = true := by
  unfold tabPut
  split
  · exact tabWf_del k h
  · next ha => exact tabWf_ins k ha h

theorem tabWf_filter [DecidableEq α] {d : α} {t : Tab α} (p : Nat × α → Bool) (h : tabWf d t = true) : tabWf d (t.filter p) = true := by
  induction t with
  | nil => simpa using h
  | cons x t ih =>
    obtain ⟨k', b⟩ := x
    obtain ⟨hb, hlt, ht⟩ := tabWf_cons.mp h
    simp only [List.filter_cons]
    split
    · exact tabWf_cons.mpr ⟨hb, fun e he => hlt e (List.mem_filter.mp he).1, ih ht⟩
    · exact ih ht

end Sys2Proof.Machine
end

