-- ==== Sys2Proof/Laws/Regs.lean ====
section
/-! SUPPORT. Laws/Regs.lean: bit fields of a word, and reading a register's copy after writing one. -/
namespace Sys2Proof.Machine
open Sys2Proof

/-! ## Numbers and fields -/

theorem fld_lt (v lo w : Nat) : fld v lo w < 2 ^ w := Nat.mod_lt _ (Nat.two_pow_pos w)

theorem fld_eq_div (v lo w : Nat) : fld v lo w = v / 2 ^ lo % 2 ^ w := by
  simp [fld, Nat.shiftRight_eq_div_pow]

/-- A number is its bits above a field, the field, and its bits below. -/
theorem fld_split (v lo w : Nat) : v = v / 2 ^ (lo + w) * 2 ^ (lo + w) + fld v lo w * 2 ^ lo + v % 2 ^ lo := by
  have h1 := Nat.div_add_mod v (2 ^ lo)
  have h2 := Nat.div_add_mod (v / 2 ^ lo) (2 ^ w)
  have h3 : v / 2 ^ lo / 2 ^ w = v / 2 ^ (lo + w) := by rw [Nat.div_div_eq_div_mul, Nat.pow_add]
  rw [fld_eq_div, Nat.pow_add]
  rw [h3] at h2
  calc v = 2 ^ lo * (v / 2 ^ lo) + v % 2 ^ lo := h1.symm
    _ = 2 ^ lo * (2 ^ w * (v / 2 ^ (lo + w)) + v / 2 ^ lo % 2 ^ w) + v % 2 ^ lo := by rw [h2]
    _ = _ := by rw [Nat.pow_add]; ring

theorem setFld_eq (v lo w x : Nat) :
    setFld v lo w x = v / 2 ^ (lo + w) * 2 ^ (lo + w) + (x % 2 ^ w) * 2 ^ lo + v % 2 ^ lo := by
  have h := fld_split v lo w
  unfold setFld
  omega

theorem setFld_lt {v lo w x n : Nat} (hv : v < 2 ^ n) (h : lo + w ≤ n) : setFld v lo w x < 2 ^ n := by
  rw [setFld_eq]
  have h1 : v / 2 ^ (lo + w) < 2 ^ (n - (lo + w)) := by
    rw [Nat.div_lt_iff_lt_mul (Nat.two_pow_pos _), ← Nat.pow_add]
    rwa [Nat.sub_add_cancel h]
  have h2 : x % 2 ^ w < 2 ^ w := Nat.mod_lt _ (Nat.two_pow_pos w)
  have h3 : v % 2 ^ lo < 2 ^ lo := Nat.mod_lt _ (Nat.two_pow_pos lo)
  have h4 : (x % 2 ^ w) * 2 ^ lo + v % 2 ^ lo < 2 ^ (lo + w) := by
    calc _ < (x % 2 ^ w) * 2 ^ lo + 2 ^ lo := by omega
      _ = (x % 2 ^ w + 1) * 2 ^ lo := by ring
      _ ≤ 2 ^ w * 2 ^ lo := Nat.mul_le_mul_right _ h2
      _ = 2 ^ (lo + w) := by rw [Nat.pow_add]; ring
  have h5 : (v / 2 ^ (lo + w) + 1) * 2 ^ (lo + w) ≤ 2 ^ n := by
    calc _ ≤ 2 ^ (n - (lo + w)) * 2 ^ (lo + w) := Nat.mul_le_mul_right _ h1
      _ = 2 ^ n := by rw [← Nat.pow_add, Nat.sub_add_cancel h]
  have h6 : (v / 2 ^ (lo + w) + 1) * 2 ^ (lo + w) = v / 2 ^ (lo + w) * 2 ^ (lo + w) + 2 ^ (lo + w) := by ring
  omega

theorem fld_setFld_same (v lo w x : Nat) : fld (setFld v lo w x) lo w = x % 2 ^ w := by
  rw [fld_eq_div, setFld_eq]
  have h3 : v % 2 ^ lo < 2 ^ lo := Nat.mod_lt _ (Nat.two_pow_pos lo)
  have : v / 2 ^ (lo + w) * 2 ^ (lo + w) + x % 2 ^ w * 2 ^ lo + v % 2 ^ lo =
      v % 2 ^ lo + 2 ^ lo * (v / 2 ^ (lo + w) * 2 ^ w + x % 2 ^ w) := by rw [Nat.pow_add]; ring
  rw [this, Nat.add_mul_div_left _ _ (Nat.two_pow_pos lo), Nat.div_eq_of_lt h3, Nat.zero_add, Nat.mul_add_mod']
  exact Nat.mod_mod _ _

/-- A field keeps its value when a disjoint one is set. -/
theorem fld_setFld_ne (v lo w x lo' w' : Nat) (h : lo' + w' ≤ lo ∨ lo + w ≤ lo') : fld (setFld v lo w x) lo' w' = fld v lo' w' := by
  rw [fld_eq_div, fld_eq_div, setFld_eq]
  rcases h with h | h
  · have e : ∀ y, (v / 2 ^ (lo + w) * 2 ^ (lo + w) + y * 2 ^ lo + v % 2 ^ lo) / 2 ^ lo' % 2 ^ w' = v % 2 ^ lo / 2 ^ lo' % 2 ^ w' := by
      intro y
      obtain ⟨k, rfl⟩ := Nat.exists_eq_add_of_le h
      have : v / 2 ^ (lo' + w' + k + w) * 2 ^ (lo' + w' + k + w) + y * 2 ^ (lo' + w' + k) + v % 2 ^ (lo' + w' + k) =
          v % 2 ^ (lo' + w' + k) + 2 ^ lo' * (2 ^ w' * (v / 2 ^ (lo' + w' + k + w) * 2 ^ (k + w) + y * 2 ^ k)) := by
        rw [show lo' + w' + k + w = lo' + (w' + (k + w)) by ring, show lo' + w' + k = lo' + (w' + k) by ring]
        simp only [Nat.pow_add]; ring
      rw [this, Nat.add_mul_div_left _ _ (Nat.two_pow_pos lo'), Nat.add_mul_mod_self_left]
    rw [e]
    have := e (fld v lo w)
    rw [← fld_split v lo w] at this
    exact this.symm
  · obtain ⟨k, rfl⟩ := Nat.exists_eq_add_of_le h
    have h4 : ∀ y, y < 2 ^ w → y * 2 ^ lo + v % 2 ^ lo < 2 ^ (lo + w) := by
      intro y hy
      have h3 : v % 2 ^ lo < 2 ^ lo := Nat.mod_lt _ (Nat.two_pow_pos lo)
      calc _ < y * 2 ^ lo + 2 ^ lo := by omega
        _ = (y + 1) * 2 ^ lo := by ring
        _ ≤ 2 ^ w * 2 ^ lo := Nat.mul_le_mul_right _ hy
        _ = 2 ^ (lo + w) := by rw [Nat.pow_add]; ring
    have e : ∀ y, y < 2 ^ w → (v / 2 ^ (lo + w) * 2 ^ (lo + w) + y * 2 ^ lo + v % 2 ^ lo) / 2 ^ (lo + w + k) = v / 2 ^ (lo + w) / 2 ^ k := by
      intro y hy
      have hs : v / 2 ^ (lo + w) * 2 ^ (lo + w) + y * 2 ^ lo + v % 2 ^ lo = (y * 2 ^ lo + v % 2 ^ lo) + 2 ^ (lo + w) * (v / 2 ^ (lo + w)) := by ring
      rw [Nat.pow_add 2 (lo + w) k, ← Nat.div_div_eq_div_mul, hs, Nat.add_mul_div_left _ _ (Nat.two_pow_pos _), Nat.div_eq_of_lt (h4 y hy), Nat.zero_add]
    rw [e _ (Nat.mod_lt _ (Nat.two_pow_pos w))]
    have := e (fld v lo w) (fld_lt v lo w)
    rw [← fld_split v lo w] at this
    rw [← this]

theorem wf_wset_same (v : Word) (lo w x : Nat) (h : lo + w ≤ 64) : wf (wset v lo w x) lo w = x % 2 ^ w := by
  unfold wf wset
  rw [BitVec.toNat_ofNat, Nat.mod_eq_of_lt (setFld_lt v.isLt h), fld_setFld_same]

theorem wf_wset_ne (v : Word) (lo w x lo' w' : Nat) (h : lo + w ≤ 64) (hd : lo' + w' ≤ lo ∨ lo + w ≤ lo') :
    wf (wset v lo w x) lo' w' = wf v lo' w' := by
  unfold wf wset
  rw [BitVec.toNat_ofNat, Nat.mod_eq_of_lt (setFld_lt v.isLt h), fld_setFld_ne _ _ _ _ _ _ hd]

theorem wbit_wsetBit_same (v : Word) (i : Nat) (b : Bool) (h : i < 64) : wbit (wsetBit v i b) i = b := by
  cases b <;> simp [wbit, wsetBit, h]

theorem wbit_wsetBit_ne (v : Word) (i j : Nat) (b : Bool) (h : j ≠ i) : wbit (wsetBit v i b) j = wbit v j := by
  cases b
  · simp only [wbit, wsetBit, Bool.false_eq_true, if_false, BitVec.getLsbD_and, BitVec.getLsbD_not, BitVec.getLsbD_shiftLeft]
    by_cases hj : j < 64
    · by_cases hi : j < i
      · simp [hj, hi]
      · have : j - i ≠ 0 := by omega
        simp [hj, hi, this]
    · simp [BitVec.getLsbD_of_ge v j (by omega)]
  · simp only [wbit, wsetBit, if_true, BitVec.getLsbD_or, BitVec.getLsbD_shiftLeft]
    by_cases hi : j < i
    · simp [hi]
    · have : j - i ≠ 0 := by omega
      simp [this]

/-! ## Registers -/

theorem Reg.code_index (r : Reg) : allRegs[r.code]? = some r := by cases r <;> rfl

theorem Reg.code_lt (r : Reg) : r.code < 512 := by cases r <;> decide

theorem Reg.code_inj {r r' : Reg} (h : r.code = r'.code) : r = r' := by
  have h1 := r.code_index
  rw [h, r'.code_index] at h1
  exact (Option.some.inj h1).symm

theorem regKey_inj {r r' : Reg} {i i' : Nat} (h : regKey r i = regKey r' i') : r = r' ∧ i = i' := by
  have h1 := r.code_lt
  have h2 := r'.code_lt
  unfold regKey at h
  exact ⟨Reg.code_inj (by omega), by omega⟩

@[simp] theorem Dev.reg_setReg_same (d : Dev) (r : Reg) (i : Nat) (v : Word) : (d.setReg r i v).reg r i = v := by
  simp [Dev.reg, Dev.setReg]

theorem Dev.reg_setReg_ne (d : Dev) {r r' : Reg} {i i' : Nat} (v : Word) (h : r' ≠ r ∨ i' ≠ i) : (d.setReg r i v).reg r' i' = d.reg r' i' := by
  have hk : regKey r' i' ≠ regKey r i := fun e => by
    obtain ⟨h1, h2⟩ := regKey_inj e
    rcases h with h | h
    · exact h h1
    · exact h h2
  simp only [Dev.reg, Dev.setReg]
  exact tabGet_put_ne _ _ _ hk _

theorem Dev.reg_setReg (d : Dev) (r r' : Reg) (i i' : Nat) (v : Word) :
    (d.setReg r i v).reg r' i' = if r' = r ∧ i' = i then v else d.reg r' i' := by
  split
  · next h => obtain ⟨rfl, rfl⟩ := h; simp
  · next h => exact d.reg_setReg_ne v (by tauto)

@[simp] theorem Dev.reg_resetReg_same (d : Dev) (r : Reg) (i : Nat) : (d.resetReg r i).reg r i = r.resetAt i := by
  simp [Dev.reg, Dev.resetReg]

theorem Dev.rf_setRf_same (d : Dev) (r : Reg) (i lo w x : Nat) (h : lo + w ≤ 64) : (d.setRf r i lo w x).rf r i lo w = x % 2 ^ w := by
  simp [Dev.rf, Dev.setRf, wf_wset_same _ _ _ _ h]

theorem Dev.rb_setRb_same (d : Dev) (r : Reg) (i lo : Nat) (b : Bool) (h : lo < 64) : (d.setRb r i lo b).rb r i lo = b := by
  simp [Dev.rb, Dev.setRb, wbit_wsetBit_same _ _ _ h]

theorem Dev.rb_setRb_ne (d : Dev) (r : Reg) (i lo lo' : Nat) (b : Bool) (h : lo' ≠ lo) : (d.setRb r i lo b).rb r i lo' = d.rb r i lo' := by
  simp [Dev.rb, Dev.setRb, wbit_wsetBit_ne _ _ _ _ h]

theorem Dev.reg_setRf_ne (d : Dev) {r r' : Reg} {i i' : Nat} (lo w x : Nat) (h : r' ≠ r ∨ i' ≠ i) : (d.setRf r i lo w x).reg r' i' = d.reg r' i' :=
  d.reg_setReg_ne _ h

theorem Dev.reg_setRb_ne (d : Dev) {r r' : Reg} {i i' : Nat} (lo : Nat) (b : Bool) (h : r' ≠ r ∨ i' ≠ i) : (d.setRb r i lo b).reg r' i' = d.reg r' i' :=
  d.reg_setReg_ne _ h

end Sys2Proof.Machine
end

