-- ==== Sys2Proof/Laws/State.lean ====
section
/-! SUPPORT. Laws/State.lean: what the basic updates of the device leave as it is: one lemma per field per update. -/
namespace Sys2Proof.Machine
open Sys2Proof

/-! ## setReg -/

@[simp] theorem Dev.setReg_mem (d : Dev) (r : Reg) (i : Nat) (v : Word) : (d.setReg r i v).mem = d.mem := rfl
@[simp] theorem Dev.setReg_thr (d : Dev) (r : Reg) (i : Nat) (v : Word) : (d.setReg r i v).thr = d.thr := rfl
@[simp] theorem Dev.setReg_cores (d : Dev) (r : Reg) (i : Nat) (v : Word) : (d.setReg r i v).cores = d.cores := rfl
@[simp] theorem Dev.setReg_time (d : Dev) (r : Reg) (i : Nat) (v : Word) : (d.setReg r i v).time = d.time := rfl
@[simp] theorem Dev.setReg_pkt (d : Dev) (r : Reg) (i : Nat) (v : Word) : (d.setReg r i v).pkt = d.pkt := rfl
@[simp] theorem Dev.setReg_keys (d : Dev) (r : Reg) (i : Nat) (v : Word) : (d.setReg r i v).keys = d.keys := rfl
@[simp] theorem Dev.setReg_dma (d : Dev) (r : Reg) (i : Nat) (v : Word) : (d.setReg r i v).dma = d.dma := rfl
@[simp] theorem Dev.setReg_host (d : Dev) (r : Reg) (i : Nat) (v : Word) : (d.setReg r i v).host = d.host := rfl
@[simp] theorem Dev.setReg_ptn (d : Dev) (r : Reg) (i : Nat) (v : Word) : (d.setReg r i v).ptn = d.ptn := rfl
@[simp] theorem Dev.setReg_fw (d : Dev) (r : Reg) (i : Nat) (v : Word) : (d.setReg r i v).fw = d.fw := rfl
@[simp] theorem Dev.setReg_flt (d : Dev) (r : Reg) (i : Nat) (v : Word) : (d.setReg r i v).flt = d.flt := rfl
@[simp] theorem Dev.setReg_dpx (d : Dev) (r : Reg) (i : Nat) (v : Word) : (d.setReg r i v).dpx = d.dpx := rfl
@[simp] theorem Dev.setReg_cnt (d : Dev) (r : Reg) (i : Nat) (v : Word) : (d.setReg r i v).cnt = d.cnt := rfl
@[simp] theorem Dev.setReg_relPend (d : Dev) (r : Reg) (i : Nat) (v : Word) : (d.setReg r i v).relPend = d.relPend := rfl
@[simp] theorem Dev.setReg_life (d : Dev) (r : Reg) (i : Nat) (v : Word) : (d.setReg r i v).life = d.life := rfl
@[simp] theorem Dev.setReg_board (d : Dev) (r : Reg) (i : Nat) (v : Word) : (d.setReg r i v).board = d.board := rfl
@[simp] theorem Dev.setReg_boot (d : Dev) (r : Reg) (i : Nat) (v : Word) : (d.setReg r i v).boot = d.boot := rfl
@[simp] theorem Dev.setReg_outs (d : Dev) (r : Reg) (i : Nat) (v : Word) : (d.setReg r i v).outs = d.outs := rfl
@[simp] theorem Dev.setReg_free (d : Dev) (r : Reg) (i : Nat) (v : Word) : (d.setReg r i v).free = d.free := rfl
@[simp] theorem Dev.setReg_thread (d : Dev) (r : Reg) (i : Nat) (v : Word) (u : Nat) : (d.setReg r i v).thread u = d.thread u := rfl
@[simp] theorem Dev.setReg_byte (d : Dev) (r : Reg) (i : Nat) (v : Word) (a : Nat) : (d.setReg r i v).byte a = d.byte a := rfl
@[simp] theorem Dev.setReg_powered (d : Dev) (r : Reg) (i : Nat) (v : Word) : (d.setReg r i v).powered = d.powered := rfl

/-! ## setRf -/

@[simp] theorem Dev.setRf_mem (d : Dev) (r : Reg) (i lo w x : Nat) : (d.setRf r i lo w x).mem = d.mem := rfl
@[simp] theorem Dev.setRf_thr (d : Dev) (r : Reg) (i lo w x : Nat) : (d.setRf r i lo w x).thr = d.thr := rfl
@[simp] theorem Dev.setRf_cores (d : Dev) (r : Reg) (i lo w x : Nat) : (d.setRf r i lo w x).cores = d.cores := rfl
@[simp] theorem Dev.setRf_time (d : Dev) (r : Reg) (i lo w x : Nat) : (d.setRf r i lo w x).time = d.time := rfl
@[simp] theorem Dev.setRf_pkt (d : Dev) (r : Reg) (i lo w x : Nat) : (d.setRf r i lo w x).pkt = d.pkt := rfl
@[simp] theorem Dev.setRf_keys (d : Dev) (r : Reg) (i lo w x : Nat) : (d.setRf r i lo w x).keys = d.keys := rfl
@[simp] theorem Dev.setRf_dma (d : Dev) (r : Reg) (i lo w x : Nat) : (d.setRf r i lo w x).dma = d.dma := rfl
@[simp] theorem Dev.setRf_host (d : Dev) (r : Reg) (i lo w x : Nat) : (d.setRf r i lo w x).host = d.host := rfl
@[simp] theorem Dev.setRf_ptn (d : Dev) (r : Reg) (i lo w x : Nat) : (d.setRf r i lo w x).ptn = d.ptn := rfl
@[simp] theorem Dev.setRf_fw (d : Dev) (r : Reg) (i lo w x : Nat) : (d.setRf r i lo w x).fw = d.fw := rfl
@[simp] theorem Dev.setRf_flt (d : Dev) (r : Reg) (i lo w x : Nat) : (d.setRf r i lo w x).flt = d.flt := rfl
@[simp] theorem Dev.setRf_dpx (d : Dev) (r : Reg) (i lo w x : Nat) : (d.setRf r i lo w x).dpx = d.dpx := rfl
@[simp] theorem Dev.setRf_cnt (d : Dev) (r : Reg) (i lo w x : Nat) : (d.setRf r i lo w x).cnt = d.cnt := rfl
@[simp] theorem Dev.setRf_relPend (d : Dev) (r : Reg) (i lo w x : Nat) : (d.setRf r i lo w x).relPend = d.relPend := rfl
@[simp] theorem Dev.setRf_life (d : Dev) (r : Reg) (i lo w x : Nat) : (d.setRf r i lo w x).life = d.life := rfl
@[simp] theorem Dev.setRf_board (d : Dev) (r : Reg) (i lo w x : Nat) : (d.setRf r i lo w x).board = d.board := rfl
@[simp] theorem Dev.setRf_boot (d : Dev) (r : Reg) (i lo w x : Nat) : (d.setRf r i lo w x).boot = d.boot := rfl
@[simp] theorem Dev.setRf_outs (d : Dev) (r : Reg) (i lo w x : Nat) : (d.setRf r i lo w x).outs = d.outs := rfl
@[simp] theorem Dev.setRf_free (d : Dev) (r : Reg) (i lo w x : Nat) : (d.setRf r i lo w x).free = d.free := rfl
@[simp] theorem Dev.setRf_thread (d : Dev) (r : Reg) (i lo w x : Nat) (u : Nat) : (d.setRf r i lo w x).thread u = d.thread u := rfl
@[simp] theorem Dev.setRf_byte (d : Dev) (r : Reg) (i lo w x : Nat) (a : Nat) : (d.setRf r i lo w x).byte a = d.byte a := rfl
@[simp] theorem Dev.setRf_powered (d : Dev) (r : Reg) (i lo w x : Nat) : (d.setRf r i lo w x).powered = d.powered := rfl

/-! ## setRb -/

@[simp] theorem Dev.setRb_mem (d : Dev) (r : Reg) (i lo : Nat) (b : Bool) : (d.setRb r i lo b).mem = d.mem := rfl
@[simp] theorem Dev.setRb_thr (d : Dev) (r : Reg) (i lo : Nat) (b : Bool) : (d.setRb r i lo b).thr = d.thr := rfl
@[simp] theorem Dev.setRb_cores (d : Dev) (r : Reg) (i lo : Nat) (b : Bool) : (d.setRb r i lo b).cores = d.cores := rfl
@[simp] theorem Dev.setRb_time (d : Dev) (r : Reg) (i lo : Nat) (b : Bool) : (d.setRb r i lo b).time = d.time := rfl
@[simp] theorem Dev.setRb_pkt (d : Dev) (r : Reg) (i lo : Nat) (b : Bool) : (d.setRb r i lo b).pkt = d.pkt := rfl
@[simp] theorem Dev.setRb_keys (d : Dev) (r : Reg) (i lo : Nat) (b : Bool) : (d.setRb r i lo b).keys = d.keys := rfl
@[simp] theorem Dev.setRb_dma (d : Dev) (r : Reg) (i lo : Nat) (b : Bool) : (d.setRb r i lo b).dma = d.dma := rfl
@[simp] theorem Dev.setRb_host (d : Dev) (r : Reg) (i lo : Nat) (b : Bool) : (d.setRb r i lo b).host = d.host := rfl
@[simp] theorem Dev.setRb_ptn (d : Dev) (r : Reg) (i lo : Nat) (b : Bool) : (d.setRb r i lo b).ptn = d.ptn := rfl
@[simp] theorem Dev.setRb_fw (d : Dev) (r : Reg) (i lo : Nat) (b : Bool) : (d.setRb r i lo b).fw = d.fw := rfl
@[simp] theorem Dev.setRb_flt (d : Dev) (r : Reg) (i lo : Nat) (b : Bool) : (d.setRb r i lo b).flt = d.flt := rfl
@[simp] theorem Dev.setRb_dpx (d : Dev) (r : Reg) (i lo : Nat) (b : Bool) : (d.setRb r i lo b).dpx = d.dpx := rfl
@[simp] theorem Dev.setRb_cnt (d : Dev) (r : Reg) (i lo : Nat) (b : Bool) : (d.setRb r i lo b).cnt = d.cnt := rfl
@[simp] theorem Dev.setRb_relPend (d : Dev) (r : Reg) (i lo : Nat) (b : Bool) : (d.setRb r i lo b).relPend = d.relPend := rfl
@[simp] theorem Dev.setRb_life (d : Dev) (r : Reg) (i lo : Nat) (b : Bool) : (d.setRb r i lo b).life = d.life := rfl
@[simp] theorem Dev.setRb_board (d : Dev) (r : Reg) (i lo : Nat) (b : Bool) : (d.setRb r i lo b).board = d.board := rfl
@[simp] theorem Dev.setRb_boot (d : Dev) (r : Reg) (i lo : Nat) (b : Bool) : (d.setRb r i lo b).boot = d.boot := rfl
@[simp] theorem Dev.setRb_outs (d : Dev) (r : Reg) (i lo : Nat) (b : Bool) : (d.setRb r i lo b).outs = d.outs := rfl
@[simp] theorem Dev.setRb_free (d : Dev) (r : Reg) (i lo : Nat) (b : Bool) : (d.setRb r i lo b).free = d.free := rfl
@[simp] theorem Dev.setRb_thread (d : Dev) (r : Reg) (i lo : Nat) (b : Bool) (u : Nat) : (d.setRb r i lo b).thread u = d.thread u := rfl
@[simp] theorem Dev.setRb_byte (d : Dev) (r : Reg) (i lo : Nat) (b : Bool) (a : Nat) : (d.setRb r i lo b).byte a = d.byte a := rfl
@[simp] theorem Dev.setRb_powered (d : Dev) (r : Reg) (i lo : Nat) (b : Bool) : (d.setRb r i lo b).powered = d.powered := rfl

/-! ## incRf -/

@[simp] theorem Dev.incRf_mem (d : Dev) (r : Reg) (i lo w n : Nat) : (d.incRf r i lo w n).mem = d.mem := rfl
@[simp] theorem Dev.incRf_thr (d : Dev) (r : Reg) (i lo w n : Nat) : (d.incRf r i lo w n).thr = d.thr := rfl
@[simp] theorem Dev.incRf_cores (d : Dev) (r : Reg) (i lo w n : Nat) : (d.incRf r i lo w n).cores = d.cores := rfl
@[simp] theorem Dev.incRf_time (d : Dev) (r : Reg) (i lo w n : Nat) : (d.incRf r i lo w n).time = d.time := rfl
@[simp] theorem Dev.incRf_pkt (d : Dev) (r : Reg) (i lo w n : Nat) : (d.incRf r i lo w n).pkt = d.pkt := rfl
@[simp] theorem Dev.incRf_keys (d : Dev) (r : Reg) (i lo w n : Nat) : (d.incRf r i lo w n).keys = d.keys := rfl
@[simp] theorem Dev.incRf_dma (d : Dev) (r : Reg) (i lo w n : Nat) : (d.incRf r i lo w n).dma = d.dma := rfl
@[simp] theorem Dev.incRf_host (d : Dev) (r : Reg) (i lo w n : Nat) : (d.incRf r i lo w n).host = d.host := rfl
@[simp] theorem Dev.incRf_ptn (d : Dev) (r : Reg) (i lo w n : Nat) : (d.incRf r i lo w n).ptn = d.ptn := rfl
@[simp] theorem Dev.incRf_fw (d : Dev) (r : Reg) (i lo w n : Nat) : (d.incRf r i lo w n).fw = d.fw := rfl
@[simp] theorem Dev.incRf_flt (d : Dev) (r : Reg) (i lo w n : Nat) : (d.incRf r i lo w n).flt = d.flt := rfl
@[simp] theorem Dev.incRf_dpx (d : Dev) (r : Reg) (i lo w n : Nat) : (d.incRf r i lo w n).dpx = d.dpx := rfl
@[simp] theorem Dev.incRf_cnt (d : Dev) (r : Reg) (i lo w n : Nat) : (d.incRf r i lo w n).cnt = d.cnt := rfl
@[simp] theorem Dev.incRf_relPend (d : Dev) (r : Reg) (i lo w n : Nat) : (d.incRf r i lo w n).relPend = d.relPend := rfl
@[simp] theorem Dev.incRf_life (d : Dev) (r : Reg) (i lo w n : Nat) : (d.incRf r i lo w n).life = d.life := rfl
@[simp] theorem Dev.incRf_board (d : Dev) (r : Reg) (i lo w n : Nat) : (d.incRf r i lo w n).board = d.board := rfl
@[simp] theorem Dev.incRf_boot (d : Dev) (r : Reg) (i lo w n : Nat) : (d.incRf r i lo w n).boot = d.boot := rfl
@[simp] theorem Dev.incRf_outs (d : Dev) (r : Reg) (i lo w n : Nat) : (d.incRf r i lo w n).outs = d.outs := rfl
@[simp] theorem Dev.incRf_free (d : Dev) (r : Reg) (i lo w n : Nat) : (d.incRf r i lo w n).free = d.free := rfl
@[simp] theorem Dev.incRf_thread (d : Dev) (r : Reg) (i lo w n : Nat) (u : Nat) : (d.incRf r i lo w n).thread u = d.thread u := rfl
@[simp] theorem Dev.incRf_byte (d : Dev) (r : Reg) (i lo w n : Nat) (a : Nat) : (d.incRf r i lo w n).byte a = d.byte a := rfl
@[simp] theorem Dev.incRf_powered (d : Dev) (r : Reg) (i lo w n : Nat) : (d.incRf r i lo w n).powered = d.powered := rfl

/-! ## resetReg -/

@[simp] theorem Dev.resetReg_mem (d : Dev) (r : Reg) (i : Nat) : (d.resetReg r i).mem = d.mem := rfl
@[simp] theorem Dev.resetReg_thr (d : Dev) (r : Reg) (i : Nat) : (d.resetReg r i).thr = d.thr := rfl
@[simp] theorem Dev.resetReg_cores (d : Dev) (r : Reg) (i : Nat) : (d.resetReg r i).cores = d.cores := rfl
@[simp] theorem Dev.resetReg_time (d : Dev) (r : Reg) (i : Nat) : (d.resetReg r i).time = d.time := rfl
@[simp] theorem Dev.resetReg_pkt (d : Dev) (r : Reg) (i : Nat) : (d.resetReg r i).pkt = d.pkt := rfl
@[simp] theorem Dev.resetReg_keys (d : Dev) (r : Reg) (i : Nat) : (d.resetReg r i).keys = d.keys := rfl
@[simp] theorem Dev.resetReg_dma (d : Dev) (r : Reg) (i : Nat) : (d.resetReg r i).dma = d.dma := rfl
@[simp] theorem Dev.resetReg_host (d : Dev) (r : Reg) (i : Nat) : (d.resetReg r i).host = d.host := rfl
@[simp] theorem Dev.resetReg_ptn (d : Dev) (r : Reg) (i : Nat) : (d.resetReg r i).ptn = d.ptn := rfl
@[simp] theorem Dev.resetReg_fw (d : Dev) (r : Reg) (i : Nat) : (d.resetReg r i).fw = d.fw := rfl
@[simp] theorem Dev.resetReg_flt (d : Dev) (r : Reg) (i : Nat) : (d.resetReg r i).flt = d.flt := rfl
@[simp] theorem Dev.resetReg_dpx (d : Dev) (r : Reg) (i : Nat) : (d.resetReg r i).dpx = d.dpx := rfl
@[simp] theorem Dev.resetReg_cnt (d : Dev) (r : Reg) (i : Nat) : (d.resetReg r i).cnt = d.cnt := rfl
@[simp] theorem Dev.resetReg_relPend (d : Dev) (r : Reg) (i : Nat) : (d.resetReg r i).relPend = d.relPend := rfl
@[simp] theorem Dev.resetReg_life (d : Dev) (r : Reg) (i : Nat) : (d.resetReg r i).life = d.life := rfl
@[simp] theorem Dev.resetReg_board (d : Dev) (r : Reg) (i : Nat) : (d.resetReg r i).board = d.board := rfl
@[simp] theorem Dev.resetReg_boot (d : Dev) (r : Reg) (i : Nat) : (d.resetReg r i).boot = d.boot := rfl
@[simp] theorem Dev.resetReg_outs (d : Dev) (r : Reg) (i : Nat) : (d.resetReg r i).outs = d.outs := rfl
@[simp] theorem Dev.resetReg_free (d : Dev) (r : Reg) (i : Nat) : (d.resetReg r i).free = d.free := rfl
@[simp] theorem Dev.resetReg_thread (d : Dev) (r : Reg) (i : Nat) (u : Nat) : (d.resetReg r i).thread u = d.thread u := rfl
@[simp] theorem Dev.resetReg_byte (d : Dev) (r : Reg) (i : Nat) (a : Nat) : (d.resetReg r i).byte a = d.byte a := rfl
@[simp] theorem Dev.resetReg_powered (d : Dev) (r : Reg) (i : Nat) : (d.resetReg r i).powered = d.powered := rfl

/-! ## resetAll -/

@[simp] theorem Dev.resetAll_mem (d : Dev) (rs : List Reg) : (d.resetAll rs).mem = d.mem := rfl
@[simp] theorem Dev.resetAll_thr (d : Dev) (rs : List Reg) : (d.resetAll rs).thr = d.thr := rfl
@[simp] theorem Dev.resetAll_cores (d : Dev) (rs : List Reg) : (d.resetAll rs).cores = d.cores := rfl
@[simp] theorem Dev.resetAll_time (d : Dev) (rs : List Reg) : (d.resetAll rs).time = d.time := rfl
@[simp] theorem Dev.resetAll_pkt (d : Dev) (rs : List Reg) : (d.resetAll rs).pkt = d.pkt := rfl
@[simp] theorem Dev.resetAll_keys (d : Dev) (rs : List Reg) : (d.resetAll rs).keys = d.keys := rfl
@[simp] theorem Dev.resetAll_dma (d : Dev) (rs : List Reg) : (d.resetAll rs).dma = d.dma := rfl
@[simp] theorem Dev.resetAll_host (d : Dev) (rs : List Reg) : (d.resetAll rs).host = d.host := rfl
@[simp] theorem Dev.resetAll_ptn (d : Dev) (rs : List Reg) : (d.resetAll rs).ptn = d.ptn := rfl
@[simp] theorem Dev.resetAll_fw (d : Dev) (rs : List Reg) : (d.resetAll rs).fw = d.fw := rfl
@[simp] theorem Dev.resetAll_flt (d : Dev) (rs : List Reg) : (d.resetAll rs).flt = d.flt := rfl
@[simp] theorem Dev.resetAll_dpx (d : Dev) (rs : List Reg) : (d.resetAll rs).dpx = d.dpx := rfl
@[simp] theorem Dev.resetAll_cnt (d : Dev) (rs : List Reg) : (d.resetAll rs).cnt = d.cnt := rfl
@[simp] theorem Dev.resetAll_relPend (d : Dev) (rs : List Reg) : (d.resetAll rs).relPend = d.relPend := rfl
@[simp] theorem Dev.resetAll_life (d : Dev) (rs : List Reg) : (d.resetAll rs).life = d.life := rfl
@[simp] theorem Dev.resetAll_board (d : Dev) (rs : List Reg) : (d.resetAll rs).board = d.board := rfl
@[simp] theorem Dev.resetAll_boot (d : Dev) (rs : List Reg) : (d.resetAll rs).boot = d.boot := rfl
@[simp] theorem Dev.resetAll_outs (d : Dev) (rs : List Reg) : (d.resetAll rs).outs = d.outs := rfl
@[simp] theorem Dev.resetAll_free (d : Dev) (rs : List Reg) : (d.resetAll rs).free = d.free := rfl
@[simp] theorem Dev.resetAll_thread (d : Dev) (rs : List Reg) (u : Nat) : (d.resetAll rs).thread u = d.thread u := rfl
@[simp] theorem Dev.resetAll_byte (d : Dev) (rs : List Reg) (a : Nat) : (d.resetAll rs).byte a = d.byte a := rfl
@[simp] theorem Dev.resetAll_powered (d : Dev) (rs : List Reg) : (d.resetAll rs).powered = d.powered := rfl

/-! ## resetWhere -/

@[simp] theorem Dev.resetWhere_mem (d : Dev) (rs : List Reg) (p : Reg → Nat → Bool) : (d.resetWhere rs p).mem = d.mem := rfl
@[simp] theorem Dev.resetWhere_thr (d : Dev) (rs : List Reg) (p : Reg → Nat → Bool) : (d.resetWhere rs p).thr = d.thr := rfl
@[simp] theorem Dev.resetWhere_cores (d : Dev) (rs : List Reg) (p : Reg → Nat → Bool) : (d.resetWhere rs p).cores = d.cores := rfl
@[simp] theorem Dev.resetWhere_time (d : Dev) (rs : List Reg) (p : Reg → Nat → Bool) : (d.resetWhere rs p).time = d.time := rfl
@[simp] theorem Dev.resetWhere_pkt (d : Dev) (rs : List Reg) (p : Reg → Nat → Bool) : (d.resetWhere rs p).pkt = d.pkt := rfl
@[simp] theorem Dev.resetWhere_keys (d : Dev) (rs : List Reg) (p : Reg → Nat → Bool) : (d.resetWhere rs p).keys = d.keys := rfl
@[simp] theorem Dev.resetWhere_dma (d : Dev) (rs : List Reg) (p : Reg → Nat → Bool) : (d.resetWhere rs p).dma = d.dma := rfl
@[simp] theorem Dev.resetWhere_host (d : Dev) (rs : List Reg) (p : Reg → Nat → Bool) : (d.resetWhere rs p).host = d.host := rfl
@[simp] theorem Dev.resetWhere_ptn (d : Dev) (rs : List Reg) (p : Reg → Nat → Bool) : (d.resetWhere rs p).ptn = d.ptn := rfl
@[simp] theorem Dev.resetWhere_fw (d : Dev) (rs : List Reg) (p : Reg → Nat → Bool) : (d.resetWhere rs p).fw = d.fw := rfl
@[simp] theorem Dev.resetWhere_flt (d : Dev) (rs : List Reg) (p : Reg → Nat → Bool) : (d.resetWhere rs p).flt = d.flt := rfl
@[simp] theorem Dev.resetWhere_dpx (d : Dev) (rs : List Reg) (p : Reg → Nat → Bool) : (d.resetWhere rs p).dpx = d.dpx := rfl
@[simp] theorem Dev.resetWhere_cnt (d : Dev) (rs : List Reg) (p : Reg → Nat → Bool) : (d.resetWhere rs p).cnt = d.cnt := rfl
@[simp] theorem Dev.resetWhere_relPend (d : Dev) (rs : List Reg) (p : Reg → Nat → Bool) : (d.resetWhere rs p).relPend = d.relPend := rfl
@[simp] theorem Dev.resetWhere_life (d : Dev) (rs : List Reg) (p : Reg → Nat → Bool) : (d.resetWhere rs p).life = d.life := rfl
@[simp] theorem Dev.resetWhere_board (d : Dev) (rs : List Reg) (p : Reg → Nat → Bool) : (d.resetWhere rs p).board = d.board := rfl
@[simp] theorem Dev.resetWhere_boot (d : Dev) (rs : List Reg) (p : Reg → Nat → Bool) : (d.resetWhere rs p).boot = d.boot := rfl
@[simp] theorem Dev.resetWhere_outs (d : Dev) (rs : List Reg) (p : Reg → Nat → Bool) : (d.resetWhere rs p).outs = d.outs := rfl
@[simp] theorem Dev.resetWhere_free (d : Dev) (rs : List Reg) (p : Reg → Nat → Bool) : (d.resetWhere rs p).free = d.free := rfl
@[simp] theorem Dev.resetWhere_thread (d : Dev) (rs : List Reg) (p : Reg → Nat → Bool) (u : Nat) : (d.resetWhere rs p).thread u = d.thread u := rfl
@[simp] theorem Dev.resetWhere_byte (d : Dev) (rs : List Reg) (p : Reg → Nat → Bool) (a : Nat) : (d.resetWhere rs p).byte a = d.byte a := rfl
@[simp] theorem Dev.resetWhere_powered (d : Dev) (rs : List Reg) (p : Reg → Nat → Bool) : (d.resetWhere rs p).powered = d.powered := rfl

/-! ## emit -/

@[simp] theorem Dev.emit_regs (d : Dev) (o : OutEv) : (d.emit o).regs = d.regs := rfl
@[simp] theorem Dev.emit_mem (d : Dev) (o : OutEv) : (d.emit o).mem = d.mem := rfl
@[simp] theorem Dev.emit_thr (d : Dev) (o : OutEv) : (d.emit o).thr = d.thr := rfl
@[simp] theorem Dev.emit_cores (d : Dev) (o : OutEv) : (d.emit o).cores = d.cores := rfl
@[simp] theorem Dev.emit_time (d : Dev) (o : OutEv) : (d.emit o).time = d.time := rfl
@[simp] theorem Dev.emit_pkt (d : Dev) (o : OutEv) : (d.emit o).pkt = d.pkt := rfl
@[simp] theorem Dev.emit_keys (d : Dev) (o : OutEv) : (d.emit o).keys = d.keys := rfl
@[simp] theorem Dev.emit_dma (d : Dev) (o : OutEv) : (d.emit o).dma = d.dma := rfl
@[simp] theorem Dev.emit_host (d : Dev) (o : OutEv) : (d.emit o).host = d.host := rfl
@[simp] theorem Dev.emit_ptn (d : Dev) (o : OutEv) : (d.emit o).ptn = d.ptn := rfl
@[simp] theorem Dev.emit_fw (d : Dev) (o : OutEv) : (d.emit o).fw = d.fw := rfl
@[simp] theorem Dev.emit_flt (d : Dev) (o : OutEv) : (d.emit o).flt = d.flt := rfl
@[simp] theorem Dev.emit_dpx (d : Dev) (o : OutEv) : (d.emit o).dpx = d.dpx := rfl
@[simp] theorem Dev.emit_cnt (d : Dev) (o : OutEv) : (d.emit o).cnt = d.cnt := rfl
@[simp] theorem Dev.emit_relPend (d : Dev) (o : OutEv) : (d.emit o).relPend = d.relPend := rfl
@[simp] theorem Dev.emit_life (d : Dev) (o : OutEv) : (d.emit o).life = d.life := rfl
@[simp] theorem Dev.emit_board (d : Dev) (o : OutEv) : (d.emit o).board = d.board := rfl
@[simp] theorem Dev.emit_boot (d : Dev) (o : OutEv) : (d.emit o).boot = d.boot := rfl
@[simp] theorem Dev.emit_free (d : Dev) (o : OutEv) : (d.emit o).free = d.free := rfl
@[simp] theorem Dev.emit_reg (d : Dev) (o : OutEv) (q : Reg) (j : Nat) : (d.emit o).reg q j = d.reg q j := rfl
@[simp] theorem Dev.emit_rf (d : Dev) (o : OutEv) (q : Reg) (j l m : Nat) : (d.emit o).rf q j l m = d.rf q j l m := rfl
@[simp] theorem Dev.emit_rb (d : Dev) (o : OutEv) (q : Reg) (j l : Nat) : (d.emit o).rb q j l = d.rb q j l := rfl
@[simp] theorem Dev.emit_thread (d : Dev) (o : OutEv) (u : Nat) : (d.emit o).thread u = d.thread u := rfl
@[simp] theorem Dev.emit_byte (d : Dev) (o : OutEv) (a : Nat) : (d.emit o).byte a = d.byte a := rfl
@[simp] theorem Dev.emit_live (d : Dev) (o : OutEv) : (d.emit o).live = d.live := rfl
@[simp] theorem Dev.emit_powered (d : Dev) (o : OutEv) : (d.emit o).powered = d.powered := rfl

/-! ## countBy -/

@[simp] theorem Dev.countBy_regs (d : Dev) (e n : Nat) : (d.countBy e n).regs = d.regs := rfl
@[simp] theorem Dev.countBy_mem (d : Dev) (e n : Nat) : (d.countBy e n).mem = d.mem := rfl
@[simp] theorem Dev.countBy_thr (d : Dev) (e n : Nat) : (d.countBy e n).thr = d.thr := rfl
@[simp] theorem Dev.countBy_cores (d : Dev) (e n : Nat) : (d.countBy e n).cores = d.cores := rfl
@[simp] theorem Dev.countBy_time (d : Dev) (e n : Nat) : (d.countBy e n).time = d.time := rfl
@[simp] theorem Dev.countBy_pkt (d : Dev) (e n : Nat) : (d.countBy e n).pkt = d.pkt := rfl
@[simp] theorem Dev.countBy_keys (d : Dev) (e n : Nat) : (d.countBy e n).keys = d.keys := rfl
@[simp] theorem Dev.countBy_dma (d : Dev) (e n : Nat) : (d.countBy e n).dma = d.dma := rfl
@[simp] theorem Dev.countBy_host (d : Dev) (e n : Nat) : (d.countBy e n).host = d.host := rfl
@[simp] theorem Dev.countBy_ptn (d : Dev) (e n : Nat) : (d.countBy e n).ptn = d.ptn := rfl
@[simp] theorem Dev.countBy_fw (d : Dev) (e n : Nat) : (d.countBy e n).fw = d.fw := rfl
@[simp] theorem Dev.countBy_flt (d : Dev) (e n : Nat) : (d.countBy e n).flt = d.flt := rfl
@[simp] theorem Dev.countBy_dpx (d : Dev) (e n : Nat) : (d.countBy e n).dpx = d.dpx := rfl
@[simp] theorem Dev.countBy_relPend (d : Dev) (e n : Nat) : (d.countBy e n).relPend = d.relPend := rfl
@[simp] theorem Dev.countBy_life (d : Dev) (e n : Nat) : (d.countBy e n).life = d.life := rfl
@[simp] theorem Dev.countBy_board (d : Dev) (e n : Nat) : (d.countBy e n).board = d.board := rfl
@[simp] theorem Dev.countBy_boot (d : Dev) (e n : Nat) : (d.countBy e n).boot = d.boot := rfl
@[simp] theorem Dev.countBy_outs (d : Dev) (e n : Nat) : (d.countBy e n).outs = d.outs := rfl
@[simp] theorem Dev.countBy_free (d : Dev) (e n : Nat) : (d.countBy e n).free = d.free := rfl
@[simp] theorem Dev.countBy_reg (d : Dev) (e n : Nat) (q : Reg) (j : Nat) : (d.countBy e n).reg q j = d.reg q j := rfl
@[simp] theorem Dev.countBy_rf (d : Dev) (e n : Nat) (q : Reg) (j l m : Nat) : (d.countBy e n).rf q j l m = d.rf q j l m := rfl
@[simp] theorem Dev.countBy_rb (d : Dev) (e n : Nat) (q : Reg) (j l : Nat) : (d.countBy e n).rb q j l = d.rb q j l := rfl
@[simp] theorem Dev.countBy_thread (d : Dev) (e n : Nat) (u : Nat) : (d.countBy e n).thread u = d.thread u := rfl
@[simp] theorem Dev.countBy_byte (d : Dev) (e n : Nat) (a : Nat) : (d.countBy e n).byte a = d.byte a := rfl
@[simp] theorem Dev.countBy_live (d : Dev) (e n : Nat) : (d.countBy e n).live = d.live := rfl
@[simp] theorem Dev.countBy_powered (d : Dev) (e n : Nat) : (d.countBy e n).powered = d.powered := rfl

/-! ## count -/

@[simp] theorem Dev.count_regs (d : Dev) (e : Nat) : (d.count e).regs = d.regs := rfl
@[simp] theorem Dev.count_mem (d : Dev) (e : Nat) : (d.count e).mem = d.mem := rfl
@[simp] theorem Dev.count_thr (d : Dev) (e : Nat) : (d.count e).thr = d.thr := rfl
@[simp] theorem Dev.count_cores (d : Dev) (e : Nat) : (d.count e).cores = d.cores := rfl
@[simp] theorem Dev.count_time (d : Dev) (e : Nat) : (d.count e).time = d.time := rfl
@[simp] theorem Dev.count_pkt (d : Dev) (e : Nat) : (d.count e).pkt = d.pkt := rfl
@[simp] theorem Dev.count_keys (d : Dev) (e : Nat) : (d.count e).keys = d.keys := rfl
@[simp] theorem Dev.count_dma (d : Dev) (e : Nat) : (d.count e).dma = d.dma := rfl
@[simp] theorem Dev.count_host (d : Dev) (e : Nat) : (d.count e).host = d.host := rfl
@[simp] theorem Dev.count_ptn (d : Dev) (e : Nat) : (d.count e).ptn = d.ptn := rfl
@[simp] theorem Dev.count_fw (d : Dev) (e : Nat) : (d.count e).fw = d.fw := rfl
@[simp] theorem Dev.count_flt (d : Dev) (e : Nat) : (d.count e).flt = d.flt := rfl
@[simp] theorem Dev.count_dpx (d : Dev) (e : Nat) : (d.count e).dpx = d.dpx := rfl
@[simp] theorem Dev.count_relPend (d : Dev) (e : Nat) : (d.count e).relPend = d.relPend := rfl
@[simp] theorem Dev.count_life (d : Dev) (e : Nat) : (d.count e).life = d.life := rfl
@[simp] theorem Dev.count_board (d : Dev) (e : Nat) : (d.count e).board = d.board := rfl
@[simp] theorem Dev.count_boot (d : Dev) (e : Nat) : (d.count e).boot = d.boot := rfl
@[simp] theorem Dev.count_outs (d : Dev) (e : Nat) : (d.count e).outs = d.outs := rfl
@[simp] theorem Dev.count_free (d : Dev) (e : Nat) : (d.count e).free = d.free := rfl
@[simp] theorem Dev.count_reg (d : Dev) (e : Nat) (q : Reg) (j : Nat) : (d.count e).reg q j = d.reg q j := rfl
@[simp] theorem Dev.count_rf (d : Dev) (e : Nat) (q : Reg) (j l m : Nat) : (d.count e).rf q j l m = d.rf q j l m := rfl
@[simp] theorem Dev.count_rb (d : Dev) (e : Nat) (q : Reg) (j l : Nat) : (d.count e).rb q j l = d.rb q j l := rfl
@[simp] theorem Dev.count_thread (d : Dev) (e : Nat) (u : Nat) : (d.count e).thread u = d.thread u := rfl
@[simp] theorem Dev.count_byte (d : Dev) (e : Nat) (a : Nat) : (d.count e).byte a = d.byte a := rfl
@[simp] theorem Dev.count_live (d : Dev) (e : Nat) : (d.count e).live = d.live := rfl
@[simp] theorem Dev.count_powered (d : Dev) (e : Nat) : (d.count e).powered = d.powered := rfl

/-! ## setThread -/

@[simp] theorem Dev.setThread_regs (d : Dev) (k : Nat) (t : Thread) : (d.setThread k t).regs = d.regs := rfl
@[simp] theorem Dev.setThread_mem (d : Dev) (k : Nat) (t : Thread) : (d.setThread k t).mem = d.mem := rfl
@[simp] theorem Dev.setThread_cores (d : Dev) (k : Nat) (t : Thread) : (d.setThread k t).cores = d.cores := rfl
@[simp] theorem Dev.setThread_time (d : Dev) (k : Nat) (t : Thread) : (d.setThread k t).time = d.time := rfl
@[simp] theorem Dev.setThread_pkt (d : Dev) (k : Nat) (t : Thread) : (d.setThread k t).pkt = d.pkt := rfl
@[simp] theorem Dev.setThread_keys (d : Dev) (k : Nat) (t : Thread) : (d.setThread k t).keys = d.keys := rfl
@[simp] theorem Dev.setThread_dma (d : Dev) (k : Nat) (t : Thread) : (d.setThread k t).dma = d.dma := rfl
@[simp] theorem Dev.setThread_host (d : Dev) (k : Nat) (t : Thread) : (d.setThread k t).host = d.host := rfl
@[simp] theorem Dev.setThread_ptn (d : Dev) (k : Nat) (t : Thread) : (d.setThread k t).ptn = d.ptn := rfl
@[simp] theorem Dev.setThread_fw (d : Dev) (k : Nat) (t : Thread) : (d.setThread k t).fw = d.fw := rfl
@[simp] theorem Dev.setThread_flt (d : Dev) (k : Nat) (t : Thread) : (d.setThread k t).flt = d.flt := rfl
@[simp] theorem Dev.setThread_dpx (d : Dev) (k : Nat) (t : Thread) : (d.setThread k t).dpx = d.dpx := rfl
@[simp] theorem Dev.setThread_cnt (d : Dev) (k : Nat) (t : Thread) : (d.setThread k t).cnt = d.cnt := rfl
@[simp] theorem Dev.setThread_relPend (d : Dev) (k : Nat) (t : Thread) : (d.setThread k t).relPend = d.relPend := rfl
@[simp] theorem Dev.setThread_life (d : Dev) (k : Nat) (t : Thread) : (d.setThread k t).life = d.life := rfl
@[simp] theorem Dev.setThread_board (d : Dev) (k : Nat) (t : Thread) : (d.setThread k t).board = d.board := rfl
@[simp] theorem Dev.setThread_boot (d : Dev) (k : Nat) (t : Thread) : (d.setThread k t).boot = d.boot := rfl
@[simp] theorem Dev.setThread_outs (d : Dev) (k : Nat) (t : Thread) : (d.setThread k t).outs = d.outs := rfl
@[simp] theorem Dev.setThread_free (d : Dev) (k : Nat) (t : Thread) : (d.setThread k t).free = d.free := rfl
@[simp] theorem Dev.setThread_reg (d : Dev) (k : Nat) (t : Thread) (q : Reg) (j : Nat) : (d.setThread k t).reg q j = d.reg q j := rfl
@[simp] theorem Dev.setThread_rf (d : Dev) (k : Nat) (t : Thread) (q : Reg) (j l m : Nat) : (d.setThread k t).rf q j l m = d.rf q j l m := rfl
@[simp] theorem Dev.setThread_rb (d : Dev) (k : Nat) (t : Thread) (q : Reg) (j l : Nat) : (d.setThread k t).rb q j l = d.rb q j l := rfl
@[simp] theorem Dev.setThread_byte (d : Dev) (k : Nat) (t : Thread) (a : Nat) : (d.setThread k t).byte a = d.byte a := rfl
@[simp] theorem Dev.setThread_live (d : Dev) (k : Nat) (t : Thread) : (d.setThread k t).live = d.live := rfl
@[simp] theorem Dev.setThread_powered (d : Dev) (k : Nat) (t : Thread) : (d.setThread k t).powered = d.powered := rfl

/-! ## updThread -/

@[simp] theorem Dev.updThread_regs (d : Dev) (k : Nat) (f : Thread → Thread) : (d.updThread k f).regs = d.regs := rfl
@[simp] theorem Dev.updThread_mem (d : Dev) (k : Nat) (f : Thread → Thread) : (d.updThread k f).mem = d.mem := rfl
@[simp] theorem Dev.updThread_cores (d : Dev) (k : Nat) (f : Thread → Thread) : (d.updThread k f).cores = d.cores := rfl
@[simp] theorem Dev.updThread_time (d : Dev) (k : Nat) (f : Thread → Thread) : (d.updThread k f).time = d.time := rfl
@[simp] theorem Dev.updThread_pkt (d : Dev) (k : Nat) (f : Thread → Thread) : (d.updThread k f).pkt = d.pkt := rfl
@[simp] theorem Dev.updThread_keys (d : Dev) (k : Nat) (f : Thread → Thread) : (d.updThread k f).keys = d.keys := rfl
@[simp] theorem Dev.updThread_dma (d : Dev) (k : Nat) (f : Thread → Thread) : (d.updThread k f).dma = d.dma := rfl
@[simp] theorem Dev.updThread_host (d : Dev) (k : Nat) (f : Thread → Thread) : (d.updThread k f).host = d.host := rfl
@[simp] theorem Dev.updThread_ptn (d : Dev) (k : Nat) (f : Thread → Thread) : (d.updThread k f).ptn = d.ptn := rfl
@[simp] theorem Dev.updThread_fw (d : Dev) (k : Nat) (f : Thread → Thread) : (d.updThread k f).fw = d.fw := rfl
@[simp] theorem Dev.updThread_flt (d : Dev) (k : Nat) (f : Thread → Thread) : (d.updThread k f).flt = d.flt := rfl
@[simp] theorem Dev.updThread_dpx (d : Dev) (k : Nat) (f : Thread → Thread) : (d.updThread k f).dpx = d.dpx := rfl
@[simp] theorem Dev.updThread_cnt (d : Dev) (k : Nat) (f : Thread → Thread) : (d.updThread k f).cnt = d.cnt := rfl
@[simp] theorem Dev.updThread_relPend (d : Dev) (k : Nat) (f : Thread → Thread) : (d.updThread k f).relPend = d.relPend := rfl
@[simp] theorem Dev.updThread_life (d : Dev) (k : Nat) (f : Thread → Thread) : (d.updThread k f).life = d.life := rfl
@[simp] theorem Dev.updThread_board (d : Dev) (k : Nat) (f : Thread → Thread) : (d.updThread k f).board = d.board := rfl
@[simp] theorem Dev.updThread_boot (d : Dev) (k : Nat) (f : Thread → Thread) : (d.updThread k f).boot = d.boot := rfl
@[simp] theorem Dev.updThread_outs (d : Dev) (k : Nat) (f : Thread → Thread) : (d.updThread k f).outs = d.outs := rfl
@[simp] theorem Dev.updThread_free (d : Dev) (k : Nat) (f : Thread → Thread) : (d.updThread k f).free = d.free := rfl
@[simp] theorem Dev.updThread_reg (d : Dev) (k : Nat) (f : Thread → Thread) (q : Reg) (j : Nat) : (d.updThread k f).reg q j = d.reg q j := rfl
@[simp] theorem Dev.updThread_rf (d : Dev) (k : Nat) (f : Thread → Thread) (q : Reg) (j l m : Nat) : (d.updThread k f).rf q j l m = d.rf q j l m := rfl
@[simp] theorem Dev.updThread_rb (d : Dev) (k : Nat) (f : Thread → Thread) (q : Reg) (j l : Nat) : (d.updThread k f).rb q j l = d.rb q j l := rfl
@[simp] theorem Dev.updThread_byte (d : Dev) (k : Nat) (f : Thread → Thread) (a : Nat) : (d.updThread k f).byte a = d.byte a := rfl
@[simp] theorem Dev.updThread_live (d : Dev) (k : Nat) (f : Thread → Thread) : (d.updThread k f).live = d.live := rfl
@[simp] theorem Dev.updThread_powered (d : Dev) (k : Nat) (f : Thread → Thread) : (d.updThread k f).powered = d.powered := rfl

/-! ## setPart -/

@[simp] theorem Dev.setPart_regs (d : Dev) (p : Nat) (x : Part) : (d.setPart p x).regs = d.regs := rfl
@[simp] theorem Dev.setPart_mem (d : Dev) (p : Nat) (x : Part) : (d.setPart p x).mem = d.mem := rfl
@[simp] theorem Dev.setPart_thr (d : Dev) (p : Nat) (x : Part) : (d.setPart p x).thr = d.thr := rfl
@[simp] theorem Dev.setPart_cores (d : Dev) (p : Nat) (x : Part) : (d.setPart p x).cores = d.cores := rfl
@[simp] theorem Dev.setPart_time (d : Dev) (p : Nat) (x : Part) : (d.setPart p x).time = d.time := rfl
@[simp] theorem Dev.setPart_pkt (d : Dev) (p : Nat) (x : Part) : (d.setPart p x).pkt = d.pkt := rfl
@[simp] theorem Dev.setPart_keys (d : Dev) (p : Nat) (x : Part) : (d.setPart p x).keys = d.keys := rfl
@[simp] theorem Dev.setPart_dma (d : Dev) (p : Nat) (x : Part) : (d.setPart p x).dma = d.dma := rfl
@[simp] theorem Dev.setPart_host (d : Dev) (p : Nat) (x : Part) : (d.setPart p x).host = d.host := rfl
@[simp] theorem Dev.setPart_fw (d : Dev) (p : Nat) (x : Part) : (d.setPart p x).fw = d.fw := rfl
@[simp] theorem Dev.setPart_flt (d : Dev) (p : Nat) (x : Part) : (d.setPart p x).flt = d.flt := rfl
@[simp] theorem Dev.setPart_dpx (d : Dev) (p : Nat) (x : Part) : (d.setPart p x).dpx = d.dpx := rfl
@[simp] theorem Dev.setPart_cnt (d : Dev) (p : Nat) (x : Part) : (d.setPart p x).cnt = d.cnt := rfl
@[simp] theorem Dev.setPart_relPend (d : Dev) (p : Nat) (x : Part) : (d.setPart p x).relPend = d.relPend := rfl
@[simp] theorem Dev.setPart_life (d : Dev) (p : Nat) (x : Part) : (d.setPart p x).life = d.life := rfl
@[simp] theorem Dev.setPart_board (d : Dev) (p : Nat) (x : Part) : (d.setPart p x).board = d.board := rfl
@[simp] theorem Dev.setPart_boot (d : Dev) (p : Nat) (x : Part) : (d.setPart p x).boot = d.boot := rfl
@[simp] theorem Dev.setPart_outs (d : Dev) (p : Nat) (x : Part) : (d.setPart p x).outs = d.outs := rfl
@[simp] theorem Dev.setPart_free (d : Dev) (p : Nat) (x : Part) : (d.setPart p x).free = d.free := rfl
@[simp] theorem Dev.setPart_reg (d : Dev) (p : Nat) (x : Part) (q : Reg) (j : Nat) : (d.setPart p x).reg q j = d.reg q j := rfl
@[simp] theorem Dev.setPart_rf (d : Dev) (p : Nat) (x : Part) (q : Reg) (j l m : Nat) : (d.setPart p x).rf q j l m = d.rf q j l m := rfl
@[simp] theorem Dev.setPart_rb (d : Dev) (p : Nat) (x : Part) (q : Reg) (j l : Nat) : (d.setPart p x).rb q j l = d.rb q j l := rfl
@[simp] theorem Dev.setPart_thread (d : Dev) (p : Nat) (x : Part) (u : Nat) : (d.setPart p x).thread u = d.thread u := rfl
@[simp] theorem Dev.setPart_byte (d : Dev) (p : Nat) (x : Part) (a : Nat) : (d.setPart p x).byte a = d.byte a := rfl
@[simp] theorem Dev.setPart_live (d : Dev) (p : Nat) (x : Part) : (d.setPart p x).live = d.live := rfl
@[simp] theorem Dev.setPart_powered (d : Dev) (p : Nat) (x : Part) : (d.setPart p x).powered = d.powered := rfl

/-! ## setDuplex -/

@[simp] theorem Dev.setDuplex_regs (d : Dev) (p : Nat) (x : Dpx) : (d.setDuplex p x).regs = d.regs := rfl
@[simp] theorem Dev.setDuplex_mem (d : Dev) (p : Nat) (x : Dpx) : (d.setDuplex p x).mem = d.mem := rfl
@[simp] theorem Dev.setDuplex_thr (d : Dev) (p : Nat) (x : Dpx) : (d.setDuplex p x).thr = d.thr := rfl
@[simp] theorem Dev.setDuplex_cores (d : Dev) (p : Nat) (x : Dpx) : (d.setDuplex p x).cores = d.cores := rfl
@[simp] theorem Dev.setDuplex_time (d : Dev) (p : Nat) (x : Dpx) : (d.setDuplex p x).time = d.time := rfl
@[simp] theorem Dev.setDuplex_pkt (d : Dev) (p : Nat) (x : Dpx) : (d.setDuplex p x).pkt = d.pkt := rfl
@[simp] theorem Dev.setDuplex_keys (d : Dev) (p : Nat) (x : Dpx) : (d.setDuplex p x).keys = d.keys := rfl
@[simp] theorem Dev.setDuplex_dma (d : Dev) (p : Nat) (x : Dpx) : (d.setDuplex p x).dma = d.dma := rfl
@[simp] theorem Dev.setDuplex_host (d : Dev) (p : Nat) (x : Dpx) : (d.setDuplex p x).host = d.host := rfl
@[simp] theorem Dev.setDuplex_ptn (d : Dev) (p : Nat) (x : Dpx) : (d.setDuplex p x).ptn = d.ptn := rfl
@[simp] theorem Dev.setDuplex_fw (d : Dev) (p : Nat) (x : Dpx) : (d.setDuplex p x).fw = d.fw := rfl
@[simp] theorem Dev.setDuplex_flt (d : Dev) (p : Nat) (x : Dpx) : (d.setDuplex p x).flt = d.flt := rfl
@[simp] theorem Dev.setDuplex_cnt (d : Dev) (p : Nat) (x : Dpx) : (d.setDuplex p x).cnt = d.cnt := rfl
@[simp] theorem Dev.setDuplex_relPend (d : Dev) (p : Nat) (x : Dpx) : (d.setDuplex p x).relPend = d.relPend := rfl
@[simp] theorem Dev.setDuplex_life (d : Dev) (p : Nat) (x : Dpx) : (d.setDuplex p x).life = d.life := rfl
@[simp] theorem Dev.setDuplex_board (d : Dev) (p : Nat) (x : Dpx) : (d.setDuplex p x).board = d.board := rfl
@[simp] theorem Dev.setDuplex_boot (d : Dev) (p : Nat) (x : Dpx) : (d.setDuplex p x).boot = d.boot := rfl
@[simp] theorem Dev.setDuplex_outs (d : Dev) (p : Nat) (x : Dpx) : (d.setDuplex p x).outs = d.outs := rfl
@[simp] theorem Dev.setDuplex_free (d : Dev) (p : Nat) (x : Dpx) : (d.setDuplex p x).free = d.free := rfl
@[simp] theorem Dev.setDuplex_reg (d : Dev) (p : Nat) (x : Dpx) (q : Reg) (j : Nat) : (d.setDuplex p x).reg q j = d.reg q j := rfl
@[simp] theorem Dev.setDuplex_rf (d : Dev) (p : Nat) (x : Dpx) (q : Reg) (j l m : Nat) : (d.setDuplex p x).rf q j l m = d.rf q j l m := rfl
@[simp] theorem Dev.setDuplex_rb (d : Dev) (p : Nat) (x : Dpx) (q : Reg) (j l : Nat) : (d.setDuplex p x).rb q j l = d.rb q j l := rfl
@[simp] theorem Dev.setDuplex_thread (d : Dev) (p : Nat) (x : Dpx) (u : Nat) : (d.setDuplex p x).thread u = d.thread u := rfl
@[simp] theorem Dev.setDuplex_byte (d : Dev) (p : Nat) (x : Dpx) (a : Nat) : (d.setDuplex p x).byte a = d.byte a := rfl
@[simp] theorem Dev.setDuplex_live (d : Dev) (p : Nat) (x : Dpx) : (d.setDuplex p x).live = d.live := rfl
@[simp] theorem Dev.setDuplex_powered (d : Dev) (p : Nat) (x : Dpx) : (d.setDuplex p x).powered = d.powered := rfl

/-! ## raise -/

@[simp] theorem Dev.raise_regs (d : Dev) (src isl : Nat) (part tid : Option Nat) (exc detail : Nat) : (d.raise src isl part tid exc detail).regs = d.regs := rfl
@[simp] theorem Dev.raise_mem (d : Dev) (src isl : Nat) (part tid : Option Nat) (exc detail : Nat) : (d.raise src isl part tid exc detail).mem = d.mem := rfl
@[simp] theorem Dev.raise_thr (d : Dev) (src isl : Nat) (part tid : Option Nat) (exc detail : Nat) : (d.raise src isl part tid exc detail).thr = d.thr := rfl
@[simp] theorem Dev.raise_cores (d : Dev) (src isl : Nat) (part tid : Option Nat) (exc detail : Nat) : (d.raise src isl part tid exc detail).cores = d.cores := rfl
@[simp] theorem Dev.raise_time (d : Dev) (src isl : Nat) (part tid : Option Nat) (exc detail : Nat) : (d.raise src isl part tid exc detail).time = d.time := rfl
@[simp] theorem Dev.raise_pkt (d : Dev) (src isl : Nat) (part tid : Option Nat) (exc detail : Nat) : (d.raise src isl part tid exc detail).pkt = d.pkt := rfl
@[simp] theorem Dev.raise_keys (d : Dev) (src isl : Nat) (part tid : Option Nat) (exc detail : Nat) : (d.raise src isl part tid exc detail).keys = d.keys := rfl
@[simp] theorem Dev.raise_dma (d : Dev) (src isl : Nat) (part tid : Option Nat) (exc detail : Nat) : (d.raise src isl part tid exc detail).dma = d.dma := rfl
@[simp] theorem Dev.raise_host (d : Dev) (src isl : Nat) (part tid : Option Nat) (exc detail : Nat) : (d.raise src isl part tid exc detail).host = d.host := rfl
@[simp] theorem Dev.raise_ptn (d : Dev) (src isl : Nat) (part tid : Option Nat) (exc detail : Nat) : (d.raise src isl part tid exc detail).ptn = d.ptn := rfl
@[simp] theorem Dev.raise_fw (d : Dev) (src isl : Nat) (part tid : Option Nat) (exc detail : Nat) : (d.raise src isl part tid exc detail).fw = d.fw := rfl
@[simp] theorem Dev.raise_dpx (d : Dev) (src isl : Nat) (part tid : Option Nat) (exc detail : Nat) : (d.raise src isl part tid exc detail).dpx = d.dpx := rfl
@[simp] theorem Dev.raise_cnt (d : Dev) (src isl : Nat) (part tid : Option Nat) (exc detail : Nat) : (d.raise src isl part tid exc detail).cnt = d.cnt := rfl
@[simp] theorem Dev.raise_relPend (d : Dev) (src isl : Nat) (part tid : Option Nat) (exc detail : Nat) : (d.raise src isl part tid exc detail).relPend = d.relPend := rfl
@[simp] theorem Dev.raise_life (d : Dev) (src isl : Nat) (part tid : Option Nat) (exc detail : Nat) : (d.raise src isl part tid exc detail).life = d.life := rfl
@[simp] theorem Dev.raise_board (d : Dev) (src isl : Nat) (part tid : Option Nat) (exc detail : Nat) : (d.raise src isl part tid exc detail).board = d.board := rfl
@[simp] theorem Dev.raise_boot (d : Dev) (src isl : Nat) (part tid : Option Nat) (exc detail : Nat) : (d.raise src isl part tid exc detail).boot = d.boot := rfl
@[simp] theorem Dev.raise_outs (d : Dev) (src isl : Nat) (part tid : Option Nat) (exc detail : Nat) : (d.raise src isl part tid exc detail).outs = d.outs := rfl
@[simp] theorem Dev.raise_free (d : Dev) (src isl : Nat) (part tid : Option Nat) (exc detail : Nat) : (d.raise src isl part tid exc detail).free = d.free := rfl
@[simp] theorem Dev.raise_reg (d : Dev) (src isl : Nat) (part tid : Option Nat) (exc detail : Nat) (q : Reg) (j : Nat) : (d.raise src isl part tid exc detail).reg q j = d.reg q j := rfl
@[simp] theorem Dev.raise_rf (d : Dev) (src isl : Nat) (part tid : Option Nat) (exc detail : Nat) (q : Reg) (j l m : Nat) : (d.raise src isl part tid exc detail).rf q j l m = d.rf q j l m := rfl
@[simp] theorem Dev.raise_rb (d : Dev) (src isl : Nat) (part tid : Option Nat) (exc detail : Nat) (q : Reg) (j l : Nat) : (d.raise src isl part tid exc detail).rb q j l = d.rb q j l := rfl
@[simp] theorem Dev.raise_thread (d : Dev) (src isl : Nat) (part tid : Option Nat) (exc detail : Nat) (u : Nat) : (d.raise src isl part tid exc detail).thread u = d.thread u := rfl
@[simp] theorem Dev.raise_byte (d : Dev) (src isl : Nat) (part tid : Option Nat) (exc detail : Nat) (a : Nat) : (d.raise src isl part tid exc detail).byte a = d.byte a := rfl
@[simp] theorem Dev.raise_live (d : Dev) (src isl : Nat) (part tid : Option Nat) (exc detail : Nat) : (d.raise src isl part tid exc detail).live = d.live := rfl
@[simp] theorem Dev.raise_powered (d : Dev) (src isl : Nat) (part tid : Option Nat) (exc detail : Nat) : (d.raise src isl part tid exc detail).powered = d.powered := rfl

/-! ## raiseDev -/

@[simp] theorem Dev.raiseDev_regs (d : Dev) (src isl detail : Nat) : (d.raiseDev src isl detail).regs = d.regs := rfl
@[simp] theorem Dev.raiseDev_mem (d : Dev) (src isl detail : Nat) : (d.raiseDev src isl detail).mem = d.mem := rfl
@[simp] theorem Dev.raiseDev_thr (d : Dev) (src isl detail : Nat) : (d.raiseDev src isl detail).thr = d.thr := rfl
@[simp] theorem Dev.raiseDev_cores (d : Dev) (src isl detail : Nat) : (d.raiseDev src isl detail).cores = d.cores := rfl
@[simp] theorem Dev.raiseDev_time (d : Dev) (src isl detail : Nat) : (d.raiseDev src isl detail).time = d.time := rfl
@[simp] theorem Dev.raiseDev_pkt (d : Dev) (src isl detail : Nat) : (d.raiseDev src isl detail).pkt = d.pkt := rfl
@[simp] theorem Dev.raiseDev_keys (d : Dev) (src isl detail : Nat) : (d.raiseDev src isl detail).keys = d.keys := rfl
@[simp] theorem Dev.raiseDev_dma (d : Dev) (src isl detail : Nat) : (d.raiseDev src isl detail).dma = d.dma := rfl
@[simp] theorem Dev.raiseDev_host (d : Dev) (src isl detail : Nat) : (d.raiseDev src isl detail).host = d.host := rfl
@[simp] theorem Dev.raiseDev_ptn (d : Dev) (src isl detail : Nat) : (d.raiseDev src isl detail).ptn = d.ptn := rfl
@[simp] theorem Dev.raiseDev_fw (d : Dev) (src isl detail : Nat) : (d.raiseDev src isl detail).fw = d.fw := rfl
@[simp] theorem Dev.raiseDev_dpx (d : Dev) (src isl detail : Nat) : (d.raiseDev src isl detail).dpx = d.dpx := rfl
@[simp] theorem Dev.raiseDev_cnt (d : Dev) (src isl detail : Nat) : (d.raiseDev src isl detail).cnt = d.cnt := rfl
@[simp] theorem Dev.raiseDev_relPend (d : Dev) (src isl detail : Nat) : (d.raiseDev src isl detail).relPend = d.relPend := rfl
@[simp] theorem Dev.raiseDev_life (d : Dev) (src isl detail : Nat) : (d.raiseDev src isl detail).life = d.life := rfl
@[simp] theorem Dev.raiseDev_board (d : Dev) (src isl detail : Nat) : (d.raiseDev src isl detail).board = d.board := rfl
@[simp] theorem Dev.raiseDev_boot (d : Dev) (src isl detail : Nat) : (d.raiseDev src isl detail).boot = d.boot := rfl
@[simp] theorem Dev.raiseDev_outs (d : Dev) (src isl detail : Nat) : (d.raiseDev src isl detail).outs = d.outs := rfl
@[simp] theorem Dev.raiseDev_free (d : Dev) (src isl detail : Nat) : (d.raiseDev src isl detail).free = d.free := rfl
@[simp] theorem Dev.raiseDev_reg (d : Dev) (src isl detail : Nat) (q : Reg) (j : Nat) : (d.raiseDev src isl detail).reg q j = d.reg q j := rfl
@[simp] theorem Dev.raiseDev_rf (d : Dev) (src isl detail : Nat) (q : Reg) (j l m : Nat) : (d.raiseDev src isl detail).rf q j l m = d.rf q j l m := rfl
@[simp] theorem Dev.raiseDev_rb (d : Dev) (src isl detail : Nat) (q : Reg) (j l : Nat) : (d.raiseDev src isl detail).rb q j l = d.rb q j l := rfl
@[simp] theorem Dev.raiseDev_thread (d : Dev) (src isl detail : Nat) (u : Nat) : (d.raiseDev src isl detail).thread u = d.thread u := rfl
@[simp] theorem Dev.raiseDev_byte (d : Dev) (src isl detail : Nat) (a : Nat) : (d.raiseDev src isl detail).byte a = d.byte a := rfl
@[simp] theorem Dev.raiseDev_live (d : Dev) (src isl detail : Nat) : (d.raiseDev src isl detail).live = d.live := rfl
@[simp] theorem Dev.raiseDev_powered (d : Dev) (src isl detail : Nat) : (d.raiseDev src isl detail).powered = d.powered := rfl

/-! ## write -/

@[simp] theorem Dev.write_regs (d : Dev) (a : Nat) (bs : List Byte) : (d.write a bs).regs = d.regs := rfl
@[simp] theorem Dev.write_thr (d : Dev) (a : Nat) (bs : List Byte) : (d.write a bs).thr = d.thr := rfl
@[simp] theorem Dev.write_cores (d : Dev) (a : Nat) (bs : List Byte) : (d.write a bs).cores = d.cores := rfl
@[simp] theorem Dev.write_time (d : Dev) (a : Nat) (bs : List Byte) : (d.write a bs).time = d.time := rfl
@[simp] theorem Dev.write_pkt (d : Dev) (a : Nat) (bs : List Byte) : (d.write a bs).pkt = d.pkt := rfl
@[simp] theorem Dev.write_keys (d : Dev) (a : Nat) (bs : List Byte) : (d.write a bs).keys = d.keys := rfl
@[simp] theorem Dev.write_dma (d : Dev) (a : Nat) (bs : List Byte) : (d.write a bs).dma = d.dma := rfl
@[simp] theorem Dev.write_host (d : Dev) (a : Nat) (bs : List Byte) : (d.write a bs).host = d.host := rfl
@[simp] theorem Dev.write_ptn (d : Dev) (a : Nat) (bs : List Byte) : (d.write a bs).ptn = d.ptn := rfl
@[simp] theorem Dev.write_fw (d : Dev) (a : Nat) (bs : List Byte) : (d.write a bs).fw = d.fw := rfl
@[simp] theorem Dev.write_flt (d : Dev) (a : Nat) (bs : List Byte) : (d.write a bs).flt = d.flt := rfl
@[simp] theorem Dev.write_dpx (d : Dev) (a : Nat) (bs : List Byte) : (d.write a bs).dpx = d.dpx := rfl
@[simp] theorem Dev.write_cnt (d : Dev) (a : Nat) (bs : List Byte) : (d.write a bs).cnt = d.cnt := rfl
@[simp] theorem Dev.write_relPend (d : Dev) (a : Nat) (bs : List Byte) : (d.write a bs).relPend = d.relPend := rfl
@[simp] theorem Dev.write_life (d : Dev) (a : Nat) (bs : List Byte) : (d.write a bs).life = d.life := rfl
@[simp] theorem Dev.write_board (d : Dev) (a : Nat) (bs : List Byte) : (d.write a bs).board = d.board := rfl
@[simp] theorem Dev.write_boot (d : Dev) (a : Nat) (bs : List Byte) : (d.write a bs).boot = d.boot := rfl
@[simp] theorem Dev.write_outs (d : Dev) (a : Nat) (bs : List Byte) : (d.write a bs).outs = d.outs := rfl
@[simp] theorem Dev.write_free (d : Dev) (a : Nat) (bs : List Byte) : (d.write a bs).free = d.free := rfl
@[simp] theorem Dev.write_reg (d : Dev) (a : Nat) (bs : List Byte) (q : Reg) (j : Nat) : (d.write a bs).reg q j = d.reg q j := rfl
@[simp] theorem Dev.write_rf (d : Dev) (a : Nat) (bs : List Byte) (q : Reg) (j l m : Nat) : (d.write a bs).rf q j l m = d.rf q j l m := rfl
@[simp] theorem Dev.write_rb (d : Dev) (a : Nat) (bs : List Byte) (q : Reg) (j l : Nat) : (d.write a bs).rb q j l = d.rb q j l := rfl
@[simp] theorem Dev.write_thread (d : Dev) (a : Nat) (bs : List Byte) (u : Nat) : (d.write a bs).thread u = d.thread u := rfl
@[simp] theorem Dev.write_live (d : Dev) (a : Nat) (bs : List Byte) : (d.write a bs).live = d.live := rfl
@[simp] theorem Dev.write_powered (d : Dev) (a : Nat) (bs : List Byte) : (d.write a bs).powered = d.powered := rfl

/-! ## zero -/

@[simp] theorem Dev.zero_regs (d : Dev) (a n : Nat) : (d.zero a n).regs = d.regs := rfl
@[simp] theorem Dev.zero_thr (d : Dev) (a n : Nat) : (d.zero a n).thr = d.thr := rfl
@[simp] theorem Dev.zero_cores (d : Dev) (a n : Nat) : (d.zero a n).cores = d.cores := rfl
@[simp] theorem Dev.zero_time (d : Dev) (a n : Nat) : (d.zero a n).time = d.time := rfl
@[simp] theorem Dev.zero_pkt (d : Dev) (a n : Nat) : (d.zero a n).pkt = d.pkt := rfl
@[simp] theorem Dev.zero_keys (d : Dev) (a n : Nat) : (d.zero a n).keys = d.keys := rfl
@[simp] theorem Dev.zero_dma (d : Dev) (a n : Nat) : (d.zero a n).dma = d.dma := rfl
@[simp] theorem Dev.zero_host (d : Dev) (a n : Nat) : (d.zero a n).host = d.host := rfl
@[simp] theorem Dev.zero_ptn (d : Dev) (a n : Nat) : (d.zero a n).ptn = d.ptn := rfl
@[simp] theorem Dev.zero_fw (d : Dev) (a n : Nat) : (d.zero a n).fw = d.fw := rfl
@[simp] theorem Dev.zero_flt (d : Dev) (a n : Nat) : (d.zero a n).flt = d.flt := rfl
@[simp] theorem Dev.zero_dpx (d : Dev) (a n : Nat) : (d.zero a n).dpx = d.dpx := rfl
@[simp] theorem Dev.zero_cnt (d : Dev) (a n : Nat) : (d.zero a n).cnt = d.cnt := rfl
@[simp] theorem Dev.zero_relPend (d : Dev) (a n : Nat) : (d.zero a n).relPend = d.relPend := rfl
@[simp] theorem Dev.zero_life (d : Dev) (a n : Nat) : (d.zero a n).life = d.life := rfl
@[simp] theorem Dev.zero_board (d : Dev) (a n : Nat) : (d.zero a n).board = d.board := rfl
@[simp] theorem Dev.zero_boot (d : Dev) (a n : Nat) : (d.zero a n).boot = d.boot := rfl
@[simp] theorem Dev.zero_outs (d : Dev) (a n : Nat) : (d.zero a n).outs = d.outs := rfl
@[simp] theorem Dev.zero_free (d : Dev) (a n : Nat) : (d.zero a n).free = d.free := rfl
@[simp] theorem Dev.zero_reg (d : Dev) (a n : Nat) (q : Reg) (j : Nat) : (d.zero a n).reg q j = d.reg q j := rfl
@[simp] theorem Dev.zero_rf (d : Dev) (a n : Nat) (q : Reg) (j l m : Nat) : (d.zero a n).rf q j l m = d.rf q j l m := rfl
@[simp] theorem Dev.zero_rb (d : Dev) (a n : Nat) (q : Reg) (j l : Nat) : (d.zero a n).rb q j l = d.rb q j l := rfl
@[simp] theorem Dev.zero_thread (d : Dev) (a n : Nat) (u : Nat) : (d.zero a n).thread u = d.thread u := rfl
@[simp] theorem Dev.zero_live (d : Dev) (a n : Nat) : (d.zero a n).live = d.live := rfl
@[simp] theorem Dev.zero_powered (d : Dev) (a n : Nat) : (d.zero a n).powered = d.powered := rfl

/-! ## setFn -/

@[simp] theorem Dev.setFn_regs (d : Dev) (h f : Nat) (x : HostFn) : (d.setFn h f x).regs = d.regs := rfl
@[simp] theorem Dev.setFn_mem (d : Dev) (h f : Nat) (x : HostFn) : (d.setFn h f x).mem = d.mem := rfl
@[simp] theorem Dev.setFn_thr (d : Dev) (h f : Nat) (x : HostFn) : (d.setFn h f x).thr = d.thr := rfl
@[simp] theorem Dev.setFn_cores (d : Dev) (h f : Nat) (x : HostFn) : (d.setFn h f x).cores = d.cores := rfl
@[simp] theorem Dev.setFn_time (d : Dev) (h f : Nat) (x : HostFn) : (d.setFn h f x).time = d.time := rfl
@[simp] theorem Dev.setFn_pkt (d : Dev) (h f : Nat) (x : HostFn) : (d.setFn h f x).pkt = d.pkt := rfl
@[simp] theorem Dev.setFn_keys (d : Dev) (h f : Nat) (x : HostFn) : (d.setFn h f x).keys = d.keys := rfl
@[simp] theorem Dev.setFn_dma (d : Dev) (h f : Nat) (x : HostFn) : (d.setFn h f x).dma = d.dma := rfl
@[simp] theorem Dev.setFn_ptn (d : Dev) (h f : Nat) (x : HostFn) : (d.setFn h f x).ptn = d.ptn := rfl
@[simp] theorem Dev.setFn_fw (d : Dev) (h f : Nat) (x : HostFn) : (d.setFn h f x).fw = d.fw := rfl
@[simp] theorem Dev.setFn_flt (d : Dev) (h f : Nat) (x : HostFn) : (d.setFn h f x).flt = d.flt := rfl
@[simp] theorem Dev.setFn_dpx (d : Dev) (h f : Nat) (x : HostFn) : (d.setFn h f x).dpx = d.dpx := rfl
@[simp] theorem Dev.setFn_cnt (d : Dev) (h f : Nat) (x : HostFn) : (d.setFn h f x).cnt = d.cnt := rfl
@[simp] theorem Dev.setFn_relPend (d : Dev) (h f : Nat) (x : HostFn) : (d.setFn h f x).relPend = d.relPend := rfl
@[simp] theorem Dev.setFn_life (d : Dev) (h f : Nat) (x : HostFn) : (d.setFn h f x).life = d.life := rfl
@[simp] theorem Dev.setFn_board (d : Dev) (h f : Nat) (x : HostFn) : (d.setFn h f x).board = d.board := rfl
@[simp] theorem Dev.setFn_boot (d : Dev) (h f : Nat) (x : HostFn) : (d.setFn h f x).boot = d.boot := rfl
@[simp] theorem Dev.setFn_outs (d : Dev) (h f : Nat) (x : HostFn) : (d.setFn h f x).outs = d.outs := rfl
@[simp] theorem Dev.setFn_free (d : Dev) (h f : Nat) (x : HostFn) : (d.setFn h f x).free = d.free := rfl
@[simp] theorem Dev.setFn_reg (d : Dev) (h f : Nat) (x : HostFn) (q : Reg) (j : Nat) : (d.setFn h f x).reg q j = d.reg q j := rfl
@[simp] theorem Dev.setFn_rf (d : Dev) (h f : Nat) (x : HostFn) (q : Reg) (j l m : Nat) : (d.setFn h f x).rf q j l m = d.rf q j l m := rfl
@[simp] theorem Dev.setFn_rb (d : Dev) (h f : Nat) (x : HostFn) (q : Reg) (j l : Nat) : (d.setFn h f x).rb q j l = d.rb q j l := rfl
@[simp] theorem Dev.setFn_thread (d : Dev) (h f : Nat) (x : HostFn) (u : Nat) : (d.setFn h f x).thread u = d.thread u := rfl
@[simp] theorem Dev.setFn_byte (d : Dev) (h f : Nat) (x : HostFn) (a : Nat) : (d.setFn h f x).byte a = d.byte a := rfl
@[simp] theorem Dev.setFn_live (d : Dev) (h f : Nat) (x : HostFn) : (d.setFn h f x).live = d.live := rfl
@[simp] theorem Dev.setFn_powered (d : Dev) (h f : Nat) (x : HostFn) : (d.setFn h f x).powered = d.powered := rfl

/-! ## updFn -/

@[simp] theorem Dev.updFn_regs (d : Dev) (h f : Nat) (g : HostFn → HostFn) : (d.updFn h f g).regs = d.regs := rfl
@[simp] theorem Dev.updFn_mem (d : Dev) (h f : Nat) (g : HostFn → HostFn) : (d.updFn h f g).mem = d.mem := rfl
@[simp] theorem Dev.updFn_thr (d : Dev) (h f : Nat) (g : HostFn → HostFn) : (d.updFn h f g).thr = d.thr := rfl
@[simp] theorem Dev.updFn_cores (d : Dev) (h f : Nat) (g : HostFn → HostFn) : (d.updFn h f g).cores = d.cores := rfl
@[simp] theorem Dev.updFn_time (d : Dev) (h f : Nat) (g : HostFn → HostFn) : (d.updFn h f g).time = d.time := rfl
@[simp] theorem Dev.updFn_pkt (d : Dev) (h f : Nat) (g : HostFn → HostFn) : (d.updFn h f g).pkt = d.pkt := rfl
@[simp] theorem Dev.updFn_keys (d : Dev) (h f : Nat) (g : HostFn → HostFn) : (d.updFn h f g).keys = d.keys := rfl
@[simp] theorem Dev.updFn_dma (d : Dev) (h f : Nat) (g : HostFn → HostFn) : (d.updFn h f g).dma = d.dma := rfl
@[simp] theorem Dev.updFn_ptn (d : Dev) (h f : Nat) (g : HostFn → HostFn) : (d.updFn h f g).ptn = d.ptn := rfl
@[simp] theorem Dev.updFn_fw (d : Dev) (h f : Nat) (g : HostFn → HostFn) : (d.updFn h f g).fw = d.fw := rfl
@[simp] theorem Dev.updFn_flt (d : Dev) (h f : Nat) (g : HostFn → HostFn) : (d.updFn h f g).flt = d.flt := rfl
@[simp] theorem Dev.updFn_dpx (d : Dev) (h f : Nat) (g : HostFn → HostFn) : (d.updFn h f g).dpx = d.dpx := rfl
@[simp] theorem Dev.updFn_cnt (d : Dev) (h f : Nat) (g : HostFn → HostFn) : (d.updFn h f g).cnt = d.cnt := rfl
@[simp] theorem Dev.updFn_relPend (d : Dev) (h f : Nat) (g : HostFn → HostFn) : (d.updFn h f g).relPend = d.relPend := rfl
@[simp] theorem Dev.updFn_life (d : Dev) (h f : Nat) (g : HostFn → HostFn) : (d.updFn h f g).life = d.life := rfl
@[simp] theorem Dev.updFn_board (d : Dev) (h f : Nat) (g : HostFn → HostFn) : (d.updFn h f g).board = d.board := rfl
@[simp] theorem Dev.updFn_boot (d : Dev) (h f : Nat) (g : HostFn → HostFn) : (d.updFn h f g).boot = d.boot := rfl
@[simp] theorem Dev.updFn_outs (d : Dev) (h f : Nat) (g : HostFn → HostFn) : (d.updFn h f g).outs = d.outs := rfl
@[simp] theorem Dev.updFn_free (d : Dev) (h f : Nat) (g : HostFn → HostFn) : (d.updFn h f g).free = d.free := rfl
@[simp] theorem Dev.updFn_reg (d : Dev) (h f : Nat) (g : HostFn → HostFn) (q : Reg) (j : Nat) : (d.updFn h f g).reg q j = d.reg q j := rfl
@[simp] theorem Dev.updFn_rf (d : Dev) (h f : Nat) (g : HostFn → HostFn) (q : Reg) (j l m : Nat) : (d.updFn h f g).rf q j l m = d.rf q j l m := rfl
@[simp] theorem Dev.updFn_rb (d : Dev) (h f : Nat) (g : HostFn → HostFn) (q : Reg) (j l : Nat) : (d.updFn h f g).rb q j l = d.rb q j l := rfl
@[simp] theorem Dev.updFn_thread (d : Dev) (h f : Nat) (g : HostFn → HostFn) (u : Nat) : (d.updFn h f g).thread u = d.thread u := rfl
@[simp] theorem Dev.updFn_byte (d : Dev) (h f : Nat) (g : HostFn → HostFn) (a : Nat) : (d.updFn h f g).byte a = d.byte a := rfl
@[simp] theorem Dev.updFn_live (d : Dev) (h f : Nat) (g : HostFn → HostFn) : (d.updFn h f g).live = d.live := rfl
@[simp] theorem Dev.updFn_powered (d : Dev) (h f : Nat) (g : HostFn → HostFn) : (d.updFn h f g).powered = d.powered := rfl

/-! ## aer -/

@[simp] theorem Dev.aer_regs (d : Dev) (h f : Nat) (e : Aer) : (d.aer h f e).regs = d.regs := rfl
@[simp] theorem Dev.aer_mem (d : Dev) (h f : Nat) (e : Aer) : (d.aer h f e).mem = d.mem := rfl
@[simp] theorem Dev.aer_thr (d : Dev) (h f : Nat) (e : Aer) : (d.aer h f e).thr = d.thr := rfl
@[simp] theorem Dev.aer_cores (d : Dev) (h f : Nat) (e : Aer) : (d.aer h f e).cores = d.cores := rfl
@[simp] theorem Dev.aer_time (d : Dev) (h f : Nat) (e : Aer) : (d.aer h f e).time = d.time := rfl
@[simp] theorem Dev.aer_pkt (d : Dev) (h f : Nat) (e : Aer) : (d.aer h f e).pkt = d.pkt := rfl
@[simp] theorem Dev.aer_keys (d : Dev) (h f : Nat) (e : Aer) : (d.aer h f e).keys = d.keys := rfl
@[simp] theorem Dev.aer_dma (d : Dev) (h f : Nat) (e : Aer) : (d.aer h f e).dma = d.dma := rfl
@[simp] theorem Dev.aer_ptn (d : Dev) (h f : Nat) (e : Aer) : (d.aer h f e).ptn = d.ptn := rfl
@[simp] theorem Dev.aer_fw (d : Dev) (h f : Nat) (e : Aer) : (d.aer h f e).fw = d.fw := rfl
@[simp] theorem Dev.aer_flt (d : Dev) (h f : Nat) (e : Aer) : (d.aer h f e).flt = d.flt := rfl
@[simp] theorem Dev.aer_dpx (d : Dev) (h f : Nat) (e : Aer) : (d.aer h f e).dpx = d.dpx := rfl
@[simp] theorem Dev.aer_cnt (d : Dev) (h f : Nat) (e : Aer) : (d.aer h f e).cnt = d.cnt := rfl
@[simp] theorem Dev.aer_relPend (d : Dev) (h f : Nat) (e : Aer) : (d.aer h f e).relPend = d.relPend := rfl
@[simp] theorem Dev.aer_life (d : Dev) (h f : Nat) (e : Aer) : (d.aer h f e).life = d.life := rfl
@[simp] theorem Dev.aer_board (d : Dev) (h f : Nat) (e : Aer) : (d.aer h f e).board = d.board := rfl
@[simp] theorem Dev.aer_boot (d : Dev) (h f : Nat) (e : Aer) : (d.aer h f e).boot = d.boot := rfl
@[simp] theorem Dev.aer_outs (d : Dev) (h f : Nat) (e : Aer) : (d.aer h f e).outs = d.outs := rfl
@[simp] theorem Dev.aer_free (d : Dev) (h f : Nat) (e : Aer) : (d.aer h f e).free = d.free := rfl
@[simp] theorem Dev.aer_reg (d : Dev) (h f : Nat) (e : Aer) (q : Reg) (j : Nat) : (d.aer h f e).reg q j = d.reg q j := rfl
@[simp] theorem Dev.aer_rf (d : Dev) (h f : Nat) (e : Aer) (q : Reg) (j l m : Nat) : (d.aer h f e).rf q j l m = d.rf q j l m := rfl
@[simp] theorem Dev.aer_rb (d : Dev) (h f : Nat) (e : Aer) (q : Reg) (j l : Nat) : (d.aer h f e).rb q j l = d.rb q j l := rfl
@[simp] theorem Dev.aer_thread (d : Dev) (h f : Nat) (e : Aer) (u : Nat) : (d.aer h f e).thread u = d.thread u := rfl
@[simp] theorem Dev.aer_byte (d : Dev) (h f : Nat) (e : Aer) (a : Nat) : (d.aer h f e).byte a = d.byte a := rfl
@[simp] theorem Dev.aer_live (d : Dev) (h f : Nat) (e : Aer) : (d.aer h f e).live = d.live := rfl
@[simp] theorem Dev.aer_powered (d : Dev) (h f : Nat) (e : Aer) : (d.aer h f e).powered = d.powered := rfl

/-! ## setCq -/

@[simp] theorem Dev.setCq_regs (d : Dev) (n : Nat) (x : CqSt) : (d.setCq n x).regs = d.regs := rfl
@[simp] theorem Dev.setCq_mem (d : Dev) (n : Nat) (x : CqSt) : (d.setCq n x).mem = d.mem := rfl
@[simp] theorem Dev.setCq_thr (d : Dev) (n : Nat) (x : CqSt) : (d.setCq n x).thr = d.thr := rfl
@[simp] theorem Dev.setCq_cores (d : Dev) (n : Nat) (x : CqSt) : (d.setCq n x).cores = d.cores := rfl
@[simp] theorem Dev.setCq_time (d : Dev) (n : Nat) (x : CqSt) : (d.setCq n x).time = d.time := rfl
@[simp] theorem Dev.setCq_pkt (d : Dev) (n : Nat) (x : CqSt) : (d.setCq n x).pkt = d.pkt := rfl
@[simp] theorem Dev.setCq_keys (d : Dev) (n : Nat) (x : CqSt) : (d.setCq n x).keys = d.keys := rfl
@[simp] theorem Dev.setCq_host (d : Dev) (n : Nat) (x : CqSt) : (d.setCq n x).host = d.host := rfl
@[simp] theorem Dev.setCq_ptn (d : Dev) (n : Nat) (x : CqSt) : (d.setCq n x).ptn = d.ptn := rfl
@[simp] theorem Dev.setCq_fw (d : Dev) (n : Nat) (x : CqSt) : (d.setCq n x).fw = d.fw := rfl
@[simp] theorem Dev.setCq_flt (d : Dev) (n : Nat) (x : CqSt) : (d.setCq n x).flt = d.flt := rfl
@[simp] theorem Dev.setCq_dpx (d : Dev) (n : Nat) (x : CqSt) : (d.setCq n x).dpx = d.dpx := rfl
@[simp] theorem Dev.setCq_cnt (d : Dev) (n : Nat) (x : CqSt) : (d.setCq n x).cnt = d.cnt := rfl
@[simp] theorem Dev.setCq_relPend (d : Dev) (n : Nat) (x : CqSt) : (d.setCq n x).relPend = d.relPend := rfl
@[simp] theorem Dev.setCq_life (d : Dev) (n : Nat) (x : CqSt) : (d.setCq n x).life = d.life := rfl
@[simp] theorem Dev.setCq_board (d : Dev) (n : Nat) (x : CqSt) : (d.setCq n x).board = d.board := rfl
@[simp] theorem Dev.setCq_boot (d : Dev) (n : Nat) (x : CqSt) : (d.setCq n x).boot = d.boot := rfl
@[simp] theorem Dev.setCq_outs (d : Dev) (n : Nat) (x : CqSt) : (d.setCq n x).outs = d.outs := rfl
@[simp] theorem Dev.setCq_free (d : Dev) (n : Nat) (x : CqSt) : (d.setCq n x).free = d.free := rfl
@[simp] theorem Dev.setCq_reg (d : Dev) (n : Nat) (x : CqSt) (q : Reg) (j : Nat) : (d.setCq n x).reg q j = d.reg q j := rfl
@[simp] theorem Dev.setCq_rf (d : Dev) (n : Nat) (x : CqSt) (q : Reg) (j l m : Nat) : (d.setCq n x).rf q j l m = d.rf q j l m := rfl
@[simp] theorem Dev.setCq_rb (d : Dev) (n : Nat) (x : CqSt) (q : Reg) (j l : Nat) : (d.setCq n x).rb q j l = d.rb q j l := rfl
@[simp] theorem Dev.setCq_thread (d : Dev) (n : Nat) (x : CqSt) (u : Nat) : (d.setCq n x).thread u = d.thread u := rfl
@[simp] theorem Dev.setCq_byte (d : Dev) (n : Nat) (x : CqSt) (a : Nat) : (d.setCq n x).byte a = d.byte a := rfl
@[simp] theorem Dev.setCq_live (d : Dev) (n : Nat) (x : CqSt) : (d.setCq n x).live = d.live := rfl
@[simp] theorem Dev.setCq_powered (d : Dev) (n : Nat) (x : CqSt) : (d.setCq n x).powered = d.powered := rfl

/-! ## setSq -/

@[simp] theorem Dev.setSq_regs (d : Dev) (n : Nat) (x : SqSt) : (d.setSq n x).regs = d.regs := rfl
@[simp] theorem Dev.setSq_mem (d : Dev) (n : Nat) (x : SqSt) : (d.setSq n x).mem = d.mem := rfl
@[simp] theorem Dev.setSq_thr (d : Dev) (n : Nat) (x : SqSt) : (d.setSq n x).thr = d.thr := rfl
@[simp] theorem Dev.setSq_cores (d : Dev) (n : Nat) (x : SqSt) : (d.setSq n x).cores = d.cores := rfl
@[simp] theorem Dev.setSq_time (d : Dev) (n : Nat) (x : SqSt) : (d.setSq n x).time = d.time := rfl
@[simp] theorem Dev.setSq_pkt (d : Dev) (n : Nat) (x : SqSt) : (d.setSq n x).pkt = d.pkt := rfl
@[simp] theorem Dev.setSq_keys (d : Dev) (n : Nat) (x : SqSt) : (d.setSq n x).keys = d.keys := rfl
@[simp] theorem Dev.setSq_host (d : Dev) (n : Nat) (x : SqSt) : (d.setSq n x).host = d.host := rfl
@[simp] theorem Dev.setSq_ptn (d : Dev) (n : Nat) (x : SqSt) : (d.setSq n x).ptn = d.ptn := rfl
@[simp] theorem Dev.setSq_fw (d : Dev) (n : Nat) (x : SqSt) : (d.setSq n x).fw = d.fw := rfl
@[simp] theorem Dev.setSq_flt (d : Dev) (n : Nat) (x : SqSt) : (d.setSq n x).flt = d.flt := rfl
@[simp] theorem Dev.setSq_dpx (d : Dev) (n : Nat) (x : SqSt) : (d.setSq n x).dpx = d.dpx := rfl
@[simp] theorem Dev.setSq_cnt (d : Dev) (n : Nat) (x : SqSt) : (d.setSq n x).cnt = d.cnt := rfl
@[simp] theorem Dev.setSq_relPend (d : Dev) (n : Nat) (x : SqSt) : (d.setSq n x).relPend = d.relPend := rfl
@[simp] theorem Dev.setSq_life (d : Dev) (n : Nat) (x : SqSt) : (d.setSq n x).life = d.life := rfl
@[simp] theorem Dev.setSq_board (d : Dev) (n : Nat) (x : SqSt) : (d.setSq n x).board = d.board := rfl
@[simp] theorem Dev.setSq_boot (d : Dev) (n : Nat) (x : SqSt) : (d.setSq n x).boot = d.boot := rfl
@[simp] theorem Dev.setSq_outs (d : Dev) (n : Nat) (x : SqSt) : (d.setSq n x).outs = d.outs := rfl
@[simp] theorem Dev.setSq_free (d : Dev) (n : Nat) (x : SqSt) : (d.setSq n x).free = d.free := rfl
@[simp] theorem Dev.setSq_reg (d : Dev) (n : Nat) (x : SqSt) (q : Reg) (j : Nat) : (d.setSq n x).reg q j = d.reg q j := rfl
@[simp] theorem Dev.setSq_rf (d : Dev) (n : Nat) (x : SqSt) (q : Reg) (j l m : Nat) : (d.setSq n x).rf q j l m = d.rf q j l m := rfl
@[simp] theorem Dev.setSq_rb (d : Dev) (n : Nat) (x : SqSt) (q : Reg) (j l : Nat) : (d.setSq n x).rb q j l = d.rb q j l := rfl
@[simp] theorem Dev.setSq_thread (d : Dev) (n : Nat) (x : SqSt) (u : Nat) : (d.setSq n x).thread u = d.thread u := rfl
@[simp] theorem Dev.setSq_byte (d : Dev) (n : Nat) (x : SqSt) (a : Nat) : (d.setSq n x).byte a = d.byte a := rfl
@[simp] theorem Dev.setSq_live (d : Dev) (n : Nat) (x : SqSt) : (d.setSq n x).live = d.live := rfl
@[simp] theorem Dev.setSq_powered (d : Dev) (n : Nat) (x : SqSt) : (d.setSq n x).powered = d.powered := rfl

/-! ## setSlice -/

@[simp] theorem Dev.setSlice_regs (d : Dev) (s : Nat) (x : Slice) : (d.setSlice s x).regs = d.regs := rfl
@[simp] theorem Dev.setSlice_mem (d : Dev) (s : Nat) (x : Slice) : (d.setSlice s x).mem = d.mem := rfl
@[simp] theorem Dev.setSlice_thr (d : Dev) (s : Nat) (x : Slice) : (d.setSlice s x).thr = d.thr := rfl
@[simp] theorem Dev.setSlice_cores (d : Dev) (s : Nat) (x : Slice) : (d.setSlice s x).cores = d.cores := rfl
@[simp] theorem Dev.setSlice_time (d : Dev) (s : Nat) (x : Slice) : (d.setSlice s x).time = d.time := rfl
@[simp] theorem Dev.setSlice_pkt (d : Dev) (s : Nat) (x : Slice) : (d.setSlice s x).pkt = d.pkt := rfl
@[simp] theorem Dev.setSlice_keys (d : Dev) (s : Nat) (x : Slice) : (d.setSlice s x).keys = d.keys := rfl
@[simp] theorem Dev.setSlice_dma (d : Dev) (s : Nat) (x : Slice) : (d.setSlice s x).dma = d.dma := rfl
@[simp] theorem Dev.setSlice_host (d : Dev) (s : Nat) (x : Slice) : (d.setSlice s x).host = d.host := rfl
@[simp] theorem Dev.setSlice_fw (d : Dev) (s : Nat) (x : Slice) : (d.setSlice s x).fw = d.fw := rfl
@[simp] theorem Dev.setSlice_flt (d : Dev) (s : Nat) (x : Slice) : (d.setSlice s x).flt = d.flt := rfl
@[simp] theorem Dev.setSlice_dpx (d : Dev) (s : Nat) (x : Slice) : (d.setSlice s x).dpx = d.dpx := rfl
@[simp] theorem Dev.setSlice_cnt (d : Dev) (s : Nat) (x : Slice) : (d.setSlice s x).cnt = d.cnt := rfl
@[simp] theorem Dev.setSlice_relPend (d : Dev) (s : Nat) (x : Slice) : (d.setSlice s x).relPend = d.relPend := rfl
@[simp] theorem Dev.setSlice_life (d : Dev) (s : Nat) (x : Slice) : (d.setSlice s x).life = d.life := rfl
@[simp] theorem Dev.setSlice_board (d : Dev) (s : Nat) (x : Slice) : (d.setSlice s x).board = d.board := rfl
@[simp] theorem Dev.setSlice_boot (d : Dev) (s : Nat) (x : Slice) : (d.setSlice s x).boot = d.boot := rfl
@[simp] theorem Dev.setSlice_outs (d : Dev) (s : Nat) (x : Slice) : (d.setSlice s x).outs = d.outs := rfl
@[simp] theorem Dev.setSlice_free (d : Dev) (s : Nat) (x : Slice) : (d.setSlice s x).free = d.free := rfl
@[simp] theorem Dev.setSlice_reg (d : Dev) (s : Nat) (x : Slice) (q : Reg) (j : Nat) : (d.setSlice s x).reg q j = d.reg q j := rfl
@[simp] theorem Dev.setSlice_rf (d : Dev) (s : Nat) (x : Slice) (q : Reg) (j l m : Nat) : (d.setSlice s x).rf q j l m = d.rf q j l m := rfl
@[simp] theorem Dev.setSlice_rb (d : Dev) (s : Nat) (x : Slice) (q : Reg) (j l : Nat) : (d.setSlice s x).rb q j l = d.rb q j l := rfl
@[simp] theorem Dev.setSlice_thread (d : Dev) (s : Nat) (x : Slice) (u : Nat) : (d.setSlice s x).thread u = d.thread u := rfl
@[simp] theorem Dev.setSlice_byte (d : Dev) (s : Nat) (x : Slice) (a : Nat) : (d.setSlice s x).byte a = d.byte a := rfl
@[simp] theorem Dev.setSlice_live (d : Dev) (s : Nat) (x : Slice) : (d.setSlice s x).live = d.live := rfl
@[simp] theorem Dev.setSlice_powered (d : Dev) (s : Nat) (x : Slice) : (d.setSlice s x).powered = d.powered := rfl

/-! ## setMbx -/

@[simp] theorem Dev.setMbx_regs (d : Dev) (m : Nat) (x : Mbx) : (d.setMbx m x).regs = d.regs := rfl
@[simp] theorem Dev.setMbx_mem (d : Dev) (m : Nat) (x : Mbx) : (d.setMbx m x).mem = d.mem := rfl
@[simp] theorem Dev.setMbx_thr (d : Dev) (m : Nat) (x : Mbx) : (d.setMbx m x).thr = d.thr := rfl
@[simp] theorem Dev.setMbx_cores (d : Dev) (m : Nat) (x : Mbx) : (d.setMbx m x).cores = d.cores := rfl
@[simp] theorem Dev.setMbx_time (d : Dev) (m : Nat) (x : Mbx) : (d.setMbx m x).time = d.time := rfl
@[simp] theorem Dev.setMbx_pkt (d : Dev) (m : Nat) (x : Mbx) : (d.setMbx m x).pkt = d.pkt := rfl
@[simp] theorem Dev.setMbx_keys (d : Dev) (m : Nat) (x : Mbx) : (d.setMbx m x).keys = d.keys := rfl
@[simp] theorem Dev.setMbx_dma (d : Dev) (m : Nat) (x : Mbx) : (d.setMbx m x).dma = d.dma := rfl
@[simp] theorem Dev.setMbx_host (d : Dev) (m : Nat) (x : Mbx) : (d.setMbx m x).host = d.host := rfl
@[simp] theorem Dev.setMbx_fw (d : Dev) (m : Nat) (x : Mbx) : (d.setMbx m x).fw = d.fw := rfl
@[simp] theorem Dev.setMbx_flt (d : Dev) (m : Nat) (x : Mbx) : (d.setMbx m x).flt = d.flt := rfl
@[simp] theorem Dev.setMbx_dpx (d : Dev) (m : Nat) (x : Mbx) : (d.setMbx m x).dpx = d.dpx := rfl
@[simp] theorem Dev.setMbx_cnt (d : Dev) (m : Nat) (x : Mbx) : (d.setMbx m x).cnt = d.cnt := rfl
@[simp] theorem Dev.setMbx_relPend (d : Dev) (m : Nat) (x : Mbx) : (d.setMbx m x).relPend = d.relPend := rfl
@[simp] theorem Dev.setMbx_life (d : Dev) (m : Nat) (x : Mbx) : (d.setMbx m x).life = d.life := rfl
@[simp] theorem Dev.setMbx_board (d : Dev) (m : Nat) (x : Mbx) : (d.setMbx m x).board = d.board := rfl
@[simp] theorem Dev.setMbx_boot (d : Dev) (m : Nat) (x : Mbx) : (d.setMbx m x).boot = d.boot := rfl
@[simp] theorem Dev.setMbx_outs (d : Dev) (m : Nat) (x : Mbx) : (d.setMbx m x).outs = d.outs := rfl
@[simp] theorem Dev.setMbx_free (d : Dev) (m : Nat) (x : Mbx) : (d.setMbx m x).free = d.free := rfl
@[simp] theorem Dev.setMbx_reg (d : Dev) (m : Nat) (x : Mbx) (q : Reg) (j : Nat) : (d.setMbx m x).reg q j = d.reg q j := rfl
@[simp] theorem Dev.setMbx_rf (d : Dev) (m : Nat) (x : Mbx) (q : Reg) (j l w : Nat) : (d.setMbx m x).rf q j l w = d.rf q j l w := rfl
@[simp] theorem Dev.setMbx_rb (d : Dev) (m : Nat) (x : Mbx) (q : Reg) (j l : Nat) : (d.setMbx m x).rb q j l = d.rb q j l := rfl
@[simp] theorem Dev.setMbx_thread (d : Dev) (m : Nat) (x : Mbx) (u : Nat) : (d.setMbx m x).thread u = d.thread u := rfl
@[simp] theorem Dev.setMbx_byte (d : Dev) (m : Nat) (x : Mbx) (a : Nat) : (d.setMbx m x).byte a = d.byte a := rfl
@[simp] theorem Dev.setMbx_live (d : Dev) (m : Nat) (x : Mbx) : (d.setMbx m x).live = d.live := rfl
@[simp] theorem Dev.setMbx_powered (d : Dev) (m : Nat) (x : Mbx) : (d.setMbx m x).powered = d.powered := rfl

/-! ## setChan -/

@[simp] theorem Dev.setChan_regs (d : Dev) (n : Nat) (x : Chan) : (d.setChan n x).regs = d.regs := rfl
@[simp] theorem Dev.setChan_mem (d : Dev) (n : Nat) (x : Chan) : (d.setChan n x).mem = d.mem := rfl
@[simp] theorem Dev.setChan_thr (d : Dev) (n : Nat) (x : Chan) : (d.setChan n x).thr = d.thr := rfl
@[simp] theorem Dev.setChan_cores (d : Dev) (n : Nat) (x : Chan) : (d.setChan n x).cores = d.cores := rfl
@[simp] theorem Dev.setChan_time (d : Dev) (n : Nat) (x : Chan) : (d.setChan n x).time = d.time := rfl
@[simp] theorem Dev.setChan_pkt (d : Dev) (n : Nat) (x : Chan) : (d.setChan n x).pkt = d.pkt := rfl
@[simp] theorem Dev.setChan_keys (d : Dev) (n : Nat) (x : Chan) : (d.setChan n x).keys = d.keys := rfl
@[simp] theorem Dev.setChan_host (d : Dev) (n : Nat) (x : Chan) : (d.setChan n x).host = d.host := rfl
@[simp] theorem Dev.setChan_ptn (d : Dev) (n : Nat) (x : Chan) : (d.setChan n x).ptn = d.ptn := rfl
@[simp] theorem Dev.setChan_fw (d : Dev) (n : Nat) (x : Chan) : (d.setChan n x).fw = d.fw := rfl
@[simp] theorem Dev.setChan_flt (d : Dev) (n : Nat) (x : Chan) : (d.setChan n x).flt = d.flt := rfl
@[simp] theorem Dev.setChan_dpx (d : Dev) (n : Nat) (x : Chan) : (d.setChan n x).dpx = d.dpx := rfl
@[simp] theorem Dev.setChan_cnt (d : Dev) (n : Nat) (x : Chan) : (d.setChan n x).cnt = d.cnt := rfl
@[simp] theorem Dev.setChan_relPend (d : Dev) (n : Nat) (x : Chan) : (d.setChan n x).relPend = d.relPend := rfl
@[simp] theorem Dev.setChan_life (d : Dev) (n : Nat) (x : Chan) : (d.setChan n x).life = d.life := rfl
@[simp] theorem Dev.setChan_board (d : Dev) (n : Nat) (x : Chan) : (d.setChan n x).board = d.board := rfl
@[simp] theorem Dev.setChan_boot (d : Dev) (n : Nat) (x : Chan) : (d.setChan n x).boot = d.boot := rfl
@[simp] theorem Dev.setChan_outs (d : Dev) (n : Nat) (x : Chan) : (d.setChan n x).outs = d.outs := rfl
@[simp] theorem Dev.setChan_free (d : Dev) (n : Nat) (x : Chan) : (d.setChan n x).free = d.free := rfl
@[simp] theorem Dev.setChan_reg (d : Dev) (n : Nat) (x : Chan) (q : Reg) (j : Nat) : (d.setChan n x).reg q j = d.reg q j := rfl
@[simp] theorem Dev.setChan_rf (d : Dev) (n : Nat) (x : Chan) (q : Reg) (j l m : Nat) : (d.setChan n x).rf q j l m = d.rf q j l m := rfl
@[simp] theorem Dev.setChan_rb (d : Dev) (n : Nat) (x : Chan) (q : Reg) (j l : Nat) : (d.setChan n x).rb q j l = d.rb q j l := rfl
@[simp] theorem Dev.setChan_thread (d : Dev) (n : Nat) (x : Chan) (u : Nat) : (d.setChan n x).thread u = d.thread u := rfl
@[simp] theorem Dev.setChan_byte (d : Dev) (n : Nat) (x : Chan) (a : Nat) : (d.setChan n x).byte a = d.byte a := rfl
@[simp] theorem Dev.setChan_live (d : Dev) (n : Nat) (x : Chan) : (d.setChan n x).live = d.live := rfl
@[simp] theorem Dev.setChan_powered (d : Dev) (n : Nat) (x : Chan) : (d.setChan n x).powered = d.powered := rfl

/-! ## withTime -/

@[simp] theorem Dev.withTime_regs (d : Dev) (x : Time) : (d.withTime x).regs = d.regs := rfl
@[simp] theorem Dev.withTime_mem (d : Dev) (x : Time) : (d.withTime x).mem = d.mem := rfl
@[simp] theorem Dev.withTime_thr (d : Dev) (x : Time) : (d.withTime x).thr = d.thr := rfl
@[simp] theorem Dev.withTime_cores (d : Dev) (x : Time) : (d.withTime x).cores = d.cores := rfl
@[simp] theorem Dev.withTime_pkt (d : Dev) (x : Time) : (d.withTime x).pkt = d.pkt := rfl
@[simp] theorem Dev.withTime_keys (d : Dev) (x : Time) : (d.withTime x).keys = d.keys := rfl
@[simp] theorem Dev.withTime_dma (d : Dev) (x : Time) : (d.withTime x).dma = d.dma := rfl
@[simp] theorem Dev.withTime_host (d : Dev) (x : Time) : (d.withTime x).host = d.host := rfl
@[simp] theorem Dev.withTime_ptn (d : Dev) (x : Time) : (d.withTime x).ptn = d.ptn := rfl
@[simp] theorem Dev.withTime_fw (d : Dev) (x : Time) : (d.withTime x).fw = d.fw := rfl
@[simp] theorem Dev.withTime_flt (d : Dev) (x : Time) : (d.withTime x).flt = d.flt := rfl
@[simp] theorem Dev.withTime_dpx (d : Dev) (x : Time) : (d.withTime x).dpx = d.dpx := rfl
@[simp] theorem Dev.withTime_cnt (d : Dev) (x : Time) : (d.withTime x).cnt = d.cnt := rfl
@[simp] theorem Dev.withTime_relPend (d : Dev) (x : Time) : (d.withTime x).relPend = d.relPend := rfl
@[simp] theorem Dev.withTime_life (d : Dev) (x : Time) : (d.withTime x).life = d.life := rfl
@[simp] theorem Dev.withTime_board (d : Dev) (x : Time) : (d.withTime x).board = d.board := rfl
@[simp] theorem Dev.withTime_boot (d : Dev) (x : Time) : (d.withTime x).boot = d.boot := rfl
@[simp] theorem Dev.withTime_outs (d : Dev) (x : Time) : (d.withTime x).outs = d.outs := rfl
@[simp] theorem Dev.withTime_free (d : Dev) (x : Time) : (d.withTime x).free = d.free := rfl
@[simp] theorem Dev.withTime_reg (d : Dev) (x : Time) (q : Reg) (j : Nat) : (d.withTime x).reg q j = d.reg q j := rfl
@[simp] theorem Dev.withTime_rf (d : Dev) (x : Time) (q : Reg) (j l m : Nat) : (d.withTime x).rf q j l m = d.rf q j l m := rfl
@[simp] theorem Dev.withTime_rb (d : Dev) (x : Time) (q : Reg) (j l : Nat) : (d.withTime x).rb q j l = d.rb q j l := rfl
@[simp] theorem Dev.withTime_thread (d : Dev) (x : Time) (u : Nat) : (d.withTime x).thread u = d.thread u := rfl
@[simp] theorem Dev.withTime_byte (d : Dev) (x : Time) (a : Nat) : (d.withTime x).byte a = d.byte a := rfl
@[simp] theorem Dev.withTime_live (d : Dev) (x : Time) : (d.withTime x).live = d.live := rfl
@[simp] theorem Dev.withTime_powered (d : Dev) (x : Time) : (d.withTime x).powered = d.powered := rfl

/-! ## Threads -/

@[simp] theorem Dev.thread_setThread_same (d : Dev) (k : Nat) (t : Thread) : (d.setThread k t).thread k = t := by
  simp [Dev.thread, Dev.setThread]

theorem Dev.thread_setThread_ne (d : Dev) {k u : Nat} (t : Thread) (h : u ≠ k) : (d.setThread k t).thread u = d.thread u :=
  tabGet_put_ne _ _ _ h _

@[simp] theorem Dev.thread_updThread_same (d : Dev) (k : Nat) (f : Thread → Thread) : (d.updThread k f).thread k = f (d.thread k) := by
  simp [Dev.updThread]

theorem Dev.thread_updThread_ne (d : Dev) {k u : Nat} (f : Thread → Thread) (h : u ≠ k) : (d.updThread k f).thread u = d.thread u :=
  d.thread_setThread_ne _ h

@[simp] theorem Dev.fn_setFn_same (d : Dev) (h f : Nat) (x : HostFn) : (d.setFn h f x).fn h f = x := by simp [Dev.fn, Dev.setFn]
@[simp] theorem Dev.fn_updFn_same (d : Dev) (h f : Nat) (g : HostFn → HostFn) : (d.updFn h f g).fn h f = g (d.fn h f) := by simp [Dev.updFn]
@[simp] theorem Dev.part_setPart_same (d : Dev) (p : Nat) (x : Part) : (d.setPart p x).part p = x := by simp [Dev.part, Dev.setPart]
@[simp] theorem Dev.duplex_setDuplex_same (d : Dev) (p : Nat) (x : Dpx) : (d.setDuplex p x).duplex p = x := by simp [Dev.duplex, Dev.setDuplex]
@[simp] theorem Dev.mbx_setMbx_same (d : Dev) (m : Nat) (x : Mbx) : (d.setMbx m x).mbx m = x := by simp [Dev.mbx, Dev.setMbx]

/-! ## Counters -/

@[simp] theorem Dev.counter_count_same (d : Dev) (e : Nat) : (d.count e).counter e = d.counter e + 1 := by
  simp [Dev.counter, Dev.count, Dev.countBy]

theorem Dev.counter_countBy_ne (d : Dev) {e e' : Nat} (n : Nat) (h : e' ≠ e) : (d.countBy e n).counter e' = d.counter e' :=
  tabGet_put_ne _ _ _ h _

end Sys2Proof.Machine
end

