-- ==== Sys2Proof/Laws/Memory.lean ====
section
/-! SUPPORT. Laws/Memory.lean: internal memory: a byte after a write, and that every memory operation keeps the canonical form. -/
namespace Sys2Proof.Machine
open Sys2Proof

/-- A byte after a store: one of the stored bytes inside them, what it was outside. -/
theorem memStore_get (m : List Host.Cell) (a : Nat) (bs : List Byte) (x : Nat) :
    tabGet (memStore m a bs) 0 x = if a ≤ x ∧ x < a + bs.length then bs.getD (x - a) 0 else tabGet m 0 x := by
  induction bs generalizing m a with
  | nil =>
    have : ¬ (a ≤ x ∧ x < a + ([] : List Byte).length) := by simp
    rw [if_neg this]; rfl
  | cons b bs ih =>
    rw [memStore, ih]
    by_cases h : a + 1 ≤ x ∧ x < a + 1 + bs.length
    · have h2 : a ≤ x ∧ x < a + (b :: bs).length := by simp; omega
      rw [if_pos h, if_pos h2]
      obtain ⟨k, hk⟩ : ∃ k, x - a = k + 1 := ⟨x - a - 1, by omega⟩
      rw [hk, List.getD_cons_succ]
      congr 1; omega
    · rw [if_neg h]
      by_cases hx : x = a
      · subst hx
        rw [tabGet_put_same, if_pos (by simp)]
        simp
      · rw [tabGet_put_ne _ _ _ hx]
        rw [if_neg (by simp; omega)]

theorem Dev.byte_write (d : Dev) (a : Nat) (bs : List Byte) (x : Nat) :
    (d.write a bs).byte x = if a ≤ x ∧ x < a + bs.length then bs.getD (x - a) 0 else d.byte x :=
  memStore_get _ _ _ _

theorem Dev.byte_write_outside (d : Dev) {a x : Nat} {bs : List Byte} (h : x < a ∨ a + bs.length ≤ x) : (d.write a bs).byte x = d.byte x := by
  rw [Dev.byte_write, if_neg (by omega)]

theorem memStore_wf {m : List Host.Cell} (a : Nat) (bs : List Byte) (h : Memory.wf m = true) : Memory.wf (memStore m a bs) = true := by
  induction bs generalizing m a with
  | nil => exact h
  | cons b bs ih => exact ih _ (tabWf_put a b h)

theorem Dev.write_wf {d : Dev} (a : Nat) (bs : List Byte) (h : Memory.wf d.mem = true) : Memory.wf (d.write a bs).mem = true :=
  memStore_wf a bs h

theorem Dev.writeDup_wf {d : Dev} (p a : Nat) (bs : List Byte) (h : Memory.wf d.mem = true) : Memory.wf (d.writeDup p a bs).mem = true := by
  simp only [Dev.writeDup]
  split
  · exact Dev.write_wf _ _ (Dev.write_wf _ _ h)
  · exact Dev.write_wf _ _ h

theorem Dev.zero_wf {d : Dev} (a n : Nat) (h : Memory.wf d.mem = true) : Memory.wf (d.zero a n).mem = true :=
  tabWf_filter _ h

theorem Dev.atomic_wf {d : Dev} (a size : Nat) (f : Nat → Option Nat) (h : Memory.wf d.mem = true) : Memory.wf (d.atomic a size f).2.mem = true := by
  simp only [Dev.atomic]
  split
  · exact Dev.write_wf _ _ h
  · exact h

theorem State.reset_mem_wf : Memory.wf State.reset.dev.mem = true := rfl

/-- The bytes of a little-endian number. -/
@[simp] theorem leBytes_length (n v : Nat) : (leBytes n v).length = n := by
  induction n generalizing v with
  | zero => rfl
  | succ n ih => simp [leBytes, ih]

theorem ofLe_leBytes (n v : Nat) : ofLe (leBytes n v) = v % 2 ^ (8 * n) := by
  induction n generalizing v with
  | zero => simp [leBytes, ofLe, Nat.mod_one]
  | succ n ih =>
    simp only [leBytes, ofLe, ih, BitVec.toNat_ofNat]
    rw [show 8 * (n + 1) = 8 + 8 * n by ring, Nat.pow_add, Nat.mod_mul]

end Sys2Proof.Machine
end

