-- ==== Sys2Proof/Laws/Issue.lean ====
section
/-! SUPPORT. Laws/Issue.lean: what an event, an offered instruction and a step can answer. -/
namespace Sys2Proof.Machine
open Sys2Proof

@[simp] theorem Dev.slots_regs (d : Dev) (t c : Nat) (n : Word) : (d.slots t c n).regs = d.regs := by unfold Dev.slots; split <;> rfl
@[simp] theorem Dev.slots_mem (d : Dev) (t c : Nat) (n : Word) : (d.slots t c n).mem = d.mem := by unfold Dev.slots; split <;> rfl
@[simp] theorem Dev.slots_thr (d : Dev) (t c : Nat) (n : Word) : (d.slots t c n).thr = d.thr := by unfold Dev.slots; split <;> rfl
@[simp] theorem Dev.slots_ptn (d : Dev) (t c : Nat) (n : Word) : (d.slots t c n).ptn = d.ptn := by unfold Dev.slots; split <;> rfl
@[simp] theorem Dev.slots_dma (d : Dev) (t c : Nat) (n : Word) : (d.slots t c n).dma = d.dma := by unfold Dev.slots; split <;> rfl
@[simp] theorem Dev.slots_host (d : Dev) (t c : Nat) (n : Word) : (d.slots t c n).host = d.host := by unfold Dev.slots; split <;> rfl
@[simp] theorem Dev.slots_pkt (d : Dev) (t c : Nat) (n : Word) : (d.slots t c n).pkt = d.pkt := by unfold Dev.slots; split <;> rfl
@[simp] theorem Dev.slots_time (d : Dev) (t c : Nat) (n : Word) : (d.slots t c n).time = d.time := by unfold Dev.slots; split <;> rfl
@[simp] theorem Dev.slots_keys (d : Dev) (t c : Nat) (n : Word) : (d.slots t c n).keys = d.keys := by unfold Dev.slots; split <;> rfl
@[simp] theorem Dev.slots_flt (d : Dev) (t c : Nat) (n : Word) : (d.slots t c n).flt = d.flt := by unfold Dev.slots; split <;> rfl
@[simp] theorem Dev.slots_thread (d : Dev) (t c : Nat) (n : Word) (u : Nat) : (d.slots t c n).thread u = d.thread u := by
  simp [Dev.thread]
@[simp] theorem Dev.slots_reg (d : Dev) (t c : Nat) (n : Word) (q : Reg) (j : Nat) : (d.slots t c n).reg q j = d.reg q j := by
  simp [Dev.reg]
@[simp] theorem Dev.slots_byte (d : Dev) (t c : Nat) (n : Word) (a : Nat) : (d.slots t c n).byte a = d.byte a := by
  simp [Dev.byte]

@[simp] theorem Dev.slots_counter (d : Dev) (t c : Nat) (n : Word) (e : Nat) : (d.slots t c n).counter e = d.counter e := by
  unfold Dev.slots; split <;> rfl

theorem Dev.counter_count_ne (d : Dev) {e e' : Nat} (h : e' ≠ e) : (d.count e).counter e' = d.counter e' := d.counter_countBy_ne 1 h

/-! ## Events -/

theorem event_live (f : Dev → Dev) {s : State} (h : s.dev.live = true) : event f s = .next { s with bundle := none, dev := f s.dev } := by
  simp [event, h]
theorem event_dead (f : Dev → Dev) {s : State} (h : s.dev.live = false) : event f s = .next { s with bundle := none } := by
  simp [event, h]
theorem eventOn_powered (f : Dev → Dev) {s : State} (h : s.dev.powered = true) : eventOn f s = .next { s with bundle := none, dev := f s.dev } := by
  simp [eventOn, h]
theorem eventOn_off (f : Dev → Dev) {s : State} (h : s.dev.powered = false) : eventOn f s = .next { s with bundle := none } := by
  simp [eventOn, h]

/-- What any command of the three event forms answers: a next state with no bundle open and the queue as it was. -/
theorem event_next {f : Dev → Dev} {s t : State} (h : event f s = .next t) : t.bundle = none ∧ t.pending = s.pending := by
  cases h; exact ⟨rfl, rfl⟩
theorem eventOn_next {f : Dev → Dev} {s t : State} (h : eventOn f s = .next t) : t.bundle = none ∧ t.pending = s.pending := by
  cases h; exact ⟨rfl, rfl⟩
theorem eventAny_next {f : Dev → Dev} {s t : State} (h : eventAny f s = .next t) : t.bundle = none ∧ t.pending = s.pending := by
  cases h; exact ⟨rfl, rfl⟩

theorem live_powered {d : Dev} (h : d.live = true) : d.powered = true := by
  simp [Dev.live] at h; exact h.1

/-! ## Offered instructions -/

/-- The first instruction of a ready thread's bundle, not predicated off and with its operands there: its act decides. -/
theorem issueFirst_ready {i : Issue} {keep : Bool} {cost : Nat} {port : Bool} {dest : Nat} {uses : List (BitVec 5)}
    {act : Thread → Dev → Dev → Act} {s : State} {d2 : Dev}
    (hr : Ready s.dev i.tid.val) (hp : predOn (s.dev.thread i.tid.val) i.pred = true)
    (hu : uses.any (s.dev.thread i.tid.val).busy = false)
    (ha : act (s.dev.thread i.tid.val) s.dev (afterIssue s.dev i.tid.val) = .done d2) :
    issueFirst i keep cost port dest uses act s =
      .next { s with dev := d2.slots i.tid.val 0 (BitVec.ofNat 64 cost),
                     bundle := if keep then some ⟨i.tid.val, s.dev, false, cost, false, dest, port⟩ else none } := by
  obtain ⟨⟨hl, hst, p, hpart, hf⟩, hstale, hfence⟩ := hr
  unfold afterIssue issueEvent at ha
  have hfe : ((s.dev.thread i.tid.val).fence && !((s.dev.thread i.tid.val).outs.isEmpty && (s.dev.thread i.tid.val).stq.isEmpty)) = false := by
    rcases hfence with h | ⟨h1, h2⟩
    · simp [h]
    · simp [h1, h2]
  unfold issueFirst
  simp only [hpart, hl, hst, hstale, hfe, hf, hp, hu, ha, Bool.not_true, Bool.false_eq_true, if_false, ne_eq, not_true_eq_false]

/-- The same where its act raises an exception: the bundle has no effect but that (R129). -/
theorem issueFirst_exc {i : Issue} {keep : Bool} {cost : Nat} {port : Bool} {dest : Nat} {uses : List (BitVec 5)}
    {act : Thread → Dev → Dev → Act} {s : State} {code operand : Nat}
    (hr : Ready s.dev i.tid.val) (hp : predOn (s.dev.thread i.tid.val) i.pred = true)
    (hu : uses.any (s.dev.thread i.tid.val).busy = false)
    (ha : act (s.dev.thread i.tid.val) s.dev (afterIssue s.dev i.tid.val) = .exc code operand) :
    issueFirst i keep cost port dest uses act s =
      .next { s with dev := s.dev.immediateExc i.tid.val code (s.dev.thread i.tid.val).pc i.slot operand,
                     bundle := if keep then some (deadBundle i.tid.val (s.dev.immediateExc i.tid.val code (s.dev.thread i.tid.val).pc i.slot operand)) else none } := by
  obtain ⟨⟨hl, hst, p, hpart, hf⟩, hstale, hfence⟩ := hr
  unfold afterIssue issueEvent at ha
  have hfe : ((s.dev.thread i.tid.val).fence && !((s.dev.thread i.tid.val).outs.isEmpty && (s.dev.thread i.tid.val).stq.isEmpty)) = false := by
    rcases hfence with h | ⟨h1, h2⟩
    · simp [h]
    · simp [h1, h2]
  unfold issueFirst
  simp only [hpart, hl, hst, hstale, hfe, hf, hp, hu, ha, Bool.not_true, Bool.false_eq_true, if_false, ne_eq, not_true_eq_false]

/-- A first instruction that is predicated off: it takes its slot and does nothing else (R99). -/
theorem issueFirst_off {i : Issue} {keep : Bool} {cost : Nat} {port : Bool} {dest : Nat} {uses : List (BitVec 5)}
    {act : Thread → Dev → Dev → Act} {s : State}
    (hr : Ready s.dev i.tid.val) (hp : predOn (s.dev.thread i.tid.val) i.pred = false) :
    issueFirst i keep cost port dest uses act s =
      .next { s with dev := (afterIssue s.dev i.tid.val).slots i.tid.val 0 (BitVec.ofNat 64 1),
                     bundle := if keep then some ⟨i.tid.val, s.dev, false, 1, true, dest, port⟩ else none } := by
  obtain ⟨⟨hl, hst, p, hpart, hf⟩, hstale, hfence⟩ := hr
  have hfe : ((s.dev.thread i.tid.val).fence && !((s.dev.thread i.tid.val).outs.isEmpty && (s.dev.thread i.tid.val).stq.isEmpty)) = false := by
    rcases hfence with h | ⟨h1, h2⟩
    · simp [h]
    · simp [h1, h2]
  unfold issueFirst afterIssue issueEvent
  simp only [hpart, hl, hst, hstale, hfe, hf, hp, Bool.not_true, Bool.not_false, Bool.false_eq_true, if_false, if_true, ne_eq, not_true_eq_false]

/-- The first instruction of a bundle always answers a next state, with the queue as it was; a bundle that stays open and did issue names a thread that could issue. -/
theorem issueFirst_next (i : Issue) (keep : Bool) (cost : Nat) (port : Bool) (dest : Nat) (uses : List (BitVec 5))
    (act : Thread → Dev → Dev → Act) (s : State) :
    ∃ t, issueFirst i keep cost port dest uses act s = .next t ∧ t.pending = s.pending ∧
      ∀ b, t.bundle = some b → b.tid = i.tid.val ∧ (b.dead = false → b.before = s.dev ∧ mayIssue s.dev i.tid.val) := by
  unfold issueFirst
  dsimp only
  cases keep
  · simp only [Bool.false_eq_true, if_false]
    repeat' split
    all_goals exact ⟨_, rfl, rfl, fun b hb => by cases hb⟩
  · simp only [if_true]
    split
    · exact ⟨_, rfl, rfl, fun b hb => by cases hb; exact ⟨rfl, fun h => by cases h⟩⟩
    · next p hpart =>
      split
      · exact ⟨_, rfl, rfl, fun b hb => by cases hb; exact ⟨rfl, fun h => by cases h⟩⟩
      · next hl =>
        split
        · exact ⟨_, rfl, rfl, fun b hb => by cases hb; exact ⟨rfl, fun h => by cases h⟩⟩
        · next hst =>
          split
          · exact ⟨_, rfl, rfl, fun b hb => by cases hb; exact ⟨rfl, fun h => by cases h⟩⟩
          · split
            · exact ⟨_, rfl, rfl, fun b hb => by cases hb; exact ⟨rfl, fun h => by cases h⟩⟩
            · split
              · exact ⟨_, rfl, rfl, fun b hb => by cases hb; exact ⟨rfl, fun h => by cases h⟩⟩
              · next hf =>
                have hm : mayIssue s.dev i.tid.val := ⟨by simpa using hl, by simpa using hst, p, hpart, by simpa using hf⟩
                repeat' split
                all_goals refine ⟨_, rfl, rfl, fun b hb => ?_⟩
                all_goals injection hb with hb
                all_goals subst hb
                all_goals first
                  | exact And.intro rfl (fun _ => And.intro rfl hm)
                  | exact And.intro rfl (fun h => Bool.noConfusion h)

/-- An instruction offered to slot B of an open bundle closes it, or the bundle is illegal. -/
theorem issueSecond_next {i : Issue} {b : OpenBundle} {cost : Nat} {port : Bool} {dest : Nat} {uses : List (BitVec 5)}
    {act : Thread → Dev → Dev → Act} {s t : State} (h : issueSecond i b cost port dest uses act s = .next t) :
    t.bundle = none ∧ t.pending = s.pending := by
  unfold issueSecond at h
  dsimp only at h
  repeat' split at h
  all_goals first | (cases h; exact ⟨rfl, rfl⟩) | cases h

/-- What an offered instruction can answer: the queue stays, and a bundle that stays open and did issue names a thread that could issue. -/
theorem issue_next {i : Issue} {legal : Bool} {cost : Nat} {port : Bool} {dest : Nat} {uses : List (BitVec 5)}
    {act : Thread → Dev → Dev → Act} {s t : State} (h : issue i legal cost port dest uses act s = .next t) :
    t.pending = s.pending ∧ BundleOk t := by
  have first : ∀ keep, issueFirst i keep cost port dest uses act s = .next t → t.pending = s.pending ∧ BundleOk t := by
    intro keep h
    obtain ⟨t', h', hq, hb⟩ := issueFirst_next i keep cost port dest uses act s
    rw [h'] at h
    cases h
    refine ⟨hq, fun b hb' => ?_⟩
    obtain ⟨h1, h2⟩ := hb b hb'
    refine ⟨by rw [h1]; exact i.tid.isLt, fun hd => ?_⟩
    obtain ⟨h3, h4⟩ := h2 hd
    rw [h3, h1]; exact h4
  unfold issue at h
  split at h
  · cases h
  · split at h
    · exact first _ h
    · split at h
      · split at h
        · obtain ⟨h1, h2⟩ := issueSecond_next h
          exact ⟨h2, fun b hb => by simp [h1] at hb⟩
        · exact first _ h
      · exact first _ h

/-! ## What an instruction that issues does -/

theorem does_slots {d : Dev} {s : State} (tid c : Nat) (n : Word) (b : Option OpenBundle) :
    Does d s { s with dev := d.slots tid c n, bundle := b } := by
  refine ⟨rfl, ?_⟩
  unfold Dev.slots
  split <;> rfl

theorem does_thread {d : Dev} {s t : State} (h : Does d s t) (u : Nat) : t.dev.thread u = d.thread u := by rw [h.2]; rfl
theorem does_reg {d : Dev} {s t : State} (h : Does d s t) (r : Reg) (j : Nat) : t.dev.reg r j = d.reg r j := by rw [h.2]; rfl
theorem does_byte {d : Dev} {s t : State} (h : Does d s t) (a : Nat) : t.dev.byte a = d.byte a := by rw [h.2]; rfl
theorem does_counter {d : Dev} {s t : State} (h : Does d s t) (e : Nat) : t.dev.counter e = d.counter e := by rw [h.2]; rfl

/-- An instruction that issues and whose act succeeds answers a next state with exactly that effect. -/
theorem issue_done {i : Issue} {cost : Nat} {port : Bool} {dest : Nat} {uses : List (BitVec 5)}
    {act : Thread → Dev → Dev → Act} {s : State} {d0 d2 : Dev} (h : Issues i port dest uses s d0)
    (ha : act (d0.thread i.tid.val) d0 (actsOn i s) = .done d2) :
    ∃ t, issue i true cost port dest uses act s = .next t ∧ Does d2 s t := by
  obtain ⟨ho, hp, hu⟩ := h
  have hu' : uses.any (d0.thread i.tid.val).busy = false := by
    simpa using hu
  rcases ho with ⟨hopen, hr, rfl⟩ | ⟨hb, b, hsb, htid, hdead, hport, hdest, hbefore⟩
  · have hj : Joins i s = false := by
      unfold Joins
      rcases hopen with h | h
      · simp [h]
      · cases hs : s.bundle with
        | none => simp
        | some b => have := h b hs; simp [this]
    have ha' : act (s.dev.thread i.tid.val) s.dev (afterIssue s.dev i.tid.val) = .done d2 := by
      simpa [actsOn, hj] using ha
    unfold issue
    simp only [Bool.not_true, Bool.false_eq_true, if_false]
    cases hsl : i.slot with
    | a => simp only []; rw [issueFirst_ready hr hp hu' ha']; exact ⟨_, rfl, does_slots _ _ _ _⟩
    | b =>
      simp only []
      cases hs : s.bundle with
      | none => simp only []; rw [issueFirst_ready hr hp hu' ha']; exact ⟨_, rfl, does_slots _ _ _ _⟩
      | some b =>
        have hne : b.tid ≠ i.tid.val := by
          rcases hopen with h | h
          · rw [hsl] at h; cases h
          · exact h b hs
        simp only [hne, if_false]
        rw [issueFirst_ready hr hp hu' ha']; exact ⟨_, rfl, does_slots _ _ _ _⟩
  · subst hbefore
    have hj : Joins i s = true := by simp [Joins, hb, hsb, htid]
    have ha' : act (b.before.thread i.tid.val) b.before s.dev = .done d2 := by simpa [actsOn, hj] using ha
    have hc : ((b.port && port) || (decide (dest ≠ 0) && dest == b.dest)) = false := by
      rcases hdest with h | h <;> simp_all
    unfold issue issueSecond
    simp only [Bool.not_true, Bool.false_eq_true, if_false, hb, hsb, htid, if_true, hdead, hc, hp, hu', ha']
    exact ⟨_, rfl, does_slots _ _ _ _⟩

/-- An instruction that issues and whose act raises an exception answers a next state in which it has been raised (R129). -/
theorem issue_exc {i : Issue} {cost : Nat} {port : Bool} {dest : Nat} {uses : List (BitVec 5)}
    {act : Thread → Dev → Dev → Act} {s : State} {d0 : Dev} {code operand : Nat} (h : Issues i port dest uses s d0)
    (ha : act (d0.thread i.tid.val) d0 (actsOn i s) = .exc code operand) :
    ∃ t, issue i true cost port dest uses act s = .next t ∧ t.pending = s.pending ∧
      t.dev = d0.immediateExc i.tid.val code (d0.thread i.tid.val).pc i.slot operand := by
  obtain ⟨ho, hp, hu⟩ := h
  have hu' : uses.any (d0.thread i.tid.val).busy = false := by
    simpa using hu
  rcases ho with ⟨hopen, hr, rfl⟩ | ⟨hb, b, hsb, htid, hdead, hport, hdest, hbefore⟩
  · have hj : Joins i s = false := by
      unfold Joins
      rcases hopen with h | h
      · simp [h]
      · cases hs : s.bundle with
        | none => simp
        | some b => have := h b hs; simp [this]
    have ha' : act (s.dev.thread i.tid.val) s.dev (afterIssue s.dev i.tid.val) = .exc code operand := by
      simpa [actsOn, hj] using ha
    unfold issue
    simp only [Bool.not_true, Bool.false_eq_true, if_false]
    cases hsl : i.slot with
    | a => simp only []; rw [issueFirst_exc hr hp hu' ha', hsl]; exact ⟨_, rfl, rfl, rfl⟩
    | b =>
      simp only []
      cases hs : s.bundle with
      | none => simp only []; rw [issueFirst_exc hr hp hu' ha', hsl]; exact ⟨_, rfl, rfl, rfl⟩
      | some b =>
        have hne : b.tid ≠ i.tid.val := by
          rcases hopen with h | h
          · rw [hsl] at h; cases h
          · exact h b hs
        simp only [hne, if_false]
        rw [issueFirst_exc hr hp hu' ha', hsl]; exact ⟨_, rfl, rfl, rfl⟩
  · subst hbefore
    have hj : Joins i s = true := by simp [Joins, hb, hsb, htid]
    have ha' : act (b.before.thread i.tid.val) b.before s.dev = .exc code operand := by simpa [actsOn, hj] using ha
    have hc : ((b.port && port) || (decide (dest ≠ 0) && dest == b.dest)) = false := by
      rcases hdest with h | h <;> simp_all
    unfold issue issueSecond
    simp only [Bool.not_true, Bool.false_eq_true, if_false, hb, hsb, htid, if_true, hdead, hc, hp, hu', ha']
    exact ⟨_, rfl, rfl, rfl⟩

/-- What an immediate exception leaves (R129). -/
theorem immediateExc_excepts {i : Issue} {d : Dev} {code operand : Nat} {s t : State} (hq : t.pending = s.pending)
    (hd : t.dev = d.immediateExc i.tid.val code (d.thread i.tid.val).pc i.slot operand) : Excepts i code operand d s t := by
  unfold Dev.immediateExc Dev.raiseExc at hd
  refine ⟨hq, ?_, ?_, ?_, ?_, ?_⟩
  · rw [hd]; split <;> simp
  · rw [hd]; split <;> simp
  · intro u hu; rw [hd]; split <;> simp [Dev.thread_updThread_ne, hu]
  · rw [hd]; split <;> simp
  · rw [hd]; split
    · simp
    · cases hs : i.slot <;> simp [Dev.raise, excDetail]

/-- An instruction whose whole effect is in its own thread changes nothing else. -/
theorem issue_thread {i : Issue} {cost : Nat} {port : Bool} {dest : Nat} {uses : List (BitVec 5)}
    {act : Thread → Dev → Dev → Act} {s : State} {d0 : Dev} {f : Thread → Thread} (h : Issues i port dest uses s d0)
    (ha : act (d0.thread i.tid.val) d0 (actsOn i s) = onThread i f (actsOn i s)) :
    ∃ t, issue i true cost port dest uses act s = .next t ∧ ChangesThread i f s t := by
  obtain ⟨t, ht, hd⟩ := issue_done (cost := cost) h ha
  refine ⟨t, ht, ⟨hd.1, ?_, ?_, ?_⟩, ?_⟩
  · rw [hd.2]; unfold actsOn afterIssue; split <;> rfl
  · intro u hu; rw [does_thread hd]; unfold actsOn afterIssue
    split <;> simp [Dev.thread_updThread_ne, hu]
  · intro e he; rw [does_counter hd]; unfold actsOn afterIssue
    split
    · rfl
    · exact Dev.counter_count_ne _ he
  · rw [does_thread hd]; simp

/-! ## Steps -/

theorem step_front (s : State) (c : Instr) (rest : List Instr) (h : s.pending = c :: rest) : step s = exec c { s with pending := rest } := by
  simp [step, h]

theorem step_idle {s : State} (h : s.pending = []) : step s = .next (tickStep s) := by
  simp [step, h]

end Sys2Proof.Machine
end

