-- ==== Sys2Proof/Laws/Firmware.lean ====
section
/-! SUPPORT. Laws/Firmware.lean: what a Wenot command's row does with the command that firmware has taken, once for all of them. -/
namespace Sys2Proof.Machine

/-- The device on which a taken command acts: firmware has it in hand, and it is not forwarded. -/
def Dev.inHand (d : Dev) : Dev := { d with fw := { d.fw with taken := none, owned := none } }

/-- Firmware runs a well-formed command of the manager that names no externally paired partition: the command's own meaning decides, and an answer that fits goes out (R361, R363, R367, R420). -/
theorem Dev.fwRun_own {d : Dev} {opcode : Nat} {np : Bool} {f : List Byte → CmdHdr → Dev → FwRes} {h : CmdHdr} {x : Word × W32} {p : List Byte}
    (ht : d.fw.taken = some x) (hs : d.fwServes = true) (hg : d.fw.guest = 0) (hr : h.readOk = true) (hh : headerBad np h = false) (ha : argBad opcode h = false)
    (hp : p = slice h.payload 0 h.payloadLen.toNat) (ho : d.fwOwner opcode p h = none) :
    d.fwRun opcode np f h = match fwSettle h d.inHand (f p h d.inHand) with
      | .answer a d => d.fwEnd opcode h a
      | .hold d => { d with fw := { d.fw with running := some (opcode, h) } } := by
  subst hp
  have ho' : ({ d with fw := { d.fw with taken := none } } : Dev).fwOwner opcode (slice h.payload 0 h.payloadLen.toNat) h = none := ho
  unfold Dev.fwRun
  simp only [ht, hs, hg, hr, hh, ha, Bool.not_true, Bool.or_self, Bool.false_eq_true, if_false, ne_eq, not_true_eq_false]
  rw [if_neg, if_neg]
  · simp only [Dev.inHand, hg] <;> rfl
  · intro hc; exact absurd (ho'.symm.trans hc) (by simp)
  · intro hc; exact absurd (ho'.symm.trans hc) (by simp)

/-- A malformed command fails with BAD_FIELD and does nothing else (R361, R367). -/
theorem Dev.fwRun_bad {d : Dev} {opcode : Nat} {np : Bool} {f : List Byte → CmdHdr → Dev → FwRes} {h : CmdHdr} {x : Word × W32}
    (ht : d.fw.taken = some x) (hs : d.fwServes = true) (hr : h.readOk = true) (hb : headerBad np h = true ∨ argBad opcode h = true) :
    d.fwRun opcode np f h = ({ d with fw := { d.fw with taken := none } } : Dev).fwRespond opcode h { status := 0x04 } false := by
  simp [Dev.fwRun, ht, hs, hr, hb]

/-- With no command taken, or while firmware does not serve, a command's row does nothing. -/
theorem Dev.fwRun_idle {d : Dev} {opcode : Nat} {np : Bool} {f : List Byte → CmdHdr → Dev → FwRes} {h : CmdHdr}
    (hi : d.fw.taken = none ∨ d.fwServes = false) : d.fwRun opcode np f h = d := by
  rcases hi with hi | hi
  · simp [Dev.fwRun, hi]
  · unfold Dev.fwRun; split
    · rfl
    · simp [hi]

/-- An answer that fits its buffer stands. -/
theorem fwSettle_fits {h : CmdHdr} {d0 d : Dev} {a : FwAns} (hl : a.out.length ≤ h.outLen.toNat) : fwSettle h d0 (.answer a d) = .answer a d := by
  simp [fwSettle, Nat.not_lt.mpr hl]

/-- An answer that does not fit fails with NO_RESOURCE, and the command has no other effect (R363). -/
theorem fwSettle_short {h : CmdHdr} {d0 d : Dev} {a : FwAns} (hl : h.outLen.toNat < a.out.length) :
    fwSettle h d0 (.answer a d) = .answer { status := 0x03, r1 := BitVec.ofNat 64 a.out.length } d0 := by
  simp [fwSettle, hl]

/-- A command that is not forwarded answers at once. -/
theorem Dev.fwEnd_own {d : Dev} {opcode : Nat} {h : CmdHdr} {a : FwAns} (ho : d.fw.owned = none) : d.fwEnd opcode h a = d.fwRespond opcode h a false := by
  simp [Dev.fwEnd, ho]

/-- A command's row in a running device whose meaning answers `a`. -/
theorem wenot_answers {s : State} {opcode : Nat} {np : Bool} {f : List Byte → CmdHdr → Dev → FwRes} {h : CmdHdr} {x : Word × W32} {p : List Byte} {a : FwAns} {e : Dev}
    (hl : s.dev.live = true) (ht : s.dev.fw.taken = some x) (hs : s.dev.fwServes = true) (hg : s.dev.fw.guest = 0) (hr : h.readOk = true)
    (hh : headerBad np h = false) (ha : argBad opcode h = false) (hp : p = slice h.payload 0 h.payloadLen.toNat) (ho : s.dev.fwOwner opcode p h = none)
    (hf : f p h s.dev.inHand = .answer a e) (hn : a.out.length ≤ h.outLen.toNat) :
    wenot opcode np f h s = .next { s with bundle := none, dev := e.fwEnd opcode h a } := by
  unfold wenot
  rw [event_live _ hl, Dev.fwRun_own ht hs hg hr hh ha hp ho, hf, fwSettle_fits hn]

/-- A command's row in a running device whose meaning holds its answer back. -/
theorem wenot_holds {s : State} {opcode : Nat} {np : Bool} {f : List Byte → CmdHdr → Dev → FwRes} {h : CmdHdr} {x : Word × W32} {p : List Byte} {e : Dev}
    (hl : s.dev.live = true) (ht : s.dev.fw.taken = some x) (hs : s.dev.fwServes = true) (hg : s.dev.fw.guest = 0) (hr : h.readOk = true)
    (hh : headerBad np h = false) (ha : argBad opcode h = false) (hp : p = slice h.payload 0 h.payloadLen.toNat) (ho : s.dev.fwOwner opcode p h = none)
    (hf : f p h s.dev.inHand = .hold e) :
    wenot opcode np f h s = .next { s with bundle := none, dev := { e with fw := { e.fw with running := some (opcode, h) } } } := by
  unfold wenot
  rw [event_live _ hl, Dev.fwRun_own ht hs hg hr hh ha hp ho, hf, fwSettle]

end Sys2Proof.Machine
end

