-- ==== Sys2Proof/Laws/Thread.lean ====
section
/-! SUPPORT. Laws/Thread.lean: a thread's registers, predicates and windows read back, and what an instruction that writes one register answers. -/
namespace Sys2Proof.Machine
open Sys2Proof

theorem Thread.reg_setReg (t : Thread) (a b : BitVec 5) (v : Word) : (t.setReg a v).reg b = if b = a ∧ a ≠ 0 then v else t.reg b := by
  by_cases ha : a = 0
  · simp [Thread.setReg, ha]
  · by_cases hb : b = 0
    · subst hb
      have : ¬ (0 = a) := fun h => ha h.symm
      simp only [Thread.reg, this, false_and, if_true, if_false]
    · by_cases hab : b = a
      · subst hab; simp only [Thread.setReg, Thread.reg, ha, if_false, tabGet_put_same, true_and, ne_eq, not_false_eq_true, if_true]
      · have : b.toNat ≠ a.toNat := fun h => hab (BitVec.eq_of_toNat_eq h)
        simp only [Thread.setReg, Thread.reg, ha, hb, hab, if_false, false_and, tabGet_put_ne _ _ _ this]

theorem Thread.win_setWin (t : Thread) (a b : BitVec 4) (v : Word) : (t.setWin a v).win b = if b = a then v else t.win b := by
  by_cases h : b = a
  · subst h; simp [Thread.setWin, Thread.win]
  · have : b.toNat ≠ a.toNat := fun e => h (BitVec.eq_of_toNat_eq e)
    simp [Thread.setWin, Thread.win, h, tabGet_put_ne _ _ _ this]

/-- A write of a register changes only the general registers. -/
theorem Thread.setReg_rest (t : Thread) (r : BitVec 5) (v : Word) : t.setReg r v = { t with g := (t.setReg r v).g } := by
  unfold Thread.setReg; split <;> rfl

/-- The registers an instruction's effect starts from are those of the device as it stands. -/
theorem actsOn_reg (i : Issue) (s : State) (r : BitVec 5) : ((actsOn i s).thread i.tid.val).reg r = (s.dev.thread i.tid.val).reg r := by
  unfold actsOn afterIssue; split
  · rfl
  · simp only [Dev.count_thread, Dev.thread_updThread_same]; rfl

@[simp] theorem actsOn_time (i : Issue) (s : State) : (actsOn i s).time = s.dev.time := by unfold actsOn afterIssue; split <;> rfl
@[simp] theorem actsOn_regs (i : Issue) (s : State) : (actsOn i s).regs = s.dev.regs := by unfold actsOn afterIssue; split <;> rfl
@[simp] theorem actsOn_mem (i : Issue) (s : State) : (actsOn i s).mem = s.dev.mem := by unfold actsOn afterIssue; split <;> rfl
theorem actsOn_thread_ne (i : Issue) (s : State) {u : Nat} (h : u ≠ i.tid.val) : (actsOn i s).thread u = s.dev.thread u := by
  unfold actsOn afterIssue; split
  · rfl
  · simp [Dev.thread_updThread_ne, h]

/-- The effective address of R106 on numbers. -/
theorem effAddr_eq {base : Word} {off : BitVec 8} {size ea : Nat} (h : (ea : Int) = (base.toNat + off.toInt * size) % 2 ^ 64) :
    effAddr base off size = ea := by
  have e : BitVec.ofInt 64 (base.toNat + off.toInt * size) = base + sext64 off * BitVec.ofNat 64 size := by
    rw [BitVec.ofInt_add, BitVec.ofInt_mul]; simp [sext64, BitVec.signExtend]
  unfold effAddr; rw [← e, BitVec.toNat_ofInt]; omega

theorem issueCheck_local {d : Dev} {tid : Nat} {p : Word} {ea n : Nat} (h1 : ea % n = 0) (h2 : ea + n ≤ 0x40000) :
    issueCheck d tid p 0#2 ea n = none := by
  unfold issueCheck; simp [h1]; omega

/-- An instruction whose effect is to set one register writes it and nothing else. -/
theorem writesReg_of_changes {i : Issue} {rd : BitVec 5} {v : Word} {s t : State} (h : ChangesThread i (fun x => x.setReg rd v) s t) :
    WritesReg i rd v s t := by
  obtain ⟨h1, h2⟩ := h
  refine ⟨h1, fun r => by rw [h2, Thread.reg_setReg, actsOn_reg], ?_⟩
  rw [h2]
  unfold actsOn afterIssue Thread.moved
  split
  · generalize s.dev.thread i.tid.val = x; unfold Thread.setReg; split <;> rfl
  · simp only [Dev.count_thread, Dev.thread_updThread_same]
    generalize s.dev.thread i.tid.val = x; unfold Thread.setReg Thread.issued; split <;> rfl

/-- The shape of the instructions on two operands. -/
theorem aluReg_writes {i : Issue} {cost : Nat} {rd ra : BitVec 5} {rb : RbSrc} {f : Word → Word → Word} {s : State} {d0 : Dev}
    (h : Issues i false (destG rd) (rd :: ra :: rbRegs rb) s d0) :
    ∃ t, aluReg i true cost rd ra rb f s = .next t ∧
      WritesReg i rd (f ((d0.thread i.tid.val).reg ra) (rbVal (d0.thread i.tid.val) rb)) s t := by
  obtain ⟨t, h1, h2⟩ := issue_thread (cost := cost) (act := fun t _ d => onThread i (fun x => x.setReg rd (f (t.reg ra) (rbVal t rb))) d)
    (f := fun x => x.setReg rd (f ((d0.thread i.tid.val).reg ra) (rbVal (d0.thread i.tid.val) rb))) h rfl
  exact ⟨t, h1, writesReg_of_changes h2⟩

/-- The shape of the instructions on one operand. -/
theorem aluOne_writes {i : Issue} {rd ra : BitVec 5} {f : Word → Word} {s : State} {d0 : Dev} (h : Issues i false (destG rd) [rd, ra] s d0) :
    ∃ t, aluOne i true rd ra f s = .next t ∧ WritesReg i rd (f ((d0.thread i.tid.val).reg ra)) s t := by
  obtain ⟨t, h1, h2⟩ := issue_thread (cost := 1) (act := fun t _ d => onThread i (fun x => x.setReg rd (f (t.reg ra))) d)
    (f := fun x => x.setReg rd (f ((d0.thread i.tid.val).reg ra))) h rfl
  exact ⟨t, h1, writesReg_of_changes h2⟩

end Sys2Proof.Machine
end

