-- ==== Sys2Proof/Tests/Slice0.lean ====
section
/-! SUPPORT. Tests/Slice0.lean: well-formedness smoke tests, a few small runs, and for every statement with hypotheses a named theorem that shows states and operands that meet them. -/
namespace Sys2Proof.Tests
open Sys2Proof Sys2Proof.Machine
set_option Elab.async false

/-! ## Small states -/

/-- A device with registers set. -/
def put (l : List (Reg × Nat × Nat)) (d : Dev) : Dev := l.foldl (fun d x => d.setReg x.1 x.2.1 (BitVec.ofNat 64 x.2.2)) d
/-- A state of a device with no bundle open and nothing waiting. -/
def at_ (d : Dev) : State := ⟨d, none, []⟩
/-- The reset device with registers set. -/
def regs (l : List (Reg × Nat × Nat)) : Dev := put l {}
/-- A grant with a range of every kind. -/
def grant : Grant :=
  { hostPorts := 1, counterRead := true, cores := 1, classes := 0xFFFF, maxSlices := 4, cipher := [256, 256, 256, 256], fixity := [256, 256, 256, 256],
    dma := [256, 256, 256, 256], strait := 256, hold := [4096, 4096, 4096, 4096], reorder := [64, 64, 64, 64], cache := [64, 64, 64, 64], ingress := [1024, 1024],
    egress := [1024, 1024], overflow := 64,
    ranges := [⟨1, 0, 0, 8⟩, ⟨2, 0, 0, 4096⟩, ⟨3, 0, 0, 8⟩, ⟨4, 6, 0, 8⟩, ⟨5, 6, 0, 8⟩, ⟨6, 0, 0, 8⟩, ⟨7, 0, 0, 8⟩, ⟨8, 0, 0, 8⟩, ⟨9, 0, 0, 8⟩, ⟨10, 0, 0, 8⟩, ⟨11, 2, 0, 64⟩,
      ⟨12, 0, 0, 4⟩, ⟨13, 0, 2, 8⟩, ⟨14, 2, 0, 8⟩, ⟨15, 2, 0, 16⟩, ⟨16, 2, 0, 16⟩, ⟨17, 8, 0, 1⟩, ⟨18, 0, 0, 8⟩],
    mbxs := [] }
/-- A device whose partition 0 is ACTIVE and holds core 0, with code at instruction addresses 0 to 4095 of E0 and the channels 0 and 7. -/
def base : Dev :=
  { put [(.coreCfg, 0, 8), (.ptnState, 0, 1), (.dmaChOwner, 0, 8), (.dmaChOwner, 7, 8)] {} with ptn := { ({} : Ptn) with parts := [(0, { grant := some grant, prog := some ⟨0, [⟨2, 0, 4096, false⟩], [], []⟩ })] } }
/-- That device with a state of thread 0. -/
def with0 (t : Thread) : Dev := { base with thr := [(0, t)] }
/-- A RUNNING thread. -/
def runT : Thread := { st := .running }
/-- A state in which thread 0 may issue. -/
def run (t : Thread) : State := at_ (with0 t)
/-- An instruction of thread 0 in slot A that is not predicated off. -/
def ia : Issue := ⟨0, .a, 0⟩

/-- Slot A of a thread that may issue, predicated on and with every register there. -/
theorem issues_a {i : Issue} {port : Bool} {dest : Nat} {uses : List (BitVec 5)} {s : State} {p : Nat} (ha : i.slot = .a)
    (h : s.dev.live = true ∧ (s.dev.thread i.tid.val).st = .running ∧ s.dev.partOf i.tid.val = some p ∧ fetchOk s.dev p i.tid.val (s.dev.thread i.tid.val).pc = true ∧
      s.dev.isStale i.tid.val = false ∧ (s.dev.thread i.tid.val).fence = false ∧ predOn (s.dev.thread i.tid.val) i.pred = true)
    (hu : ∀ r ∈ uses, (s.dev.thread i.tid.val).busy r = false) : Issues i port dest uses s s.dev :=
  ⟨Or.inl ⟨Or.inl ha, ⟨⟨h.1, h.2.1, p, h.2.2.1, h.2.2.2.1⟩, h.2.2.2.2.1, Or.inl h.2.2.2.2.2.1⟩, rfl⟩, h.2.2.2.2.2.2, hu⟩

theorem part0 (t : Thread) : (with0 t).partOf 0 = some 0 := show base.partOf 0 = some 0 by decide
theorem simplex0 (t : Thread) : (with0 t).inDuplex 0 = false := show base.inDuplex 0 = false by decide
theorem stale0 (t : Thread) : (with0 t).isStale 0 = false := by simp [Dev.isStale, Dev.isStandby, part0, simplex0]

/-- Slot A of thread 0, RUNNING at address 0 with nothing outstanding. -/
theorem issues_0 {port : Bool} {dest : Nat} {uses : List (BitVec 5)} {t : Thread} (h : t.st = .running ∧ t.pc = 0 ∧ t.fence = false ∧ t.outs = []) :
    Issues ia port dest uses (run t) (run t).dev := by
  have ht : (run t).dev.thread ia.tid.val = t := rfl
  refine issues_a (p := 0) rfl ⟨show base.live = true by decide, by rw [ht]; exact h.1, show base.partOf 0 = some 0 by decide, ?_,
    stale0 t, by rw [ht]; exact h.2.2.1, by rw [ht]; simp [predOn, Thread.pred, ia]⟩ ?_
  · rw [ht, h.2.1]; exact show fetchOk base 0 0 0 = true by decide
  · intro r _; rw [ht]; simp [Thread.busy, h.2.2.2]

/-- Thread 0 is ready. -/
theorem ready_0 {t : Thread} (h : t.st = .running ∧ t.pc = 0 ∧ t.fence = false ∧ t.outs = []) : Ready (run t).dev 0 :=
  (issues_0 (port := false) (dest := 0) (uses := []) h).1.elim (fun x => x.2.1) (fun x => by cases x.1)


/-! ## Well-formedness: an ill-formed term for each check -/

theorem test_wf_add : Instr.wf (.add ia 1 2 (.reg 3)) = true := rfl
theorem test_wf_reserved_predicate : Instr.wf (.add ⟨0, .a, 8⟩ 1 2 (.reg 3)) = false := rfl
theorem test_wf_reserved_condition : Instr.wf (.cmp ia 7 1 2 (.reg 3)) = false := rfl
theorem test_wf_reserved_condition_imm : Instr.wf (.cmpi ia 7 1 2 3) = false := rfl
theorem test_wf_field_past_top : Instr.wf (.bfx ia 1 2 63 1) = false := rfl
theorem test_wf_window_field_past_top : Instr.wf (.bfxw ia 1 2 1 63) = false := rfl
theorem test_wf_field_at_top : Instr.wf (.bfi ia 1 2 63 0) = true := rfl
theorem test_wf_branch_in_slot_b : Instr.wf (.br ⟨0, .b, 0⟩ 1) = false := rfl
theorem test_wf_jump_in_slot_b : Instr.wf (.jr ⟨0, .b, 0⟩ 1) = false := rfl
theorem test_wf_wait_in_slot_b : Instr.wf (.waitev ⟨0, .b, 0⟩ 1 2) = false := rfl
theorem test_wf_start_in_slot_b : Instr.wf (.dstart ⟨0, .b, 0⟩ 1 2) = false := rfl
theorem test_wf_submit_to_no_unit : Instr.wf (.submit ia 1 2 2) = false := rfl
theorem test_wf_atomic_on_host : Instr.wf (.atomAdd ia 3 0 1 2 3) = false := rfl
theorem test_wf_wildcard_key_past_g31 : Instr.wf (.lkw ia 1 23 0) = false := rfl
theorem test_wf_face_offset : Instr.wf (.faceStore 2 4 0) = false := rfl
theorem test_wf_bar : Instr.wf (.inboundRequest ⟨0, 0, 6, 0, false, 4, [], false, false⟩) = false := rfl
theorem test_wf_register_offset : Instr.wf (.registerWrite .firmware 0 0x10000000 false 0) = false := rfl
/-- An ill-formed word has no effect to model: it is never issued (R96). -/
theorem test_illegal_word : exec (.cmp ia 7 1 2 (.reg 3)) (run runT) = .fault .illegalWord := rfl

/-! ## Dunval instructions -/

/-- A thread of which nothing is outstanding may issue any instruction: what the statements about register operations ask (slot A). -/
theorem witness_RegisterAndImmediateOperationsWriteTheirValue :
    ia.predOk = true ∧ Issues ia false (destG 1) (1 :: 2 :: rbRegs (.reg 3)) (run runT) (run runT).dev ∧ Issues ia false (destG 1) (1 :: 2 :: rbRegs (.win 15)) (run runT) (run runT).dev ∧
    Issues ia false (destG 0) [0, 2] (run runT) (run runT).dev ∧ Issues ia false (destG 31) [31] (run runT) (run runT).dev :=
  ⟨rfl, issues_0 ⟨rfl, rfl, rfl, rfl⟩, issues_0 ⟨rfl, rfl, rfl, rfl⟩, issues_0 ⟨rfl, rfl, rfl, rfl⟩, issues_0 ⟨rfl, rfl, rfl, rfl⟩⟩

/-- Slot B behind a slot A of the same thread that has issued, and slot B behind a bundle of another thread. -/
def behind (tid : Nat) : State := { run runT with bundle := some ⟨tid, (run runT).dev, false, 1, false, 1, false⟩ }
theorem witness_slot_b : Follows ⟨0, .b, 0⟩ true (destG 2) (behind 0) (run runT).dev ∧ Opens ⟨0, .b, 0⟩ (behind 8) ∧ ¬ Opens ⟨0, .b, 0⟩ (behind 0) :=
  ⟨⟨rfl, _, rfl, rfl, rfl, rfl, Or.inr (by decide), rfl⟩, Or.inr (by intro b h; cases h; decide), by rintro (h | h); cases h; exact h _ rfl rfl⟩

theorem witness_BitFieldOperationsMoveTheirBits :
    Issues ia false (destG 1) [1, 2] (run runT) (run runT).dev ∧ (63#6).toNat + (0#6).toNat + 1 ≤ 64 ∧ (0#6).toNat + (63#6).toNat + 1 ≤ 64 :=
  ⟨issues_0 ⟨rfl, rfl, rfl, rfl⟩, by decide, by decide⟩

theorem witness_ComparesSetTheirPredicate :
    Issues ia false (destP 7) (2 :: rbRegs (.reg 3)) (run runT) (run runT).dev ∧ (6#3 : BitVec 3) ≠ 7#3 ∧ Issues ia false (destP 0) [] (run runT) (run runT).dev ∧
    Offered ⟨0, .a, 1⟩ false (destP 7) (run runT) (run runT).dev ∧ predOn ((run runT).dev.thread 0) 1 = false ∧ Opens ia (run runT) ∧ timed 0 = true :=
  ⟨issues_0 ⟨rfl, rfl, rfl, rfl⟩, by decide, issues_0 ⟨rfl, rfl, rfl, rfl⟩, Or.inl ⟨Or.inl rfl, ready_0 ⟨rfl, rfl, rfl, rfl⟩, rfl⟩, by decide, Or.inl rfl, rfl⟩

/-- A thread at the last bundle of the address space, and one with a return address in g31. -/
def jumpT (v : Nat) : Thread := { runT with g := [(31, BitVec.ofNat 64 v)] }
theorem witness_BranchesSetThePc :
    ((run runT).dev.thread 0).pc < 2 ^ 23 ∧ Issues ia false 0 [] (run runT) (run runT).dev ∧ Issues ia false (destG 31) [31] (run runT) (run runT).dev ∧
    Issues ia false 0 [31] (run (jumpT 0x10)) (run (jumpT 0x10)).dev ∧ (((run (jumpT 0x10)).dev.thread 0).reg 31).toNat % 8 = 0 ∧
    Issues ia false 0 [31] (run (jumpT 0x11)) (run (jumpT 0x11)).dev ∧ (((run (jumpT 0x11)).dev.thread 0).reg 31).toNat % 8 ≠ 0 :=
  ⟨by decide, issues_0 ⟨rfl, rfl, rfl, rfl⟩, issues_0 ⟨rfl, rfl, rfl, rfl⟩, issues_0 ⟨rfl, rfl, rfl, rfl⟩, by decide, issues_0 ⟨rfl, rfl, rfl, rfl⟩, by decide⟩


/-- A thread whose g2 holds a value. -/
def addrT (v : Nat) : Thread := { runT with g := [(2, BitVec.ofNat 64 v)] }
/-- The device an instruction of such a thread acts on. -/
def acts (t : Thread) : Dev := actsOn ia (run t)

/-- The last doubleword of local data memory, the first of the island's own memory, and the last byte of the partition's DDR. -/
theorem witness_LoadsReadOrGoOut :
    Issues ia false (destG 1) [1, 2] (run (addrT 0x40000)) (run (addrT 0x40000)).dev ∧
    ((0x3FFF8 : Nat) : Int) = ((((run (addrT 0x40000)).dev.thread 0).reg 2).toNat + (255#8).toInt * (2 ^ (3#2).toNat : Nat)) % 2 ^ 64 ∧
    0x3FFF8 % 2 ^ (3#2).toNat = 0 ∧ 0x3FFF8 + 2 ^ (3#2).toNat ≤ 0x40000 ∧
    Issues ia true (destG 1) [1, 2] (run (addrT 0x200100000000)) (run (addrT 0x200100000000)).dev ∧
    issueCheck (acts (addrT 0x200100000000)) 0 0 1#2 0x200100000000 8 = none ∧ ((run (addrT 0x200100000000)).dev.thread 0).loadsOut < 4 ∧
    bankBusy (acts (addrT 0x200100000000)) 0 (bankOf (acts (addrT 0x200100000000)) 0 1#2 0x200100000000 8) = false ∧
    issueCheck (acts (addrT 0xFFFFFF)) 0 0 2#2 0xFFFFFF 1 = none ∧ bankBusy (acts (addrT 0xFFFFFF)) 0 (bankOf (acts (addrT 0xFFFFFF)) 0 2#2 0xFFFFFF 1) = false :=
  ⟨issues_0 ⟨rfl, rfl, rfl, rfl⟩, by decide, by decide, by decide, issues_0 ⟨rfl, rfl, rfl, rfl⟩, by decide, by decide, by decide, by decide, by decide⟩

theorem witness_StoresWriteOrQueue :
    Issues ia false 0 [1, 2] (run (addrT 0x3FFF8)) (run (addrT 0x3FFF8)).dev ∧ ((0x3FFF8 : Nat) : Int) = ((((run (addrT 0x3FFF8)).dev.thread 0).reg 2).toNat + (0#8).toInt * (2 ^ (3#2).toNat : Nat)) % 2 ^ 64 ∧
    0x3FFF8 + 2 ^ (3#2).toNat ≤ 0x40000 ∧ Issues ia true 0 [1, 2] (run (addrT 0x200100000000)) (run (addrT 0x200100000000)).dev ∧
    issueCheck (acts (addrT 0x200100000000)) 0 0 1#2 0x200100000000 8 = none ∧ ((run (addrT 0x200100000000)).dev.thread 0).stq.length < 4 ∧
    bankBusy (acts (addrT 0x200100000000)) 0 (bankOf (acts (addrT 0x200100000000)) 0 1#2 0x200100000000 8) = false :=
  ⟨issues_0 ⟨rfl, rfl, rfl, rfl⟩, by decide, by decide, issues_0 ⟨rfl, rfl, rfl, rfl⟩, by decide, by decide, by decide⟩

theorem witness_AtomicsSwapInOneStep :
    (2 < 3) ∧ (2#2 : BitVec 2) ≠ 3#2 ∧ Issues ia false (destG 1) [1, 2, 3] (run (addrT 0x3FFF8)) (run (addrT 0x3FFF8)).dev ∧ 0x3FFF8 = (((run (addrT 0x3FFF8)).dev.thread 0).reg 2).toNat ∧
    0x3FFF8 % 8 = 0 ∧ 0x3FFF8 + 8 ≤ 0x40000 ∧ Issues ia true (destG 1) [1, 2, 3] (run (addrT 0xFFFFF8)) (run (addrT 0xFFFFF8)).dev ∧
    issueCheck (acts (addrT 0xFFFFF8)) 0 0 2#2 0xFFFFF8 8 = none ∧ bankBusy (acts (addrT 0xFFFFF8)) 0 (bankOf (acts (addrT 0xFFFFF8)) 0 2#2 0xFFFFF8 8) = false :=
  ⟨by decide, by decide, issues_0 ⟨rfl, rfl, rfl, rfl⟩, by decide, by decide, by decide, issues_0 ⟨rfl, rfl, rfl, rfl⟩, by decide, by decide⟩

/-- One address for each check of R107: misaligned, past local memory, past the island and DDR spaces, at a register, in another island's lagoon, and in host space without a PASID. -/
theorem witness_MemoryAccessesAreCheckedAtIssue :
    0x3FFFC % 8 ≠ 0 ∧ 0x40000 < 0x40000 + 8 ∧ 2 ^ 48 ≤ 0x1000000000000 ∧ 2 ^ 38 ≤ 0x4000000000 ∧
    ((∀ k < 8, ∀ o < 2, (acts (addrT 0x200000200000)).region 0x200000200000 8 ≠ some (.island k o)) ∧ (acts (addrT 0x200000200000)).region 0x200000200000 8 = some (.regs 2 0x200000)) ∧
    (acts (addrT 0x300120000000)).region 0x300120000000 8 = some (.lagoon 3 0) ∧ islOf ((acts (addrT 0x300120000000)).seenTid 0) = 2 ∧
    ((run (addrT 8)).dev.thread 0).pasid.getLsbD 31 = false ∧ Issues ia true (destG 1) [1, 2] (run (addrT 8)) (run (addrT 8)).dev ∧
    Issues ia true (destG 1) [1, 2, 3] (run (addrT 0x4000000000)) (run (addrT 0x4000000000)).dev :=
  ⟨by decide, by decide, by decide, by decide, by decide, by decide, by decide, by decide, issues_0 ⟨rfl, rfl, rfl, rfl⟩, issues_0 ⟨rfl, rfl, rfl, rfl⟩⟩

/-- A thread with one operation outstanding, since device time 0. -/
def outT (k : OutKind) (res : Option Word) : Thread := { runT with outs := [⟨0, k, 1, 0, .a, 0, 0, res⟩], nextId := 1 }
/-- A device time, in ns. -/
def later (ns : Nat) (d : Dev) : Dev := { d with time := { d.time with now := ns * 65536, tick := ns / 4 } }
theorem witness_OutstandingResultsReturn :
    (with0 runT).powered = true ∧ Simplex (with0 (outT .snap (some 7))) 0 ∧ ((with0 (outT .snap (some 7))).thread 0).outs[0]? = some ⟨0, .snap, 1, 0, .a, 0, 0, some 7⟩ ∧
    Simplex (with0 (outT (.load 2 0xFFFFF8 8 []) none)) 0 ∧ (with0 (outT (.load 2 0xFFFFF8 8 []) none)).checkMem (.part 0) (physAddr (with0 (outT (.load 2 0xFFFFF8 8 []) none)) 0 2#2 0xFFFFF8) 8 = .ok ∧
    (with0 (outT (.load 2 0x1000000 8 []) none)).checkMem (.part 0) (physAddr (with0 (outT (.load 2 0x1000000 8 []) none)) 0 2#2 0x1000000) 8 = .denied ∧
    (OutOp.timesOut ⟨0, .load 2 8 8 [], 1, 0, .a, 0, 0, none⟩).isSome = true ∧ 0 + 100000 ≤ (later 100000 (with0 (outT (.load 2 8 8 []) none))).ns ∧
    (later 100000 (with0 (outT (.load 2 8 8 []) none))).isStandby 0 = false ∧
    ((with0 { runT with storeErrs := [⟨3, 8, 0, .a⟩] }).thread 0).storeErrs = ⟨3, 8, 0, .a⟩ :: [] ∧ (with0 { runT with storeErrs := [⟨3, 8, 0, .a⟩] }).live = true :=
  ⟨by decide, ⟨⟨0, by decide, by decide⟩, by decide⟩, by decide, ⟨⟨0, by decide, by decide⟩, by decide⟩, by decide, by decide, by decide, by decide, by decide, by decide, by decide⟩

/-- A lock that a thread holds. -/
def heldLock (owner : Nat) (t : Thread) : State := at_ ((with0 t).setReg .lock 5 (Claims.lockWord owner owner))
theorem witness_LocksAreAskedForAndArbitrated :
    ((5 : Nat) : Int) = ((((run (addrT 5)).dev.thread 0).reg 2).toNat + (0#12).toNat) % 2 ^ 64 ∧ (acts (addrT 4095)).granted 0 2 0 4095 = true ∧ (acts (addrT 4096)).granted 0 2 0 4096 = false ∧
    Issues ia true (destG 1) [1, 2] (run (addrT 5)) (run (addrT 5)).dev ∧ (acts (addrT 5)).isStandby 0 = false ∧ ((acts (addrT 5)).thread 0).stq = [] ∧
    ((acts (addrT 5)).flush 0).isStandby 0 = false ∧ (with0 (outT (.acquire 5) none)).live = true ∧ (with0 (outT (.acquire 5) none)).lockHeld 5 = false ∧
    (with0 (outT (.acquire 5) none)).lockPrev 5 < 576 ∧ Claims.acquires (with0 (outT (.acquire 5) none)) 5 0 ∧
    (heldLock 8 (outT (.acquire 5) none)).dev.lockHeld 5 = true ∧ Claims.acquires (heldLock 8 (outT (.acquire 5) none)).dev 5 0 ∧ (heldLock 8 runT).dev.lockOwner 5 = 8 ∧
    ({ (heldLock 8 runT).dev with relPend := [(5, 8, 0, .a)] }).relPend.find? (fun r => r.1 == 5) = some (5, 8, 0, .a) ∧
    ({ (with0 runT) with relPend := [(5, 8, 0, .a)] }).lockHeld 5 = false :=
  ⟨by decide, by decide, by decide, issues_0 ⟨rfl, rfl, rfl, rfl⟩, by decide, by decide, by decide, by decide, by decide, by decide, by unfold Claims.acquires; decide,
    by decide, by unfold Claims.acquires; decide, by decide, by decide, by decide⟩


/-- A time word in g2 with the greatest and with a wrong nanosecond field. -/
theorem witness_TimeInstructionsUseTimeWords :
    ((with0 (addrT 999999999)).thread 0).reg 2 = BitVec.ofNat 64 (0 * 2 ^ 32 + 999999999) ∧ 999999999 < 1000000000 ∧
    Issues ia false (destG 1) [1, 2, 3] (run (addrT 999999999)) (run (addrT 999999999)).dev ∧ Issues ia false 0 [2, 3] (run (addrT 999999999)) (run (addrT 999999999)).dev ∧
    1000000000 ≤ (((with0 (addrT 1000000000)).thread 0).reg 2).toNat % 2 ^ 32 ∧ Issues ia false 0 [2] (run (addrT 1000000000)) (run (addrT 1000000000)).dev ∧
    2 ^ 31 ≤ 0 + 2 ^ 31 ∧ Issues ia false (destG 1) [1] (run runT) (run runT).dev ∧ Simplex (acts runT) 0 :=
  ⟨by decide, by decide, issues_0 ⟨rfl, rfl, rfl, rfl⟩, issues_0 ⟨rfl, rfl, rfl, rfl⟩, by decide, issues_0 ⟨rfl, rfl, rfl, rfl⟩, by decide, issues_0 ⟨rfl, rfl, rfl, rfl⟩,
    ⟨0, by decide, by decide⟩, by decide⟩

/-- Targets at and after device time 0, a thread that waits for one, one-shot and periodic timers that have come. -/
theorem witness_WaitsAndTimersFollowDeviceTime :
    Issues ia false 0 [2] (run (addrT 0)) (run (addrT 0)).dev ∧ expandTime ((acts (addrT 0)).islNs 2 / 1000000000) (((with0 (addrT 0)).thread 0).reg 2) ≤ (acts (addrT 0)).islNs 2 ∧
    (acts (addrT 4)).islNs 2 < expandTime ((acts (addrT 4)).islNs 2 / 1000000000) (((with0 (addrT 4)).thread 0).reg 2) ∧
    ((with0 { runT with st := .waiting, wait := .twait 4 }).thread 0).wait = .twait 4 ∧ 4 ≤ (later 4 (with0 { runT with st := .waiting, wait := .twait 4 })).islNs 2 ∧
    (with0 { runT with st := .waiting, wait := .twait 4 }).islNs 2 < 4 ∧ ((with0 { runT with timer := some 0 }).thread 0).timer = some 0 ∧ 0 ≤ (with0 { runT with timer := some 0 }).islNs 2 ∧
    ((with0 { runT with timer := some 0, period := 2 ^ 32 - 1 }).thread 0).period = 2 ^ 32 - 1 ∧
    Simplex (with0 { runT with st := .waiting, wait := .events 1 0x40000000, timer := some 0 }) 0 ∧ (0x40000000#32).getLsbD 30 = true :=
  ⟨issues_0 ⟨rfl, rfl, rfl, rfl⟩, by decide, by decide, by decide, by decide, by decide, by decide, by decide, by decide, ⟨⟨0, by decide, by decide⟩, by decide⟩, by decide⟩

theorem effMask_zero : Claims.effMask false 0 0 := by intro k _; by_cases h : k = 31 <;> simp [h]
theorem effMask_one : Claims.effMask false 1 1 := by
  intro k hk; by_cases h : k = 31
  · subst h; decide
  · rw [if_neg h]; revert k; decide
/-- Masks 0 and 1, events pending and not, an armed fence, signals to the thread itself on lines 29 and 30, to no thread, to a group and to none. -/
theorem witness_EventsAreTakenAndSignalled :
    Claims.effMask ((acts (addrT 0)).isSupervisor 0) (((with0 (addrT 0)).thread 0).reg 2) 0 ∧ Claims.effMask ((acts (addrT 1)).isSupervisor 0) (((with0 (addrT 1)).thread 0).reg 2) 1 ∧
    Issues ia false (destG 1) [1, 2] (run (addrT 1)) (run (addrT 1)).dev ∧ Simplex (acts (addrT 1)) 0 ∧ ((acts { addrT 1 with ev := 1 }).thread 0).ev &&& 1 ≠ 0 ∧ ((acts (addrT 1)).thread 0).ev &&& 1 = 0 ∧
    ((with0 { outT .snap none with fence := true }).thread 0).fence = true ∧ mayIssue (with0 { outT .snap none with fence := true }) 0 ∧ ((with0 { outT .snap none with fence := true }).thread 0).outs ≠ [] ∧
    Issues ia true 0 [2] (run (addrT 0)) (run (addrT 0)).dev ∧ (29#5).toNat < 30 ∧ 30 ≤ (30#5).toNat ∧ 0 = (((with0 (addrT 0)).thread 0).reg 2).toNat % 1024 ∧ ((acts (addrT 0)).thread 0).stq = [] ∧
    ((acts (addrT 0)).thread 0).st = .running ∧ 576 ≤ (((with0 (addrT 576)).thread 0).reg 2).toNat % 1024 ∧ (acts (addrT 575)).partOf 575 ≠ (acts (addrT 575)).partOf 0 ∧
    (acts (addrT 7)).groupOk 0 7 = true ∧ (acts (addrT 8)).groupOk 0 8 = false ∧ ((acts (addrT 7)).flush 0).isStandby 0 = false :=
  ⟨effMask_zero, effMask_one, issues_0 ⟨rfl, rfl, rfl, rfl⟩, ⟨⟨0, by decide, by decide⟩, by decide⟩, by decide, by decide, by decide,
    ⟨by decide, by decide, 0, by decide, by decide⟩, by decide, issues_0 ⟨rfl, rfl, rfl, rfl⟩, by decide, by decide, by decide, by decide, by decide, by decide, by decide, by decide, by decide, by decide⟩

/-- A frame of the partition. -/
def frame0 : Frame := { bytes := List.replicate 60 0 }
/-- A device that holds it as frame 1. -/
def framed (t : Thread) : Dev := { with0 t with pkt := { frames := [(1, frame0)], nextFrame := 2 } }
/-- The background thread of core 0. -/
def ib : Issue := ⟨512, .a, 0⟩
theorem witness_PacketInstructionsHoldOneFrame :
    Issues ia true (destG 1) [1] (run runT) (run runT).dev ∧ ((acts runT).thread 0).assigned = [] ∧ ((with0 runT).thread 0).frame = none ∧ Simplex (acts runT) 0 ∧
    ((framed { runT with assigned := [1] }).thread 0).assigned = [1] ∧ (framed runT).frame 1 = some frame0 ∧
    Issues ia true (destG 1) [1] (at_ (framed { runT with assigned := [1] })) (framed { runT with assigned := [1] }) ∧
    ((framed { runT with frame := some 1 }).thread 0).frame.isSome = true ∧
    Issues ia true 0 [1, 2] (at_ (framed { runT with frame := some 1, g := [(1, handleOf 1 frame0)] })) (framed { runT with frame := some 1, g := [(1, handleOf 1 frame0)] }) ∧
    handleOf 1 frame0 = ((framed { runT with frame := some 1, g := [(1, handleOf 1 frame0)] }).thread 0).reg 1 ∧
    handleOf 1 frame0 ≠ ((framed { runT with frame := some 1 }).thread 0).reg 1 ∧ 512 ≤ ib.tid.val ∧
    Issues ib true (destG 1) [1] (at_ { base with thr := [(512, runT)] }) { base with thr := [(512, runT)] } :=
  ⟨issues_0 ⟨rfl, rfl, rfl, rfl⟩, by decide, by decide, ⟨⟨0, by decide, by decide⟩, by decide⟩, by decide, by decide, issues_a (p := 0) rfl (by decide) (by decide), by decide,
    issues_a (p := 0) rfl (by decide) (by decide), by decide, by decide, by decide, issues_a (p := 0) rfl (by decide) (by decide)⟩

theorem witness_ChecksumsAndHash : Issues ia false (destG 1) [1, 2, 3] (run runT) (run runT).dev ∧ (acts runT).partOf 0 = some 0 :=
  ⟨issues_0 ⟨rfl, rfl, rfl, rfl⟩, by decide⟩


/-- Tables of the partition: 0 exact of one-word keys, 1 exact and resident, 2 a wildcard table of four rules on E0, 3 exact of two-word keys; table 9 is no one's. -/
def tabled (t : Thread) : Dev :=
  put [(.clsTdir, 0, 2 ^ 63 + 2 * 2 ^ 6 + 1), (.clsTdir, 1, 2 ^ 63 + 2 * 2 ^ 6 + 2 ^ 5 + 1), (.clsTdir, 2, 2 + 2 * 2 ^ 16 + 4 * 2 ^ 36), (.clsTdir, 3, 2 ^ 63 + 2 ^ 11 + 2 * 2 ^ 6 + 1)] (with0 t)
def actsT : Dev := actsOn ia (at_ (tabled runT))
theorem witness_LookupsAskTheirTable :
    actsT.partOf 0 = some 0 ∧ actsT.isStandby 0 = false ∧ Issues ia true (destG 1) [1, 31] (at_ (tabled runT)) (tabled runT) ∧ actsT.exactOf 0 0 = true ∧ actsT.exactOf 0 1 = true ∧
    (31#5).toNat + actsT.tdirN 0 ≤ 32 ∧ (∀ k < actsT.tdirN 0, ((tabled runT).thread 0).busy (BitVec.ofNat 5 (31 + k)) = false) ∧ actsT.exactFast 2 0 0 (keyOfRegs ((tabled runT).thread 0) 31 1) = none ∧
    (actsT.exactFast 2 0 1 (keyOfRegs ((tabled runT).thread 0) 31 1)).isSome = true ∧ (actsT.wildRange 0 2 (actsT.rf .clsTdir 2 16 4)).isSome = true ∧
    Issues ia true (destG 1) (1 :: (List.range 10).map (fun k => BitVec.ofNat 5 (22 + k))) (at_ (tabled runT)) (tabled runT) ∧ actsT.exactOf 0 9 = false ∧
    (actsT.wildRange 0 9 (actsT.rf .clsTdir 9 16 4)).isNone = true ∧ actsT.exactOf 0 3 = true ∧ 32 < (31#5).toNat + actsT.tdirN 3 :=
  ⟨by decide, by decide, issues_a (p := 0) rfl (by decide) (by decide), by decide, by decide, by decide, by decide, by decide, by decide, by decide,
    issues_a (p := 0) rfl (by decide) (by decide), by decide, by decide, by decide, by decide⟩

/-- The last descriptor place of local data memory, a place past it and one between, with 0 and 16 tags out, and with the queue full. -/
theorem witness_SubmissionsCarryTags :
    (1#2).toNat < 2 ∧ Issues ia true (destG 1) [1, 2] (run (addrT 0x3FFC0)) (run (addrT 0x3FFC0)).dev ∧ (((with0 (addrT 0x3FFC0)).thread 0).reg 2).toNat = 0x3FFC0 ∧ 0x3FFC0 % 64 = 0 ∧ 0x3FFC0 < 0x40000 ∧
    ((with0 (addrT 0x3FFC0)).thread 0).tags.length < 16 ∧ (((with0 (addrT 0x3FFC0)).thread 0).sub true).length < 4 ∧ ((acts (addrT 0x3FFC0)).thread 0).stq = [] ∧
    16 ≤ ((with0 { addrT 0 with tags := (List.range 16).map (fun k => ⟨k + 1, false, 0⟩) }).thread 0).tags.length ∧ 4 ≤ (((with0 { addrT 0 with subF := List.replicate 4 ⟨1, 0, []⟩ }).thread 0).sub true).length ∧
    0x3FFC1 % 64 ≠ 0 ∧ 0x40000 % 64 = 0 ∧ 0x40000 ≤ 0x40000 ∧ Simplex (acts runT) 0 ∧
    (({ addrT 5 with tags := [⟨5, true, 1⟩] } : Thread).tags.find? (fun g => g.tag == 5)) = some ⟨5, true, 1⟩ ∧ ((addrT 5).tags.find? (fun g => g.tag == 5)) = none :=
  ⟨by decide, issues_0 ⟨rfl, rfl, rfl, rfl⟩, by decide, by decide, by decide, by decide, by decide, by decide, by decide, by decide, by decide, by decide, by decide,
    ⟨⟨0, by decide, by decide⟩, by decide⟩, by decide, by decide⟩

/-- A thread with a claim of channel 7, granted or not. -/
def claimT (granted : Bool) : Thread := { addrT 7 with claims := [⟨7, granted, none, 0, []⟩] }
theorem witness_ClaimsAndShadowSetsAreTheThreads :
    7 = (((with0 (addrT 7)).thread 0).reg 2).toNat ∧ (acts (addrT 7)).chanOk 0 7 = true ∧ (acts (addrT 8)).chanOk 0 8 = false ∧ Issues ia true (destG 1) [1, 2] (run (addrT 7)) (run (addrT 7)).dev ∧
    Issues ia false (destD 2 15) [2, 3] (run (claimT true)) (run (claimT true)).dev ∧ ((acts (claimT true)).thread 0).claimAt 7 = some 0 ∧ ((acts (addrT 7)).thread 0).claimAt 7 = none ∧
    ((acts (claimT true)).thread 0).claims[0]? = some ⟨7, true, none, 0, []⟩ ∧ ((acts (claimT false)).thread 0).claims[0]? = some ⟨7, false, none, 0, []⟩ ∧ (acts (claimT true)).isStandby 0 = false ∧
    Issues ia true 0 [2] (run (claimT false)) (run (claimT false)).dev :=
  ⟨by decide, by decide, by decide, issues_0 ⟨rfl, rfl, rfl, rfl⟩, issues_0 ⟨rfl, rfl, rfl, rfl⟩, by decide, by decide, by decide, by decide, by decide, issues_0 ⟨rfl, rfl, rfl, rfl⟩⟩

/-- A thread that asks for channel 7. -/
def askT : Thread := { outT (.claim 7) none with claims := [⟨7, false, none, 0, []⟩] }
theorem witness_ChannelArbiterGrantsOneClaim :
    (with0 askT).live = true ∧ (with0 askT).chanHeld 7 = false ∧ (with0 askT).asks 0 (fun k => k == OutKind.claim 7) = true ∧ ((with0 askT).thread 0).held.length < 2 ∧ ((with0 askT).chan 7).prevWin < 576 ∧
    ((with0 askT).setChan 7 { claim := some 8 }).chanHeld 7 = true ∧ ((with0 askT).setChan 7 { claim := some 8 }).asks 0 (fun k => k == OutKind.claim 7) = true ∧
    (({ runT with claims := [⟨7, true, some 0, 0, []⟩] } : Thread).claims.find? (fun c => c.ch == 7 && c.granted)) = some ⟨7, true, some 0, 0, []⟩ ∧ 0 ≤ (with0 runT).ns ∧ (with0 runT).isStandby 0 = false :=
  ⟨by decide, by decide, by decide, by decide, by decide, by decide, by decide, by decide, by decide, by decide⟩

/-- A device whose supervisor of partition 0 is thread 0, with an idle thread 1. -/
def supDev (t : Thread) : Dev := put [(.coreSupv, 0, 2 ^ 31)] (with0 t)
/-- A thread that starts thread 1 at bundle 8, and one that starts thread 0. -/
def startT (target pc : Nat) : Thread := { runT with g := [(2, BitVec.ofNat 64 target), (3, BitVec.ofNat 64 pc)] }
def actsS (t : Thread) : Dev := actsOn ia (at_ (supDev t))
theorem witness_SpecialRegistersAndSupervisor :
    Issues ia true 0 [2] (run (addrT 1)) (run (addrT 1)).dev ∧ ((with0 (addrT 1)).thread 0).stq.length < 4 ∧ (acts runT).isStandby 0 = false ∧ Issues ia false (destG 1) [1] (run runT) (run runT).dev ∧
    Simplex (acts runT) 0 ∧ (acts runT).partOf 0 = some 0 ∧ (acts runT).isSupervisor 0 = false ∧ (actsS runT).isSupervisor 0 = true ∧ ((supDev runT).part 0).notices = [] ∧
    ((framed { runT with frame := some 1 }).thread 0).frame = some 1 ∧ 15 ≤ (15#5).toNat ∧ 10 ≤ (12#5).toNat ∧ (12#5).toNat ≤ 12 ∧ Simplex (actsS (startT 1 8)) 0 ∧
    Issues ia true (destG 1) [1, 2, 3] (at_ (supDev (startT 1 8))) (supDev (startT 1 8)) ∧ 1 = (((supDev (startT 1 8)).thread 0).reg 2).toNat % 1024 ∧ (actsS (startT 1 8)).partOf 1 = some 0 ∧
    coreOf 1 = coreOf 0 ∧ ((actsS (startT 1 8)).thread 1).st = .idle ∧ (((supDev (startT 1 8)).thread 0).reg 3).toNat % 8 = 0 ∧ fetchOk (actsS (startT 1 8)) 0 1 8 = true ∧
    (actsS (startT 8 8)).partOf 8 ≠ some 0 ∧ ((actsOn ia (at_ { supDev (startT 1 8) with thr := [(0, startT 1 8), (1, { runT with st := .halted })] })).thread 1).st = .halted :=
  ⟨issues_0 ⟨rfl, rfl, rfl, rfl⟩, by decide, by decide, issues_0 ⟨rfl, rfl, rfl, rfl⟩, ⟨⟨0, by decide, by decide⟩, by decide⟩, by decide, by decide, by decide, by decide, by decide, by decide,
    by decide, by decide, ⟨⟨0, by decide, by decide⟩, by decide⟩, issues_a (p := 0) rfl (by decide) (by decide), by decide, by decide, by decide, by decide, by decide, by decide, by decide, by decide⟩

theorem witness_InstructionsIssueAndShareTheirBundle :
    Claims.issueOf (.fence ia) = some ia ∧ (Instr.fence ia).wf = true ∧ Opens ia (run runT) ∧ (regs [(.fltStat, 0, 4)]).live = false ∧ ({} : Dev).partOf 0 = none ∧ ((with0 {}).thread 0).st ≠ .running ∧
    (with0 { runT with pc := 4096 }).live = true ∧ (with0 { runT with pc := 4096 }).partOf 0 = some 0 ∧ fetchOk (with0 { runT with pc := 4096 }) 0 0 4096 = false ∧
    (with0 { runT with pc := 4096 }).isStale 0 = false ∧ Ready (run runT).dev 0 ∧ predOn ((with0 runT).thread 0) 1 = false ∧ (deadBundle 0 (with0 runT)).dead = true ∧ (deadBundle 0 (with0 runT)).tid = 0 :=
  ⟨rfl, rfl, Or.inl rfl, by decide, by decide, by decide, by decide, by decide, by decide, by decide, ready_0 ⟨rfl, rfl, rfl, rfl⟩, by decide, rfl, rfl⟩

/-- A device that allows debugging of partition 0, with a breakpoint at bundle 0. -/
def debugDev (t : Thread) : Dev := put [(.coreDbgPart, 0, 1), (.coreBkpt, 0, 1)] (with0 t)
/-- A device whose only started thread has waited since device time 0 for what nothing will set, 10 ms later. -/
def quietDev : Dev := later 10000000 ((with0 { runT with st := .waiting, wait := .events 1 1 }).setPart 0 { (with0 runT).part 0 with quietSince := some 0 })
theorem witness_CoresAreDebuggedResetAndWatched :
    (quietDev.part 0).quietSince = some 0 ∧ (quietDev.part 0).quietRaised = false ∧ quietDev.isQuiet 0 = true ∧ 0 + quietDev.rf .coreQuietLimit 0 0 32 * 1000 * 65536 ≤ quietDev.time.now ∧ quietDev.live = true ∧
    (debugDev runT).live = true ∧ (debugDev runT).partOf 0 = some 0 ∧ (debugDev runT).rb .coreDbgPart 0 0 = true ∧ (debugDev runT).inDuplex 0 = false ∧ ((debugDev runT).thread 0).st = .running ∧
    (debugDev runT).rb .coreDbgPart 0 1 = false ∧ (debugDev runT).breakAt 0 0 = true ∧ ((debugDev { runT with st := .halted }).thread 0).st = .halted ∧ ((debugDev { runT with st := .halted }).thread 0).wait = .none ∧
    (with0 runT).rb .coreDbgPart 0 0 = false ∧ (with0 runT).partOfCore 0 = some 0 ∧ 0 < (with0 runT).rf .coreQuietLimit 0 0 32 ∧ (put [(.coreQuietLimit, 0, 0)] (with0 runT)).rf .coreQuietLimit 0 0 32 = 0 :=
  ⟨by decide, by decide, by decide, by decide, by decide, by decide, by decide, by decide, by decide, by decide, by decide, by decide, by decide, by decide, by decide, by decide, by decide, by decide⟩

/-- A device at a device time in 2^-16 ns. -/
def fx (n : Nat) (d : Dev) : Dev := { d with time := { d.time with now := n } }

/-- The last instant of device time, REFCLK before and after its qualification, copies that agree and that differ, the last strait, and steps to time 0, to the last second, at the limit, forced, past both ends, and refused. -/
theorem witness_TimePlaneKeepsItsCopiesAndSteps :
    ({} : Dev).powered = true ∧ (fx (2 ^ 48 * 1000000000 * 65536 - 1) {}).islNow 7 < 2 ^ 48 * 1000000000 * 65536 ∧ ({} : Dev).time.refOk = false ∧ ({} : Dev).time.refLost = false ∧
    ({ ({} : Dev) with time := { ({} : Time) with refOk := true } }).time.refOk = true ∧ (regs []).quality ≠ 4 ∧
    tabGet ({} : Dev).time.skew 0 1 = 0 ∧ tabGet ({ ({} : Dev) with time := { ({} : Time) with skew := [(7, -1)] } }).time.skew 0 7 ≠ 0 ∧
    ({} : Dev).time.down.contains 22 = false ∧
    (regs [(.timeCtl, 0, 1)]).rb .timeCtl 0 0 = true ∧
    (0 : Int) = (BitVec.ofNat 64 ((regs [(.timeCtl, 0, 1)]).rf .timeStep0 0 0 32 + (regs [(.timeCtl, 0, 1)]).rf .timeStep1 0 0 32 * 2 ^ 32)).toInt ∧
    0 ≤ ((regs [(.timeCtl, 0, 1)]).ns : Int) + 0 ∧ ((regs [(.timeCtl, 0, 1)]).quality ≠ 2 ∧ (regs [(.timeCtl, 0, 1)]).quality ≠ 3) ∧
    (-1 : Int) = (BitVec.ofNat 64 ((regs [(.timeCtl, 0, 1), (.timeStep0, 0, 2 ^ 32 - 1), (.timeStep1, 0, 2 ^ 32 - 1)]).rf .timeStep0 0 0 32 +
      (regs [(.timeCtl, 0, 1), (.timeStep0, 0, 2 ^ 32 - 1), (.timeStep1, 0, 2 ^ 32 - 1)]).rf .timeStep1 0 0 32 * 2 ^ 32)).toInt ∧
    ((regs [(.timeCtl, 0, 1), (.timeStep0, 0, 2 ^ 32 - 1), (.timeStep1, 0, 2 ^ 32 - 1)]).ns : Int) + -1 < 0 ∧
    (1000000000 : Int).natAbs ≤ (regs [(.timeQual, 0, 2)]).rf .timeStepLimit 0 0 32 * 1000000 ∧ ((regs [(.timeQual, 0, 2)]).ns : Int) + 1000000000 < 2 ^ 48 * 1000000000 ∧
    (regs [(.timeCtl, 0, 3), (.timeQual, 0, 2)]).rb .timeCtl 0 1 = true ∧
    (2 ^ 48 * 1000000000 : Int) ≤ ((fx ((2 ^ 48 * 1000000000 - 1) * 65536) {}).ns : Int) + 1 ∧
    (regs [(.timeCtl, 0, 1), (.timeQual, 0, 2)]).rb .timeCtl 0 1 = false ∧ (regs [(.timeCtl, 0, 1), (.timeQual, 0, 2)]).quality = 2 ∧
    (regs [(.timeCtl, 0, 1), (.timeQual, 0, 2)]).rf .timeStepLimit 0 0 32 * 1000000 < (1000000001 : Int).natAbs := by repeat' first | apply And.intro | decide

/-- Port 0 up as the time-receiver port with PTP as the first source, in each quality; and the times at which the sources, the holdover and the outputs act. -/
def ptpD (q src within : Nat) : Dev :=
  { regs [(.portLink, 0, 1), (.timeSrc, 0, 1), (.timeQual, 0, q + 8 * src)] with time := { ({} : Time) with ptpUp := decide (src = 1), within := within } }
theorem witness_TimeSourcesHoldoverAndOutputs :
    (ptpD 0 0 0).powered = true ∧ (ptpD 0 0 0).time.refLost = false ∧ (ptpD 0 0 0).rf .timeSrc 0 8 5 = 0 ∧ (ptpD 0 0 0).portUp 0 = true ∧ (ptpD 0 0 0).source = 0 ∧ (ptpD 0 0 0).rf .timeSrc 0 0 2 = 1 ∧
    (ptpD 1 1 15).source = 1 ∧ (ptpD 1 1 15).rb .timeStatus 0 7 = false ∧ (ptpD 1 1 15).unitHeld 1 = true ∧ (-50 : Int).natAbs ≤ (ptpD 1 1 15).rf .timeLockThresh 0 0 32 ∧ (ptpD 1 1 15).quality = 1 ∧
    (ptpD 1 1 14).quality = 1 ∧ (ptpD 2 1 16).quality = 2 ∧ (ptpD 2 1 16).time.standbyUp = false ∧ (ptpD 2 1 16).sourceUp 2 = false ∧
    (ptpD 0 0 0).rf .timePpsInStat 0 0 32 < 2 ^ 32 - 1 ∧ ({ ({} : Dev) with time := { ({} : Time) with ppsEdges := 3 } }).time.ppsEdges = 3 ∧ (ptpD 0 0 0).rb .timeStatus 0 6 = false ∧
    ({ ({} : Dev) with time := { ({} : Time) with ppsEdges := 2 } }).time.ppsEdges < 3 ∧ 0 + 2000000000 ≤ (later 2000000000 {}).ns ∧ (ptpD 0 0 0).rb .timeSrc 0 24 = false ∧
    (100 = if (ptpD 3 0 0).rb .timeStatus 0 5 then (ptpD 3 0 0).rf .timeHoldRateF 0 0 32 else (ptpD 3 0 0).rf .timeHoldRate 0 0 32) ∧ (ptpD 3 0 0).quality = 3 ∧ (ptpD 4 0 0).quality = 4 ∧
    (later 1000000000 (regs [(.timeStatus, 0, 1)])).rb .timeStatus 0 0 = true ∧ (later 1000000000 (regs [(.timeStatus, 0, 1)])).hwmNow < (later 1000000000 (regs [(.timeStatus, 0, 1)])).sec ∧
    (later 1000000000 (regs [(.timeStatus, 0, 1)])).sec < 2 ^ 48 ∧ (regs [(.timeStatus, 0, 1)]).sec ≤ (regs [(.timeStatus, 0, 1)]).hwmNow ∧ ({} : Dev).rb .timeStatus 0 0 = false ∧
    (later 1000000000 { ({} : Dev) with life := { ({} : Life) with leap := [(0, 0)] } }).life.leapExpiry < (later 1000000000 { ({} : Dev) with life := { ({} : Life) with leap := [(0, 0)] } }).sec ∧
    ({ ({} : Dev) with life := { ({} : Life) with leap := [(0, 0)] } }).life.leap ≠ [] ∧ ({} : Dev).rb .timeStatus 0 3 = false ∧
    ({} : Dev).time.ppsHigh = none ∧ (regs [(.timePpsOut, 0, 1)]).ppsOff = false ∧ (regs [(.timePpsOut, 0, 1)]).time.now % (1000000000 * 65536) < (regs [(.timePpsOut, 0, 1)]).rf .timeAddend 0 0 32 ∧
    ({ ({} : Dev) with time := { ({} : Time) with ppsHigh := some 0 } }).time.ppsHigh = some 0 ∧ 0 ≤ ({} : Dev).ns ∧ ({} : Dev).time.now % (1000000 * 65536) < ({} : Dev).rf .timeAddend 0 0 32 ∧
    (ptpD 0 0 0).live = true ∧ (ptpD 0 0 0).gateOpen 0 7 (ptpD 0 0 0).time.now = true ∧ (PtpSend.delayReq = .delayReq ↔ (ptpD 0 0 0).timePort 0 = true) ∧
    (PtpSend.sync = .delayReq ↔ (ptpD 0 0 0).timePort 31 = true) := by repeat' first | apply And.intro | decide

/-- Sub-port 0 with its link up. -/
def up0 : Dev := regs [(.portLink, 0, 1)]
theorem witness_PortLinksFollowTheirTraining :
    up0.powered = true ∧ up0.portUp 0 = true ∧ ({} : Dev).portUp 24 = false ∧ ({} : Dev).subPort 24 = true ∧ ({ ({} : Dev) with boot := { ({} : Boot) with imaged := true } }).boot.imaged = true ∧
    (regs [(.portStatus, 31, 1)]).live = true ∧ (regs [(.portStatus, 31, 1)]).rf .portStatus 31 0 2 = 1 ∧
    tabGet ({ ({} : Dev) with pkt := { ({} : Pkt) with mmTries := [(31, 1)] } }).pkt.mmTries 0 31 < 2 ∧ 2 ≤ tabGet ({ ({} : Dev) with pkt := { ({} : Pkt) with mmTries := [(31, 2)] } }).pkt.mmTries 0 31 ∧
    tabFind (8 * 31 + 7) ({ ({} : Dev) with pkt := { ({} : Pkt) with pauseEnd := [(255, 0)] } }).pkt.pauseEnd = some 0 ∧ 0 ≤ ({} : Dev).time.now := by repeat' first | apply And.intro | decide

/-- A frame of some bytes with EtherType and the two fields after it, and a device that takes 64-byte frames. -/
def rx (n type op q : Nat) : RxFrame := ⟨List.replicate 12 0 ++ [BitVec.ofNat 8 (type / 256), BitVec.ofNat 8 type, BitVec.ofNat 8 (op / 256), BitVec.ofNat 8 op, BitVec.ofNat 8 (q / 256), BitVec.ofNat 8 q] ++ List.replicate (n - 18) 0, true, false, 0⟩
def rxD (l : List (Reg × Nat × Nat)) : Dev := put ([(.portLink, 0, 1), (.portMaxframe, 0, 64)] ++ l) base
/-- Sub-port 0 belongs to partition 0, whose indirection entry 0 names host queue 7. -/
def rxOwned (ind : Nat) : Dev := rxD [(.timeSrc, 0, 256), (.portSteer, 0, 32), (.clsSteer, 0, 2 ^ 63), (.clsInd, 0, ind), (.clsInd, (rxD []).hashOf 0 ((rxD []).clsKey 0 ((rxD []).parse 0 (rx 60 0 0 0).bytes) (rx 60 0 0 0).bytes) % 4096, ind)]
theorem witness_ReceivedFramesAreCheckedAndSteered :
    (rxD []).live = true ∧ (rxD []).subPort 0 = true ∧ (rxD []).portUp 0 = true ∧
    Claims.macDrop (rxD []) 0 { rx 60 0 0 0 with mmErr := true } = some 8 ∧ Claims.macDrop (rxD [(.portBuf, 0, 0)]) 0 (rx 60 0 0 0) = some 9 ∧ Claims.macDrop (rxD []) 0 (rx 59 0 0 0) = some 4 ∧
    Claims.macDrop (rxD []) 0 (rx 61 0 0 0) = some 5 ∧ Claims.macDrop (rxD []) 0 { rx 60 0 0 0 with fcsOk := false } = some 6 ∧ Claims.macDrop (rxD []) 0 (rx 60 0x8808 1 0) = none ∧
    beAt (rx 60 0x8808 1 0).bytes 12 2 = 0x8808 ∧ beAt (rx 60 0x8808 1 0).bytes 14 2 = 1 ∧ (rxD [(.portFc, 0, 1)]).rf .portFc 0 0 2 = 1 ∧
    Claims.macDrop (rxD []) 0 (rx 60 0x8808 0x0101 0x80) = none ∧ beAt (rx 60 0x8808 0x0101 0x80).bytes 14 2 = 0x0101 ∧ (rxD [(.portFc, 0, 2)]).rf .portFc 0 0 2 = 2 ∧
    Claims.macDrop (rxD []) 0 (rx 60 0x88F7 0 0) = none ∧ beAt (rx 60 0x88F7 0 0).bytes 12 2 ≠ 0x8808 ∧ (rxD []).timePort 0 = true ∧ isPtp (rx 60 0x88F7 0 0).bytes = true ∧
    Claims.macDrop (rxOwned 0) 0 (rx 60 0 0 0) = none ∧ (rxOwned 0).live = true ∧ (rxOwned 0).subPort 0 = true ∧ (rxOwned 0).portUp 0 = true ∧
    ((rxOwned 0).timePort 0 && isPtp (rx 60 0 0 0).bytes) = false ∧ ((rxOwned 0).parse 0 (rx 60 0 0 0).bytes).frag (rx 60 0 0 0).bytes = none ∧
    (rxOwned 0).steer 0 ((rxOwned 0).parse 0 (rx 60 0 0 0).bytes) (rx 60 0 0 0).bytes = some 0 ∧ (rxOwned 0).partState 0 < 2 ∧ (rxOwned 0).holdFits 0 0 ((60 + 4 + 255) / 256) = true ∧
    (rxOwned 0).rb .schIngPol 0 15 = false ∧
    ((rxOwned 0).indirect 0 ((rxOwned 0).hashOf 0 ((rxOwned 0).clsKey 0 ((rxOwned 0).parse 0 (rx 60 0 0 0).bytes) (rx 60 0 0 0).bytes))).2.2 = false ∧
    ((rxOwned (1 + 4 * 7)).indirect 0 ((rxOwned (1 + 4 * 7)).hashOf 0 ((rxOwned (1 + 4 * 7)).clsKey 0 ((rxOwned (1 + 4 * 7)).parse 0 (rx 60 0 0 0).bytes) (rx 60 0 0 0).bytes))).2.2 = true ∧
    (rxOwned (1 + 4 * 7)).steer 0 ((rxOwned (1 + 4 * 7)).parse 0 (rx 60 0 0 0).bytes) (rx 60 0 0 0).bytes = some 0 := by repeat' first | apply And.intro | decide +kernel
theorem steer_none (e : Nat) : (rxD [(.timeSrc, 0, 256)]).reg .clsSteer e = 0 := by
  have hb : base.reg .clsSteer e = (put [(.coreCfg, 0, 8), (.ptnState, 0, 1), (.dmaChOwner, 0, 8), (.dmaChOwner, 7, 8)] {}).reg .clsSteer e := rfl
  simp only [rxD, put, List.foldl, List.cons_append, List.nil_append, Dev.reg_setReg, reduceCtorEq, false_and, if_false] at hb ⊢
  rw [hb]; rfl
theorem find_none (q : Nat → Bool) (l : List Nat) (h : ∀ e, q e = false) : l.find? q = none := by simp [List.find?_eq_none, h]
theorem witness_ReceivedFrames_no_owner (r : Parsed) (bs : List Byte) : (rxD [(.timeSrc, 0, 256)]).steer 0 r bs = none := by
  unfold Dev.steer
  dsimp only
  rw [find_none _ _ (fun e => by rw [steer_none]; rfl)]
  exact show (if (rxD [(.timeSrc, 0, 256)]).rb .portSteer 0 5 then some ((rxD [(.timeSrc, 0, 256)]).rf .portSteer 0 2 3) else none) = none by decide

/-- Frame 1 of partition 0, classified on E0, in the given lists, and its indirection target host queue 7. -/
def frameC : Frame := { bytes := List.replicate 60 0, isl := 2, ind := ⟨1, 7⟩ }
def clsD (l : List (Reg × Nat × Nat)) (k : Pkt) : Dev :=
  { put ([(.clsTdir, 0, 2 ^ 47 * 2 ^ 16 + 2 * 2 ^ 6 + 1), (.clsTdir, 2, 2 + 2 * 2 ^ 16 + 2 * 2 ^ 20 + 4 * 2 ^ 36), (.clsPartWtbl, 0, 2)] ++ l) base with pkt := { k with frames := [(1, frameC)], nextFrame := 2 } }
def ruled : Pkt := { clsQ := [1], rules := [(5, { enable := true, action := 5 + 7 * 16 })] }
/-- Group 0 with thread 0 as its member, and a frame that waits. -/
def grpD (t : Thread) : Dev := { put [(.clsGrpMem, 0, 1)] (with0 t) with pkt := { groups := [(0, { queue := [1] })], frames := [(1, frame0)], nextFrame := 2 } }
def entry0 : Reorder := ⟨0, 0, 1, 0, 2, some (5, 0), false⟩
def frag0 : FragEntry := ⟨1, [], 0, none, 0, none⟩

theorem witness_ClassifierGroupsAndReorderMoveFrames :
    (clsD [] ruled).live = true ∧ (clsD [] ruled).frame 1 = some frameC ∧ frameC.fragDec = none ∧ frameC.frag = none ∧ 7 < 16384 ∧ (clsD [] ruled).targetGranted frameC.part frameC.isl 1 7 = true ∧
    1 ∈ (clsD [] ruled).pkt.clsQ ∧ 1 ∉ (clsD [] ruled).pkt.missQ ∧ (clsD [] ruled).isNext 1 frameC = true ∧ (clsD [] ruled).partState 0 < 2 ∧ (clsD [] ruled).rf .clsPartWtbl 0 (8 * (2 - 2)) 8 ≠ 255 ∧
    (clsD [] ruled).wildLookup 0 ((clsD [] ruled).rf .clsPartWtbl 0 (8 * (2 - 2)) 8) 2 frameC.key = some (5, { enable := true, action := 5 + 7 * 16 }) ∧ (5 + 7 * 16 : W32).toNat = 1 + 1 * 4 + 7 * 16 ∧
    (clsD [(.clsPartWtbl, 0, 255)] ruled).rf .clsPartWtbl 0 (8 * (2 - 2)) 8 = 255 ∧ (clsD [(.clsPartWtbl, 0, 255)] ruled).rb .clsPartCfg 0 9 = false ∧ frameC.ind = ⟨1, 7⟩ ∧
    2 ≤ (clsD [(.ptnState, 0, 2)] ruled).partState 0 ∧ 1 ∈ (clsD [] { missQ := [1] }).pkt.missQ ∧ 1 ∉ (clsD [] { missQ := [1] }).pkt.clsQ ∧
    0 = (clsD [] { missQ := [1] }).rf .clsPartCfg 0 1 8 ∧ (clsD [] { missQ := [1] }).exactCheck 0 = .ok ∧
    (clsD [] { missQ := [1] }).exactFind 0 ((clsD [] { missQ := [1] }).flowKey 0 ((clsD [] { missQ := [1] }).tdirN 0) frameC.key) = none ∧
    0 + (clsD [] {}).rf .clsMissTimeout 0 0 32 * 1000 ≤ (later 10000 (clsD [] { missQ := [1] })).ns ∧ (later 9996 (clsD [] { missQ := [1] })).ns < 0 + (clsD [] {}).rf .clsMissTimeout 0 0 32 * 1000 ∧
    ((grpD runT).group 0).queue.length ≤ 64 ∧ (∀ t ∈ (grpD runT).groupMembers 0, ((grpD runT).thread t).st = .halted ∨ ((grpD runT).thread t).st = .faulted → ((grpD runT).thread t).assigned = []) ∧
    ((grpD runT).group 0).queue.length = 1 ∧ (grpD runT).nextMember 0 = some 0 ∧ (grpD { runT with st := .halted }).nextMember 0 = none ∧
    (clsD [] { reorder := [entry0] }).entryOf 1 = some entry0 ∧ entry0.done = some (5, 0) ∧
    (later 996 (clsD [(.clsGrp, 0, 2 ^ 12)] { reorder := [entry0] })).ns < 0 + (clsD [(.clsGrp, 0, 2 ^ 12)] { reorder := [entry0] }).rf .clsGrp 0 12 20 * 1000 ∧
    0 + (clsD [(.clsGrp, 0, 2 ^ 12)] { reorder := [entry0] }).rf .clsGrp 0 12 20 * 1000 ≤ (later 1000 (clsD [(.clsGrp, 0, 2 ^ 12)] { reorder := [entry0] })).ns ∧
    (clsD [] { reorder := [entry0] }).pkt.reorder.findIdx? (· == entry0) = some 0 ∧
    1 ∈ (clsD [] { fragHold := [1] }).pkt.fragHold ∧ 0 + (clsD [] { fragHold := [1] }).rf .clsFragHold 0 0 32 * 1000 ≤ (later 1000000 (clsD [] { fragHold := [1] })).ns ∧
    ((clsD [] { frags := [frag0] }).pkt.frags.filter (fun e => e.m == 1))[0]? = some frag0 ∧ 0 + (clsD [] {}).rf .clsFragLife 1 0 32 * 1000000 ≤ (later 10000000 (clsD [] { frags := [frag0] })).ns ∧
    (∃ t, ({ frag0 with lastTaken := some 0 } : FragEntry).lastTaken = some t ∧ t + 100000 ≤ (later 100000 (clsD [] {})).ns) := by
  repeat' first | apply And.intro | decide +kernel

/-- Frame 1 on its way to transmit queue 7 of port 0, and on the wire. -/
def txD (l : List (Reg × Nat × Nat)) : Dev :=
  { put ([(.schTxqCfg, 7, 2048), (.portLink, 0, 1), (.schPartEq, 0, 1)] ++ l) base with pkt := { frames := [(1, { frame0 with ind := ⟨0, 7⟩ })], nextFrame := 2, arriving := [1] } }
def wire0 : OnWire := ⟨1, 0, 7, 0, 0, false, 0⟩
def wireD (l : List (Reg × Nat × Nat)) : Dev := { txD l with pkt := { (txD l).pkt with arriving := [], wire := [(0, wire0)], txq := [(7, { frames := [1] })] } }
theorem witness_TransmitQueuesTakeAndSendFrames :
    (txD []).live = true ∧ (txD []).frame 1 = some { frame0 with ind := ⟨0, 7⟩ } ∧ ({ frame0 with ind := ⟨0, 7⟩ } : Frame).tx = none ∧ 1 ∈ (txD []).pkt.arriving ∧ 0 = 7 / 32768 ∧
    (txD [(.schTxqCfg, 7, 0)]).txqOk 7 = false ∧ (txD []).txqOk 7 = true ∧ (txD []).rb .schTxqAtt 7 31 = false ∧ (txD [(.schTxqLim, 7, 0)]).txqRefuses 7 frame0.bytes = some 1 ∧
    (txD [(.schPartEq, 0, 0)]).txqRefuses 7 frame0.bytes = some 2 ∧ (txD [(.portBuf, 0, 64), (.portBuf, 1, 64)]).txqRefuses 7 frame0.bytes = some 3 ∧ (txD []).txqRefuses 7 frame0.bytes = none ∧
    tabFind 0 (wireD []).pkt.wire = some wire0 ∧ wire0.end_ ≤ (wireD []).time.now ∧ tabFind 0 (wireD []).pkt.susp = none ∧ (wireD []).frame wire0.frame = some { frame0 with ind := ⟨0, 7⟩ } ∧
    (wireD []).time.now < wire0.end_ + (wireD []).wireFx 0 12 + (wireD []).rf .timeAddend 0 0 32 ∧ ¬ (later 4000 (wireD [])).time.now < wire0.end_ + (wireD []).wireFx 0 12 + (wireD []).rf .timeAddend 0 0 32 ∧
    (wireD []).portUp 0 = true ∧ (wireD [(.portLink, 0, 0)]).portUp 0 = false := by repeat' first | apply And.intro | decide +kernel

/-- Three entries: a position in the first, at the boundary to the second, and past the sum of a longer cycle. -/
theorem witness_GateListEntryInForce :
    ([(1#8, 10), (2#8, 20), (3#8, 5)] : List (BitVec 8 × Nat))[0]? = some (1#8, 10) ∧ Claims.intervals [(1#8, 10), (2#8, 20), (3#8, 5)] 0 ≤ 9 ∧ 9 < 50 ∧ 9 < Claims.intervals [(1#8, 10), (2#8, 20), (3#8, 5)] 1 ∧
    ([(1#8, 10), (2#8, 20), (3#8, 5)] : List (BitVec 8 × Nat))[1]? = some (2#8, 20) ∧ Claims.intervals [(1#8, 10), (2#8, 20), (3#8, 5)] 1 ≤ 10 ∧ 10 < Claims.intervals [(1#8, 10), (2#8, 20), (3#8, 5)] 2 ∧
    2 + 1 = [(1#8, 10), (2#8, 20), (3#8, 5)].length ∧ Claims.intervals [(1#8, 10), (2#8, 20), (3#8, 5)] 2 ≤ 49 := by decide

/-- Port index 31 with a list in force that has an entry due, and with a pending list; one and several microseconds since the last refill. -/
def gateD (l : List (Reg × Nat × Nat)) (g : Gate) : Dev := { regs ([(.gateStat, 31, 1), (.gateCycle, 31, 100)] ++ l) with pkt := { gate := [(31, g)] } }
def change0 : ShpChange := ⟨0, 7, 64, 0, true, false⟩
def shpD (k : Pkt) : Dev := later 1000 { regs [(.schShpRate, 7, 256), (.schShpBurst, 7, 64)] with pkt := k }
theorem witness_GatesAndShapersFollowDeviceTime :
    (gateD [] { operCount := 1 }).live = true ∧ (gateD [] { operCount := 1 }).rb .gateStat 31 0 = true ∧ ((gateD [] { operCount := 1 }).gateOf 31).next ≤ (gateD [] { operCount := 1 }).ns ∧
    tabFind 31 (gateD [] { operCount := 1 }).pkt.wire = none ∧ ((gateD [] { operCount := 1, change := some 0, adminEn := true, adminCount := 1, adminCycle := 100 }).gateOf 31).change = some 0 ∧
    (gateD [] { operCount := 1, change := some 0 }).ns = 0 ∧ 1 = (shpD {}).ns / 1000 - tabGet (shpD {}).pkt.refillAt 0 0 / 1000 ∧ (shpD {}).pkt.shpPend = [] ∧ (shpD {}).pkt.polPend = [] ∧
    ((shpD {}).listedIdx .schShpRate 8192 0).count 7 = 1 ∧ (shpD {}).rf .schShpRate 7 0 28 ≠ 0 ∧ (shpD { shpPend := [(7, change0)] }).pkt.shpPend = [(7, change0)] ∧ 7 / 8192 = 0 ∧ change0.burst.toNat < 2 ^ 23 ∧
    (shpD {}).live = true := by repeat' first | apply And.intro | decide

/-- Partition 0's interfaces busy and free, with granted and not granted queues, shapers and policers at the edges of their ranges, and words that set no shaper. -/
theorem witness_SchedulerUpdatesActForTheirPartition :
    base.live = true ∧ (put [(.schUpdStat, 8, 1)] base).rb .schUpdStat 8 0 = true ∧ base.rb .schUpdStat 0 0 = false ∧ 32768 ≤ (0x8000#16).toNat ∧ base.granted 0 3 0 8 = false ∧ 8192 ≤ (0x2000#16).toNat ∧
    base.granted 0 4 6 8 = false ∧ 4096 ≤ (0x1000#16).toNat ∧ base.granted 0 5 7 0 = false ∧ (7#16).toNat < 32768 ∧ base.granted 0 3 0 7 = true ∧ (base.rf .schUpdData 1 0 32).testBit 15 = false ∧
    (base.rf .schUpdData 1 0 32).testBit 31 = false ∧ base.pathsBad 0 base.shpParent (fun j => if j = 7 then none else base.txqShaper j) [7] = false ∧ base.granted 0 4 6 7 = true ∧
    (base.rf .schUpdData 2 0 32).testBit 15 = false ∧ base.pathsBad 0 (fun j => if j = 7 then none else base.shpParent j) base.txqShaper [] = false ∧ base.granted 0 5 6 7 = true ∧
    (15#16).toNat < 16 ∧ (base.rf .schUpdData 0 0 32).testBit 15 = false ∧ base.granted 0 5 6 ((put [(.schUpdData, 0, 7)] base).rf .schUpdData 0 0 32 % 4096) = true := by repeat' first | apply And.intro | decide

/-- Table 0 in DDR, an update of a key under way, with its entry there, absent, and with both buckets full. -/
def exactD (op : Nat) (m : List Host.Cell) : Dev := { put [(.clsTdir, 0, 2 ^ 47 * 2 ^ 16 + 10 * 2 ^ 6 + 1)] base with pkt := { updPend := [(0, (op, 0, [], 7))] }, mem := m }
def slotsM : List Host.Cell := (List.range 4).map (fun j => ⟨2 ^ 47 + 64 * j + 39, 0x80⟩)
/-- Eight other keys fill both buckets of the key. -/
def fullM : List Host.Cell := (List.range 8).flatMap (fun j => [⟨2 ^ 47 + 64 * j, 1⟩, ⟨2 ^ 47 + 64 * j + 39, 0x80⟩])
theorem witness_ClassifierUpdatesActForTheirPartition :
    base.live = true ∧ (put [(.clsUpdStat, 0, 1)] base).rb .clsUpdStat 0 0 = true ∧ base.rb .clsUpdStat 0 0 = false ∧ base.granted 0 11 2 64 = false ∧ base.exactOf 0 0 = false ∧ 16384 ≤ (0x4000#15).toNat ∧
    base.granted 0 14 2 8 = false ∧ base.granted 0 11 2 63 = true ∧ (put [(.clsUpdData, 40, 2 ^ 30)] base).actionOk 0 true (leAt ((put [(.clsUpdData, 40, 2 ^ 30)] base).updData 0 0) 160 4) = false ∧
    base.actionOk 0 true (leAt (base.updData 0 0) 160 4) = true ∧ (exactD 4 []).exactOf 0 0 = true ∧ (exactD 4 []).exactCheck 0 = .ok ∧ (7#15).toNat < 16384 ∧ base.granted 0 14 2 7 = true ∧
    leAt (base.updData 0 0) 0 1 = 0 ∧ leAt ((put [(.clsUpdData, 0, 1 + 12 * 65536)] base).updData 0 0) 0 1 = 1 ∧ leAt ((put [(.clsUpdData, 0, 1 + 12 * 65536)] base).updData 0 0) 2 1 ≤ 12 ∧
    tabFind 0 (exactD 4 []).pkt.updPend = some (4, 0, [], 7) ∧ (exactD 4 []).exactFind 0 [] = none ∧ ((exactD 4 []).exactSlots 0 []).find? (fun a => !(exactD 4 []).slotValid a) = some (2 ^ 47) ∧
    (exactD 4 slotsM).exactFind 0 [] = some (2 ^ 47) ∧ (exactD 5 fullM).exactFind 0 [] = none ∧ ((exactD 4 fullM).exactSlots 0 []).find? (fun a => !(exactD 4 fullM).slotValid a) = none := by
  repeat' first | apply And.intro | decide +kernel

/-! ## Engines, keys, channels and rings -/

/-- A descriptor: bytes at their offsets, the rest zero. -/
def desc (l : List (Nat × Nat × Nat)) : List Byte := l.foldl (fun b x => b.take x.1 ++ leBytes x.2.1 x.2.2 ++ b.drop (x.1 + x.2.1)) (List.replicate 64 0)
/-- A digest of no bytes that is not the last, XTS of one sector in DDR, a memory GCM encryption in island memory, and no opcode at all. -/
def digestD : List Byte := desc [(0, 1, 1), (1, 1, 1), (16, 8, 0x200100000000)]
def xtsD : List Byte := desc [(0, 1, 1), (3, 1, 9), (8, 8, 2 ^ 47), (16, 8, 2 ^ 47), (32, 4, 1)]
def gcmD : List Byte := desc [(0, 1, 5), (8, 8, 0x200100000000), (16, 8, 0x200100000000), (32, 4, 1)]
def engOp (fix : Bool) (b : List Byte) (st : OpStage) : EngOp := ⟨2, fix, 0, 0, 1, b, st, 0, none⟩
def aesSlot : KeySlot := { state := 1, mode := 1, uses := 3 }
/-- Thread 0 with a submission, and the engines with an operation. -/
def subD (fix : Bool) (b : List Byte) : Dev :=
  { with0 { runT.setSub fix [⟨1, 0, b⟩] with tags := [⟨1, false, 0⟩] } with keys := { ({} : Keys) with slots := [(0, aesSlot)], cache := [(0, [0])] } }
def opD (o : EngOp) (x : KeySlot) (cached : Bool) : Dev :=
  { with0 { runT with tags := [⟨1, false, 0⟩] } with keys := { ({} : Keys) with slots := [(0, x)], cache := if cached then [(0, [0])] else [], ops := [(0, o)], nextOp := 1 } }
theorem witness_EngineOperationsAreAcceptedStartedAndDone :
    (subD true digestD).live = true ∧ (subD true digestD).engPick 2 true = some (0, 0, ⟨1, 0, digestD⟩) ∧ (subD true digestD).acceptStatus (Claims.opOf (subD true digestD) 0 true 0 0 ⟨1, 0, digestD⟩) = 0 ∧
    (subD false xtsD).engPick 2 false = some (0, 0, ⟨1, 0, xtsD⟩) ∧ (subD false xtsD).acceptStatus (Claims.opOf (subD false xtsD) 0 false 0 0 ⟨1, 0, xtsD⟩) = 0 ∧
    (subD false (desc [])).engPick 2 false = some (0, 0, ⟨1, 0, desc []⟩) ∧ (subD false (desc [])).acceptStatus (Claims.opOf (subD false (desc [])) 0 false 0 0 ⟨1, 0, desc []⟩) ≠ 0 ∧ leAt (desc []) 56 8 = 0 ∧
    (∀ x ∈ (subD false (desc [])).keys.ops, ¬ (x.2.tid = 0 ∧ x.2.fix = false)) ∧
    (opD (engOp true (desc [(0, 1, 2)]) .accepted) aesSlot true).op 0 = some (engOp true (desc [(0, 1, 2)]) .accepted) ∧ (engOp true (desc [(0, 1, 2)]) .accepted).code ≠ 1 ∧
    (∀ b ∈ (opD (engOp true (desc [(0, 1, 2)]) .accepted) aesSlot true).opsBefore 0 (engOp true (desc [(0, 1, 2)]) .accepted), b.stage ≠ .accepted) ∧
    (∀ n ∈ (engOp false xtsD .accepted).slots, ((opD (engOp false xtsD .accepted) aesSlot true).slot n).state = 1 ∧ n ∈ (opD (engOp false xtsD .accepted) aesSlot true).keyCache (2 - 2)) ∧
    (opD (engOp false xtsD .accepted) aesSlot true).rf .keyHoldUse (creditIdx 2 0) 0 13 + (opD (engOp false xtsD .accepted) aesSlot true).holdOf (engOp false xtsD .accepted) ≤
      (opD (engOp false xtsD .accepted) aesSlot true).rf .keyHoldQ (creditIdx 2 0) 0 13 ∧
    (opD (engOp false xtsD .accepted) aesSlot true).cipherStart (engOp false xtsD .accepted) = 0 ∧ (opD (engOp false xtsD .accepted) aesSlot true).isStandby 0 = false ∧
    (opD (engOp true digestD .started) aesSlot true).op 0 = some (engOp true digestD .started) ∧ (opD (engOp true digestD .started) aesSlot true).opsBefore 0 (engOp true digestD .started) = [] ∧
    (engOp true digestD .started).res = 0 ∧ 0 < 576 ∧
    (engOp true digestD .started).fix = true ∧
    (opD (engOp false gcmD .started) { aesSlot with mode := 5, persistent := true } true).runCipher (engOp false gcmD .started) = none ∧ (engOp false gcmD .started).fix = false ∧
    (engOp false xtsD .started).code = 1 ∧ (engOp false xtsD .started).count = 1 ∧ 512 = 2 ^ leAt xtsD 3 1 ∧ (opD (engOp false xtsD .started) aesSlot true).engCheck (engOp false xtsD .started) (2 ^ 47) 512 = none := by
  repeat' first | apply And.intro | decide +kernel

/-- Thread 0's operation waits for key 0, whose first transfer has failed or not. -/
def busD (retry : List Nat) : Dev := { opD (engOp false xtsD .accepted) aesSlot false with keys := { (opD (engOp false xtsD .accepted) aesSlot false).keys with busRetry := retry } }
theorem witness_KeysArriveExpireAndKeepTheirCeilings :
    (busD []).powered = true ∧ (busD []).live = true ∧ (busD []).keyWaiters 2 0 ≠ [] ∧ 0 ∉ (busD []).keyCache 0 ∧ ((busD []).slot 0).state ≠ 0 ∧ (busD []).injecting 900 = false ∧ ((busD []).keyCache 0).length < 1024 ∧
    65536 * 0 + 0 ∉ (busD []).keys.busRetry ∧ 65536 * 0 + 0 ∈ (busD [0]).keys.busRetry ∧
    tabFind 65535 ({ ({} : Dev) with keys := { ({} : Keys) with ceilPend := [(65535, 2 ^ 36)] } }).keys.ceilPend = some (2 ^ 36) := by repeat' first | apply And.intro | decide

/-- Channel 7 with an armed set, and with a transfer. -/
def chanD (l : List (Reg × Nat × Nat)) (c : Chan) : Dev := { put l (with0 runT) with dma := { chans := [(7, c)] } }
def okSet : List (Reg × Nat × Nat) := [(.dmaChSrc, 7, 2 ^ 47), (.dmaChDst, 7, 2 ^ 47 + 4096), (.dmaChCnt, 7, 64)]
def armed0 : Armed := ⟨0, none, false, [(2, 64)]⟩
def xfer0 (st : XferStage) (bs : List Burst) : Xfer := ⟨0, none, false, 2 ^ 47, 2 ^ 47 + 4096, 64, 0, 0, bs, [], st, 0⟩
/-- A COPY entry, and a slice 0 of partition 0 with the submission rings 0 to 7 and the completion rings 0 to 7. -/
def entry (kind : Nat) (l : List (Nat × Nat × Nat)) : List Byte := desc ((2, 1, kind + 1) :: l)
def sliceOn (d : Dev) (sq : SqSt) : Dev :=
  { d with ptn := { d.ptn with slices := [(0, { grant := some ⟨0, 0, 0, 0, 8, 8, [⟨3, 0, 0, 8⟩, ⟨7, 0, 0, 8⟩, ⟨8, 0, 0, 8⟩], []⟩ })] }, dma := { sq := [(7, sq)] } }
def sliceRegs (owner : Nat) : List (Reg × Nat × Nat) :=
  [(.slcState, 0, 1), (.slcOvfLim, 0, 8), (.ptnOvf, 0, 64), (.hostPortStat, 0, 1), (.hostPortCfg, 0, 1), (.hostFnStat, 1, 0x10000000), (.hostFnTags, 1, 16), (.ringSqOwner, 7, owner),
    (.ringCqOwner, 7, 0x8000), (.ringSqCfg, 7, 0x709), (.ringCqCfg, 7, 9), (.ringSqStat, 7, 0x20000)]
def sliceD (kind : Nat) (l : List (Reg × Nat × Nat)) (sq : SqSt) : Dev := sliceOn (put l (put (sliceRegs (0x1E0000 + kind * 0x8000)) base)) sq
theorem witness_DmaTransfersMoveTheirBytes :
    (chanD okSet { armed := some armed0 }).live = true ∧ ((chanD okSet { armed := some armed0 }).chan 7).armed = some armed0 ∧ (chanD okSet { armed := some armed0 }).chanPart 7 = some 0 ∧
    (chanD okSet { armed := some armed0 }).chanBusy 7 = false ∧ (chanD okSet { armed := some armed0 }).rb .dmaChOwner 7 4 = false ∧
    (Claims.withSet (chanD okSet { armed := some armed0 }) 7 [(2, 64)]).setBad 7 0 [(2, 64)] = false ∧ (Claims.withSet (chanD okSet { armed := some armed0 }) 7 [(2, 0)]).setBad 7 0 [(2, 0)] = true ∧
    (Claims.withSet (chanD okSet { armed := some armed0 }) 7 [(2, 0)]).rb .dmaChCq 7 15 = false ∧ (([(2, 64)] : Tab Word).map Prod.fst).Nodup ∧ shadowReg 2 = some (.dmaChCnt, 32) ∧ (2, 64#64) ∈ ([(2, 64)] : Tab Word) ∧
    ((sliceD 2 [(.dmaChOwner, 7, 8 + 16 + 7 * 32)] { entries := [entry 2 []] }).chan 7).armed = none ∧ (sliceD 2 [(.dmaChOwner, 7, 8 + 16 + 7 * 32)] { entries := [entry 2 []] }).rb .dmaChOwner 7 4 = true ∧
    7 = (sliceD 2 [(.dmaChOwner, 7, 8 + 16 + 7 * 32)] {}).rf .dmaChOwner 7 5 14 ∧ (sliceD 2 [] {}).sqSlice 7 = some 0 ∧ (sliceD 2 [] {}).sqKind 7 = 2 ∧ (sliceD 2 [] {}).sqChan 7 = 7 ∧
    ((sliceD 2 [] { entries := [entry 2 []] }).sq 7).entries = entry 2 [] :: [] ∧
    (chanD [] { xfer := some (xfer0 .moving []) }).pickChannel 2 = some (7, 0, true) ∧ chanIsl 7 = 2 ∧ ((chanD [] { xfer := some (xfer0 .moving []) }).chan 7).xfer = some (xfer0 .moving []) ∧
    (chanD [] { xfer := some (xfer0 .moving []) }).chMode 7 0 1 = 0 ∧
    (∃ sl g, (sliceD 2 [(.dmaChPasid, 7, 2 ^ 31)] {}).chanSlice 7 0 = some (sl, g) ∧ (sliceD 2 [(.dmaChPasid, 7, 2 ^ 31)] {}).sliceState sl ≠ 3 ∧ (sliceD 2 [(.dmaChPasid, 7, 2 ^ 31)] {}).canIssue g.port (0 + 1) = true) ∧
    (xfer0 .moving [⟨0, 64⟩]).stage = .moving ∧ (xfer0 .moving [⟨0, 64⟩]).bursts = ⟨0, 64⟩ :: [] ∧ (chanD [] { xfer := some (xfer0 .moving [⟨0, 64⟩]) }).chMode 7 1 1 = 0 ∧
    (chanD [] { xfer := some (xfer0 .moving [⟨0, 64⟩]) }).chMode 7 14 1 = 0 ∧ (chanD [] { xfer := some (xfer0 .moving [⟨0, 64⟩]) }).xferCheck 7 0 (2 ^ 47 + 0) 64 = none ∧
    (chanD [] { xfer := some (xfer0 .moving [⟨0, 64⟩]) }).xferCheck 7 0 (2 ^ 47 + 4096 + 0) 64 = none ∧ (chanD [] { xfer := some (xfer0 .readback []) }).ns ≤ 0 + 100000 ∧
    (chanD [] { xfer := some (xfer0 .readback []) }).rb .dmaChCq 7 15 = false ∧ (chanD [] {}).xferCheck 7 0 (2 ^ 47 + 2 ^ 24) 64 = some 0x05 ∧ (chanD [] {}).xferCheck 7 0 (2 ^ 48) 64 = some 0x14 ∧
    tabFind 3 ({ base with dma := { modePend := [(3, 1)] } }).dma.modePend = some 1 ∧ base.rf .dmaIslStat 3 0 12 = 0 ∧ (put [(.dmaIslStat, 3, 1)] base).rf .dmaIslStat 3 0 12 ≠ 0 := by
  repeat' first | apply And.intro | decide +kernel | exact ⟨0, _, rfl, by decide +kernel, by decide +kernel⟩

/-- A host request that is out. -/
def req (op : HostOp) (rep : Option Reply) : HostReq := ⟨0, 1, some 0, op, 0, 64, 0, 25, false, rep⟩
def asks (d : Dev) (r : HostReq) : Dev := { d with host := { d.host with reqs := [(16383, r)] } }
theorem witness_SubmissionRingsFetchTheirEntries :
    (sliceD 0 [] {}).live = true ∧ (sliceD 0 [] {}).mayRing (.fn 0 1) ((sliceD 0 [] {}).sqSlice 7) = true ∧ (sliceD 0 [] {}).mayRing (.fn 0 2) ((sliceD 0 [] {}).sqSlice 7) = false ∧
    (sliceD 0 [] {}).mayRing (.fn 0 1) ((sliceD 0 [] {}).sqSlice 16383) = false ∧ (sliceD 0 [] {}).sqSlice 7 = some 0 ∧ ((sliceD 0 [] { wake := true }).sq 7).flight = none ∧ (sliceD 0 [] { wake := true }).fetchOn 7 = true ∧
    ((sliceD 0 [] { wake := true }).sq 7).wake = true ∧ (sliceD 0 [] { wake := true }).tagFree 0 1 = true ∧
    (asks (sliceD 0 [] { flight := some 1 }) (req (.fetch 7) (some (.data (entry 0 [(3, 1, 1), (16, 4, 64)]))))).replyFor (.fetch 7) = some (16383, .data (entry 0 [(3, 1, 1), (16, 4, 64)])) ∧
    (sliceD 0 [] {}).rb .ringSqCfg 7 0 = true ∧ (sliceD 0 [] {}).sliceRuns 0 = true ∧ (sliceD 0 [] {}).sliceIssues 0 = true ∧ (sliceD 0 [] {}).sqKind 7 ≠ 2 ∧ (sliceD 0 [] {}).rf .ringSqStat 7 0 16 + 1 ≠ (sliceD 0 [] {}).sqSize 7 ∧
    leAt (entry 0 [(3, 1, 1), (16, 4, 64)]) 3 1 % 2 = (sliceD 0 [] {}).rf .ringSqStat 7 17 1 ∧ (sliceD 0 [] {}).entryBad 7 0 (entry 0 [(3, 1, 1), (16, 4, 64)]) = none ∧ (sliceD 0 [] {}).rf .ringSqStat 7 0 16 + 1 < 65536 ∧
    (asks (sliceD 0 [] { flight := some 8 }) (req (.fetch 7) (some .error))).replyFor (.fetch 7) = some (16383, .error) ∧ (asks (sliceD 0 [] { flight := some 1 }) (req (.fetch 7) (some .timeout))).replyFor (.fetch 7) = some (16383, .timeout) ∧
    (sliceD 0 [(.ringSqCfg, 7, 0)] {}).rb .ringSqCfg 7 0 = false ∧ (0x21#32).getLsbD 0 = true := by repeat' first | apply And.intro | decide

/-- A frame for host queue 7 of slice 0, with a buffer of 64 bytes, with one too small, and with none; a TX entry and its frame; an inbox of four slots with one place left. -/
def hostFrame (es : List (List Byte)) : Dev :=
  { sliceD 0 [] { entries := es } with pkt := { frames := [(1, { frame0 with ind := ⟨1, 7⟩ })], nextFrame := 2, toHost := [1] } }
def txE : List Byte := entry 1 [(16, 2, 60), (18, 2, 7)]
def txSlice (sq : SqSt) : Dev := sliceD 1 [(.schTxqCfg, 7, 2048), (.schPartEq, 0, 1)] sq
def inboxD : Dev := { sliceD 3 [(.ringSqInbox, 7, 0x200100000000 + 2 * 2 ^ 48)] { entries := [entry 3 []] } with mem := [⟨islAddr 2 0x100000000, 3⟩] }
def cqD (l : List (Reg × Nat × Nat)) (c : CqSt) : Dev := { sliceD 0 l {} with dma := { cq := [(7, c)] } }
theorem witness_RingsCarryFramesEntriesAndCompletions :
    (hostFrame [entry 0 [(16, 4, 64)]]).live = true ∧ (hostFrame [entry 0 [(16, 4, 64)]]).frame 1 = some { frame0 with ind := ⟨1, 7⟩ } ∧ 1 ∈ (hostFrame [entry 0 [(16, 4, 64)]]).pkt.toHost ∧
    (hostFrame [entry 0 [(16, 4, 64)]]).sqSlice 7 = some 0 ∧ (hostFrame [entry 0 [(16, 4, 64)]]).sliceIssues 0 = true ∧ (hostFrame [entry 0 [(16, 4, 64)]]).sliceRuns 0 = true ∧ (hostFrame [entry 0 [(16, 4, 64)]]).sqKind 7 = 0 ∧
    (hostFrame [entry 0 [(16, 4, 64)]]).overflowFull 0 = false ∧ ((hostFrame [entry 0 [(16, 4, 64)]]).sq 7).entries = entry 0 [(16, 4, 64)] :: [] ∧
    64 = leAt (entry 0 [(16, 4, 64)]) 16 4 - (if (hostFrame [entry 0 [(16, 4, 64)]]).rb .ringSqCfg 7 22 then 8 else 0) ∧ (0 : Byte) = (if 64 < frame0.bytes.length then 0x19 else 0) ∧
    (leAt (entry 0 [(16, 4, 64)]) 3 1).testBit 1 = false ∧ (0x19 : Byte) = (if 59 < frame0.bytes.length then 0x19 else 0) ∧ ((hostFrame []).sq 7).entries = [] ∧
    (txSlice { entries := [txE] }).sqSlice 7 = some 0 ∧ (txSlice { entries := [txE] }).sqKind 7 = 1 ∧ ((txSlice { entries := [txE] }).sq 7).entries = txE :: [] ∧ ((txSlice { entries := [txE] }).sq 7).reading = none ∧
    (txSlice { entries := [txE] }).txBlocked 7 = false ∧ (txSlice { entries := [txE] }).sliceIssues 0 = true ∧ (txSlice { entries := [txE] }).tagFree 0 1 = true ∧
    ((txSlice { reading := some txE }).sq 7).reading = some txE ∧ (asks (txSlice { reading := some txE }) (req (.txRead 7) (some (.data [])))).replyFor (.txRead 7) = some (16383, .data []) ∧
    inboxD.sqSlice 7 = some 0 ∧ inboxD.sqKind 7 = 3 ∧ (inboxD.sq 7).entries = entry 3 [] :: [] ∧ 0x200100000000 = inboxD.rf .ringSqInbox 7 0 48 ∧ 2 = Nat.min 12 (Nat.max 2 (inboxD.rf .ringSqInbox 7 48 4)) ∧
    3 = ofLe (inboxD.read 0x200100000000 8) ∧ inboxD.region 0x200100000000 (64 + 64 * 2 ^ 2) = some (.island (ringIsl 7) 0) ∧
    inboxD.checkMem (.part (inboxD.sqPart 7)) 0x200100000000 (64 + 64 * 2 ^ 2) = .ok ∧ (3 + 2 ^ 64 - ofLe (inboxD.read (0x200100000000 + 8) 8)) % 2 ^ 64 < 2 ^ 2 ∧
    (cqD [] {}).mayRing (.fn 0 1) ((cqD [] {}).cqSlice 7) = true ∧ 15 < (cqD [] {}).cqSize 7 ∧ (cqD [] {}).rf .ringCqHead 7 0 16 ≤ 15 ∧ (cqD [] {}).rf .ringCqHead 7 16 1 = 15 / 65536 % 2 ∧
    ((cqD [] { timer := some 4 }).cq 7).timer = some 4 ∧ (cqD [] {}).cqSlice 7 = some 0 ∧ 4 ≤ (later 4 (cqD [] { timer := some 4 })).ns ∧ (cqD [] { timer := some 4 }).ns < 4 ∧
    (cqD [(.ringCqCfg, 7, 0)] {}).rb .ringCqCfg 7 0 = false ∧ (cqD [] {}).rb .ringCqCfg 7 0 = true := by repeat' first | apply And.intro | decide +kernel

/-- A host port that is no management port, trained and about to train, with its functions; the last function of the last port. -/
def portD (l : List (Reg × Nat × Nat)) (h : HostSt) : Dev := { regs ([(.hostPortCfg, 4, 255)] ++ l) with host := h }
theorem witness_HostLinksAndFunctionsReset :
    (portD [] { perst := 0, training := 255 }).powered = true ∧ (portD [] { perst := 0, training := 255 }).hostPortExists 4 = true ∧ (portD [] { perst := 0, training := 255 }).host.perst.getLsbD 4 = false ∧
    (portD [] { perst := 0, training := 255 }).host.training.getLsbD 4 = true ∧ (portD [] { perst := 0, training := 255 }).linkUp 4 = false ∧
    (∀ m ∈ (portD [] { perst := 0, training := 255 }).mbxList, (portD [] { perst := 0, training := 255 }).faceAddr m = none) ∧ 4 ≠ (portD [] {}).mgmtPort ∧
    (∀ f < 9, Claims.FnQuiet (portD [] {}) 4 f ∧ Claims.NoEnds (portD [] {}) 4 f) ∧ (portD [(.hostPortStat, 4, 1)] {}).linkUp 4 = true ∧ (portD [] { perst := 0 }).host.perst.getLsbD 4 = false ∧
    (portD [] {}).fnExists 4 8 = true ∧ (portD [] {}).host.perst.getLsbD 7 = true ∧ (portD [(.hostPortStat, 4, 1)] {}).rb .hostPortStat 4 15 = false ∧
    (∀ e ∈ (portD [(.hostPortStat, 4, 1)] {}).host.reqs, e.2.h = 4 → e.2.reply ≠ none) := by
  unfold Claims.FnQuiet Claims.NoEnds
  repeat' first | apply And.intro | decide

/-- Function 8 of port 4: with a quarantined request at and before its timeout; enabled and not; with a raise held and with one pending behind a mask. -/
def fnD (l : List (Reg × Nat × Nat)) (x : HostFn) : Dev := portD ([(.hostPortStat, 4, 1)] ++ l) { fns := [(44, x)] }
def msixF (held pba un : List Nat) : HostFn := { msixEn := true, held := held, pba := pba, unmasked := un }
theorem witness_HostFunctionsIssueOnlyWhileEnabled :
    44 = fnKey 4 8 ∧ (fnD [] {}).powered = true ∧ tabFind 16383 (asks {} { req .discarded none with quarantined := true }).host.reqs = some { req .discarded none with quarantined := true } ∧
    0 + 25 ≤ (later 100 {}).time.tick ∧ (later 96 {}).time.tick < 0 + 25 ∧ (fnD [] {}).fnExists 4 8 = true ∧ Claims.FnQuiet (fnD [] {}) 4 8 ∧ (fnD [(.hostFnStat, 44, 2 ^ 28)] {}).bme 4 8 = true ∧ (fnD [] {}).linkUp 4 = true ∧
    (fnD [] {}).d3 4 8 = false ∧ (fnD [] {}).dma.cqWait = [] ∧ (fnD [] {}).live = true ∧ ({ fnD [] {} with fw := { ({} : Fw) with serving := true } }).fw.serving = true ∧ (fnD [] {}).bme 4 8 = false ∧
    (fnD [(.hostFnStat, 44, 2 ^ 28 + 3 * 2 ^ 29)] {}).d3 4 8 = true ∧ (fnD [(.hostFnStat, 44, 2 ^ 28 + 3 * 2 ^ 29)] {}).bme 4 8 = true ∧ ((fnD [] {}).fn 4 8).held = [] ∧
    ((fnD [] (msixF [2047] [] [2047])).fn 4 8).held = [2047] ∧ ((fnD [] (msixF [2047] [] [2047])).fn 4 8).msixEn = true ∧ ((fnD [] (msixF [2047] [] [2047])).fn 4 8).fnMask = false ∧
    2047 ∈ ((fnD [] (msixF [2047] [] [2047])).fn 4 8).unmasked ∧ (fnD [] {}).intxAny 4 8 = false ∧ ((fnD [] {}).fn 4 8).pba = [] ∧ ((fnD [] {}).fn 4 8).msiPend = 0 ∧
    2047 ∉ ((fnD [] (msixF [] [2047] [])).fn 4 8).unmasked ∧ ((fnD [] (msixF [] [2047] [])).fn 4 8).pba = [2047] ∧ ((fnD [] (msixF [] [] [])).fn 4 8).pba = [] ∧ (fnD [] {}).ownFn (.fn 4 8) 4 8 = true ∧
    (5#32).toNat = (fnD [(.hostIntxPend, 64 * 44 + 63, 5)] {}).rf .hostIntxPend (64 * 44 + 63) 0 32 := by
  unfold Claims.FnQuiet
  repeat' first | apply And.intro | decide +kernel

/-- Function 0 of port 0 with windows: the last byte of the last entry of BAR0, invalid, without the right, to DDR and to a hole; and a function that serves. -/
def winD (w : Nat) (serving : Bool) : Dev :=
  { put [(.hostPortStat, 0, 1), (.hostWinAct, 127, w), (.hostPortCfg, 0, 1)] base with host := { fns := [(0, { mse := true })] }, fw := { ({} : Fw) with serving := serving } }
def inb (write : Bool) : Inbound := ⟨0, 0, 0, 128 * 65536 - 1, write, 1, if write then [7] else [], false, false⟩
def ddrWin : Nat := 2 ^ 31 * 65536
theorem witness_HostWindowsAndCompletions :
    0 = fnKey 0 0 ∧ (winD 0 true).powered = true ∧ (winD 0 true).live = true ∧ (winD 0 true).isManager (.fn 0 0) = true ∧ (put [(.hostWinStat, 0, 1)] (winD 0 true)).rb .hostWinStat 0 0 = true ∧
    (winD 0 true).rb .hostWinStat 0 0 = false ∧ (List.range 256).find? (fun e => (put [(.hostWinStg, 255, 9)] (winD 0 true)).winBad 0 0 e) = some 255 ∧ (∀ e < 256, (winD 0 true).winBad 0 0 e = false) ∧
    (winD 0 true).fnExists 0 0 = true ∧ (winD 0 true).linkUp 0 = true ∧ (winD 0 true).fw.serving = true ∧ (winD 0 true).d3 0 0 = false ∧ ((winD 0 true).fn 0 0).mse = true ∧
    (inb true).off + 1 ≤ 128 * 2 ^ 16 ∧ (inb true).off % 2 ^ 16 + 1 ≤ 2 ^ 16 ∧ (inb true).len = (inb true).data.length ∧ wbit ((winD 0 true).reg .hostWinAct (256 * 0 + 0 + (inb true).off / 2 ^ 16)) 0 = false ∧
    wbit ((winD (ddrWin + 1) true).reg .hostWinAct 127) 0 = true ∧ wbit ((winD (ddrWin + 1) true).reg .hostWinAct 127) 2 = false ∧ wbit ((winD (ddrWin + 1) true).reg .hostWinAct 127) 1 = false ∧
    wbit ((winD (ddrWin + 7) true).reg .hostWinAct 127) 1 = true ∧ wbit ((winD (ddrWin + 7) true).reg .hostWinAct 127) 2 = true ∧
    wf ((winD (ddrWin + 7) true).reg .hostWinAct 127) 16 32 * 65536 + (inb true).off % 2 ^ 16 = 2 ^ 47 + 65535 ∧
    (winD (ddrWin + 7) true).region (2 ^ 47 + 65535) 1 = some (.ddr 65535) ∧ (winD (ddrWin + 7) true).checkMem .manager (2 ^ 47 + 65535) 1 = .ok ∧ 0 = (winD 0 true).mgmtPort ∧
    (∀ p < 8, (winD 0 true).inDuplex p = false) ∧ (winD 0 false).fw.serving = false ∧
    tabFind 16383 (asks {} (req .discarded none)).host.reqs = some (req .discarded none) ∧ (req .discarded none).reply = none ∧ (req .discarded none).quarantined = false ∧ ({} : Dev).safe = false ∧
    (asks (sliceD 0 [] { flight := some 1 }) (req (.fetch 7) none)).reqWanted (req (.fetch 7) none) = true ∧ ({} : Dev).reqWanted (req .discarded none) = false ∧
    0 + 25 ≤ (later 100 (asks {} (req .discarded none))).time.tick ∧ (req (.xferRead 7 0 64) none).op = .xferRead 7 0 64 := by
  repeat' first | apply And.intro | decide +kernel

/-! ## Mailboxes, resets and commands of Wenot -/

/-- The last mailbox from partition 0's driver to the manager, and mailbox 9 with a program at each end and its face in island memory. -/
def mbxD (l : List (Reg × Nat × Nat)) : Dev := put l (put [(.mbxCfg, 8191, 2 + 0x8000 + 0x10000), (.hostPortStat, 0, 1), (.hostPortCfg, 0, 1)] base)
def faceD (l : List (Reg × Nat × Nat)) : Dev := put l (put [(.mbxCfg, 9, 4 + 0x8000 + 0x40000), (.mbxFace0, 9, 0), (.mbxFace1, 9, 0x80002001)] base)
theorem witness_MailboxesCarryTheirMessages :
    (mbxD []).powered = true ∧ (mbxD []).faceAddr 8191 = none ∧ ((mbxD []).mbxValid 8191 && (mbxD []).isEnd (.fn 0 1) ((mbxD []).sndEnd 8191)) = true ∧
    ((mbxD []).mbxValid 8191 && (mbxD []).isEnd (.fn 0 1) ((mbxD []).rcvEnd 8191)) = false ∧ ((mbxD []).mbxValid 8191 && (mbxD []).isEnd (.fn 0 0) ((mbxD []).rcvEnd 8191)) = true ∧
    ((mbxD []).mbxValid 8191 && (mbxD []).isEnd (.fn 0 0) ((mbxD []).sndEnd 8191)) = false ∧ (mbxD []).rxDown 8191 = false ∧ (mbxD [(.hostPortStat, 0, 0)]).rxDown 8191 = true ∧
    (mbxD []).rb .mbxStat 8191 0 = false ∧ (mbxD [(.mbxStat, 8191, 1)]).rb .mbxStat 8191 0 = true ∧
    (∀ b < 30, (1#32).getLsbD b = true → (mbxD [(.mbxDbMask, 8191, 1)]).rb .mbxDbPend 8191 b = true ∨ (mbxD [(.mbxDbMask, 8191, 1)]).rb .mbxDbMask 8191 b = true) ∧ 8191 ≠ 0 ∧
    0x20000000#32 = 1#32 <<< 29 ∧ (mbxD []).rb .mbxDbPend 8191 29 = false ∧ (mbxD [(.mbxDbMask, 8191, 0)]).rb .mbxDbMask 8191 29 = false ∧ (mbxD []).rf .mbxRoute (32 * 8191 + 29) 0 2 = 0 ∧
    (mbxD [(.mbxRoute, 32 * 8191 + 29, 1)]).rf .mbxRoute (32 * 8191 + 29) 0 2 = 1 ∧ (mbxD [(.mbxRoute, 32 * 8191 + 29, 3)]).rf .mbxRoute (32 * 8191 + 29) 0 2 = 3 ∧ (mbxD []).endFn ((mbxD []).rcvEnd 8191) = some (0, 0) ∧
    8191 ≠ 1 ∧ (mbxD [(.mbxDbMask, 8191, 0x40000000)]).rb .mbxDbMask 8191 30 = true ∧ (∀ b < 32, (mbxD []).rb .mbxDbPend 8191 b = false) ∧
    ((mbxD []).mbxValid 8190 && (mbxD []).isEnd (.fn 0 1) ((mbxD []).sndEnd 8190)) = false := by repeat' first | apply And.intro | decide +kernel
theorem witness_MailboxFacesActForPrograms :
    (faceD []).live = true ∧ (faceD []).faceAddr 9 = some 0x200100000000 ∧ (faceD []).inDuplex ((faceD []).mbx 9).part = false ∧ ((faceD []).sndEnd 9).kind = 4 ∧ ((faceD []).rcvEnd 9).kind = 4 ∧ (1#64) ≠ 0 ∧
    (faceD []).rxDown 9 = false ∧ (faceD []).rb .mbxStat 9 0 = false ∧ (0#64).toNat < 2 ^ 63 ∧ (faceD [(.mbxStat, 9, 1), (.mbxDbMask, 9, 0x40000000)]).rb .mbxStat 9 0 = true ∧
    (faceD [(.mbxStat, 9, 1), (.mbxDbMask, 9, 0x40000000)]).rb .mbxDbMask 9 30 = true ∧
    (∀ b < 30, (1#64).getLsbD b = true → (faceD [(.mbxDbPend, 9, 1)]).rb .mbxDbPend 9 b = true ∨ (faceD [(.mbxDbPend, 9, 1)]).rb .mbxDbMask 9 b = true) ∧
    (∀ b < 32, (faceD []).rb .mbxDbPend 9 b = false) := by repeat' first | apply And.intro | decide +kernel

/-- A command's header with its payload, and a device whose firmware has taken a message. -/
def hdr (p : List Byte) (a0 a1 : Nat) : CmdHdr := ⟨1, false, 0, 0, BitVec.ofNat 32 p.length, 0, 0, 65536, BitVec.ofNat 64 a0, BitVec.ofNat 64 a1, p, true, true⟩
def served (d : Dev) : Dev := { d with fw := { d.fw with serving := true, taken := some (0, 64) } }
def runs (d : Dev) : Dev := { served d with fw := { (served d).fw with taken := none, owned := none } }
/-- Such a device may carry the command out. -/
def mayRun (op : Nat) (np : Bool) (h : CmdHdr) (d : Dev) : Bool :=
  d.live && (served d).fwServes && d.fw.guest == 0 && d.fw.mute == false && d.fw.running.isNone && h.readOk && !headerBad np h && !argBad op h &&
  ((served d).fwOwner op (slice h.payload 0 h.payloadLen.toNat) h).isNone && h.payload == slice h.payload 0 h.payloadLen.toNat
theorem wenot_ok {op : Nat} {np : Bool} {p : List Byte} {a0 a1 : Nat} {d : Dev} (h : mayRun op np (hdr p a0 a1) d = true) : Claims.Wenot op np (hdr p a0 a1) p (served d) (runs d) := by
  simp only [mayRun, Bool.and_eq_true, beq_iff_eq, Bool.not_eq_true', Option.isNone_iff_eq_none] at h
  obtain ⟨⟨⟨⟨⟨⟨⟨⟨⟨hl, hs⟩, hg⟩, hm⟩, hr⟩, ho⟩, hb⟩, ha⟩, hw⟩, hp⟩ := h
  have hp' : p = slice p 0 (BitVec.ofNat 32 p.length).toNat := hp
  exact ⟨⟨0, hl, hs, ⟨64, rfl⟩, hg, hm⟩, hr, ho, hb, ha, hp', by rw [hp']; exact hw, rfl⟩

/-- A command that firmware holds open. -/
def holding (op : Nat) (h : CmdHdr) (d : Dev) : Dev := { d with fw := { d.fw with serving := true, running := some (op, h) } }
def jobD (destroy : Bool) (l : List (Reg × Nat × Nat)) : Dev :=
  let d := put l (sliceD 0 [] {})
  { d with ptn := { d.ptn with parts := [(0, { grant := some grant, prog := some ⟨0, [⟨2, 0, 4096, false⟩], [(0, 8), (7, 0)], []⟩, job := some ⟨destroy, 0⟩, startAt := some 4 })] } }
theorem witness_ResetsFreezesAndStartsEnd :
    (sliceD 0 [] {}).live = true ∧ (sliceD 0 [] {}).sliceState 4095 ≠ 3 ∧ (asks (sliceD 0 [(.slcState, 0, 3)] {}) (req .discarded none)).sliceTags 0 = true ∧ (sliceD 0 [(.slcState, 0, 3)] {}).sliceState 0 = 3 ∧
    (sliceD 0 [(.slcState, 0, 3)] {}).sliceTags 0 = false ∧ ((sliceD 0 [(.slcState, 0, 3)] {}).slc 0).destroy = false ∧ ((sliceD 0 [(.slcState, 0, 3)] {}).slc 0).waiting = none ∧ (sliceD 0 [] {}).fw.running = none ∧
    (sliceD 0 [(.slcState, 0, 4)] {}).sliceState 0 = 4 ∧ (sliceD 0 [(.slcState, 0, 4)] {}).sliceFlight 0 = 0 ∧ (asks (sliceD 0 [(.slcState, 0, 4)] {}) (req (.fetch 7) none)).sliceFlight 0 ≠ 0 ∧
    (holding 0x33 (hdr [] 0 0) (sliceD 0 [(.slcState, 0, 4)] {})).fw.running = some (0x33, hdr [] 0 0) ∧ (hdr [] 0 0).arg0.toNat = 0 ∧ (holding 0x33 (hdr [] 0 0) (sliceD 0 [(.slcState, 0, 4)] {})).fw.owned = none ∧
    (holding 0x33 (hdr [] 0 0) (sliceD 0 [(.slcState, 0, 4)] {})).fw.forward = none ∧
    ((later (4 * 12750000) (sliceD 0 [(.slcState, 0, 4)] {})).slc 0).began + ctvTicks ((sliceD 0 [(.slcState, 0, 4)] {}).fn 0 1).ctv + 250000 ≤ (later (4 * 12750000) (sliceD 0 [(.slcState, 0, 4)] {})).time.tick ∧
    ((jobD false [(.ptnState, 0, 3)]).part 0).job = some ⟨false, 0⟩ ∧ 0 ∈ (jobD false [(.slcState, 0, 3)]).slicesOf 0 ∧ (jobD false [(.slcState, 0, 3)]).sliceState 0 = 3 ∧
    (∀ n ∈ (jobD false []).slicesOf 0, (jobD false []).sliceState n ≠ 3) ∧ (∀ m ∈ (jobD false []).mbxList, (jobD false []).faceAddr m = none) ∧ ((jobD false []).part 0).startAt = some 4 ∧ (jobD false []).ns < 4 ∧
    4 ≤ (later 4 (jobD false [])).ns ∧ (jobD false []).partState 0 = 1 ∧ ((jobD false []).part 0).prog = some ⟨0, [⟨2, 0, 4096, false⟩], [(0, 8), (7, 0)], []⟩ ∧ (jobD false []).inDuplex 0 = false ∧
    ([(0, 8), (7, 0)] : List (Nat × Nat)).Pairwise (fun x y => x.1 ≠ y.1) := by repeat' first | apply And.intro | decide +kernel


/-- A payload: bytes at their offsets, the rest zero. -/
def bytes (n : Nat) (l : List (Nat × Nat × Nat)) : List Byte := l.foldl (fun b x => b.take x.1 ++ leBytes x.2.1 x.2.2 ++ b.drop (x.1 + x.2.1)) (List.replicate n 0)
/-- A grant for partition 1 without and with DDR, a slice grant without resources, and a save of no sections. -/
def grantP : List Byte := bytes 96 [(0, 1, 1), (1, 1, 1)]
def grantDdr : List Byte := bytes 104 [(0, 1, 1), (1, 1, 1), (88, 2, 1), (96, 1, 17), (97, 1, 8), (100, 2, 1)]
def sliceP : List Byte := bytes 24 [(0, 1, 1), (4, 4, 1), (10, 2, 1), (12, 2, 1)]
def saveP : List Byte := let b := bytes 64 [(0, 4, 0x4C53594D), (4, 1, 1), (6, 2, 64), (8, 8, 64)]; patch b 48 (leBytes 8 (crc64 b))
def slcD (st : Nat) : Dev := sliceD 0 [(.slcState, 0, st)] {}
theorem witness_PartitionAndSliceCommandsAct :
    Claims.Wenot 0x20 false (hdr grantP 0 0) grantP (served base) (runs base) ∧ (runs base).grantCheck grantP = .ok (1, grantOf grantP) ∧ (runs base).ddrWaits (grantOf grantP) = false ∧
    Claims.Wenot 0x20 false (hdr grantDdr 0 0) grantDdr (served base) (runs base) ∧ (runs base).grantCheck grantDdr = .ok (1, grantOf grantDdr) ∧ (runs base).ddrWaits (grantOf grantDdr) = true ∧
    (runs base).partState 0 = 1 ∧ (runs (put [(.ptnState, 0, 2)] base)).partState 0 = 2 ∧ Claims.Wenot 0x21 true (hdr [] 0 0) [] (served base) (runs base) ∧ Claims.Wenot 0x22 true (hdr [] 0 0) [] (served base) (runs base) ∧
    Claims.Wenot 0x30 false (hdr sliceP 0 0) sliceP (served (slcD 1)) (runs (slcD 1)) ∧ (runs (slcD 1)).sliceCheck sliceP = .ok (sliceGrantOf sliceP) ∧ 1 = (runs (slcD 1)).freeSlice ∧
    (∃ k < 4096, ((runs (slcD 1)).slc k).grant = none) ∧ Claims.Wenot 0x31 true (hdr [] 0 0) [] (served (slcD 3)) (runs (slcD 3)) ∧ (runs (slcD 3)).sliceState 0 = 3 ∧
    Claims.Wenot 0x32 true (hdr [] 0 0) [] (served (slcD 1)) (runs (slcD 1)) ∧ 1 ≤ (runs (slcD 1)).sliceState 0 ∧ (runs (slcD 6)).sliceState 0 ≤ 6 ∧ (runs (slcD 1)).partState ((runs (slcD 1)).slicePart 0) = 1 ∧
    Claims.Wenot 0x33 true (hdr [] 0 0) [] (served (slcD 4)) (runs (slcD 4)) ∧ (runs (slcD 4)).sliceState 0 = 4 ∧ Claims.Wenot 0x36 true (hdr [] 0 0) [] (served (slcD 6)) (runs (slcD 6)) ∧ 4 ≤ (runs (slcD 6)).sliceState 0 ∧
    Claims.Wenot 0x34 true (hdr [] 0 0) [] (served (slcD 5)) (runs (slcD 5)) ∧ (runs (slcD 5)).sliceState 0 = 5 ∧ ((runs (slcD 5)).slc 0).grant = some ⟨0, 0, 0, 0, 8, 8, [⟨3, 0, 0, 8⟩, ⟨7, 0, 0, 8⟩, ⟨8, 0, 0, 8⟩], []⟩ ∧
    Claims.Wenot 0x35 false (hdr sliceP 0 64) sliceP (served (slcD 1)) (runs (slcD 1)) ∧
    (parseSave (saveP.take (hdr sliceP 0 64).arg1.toNat)).any (fun sec => saveFits (sliceGrantOf sliceP) sec && ((runs (slcD 1)).keyRefs (sliceGrantOf sliceP) sec).isNone) = true := by
  repeat' first | with_reducible apply And.intro | exact wenot_ok (by decide +kernel) | exact ⟨1, by decide, by decide +kernel⟩ | decide +kernel


/-- An image of one zero-filled bundle with an entry, a PROG_START payload, and keys to import, to generate and to query. -/
def image : List Byte := bytes 104 [(0, 4, 0x4D495644), (4, 1, 1), (6, 2, 1), (8, 4, 104), (14, 2, 1), (64, 1, 1), (65, 1, 2), (67, 1, 2), (80, 4, 8)]
def wrapped0 : List Byte := [62, 0, 43, 33, 28, 145, 186, 38, 2, 33, 135, 173, 0, 9, 11, 139, 236, 0, 53, 165, 203, 9, 100, 60]
def importP : List Byte := bytes 40 [(0, 2, 7), (4, 1, 6), (6, 1, 16), (34, 2, 24)] ++ wrapped0
def generateP : List Byte := bytes 40 [(0, 2, 7), (4, 1, 1), (6, 1, 3)]
def progD : Dev := put [(.ptnCaps, 0, 65536), (.keyRngStat, 0, 1)] base
def keyD (o : List EngOp) : Dev := { progD with board := { ({} : Board) with root := some (List.replicate 16 0) }, keys := { ({} : Keys) with slots := [(7, { aesSlot with expires := 1 })], ops := (List.range o.length).zip o } }
/-- The key of 16 zero bytes under a key of zeros. -/
theorem unwrap_ok : kwpUnwrap (List.replicate 16 0) (slice importP 40 (leAt importP 34 2)) = some (List.replicate 16 0) := by
  rw [show slice importP 40 (leAt importP 34 2) = wrapped0 by decide +kernel]; decide +kernel
theorem witness_ProgramAndKeyCommandsAct :
    Claims.Wenot 0x40 false (hdr image 0 0) image (served progD) (runs progD) ∧ imgBad image = none ∧ 0 = leAt image 5 1 ∧ 0 = leAt image 20 4 ∧ (runs progD).partState 0 = 1 ∧ (runs progD).started 0 = false ∧
    (runs progD).board.signReq = none ∧ (runs progD).imgCheck 0 image = none ∧
    Claims.Wenot 0x41 false (hdr (bytes 16 []) 0 0) (bytes 16 []) (served progD) (runs progD) ∧ (bytes 16 []).length = 16 ∧ leAt (bytes 16 []) 0 1 ≤ 7 ∧ leAt (bytes 16 []) 1 1 ≤ 3 ∧ leAt (bytes 16 []) 2 2 = 0 ∧
    leAt (bytes 16 []) 12 4 = 0 ∧ timeWordOk (hdr [] 0 0).arg0 = true ∧ leAt (bytes 16 []) 4 4 ≤ 10000000 ∧ leAt (bytes 16 []) 8 4 ≤ 1000000 ∧ ((runs progD).part 0).prog = some ⟨0, [⟨2, 0, 4096, false⟩], [], []⟩ ∧
    (runs progD).superOk 0 ⟨0, [⟨2, 0, 4096, false⟩], [], []⟩ = true ∧ Claims.Wenot 0x41 false (hdr (bytes 16 []) 4 0) (bytes 16 []) (served progD) (runs progD) ∧ (hdr [] 4 0).arg0 ≠ 0 ∧
    (runs progD).ns < expandTime (runs progD).sec (hdr [] 4 0).arg0 ∧ timeWordOk (hdr [] 4 0).arg0 = true ∧ Claims.Wenot 0x42 true (hdr [] 0 0) [] (served progD) (runs progD) ∧
    Claims.Wenot 0x50 false (hdr importP 0 0) importP (served { keyD [] with keys := {} }) (runs { keyD [] with keys := {} }) ∧ keyFieldsBad importP true = false ∧
    (runs { keyD [] with keys := {} }).keyChecks importP (runs { keyD [] with keys := {} }).board.root.isNone = .ok 7 ∧ (runs { keyD [] with keys := {} }).keyKek importP = .ok (List.replicate 16 0, none) ∧ leAt importP 3 1 = 0 ∧
    (List.replicate 16 (0 : Byte)).length = materialLen (leAt importP 4 1) (if leAt importP 5 1 = 1 then 32 else 16) ∧
    Claims.Wenot 0x51 false (hdr generateP 0 0) generateP (served progD) (runs progD) ∧ keyFieldsBad generateP false = false ∧ (runs progD).rb .keyRngStat 0 0 = true ∧
    (runs progD).keyChecks generateP (leAt generateP 3 1 == 1 && (runs progD).board.root.isNone) = .ok 7 ∧ ((runs progD).inDuplex (leAt generateP 2 1) && (runs progD).dpxExternal (leAt generateP 2 1)) = false ∧
    Claims.Wenot 0x52 true (hdr [] 7 0) [] (served (keyD [])) (runs (keyD [])) ∧ ((runs (keyD [])).slot 7).state ≠ 0 ∧ (runs (keyD [])).slotInUse 7 = false ∧ 7 ∉ (runs (keyD [])).keys.retiring ∧
    (runs (keyD [engOp false (desc [(0, 1, 1), (4, 2, 7)]) .started])).slotInUse 7 = true ∧
    Claims.Wenot 0x53 false (hdr [] (0xFFFF) 0) [] (served (keyD [])) (runs (keyD [])) ∧ wf (hdr [] 0xFFFF 0).arg0 0 16 = 65535 ∧ wf (hdr [] 0xFFFF 0).arg0 16 10 + 1 = 1 ∧ (hdr [] 0xFFFF 0).arg0.toNat < 2 ^ 26 ∧ 65535 + 1 ≤ 65536 ∧
    Claims.Wenot 0x53 false (hdr (bytes 16 []) 7 1) (bytes 16 []) (served (keyD [])) (runs (keyD [])) ∧ (hdr (bytes 16 []) 7 1).arg1 = 1 ∧ leAt (bytes 16 []) 6 2 = 0 ∧ leAt (bytes 16 []) 14 2 = 0 ∧
    (runs (keyD [])).partState ((runs (keyD [])).slot 7).owner = 1 := by
  repeat' first | with_reducible apply And.intro | exact wenot_ok (by decide +kernel) | decide +kernel

/-- A device whose partition 0 has the same of islands E0 and E1, and its pair. -/
def pairG : Grant := { grant with cores := 65537, ranges := [] }
def pairD (l : List (Reg × Nat × Nat)) : Dev :=
  let d := put l (put [(.coreCfg, 16, 8)] base)
  { d with ptn := { d.ptn with parts := [(0, { grant := some pairG, prog := some ⟨0, [⟨2, 0, 4096, false⟩], [], []⟩ })] } }
/-- In the package's first pair, E1 active. -/
def pairCfg : Nat := 1 + 4 * 3
def leapP : List Byte := bytes 32 [(0, 2, 1), (8, 8, 100), (16, 8, 50), (24, 2, 37)]
def gateP : List Byte := bytes 40 [(2, 2, 1), (4, 4, 1000), (16, 8, 1), (32, 1, 255), (36, 4, 1000)]
def stageP : List Byte := bytes 24 [(0, 2, 1), (4, 4, 24), (8, 1, 0), (10, 2, 1), (12, 4, 0)]
def pairP : List Byte := bytes 16 [(2, 1, 3), (3, 1, 1), (4, 4, 1000)]
def smemP : List Byte := bytes 24 [(0, 1, 2), (4, 4, 0xFFFF8), (8, 4, 8), (16, 8, 77)]
def regsD (l : List (Reg × Nat × Nat)) : Dev := put l base
theorem witness_OtherWenotCommandsAct :
    Claims.Wenot 0x01 true (hdr [] 0 0) [] (served base) (runs base) ∧ Claims.Wenot 0x02 true (hdr [] 0 0) [] (served base) (runs base) ∧
    Claims.Wenot 0x10 true (hdr [] 0 0) [] (served base) (runs base) ∧ Claims.Wenot 0x11 false (hdr stageP 1 0) stageP (served base) (runs base) ∧
    recsOf stageP = some [stageP] ∧ (recType stageP = 0 ∨ recType stageP = 1 ∨ recType stageP = 6) ∧ ([stageP].map List.length).sum ≤ 1048576 ∧
    Claims.Wenot 0x12 true (hdr [] 2 0) [] (served base) (runs base) ∧ Claims.Wenot 0x12 true (hdr [] 0 0) [] (served base) (runs base) ∧ (∀ r ∈ (runs base).fw.staged, recType r ≠ 6) ∧
    Claims.Wenot 0x60 true (hdr [] 5000 (2 ^ 33)) [] (served base) (runs base) ∧ (hdr [] 5000 (2 ^ 33)).arg1.toNat = 2 ^ 33 ∧ (runs base).stepAllowed 5000 (wbit (hdr [] 5000 (2 ^ 33)).arg1 32) = true ∧
    Claims.Wenot 0x60 true (hdr [] 5000 (2 ^ 33)) [] (served (regsD [(.timeQual, 0, 2)])) (runs (regsD [(.timeQual, 0, 2)])) ∧ (runs (regsD [(.timeQual, 0, 2)])).stepFits 1000000000000 = true ∧
    (runs (regsD [(.timeQual, 0, 2)])).stepAllowed 1000000000000 (wbit (hdr [] 5000 (2 ^ 33)).arg1 32) = false ∧
    Claims.Wenot 0x61 false (hdr [] 0 0) [] (served base) (runs base) ∧ Claims.Wenot 0x61 false (hdr (bytes 28 []) 64 0) (bytes 28 []) (served base) (runs base) ∧ (hdr (bytes 28 []) 64 0).arg0.toNat = 2 ^ 6 ∧
    4 * 6 + 4 ≤ (bytes 28 []).length ∧ Claims.Wenot 0x62 false (hdr leapP 0 0) leapP (served base) (runs base) ∧ leapBad leapP = false ∧
    Claims.Wenot 0x70 false (hdr gateP 0 0) gateP (served (regsD [(.portMode, 0, 1)])) (runs (regsD [(.portMode, 0, 1)])) ∧ leAt gateP 0 1 < 32 ∧ gateP.length = 32 + 8 * leAt gateP 2 2 ∧ leAt gateP 1 1 ≤ 1 ∧ leAt gateP 12 4 = 0 ∧
    leAt gateP 16 8 < 2 ^ 48 ∧ leAt gateP 24 4 < 1000000000 ∧ leAt gateP 28 4 = 0 ∧ (runs (regsD [(.portMode, 0, 1)])).gateBad 0 ((List.range 1).map (fun k => leAt gateP (32 + 8 * k) 8)) (leAt gateP 4 4) (leAt gateP 8 4) = false ∧
    (runs (regsD [(.portMode, 0, 1)])).ns + 1000 ≤ leAt gateP 16 8 * 1000000000 + leAt gateP 24 4 ∧
    Claims.Wenot 0x80 true (hdr [] 24 0) [] (served base) (runs base) ∧ (hdr [] 24 0).arg0 = 24 ∧ Claims.Wenot 0x81 true (hdr [] 0x1FF 0) [] (served base) (runs base) ∧ (runs base).rb .snapStat 0 0 = false ∧
    Claims.Wenot 0x81 true (hdr [] 0x1FF 0) [] (served (regsD [(.snapStat, 0, 1)])) (runs (regsD [(.snapStat, 0, 1)])) ∧ (runs (regsD [(.snapStat, 0, 1)])).rb .snapStat 0 0 = true ∧ (hdr [] 0x1FF 0).arg0 = 0x1FF ∧
    Claims.Wenot 0x90 true (hdr [] 1 2047) [] (served base) (runs base) ∧ (hdr [] 1 2047).arg0 = 1 ∧ (hdr [] 1 2047).arg1.toNat = 2047 ∧ Claims.Wenot 0x90 true (hdr [] 0 0) [] (served base) (runs base) ∧
    Claims.Wenot 0x91 true (hdr [] 2047 0) [] (served base) (runs base) ∧
    Claims.Wenot 0x92 true (hdr [] 384 65535) [] (served (regsD [(.fltCfg, 0, 16)])) (runs (regsD [(.fltCfg, 0, 16)])) ∧ (hdr [] 384 65535).arg1.toNat ≠ 0 ∧ (runs (regsD [(.fltCfg, 0, 16)])).rb .fltCfg 0 4 = true ∧
    checkerSource (hdr [] 384 65535).arg0.toNat = true ∧
    Claims.Wenot 0xA0 false (hdr pairP 0 0) pairP (served (pairD [])) (runs (pairD [])) ∧ pairP.length = 16 ∧ leAt pairP 2 1 = 3 ∧ leAt pairP 1 1 ≤ 1 ∧ 3 / 2 = leAt pairP 1 1 + 1 ∧ leAt pairP 3 1 = 1 ∧ leAt pairP 8 8 = 0 ∧
    1000 ≤ leAt pairP 4 4 ∧ leAt pairP 4 4 ≤ 10000000 ∧ (runs (pairD [])).partState 0 = 1 ∧ ((runs (pairD [])).part 0).grant = some pairG ∧ (runs (pairD [])).started 0 = false ∧ (runs (pairD [])).rb .dpxStat 0 3 = false ∧
    pairG.pairs 3 (peerIsl 3) = true ∧ (runs (pairD [])).rb .coreDbgPart 0 0 = false ∧ (runs (pairD [])).inDuplex 0 = false ∧
    Claims.Wenot 0xA1 true (hdr [] 0 0) [] (served (pairD [(.dpxCfg, 0, pairCfg), (.dpxStat, 0, 1)])) (runs (pairD [(.dpxCfg, 0, pairCfg), (.dpxStat, 0, 1)])) ∧
    (runs (pairD [(.dpxCfg, 0, pairCfg), (.dpxStat, 0, 1)])).inDuplex 0 = true ∧ (runs (pairD [(.dpxCfg, 0, pairCfg), (.dpxStat, 0, 1)])).switching 0 = false ∧
    (runs (pairD [(.dpxCfg, 0, pairCfg), (.dpxStat, 0, 1)])).rb .dpxStat 0 0 = true ∧
    Claims.Wenot 0xB0 true (hdr [] 0 0) [] (served base) (runs base) ∧ Claims.Wenot 0xC0 false (hdr smemP 0 0) smemP (served base) (runs base) ∧ smemP.length = 16 + leAt smemP 8 4 ∧ leAt smemP 0 1 = 2 ∧ leAt smemP 1 3 = 0 ∧
    leAt smemP 12 4 = 0 ∧ (runs base).smemOk = true ∧ 0xF00000 + leAt smemP 4 4 + leAt smemP 8 4 ≤ (runs base).board.smemSize ∧ (runs base).flashBlank (0xF00000 + leAt smemP 4 4) (leAt smemP 8 4) = true := by
  repeat' first | with_reducible apply And.intro | exact wenot_ok (by decide +kernel) | decide +kernel


/-! ## Faults, the command channel, duplex -/

/-- A report of a source of a scope waits, and that source has a severity. -/
def report (src : Nat) (part : Option Nat) : Report := ⟨src, 2, part, none, 0, 0, 0, 0⟩
def fltD (src sev phase : Nat) (part : Option Nat) : Dev :=
  let d := put [(.fltSev, src / 16, sev * 4 ^ (src % 16)), (.fltStat, 0, phase), (.fltIrq, 0, 0)] base
  { d with flt := { d.flt with queue := [report src part] }, fw := { d.fw with serving := true } }
/-- Firmware's view of an object differs, since a tick. -/
def viewD (key : Nat) (since : Option Nat) (st : ThrState) : Dev :=
  let d := with0 { st := st }
  { d with fw := { d.fw with serving := true, view := [(key, 1)], viewSince := match since with | some t => [(key, t)] | none => [] } }
/-- What `Plain` asks, as one Boolean. -/
def plainB (d : Dev) (r : Report) (rest : List Report) : Bool :=
  d.flt.queue == r :: rest && (d.flt.takenAt != d.time.tick || !d.flt.taken.contains r.source) && !d.safe && d.phaseNow == 1 && r.tid.isNone && !checkerSource r.source &&
  (d.pendMax (r.source / 128) r.scope).isNone && !d.rb .snapCfg 0 1 && !d.rb .fltIrq 0 11 && r.source != 1411 && decide (r.source < 2048)
theorem plain_ok {d : Dev} {r : Report} {rest : List Report} (h : plainB d r rest = true) : Claims.Plain d r rest := by
  simp only [plainB, Bool.and_eq_true, beq_iff_eq, Bool.not_eq_true', Option.isNone_iff_eq_none, Bool.or_eq_true, bne_iff_ne, decide_eq_true_eq, List.contains_eq_mem,
    decide_eq_false_iff_not] at h
  obtain ⟨⟨⟨⟨⟨⟨⟨⟨⟨⟨a, b⟩, c⟩, e⟩, f⟩, g⟩, i⟩, j⟩, k⟩, l⟩, m⟩ := h
  exact ⟨a, b, c, e, f, g, i, j, k, l, m⟩
theorem witness_FaultsAreCollectedAndActOnTheirSeverity :
    base.powered = true ∧ base.flt.queue = [] ∧ Claims.Plain (fltD 2047 0 1 none) (report 2047 none) [] ∧ (fltD 2047 0 1 none).sevOf 2047 = 0 ∧ alwaysNoticed 2047 = false ∧
    Claims.Plain (fltD 1280 1 1 none) (report 1280 none) [] ∧ (fltD 1280 1 1 none).sevOf 1280 = 1 ∧ Claims.Plain (fltD 1280 2 1 none) (report 1280 none) [] ∧ (fltD 1280 2 1 none).sevOf 1280 = 2 ∧
    (report 1280 none).part = none ∧ Claims.Plain (fltD 1280 2 1 (some 0)) (report 1280 (some 0)) [] ∧ (fltD 1280 2 1 (some 0)).partState 0 = 1 ∧ (fltD 1280 2 1 (some 0)).supervisor 0 = none ∧
    Claims.Plain (fltD 1280 3 1 none) (report 1280 none) [] ∧ (fltD 1280 3 1 none).sevOf 1280 = 3 ∧
    (later 4 (fltD 1280 3 6 none)).flt.queue = [report 1280 none] ∧ (later 4 (fltD 1280 3 6 none)).flt.takenAt ≠ (later 4 (fltD 1280 3 6 none)).time.tick ∧ (later 4 (fltD 1280 3 6 none)).safe = true ∧
    (fltD 1280 3 1 none).live = true ∧ (∀ r ∈ (later 4096 (fltD 1280 0 1 none)).flt.queue, (later 4096 (fltD 1280 0 1 none)).time.tick ≤ r.tick + 1024) ∧
    report 2 none ∈ (later 4100 (fltD 2 3 1 none)).flt.queue ∧ (report 2 none).tick + 1024 < (later 4100 (fltD 2 3 1 none)).time.tick ∧ (later 4100 (fltD 2 3 1 none)).sevOf 2 = 3 ∧
    (later 4100 (fltD 2 3 1 none)).rb .snapCfg 0 1 = false ∧ ({ base with flt := { base.flt with injEnd := some 0 } } : Dev).flt.injEnd = some 0 ∧ 0 ≤ base.ns ∧ base.ns < 1 ∧
    (viewD 589823 none .idle).fwServes = true ∧ (viewD 589823 none .idle).fw.running = none ∧ tabFind (65536 * (7 + 1) + 65535) (viewD 589823 none .idle).fw.view = some 1 ∧
    ((viewD 589823 none .idle).thread 65535).st ≠ .faulted ∧ ((viewD 196608 (some 0) .faulted).thread 0).st = .faulted ∧
    tabFind (65536 * (2 + 1) + 0) (viewD 196608 (some 0) .faulted).fw.viewSince = some 0 ∧ (viewD 196608 (some 0) .faulted).time.tick ≤ 0 + 250000 ∧
    0 + 250000 < (later 1000004 (viewD 196608 (some 0) .faulted)).time.tick := by
  repeat' first | with_reducible apply And.intro | exact plain_ok (by decide +kernel) | decide +kernel

/-- Mailboxes 0 and 1 as firmware serves them, with a message in mailbox 0. -/
def chanW (l : List (Reg × Nat × Nat)) (x : Mbx) : Dev := let d := put l (runs base); { d with ptn := { d.ptn with mbxs := [(0, x)] } }
def badHdr : CmdHdr := { hdr [] 0 0 with version := 2 }
def bufHdr (n : Nat) : CmdHdr := { hdr [] 0 0 with out := 4096, outLen := BitVec.ofNat 32 n }
/-- A device of an external pair whose partition 0 the other device owns, and one that has forwarded a command. -/
def otherD : Dev := put [(.dpxCfg, 0, 1 + 32 + 8), (.mbxStat, 1, 1)] (served base)
def waitW : Forward := ⟨0, 0x22, hdr [] 0 0, 0, 1, 2, [], false, 0⟩
def ferryD (w : Option Forward) : Dev :=
  let d := put [(.dpxCfg, 0, 1 + 32 + 8)] (runs base)
  { d with fw := { d.fw with forward := w }, dpx := { d.dpx with ferryUp := true } }
theorem witness_WenotCommandsAreCheckedForwardedAndAnswered :
    (runs base).live = true ∧ (runs base).fwFree = true ∧ (runs base).rb .mbxStat 0 0 = false ∧ (chanW [(.mbxStat, 0, 1)] { ptr := 64, len := 64 }).fwFree = true ∧
    (chanW [(.mbxStat, 0, 1)] { ptr := 64, len := 64 }).rb .mbxStat 0 0 = true ∧ (chanW [(.mbxStat, 0, 1)] { ptr := 64, len := 64 }).rb .mbxDbMask 0 30 = true ∧
    (chanW [(.mbxStat, 0, 1)] { ptr := 64, len := 64 }).faceAddr 0 = none ∧ (chanW [(.mbxStat, 0, 1)] { ptr := 64, len := 64 }).rb .mbxStat 0 1 = false ∧
    ((chanW [(.mbxStat, 0, 1)] { ptr := 64, len := 64 }).mbx 0).len = 64 ∧ ((chanW [(.mbxStat, 0, 1)] { ptr := 64, len := 64 }).mbx 0).ptr.toNat % 64 = 0 ∧ (hdr [] 0 0).readOk = true ∧
    (chanW [(.mbxStat, 0, 3)] { ptr := 64, len := 64 }).rb .mbxStat 0 1 = true ∧ (chanW [(.mbxStat, 0, 1), (.mbxStat, 1, 1)] { ptr := 64, len := 63 }).rb .mbxStat 0 1 = false ∧
    ((chanW [(.mbxStat, 0, 1), (.mbxStat, 1, 1)] { ptr := 64, len := 63 }).mbx 0).len ≠ 64 ∧ Claims.Busy1 (chanW [(.mbxStat, 0, 1), (.mbxStat, 1, 1), (.hostPortStat, 0, 1)] { ptr := 64, len := 63 }) ∧
    Claims.wenotRow (.devIdentify badHdr) = some (1, true, badHdr) ∧ Claims.Taken otherD 0 ∧ Claims.Busy1 (put [(.hostPortStat, 0, 1)] otherD) ∧ Claims.Taken (put [(.hostPortStat, 0, 1)] otherD) 0 ∧
    ({ hdr [] 0 0 with readOk := false } : CmdHdr).readOk = false ∧ badHdr.readOk = true ∧ badHdr.backOk = true ∧ badHdr.version ≠ 1 ∧ headerBad true (hdr [] 0 0) = false ∧ argBad 0x22 (hdr [] 0 0) = false ∧
    otherD.fwOwner 0x22 (slice (hdr [] 0 0).payload 0 (hdr [] 0 0).payloadLen.toNat) (hdr [] 0 0) = some false ∧ headerBad true (bufHdr 63) = false ∧ argBad 1 (bufHdr 63) = false ∧ (bufHdr 63).out ≠ 0 ∧
    (bufHdr 63).outLen.toNat < 64 ∧ 64 ≤ (bufHdr 64).outLen.toNat ∧ (put [(.hostPortStat, 0, 1)] (served base)).rxDown 1 = false ∧ (served base).faceAddr 1 = none ∧ (served base).rb .mbxStat 1 0 = false ∧
    (served base).rb .mbxDbMask 1 0 = true ∧ (ferryD none).forwardReady = true ∧ Claims.forwardRow 0x22 (hdr [] 0 0) [] = some (.partReset (hdr [] 0 0)) ∧
    Claims.wenotRow (.partReset badHdr) = some (0x22, true, badHdr) ∧ headerBad true badHdr = true ∧ (runs base).forwardReady = false ∧ (ferryD (some waitW)).live = true ∧
    (ferryD (some waitW)).fw.forward = some waitW ∧ (ferryD (some waitW)).dpx.ferryUp = true ∧ (0#8) = waitW.status ∧ (5#8) ≠ waitW.status ∧ (ferryD (some waitW)).inDuplex waitW.part = true ∧
    (later 9999996 (ferryD (some waitW))).time.tick < waitW.since + 2500000 ∧ waitW.since + 2500000 ≤ (later 10000000 (ferryD (some waitW))).time.tick := by
  unfold Claims.Taken Claims.Busy1
  repeat' first | apply And.intro | exact ⟨_, rfl⟩ | decide +kernel


/-- Partition 0 as a pair in the package, or with another device, at a time in ns, with a pair's state. -/
def dpxD (ext : Bool) (l : List (Reg × Nat × Nat)) (ns : Nat) (x : Dpx) : Dev :=
  let d := later ns (pairD ([(.dpxCfg, 0, pairCfg + (if ext then 32 else 0)), (.dpxCycle, 0, 1000)] ++ l))
  { d with dpx := { d.dpx with ps := [(0, x)] }, thr := [(0, { st := .waiting })] }
theorem witness_DuplexPairsCompareAndSwitchOver :
    (dpxD false [] 999 {}).live = true ∧ (dpxD false [] 999 {}).inDuplex 0 = true ∧ max 1 ((dpxD false [] 999 {}).rf .dpxCycle 0 0 32) = 1000 ∧
    (dpxD false [] 999 {}).ns < ((dpxD false [] 999 {}).duplex 0).start + (((dpxD false [] 999 {}).duplex 0).cycle + 1) * 1000 ∧ (dpxD false [(.dpxStat, 0, 1)] 1000 {}).started 0 = true ∧
    0 + (0 + 1) * 1000 ≤ (dpxD false [(.dpxStat, 0, 1)] 1000 {}).ns ∧ (dpxD false [(.dpxStat, 0, 1)] 1000 {}).switching 0 = false ∧ (dpxD false [(.dpxStat, 0, 1)] 1000 {}).rb .dpxStat 0 0 = true ∧
    ((dpxD false [(.dpxStat, 0, 1)] 1000 {}).duplex 0).due = none ∧ ((dpxD false [(.dpxStat, 0, 1)] 1000 { due := some 0 }).duplex 0).due = some 0 ∧ (dpxD false [(.dpxStat, 0, 1)] 1000 { due := some 0 }).dpxExternal 0 = false ∧
    0 + (dpxD false [] 1028 { due := some 0 }).digestWait 0 < (dpxD false [] 1028 { due := some 0 }).time.tick ∧ (dpxD false [] 1024 { due := some 0 }).time.tick ≤ 0 + (dpxD false [] 1024 { due := some 0 }).digestWait 0 ∧
    ((dpxD false [] 1024 { due := some 0 }).duplex 0).chkActive = false ∧ ((dpxD false [] 1024 { due := some 0 }).duplex 0).chkStandby = false ∧ ((dpxD false [] 1024 { due := some 0 }).duplex 0).ckpt = none ∧
    ((dpxD false [] 1024 { due := some 0 }).duplex 0).lastMm = none ∧ ((dpxD false [] 1024 { due := some 0, chkActive := true }).duplex 0).chkActive = true ∧
    ((dpxD false [] 1024 { due := some 0, chkStandby := true }).duplex 0).chkStandby = true ∧ (dpxD false [(.dpxStat, 0, 1)] 1000 {}).rb .dpxStat 0 3 = false ∧
    ((dpxD false [] 8 { decided := some 0 }).duplex 0).decided = some 0 ∧ ((dpxD false [] 8 { decided := some 0 }).duplex 0).ordered = none ∧ ((dpxD false [] 8 { decided := some 0 }).duplex 0).moved = false ∧
    (dpxD false [] 8 { decided := some 0 }).time.tick < 0 + 3 ∧ 0 + 3 ≤ (dpxD false [] 12 { decided := some 0 }).time.tick ∧ 2 ≤ (dpxD false [] 12 { decided := some 0 }).dpxActive 0 ∧
    (dpxD false [] 12 { decided := some 0 }).dpxActive 0 ≤ 5 ∧ ((dpxD false [] 252 { decided := some 0, moved := true }).duplex 0).moved = true ∧ (dpxD false [] 252 { decided := some 0, moved := true }).time.tick < 0 + 64 ∧
    0 + 64 ≤ (dpxD false [] 256 { decided := some 0, moved := true }).time.tick ∧ ((dpxD false [] 256 { decided := some 0, moved := true }).duplex 0).held = [] ∧ (dpxD false [] 256 {}).fw.running = none ∧
    (dpxD false [(.dpxStat, 0, 2)] 0 {}).rb .dpxStat 0 1 = true ∧ (dpxD true [] 0 {}).dpxExternal 0 = true ∧ (dpxD true [(.dpxCw, 0, 8)] 0 {}).rb .dpxCw 0 3 = true ∧
    tabFind (4 * 0 + 3) ({ (dpxD true [] 4 {}) with dpx := { ps := [(0, {})], released := [(3, 0)] } } : Dev).dpx.released = some 0 ∧ (dpxD true [] 4 {}).time.tick < 0 + 2 ∧ 0 + 2 ≤ (dpxD true [] 8 {}).time.tick ∧
    (∀ q < 8, base.inDuplex q = true → base.dpxExternal q = false) ∧ (∀ q < 8, q ≠ 0 → (dpxD true [] 0 {}).inDuplex q = false) ∧ (dpxD true [(.dpxStat, 0, 1)] 0 {}).reg .dpxCw 0 = 0 ∧
    ({ (dpxD true [(.dpxStat, 0, 1)] 0 {}) with dpx := { cwIn := 8 } } : Dev).dpx.cwIn ≠ 0 ∧ (dpxD true [(.dpxStat, 0, 1)] 0 {}).rb .dpxStat 0 0 = true ∧ (dpxD true [(.dpxStat, 0, 1)] 0 {}).switching 0 = false ∧
    ({ (dpxD true [] 0 {}) with dpx := { ferryUp := true } } : Dev).dpx.ferryUp = true ∧ (dpxD true [] 0 {}).dpx.ferryUp = false ∧ (dpxD true [] 0 {}).rb .dpxStat 0 0 = false ∧ (dpxD true [] 0 {}).started 0 = true ∧
    (dpxD true [] 0 {}).rb .dpxStat 0 3 = false := by repeat' first | apply And.intro | decide +kernel

/-- The last window, partition 0's, with a face in island memory, and a mirror due at an instant. -/
def winC (l : List (Reg × Nat × Nat)) (ns : Nat) : Dev :=
  let d := later ns (put l (put [(.cntWinCfg3, 1023, 2 ^ 27), (.cntWinCfg1, 1023, 64), (.cntWinCfg2, 1023, 0x2001), (.hostPortStat, 0, 1), (.hostPortCfg, 0, 1), (.ptnCaps, 0, 1)] base))
  { d with cnt := { d.cnt with mirrorAt := [(1023, 1000)] } }
def freeD (l : List (Reg × Nat × Nat)) (sq : SqSt) (c : Cnt) : Dev := { (sliceD 0 l sq) with cnt := c, thr := [(0, { st := .waiting })] }
def dumpRegs : List (Reg × Nat × Nat) := [(.hostFnStat, 0, 2 ^ 28), (.cntDumpCfg, 0, 2 ^ 31)]
theorem witness_CountersAndWindowsAreRead :
    base.powered = true ∧ base.isManager (.fn 0 0) = true ∧ base.isManager (.fn 7 1) = false ∧ (winC [] 0).winOwner 1023 = some 0 ∧ (winC [] 0).mayDrive (.fn 0 1) 0 = true ∧ (winC [] 0).mayDrive (.fn 0 2) 0 = false ∧
    (winC [] 0).live = true ∧ tabFind 1023 (winC [] 0).cnt.mirrorAt = some 1000 ∧ (winC [] 0).rf .cntWinCfg0 1023 13 6 + 1 = 1 ∧ (winC [] 999).ns < 1000 ∧ 1000 ≤ (winC [] 1000).ns ∧
    (winC [(.cntWinCfg2, 1023, 0x3000)] 1000).winFace 1023 0 (16 + 8 * 1) = none ∧ (winC [] 1000).winFace 1023 0 (16 + 8 * 1) = some (0x200100000040, 2) ∧ 2 = 0x200100000040 / 2 ^ 44 ∧ (winC [] 1000).inDuplex 0 = false ∧
    base.partOf 511 = none ∧ ((with0 runT).thread 0).st = .running ∧ (with0 { st := .waiting }).partOf 0 = some 0 ∧ ((with0 { st := .waiting }).thread 0).st ≠ .running ∧
    (with0 { st := .waiting }).prefetchRing 0 none = none ∧ (with0 { st := .waiting }).dumpWork 0 = false ∧ (freeD [(.ringSqSvc, 7, 16)] { wake := true } {}).prefetchRing 0 (some 7) = some 7 ∧
    (freeD dumpRegs {} { dump := some (0, [], 0) }).prefetchRing 0 none = none ∧ (freeD dumpRegs {} { dump := some (0, [0, 0, 0, 0, 0], 0) }).dumpWork 0 = true ∧
    (freeD dumpRegs {} { dump := some (0, [0, 0, 0, 0, 0], 0) }).cnt.dump = some (0, [0, 0, 0, 0, 0], 0) ∧ 0 + 1 < dumpLines ([0, 0, 0, 0, 0] : List Word).length ∧
    (freeD dumpRegs {} { dump := some (0, [0, 0, 0, 0, 0], 0) }).canIssue (freeD dumpRegs {} {}).mgmtPort 0 = true := by repeat' first | apply And.intro | decide +kernel

/-- A snapshot's and a dump's states. -/
def snapD (l : List (Reg × Nat × Nat)) (ns : Nat) (c : Cnt) : Dev := { (later ns (put l base)) with cnt := c }
theorem witness_SnapshotsAndDumpsAreTaken :
    (snapD [(.snapCfg, 0, 16)] 1000 { pinAt := some 0 }).powered = true ∧ (snapD [(.snapCfg, 0, 16)] 1000 { pinAt := some 0 }).rb .snapCfg 0 4 = true ∧
    (snapD [(.snapCfg, 0, 16)] 1000 { pinAt := some 0 }).cnt.pinAt = some 0 ∧ 0 + 250 ≤ (snapD [(.snapCfg, 0, 16)] 1000 { pinAt := some 0 }).time.tick ∧
    (snapD [(.snapCfg, 0, 16)] 1000 { pinAt := some 0 }).cnt.snapDue = none ∧ (snapD [] 996 { pinAt := some 0 }).cnt.pinAt = some 0 ∧ (snapD [] 996 {}).time.tick < 0 + 250 ∧
    (snapD [(.snapCfg, 0, 8)] 0 { snapReqs := [(3, some (0, 0))] }).cnt.snapReqs = [(3, some (0, 0))] ∧ (snapD [(.snapCfg, 0, 8)] 0 {}).rb .snapCfg 0 3 = true ∧
    (snapD [(.snapCfg, 0, 8)] 0 { snapReqs := [(3, some (0, 0))], snapDue := some (1, 4) }).cnt.snapDue = some (1, 4) ∧ (snapD [(.snapCfg, 0, 8)] 0 {}).time.tick < 1 ∧ (snapD [] 0 {}).rb .snapCfg 0 3 = false ∧
    (snapD [(.snapCfg, 0, 1), (.snapArmTime, 0, 5)] 5 {}).rb .snapCfg 0 0 = true ∧ (snapD [(.snapCfg, 0, 1), (.snapArmTime, 0, 5)] 5 {}).cnt.snapFrom ≤ (snapD [(.snapCfg, 0, 1), (.snapArmTime, 0, 5)] 5 {}).time.tick ∧
    expandTime (snapD [(.snapCfg, 0, 1), (.snapArmTime, 0, 5)] 5 {}).sec ((snapD [(.snapCfg, 0, 1), (.snapArmTime, 0, 5)] 5 {}).reg .snapArmTime 0) ≤ (snapD [] 5 {}).ns ∧
    1 ≤ (snapD [] 4 { snapDue := some (1, 4) }).time.tick ∧ (snapD [] 4 { snapDue := some (1, 4) }).rb .snapStat 0 0 = false ∧ (snapD [(.snapStat, 0, 1)] 4 { snapDue := some (1, 4) }).rb .snapStat 0 0 = true ∧
    (snapD [(.cntDumpCfg, 0, 2 ^ 31), (.cntDumpRange, 7, 5119 + 8192)] 8 { dumpAt := 8 }).rb .cntDumpCfg 0 31 = true ∧ (snapD [] 8 { dumpAt := 8 }).cnt.dumpAt ≤ (snapD [] 8 { dumpAt := 8 }).ns ∧
    (snapD [] 8 {}).safe = false ∧ (snapD [(.cntDumpCfg, 0, 2 ^ 31)] 8 {}).partOfCore (snapD [(.cntDumpCfg, 0, 2 ^ 31)] 8 {}).dumpCore = some 0 ∧ (snapD [] 8 { dumpAt := 8 }).cnt.dump = none ∧
    (snapD [] 8 { dumpAt := 8 }).cnt.dumpBack = false ∧ (snapD [(.cntDumpCfg, 0, 2 ^ 31), (.cntDumpRange, 7, 5119 + 8192)] 8 { dumpAt := 8 }).dumpList ≠ [] ∧ (snapD [] 8 { dump := some (0, [], 0) }).cnt.dump ≠ none ∧
    (snapD [] 8 {}).rb .cntDumpCfg 0 31 = false ∧ (snapD [] 7 {}).ns < 8 ∧ (asks (snapD [] 8 { dumpBack := true }) (req .dumpBack (some (.data [])))).cnt.dumpBack = true ∧
    (asks (snapD [] 8 { dumpBack := true }) (req .dumpBack (some (.data [])))).replyFor .dumpBack = some (16383, .data []) ∧
    (asks (snapD [] 8 { dumpBack := true }) (req .dumpBack (some .error))).replyFor .dumpBack = some (16383, .error) ∧ (∀ bs, Reply.error ≠ Reply.data bs) := by
  repeat' first | apply And.intro | decide +kernel | (intro _ h; cases h)


/-! ## Lifetime, start-up, temperatures, registers -/

/-- The device with its lifetime and start-up state replaced, at a time in ns. -/
def lifeD (ns : Nat) (l : Life) (b : Boot) : Dev := { (later ns base) with life := l, boot := b }
def erasesD (on : Bool) : Dev := lifeD 0 { erases_ := [0x800000, 0x801000], eraseOn := on } {}
theorem witness_LifetimeRecordsAreKept :
    (lifeD 999999996 {} {}).time.tick < (lifeD 999999996 {} {}).life.ageAt + 250000000 ∧ (lifeD 1000000000 {} {}).life.ageAt + 250000000 ≤ (lifeD 1000000000 {} {}).time.tick ∧
    (lifeD 1000000000 {} {}).life.vin = true ∧ (lifeD 1000000000 {} {}).life.vaux = true ∧ (put [(.thermHot, 7, 32768 + 100)] (lifeD 1000000000 {} {})).islTemp 7 = some 25 ∧ base.islTemp 0 = none ∧
    base.powered = true ∧ (lifeD 4 {} {}).rf .timeAddend 0 0 32 ≤ (lifeD 4 {} {}).time.now % (600 * 1000000000 * 65536) ∧
    (lifeD 600000000000 {} {}).time.now % (600 * 1000000000 * 65536) < (lifeD 600000000000 {} {}).rf .timeAddend 0 0 32 ∧ (lifeD 600000000000 {} {}).life.ckptAt ≠ some (lifeD 600000000000 {} {}).time.tick ∧
    ((lifeD 600000000000 {} {}).reg .lifeSeq 0).toNat + 1 < 2 ^ 64 ∧ ({ (lifeD 600000000000 {} {}) with board := { smem := false } } : Dev).smemOk = false ∧ (lifeD 600000000000 {} {}).smemOk = true ∧
    (lifeD 600000000000 {} {}).life.rec0 = none ∧ (lifeD 0 { rec0 := some [], rec1 := some [] } {}).life.rec0 = some [] ∧ recordSeq [] ≤ recordSeq [] ∧ recordSeq [] < recordSeq (bytes 16 [(8, 8, 1)]) ∧
    (put [(.lifePos, 0, 8191)] (lifeD 600000000000 {} {})).flashBlank (logAddr ((put [(.lifePos, 0, 8191)] (lifeD 600000000000 {} {})).rf .lifePos 0 0 13)) 512 = true ∧
    (lifeD 600000000000 {} {}).life.erases_ = [] ∧ (erasesD false).powered = true ∧ (erasesD false).life.erases_ = 0x800000 :: [0x801000] ∧ (erasesD false).life.eraseOn = false ∧ (erasesD true).life.eraseOn = true := by
  repeat' first | apply And.intro | decide +kernel

def logKey : KeySlot := { state := 1, mode := 1 }
def bootD (ns : Nat) (b : Boot) : Dev := { (lifeD ns {} b) with keys := { ({} : Keys) with log := [(65535, logKey)] } }
theorem witness_StartUpAndSupply :
    (lifeD 0 { vin := false } {}).life.vin = false ∧ (lifeD 0 { vin := false, lost := false, auxRan := true } {}).life.lost = false ∧ (lifeD 0 { vin := false, lost := false, auxRan := true } {}).life.vaux = true ∧
    (lifeD 0 { vin := false, lost := false, auxRan := true } {}).life.auxRan = true ∧ (lifeD 0 { vin := false } {}).life.lost = true ∧ (lifeD 0 { vin := false } {}).boot.rstN = false ∧
    (lifeD 0 { vin := false, vaux := false } {}).life.vaux = false ∧ (lifeD 0 { vin := false, vaux := false } {}).powered = false ∧ (lifeD 0 {} {}).life.vaux = true ∧ (lifeD 0 {} {}).powered = true ∧
    (put [(.fltStat, 0, 4), (.fltCfg, 0, 1)] base).safe = true ∧ (put [(.fltStat, 0, 4), (.fltCfg, 0, 1)] base).rb .fltCfg 0 0 = true ∧
    ({ (put [(.fltStat, 0, 4), (.fltCfg, 0, 1)] base) with host := { perst := 1 } } : Dev).host.perst.getLsbD (put [(.fltStat, 0, 4), (.fltCfg, 0, 1)] base).mgmtPort = true ∧ base.safe = false ∧
    (lifeD 0 {} { rstN := true }).boot.rstN = true ∧ (lifeD 0 {} { rstN := true }).life.vin = true ∧ base.live = true ∧ base.boot.imaged = false ∧ (lifeD 0 {} { imaged := true }).boot.imaged = true ∧
    (bootD 0 { imaged := true }).live = true ∧ (bootD 0 { imaged := true }).fw.serving = false ∧ (bootD 0 { imaged := true }).fw.imgObjs = [] ∧ (bootD 0 { imaged := true }).smemOk = true ∧
    (bootD 0 { imaged := true }).keys.log = [] ++ [(65535, logKey)] ∧ 65535 ∉ (bootD 0 { imaged := true }).keys.logBad ∧ modeCounts 0 = true ∧ (runs base).live = true ∧ (runs base).fw.serving = true ∧
    (runs base).boot.ddrZeroed = false ∧ (runs base).fw.imgObjs = [] ∧ (runs base).fw.running = none ∧ (holding 0x20 (hdr grantDdr 0 0) base).fw.running = some (0x20, hdr grantDdr 0 0) ∧
    (holding 0x20 (hdr grantDdr 0 0) base).fw.serving = true ∧ (bootD 60000000000 { servedAt := some 0, image := 2 }).boot.servedAt = some 0 ∧
    0 + 15000000000 ≤ (bootD 60000000000 { servedAt := some 0, image := 2 }).time.tick ∧ (bootD 60000000000 { servedAt := some 0, image := 2 }).boot.image = 2 ∧
    (bootD 59999999996 {}).time.tick < 0 + 15000000000 ∧ base.life.vin = true ∧ base.boot.warnAt = none ∧ base.boot.poAt ≠ some base.time.tick ∧ (lifeD 8 {} { poAt := some 2 }).boot.poAt = some (lifeD 8 {} { poAt := some 2 }).time.tick ∧
    base.life.ckptAt ≠ some base.time.tick ∧ (lifeD 50000000 {} { warnAt := some 0 }).boot.warnAt = some 0 ∧
    0 + 12500000 ≤ (lifeD 50000000 {} { warnAt := some 0 }).time.tick ∧ (lifeD 50000000 {} { warnAt := some 0 }).rb .cfgSupply 0 2 = false ∧ (lifeD 49999996 {} { warnAt := some 0 }).time.tick < 0 + 12500000 := by
  repeat' first | apply And.intro | decide +kernel

/-- Sensors of which only island 7's last reads, 90 degrees, and a device that watches it. -/
def hotReadings : List Sensor := List.replicate 31 none ++ [some 360]
def thermD (ns : Nat) (l : List (Reg × Nat × Nat)) (b : Boot) : Dev := { (later ns (put l base)) with boot := b }
theorem witness_TemperaturesActOnTheDevice :
    base.powered = true ∧ sensorOk (some 700) = true ∧ sensorOk (some 701) = false ∧ hotReadings.getD 31 none = some 360 ∧ (put [(.thermCfg, 0, 85)] base).rf .thermCfg 0 0 8 = 85 ∧
    hottest (Claims.islReadings hotReadings 7) = some 360 ∧ 4 * 85 < (360 : Int) ∧ (∀ j < 7, hottest (Claims.islReadings hotReadings j) = none) ∧ base.boot.hotRaised.getLsbD 7 = false ∧
    (thermD 0 [] { hotRaised := 128 }).boot.hotRaised.getLsbD 7 = true ∧ tabFind 7 (thermD 100000 [] { critSince := [(7, 0)] }).boot.critSince = some 0 ∧
    (thermD 100000 [] { critSince := [(7, 0)] }).boot.critRaised.getLsbD 7 = false ∧ 0 + 25000 ≤ (thermD 100000 [] {}).time.tick ∧ (thermD 0 [] {}).rb .thermHot 7 15 = false ∧
    (thermD 99996 [(.thermHot, 7, 32768)] {}).rb .thermHot 7 15 = true ∧ (thermD 99996 [] {}).time.tick < 0 + 25000 ∧ (thermD 1000000 [(.thermCfg, 0, 2 ^ 24)] { govSince := [(7, 0)] }).rb .thermCfg 0 24 = true ∧
    (thermD 1000000 [] {}).rb .thermStat 0 0 = false ∧ (7, 0) ∈ (thermD 1000000 [] { govSince := [(7, 0)] }).boot.govSince ∧ 0 + 250000 ≤ (thermD 1000000 [] {}).time.tick ∧
    (∀ e ∈ (thermD 999996 [] { govSince := [(7, 0)] }).boot.govSince, (thermD 999996 [] { govSince := [(7, 0)] }).time.tick < e.2 + 250000) ∧ (thermD 0 [(.thermStat, 0, 1)] {}).rb .thermStat 0 0 = true ∧
    (put [(.thermCfg, 0, 0)] base).rb .thermCfg 0 24 = false ∧ (thermD 100000000 [] { coolSince := some 0 }).boot.coolSince = some 0 ∧ 0 + 25000000 ≤ (thermD 100000000 [] {}).time.tick ∧
    (thermD 99999996 [] {}).time.tick < 0 + 25000000 ∧ (lifeD 0 { vaux := false } {}).life.vaux = false ∧ base.life.vaux = true := by repeat' first | apply And.intro | decide +kernel

theorem witness_RegistersFollowTheirAccessCodes :
    base.powered = true ∧ 2 % 4 ≠ 0 ∧ ctrAt 1 0x0FFFFFFC = none ∧ regAt (blockIsl 1 0x0FFFFFFC) 0x0FFFFFFC = none ∧ ctrAt 5 0xB00004 = none ∧ regAt (blockIsl 5 0xB00004) 0xB00004 = some (.fixEngUnrec, 3, 0) ∧
    Reg.fixEngUnrec ∉ mbxRegs ∧ Reg.fixEngUnrec ∉ Claims.ownRule ∧ Reg.fixEngUnrec.info.bytes = 4 ∧ Reg.fixEngUnrec ∉ timeRegs ∧ base.regOwner .fixEngUnrec 3 ≠ some 7 ∧ Reg.fixEngUnrec.info.acc = .rc ∧
    base.mayRead (.fn 7 0) .fixEngUnrec 3 = true ∧ base.mayWrite (.fn 7 8) .fixEngUnrec 3 = false ∧ base.mayWrite .firmware .fixEngUnrec 3 = true ∧
    regAt (blockIsl 7 0xC1FFEC) 0xC1FFEC = some (.schShpParent, 8192 + 4095, 0) ∧ Reg.schShpParent ∉ mbxRegs ∧ Reg.schShpParent ∉ Claims.ownRule ∧ Reg.schShpParent.info.bytes = 4 ∧
    Reg.schShpParent.info.acc = .rw ∧ rwFields .schShpParent = [] ∧ base.mayWrite .debug .schShpParent 12287 = true ∧ Reg.timeQual.info.acc = .ro ∧ base.mayWrite .firmware .timeQual 0 = true ∧ Reg.timeQual ∈ timeRegs := by
  repeat' first | apply And.intro | decide +kernel

/-- The step that each invariant speaks of: a command at the front of the queue is taken, and answers a next state. -/
def next? (s : State) : Option State := match step s with | .next t => some t | _ => none
theorem witness_CommandQueueIsFirstInFirstOut : (next? { run runT with pending := [.add ia 1 2 (.reg 3), .auxReset] }).map (·.pending) = some [.auxReset] := by decide +kernel
/-- Slot A has issued, and slot B follows it. -/
def opened : State := { run runT with bundle := some ⟨0, with0 runT, false, 1, false, 0, false⟩, pending := [.add ⟨0, .b, 0⟩ 1 2 (.reg 3)] }
theorem witness_OpenBundlesStayOfThreadsThatCouldIssue : BundleOk opened ∧ (next? opened).isSome = true := by
  refine ⟨?_, by decide +kernel⟩
  intro b h
  cases h
  refine ⟨by decide, fun _ => ⟨show base.live = true by decide, rfl, 0, part0 _, show fetchOk base 0 0 0 = true by decide⟩⟩
theorem witness_MemoryKeepsItsCanonicalForm : Claims.MemoryOk { opened with dev := { with0 runT with mem := [⟨5, 1⟩, ⟨0x200100000040, 9⟩] } } ∧
    (next? { opened with dev := { with0 runT with mem := [⟨5, 1⟩, ⟨0x200100000040, 9⟩] } }).isSome = true := by
  refine ⟨⟨by decide +kernel, fun b h => ?_⟩, by decide +kernel⟩
  cases h
  exact (by decide +kernel)
theorem witness_ResetLeavesTheStatedStateAndTicksPass : State.reset.pending = [] ∧ State.reset.dev.live = true ∧ ({ State.reset.dev with life := { vin := false } } : Dev).live = false := by
  repeat' first | apply And.intro | decide +kernel

/-! ## Single steps and worked examples: the expected values are the spec's, or counted by hand from its rules -/

/-- What a command leaves in thread 0's g1, from some registers. -/
def g1 (i : Instr) (g : Tab Word) : Option Word := match exec i (run { runT with g := g }) with | .next t => some ((t.dev.thread 0).reg 1) | _ => none
/-- The next device, where there is one. -/
def after (i : Instr) (d : Dev) : Option Dev := match exec i (at_ d) with | .next t => some t.dev | _ => none
-- R108: modulo 2^64; the shift amount is rb[5:0]; SAR fills with the sign.
theorem test_add_wraps : g1 (.add ia 1 2 (.reg 3)) [(2, 0xFFFFFFFFFFFFFFFF), (3, 2)] = some 1 := by decide +kernel
theorem test_add_source_is_destination : g1 (.add ia 1 1 (.reg 1)) [(1, 0x8000000000000001)] = some 2 := by decide +kernel
theorem test_sub_below_zero : g1 (.sub ia 1 2 (.reg 3)) [(2, 1), (3, 2)] = some 0xFFFFFFFFFFFFFFFF := by decide +kernel
theorem test_shl_by_64_is_by_0 : g1 (.shl ia 1 2 (.reg 3)) [(2, 5), (3, 64)] = some 5 := by decide +kernel
theorem test_sar_keeps_the_sign : g1 (.sar ia 1 2 (.reg 3)) [(2, 0x8000000000000000), (3, 63)] = some 0xFFFFFFFFFFFFFFFF := by decide +kernel
theorem test_min_is_signed : g1 (.min ia 1 2 (.reg 3)) [(2, 0xFFFFFFFFFFFFFFFF), (3, 1)] = some 0xFFFFFFFFFFFFFFFF := by decide +kernel
theorem test_minu_is_unsigned : g1 (.minu ia 1 2 (.reg 3)) [(2, 0xFFFFFFFFFFFFFFFF), (3, 1)] = some 1 := by decide +kernel
theorem test_addi_sign_extends : g1 (.addi ia 1 2 0x800) [(2, 0)] = some 0xFFFFFFFFFFFFF800 := by decide +kernel
theorem test_ori_zero_extends : g1 (.ori ia 1 2 0x800) [] = some 0x800 := by decide +kernel
theorem test_movi_sign_extends : g1 (.movi ia 1 0x1FFFF) [] = some 0xFFFFFFFFFFFFFFFF := by decide +kernel
theorem test_movsh : g1 (.movsh ia 1 0xBEEF) [(1, 0x1234567890ABCDEF)] = some 0x567890ABCDEFBEEF := by decide +kernel
theorem test_mulhu : g1 (.mulhu ia 1 2 (.reg 2)) [(2, 0xFFFFFFFFFFFFFFFF)] = some 0xFFFFFFFFFFFFFFFE := by decide +kernel
theorem test_mulhs : g1 (.mulhs ia 1 2 (.reg 3)) [(2, 0xFFFFFFFFFFFFFFFF), (3, 1)] = some 0xFFFFFFFFFFFFFFFF := by decide +kernel
theorem test_bfxs_top_bit : g1 (.bfxs ia 1 2 60 3) [(2, 0x8000000000000000)] = some 0xFFFFFFFFFFFFFFF8 := by decide +kernel
theorem test_bfi_keeps_the_rest : g1 (.bfi ia 1 2 8 7) [(1, 0xFFFFFFFFFFFFFFFF), (2, 0x1A5)] = some 0xFFFFFFFFFFFFA5FF := by decide +kernel
-- R110: off22 counts bundles from this one; CALL leaves the address of the next bundle in g31.
theorem test_br_back : (after (.br ia 0x3FFFFF) (with0 { runT with pc := 16 })).map (fun d => (d.thread 0).pc) = some 8 := by decide +kernel
theorem test_call_links : (after (.call ia 3) (with0 { runT with pc := 16 })).map (fun d => ((d.thread 0).pc, (d.thread 0).reg 31)) = some (40, 24) := by decide +kernel
-- 01_islands_and_time.md: the local data memory of c37 stands at 0x4001_3014_0000.
theorem test_local_memory_of_c37 : physAddr base (8 * 37) 0 0 = 0x400130140000 := by decide +kernel
-- 02_engine_cores.md, after R72: lock 1,500, previous winner 200; threads 130 and 333 meet, and 333 wins.
def contest : Dev :=
  let ask : Thread := outT (.acquire 1500) none
  { put [(.lock, 1500, 200 * 2 ^ 32)] base with thr := [(130, ask), (333, ask)] }
theorem test_lock_1500_winner : (after (.lockArbitrate 1500 [130, 333]) contest).map (fun d => (d.lockHeld 1500, d.lockOwner 1500, d.lockPrev 1500)) = some (true, 333, 333) := by decide +kernel
theorem test_lock_1500_results : (after (.lockArbitrate 1500 [130, 333]) contest).map (fun d => ((d.thread 333).outs ++ (d.thread 130).outs).map (·.res)) =
    some [some (2 ^ 16 + 333), some 333] := by decide +kernel
-- 05_scheduling_and_gates.md, after R193: base 1,000 s, cycle 250 us, now 1,000.123456789 s: n = 494, C = 1,000.1235 s.
theorem test_gate_install_example : (let r := (later 1000123456789 base).gateInstall 0 [0x3E8000000FF] 250000 0 true 1000000000000; (r.2.2, (r.1.gateOf 0).change)) = (494, some 1000123500000) := by decide +kernel
-- 12_counters_snapshots_lifetime.md, after R438: a SNAP accepted at tick 4 fixes L = 8, and the edge at tick 5 merges with it.
theorem test_snap_merges_the_edge : (after .snapInEdge (snapD [(.snapCfg, 0, 24)] 20 { snapDue := some (8, 32) })).map (fun d => (d.cnt.snapDue, d.reg .snapPin 0, d.rf .snapStat 0 16 16)) =
    some (some (8, 32), timeWord 20, 1) := by decide +kernel
-- 06_cipher_and_fixity.md, fixity test vectors.
def digits : List Byte := [0x31, 0x32, 0x33, 0x34, 0x35, 0x36, 0x37, 0x38, 0x39]
theorem test_crc32c_vector : crc32c digits = 0xE3069283 := by decide +kernel
theorem test_crc64_vector : crc64 digits = 0x995DC9BBDF1939FA := by decide +kernel
theorem test_sha256_vector : ofBe (digestOf 3 [0x61, 0x62, 0x63]) = 0xBA7816BF8F01CFEA414140DE5DAE2223B00361A396177A9CB410FF61F20015AD := by decide +kernel
theorem test_sha3_vector : ofBe (digestOf 4 []) = 0xA7FFC6F8BF1ED76651C14756A061D662F580FF4DE43B49FA82D80A4B80F8434A := by decide +kernel
theorem test_tree_vector : ofBe (digestOf 5 []) = 0x6E340B9CFFB37A989CA544E6BB780A2C78901D3FB33738768511A30617AFA01D := by decide +kernel
-- FIPS 197, appendix C.1.
theorem test_aes_vector : aesEnc ((List.range 16).map (BitVec.ofNat 8)) ((List.range 16).map (fun k => BitVec.ofNat 8 (17 * k))) =
    [0x69, 0xC4, 0xE0, 0xD8, 0x6A, 0x7B, 0x04, 0x30, 0xD8, 0xCD, 0xB7, 0x80, 0x70, 0xB4, 0xC5, 0x5A] := by decide +kernel
-- No row of the table has bits.
theorem test_no_word_spells_a_command : decodeTableWord 32 0x12345678 = none ∧ State.reset.withFetchWord 32 0x12345678 = State.reset := ⟨rfl, rfl⟩
-- R3, R21: an idle step is one tick of 4 ns.
theorem test_idle_tick : (next? State.reset).map (fun t => (t.dev.time.tick, t.dev.ns)) = some (1, 4) := by decide +kernel


end Sys2Proof.Tests
end

section
/-! PROOFS. TWAIT, its end, and the ev30 timer against an island's copy of device time (R26, R58 to R62 of 02_engine_cores.md). -/
namespace Sys2Proof.Machine
open Sys2Proof

/-! ## TWAIT -/

/-- An instruction that issues and whose act does nothing leaves its thread as the issue left it. -/
theorem issue_nothing {i : Issue} {cost : Nat} {port : Bool} {dest : Nat} {uses : List (BitVec 5)}
    {act : Thread → Dev → Dev → Act} {s : State} {d0 : Dev} (h : Issues i port dest uses s d0)
    (ha : act (d0.thread i.tid.val) d0 (actsOn i s) = .done (actsOn i s)) :
    ∃ t, issue i true cost port dest uses act s = .next t ∧ ChangesThread i (fun x => x) s t := by
  obtain ⟨t, ht, hd⟩ := issue_done (cost := cost) h ha
  refine ⟨t, ht, ⟨hd.1, ?_, ?_, ?_⟩, does_thread hd _⟩
  · rw [hd.2]; unfold actsOn afterIssue; split <;> rfl
  · intro u hu; rw [does_thread hd, actsOn_thread_ne i s hu]
  · intro e he; rw [does_counter hd]; unfold actsOn afterIssue
    split
    · rfl
    · exact Dev.counter_count_ne _ he

/-- R96, R101: TWAIT stands in slot A. -/
theorem twait_wf {i : Issue} (ra : BitVec 5) (hp : i.predOk = true) (ha : i.slot = .a) : (Instr.twait i ra).wf = true := by
  simp [Instr.wf, Issue.slotAOnly, hp, ha]

section
variable {i : Issue} {ra : BitVec 5} {s : State} {d0 : Dev}

/-- R62: a TWAIT whose target has come completes in its own slot. -/
theorem exec_twait_passed (hp : i.predOk = true) (ha : i.slot = .a) (h : Issues i false 0 [ra] s d0)
    (hw : timeWordOk ((d0.thread i.tid.val).reg ra) = true)
    (hle : expandTime ((actsOn i s).islNs (islOf i.tid.val) / nsPerSec) ((d0.thread i.tid.val).reg ra) ≤
      (actsOn i s).islNs (islOf i.tid.val)) :
    ∃ t, exec (.twait i ra) s = .next t ∧ ChangesThread i (fun x => x) s t := by
  change ∃ t, execTwait i ra s = .next t ∧ _
  unfold execTwait
  rw [twait_wf ra hp ha]
  exact issue_nothing h (by simp [hw, hle])

/-- R62: before its target TWAIT makes its thread WAITING for it. -/
theorem exec_twait_waits (hp : i.predOk = true) (ha : i.slot = .a) (h : Issues i false 0 [ra] s d0)
    (hw : timeWordOk ((d0.thread i.tid.val).reg ra) = true) {target : Nat}
    (ht : target = expandTime ((actsOn i s).islNs (islOf i.tid.val) / nsPerSec) ((d0.thread i.tid.val).reg ra))
    (hlt : (actsOn i s).islNs (islOf i.tid.val) < target) :
    ∃ t, exec (.twait i ra) s = .next t ∧
      ChangesThread i (fun x => { x with st := .waiting, wait := .twait target, stepping := (d0.thread i.tid.val).stepping }) s t := by
  change ∃ t, execTwait i ra s = .next t ∧ _
  unfold execTwait
  rw [twait_wf ra hp ha]
  exact issue_thread h (by simp [hw, ← ht, Nat.not_le.mpr hlt])

end

/-- R26, R58: the thread wakes when its island's time has reached the target. -/
theorem exec_twaitExpire_due {tid : Fin 576} {s : State} {target : Nat} (hl : s.dev.live = true)
    (hst : (s.dev.thread tid.val).st = .waiting) (hw : (s.dev.thread tid.val).wait = .twait target)
    (hle : target ≤ s.dev.islNs (islOf tid.val)) :
    exec (.twaitExpire tid) s = .next { s with bundle := none, dev :=
      (s.dev.setThread tid.val (s.dev.thread tid.val).wake).count (evE (islOf tid.val) (16 * (coreOf tid.val % 16) + 12)) } := by
  change execTwaitExpire tid s = _
  rw [execTwaitExpire, event_live _ hl]
  simp [hst, hw, hle]

/-- R58: before the target the thread goes on waiting. -/
theorem exec_twaitExpire_early {tid : Fin 576} {s : State} {target : Nat} (hl : s.dev.live = true)
    (hst : (s.dev.thread tid.val).st = .waiting) (hw : (s.dev.thread tid.val).wait = .twait target)
    (hlt : s.dev.islNs (islOf tid.val) < target) :
    exec (.twaitExpire tid) s = .next { s with bundle := none } := by
  change execTwaitExpire tid s = _
  rw [execTwaitExpire, event_live _ hl]
  simp [hst, hw, Nat.not_le.mpr hlt]

/-! ## The timer's next occurrence (R61) -/

/-- The timer's move touches its target and its skip count. -/
theorem Thread.timerNext_rest (t : Thread) (target now : Nat) :
    t.timerNext target now = { t with timer := (t.timerNext target now).timer, skip := (t.timerNext target now).skip } := by
  unfold Thread.timerNext; split <;> rfl

@[simp] theorem Thread.timerNext_st (t : Thread) (target now : Nat) : (t.timerNext target now).st = t.st := by
  rw [Thread.timerNext_rest]
@[simp] theorem Thread.timerNext_wait (t : Thread) (target now : Nat) : (t.timerNext target now).wait = t.wait := by
  rw [Thread.timerNext_rest]
@[simp] theorem Thread.timerNext_ev (t : Thread) (target now : Nat) : (t.timerNext target now).ev = t.ev := by
  rw [Thread.timerNext_rest]
@[simp] theorem Thread.timerNext_stepping (t : Thread) (target now : Nat) : (t.timerNext target now).stepping = t.stepping := by
  rw [Thread.timerNext_rest]

theorem Thread.timerNext_oneShot {t : Thread} (target now : Nat) (h : t.period = 0) : (t.timerNext target now).timer = none := by
  simp [Thread.timerNext, h]

/-- A periodic timer moves to its first occurrence after `now`, and its skip count takes the occurrences passed over. -/
theorem Thread.timerNext_periodic {t : Thread} {target now : Nat} (h : 0 < t.period) (hle : target ≤ now) :
    ∃ n, (t.timerNext target now).timer = some (target + (n + 1) * (4 * t.period)) ∧ target + n * (4 * t.period) ≤ now ∧
      now < target + (n + 1) * (4 * t.period) ∧ (t.timerNext target now).skip = min (t.skip + n) (2 ^ 32 - 1) := by
  have hlow : (now - target) / (4 * t.period) * (4 * t.period) ≤ now - target := Nat.div_mul_le_self _ _
  have hhigh : now - target < (now - target) / (4 * t.period) * (4 * t.period) + 4 * t.period := Nat.lt_div_mul_add (by omega)
  refine ⟨(now - target) / (4 * t.period), ?_, by omega, by rw [Nat.add_one_mul]; omega, ?_⟩
  · simp [Thread.timerNext, h.ne', Nat.mul_comm t.period 4]
  · simp [Thread.timerNext, h.ne', Nat.mul_comm t.period 4]

/-! ## An event leaves memory, registers and timers alone -/

/-- Memory, every register, and every thread's timer with its skip count are as they were. -/
def KeepsTimers (d d' : Dev) : Prop :=
  d'.mem = d.mem ∧ d'.regs = d.regs ∧ ∀ u, (d'.thread u).timer = (d.thread u).timer ∧ (d'.thread u).skip = (d.thread u).skip

theorem KeepsTimers.refl (d : Dev) : KeepsTimers d d := ⟨rfl, rfl, fun _ => ⟨rfl, rfl⟩⟩

theorem KeepsTimers.trans {a b c : Dev} (h : KeepsTimers a b) (h' : KeepsTimers b c) : KeepsTimers a c := by
  obtain ⟨hm, hr, ht⟩ := h
  obtain ⟨hm', hr', ht'⟩ := h'
  exact ⟨hm'.trans hm, hr'.trans hr, fun u => ⟨(ht' u).1.trans (ht u).1, (ht' u).2.trans (ht u).2⟩⟩

theorem keepsTimers_count (d : Dev) (e : Nat) : KeepsTimers d (d.count e) := ⟨rfl, rfl, fun _ => ⟨rfl, rfl⟩⟩

theorem keepsTimers_setThread (d : Dev) (k : Nat) {t : Thread} (ht : t.timer = (d.thread k).timer) (hs : t.skip = (d.thread k).skip) :
    KeepsTimers d (d.setThread k t) := by
  refine ⟨rfl, rfl, fun u => ?_⟩
  by_cases hu : u = k
  · subst hu; simp [ht, hs]
  · simp [Dev.thread_setThread_ne, hu]

@[simp] theorem Thread.setReg_timer (t : Thread) (r : BitVec 5) (v : Word) : (t.setReg r v).timer = t.timer := by
  rw [Thread.setReg_rest]
@[simp] theorem Thread.setReg_skip (t : Thread) (r : BitVec 5) (v : Word) : (t.setReg r v).skip = t.skip := by
  rw [Thread.setReg_rest]

theorem keepsTimers_recordInput (d : Dev) (tid : Nat) (v : Word) : KeepsTimers d (d.recordInput tid v) := by
  unfold Dev.recordInput
  split
  · split
    · exact keepsTimers_setThread _ _ rfl rfl
    · exact .refl d
  · exact .refl d

theorem keepsTimers_wakeShadow (d : Dev) (tid : Nat) : KeepsTimers d (d.wakeShadow tid) := by
  unfold Dev.wakeShadow
  dsimp only
  split
  · split
    · exact keepsTimers_setThread _ _ (by simp [Thread.wake]) (by simp [Thread.wake])
    · exact .refl d
  · exact .refl d

theorem keepsTimers_setEvent (d : Dev) (tid line : Nat) : KeepsTimers d (d.setEvent tid line) := by
  unfold Dev.setEvent
  dsimp only
  split
  · split
    · exact keepsTimers_setThread _ _ rfl rfl
    · refine .trans ?_ (keepsTimers_wakeShadow _ _)
      refine .trans ?_ (keepsTimers_recordInput _ _ _)
      refine .trans ?_ (keepsTimers_count _ _)
      exact keepsTimers_setThread _ _ (by simp [Thread.wake, Thread.takeEvents]) (by simp [Thread.wake, Thread.takeEvents])
  · exact keepsTimers_setThread _ _ rfl rfl

/-! ## What an event does to its thread (R59, R60) -/

/-- A thread and its peer on the pair's other island are two threads. -/
theorem peerTid_ne (tid : Nat) : peerTid tid ≠ tid := by
  unfold peerTid
  split
  · split <;> omega
  · split <;> omega

theorem wakeShadow_thread_ne (d : Dev) {tid u : Nat} (h : u ≠ tid) : (d.wakeShadow tid).thread u = d.thread u := by
  unfold Dev.wakeShadow
  dsimp only
  split
  · split
    · exact d.thread_setThread_ne _ h
    · rfl
  · rfl

/-- R412: inputs are recorded in duplex alone. -/
theorem recordInput_simplex {d : Dev} {tid p : Nat} (v : Word) (hp : d.partOf tid = some p) (hd : d.inDuplex p = false) :
    d.recordInput tid v = d := by
  simp [Dev.recordInput, hp, hd]

/-- A RUNNING thread gets the pending bit and nothing more. -/
theorem setEvent_running {d : Dev} {tid : Nat} (line : Nat) (h : (d.thread tid).st = .running) :
    d.setEvent tid line = d.setThread tid { d.thread tid with ev := (d.thread tid).ev ||| (1#32 <<< line) } := by
  simp [Dev.setEvent, h]

/-- Outside duplex a thread whose WAITEV selects the event takes it and wakes. -/
theorem setEvent_wakes {d : Dev} {tid line p : Nat} {rd : BitVec 5} {mask : W32} (hp : d.partOf tid = some p)
    (hd : d.inDuplex p = false) (hst : (d.thread tid).st = .waiting) (hw : (d.thread tid).wait = .events rd mask)
    (hm : ((d.thread tid).ev ||| (1#32 <<< line)) &&& mask ≠ 0) :
    (d.setEvent tid line).thread tid =
      (({ d.thread tid with ev := (d.thread tid).ev ||| (1#32 <<< line) } : Thread).takeEvents rd mask).wake := by
  unfold Dev.setEvent
  simp only [hst, hw, hm, if_false]
  rw [wakeShadow_thread_ne _ (peerTid_ne tid).symm, recordInput_simplex (p := p), Dev.count_thread, Dev.thread_setThread_same]
  · exact hp
  · exact hd

/-- An event in a mask is selected by it. -/
theorem pending_and_mask_ne_zero (ev : W32) {mask : W32} {line : Nat} (hl : line < 32) (h : mask.getLsbD line = true) :
    (ev ||| (1#32 <<< line)) &&& mask ≠ 0 := by
  intro h0
  have hbit : ((ev ||| (1#32 <<< line)) &&& mask).getLsbD line = true := by
    rw [BitVec.getLsbD_and, h]; simp [hl]
  rw [h0] at hbit
  simp at hbit

/-- R60: the thread that WAITEV's completion leaves, of one that does not single-step. -/
theorem takeEvents_wake (t : Thread) (rd : BitVec 5) (mask : W32) (hs : t.stepping = false) :
    (t.takeEvents rd mask).wake.st = .running ∧ (t.takeEvents rd mask).wake.wait = .none ∧
      (rd ≠ 0 → (t.takeEvents rd mask).wake.reg rd = (t.ev &&& mask).setWidth 64) ∧
      (t.takeEvents rd mask).wake.ev = t.ev &&& ~~~mask := by
  have hrest := Thread.setReg_rest { t with ev := t.ev &&& ~~~(t.ev &&& mask) } rd ((t.ev &&& mask).setWidth 64)
  refine ⟨?_, rfl, fun hrd => ?_, ?_⟩
  · unfold Thread.wake Thread.takeEvents; rw [hrest]; simp [hs]
  · exact (Thread.reg_setReg _ rd rd _).trans (if_pos ⟨rfl, hrd⟩)
  · have hbits : t.ev &&& ~~~(t.ev &&& mask) = t.ev &&& ~~~mask := by
      ext k; cases h : mask[k] <;> simp [h]
    unfold Thread.wake Thread.takeEvents; rw [hrest]; exact hbits

/-! ## The timer fires (R59, R61) -/

/-- The device after a thread's timer has moved on from its target at `now` and made ev30 pending. -/
def Dev.timerFired (d : Dev) (tid target now : Nat) : Dev := (d.updThread tid (fun t => t.timerNext target now)).setEvent tid 30

/-- A timer whose target has come moves on and makes ev30 pending. -/
theorem exec_timerEv30Fire_due {tid : Fin 576} {s : State} {target : Nat} (hl : s.dev.live = true)
    (ht : (s.dev.thread tid.val).timer = some target) (hle : target ≤ s.dev.islNs (islOf tid.val)) :
    exec (.timerEv30Fire tid) s = .next { s with bundle := none, dev := s.dev.timerFired tid.val target (s.dev.islNs (islOf tid.val)) } := by
  change execTimerEv30Fire tid s = _
  rw [execTimerEv30Fire, event_live _ hl]
  simp [ht, hle, Dev.timerFired]

section
variable {d : Dev} {tid target now : Nat}

/-- The device after a timer's move and its event: memory and registers stay, and the timer is where its move put it. -/
theorem Dev.timerFired_timer :
    (d.timerFired tid target now).mem = d.mem ∧
    (d.timerFired tid target now).regs = d.regs ∧
    ((d.timerFired tid target now).thread tid).timer = ((d.thread tid).timerNext target now).timer ∧
    ((d.timerFired tid target now).thread tid).skip = ((d.thread tid).timerNext target now).skip := by
  obtain ⟨hm, hr, ht⟩ := keepsTimers_setEvent (d.updThread tid (fun t => t.timerNext target now)) tid 30
  obtain ⟨htimer, hskip⟩ := ht tid
  rw [Dev.thread_updThread_same] at htimer hskip
  exact ⟨hm, hr, htimer, hskip⟩

/-- R59: a RUNNING thread's timer makes ev30 pending in it, and no other thread moves. -/
theorem Dev.timerFired_running (h : (d.thread tid).st = .running) :
    ((d.timerFired tid target now).thread tid).ev = (d.thread tid).ev ||| 0x40000000#32 ∧
    ∀ u, u ≠ tid → (d.timerFired tid target now).thread u = d.thread u := by
  rw [Dev.timerFired, setEvent_running 30 (by simpa using h)]
  refine ⟨by simp, fun u hu => ?_⟩
  rw [Dev.thread_setThread_ne _ _ hu, Dev.thread_updThread_ne _ _ hu]

/-- R59, R60: a WAITEV that selects ev30 completes when the timer fires. -/
theorem Dev.timerFired_wakes (hx : Simplex d tid) {rd : BitVec 5} {mask : W32} (hst : (d.thread tid).st = .waiting)
    (hw : (d.thread tid).wait = .events rd mask) (hm : mask.getLsbD 30 = true) (hs : (d.thread tid).stepping = false) {t : Thread}
    (ht : t = (d.timerFired tid target now).thread tid) :
    t.st = .running ∧ t.wait = .none ∧ (rd ≠ 0 → t.reg rd = (((d.thread tid).ev ||| 0x40000000#32) &&& mask).setWidth 64) ∧
      t.ev = ((d.thread tid).ev ||| 0x40000000#32) &&& ~~~mask := by
  obtain ⟨⟨p, hp, hd⟩, -⟩ := hx
  have hmask := pending_and_mask_ne_zero (d.thread tid).ev (by decide) hm
  have hwake := setEvent_wakes (d := d.updThread tid (fun t => t.timerNext target now)) (line := 30) (rd := rd) (mask := mask) hp hd
    (by simpa using hst) (by simpa using hw) (by simpa using hmask)
  rw [ht, Dev.timerFired, hwake, Dev.thread_updThread_same]
  simpa using takeEvents_wake { (d.thread tid).timerNext target now with ev := (d.thread tid).ev ||| 0x40000000#32 } rd mask
    (by simpa using hs)

end

/-- Settles O13: TWAIT completes, waits and ends by its island's copy of device time, and the ev30 timer fires by the same copy; neither looks at the other. -/
theorem waitsAndTimersFollowDeviceTime : Obligations.WaitsAndTimersFollowDeviceTime := by
  unfold Obligations.WaitsAndTimersFollowDeviceTime
  refine ⟨⟨?twait, ?expire⟩, ?timer⟩
  case twait =>
    intro i ra s d0 hp ha h hw target ht
    have hok : timeWordOk ((d0.thread i.tid.val).reg ra) = true := decide_eq_true hw
    exact ⟨fun hle => exec_twait_passed hp ha h hok (ht ▸ hle), fun hlt => exec_twait_waits hp ha h hok ht hlt⟩
  case expire =>
    intro tid s target hl hst hw
    refine ⟨fun hle => ⟨_, exec_twaitExpire_due hl hst hw hle, rfl, by simp, rfl, rfl, fun u hu => ?_⟩,
      fun hlt => ⟨_, exec_twaitExpire_early hl hst hw hlt, rfl⟩⟩
    exact s.dev.thread_setThread_ne _ hu
  case timer =>
    intro tid s target hl ht hle
    obtain ⟨hmem, hregs, htimer, hskip⟩ := Dev.timerFired_timer (d := s.dev) (tid := tid.val) (target := target) (now := s.dev.islNs (islOf tid.val))
    refine ⟨_, exec_timerEv30Fire_due hl ht hle, rfl, hmem, hregs, Dev.timerFired_running,
      fun hx rd mask hst hw hm hs => Dev.timerFired_wakes hx hst hw hm hs rfl, fun hone => ?_, fun hper => ?_⟩
    · exact htimer.trans (Thread.timerNext_oneShot _ _ hone)
    · obtain ⟨n, hnext, hlow, hhigh, hcount⟩ := Thread.timerNext_periodic hper hle
      exact ⟨n, htimer.trans hnext, hlow, hhigh, hskip.trans hcount⟩

end Sys2Proof.Machine
end

section
/-! PROOFS. The cost of an instruction that opens its bundle, compares and predicate logic, and branches (R53, R90, R101, R109, R110 of 03_dunval_instruction_set.md). -/
namespace Sys2Proof.Machine
open Sys2Proof

/-! ## An instruction that opens its bundle, and one that follows in slot B -/

section
variable {i : Issue} {cost : Nat} {port : Bool} {dest : Nat} {uses : List (BitVec 5)} {act : Thread → Dev → Dev → Act} {s : State} {d0 : Dev}

theorem joins_of_opens (h : Opens i s) : Joins i s = false := by
  unfold Joins
  rcases h with ha | hb
  · simp [ha]
  · cases hs : s.bundle with
    | none => simp
    | some b => simp [hb b hs]

theorem joins_of_follows (h : Follows i port dest s d0) : Joins i s = true := by
  obtain ⟨hslot, b, hs, htid, -⟩ := h
  simp [Joins, hslot, hs, htid]

/-- The instruction that opens a bundle issues from the device as it stands: it does not stand behind a slot A. -/
theorem ready_of_opens (ho : Offered i port dest s d0) (h : Opens i s) : Ready s.dev i.tid.val ∧ d0 = s.dev := by
  rcases ho with ⟨-, hr, hd⟩ | hf
  · exact ⟨hr, hd⟩
  · exact absurd (joins_of_follows hf) (by simp [joins_of_opens h])

/-- A legal instruction that opens its bundle is issued as its first. -/
theorem issue_of_opens (h : Opens i s) :
    ∃ keep, issue i true cost port dest uses act s = issueFirst i keep cost port dest uses act s := by
  unfold issue
  cases hslot : i.slot with
  | a => exact ⟨true, rfl⟩
  | b =>
    refine ⟨false, ?_⟩
    cases hs : s.bundle with
    | none => rfl
    | some b =>
      rcases h with ha | hb
      · simp [hslot] at ha
      · simp [hb b hs]

/-- R101: an instruction in slot B that is predicated off closes its bundle; the bundle's slot is wasted where slot A was off too (R53). -/
theorem issue_follows_off (h : Follows i port dest s d0) (hp : predOn (d0.thread i.tid.val) i.pred = false) :
    ∃ b, s.bundle = some b ∧ issue i true cost port dest uses act s =
      .next { s with bundle := none, dev := if b.off then (s.dev.slots i.tid.val 0 (-1)).slots i.tid.val 1 1 else s.dev } := by
  obtain ⟨hslot, b, hs, htid, hdead, hport, hdest, rfl⟩ := h
  have hclash : ¬dest = 0 → ¬dest = b.dest := hdest.resolve_left
  refine ⟨b, hs, ?_⟩
  unfold issue issueSecond
  simpa [hslot, hs, htid, hdead, hport, hp] using hclash

/-- R101: an instruction that is predicated off leaves every thread as its bundle's issue left it. -/
theorem issue_off_thread (ho : Offered i port dest s d0) (hp : predOn (d0.thread i.tid.val) i.pred = false) :
    ∃ t, issue i true cost port dest uses act s = .next t ∧ ∀ u, t.dev.thread u = (actsOn i s).thread u := by
  rcases ho with ⟨hopen, hr, rfl⟩ | hf
  · obtain ⟨keep, hk⟩ := issue_of_opens hopen
    refine ⟨_, hk.trans (issueFirst_off hr hp), fun u => ?_⟩
    simp [actsOn, joins_of_opens hopen]
  · obtain ⟨b, -, ht⟩ := issue_follows_off hf hp
    refine ⟨_, ht, fun u => ?_⟩
    cases b.off <;> simp [actsOn, joins_of_follows hf]

/-! ## The cost of an instruction (R53) -/

@[simp] theorem actsOn_slot (i : Issue) (s : State) : (actsOn i s).cnt.slot = s.dev.cnt.slot := by
  unfold actsOn afterIssue; split <;> rfl

/-- Slots of a timed thread that count as retired count as nothing else. -/
theorem Dev.slots_retired (d : Dev) {tid : Nat} (h : timed tid = true) (n : Word) (c : Nat) :
    tabGet (d.slots tid 0 n).cnt.slot 0 (5 * tid + c) = tabGet d.cnt.slot 0 (5 * tid + c) + if c = 0 then n else 0 := by
  simp only [Dev.slots, h, if_true, Nat.add_zero]
  by_cases hc : c = 0
  · simp [hc]
  · simp [hc, tabGet_put_ne]

/-- An instruction that opens its bundle and whose act succeeds retires as many slots as it costs. -/
theorem issue_costs {d2 : Dev} {t : State} (h : Issues i port dest uses s d0)
    (ha : act (d0.thread i.tid.val) d0 (actsOn i s) = .done d2) (hslot : d2.cnt.slot = s.dev.cnt.slot)
    (ht : issue i true cost port dest uses act s = .next t) : Claims.Costs i cost s t := by
  intro hopen htimed c _
  obtain ⟨ho, hp, hu⟩ := h
  obtain ⟨hr, rfl⟩ := ready_of_opens ho hopen
  obtain ⟨keep, hk⟩ := issue_of_opens hopen
  rw [actsOn, joins_of_opens hopen] at ha
  rw [hk, issueFirst_ready hr hp (by simpa using hu) ha] at ht
  cases ht
  rw [Dev.slots_retired d2 htimed, hslot]

/-- An instruction whose whole effect is in its own thread, with its cost. -/
theorem issue_thread_costs {f : Thread → Thread} (h : Issues i port dest uses s d0)
    (ha : act (d0.thread i.tid.val) d0 (actsOn i s) = onThread i f (actsOn i s)) :
    ∃ t, issue i true cost port dest uses act s = .next t ∧ ChangesThread i f s t ∧ Claims.Costs i cost s t := by
  obtain ⟨t, ht, hch⟩ := issue_thread (cost := cost) h ha
  exact ⟨t, ht, hch, issue_costs h ha (actsOn_slot i s) ht⟩

/-- R129: an instruction that issues and whose act raises an exception does nothing else. -/
theorem issue_excepts {code operand : Nat} (h : Issues i port dest uses s d0)
    (ha : act (d0.thread i.tid.val) d0 (actsOn i s) = .exc code operand) :
    ∃ t, issue i true cost port dest uses act s = .next t ∧ Excepts i code operand d0 s t := by
  obtain ⟨t, ht, hq, hd⟩ := issue_exc (cost := cost) h ha
  exact ⟨t, ht, immediateExc_excepts hq hd⟩

end

/-! ## Predicates -/

/-- R90, R109: a predicate read after a write; p0 reads as 1, and a write to it is discarded. -/
theorem Thread.pred_setPred (x : Thread) (pd q : BitVec 3) (v : Bool) :
    (x.setPred pd v).pred q = if q = 0 then true else if q = pd then v else x.pred q := by
  by_cases hq : q = 0#3
  · simp [Thread.pred, hq]
  by_cases hpd : pd = 0#3
  · simp [Thread.setPred, hpd, hq]
  have hlt : q.toNat < 8 := q.isLt
  by_cases hqp : q = pd
  · subst hqp
    cases v <;> simp [Thread.setPred, Thread.pred, hq, hlt]
  · have hne : q.toNat ≠ pd.toNat := fun h => hqp (BitVec.eq_of_toNat_eq h)
    cases v
    · simp [Thread.setPred, Thread.pred, hq, hpd, hqp, hlt]
      intro _; omega
    · simp [Thread.setPred, Thread.pred, hq, hpd, hqp, hlt]
      intro _ _; omega

theorem actsOn_pred (i : Issue) (s : State) (q : BitVec 3) :
    ((actsOn i s).thread i.tid.val).pred q = (s.dev.thread i.tid.val).pred q := by
  unfold actsOn afterIssue; split
  · rfl
  · simp only [Dev.count_thread, Dev.thread_updThread_same]; rfl

/-- R109: the condition codes on numbers; code 7 is reserved. -/
theorem condHolds_iff {cond : BitVec 3} (h : cond ≠ 7#3) (a b : Word) : condHolds cond a b = true ↔ Claims.condTrue cond a b := by
  have hcodes : cond = 0 ∨ cond = 1 ∨ cond = 2 ∨ cond = 3 ∨ cond = 4 ∨ cond = 5 ∨ cond = 6 := by bv_omega
  unfold Claims.condTrue
  rcases hcodes with rfl | rfl | rfl | rfl | rfl | rfl | rfl
  · simp [condHolds]
  · simp [condHolds]
  · simp [condHolds, BitVec.slt_iff_toInt_lt]
  · simp [condHolds, BitVec.slt_eq_decide]
  · simp [condHolds, BitVec.ult_eq_decide]
  · simp [condHolds, BitVec.ult_eq_decide]
  · simp [condHolds]

/-- R102: PLOG's operations on truth values. -/
theorem plogOp_iff (op : BitVec 2) (a b : Bool) : plogOp op a b = true ↔ Claims.plogTrue op (a = true) (b = true) := by
  have hops : op = 0 ∨ op = 1 ∨ op = 2 ∨ op = 3 := by bv_omega
  unfold Claims.plogTrue
  rcases hops with rfl | rfl | rfl | rfl
  · simp [plogOp]
  · simp [plogOp]
  · cases a <;> cases b <;> simp [plogOp]
  · simp [plogOp]

/-! ## Compares and predicate logic (R109) -/

/-- The act of an instruction that writes a function of its thread, as that stood before the bundle, to a predicate. -/
def predAct (i : Issue) (pd : BitVec 3) (f : Thread → Bool) : Thread → Dev → Dev → Act :=
  fun t _ d => onThread i (fun x => x.setPred pd (f t)) d

section
variable {i : Issue} {pd : BitVec 3} {s : State} {d0 : Dev}

theorem exec_cmp {cond : BitVec 3} (hp : i.predOk = true) (hc : cond ≠ 7#3) (ra : BitVec 5) (rb : RbSrc) :
    exec (.cmp i cond pd ra rb) s = issue i true 1 false (destP pd) (ra :: rbRegs rb)
      (predAct i pd (fun t => condHolds cond (t.reg ra) (rbVal t rb))) s := by
  have hwf : (Instr.cmp i cond pd ra rb).wf = true := by simp [Instr.wf, hp, hc]
  change execCmp i cond pd ra rb s = _
  rw [execCmp, hwf]
  rfl

theorem exec_cmpi {cond : BitVec 3} (hp : i.predOk = true) (hc : cond ≠ 7#3) (ra : BitVec 5) (m : BitVec 11) :
    exec (.cmpi i cond pd ra m) s = issue i true 1 false (destP pd) [ra]
      (predAct i pd (fun t => condHolds cond (t.reg ra) (sext64 m))) s := by
  have hwf : (Instr.cmpi i cond pd ra m).wf = true := by simp [Instr.wf, hp, hc]
  change execCmpi i cond pd ra m s = _
  rw [execCmpi, hwf]
  rfl

theorem exec_plog (hp : i.predOk = true) (op : BitVec 2) (pa pb : BitVec 3) :
    exec (.plog i op pd pa pb) s = issue i true 1 false (destP pd) []
      (predAct i pd (fun t => plogOp op (t.pred pa) (t.pred pb))) s := by
  have hwf : (Instr.plog i op pd pa pb).wf = true := hp
  change execPlog i op pd pa pb s = _
  rw [execPlog, hwf]
  rfl

/-- An instruction that writes a predicate changes nothing else, for one slot. -/
theorem issue_predAct {port : Bool} {dest : Nat} {uses : List (BitVec 5)} (f : Thread → Bool) (h : Issues i port dest uses s d0) :
    ∃ t, issue i true 1 port dest uses (predAct i pd f) s = .next t ∧
      ChangesThread i (fun x => x.setPred pd (f (d0.thread i.tid.val))) s t ∧ Claims.Costs i 1 s t :=
  issue_thread_costs h rfl

/-- R101: an instruction that is predicated off leaves its thread's predicates. -/
theorem issue_off_pred {cost : Nat} {port : Bool} {dest : Nat} {uses : List (BitVec 5)} {act : Thread → Dev → Dev → Act}
    (ho : Offered i port dest s d0) (hp : predOn (d0.thread i.tid.val) i.pred = false) :
    ∃ t, issue i true cost port dest uses act s = .next t ∧
      ∀ q, (t.dev.thread i.tid.val).pred q = (s.dev.thread i.tid.val).pred q := by
  obtain ⟨t, ht, hthread⟩ := issue_off_thread (cost := cost) (uses := uses) (act := act) ho hp
  exact ⟨t, ht, fun q => by rw [hthread, actsOn_pred]⟩

end

/-- Settles O4: each of the three writes the truth of its condition to pd by the one shape they share; off, they leave the predicates. -/
theorem comparesSetTheirPredicate : Obligations.ComparesSetTheirPredicate := by
  unfold Obligations.ComparesSetTheirPredicate
  intro i pd s d0 hp
  refine ⟨?cmp, ?cmpi, ?plog, ?write, ?off⟩
  case cmp =>
    intro cond ra rb hc h
    obtain ⟨t, ht, hch, hcost⟩ := issue_predAct (pd := pd) (fun t => condHolds cond (t.reg ra) (rbVal t rb)) h
    exact ⟨t, _, (exec_cmp hp hc ra rb).trans ht, hch, hcost, condHolds_iff hc _ _⟩
  case cmpi =>
    intro cond ra m hc h
    obtain ⟨t, ht, hch, hcost⟩ := issue_predAct (pd := pd) (fun t => condHolds cond (t.reg ra) (sext64 m)) h
    exact ⟨t, _, (exec_cmpi hp hc ra m).trans ht, hch, hcost, condHolds_iff hc _ _⟩
  case plog =>
    intro op pa pb h
    obtain ⟨t, ht, hch, hcost⟩ := issue_predAct (pd := pd) (fun t => plogOp op (t.pred pa) (t.pred pb)) h
    exact ⟨t, _, (exec_plog hp op pa pb).trans ht, hch, hcost, plogOp_iff op _ _⟩
  case write => exact fun x v q => x.pred_setPred pd q v
  case off =>
    intro cond ra rb m hc ho hoff
    rw [exec_cmp hp hc, exec_cmpi hp hc]
    exact ⟨issue_off_pred ho hoff, issue_off_pred ho hoff⟩

/-! ## Branches (R110) -/

/-- A branch's target lies in the 23 bits of the pc. -/
theorem branchTarget_lt (pc : Nat) (off : BitVec 22) : branchTarget pc off < 2 ^ 23 := by
  unfold branchTarget; omega

theorem branchTarget_eq (pc : Nat) (off : BitVec 22) : (branchTarget pc off : Int) = (pc + 8 * off.toInt) % 2 ^ 23 := by
  unfold branchTarget; omega

/-- The order of a register's write and the pc's does not matter. -/
theorem Thread.setReg_pc (x : Thread) (r : BitVec 5) (v : Word) (n : Nat) :
    ({ x with pc := n } : Thread).setReg r v = { x.setReg r v with pc := n } := by
  unfold Thread.setReg; split <;> rfl

section
variable {i : Issue} {s : State} {d0 : Dev}

/-- R96: branches stand in slot A. -/
theorem slotAOnly_of_a (hp : i.predOk = true) (ha : i.slot = .a) : i.slotAOnly = true := by
  simp [Issue.slotAOnly, hp, ha]

theorem exec_br (hw : i.slotAOnly = true) (off : BitVec 22) (h : Issues i false 0 [] s d0) :
    ∃ t, exec (.br i off) s = .next t ∧
      ChangesThread i (fun x => { x with pc := branchTarget (d0.thread i.tid.val).pc off }) s t ∧ Claims.Costs i 1 s t := by
  have hwf : (Instr.br i off).wf = true := hw
  change ∃ t, execBr i off s = .next t ∧ _
  rw [execBr, hwf]
  exact issue_thread_costs h rfl

theorem exec_call (hw : i.slotAOnly = true) (off : BitVec 22) (h : Issues i false (destG 31) [31] s d0) :
    ∃ t, exec (.call i off) s = .next t ∧
      ChangesThread i (fun x => { x.setReg 31 (BitVec.ofNat 64 (((d0.thread i.tid.val).pc + 8) % 2 ^ 23)) with
        pc := branchTarget (d0.thread i.tid.val).pc off }) s t ∧ Claims.Costs i 1 s t := by
  have hwf : (Instr.call i off).wf = true := hw
  change ∃ t, execCall i off s = .next t ∧ _
  rw [execCall, hwf]
  exact issue_thread_costs h (by simp only [Thread.setReg_pc])

/-- JR to a bundle address. -/
theorem exec_jr_aligned (hw : i.slotAOnly = true) {ra : BitVec 5} (h : Issues i false 0 [ra] s d0)
    (hal : ((d0.thread i.tid.val).reg ra).toNat % 8 = 0) :
    ∃ t, exec (.jr i ra) s = .next t ∧
      ChangesThread i (fun x => { x with pc := ((d0.thread i.tid.val).reg ra).toNat % 2 ^ 23 }) s t ∧ Claims.Costs i 1 s t := by
  have hwf : (Instr.jr i ra).wf = true := hw
  change ∃ t, execJr i ra s = .next t ∧ _
  rw [execJr, hwf]
  exact issue_thread_costs h (if_neg (not_not.mpr hal))

/-- JR to an address that is no bundle's raises MISALIGNED. -/
theorem exec_jr_misaligned (hw : i.slotAOnly = true) {ra : BitVec 5} (h : Issues i false 0 [ra] s d0)
    (hal : ((d0.thread i.tid.val).reg ra).toNat % 8 ≠ 0) :
    ∃ t, exec (.jr i ra) s = .next t ∧ Excepts i 4 ((d0.thread i.tid.val).reg ra).toNat d0 s t := by
  have hwf : (Instr.jr i ra).wf = true := hw
  change ∃ t, execJr i ra s = .next t ∧ _
  rw [execJr, hwf]
  exact issue_excepts h (if_pos hal)

end

/-- Settles O5: BR and CALL by the target's arithmetic, JR by whether its register holds a bundle address. -/
theorem branchesSetThePc : Obligations.BranchesSetThePc := by
  unfold Obligations.BranchesSetThePc
  intro i s d0 hp ha _
  have hw : i.slotAOnly = true := slotAOnly_of_a hp ha
  refine ⟨?br, ?call, ?jr⟩
  case br =>
    intro off h
    obtain ⟨t, ht, hch, hcost⟩ := exec_br hw off h
    exact ⟨t, ht, _, branchTarget_lt _ off, branchTarget_eq _ off, hch, hcost⟩
  case call =>
    intro off h
    obtain ⟨t, ht, hch, hcost⟩ := exec_call hw off h
    exact ⟨t, ht, _, branchTarget_lt _ off, branchTarget_eq _ off, hch, hcost⟩
  case jr => exact fun ra h => ⟨exec_jr_aligned hw h, exec_jr_misaligned hw h⟩

end Sys2Proof.Machine
end

section
/-! PROOFS. What an operation leaves alone: `Keeps` composed, bits and fields of a register's copy beside those written, and the copies a reset leaves. -/
namespace Sys2Proof
open Sys2Proof.Machine

/-! ## Keeps -/

theorem Keeps.refl (rs : List Reg) (d : Dev) : Keeps rs d d := ⟨fun _ _ _ => rfl, rfl, rfl⟩

section
variable {rs rs' : List Reg} {a b c d d' : Dev}

theorem Keeps.trans (h : Keeps rs a b) (h' : Keeps rs b c) : Keeps rs a c := by
  obtain ⟨hr, hm, ht⟩ := h
  obtain ⟨hr', hm', ht'⟩ := h'
  exact ⟨fun r k hn => (hr' r k hn).trans (hr r k hn), hm'.trans hm, ht'.trans ht⟩

/-- What keeps every register but some keeps every register but more. -/
theorem Keeps.mono (hs : rs ⊆ rs') (h : Keeps rs a b) : Keeps rs' a b :=
  ⟨fun r k hn => h.1 r k fun hr => hn (hs hr), h.2⟩

theorem Keeps.reg (h : Keeps rs a b) {r : Reg} (hr : r ∉ rs) (k : Nat) : b.reg r k = a.reg r k := h.1 r k hr

theorem Keeps.rf (h : Keeps rs a b) {r : Reg} (hr : r ∉ rs) (k lo w : Nat) : b.rf r k lo w = a.rf r k lo w := by
  rw [Dev.rf, h.reg hr, ← Dev.rf]

theorem Keeps.rb (h : Keeps rs a b) {r : Reg} (hr : r ∉ rs) (k i : Nat) : b.rb r k i = a.rb r k i := by
  rw [Dev.rb, h.reg hr, ← Dev.rb]

theorem keeps_of_eq (hr : d'.regs = d.regs) (hm : d'.mem = d.mem) (ht : d'.thr = d.thr) : Keeps rs d d' :=
  ⟨fun r k _ => by rw [Dev.reg, hr, ← Dev.reg], hm, ht⟩

theorem keeps_setReg (d : Dev) {r : Reg} (h : r ∈ rs) (i : Nat) (v : Word) : Keeps rs d (d.setReg r i v) :=
  ⟨fun _ _ hn => d.reg_setReg_ne v (.inl fun e => hn (e ▸ h)), rfl, rfl⟩

theorem keeps_setRf (d : Dev) {r : Reg} (h : r ∈ rs) (i lo w x : Nat) : Keeps rs d (d.setRf r i lo w x) := keeps_setReg d h i _

theorem keeps_setRb (d : Dev) {r : Reg} (h : r ∈ rs) (i lo : Nat) (b : Bool) : Keeps rs d (d.setRb r i lo b) := keeps_setReg d h i _

/-- A register's reset is the write of its reset value. -/
theorem Machine.Dev.resetReg_eq_setReg (d : Dev) (r : Reg) (i : Nat) : d.resetReg r i = d.setReg r i (r.resetAt i) := by
  simp [Dev.resetReg, Dev.setReg, tabPut]

theorem keeps_resetReg (d : Dev) {r : Reg} (h : r ∈ rs) (i : Nat) : Keeps rs d (d.resetReg r i) := by
  rw [Dev.resetReg_eq_setReg]
  exact keeps_setReg d h i _

end

/-! ## Folds and events -/

/-- What every step of a fold has to do with the value before it, the whole fold has. -/
theorem foldl_related {α β : Type} {R : β → β → Prop} (hr : ∀ b, R b b) (ht : ∀ {a b c}, R a b → R b c → R a c)
    {f : β → α → β} (h : ∀ b a, R b (f b a)) (l : List α) (b : β) : R b (l.foldl f b) := by
  induction l generalizing b with
  | nil => exact hr b
  | cons a l ih => exact ht (h b a) (ih (f b a))

/-- An event of the always-on parts answers with what its function makes of the device. -/
theorem answers_eventAny {c : Instr} {s : State} {f : Dev → Dev} {p : Dev → Prop} (hc : exec c s = eventAny f s) (hp : p (f s.dev)) :
    Answers c s p := ⟨_, hc, rfl, hp⟩

/-- An event of the running device answers with what its function makes of it. -/
theorem answers_event {c : Instr} {s : State} {f : Dev → Dev} {p : Dev → Prop} (hc : exec c s = event f s) (hl : s.dev.live = true)
    (hp : p (f s.dev)) : Answers c s p := ⟨_, hc.trans (event_live f hl), rfl, hp⟩

end Sys2Proof

namespace Sys2Proof.Machine
open Sys2Proof

/-! ## Bits and fields of a word -/

theorem wbit_eq_wf (v : Word) (i : Nat) : wbit v i = decide (wf v i 1 = 1) := by
  rw [wf, fld_eq_div, wbit, BitVec.getLsbD, Nat.testBit_eq_decide_div_mod_eq, pow_one]

theorem wbit_wset_ne (v : Word) (lo w x i : Nat) (h : lo + w ≤ 64) (hd : i < lo ∨ lo + w ≤ i) : wbit (wset v lo w x) i = wbit v i := by
  rw [wbit_eq_wf, wbit_eq_wf, wf_wset_ne _ _ _ _ _ _ h hd]

theorem wf_eq_extract (v : Word) (lo w : Nat) : wf v lo w = (v.extractLsb' lo w).toNat := by
  rw [wf, fld, BitVec.extractLsb'_toNat]

theorem wf_wsetBit_ne (v : Word) (i lo w : Nat) (b : Bool) (hd : i < lo ∨ lo + w ≤ i) : wf (wsetBit v i b) lo w = wf v lo w := by
  have hbits : (wsetBit v i b).extractLsb' lo w = v.extractLsb' lo w := by
    apply BitVec.eq_of_getLsbD_eq
    intro j hj
    have hne : wbit (wsetBit v i b) (lo + j) = wbit v (lo + j) := wbit_wsetBit_ne v i (lo + j) b (by omega)
    rw [BitVec.getLsbD_extractLsb', BitVec.getLsbD_extractLsb']
    exact congrArg _ hne
  rw [wf_eq_extract, hbits, ← wf_eq_extract]

theorem Dev.rb_setRf_ne (d : Dev) (r : Reg) (k lo w x i : Nat) (h : lo + w ≤ 64) (hd : i < lo ∨ lo + w ≤ i) :
    (d.setRf r k lo w x).rb r k i = d.rb r k i := by
  rw [Dev.rb, Dev.setRf, Dev.reg_setReg_same, wbit_wset_ne _ _ _ _ _ h hd, ← Dev.rb]

theorem Dev.rf_setRf_ne (d : Dev) (r : Reg) (k lo w x lo' w' : Nat) (h : lo + w ≤ 64) (hd : lo' + w' ≤ lo ∨ lo + w ≤ lo') :
    (d.setRf r k lo w x).rf r k lo' w' = d.rf r k lo' w' := by
  rw [Dev.rf, Dev.setRf, Dev.reg_setReg_same, wf_wset_ne _ _ _ _ _ _ h hd, ← Dev.rf]

theorem Dev.rf_setRb_ne (d : Dev) (r : Reg) (k i lo w : Nat) (b : Bool) (hd : i < lo ∨ lo + w ≤ i) :
    (d.setRb r k i b).rf r k lo w = d.rf r k lo w := by
  rw [Dev.rf, Dev.setRb, Dev.reg_setReg_same, wf_wsetBit_ne _ _ _ _ _ hd, ← Dev.rf]

/-! ## Registers that a reset leaves -/

theorem tabFind_filter_key {α : Type} (q : Nat → Bool) (k : Nat) (t : Tab α) :
    tabFind k (t.filter (fun e => q e.1)) = if q k then tabFind k t else none := by
  induction t with
  | nil => simp
  | cons e t ih =>
    obtain ⟨j, a⟩ := e
    by_cases hj : k = j
    · subst hj
      cases hq : q k
      · simpa [List.filter_cons, hq] using ih
      · simp [hq, tabFind]
    · cases hq : q j
      · simpa [List.filter_cons, hq, tabFind, hj] using ih
      · simpa [List.filter_cons, hq, tabFind, hj] using ih

/-- Of a table of registers in which some codes have been kept, a register with such a code holds what it held, and every other its reset value. -/
theorem Dev.reg_of_filter {d e : Dev} {q : Nat → Bool} (h : e.regs = d.regs.filter (fun x => q (x.1 % 512))) (r : Reg) (k : Nat) :
    e.reg r k = if q r.code then d.reg r k else r.resetAt k := by
  have hc : regKey r k % 512 = r.code := by
    have := r.code_lt
    unfold regKey; omega
  rw [Dev.reg, tabGet, h, tabFind_filter_key (fun n => q (n % 512)), hc]
  cases q r.code <;> rfl

end Sys2Proof.Machine
end

section
/-! PROOFS. Lifetime records and firmware's reports: which registers and parts of the device the record-keeping operations move (R442 to R448 of 12_counters_snapshots_lifetime.md, R468 to R470 of 13_startup_and_configuration.md). -/
namespace Sys2Proof.Machine
open Sys2Proof

/-! ## Record keeping -/

/-- Beside the listed registers only the lifetime counters, the serial memory, the event counters and firmware's latest report with its place in the log have moved. -/
def RecordsIn (rs : List Reg) (d d' : Dev) : Prop :=
  Keeps rs d d' ∧ ∃ regs life board cnt report pos,
    d' = { d with regs := regs, life := life, board := board, cnt := cnt, fw := { d.fw with report := report, reportPos := pos } }

section
variable {rs rs' : List Reg} {a b c d d' : Dev}

theorem RecordsIn.keeps (h : RecordsIn rs d d') : Keeps rs d d' := h.1

theorem RecordsIn.refl (rs : List Reg) (d : Dev) : RecordsIn rs d d := ⟨.refl rs d, _, _, _, _, _, _, rfl⟩

theorem RecordsIn.trans (h : RecordsIn rs a b) (h' : RecordsIn rs b c) : RecordsIn rs a c := by
  refine ⟨h.keeps.trans h'.keeps, ?_⟩
  obtain ⟨-, regs, life, board, cnt, report, pos, rfl⟩ := h
  obtain ⟨-, regs', life', board', cnt', report', pos', rfl⟩ := h'
  exact ⟨_, _, _, _, _, _, rfl⟩

theorem RecordsIn.mono (hs : rs ⊆ rs') (h : RecordsIn rs a b) : RecordsIn rs' a b := ⟨h.keeps.mono hs, h.2⟩

theorem RecordsIn.boot (h : RecordsIn rs d d') : d'.boot = d.boot := by obtain ⟨-, _, _, _, _, _, _, rfl⟩ := h; rfl
theorem RecordsIn.time (h : RecordsIn rs d d') : d'.time = d.time := by obtain ⟨-, _, _, _, _, _, _, rfl⟩ := h; rfl
theorem RecordsIn.keys (h : RecordsIn rs d d') : d'.keys = d.keys := by obtain ⟨-, _, _, _, _, _, _, rfl⟩ := h; rfl
theorem RecordsIn.flt (h : RecordsIn rs d d') : d'.flt = d.flt := by obtain ⟨-, _, _, _, _, _, _, rfl⟩ := h; rfl
theorem RecordsIn.serving (h : RecordsIn rs d d') : d'.fw.serving = d.fw.serving := by obtain ⟨-, _, _, _, _, _, _, rfl⟩ := h; rfl
theorem RecordsIn.imgObjs (h : RecordsIn rs d d') : d'.fw.imgObjs = d.fw.imgObjs := by obtain ⟨-, _, _, _, _, _, _, rfl⟩ := h; rfl

theorem recordsIn_setReg (d : Dev) {r : Reg} (h : r ∈ rs) (i : Nat) (v : Word) : RecordsIn rs d (d.setReg r i v) :=
  ⟨keeps_setReg d h i v, _, _, _, _, _, _, rfl⟩

theorem recordsIn_setRf (d : Dev) {r : Reg} (h : r ∈ rs) (i lo w x : Nat) : RecordsIn rs d (d.setRf r i lo w x) := recordsIn_setReg d h i _

theorem recordsIn_setRb (d : Dev) {r : Reg} (h : r ∈ rs) (i lo : Nat) (b : Bool) : RecordsIn rs d (d.setRb r i lo b) := recordsIn_setReg d h i _

theorem recordsIn_incRf (d : Dev) {r : Reg} (h : r ∈ rs) (i lo w n : Nat) : RecordsIn rs d (d.incRf r i lo w n) := recordsIn_setReg d h i _

theorem recordsIn_resetReg (d : Dev) {r : Reg} (h : r ∈ rs) (i : Nat) : RecordsIn rs d (d.resetReg r i) :=
  ⟨keeps_resetReg d h i, _, _, _, _, _, _, rfl⟩

theorem recordsIn_life (d : Dev) (l : Life) : RecordsIn rs d { d with life := l } := ⟨keeps_of_eq rfl rfl rfl, _, _, _, _, _, _, rfl⟩

theorem recordsIn_lifeBoard (d : Dev) (l : Life) (b : Board) : RecordsIn rs d { d with life := l, board := b } :=
  ⟨keeps_of_eq rfl rfl rfl, _, _, _, _, _, _, rfl⟩

theorem recordsIn_flashProgram (d : Dev) (a : Nat) (bs : List Byte) : RecordsIn rs d (d.flashProgram a bs) :=
  ⟨keeps_of_eq rfl rfl rfl, _, _, _, _, _, _, rfl⟩

theorem recordsIn_eraseDue (d : Dev) (a : Nat) : RecordsIn rs d (d.eraseDue a) := recordsIn_life d _

end

/-! ## The lifetime log (R445 to R448) -/

theorem recordsIn_lifeReady (d : Dev) : RecordsIn [.lifeStat] d d.lifeReady := recordsIn_setRb d (by decide) _ _ _

/-- R446: a log write moves LIFE_POS and LIFE_STAT. -/
theorem recordsIn_logWrite (d : Dev) (r : List Byte) : RecordsIn [.lifeStat, .lifePos] d (d.logWrite r) := by
  unfold Dev.logWrite
  dsimp only
  split
  · refine .trans ?_ ((recordsIn_lifeReady _).mono (by decide))
    have hpos : RecordsIn [.lifeStat, .lifePos] d _ := (recordsIn_life d { d.life with skipped := false }).trans
      ((recordsIn_flashProgram _ (logAddr (d.rf .lifePos 0 0 13)) r).trans
        (recordsIn_setReg _ (r := .lifePos) (by decide) 0 (BitVec.ofNat 64 ((d.rf .lifePos 0 0 13 + 1) % 8192))))
    split
    · exact hpos.trans (recordsIn_eraseDue _ _)
    · exact hpos
  · exact (recordsIn_incRf d (by decide) 0 16 16 1).trans (recordsIn_life _ _)

/-- A log write leaves the count of dips and the tick of the last checkpoint. -/
theorem Dev.logWrite_life (d : Dev) (r : List Byte) :
    (d.logWrite r).life.dips = d.life.dips ∧ (d.logWrite r).life.ckptAt = d.life.ckptAt := by
  unfold Dev.logWrite
  dsimp only
  split
  · split <;> exact ⟨rfl, rfl⟩
  · exact ⟨rfl, rfl⟩

/-- A record of this tick that takes a higher kind touches no register. -/
theorem recordsIn_raiseKind (d : Dev) (kind : Nat) : RecordsIn [] d (d.raiseKind kind) := by
  unfold Dev.raiseKind
  dsimp only
  split
  · split
    · exact recordsIn_lifeBoard d _ _
    · exact recordsIn_life d _
  · exact .refl _ d

theorem Dev.raiseKind_dips (d : Dev) (kind : Nat) : (d.raiseKind kind).life.dips = d.life.dips := by
  unfold Dev.raiseKind
  dsimp only
  split
  · split <;> rfl
  · rfl

/-- The registers that a checkpoint moves. -/
def ckptRegs : List Reg := [.lifeSeq, .lifeLast, .lifeStat, .lifePos]

/-- A checkpoint of this tick has taken the next number, and nothing of it is in the log yet. -/
def Numbered (d e : Dev) : Prop :=
  RecordsIn [.lifeSeq, .lifeLast] d e ∧ e.life.dips = d.life.dips ∧ e.life.ckptAt = some d.time.tick ∧ e.reg .lifeSeq 0 = d.reg .lifeSeq 0 + 1

/-- LIFE_SEQ and LIFE_LAST move, whatever else becomes of the lifetime counters. -/
theorem numbered_setReg (d : Dev) (w : Word) (l0 : Life) {l : Life} (hd : l.dips = d.life.dips) (hc : l.ckptAt = some d.time.tick) :
    Numbered d { ({ d with life := l0 }.setReg .lifeSeq 0 (d.reg .lifeSeq 0 + 1)).setReg .lifeLast 0 w with life := l } := by
  refine ⟨?_, hd, hc, ?_⟩
  · exact (recordsIn_setReg d (by decide) _ _).trans ((recordsIn_setReg _ (by decide) _ w).trans (recordsIn_life _ l))
  · exact (Dev.reg_setReg_ne _ w (.inl (by decide))).trans (Dev.reg_setReg_same _ _ _ _)

/-- R445: the first checkpoint of a tick is numbered, and its record written to the log. -/
theorem Dev.checkpoint_first (d : Dev) (kind : Nat) (h : d.life.ckptAt ≠ some d.time.tick) :
    ∃ e r, d.checkpoint kind = e.logWrite r ∧ Numbered d e := by
  have hagain : (d.life.ckptAt == some d.time.tick) = false := by simpa using h
  have hseq : BitVec.ofNat 64 ((d.reg .lifeSeq 0).toNat + 1) = d.reg .lifeSeq 0 + 1 := by
    rw [BitVec.ofNat_add, BitVec.ofNat_toNat, BitVec.setWidth_eq]
    rfl
  unfold Dev.checkpoint
  dsimp only
  rw [hagain, if_neg Bool.false_ne_true, hseq]
  generalize Dev.lifeRecord _ kind _ = r
  exact ⟨_, r, rfl, iteInduction (fun _ => numbered_setReg d _ _ rfl rfl) (fun _ => numbered_setReg d _ _ rfl rfl)⟩

theorem recordsIn_checkpoint (d : Dev) (kind : Nat) : RecordsIn ckptRegs d (d.checkpoint kind) := by
  by_cases h : d.life.ckptAt = some d.time.tick
  · have hc : d.checkpoint kind = d.raiseKind kind := by simp [Dev.checkpoint, h]
    rw [hc]
    exact (recordsIn_raiseKind d kind).mono (by decide)
  · obtain ⟨e, r, hc, ⟨he, -⟩⟩ := d.checkpoint_first kind h
    rw [hc]
    exact (he.mono (by decide)).trans ((recordsIn_logWrite e r).mono (by decide))

theorem Dev.checkpoint_dips (d : Dev) (kind : Nat) : (d.checkpoint kind).life.dips = d.life.dips := by
  by_cases h : d.life.ckptAt = some d.time.tick
  · have hc : d.checkpoint kind = d.raiseKind kind := by simp [Dev.checkpoint, h]
    rw [hc, Dev.raiseKind_dips]
  · obtain ⟨e, r, hc, ⟨-, hd, -⟩⟩ := d.checkpoint_first kind h
    rw [hc, (e.logWrite_life r).1, hd]

theorem recordsIn_lifeRegs (d : Dev) : RecordsIn ckptRegs d d.lifeRegs := by
  unfold Dev.lifeRegs
  dsimp only
  generalize BitVec.ofNat 64 (if d.smemOk then d.logNext else 0) = pos
  refine .trans ?_ ((recordsIn_lifeReady _).mono (by decide))
  refine (recordsIn_setReg d (r := .lifePos) (by decide) 0 pos).trans ?_
  split
  · exact .trans (recordsIn_setReg _ (r := .lifeSeq) (by decide) _ _) (recordsIn_setReg _ (r := .lifeLast) (by decide) _ _)
  · exact .trans (recordsIn_resetReg _ (r := .lifeSeq) (by decide) _) (recordsIn_resetReg _ (r := .lifeLast) (by decide) _)

theorem Dev.lifeRegs_rest (d : Dev) : ∃ regs, d.lifeRegs = { d with regs := regs } := by
  unfold Dev.lifeRegs
  dsimp only
  split <;> exact ⟨_, rfl⟩

/-! ## What firmware does with the records when it begins to serve (R446, R447, R470) -/

theorem recordsIn_auxRestore (d : Dev) : RecordsIn ckptRegs d d.auxRestore := by
  unfold Dev.auxRestore
  split
  · exact .refl _ d
  · refine .trans ?_ (recordsIn_lifeRegs _)
    refine .trans ?_ (recordsIn_life _ _)
    refine (recordsIn_life d { d.life with lost := false }).trans ?_
    unfold Dev.lifeRestore
    split
    · exact (recordsIn_life _ _).trans (recordsIn_setRb _ (r := .lifeStat) (by decide) _ _ _)
    · exact .refl _ _

theorem recordsIn_eraseSlot (d : Dev) (k : Nat) : RecordsIn [] d (d.eraseSlot k) := by
  unfold Dev.eraseSlot
  refine foldl_related (RecordsIn.refl _) RecordsIn.trans (fun d a => ?_) _ d
  split
  · exact .refl _ d
  · exact recordsIn_eraseDue d a

theorem recordsIn_eraseAhead (d : Dev) : RecordsIn [.lifeStat] d d.eraseAhead := by
  unfold Dev.eraseAhead
  split
  · exact .refl _ d
  · refine .trans ?_ (recordsIn_lifeReady _)
    refine .trans ?_ ((recordsIn_eraseSlot _ _).mono (by decide))
    split
    · exact .refl _ d
    · exact recordsIn_eraseDue d _

/-! ## The boot report (R468, R470) -/

theorem recordsIn_logReport (d : Dev) : RecordsIn [.cfgRptStat] d d.logReport := by
  unfold Dev.logReport
  dsimp only
  split
  · refine .trans ?_ ((recordsIn_eraseSlot _ _).mono (by decide))
    refine (recordsIn_flashProgram d (slotAddr d.fw.reportPos) d.fw.report).trans ?_
    exact ⟨keeps_of_eq rfl rfl rfl, _, _, _, _, _, _, rfl⟩
  · exact recordsIn_incRf d (by decide) _ _ _ _

theorem recordsIn_reportStat (d : Dev) (noImage : Bool) : RecordsIn [.cfgRptStat] d (d.reportStat noImage) := recordsIn_setRf d (by decide) _ _ _ _

/-- Record keeping under other report entries, which are then put back. -/
theorem RecordsIn.reportEntries {rs : List Reg} {d d' : Dev} {es : List (List Byte)} {n seq : Nat}
    (h : RecordsIn rs { d with fw := { d.fw with ents := es, entTotal := n, reportSeq := seq } } d') :
    RecordsIn rs d { d' with fw := { d'.fw with ents := d.fw.ents, entTotal := d.fw.entTotal, reportSeq := d.fw.reportSeq } } := by
  refine ⟨(keeps_of_eq rfl rfl rfl).trans (h.keeps.trans (keeps_of_eq rfl rfl rfl)), ?_⟩
  obtain ⟨-, _, _, _, _, _, _, rfl⟩ := h
  exact ⟨_, _, _, _, _, _, rfl⟩

/-- The boot report leaves the entries of firmware's own report as they are. -/
theorem recordsIn_bootReport (d : Dev) (log : Bool) : RecordsIn [.cfgRptStat] d (d.bootReport log) := by
  unfold Dev.bootReport
  dsimp only
  refine RecordsIn.reportEntries (es := d.boot.ents) (n := d.boot.entTotal) (seq := d.boot.rptSeq) ?_
  have hmade (e : Dev) (report : List Byte) :
      RecordsIn [.cfgRptStat] e ({ e with fw := { e.fw with report := report } }.reportStat (d.boot.image = 0)) :=
    .trans ⟨keeps_of_eq rfl rfl rfl, _, _, _, _, _, _, rfl⟩ (recordsIn_reportStat _ _)
  split
  · exact (hmade _ _).trans (recordsIn_logReport _)
  · exact hmade _ _

end Sys2Proof.Machine
end

section
/-! PROOFS. The supply warning, the always-on domain, the trial count and zeroed DDR (R447, R449, R453, R462, R474 to R477 of 13_startup_and_configuration.md, R482, R483 of 14_electrical_and_package.md). -/
namespace Sys2Proof.Machine
open Sys2Proof

/-! ## Supply warning (R474 to R477, R482) -/

theorem raisesSome_raiseFree (d : Dev) (source isl : Nat) (part : Option Nat) : RaisesSome source isl part d (d.raiseFree source isl part) :=
  ⟨_, rfl⟩

/-- A running device reports a fault of the whole device. -/
def Dev.reportsIfPowered (d : Dev) (source : Nat) : Dev := if d.powered then d.raiseFree source 0 none else d

theorem Dev.reportsIfPowered_rest (d : Dev) (source : Nat) : ∃ flt free, d.reportsIfPowered source = { d with flt := flt, free := free } := by
  unfold Dev.reportsIfPowered
  split <;> exact ⟨_, _, rfl⟩

theorem raisesSome_reportsIfPowered (d : Dev) (source : Nat) (h : d.powered = true) : RaisesSome source 0 none d (d.reportsIfPowered source) := by
  rw [Dev.reportsIfPowered, if_pos h]
  exact raisesSome_raiseFree d source 0 none

/-- The device in supply warning: its entry is reported and noted, and CFG_SUPPLY shows it. -/
def Dev.enterWarning (d : Dev) : Dev :=
  let e := d.reportsIfPowered 128
  { e with boot := { e.boot with warnAt := some e.time.tick } }.setReg .cfgSupply 0 1

/-- A dip is counted. -/
def Dev.countDip (d : Dev) : Dev := { d with life := { d.life with dips := Nat.min (2 ^ 32 - 1) (d.life.dips + 1) } }

/-- What the entry of a supply warning does to the device. -/
theorem Dev.enterWarning_spec (d : Dev) :
    d.enterWarning.boot = { d.boot with warnAt := some d.time.tick } ∧ d.enterWarning.time = d.time ∧ d.enterWarning.life = d.life ∧
      d.enterWarning.rf .cfgSupply 0 0 2 = 1 ∧ Keeps [.cfgSupply] d d.enterWarning ∧
      (d.powered = true → RaisesSome 128 0 none d d.enterWarning) := by
  have hraise := raisesSome_reportsIfPowered d 128
  obtain ⟨flt, free, he⟩ := d.reportsIfPowered_rest 128
  rw [he] at hraise
  unfold Dev.enterWarning
  rw [he]
  refine ⟨rfl, rfl, rfl, ?_, ?_, hraise⟩
  · rw [Dev.rf, Dev.reg_setReg_same]
    rfl
  · exact .trans (keeps_of_eq rfl rfl rfl) (keeps_setReg _ (by decide) _ _)

/-- The device in a sag: reported, shown and counted. -/
def Dev.enterSag (d : Dev) : Dev :=
  let e := d.reportsIfPowered 129
  { e.setRb .cfgSupply 0 2 true with life := { e.life with sags := Nat.min (2 ^ 32 - 1) (e.life.sags + 1) } }

/-- What a sag does to the device. -/
theorem Dev.enterSag_spec (d : Dev) :
    d.enterSag.rb .cfgSupply 0 2 = true ∧ d.enterSag.life.sags = min (2 ^ 32 - 1) (d.life.sags + 1) ∧
      (d.powered = true → RaisesSome 129 0 none d d.enterSag) ∧ Keeps [.cfgSupply] d d.enterSag := by
  have hraise := raisesSome_reportsIfPowered d 129
  obtain ⟨flt, free, he⟩ := d.reportsIfPowered_rest 129
  rw [he] at hraise
  unfold Dev.enterSag
  rw [he]
  refine ⟨?_, rfl, hraise, ?_⟩
  · exact Dev.rb_setRb_same { d with flt := flt, free := free } .cfgSupply 0 2 true (by decide)
  · exact (keeps_of_eq rfl rfl rfl).trans ((keeps_setRb { d with flt := flt, free := free } (by decide) 0 2 true).trans (keeps_of_eq rfl rfl rfl))

/-- The device after a warning entered at tick `t`: CFG_SUPPLY gives its length in microseconds, and a waiting erase begins. -/
def Dev.leaveWarning (d : Dev) (t : Nat) : Dev :=
  let e := ({ d with boot := { d.boot with warnAt := none } }.setRf .cfgSupply 0 0 2 0).setRf .cfgSupply 0 8 24
    (Nat.min (2 ^ 24 - 1) ((d.time.tick - t) / 250))
  { e with life := { e.life with eraseOn := e.life.eraseOn || !e.life.erases_.isEmpty } }

/-- What the end of a warning does to the device. -/
theorem Dev.leaveWarning_spec (d : Dev) (t : Nat) :
    (d.leaveWarning t).boot.warnAt = none ∧ (d.leaveWarning t).rf .cfgSupply 0 0 2 = 0 ∧
      (d.leaveWarning t).rf .cfgSupply 0 8 24 = min (2 ^ 24 - 1) ((d.time.tick - t) / 250) ∧
      (d.leaveWarning t).life.eraseOn = (d.life.eraseOn || decide (d.life.erases_ ≠ [])) ∧ Keeps [.cfgSupply] d (d.leaveWarning t) := by
  have hlen : min (2 ^ 24 - 1) ((d.time.tick - t) / 250) < 2 ^ 24 := by omega
  refine ⟨rfl, ?_, ?_, ?_, ?_⟩
  · exact (Dev.rf_setRf_ne _ _ _ _ _ _ _ _ (by decide) (by decide)).trans (Dev.rf_setRf_same _ _ _ _ _ _ (by decide))
  · exact (Dev.rf_setRf_same _ _ _ _ _ _ (by decide)).trans (Nat.mod_eq_of_lt hlen)
  · change (d.life.eraseOn || !d.life.erases_.isEmpty) = _
    cases d.life.erases_ <;> simp
  · exact (keeps_of_eq rfl rfl rfl).trans ((keeps_setRf _ (by decide) _ _ _ _).trans ((keeps_setRf _ (by decide) _ _ _ _).trans (keeps_of_eq rfl rfl rfl)))

theorem exec_supplyWarn (s : State) : exec .supplyWarn s = execSupplyWarn s := rfl

section
variable {s : State} {p : Dev → Prop}

/-- R474, R482: SUPPLY_WARN while VIN is up and no warning holds; in the tick of the power-on reset it is neither a dip nor a checkpoint. -/
theorem answers_supplyWarn (hv : s.dev.life.vin = true) (hw : s.dev.boot.warnAt = none)
    (hp : p (if s.dev.enterWarning.boot.poAt = some s.dev.enterWarning.time.tick then s.dev.enterWarning
      else s.dev.enterWarning.countDip.checkpoint 2)) :
    Answers .supplyWarn s p := by
  refine answers_eventAny (exec_supplyWarn s) ?_
  rw [if_neg (by simp [hv, hw])]
  exact hp

/-- The registers that a supply warning with its checkpoint moves. -/
def warnRegs : List Reg := [.cfgSupply, .lifeSeq, .lifeLast, .lifeStat, .lifePos]

/-- R482: a supply warning in the tick of the power-on reset is reported and shown, and no more. -/
theorem supplyWarn_at_release (hv : s.dev.life.vin = true) (hw : s.dev.boot.warnAt = none) (ht : s.dev.boot.poAt = some s.dev.time.tick) :
    Answers .supplyWarn s (fun d => d.boot.warnAt = some s.dev.time.tick ∧ d.rf .cfgSupply 0 0 2 = 1 ∧ d.life = s.dev.life ∧
      (s.dev.powered = true → RaisesSome 128 0 none s.dev d) ∧ Keeps [.cfgSupply] s.dev d) := by
  obtain ⟨hboot, htime, hlife, hrf, hk, hraise⟩ := s.dev.enterWarning_spec
  refine answers_supplyWarn hv hw ?_
  rw [if_pos (by rw [hboot, htime]; exact ht)]
  exact ⟨by rw [hboot], hrf, hlife, hraise, hk⟩

/-- R474: a fall of VIN in a running device is reported, shown, counted as a dip, and checkpointed. -/
theorem supplyWarn_later (hv : s.dev.life.vin = true) (hw : s.dev.boot.warnAt = none) (ht : s.dev.boot.poAt ≠ some s.dev.time.tick) :
    Answers .supplyWarn s (fun d => d.boot.warnAt = some s.dev.time.tick ∧ d.rf .cfgSupply 0 0 2 = 1 ∧
      d.life.dips = min (2 ^ 32 - 1) (s.dev.life.dips + 1) ∧ (s.dev.powered = true → RaisesSome 128 0 none s.dev d) ∧
      (s.dev.life.ckptAt ≠ some s.dev.time.tick → d.life.ckptAt = some s.dev.time.tick ∧ d.reg .lifeSeq 0 = s.dev.reg .lifeSeq 0 + 1) ∧
      Keeps warnRegs s.dev d) := by
  obtain ⟨hboot, htime, hlife, hrf, hk, hraise⟩ := s.dev.enterWarning_spec
  refine answers_supplyWarn hv hw ?_
  rw [if_neg (by rw [hboot, htime]; exact ht)]
  have hdip : RecordsIn ckptRegs s.dev.enterWarning s.dev.enterWarning.countDip := recordsIn_life _ _
  have hall := hdip.trans (recordsIn_checkpoint _ 2)
  refine ⟨?_, ?_, ?_, fun hp => ?_, fun hc => ?_, ?_⟩
  · rw [hall.boot, hboot]
  · rw [hall.keeps.rf (by decide), hrf]
  · rw [Dev.checkpoint_dips, ← hlife]
    rfl
  · obtain ⟨v, hv⟩ := hraise hp
    exact ⟨v, (congrArg Flt.queue hall.flt).trans hv⟩
  · obtain ⟨e, r, he, ⟨hn, -, hat, hseq⟩⟩ := s.dev.enterWarning.countDip.checkpoint_first 2 (by rw [← hlife, ← htime] at hc; exact hc)
    rw [he]
    refine ⟨?_, ?_⟩
    · rw [(e.logWrite_life r).2, hat, ← htime]
      rfl
    · rw [(recordsIn_logWrite e r).keeps.reg (by decide), hseq, ← hk.reg (r := .lifeSeq) (by decide)]
      rfl
  · exact (hk.mono (by decide)).trans (hall.keeps.mono (by decide))

theorem exec_supplySag (s : State) : exec .supplySag s = execSupplySag s := rfl
theorem exec_supplyWarnEnd (s : State) : exec .supplyWarnEnd s = execSupplyWarnEnd s := rfl

/-- R476: a warning that has lasted 50 ms is a sag, once. -/
theorem supplySag_due {t : Nat} (hw : s.dev.boot.warnAt = some t) (ht : t + 12500000 ≤ s.dev.time.tick) (hs : s.dev.rb .cfgSupply 0 2 = false)
    (hp : p s.dev.enterSag) : Answers .supplySag s p := by
  refine answers_eventAny (exec_supplySag s) ?_
  rw [hw]
  dsimp only
  rw [if_neg (by simp [hs, Nat.not_lt.mpr ht])]
  exact hp

/-- R476: before 50 ms, or once the sag is shown, nothing happens. -/
theorem supplySag_early {t : Nat} (hw : s.dev.boot.warnAt = some t) (h : s.dev.time.tick < t + 12500000 ∨ s.dev.rb .cfgSupply 0 2 = true) :
    Answers .supplySag s (fun d => d = s.dev) := by
  refine answers_eventAny (exec_supplySag s) ?_
  simp [hw, h]

/-- R477: a warning ends. -/
theorem supplyWarnEnd_of_warning {t : Nat} (hw : s.dev.boot.warnAt = some t) (hp : p (s.dev.leaveWarning t)) : Answers .supplyWarnEnd s p := by
  refine answers_eventAny (exec_supplyWarnEnd s) ?_
  rw [hw]
  exact hp

/-- R476, R477: with no warning its sag and its end do nothing. -/
theorem supply_no_warning (hw : s.dev.boot.warnAt = none) :
    Answers .supplySag s (fun d => d = s.dev) ∧ Answers .supplyWarnEnd s (fun d => d = s.dev) :=
  ⟨answers_eventAny (exec_supplySag s) (by simp [hw]), answers_eventAny (exec_supplyWarnEnd s) (by simp [hw])⟩

end

/-! ## The always-on domain (R447, R449, R483) -/

/-- R444: a reset of a kind is counted, up to the counter's largest value. -/
theorem Dev.tabGet_lifeReset (d : Dev) (k : Nat) :
    tabGet (d.lifeReset k).life.resets 0 k = min (2 ^ 32 - 1) (tabGet d.life.resets 0 k + 1) := tabGet_put_same _ _ _ _

theorem exec_auxReset (s : State) : exec .auxReset s = execAuxReset s := rfl
theorem exec_vauxLost (s : State) : exec .vauxLost s = execVauxLost s := rfl

/-- The device with VAUX up: its reset is counted, and IO_STRAP holds the straps. -/
def Dev.auxUp (d : Dev) : Dev :=
  let e := { d with life := { d.life with vaux := true } }.lifeReset 1
  e.setReg .ioStrap 0 (BitVec.ofNat 64 (e.board.smbAddr.toNat + (0x68 + e.board.smbAddr.toNat) * 4))

theorem Dev.auxUp_spec (d : Dev) :
    d.auxUp.life.vaux = true ∧ tabGet d.auxUp.life.resets 0 1 = min (2 ^ 32 - 1) (tabGet d.life.resets 0 1 + 1) ∧
      d.auxUp.rf .ioStrap 0 0 2 = d.board.smbAddr.toNat % 4 ∧ d.auxUp.life.lost = d.life.lost ∧ Keeps [.ioStrap] d d.auxUp := by
  refine ⟨rfl, Dev.tabGet_lifeReset { d with life := { d.life with vaux := true } } 1, ?_, rfl, ?_⟩
  · unfold Dev.auxUp
    rw [Dev.rf, Dev.reg_setReg_same, wf, fld_eq_div, BitVec.toNat_ofNat]
    change (d.board.smbAddr.toNat + (0x68 + d.board.smbAddr.toNat) * 4) % 2 ^ 64 / 2 ^ 0 % 2 ^ 2 = _
    omega
  · exact .trans (keeps_of_eq rfl rfl rfl) (keeps_setReg _ (by decide) _ _)

section
variable {s : State} {p : Dev → Prop}

/-- R449: AUX_RESET while VIN is absent or the device held in reset. -/
theorem auxReset_unpowered (hv : s.dev.life.vaux = false) (hn : s.dev.powered = false) (hp : p s.dev.auxUp) : Answers .auxReset s p := by
  have hn' : s.dev.auxUp.powered = false := hn
  refine answers_eventAny (exec_auxReset s) ?_
  change p (if (if s.dev.life.vaux then s.dev.vauxGone else s.dev).auxUp.powered
    then (if s.dev.life.vaux then s.dev.vauxGone else s.dev).auxUp.auxRestore else (if s.dev.life.vaux then s.dev.vauxGone else s.dev).auxUp)
  rw [if_neg (c := s.dev.life.vaux = true) (by simp [hv]), if_neg (by simp [hn'])]
  exact hp

/-- R483: VAUX_LOST while VAUX is up. -/
theorem vauxLost_up (hv : s.dev.life.vaux = true) (hp : p s.dev.vauxGone) : Answers .vauxLost s p := by
  refine answers_eventAny (exec_vauxLost s) ?_
  rw [if_pos hv]
  exact hp

theorem vauxLost_down (hv : s.dev.life.vaux = false) (hp : p s.dev) : Answers .vauxLost s p := by
  refine answers_eventAny (exec_vauxLost s) ?_
  rw [if_neg (by simp [hv])]
  exact hp

end

/-! ## The trial count (R462) -/

theorem exec_trialClear (s : State) : exec .trialClear s = execTrialClear s := rfl

/-- The trial count of the running image is cleared, and CFG_TRIAL follows. -/
def Dev.clearTrial (d : Dev) : Dev := { d with life := { d.life with trials := tabPut d.life.trials 0 (d.boot.image - 1) 0 } }.showTrials

theorem Dev.showTrials_rf (d : Dev) :
    d.showTrials.rf .cfgTrial 0 0 4 = d.trial 1 % 2 ^ 4 ∧ d.showTrials.rf .cfgTrial 0 4 4 = d.trial 2 % 2 ^ 4 := by
  unfold Dev.showTrials
  refine ⟨?_, Dev.rf_setRf_same _ _ _ _ _ _ (by decide)⟩
  rw [Dev.rf_setRf_ne _ _ _ _ _ _ _ _ (by decide) (by decide), Dev.rf_setRf_same _ _ _ _ _ _ (by decide)]

theorem keeps_showTrials (d : Dev) : Keeps [.cfgTrial] d d.showTrials :=
  (keeps_setRf d (by decide) _ _ _ _).trans (keeps_setRf _ (by decide) _ _ _ _)

theorem Dev.clearTrial_spec (d : Dev) (hi : d.boot.image = 1 ∨ d.boot.image = 2) :
    d.clearTrial.rf .cfgTrial 0 (4 * (d.boot.image - 1)) 4 = 0 ∧ tabGet d.clearTrial.life.trials 0 (d.boot.image - 1) = 0 ∧
      Keeps [.cfgTrial] d d.clearTrial := by
  have hzero : tabGet (tabPut d.life.trials 0 (d.boot.image - 1) 0) 0 (d.boot.image - 1) = 0 := tabGet_put_same _ _ _ _
  obtain ⟨h1, h2⟩ := Dev.showTrials_rf { d with life := { d.life with trials := tabPut d.life.trials 0 (d.boot.image - 1) 0 } }
  refine ⟨?_, hzero, (keeps_of_eq rfl rfl rfl).trans (keeps_showTrials _)⟩
  rcases hi with hi | hi
  · rw [hi] at hzero h1 ⊢
    exact (congrArg (Dev.rf · _ _ _ _) (by rw [Dev.clearTrial, hi])).trans (h1.trans (congrArg (· % 2 ^ 4) hzero))
  · rw [hi] at hzero h2 ⊢
    exact (congrArg (Dev.rf · _ _ _ _) (by rw [Dev.clearTrial, hi])).trans (h2.trans (congrArg (· % 2 ^ 4) hzero))

section
variable {s : State} {p : Dev → Prop} {t : Nat}

/-- R462: TRIAL_CLEAR when firmware has served for 60 s with an image. -/
theorem trialClear_due (hl : s.dev.live = true) (hs : s.dev.boot.servedAt = some t) (ht : t + 15000000000 ≤ s.dev.time.tick)
    (hi : s.dev.boot.image = 1 ∨ s.dev.boot.image = 2) (hp : p s.dev.clearTrial) : Answers .trialClear s p := by
  refine answers_event (exec_trialClear s) hl ?_
  rw [hs]
  dsimp only
  rw [if_neg (by omega)]
  exact hp

theorem trialClear_early (hl : s.dev.live = true) (hs : s.dev.boot.servedAt = some t) (ht : s.dev.time.tick < t + 15000000000) (hp : p s.dev) :
    Answers .trialClear s p := by
  refine answers_event (exec_trialClear s) hl ?_
  rw [hs]
  dsimp only
  rw [if_pos (.inl ht)]
  exact hp

end

/-! ## Zeroed DDR (R453) -/

theorem exec_ddrZeroDone (s : State) : exec .ddrZeroDone s = execDdrZeroDone s := rfl

/-- The device in which DDR zeroing has completed and no image record is left. -/
def Dev.ddrReady (d : Dev) : Dev := { d with boot := { d.boot with ddrZeroed := true } }.setRb .cfgBootStat 0 4 false

theorem Dev.ddrReady_spec (d : Dev) :
    d.ddrReady.boot.ddrZeroed = true ∧ d.ddrReady.rb .cfgBootStat 0 4 = false ∧ Keeps [.cfgBootStat] d d.ddrReady :=
  ⟨rfl, Dev.rb_setRb_same _ _ _ _ _ (by decide), (keeps_of_eq rfl rfl rfl).trans (keeps_setRb _ (by decide) _ _ _)⟩

section
variable {s : State} (hl : s.dev.live = true) (hs : s.dev.fw.serving = true) (hz : s.dev.boot.ddrZeroed = false) (ho : s.dev.fw.imgObjs = [])
include hl hs hz ho

/-- R453: DDR_ZERO_DONE with no image record left and no command running. -/
theorem ddrZeroDone_idle (hr : s.dev.fw.running = none) : exec .ddrZeroDone s = .next { s with bundle := none, dev := s.dev.ddrReady } := by
  rw [exec_ddrZeroDone, execDdrZeroDone]
  dsimp only
  rw [if_neg (by simp [hl, hs, hz]), if_pos (by simp [ho])]
  simp only [Dev.setRb_fw, hr]
  rfl

/-- R453: DDR_ZERO_DONE runs the PART_CREATE that waited. -/
theorem ddrZeroDone_partCreate {h : CmdHdr} (hr : s.dev.fw.running = some (0x20, h)) :
    exec .ddrZeroDone s =
      execPartCreate h { s with dev := { s.dev.ddrReady with fw := { s.dev.ddrReady.fw with running := none, taken := some (0, 64) } } } := by
  rw [exec_ddrZeroDone, execDdrZeroDone]
  dsimp only
  rw [if_neg (by simp [hl, hs, hz]), if_pos (by simp [ho])]
  simp only [Dev.setRb_fw, hr]
  rfl

end

end Sys2Proof.Machine
end

section
/-! PROOFS. Resets of the device, loss of VIN, and the start-up that follows them (R46, R47 of 01_islands_and_time.md, R449 to R452, R457, R461, R462, R471, R478, R479 of 13_startup_and_configuration.md). -/
namespace Sys2Proof.Machine
open Sys2Proof

/-! ## Causeway units -/

/-- Only DPX_CW and what the device has emitted have moved. -/
def UnitsReleased (d d' : Dev) : Prop := Keeps [.dpxCw] d d' ∧ ∃ regs outs, d' = { d with regs := regs, outs := outs }

theorem UnitsReleased.refl (d : Dev) : UnitsReleased d d := ⟨.refl _ d, _, _, rfl⟩

theorem UnitsReleased.trans {a b c : Dev} (h : UnitsReleased a b) (h' : UnitsReleased b c) : UnitsReleased a c := by
  refine ⟨h.1.trans h'.1, ?_⟩
  obtain ⟨-, regs, outs, rfl⟩ := h
  obtain ⟨-, regs', outs', rfl⟩ := h'
  exact ⟨_, _, rfl⟩

theorem unitsReleased_emit (d : Dev) (o : OutEv) : UnitsReleased d (d.emit o) := ⟨keeps_of_eq rfl rfl rfl, _, _, rfl⟩

theorem unitsReleased_dropUnits (d : Dev) (p : Nat) : UnitsReleased d (d.dropUnits p) := by
  unfold Dev.dropUnits
  refine .trans ?_ ⟨keeps_setReg _ (by decide) p 0, _, _, rfl⟩
  split
  · refine foldl_related .refl .trans (fun d u => ?_) _ d
    split
    · exact unitsReleased_emit d _
    · exact .refl d
  · exact .refl d

theorem unitsReleased_dropAllUnits (d : Dev) : UnitsReleased d d.dropAllUnits :=
  foldl_related .refl .trans unitsReleased_dropUnits _ d

/-! ## Loss of VIN (R46, R471, R478) -/

/-- What a loss of VIN leaves: the always-on domain with its time, the board and the key log; every register but IO_STRAP returns. -/
theorem Dev.brownOut_spec (d : Dev) :
    d.brownOut.life.vin = false ∧ d.brownOut.life.auxTime = d.time.now ∧ d.brownOut.life.auxTick = d.time.tick ∧ d.brownOut.board = d.board ∧
      d.brownOut.keys.log = d.keys.log ∧ d.brownOut.mem = [] ∧ d.brownOut.thr = [] ∧ d.brownOut.keys.slots = [] ∧
      d.brownOut.life.rec0 = d.life.rec0 ∧ d.brownOut.life.resets = d.life.resets ∧ ∀ r k, r ≠ .ioStrap → d.brownOut.reg r k = r.resetAt k := by
  have hout : ∃ e, UnitsReleased d e ∧ e = if d.dropAllUnits.time.ppsHigh.isSome then d.dropAllUnits.emit (.ppsOut false) else d.dropAllUnits := by
    refine ⟨_, ?_, rfl⟩
    split
    · exact (unitsReleased_dropAllUnits d).trans (unitsReleased_emit _ _)
    · exact unitsReleased_dropAllUnits d
  obtain ⟨e, ⟨-, regs, outs, rfl⟩, he⟩ := hout
  unfold Dev.brownOut
  dsimp only
  rw [← he]
  refine ⟨rfl, rfl, rfl, rfl, rfl, rfl, rfl, rfl, rfl, rfl, fun r k hr => ?_⟩
  refine (Dev.reg_of_filter (d := { d with regs := regs, outs := outs }) (q := fun c => c == Reg.ioStrap.code) rfl r k).trans ?_
  rw [if_neg (by simpa using fun h => hr (Reg.code_inj h))]

theorem exec_brownOut (s : State) : exec .brownOut s = execBrownOut s := rfl

theorem brownOut_up {s : State} {p : Dev → Prop} (hv : s.dev.life.vin = true) (hp : p s.dev.brownOut) : Answers .brownOut s p := by
  refine answers_eventAny (exec_brownOut s) ?_
  rw [if_pos hv]
  exact hp

/-! ## Start-up begins (R452, R457, R461, R462) -/

/-- Reading images moves their trial counts, and takes one of those offered or none. -/
theorem Dev.readImages_spec (ks : List Nat) (d : Dev) :
    ∃ trials k, d.readImages ks = ({ d with life := { d.life with trials := trials } }, k) ∧ (k = 0 ∨ k ∈ ks) := by
  induction ks generalizing d with
  | nil => exact ⟨_, _, rfl, .inl rfl⟩
  | cons i ks ih =>
    unfold Dev.readImages
    dsimp only
    split
    · exact ⟨_, _, rfl, .inr List.mem_cons_self⟩
    · obtain ⟨trials, k, h, hk⟩ := ih { d with life := { d.life with trials := tabPut d.life.trials 0 (i - 1) (d.trial i + 1) } }
      exact ⟨trials, k, h, hk.imp id (List.mem_cons_of_mem i)⟩

/-- The choice of image `k` is noted, and CFG_TRIAL, CFG_BOOT_STAT and CFG_BOOT_GEN show it. -/
def Dev.chooseImage (d : Dev) (k passed : Nat) (fallback bad : Bool) : Dev :=
  let e := { d with boot := { d.boot with began := d.time.tick, image := k, fallback := fallback, blockBad := bad } }
  let e := (e.setReg .cfgTrial 0 (BitVec.ofNat 64 passed)).showTrials
  let e := e.setReg .cfgBootStat 0 (BitVec.ofNat 64 (k + 4 * b2n fallback + 8 * b2n bad + 16))
  e.setReg .cfgBootGen 0 (BitVec.ofNat 64 (if k = 0 then 0 else genOf (e.imgHead k)))

/-- Firmware's report log goes on after its newest report. -/
def Dev.findReports (d : Dev) : Dev :=
  match d.newestReport with
  | some (slot, r) => { d with fw := { d.fw with reportPos := (slot + 1) % 128, reportSeq := leAt r 24 8 } }
  | none => d

theorem Dev.findReports_rest (d : Dev) : ∃ pos seq, d.findReports = { d with fw := { d.fw with reportPos := pos, reportSeq := seq } } := by
  unfold Dev.findReports
  split <;> exact ⟨_, _, rfl⟩

/-- R457: a valid boot block selects image A, image B or either. -/
theorem select_le_of_blockOk {b : List Byte} (h : blockOk b = true) : leAt b 5 1 ≤ 2 := by
  simp only [blockOk, Bool.and_eq_true, decide_eq_true_eq] at h
  omega

/-- R457, R461: start-up reads images A and B, or the one that a valid boot block selects, and chooses what the reading gives. -/
theorem Dev.bootBegin_eq (d : Dev) : ∃ ks passed first bad, (∀ k ∈ ks, k < 3) ∧
    d.bootBegin = ((d.readImages ks).1.chooseImage (d.readImages ks).2 passed
      ((d.readImages ks).2 != 0 && (d.readImages ks).2 != first) bad).findReports := by
  refine ⟨_, _, _, _, fun k hk => ?_, rfl⟩
  have hsel : (if (d.smemOk && blockOk (d.flashRead 0 64)) = true then leAt (d.flashRead 0 64) 5 1 else 0) ≤ 2 := by
    split
    · next h => exact select_le_of_blockOk (Bool.and_eq_true_iff.mp h).2
    · exact Nat.zero_le 2
  have hread := (List.mem_filter.mp hk).1
  generalize (if (d.smemOk && blockOk (d.flashRead 0 64)) = true then leAt (d.flashRead 0 64) 5 1 else 0) = select at hsel hread
  have hall : ∀ j ∈ (if select = 0 then [1, 2] else [select]), j < 3 := by
    split
    · decide
    · intro j hj
      rw [List.mem_singleton.mp hj]
      omega
  generalize (if select = 0 then [1, 2] else [select]) = all at hread hall
  split at hread
  · simp at hread; omega
  · exact hall k (List.mem_filter.mp hread).1

/-- The registers that the begin of start-up sets. -/
def bootRegs : List Reg := [.cfgTrial, .cfgBootStat, .cfgBootGen]

/-- CFG_BOOT_STAT as start-up sets it: the image in bits 1 and 0, and starting in bit 4. -/
theorem bootStat_fields {k : Nat} (hk : k < 3) (a b : Bool) :
    wbit (BitVec.ofNat 64 (k + 4 * b2n a + 8 * b2n b + 16)) 4 = true ∧ wf (BitVec.ofNat 64 (k + 4 * b2n a + 8 * b2n b + 16)) 0 2 = k := by
  have hall : ∀ k < 3, ∀ a b : Bool, wbit (BitVec.ofNat 64 (k + 4 * b2n a + 8 * b2n b + 16)) 4 = true ∧
      wf (BitVec.ofNat 64 (k + 4 * b2n a + 8 * b2n b + 16)) 0 2 = k := by decide
  exact hall k hk a b

theorem Dev.chooseImage_spec (d : Dev) {k : Nat} (passed : Nat) (fallback bad : Bool) (hk : k < 3) :
    Keeps bootRegs d (d.chooseImage k passed fallback bad) ∧
    (∃ regs, d.chooseImage k passed fallback bad =
      { d with regs := regs, boot := { d.boot with began := d.time.tick, image := k, fallback := fallback, blockBad := bad } }) ∧
    (d.chooseImage k passed fallback bad).rb .cfgBootStat 0 4 = true ∧ (d.chooseImage k passed fallback bad).rf .cfgBootStat 0 0 2 = k := by
  obtain ⟨hstart, himage⟩ := bootStat_fields hk fallback bad
  have hstat : (d.chooseImage k passed fallback bad).reg .cfgBootStat 0 = BitVec.ofNat 64 (k + 4 * b2n fallback + 8 * b2n bad + 16) :=
    (Dev.reg_setReg_ne _ _ (.inl (by decide))).trans (Dev.reg_setReg_same _ _ _ _)
  refine ⟨?_, ⟨_, rfl⟩, ?_, ?_⟩
  · unfold Dev.chooseImage
    refine .trans ?_ (keeps_setReg _ (r := .cfgBootGen) (by decide) 0 _)
    refine .trans ?_ (keeps_setReg _ (r := .cfgBootStat) (by decide) 0 _)
    refine .trans ?_ ((keeps_showTrials _).mono (by decide))
    exact .trans (keeps_of_eq rfl rfl rfl) (keeps_setReg _ (r := .cfgTrial) (by decide) 0 _)
  · rw [Dev.rb, hstat, hstart]
  · rw [Dev.rf, hstat, himage]

/-- What the begin of start-up does: beside its three registers it moves the trial counts, the choice of the image and its tick, and where firmware's report log goes on. -/
theorem Dev.bootBegin_spec (d : Dev) :
    Keeps bootRegs d d.bootBegin ∧
    (∃ regs trials k fallback bad pos seq, d.bootBegin = { d with
      regs := regs, life := { d.life with trials := trials }, fw := { d.fw with reportPos := pos, reportSeq := seq }
      boot := { d.boot with began := d.time.tick, image := k, fallback := fallback, blockBad := bad } }) ∧
    d.bootBegin.rb .cfgBootStat 0 4 = true ∧ d.bootBegin.rf .cfgBootStat 0 0 2 = d.bootBegin.boot.image := by
  obtain ⟨ks, passed, first, bad, hks, hboot⟩ := d.bootBegin_eq
  obtain ⟨trials, k, hread, hk⟩ := d.readImages_spec ks
  have hk3 : k < 3 := by
    rcases hk with rfl | hk
    · decide
    · exact hks k hk
  rw [hboot, hread]
  dsimp only
  obtain ⟨hkeep, ⟨regs, hchoose⟩, hstart, himage⟩ :=
    Dev.chooseImage_spec { d with life := { d.life with trials := trials } } passed (k != 0 && k != first) bad hk3
  generalize Dev.chooseImage { d with life := { d.life with trials := trials } } k passed (k != 0 && k != first) bad = e at *
  obtain ⟨pos, seq, hfind⟩ := e.findReports_rest
  rw [hfind]
  refine ⟨(keeps_of_eq rfl rfl rfl).trans (hkeep.trans (keeps_of_eq rfl rfl rfl)), ?_, hstart, ?_⟩
  · rw [hchoose]
    exact ⟨_, _, _, _, _, _, _, rfl⟩
  · refine Eq.trans himage ?_
    rw [hchoose]

theorem exec_devRstNRelease (s : State) : exec .devRstNRelease s = execDevRstNRelease s := rfl

/-- R452: DEV_RST_N_RELEASE with VIN up begins start-up. -/
theorem devRstNRelease_starts {s : State} {p : Dev → Prop} (hr : s.dev.boot.rstN = true) (hv : s.dev.life.vin = true)
    (hp : p { s.dev with boot := { s.dev.boot with rstN := false } }.bootBegin) : Answers .devRstNRelease s p := by
  refine answers_eventAny (exec_devRstNRelease s) ?_
  rw [if_neg (by simp [hr])]
  dsimp only
  rw [if_pos hv]
  exact hp

/-! ## Device reset (R449, R471, R479) -/

theorem Dev.reg_devCleared (d : Dev) (r : Reg) (k : Nat) (hr : r ≠ .fltStat) :
    d.devCleared.reg r k = if r ∈ drKeeps then d.reg r k else r.resetAt k := by
  have hcodes : ((drKeeps.map Reg.code).contains r.code = true) = (r ∈ drKeeps) := by
    rw [List.contains_iff_mem, List.mem_map]
    exact propext ⟨fun ⟨q, hq, hc⟩ => Reg.code_inj hc ▸ hq, fun h => ⟨r, h, rfl⟩⟩
  unfold Dev.devCleared
  refine (Dev.reg_setRf_ne _ _ _ _ (.inl hr)).trans ((Dev.reg_setRf_ne _ _ _ _ (.inl hr)).trans ?_)
  refine (Dev.reg_of_filter (d := d) (q := fun c => (drKeeps.map Reg.code).contains c) rfl r k).trans ?_
  simp only [hcodes]

/-- A device reset leaves the safe state. -/
theorem Dev.devCleared_safe (d : Dev) : d.devCleared.safe = false := by
  unfold Dev.safe Dev.devCleared
  refine (Dev.rb_setRf_ne _ _ _ _ _ _ _ (by decide) (by decide)).trans ((Dev.rb_setRf_ne _ _ _ _ _ _ _ (by decide) (by decide)).trans ?_)
  rw [Dev.rb, Dev.reg_of_filter (d := d) (q := fun c => (drKeeps.map Reg.code).contains c) rfl, if_neg (by decide)]
  decide

/-- The device after a device reset, with its cause, before it starts up. -/
def Dev.devReset (d : Dev) (cause : Nat) : Dev :=
  let e := (d.dropAllUnits.lifeReset 2).devCleared
  e.setReg .cfgRstCause 0 (BitVec.ofNat 64 (cause + 8 * b2n (!e.life.lost) + 16 * b2n d.safe))

/-- CFG_RST_CAUSE as a reset leaves it. -/
theorem rstCause_fields {cause : Nat} (hc : cause < 8) (a b : Bool) :
    wf (BitVec.ofNat 64 (cause + 8 * b2n a + 16 * b2n b)) 0 3 = cause ∧ wbit (BitVec.ofNat 64 (cause + 8 * b2n a + 16 * b2n b)) 3 = a ∧
      wbit (BitVec.ofNat 64 (cause + 8 * b2n a + 16 * b2n b)) 4 = b := by
  have hall : ∀ cause < 8, ∀ a b : Bool, wf (BitVec.ofNat 64 (cause + 8 * b2n a + 16 * b2n b)) 0 3 = cause ∧
      wbit (BitVec.ofNat 64 (cause + 8 * b2n a + 16 * b2n b)) 3 = a ∧ wbit (BitVec.ofNat 64 (cause + 8 * b2n a + 16 * b2n b)) 4 = b := by decide
  exact hall cause hc a b

/-- What a device reset leaves beside the registers: device time, the count of ticks, the snapshot, the key log, the board and the pins. -/
theorem Dev.devReset_rest (d : Dev) (cause : Nat) :
    (d.devReset cause).boot.rstN = d.boot.rstN ∧ (d.devReset cause).mem = [] ∧ (d.devReset cause).thr = [] ∧ (d.devReset cause).keys.slots = [] ∧
      (d.devReset cause).keys.log = d.keys.log ∧ (d.devReset cause).board = d.board ∧ (d.devReset cause).time.now = d.time.now ∧
      (d.devReset cause).time.tick = d.time.tick ∧ (d.devReset cause).cnt.snap = d.cnt.snap ∧
      tabGet (d.devReset cause).life.resets 0 2 = min (2 ^ 32 - 1) (tabGet d.life.resets 0 2 + 1) := by
  obtain ⟨-, regs, outs, he⟩ := unitsReleased_dropAllUnits d
  have hcount := Dev.tabGet_lifeReset d.dropAllUnits 2
  unfold Dev.devReset
  rw [he] at hcount ⊢
  exact ⟨rfl, rfl, rfl, rfl, rfl, rfl, rfl, rfl, rfl, hcount⟩

/-- What a device reset leaves in the registers: those it keeps, the cause, and reset values else. -/
theorem Dev.devReset_regs (d : Dev) {cause : Nat} (hc : cause < 8) :
    (d.devReset cause).safe = false ∧ (∀ r k, r ∈ drKeeps → (d.devReset cause).reg r k = d.reg r k) ∧
      (∀ r k, r ∉ drKeeps → r ≠ .fltStat → r ≠ .cfgRstCause → (d.devReset cause).reg r k = r.resetAt k) ∧
      (d.devReset cause).rf .cfgRstCause 0 0 3 = cause ∧ (d.devReset cause).rb .cfgRstCause 0 4 = d.safe := by
  obtain ⟨hcause, -, hsafe⟩ := rstCause_fields hc (!(d.dropAllUnits.lifeReset 2).devCleared.life.lost) d.safe
  obtain ⟨hunits, -⟩ := unitsReleased_dropAllUnits d
  refine ⟨?_, fun r k hr => ?_, fun r k hr hf hne => ?_, ?_, ?_⟩
  · exact (congrArg (wbit · 2) (Dev.reg_setReg_ne _ _ (.inl (by decide)))).trans (Dev.devCleared_safe _)
  · have hkept : ∀ r ∈ drKeeps, r ≠ .fltStat ∧ r ≠ .cfgRstCause ∧ r ∉ [Reg.dpxCw] := by decide
    obtain ⟨hflt, hcfg, hcw⟩ := hkept r hr
    refine (Dev.reg_setReg_ne _ _ (.inl hcfg)).trans ((Dev.reg_devCleared _ r k hflt).trans ?_)
    rw [if_pos hr]
    exact hunits.reg hcw k
  · refine (Dev.reg_setReg_ne _ _ (.inl hne)).trans ((Dev.reg_devCleared _ r k hf).trans ?_)
    rw [if_neg hr]
  · exact (congrArg (wf · 0 3) (Dev.reg_setReg_same _ _ _ _)).trans hcause
  · exact (congrArg (wbit · 4) (Dev.reg_setReg_same _ _ _ _)).trans hsafe

theorem exec_deviceReset (perst : Bool) (s : State) : exec (.deviceReset perst) s = execDeviceReset perst s := rfl

section
variable {s : State} {p : Dev → Prop}

/-- R449: DEV_RST_N resets a supplied device, and holds it. -/
theorem deviceReset_pin (hr : s.dev.boot.rstN = false) (hv : s.dev.life.vin = true)
    (hp : p { s.dev.devReset 2 with boot := { (s.dev.devReset 2).boot with rstN := true } }) : Answers (.deviceReset false) s p := by
  refine answers_eventAny (exec_deviceReset false s) ?_
  rw [if_neg Bool.false_ne_true, if_neg (by simp [hr]), if_neg (by simp [hv])]
  exact hp

/-- R450: PERST of the management port resets a device in the safe state where FLT_CFG says so, and start-up begins. -/
theorem deviceReset_perst (hw : s.dev.powered = true) (hs : s.dev.safe = true) (hc : s.dev.rb .fltCfg 0 0 = true)
    (hm : s.dev.host.perst.getLsbD s.dev.mgmtPort = true) (hp : p (s.dev.devReset 3).bootBegin) : Answers (.deviceReset true) s p := by
  have hv : s.dev.life.vin = true := (Bool.and_eq_true_iff.mp hw).1
  refine answers_eventAny (exec_deviceReset true s) ?_
  have hgo : (s.dev.powered && s.dev.safe && s.dev.rb .fltCfg 0 0 && s.dev.host.perst.getLsbD s.dev.mgmtPort) = true := by
    rw [hw, hs, hc, hm]
    rfl
  simp only [↓reduceIte, hgo, hv, Bool.not_true, Bool.false_eq_true]
  exact hp

/-- R450: outside the safe state, or where FLT_CFG does not say so, PERST resets nothing. -/
theorem deviceReset_perst_off (h : s.dev.safe = false ∨ s.dev.rb .fltCfg 0 0 = false) (hp : p s.dev) : Answers (.deviceReset true) s p := by
  refine answers_eventAny (exec_deviceReset true s) ?_
  have hgo : (s.dev.powered && s.dev.safe && s.dev.rb .fltCfg 0 0 && s.dev.host.perst.getLsbD s.dev.mgmtPort) = false := by
    rcases h with h | h <;> simp [h]
  rw [if_pos rfl, hgo]
  exact hp

end

/-! ## Device time after a power-on (R46) -/

/-- The registers that the load of device time sets. -/
def loadRegs : List Reg := [.timeQual, .timeStatus, .timeHoldSecs, .timeHwm0, .timeHwm1]

theorem keeps_setHwm (d : Dev) (v : Nat) : Keeps [.timeHwm0, .timeHwm1] d (d.setHwm v) := by
  unfold Dev.setHwm
  refine .trans ?_ (keeps_setReg _ (r := .timeHwm1) (by decide) 0 _)
  exact .trans (keeps_of_eq rfl rfl rfl) (keeps_setReg _ (r := .timeHwm0) (by decide) 0 _)

/-- Device time goes on at `now` with an estimated error, in HOLDOVER. -/
def Dev.goOnAt (d : Dev) (now err : Nat) : Dev :=
  (((d.withTime { d.time with now := now, hasEst := true, secsKnown := d.life.auxCal }).setQuality 3).setErr err).setRb .timeStatus 0 0 d.life.auxCal

/-- Device time starts at a recorded second. -/
def Dev.startAt (d : Dev) (now : Nat) : Dev := (d.withTime { d.time with now := now }).setRb .timeStatus 0 1 true

/-- What a load of device time may move, but for TIME_HWM in retention memory. -/
def TimeLoaded (d d' : Dev) : Prop :=
  Keeps loadRegs d d' ∧ ∃ regs time, d' = { d with regs := regs, time := time } ∧ time.tick = d.time.tick

theorem timeLoaded_goOnAt (d : Dev) (now err : Nat) : TimeLoaded d (d.goOnAt now err) := by
  refine ⟨?_, _, _, rfl, rfl⟩
  unfold Dev.goOnAt
  refine .trans ?_ (keeps_setRb _ (r := .timeStatus) (by decide) 0 0 _)
  refine .trans ?_ (keeps_setRf _ (r := .timeQual) (by decide) 0 5 27 _)
  exact .trans (keeps_of_eq rfl rfl rfl) (keeps_setRf _ (r := .timeQual) (by decide) 0 0 3 _)

theorem timeLoaded_startAt (d : Dev) (now : Nat) : TimeLoaded d (d.startAt now) :=
  ⟨.trans (keeps_of_eq rfl rfl rfl) (keeps_setRb _ (r := .timeStatus) (by decide) 0 1 _), _, _, rfl, rfl⟩

theorem Dev.goOnAt_now (d : Dev) (now err : Nat) : (d.goOnAt now err).time.now = now ∧ (d.goOnAt now err).rb .timeStatus 0 0 = d.life.auxCal :=
  ⟨rfl, Dev.rb_setRb_same _ _ _ _ _ (by decide)⟩

theorem Dev.startAt_now (d : Dev) (now : Nat) : (d.startAt now).time.now = now ∧ (d.startAt now).rb .timeStatus 0 1 = true :=
  ⟨rfl, Dev.rb_setRb_same _ _ _ _ _ (by decide)⟩

/-- R46: device time as a power-on loads it, before TIME_HOLD_SECS, TIME_HWM and behind_hwm follow. -/
def Dev.resumeTime (d : Dev) : Dev :=
  let gap := (d.time.tick - d.life.auxTick) * 4
  if !d.life.lost && d.life.vaux && d.life.auxRan then
    d.goOnAt ((d.life.auxTime / 65536 + gap) / 1000 * 1000 * 65536) (d.life.auxErr + gap / nsPerSec * d.life.auxRate)
  else d.startAt (d.hwmSaved * nsPerSec * 65536)

theorem Dev.loadTime_eq (d : Dev) :
    d.loadTime = ((d.resumeTime.setRf .timeHoldSecs 0 0 32 d.resumeTime.life.holdSecs).setHwm d.hwmSaved).behindHwm := rfl

theorem timeLoaded_resumeTime (d : Dev) : TimeLoaded d d.resumeTime := by
  unfold Dev.resumeTime
  dsimp only
  split
  · exact timeLoaded_goOnAt d _ _
  · exact timeLoaded_startAt d _

theorem Dev.resumeTime_ran (d : Dev) (hl : d.life.lost = false) (hv : d.life.vaux = true) (hr : d.life.auxRan = true) :
    d.resumeTime.time.now = (d.life.auxTime / 65536 + (d.time.tick - d.life.auxTick) * 4) / 1000 * 1000 * 65536 ∧
      d.resumeTime.rb .timeStatus 0 0 = d.life.auxCal := by
  unfold Dev.resumeTime
  dsimp only
  rw [if_pos (by simp [hl, hv, hr])]
  exact d.goOnAt_now _ _

theorem Dev.resumeTime_recorded (d : Dev) (h : d.life.lost = true ∨ d.life.vaux = false ∨ d.life.auxRan = false) :
    d.resumeTime.time.now = d.hwmSaved * nsPerSec * 65536 ∧ d.resumeTime.rb .timeStatus 0 1 = true := by
  have hnot : ¬(!d.life.lost && d.life.vaux && d.life.auxRan) = true := by rcases h with h | h | h <;> simp [h]
  unfold Dev.resumeTime
  dsimp only
  rw [if_neg hnot]
  exact d.startAt_now _

/-- The load of device time moves its registers, device time itself but not the count of ticks, and TIME_HWM in retention memory. -/
theorem Dev.loadTime_rest (d : Dev) :
    Keeps loadRegs d d.loadTime ∧
      (∃ regs time, d.loadTime = { d with regs := regs, time := time, life := { d.life with hwm := d.hwmSaved } } ∧ time.tick = d.time.tick) ∧
      d.loadTime.time.now = d.resumeTime.time.now ∧ ∀ i, i ≠ 2 → d.loadTime.rb .timeStatus 0 i = d.resumeTime.rb .timeStatus 0 i := by
  obtain ⟨hkeep, regs, time, he, htick⟩ := timeLoaded_resumeTime d
  rw [Dev.loadTime_eq]
  rw [he] at hkeep ⊢
  refine ⟨?_, ⟨_, _, rfl, htick⟩, rfl, fun i hi => ?_⟩
  · refine .trans ?_ (keeps_setRb _ (r := .timeStatus) (by decide) 0 2 _)
    refine .trans ?_ ((keeps_setHwm _ _).mono (by decide))
    exact .trans hkeep (keeps_setRf _ (r := .timeHoldSecs) (by decide) 0 0 32 _)
  · refine (Dev.rb_setRb_ne _ _ _ _ _ _ hi).trans (((keeps_setHwm _ _).rb (by decide) 0 i).trans ?_)
    exact (keeps_setRf (rs := [.timeHoldSecs]) _ (by decide) 0 0 32 _).rb (by decide) 0 i

/-! ## Power-on (R449, R452) -/

/-- A power-on's cause is shown, LIFE_STAT returns, and the tick of the reset is noted. -/
def Dev.showPowerOn (d : Dev) (kept was : Bool) : Dev :=
  let e := (d.resetReg .lifeStat 0).setReg .cfgRstCause 0 (BitVec.ofNat 64 (b2n kept + 8 * b2n kept + 16 * b2n was))
  { e with boot := { e.boot with poAt := some e.time.tick } }

theorem Dev.showPowerOn_spec (d : Dev) (kept was : Bool) :
    Keeps [.lifeStat, .cfgRstCause] d (d.showPowerOn kept was) ∧
      (∃ regs, d.showPowerOn kept was = { d with regs := regs, boot := { d.boot with poAt := some d.time.tick } }) ∧
      (d.showPowerOn kept was).rf .cfgRstCause 0 0 3 = b2n kept ∧ (d.showPowerOn kept was).rb .cfgRstCause 0 3 = kept ∧
      (d.showPowerOn kept was).rb .cfgRstCause 0 4 = was := by
  have hbelow : b2n kept < 8 := by cases kept <;> decide
  obtain ⟨hcause, hkept, hwas⟩ := rstCause_fields hbelow kept was
  have hreg : (d.showPowerOn kept was).reg .cfgRstCause 0 = BitVec.ofNat 64 (b2n kept + 8 * b2n kept + 16 * b2n was) := Dev.reg_setReg_same _ _ _ _
  refine ⟨?_, ⟨_, rfl⟩, ?_, ?_, ?_⟩
  · refine .trans ?_ (keeps_of_eq rfl rfl rfl)
    exact .trans (keeps_resetReg d (r := .lifeStat) (by decide) 0) (keeps_setReg _ (r := .cfgRstCause) (by decide) 0 _)
  · rw [Dev.rf, hreg, hcause]
  · rw [Dev.rb, hreg, hkept]
  · rw [Dev.rb, hreg, hwas]

/-- The device whose time a power-on loads: VIN is up, and the reset is counted. -/
def Dev.supplied (d : Dev) : Dev := { d with life := { d.life with vin := true, wasSafe := false } }.lifeReset 0

/-- The device with VIN up again, before it starts up: the reset is counted, device time and the lifetime registers are loaded, and the cause is shown. -/
def Dev.poweredOn (d : Dev) : Dev := d.supplied.loadTime.lifeRegs.showPowerOn (!d.life.lost && d.life.vaux) d.life.wasSafe

/-- What a power-on does to the device before it starts up. -/
theorem Dev.poweredOn_spec (d : Dev) :
    (∃ regs time, d.poweredOn = { d with
        regs := regs, time := time, life := { d.supplied.life with hwm := d.supplied.hwmSaved }, boot := { d.boot with poAt := some d.time.tick } } ∧
      time.tick = d.time.tick ∧ time.now = d.supplied.resumeTime.time.now) ∧
    d.poweredOn.rf .cfgRstCause 0 0 3 = b2n (!d.life.lost && d.life.vaux) ∧ d.poweredOn.rb .cfgRstCause 0 3 = (!d.life.lost && d.life.vaux) ∧
    d.poweredOn.rb .cfgRstCause 0 4 = d.life.wasSafe ∧
    ∀ i, i ≠ 2 → d.poweredOn.rb .timeStatus 0 i = d.supplied.resumeTime.rb .timeStatus 0 i := by
  obtain ⟨-, ⟨regs, time, hload, htick⟩, hnow, hstatus⟩ := d.supplied.loadTime_rest
  have hlife := recordsIn_lifeRegs d.supplied.loadTime
  obtain ⟨regs', hregs⟩ := d.supplied.loadTime.lifeRegs_rest
  obtain ⟨hkeep, ⟨regs'', hshow⟩, hcause, hkept, hwas⟩ :=
    d.supplied.loadTime.lifeRegs.showPowerOn_spec (!d.life.lost && d.life.vaux) d.life.wasSafe
  refine ⟨?_, hcause, hkept, hwas, fun i hi => ?_⟩
  · rw [Dev.poweredOn, hshow, hregs, ← hnow, hload]
    exact ⟨regs'', time, by rw [show d.time.tick = time.tick from htick.symm]; rfl, htick, rfl⟩
  · rw [← hstatus i hi, ← hlife.keeps.rb (by decide)]
    exact hkeep.rb (by decide) 0 i

theorem exec_powerOnReset (s : State) : exec .powerOnReset s = execPowerOnReset s := rfl

/-- R449, R452: POWER_ON_RESET with VIN down powers the device on, and start-up begins unless DEV_RST_N holds it. -/
theorem powerOnReset_rises {s : State} {p : Dev → Prop} (hv : s.dev.life.vin = false)
    (hp : p (if s.dev.poweredOn.boot.rstN then s.dev.poweredOn else s.dev.poweredOn.bootBegin)) : Answers .powerOnReset s p := by
  refine answers_eventAny (exec_powerOnReset s) ?_
  rw [if_neg (c := s.dev.life.vin = true) (by simp [hv])]
  exact hp

end Sys2Proof.Machine
end

section
/-! PROOFS. The boot image takes effect (R40 of 01_islands_and_time.md, R293, R294 of 08_host_endpoint.md, R452, R463, R465 to R468 of 13_startup_and_configuration.md). -/
namespace Sys2Proof.Machine
open Sys2Proof

/-! ## The image's values (R465 to R467) -/

/-- Only registers, firmware and the partitions' tables have moved. -/
def ConfigOnly (d d' : Dev) : Prop := ∃ regs fw ptn, d' = { d with regs := regs, fw := fw, ptn := ptn }

theorem ConfigOnly.refl (d : Dev) : ConfigOnly d d := ⟨_, _, _, rfl⟩

theorem ConfigOnly.trans {a b c : Dev} (h : ConfigOnly a b) (h' : ConfigOnly b c) : ConfigOnly a c := by
  obtain ⟨_, _, _, rfl⟩ := h
  obtain ⟨_, _, _, rfl⟩ := h'
  exact ⟨_, _, _, rfl⟩

theorem configOnly_confWord (d : Dev) (isl off v : Nat) : ConfigOnly d (d.confWord isl off v).1 := by
  unfold Dev.confWord
  split
  · split
    · exact .refl d
    · exact ⟨_, _, _, rfl⟩
  · exact .refl d

theorem configOnly_addEnts (d : Dev) (es : List (List Byte)) : ConfigOnly d (d.addEnts es) := ⟨_, _, _, rfl⟩

theorem configOnly_confRecord (d : Dev) (recNo : Nat) (r : List Byte) : ConfigOnly d (d.confRecord recNo r).1 := by
  refine foldl_related (R := fun a b : Dev × Nat => ConfigOnly a.1 b.1) (fun _ => .refl _) .trans (fun a w => ?_) _ (d, 0)
  exact (configOnly_confWord a.1 _ _ _).trans (configOnly_addEnts _ _)

theorem configOnly_confRecords (d : Dev) (rs : List (List Byte)) : ConfigOnly d (d.confRecords rs).1 := by
  refine foldl_related (R := fun a b : Dev × Nat => ConfigOnly a.1 b.1) (fun _ => .refl _) .trans (fun a r => ?_) _ (d, 0)
  dsimp only
  split
  · exact configOnly_confRecord a.1 _ _
  · split
    · exact .refl _
    · exact configOnly_addEnts _ _

theorem configOnly_nameOwners (d e : Dev) : ConfigOnly e (d.nameOwners e) := by
  refine foldl_related .refl .trans (fun x r => ?_) _ e
  refine foldl_related .refl .trans (fun x i => ?_) _ x
  dsimp only
  split
  · exact ⟨_, _, _, rfl⟩
  · exact .refl x

theorem configOnly_takeIds (d : Dev) (rs : List (List Byte)) : ConfigOnly d (d.takeIds rs) :=
  foldl_related .refl .trans (fun _ _ => ⟨_, _, _, rfl⟩) _ d

theorem configOnly_overcommit (d : Dev) : ConfigOnly d d.overcommit :=
  foldl_related .refl .trans (fun _ _ => ⟨_, _, _, rfl⟩) _ d

/-- The image's records are checked and stored. -/
def Dev.storeImage (d : Dev) : Dev :=
  let block := if d.boot.blockBad then [wholeEntry 0xFFFF 0 6 0x04] else []
  let e := { d with fw := { d.fw with ents := block, entTotal := block.length, reportSeq := d.fw.reportSeq + 1 } }
  ((d.nameOwners (e.confRecords d.runRecords).1).takeIds d.runRecords).overcommit

theorem configOnly_storeImage (d : Dev) : ConfigOnly d d.storeImage := by
  refine .trans ?_ (configOnly_overcommit _)
  refine .trans ?_ (configOnly_takeIds _ _)
  refine .trans ?_ (configOnly_nameOwners _ _)
  exact .trans ⟨_, _, _, rfl⟩ (configOnly_confRecords _ _)

/-- The stored values are in force: the image counts as applied, host ports may train, the spread settings hold, and the records of objects wait. -/
def Dev.putInForce (d : Dev) (rs : List (List Byte)) : Dev :=
  let links := tabPut (tabPut [] 0 0 (d.rf .hostLinkCfg 0 0 2)) 0 1 (d.rf .hostLinkCfg 1 0 2)
  { d with
    boot := { d.boot with imaged := true, ents := d.fw.ents, entTotal := d.fw.entTotal, rptSeq := d.fw.reportSeq }
    host := { d.host with bifNow := links, training := 255 }
    time := { d.time with spread := (d.reg .timeClkSpread 0).setWidth 32 }
    fw := { d.fw with
      imgObjs := (rs.zip (List.range rs.length)).filterMap (fun r => if 2 ≤ recType r.1 ∧ recType r.1 ≤ 5 then some (r.2, r.1) else none) } }

/-! ## Host ports train (R293, R294, R300) -/

/-- A host port exists and its PERST input is released. -/
def Dev.mayTrain (d : Dev) (h : Nat) : Bool := d.hostPortExists h && !d.host.perst.getLsbD h

/-- A host port's BAR2 sizes take effect, and it begins to train where it may. -/
def Dev.barAndTrain (d : Dev) (h : Nat) : Dev := let e := d.applyBar2 h; if e.mayTrain h then e.hostTrain h else e

/-- Only functions of host ports and the lifetime counts of their training have moved. -/
def Trained (lh : Tab Nat) (d d' : Dev) : Prop := ∃ fns, d' = { d with host := { d.host with fns := fns }, life := { d.life with host := lh } }

theorem applyBar2_rest (d : Dev) (h : Nat) : Trained d.life.host d (d.applyBar2 h) := by
  refine (foldl_related (R := fun a b : Dev => ∃ fns, b = { a with host := { a.host with fns := fns } })
    (fun _ => ⟨_, rfl⟩) ?_ (fun _ _ => ⟨_, rfl⟩) _ d)
  rintro a b c ⟨_, rfl⟩ ⟨_, rfl⟩
  exact ⟨_, rfl⟩

theorem Dev.barAndTrain_rest (d : Dev) (h : Nat) :
    Trained (if d.mayTrain h then tabPut d.life.host 0 h (Nat.min (2 ^ 32 - 1) (tabGet d.life.host 0 h + 1)) else d.life.host) d (d.barAndTrain h) := by
  obtain ⟨fns, he⟩ := applyBar2_rest d h
  have hmay : (d.applyBar2 h).mayTrain h = d.mayTrain h := by rw [he]; rfl
  unfold Dev.barAndTrain
  dsimp only
  rw [hmay]
  split
  · rw [he]
    exact ⟨fns, rfl⟩
  · exact ⟨fns, he⟩

/-- R444: each host port that may train is counted once, and no other. -/
theorem Dev.foldl_barAndTrain (l : List Nat) (hl : l.Nodup) (d : Dev) :
    ∃ lh, Trained lh d (l.foldl Dev.barAndTrain d) ∧
      ∀ h, tabGet lh 0 h = if h ∈ l ∧ d.mayTrain h = true then min (2 ^ 32 - 1) (tabGet d.life.host 0 h + 1) else tabGet d.life.host 0 h := by
  induction l generalizing d with
  | nil => exact ⟨d.life.host, ⟨_, rfl⟩, fun h => by simp⟩
  | cons i l ih =>
    obtain ⟨hi, hl⟩ := List.nodup_cons.mp hl
    obtain ⟨fns, he⟩ := d.barAndTrain_rest i
    obtain ⟨lh, ⟨fns', ht⟩, hcount⟩ := ih hl (d.barAndTrain i)
    refine ⟨lh, ⟨fns', ?_⟩, fun h => ?_⟩
    · rw [List.foldl_cons, ht, he]
    · have hmay : (d.barAndTrain i).mayTrain h = d.mayTrain h := by rw [he]; rfl
      have hlife : (d.barAndTrain i).life.host =
        if d.mayTrain i then tabPut d.life.host 0 i (Nat.min (2 ^ 32 - 1) (tabGet d.life.host 0 i + 1)) else d.life.host := by rw [he]
      rw [hcount h, hmay, hlife]
      by_cases hhi : h = i
      · subst hhi
        cases hm : d.mayTrain h
        · simp [hi]
        · simp [hi]
      · cases hm : d.mayTrain i
        · simp [hhi]
        · simp [hhi, tabGet_put_ne]

/-! ## The servo looks at its sources (R40, R41) -/

/-- Only registers, the time plane's state but for device time, and the collector's queue have moved. -/
def ServoOnly (d d' : Dev) : Prop := ∃ regs time flt free, d' = { d with regs := regs, time := time, flt := flt, free := free }

theorem ServoOnly.refl (d : Dev) : ServoOnly d d := ⟨_, _, _, _, rfl⟩

theorem ServoOnly.trans {a b c : Dev} (h : ServoOnly a b) (h' : ServoOnly b c) : ServoOnly a c := by
  obtain ⟨_, _, _, _, rfl⟩ := h
  obtain ⟨_, _, _, _, rfl⟩ := h'
  exact ⟨_, _, _, _, rfl⟩

theorem servoOnly_loseSource (d : Dev) : ServoOnly d d.loseSource := by
  unfold Dev.loseSource
  dsimp only
  refine .trans (b := (d.setRf .timeQual 0 3 2 0).setRb .timeStatus 0 7 false) ⟨_, _, _, _, rfl⟩ ?_
  split
  · exact ⟨_, _, _, _, rfl⟩
  · split
    · exact ⟨_, _, _, _, rfl⟩
    · exact .refl _

theorem servoOnly_improve (e : Dev) (c : Prop) [Decidable c] (best : Nat) : ServoOnly e (if c then e else e.takeSource best) := by
  split
  · exact .refl e
  · exact ⟨_, _, _, _, rfl⟩

theorem servoOnly_reselect (d : Dev) : ServoOnly d d.reselect := by
  unfold Dev.reselect
  split
  · exact .refl d
  · refine .trans ?_ (servoOnly_improve _ _ _)
    split
    · exact servoOnly_loseSource d
    · exact .refl d

/-! ## The image takes effect (R452) -/

/-- The counter dump's first time, where the image switches it on. -/
def Dev.startDump (d : Dev) : Dev :=
  if d.rb .cntDumpCfg 0 31 then { d with cnt := { d.cnt with dumpAt := d.ns + Nat.max 1 d.dumpStep } } else d

theorem Dev.startDump_rest (d : Dev) : ∃ cnt, d.startDump = { d with cnt := cnt } := by
  unfold Dev.startDump
  split <;> exact ⟨_, rfl⟩

theorem Dev.bootReport_unlogged (d : Dev) : ∃ regs fw, d.bootReport false = { d with regs := regs, fw := fw } := ⟨_, _, rfl⟩

theorem Dev.imageApply_eq (d : Dev) :
    d.imageApply = ((((List.range 8).foldl Dev.barAndTrain (d.storeImage.putInForce d.runRecords)).startDump).bootReport false).reselect := by
  unfold Dev.imageApply Dev.storeImage Dev.putInForce Dev.startDump Dev.barAndTrain Dev.mayTrain
  with_reducible rfl

/-- What follows the values' taking effect: host ports train, the counter dump's first time is set, the boot report is made and the servo looks at its sources. -/
theorem Dev.foldl_barAndTrain_reselect (d : Dev) :
    ∃ regs time flt free cnt fw fns lh,
      ((((List.range 8).foldl Dev.barAndTrain d).startDump).bootReport false).reselect =
        { d with
          regs := regs, time := time, flt := flt, free := free, cnt := cnt, fw := fw
          host := { d.host with fns := fns }
          life := { d.life with host := lh } } ∧
      ∀ h < 8, tabGet lh 0 h = if d.mayTrain h = true then min (2 ^ 32 - 1) (tabGet d.life.host 0 h + 1) else tabGet d.life.host 0 h := by
  obtain ⟨lh, ⟨fns, htrain⟩, hcount⟩ := Dev.foldl_barAndTrain (List.range 8) List.nodup_range d
  generalize (List.range 8).foldl Dev.barAndTrain d = e at htrain ⊢
  obtain ⟨cnt, hdump⟩ := e.startDump_rest
  generalize e.startDump = f at hdump ⊢
  obtain ⟨_, fw, hreport⟩ := f.bootReport_unlogged
  generalize f.bootReport false = g at hreport ⊢
  obtain ⟨regs, time, flt, free, hsel⟩ := servoOnly_reselect g
  refine ⟨regs, time, flt, free, cnt, fw, fns, lh, ?_, fun h hh => ?_⟩
  · rw [hsel, hreport, hdump, htrain]
  · simpa [hh] using hcount h

/-- What the image's taking effect does beside the configuration: it is marked applied, every host port may train, and those that exist with PERST released begin to. -/
theorem Dev.imageApply_spec (d : Dev) :
    d.imageApply.boot.imaged = true ∧ d.imageApply.mem = d.mem ∧ d.imageApply.thr = d.thr ∧ d.imageApply.host.training = 255 ∧
      d.imageApply.host.perst = d.host.perst ∧
      ∀ h < 8, tabGet d.imageApply.life.host 0 h =
        if d.imageApply.mayTrain h = true then min (2 ^ 32 - 1) (tabGet d.life.host 0 h + 1) else tabGet d.life.host 0 h := by
  rw [Dev.imageApply_eq]
  obtain ⟨_, _, _, hstore⟩ := configOnly_storeImage d
  generalize d.storeImage = e at hstore ⊢
  obtain ⟨_, _, _, _, _, _, _, lh, hsel, hcount⟩ := (e.putInForce d.runRecords).foldl_barAndTrain_reselect
  have hlife : (e.putInForce d.runRecords).life = d.life := by rw [hstore]; rfl
  rw [hlife] at hcount
  rw [hsel]
  exact ⟨rfl, by rw [hstore]; rfl, by rw [hstore]; rfl, rfl, by rw [hstore]; rfl, hcount⟩

theorem exec_imageApply (s : State) : exec .imageApply s = execImageApply s := rfl

section
variable {s : State} {p : Dev → Prop}

theorem imageApply_first (hl : s.dev.live = true) (hi : s.dev.boot.imaged = false) (hp : p s.dev.imageApply) : Answers .imageApply s p := by
  refine answers_event (exec_imageApply s) hl ?_
  rw [if_neg (by simp [hi])]
  exact hp

theorem imageApply_again (hl : s.dev.live = true) (hi : s.dev.boot.imaged = true) (hp : p s.dev) : Answers .imageApply s p := by
  refine answers_event (exec_imageApply s) hl ?_
  rw [if_pos hi]
  exact hp

end

end Sys2Proof.Machine
end

section
/-! PROOFS. Firmware begins to serve (R209, R223 of 05_engines_and_keys.md, R452, R453, R462 of 13_startup_and_configuration.md): the persistent keys are reloaded from the key log, CFG_BOOT_STAT shows the service, and the image's records go on. -/
namespace Sys2Proof.Machine
open Sys2Proof

/-! ## Key slots (R204, R209) -/

/-- The registers that follow the key slots. -/
def keyRegs : List Reg := [.keyStat, .keyDateStat, .keyLogStat]

/-- Beside registers that follow the key slots, only the slots, the ceilings to be written and raised reports have moved. -/
def SlotsOnly (d d' : Dev) : Prop :=
  Keeps keyRegs d d' ∧ ∃ regs slots pend flt free,
    d' = { d with regs := regs, keys := { d.keys with slots := slots, ceilPend := pend }, flt := flt, free := free }

section
variable {a b c d d' : Dev}

theorem SlotsOnly.refl (d : Dev) : SlotsOnly d d := ⟨.refl _ d, _, _, _, _, _, rfl⟩

theorem SlotsOnly.trans (h : SlotsOnly a b) (h' : SlotsOnly b c) : SlotsOnly a c := by
  refine ⟨h.1.trans h'.1, ?_⟩
  obtain ⟨-, _, _, _, _, _, rfl⟩ := h
  obtain ⟨-, _, _, _, _, _, rfl⟩ := h'
  exact ⟨_, _, _, _, _, rfl⟩

theorem SlotsOnly.logBad (h : SlotsOnly d d') : d'.keys.logBad = d.keys.logBad := by obtain ⟨-, _, _, _, _, _, rfl⟩ := h; rfl

end

theorem Dev.keyCounts_eq (d : Dev) : ∃ v w, d.keyCounts = (d.setReg .keyStat 0 v).setReg .keyDateStat 0 w := by
  unfold Dev.keyCounts
  exact ⟨_, _, rfl⟩

theorem slotsOnly_keyCounts (d : Dev) : SlotsOnly d d.keyCounts := by
  obtain ⟨v, w, h⟩ := d.keyCounts_eq
  rw [h]
  exact ⟨(keeps_setReg d (r := .keyStat) (by decide) 0 v).trans (keeps_setReg _ (r := .keyDateStat) (by decide) 0 w), _, _, _, _, _, rfl⟩

theorem slotsOnly_setSlot (d : Dev) (n : Nat) (x : KeySlot) : SlotsOnly d (d.setSlot n x) :=
  .trans ⟨keeps_of_eq rfl rfl rfl, _, _, _, _, _, rfl⟩ (slotsOnly_keyCounts _)

theorem slotsOnly_raiseDev (d : Dev) (source isl detail : Nat) : SlotsOnly d (d.raiseDev source isl detail) :=
  ⟨keeps_of_eq rfl rfl rfl, _, _, _, _, _, rfl⟩

theorem Dev.slot_setSlot (d : Dev) (n : Nat) (x : KeySlot) : (d.setSlot n x).slot n = x :=
  tabGet_put_same d.keys.slots {} n x

/-- A counter that reaches its last 2^32 values is reported once. -/
def Dev.reportNear (d : Dev) (owner : Nat) (c : Bool) : Dev := if c then d.raiseFree 898 0 (some owner) else d

theorem Dev.reportNear_rest (d : Dev) (owner : Nat) (c : Bool) :
    SlotsOnly d (d.reportNear owner c) ∧ (d.reportNear owner c).keys = d.keys := by
  unfold Dev.reportNear
  split
  · exact ⟨⟨keeps_of_eq rfl rfl rfl, _, _, _, _, _, rfl⟩, rfl⟩
  · exact ⟨.refl d, rfl⟩

/-- A ceiling to be written to the key log. -/
def Dev.awaitCeiling (d : Dev) (n v : Nat) (c : Bool) : Dev :=
  if c then
    let e := { d with keys := { d.keys with ceilPend := tabIns n v d.keys.ceilPend } }
    e.setRf .keyLogStat 0 0 14 e.keys.ceilPend.length
  else d

theorem Dev.awaitCeiling_rest (d : Dev) (n v : Nat) (c : Bool) :
    SlotsOnly d (d.awaitCeiling n v c) ∧ (d.awaitCeiling n v c).keys.slots = d.keys.slots := by
  unfold Dev.awaitCeiling
  split
  · exact ⟨.trans ⟨keeps_of_eq rfl rfl rfl, _, _, _, _, _, rfl⟩ ⟨keeps_setRf _ (r := .keyLogStat) (by decide) _ _ _ _, _, _, _, _, _, rfl⟩, rfl⟩
  · exact ⟨.refl d, rfl⟩

/-- A slot's counter is written: the slot takes it, and nothing else of the slot that a record of the key log keeps. -/
theorem Dev.setInv_spec (d : Dev) (n v : Nat) :
    SlotsOnly d (d.setInv n v) ∧ ((d.setInv n v).slot n).state = (d.slot n).state ∧
      ((d.setInv n v).slot n).material = (d.slot n).material ∧ ((d.setInv n v).slot n).inv = v := by
  obtain ⟨x, near, c, ceil, hd, hx⟩ : ∃ x near c ceil, d.setInv n v = (((d.setSlot n x).reportNear (d.slot n).owner near).awaitCeiling n ceil c) ∧
      x.state = (d.slot n).state ∧ x.material = (d.slot n).material ∧ x.inv = v := ⟨_, _, _, _, rfl, rfl, rfl, rfl⟩
  obtain ⟨hnear, hkeys⟩ := (d.setSlot n x).reportNear_rest (d.slot n).owner near
  obtain ⟨hceil, hslots⟩ := ((d.setSlot n x).reportNear (d.slot n).owner near).awaitCeiling_rest n ceil c
  have hslot : (d.setInv n v).slot n = x := by
    rw [hd, Dev.slot, hslots, hkeys]
    exact d.slot_setSlot n x
  rw [hslot]
  exact ⟨hd ▸ (slotsOnly_setSlot d n x).trans (hnear.trans hceil), hx⟩

/-! ## The keys are reloaded (R209, R223) -/

/-- One record of the key log is reloaded. -/
def Dev.reloadKey (d : Dev) (e : Nat × KeySlot) : Dev :=
  if d.keys.logBad.contains e.1 then d.raiseDev 899 0 e.1
  else
    let d := d.setSlot e.1 { e.2 with state := 1, near := false }
    if modeCounts e.2.mode then d.setInv e.1 e.2.ceiling else d

theorem Dev.reloadKeys_eq (d : Dev) (h : d.smemOk = true) : d.reloadKeys = d.keys.log.foldl Dev.reloadKey d.keyCounts := by
  rw [Dev.reloadKeys, h]
  rfl

theorem slotsOnly_reloadKey (d : Dev) (e : Nat × KeySlot) : SlotsOnly d (d.reloadKey e) := by
  unfold Dev.reloadKey
  split
  · exact slotsOnly_raiseDev d _ _ _
  · refine (slotsOnly_setSlot d e.1 { e.2 with state := 1, near := false }).trans ?_
    dsimp only
    split
    · exact (Dev.setInv_spec _ _ _).1
    · exact .refl _

theorem slotsOnly_reloadKeys (d : Dev) : SlotsOnly d d.reloadKeys := by
  by_cases h : d.smemOk = true
  · rw [d.reloadKeys_eq h]
    exact (slotsOnly_keyCounts d).trans (foldl_related .refl .trans slotsOnly_reloadKey _ _)
  · have hnone : d.reloadKeys = d := if_pos (by simpa using h)
    rw [hnone]
    exact .refl d

/-- A slot as its record in the key log gives it, with its counter at the durable ceiling. -/
def Reloaded (x k : KeySlot) : Prop := x.state = 1 ∧ x.material = k.material ∧ (modeCounts k.mode = true → x.inv = k.ceiling)

theorem reloaded_reloadKey (d : Dev) (n : Nat) (k : KeySlot) (h : n ∉ d.keys.logBad) : Reloaded ((d.reloadKey (n, k)).slot n) k := by
  have hbad : ¬ d.keys.logBad.contains n = true := by simpa using h
  have hset := d.slot_setSlot n { k with state := 1, near := false }
  unfold Dev.reloadKey
  dsimp only
  rw [if_neg hbad]
  split
  next hcounts =>
    obtain ⟨-, hstate, hmaterial, hinv⟩ := (d.setSlot n { k with state := 1, near := false }).setInv_spec n k.ceiling
    rw [hset] at hstate hmaterial
    exact ⟨hstate, hmaterial, fun _ => hinv⟩
  next hcounts =>
    rw [hset]
    exact ⟨rfl, rfl, fun hm => absurd hm hcounts⟩

/-- R209: the slot of the key log's last record is reloaded from it. -/
theorem reloaded_reloadKeys (d : Dev) {pre : List (Nat × KeySlot)} {n : Nat} {k : KeySlot} (hok : d.smemOk = true)
    (hlog : d.keys.log = pre ++ [(n, k)]) (hn : n ∉ d.keys.logBad) : Reloaded (d.reloadKeys.slot n) k := by
  rw [d.reloadKeys_eq hok, hlog, List.foldl_append]
  refine reloaded_reloadKey _ n k ?_
  have hrest : SlotsOnly d (pre.foldl Dev.reloadKey d.keyCounts) :=
    (slotsOnly_keyCounts d).trans (foldl_related .refl .trans slotsOnly_reloadKey _ _)
  rwa [hrest.logBad]

/-! ## The faces of mailboxes (R353, R359) -/

/-- Only the memory has moved. -/
def MemoryOnly (d d' : Dev) : Prop := ∃ mem, d' = { d with mem := mem }

theorem MemoryOnly.refl (d : Dev) : MemoryOnly d d := ⟨_, rfl⟩

theorem MemoryOnly.trans {a b c : Dev} (h : MemoryOnly a b) (h' : MemoryOnly b c) : MemoryOnly a c := by
  obtain ⟨_, rfl⟩ := h
  obtain ⟨_, rfl⟩ := h'
  exact ⟨_, rfl⟩

theorem memoryOnly_writeDup (d : Dev) (p a : Nat) (bs : List Byte) : MemoryOnly d (d.writeDup p a bs) := by
  unfold Dev.writeDup
  dsimp only
  split <;> exact ⟨_, rfl⟩

theorem memoryOnly_faceShow (d : Dev) (m : Nat) : MemoryOnly d (d.faceShow m) := by
  unfold Dev.faceShow
  split
  · exact .refl d
  · refine .trans ?_ (memoryOnly_writeDup _ _ _ _)
    split
    · exact (memoryOnly_writeDup d _ _ _).trans (memoryOnly_writeDup _ _ _ _)
    · exact .refl d

theorem memoryOnly_showFaces (d : Dev) : MemoryOnly d d.showFaces := foldl_related .refl .trans memoryOnly_faceShow _ d

/-! ## Firmware serves (R452, R453, R462) -/

/-- Firmware serves commands, and CFG_BOOT_STAT shows the milliseconds that start-up took. -/
def Dev.serve (d : Dev) : Dev :=
  let e := { d with fw := { d.fw with serving := true }, boot := { d.boot with servedAt := some d.time.tick } }.setPhase
  e.setRf .cfgBootStat 0 16 16 (Nat.min 65535 ((e.time.tick - e.boot.began) / 250000))

theorem Dev.serve_rest (d : Dev) : ∃ regs, d.serve =
    { d with regs := regs, fw := { d.fw with serving := true }, boot := { d.boot with servedAt := some d.time.tick } } := ⟨_, rfl⟩

theorem Dev.serve_rf (d : Dev) : d.serve.rf .cfgBootStat 0 16 16 = min 65535 ((d.time.tick - d.boot.began) / 250000) := by
  unfold Dev.serve
  dsimp only
  rw [Dev.rf_setRf_same _ _ _ _ _ _ (by decide)]
  exact Nat.mod_eq_of_lt (Nat.lt_of_le_of_lt (Nat.min_le_left _ _) (by decide))

/-- Without waiting records, the image's records are done: the boot report is logged, and start-up goes on only where DDR is still to be zeroed. -/
def Dev.endObjs (d : Dev) : Dev :=
  let e := { d with fw := { d.fw with imgObjs := [] } }.bootReport true
  e.setRb .cfgBootStat 0 4 (!e.boot.ddrZeroed)

theorem Dev.goObjs_nil (d : Dev) (h : d.fw.imgObjs = []) : d.goObjs = d.endObjs := by
  have hreport := (recordsIn_bootReport { d with fw := { d.fw with imgObjs := [] } } true).imgObjs
  unfold Dev.goObjs Dev.endObjs
  rw [h]
  unfold Dev.runObjs
  dsimp only
  rw [List.isEmpty_nil, if_pos rfl, hreport, List.isEmpty_nil, Bool.and_true]

theorem Dev.endObjs_spec (d : Dev) :
    d.endObjs.fw.serving = d.fw.serving ∧ d.endObjs.boot = d.boot ∧ d.endObjs.keys = d.keys ∧ d.endObjs.thr = d.thr ∧
      d.endObjs.rf .cfgBootStat 0 16 16 = d.rf .cfgBootStat 0 16 16 ∧ d.endObjs.rb .cfgBootStat 0 4 = !d.boot.ddrZeroed := by
  have hreport := recordsIn_bootReport { d with fw := { d.fw with imgObjs := [] } } true
  unfold Dev.endObjs
  dsimp only
  generalize { d with fw := { d.fw with imgObjs := [] } }.bootReport true = e at hreport ⊢
  refine ⟨hreport.serving, hreport.boot, hreport.keys, hreport.keeps.2.2, ?_, ?_⟩
  · rw [Dev.rf_setRb_ne _ _ _ _ _ _ _ (by decide), hreport.keeps.rf (by decide)]
    rfl
  · rw [Dev.rb_setRb_same _ _ _ _ _ (by decide), hreport.boot]

/-- What firmware does before it serves: the keys are reloaded, the lifetime counters restored and the logs erased ahead. -/
def Dev.prepare (d : Dev) : Dev := (d.reloadKeys.auxRestore).eraseAhead

theorem Dev.prepare_rest (d : Dev) :
    d.prepare.boot = d.boot ∧ d.prepare.time = d.time ∧ d.prepare.keys = d.reloadKeys.keys ∧ d.prepare.thr = d.thr ∧ d.prepare.fw.imgObjs = d.fw.imgObjs := by
  have hkept := (recordsIn_auxRestore d.reloadKeys).mono (rs' := ckptRegs) (by decide) |>.trans ((recordsIn_eraseAhead _).mono (by decide))
  change RecordsIn ckptRegs d.reloadKeys d.prepare at hkept
  obtain ⟨hkeeps, _, _, _, _, _, hslots⟩ := slotsOnly_reloadKeys d
  refine ⟨?_, ?_, hkept.keys, hkept.keeps.2.2.trans hkeeps.2.2, ?_⟩
  · rw [hkept.boot, hslots]
  · rw [hkept.time, hslots]
  · rw [hkept.imgObjs, hslots]

/-- The device once firmware serves, the image holding no records of objects. -/
def Dev.served (d : Dev) : Dev := d.prepare.serve.endObjs.showFaces

theorem Dev.served_spec (d : Dev) :
    d.served.fw.serving = true ∧ d.served.boot.servedAt = some d.time.tick ∧
      d.served.rf .cfgBootStat 0 16 16 = min 65535 ((d.time.tick - d.boot.began) / 250000) ∧
      d.served.rb .cfgBootStat 0 4 = !d.boot.ddrZeroed ∧ d.served.thr = d.thr ∧ d.served.keys = d.reloadKeys.keys := by
  obtain ⟨hboot, htime, hkeys, hthr, -⟩ := d.prepare_rest
  obtain ⟨_, hserve⟩ := d.prepare.serve_rest
  obtain ⟨eserving, eboot, ekeys, ethr, erf, erb⟩ := d.prepare.serve.endObjs_spec
  obtain ⟨_, hfaces⟩ := memoryOnly_showFaces d.prepare.serve.endObjs
  have hrf := d.prepare.serve_rf
  rw [htime, hboot] at hrf
  unfold Dev.served
  rw [hfaces]
  refine ⟨?_, ?_, erf.trans hrf, erb.trans ?_, ?_, ?_⟩
  · exact eserving.trans (by rw [hserve])
  · exact (congrArg Boot.servedAt eboot).trans (by rw [hserve, htime])
  · rw [hserve, hboot]
  · exact ethr.trans ((by rw [hserve] : d.prepare.serve.thr = d.prepare.thr).trans hthr)
  · exact ekeys.trans ((by rw [hserve] : d.prepare.serve.keys = d.prepare.keys).trans hkeys)

theorem exec_firmwareReady (s : State) : exec .firmwareReady s = execFirmwareReady s := rfl

theorem firmwareReady_begins {s : State} {p : Dev → Prop} (hl : s.dev.live = true) (hi : s.dev.boot.imaged = true)
    (hs : s.dev.fw.serving = false) (ho : s.dev.fw.imgObjs = []) (hp : p s.dev.served) : Answers .firmwareReady s p := by
  have hnil : s.dev.prepare.serve.fw.imgObjs = [] := by
    obtain ⟨-, -, -, -, hobjs⟩ := s.dev.prepare_rest
    obtain ⟨_, hserve⟩ := s.dev.prepare.serve_rest
    rw [hserve]
    exact hobjs.trans ho
  refine answers_event (exec_firmwareReady s) hl ?_
  rw [if_neg (by simp [hi, hs])]
  change p s.dev.prepare.serve.goObjs.showFaces
  rw [Dev.goObjs_nil _ hnil]
  exact hp

end Sys2Proof.Machine
end

section
/-! PROOFS. Resets, start-up, the image and the supply warning act as stated: the events of 13_startup_and_configuration.md together. -/
namespace Sys2Proof.Machine
open Sys2Proof

/-! ## Power-on and device reset (R46, R452, R471, R476 to R478) -/

/-- Start-up has begun, or a pin holds it: beside its own registers, what a power-on or a reset leaves is as it was. -/
def StartsFrom (d e : Dev) : Prop :=
  Keeps bootRegs d e ∧ e.time = d.time ∧ e.board = d.board ∧ e.life.vin = d.life.vin ∧ e.life.resets = d.life.resets ∧ e.boot.rstN = d.boot.rstN

theorem startsFrom_bootBegin (d : Dev) : StartsFrom d d.bootBegin ∧ d.bootBegin.boot.began = d.time.tick := by
  obtain ⟨hkeeps, ⟨_, _, _, _, _, _, _, hrest⟩, -, -⟩ := d.bootBegin_spec
  rw [hrest] at hkeeps ⊢
  exact ⟨⟨hkeeps, rfl, rfl, rfl, rfl, rfl⟩, rfl⟩

/-- The device after VIN has risen: start-up begins unless DEV_RST_N is held. -/
def Dev.powerUp (d : Dev) : Dev := if d.poweredOn.boot.rstN then d.poweredOn else d.poweredOn.bootBegin

theorem Dev.startsFrom_powerUp (d : Dev) : StartsFrom d.poweredOn d.powerUp := by
  unfold Dev.powerUp
  split
  · exact ⟨.refl _ _, rfl, rfl, rfl, rfl, rfl⟩
  · exact (startsFrom_bootBegin _).1

/-- R476: VIN is present, the reset is counted and its cause left; memory, threads and the board are as they were. -/
theorem Dev.powerUp_spec (d : Dev) :
    d.powerUp.life.vin = true ∧ tabGet d.powerUp.life.resets 0 0 = min (2 ^ 32 - 1) (tabGet d.life.resets 0 0 + 1) ∧
      d.powerUp.mem = d.mem ∧ d.powerUp.thr = d.thr ∧ d.powerUp.board = d.board ∧
      d.powerUp.rf .cfgRstCause 0 0 3 = b2n (!d.life.lost && d.life.vaux) ∧ d.powerUp.rb .cfgRstCause 0 3 = (!d.life.lost && d.life.vaux) ∧
      d.powerUp.rb .cfgRstCause 0 4 = d.life.wasSafe := by
  obtain ⟨hkeeps, -, hboard, hvin, hresets, -⟩ := d.startsFrom_powerUp
  obtain ⟨⟨_, _, hrest, -, -⟩, hcause, haux, hsafe, -⟩ := d.poweredOn_spec
  refine ⟨?_, ?_, ?_, ?_, ?_, ?_, ?_, ?_⟩
  · rw [hvin, hrest]; rfl
  · rw [hresets, hrest]
    exact Dev.tabGet_lifeReset _ 0
  · rw [hkeeps.2.1, hrest]
  · rw [hkeeps.2.2, hrest]
  · rw [hboard, hrest]
  · rw [hkeeps.rf (by decide), hcause]
  · rw [hkeeps.rb (by decide), haux]
  · rw [hkeeps.rb (by decide), hsafe]

/-- Device time after VIN has risen is the time that is loaded. -/
theorem Dev.powerUp_time (d : Dev) :
    d.powerUp.time.now = d.supplied.resumeTime.time.now ∧
      ∀ i, i ≠ 2 → d.powerUp.rb .timeStatus 0 i = d.supplied.resumeTime.rb .timeStatus 0 i := by
  obtain ⟨hkeeps, htime, -⟩ := d.startsFrom_powerUp
  obtain ⟨⟨_, _, hrest, -, hnow⟩, -, -, -, hstatus⟩ := d.poweredOn_spec
  refine ⟨?_, fun i hi => ?_⟩
  · rw [htime, hrest]
    exact hnow
  · rw [hkeeps.rb (by decide), hstatus i hi]

/-- R46: device time goes on from the always-on time where the always-on domain has kept it. -/
theorem Dev.powerUp_ran (d : Dev) (hl : d.life.lost = false) (hv : d.life.vaux = true) (hr : d.life.auxRan = true) :
    d.powerUp.time.now = (d.life.auxTime / 65536 + (d.time.tick - d.life.auxTick) * 4) / 1000 * 1000 * 65536 ∧
      d.powerUp.rb .timeStatus 0 0 = d.life.auxCal := by
  obtain ⟨hnow, hstatus⟩ := d.powerUp_time
  obtain ⟨hran, hcal⟩ := d.supplied.resumeTime_ran hl hv hr
  rw [hnow, hstatus 0 (by decide)]
  exact ⟨hran, hcal⟩

theorem Dev.supplied_hwmSaved (d : Dev) : d.supplied.hwmSaved = d.hwmSaved := rfl

/-- R46, R47: otherwise it starts at the greatest second recorded. -/
theorem Dev.powerUp_recorded (d : Dev) (h : d.life.lost = true ∨ d.life.vaux = false ∨ d.life.auxRan = false) :
    d.powerUp.time.now = d.hwmSaved * 1000000000 * 65536 ∧ d.powerUp.rb .timeStatus 0 1 = true := by
  obtain ⟨hnow, hstatus⟩ := d.powerUp_time
  obtain ⟨hrecorded, hstep⟩ := d.supplied.resumeTime_recorded h
  rw [d.supplied_hwmSaved, nsPerSec] at hrecorded
  rw [hnow, hstatus 1 (by decide)]
  exact ⟨hrecorded, hstep⟩

/-- R452: start-up begins at the tick of the power-on where DEV_RST_N is released. -/
theorem Dev.powerUp_starts (d : Dev) (h : d.boot.rstN = false) :
    d.powerUp.rb .cfgBootStat 0 4 = true ∧ d.powerUp.boot.began = d.time.tick ∧ d.powerUp.rf .cfgBootStat 0 0 2 = d.powerUp.boot.image := by
  obtain ⟨⟨_, _, hrest, htick, -⟩, -⟩ := d.poweredOn_spec
  have hrst : d.poweredOn.boot.rstN = false := by rw [hrest]; exact h
  have hboot : d.powerUp = d.poweredOn.bootBegin := by
    unfold Dev.powerUp
    rw [hrst]
    exact if_neg Bool.false_ne_true
  obtain ⟨-, -, hbusy, himage⟩ := d.poweredOn.bootBegin_spec
  obtain ⟨-, hbegan⟩ := startsFrom_bootBegin d.poweredOn
  rw [hboot]
  refine ⟨hbusy, hbegan.trans ?_, himage⟩
  rw [hrest]
  exact htick

/-- R452, R477: start-up begins as DEV_RST_N is released. -/
theorem Dev.release_spec (d : Dev) {e : Dev} (he : e = { d with boot := { d.boot with rstN := false } }) :
    e.bootBegin.boot.rstN = false ∧ e.bootBegin.rb .cfgBootStat 0 4 = true ∧ e.bootBegin.boot.began = d.time.tick ∧
      Keeps [.cfgTrial, .cfgBootStat, .cfgBootGen] d e.bootBegin := by
  obtain ⟨⟨hkeeps, -, -, -, -, hrst⟩, hbegan⟩ := startsFrom_bootBegin e
  obtain ⟨-, -, hbusy, -⟩ := e.bootBegin_spec
  have hsame : Keeps bootRegs d e := by rw [he]; exact keeps_of_eq rfl rfl rfl
  refine ⟨hrst.trans ?_, hbusy, hbegan.trans ?_, hsame.trans hkeeps⟩
  · rw [he]
  · rw [he]

/-- A device reset by PERST, and the start-up after it (R471, R478). -/
theorem Dev.devReset_bootBegin_spec (d : Dev) (hr : d.boot.rstN = false) (hs : d.safe = true) :
    (d.devReset 3).bootBegin.boot.rstN = false ∧ (d.devReset 3).bootBegin.safe = false ∧ (d.devReset 3).bootBegin.rf .cfgRstCause 0 0 3 = 3 ∧
      (d.devReset 3).bootBegin.rb .cfgRstCause 0 4 = true ∧ (d.devReset 3).bootBegin.mem = [] ∧ (d.devReset 3).bootBegin.thr = [] ∧
      (d.devReset 3).bootBegin.rb .cfgBootStat 0 4 = true ∧ ∀ r k, r ∈ drKeeps → (d.devReset 3).bootBegin.reg r k = d.reg r k := by
  obtain ⟨hrst, hmem, hthr, -⟩ := d.devReset_rest 3
  obtain ⟨hsafe, hkept, -, hcause, hwas⟩ := d.devReset_regs (cause := 3) (by decide)
  obtain ⟨⟨hkeeps, -, -, -, -, hrst'⟩, -⟩ := startsFrom_bootBegin (d.devReset 3)
  obtain ⟨-, -, hbusy, -⟩ := (d.devReset 3).bootBegin_spec
  have hapart : ∀ r ∈ drKeeps, r ∉ bootRegs := by decide
  refine ⟨hrst'.trans (hrst.trans hr), (hkeeps.rb (by decide) 0 2).trans hsafe, (hkeeps.rf (by decide) 0 0 3).trans hcause,
    (hkeeps.rb (by decide) 0 4).trans (hwas.trans hs), hkeeps.2.1.trans hmem, hkeeps.2.2.trans hthr, hbusy, fun r k hr => ?_⟩
  rw [hkeeps.reg (hapart r hr), hkept r k hr]

/-! ## The statement -/

/-- Settles O54: each event is one function of the device, and the statement's clause about it is that function's lemma. -/
theorem startUpAndSupply : Obligations.StartUpAndSupply := by
  unfold Obligations.StartUpAndSupply
  intro s
  refine ⟨fun hv => ?powerOn, fun hv hn => auxReset_unpowered hv hn s.dev.auxUp_spec, fun hv => ?vauxLost, fun hv => vauxLost_down hv rfl,
    fun hr hv => ?pin, fun hw hs hc hm => ?perst, fun h => deviceReset_perst_off h rfl, fun hr hv => ?release,
    fun hv => brownOut_up hv s.dev.brownOut_spec, fun hl hi => ?image, fun hl hi => imageApply_again hl hi rfl, fun hl hi hs ho => ?serves,
    fun hl hs hz => ⟨fun ho hr => ?zeroed, fun h d hr ho hd => ?partCreate⟩,
    fun t hl hs => ⟨fun ht hi => trialClear_due hl hs ht hi (s.dev.clearTrial_spec hi), fun ht => trialClear_early hl hs ht rfl⟩,
    supplyWarn_at_release, supplyWarn_later,
    fun t hw => ⟨fun ht hs => supplySag_due hw ht hs s.dev.enterSag_spec, supplySag_early hw, supplyWarnEnd_of_warning hw (s.dev.leaveWarning_spec t)⟩,
    supply_no_warning⟩
  case powerOn =>
    refine powerOnReset_rises hv ?_
    obtain ⟨hvin, hresets, hmem, hthr, hboard, hcause, haux, hsafe⟩ := s.dev.powerUp_spec
    exact ⟨hvin, hresets, hmem, hthr, hboard, hcause, haux, hsafe, s.dev.powerUp_ran, s.dev.powerUp_recorded, s.dev.powerUp_starts⟩
  case vauxLost => exact vauxLost_up hv ⟨rfl, rfl, rfl, rfl, rfl, rfl, rfl, keeps_of_eq rfl rfl rfl, rfl, rfl⟩
  case pin =>
    refine deviceReset_pin hr hv ?_
    have hrest := s.dev.devReset_rest 2
    have hregs := s.dev.devReset_regs (cause := 2) (by decide)
    generalize s.dev.devReset 2 = e at hrest hregs ⊢
    obtain ⟨-, hmem, hthr, hslots, hlog, hboard, hnow, htick, hsnap, hcount⟩ := hrest
    obtain ⟨hsafe, hkept, hreset, hcause, hwas⟩ := hregs
    exact ⟨rfl, hcount, hmem, hthr, hslots, hlog, hboard, hnow, htick, hsnap, hsafe, hkept, hreset, hcause, hwas⟩
  case perst =>
    have hr : s.dev.boot.rstN = false := by
      have h := hw
      simp only [Dev.powered, Bool.and_eq_true, Bool.not_eq_true'] at h
      exact h.2
    exact deviceReset_perst hw hs hc hm (s.dev.devReset_bootBegin_spec hr hs)
  case release => exact devRstNRelease_starts hr hv (s.dev.release_spec rfl)
  case image =>
    obtain ⟨himaged, hmem, hthr, htraining, hperst, hcount⟩ := s.dev.imageApply_spec
    refine imageApply_first hl hi ⟨himaged, hmem, hthr, htraining, fun h hh => ⟨fun hx => ?_, fun hx => ?_⟩⟩
    · rw [hcount h hh, if_pos (by simp [Dev.mayTrain, hperst, hx])]
    · rw [hcount h hh, if_neg (by rcases hx with hx | hx <;> simp [Dev.mayTrain, hperst, hx])]
  case serves =>
    obtain ⟨hserving, hat, hms, hbusy, hthr, hkeys⟩ := s.dev.served_spec
    refine firmwareReady_begins hl hi hs ho ⟨hserving, hat, hms, hbusy, hthr, fun pre n k hok hlog hn => ?_⟩
    rw [Dev.slot, hkeys]
    exact reloaded_reloadKeys s.dev hok hlog hn
  case zeroed => exact ⟨_, ddrZeroDone_idle hl hs hz ho hr, rfl, s.dev.ddrReady_spec⟩
  case partCreate =>
    subst hd
    exact ddrZeroDone_partCreate hl hs hz ho hr

end Sys2Proof.Machine
end

section
/-! PROOFS. What every command leaves of the queue. -/
namespace Sys2Proof.Machine
open Sys2Proof

/-! ## The queue of commands -/

/-- The two forms of what a command answers: an instruction is offered to its thread, or an event changes the device and no bundle stays open. -/
inductive Shape (s : State) : Out → Prop
  | issued (i : Issue) (legal : Bool) (cost : Nat) (port : Bool) (dest : Nat) (uses : List (BitVec 5)) (act : Thread → Dev → Dev → Act) :
      Shape s (issue i legal cost port dest uses act s)
  | closed (d : Dev) : Shape s (.next { s with bundle := none, dev := d })

/-- Either form leaves the commands that wait as they are. -/
theorem Shape.pending {s t : State} {o : Out} (h : Shape s o) (ho : o = .next t) : t.pending = s.pending := by
  cases h with
  | issued => exact (issue_next ho).1
  | closed => cases ho; rfl

/-- A command that the partner forwards answers as an event (R425). -/
theorem forwardExecute_shape (opcode : Nat) (h : CmdHdr) (save : List Byte) (s : State) : Shape s (forwardExecute opcode h save s) := by
  unfold forwardExecute
  dsimp only
  split
  all_goals exact .closed _

/-- Every command answers in one of the two forms. -/
theorem exec_shape (c : Instr) (s : State) : Shape s (exec c s) := by
  cases c
  case ddrZeroDone =>
    unfold exec execDdrZeroDone
    dsimp only
    repeat' split
    all_goals exact .closed _
  case forwardedCommand f =>
    cases f with
    | answer st => exact .closed _
    | execute opcode h save =>
      unfold exec execForwardedCommand
      dsimp only
      split
      · exact forwardExecute_shape ..
      · exact .closed _
  case add | sub | and | or | xor | andn | shl | shr | sar | min | max | minu | maxu | addi | andi | ori | xori | shli | shri | sari | movi | movsh |
      mul | mulhu | mulhs | bfx | bfxs | bfi | bfxw | cmp | cmpi | plog | br | call | jr | ld | st | atomAdd | atomSwap | atomCas | lkacq | lkrel |
      fence | tnow | tnowh | tadd | twait | tset | tclr | waitev | sigevT | sigevG | pktGet | pktSend | pktDrop | wst | lkx | lkw | crc32c | crc64 |
      hash | submit | accpoll | dclaim | dwr | dstart | drel | dpoll | cinc | snap | mfsr | mtsr | tstart => exact .issued ..
  all_goals exact .closed _

/-- Settles O57: a command leaves the queue as it finds it, and it finds the queue's rest. -/
theorem commandQueueIsFirstInFirstOut : Obligations.CommandQueueIsFirstInFirstOut := by
  unfold Obligations.CommandQueueIsFirstInFirstOut
  intro s t h
  cases hq : s.pending with
  | nil =>
    rw [step_idle hq] at h
    cases h
    exact hq
  | cons c rest =>
    rw [step_front s c rest hq] at h
    exact (exec_shape c _).pending h

/-- Settles O1, at a queue with the command at its front. -/
theorem stepExecutesFrontCommand : Obligations.StepExecutesFrontCommand := by
  unfold Obligations.StepExecutesFrontCommand
  intro c s
  exact step_front _ c s.pending rfl

end Sys2Proof.Machine
end

section
/-! PROOFS. The state after reset, and a tick of the machine (R3 of 00_scope.md, R21 of 01_islands_and_time.md, R47, R50, R57, R205, R321, R452). -/
namespace Sys2Proof.Machine
open Sys2Proof

/-! ## What an operation of a tick leaves alone -/

/-- Device time, the records of the supply and the register TIME_ADDEND are as they were. -/
def SameClock (d d' : Dev) : Prop := d'.time = d.time ∧ d'.life = d.life ∧ ∀ k, d'.reg .timeAddend k = d.reg .timeAddend k

theorem SameClock.refl (d : Dev) : SameClock d d := ⟨rfl, rfl, fun _ => rfl⟩

theorem SameClock.trans {a b c : Dev} (h : SameClock a b) (h' : SameClock b c) : SameClock a c :=
  ⟨h'.1.trans h.1, h'.2.1.trans h.2.1, fun k => (h'.2.2 k).trans (h.2.2 k)⟩

/-- What leaves time, the supply's records and every register alone leaves the clock alone. -/
theorem SameClock.of_eq {d d' : Dev} (ht : d'.time = d.time) (hl : d'.life = d.life) (hr : d'.regs = d.regs) : SameClock d d' :=
  ⟨ht, hl, fun k => by simp only [Dev.reg, hr]⟩

theorem sameClock_setReg (d : Dev) {r : Reg} (h : r ≠ .timeAddend) (i : Nat) (v : Word) : SameClock d (d.setReg r i v) :=
  ⟨rfl, rfl, fun _ => d.reg_setReg_ne v (.inl h.symm)⟩

theorem sameClock_foldl {α : Type} {f : Dev → α → Dev} (h : ∀ d a, SameClock d (f d a)) (l : List α) (d : Dev) : SameClock d (l.foldl f d) :=
  foldl_related SameClock.refl (fun h h' => h.trans h') h l d

theorem sameClock_wakeLink (d : Dev) (h : Nat) : SameClock d (d.wakeLink h) := by
  unfold Dev.wakeLink
  split
  · exact sameClock_setReg d (by decide) _ _
  · exact .refl d

theorem sameClock_hostWrite (d : Dev) (h f : Nat) (pasid : Word) (addr : Nat) (bs : List Byte) : SameClock d (d.hostWrite h f pasid addr bs) := by
  unfold Dev.hostWrite
  split
  · exact .of_eq rfl rfl rfl
  · exact .trans (.of_eq rfl rfl rfl) (sameClock_wakeLink _ h)

theorem sameClock_deliver (d : Dev) (tid : Nat) (o : StoreOp) : SameClock d (d.deliver tid o).1 := by
  unfold Dev.deliver
  split
  · exact .refl d
  · split
    · exact .refl d
    · exact .of_eq rfl rfl rfl
  · dsimp only
    repeat' split
    all_goals first
      | exact SameClock.refl d
      | exact SameClock.of_eq rfl rfl rfl
      | exact SameClock.trans (sameClock_hostWrite ..) (.of_eq rfl rfl rfl)

theorem sameClock_drainOne (d : Dev) (tid : Nat) : SameClock d (d.drainOne tid) := by
  unfold Dev.drainOne
  split
  · exact .refl d
  · next o _ _ =>
    split_ifs
    · exact .refl d
    · exact (sameClock_deliver d tid o).trans (.of_eq rfl rfl rfl)

theorem sameClock_creditTick (d : Dev) : SameClock d d.creditTick := by
  refine sameClock_foldl (fun d k => ?_) _ d
  have hne : ∀ c ∈ creditOf, c.2.1 ≠ Reg.timeAddend := by decide
  have step : ∀ c ∈ creditOf, ∀ d : Dev, SameClock d (if d.rf c.1 k 0 9 = 0 then d else
      d.setReg c.2.1 k (BitVec.ofNat 64 ((min (signed32 (d.rf c.2.1 k 0 32) + creditStep (d.rf c.1 k 0 9) c.2.2 d.time.tick)
        (creditCap (d.rf c.1 k 0 9) c.2.2)) % 2 ^ 32).toNat)) := by
    intro c hc d
    split
    · exact .refl d
    · exact sameClock_setReg d (hne c hc) _ _
  simp only [creditOf, List.forall_mem_cons, List.foldl_cons, List.foldl_nil] at step ⊢
  obtain ⟨h1, h2, h3, h4, -⟩ := step
  exact (((h1 _).trans (h2 _)).trans (h3 _)).trans (h4 _)

theorem sameClock_quietEval (d : Dev) (p : Nat) : SameClock d (d.quietEval p) := by
  unfold Dev.quietEval
  dsimp only
  repeat' split
  all_goals exact .of_eq rfl rfl rfl

theorem sameClock_countIf (d : Dev) (c : Prop) [Decidable c] (e : Nat) : SameClock d (if c then d.count e else d) := by
  split
  · exact .of_eq rfl rfl rfl
  · exact .refl d

theorem sameClock_countTick (d : Dev) : SameClock d d.countTick :=
  ((sameClock_foldl (fun d _ => sameClock_countIf d _ _) _ _).trans (sameClock_foldl (fun d _ => sameClock_countIf d _ _) _ _)).trans
    (sameClock_foldl (fun d _ => sameClock_countIf d _ _) _ _)

/-- Whatever the running device does in a tick, its clock is left to the tick's end. -/
theorem sameClock_running (d : Dev) : SameClock d d.creditTick.drainStores.holdTick.quietTick.countTick := by
  have drain : ∀ d : Dev, SameClock d d.drainStores := fun d => sameClock_foldl (fun d t => sameClock_drainOne d t) _ d
  have hold : ∀ d : Dev, SameClock d d.holdTick := fun d => sameClock_foldl (fun d _ => sameClock_countIf d _ _) _ d
  have quiet : ∀ d : Dev, SameClock d d.quietTick := fun d => sameClock_foldl (fun d p => by
    split
    · exact sameClock_quietEval d p
    · exact .refl d) _ d
  exact ((((sameClock_creditTick d).trans (drain _)).trans (hold _)).trans (quiet _)).trans (sameClock_countTick _)

/-! ## One tick -/

/-- The device that a tick's end finds. -/
def Dev.ticking (d : Dev) : Dev := if d.live then d.creditTick.drainStores.holdTick.quietTick.countTick else d

theorem sameClock_ticking (d : Dev) : SameClock d d.ticking := by
  unfold Dev.ticking
  split
  · exact sameClock_running d
  · exact .refl d

/-- A tick moves device time by TIME_ADDEND while VIN is present, and counts itself (R3, R21). -/
theorem Dev.tick_eq (d : Dev) : d.tick = { d.ticking with time :=
    { d.time with now := d.time.now + (if d.life.vin = true then d.rf .timeAddend 0 0 32 else 0), tick := d.time.tick + 1 } } := by
  obtain ⟨ht, hl, hr⟩ := sameClock_ticking d
  have hrf : d.ticking.rf .timeAddend 0 0 32 = d.rf .timeAddend 0 0 32 := by rw [Dev.rf, hr, ← Dev.rf]
  show ({ d.ticking with time := { d.ticking.time with
    now := if d.ticking.life.vin then d.ticking.time.now + d.ticking.rf .timeAddend 0 0 32 else d.ticking.time.now
    tick := d.ticking.time.tick + 1 } } : Dev) = _
  rw [ht, hl, hrf]
  split <;> simp

/-- Settles O60: the reset state lists no register, byte, thread, slot or partition, and every look-up in it finds the default; a tick's clock is `Dev.tick_eq`. -/
theorem resetLeavesTheStatedStateAndTicksPass : Obligations.ResetLeavesTheStatedStateAndTicksPass := by
  unfold Obligations.ResetLeavesTheStatedStateAndTicksPass
  refine ⟨fun _ _ => rfl, rfl, rfl, rfl, fun _ => rfl, fun _ => rfl, fun _ => ?_, fun _ => ?_, fun _ => rfl, rfl, rfl, ?_, ?_, ?_⟩
  · have hreg : ∀ k, State.reset.dev.reg .coreCfg k = 0 := fun _ => rfl
    simp [Dev.partOf, Dev.partOfCore, Dev.rb, hreg, wbit]
  · have hreg : ∀ k, State.reset.dev.reg .ptnState k = 0 := fun _ => rfl
    simp [Dev.partState, Dev.rf, hreg, wf, fld]
  · intro b hb; cases hb
  · exact ⟨State.reset_mem_wf, fun b hb => by cases hb⟩
  · intro s hq
    refine ⟨tickStep s, step_idle hq, hq, rfl, ?_, ?_, fun hl => ?_⟩
    · show s.dev.tick.time.tick = _
      rw [Dev.tick_eq]
    · show s.dev.tick.time.now = _
      rw [Dev.tick_eq]
    · have hd : s.dev.ticking = s.dev := by simp [Dev.ticking, hl]
      show s.dev.tick = { s.dev with time := s.dev.tick.time } ∧ s.dev.tick.time = { s.dev.time with now := s.dev.tick.time.now, tick := s.dev.tick.time.tick }
      rw [Dev.tick_eq, hd]
      exact ⟨rfl, rfl⟩

end Sys2Proof.Machine
end

section
/-! PROOFS. Register, immediate and bit-field operations (R108 of 03_dunval_instruction_set.md). -/
namespace Sys2Proof.Machine
open Sys2Proof

/-! ## The values of R108 on numbers -/

theorem shl_eq_ofNat (a : Word) (n : Nat) : a <<< n = BitVec.ofNat 64 (a.toNat * 2 ^ n) := by
  apply BitVec.eq_of_toNat_eq
  simp [Nat.shiftLeft_eq]

theorem shr_eq_ofNat (a : Word) (n : Nat) : a >>> n = BitVec.ofNat 64 (a.toNat / 2 ^ n) := by
  apply BitVec.eq_of_toNat_eq
  have hlt : a.toNat / 2 ^ n < 2 ^ 64 := Nat.lt_of_le_of_lt (Nat.div_le_self _ _) a.isLt
  rw [BitVec.toNat_ushiftRight, BitVec.toNat_ofNat, Nat.mod_eq_of_lt hlt, Nat.shiftRight_eq_div_pow]

theorem sar_eq_ofInt (a : Word) (n : Nat) : a.sshiftRight n = BitVec.ofInt 64 (a.toInt / 2 ^ n) := by
  rw [BitVec.sshiftRight, Int.shiftRight_eq_div_pow]
  norm_cast

theorem min_eq_ofInt (a b : Word) : (if a.slt b then a else b) = BitVec.ofInt 64 (min a.toInt b.toInt) := by
  simp only [BitVec.slt_iff_toInt_lt]
  split
  · rw [min_eq_left (by omega), BitVec.ofInt_toInt]
  · rw [min_eq_right (by omega), BitVec.ofInt_toInt]

theorem max_eq_ofInt (a b : Word) : (if a.slt b then b else a) = BitVec.ofInt 64 (max a.toInt b.toInt) := by
  simp only [BitVec.slt_iff_toInt_lt]
  split
  · rw [max_eq_right (by omega), BitVec.ofInt_toInt]
  · rw [max_eq_left (by omega), BitVec.ofInt_toInt]

theorem minu_eq_ofNat (a b : Word) : (if a.ult b then a else b) = BitVec.ofNat 64 (min a.toNat b.toNat) := by
  simp only [BitVec.ult_iff_toNat_lt]
  split
  · rw [min_eq_left (by omega), BitVec.ofNat_toNat, BitVec.setWidth_eq]
  · rw [min_eq_right (by omega), BitVec.ofNat_toNat, BitVec.setWidth_eq]

theorem maxu_eq_ofNat (a b : Word) : (if a.ult b then b else a) = BitVec.ofNat 64 (max a.toNat b.toNat) := by
  simp only [BitVec.ult_iff_toNat_lt]
  split
  · rw [max_eq_right (by omega), BitVec.ofNat_toNat, BitVec.setWidth_eq]
  · rw [max_eq_left (by omega), BitVec.ofNat_toNat, BitVec.setWidth_eq]

theorem add_eq_ofNat (a b : Word) : a + b = BitVec.ofNat 64 (a.toNat + b.toNat) := by
  simp [BitVec.ofNat_add]

theorem mul_eq_ofNat (a b : Word) : a * b = BitVec.ofNat 64 (a.toNat * b.toNat) := by
  simp [BitVec.ofNat_mul]

theorem sub_eq_ofInt (a b : Word) : a - b = BitVec.ofInt 64 ((a.toNat : Int) - b.toNat) := by
  simp [sub_eq_add_neg, BitVec.ofInt_add, BitVec.ofInt_neg]

theorem add_sext_eq_ofInt (a : Word) (m : BitVec 12) : a + sext64 m = BitVec.ofInt 64 (a.toNat + m.toInt) := by
  rw [BitVec.ofInt_add]
  simp [sext64, BitVec.signExtend]

theorem zext_eq_ofNat {n : Nat} (m : BitVec n) : zext64 m = BitVec.ofNat 64 m.toNat := by
  simp [zext64]

/-- MOVSH's value: the immediate fills the bits that the shift leaves clear. -/
theorem movsh_eq_ofNat (a : Word) (m : BitVec 16) : (a <<< 16) ||| zext64 m = BitVec.ofNat 64 (a.toNat * 2 ^ 16 + m.toNat) := by
  have hdisj : (a <<< 16) &&& zext64 m = 0#64 := by
    apply BitVec.eq_of_getLsbD_eq
    intro k hk
    by_cases h : k < 16
    · simp [h]
    · simp [zext64, BitVec.getLsbD_of_ge m k (by omega)]
  rw [← BitVec.add_eq_or_of_and_eq_zero _ _ hdisj, shl_eq_ofNat, zext_eq_ofNat, BitVec.ofNat_add]

/-! ## The instructions of each form -/

/-- An instruction of two operands issues with its own value. -/
theorem regOps_row : ∀ e ∈ Claims.regOps, ∃ cost f, (∀ i rd ra rb s, exec (e.1 i rd ra rb) s = aluReg i i.predOk cost rd ra rb f s) ∧ ∀ a b, f a b = e.2 a b := by
  simp only [Claims.regOps, List.forall_mem_cons, List.not_mem_nil, false_implies, implies_true, and_true]
  refine ⟨⟨1, fun a b => a + b, ?_, add_eq_ofNat⟩,
    ⟨1, fun a b => a - b, ?_, sub_eq_ofInt⟩,
    ⟨1, fun a b => a &&& b, ?_, fun _ _ => rfl⟩,
    ⟨1, fun a b => a ||| b, ?_, fun _ _ => rfl⟩,
    ⟨1, fun a b => a ^^^ b, ?_, fun _ _ => rfl⟩,
    ⟨1, fun a b => a &&& ~~~b, ?_, fun _ _ => rfl⟩,
    ⟨1, fun a b => a <<< (b.toNat % 64), ?_, fun a _ => shl_eq_ofNat a _⟩,
    ⟨1, fun a b => a >>> (b.toNat % 64), ?_, fun a _ => shr_eq_ofNat a _⟩,
    ⟨1, fun a b => a.sshiftRight (b.toNat % 64), ?_, fun a _ => sar_eq_ofInt a _⟩,
    ⟨1, fun a b => if a.slt b then a else b, ?_, min_eq_ofInt⟩,
    ⟨1, fun a b => if a.slt b then b else a, ?_, max_eq_ofInt⟩,
    ⟨1, fun a b => if a.ult b then a else b, ?_, minu_eq_ofNat⟩,
    ⟨1, fun a b => if a.ult b then b else a, ?_, maxu_eq_ofNat⟩,
    ⟨1, fun a b => a * b, ?_, mul_eq_ofNat⟩,
    ⟨2, mulHighU, ?_, fun _ _ => rfl⟩,
    ⟨2, mulHighS, ?_, fun _ _ => rfl⟩⟩
  all_goals exact fun _ _ _ _ _ => rfl

/-- An instruction of one operand and an immediate issues with its own value. -/
theorem immOps_row : ∀ e ∈ Claims.immOps, ∀ m, ∃ f, (∀ i rd ra s, exec (e.1 i rd ra m) s = aluOne i i.predOk rd ra f s) ∧ ∀ a, f a = e.2 a m := by
  simp only [Claims.immOps, List.forall_mem_cons, List.not_mem_nil, false_implies, implies_true, and_true]
  refine ⟨fun m => ⟨fun a => a + sext64 m, ?_, fun a => add_sext_eq_ofInt a m⟩,
    fun m => ⟨fun a => a &&& zext64 m, ?_, fun a => by rw [zext_eq_ofNat]⟩,
    fun m => ⟨fun a => a ||| zext64 m, ?_, fun a => by rw [zext_eq_ofNat]⟩,
    fun m => ⟨fun a => a ^^^ zext64 m, ?_, fun a => by rw [zext_eq_ofNat]⟩⟩
  all_goals exact fun _ _ _ _ => rfl

/-- A shift by a constant issues with its own value. -/
theorem shiftOps_row : ∀ e ∈ Claims.shiftOps, ∀ n, ∃ f, (∀ i rd ra s, exec (e.1 i rd ra n) s = aluOne i i.predOk rd ra f s) ∧ ∀ a, f a = e.2 a n.toNat := by
  simp only [Claims.shiftOps, List.forall_mem_cons, List.not_mem_nil, false_implies, implies_true, and_true]
  refine ⟨fun n => ⟨fun a => a <<< n.toNat, ?_, fun a => shl_eq_ofNat a _⟩,
    fun n => ⟨fun a => a >>> n.toNat, ?_, fun a => shr_eq_ofNat a _⟩,
    fun n => ⟨fun a => a.sshiftRight n.toNat, ?_, fun a => sar_eq_ofInt a _⟩⟩
  all_goals exact fun _ _ _ _ => rfl

/-- Settles O2: each row is one of two forms whose effect is known, and its value is R108's on numbers. -/
theorem registerAndImmediateOperationsWriteTheirValue : Obligations.RegisterAndImmediateOperationsWriteTheirValue := by
  unfold Obligations.RegisterAndImmediateOperationsWriteTheirValue
  refine ⟨fun i rd ra rb s d0 hpred h e he => ?_, fun i rd ra s d0 hpred => ⟨fun h m e he => ?_, fun h n e he => ?_, fun h m => ?_, fun h m => ?_⟩⟩
  · obtain ⟨cost, f, hrow, hval⟩ := regOps_row e he
    rw [hrow, hpred, ← hval]
    exact aluReg_writes h
  · obtain ⟨f, hrow, hval⟩ := immOps_row e he m
    rw [hrow, hpred, ← hval]
    exact aluOne_writes h
  · obtain ⟨f, hrow, hval⟩ := shiftOps_row e he n
    rw [hrow, hpred, ← hval]
    exact aluOne_writes h
  · have hrow : exec (.movi i rd m) s = issue i true 1 false (destG rd) [rd] (fun _ _ d => onThread i (fun x => x.setReg rd (sext64 m)) d) s := by
      rw [← hpred]; rfl
    obtain ⟨t, ht, hc⟩ := issue_thread (cost := 1) (act := fun _ _ d => onThread i (fun x => x.setReg rd (sext64 m)) d) h rfl
    exact ⟨t, hrow.trans ht, writesReg_of_changes hc⟩
  · have hrow : exec (.movsh i rd m) s = aluOne i true rd rd (fun a => (a <<< 16) ||| zext64 m) s := by
      rw [← hpred]; rfl
    have h' : Issues i false (destG rd) [rd, rd] s d0 := ⟨h.1, h.2.1, fun r hr => h.2.2 r (by simpa using hr)⟩
    rw [hrow, ← movsh_eq_ofNat]
    exact aluOne_writes h'

/-! ## Bit fields -/

section
variable (v old : Word) (pos wm1 : BitVec 6)

/-- The ones of a field of `wm1 + 1` bits. -/
theorem getLsbD_fieldMask {k : Nat} (hk : k < 64) : (BitVec.ofNat 64 (2 ^ (wm1.toNat + 1) - 1)).getLsbD k = decide (k ≤ wm1.toNat) := by
  rw [BitVec.getLsbD_ofNat, Nat.testBit_two_pow_sub_one]
  simp [hk]

theorem getLsbD_bitField {k : Nat} (hk : k < 64) : (bitField v pos wm1).getLsbD k = (decide (k ≤ wm1.toNat) && v.getLsbD (pos.toNat + k)) := by
  rw [bitField, BitVec.getLsbD_and, getLsbD_fieldMask wm1 hk, BitVec.getLsbD_ushiftRight, Bool.and_comm]

/-- The sign-extended field: shifted up to the top, its bits come down again with the top one above them. -/
theorem getLsbD_bitFieldS {k : Nat} (hk : k < 64) : (bitFieldS v pos wm1).getLsbD k = v.getLsbD (pos.toNat + min k wm1.toNat) := by
  have hw : wm1.toNat < 64 := wm1.isLt
  have shifted : ∀ j < 64, 63 - wm1.toNat ≤ j → ((bitField v pos wm1) <<< (63 - wm1.toNat)).getLsbD j = v.getLsbD (pos.toNat + (j - (63 - wm1.toNat))) := by
    intro j hj hle
    have hin : j - (63 - wm1.toNat) ≤ wm1.toNat := by omega
    rw [BitVec.getLsbD_shiftLeft, getLsbD_bitField v pos wm1 (by omega)]
    simp [hj, hin, Nat.not_lt.mpr hle]
  rw [bitFieldS, BitVec.getLsbD_sshiftRight]
  by_cases hle : k ≤ wm1.toNat
  · have hlt : 63 - wm1.toNat + k < 64 := by omega
    rw [if_pos hlt, shifted _ hlt (by omega), Nat.min_eq_left hle]
    simp [Nat.not_le.mpr hk]
  · have hge : ¬ 63 - wm1.toNat + k < 64 := by omega
    rw [if_neg hge, BitVec.msb_eq_getLsbD_last, shifted _ (by omega) (by omega), Nat.min_eq_right (by omega)]
    simp [Nat.not_le.mpr hk, show 63 - (63 - wm1.toNat) = wm1.toNat by omega]

theorem getLsbD_bitInsert {k : Nat} (hk : k < 64) : (bitInsert old v pos wm1).getLsbD k =
    if pos.toNat ≤ k ∧ k ≤ pos.toNat + wm1.toNat then v.getLsbD (k - pos.toNat) else old.getLsbD k := by
  have hmask : (BitVec.ofNat 64 (2 ^ (wm1.toNat + 1) - 1)).getLsbD (k - pos.toNat) = decide (k - pos.toNat ≤ wm1.toNat) :=
    getLsbD_fieldMask wm1 (by omega)
  simp only [bitInsert, BitVec.getLsbD_or, BitVec.getLsbD_and, BitVec.getLsbD_not, BitVec.getLsbD_shiftLeft, hmask, hk, decide_true, Bool.true_and]
  by_cases hlo : k < pos.toNat
  · simp [hlo, Nat.not_le.mpr hlo]
  · by_cases hhi : k - pos.toNat ≤ wm1.toNat
    · simp [hlo, hhi, Nat.not_lt.mp hlo, show k ≤ pos.toNat + wm1.toNat by omega]
    · simp [hlo, hhi, show ¬ k ≤ pos.toNat + wm1.toNat by omega]

end

/-- Settles O3: each instruction writes its field's value, whose bits are those named. -/
theorem bitFieldOperationsMoveTheirBits : Obligations.BitFieldOperationsMoveTheirBits := by
  unfold Obligations.BitFieldOperationsMoveTheirBits
  intro i rd ra w pos wm1 s d0 hpred hfit h
  have hlegal : (i.predOk && fieldOk pos wm1) = true := by simp [hpred, fieldOk, hfit]
  have hreads : ∀ {uses}, uses ⊆ [rd, ra] → Issues i false (destG rd) uses s d0 := fun hs => ⟨h.1, h.2.1, fun r hr => h.2.2 r (hs hr)⟩
  refine ⟨?_, ?_, ?_, ?_⟩
  · have hrow : exec (.bfx i rd ra pos wm1) s = aluOne i true rd ra (fun a => bitField a pos wm1) s := by rw [← hlegal]; rfl
    obtain ⟨t, ht, hw⟩ := aluOne_writes (f := fun a => bitField a pos wm1) h
    exact ⟨t, _, hrow.trans ht, hw, fun k hk => getLsbD_bitField _ pos wm1 hk⟩
  · have hrow : exec (.bfxs i rd ra pos wm1) s = aluOne i true rd ra (fun a => bitFieldS a pos wm1) s := by rw [← hlegal]; rfl
    obtain ⟨t, ht, hw⟩ := aluOne_writes (f := fun a => bitFieldS a pos wm1) h
    exact ⟨t, _, hrow.trans ht, hw, fun k hk => getLsbD_bitFieldS _ pos wm1 hk⟩
  · have hrow : exec (.bfi i rd ra pos wm1) s = aluReg i true 1 rd ra (.reg rd) (fun a old => bitInsert old a pos wm1) s := by rw [← hlegal]; rfl
    obtain ⟨t, ht, hw⟩ := aluReg_writes (cost := 1) (rb := .reg rd) (f := fun a old => bitInsert old a pos wm1) (hreads (uses := rd :: ra :: rbRegs (.reg rd)) (by simp [rbRegs]))
    exact ⟨t, _, hrow.trans ht, hw, fun k hk => getLsbD_bitInsert _ _ pos wm1 hk⟩
  · have hrow : exec (.bfxw i rd w pos wm1) s =
        issue i true 1 false (destG rd) [rd] (fun t _ d => onThread i (fun x => x.setReg rd (bitField (t.win w) pos wm1)) d) s := by rw [← hlegal]; rfl
    obtain ⟨t, ht, hc⟩ := issue_thread (cost := 1) (act := fun t _ d => onThread i (fun x => x.setReg rd (bitField (t.win w) pos wm1)) d)
      (hreads (uses := [rd]) (by simp)) rfl
    exact ⟨t, _, hrow.trans ht, writesReg_of_changes hc, fun k hk => getLsbD_bitField _ pos wm1 hk⟩

end Sys2Proof.Machine
end

section
/-! PROOFS. `Keeps` through each of the shared updates: an update keeps what the device before it kept. -/
namespace Sys2Proof.Machine
open Sys2Proof

section
variable {rs : List Reg} {a b c : Dev}

/-- What keeps every register but some of `rs` changes nothing that `rs` keeps. -/
theorem Keeps.through {ws : List Reg} (h : Keeps ws b c) (hs : ws ⊆ rs) : Keeps rs a c ↔ Keeps rs a b := by
  constructor
  · rintro ⟨hr, hm, ht⟩
    exact ⟨fun r k hn => (h.reg (fun hw => hn (hs hw)) k).symm.trans (hr r k hn), h.2.1.symm.trans hm, h.2.2.symm.trans ht⟩
  · exact fun h' => h'.trans (h.mono hs)

@[simp] theorem keeps_refl (rs : List Reg) (d : Dev) : Keeps rs d d := .refl rs d

/-! ## Parts of the device -/

@[simp] theorem keeps_cores (x : Tab CoreSt) : Keeps rs a { b with cores := x } ↔ Keeps rs a b := .rfl
@[simp] theorem keeps_time (x : Time) : Keeps rs a { b with time := x } ↔ Keeps rs a b := .rfl
@[simp] theorem keeps_pkt (x : Pkt) : Keeps rs a { b with pkt := x } ↔ Keeps rs a b := .rfl
@[simp] theorem keeps_keys (x : Keys) : Keeps rs a { b with keys := x } ↔ Keeps rs a b := .rfl
@[simp] theorem keeps_dma (x : Dma) : Keeps rs a { b with dma := x } ↔ Keeps rs a b := .rfl
@[simp] theorem keeps_host (x : HostSt) : Keeps rs a { b with host := x } ↔ Keeps rs a b := .rfl
@[simp] theorem keeps_ptn (x : Ptn) : Keeps rs a { b with ptn := x } ↔ Keeps rs a b := .rfl
@[simp] theorem keeps_fw (x : Fw) : Keeps rs a { b with fw := x } ↔ Keeps rs a b := .rfl
@[simp] theorem keeps_flt (x : Flt) : Keeps rs a { b with flt := x } ↔ Keeps rs a b := .rfl
@[simp] theorem keeps_dpx (x : Duplex) : Keeps rs a { b with dpx := x } ↔ Keeps rs a b := .rfl
@[simp] theorem keeps_cnt (x : Cnt) : Keeps rs a { b with cnt := x } ↔ Keeps rs a b := .rfl
@[simp] theorem keeps_relPend (x : List (Nat × Nat × Nat × Slot)) : Keeps rs a { b with relPend := x } ↔ Keeps rs a b := .rfl
@[simp] theorem keeps_life (x : Life) : Keeps rs a { b with life := x } ↔ Keeps rs a b := .rfl
@[simp] theorem keeps_board (x : Board) : Keeps rs a { b with board := x } ↔ Keeps rs a b := .rfl
@[simp] theorem keeps_boot (x : Boot) : Keeps rs a { b with boot := x } ↔ Keeps rs a b := .rfl
@[simp] theorem keeps_outs (x : List OutEv) : Keeps rs a { b with outs := x } ↔ Keeps rs a b := .rfl
@[simp] theorem keeps_free (x : Nat) : Keeps rs a { b with free := x } ↔ Keeps rs a b := .rfl

/-! ## Shared updates -/

@[simp] theorem keeps_emit_iff (o : OutEv) : Keeps rs a (b.emit o) ↔ Keeps rs a b := .rfl
@[simp] theorem keeps_countBy_iff (e n : Nat) : Keeps rs a (b.countBy e n) ↔ Keeps rs a b := .rfl
@[simp] theorem keeps_count_iff (e : Nat) : Keeps rs a (b.count e) ↔ Keeps rs a b := .rfl
@[simp] theorem keeps_raise_iff (src isl : Nat) (p t : Option Nat) (exc detail : Nat) : Keeps rs a (b.raise src isl p t exc detail) ↔ Keeps rs a b := .rfl
@[simp] theorem keeps_raiseDev_iff (src isl detail : Nat) : Keeps rs a (b.raiseDev src isl detail) ↔ Keeps rs a b := .rfl
@[simp] theorem keeps_raisePart_iff (src isl p detail : Nat) : Keeps rs a (b.raisePart src isl p detail) ↔ Keeps rs a b := .rfl
@[simp] theorem keeps_raiseFree_iff (src isl : Nat) (p : Option Nat) : Keeps rs a (b.raiseFree src isl p) ↔ Keeps rs a b := .rfl
@[simp] theorem keeps_raiseDecode_iff (isl : Nat) (p : Option Nat) (addr : Nat) : Keeps rs a (b.raiseDecode isl p addr) ↔ Keeps rs a b := .rfl
@[simp] theorem keeps_setPart_iff (p : Nat) (x : Part) : Keeps rs a (b.setPart p x) ↔ Keeps rs a b := .rfl
@[simp] theorem keeps_setDuplex_iff (p : Nat) (x : Dpx) : Keeps rs a (b.setDuplex p x) ↔ Keeps rs a b := .rfl
@[simp] theorem keeps_setFn_iff (h f : Nat) (x : HostFn) : Keeps rs a (b.setFn h f x) ↔ Keeps rs a b := .rfl
@[simp] theorem keeps_updFn_iff (h f : Nat) (g : HostFn → HostFn) : Keeps rs a (b.updFn h f g) ↔ Keeps rs a b := .rfl
@[simp] theorem keeps_aer_iff (h f : Nat) (e : Aer) : Keeps rs a (b.aer h f e) ↔ Keeps rs a b := .rfl
@[simp] theorem keeps_setCq_iff (n : Nat) (x : CqSt) : Keeps rs a (b.setCq n x) ↔ Keeps rs a b := .rfl
@[simp] theorem keeps_setSq_iff (n : Nat) (x : SqSt) : Keeps rs a (b.setSq n x) ↔ Keeps rs a b := .rfl
@[simp] theorem keeps_setSlice_iff (n : Nat) (x : Slice) : Keeps rs a (b.setSlice n x) ↔ Keeps rs a b := .rfl
@[simp] theorem keeps_setMbx_iff (n : Nat) (x : Mbx) : Keeps rs a (b.setMbx n x) ↔ Keeps rs a b := .rfl
@[simp] theorem keeps_setChan_iff (n : Nat) (x : Chan) : Keeps rs a (b.setChan n x) ↔ Keeps rs a b := .rfl

@[simp] theorem keeps_setReg_iff {r : Reg} (h : r ∈ rs) (i : Nat) (v : Word) : Keeps rs a (b.setReg r i v) ↔ Keeps rs a b :=
  Keeps.through (keeps_setReg b h i v) (List.Subset.refl rs)
@[simp] theorem keeps_setRf_iff {r : Reg} (h : r ∈ rs) (i lo w x : Nat) : Keeps rs a (b.setRf r i lo w x) ↔ Keeps rs a b := keeps_setReg_iff h i _
@[simp] theorem keeps_setRb_iff {r : Reg} (h : r ∈ rs) (i lo : Nat) (v : Bool) : Keeps rs a (b.setRb r i lo v) ↔ Keeps rs a b := keeps_setReg_iff h i _
@[simp] theorem keeps_incRf_iff {r : Reg} (h : r ∈ rs) (i lo w n : Nat) : Keeps rs a (b.incRf r i lo w n) ↔ Keeps rs a b := keeps_setReg_iff h i _
@[simp] theorem keeps_resetReg_iff {r : Reg} (h : r ∈ rs) (i : Nat) : Keeps rs a (b.resetReg r i) ↔ Keeps rs a b :=
  Keeps.through (keeps_resetReg b h i) (List.Subset.refl rs)

@[simp] theorem keeps_slots_iff (t n : Nat) (v : Word) : Keeps rs a (b.slots t n v) ↔ Keeps rs a b :=
  Keeps.through (ws := []) (keeps_of_eq (by simp) (by simp) (by simp)) (by simp)

/-! ## Host memory (R304, R305, R318, R419, R502) -/

@[simp] theorem keeps_countTags_iff (h1 : Reg.hostFnStat ∈ rs) (h2 : Reg.hostLinkStat ∈ rs) (h f : Nat) :
    Keeps rs a (b.countTags h f) ↔ Keeps rs a b := by
  simp [Dev.countTags, h1, h2]

@[simp] theorem keeps_wakeLink_iff (h1 : Reg.hostPortStat ∈ rs) (h : Nat) : Keeps rs a (b.wakeLink h) ↔ Keeps rs a b := by
  unfold Dev.wakeLink
  split <;> simp [h1]

@[simp] theorem keeps_hostRead_iff (h1 : Reg.hostFnStat ∈ rs) (h2 : Reg.hostLinkStat ∈ rs) (h3 : Reg.hostPortStat ∈ rs) (h f : Nat) (sl : Option Nat)
    (op : HostOp) (addr len : Nat) : Keeps rs a (b.hostRead h f sl op addr len) ↔ Keeps rs a b := by
  simp [Dev.hostRead, h1, h2, h3]

@[simp] theorem keeps_hostEmit_iff (h1 : Reg.hostPortStat ∈ rs) (h f : Nat) (pasid : Word) (addr : Nat) (bs : List Byte) :
    Keeps rs a (b.hostEmit h f pasid addr bs) ↔ Keeps rs a b := by
  simp [Dev.hostEmit, h1]

@[simp] theorem keeps_hostWrite_iff (h1 : Reg.hostPortStat ∈ rs) (h f : Nat) (pasid : Word) (addr : Nat) (bs : List Byte) :
    Keeps rs a (b.hostWrite h f pasid addr bs) ↔ Keeps rs a b := by
  unfold Dev.hostWrite
  split <;> simp [h1]

@[simp] theorem keeps_dropTag_iff (h1 : Reg.hostFnStat ∈ rs) (h2 : Reg.hostLinkStat ∈ rs) (t : Nat) : Keeps rs a (b.dropTag t) ↔ Keeps rs a b := by
  unfold Dev.dropTag
  split <;> simp [h1, h2]

@[simp] theorem keeps_endOp_iff (h1 : Reg.hostFnStat ∈ rs) (h2 : Reg.hostLinkStat ∈ rs) (op : HostOp) : Keeps rs a (b.endOp op) ↔ Keeps rs a b := by
  unfold Dev.endOp
  split <;> simp [h1, h2]

@[simp] theorem keeps_discardReqs_iff (p : HostReq → Bool) : Keeps rs a (b.discardReqs p) ↔ Keeps rs a b := .rfl
@[simp] theorem keeps_discardOps_iff (p : HostOp → Bool) : Keeps rs a (b.discardOps p) ↔ Keeps rs a b := .rfl

@[simp] theorem keeps_irqMech_iff (h1 : Reg.hostFnIrq ∈ rs) (h f : Nat) : Keeps rs a (b.irqMech h f) ↔ Keeps rs a b := keeps_setReg_iff h1 _ _

@[simp] theorem keeps_intaEdge_iff (e : Dev) (h f : Nat) : Keeps rs a (b.intaEdge e h f) ↔ Keeps rs a b := by
  unfold Dev.intaEdge
  split <;> simp

@[simp] theorem keeps_interrupt_iff (h1 : Reg.hostPortStat ∈ rs) (h2 : Reg.hostIntxPend ∈ rs) (h f v : Nat) : Keeps rs a (b.interrupt h f v) ↔ Keeps rs a b := by
  unfold Dev.interrupt
  dsimp only
  repeat' split
  all_goals simp [h1, h2]

end

end Sys2Proof.Machine
end

section
/-! PROOFS. Loads, stores and atomics, at once in local memory and on their way to others, and what is checked of them at issue (R65 to R67, R93, R98, R106, R107, R111, R112). -/
namespace Sys2Proof.Machine
open Sys2Proof

/-! ## What goes out -/

section
variable {i : Issue} {s : State}

@[simp] theorem actsOn_ns (i : Issue) (s : State) : (actsOn i s).ns = s.dev.ns := by simp [Dev.ns]

theorem actsOn_byte (i : Issue) (s : State) (a : Nat) : (actsOn i s).byte a = s.dev.byte a := by simp [Dev.byte]

theorem actsOn_read (i : Issue) (s : State) (a n : Nat) : (actsOn i s).read a n = s.dev.read a n := by simp [Dev.read]

/-- Sending an operation adds it to those its thread has out. -/
theorem sendOp_thread (d : Dev) (tid : Nat) (t : Thread) (slot : Slot) (k : OutKind) (rd : BitVec 5) (r : Option Word) :
    (d.sendOp tid t slot k rd r).thread tid =
      { d.thread tid with
        outs := (d.thread tid).outs ++ [⟨(d.thread tid).nextId, k, rd, t.pc, slot, d.ns, t.pasid, r⟩], nextId := (d.thread tid).nextId + 1 } := by
  simp [Dev.sendOp]

theorem sendOp_thread_ne (d : Dev) {tid u : Nat} (t : Thread) (slot : Slot) (k : OutKind) (rd : BitVec 5) (r : Option Word) (h : u ≠ tid) :
    (d.sendOp tid t slot k rd r).thread u = d.thread u := d.thread_updThread_ne _ h

theorem does_regs {d : Dev} {t : State} (h : Does d s t) : t.dev.regs = d.regs := by rw [h.2]
theorem does_mem {d : Dev} {t : State} (h : Does d s t) : t.dev.mem = d.mem := by rw [h.2]
theorem does_time {d : Dev} {t : State} (h : Does d s t) : t.dev.time = d.time := by rw [h.2]
theorem does_flt {d : Dev} {t : State} (h : Does d s t) : t.dev.flt = d.flt := by rw [h.2]

end

/-! ## The rows of instructions -/

section
variable {i : Issue} {legal : Bool} {cost : Nat} {port : Bool} {dest : Nat} {uses : List (BitVec 5)} {act : Thread → Dev → Dev → Act} {s : State} {d0 : Dev}
  {P : State → Prop}

/-- The row of an instruction whose act succeeds. -/
theorem issue_does (hl : legal = true) (h : Issues i port dest uses s d0) {d2 : Dev} (ha : act (d0.thread i.tid.val) d0 (actsOn i s) = .done d2)
    (hP : ∀ t, Does d2 s t → P t) : ∃ t, issue i legal cost port dest uses act s = .next t ∧ P t := by
  subst hl
  obtain ⟨t, ht, hd⟩ := issue_done (cost := cost) h ha
  exact ⟨t, ht, hP t hd⟩

/-- The row of an instruction whose whole effect is in its own thread. -/
theorem issue_changes (hl : legal = true) (h : Issues i port dest uses s d0) {f : Thread → Thread}
    (ha : act (d0.thread i.tid.val) d0 (actsOn i s) = onThread i f (actsOn i s)) :
    ∃ t, issue i legal cost port dest uses act s = .next t ∧ ChangesThread i f s t := by
  subst hl
  exact issue_thread h ha

/-- The row of an instruction that writes one register. -/
theorem issue_writes (hl : legal = true) (h : Issues i port dest uses s d0) {rd : BitVec 5} {v : Word}
    (ha : act (d0.thread i.tid.val) d0 (actsOn i s) = onThread i (fun x => x.setReg rd v) (actsOn i s)) :
    ∃ t, issue i legal cost port dest uses act s = .next t ∧ WritesReg i rd v s t := by
  obtain ⟨t, ht, hc⟩ := issue_changes (cost := cost) hl h ha
  exact ⟨t, ht, writesReg_of_changes hc⟩

/-- The row of an instruction whose act raises an exception. -/
theorem issue_raises (hl : legal = true) (h : Issues i port dest uses s d0) {code operand : Nat}
    (ha : act (d0.thread i.tid.val) d0 (actsOn i s) = .exc code operand) :
    ∃ t, issue i legal cost port dest uses act s = .next t ∧ Excepts i code operand d0 s t := by
  subst hl
  exact issue_excepts h ha

end

/-! ## Loads (R111) -/

/-- The bytes of a range, read whole. -/
theorem loadValue_nil (bs : List Byte) (ea : Nat) : loadValue bs ea [] = BitVec.ofNat 64 (ofLe bs) := by
  unfold loadValue
  congr 2
  apply List.ext_getElem
  · simp
  · intro k h1 h2
    simp at h1
    simp [h1]

/-- What a load of another space than local leaves: the operation sent, and for host space its request. -/
def sendLoad (i : Issue) (sp sz : BitVec 2) (rd : BitVec 5) (ea : Nat) (t : Thread) (d : Dev) : Dev :=
  let e := d.sendOp i.tid.val t i.slot (.load sp ea (szBytes sz) (forwarded t.stq sp ea (szBytes sz))) rd none
  if sp = 3#2 then (match e.partOf i.tid.val with | some p => e.sendHostLoad i.tid.val p t ea (szBytes sz) | none => e) else e

/-- A host load's request is all that its sending changes beside the operation. -/
theorem keeps_sendLoad (i : Issue) (sp sz : BitVec 2) (rd : BitVec 5) (ea : Nat) (t : Thread) (d : Dev) :
    Keeps [.hostFnStat, .hostLinkStat, .hostPortStat]
      (d.sendOp i.tid.val t i.slot (.load sp ea (szBytes sz) (forwarded t.stq sp ea (szBytes sz))) rd none) (sendLoad i sp sz rd ea t d) := by
  unfold sendLoad Dev.sendHostLoad
  dsimp only
  repeat' split
  all_goals simp

/-- Settles O6: the effective address is the model's, and the load is either a register write or an operation sent. -/
theorem loadsReadOrGoOut : Obligations.LoadsReadOrGoOut := by
  unfold Obligations.LoadsReadOrGoOut
  intro i sp sz rd ra off s d0 ea hpred h hea
  have hea' : effAddr ((d0.thread i.tid.val).reg ra) off (szBytes sz) = ea := effAddr_eq hea
  constructor
  · rintro rfl hal hin
    have hchk : issueCheck (actsOn i s) i.tid.val (d0.thread i.tid.val).pasid 0#2 ea (szBytes sz) = none := issueCheck_local hal hin
    refine issue_writes hpred h ?_
    rw [← loadValue_nil _ ea]
    simp only [hea', hchk, if_true]
    rfl
  · intro hsp hchk hload hbank
    have hchk' : issueCheck (actsOn i s) i.tid.val (d0.thread i.tid.val).pasid sp ea (szBytes sz) = none := hchk
    have hbank' : bankBusy (actsOn i s) i.tid.val (bankOf (actsOn i s) i.tid.val sp ea (szBytes sz)) = false := hbank
    refine issue_does hpred h (d2 := sendLoad i sp sz rd ea (d0.thread i.tid.val) (actsOn i s)) ?_ (fun t hd => ?_)
    · simp only [hea', hchk', hsp, Nat.not_le.mpr hload, hbank', if_false, Bool.false_eq_true]
      rfl
    obtain ⟨hregs, hmem, hthr⟩ := keeps_sendLoad i sp sz rd ea (d0.thread i.tid.val) (actsOn i s)
    refine ⟨hd.1, ?_, fun r k hr => ?_, fun u hu => ?_, ?_⟩
    · rw [does_mem hd, hmem]; simp [Dev.sendOp]
    · rw [does_reg hd]
      by_cases h3 : sp = 3#2
      · exact (hregs r k (hr.resolve_left (not_not.mpr h3))).trans (by simp [Dev.reg, Dev.sendOp])
      · simp [sendLoad, h3, Dev.sendOp, Dev.reg]
    · rw [does_thread hd, Dev.thread, hthr, ← Dev.thread, sendOp_thread_ne _ _ _ _ _ _ hu, actsOn_thread_ne i s hu]
    · rw [does_thread hd, Dev.thread, hthr, ← Dev.thread, sendOp_thread, actsOn_ns]
      rfl

/-! ## Stores (R111) -/

/-- The bytes of a little-endian number, one by one. -/
theorem leBytes_getD (n v k : Nat) (hk : k < n) : (leBytes n v).getD k 0 = BitVec.ofNat 8 (v / 256 ^ k) := by
  induction n generalizing v k with
  | zero => omega
  | succ n ih =>
    cases k with
    | zero => simp [leBytes]
    | succ k =>
      rw [leBytes, List.getD_cons_succ, ih _ _ (by omega), Nat.div_div_eq_div_mul, Nat.pow_succ, Nat.mul_comm]

/-- What has been stored is read again. -/
theorem Dev.read_write_same (d : Dev) (a : Nat) (bs : List Byte) : (d.write a bs).read a bs.length = bs := by
  apply List.ext_getElem
  · simp [Dev.read, memBytes]
  · intro k h1 h2
    have hb : (d.write a bs).byte (a + k) = bs.getD k 0 := by
      rw [Dev.byte_write, if_pos ⟨by omega, by omega⟩, Nat.add_sub_cancel_left]
    simp only [Dev.read, memBytes, List.getElem_map, List.getElem_range]
    exact hb.trans (by simp [h2])

/-- Settles O7. -/
theorem storesWriteOrQueue : Obligations.StoresWriteOrQueue := by
  unfold Obligations.StoresWriteOrQueue
  intro i sp sz rs ra off s d0 ea hpred h hea
  have hea' : effAddr ((d0.thread i.tid.val).reg ra) off (szBytes sz) = ea := effAddr_eq hea
  constructor
  · rintro rfl hal hin
    have hchk : issueCheck (actsOn i s) i.tid.val (d0.thread i.tid.val).pasid 0#2 ea (szBytes sz) = none := issueCheck_local hal hin
    refine issue_does hpred h (d2 := (actsOn i s).write (localAddr (coreOf i.tid.val) ea) (leBytes (szBytes sz) ((d0.thread i.tid.val).reg rs).toNat)) ?_
      (fun t hd => ⟨hd.1, ?_, fun u hu => ?_, ?_, fun k hk => ?_, fun a ha => ?_⟩)
    · simp only [hea', hchk, if_true]
    · rw [does_regs hd]; simp
    · rw [does_thread hd]; exact actsOn_thread_ne i s hu
    · rw [does_thread hd]; rfl
    · rw [does_byte hd, Dev.byte_write, if_pos (by simp [szBytes, hk]), Nat.add_sub_cancel_left, leBytes_getD (szBytes sz) _ k hk]
    · rw [does_byte hd, Dev.byte_write_outside _ (by simpa [szBytes] using ha), actsOn_byte]
  · intro hsp hchk hroom hbank
    have hchk' : issueCheck (actsOn i s) i.tid.val (d0.thread i.tid.val).pasid sp ea (szBytes sz) = none := hchk
    have hbank' : bankBusy (actsOn i s) i.tid.val (bankOf (actsOn i s) i.tid.val sp ea (szBytes sz)) = false := hbank
    refine issue_changes hpred h ?_
    simp only [hea', hchk', hsp, Nat.not_le.mpr hroom, hbank', if_false, Bool.false_eq_true]
    rfl

/-! ## Atomics (R112) -/

/-- The new value an atomic stores, if any, from its thread's registers and the old value. -/
def atomStores (op : Nat) (sz : BitVec 1) (rd rb : BitVec 5) (t : Thread) (old : Nat) : Option Nat :=
  match op with
  | 0 => some (old + (t.reg rb).toNat)
  | 1 => some (t.reg rb).toNat
  | _ => if old = (t.reg rd).toNat % 2 ^ (8 * atomBytes sz) then some (t.reg rb).toNat else none

/-- The three atomics share one row. -/
theorem exec_atomOp (op : Nat) (i : Issue) (sp : BitVec 2) (sz : BitVec 1) (rd ra rb : BitVec 5) (s : State) :
    exec (Claims.atomOp op i sp sz rd ra rb) s = atomIssue i (i.predOk && sp != 3#2) sp sz rd ra rb
      (fun sp ea size t => Claims.atomKind op sp ea size (t.reg rb) (t.reg rd)) (atomStores op sz rd rb) s :=
  match op with
  | 0 => rfl
  | 1 => rfl
  | _ + 2 => rfl

theorem ofLe_lt (bs : List Byte) : ofLe bs < 2 ^ (8 * bs.length) := by
  induction bs with
  | nil => simp [ofLe]
  | cons b bs ih =>
    have hb := b.isLt
    rw [ofLe, List.length_cons, Nat.mul_succ, Nat.pow_add]
    omega

/-- What memory holds after an atomic. -/
theorem atomic_value (op : Nat) (sz : BitVec 1) (rd rb : BitVec 5) (t : Thread) (d : Dev) (a : Nat) :
    ofLe ((d.atomic a (atomBytes sz) (atomStores op sz rd rb t)).2.read a (atomBytes sz)) =
      Claims.atomNew op (atomBytes sz) (ofLe (d.read a (atomBytes sz))) (t.reg rb).toNat (t.reg rd).toNat := by
  have stored : ∀ v, ofLe ((d.write a (leBytes (atomBytes sz) v)).read a (atomBytes sz)) = v % 2 ^ (8 * atomBytes sz) := by
    intro v
    have hr := Dev.read_write_same d a (leBytes (atomBytes sz) v)
    rw [leBytes_length] at hr
    rw [hr, ofLe_leBytes]
  match op with
  | 0 => exact stored _
  | 1 => exact stored _
  | _ + 2 =>
    simp only [Dev.atomic, atomStores, Claims.atomNew]
    by_cases hc : ofLe (d.read a (atomBytes sz)) = (t.reg rd).toNat % 2 ^ (8 * atomBytes sz)
    · rw [if_pos hc, if_pos hc]; exact stored _
    · rw [if_neg hc, if_neg hc]

theorem atomic_byte_outside (d : Dev) (a n : Nat) (f : Nat → Option Nat) {x : Nat} (h : x < a ∨ a + n ≤ x) : (d.atomic a n f).2.byte x = d.byte x := by
  unfold Dev.atomic
  dsimp only
  split
  · exact Dev.byte_write_outside d (by simpa using h)
  · rfl

theorem atomic_regs (d : Dev) (a n : Nat) (f : Nat → Option Nat) : (d.atomic a n f).2.regs = d.regs := by
  unfold Dev.atomic
  dsimp only
  split <;> simp

theorem atomic_thr (d : Dev) (a n : Nat) (f : Nat → Option Nat) : (d.atomic a n f).2.thr = d.thr := by
  unfold Dev.atomic
  dsimp only
  split <;> simp

/-- Settles O8. -/
theorem atomicsSwapInOneStep : Obligations.AtomicsSwapInOneStep := by
  unfold Obligations.AtomicsSwapInOneStep
  intro op i sp sz rd ra rb s d0 ea n _ hpred hsp3 h hea hn
  obtain rfl : n = atomBytes sz := hn
  have hlegal : (i.predOk && sp != 3#2) = true := by simp [hpred, hsp3]
  rw [exec_atomOp]
  constructor
  · rintro rfl hal hin
    have hchk : issueCheck (actsOn i s) i.tid.val (d0.thread i.tid.val).pasid 0#2 ea (atomBytes sz) = none := issueCheck_local hal hin
    refine issue_does hlegal h (d2 := ((actsOn i s).atomic (localAddr (coreOf i.tid.val) ea) (atomBytes sz)
        (atomStores op sz rd rb (d0.thread i.tid.val))).2.updThread i.tid.val (fun x => x.setReg rd
          (BitVec.ofNat 64 (ofLe ((actsOn i s).read (localAddr (coreOf i.tid.val) ea) (atomBytes sz)))))) ?_
      (fun t hd => ⟨hd.1, ?_, fun u hu => ?_, ?_, ?_, fun a ha => ?_⟩)
    · simp only [← hea, hchk]
      rfl
    · rw [does_regs hd, Dev.updThread_regs, atomic_regs, actsOn_regs]
    · rw [does_thread hd, Dev.thread_updThread_ne _ _ hu, Dev.thread, atomic_thr, ← Dev.thread, actsOn_thread_ne i s hu]
    · rw [does_thread hd, Dev.thread_updThread_same, Dev.thread, atomic_thr, ← Dev.thread, actsOn_read]
    · rw [Dev.read, does_mem hd, Dev.updThread_mem, ← Dev.read, atomic_value, actsOn_read]
    · rw [does_byte hd, Dev.byte, Dev.updThread_mem, ← Dev.byte, atomic_byte_outside _ _ _ _ ha, actsOn_byte]
  · intro hsp hchk hbank
    refine issue_changes hlegal h ?_
    simp only [← hea, hchk, hsp, hbank, if_false, Bool.false_eq_true, Dev.sendOp, actsOn_ns]
    rfl

/-! ## Checks at issue (R107) -/

/-- The exceptions of R107. -/
theorem issueCheck_fails {d : Dev} {tid : Nat} {pasid : Word} {sp : BitVec 2} {ea n code : Nat}
    (h : (ea % n ≠ 0 ∧ code = 4) ∨
      (ea % n = 0 ∧ sp = 0#2 ∧ 0x40000 < ea + n ∧ code = 3) ∨
      (ea % n = 0 ∧ sp = 1#2 ∧ 2 ^ 48 ≤ ea ∧ code = 5) ∨
      (ea % n = 0 ∧ sp = 2#2 ∧ 2 ^ 38 ≤ ea ∧ code = 5) ∨
      (ea % n = 0 ∧ sp = 1#2 ∧ ea < 2 ^ 48 ∧ (∀ k o, d.region ea n ≠ some (.island k o)) ∧
        (∀ o, d.region ea n ≠ some (.lagoon (islOf (d.seenTid tid)) o)) ∧ code = 3) ∨
      (ea % n = 0 ∧ sp = 3#2 ∧ pasid.getLsbD 31 = false ∧ code = 3)) : issueCheck d tid pasid sp ea n = some code := by
  unfold issueCheck
  rcases h with ⟨hal, rfl⟩ | ⟨hal, rfl, hlim, rfl⟩ | ⟨hal, rfl, hlim, rfl⟩ | ⟨hal, rfl, hlim, rfl⟩ | ⟨hal, rfl, hlim, hisl, hlag, rfl⟩ | ⟨hal, rfl, hv, rfl⟩
  · rw [if_pos hal]
  · simp [hal, hlim]
  · simp only [hal, ne_eq, not_true_eq_false, if_false]; exact if_pos hlim
  · simp only [hal, ne_eq, not_true_eq_false, if_false]; exact if_pos hlim
  · simp only [hal, ne_eq, not_true_eq_false, if_false]
    refine (if_neg (Nat.not_le.mpr hlim)).trans ?_
    split
    · next k o hr => exact absurd hr (hisl k o)
    · next k o hr =>
      rw [if_neg]
      rintro rfl
      exact hlag o hr
    · rfl
  · simp only [hal, ne_eq, not_true_eq_false, if_false]
    exact if_neg (by rw [hv]; decide)

/-- Settles O9: each of the three kinds of access raises what the check of R107 answers. -/
theorem memoryAccessesAreCheckedAtIssue : Obligations.MemoryAccessesAreCheckedAtIssue := by
  unfold Obligations.MemoryAccessesAreCheckedAtIssue
  intro i sp sz r ra rb off s d0 ea n code hpred _ hfail
  have hchk : issueCheck (actsOn i s) i.tid.val (d0.thread i.tid.val).pasid sp ea n = some code := issueCheck_fails hfail
  refine ⟨fun hn hea => ⟨fun h => ?_, fun h => ?_⟩, fun hn hea hsp op _ h => ?_⟩
  · subst hn
    have hea' : effAddr ((d0.thread i.tid.val).reg ra) off (szBytes sz) = ea := effAddr_eq hea
    have hchk' : issueCheck (actsOn i s) i.tid.val (d0.thread i.tid.val).pasid sp ea (szBytes sz) = some code := hchk
    refine issue_raises hpred h ?_
    simp only [hea', hchk']
  · subst hn
    have hea' : effAddr ((d0.thread i.tid.val).reg ra) off (szBytes sz) = ea := effAddr_eq hea
    have hchk' : issueCheck (actsOn i s) i.tid.val (d0.thread i.tid.val).pasid sp ea (szBytes sz) = some code := hchk
    refine issue_raises hpred h ?_
    simp only [hea', hchk']
  · have hsz : atomBytes (if n = 4 then 0#1 else 1#1) = n := by rcases hn with rfl | rfl <;> rfl
    have hlegal : (i.predOk && sp != 3#2) = true := by simp [hpred, hsp]
    rw [exec_atomOp]
    refine issue_raises hlegal h ?_
    simp only [← hea, hsz, hchk]

end Sys2Proof.Machine
end

section
/-! PROOFS. Results of outstanding operations: their return, refusal and abandonment (R68, R69, R111, R112, R129, R412). -/
namespace Sys2Proof.Machine
open Sys2Proof

/-! ## Answers of events -/

/-- An event that the safe state does not stop answers with what its function makes of a powered device. -/
theorem answers_eventOn {c : Instr} {s : State} {f : Dev → Dev} {p : Dev → Prop} (hc : exec c s = eventOn f s) (hl : s.dev.powered = true)
    (hp : p (f s.dev)) : Answers c s p := ⟨_, hc.trans (eventOn_powered f hl), rfl, hp⟩

/-- The state that an event's row answers has a property that holds of every state with the queue as it was and the event's device. -/
theorem runs_eventOn {c : Instr} {s : State} {f : Dev → Dev} {P : State → Prop} (hc : exec c s = eventOn f s) (hl : s.dev.powered = true)
    (hP : ∀ t : State, t.pending = s.pending → t.dev = f s.dev → P t) : ∃ t, exec c s = .next t ∧ P t :=
  ⟨_, hc.trans (eventOn_powered f hl), hP _ rfl rfl⟩

theorem runs_event {c : Instr} {s : State} {f : Dev → Dev} {P : State → Prop} (hc : exec c s = event f s) (hl : s.dev.live = true)
    (hP : ∀ t : State, t.pending = s.pending → t.dev = f s.dev → P t) : ∃ t, exec c s = .next t ∧ P t :=
  ⟨_, hc.trans (event_live f hl), hP _ rfl rfl⟩

/-! ## Exceptions -/

section
variable {rs : List Reg} {a b : Dev}

@[simp] theorem keeps_raiseExc_iff (tid code pc : Nat) (slot : Slot) (operand : Nat) : Keeps rs a (b.raiseExc tid code pc slot operand) ↔ Keeps rs a b := by
  unfold Dev.raiseExc
  split <;> simp

end

@[simp] theorem raiseExc_thread (d : Dev) (tid code pc : Nat) (slot : Slot) (operand u : Nat) : (d.raiseExc tid code pc slot operand).thread u = d.thread u := by
  unfold Dev.raiseExc
  split <;> simp

@[simp] theorem raiseExc_mem (d : Dev) (tid code pc : Nat) (slot : Slot) (operand : Nat) : (d.raiseExc tid code pc slot operand).mem = d.mem := by
  unfold Dev.raiseExc
  split <;> simp

/-- Only a standby's exception is not reported (R413). -/
theorem raiseExc_queue {d : Dev} {tid : Nat} (h : d.isStandby tid = false) (code pc : Nat) (slot : Slot) (operand : Nat) :
    (d.raiseExc tid code pc slot operand).flt.queue = insertReport ⟨639 + code, islOf tid, d.partOf tid, some tid, code,
      BitVec.ofNat 64 (excDetail pc slot operand), d.time.tick, d.time.now⟩ d.flt.queue := by
  unfold Dev.raiseExc
  rw [h]
  rfl

/-- A late exception faults its thread, unless that is IDLE (R129). -/
theorem lateExc_thread_same (d : Dev) (tid code pc : Nat) (slot : Slot) (operand : Nat) (h : (d.thread tid).st ≠ .idle) :
    (d.lateExc tid code pc slot operand).thread tid = { d.thread tid with st := .faulted, wait := .none, stepping := false } := by
  simp [Dev.lateExc, h]

theorem lateExc_thread_ne (d : Dev) {tid u : Nat} (code pc : Nat) (slot : Slot) (operand : Nat) (h : u ≠ tid) :
    (d.lateExc tid code pc slot operand).thread u = d.thread u := by
  simp [Dev.lateExc, Dev.thread_updThread_ne _ _ h]

@[simp] theorem lateExc_mem (d : Dev) (tid code pc : Nat) (slot : Slot) (operand : Nat) : (d.lateExc tid code pc slot operand).mem = d.mem := by
  simp [Dev.lateExc]

/-! ## Simplex threads (R410, R412) -/

theorem simplex_isStandby {d : Dev} {tid : Nat} (h : Simplex d tid) : d.isStandby tid = false := by
  obtain ⟨⟨p, hp, hdup⟩, -⟩ := h
  simp [Dev.isStandby, hp, hdup]

theorem simplex_replays {d : Dev} {tid : Nat} (h : Simplex d tid) : d.replays tid = false := by
  simp [Dev.replays, simplex_isStandby h, h.2]

/-! ## Results that return (R68) -/

/-- A result that has come goes to its destination, and nothing else changes. -/
theorem resultReturn_value {d : Dev} {tid k : Nat} {o : OutOp} {v : Word} {reply : Reply} {p : Nat} (hs : Simplex d tid) (hp : d.partOf tid = some p)
    (ho : (d.thread tid).outs[k]? = some o) (hr : d.reach p tid o reply = .value v d) :
    d.resultReturn tid k reply = d.updThread tid (fun t => (t.dropOut o).setReg o.rd v) := by
  have hdup : (d.updThread tid (fun t => (t.dropOut o).setReg o.rd v)).inDuplex p = false := by
    obtain ⟨⟨q, hq, hdup⟩, -⟩ := hs
    rw [hp] at hq
    cases hq
    exact hdup
  simp only [Dev.resultReturn, hp, ho, simplex_replays hs, hr, Bool.false_and, Bool.false_eq_true, if_false]
  split
  · exact recordInput_simplex v hp hdup
  · rfl

/-- An access that its target refuses is a late exception, and its destination is not written. -/
theorem resultReturn_late {d : Dev} {tid k code operand : Nat} {o : OutOp} {reply : Reply} {p : Nat} (hs : Simplex d tid) (hp : d.partOf tid = some p)
    (ho : (d.thread tid).outs[k]? = some o) (hr : d.reach p tid o reply = .late code operand) :
    d.resultReturn tid k reply = ((d.updThread tid (fun t => t.dropOut o)).endOp (.load tid o.id)).lateExc tid code o.pc o.slot operand := by
  simp only [Dev.resultReturn, hp, ho, simplex_replays hs, hr, Bool.false_and, Bool.false_eq_true, if_false]

/-- A load's value, byte by byte. -/
theorem loadValue_read (d : Dev) (a n ea : Nat) (fwd : Tab Byte) : loadValue (d.read a n) ea fwd =
    BitVec.ofNat 64 (ofLe ((List.range n).map (fun j => (tabFind (ea + j) fwd).getD (d.byte (a + j))))) := by
  have hlen : (d.read a n).length = n := by simp [Dev.read, memBytes]
  rw [loadValue, hlen]
  congr 2
  refine List.map_congr_left fun j hj => ?_
  have hj' : j < n := List.mem_range.mp hj
  congr 1
  simp [Dev.read, memBytes, hj', Dev.byte]

/-- What a load in local, island or DDR space comes to. -/
theorem reach_load {d : Dev} {p tid ea n : Nat} {sp : BitVec 2} {fwd : Tab Byte} {o : OutOp} (reply : Reply) (hres : o.res = none)
    (hk : o.kind = .load sp ea n fwd) (hsp : sp.toNat < 3) :
    d.reach p tid o reply = d.atTarget p tid sp ea n (fun a d => (loadValue (d.read a n) ea fwd, d)) := by
  have hne : sp.toNat ≠ 3 := by omega
  simp only [Dev.reach, hres, hk, hne, if_false]

theorem updThread_effect (d : Dev) (tid : Nat) (f : Thread → Thread) : (d.updThread tid f).mem = d.mem ∧ (d.updThread tid f).regs = d.regs ∧
    (∀ u, u ≠ tid → (d.updThread tid f).thread u = d.thread u) ∧ (d.updThread tid f).thread tid = f (d.thread tid) :=
  ⟨rfl, rfl, fun _ hu => d.thread_updThread_ne f hu, d.thread_updThread_same tid f⟩

/-- Settles O10. -/
theorem outstandingResultsReturn : Obligations.OutstandingResultsReturn := by
  unfold Obligations.OutstandingResultsReturn
  intro tid k reply o s hpow ho
  have ret : exec (.memResultReturn tid k reply) s = .next { s with bundle := none, dev := s.dev.resultReturn tid.val k reply } := eventOn_powered (fun d => d.resultReturn tid.val k reply) hpow
  refine ⟨fun v hs hres => ?_, fun p sp ea n fwd hs hp hres hk hsp hchk => ?_, fun p sp ea n fwd hs hp hres hk hsp hchk hst => ?_,
    fun operand hto hage hst hsb => ?_, fun e es hl hse hsb => ?_⟩
  · obtain ⟨p, hp, -⟩ := hs.1
    rw [resultReturn_value hs hp ho (v := v) (by simp [Dev.reach, hres])] at ret
    exact ⟨_, ret, rfl, updThread_effect ..⟩
  · have hr : s.dev.reach p tid.val o reply = .value (loadValue (s.dev.read (physAddr s.dev tid.val sp ea) n) ea fwd) s.dev := by
      rw [reach_load reply hres hk hsp, Dev.atTarget, hchk]
    rw [resultReturn_value hs hp ho hr, loadValue_read] at ret
    exact ⟨_, ret, rfl, updThread_effect ..⟩
  · have hr : s.dev.reach p tid.val o reply = .late 3 ea := by
      rw [reach_load reply hres hk hsp, Dev.atTarget, hchk]
    rw [resultReturn_late hs hp ho hr] at ret
    obtain ⟨-, hmem, hthr⟩ : Keeps [.hostFnStat, .hostLinkStat] (s.dev.updThread tid.val (fun t => t.dropOut o))
        ((s.dev.updThread tid.val (fun t => t.dropOut o)).endOp (.load tid.val o.id)) := by simp
    have hthread : ∀ u, ((s.dev.updThread tid.val (fun t => t.dropOut o)).endOp (.load tid.val o.id)).thread u =
        (s.dev.updThread tid.val (fun t => t.dropOut o)).thread u := fun u => by rw [Dev.thread, hthr, ← Dev.thread]
    have hlate := lateExc_thread_same ((s.dev.updThread tid.val (fun t => t.dropOut o)).endOp (.load tid.val o.id)) tid.val 3 o.pc o.slot ea
      (by rw [hthread, Dev.thread_updThread_same]; exact hst)
    refine ⟨_, ret, (lateExc_mem ..).trans hmem, ?_, fun r => ?_, fun u hu => ?_⟩
    · exact congrArg Thread.st hlate
    · refine (congrArg (Thread.reg · r) hlate).trans ?_
      rw [hthread, Dev.thread_updThread_same]
      rfl
    · exact ((lateExc_thread_ne _ _ _ _ _ hu).trans (hthread u)).trans (s.dev.thread_updThread_ne _ hu)
  · have hnow : ¬ s.dev.ns < o.since + 100000 := Nat.not_lt.mpr hage
    refine runs_eventOn (rfl : execMemTimeout tid k s = _) hpow fun t hq hd => ?_
    simp only [ho, hto, hnow, if_false] at hd
    refine ⟨hq, ?_, ?_, fun u hu => ?_, ?_⟩
    all_goals rw [hd]
    · simp
    · rw [lateExc_thread_same _ _ _ _ _ _ (by simpa [Thread.dropOut] using hst)]
      simp [Thread.dropOut]
    · rw [lateExc_thread_ne _ _ _ _ _ hu]
      simp [Dev.thread_updThread_ne _ _ hu]
    · rw [Dev.lateExc, Dev.updThread_flt]
      exact raiseExc_queue (by exact hsb) _ _ _ _
  · refine runs_event (rfl : execStoreErrorResponse tid s = _) hl fun t hq hd => ?_
    simp only [hse, List.isEmpty_cons, Bool.false_eq_true, if_false] at hd
    refine ⟨hq, ?_, ?_, fun u hu => ?_, ?_⟩
    all_goals rw [hd]
    · simp
    · simp
    · simp [Dev.thread_updThread_ne _ _ hu]
    · exact raiseExc_queue (by exact hsb) _ _ _ _

end Sys2Proof.Machine
end

section
/-! PROOFS. Requests that meet at an arbiter, and locks (R67, R70 to R74, R114, R262). -/
namespace Sys2Proof.Machine
open Sys2Proof

/-! ## The first after the previous winner (R72, R262) -/

/-- No two threads stand equally far behind the previous winner. -/
theorem after_inj {prev a b : Nat} (hp : prev < 576) (ha : a < 576) (hb : b < 576) (h : Claims.after prev a = Claims.after prev b) : a = b := by
  unfold Claims.after at h
  omega

/-- One comparison of `firstAfter`. -/
def nearer (prev : Nat) (best : Option Nat) (t : Nat) : Option Nat :=
  match best with
  | none => some t
  | some b => if (t + 576 - prev - 1) % 576 < (b + 576 - prev - 1) % 576 then some t else best

theorem firstAfter_eq (prev : Nat) (ws : List Nat) : firstAfter prev ws = ws.foldl (nearer prev) none := rfl

/-- Going on from a best thread, the choice is that thread or one of the list, and stands no farther than any of them. -/
theorem foldl_nearer (prev : Nat) (ws : List Nat) (b : Nat) : ∃ r, ws.foldl (nearer prev) (some b) = some r ∧ (r = b ∨ r ∈ ws) ∧
    ∀ u, u = b ∨ u ∈ ws → Claims.after prev r ≤ Claims.after prev u := by
  induction ws generalizing b with
  | nil => exact ⟨b, rfl, .inl rfl, fun u hu => by simp at hu; simp [hu]⟩
  | cons x ws ih =>
    have take : ∀ y z, nearer prev (some b) x = some y → (y = b ∨ y = x) → (z = b ∨ z = x) → y ≠ z → Claims.after prev y ≤ Claims.after prev z →
        ∃ r, (x :: ws).foldl (nearer prev) (some b) = some r ∧ (r = b ∨ r ∈ x :: ws) ∧
          ∀ u, u = b ∨ u ∈ x :: ws → Claims.after prev r ≤ Claims.after prev u := by
      intro y z hy hyx hzx hyz hle
      obtain ⟨r, hr, hmem, hmin⟩ := ih y
      refine ⟨r, by rw [List.foldl_cons, hy, hr], ?_, fun u hu => ?_⟩
      · rcases hmem with rfl | hmem
        · rcases hyx with rfl | rfl <;> simp
        · simp [hmem]
      · have hyr := hmin y (.inl rfl)
        have : u = y ∨ u = z ∨ u ∈ ws := by
          rcases hu with rfl | hu
          · rcases hyx with h | h <;> rcases hzx with h' | h' <;> simp_all
          · rcases List.mem_cons.mp hu with rfl | hu
            · rcases hyx with h | h <;> rcases hzx with h' | h' <;> simp_all
            · exact .inr (.inr hu)
        rcases this with rfl | rfl | hu
        · exact hyr
        · exact hyr.trans hle
        · exact hmin u (.inr hu)
    by_cases hxb : x = b
    · subst hxb
      obtain ⟨r, hr, hmem, hmin⟩ := ih x
      refine ⟨r, by simpa [nearer] using hr, by simp [hmem], fun u hu => hmin u (by simpa using hu)⟩
    · by_cases hlt : (x + 576 - prev - 1) % 576 < (b + 576 - prev - 1) % 576
      · exact take x b (if_pos hlt) (.inr rfl) (.inl rfl) hxb (Nat.le_of_lt hlt)
      · exact take b x (if_neg hlt) (.inl rfl) (.inr rfl) (Ne.symm hxb) (Nat.not_lt.mp hlt)

/-- The thread that stands nearest behind the previous winner is the arbiter's choice. -/
theorem firstAfter_eq_some {prev w : Nat} {ws : List Nat} (hp : prev < 576) (hws : ∀ u ∈ ws, u < 576) (hw : w ∈ ws)
    (hmin : ∀ u ∈ ws, Claims.after prev w ≤ Claims.after prev u) : firstAfter prev ws = some w := by
  cases ws with
  | nil => simp at hw
  | cons x ws =>
    obtain ⟨r, hr, hmem, hle⟩ := foldl_nearer prev ws x
    have hrmem : r ∈ x :: ws := by simpa using hmem
    have heq : Claims.after prev r = Claims.after prev w := Nat.le_antisymm (hle w (by simpa using hw)) (hmin r hrmem)
    rw [firstAfter_eq, List.foldl_cons]
    exact hr.trans (by rw [after_inj hp (hws r hrmem) (hws w hw) heq])

/-! ## Answers of an arbiter -/

section
variable {d : Dev} {tid u : Nat} {p : OutKind → Bool} {v : Word}

@[simp] theorem answer_regs : (d.answer tid p v).regs = d.regs := rfl
@[simp] theorem answer_mem : (d.answer tid p v).mem = d.mem := rfl
@[simp] theorem answer_dma : (d.answer tid p v).dma = d.dma := rfl

theorem answer_thread_ne (h : u ≠ tid) : (d.answer tid p v).thread u = d.thread u := d.thread_updThread_ne _ h

theorem asks_any (h : d.asks tid p = true) : (d.thread tid).outs.any (fun o => p o.kind && o.res.isNone) = true :=
  ((Bool.and_eq_true _ _).mp h).1

/-- A thread that asks finds its answer in the request's place. -/
theorem answer_gives (hany : (d.thread tid).outs.any (fun o => p o.kind && o.res.isNone) = true) :
    ∃ o ∈ ((d.answer tid p v).thread tid).outs, p o.kind = true ∧ o.res = some v := by
  rw [← List.findIdx?_isSome] at hany
  obtain ⟨k, hk⟩ := Option.isSome_iff_exists.mp hany
  obtain ⟨hlt, hpk, -⟩ := List.findIdx?_eq_some_iff_getElem.mp hk
  rw [Dev.answer, Dev.thread_updThread_same, hk]
  refine ⟨{ (d.thread tid).outs[k] with res := some v }, ?_, (Bool.and_eq_true _ _ ▸ hpk).1, rfl⟩
  refine List.mem_iff_getElem.mpr ⟨k, by simpa using hlt, ?_⟩
  simp

end

/-- One thread of several is told that it has lost. -/
def Dev.tellLost (p : OutKind → Bool) (v : Word) (ev : Nat) (d : Dev) (t : Nat) : Dev :=
  (d.answer t p v).count (evE (islOf t) (16 * (coreOf t % 16) + ev))

/-- Telling threads that they have lost changes only those threads, and their counters. -/
theorem foldl_tellLost (p : OutKind → Bool) (v : Word) (ev : Nat) (ts : List Nat) (d : Dev) :
    (ts.foldl (Dev.tellLost p v ev) d).regs = d.regs ∧ (ts.foldl (Dev.tellLost p v ev) d).mem = d.mem ∧
      (ts.foldl (Dev.tellLost p v ev) d).dma = d.dma ∧ ∀ u ∉ ts, (ts.foldl (Dev.tellLost p v ev) d).thread u = d.thread u := by
  induction ts generalizing d with
  | nil => exact ⟨rfl, rfl, rfl, fun _ _ => rfl⟩
  | cons t ts ih =>
    obtain ⟨hr, hm, hd, ht⟩ := ih (d.tellLost p v ev t)
    refine ⟨hr, hm, hd, fun u hu => ?_⟩
    obtain ⟨hne, hu⟩ : u ≠ t ∧ u ∉ ts := by simpa using hu
    exact (ht u hu).trans (answer_thread_ne hne)

/-! ## Lock requests (R70, R114) -/

section
variable {d : Dev} {tid p n : Nat} {base : Word} {imm : BitVec 12}

/-- The lock that an instruction names, on numbers. -/
theorem lock_number_eq (h : (n : Int) = (base.toNat + imm.toNat) % 2 ^ 64) : (base + zext64 imm).toNat = n := by
  have hi : imm.toNat < 2 ^ 12 := imm.isLt
  rw [BitVec.toNat_add, zext64, BitVec.toNat_setWidth, Nat.mod_eq_of_lt (by omega : imm.toNat < 2 ^ 64)]
  omega

theorem lockNumber_granted (hp : d.partOf tid = some p) (h : (n : Int) = (base.toNat + imm.toNat) % 2 ^ 64) (hn : n < 4096)
    (hg : d.granted p 2 0 n = true) : lockNumber d tid base imm = some n := by
  simp [lockNumber, lock_number_eq h, hp, hn, hg]

theorem lockNumber_refused (hp : d.partOf tid = some p) (h : (n : Int) = (base.toNat + imm.toNat) % 2 ^ 64)
    (hg : 4096 ≤ n ∨ d.granted p 2 0 n = false) : lockNumber d tid base imm = none := by
  rcases hg with hn | hg
  · simp [lockNumber, lock_number_eq h, hp, Nat.not_lt.mpr hn]
  · simp [lockNumber, lock_number_eq h, hp, hg]

/-- A thread whose store queue is empty has nothing to deliver. -/
theorem flush_of_empty (h : (d.thread tid).stq = []) : d.flush tid = d := by simp [Dev.flush, h]

end

/-! ## A lock's register (R71) -/

theorem winLock_word (w : Nat) : BitVec.ofNat 64 (w * 2 ^ 32 + 2 ^ 16 + w) = Claims.lockWord w w := by
  unfold Claims.lockWord
  congr 1
  ring

theorem winLock_reg_same (d : Dev) (n w : Nat) : (d.winLock n w).reg .lock n = Claims.lockWord w w := by
  rw [Dev.winLock, Dev.reg_setReg_same, winLock_word]

theorem winLock_reg_ne (d : Dev) {n w k : Nat} {r : Reg} (h : r ≠ .lock ∨ k ≠ n) : (d.winLock n w).reg r k = d.reg r k := by
  rw [Dev.winLock, Dev.reg_setReg_ne _ _ h]

theorem freeLock_reg_ne (d : Dev) {n k : Nat} {r : Reg} (h : r ≠ .lock ∨ k ≠ n) : (d.freeLock n).reg r k = d.reg r k := by
  rw [Dev.freeLock, Dev.reg_setReg_ne _ _ h]

/- A lock's word is written by rewriting, and not by unfolding both sides: its previous winner stands above bit 32. -/

theorem winLock_mem (d : Dev) (n w : Nat) : (d.winLock n w).mem = d.mem := by rw [Dev.winLock, Dev.setReg_mem]
theorem winLock_thread (d : Dev) (n w u : Nat) : (d.winLock n w).thread u = d.thread u := by rw [Dev.winLock, Dev.thread, Dev.setReg_thr, ← Dev.thread]
theorem freeLock_flt (d : Dev) (n : Nat) : (d.freeLock n).flt = d.flt := by rw [Dev.freeLock, Dev.setReg_flt]

/-- A freed lock is not held and keeps its previous winner (R71, R74). -/
theorem freeLock_effect (d : Dev) (n : Nat) : (d.freeLock n).lockHeld n = false ∧ (d.freeLock n).lockPrev n = d.lockPrev n := by
  have hlt : d.lockPrev n < 2 ^ 10 := fld_lt _ _ _
  have hreg : (d.freeLock n).reg .lock n = BitVec.ofNat 64 (d.lockPrev n * 2 ^ 32) := d.reg_setReg_same _ _ _
  have hword : (BitVec.ofNat 64 (d.lockPrev n * 2 ^ 32)).toNat = d.lockPrev n * 2 ^ 32 := by
    rw [BitVec.toNat_ofNat]; omega
  constructor
  · rw [Dev.lockHeld, Dev.rb, hreg, wbit_eq_wf, wf, hword, fld_eq_div]
    simp only [decide_eq_false_iff_not]
    omega
  · show wf ((d.freeLock n).reg .lock n) 32 10 = _
    rw [hreg, wf, hword, fld_eq_div]
    omega

/-- The acquires of a lock among some threads. -/
def Dev.acquirers (d : Dev) (n : Nat) (who : List Nat) : List Nat := who.filter (fun t => d.asks t (fun k => k == OutKind.acquire n))

/-- At a free lock the arbiter's choice wins and is told so, and every other thread that asks is told who has won (R71, R72). -/
theorem lockArbitrate_free {d : Dev} {n w : Nat} {who : List Nat} (hfree : d.lockHeld n = false) (hw : firstAfter (d.lockPrev n) (d.acquirers n who) = some w) :
    d.lockArbitrate n who = ((d.acquirers n who).filter (· != w)).foldl (Dev.tellLost (fun k => k == OutKind.acquire n) (BitVec.ofNat 64 w) 7)
      ((d.winLock n w).answer w (fun k => k == OutKind.acquire n) (BitVec.ofNat 64 (2 ^ 16 + w))) := by
  simp only [Dev.acquirers] at hw
  simp only [Dev.lockArbitrate, hfree, hw, Bool.false_eq_true, if_false]
  rfl

/-- At a held lock every thread that asks is told its owner (R71). -/
theorem lockArbitrate_held {d : Dev} {n : Nat} {who : List Nat} (hheld : d.lockHeld n = true) :
    d.lockArbitrate n who = (d.acquirers n who).foldl (Dev.tellLost (fun k => k == OutKind.acquire n) (BitVec.ofNat 64 (d.lockOwner n)) 7) d := by
  simp only [Dev.lockArbitrate, hheld, if_true]
  rfl

/-- What a release does at its lock: the owner's frees it, another's is LOCK_MISUSE (R71). -/
def Dev.releaseAt (d : Dev) (n tid pc : Nat) (sl : Slot) : Dev :=
  let e := { d with relPend := d.relPend.erase (n, tid, pc, sl) }
  if d.lockHeld n && d.lockOwner n == tid then e.freeLock n
  else e.raise 656 (2 + n / 1024) (d.partOf tid) (some tid) 0 (n + (if d.lockHeld n then d.lockOwner n else 0x3FF) * 2 ^ 16 + tid * 2 ^ 32)

theorem lockReleaseArrive_next {s : State} (lock : Fin 4096) {tid pc : Nat} {sl : Slot} (hl : s.dev.live = true)
    (hrel : s.dev.relPend.find? (fun r => r.1 == lock.val) = some (lock.val, tid, pc, sl)) :
    exec (.lockReleaseArrive lock) s = .next { s with bundle := none, dev := s.dev.releaseAt lock.val tid pc sl } := by
  show execLockReleaseArrive lock s = _
  rw [execLockReleaseArrive, event_live _ hl]
  simp only [hrel]
  rfl

/-- LKACQ and LKREL (R70, R114). -/
theorem lock_instructions : (∀ (i : Issue) (rd ra : BitVec 5) (imm : BitVec 12) (s : State) (d0 : Dev) (p n : Nat),
    i.predOk = true → (actsOn i s).partOf i.tid.val = some p → (n : Int) = (((d0.thread i.tid.val).reg ra).toNat + imm.toNat) % 2 ^ 64 →
    (n < 4096 → (actsOn i s).granted p 2 0 n = true → Issues i true (destG rd) [rd, ra] s d0 → ∃ t, exec (.lkacq i rd ra imm) s = .next t ∧
      t.dev.regs = s.dev.regs ∧ t.dev.mem = s.dev.mem ∧ t.pending = s.pending ∧ (∀ u, u ≠ i.tid.val → t.dev.thread u = s.dev.thread u) ∧
      t.dev.thread i.tid.val = (let x := (actsOn i s).thread i.tid.val
        { x with outs := x.outs ++ [⟨x.nextId, .acquire n, rd, (d0.thread i.tid.val).pc, i.slot, s.dev.ns, (d0.thread i.tid.val).pasid, none⟩],
                 nextId := x.nextId + 1 })) ∧
    (n < 4096 → (actsOn i s).granted p 2 0 n = true → (actsOn i s).isStandby i.tid.val = false → ((actsOn i s).thread i.tid.val).stq = [] →
      Issues i true 0 [ra] s d0 → ∃ t, exec (.lkrel i ra imm) s = .next t ∧
      Does { actsOn i s with relPend := s.dev.relPend ++ [(n, i.tid.val, (d0.thread i.tid.val).pc, i.slot)] } s t) ∧
    (n < 4096 → (actsOn i s).granted p 2 0 n = true → ((actsOn i s).flush i.tid.val).isStandby i.tid.val = false → Issues i true 0 [ra] s d0 →
      ∃ t, exec (.lkrel i ra imm) s = .next t ∧ Does { (actsOn i s).flush i.tid.val with
        relPend := ((actsOn i s).flush i.tid.val).relPend ++ [(n, i.tid.val, (d0.thread i.tid.val).pc, i.slot)] } s t) ∧
    (4096 ≤ n ∨ (actsOn i s).granted p 2 0 n = false →
      (Issues i true (destG rd) [rd, ra] s d0 → ∃ t, exec (.lkacq i rd ra imm) s = .next t ∧ Excepts i 3 n d0 s t) ∧
      (Issues i true 0 [ra] s d0 → ∃ t, exec (.lkrel i ra imm) s = .next t ∧ Excepts i 3 n d0 s t))) := by
  refine fun i rd ra imm s d0 p n hpred hp hn => ⟨fun hlt hg h => ?_, fun hlt hg hsb hq h => ?_, fun hlt hg hsb h => ?_, fun hg => ⟨fun h => ?_, fun h => ?_⟩⟩
  · refine issue_does hpred h (d2 := ((actsOn i s).sendOp i.tid.val (d0.thread i.tid.val) i.slot (.acquire n) rd none).count
        (evE (islOf i.tid.val) (16 * (coreOf i.tid.val % 16) + 6))) ?_ (fun t hd => ⟨?_, ?_, hd.1, fun u hu => ?_, ?_⟩)
    · simp only [lockNumber_granted hp hn hlt hg]
    · rw [does_regs hd]; simp [Dev.sendOp]
    · rw [does_mem hd]; simp [Dev.sendOp]
    · rw [does_thread hd, Dev.count_thread, sendOp_thread_ne _ _ _ _ _ _ hu, actsOn_thread_ne i s hu]
    · rw [does_thread hd, Dev.count_thread, sendOp_thread, actsOn_ns]
  · refine issue_does hpred h ?_ (fun t hd => hd)
    have hrel : (actsOn i s).relPend = s.dev.relPend := by unfold actsOn afterIssue; split <;> rfl
    simp only [lockNumber_granted hp hn hlt hg, flush_of_empty hq, hsb, Bool.false_eq_true, if_false, hrel]
  · refine issue_does hpred h ?_ (fun t hd => hd)
    simp only [lockNumber_granted hp hn hlt hg, hsb, Bool.false_eq_true, if_false]
  · refine issue_raises hpred h ?_
    simp only [lockNumber_refused hp hn hg, lock_number_eq hn]
  · refine issue_raises hpred h ?_
    simp only [lockNumber_refused hp hn hg, lock_number_eq hn]

/-- The home island's decisions (R71, R72). -/
theorem lock_arbiter : (∀ (lock : Fin 4096) (s : State), s.dev.live = true →
    (∀ (who : List (Fin 576)) (w : Fin 576), s.dev.lockHeld lock.val = false → s.dev.lockPrev lock.val < 576 → w ∈ who →
      Claims.acquires s.dev lock.val w.val →
      (∀ u ∈ who, Claims.acquires s.dev lock.val u.val → Claims.after (s.dev.lockPrev lock.val) w.val ≤ Claims.after (s.dev.lockPrev lock.val) u.val) →
      ∃ t, exec (.lockArbitrate lock who) s = .next t ∧ t.pending = s.pending ∧ t.dev.mem = s.dev.mem ∧
        t.dev.reg .lock lock.val = Claims.lockWord w.val w.val ∧
        (∀ r k, (r ≠ Reg.lock ∨ k ≠ lock.val) → t.dev.reg r k = s.dev.reg r k) ∧
        (∃ o ∈ (t.dev.thread w.val).outs, o.kind = .acquire lock.val ∧ o.res = some (BitVec.ofNat 64 (2 ^ 16 + w.val)))) ∧
    (∀ w : Fin 576, s.dev.lockHeld lock.val = true → Claims.acquires s.dev lock.val w.val →
      ∃ t, exec (.lockArbitrate lock [w]) s = .next t ∧ t.pending = s.pending ∧ t.dev.regs = s.dev.regs ∧ t.dev.mem = s.dev.mem ∧
        (∃ o ∈ (t.dev.thread w.val).outs, o.kind = .acquire lock.val ∧ o.res = some (BitVec.ofNat 64 (s.dev.lockOwner lock.val)))) ∧
    (∀ tid pc sl, s.dev.relPend.find? (fun r => r.1 == lock.val) = some (lock.val, tid, pc, sl) → s.dev.lockHeld lock.val = true →
      s.dev.lockOwner lock.val = tid → ∃ t, exec (.lockReleaseArrive lock) s = .next t ∧ t.pending = s.pending ∧
        t.dev.lockHeld lock.val = false ∧ t.dev.lockPrev lock.val = s.dev.lockPrev lock.val ∧ t.dev.flt.queue = s.dev.flt.queue ∧
        (∀ r k, (r ≠ Reg.lock ∨ k ≠ lock.val) → t.dev.reg r k = s.dev.reg r k)) ∧
    (∀ tid pc sl, s.dev.relPend.find? (fun r => r.1 == lock.val) = some (lock.val, tid, pc, sl) →
      (s.dev.lockHeld lock.val = false ∨ s.dev.lockOwner lock.val ≠ tid) → ∃ t, exec (.lockReleaseArrive lock) s = .next t ∧
        t.pending = s.pending ∧ t.dev.regs = s.dev.regs ∧ t.dev.mem = s.dev.mem ∧
        t.dev.flt.queue = insertReport ⟨656, 2 + lock.val / 1024, s.dev.partOf tid, some tid, 0,
          BitVec.ofNat 64 (lock.val + (if s.dev.lockHeld lock.val then s.dev.lockOwner lock.val else 0x3FF) * 2 ^ 16 + tid * 2 ^ 32),
          s.dev.time.tick, s.dev.time.now⟩ s.dev.flt.queue)) := by
  refine fun lock s hl => ⟨fun who w hfree hprev hw hask hmin => ?_, fun w hheld hask => ?_, fun tid pc sl hrel hheld howner => ?_, fun tid pc sl hrel hno => ?_⟩
  · refine runs_event (rfl : execLockArbitrate lock who s = _) hl fun t hq hd => ?_
    have hmem : w.val ∈ s.dev.acquirers lock.val (who.map (·.val)) := List.mem_filter.mpr ⟨List.mem_map_of_mem hw, hask⟩
    have hof : ∀ u ∈ s.dev.acquirers lock.val (who.map (·.val)), ∃ v ∈ who, v.val = u ∧ Claims.acquires s.dev lock.val v.val := by
      intro u hu
      obtain ⟨hu, hasks⟩ := List.mem_filter.mp hu
      obtain ⟨v, hv, rfl⟩ := List.mem_map.mp hu
      exact ⟨v, hv, rfl, hasks⟩
    have hfirst : firstAfter (s.dev.lockPrev lock.val) (s.dev.acquirers lock.val (who.map (·.val))) = some w.val := by
      refine firstAfter_eq_some hprev (fun u hu => ?_) hmem (fun u hu => ?_)
      · obtain ⟨v, -, rfl, -⟩ := hof u hu
        exact v.isLt
      · obtain ⟨v, hv, rfl, hasks⟩ := hof u hu
        exact hmin v hv hasks
    rw [lockArbitrate_free hfree hfirst] at hd
    obtain ⟨hregs, hm, -, hthr⟩ := foldl_tellLost (fun k => k == OutKind.acquire lock.val) (BitVec.ofNat 64 w.val) 7
      ((s.dev.acquirers lock.val (who.map (·.val))).filter (· != w.val))
      ((s.dev.winLock lock.val w.val).answer w.val (fun k => k == OutKind.acquire lock.val) (BitVec.ofNat 64 (2 ^ 16 + w.val)))
    rw [← hd] at hregs hm hthr
    have hreg : ∀ r k, t.dev.reg r k = (s.dev.winLock lock.val w.val).reg r k := fun r k => by simp only [Dev.reg, hregs, answer_regs]
    refine ⟨hq, by rw [hm, answer_mem, winLock_mem], ?_, fun r k hr => ?_, ?_⟩
    · rw [hreg, winLock_reg_same]
    · rw [hreg, winLock_reg_ne _ hr]
    · obtain ⟨o, ho, hk, hres⟩ := answer_gives (d := s.dev.winLock lock.val w.val) (tid := w.val) (v := BitVec.ofNat 64 (2 ^ 16 + w.val))
        (p := fun k => k == OutKind.acquire lock.val) (by rw [winLock_thread]; exact asks_any hask)
      rw [hthr w.val (by simp)]
      exact ⟨o, ho, by simpa using hk, hres⟩
  · refine runs_event (rfl : execLockArbitrate lock [w] s = _) hl fun t hq hd => ?_
    have hws : s.dev.acquirers lock.val ([w].map (·.val)) = [w.val] := by
      have hask' : s.dev.asks w.val (fun k => k == OutKind.acquire lock.val) = true := hask
      simp [Dev.acquirers, hask']
    rw [lockArbitrate_held hheld, hws, List.foldl_cons, List.foldl_nil] at hd
    obtain ⟨o, ho, hk, hres⟩ := answer_gives (v := BitVec.ofNat 64 (s.dev.lockOwner lock.val)) (asks_any hask)
    refine ⟨hq, by rw [hd]; rfl, by rw [hd]; rfl, o, ?_, by simpa using hk, hres⟩
    rw [hd]
    exact ho
  · have hown : (s.dev.lockHeld lock.val && s.dev.lockOwner lock.val == tid) = true := by simp [hheld, howner]
    have hx := lockReleaseArrive_next lock hl hrel
    rw [Dev.releaseAt, if_pos hown] at hx
    obtain ⟨hfree, hprev⟩ := freeLock_effect { s.dev with relPend := s.dev.relPend.erase (lock.val, tid, pc, sl) } lock.val
    exact ⟨_, hx, rfl, hfree, hprev.trans (by simp only [Dev.lockPrev, Dev.rf, Dev.reg]), congrArg Flt.queue (freeLock_flt _ _), fun r k hr => freeLock_reg_ne _ hr⟩
  · have hown : ¬ (s.dev.lockHeld lock.val && s.dev.lockOwner lock.val == tid) = true := by
      rcases hno with h | h <;> simp [h]
    have hx := lockReleaseArrive_next lock hl hrel
    rw [Dev.releaseAt, if_neg hown] at hx
    exact ⟨_, hx, rfl, rfl, rfl, rfl⟩


/-- Settles O11. -/
theorem locksAreAskedForAndArbitrated : Obligations.LocksAreAskedForAndArbitrated := by
  unfold Obligations.LocksAreAskedForAndArbitrated
  exact ⟨lock_instructions, lock_arbiter⟩

end Sys2Proof.Machine
end

section
/-! PROOFS. TADD, TNOW, TNOWH, TSET and TCLR, and the expansion of a time word (R32, R61, R105, R115). -/
namespace Sys2Proof.Machine
open Sys2Proof

/-! ## Time words (R105, R115) -/

theorem timeWordOk_iff (w : Word) : timeWordOk w = true ↔ w.toNat % 2 ^ 32 < 1000000000 := by
  unfold timeWordOk nsPerSec
  exact decide_eq_true_iff

theorem timeWordOk_of_lt {w : Word} (h : w.toNat % 2 ^ 32 < 1000000000) : timeWordOk w = true := (timeWordOk_iff w).mpr h

theorem timeWordOk_of_le {w : Word} (h : 1000000000 ≤ w.toNat % 2 ^ 32) : timeWordOk w = false := by
  rw [Bool.eq_false_iff]
  exact fun hw => absurd ((timeWordOk_iff w).mp hw) (Nat.not_lt.mpr h)

/-- The sum of a time word and signed nanoseconds, normalised. -/
theorem timeAdd_eq {a b : Word} {sec ns : Nat} (hns : ns < 1000000000) (ha : a.toNat = sec * 2 ^ 32 + ns) :
    timeAdd a b = BitVec.ofNat 64 (((sec + ((ns : Int) + b.toInt) / 1000000000) % 2 ^ 32).toNat * 2 ^ 32 + (((ns : Int) + b.toInt) % 1000000000).toNat) := by
  have h1 : a.toNat % 2 ^ 32 = ns := by omega
  have h2 : a.toNat / 2 ^ 32 = sec := by omega
  simp only [timeAdd, h1, h2, nsPerSec]
  rfl

/-- The second nearest to `now` whose low 32 bits are `sec` (R105). -/
def nearestSecond (now sec : Nat) : Nat :=
  let s0 := now / 2 ^ 32 * 2 ^ 32 + sec
  let s1 := if s0 > now + 2 ^ 31 then s0 - 2 ^ 32 else s0
  if s1 + 2 ^ 31 < now then s1 + 2 ^ 32 else s1

theorem expandTime_eq (now : Nat) (w : Word) :
    expandTime now w = nearestSecond now (w.toNat / 2 ^ 32) * nsPerSec + w.toNat % 2 ^ 32 := rfl

theorem nearestSecond_spec {now sec : Nat} (hsec : sec < 2 ^ 32) (hnow : 2 ^ 31 ≤ now ∨ sec ≤ now + 2 ^ 31) :
    nearestSecond now sec % 2 ^ 32 = sec ∧ nearestSecond now sec ≤ now + 2 ^ 31 ∧ now ≤ nearestSecond now sec + 2 ^ 31 := by
  unfold nearestSecond
  dsimp only
  refine ⟨?_, ?_, ?_⟩
  all_goals repeat' split
  all_goals omega

theorem expandTime_nearest {now sec ns : Nat} (hns : ns < 1000000000) (hsec : sec < 2 ^ 32) (hnow : 2 ^ 31 ≤ now ∨ sec ≤ now + 2 ^ 31) :
    ∃ q : Nat, expandTime now (BitVec.ofNat 64 (sec * 2 ^ 32 + ns)) = q * 1000000000 + ns ∧ q % 2 ^ 32 = sec ∧ q ≤ now + 2 ^ 31 ∧ now ≤ q + 2 ^ 31 := by
  have hw : (BitVec.ofNat 64 (sec * 2 ^ 32 + ns)).toNat = sec * 2 ^ 32 + ns := by
    rw [BitVec.toNat_ofNat]; omega
  have hhi : (sec * 2 ^ 32 + ns) / 2 ^ 32 = sec := by omega
  have hlo : (sec * 2 ^ 32 + ns) % 2 ^ 32 = ns := by omega
  exact ⟨nearestSecond now sec, by rw [expandTime_eq, hw, hhi, hlo]; unfold nsPerSec; rfl, nearestSecond_spec hsec hnow⟩

/-! ## The tick TNOW names (R32) -/

theorem actsOn_tnow (i : Issue) (s : State) : ((actsOn i s).thread i.tid.val).tnow = (s.dev.thread i.tid.val).tnow ∧
    ((actsOn i s).thread i.tid.val).tnowSteps = (s.dev.thread i.tid.val).tnowSteps := by
  unfold actsOn afterIssue
  split
  · exact ⟨rfl, rfl⟩
  · simp [Thread.issued]

theorem tnowTick_bounds (d : Dev) (tid : Nat) (t : Thread) (lag : Bool) :
    (tnowTick d tid t lag ≤ d.islNow (islOf tid) ∨ tnowTick d tid t lag = t.tnow) ∧
      d.islNow (islOf tid) ≤ tnowTick d tid t lag + d.rf .timeAddend 0 0 32 ∧ (t.tnowSteps = d.time.steps → t.tnow ≤ tnowTick d tid t lag) := by
  unfold tnowTick
  generalize d.islNow (islOf tid) = now
  generalize d.rf .timeAddend 0 0 32 = add
  dsimp only
  have hseen : (if lag = true then now - add else now) ≤ now ∧ now ≤ (if lag = true then now - add else now) + add := by
    split <;> omega
  generalize (if lag = true then now - add else now) = seen at hseen ⊢
  by_cases hs : t.tnowSteps = d.time.steps
  · rw [if_pos hs]
    refine ⟨?_, ?_, fun _ => Nat.le_max_right _ _⟩
    · rcases Nat.le_total seen t.tnow with h | h
      · exact .inr (Nat.max_eq_right h)
      · exact .inl ((Nat.max_eq_left h).trans_le hseen.1)
    · exact hseen.2.trans (Nat.add_le_add_right (Nat.le_max_left _ _) _)
  · rw [if_neg hs]
    exact ⟨.inl hseen.1, hseen.2, fun h => absurd h hs⟩

/-- TNOW's device: the thread has the tick and its time word. -/
def Dev.tnowDone (d : Dev) (tid : Nat) (rd : BitVec 5) : Dev :=
  let at_ := tnowTick d.fresh.2 tid (d.fresh.2.thread tid) (wbit d.fresh.1 0)
  d.fresh.2.updThread tid (fun x => ({ x with tnow := at_, tnowSteps := d.time.steps }).setReg rd (timeWord (at_ / 65536)))

/-- Settles O12. -/
theorem timeInstructionsUseTimeWords : Obligations.TimeInstructionsUseTimeWords := by
  unfold Obligations.TimeInstructionsUseTimeWords
  refine ⟨fun i rd ra rb s d0 hpred => ⟨fun sec ns h hns hsec ha => ?_, fun h => ?_, fun h hok => ?_, fun h => ?_,
    fun hbad => ⟨fun h => ?_, fun hslot h => ?_, fun h => ?_⟩, fun now sec ns => expandTime_nearest⟩, fun i rd s d0 hpred h hsim => ?_⟩
  · have hok : timeWordOk ((d0.thread i.tid.val).reg ra) = true := timeWordOk_of_lt (by omega)
    obtain ⟨t, ht, hw⟩ := issue_writes (legal := i.predOk) (cost := 3) hpred h (rd := rd)
      (v := timeAdd ((d0.thread i.tid.val).reg ra) ((d0.thread i.tid.val).reg rb))
      (act := fun t _ d => if !timeWordOk (t.reg ra) then .exc 8 (t.reg ra).toNat else onThread i (fun x => x.setReg rd (timeAdd (t.reg ra) (t.reg rb))) d)
      (by simp [hok])
    rw [timeAdd_eq hns ha] at hw
    exact ⟨t, _, _, ht, Int.emod_nonneg _ (by decide), Int.emod_lt_of_pos _ (by decide), by rw [Int.mul_comm]; exact Int.mul_ediv_add_emod _ _, hw⟩
  · exact issue_writes hpred h rfl
  · refine issue_changes hpred h ?_
    simp only [timeWordOk_of_lt hok, Bool.not_true, Bool.false_eq_true, if_false]
    rfl
  · exact issue_changes hpred h rfl
  · refine issue_raises hpred h ?_
    simp only [timeWordOk_of_le hbad, Bool.not_false, if_true]
  · have hlegal : i.slotAOnly = true := by simp [Issue.slotAOnly, hpred, hslot]
    refine issue_raises hlegal h ?_
    simp only [timeWordOk_of_le hbad, Bool.not_false, if_true]
  · refine issue_raises hpred h ?_
    simp only [timeWordOk_of_le hbad, Bool.not_false, if_true]
  · obtain ⟨p, hp, hdup⟩ := hsim.1
    have hnowT : ∀ isl, (actsOn i s).fresh.2.islNow isl = s.dev.islNow isl := fun isl => by
      unfold Dev.islNow Dev.fresh; dsimp only; rw [actsOn_time]
    have hadd : (actsOn i s).fresh.2.rf .timeAddend 0 0 32 = s.dev.rf .timeAddend 0 0 32 := by
      unfold Dev.rf Dev.reg Dev.fresh; dsimp only; rw [actsOn_regs]
    have hthr : (actsOn i s).fresh.2.thread i.tid.val = (actsOn i s).thread i.tid.val := by unfold Dev.thread Dev.fresh; dsimp only
    have htime : (actsOn i s).fresh.2.time = s.dev.time := (actsOn_time i s)
    obtain ⟨hle, hnow, hsteps⟩ := tnowTick_bounds (actsOn i s).fresh.2 i.tid.val ((actsOn i s).fresh.2.thread i.tid.val) (wbit (actsOn i s).fresh.1 0)
    have hd2 : ∃ t, exec (.tnow i rd) s = .next t ∧ Does ((actsOn i s).tnowDone i.tid.val rd) s t := by
      refine issue_does hpred h ?_ (fun t hd => hd)
      have hrec : ∀ v, ((actsOn i s).tnowDone i.tid.val rd).recordInput i.tid.val v = (actsOn i s).tnowDone i.tid.val rd :=
        fun v => recordInput_simplex v (p := p) hp hdup
      have hrep : (actsOn i s).replays i.tid.val = false := simplex_replays hsim
      simp only [hrep, Bool.false_eq_true, if_false]
      exact congrArg Act.done ((congrArg (fun e => Dev.recordInput e _ _) (hrec _)).trans (hrec _))
    obtain ⟨t, ht, hd⟩ := hd2
    refine ⟨t, tnowTick (actsOn i s).fresh.2 i.tid.val ((actsOn i s).fresh.2.thread i.tid.val) (wbit (actsOn i s).fresh.1 0),
      ht, hd.1, ?_, ?_, fun u hu => ?_, ?_, ?_, ?_, ?_⟩
    · rw [does_regs hd]; exact actsOn_regs i s
    · rw [does_mem hd]; exact actsOn_mem i s
    · rw [does_thread hd]; exact ((Dev.thread_updThread_ne _ _ hu).trans rfl).trans (actsOn_thread_ne i s hu)
    · rw [does_thread hd, Dev.tnowDone, Dev.thread_updThread_same]
      simp only [actsOn_time]
      rfl
    · rwa [hnowT, hthr, (actsOn_tnow i s).1] at hle
    · rwa [hnowT, hadd] at hnow
    · rwa [hthr, (actsOn_tnow i s).1, (actsOn_tnow i s).2, htime] at hsteps

end Sys2Proof.Machine
end

section
/-! PROOFS. The packet, checksum, hash and lookup instructions (R92, R118 to R121, R127). -/
namespace Sys2Proof.Machine
open Sys2Proof

/-! ## Packet instructions (R118, R119) -/

theorem foldl_recordInput_simplex {d : Dev} {tid p : Nat} (hp : d.partOf tid = some p) (hd : d.inDuplex p = false) (vs : Nat → Word) (ns : List Nat) :
    ns.foldl (fun d n => d.recordInput tid (vs n)) d = d := by
  induction ns with
  | nil => rfl
  | cons n ns ih => rw [List.foldl_cons, recordInput_simplex _ hp hd, ih]

/-- A thread's own change moves it out of no partition. -/
theorem Dev.partOf_updThread (d : Dev) (tid u : Nat) (f : Thread → Thread) : (d.updThread tid f).partOf u = d.partOf u := rfl

theorem Dev.inDuplex_updThread (d : Dev) (tid p : Nat) (f : Thread → Thread) : (d.updThread tid f).inDuplex p = d.inDuplex p := rfl

theorem Dev.isStandby_updThread (d : Dev) (tid u : Nat) (f : Thread → Thread) : (d.updThread tid f).isStandby u = d.isStandby u := rfl

theorem actsOn_pkt (i : Issue) (s : State) : (actsOn i s).pkt = s.dev.pkt := by
  unfold actsOn afterIssue; split <;> rfl

theorem actsOn_frame (i : Issue) (s : State) (f : Nat) : (actsOn i s).frame f = s.dev.frame f := by
  unfold Dev.frame; rw [actsOn_pkt]

theorem currentFrame_eq {d : Dev} {t : Thread} {h : Word} {f : Nat} {x : Frame} (hf : t.frame = some f) (hx : d.frame f = some x) (hh : handleOf f x = h) :
    currentFrame d t h = some (f, x) := by
  simp [currentFrame, hf, hx, hh]

/-- Without a frame, or with another's handle, there is no current frame to act on. -/
theorem currentFrame_none {d : Dev} {t : Thread} {h : Word}
    (hno : t.frame = none ∨ ∃ f x, t.frame = some f ∧ d.frame f = some x ∧ handleOf f x ≠ h) : currentFrame d t h = none := by
  rcases hno with hf | ⟨f, x, hf, hx, hh⟩
  · simp [currentFrame, hf]
  · simp [currentFrame, hf, hx, hh]

/-- An effect that ends in a count: all but the counters. -/
theorem does_count {d : Dev} {e : Nat} {s t : State} (h : Does (d.count e) s t) :
    t.dev.regs = d.regs ∧ t.dev.mem = d.mem ∧ t.dev.pkt = d.pkt ∧ t.dev.thr = d.thr := by
  rw [h.2]; exact ⟨rfl, rfl, rfl, rfl⟩

theorem timed_of_lt {tid : Nat} (h : tid < 512) : timed tid = true := by simp [timed, h]
theorem timed_of_le {tid : Nat} (h : 512 ≤ tid) : timed tid = false := by simp [timed, h]

/-- Settles O15: each instruction takes the one branch of its act that the thread's frame selects. -/
theorem packetInstructionsHoldOneFrame : Obligations.PacketInstructionsHoldOneFrame := by
  unfold Obligations.PacketInstructionsHoldOneFrame
  refine ⟨fun i w rd ra rb s d0 hpred htid => ?_, fun i w rd ra rb s d0 hpred => ⟨fun htid => ?_, fun htid hf h => ?_, fun htid hno => ?_, fun htid hf h => ?_⟩⟩
  · have htm := timed_of_lt htid
    refine ⟨fun h hsim hf has => ?_, fun f x h hsim hf has hx => ?_, fun h hf => ?_, fun f x h hsb hf hx hh => ?_, fun f x h hsb hf hx hh => ?_⟩
    · obtain ⟨p, hp, hdup⟩ := hsim.1
      have hp' : ∀ g, ((actsOn i s).updThread i.tid.val g).partOf i.tid.val = some p := fun _ => hp
      refine issue_writes hpred h ?_
      simp only [htm, hf, simplex_replays hsim, has, Bool.not_true, Bool.false_eq_true, if_false, Option.isSome_none]
      exact congrArg Act.done (foldl_recordInput_simplex (hp' _) hdup (fun _ => 0) _)
    · obtain ⟨p, hp, hdup⟩ := hsim.1
      have hp' : ∀ g, ((actsOn i s).updThread i.tid.val g).partOf i.tid.val = some p := fun _ => hp
      have hx' : (actsOn i s).frame f = some x := (actsOn_frame i s f).trans hx
      refine issue_does hpred h (d2 := ((actsOn i s).updThread i.tid.val (fun t => ({ t with assigned := [] }.hold f (frameWindows x)).setReg rd (handleOf f x))).count
        (evE (islOf i.tid.val) (16 * (coreOf i.tid.val % 16) + 14))) ?_ (fun t hd => ⟨hd.1, ?_, ?_, ?_, fun u hu => ?_, ?_⟩)
      · simp only [htm, hf, simplex_replays hsim, has, hx', Bool.not_true, Bool.false_eq_true, if_false, Option.isSome_none]
        refine congrArg (fun d => Act.done (Dev.count d _)) ?_
        rw [recordInput_simplex _ (hp' _) hdup, recordInput_simplex _ (hp' _) hdup]
        exact foldl_recordInput_simplex (hp' _) hdup _ _
      · exact (does_count hd).1.trans (actsOn_regs i s)
      · exact (does_count hd).2.1.trans (actsOn_mem i s)
      · exact (does_count hd).2.2.1.trans (actsOn_pkt i s)
      · rw [Dev.thread, (does_count hd).2.2.2, ← Dev.thread, Dev.thread_updThread_ne _ _ hu]; exact actsOn_thread_ne i s hu
      · rw [Dev.thread, (does_count hd).2.2.2, ← Dev.thread, Dev.thread_updThread_same]; rfl
    · refine issue_changes hpred h ?_
      simp only [htm, Bool.not_true, Bool.false_eq_true, if_false, Option.isNone_eq_false_iff.mpr hf]
    · have hcf := currentFrame_eq hf hx hh
      suffices hs : ∃ t, exec (.pktSend i ra rb) s = .next t ∧ Does (((((actsOn i s).updThread i.tid.val Thread.unhold).setFrame f
          (applyWst x (d0.thread i.tid.val))).completeFrame f (((d0.thread i.tid.val).reg rb).toNat % 2 ^ 32)).count
            (evE (islOf i.tid.val) (16 * (coreOf i.tid.val % 16) + 15))) s t by
        obtain ⟨t, ht, hd⟩ := hs
        exact ⟨t, _, ht, rfl, hd.1, does_count hd⟩
      refine issue_does hpred h ?_ (fun t hd => hd)
      simp only [htm, hcf, hsb, Dev.isStandby_updThread, Bool.not_true, Bool.false_eq_true, if_false]
    · have hcf := currentFrame_eq hf hx hh
      refine issue_does hpred h ?_ (fun t hd => hd)
      simp only [htm, hcf, hsb, Dev.isStandby_updThread, Bool.not_true, Bool.false_eq_true, if_false]
      rfl
  · have htm := timed_of_le htid
    refine ⟨fun h => ?_, fun h => ?_, fun h => ?_, fun h => ?_⟩
    all_goals
      refine issue_raises hpred h ?_
      simp only [htm, Bool.not_false, if_true]
  · refine issue_raises hpred h ?_
    simp only [timed_of_lt htid, hf, Bool.not_true, Bool.false_eq_true, if_false, if_true]
  · have hcf := currentFrame_none hno
    refine ⟨fun h => ?_, fun h => ?_⟩
    all_goals
      refine issue_raises hpred h ?_
      simp only [timed_of_lt htid, hcf, Bool.not_true, Bool.false_eq_true, if_false]
  · refine issue_raises hpred h ?_
    simp only [timed_of_lt htid, hf, Bool.not_true, Bool.false_eq_true, if_false, Option.isNone_none, if_true]

/-! ## Checksums (R121) -/

/-- Message bits above the first wait in the register until it has moved down to them. -/
theorem crcBit_xor (poly c m : Nat) : crcBit poly (c ^^^ m) = Claims.crcBit poly c (m % 2) ^^^ (m / 2) := by
  have hpar : (c ^^^ m) % 2 = (c + m % 2) % 2 := by
    rw [Nat.xor_mod_two_eq]; omega
  have hhalf : (c ^^^ m) / 2 = (c / 2) ^^^ (m / 2) := Nat.xor_div_two
  unfold crcBit Claims.crcBit
  rw [hpar, hhalf]
  split
  · rw [Nat.xor_assoc, Nat.xor_comm (m / 2), ← Nat.xor_assoc]
  · rfl

theorem crcBit_iterate_xor (poly k c m : Nat) : (crcBit poly)^[k] (c ^^^ m) = Claims.crcBits poly k c m ^^^ (m / 2 ^ k) := by
  induction k generalizing c m with
  | zero => simp [Claims.crcBits]
  | succ k ih => rw [Function.iterate_succ_apply, crcBit_xor, ih, Claims.crcBits, Nat.div_div_eq_div_mul, Nat.pow_succ']

theorem crcByte_eq (poly c : Nat) (b : Byte) : crcByte poly c b = Claims.crcBits poly 8 c b.toNat := by
  have h := crcBit_iterate_xor poly 8 c b.toNat
  rwa [Nat.div_eq_of_lt b.isLt, Nat.xor_zero] at h

theorem crcBits_add (poly k n c m : Nat) : Claims.crcBits poly (k + n) c m = Claims.crcBits poly n (Claims.crcBits poly k c m) (m / 2 ^ k) := by
  induction k generalizing c m with
  | zero => simp [Claims.crcBits]
  | succ k ih => rw [Nat.succ_add, Claims.crcBits, ih, Claims.crcBits, Nat.div_div_eq_div_mul, Nat.pow_succ']

theorem crcBits_mod (poly k c m : Nat) : Claims.crcBits poly k c (m % 2 ^ k) = Claims.crcBits poly k c m := by
  induction k generalizing c m with
  | zero => rfl
  | succ k ih =>
    have hlow : m % 2 ^ (k + 1) % 2 = m % 2 := Nat.mod_mod_of_dvd _ (Dvd.intro_left _ rfl)
    have hhigh : m % 2 ^ (k + 1) / 2 = m / 2 % 2 ^ k := by rw [Nat.pow_succ', Nat.mod_mul_right_div_self]
    rw [Claims.crcBits, Claims.crcBits, hlow, hhigh, ih]

/-- The update over a number's low bytes is the update over its low bits. -/
theorem crcBytes_leBytes (poly n c m : Nat) : crcBytes poly c (leBytes n m) = Claims.crcBits poly (8 * n) c m := by
  induction n generalizing c m with
  | zero => rfl
  | succ n ih =>
    have hb : (BitVec.ofNat 8 m).toNat = m % 2 ^ 8 := BitVec.toNat_ofNat ..
    calc crcBytes poly c (leBytes (n + 1) m) = crcBytes poly (crcByte poly c (BitVec.ofNat 8 m)) (leBytes n (m / 256)) := by
          simp only [leBytes, crcBytes, List.foldl_cons]
      _ = Claims.crcBits poly (8 + 8 * n) c m := by rw [ih, crcByte_eq, hb, crcBits_mod, crcBits_add]; rfl
      _ = Claims.crcBits poly (8 * (n + 1)) c m := by rw [Nat.mul_succ, Nat.add_comm]

/-! ## The hash (R120) -/

theorem keyWindow_testBit {key i k : Nat} (hi : i ≤ 320) (hk : k < 32) : (keyWindow key i).testBit k = key.testBit (351 - (i + (31 - k))) := by
  unfold keyWindow
  rw [Nat.testBit_mod_two_pow, Nat.testBit_div_two_pow, Nat.testBit_mul_two_pow]
  have h1 : 352 ≤ k + (704 - 32 - i) := by omega
  have h2 : k + (704 - 32 - i) - 352 = 351 - (i + (31 - k)) := by omega
  simp [hk, h1, h2]

/-- The hash's bits, as the sum over the data bits, the first of them on top. -/
theorem toeplitz_testBit (key start n v k : Nat) : (toeplitz key start n v).testBit k =
    (List.range n).foldl (fun a j => a.xor (v.testBit (n - 1 - j) && (keyWindow key (start + j)).testBit k)) false := by
  induction n generalizing v with
  | zero => simp [toeplitz]
  | succ n ih =>
    have hrest : (List.range n).foldl (fun a j => a.xor (v.testBit (n + 1 - 1 - j) && (keyWindow key (start + j)).testBit k)) false =
        (List.range n).foldl (fun a j => a.xor ((v / 2).testBit (n - 1 - j) && (keyWindow key (start + j)).testBit k)) false := by
      refine List.foldl_ext _ _ _ fun a j hj => ?_
      have hj' := List.mem_range.mp hj
      rw [← Nat.testBit_succ, show (n - 1 - j).succ = n + 1 - 1 - j by omega]
    have hlast : (if v % 2 = 1 then keyWindow key (start + n) else 0).testBit k = (v.testBit (n + 1 - 1 - n) && (keyWindow key (start + n)).testBit k) := by
      rw [show n + 1 - 1 - n = 0 by omega, Nat.testBit_zero]
      split <;> simp [*]
    rw [toeplitz, Nat.testBit_xor, ih, List.range_succ, List.foldl_append, hrest, hlast, Bool.xor_comm]
    rfl

theorem hash_bits (key start : Nat) (data : Word) (k : Nat) (hs : start < 256) (hk : k < 64) :
    (BitVec.ofNat 64 (toeplitz key start 64 data.toNat)).getLsbD k =
      (decide (k < 32) && Claims.toeplitzBits (fun q => key.testBit (351 - q)) start data k) := by
  rw [BitVec.getLsbD_ofNat, toeplitz_testBit, decide_eq_true hk, Bool.true_and]
  by_cases h32 : k < 32
  · rw [decide_eq_true h32, Bool.true_and, Claims.toeplitzBits]
    refine List.foldl_ext _ _ _ fun a j hj => ?_
    have hj' := List.mem_range.mp hj
    rw [keyWindow_testBit (by omega) h32]
    rfl
  · have hz : ∀ j, (keyWindow key (start + j)).testBit k = false := fun j =>
      Nat.testBit_lt_two_pow ((Nat.mod_lt _ (by decide)).trans_le (Nat.pow_le_pow_right (by decide) (Nat.not_lt.mp h32)))
    rw [decide_eq_false h32, Bool.false_and]
    simp only [hz, Bool.and_false, Bool.xor_false, List.foldl_fixed]

/-- Settles O16. -/
theorem checksumsAndHash : Obligations.ChecksumsAndHash := by
  unfold Obligations.ChecksumsAndHash
  intro i sz rd ra rb s d0 hpred h
  refine ⟨?_, ?_, fun p hp => ?_⟩
  · rw [← szBytes, ← crcBytes_leBytes]
    exact issue_writes hpred h rfl
  · rw [← szBytes, ← crcBytes_leBytes]
    exact issue_writes hpred h rfl
  · obtain ⟨t, ht, hw⟩ := issue_writes (legal := i.predOk) (cost := 2) hpred h (rd := rd)
      (v := BitVec.ofNat 64 (toeplitz ((actsOn i s).hashKey p) (((d0.thread i.tid.val).reg rb).toNat % 256) 64 ((d0.thread i.tid.val).reg ra).toNat))
      (act := fun t _ d => match d.partOf i.tid.val with
        | none => .starve
        | some p => onThread i (fun x => x.setReg rd (BitVec.ofNat 64 (toeplitz (d.hashKey p) ((t.reg rb).toNat % 256) 64 (t.reg ra).toNat))) d)
      (by simp only [hp])
    exact ⟨t, _, ht, hw, fun k hk => hash_bits _ _ _ _ (Nat.mod_lt _ (by decide)) hk⟩

/-! ## Lookups (R120) -/

theorem lkwResult_eq (m : Option (Nat × Rule)) : match m with
    | some (n, r) => lkwResult m = BitVec.ofNat 64 (2 ^ 63 + n * 2 ^ 32 + r.action.toNat)
    | none => lkwResult m = 0 := by
  rcases m with - | ⟨n, r⟩
  · rfl
  · unfold lkwResult; rfl

theorem any_busy_eq_false {t : Thread} {ra n : Nat} (h : ∀ k < n, t.busy (BitVec.ofNat 5 (ra + k)) = false) :
    (List.range n).any (fun k => t.busy (BitVec.ofNat 5 (ra + k))) = false := by
  rw [List.any_eq_false]
  exact fun k hk => by simp [h k (List.mem_range.mp hk)]

/-- Settles O17: the lookups' acts, branch by branch. -/
theorem lookupsAskTheirTable : Obligations.LookupsAskTheirTable := by
  unfold Obligations.LookupsAskTheirTable
  intro i rd ra table s d0 p hpred hp hsb
  have hpos : 0 < (actsOn i s).tdirN table.toNat := Nat.succ_pos _
  refine ⟨fun v d h hex hfit hbusy hfast => ?_, fun h hex hfit hbusy hfast => ?_, fun h hra hr => ?_, fun h hex => ?_, fun h hex hfit => ?_,
    fun h hra hr => ?_⟩
  · refine issue_does hpred h (d2 := d.sendOp i.tid.val (d0.thread i.tid.val) i.slot
      (.lkx table.toNat (keyOfRegs (d0.thread i.tid.val) ra.toNat ((actsOn i s).tdirN table.toNat))) rd (some (v.getD 0))) ?_ (fun t hd => ⟨hd.1, ?_, ?_⟩)
    · simp only [hp, hex, any_busy_eq_false hbusy, hsb, hfast, Nat.not_lt.mpr (show ra.toNat + (actsOn i s).tdirN table.toNat - 1 ≤ 31 by omega),
        Bool.not_true, Bool.false_eq_true, if_false]
    · rw [does_mem hd]; rfl
    · rw [does_thread hd, sendOp_thread]
  · refine issue_does hpred h (d2 := ((actsOn i s).count (evE (islOf i.tid.val) (256 + 6))).sendOp i.tid.val (d0.thread i.tid.val) i.slot
      (.lkx table.toNat (keyOfRegs (d0.thread i.tid.val) ra.toNat ((actsOn i s).tdirN table.toNat))) rd none) ?_ (fun t hd => ⟨hd.1, ?_, ?_, ?_⟩)
    · simp only [hp, hex, any_busy_eq_false hbusy, hsb, hfast, Nat.not_lt.mpr (show ra.toNat + (actsOn i s).tdirN table.toNat - 1 ≤ 31 by omega),
        Bool.not_true, Bool.false_eq_true, if_false]
    · rw [does_mem hd]; exact actsOn_mem i s
    · rw [does_regs hd]; exact actsOn_regs i s
    · rw [does_thread hd, sendOp_thread, ← actsOn_ns i s]; rfl
  · have hlegal : Instr.wf (.lkw i rd ra table) = true := by simp [Instr.wf, hpred, hra]
    have hr' := Option.isNone_eq_false_iff.mpr hr
    suffices hs : ∃ t, exec (.lkw i rd ra table) s = .next t ∧ ChangesThread i (fun x => { x with
          outs := x.outs ++ [⟨x.nextId, .lkw table.toNat (keyOfRegs (d0.thread i.tid.val) ra.toNat 10), rd, (d0.thread i.tid.val).pc, i.slot, s.dev.ns,
            (d0.thread i.tid.val).pasid, some (lkwResult ((actsOn i s).wildLookup p table.toNat ((actsOn i s).rf .clsTdir table.toNat 16 4)
              (keyOfRegs (d0.thread i.tid.val) ra.toNat 10)))⟩]
          nextId := x.nextId + 1 }) s t by
      obtain ⟨t, ht, hc⟩ := hs
      exact ⟨t, _, ht, lkwResult_eq _, hc⟩
    refine issue_changes hlegal h ?_
    simp only [hp, hr', hsb, Bool.false_eq_true, if_false]
    rw [← actsOn_ns i s]
    rfl
  · refine issue_raises hpred h ?_
    simp only [hp, hex, Bool.not_false, if_true]
  · refine issue_raises hpred h ?_
    simp only [hp, hex, show 31 < ra.toNat + (actsOn i s).tdirN table.toNat - 1 by omega, Bool.not_true, Bool.false_eq_true, if_false, if_true]
  · have hlegal : Instr.wf (.lkw i rd ra table) = true := by simp [Instr.wf, hpred, hra]
    refine issue_raises hlegal h ?_
    simp only [hp, hr, if_true]

end Sys2Proof.Machine
end

section
/-! PROOFS. Submissions to the engines, channel claims and shadow sets, and the channels' arbiter (R72, R85, R122 to R125, R262). -/
namespace Sys2Proof.Machine
open Sys2Proof

/-! ## The row of an instruction that starves (R53) -/

theorem issues_slotA {i : Issue} {port : Bool} {dest : Nat} {uses : List (BitVec 5)} {s : State} {d0 : Dev} (h : Issues i port dest uses s d0)
    (hslot : i.slot = .a) : Ready s.dev i.tid.val ∧ d0 = s.dev := by
  rcases h.1 with ⟨-, hr, h0⟩ | ⟨hb, -⟩
  · exact ⟨hr, h0⟩
  · rw [hslot] at hb; cases hb

theorem actsOn_slotA {i : Issue} (s : State) (hslot : i.slot = .a) : actsOn i s = afterIssue s.dev i.tid.val := by
  simp [actsOn, Joins, hslot]

/-- An instruction in slot A whose act starves gives its slot back. -/
theorem issue_starves {i : Issue} {legal : Bool} {cost : Nat} {port : Bool} {dest : Nat} {uses : List (BitVec 5)} {act : Thread → Dev → Dev → Act}
    {s : State} {d0 : Dev} (hl : legal = true) (hslot : i.slot = .a) (h : Issues i port dest uses s d0)
    (ha : act (d0.thread i.tid.val) d0 (actsOn i s) = .starve) : ∃ t, issue i legal cost port dest uses act s = .next t ∧ Starves s.dev s t := by
  subst hl
  obtain ⟨hr, rfl⟩ := issues_slotA h hslot
  obtain ⟨⟨hlive, hst, p, hpart, hf⟩, hstale, hfence⟩ := hr
  have hu : uses.any (s.dev.thread i.tid.val).busy = false := by simpa using h.2.2
  rw [actsOn_slotA s hslot] at ha
  unfold afterIssue issueEvent at ha
  have hfe : ((s.dev.thread i.tid.val).fence && !((s.dev.thread i.tid.val).outs.isEmpty && (s.dev.thread i.tid.val).stq.isEmpty)) = false := by
    rcases hfence with h | ⟨h1, h2⟩
    · simp [h]
    · simp [h1, h2]
  unfold issue issueFirst
  simp only [hslot, hpart, hlive, hst, hstale, hfe, hf, h.2.1, hu, ha, Bool.not_true, Bool.false_eq_true, if_false, ne_eq, not_true_eq_false]
  exact ⟨_, rfl, does_slots _ _ _ _⟩

/-- An effect of two changes of the issuing thread is one change of it. -/
theorem changes_twice {i : Issue} {f g : Thread → Thread} {s t : State} (h : Does (((actsOn i s).updThread i.tid.val f).updThread i.tid.val g) s t) :
    ChangesThread i (fun x => g (f x)) s t := by
  refine ⟨⟨h.1, ?_, fun u hu => ?_, fun e he => ?_⟩, ?_⟩
  · rw [h.2]; unfold actsOn afterIssue; split <;> rfl
  · rw [does_thread h, Dev.thread_updThread_ne _ _ hu, Dev.thread_updThread_ne _ _ hu, actsOn_thread_ne i s hu]
  · rw [does_counter h]; unfold actsOn afterIssue
    split
    · rfl
    · exact Dev.counter_count_ne _ he
  · rw [does_thread h, Dev.thread_updThread_same, Dev.thread_updThread_same]

/-- A change of a thread may be given by another function that agrees on the thread. -/
theorem changes_congr {i : Issue} {f g : Thread → Thread} {s t : State} (h : ChangesThread i f s t)
    (hfg : f ((actsOn i s).thread i.tid.val) = g ((actsOn i s).thread i.tid.val)) : ChangesThread i g s t := ⟨h.1, h.2.trans hfg⟩

theorem issue_idle {i : Issue} {legal : Bool} {cost : Nat} {port : Bool} {dest : Nat} {uses : List (BitVec 5)} {act : Thread → Dev → Dev → Act}
    {s : State} {d0 : Dev} (hl : legal = true) (h : Issues i port dest uses s d0) (ha : act (d0.thread i.tid.val) d0 (actsOn i s) = .done (actsOn i s)) :
    ∃ t, issue i legal cost port dest uses act s = .next t ∧ ChangesThread i (fun x => x) s t := by
  subst hl
  exact issue_nothing h ha

/-! ## SUBMIT and ACCPOLL (R122, R123) -/

/-- The tags that SUBMIT tries, seventeen of them. -/
theorem tagTries_nodup (last : Nat) : ((List.range 17).map (fun k => (last + k) % 65535 + 1)).Nodup := by
  refine List.Nodup.map_on (fun a ha b hb hab => ?_) List.nodup_range
  have ha' := List.mem_range.mp ha
  have hb' := List.mem_range.mp hb
  omega

/-- A thread with fewer than sixteen tags out gets one that none of them has. -/
theorem nextTag_fresh {t : Thread} (h : t.tags.length < 16) : 1 ≤ nextTag t ∧ nextTag t ≤ 65535 ∧ ∀ g ∈ t.tags, g.tag ≠ nextTag t := by
  unfold nextTag
  cases hf : ((List.range 17).map (fun k => (t.lastTag + k) % 65535 + 1)).find? (fun n => !t.tags.any (fun g => g.tag == n)) with
  | none =>
    have hall := List.find?_eq_none.mp hf
    have hsub : ((List.range 17).map (fun k => (t.lastTag + k) % 65535 + 1)) ⊆ t.tags.map (·.tag) := fun n hn => by
      simpa using hall n hn
    have hlen := (List.subperm_of_subset (tagTries_nodup t.lastTag) hsub).length_le
    simp at hlen
    omega
  | some n =>
    have hn : ∀ g ∈ t.tags, g.tag ≠ n := by simpa using List.find?_some hf
    obtain ⟨k, -, rfl⟩ := List.mem_map.mp (List.mem_of_find?_eq_some hf)
    exact ⟨Nat.le_add_left _ _, Nat.mod_lt _ (by decide), hn⟩

/-- Settles O18. -/
theorem submissionsCarryTags : Obligations.SubmissionsCarryTags := by
  unfold Obligations.SubmissionsCarryTags
  intro i rd ra unit s d0 hpred
  refine ⟨fun hslot hunit h off hoff => ?_, fun h hsim n hn => ⟨fun g hg => ?_, fun hg => ?_⟩⟩
  · have hlegal : Instr.wf (.submit i rd ra unit) = true := by simp [Instr.wf, Issue.slotAOnly, hpred, hslot, hunit]
    refine ⟨fun hal hin htags hsub hq => ?_, fun hal hin htags => ?_, fun hal hin htags hsub => ?_, fun hal => ?_, fun hal hout => ?_⟩
    · obtain ⟨h1, h2, h3⟩ := nextTag_fresh htags
      suffices hs : ∃ t, exec (.submit i rd ra unit) s = .next t ∧ Does (((actsOn i s).count
          (evE (islOf i.tid.val) (16 * (coreOf i.tid.val % 16) + (if (unit == 1#2) = true then 9 else 8)))).updThread i.tid.val (fun x =>
            { (x.setSub (unit == 1#2) (x.sub (unit == 1#2) ++ [⟨nextTag (d0.thread i.tid.val), s.dev.time.tick, d0.read (localAddr (coreOf i.tid.val) off) 64⟩])).setReg
                rd (BitVec.ofNat 64 (nextTag (d0.thread i.tid.val)))
              with tags := x.tags ++ [⟨nextTag (d0.thread i.tid.val), false, 0⟩], lastTag := nextTag (d0.thread i.tid.val) })) s t by
        obtain ⟨t, ht, hd⟩ := hs
        refine ⟨t, _, ht, h1, h2, h3, hd.1, ?_, ?_, fun u hu => ?_, ?_⟩
        · rw [does_regs hd]; exact actsOn_regs i s
        · rw [does_mem hd]; exact actsOn_mem i s
        · rw [does_thread hd, Dev.thread_updThread_ne _ _ hu]; exact actsOn_thread_ne i s hu
        · rw [does_thread hd, Dev.thread_updThread_same]; rfl
      refine issue_does hlegal h ?_ (fun t hd => hd)
      simp only [← hoff, hal, Nat.not_le.mpr hin, Nat.not_le.mpr htags, Nat.not_le.mpr hsub, flush_of_empty hq, actsOn_time, ne_eq, not_true_eq_false,
        if_false]
      rfl
    · refine issue_writes hlegal h ?_
      simp only [← hoff, hal, Nat.not_le.mpr hin, htags, ne_eq, not_true_eq_false, if_false, if_true]
    · refine issue_starves hlegal hslot h ?_
      simp only [← hoff, hal, Nat.not_le.mpr hin, Nat.not_le.mpr htags, hsub, ne_eq, not_true_eq_false, if_false, if_true]
    · refine issue_raises hlegal h ?_
      simp only [← hoff, hal, ne_eq, not_false_eq_true, if_true]
    · refine issue_raises hlegal h ?_
      simp only [← hoff, hal, hout, ne_eq, not_true_eq_false, if_false, if_true]
  · obtain ⟨p, hp, hdup⟩ := hsim.1
    have hp' : ∀ g, ((actsOn i s).updThread i.tid.val g).partOf i.tid.val = some p := fun _ => hp
    suffices hs : ∃ t, exec (.accpoll i rd ra) s = .next t ∧ ChangesThread i (fun x =>
        (if g.done then { x with tags := x.tags.filter (fun g => g.tag != n) } else x).setReg rd (tagWord g)) s t by
      obtain ⟨t, ht, hc⟩ := hs
      refine ⟨t, ht, changes_congr hc ?_⟩
      cases hgd : g.done <;> simp [tagWord, b2n, hgd]
    refine issue_changes hpred h ?_
    simp only [simplex_replays hsim, ← hn, hg, Bool.false_eq_true, if_false]
    exact congrArg Act.done (recordInput_simplex _ (hp' _) hdup)
  · obtain ⟨p, hp, hdup⟩ := hsim.1
    have hp' : ∀ g, ((actsOn i s).updThread i.tid.val g).partOf i.tid.val = some p := fun _ => hp
    refine issue_writes hpred h ?_
    simp only [simplex_replays hsim, ← hn, hg, Bool.false_eq_true, if_false]
    exact congrArg Act.done (recordInput_simplex _ (hp' _) hdup)

/-! ## Claims and shadow sets (R124, R125, R263) -/

@[simp] theorem Dev.chan_setChan_same (d : Dev) (ch : Nat) (x : Chan) : (d.setChan ch x).chan ch = x := tabGet_put_same _ _ _ _

section
variable (d : Dev) (ch : Nat)

theorem unclaim_chan : (d.unclaim ch).chan ch = { d.chan ch with claim := none } := Dev.chan_setChan_same _ _ _

theorem unclaim_reg_ne {r : Reg} {j : Nat} (h : r ≠ .dmaChStat ∨ j ≠ ch) : (d.unclaim ch).reg r j = d.reg r j :=
  Dev.reg_setRb_ne _ _ _ h

theorem unclaim_free : (d.unclaim ch).rb .dmaChStat ch 2 = false := Dev.rb_setRb_same _ _ _ _ _ (by decide)

theorem unclaim_mem : (d.unclaim ch).mem = d.mem := rfl
theorem unclaim_thread (u : Nat) : (d.unclaim ch).thread u = d.thread u := rfl

/-- A committed shadow set waits in the channel's armed slot, and the claim is over (R263). -/
theorem commitSet_chan (tid : Nat) (sh : Tab Word) :
    ((d.commitSet tid ch sh).chan ch).armed = some ⟨tid, none, false, sh⟩ ∧ ((d.commitSet tid ch sh).chan ch).claim = none := by
  have h : (d.commitSet tid ch sh).chan ch = { (d.unclaim ch).chan ch with armed := some ⟨tid, none, false, sh⟩ } := Dev.chan_setChan_same _ _ _
  rw [h, unclaim_chan]
  exact ⟨rfl, rfl⟩

theorem commitSet_reg_ne (tid : Nat) (sh : Tab Word) {r : Reg} {j : Nat} (h : r ≠ .dmaChStat ∨ j ≠ ch) : (d.commitSet tid ch sh).reg r j = d.reg r j :=
  (Dev.reg_setRb_ne _ _ _ h).trans (unclaim_reg_ne d ch h)

theorem commitSet_stat (tid : Nat) (sh : Tab Word) : (d.commitSet tid ch sh).rb .dmaChStat ch 1 = true ∧ (d.commitSet tid ch sh).rb .dmaChStat ch 2 = false :=
  ⟨Dev.rb_setRb_same _ _ _ _ _ (by decide), (Dev.rb_setRb_ne _ _ _ _ _ _ (by decide)).trans (unclaim_free d ch)⟩

theorem commitSet_mem (tid : Nat) (sh : Tab Word) : (d.commitSet tid ch sh).mem = d.mem := rfl
theorem commitSet_thread (tid : Nat) (sh : Tab Word) (u : Nat) : (d.commitSet tid ch sh).thread u = d.thread u := rfl

end

/-- Settles O19. -/
theorem claimsAndShadowSetsAreTheThreads : Obligations.ClaimsAndShadowSetsAreTheThreads := by
  unfold Obligations.ClaimsAndShadowSetsAreTheThreads
  rintro i idx rd ra rb s d0 ch hpred rfl
  refine ⟨fun hok h => ⟨?_, ?_⟩, fun hok h => ⟨?_, ?_⟩, fun h => ⟨fun k hk => ?_, fun hk => ?_⟩, fun hslot h => ⟨fun hk => ?_, fun k c hk hc hg => ?_,
    fun k c hk hc hg hsb => ?_⟩, fun h => ⟨fun hk => ?_, fun k c hk hc hg hsb => ?_, fun k c hk hc hg => ?_⟩⟩
  · refine issue_does hpred h (d2 := ((actsOn i s).sendOp i.tid.val (d0.thread i.tid.val) i.slot (.claim ((d0.thread i.tid.val).reg ra).toNat) rd none).updThread
      i.tid.val (fun x => { x with claims := x.claims ++ [⟨((d0.thread i.tid.val).reg ra).toNat, false, none, 0, []⟩] })) ?_ (fun t hd => ?_)
    · simp only [hok, Bool.not_true, Bool.false_eq_true, if_false]
      rfl
    · rw [← actsOn_ns i s]
      exact changes_twice hd
  · refine issue_changes hpred h ?_
    simp only [hok, Bool.not_true, Bool.false_eq_true, if_false]
    rw [← actsOn_ns i s]
    rfl
  · refine issue_raises hpred h ?_
    simp only [hok, Bool.not_false, if_true]
  · refine issue_raises hpred h ?_
    simp only [hok, Bool.not_false, if_true]
  · obtain ⟨t, ht, hc⟩ := issue_changes (legal := i.predOk) (cost := 1) hpred h (act := fun t _ d => onThread i (fun x => match x.claimAt (t.reg ra).toNat with
        | some k => { x with claims := x.claims.modify k (fun c => { c with shadow := tabIns idx.toNat (t.reg rb) c.shadow }) }
        | none => x) d) rfl
    exact ⟨t, ht, changes_congr hc (by simp only [hk])⟩
  · obtain ⟨t, ht, hc⟩ := issue_changes (legal := i.predOk) (cost := 1) hpred h (act := fun t _ d => onThread i (fun x => match x.claimAt (t.reg ra).toNat with
        | some k => { x with claims := x.claims.modify k (fun c => { c with shadow := tabIns idx.toNat (t.reg rb) c.shadow }) }
        | none => x) d) rfl
    exact ⟨t, ht, changes_congr hc (by simp only [hk])⟩
  · have hlegal : i.slotAOnly = true := by simp [Issue.slotAOnly, hpred, hslot]
    refine issue_writes hlegal h ?_
    simp only [hk]
  · have hlegal : i.slotAOnly = true := by simp [Issue.slotAOnly, hpred, hslot]
    refine issue_starves hlegal hslot h ?_
    simp only [hk, hc, hg, Bool.not_false, if_true]
  · have hlegal : i.slotAOnly = true := by simp [Issue.slotAOnly, hpred, hslot]
    refine issue_does hlegal h (d2 := ((actsOn i s).commitSet i.tid.val ((d0.thread i.tid.val).reg ra).toNat c.shadow).updThread i.tid.val
      (fun x => { x with claims := x.claims.eraseIdx k }.setReg rd 0)) ?_ (fun t hd => ⟨hd.1, ?_, ?_, ?_, ?_, ?_, fun r j hr => ?_, fun u hu => ?_, ?_⟩)
    · simp only [hk, hc, hg, hsb, Bool.not_true, Bool.false_eq_true, if_false]
      rfl
    · rw [does_mem hd, Dev.updThread_mem, commitSet_mem, actsOn_mem]
    · rw [hd.2]; exact (commitSet_chan _ _ _ _).1
    · rw [hd.2]; exact (commitSet_chan _ _ _ _).2
    · rw [Dev.rb, does_reg hd]; exact (commitSet_stat _ _ _ _).1
    · rw [Dev.rb, does_reg hd]; exact (commitSet_stat _ _ _ _).2
    · rw [does_reg hd]; exact (commitSet_reg_ne _ _ _ _ hr).trans (by simp [Dev.reg])
    · rw [does_thread hd, Dev.thread_updThread_ne _ _ hu, commitSet_thread, actsOn_thread_ne i s hu]
    · rw [does_thread hd, Dev.thread_updThread_same, commitSet_thread]
  · refine issue_idle hpred h ?_
    simp only [hk]
  · refine issue_does hpred h (d2 := ((actsOn i s).unclaim ((d0.thread i.tid.val).reg ra).toNat).updThread i.tid.val
      (fun x => { x with claims := x.claims.eraseIdx k })) ?_ (fun t hd => ⟨hd.1, ?_, ?_, ?_, fun r j hr => ?_, ?_⟩)
    · simp only [hk, hc, Option.any_some, hg, hsb, Bool.false_eq_true, if_false, if_true]
      rfl
    · rw [does_mem hd, Dev.updThread_mem, unclaim_mem, actsOn_mem]
    · rw [hd.2]; exact congrArg Chan.claim (unclaim_chan _ _)
    · rw [Dev.rb, does_reg hd]; exact unclaim_free _ _
    · rw [does_reg hd]; exact (unclaim_reg_ne _ _ hr).trans (by simp [Dev.reg])
    · rw [does_thread hd, Dev.thread_updThread_same, unclaim_thread]
  · refine issue_changes hpred h ?_
    simp only [hk, hc, Option.any_some, hg, Bool.false_eq_true, if_false]

/-! ## The channels' arbiter (R72, R262) -/

/-- What one answer to a claim changes: the thread's own state. -/
theorem claimAnswer_regs (d : Dev) (tid ch : Nat) (v : Word) : (d.claimAnswer tid ch v).regs = d.regs := rfl
theorem claimAnswer_mem (d : Dev) (tid ch : Nat) (v : Word) : (d.claimAnswer tid ch v).mem = d.mem := rfl
theorem claimAnswer_dma (d : Dev) (tid ch : Nat) (v : Word) : (d.claimAnswer tid ch v).dma = d.dma := rfl
theorem claimAnswer_thread_ne (d : Dev) {tid u : Nat} (ch : Nat) (v : Word) (h : u ≠ tid) : (d.claimAnswer tid ch v).thread u = d.thread u :=
  (Dev.thread_updThread_ne _ _ h).trans (answer_thread_ne h)

theorem Thread.claimAnswer_outs (t : Thread) (ch : Nat) (v : Word) (lease : Option Nat) : (t.claimAnswer ch v lease).outs = t.outs := by
  unfold Thread.claimAnswer
  repeat' split
  all_goals rfl

/-- A thread that claims finds its answer in the request's place. -/
theorem claimAnswer_gives {d : Dev} {tid ch : Nat} {v : Word} (h : (d.thread tid).outs.any (fun o => o.kind == OutKind.claim ch && o.res.isNone) = true) :
    ∃ o ∈ ((d.claimAnswer tid ch v).thread tid).outs, o.kind = .claim ch ∧ o.res = some v := by
  obtain ⟨o, ho, hk, hres⟩ := answer_gives (d := d) (tid := tid) (v := v) (p := fun k => k == OutKind.claim ch) h
  refine ⟨o, ?_, by simpa using hk, hres⟩
  rw [Dev.claimAnswer, Dev.thread_updThread_same, Thread.claimAnswer_outs]
  exact ho

/-- One claimant is told that it has lost. -/
def Dev.tellClaim (ch : Nat) (v : Nat → Word) (d : Dev) (t : Nat) : Dev :=
  (d.claimAnswer t ch (v t)).count (evE (islOf t) (16 * (coreOf t % 16) + 10))

theorem foldl_tellClaim (ch : Nat) (v : Nat → Word) (ts : List Nat) (d : Dev) :
    (ts.foldl (Dev.tellClaim ch v) d).regs = d.regs ∧ (ts.foldl (Dev.tellClaim ch v) d).mem = d.mem ∧
      (ts.foldl (Dev.tellClaim ch v) d).dma = d.dma ∧ ∀ u ∉ ts, (ts.foldl (Dev.tellClaim ch v) d).thread u = d.thread u := by
  induction ts generalizing d with
  | nil => exact ⟨rfl, rfl, rfl, fun _ _ => rfl⟩
  | cons t ts ih =>
    obtain ⟨hr, hm, hd, ht⟩ := ih (d.tellClaim ch v t)
    refine ⟨hr, hm, hd, fun u hu => ?_⟩
    obtain ⟨hne, hu⟩ : u ≠ t ∧ u ∉ ts := by simpa using hu
    rw [List.foldl_cons, ht u hu, Dev.tellClaim, Dev.count_thread, claimAnswer_thread_ne _ _ _ hne]

/-- Whether a thread holds as many claims as it may. -/
def Dev.holdsTwo (d : Dev) (t : Nat) : Bool := decide (2 ≤ ((d.thread t).held).length)

/-- The threads among some that claim a channel. -/
def Dev.claimers (d : Dev) (ch : Nat) (who : List Nat) : List Nat := who.filter (fun t => d.asks t (fun k => k == OutKind.claim ch))

/-- A channel that the arbiter gives to a thread. -/
def Dev.winChan (d : Dev) (ch w : Nat) : Dev := (d.setChan ch { d.chan ch with claim := some w, prevWin := w }).setRb .dmaChStat ch 2 true

theorem claimArbitrate_free {d : Dev} {ch w : Nat} {who : List Nat} (hfree : d.chanHeld ch = false)
    (hw : firstAfter (d.chan ch).prevWin ((d.claimers ch who).filter (fun t => !d.holdsTwo t)) = some w) :
    d.claimArbitrate ch who = ((d.claimers ch who).filter (· != w)).foldl
      (Dev.tellClaim ch (fun t => BitVec.ofNat 64 (2 * b2n true + 4 * b2n (d.holdsTwo t)))) ((d.winChan ch w).claimAnswer w ch 1) := by
  simp only [Dev.claimers, Dev.holdsTwo] at hw
  simp only [Dev.claimArbitrate, hfree, hw, Bool.false_eq_true, if_false]
  rfl

theorem claimArbitrate_held {d : Dev} {ch : Nat} {who : List Nat} (hheld : d.chanHeld ch = true) :
    d.claimArbitrate ch who = (d.claimers ch who).foldl (Dev.tellClaim ch (fun t => BitVec.ofNat 64 (2 * b2n true + 4 * b2n (d.holdsTwo t)))) d := by
  simp only [Dev.claimArbitrate, hheld, if_true]
  rfl

theorem winChan_chan (d : Dev) (ch w : Nat) : ((d.winChan ch w).chan ch).claim = some w ∧ ((d.winChan ch w).chan ch).prevWin = w := by
  have h : (d.winChan ch w).chan ch = { d.chan ch with claim := some w, prevWin := w } := Dev.chan_setChan_same _ _ _
  rw [h]
  exact ⟨rfl, rfl⟩

theorem winChan_reg_ne (d : Dev) (ch w : Nat) {r : Reg} {j : Nat} (h : r ≠ .dmaChStat ∨ j ≠ ch) : (d.winChan ch w).reg r j = d.reg r j :=
  Dev.reg_setRb_ne _ _ _ h

theorem winChan_thread (d : Dev) (ch w u : Nat) : (d.winChan ch w).thread u = d.thread u := by
  rw [Dev.winChan, Dev.setRb_thread, Dev.setChan_thread]

theorem claimers_single {d : Dev} {ch : Nat} {w : Fin 576} (h : d.asks w.val (fun k => k == OutKind.claim ch) = true) :
    d.claimers ch ([w].map (·.val)).eraseDups = [w.val] := by
  have hone : ([w].map (·.val)).eraseDups = [w.val] := by simp [List.eraseDups_cons]
  rw [Dev.claimers, hone, List.filter_singleton, h]
  rfl

/-- A claimant of those that meet, as one of the threads that the arbiter is given. -/
theorem mem_claimers {d : Dev} {ch u : Nat} {who : List (Fin 576)} :
    u ∈ (d.claimers ch (who.map (·.val)).eraseDups).filter (fun t => !d.holdsTwo t) ↔
      ∃ v ∈ who, v.val = u ∧ d.asks u (fun k => k == OutKind.claim ch) = true ∧ (d.thread u).held.length < 2 := by
  simp only [Dev.claimers, Dev.holdsTwo, List.mem_filter, List.mem_eraseDups, List.mem_map, Bool.not_eq_true', decide_eq_false_iff_not, Nat.not_le]
  constructor
  · rintro ⟨⟨⟨v, hv, rfl⟩, hask⟩, htwo⟩
    exact ⟨v, hv, rfl, hask, htwo⟩
  · rintro ⟨v, hv, rfl, hask, htwo⟩
    exact ⟨⟨⟨v, hv, rfl⟩, hask⟩, htwo⟩

/-- The state after the arbiter has given a channel away: the winner is told first, then the others that they have lost. -/
theorem claimArbitrate_won {d : Dev} {ch w : Nat} {who : List Nat} (hfree : d.chanHeld ch = false)
    (hask : d.asks w (fun k => k == OutKind.claim ch) = true)
    (hw : firstAfter (d.chan ch).prevWin ((d.claimers ch who).filter (fun t => !d.holdsTwo t)) = some w) :
    (d.claimArbitrate ch who).mem = d.mem ∧ (d.claimArbitrate ch who).chan ch = (d.winChan ch w).chan ch ∧
      (d.claimArbitrate ch who).regs = (d.winChan ch w).regs ∧
      ∃ o ∈ ((d.claimArbitrate ch who).thread w).outs, o.kind = .claim ch ∧ o.res = some 1 := by
  rw [claimArbitrate_free hfree hw]
  obtain ⟨hregs, hmem, hdma, hthr⟩ := foldl_tellClaim ch (fun t => BitVec.ofNat 64 (2 * b2n true + 4 * b2n (d.holdsTwo t)))
    ((d.claimers ch who).filter (· != w)) ((d.winChan ch w).claimAnswer w ch 1)
  refine ⟨hmem, ?_, hregs, ?_⟩
  · rw [Dev.chan, hdma, claimAnswer_dma, ← Dev.chan]
  · rw [hthr w (by simp)]
    exact claimAnswer_gives (by rw [winChan_thread]; exact asks_any hask)

/-- Settles O20. -/
theorem channelArbiterGrantsOneClaim : Obligations.ChannelArbiterGrantsOneClaim := by
  unfold Obligations.ChannelArbiterGrantsOneClaim
  refine fun ch s hl => ⟨fun w hfree hask htwo => ?_, fun who w hfree hprev hw hask htwo hmin => ?_, fun w hheld hask => ?_, fun tid c e hc he hle hsb => ?_⟩
  · refine runs_event (rfl : execClaimArbitrate ch [w] s = _) hl fun t hq hd => ?_
    have htwo' : s.dev.holdsTwo w.val = false := by simp [Dev.holdsTwo, htwo]
    have hfirst : firstAfter (s.dev.chan ch.val).prevWin ((s.dev.claimers ch.val ([w].map (·.val)).eraseDups).filter (fun t => !s.dev.holdsTwo t)) = some w.val := by
      rw [claimers_single hask, List.filter_singleton, htwo']
      rfl
    obtain ⟨hmem, hchan, hregs, hgives⟩ := claimArbitrate_won hfree hask hfirst
    rw [← hd] at hmem hchan hregs hgives
    have hreg : ∀ r j, t.dev.reg r j = (s.dev.winChan ch.val w.val).reg r j := fun r j => by simp only [Dev.reg, hregs]
    refine ⟨hq, hmem, ?_, ?_, ?_, fun r j hr => ?_, hgives⟩
    · rw [hchan]; exact (winChan_chan _ _ _).1
    · rw [hchan]; exact (winChan_chan _ _ _).2
    · rw [Dev.rb, hreg]; exact Dev.rb_setRb_same _ _ _ _ _ (by decide)
    · rw [hreg]; exact winChan_reg_ne _ _ _ hr
  · refine runs_event (rfl : execClaimArbitrate ch who s = _) hl fun t hq hd => ?_
    have hfirst : firstAfter (s.dev.chan ch.val).prevWin ((s.dev.claimers ch.val (who.map (·.val)).eraseDups).filter (fun t => !s.dev.holdsTwo t)) = some w.val := by
      refine firstAfter_eq_some hprev (fun u hu => ?_) (mem_claimers.mpr ⟨w, hw, rfl, hask, htwo⟩) (fun u hu => ?_)
      · obtain ⟨v, -, rfl, -⟩ := mem_claimers.mp hu
        exact v.isLt
      · obtain ⟨v, hv, rfl, hasks, htwos⟩ := mem_claimers.mp hu
        exact hmin v hv hasks htwos
    obtain ⟨-, hchan, -, -⟩ := claimArbitrate_won hfree hask hfirst
    rw [← hd] at hchan
    rw [hchan]
    exact winChan_chan _ _ _
  · refine runs_event (rfl : execClaimArbitrate ch [w] s = _) hl fun t hq hd => ?_
    rw [claimArbitrate_held hheld, claimers_single hask, List.foldl_cons, List.foldl_nil] at hd
    obtain ⟨o, ho, hk, hres⟩ := claimAnswer_gives (v := BitVec.ofNat 64 (2 * b2n true + 4 * b2n (s.dev.holdsTwo w.val))) (asks_any hask)
    rw [hd]
    refine ⟨rfl, rfl, o, ho, hk, hres.trans ?_⟩
    unfold Dev.holdsTwo b2n
    split_ifs <;> simp_all
  · refine runs_event (rfl : execClaimExpired tid ch s = _) hl fun t hq hd => ?_
    have hdue : c.leaseEnd.any (fun e => decide (e ≤ s.dev.ns)) = true := by simp [he, hle]
    simp only [hc, hdue, if_true, Dev.isStandby_updThread, hsb, Bool.false_eq_true, if_false] at hd
    have hthr : t.dev.thread tid.val = { s.dev.thread tid.val with claims := (s.dev.thread tid.val).claims.erase c } := by
      rw [hd, Dev.raise_thread, unclaim_thread, Dev.thread_updThread_same]
    have hchan : t.dev.chan ch.val = { s.dev.chan ch.val with claim := none } := by
      rw [hd, Dev.chan, Dev.raise_dma, ← Dev.chan]; exact unclaim_chan _ _
    refine ⟨hq, ?_, hthr, by rw [hchan], ?_⟩
    · rw [hd, Dev.raise_mem, unclaim_mem, Dev.updThread_mem]
    · rw [hd]; rfl

end Sys2Proof.Machine
end

section
/-! PROOFS. Fields and bits of registers beside the one that is written, registers and bytes that a reset clears, and the collector's queue. -/
namespace Sys2Proof.Machine
open Sys2Proof

section
variable (d : Dev) {r r' : Reg} {i i' : Nat}

/-! ## Fields of registers other than the one written -/

theorem Dev.rb_setRb_other (lo lo' : Nat) (b : Bool) (h : r' ≠ r ∨ i' ≠ i) : (d.setRb r i lo b).rb r' i' lo' = d.rb r' i' lo' := by
  rw [Dev.rb, Dev.reg_setRb_ne _ _ _ h, ← Dev.rb]

theorem Dev.rf_setRb_other (lo lo' w' : Nat) (b : Bool) (h : r' ≠ r ∨ i' ≠ i) : (d.setRb r i lo b).rf r' i' lo' w' = d.rf r' i' lo' w' := by
  rw [Dev.rf, Dev.reg_setRb_ne _ _ _ h, ← Dev.rf]

theorem Dev.rb_setRf_other (lo w x lo' : Nat) (h : r' ≠ r ∨ i' ≠ i) : (d.setRf r i lo w x).rb r' i' lo' = d.rb r' i' lo' := by
  rw [Dev.rb, Dev.reg_setRf_ne _ _ _ _ h, ← Dev.rb]

theorem Dev.rf_setRf_other (lo w x lo' w' : Nat) (h : r' ≠ r ∨ i' ≠ i) : (d.setRf r i lo w x).rf r' i' lo' w' = d.rf r' i' lo' w' := by
  rw [Dev.rf, Dev.reg_setRf_ne _ _ _ _ h, ← Dev.rf]

theorem Dev.rb_setReg_other (v : Word) (lo' : Nat) (h : r' ≠ r ∨ i' ≠ i) : (d.setReg r i v).rb r' i' lo' = d.rb r' i' lo' := by
  rw [Dev.rb, Dev.reg_setReg_ne _ _ h, ← Dev.rb]

theorem Dev.rf_setReg_other (v : Word) (lo' w' : Nat) (h : r' ≠ r ∨ i' ≠ i) : (d.setReg r i v).rf r' i' lo' w' = d.rf r' i' lo' w' := by
  rw [Dev.rf, Dev.reg_setReg_ne _ _ h, ← Dev.rf]

theorem Dev.reg_incRf_ne (lo w n : Nat) (h : r' ≠ r ∨ i' ≠ i) : (d.incRf r i lo w n).reg r' i' = d.reg r' i' :=
  Dev.reg_setRf_ne _ _ _ _ h

theorem Dev.rb_incRf_other (lo w n lo' : Nat) (h : r' ≠ r ∨ i' ≠ i) : (d.incRf r i lo w n).rb r' i' lo' = d.rb r' i' lo' :=
  Dev.rb_setRf_other _ _ _ _ _ h

theorem Dev.rf_incRf_other (lo w n lo' w' : Nat) (h : r' ≠ r ∨ i' ≠ i) : (d.incRf r i lo w n).rf r' i' lo' w' = d.rf r' i' lo' w' :=
  Dev.rf_setRf_other _ _ _ _ _ _ h

/-- A field holds a value that fits it. -/
theorem Dev.rf_setRf_of_lt {lo w x : Nat} (h : lo + w ≤ 64) (hx : x < 2 ^ w) : (d.setRf r i lo w x).rf r i lo w = x := by
  rw [Dev.rf_setRf_same _ _ _ _ _ _ h, Nat.mod_eq_of_lt hx]

theorem Dev.rf_lt (lo w : Nat) : d.rf r i lo w < 2 ^ w := fld_lt _ _ _

/-- A saturating count moves up to its field's largest value at most. -/
theorem Dev.rf_incRf_same {lo w n : Nat} (h : lo + w ≤ 64) : (d.incRf r i lo w n).rf r i lo w = min (d.rf r i lo w + n) (2 ^ w - 1) := by
  rw [Dev.incRf]
  exact Dev.rf_setRf_of_lt _ h ((Nat.min_le_right _ _).trans_lt (Nat.sub_lt (Nat.two_pow_pos w) Nat.one_pos))

/-! ## Registers that a reset returns to their reset values -/

theorem Dev.reg_resetWhere (rs : List Reg) (p : Reg → Nat → Bool) (r : Reg) (k : Nat) :
    (d.resetWhere rs p).reg r k = if r ∈ rs ∧ p r k = true then r.resetAt k else d.reg r k := by
  have hcode : regKey r k % 512 = r.code := by have := r.code_lt; unfold regKey; omega
  have hidx : regKey r k / 512 = k := by have := r.code_lt; unfold regKey; omega
  have hsel : (rs.any (fun q => q.code == regKey r k % 512 && p q (regKey r k / 512))) = decide (r ∈ rs ∧ p r k = true) := by
    rw [hcode, hidx, Bool.eq_iff_iff]
    simp only [List.any_eq_true, Bool.and_eq_true, beq_iff_eq, decide_eq_true_eq]
    constructor
    · rintro ⟨q, hq, hc, hp⟩
      exact Reg.code_inj hc ▸ ⟨hq, hp⟩
    · rintro ⟨hr, hp⟩
      exact ⟨r, hr, rfl, hp⟩
  show tabGet (d.regs.filter (fun e => !(rs.any (fun q => q.code == e.1 % 512 && p q (e.1 / 512))))) (r.resetAt k) (regKey r k) = _
  rw [tabGet, tabFind_filter_key (fun n => !(rs.any (fun q => q.code == n % 512 && p q (n / 512)))), hsel]
  by_cases h : r ∈ rs ∧ p r k = true
  · simp [h]
  · simp [h, Dev.reg, tabGet]

end

/-! ## Zeroed memory -/

theorem Dev.byte_zero (d : Dev) (a n b : Nat) : (d.zero a n).byte b = if a ≤ b ∧ b < a + n then 0 else d.byte b := by
  show tabGet (d.mem.filter (fun c => decide (c.1 < a) || decide (a + n ≤ c.1))) 0 b = _
  rw [tabGet, tabFind_filter_key (fun k => decide (k < a) || decide (a + n ≤ k))]
  by_cases h : a ≤ b ∧ b < a + n
  · rw [if_pos h, if_neg (by simp; omega)]; rfl
  · rw [if_neg h, if_pos (by simp; omega)]; rfl

/-! ## The collector's queue (R397) -/

theorem mem_insertReport (r : Report) (q : List Report) : r ∈ insertReport r q := by
  induction q with
  | nil => simp [insertReport]
  | cons x xs ih =>
    unfold insertReport
    split
    · exact List.mem_cons_of_mem _ ih
    · exact List.mem_cons_self

theorem mem_insertReport_of_mem {r x : Report} {q : List Report} (h : x ∈ q) : x ∈ insertReport r q := by
  induction q with
  | nil => simp at h
  | cons y ys ih =>
    unfold insertReport
    rcases List.mem_cons.mp h with rfl | h
    · split
      · exact List.mem_cons_self
      · exact List.mem_cons_of_mem _ List.mem_cons_self
    · split
      · exact List.mem_cons_of_mem _ (ih h)
      · exact List.mem_cons_of_mem _ (List.mem_cons_of_mem _ h)

/-- A fault that is raised waits in the queue. -/
theorem raiseFree_waits (d : Dev) (source isl : Nat) (part : Option Nat) :
    ∃ r ∈ (d.raiseFree source isl part).flt.queue, r.source = source ∧ r.part = part :=
  ⟨_, mem_insertReport _ _, rfl, rfl⟩

theorem raise_waits (d : Dev) (source isl : Nat) (part tid : Option Nat) (exc detail : Nat) :
    ∃ r ∈ (d.raise source isl part tid exc detail).flt.queue, r.source = source :=
  ⟨_, mem_insertReport _ _, rfl⟩

theorem raiseFree_keeps_waiting {d : Dev} {x : Report} (h : x ∈ d.flt.queue) (source isl : Nat) (part : Option Nat) :
    x ∈ (d.raiseFree source isl part).flt.queue := mem_insertReport_of_mem h

end Sys2Proof.Machine
end

section
/-! PROOFS. Debug requests, the core reset and the quiet detector (R79 to R84, R87). -/
namespace Sys2Proof.Machine
open Sys2Proof

/-! ## Debug requests (R81, R82) -/

section
variable {d : Dev} {tid p : Nat}

theorem debugAsk_allowed (act : Nat → Dev → Dev) (hp : d.partOf tid = some p) (hdup : d.inDuplex p = false) (hban : d.rb .coreDbgPart p 0 = true) :
    d.debugAsk tid act = act p d := by
  simp [Dev.debugAsk, hp, hdup, hban]

/-- A refused request's device: the bits that say why (R81). -/
def Dev.debugRefused (d : Dev) (c p : Nat) : Dev :=
  let e := if d.inDuplex p then d.setRb .coreDbgStat c 16 true else d
  if !d.rb .coreDbgPart p 0 then e.setRb .coreDbgStat c 17 true else e

theorem debugAsk_refused (act : Nat → Dev → Dev) (hp : d.partOf tid = some p) (h : d.rb .coreDbgPart p 0 = false ∨ d.inDuplex p = true) :
    d.debugAsk tid act = d.debugRefused (coreOf tid) p := by
  have hor : (d.inDuplex p || !d.rb .coreDbgPart p 0) = true := by rcases h with h | h <;> simp [h]
  simp [Dev.debugAsk, Dev.debugRefused, hp, hor]

theorem keeps_debugRefused (d : Dev) (c p : Nat) : Keeps [.coreDbgStat] d (d.debugRefused c p) := by
  unfold Dev.debugRefused
  dsimp only
  repeat' split
  all_goals simp

theorem debugRefused_reg_ne (d : Dev) (c p : Nat) {r : Reg} {j : Nat} (h : r ≠ .coreDbgStat ∨ j ≠ c) : (d.debugRefused c p).reg r j = d.reg r j := by
  unfold Dev.debugRefused
  dsimp only
  repeat' split
  all_goals simp [Dev.reg_setRb_ne _ _ _ h]

theorem debugRefused_bits (d : Dev) (c p : Nat) : (d.inDuplex p = true → (d.debugRefused c p).rb .coreDbgStat c 16 = true) ∧
    (d.rb .coreDbgPart p 0 = false → (d.debugRefused c p).rb .coreDbgStat c 17 = true) := by
  unfold Dev.debugRefused
  constructor
  · intro h
    simp only [h, if_true]
    split
    · rw [Dev.rb_setRb_ne _ _ _ _ _ _ (by decide)]; exact Dev.rb_setRb_same _ _ _ _ _ (by decide)
    · exact Dev.rb_setRb_same _ _ _ _ _ (by decide)
  · intro h
    simp only [h, Bool.not_false, if_true]
    exact Dev.rb_setRb_same _ _ _ _ _ (by decide)

/-- A halt of a thread that runs or waits, where leases go on. -/
theorem haltThread_eq (hst : (d.thread tid).st = .running ∨ (d.thread tid).st = .waiting) (hlease : d.rb .coreDbgPart p 1 = false) :
    d.haltThread p tid = (d.setRb .coreDbgCtl (coreOf tid) (idxOf tid) true).updThread tid (fun t => { t with st := .halted, stepping := false }) := by
  have hl : ((d.setRb .coreDbgCtl (coreOf tid) (idxOf tid) true).updThread tid (fun t => { t with st := .halted, stepping := false })).rb .coreDbgPart p 1 = false :=
    (Dev.rb_setRb_other _ _ _ _ (.inl (by decide))).trans hlease
  unfold Dev.haltThread
  dsimp only
  rw [if_pos (by simpa using hst), Dev.holdLeases, hl]
  rfl

theorem resumeThread_running (step : Bool) (hw : (d.thread tid).wait = .none) :
    d.resumeThread tid step = d.setThread tid { d.thread tid with st := .running, stepping := step } := by
  simp [Dev.resumeThread, hw]

/-- A resumed thread whose claims have no lease left over. -/
theorem runLeases_thread (h : ∀ c ∈ (d.thread tid).claims, c.leaseLeft = 0) : (d.runLeases tid).thread tid = d.thread tid := by
  have hmap : ((d.thread tid).claims.map (fun c => if c.leaseLeft = 0 then c else { c with leaseEnd := some (d.ns + c.leaseLeft), leaseLeft := 0 })) =
      (d.thread tid).claims := by
    exact (List.map_congr_left fun c hc => if_pos (h c hc)).trans (List.map_id' _)
  rw [Dev.runLeases, Dev.thread_updThread_same, hmap]

theorem idxOf_lt (tid : Nat) : idxOf tid < 64 := by
  unfold idxOf; split <;> omega

/-- A halted thread that waits for nothing runs on. -/
theorem debugRun_eq (hst : (d.thread tid).st = .halted) (hw : (d.thread tid).wait = .none) : d.debugRun tid =
    ((d.setRb .coreDbgCtl (coreOf tid) (idxOf tid) false).setThread tid { d.thread tid with st := .running, stepping := false }).runLeases tid := by
  unfold Dev.debugRun
  dsimp only
  rw [if_pos (by simpa using hst), resumeThread_running _ (by simpa using hw)]
  rfl

end

/-- Debug requests and breakpoints (R81, R82). -/
theorem debug_requests (tid : Fin 576) (s : State) (p : Nat) (hl : s.dev.live = true) (hp : s.dev.partOf tid.val = some p) :
    (s.dev.rb .coreDbgPart p 0 = true → s.dev.inDuplex p = false →
      ((s.dev.thread tid.val).st = .running ∨ (s.dev.thread tid.val).st = .waiting → s.dev.rb .coreDbgPart p 1 = false →
        (∃ t, exec (.debugHalt tid) s = .next t ∧ t.pending = s.pending ∧ t.dev.mem = s.dev.mem ∧
          t.dev.thread tid.val = { s.dev.thread tid.val with st := .halted, stepping := false } ∧ (∀ u, u ≠ tid.val → t.dev.thread u = s.dev.thread u) ∧
          t.dev.rb .coreDbgCtl (coreOf tid.val) (idxOf tid.val) = true ∧ (∀ r j, r ≠ Reg.coreDbgCtl ∨ j ≠ coreOf tid.val → t.dev.reg r j = s.dev.reg r j)) ∧
        ((s.dev.thread tid.val).st = .running → s.dev.breakAt (coreOf tid.val) (s.dev.thread tid.val).pc = true →
          ∃ t, exec (.breakpointHit tid) s = .next t ∧ t.pending = s.pending ∧ t.dev.mem = s.dev.mem ∧
          t.dev.thread tid.val = { s.dev.thread tid.val with st := .halted, stepping := false } ∧ (∀ u, u ≠ tid.val → t.dev.thread u = s.dev.thread u))) ∧
      ((s.dev.thread tid.val).st = .halted → (s.dev.thread tid.val).wait = .none →
        (∃ t, exec (.debugStep tid) s = .next t ∧ t.pending = s.pending ∧ t.dev.regs = s.dev.regs ∧ t.dev.mem = s.dev.mem ∧
          t.dev.thread tid.val = { s.dev.thread tid.val with st := .running, stepping := true } ∧ (∀ u, u ≠ tid.val → t.dev.thread u = s.dev.thread u)) ∧
        ((∀ c ∈ (s.dev.thread tid.val).claims, c.leaseLeft = 0) → ∃ t, exec (.debugResume tid) s = .next t ∧ t.pending = s.pending ∧ t.dev.mem = s.dev.mem ∧
          t.dev.thread tid.val = { s.dev.thread tid.val with st := .running, stepping := false } ∧ (∀ u, u ≠ tid.val → t.dev.thread u = s.dev.thread u) ∧
          t.dev.rb .coreDbgCtl (coreOf tid.val) (idxOf tid.val) = false))) ∧
    (s.dev.rb .coreDbgPart p 0 = false ∨ s.dev.inDuplex p = true → ∀ c ∈ [Instr.debugHalt tid, .debugStep tid, .debugResume tid],
      ∃ t, exec c s = .next t ∧ t.pending = s.pending ∧ t.dev.thr = s.dev.thr ∧ t.dev.mem = s.dev.mem ∧
        (∀ r j, r ≠ Reg.coreDbgStat ∨ j ≠ coreOf tid.val → t.dev.reg r j = s.dev.reg r j) ∧
        (s.dev.inDuplex p = true → t.dev.rb .coreDbgStat (coreOf tid.val) 16 = true) ∧
        (s.dev.rb .coreDbgPart p 0 = false → t.dev.rb .coreDbgStat (coreOf tid.val) 17 = true)) := by
  refine ⟨fun hban hdup => ⟨fun hst hlease => ⟨?_, fun hrun hbreak => ?_⟩, fun hst hw => ⟨?_, fun hleft => ?_⟩⟩, fun href c hc => ?_⟩
  · refine runs_event (rfl : execDebugHalt tid s = _) hl fun t hq hd => ?_
    rw [debugAsk_allowed _ hp hdup hban, haltThread_eq hst hlease] at hd
    rw [hd]
    refine ⟨hq, rfl, ?_, fun u hu => ?_, ?_, fun r j hr => Dev.reg_setRb_ne _ _ _ hr⟩
    · rw [Dev.thread_updThread_same, Dev.setRb_thread]
    · rw [Dev.thread_updThread_ne _ _ hu, Dev.setRb_thread]
    · exact Dev.rb_setRb_same _ _ _ _ _ (idxOf_lt _)
  · refine runs_event (rfl : execBreakpointHit tid s = _) hl fun t hq hd => ?_
    simp only [hp, hrun, hbreak, hban, hdup, decide_true, Bool.and_self, Bool.not_false, if_true] at hd
    rw [haltThread_eq hst hlease] at hd
    rw [hd]
    refine ⟨hq, rfl, ?_, fun u hu => ?_⟩
    · rw [Dev.thread_updThread_same, Dev.setRb_thread]
    · rw [Dev.thread_updThread_ne _ _ hu, Dev.setRb_thread]
  · refine runs_event (rfl : execDebugStep tid s = _) hl fun t hq hd => ?_
    rw [debugAsk_allowed _ hp hdup hban, if_pos hst, resumeThread_running _ hw] at hd
    rw [hd]
    exact ⟨hq, rfl, rfl, Dev.thread_setThread_same _ _ _, fun u hu => Dev.thread_setThread_ne _ _ hu⟩
  · refine runs_event (rfl : execDebugResume tid s = _) hl fun t hq hd => ?_
    rw [debugAsk_allowed _ hp hdup hban, debugRun_eq hst hw] at hd
    rw [hd]
    refine ⟨hq, rfl, ?_, fun u hu => ?_, ?_⟩
    · rw [runLeases_thread (by simpa using hleft), Dev.thread_setThread_same]
    · rw [Dev.runLeases, Dev.thread_updThread_ne _ _ hu, Dev.thread_setThread_ne _ _ hu, Dev.setRb_thread]
    · exact Dev.rb_setRb_same _ _ _ _ _ (idxOf_lt _)
  · have hrefused : ∀ act, ∀ t : State, t.pending = s.pending → t.dev = s.dev.debugAsk tid.val act →
        t.pending = s.pending ∧ t.dev.thr = s.dev.thr ∧ t.dev.mem = s.dev.mem ∧
          (∀ r j, r ≠ Reg.coreDbgStat ∨ j ≠ coreOf tid.val → t.dev.reg r j = s.dev.reg r j) ∧
          (s.dev.inDuplex p = true → t.dev.rb .coreDbgStat (coreOf tid.val) 16 = true) ∧
          (s.dev.rb .coreDbgPart p 0 = false → t.dev.rb .coreDbgStat (coreOf tid.val) 17 = true) := by
      intro act t hq hd
      rw [debugAsk_refused act hp href] at hd
      obtain ⟨-, hmem, hthr⟩ := keeps_debugRefused s.dev (coreOf tid.val) p
      rw [hd]
      exact ⟨hq, hthr, hmem, fun r j hr => debugRefused_reg_ne _ _ _ hr, debugRefused_bits _ _ _⟩
    simp only [List.mem_cons, List.not_mem_nil, or_false] at hc
    rcases hc with rfl | rfl | rfl
    · exact runs_event (rfl : execDebugHalt tid s = _) hl (hrefused _)
    · exact runs_event (rfl : execDebugStep tid s = _) hl (hrefused _)
    · exact runs_event (rfl : execDebugResume tid s = _) hl (hrefused _)

/-! ## Core reset (R87) -/

/-- The threads of a core are clear once each has been cleared. -/
theorem foldl_clearThread (ts : List Nat) (d : Dev) : ∀ u ∈ ts, ∃ n, (ts.foldl (fun d t => d.clearThread t) d).thread u = { nextId := n } := by
  suffices h : ∀ (d : Dev) (done : Nat → Prop), (∀ u, done u → ∃ n, d.thread u = { nextId := n }) →
      ∀ u, done u ∨ u ∈ ts → ∃ n, (ts.foldl (fun d t => d.clearThread t) d).thread u = { nextId := n } from
    fun u hu => h d (fun _ => False) (fun _ hf => hf.elim) u (.inr hu)
  induction ts with
  | nil => exact fun d done hd u hu => hd u (hu.resolve_right (by simp))
  | cons t ts ih =>
    intro d done hd u hu
    refine ih (d.clearThread t) (fun v => v = t ∨ done v) (fun v hv => ?_) u (by rcases hu with h | h; exacts [.inl (.inr h), (List.mem_cons.mp h).imp .inl id])
    by_cases hvt : v = t
    · subst hvt
      exact ⟨_, Dev.thread_setThread_same _ _ _⟩
    · obtain ⟨n, hn⟩ := hd v (hv.resolve_left hvt)
      exact ⟨n, (Dev.thread_setThread_ne _ _ hvt).trans hn⟩

/-- Whether a core has loads out once its engine operations are cut and its groups' frames discarded. -/
def Dev.coreQuiesced (d : Dev) (c : Nat) : Dev :=
  let d := d.abortOps (fun o => coreOf o.tid == c)
  let gs := (List.range 256).map (fun k => 256 * (islOfCore c - 2) + k)
  (gs.filter (fun g => (d.groupMembers g).any (fun t => coreOf t == c))).foldl (fun d g => d.discardGroupQueue g) d

/-- The device with a core's threads clear, and what its supervisor leaves. -/
def Dev.coreStopped (d : Dev) (c : Nat) : Dev :=
  let d := (threadsOf c).foldl (fun d t => d.clearThread t) ((threadsOf c).foldl (fun d t => d.resetThread t) (d.coreQuiesced c))
  let d := { d with keys := { d.keys with draws := d.keys.draws.filter (fun e => coreOf (e.1 / 65536) != c) } }
  match d.partOfCore c with
  | none => d
  | some p =>
    if (d.supervisor p).any (fun t => coreOf t == c) then
      let d := (d.setRb .coreSupv p 31 false).setRf .coreFnqStat p 0 6 0
      d.setPart p { d.part p with notices := [], quietSince := none }
    else d

theorem coreStopped_thread (d : Dev) (c : Nat) : ∀ u ∈ threadsOf c, ∃ n, (d.coreStopped c).thread u = { nextId := n } := by
  intro u hu
  obtain ⟨n, hn⟩ := foldl_clearThread (threadsOf c) ((threadsOf c).foldl (fun d t => d.resetThread t) (d.coreQuiesced c)) u hu
  refine ⟨n, Eq.trans ?_ hn⟩
  unfold Dev.coreStopped
  dsimp only
  repeat' split
  all_goals simp [Dev.thread]

/-- The per-core registers of a stopped core at their reset values. -/
def Dev.coreRegsCleared (d : Dev) (c : Nat) : Dev :=
  (({ d with cores := tabPut d.cores {} c { pinned := [], resetAt := d.time.tick } }.setReg .coreIcachePin c 0).resetWhere coreRegs
    (fun _ i => i == c)).resetWhere [.coreBkpt] (fun _ i => i / 4 == c)

/-- The rest of a full reset: the slot counters, data memory and the duration. -/
def Dev.coreWiped (d : Dev) (c : Nat) (loads : Bool) : Dev :=
  let d := d.coreRegsCleared c
  let d := { d with cnt := { d.cnt with
    slot := d.cnt.slot.filter (fun e => coreOf (e.1 / 5) != c), slotLatch := d.cnt.slotLatch.filter (fun e => coreOf (e.1 / 5) != c) } }
  let d := d.zero (localAddr c 0) 0x40000
  (d.fresh.2.setReg .coreRstStat c (BitVec.ofNat 64 (d.fresh.1.toNat % 1001 + (if loads then 25000 else 0)))).lifeReset 8

theorem coreReset_eq (d : Dev) (c : Nat) :
    d.coreReset c true = (d.coreStopped c).coreWiped c ((threadsOf c).any (fun t => !((d.coreQuiesced c).thread t).outs.isEmpty)) := by
  unfold Dev.coreReset Dev.coreWiped Dev.coreStopped Dev.coreQuiesced Dev.coreRegsCleared
  dsimp only
  exact if_pos rfl

theorem coreWiped_thread (d : Dev) (c : Nat) (loads : Bool) (u : Nat) : (d.coreWiped c loads).thread u = d.thread u := rfl

theorem coreWiped_byte (d : Dev) (c : Nat) (loads : Bool) {k : Nat} (hk : k < 0x40000) : (d.coreWiped c loads).byte (localAddr c k) = 0 := by
  have hin : localAddr c 0 ≤ localAddr c k ∧ localAddr c k < localAddr c 0 + 0x40000 := by unfold localAddr islAddr; omega
  unfold Dev.coreWiped
  dsimp only
  exact (Dev.byte_zero _ _ _ _).trans (if_pos hin)

theorem coreWiped_reg (d : Dev) (c : Nat) (loads : Bool) {r : Reg} {k : Nat} (h : r ≠ .coreRstStat) :
    (d.coreWiped c loads).reg r k = (d.coreRegsCleared c).reg r k :=
  (Dev.reg_setReg_ne _ _ (.inl h))

theorem coreRegsCleared_reg (d : Dev) {c : Nat} {r : Reg} (h : r ∈ coreRegs) : (d.coreRegsCleared c).reg r c = r.resetAt c := by
  have hb : r ≠ .coreBkpt := by rintro rfl; revert h; decide
  rw [Dev.coreRegsCleared, Dev.reg_resetWhere, if_neg (by simp [hb]), Dev.reg_resetWhere, if_pos ⟨h, by simp⟩]

theorem coreRegsCleared_bkpt (d : Dev) {c j : Nat} (h : j < 4) : (d.coreRegsCleared c).reg .coreBkpt (4 * c + j) = Reg.resetAt .coreBkpt (4 * c + j) := by
  rw [Dev.coreRegsCleared, Dev.reg_resetWhere, if_pos ⟨List.mem_singleton_self _, by simp; omega⟩]

/-- What a full core reset leaves (R87). -/
theorem core_reset (c : Fin 64) (s : State) (hl : s.dev.live = true) (hpart : (s.dev.partOfCore c.val).isSome = true) :
    ∃ t, exec (.coreReset c) s = .next t ∧ t.pending = s.pending ∧
      (∀ u ∈ threadsOf c.val, ∃ n, t.dev.thread u = { nextId := n }) ∧
      (∀ k < 0x40000, t.dev.byte (localAddr c.val k) = 0) ∧
      t.dev.reg .coreIcachePin c.val = 0 ∧ t.dev.reg .coreDbgCtl c.val = 0 ∧ t.dev.reg .coreDbgStat c.val = 0 ∧
      (∀ j < 4, t.dev.reg .coreBkpt (4 * c.val + j) = 0) := by
  refine runs_event (rfl : execCoreReset c s = _) hl fun t hq hd => ?_
  rw [if_pos hpart, coreReset_eq] at hd
  rw [hd]
  refine ⟨hq, fun u hu => ?_, fun k hk => coreWiped_byte _ _ _ hk, ?_, ?_, ?_, fun j hj => ?_⟩
  · rw [coreWiped_thread]; exact coreStopped_thread _ _ u hu
  · rw [coreWiped_reg _ _ _ (by decide), coreRegsCleared_reg _ (by decide)]; rfl
  · rw [coreWiped_reg _ _ _ (by decide), coreRegsCleared_reg _ (by decide)]; rfl
  · rw [coreWiped_reg _ _ _ (by decide), coreRegsCleared_reg _ (by decide)]; rfl
  · rw [coreWiped_reg _ _ _ (by decide), coreRegsCleared_bkpt _ hj]; rfl

/-! ## The quiet detector (R79, R80) -/

theorem partition_quiet (p : Fin 8) (s : State) (since : Nat) (hl : s.dev.live = true) (hq : (s.dev.part p.val).quietSince = some since) :
    (0 < s.dev.rf .coreQuietLimit p.val 0 32 → (s.dev.part p.val).quietRaised = false → s.dev.isQuiet p.val = true →
      since + s.dev.rf .coreQuietLimit p.val 0 32 * 1000 * 65536 ≤ s.dev.time.now →
      ∃ t, exec (.partitionQuiet p) s = .next t ∧ t.pending = s.pending ∧ t.dev.mem = s.dev.mem ∧ t.dev.thr = s.dev.thr ∧
        (t.dev.part p.val).quietRaised = true ∧ (∃ r ∈ t.dev.flt.queue, r.source = 657 ∧ r.part = some p.val) ∧
        (s.dev.rf .coreQuietStat p.val 0 31 < 2 ^ 31 - 1 → t.dev.rf .coreQuietStat p.val 0 31 = s.dev.rf .coreQuietStat p.val 0 31 + 1) ∧
        (∀ r j, r ≠ Reg.coreQuietStat ∨ j ≠ p.val → t.dev.reg r j = s.dev.reg r j)) ∧
    ((s.dev.part p.val).quietRaised = true ∨ s.dev.rf .coreQuietLimit p.val 0 32 = 0 → ∃ t, exec (.partitionQuiet p) s = .next t ∧ t.dev = s.dev) := by
  refine ⟨fun hlim hraised hquiet hdue => ?_, fun hno => ?_⟩
  · refine runs_event (rfl : execPartitionQuiet p s = _) hl fun t hpend hd => ?_
    have hcond : (decide (s.dev.rf .coreQuietLimit p.val 0 32 = 0) || (s.dev.part p.val).quietRaised || !s.dev.isQuiet p.val ||
        decide (s.dev.time.now < since + s.dev.rf .coreQuietLimit p.val 0 32 * 1000 * 65536)) = false := by
      simp [hraised, hquiet, Nat.pos_iff_ne_zero.mp hlim, Nat.not_lt.mpr hdue]
    simp only [hq, hcond, Bool.false_eq_true, if_false] at hd
    rw [hd]
    refine ⟨hpend, rfl, rfl, ?_, raiseFree_waits _ _ _ _, fun hlt => ?_, fun r j hr => Dev.reg_incRf_ne _ _ _ _ hr⟩
    · exact congrArg Part.quietRaised (Dev.part_setPart_same _ _ _)
    · refine (Dev.rf_incRf_same _ (by decide)).trans ?_
      exact Nat.min_eq_left (by show s.dev.rf .coreQuietStat p.val 0 31 + 1 ≤ _; omega)
  · refine runs_event (rfl : execPartitionQuiet p s = _) hl fun t hpend hd => ?_
    have hcond : (decide (s.dev.rf .coreQuietLimit p.val 0 32 = 0) || (s.dev.part p.val).quietRaised || !s.dev.isQuiet p.val ||
        decide (s.dev.time.now < since + s.dev.rf .coreQuietLimit p.val 0 32 * 1000 * 65536)) = true := by
      rcases hno with h | h <;> simp [h]
    simpa only [hq, hcond, if_true] using hd

/-- Settles O23. -/
theorem coresAreDebuggedResetAndWatched : Obligations.CoresAreDebuggedResetAndWatched := by
  unfold Obligations.CoresAreDebuggedResetAndWatched
  exact ⟨⟨fun tid s p hl hp => debug_requests tid s p hl hp, fun c s hl hp => core_reset c s hl hp⟩, fun p s since hl hq => partition_quiet p s since hl hq⟩

end Sys2Proof.Machine
end

section
/-! PROOFS. What the way of a frame to the wire leaves as it is: memory and device time (R160, R178 to R202). -/
namespace Sys2Proof.Machine
open Sys2Proof

/-- Memory and the time plane are as they were. -/
def SameMemTime (d d' : Dev) : Prop := d'.mem = d.mem ∧ d'.time = d.time

theorem SameMemTime.trans {a b c : Dev} (h : SameMemTime a b) (h' : SameMemTime b c) : SameMemTime a c :=
  ⟨h'.1.trans h.1, h'.2.trans h.2⟩

theorem SameMemTime.iff {a b c : Dev} (h : SameMemTime b c) : SameMemTime a c ↔ SameMemTime a b := by
  simp [SameMemTime, h.1, h.2]

@[simp] theorem sameMemTime_refl (d : Dev) : SameMemTime d d := ⟨rfl, rfl⟩

theorem sameMemTime_foldl {α : Type} {f : Dev → α → Dev} (h : ∀ d a, SameMemTime d (f d a)) (l : List α) (d : Dev) : SameMemTime d (l.foldl f d) :=
  foldl_related sameMemTime_refl (fun h h' => h.trans h') h l d

section
variable {a b : Dev}

/-! ## Shared updates -/

@[simp] theorem sameMemTime_pkt (x : Pkt) : SameMemTime a { b with pkt := x } ↔ SameMemTime a b := .rfl
@[simp] theorem sameMemTime_dma (x : Dma) : SameMemTime a { b with dma := x } ↔ SameMemTime a b := .rfl
@[simp] theorem sameMemTime_cnt (x : Cnt) : SameMemTime a { b with cnt := x } ↔ SameMemTime a b := .rfl
@[simp] theorem sameMemTime_dpx (x : Duplex) : SameMemTime a { b with dpx := x } ↔ SameMemTime a b := .rfl
@[simp] theorem sameMemTime_thr (x : Tab Thread) : SameMemTime a { b with thr := x } ↔ SameMemTime a b := .rfl
@[simp] theorem sameMemTime_flt (x : Flt) : SameMemTime a { b with flt := x } ↔ SameMemTime a b := .rfl
@[simp] theorem sameMemTime_setReg (r : Reg) (i : Nat) (v : Word) : SameMemTime a (b.setReg r i v) ↔ SameMemTime a b := .rfl
@[simp] theorem sameMemTime_setRf (r : Reg) (i lo w x : Nat) : SameMemTime a (b.setRf r i lo w x) ↔ SameMemTime a b := .rfl
@[simp] theorem sameMemTime_setRb (r : Reg) (i lo : Nat) (v : Bool) : SameMemTime a (b.setRb r i lo v) ↔ SameMemTime a b := .rfl
@[simp] theorem sameMemTime_incRf (r : Reg) (i lo w n : Nat) : SameMemTime a (b.incRf r i lo w n) ↔ SameMemTime a b := .rfl
@[simp] theorem sameMemTime_emit (o : OutEv) : SameMemTime a (b.emit o) ↔ SameMemTime a b := .rfl
@[simp] theorem sameMemTime_countBy (e n : Nat) : SameMemTime a (b.countBy e n) ↔ SameMemTime a b := .rfl
@[simp] theorem sameMemTime_count (e : Nat) : SameMemTime a (b.count e) ↔ SameMemTime a b := .rfl
@[simp] theorem sameMemTime_raiseFree (src isl : Nat) (p : Option Nat) : SameMemTime a (b.raiseFree src isl p) ↔ SameMemTime a b := .rfl
@[simp] theorem sameMemTime_setCq (n : Nat) (x : CqSt) : SameMemTime a (b.setCq n x) ↔ SameMemTime a b := .rfl
@[simp] theorem sameMemTime_updFn (h f : Nat) (g : HostFn → HostFn) : SameMemTime a (b.updFn h f g) ↔ SameMemTime a b := .rfl
@[simp] theorem sameMemTime_setDuplex (p : Nat) (x : Dpx) : SameMemTime a (b.setDuplex p x) ↔ SameMemTime a b := .rfl
@[simp] theorem sameMemTime_aer (h f : Nat) (e : Aer) : SameMemTime a (b.aer h f e) ↔ SameMemTime a b := .rfl
@[simp] theorem sameMemTime_setFn (h f : Nat) (x : HostFn) : SameMemTime a (b.setFn h f x) ↔ SameMemTime a b := .rfl
@[simp] theorem sameMemTime_setFrame (f : Nat) (x : Frame) : SameMemTime a (b.setFrame f x) ↔ SameMemTime a b := .rfl
@[simp] theorem sameMemTime_setTxq (q : Nat) (x : TxQ) : SameMemTime a (b.setTxq q x) ↔ SameMemTime a b := .rfl
@[simp] theorem sameMemTime_setActive (k : Nat) (l : List Nat) : SameMemTime a (b.setActive k l) ↔ SameMemTime a b := .rfl
@[simp] theorem sameMemTime_setGate (x : Nat) (g : Gate) : SameMemTime a (b.setGate x g) ↔ SameMemTime a b := .rfl
@[simp] theorem sameMemTime_setShpTok (i : Nat) (t : Int) : SameMemTime a (b.setShpTok i t) ↔ SameMemTime a b := .rfl
@[simp] theorem sameMemTime_moveEgress (p m add sub : Nat) : SameMemTime a (b.moveEgress p m add sub) ↔ SameMemTime a b := .rfl

/-! ## Completions (R288 to R291) -/

@[simp] theorem sameMemTime_wakeLink (h : Nat) : SameMemTime a (b.wakeLink h) ↔ SameMemTime a b := by
  refine SameMemTime.iff ?_
  unfold Dev.wakeLink
  split <;> simp

@[simp] theorem sameMemTime_intaEdge (e : Dev) (h f : Nat) : SameMemTime a (b.intaEdge e h f) ↔ SameMemTime a b := by
  refine SameMemTime.iff ?_
  unfold Dev.intaEdge
  split <;> simp

@[simp] theorem sameMemTime_hostEmit (h f : Nat) (pasid : Word) (addr : Nat) (bs : List Byte) : SameMemTime a (b.hostEmit h f pasid addr bs) ↔ SameMemTime a b := by
  simp [Dev.hostEmit]

@[simp] theorem sameMemTime_hostWrite (h f : Nat) (pasid : Word) (addr : Nat) (bs : List Byte) : SameMemTime a (b.hostWrite h f pasid addr bs) ↔ SameMemTime a b := by
  refine SameMemTime.iff ?_
  unfold Dev.hostWrite
  repeat' split
  all_goals simp

@[simp] theorem sameMemTime_interrupt (h f v : Nat) : SameMemTime a (b.interrupt h f v) ↔ SameMemTime a b := by
  refine SameMemTime.iff ?_
  unfold Dev.interrupt
  dsimp only
  repeat' split
  all_goals simp

@[simp] theorem sameMemTime_cqWritten (n s : Nat) : SameMemTime a (b.cqWritten n s) ↔ SameMemTime a b := by
  refine SameMemTime.iff ?_
  unfold Dev.cqWritten Dev.cqInterrupt
  dsimp only
  repeat' split
  all_goals simp

@[simp] theorem sameMemTime_cqWrite (s : Nat) (c : Cqe) (o : Nat) : SameMemTime a (b.cqWrite s c o) ↔ SameMemTime a b := by
  simp [Dev.cqWrite, Dev.sliceWrite]

@[simp] theorem sameMemTime_setOverflow (s n : Nat) (l : List Cqe) : SameMemTime a (b.setOverflow s n l) ↔ SameMemTime a b := by
  have hshow : ∀ d : Dev, SameMemTime d (d.ptn.slices.foldl (fun d e => if d.slicePart e.1 = d.slicePart s then d.setRb .ringSliceStat e.1 1 (d.overflowFull e.1) else d) d) :=
    fun d => sameMemTime_foldl (fun d e => by split <;> simp) _ _
  refine SameMemTime.iff ?_
  unfold Dev.setOverflow Dev.overflowStat
  dsimp only
  simp only [sameMemTime_setRf, sameMemTime_setRb]
  rw [SameMemTime.iff (hshow _)]
  simp

theorem sameMemTime_tryPost {c : Cqe} {d e : Dev} (h : d.tryPost c = some e) : SameMemTime d e := by
  unfold Dev.tryPost at h
  dsimp only at h
  split at h
  · cases h; simp
  · split_ifs at h <;> cases h <;> simp

@[simp] theorem sameMemTime_post (c : Cqe) : SameMemTime a (b.post c) ↔ SameMemTime a b := by
  refine SameMemTime.iff ?_
  unfold Dev.post
  dsimp only
  split
  · simp
  · split
    · exact sameMemTime_tryPost ‹_›
    · simp

/-! ## Frames and transmit queues (R135, R160, R178 to R181) -/

@[simp] theorem sameMemTime_moveClassUse (x c add sub : Nat) : SameMemTime a (b.moveClassUse x c add sub) ↔ SameMemTime a b := by
  refine SameMemTime.iff ?_
  unfold Dev.moveClassUse
  dsimp only
  repeat' split
  all_goals simp

@[simp] theorem sameMemTime_dropFrame (f : Nat) : SameMemTime a (b.dropFrame f) ↔ SameMemTime a b := by
  refine SameMemTime.iff ?_
  unfold Dev.dropFrame Dev.freeCells
  dsimp only
  repeat' split
  all_goals simp

@[simp] theorem sameMemTime_txComplete (x : Frame) (st : Byte) : SameMemTime a (b.txComplete x st) ↔ SameMemTime a b := by
  refine SameMemTime.iff ?_
  unfold Dev.txComplete
  dsimp only
  repeat' split
  all_goals simp

@[simp] theorem sameMemTime_txDrop (f : Nat) : SameMemTime a (b.txDrop f) ↔ SameMemTime a b := by
  refine SameMemTime.iff ?_
  unfold Dev.txDrop
  split <;> simp

@[simp] theorem sameMemTime_freeEgress (q f : Nat) : SameMemTime a (b.freeEgress q f) ↔ SameMemTime a b := by
  refine SameMemTime.iff ?_
  unfold Dev.freeEgress
  split <;> simp

@[simp] theorem sameMemTime_retireTxq (q : Nat) : SameMemTime a (b.retireTxq q) ↔ SameMemTime a b := by
  simp [Dev.retireTxq]

@[simp] theorem sameMemTime_dequeue (q : Nat) : SameMemTime a (b.dequeue q) ↔ SameMemTime a b := by
  refine SameMemTime.iff ?_
  unfold Dev.dequeue
  dsimp only
  split <;> simp

/-! ## Selection (R181 to R184, R194 to R199) -/

theorem sameMemTime_drr (x c start fuel : Nat) (d : Dev) (p : Pick) : SameMemTime d (d.drr x c start fuel p).1 := by
  have hshp : ∀ (d : Dev) (need : Nat) (l : List Nat), SameMemTime d (l.foldl (fun d i => if d.rf .schShpRate i 0 28 = 0 then d else d.setShpTok i (d.shpTok i - need * 256)) d) :=
    fun d need l => sameMemTime_foldl (fun d i => by split <;> simp) _ _
  induction fuel generalizing d p with
  | zero => exact sameMemTime_refl d
  | succ fuel ih =>
    unfold Dev.drr
    dsimp only
    repeat' split
    all_goals first
      | exact sameMemTime_refl _
      | exact SameMemTime.trans (by simp) (ih _ _)
      | (simp only [sameMemTime_dequeue]; exact SameMemTime.trans (by simp) (hshp _ _ _))

theorem sameMemTime_selectClass (x start : Nat) (ok : Nat → Bool) (n : Nat) (d : Dev) (p : Pick) : SameMemTime d (d.selectClass x start ok n p).1 := by
  induction n generalizing d p with
  | zero => exact sameMemTime_refl d
  | succ n ih =>
    unfold Dev.selectClass
    dsimp only
    repeat' split
    · exact sameMemTime_drr _ _ _ _ _ _
    · exact (sameMemTime_drr _ _ _ _ _ _).trans (ih _ _)
    · exact ih _ _

@[simp] theorem sameMemTime_startFrame (x c q f start : Nat) : SameMemTime a (b.startFrame x c q f start) ↔ SameMemTime a b := by
  refine SameMemTime.iff ?_
  unfold Dev.startFrame
  split <;> simp

@[simp] theorem sameMemTime_resumeFrame (x start : Nat) (w : OnWire) : SameMemTime a (b.resumeFrame x start w) ↔ SameMemTime a b := by
  refine SameMemTime.iff ?_
  unfold Dev.resumeFrame
  split <;> simp

theorem sameMemTime_select (x start n : Nat) (d : Dev) : SameMemTime d (d.select x start n) := by
  induction n generalizing d with
  | zero => exact sameMemTime_refl d
  | succ n ih =>
    unfold Dev.select
    dsimp only
    have hsel := sameMemTime_selectClass x start (fun c => (tabFind x d.pkt.susp).isNone || !d.preemptable x c) 8 d {}
    generalize d.selectClass x start (fun c => (tabFind x d.pkt.susp).isNone || !d.preemptable x c) 8 {} = r at hsel ⊢
    refine SameMemTime.trans hsel ?_
    repeat' split
    all_goals first
      | exact SameMemTime.trans (by simp) (ih _)
      | simp

@[simp] theorem sameMemTime_selectIdle (x : Nat) : SameMemTime a (b.selectIdle x) ↔ SameMemTime a b := by
  refine SameMemTime.iff ?_
  unfold Dev.selectIdle
  split
  · simp
  · exact sameMemTime_select _ _ _ _

@[simp] theorem sameMemTime_cut (x t : Nat) : SameMemTime a (b.cut x t) ↔ SameMemTime a b := by
  refine SameMemTime.iff ?_
  unfold Dev.cut
  dsimp only
  repeat' split
  all_goals simp

@[simp] theorem sameMemTime_kick (x : Nat) : SameMemTime a (b.kick x) ↔ SameMemTime a b := by
  rw [Dev.kick, sameMemTime_selectIdle]
  refine SameMemTime.iff ?_
  unfold Dev.preempt
  dsimp only
  repeat' split
  all_goals simp

/-! ## Gates (R191, R192) -/

@[simp] theorem sameMemTime_gatesNow (x t : Nat) : SameMemTime a (b.gatesNow x t) ↔ SameMemTime a b := by
  refine SameMemTime.iff ?_
  unfold Dev.gatesNow
  dsimp only
  repeat' split
  all_goals simp

@[simp] theorem sameMemTime_gateStep (x old new : Nat) : SameMemTime a (b.gateStep x old new) ↔ SameMemTime a b := by
  refine SameMemTime.iff ?_
  unfold Dev.gateStep
  dsimp only
  repeat' split
  all_goals simp

@[simp] theorem sameMemTime_refillStep (m new : Nat) : SameMemTime a (b.refillStep m new) ↔ SameMemTime a b := by
  simp [Dev.refillStep]

end

end Sys2Proof.Machine
end

section
/-! PROOFS. The time plane: island copies, reference, straits and steps of device time (R13, R17, R21, R23 to R28). -/
namespace Sys2Proof.Machine
open Sys2Proof

/-! ## Steps of device time (R21, R27, R28) -/

theorem sameMemTime_regridAll (d : Dev) (new : Nat) : SameMemTime d (d.regridAll new) := by
  unfold Dev.regridAll
  dsimp only
  split
  · rw [sameMemTime_countBy, sameMemTime_incRf]
    exact ⟨rfl, rfl⟩
  · exact ⟨rfl, rfl⟩

/-- A step moves device time and counts itself; island copies keep their differences. -/
theorem applyStep_time (d : Dev) (ns : Int) :
    (d.applyStep ns).time = { d.time with now := ((d.time.now : Int) + ns * 65536).toNat, steps := d.time.steps + 1 } ∧ (d.applyStep ns).mem = d.mem := by
  have hgates : ∀ (l : List Nat) (e : Dev) (old new : Nat), SameMemTime e (l.foldl (fun d x => d.gateStep x old new) e) :=
    fun l e old new => sameMemTime_foldl (fun d x => by simp) l e
  unfold Dev.applyStep Dev.behindHwm
  dsimp only
  generalize ((d.time.now : Int) + ns * 65536).toNat = now
  have hfirst : SameMemTime ((d.withTime { d.time with now := now, steps := d.time.steps + 1 }).count 1)
      (Dev.regridAll (Dev.shiftWires { (d.withTime { d.time with now := now, steps := d.time.steps + 1 }).count 1 with
        thr := ((d.withTime { d.time with now := now, steps := d.time.steps + 1 }).count 1).thr.map (fun (e : Nat × Thread) => (e.1, e.2.timerStep (now / 65536))) }
          (ns * 65536)) (now / 65536)) := by
    exact SameMemTime.trans ⟨rfl, rfl⟩ (sameMemTime_regridAll _ _)
  have hall := hfirst.trans (hgates (List.range 32) _ d.ns (now / 65536))
  simp only [Dev.setRb_time, Dev.setRb_mem]
  refine ⟨?_, ?_⟩
  · exact (((sameMemTime_refillStep 1 _).mpr ((sameMemTime_refillStep 0 _).mpr hall))).2
  · exact (((sameMemTime_refillStep 1 _).mpr ((sameMemTime_refillStep 0 _).mpr hall))).1

theorem stepAllowed_iff (d : Dev) (ns : Int) (force : Bool) : d.stepAllowed ns force = true ↔
    (0 ≤ (d.ns : Int) + ns ∧ (d.ns : Int) + ns < 2 ^ 48 * 1000000000) ∧
      (force = true ∨ ¬(d.quality = 2 ∨ d.quality = 3) ∨ ns.natAbs ≤ d.rf .timeStepLimit 0 0 32 * 1000000) := by
  unfold Dev.stepAllowed Dev.stepFits maxNs nsPerSec
  simp only [Bool.and_eq_true, decide_eq_true_eq, Bool.or_eq_true, Bool.not_eq_true', Bool.or_eq_false_iff, beq_eq_false_iff_ne, not_or, or_assoc]
  have h : ∀ z : Int, z ≤ ((2 ^ 48 * 1000000000 - 1 : Nat) : Int) ↔ z < 2 ^ 48 * 1000000000 := fun z => by omega
  rw [h]

/-! ## A latched time (R23) -/

theorem toNat_ofNat64 {v : Nat} (h : v < 2 ^ 64) : (BitVec.ofNat 64 v).toNat = v := by rw [BitVec.toNat_ofNat, Nat.mod_eq_of_lt h]


theorem packTime_parts {t : Nat} (ht : t < 2 ^ 48 * 1000000000 * 65536) : ∃ sec ns frac : Nat, ns < 1000000000 ∧ frac < 65536 ∧
    (sec * 1000000000 + ns) * 65536 + frac = t ∧ packTime t = sec * 2 ^ 48 + ns * 2 ^ 16 + frac ∧ packTime t / 2 ^ 64 < 2 ^ 64 := by
  refine ⟨t / 65536 / 1000000000, t / 65536 % 1000000000, t % 65536, Nat.mod_lt _ (by decide), Nat.mod_lt _ (by decide), by omega, rfl, ?_⟩
  unfold packTime nsPerSec
  dsimp only
  omega

/-- The three words of a latched time. -/
theorem timeLatch_words (d : Dev) (isl : Nat) : (d.timeLatch isl).reg .timeNow0 isl = BitVec.ofNat 64 (packTime (d.islNow isl) % 2 ^ 32) ∧
    (d.timeLatch isl).reg .timeNow1 isl = BitVec.ofNat 64 (packTime (d.islNow isl) / 2 ^ 32 % 2 ^ 32) ∧
    (d.timeLatch isl).reg .timeNow2 isl = BitVec.ofNat 64 (packTime (d.islNow isl) / 2 ^ 64) := by
  unfold Dev.timeLatch
  dsimp only
  refine ⟨?_, ?_, ?_⟩
  · rw [Dev.reg_setReg_ne _ _ (.inl (by decide)), Dev.reg_setReg_ne _ _ (.inl (by decide)), Dev.reg_setReg_same]
  · rw [Dev.reg_setReg_ne _ _ (.inl (by decide)), Dev.reg_setReg_same]
  · rw [Dev.reg_setReg_same]

theorem keeps_timeLatch (d : Dev) (isl : Nat) : Keeps [.timeNow0, .timeNow1, .timeNow2] d (d.timeLatch isl) := by
  simp [Dev.timeLatch]

/-! ## Measured delays (R24) -/

/-- A table filled from a list, place by place: later places leave earlier ones alone. -/
theorem tabGet_foldl_zip (xs : List Nat) (t : Tab Nat) (s n j : Nat) : tabGet ((xs.zip (List.range' s n)).foldl (fun t e => tabPut t 0 e.2 e.1) t) 0 j =
    if s ≤ j ∧ j - s < n ∧ j - s < xs.length then xs.getD (j - s) 0 else tabGet t 0 j := by
  induction n generalizing xs t s with
  | zero => simp
  | succ n ih =>
    cases xs with
    | nil => simp
    | cons x xs =>
      rw [List.range'_succ, List.zip_cons_cons, List.foldl_cons, ih, tabGet_put]
      by_cases hj : j = s
      · subst hj
        simp
      · by_cases hs : s ≤ j
        · have h1 : j - s = (j - (s + 1)) + 1 := by omega
          rw [h1, List.getD_cons_succ]
          simp only [hj, if_false, List.length_cons]
          congr 1
          exact propext (by omega)
        · simp only [hj, hs, false_and, if_false]
          rw [if_neg (by omega)]

/-! ## Straits (R17) -/

/-- A check of a pending injection moves no report. -/
theorem useInjection_rest (d : Dev) (src : Nat) : (d.useInjection src).flt.queue = d.flt.queue ∧ (d.useInjection src).time = d.time := by
  unfold Dev.useInjection
  dsimp only
  repeat' split
  all_goals exact ⟨rfl, rfl⟩

/-- The device after a strait's flit has failed: its attempts counted, the fault raised. -/
def Dev.flitFailed (d : Dev) (st k n isl ev : Nat) : Dev :=
  ((((d.withTime { d.time with attempts := tabPut d.time.attempts 0 k n }).count (ev + 2)).count (ev + 3)).raiseFree (384 + st) isl none).useInjection (384 + st)

theorem flitFailed_time (d : Dev) (st k n isl ev : Nat) : (d.flitFailed st k n isl ev).time = { d.time with attempts := tabPut d.time.attempts 0 k n } :=
  (useInjection_rest _ _).2

theorem flitFailed_waits (d : Dev) (st k n isl ev : Nat) : ∃ r ∈ (d.flitFailed st k n isl ev).flt.queue, r.source = 384 + st := by
  obtain ⟨r, hr, hs, -⟩ := raiseFree_waits (((d.withTime { d.time with attempts := tabPut d.time.attempts 0 k n }).count (ev + 2)).count (ev + 3)) (384 + st) isl none
  exact ⟨r, by rw [Dev.flitFailed, (useInjection_rest _ _).1]; exact hr, hs⟩

theorem execStraitCrc_eq (s : State) (st : Fin 23) (low again : Bool) : ∃ isl ev, exec (.straitCrc st low again) s = eventOn (fun d =>
    if d.time.down.contains st.val then d
    else
      let n := if again then tabGet d.time.attempts 0 (2 * st.val + b2n low) + 1 else 1
      let e := d.flitFailed st.val (2 * st.val + b2n low) n isl ev
      if n < 16 then e else (e.withTime { e.time with down := e.time.down ++ [st.val] }).raiseFree (416 + st.val) isl none) s :=
  ⟨_, _, rfl⟩

theorem strait_crc (s : State) (hp : s.dev.powered = true) (st : Fin 23) (low again : Bool) (hup : s.dev.time.down.contains st.val = false) :
    Answers (.straitCrc st low again) s (fun d =>
      tabGet d.time.attempts 0 (2 * st.val + b2n low) = (if again then tabGet s.dev.time.attempts 0 (2 * st.val + b2n low) + 1 else 1) ∧
      (∃ r ∈ d.flt.queue, r.source = 384 + st.val) ∧
      (16 ≤ tabGet d.time.attempts 0 (2 * st.val + b2n low) → st.val ∈ d.time.down ∧ ∃ r ∈ d.flt.queue, r.source = 416 + st.val) ∧
      (tabGet d.time.attempts 0 (2 * st.val + b2n low) < 16 → d.time.down = s.dev.time.down)) := by
  obtain ⟨isl, ev, hex⟩ := execStraitCrc_eq s st low again
  refine answers_eventOn hex hp ?_
  simp only [hup, Bool.false_eq_true, if_false]
  generalize (if again = true then tabGet s.dev.time.attempts 0 (2 * st.val + b2n low) + 1 else 1) = n
  have htime := flitFailed_time s.dev st.val (2 * st.val + b2n low) n isl ev
  have hgot : tabGet (s.dev.flitFailed st.val (2 * st.val + b2n low) n isl ev).time.attempts 0 (2 * st.val + b2n low) = n := by
    rw [htime]; exact tabGet_put_same _ _ _ _
  have hwaits := flitFailed_waits s.dev st.val (2 * st.val + b2n low) n isl ev
  generalize s.dev.flitFailed st.val (2 * st.val + b2n low) n isl ev = e at htime hgot hwaits
  split
  next hlt => exact ⟨hgot, hwaits, fun h => absurd (hgot ▸ h) (Nat.not_le.mpr hlt), fun _ => by rw [htime]⟩
  next hge =>
    refine ⟨hgot, ?_, fun _ => ⟨List.mem_append_right _ (List.mem_singleton_self _), ?_⟩, fun h => absurd (hgot.symm.trans_lt h) hge⟩
    · obtain ⟨r, hr, hs⟩ := hwaits
      exact ⟨r, mem_insertReport_of_mem hr, hs⟩
    · obtain ⟨r, hr, hs, -⟩ := raiseFree_waits (e.withTime { e.time with down := e.time.down ++ [st.val] }) (416 + st.val) isl none
      exact ⟨r, hr, hs⟩

/-! ## Checks of the copies (R25) -/

theorem time_check (s : State) (hp : s.dev.powered = true) (isl : Fin 8) (upset : Int) (hisl : isl.val ≠ 0) : Answers (.timeCheck isl upset) s (fun d =>
    tabGet d.time.skew 0 isl.val = upset ∧ (∀ k, k ≠ isl.val → tabGet d.time.skew 0 k = tabGet s.dev.time.skew 0 k) ∧ d.time.now = s.dev.time.now ∧
    (tabGet s.dev.time.skew 0 isl.val = 0 → d.regs = s.dev.regs ∧ d.flt = s.dev.flt) ∧
    (tabGet s.dev.time.skew 0 isl.val ≠ 0 → d.rb .timeSkewStat 0 isl.val = true ∧ Keeps [.timeSkewStat] s.dev d ∧
      Raises (264 + isl.val) isl.val none none 0 (BitVec.ofNat 64 (isl.val + s.dev.skewTicks (tabGet s.dev.time.skew 0 isl.val) % 2 ^ 32 * 2 ^ 16)) s.dev d ∧
      d.rf .timeSkewStat 0 16 16 = max (s.dev.rf .timeSkewStat 0 16 16) (min (s.dev.skewTicks (tabGet s.dev.time.skew 0 isl.val)) 65535))) := by
  refine answers_eventOn (rfl : execTimeCheck isl upset s = _) hp ?_
  simp only [hisl, if_false]
  generalize hv : tabGet s.dev.time.skew 0 isl.val = v
  have hsame : tabGet (tabPut s.dev.time.skew 0 isl.val upset) 0 isl.val = upset := tabGet_put_same _ _ _ _
  have hother : ∀ k, k ≠ isl.val → tabGet (tabPut s.dev.time.skew 0 isl.val upset) 0 k = tabGet s.dev.time.skew 0 k := fun k hk => tabGet_put_ne _ _ _ hk _
  split
  next hz => exact ⟨hsame, hother, rfl, fun _ => ⟨rfl, rfl⟩, fun h => absurd hz h⟩
  next hz =>
    have h16 : isl.val < 16 := by omega
    refine ⟨hsame, hother, rfl, fun h => absurd h hz, fun _ => ⟨?_, ?_, rfl, ?_⟩⟩
    · rw [Dev.rb_setRf_ne _ _ _ _ _ _ _ (by decide) (.inl h16)]
      exact Dev.rb_setRb_same _ _ _ _ _ (by omega)
    · simp [Dev.withTime]
    · rw [Dev.rf_setRf_of_lt _ (by decide)]
      · rw [Dev.rf_setRb_ne _ _ _ _ _ _ _ (.inl h16)]
        rfl
      · refine Nat.max_lt.mpr ⟨Dev.rf_lt _ _ _, (Nat.min_le_right _ _).trans_lt (by decide)⟩

/-! ## Reference (R13) -/

theorem ref_qualified (s : State) (hp : s.dev.powered = true) (ten : Bool) (hok : s.dev.time.refOk = false) (hlost : s.dev.time.refLost = false) :
    Answers (.refclkQualified ten) s (fun d =>
      d.time.refOk = true ∧ d.rb .timeSrc 0 25 = ten ∧ (∀ b, b ≠ 25 → d.rb .timeSrc 0 b = s.dev.rb .timeSrc 0 b) ∧ Keeps [.timeSrc] s.dev d) := by
  refine answers_eventOn (rfl : execRefclkQualified ten s = _) hp ?_
  simp only [hok, hlost, Bool.false_eq_true, or_self, if_false]
  exact ⟨rfl, Dev.rb_setRb_same _ _ _ _ _ (by decide), fun b hb => Dev.rb_setRb_ne _ _ _ _ _ _ hb, by simp [Dev.withTime]⟩

/-- The device after REFCLK is lost, before the quality follows. -/
def Dev.refGone (d : Dev) : Dev := (((d.withTime { d.time with refLost := true }).raiseFree 130 0 none).setRf .timeQual 0 3 2 0).setRb .timeStatus 0 7 false

theorem refGone_quality (d : Dev) : d.refGone.quality = d.quality := by
  unfold Dev.refGone Dev.quality
  rw [Dev.rf_setRb_other _ _ _ _ _ (.inl (by decide)), Dev.rf_setRf_ne _ _ _ _ _ _ _ _ (by decide) (.inl (by decide))]
  rfl

theorem refGone_source (d : Dev) : d.refGone.source = 0 := by
  unfold Dev.refGone Dev.source
  rw [Dev.rf_setRb_other _ _ _ _ _ (.inl (by decide)), Dev.rf_setRf_same _ _ _ _ _ _ (by decide)]
  rfl

theorem ref_lost (s : State) (hp : s.dev.powered = true) (hok : s.dev.time.refOk = true) (hlost : s.dev.time.refLost = false) (hq : s.dev.quality ≠ 4) :
    Answers .refLost s (fun d => d.time.refLost = true ∧ d.quality = 4 ∧ d.source = 0 ∧ Keeps [.timeQual, .timeStatus] s.dev d ∧
      (∃ r ∈ d.flt.queue, r.source = 130) ∧ (∃ r ∈ d.flt.queue, r.source = 258)) := by
  refine answers_eventAny (rfl : execRefLost s = _) ?_
  rw [if_neg (by simp [hp]), if_neg (by simp [hlost, hok])]
  have hgone : (((s.dev.withTime { s.dev.time with refLost := true }).raiseFree 130 0 none).setRf .timeQual 0 3 2 0).setRb .timeStatus 0 7 false = s.dev.refGone := rfl
  dsimp only at hgone ⊢
  rw [hgone, Dev.toUnqualified, if_neg (refGone_quality s.dev ▸ hq)]
  refine ⟨rfl, ?_, ?_, ?_, ?_, ?_⟩
  · exact Dev.rf_setRf_same _ _ _ _ _ _ (by decide)
  · exact (Dev.rf_setRf_ne _ _ _ _ _ _ _ _ (by decide) (.inr (by decide))).trans (refGone_source s.dev)
  · simp [Dev.refGone, Dev.setQuality, Dev.withTime]
  · obtain ⟨r, hr, hs, -⟩ := raiseFree_waits (s.dev.withTime { s.dev.time with refLost := true }) 130 0 none
    exact ⟨r, mem_insertReport_of_mem hr, hs⟩
  · obtain ⟨r, hr, hs, -⟩ := raiseFree_waits (s.dev.refGone.setQuality 4) 258 0 none
    exact ⟨r, hr, hs⟩

/-! ## Steps written through TIME_CTL (R27, R28) -/

theorem time_ctl_step (s : State) (ns : Int) (hp : s.dev.powered = true) (hgo : s.dev.rb .timeCtl 0 0 = true)
    (hns : ns = (BitVec.ofNat 64 (s.dev.rf .timeStep0 0 0 32 + s.dev.rf .timeStep1 0 0 32 * 2 ^ 32)).toInt) :
    (0 ≤ (s.dev.ns : Int) + ns → (s.dev.ns : Int) + ns < 2 ^ 48 * 1000000000 →
      (s.dev.rb .timeCtl 0 1 = true ∨ (s.dev.quality ≠ 2 ∧ s.dev.quality ≠ 3) ∨ ns.natAbs ≤ s.dev.rf .timeStepLimit 0 0 32 * 1000000) →
      Answers .timeCtlStep s (fun d => d = (s.dev.setRb .timeCtl 0 0 false).applyStep ns ∧ d.ns = ((s.dev.ns : Int) + ns).toNat ∧
        d.time.skew = s.dev.time.skew ∧ d.time.steps = s.dev.time.steps + 1 ∧ d.mem = s.dev.mem)) ∧
    (((s.dev.ns : Int) + ns < 0 ∨ 2 ^ 48 * 1000000000 ≤ (s.dev.ns : Int) + ns ∨
      (s.dev.rb .timeCtl 0 1 = false ∧ (s.dev.quality = 2 ∨ s.dev.quality = 3) ∧ s.dev.rf .timeStepLimit 0 0 32 * 1000000 < ns.natAbs)) →
      Answers .timeCtlStep s (fun d => d.rb .timeCtl 0 0 = false ∧ d.time.now = s.dev.time.now ∧ RaisesSome 256 0 none s.dev d ∧ Keeps [.timeCtl] s.dev d)) := by
  have hq : (s.dev.setRb .timeCtl 0 0 false).quality = s.dev.quality := Dev.rf_setRb_other _ _ _ _ _ (.inl (by decide))
  have hlim : (s.dev.setRb .timeCtl 0 0 false).rf .timeStepLimit 0 0 32 = s.dev.rf .timeStepLimit 0 0 32 := Dev.rf_setRb_other _ _ _ _ _ (.inl (by decide))
  have hforce : (s.dev.setRb .timeCtl 0 0 false).rb .timeCtl 0 1 = s.dev.rb .timeCtl 0 1 := Dev.rb_setRb_ne _ _ _ _ _ _ (by decide)
  have hallow := stepAllowed_iff (s.dev.setRb .timeCtl 0 0 false) ns ((s.dev.setRb .timeCtl 0 0 false).rb .timeCtl 0 1)
  rw [hq, hlim, hforce, show (s.dev.setRb .timeCtl 0 0 false).ns = s.dev.ns from rfl] at hallow
  refine ⟨fun hlo hhi hok => ?_, fun hno => ?_⟩
  · refine answers_eventOn (rfl : execTimeCtlStep s = _) hp ?_
    have hyes := hallow.mpr ⟨⟨hlo, hhi⟩, hok.imp_right (Or.imp_left (fun h => not_or.mpr h))⟩
    simp only [hgo, Bool.not_true, Bool.false_eq_true, if_false, signed64, ← hns, hforce, hyes, if_true]
    obtain ⟨htime, hmem⟩ := applyStep_time (s.dev.setRb .timeCtl 0 0 false) ns
    refine ⟨trivial, ?_, by rw [htime]; rfl, by rw [htime]; rfl, hmem⟩
    rw [Dev.ns, htime, Dev.ns, Dev.setRb_time]
    dsimp only
    omega
  · refine answers_eventOn (rfl : execTimeCtlStep s = _) hp ?_
    have hrefuse : (s.dev.setRb .timeCtl 0 0 false).stepAllowed ns (s.dev.rb .timeCtl 0 1) = false := by
      rw [Bool.eq_false_iff, ne_eq, hallow]
      rintro ⟨⟨hlo, hhi⟩, hok⟩
      rcases hno with h | h | ⟨hf, hq, hl⟩
      · omega
      · omega
      · rcases hok with h | h | h
        · rw [hf] at h; cases h
        · exact h hq
        · omega
    simp only [hgo, Bool.not_true, Bool.false_eq_true, if_false, signed64, ← hns, hforce, hrefuse]
    exact ⟨Dev.rb_setRb_same _ _ _ _ _ (by decide), rfl, raisesSome_raiseFree _ _ _ _, by simp⟩

/-- Settles O24. -/
theorem timePlaneKeepsItsCopiesAndSteps : Obligations.TimePlaneKeepsItsCopiesAndSteps := by
  unfold Obligations.TimePlaneKeepsItsCopiesAndSteps
  refine ⟨fun s hp => ⟨fun isl hlt => ?_, fun ten hok hlost => ref_qualified s hp ten hok hlost, fun hok hlost hq => ref_lost s hp hok hlost hq,
    fun delays => ?_, fun isl upset hisl => time_check s hp isl upset hisl, fun st low again hup => strait_crc s hp st low again hup⟩,
    fun s ns hp hgo hns => time_ctl_step s ns hp hgo hns⟩
  · refine answers_eventOn (rfl : execTimeNow0Read isl s = _) hp ?_
    obtain ⟨sec, ns, frac, hns, hfrac, hsum, hpack, hfit⟩ := packTime_parts hlt
    obtain ⟨h0, h1, h2⟩ := timeLatch_words s.dev isl.val
    refine ⟨(keeps_emit_iff _).mpr (keeps_timeLatch _ _), sec, ns, frac, hns, hfrac, hsum, ?_, ?_, ?_⟩
    · rw [Dev.emit_reg, h0, toNat_ofNat64 ((Nat.mod_lt _ (by decide)).trans (by decide)), hpack]
    · rw [Dev.emit_reg, h1, toNat_ofNat64 ((Nat.mod_lt _ (by decide)).trans (by decide)), hpack]
    · rw [Dev.emit_reg, h2, toNat_ofNat64 hfit, hpack]
  · refine answers_eventOn (rfl : execDelayMeasure delays s = _) hp ⟨rfl, rfl, rfl, keeps_of_eq rfl rfl rfl, fun k hk hlen => ?_⟩
    have h := tabGet_foldl_zip delays [] 0 23 k
    rw [if_pos ⟨Nat.zero_le _, hk, hlen⟩, ← List.range_eq_range'] at h
    exact h

end Sys2Proof.Machine
end

section
/-! PROOFS. Time sources, holdover, the calendar and the time outputs (R28, R29, R36 to R45). -/
namespace Sys2Proof.Machine
open Sys2Proof

/-! ## What the servo's choice of a source moves (R40, R41) -/

@[simp] theorem keeps_withTime_iff {rs : List Reg} {a b : Dev} (t : Time) : Keeps rs a (b.withTime t) ↔ Keeps rs a b := .rfl

/-- The quality and the source in use have moved, and of the time plane only what says how the servo stands. -/
def Chooses (d d' : Dev) : Prop :=
  Keeps [.timeQual, .timeStatus] d d' ∧ (∀ b, b ≠ 7 → d'.rb .timeStatus 0 b = d.rb .timeStatus 0 b) ∧
    ∃ within hasEst, d'.time = { d.time with within := within, hasEst := hasEst }

theorem Chooses.refl (d : Dev) : Chooses d d := ⟨.refl _ _, fun _ _ => rfl, _, _, rfl⟩

theorem Chooses.trans {a b c : Dev} (h : Chooses a b) (h' : Chooses b c) : Chooses a c := by
  obtain ⟨hk, hb, w, e, ht⟩ := h
  obtain ⟨hk', hb', w', e', ht'⟩ := h'
  exact ⟨hk.trans hk', fun b hne => (hb' b hne).trans (hb b hne), w', e', by rw [ht', ht]⟩

theorem chooses_setRf (d : Dev) (lo w x : Nat) : Chooses d (d.setRf .timeQual 0 lo w x) :=
  ⟨by simp, fun _ _ => Dev.rb_setRf_other _ _ _ _ _ (.inl (by decide)), _, _, rfl⟩

theorem chooses_setRb (d : Dev) (v : Bool) : Chooses d (d.setRb .timeStatus 0 7 v) :=
  ⟨by simp, fun _ hb => Dev.rb_setRb_ne _ _ _ _ _ _ hb, _, _, rfl⟩

theorem chooses_withTime (d : Dev) (w : Nat) (e : Bool) : Chooses d (d.withTime { d.time with within := w, hasEst := e }) :=
  ⟨keeps_of_eq rfl rfl rfl, fun _ _ => rfl, w, e, rfl⟩

theorem chooses_raiseFree (d : Dev) (source isl : Nat) (p : Option Nat) : Chooses d (d.raiseFree source isl p) :=
  ⟨by simp, fun _ _ => rfl, _, _, rfl⟩

theorem chooses_toHoldover (d : Dev) (err : Nat) : Chooses d (d.toHoldover err) :=
  (((chooses_setRf d _ _ _).trans (chooses_setRf _ _ _ _)).trans (chooses_withTime _ _ _)).trans (chooses_raiseFree _ _ _ _)

theorem chooses_loseSource (d : Dev) : Chooses d d.loseSource := by
  have hleft := (chooses_setRf d 3 2 0).trans (chooses_setRb _ false)
  unfold Dev.loseSource
  dsimp only
  repeat' split
  · exact hleft.trans (chooses_toHoldover _ _)
  · exact hleft.trans (chooses_setRf _ _ _ _)
  · exact hleft

theorem chooses_takeSource (d : Dev) (src : Nat) : Chooses d (d.takeSource src) :=
  (((chooses_setRf d _ _ _).trans (chooses_setRf _ _ _ _)).trans (chooses_setRb _ _)).trans (chooses_withTime _ _ _)

theorem chooses_reselect (d : Dev) : Chooses d d.reselect := by
  have htake : ∀ (e : Dev) (c : Prop) [Decidable c] (best : Nat), Chooses e (if c then e else e.takeSource best) := fun e c _ best => by
    split
    · exact .refl e
    · exact chooses_takeSource e best
  unfold Dev.reselect
  dsimp only
  split
  · exact .refl d
  · refine .trans ?_ (htake _ _ _)
    split
    · exact chooses_loseSource d
    · exact .refl d

/-! ## Announces (R36, R40, R44) -/

theorem takeSource_shows (d : Dev) {src : Nat} (h : src < 4) : (d.takeSource src).source = src ∧ (d.takeSource src).quality = 1 ∧
    (d.takeSource src).time.within = 0 ∧ (d.takeSource src).rb .timeStatus 0 7 = (src == 1 && !d.time.ptpUp) := by
  unfold Dev.takeSource Dev.source Dev.quality Dev.setQuality
  refine ⟨?_, ?_, rfl, ?_⟩
  · show (Dev.setRb _ _ _ _ _).rf .timeQual 0 3 2 = _
    rw [Dev.rf_setRb_other _ _ _ _ _ (.inl (by decide))]
    exact Dev.rf_setRf_of_lt _ (by decide) h
  · show (Dev.setRb _ _ _ _ _).rf .timeQual 0 0 3 = _
    rw [Dev.rf_setRb_other _ _ _ _ _ (.inl (by decide)), Dev.rf_setRf_ne _ _ _ _ _ _ _ _ (by decide) (.inl (by decide))]
    exact Dev.rf_setRf_of_lt _ (by decide) (by decide)
  · exact Dev.rb_setRb_same _ _ _ _ _ (by decide)

/-- With no source in use, and PTP first in the list and up, the servo takes PTP (R40). -/
theorem reselect_takes {d : Dev} (href : d.time.refLost = false) (hup : d.time.ptpUp = true) (hsrc : d.source = 0) (hfirst : d.rf .timeSrc 0 0 2 = 1) :
    d.reselect = d.takeSource 1 := by
  have hbest : d.bestSource = 1 := by
    simp [Dev.bestSource, hfirst, Dev.sourceUp, hup]
  simp [Dev.reselect, href, hsrc, hbest]

theorem leapCheck_time (d : Dev) : d.leapCheck.time = d.time := by
  unfold Dev.leapCheck Dev.showUtc
  dsimp only
  split <;> rfl

theorem leapCheck_rf (d : Dev) {r : Reg} {i lo w : Nat} (h : r ≠ .timeUtcOffset ∨ i ≠ 0 ∨ 16 ≤ lo) : d.leapCheck.rf r i lo w = d.rf r i lo w := by
  have hshow : d.showUtc.rf r i lo w = d.rf r i lo w := by
    by_cases hr : r ≠ .timeUtcOffset ∨ i ≠ 0
    · exact Dev.rf_setRf_other _ _ _ _ _ _ hr
    · obtain ⟨rfl, rfl⟩ : r = .timeUtcOffset ∧ i = 0 := by simpa [not_or] using hr
      exact Dev.rf_setRf_ne _ _ _ _ _ _ _ _ (by decide) (.inr (by simpa using h))
  unfold Dev.leapCheck
  dsimp only
  split
  · exact hshow
  · exact hshow

/-- The device with an Announce's offset and clock taken over, and the leap table checked where they are new (R44). -/
def Dev.announced (d : Dev) (utc : Int) (clock : Word) : Dev :=
  let new := (utc % 65536).toNat
  let changed := decide (d.rf .timeUtcOffset 0 16 16 ≠ new) || !(d.time.clock == clock)
  let d := (d.setRf .timeUtcOffset 0 16 16 new).withTime { d.time with clock := clock }
  if changed then d.leapCheck else d

theorem announced_shows (d : Dev) (utc : Int) (clock : Word) : (d.announced utc clock).time = { d.time with clock := clock } ∧
    (d.announced utc clock).source = d.source ∧ (d.announced utc clock).quality = d.quality ∧
    (d.announced utc clock).rf .timeUtcOffset 0 16 16 = (utc % 65536).toNat := by
  have hnew : (utc % 65536).toNat < 2 ^ 16 := by omega
  have hset : ∀ t, ((d.setRf .timeUtcOffset 0 16 16 (utc % 65536).toNat).withTime t).rf .timeUtcOffset 0 16 16 = (utc % 65536).toNat := fun t =>
    Dev.rf_setRf_of_lt _ (by decide) hnew
  have hqual : ∀ t lo w, ((d.setRf .timeUtcOffset 0 16 16 (utc % 65536).toNat).withTime t).rf .timeQual 0 lo w = d.rf .timeQual 0 lo w := fun t lo w =>
    Dev.rf_setRf_other _ _ _ _ _ _ (.inl (by decide))
  unfold Dev.announced
  dsimp only
  split
  · refine ⟨leapCheck_time _, ?_, ?_, ?_⟩
    · exact (leapCheck_rf _ (.inl (by decide))).trans (hqual _ _ _)
    · exact (leapCheck_rf _ (.inl (by decide))).trans (hqual _ _ _)
    · exact (leapCheck_rf _ (.inr (.inr (by decide)))).trans (hset _)
  · exact ⟨rfl, hqual _ _ _, hqual _ _ _, hset _⟩

theorem ptpRx_announce {d : Dev} {m : PtpMsg} {utc : Int} {clock : Word} (hk : m.kind = .announce utc clock)
    (hport : d.rf .timeSrc 0 8 5 = m.port.val) (hup : d.portUp m.port.val = true) (href : d.time.refLost = false) (hsrc : d.source = 0)
    (hfirst : d.rf .timeSrc 0 0 2 = 1) :
    d.ptpRx m = (((d.count 0).withTime { d.time with ptpUp := true }).takeSource 1).announced utc clock := by
  have hsel : ((d.count 0).withTime { d.time with ptpUp := true }).reselect = ((d.count 0).withTime { d.time with ptpUp := true }).takeSource 1 :=
    reselect_takes href rfl hsrc hfirst
  obtain ⟨hs, -, -, hb⟩ := takeSource_shows ((d.count 0).withTime { d.time with ptpUp := true }) (src := 1) (by decide)
  have hb' : (((d.count 0).withTime { d.time with ptpUp := true }).takeSource 1).rb .timeStatus 0 7 = false := hb
  unfold Dev.ptpRx
  simp only [hport, hup, hk, beq_self_eq_true, Bool.true_or, Bool.not_true, Bool.or_self, Bool.false_eq_true, if_false, if_true]
  rw [show ((d.count 0).withTime { (d.count 0).time with ptpUp := true }) = (d.count 0).withTime { d.time with ptpUp := true } from rfl, hsel]
  simp only [hs, hb', beq_self_eq_true, Bool.true_and, Bool.false_eq_true, if_false, Bool.not_true]
  rfl

/-! ## Offsets that the servo takes (R28, R40, R41) -/

theorem clampTo_bounds {lo hi v : Nat} (h : lo ≤ hi) : lo ≤ clampTo lo hi v ∧ clampTo lo hi v ≤ hi := by
  exact ⟨Nat.le_min.mpr ⟨h, Nat.le_max_left _ _⟩, Nat.min_le_left _ _⟩

/-- The servo slews within R22's range, and moves nothing else but the bit that says that it had to. -/
theorem slew_shows (d : Dev) : Keeps [.timeAddend, .timeStatus] d d.slew ∧ d.slew.time = d.time ∧ 0x3FF7D ≤ d.slew.rf .timeAddend 0 0 32 ∧
    d.slew.rf .timeAddend 0 0 32 ≤ 0x40083 := by
  unfold Dev.slew
  dsimp only
  obtain ⟨hlo, hhi⟩ := clampTo_bounds (lo := 0x3FF7D) (hi := 0x40083) (v := d.fresh.1.toNat % 2 ^ 32) (by decide)
  generalize clampTo 0x3FF7D 0x40083 (d.fresh.1.toNat % 2 ^ 32) = c at hlo hhi
  have hrf : ∀ b, ((d.fresh.2.setReg .timeAddend 0 (BitVec.ofNat 64 c)).setRb .timeStatus 0 4 b).rf .timeAddend 0 0 32 = c := fun b => by
    rw [Dev.rf_setRb_other _ _ _ _ _ (.inl (by decide)), Dev.rf, Dev.reg_setReg_same, wf, toNat_ofNat64 (hhi.trans_lt (by decide)), fld_eq_div]
    omega
  refine ⟨?_, rfl, ?_, ?_⟩
  · simp [Dev.fresh]
  · rw [hrf]; exact hlo
  · rw [hrf]; exact hhi

/-- One more offset in a row lies within the threshold. -/
def Dev.within (d : Dev) : Dev := d.withTime { d.time with within := d.time.within + 1 }

/-- The servo has locked: device time is calendar-valid, and has an error estimate (R41). -/
def Dev.locked (d : Dev) (src : Nat) : Dev :=
  let d := (d.setQuality 2).setRb .timeStatus 0 0 true
  d.withTime { d.time with hasEst := true, secsKnown := d.time.secsKnown || src == 1 }

theorem servo_small {d : Dev} {off : Int} (hunit : d.unitHeld 1 = true) (hbig : off.natAbs ≤ 10000) (hthr : off.natAbs ≤ d.rf .timeLockThresh 0 0 32)
    (hq : d.quality = 1) : d.servo off =
      if 16 ≤ d.time.within + 1 then (((d.withTime { d.time with lastOff := off }).slew).within).locked d.source
      else ((d.withTime { d.time with lastOff := off }).slew).within := by
  obtain ⟨hk, htime, -, -⟩ := slew_shows (d.withTime { d.time with lastOff := off })
  have hthr' : (d.withTime { d.time with lastOff := off }).slew.rf .timeLockThresh 0 0 32 = d.rf .timeLockThresh 0 0 32 :=
    congrArg (fun w => wf w 0 32) (hk.1 .timeLockThresh 0 (by decide))
  have hq' : ((d.withTime { d.time with lastOff := off }).slew).within.quality = 1 :=
    (congrArg (fun w => wf w 0 3) (hk.1 .timeQual 0 (by decide))).trans hq
  have hw : (d.withTime { d.time with lastOff := off }).slew.time.within = d.time.within := by rw [htime]; rfl
  have hnot : decide (10000 < off.natAbs) = false := by simpa using hbig
  unfold Dev.servo
  simp only [hunit, hnot, hthr', hthr, hw, decide_true, Bool.not_true, Bool.false_eq_true, if_false, if_true, Bool.false_and]
  have hwithin : (d.withTime { d.time with lastOff := off }).slew.withTime { (d.withTime { d.time with lastOff := off }).slew.time with within := d.time.within + 1 } =
      (d.withTime { d.time with lastOff := off }).slew.within := by rw [Dev.within, hw]
  rw [hwithin]
  simp only [hq', true_and]
  rfl

theorem sync_within {d : Dev} {off : Int} (hunit : d.unitHeld 1 = true) (hbig : off.natAbs ≤ 10000) (hthr : off.natAbs ≤ d.rf .timeLockThresh 0 0 32)
    (hq : d.quality = 1) : (d.servo off).time.within = d.time.within + 1 ∧ (d.servo off).time.lastOff = off ∧ (d.servo off).time.now = d.time.now ∧
      (d.servo off).quality = (if 16 ≤ d.time.within + 1 then 2 else 1) ∧ (16 ≤ d.time.within + 1 → (d.servo off).rb .timeStatus 0 0 = true) ∧
      0x3FF7D ≤ (d.servo off).rf .timeAddend 0 0 32 ∧ (d.servo off).rf .timeAddend 0 0 32 ≤ 0x40083 ∧
      Keeps [.timeAddend, .timeStatus, .timeQual] d (d.servo off) := by
  obtain ⟨hk, htime, hlo, hhi⟩ := slew_shows (d.withTime { d.time with lastOff := off })
  rw [servo_small hunit hbig hthr hq]
  generalize (d.withTime { d.time with lastOff := off }).slew = e at hk htime hlo hhi
  have hke : Keeps [.timeAddend, .timeStatus, .timeQual] d e :=
    ((keeps_of_eq rfl rfl rfl : Keeps [] d (d.withTime { d.time with lastOff := off })).mono (by simp)).trans (hk.mono (by simp))
  have hqe : e.quality = 1 := (congrArg (fun w => wf w 0 3) (hk.1 .timeQual 0 (by decide))).trans hq
  split
  next h16 =>
    have hadd : (e.within.locked d.source).rf .timeAddend 0 0 32 = e.rf .timeAddend 0 0 32 :=
      (Dev.rf_setRb_other _ _ _ _ _ (.inl (by decide))).trans (Dev.rf_setRf_other _ _ _ _ _ _ (.inl (by decide)))
    refine ⟨?_, ?_, ?_, ?_, fun _ => Dev.rb_setRb_same _ _ _ _ _ (by decide), by rw [hadd]; exact hlo, by rw [hadd]; exact hhi, ?_⟩
    · show e.time.within + 1 = _
      rw [htime]; rfl
    · show e.time.lastOff = _
      rw [htime]; rfl
    · show e.time.now = _
      rw [htime]; rfl
    · exact (Dev.rf_setRb_other _ _ _ _ _ (.inl (by decide))).trans (Dev.rf_setRf_of_lt _ (by decide) (by decide))
    · refine hke.trans ?_
      simp [Dev.locked, Dev.within, Dev.setQuality]
  next h16 =>
    refine ⟨?_, ?_, ?_, hqe, fun h => absurd h h16, hlo, hhi, hke.trans (keeps_of_eq rfl rfl rfl)⟩
    · show e.time.within + 1 = _
      rw [htime]; rfl
    · show e.time.lastOff = _
      rw [htime]; rfl
    · show e.time.now = _
      rw [htime]; rfl

theorem ptpRx_sync {d : Dev} {m : PtpMsg} {off : Int} {delay : Nat} (hk : m.kind = .sync off delay)
    (hport : d.rf .timeSrc 0 8 5 = m.port.val) (hup : d.portUp m.port.val = true) (href : d.time.refLost = false) (hsrc : d.source = 1)
    (hmain : d.rb .timeStatus 0 7 = false) : d.ptpRx m = ((d.count 0).withTime { d.time with pathDelay := delay }).servo off := by
  unfold Dev.ptpRx
  simp only [hport, hup, hk, hsrc, hmain, href, beq_self_eq_true, Bool.true_or, Bool.not_true, Bool.or_self, Bool.false_eq_true, if_false, Bool.and_self]
  rw [show (d.count 0).time = d.time from rfl, href]
  rfl

/-! ## Sources that are lost (R37, R40, R42) -/

theorem setErr_shows (d : Dev) (e : Nat) : (d.setErr e).rf .timeQual 0 5 27 = min e (2 ^ 27 - 1) ∧ (d.setErr e).quality = d.quality ∧
    (d.setErr e).source = d.source := by
  refine ⟨?_, ?_, ?_⟩
  · exact Dev.rf_setRf_of_lt _ (by decide) ((Nat.min_le_right _ _).trans_lt (by decide))
  · exact Dev.rf_setRf_ne _ _ _ _ _ _ _ _ (by decide) (.inl (by decide))
  · exact Dev.rf_setRf_ne _ _ _ _ _ _ _ _ (by decide) (.inl (by decide))

/-- With no source present nothing is taken. -/
theorem bestSource_none {d : Dev} (h1 : d.sourceUp 1 = false) (h2 : d.sourceUp 2 = false) : d.bestSource = 0 := by
  have hnone : ∀ n, d.sourceUp n = false := fun n => by
    match n with
    | 0 => rfl
    | 1 => exact h1
    | 2 => exact h2
    | n + 3 => rfl
  unfold Dev.bestSource
  rw [List.find?_eq_none.mpr (fun n _ => by simp [hnone])]
  rfl

/-- The loss of a locked source is HOLDOVER with the last offset as its error (R41, R42). -/
theorem loseSource_locked {d : Dev} (hq : d.quality = 2) :
    d.loseSource = ((d.setRf .timeQual 0 3 2 0).setRb .timeStatus 0 7 false).toHoldover d.time.lastOff.natAbs := by
  unfold Dev.loseSource
  dsimp only
  rw [if_pos (.inl hq)]
  rfl

theorem toHoldover_shows (d : Dev) (err : Nat) : (d.toHoldover err).quality = 3 ∧ (d.toHoldover err).source = d.source ∧
    (d.toHoldover err).rf .timeQual 0 5 27 = min err (2 ^ 27 - 1) := by
  obtain ⟨he, hq, hs⟩ := setErr_shows (d.setQuality 3) err
  refine ⟨hq.trans (Dev.rf_setRf_of_lt _ (by decide) (by decide)), hs.trans (Dev.rf_setRf_ne _ _ _ _ _ _ _ _ (by decide) (.inr (by decide))), he⟩

theorem chooses_sourceUp {d e : Dev} (h : Chooses d e) (src : Nat) : e.sourceUp src = d.sourceUp src := by
  obtain ⟨hk, hb, w, est, ht⟩ := h
  have h21 : e.rb .timeSrc 0 21 = d.rb .timeSrc 0 21 := congrArg (wbit · 21) (hk.1 .timeSrc 0 (by decide))
  match src with
  | 0 => rfl
  | 1 => show (e.time.ptpUp || (e.rb .timeSrc 0 21 && e.time.standbyUp)) = _; rw [ht, h21]; rfl
  | 2 => show (e.rb .timeStatus 0 6 && e.time.secsKnown) = _; rw [ht, hb 6 (by decide)]; rfl
  | n + 3 => rfl

/-- PTP in use and gone, with no other source present, leaves the servo without a source (R40). -/
theorem reselect_loses {d : Dev} (href : d.time.refLost = false) (hsrc : d.source = 1) (h1 : d.sourceUp 1 = false) (h2 : d.sourceUp 2 = false) :
    d.reselect = d.loseSource := by
  have hbest : d.loseSource.bestSource = 0 :=
    bestSource_none ((chooses_sourceUp (chooses_loseSource d) 1).trans h1) ((chooses_sourceUp (chooses_loseSource d) 2).trans h2)
  simp [Dev.reselect, href, hsrc, h1, hbest]

/-- The PTP port in use is lost where it was the receiver's. -/
theorem announce_lost {d : Dev} (href : d.time.refLost = false) (hsrc : d.source = 1) (hq : d.quality = 2) (hmain : d.rb .timeStatus 0 7 = false)
    (hstandby : d.time.standbyUp = false) (h2 : d.sourceUp 2 = false) :
    d.dropSource 1 = (((d.withTime { d.time with ptpUp := false }).setRf .timeQual 0 3 2 0).setRb .timeStatus 0 7 false).toHoldover d.time.lastOff.natAbs := by
  unfold Dev.dropSource
  rw [if_pos rfl, hmain, if_neg (by decide)]
  rw [reselect_loses (d := d.withTime { d.time with ptpUp := false }) href hsrc (by simp [Dev.sourceUp, Dev.withTime, hstandby]) h2]
  exact loseSource_locked hq

/-- The first source of the list, and a lost one (R36, R40, R41). -/
theorem ptp_messages (s : State) (hp : s.dev.powered = true) (href : s.dev.time.refLost = false) :
    (∀ (m : PtpMsg) utc clock, m.kind = .announce utc clock → s.dev.rf .timeSrc 0 8 5 = m.port.val → s.dev.portUp m.port.val = true →
      s.dev.source = 0 → s.dev.rf .timeSrc 0 0 2 = 1 → Answers (.ptpMessageRx m) s (fun d =>
        d.time.ptpUp = true ∧ d.source = 1 ∧ d.quality = 1 ∧ d.time.within = 0 ∧ d.rf .timeUtcOffset 0 16 16 = (utc % 65536).toNat)) ∧
    (∀ (m : PtpMsg) off delay, m.kind = .sync off delay → s.dev.rf .timeSrc 0 8 5 = m.port.val → s.dev.portUp m.port.val = true →
      s.dev.source = 1 → s.dev.rb .timeStatus 0 7 = false → s.dev.unitHeld 1 = true → off.natAbs ≤ 10000 →
      off.natAbs ≤ s.dev.rf .timeLockThresh 0 0 32 → s.dev.quality = 1 → Answers (.ptpMessageRx m) s (fun d =>
        d.time.within = s.dev.time.within + 1 ∧ d.time.lastOff = off ∧ d.time.now = s.dev.time.now ∧
        d.quality = (if 16 ≤ s.dev.time.within + 1 then 2 else 1) ∧ (16 ≤ s.dev.time.within + 1 → d.rb .timeStatus 0 0 = true) ∧
        0x3FF7D ≤ d.rf .timeAddend 0 0 32 ∧ d.rf .timeAddend 0 0 32 ≤ 0x40083 ∧ Keeps [.timeAddend, .timeStatus, .timeQual] s.dev d)) ∧
    (s.dev.source = 1 → s.dev.quality = 2 → s.dev.rb .timeStatus 0 7 = false → s.dev.time.standbyUp = false → s.dev.sourceUp 2 = false →
      Answers .announceTimeout s (fun d => d.time.ptpUp = false ∧ d.quality = 3 ∧ d.source = 0 ∧
        d.rf .timeQual 0 5 27 = min s.dev.time.lastOff.natAbs (2 ^ 27 - 1) ∧ RaisesSome 257 0 none s.dev d)) := by
  refine ⟨fun m utc clock hk hport hup hsrc hfirst => ?_, fun m off delay hk hport hup hsrc hmain hunit hbig hthr hq => ?_,
    fun hsrc hq hmain hstandby h2 => ?_⟩
  · refine answers_eventOn (rfl : execPtpMessageRx m s = _) hp ?_
    rw [ptpRx_announce hk hport hup href hsrc hfirst]
    obtain ⟨hts, htq, htw, -⟩ := takeSource_shows ((s.dev.count 0).withTime { s.dev.time with ptpUp := true }) (src := 1) (by decide)
    obtain ⟨-, -, w, e, htt⟩ := chooses_takeSource ((s.dev.count 0).withTime { s.dev.time with ptpUp := true }) 1
    obtain ⟨ht, hs, hq, hu⟩ := announced_shows (((s.dev.count 0).withTime { s.dev.time with ptpUp := true }).takeSource 1) utc clock
    refine ⟨?_, hs.trans hts, hq.trans htq, ?_, hu⟩
    · rw [ht, htt]; rfl
    · rw [ht]; exact htw
  · refine answers_eventOn (rfl : execPtpMessageRx m s = _) hp ?_
    rw [ptpRx_sync hk hport hup href hsrc hmain]
    obtain ⟨h1, h2, h3, h4, h5, h6, h7, h8⟩ := sync_within (d := (s.dev.count 0).withTime { s.dev.time with pathDelay := delay }) (off := off) hunit hbig hthr hq
    exact ⟨h1, h2, h3, h4, h5, h6, h7, ((keeps_of_eq rfl rfl rfl : Keeps [] s.dev ((s.dev.count 0).withTime { s.dev.time with pathDelay := delay })).mono (by simp)).trans h8⟩
  · refine answers_eventOn (rfl : execAnnounceTimeout s = _) hp ?_
    rw [if_pos ⟨hsrc, by simp [href]⟩, announce_lost href hsrc hq hmain hstandby h2]
    obtain ⟨hq3, hs3, he3⟩ := toHoldover_shows (((s.dev.withTime { s.dev.time with ptpUp := false }).setRf .timeQual 0 3 2 0).setRb .timeStatus 0 7 false)
      s.dev.time.lastOff.natAbs
    refine ⟨rfl, hq3, hs3.trans ?_, he3, _, rfl⟩
    exact (Dev.rf_setRb_other _ _ _ _ _ (.inl (by decide))).trans (Dev.rf_setRf_of_lt _ (by decide) (by decide))

/-! ## PPS and frequency inputs (R37, R39) -/

/-- The edges accepted in a row, with one more of them. -/
theorem edges_counted (n : Nat) : (if (true && n != 0) = true then n + 1 else 1) = n + 1 := by
  cases n <;> simp

theorem pps_inputs (s : State) (hp : s.dev.powered = true) :
    (∀ ok, Answers (.ppsInEdge false ok) s (fun d => Keeps [.timePpsInStat] s.dev d ∧ d.time = s.dev.time ∧
      (s.dev.rf .timePpsInStat 0 0 32 < 2 ^ 32 - 1 → d.rf .timePpsInStat 0 0 32 = s.dev.rf .timePpsInStat 0 0 32 + 1))) ∧
    (s.dev.rb .timeStatus 0 6 = false → s.dev.time.ppsEdges = 3 → Answers (.ppsInEdge true true) s (fun d =>
      d.rb .timeStatus 0 6 = true ∧ d.time.ppsLast = s.dev.ns ∧ d.time.now = s.dev.time.now ∧ d.mem = s.dev.mem)) ∧
    (s.dev.rb .timeStatus 0 6 = false → s.dev.time.ppsEdges < 3 → Answers (.ppsInEdge true true) s (fun d =>
      d.time.ppsEdges = s.dev.time.ppsEdges + 1 ∧ d.time.ppsLast = s.dev.ns ∧ Keeps [] s.dev d)) ∧
    (s.dev.time.ppsEdges ≠ 0 → s.dev.time.ppsLast + 2000000000 ≤ s.dev.ns → Answers .ppsInLost s (fun d =>
      d.rb .timeStatus 0 6 = false ∧ d.time.ppsEdges = 0 ∧ d.time.now = s.dev.time.now ∧ d.mem = s.dev.mem)) ∧
    (s.dev.rb .timeSrc 0 24 = false → Answers .freqInQualified s (fun d => d.rb .timeStatus 0 5 = true ∧ Keeps [.timeStatus] s.dev d)) ∧
    Answers .freqInLost s (fun d => d.rb .timeStatus 0 5 = false ∧ Keeps [.timeStatus] s.dev d) := by
  refine ⟨fun ok => ?_, fun hno h3 => ?_, fun hno h3 => ?_, fun hne hlate => ?_, fun hmode => ?_, ?_⟩
  · refine answers_eventOn (rfl : execPpsInEdge false ok s = _) hp ?_
    refine ⟨by simp, rfl, fun hlt => ?_⟩
    exact (Dev.rf_incRf_same s.dev (r := .timePpsInStat) (i := 0) (n := 1) (by decide)).trans (Nat.min_eq_left (by omega))
  · refine answers_eventOn (rfl : execPpsInEdge true true s = _) hp ?_
    simp only [hno, Bool.not_true, Bool.false_eq_true, if_false]
    rw [edges_counted, if_pos (by omega)]
    obtain ⟨hk, hb, w, e, ht⟩ := chooses_reselect ((s.dev.withTime { s.dev.time with ppsLast := s.dev.ns, ppsEdges := s.dev.time.ppsEdges + 1 }).setRb .timeStatus 0 6 true)
    exact ⟨(hb 6 (by decide)).trans (Dev.rb_setRb_same _ _ _ _ _ (by decide)), (congrArg Time.ppsLast ht :), (congrArg Time.now ht :), hk.2.1⟩
  · refine answers_eventOn (rfl : execPpsInEdge true true s = _) hp ?_
    simp only [hno, Bool.not_true, Bool.false_eq_true, if_false]
    rw [edges_counted, if_neg (by omega)]
    exact ⟨rfl, rfl, by simp⟩
  · refine answers_eventOn (rfl : execPpsInLost s = _) hp ?_
    rw [if_neg (by simp only [nsPerSec]; omega)]
    obtain ⟨hk, hb, w, e, ht⟩ := chooses_reselect ((s.dev.withTime { s.dev.time with ppsEdges := 0 }).setRb .timeStatus 0 6 false)
    exact ⟨(hb 6 (by decide)).trans (Dev.rb_setRb_same _ _ _ _ _ (by decide)), (congrArg Time.ppsEdges ht :), (congrArg Time.now ht :), hk.2.1⟩
  · refine answers_eventOn (rfl : execFreqInQualified s = _) hp ?_
    have hmode' : (s.dev.setRb .timeStatus 0 5 true).rb .timeSrc 0 24 = false := (Dev.rb_setRb_other _ _ _ _ (.inl (by decide))).trans hmode
    simp only [hmode', Bool.false_and, Bool.false_eq_true, if_false]
    exact ⟨Dev.rb_setRb_same _ _ _ _ _ (by decide), by simp⟩
  · exact answers_eventOn (rfl : execFreqInLost s = _) hp ⟨Dev.rb_setRb_same _ _ _ _ _ (by decide), by simp⟩

/-! ## Holdover (R42) -/

theorem holdover_second (s : State) (hp : s.dev.powered = true) (rate : Nat)
    (hrate : rate = (if s.dev.rb .timeStatus 0 5 then s.dev.rf .timeHoldRateF 0 0 32 else s.dev.rf .timeHoldRate 0 0 32))
    (hq : s.dev.quality = 3 ∨ s.dev.quality = 4) : Answers .holdoverSecond s (fun d =>
      d.rf .timeQual 0 5 27 = min (s.dev.rf .timeQual 0 5 27 + rate) (2 ^ 27 - 1) ∧
      d.rf .timeHoldSecs 0 0 32 = min (s.dev.rf .timeHoldSecs 0 0 32 + 1) (2 ^ 32 - 1) ∧
      d.quality = (if s.dev.rf .timeHoldLimit 0 0 32 < min (s.dev.rf .timeQual 0 5 27 + rate) (2 ^ 27 - 1) then 4 else s.dev.quality) ∧
      Keeps [.timeQual, .timeHoldSecs] s.dev d) := by
  refine answers_eventOn (rfl : execHoldoverSecond s = _) hp ?_
  rw [if_neg (by omega)]
  dsimp only
  rw [← hrate]
  obtain ⟨he, hqe, -⟩ := setErr_shows s.dev (s.dev.rf .timeQual 0 5 27 + rate)
  have hkeep : Keeps [.timeQual, .timeHoldSecs] s.dev ((s.dev.setErr (s.dev.rf .timeQual 0 5 27 + rate)).incRf .timeHoldSecs 0 0 32 1) := by simp [Dev.setErr]
  have hsecs : ((s.dev.setErr (s.dev.rf .timeQual 0 5 27 + rate)).incRf .timeHoldSecs 0 0 32 1).rf .timeHoldSecs 0 0 32 =
      min (s.dev.rf .timeHoldSecs 0 0 32 + 1) (2 ^ 32 - 1) :=
    (Dev.rf_incRf_same _ (by decide)).trans (by rw [Dev.setErr, Dev.rf_setRf_other _ _ _ _ _ _ (.inl (by decide))])
  have hother : ∀ r lo w, r ≠ Reg.timeHoldSecs → ((s.dev.setErr (s.dev.rf .timeQual 0 5 27 + rate)).incRf .timeHoldSecs 0 0 32 1).rf r 0 lo w =
      (s.dev.setErr (s.dev.rf .timeQual 0 5 27 + rate)).rf r 0 lo w := fun r lo w hr => Dev.rf_incRf_other _ _ _ _ _ _ (.inl hr)
  have herr := (hother .timeQual 5 27 (by decide)).trans he
  have hqual : ((s.dev.setErr (s.dev.rf .timeQual 0 5 27 + rate)).incRf .timeHoldSecs 0 0 32 1).quality = s.dev.quality := (hother .timeQual 0 3 (by decide)).trans hqe
  have hlim : ((s.dev.setErr (s.dev.rf .timeQual 0 5 27 + rate)).incRf .timeHoldSecs 0 0 32 1).rf .timeHoldLimit 0 0 32 = s.dev.rf .timeHoldLimit 0 0 32 :=
    (hother .timeHoldLimit 0 32 (by decide)).trans (Dev.rf_setRf_other _ _ _ _ _ _ (.inl (by decide)))
  generalize (s.dev.setErr (s.dev.rf .timeQual 0 5 27 + rate)).incRf .timeHoldSecs 0 0 32 1 = e at hkeep hsecs herr hqual hlim
  generalize hf : ({ e with life := { e.life with holdSecs := e.rf .timeHoldSecs 0 0 32 } } : Dev) = f
  have hreg : ∀ r k, f.reg r k = e.reg r k := fun r k => by rw [← hf]; rfl
  have hrf : ∀ r k lo w, f.rf r k lo w = e.rf r k lo w := fun r k lo w => congrArg (wf · lo w) (hreg r k)
  have hkf : Keeps [.timeQual, .timeHoldSecs] s.dev f := by rw [← hf]; simpa using hkeep
  have hqf : f.quality = s.dev.quality := (hrf _ _ _ _).trans hqual
  rw [hqf, hrf, hrf, hlim, herr]
  by_cases hover : s.dev.quality = 3 ∧ s.dev.rf .timeHoldLimit 0 0 32 < min (s.dev.rf .timeQual 0 5 27 + rate) (2 ^ 27 - 1)
  · rw [if_pos hover, if_pos hover.2, Dev.toUnqualified, if_neg (by rw [hqf, hover.1]; decide)]
    refine ⟨?_, ?_, Dev.rf_setRf_of_lt _ (by decide) (by decide), ?_⟩
    · exact (Dev.rf_setRf_ne _ _ _ _ _ _ _ _ (by decide) (.inr (by decide))).trans ((hrf _ _ _ _).trans herr)
    · exact (Dev.rf_setRf_other _ _ _ _ _ _ (.inl (by decide))).trans ((hrf _ _ _ _).trans hsecs)
    · simpa [Dev.setQuality] using hkf
  · rw [if_neg hover]
    refine ⟨(hrf _ _ _ _).trans herr, (hrf _ _ _ _).trans hsecs, ?_, hkf⟩
    rw [hqf]
    split
    next hlt => exact hq.resolve_left (fun h3 => hover ⟨h3, hlt⟩)
    next => rfl

/-! ## Calendar (R44, R45) -/

theorem wf_eq_mod (w : Word) (n : Nat) : wf w 0 n = w.toNat % 2 ^ n := by
  rw [wf, fld_eq_div, Nat.pow_zero, Nat.div_one]

theorem setHwm_hwmNow (d : Dev) {v : Nat} (h : v < 2 ^ 48) : (d.setHwm v).hwmNow = v := by
  have h0 : (d.setHwm v).reg .timeHwm0 0 = BitVec.ofNat 64 (v % 2 ^ 32) :=
    (Dev.reg_setReg_ne _ _ (.inl (by decide))).trans (Dev.reg_setReg_same _ _ _ _)
  have h1 : (d.setHwm v).reg .timeHwm1 0 = BitVec.ofNat 64 (v / 2 ^ 32 % 2 ^ 16) := Dev.reg_setReg_same _ _ _ _
  rw [Dev.hwmNow, Dev.rf, Dev.rf, h0, h1, wf_eq_mod, wf_eq_mod, toNat_ofNat64 (by omega), toNat_ofNat64 (by omega)]
  omega

/-- TIME_HWM and the calendar bit do not depend on the bit that says how device time stands to it, nor on the offset shown. -/
theorem hwm_shown (d : Dev) : d.behindHwm.showUtc.hwmNow = d.hwmNow ∧ d.behindHwm.showUtc.rb .timeStatus 0 2 = decide (d.sec < d.hwmNow) ∧
    Keeps [.timeStatus, .timeUtcOffset] d d.behindHwm.showUtc := by
  have hreg : ∀ r, r ≠ Reg.timeStatus → r ≠ Reg.timeUtcOffset → d.behindHwm.showUtc.reg r 0 = d.reg r 0 := fun r h h' =>
    (Dev.reg_setRf_ne _ _ _ _ (.inl h')).trans (Dev.reg_setRb_ne _ _ _ (.inl h))
  refine ⟨?_, ?_, ?_⟩
  · unfold Dev.hwmNow Dev.rf
    rw [hreg _ (by decide) (by decide), hreg _ (by decide) (by decide)]
  · exact (Dev.rb_setRf_other _ _ _ _ _ (.inl (by decide))).trans (Dev.rb_setRb_same _ _ _ _ _ (by decide))
  · simp [Dev.behindHwm, Dev.showUtc]

theorem calendar (s : State) (hp : s.dev.powered = true) :
    (s.dev.rb .timeStatus 0 0 = true → s.dev.hwmNow < s.dev.sec → s.dev.sec < 2 ^ 48 → Answers .hwmUpdate s (fun d =>
      d.hwmNow = s.dev.sec ∧ d.rb .timeStatus 0 2 = false ∧ Keeps [.timeHwm0, .timeHwm1, .timeStatus, .timeUtcOffset] s.dev d)) ∧
    (s.dev.rb .timeStatus 0 0 = false ∨ s.dev.sec ≤ s.dev.hwmNow → Answers .hwmUpdate s (fun d =>
      d.hwmNow = s.dev.hwmNow ∧ (d.rb .timeStatus 0 2 = true ↔ s.dev.sec < s.dev.hwmNow) ∧ Keeps [.timeStatus, .timeUtcOffset] s.dev d)) ∧
    (s.dev.life.leapExpiry < s.dev.sec → s.dev.life.leap ≠ [] → s.dev.rb .timeStatus 0 3 = false → Answers .leapTableExpired s (fun d =>
      d.rb .timeStatus 0 3 = true ∧ Keeps [.timeStatus, .timeUtcOffset] s.dev d)) := by
  refine ⟨fun hcal hlt hfit => ?_, fun hno => ?_, fun hpast hne hno => ?_⟩
  · refine answers_eventOn (rfl : execHwmUpdate s = _) hp ?_
    have hset := setHwm_hwmNow s.dev hfit
    obtain ⟨hh, hb, hk⟩ := hwm_shown (s.dev.setHwm s.dev.sec)
    simp only [hcal, hlt, decide_true, Bool.and_self, if_true]
    refine ⟨hh.trans hset, hb.trans ?_, .trans ?_ (hk.mono (by simp))⟩
    · rw [hset]
      exact decide_eq_false (Nat.lt_irrefl _)
    · simp [Dev.setHwm]
  · refine answers_eventOn (rfl : execHwmUpdate s = _) hp ?_
    have hcond : (s.dev.rb .timeStatus 0 0 && decide (s.dev.hwmNow < s.dev.sec)) = false := by
      rcases hno with h | h
      · rw [h, Bool.false_and]
      · rw [decide_eq_false (Nat.not_lt.mpr h), Bool.and_false]
    obtain ⟨hh, hb, hk⟩ := hwm_shown s.dev
    simp only [hcond, Bool.false_eq_true, if_false]
    exact ⟨hh, by rw [hb]; exact decide_eq_true_iff, hk⟩
  · refine answers_eventOn (rfl : execLeapTableExpired s = _) hp ?_
    rw [if_pos ⟨hpast, by simpa using hne, by simp [hno]⟩]
    have hset : (s.dev.setRb .timeStatus 0 3 true).rb .timeStatus 0 3 = true := Dev.rb_setRb_same _ _ _ _ _ (by decide)
    have hbit : ((s.dev.setRb .timeStatus 0 3 true).showUtc).rb .timeStatus 0 3 = true := (Dev.rb_setRf_other _ _ _ _ _ (.inl (by decide))).trans hset
    have hkeep : Keeps [.timeStatus, .timeUtcOffset] s.dev (s.dev.setRb .timeStatus 0 3 true).showUtc := by simp [Dev.showUtc]
    unfold Dev.leapCheck
    dsimp only
    split
    · exact ⟨hbit, (keeps_raiseFree_iff _ _ _).mpr hkeep⟩
    · exact ⟨hbit, hkeep⟩

/-! ## Time outputs (R29, R36, R38) -/

theorem time_outputs (s : State) (hp : s.dev.powered = true) :
    (s.dev.time.ppsHigh = none → s.dev.ppsOff = false → s.dev.time.now % (1000000000 * 65536) < s.dev.rf .timeAddend 0 0 32 →
      Answers .ppsOutPulse s (fun d => d.time.ppsHigh = some (s.dev.ns + s.dev.rf .timePpsOut 0 8 10 * 1000000) ∧
        d.outs = .ppsOut true :: s.dev.outs ∧ Keeps [] s.dev d)) ∧
    (∀ e, s.dev.time.ppsHigh = some e → e ≤ s.dev.ns → Answers .ppsOutPulse s (fun d => d.time.ppsHigh = none ∧
        d.outs = .ppsOut false :: s.dev.outs ∧ Keeps [] s.dev d)) ∧
    (s.dev.time.now % (1000000 * 65536) < s.dev.rf .timeAddend 0 0 32 → Answers .clkSpreadApply s (fun d =>
      d.time.spread.toNat = (s.dev.reg .timeClkSpread 0).toNat % 2 ^ 32 ∧ d.time.now = s.dev.time.now ∧ Keeps [] s.dev d)) ∧
    (∀ (x : Fin 32) (m : PtpSend), s.dev.live = true → s.dev.unitHeld 1 = true → s.dev.portUp x.val = true → s.dev.gateOpen x.val 7 s.dev.time.now = true →
      (m = .delayReq ↔ s.dev.timePort x.val = true) → Answers (.ptpMessageTx x m) s (fun d =>
        d.outs = .ptp x.val m (timeWord s.dev.ns) :: s.dev.outs ∧ Keeps [] s.dev d)) := by
  refine ⟨fun hlow hon hsec => ?_, fun e hhigh hover => ?_, fun hms => ?_, fun x m hl hunit hup hgate hport => ?_⟩
  · refine answers_eventOn (rfl : execPpsOutPulse s = _) hp ?_
    have hdue : decide (s.dev.rf .timeAddend 0 0 32 ≤ s.dev.time.now % (nsPerSec * 65536)) = false := by
      unfold nsPerSec
      exact decide_eq_false (Nat.not_le.mpr hsec)
    simp only [hlow, hon, hdue, Bool.or_self, Bool.false_eq_true, if_false]
    exact ⟨rfl, rfl, by simp⟩
  · refine answers_eventOn (rfl : execPpsOutPulse s = _) hp ?_
    simp only [hhigh, hover, decide_true, Bool.true_or, if_true]
    exact ⟨rfl, rfl, by simp⟩
  · refine answers_eventOn (rfl : execClkSpreadApply s = _) hp ?_
    rw [if_neg (by simpa using hms)]
    exact ⟨BitVec.toNat_setWidth .., rfl, by simp⟩
  · refine answers_event (rfl : execPtpMessageTx x m s = _) hl ?_
    have hnot : ∀ k, m = k → k ≠ .delayReq → s.dev.timePort x.val = false := fun k hk hne => by
      rw [Bool.eq_false_iff]
      exact fun h => hne (hk.symm.trans (hport.mpr h))
    cases m with
    | sync =>
      simp only [hunit, hup, hgate, hnot .sync rfl nofun, Bool.not_true, Bool.and_false, Bool.not_false, Bool.and_self, Bool.false_eq_true, if_false, if_true]
      exact ⟨rfl, by simp⟩
    | announce =>
      simp only [hunit, hup, hgate, hnot .announce rfl nofun, Bool.not_true, Bool.and_false, Bool.not_false, Bool.and_self, Bool.false_eq_true, if_false,
        if_true]
      exact ⟨rfl, by simp⟩
    | delayReq =>
      simp only [hunit, hup, hgate, hport.mp rfl, Bool.not_true, Bool.and_false, Bool.and_self, Bool.false_eq_true, if_false, if_true]
      exact ⟨rfl, by simp⟩

/-- Settles O25. -/
theorem timeSourcesHoldoverAndOutputs : Obligations.TimeSourcesHoldoverAndOutputs := by
  unfold Obligations.TimeSourcesHoldoverAndOutputs
  refine ⟨fun s hp href => ?_, fun s hp => ?_⟩
  · obtain ⟨h1, h2, h3⟩ := ptp_messages s hp href
    exact ⟨h1, h2, h3, pps_inputs s hp⟩
  · obtain ⟨h1, h2, h3⟩ := calendar s hp
    exact ⟨fun rate hrate hq => holdover_second s hp rate hrate hq, h1, h2, h3, time_outputs s hp⟩

end Sys2Proof.Machine
end

section
/-! PROOFS. Links of the sub-ports, preemption verify, and the end of a stop (R135, R138, R139). -/
namespace Sys2Proof.Machine
open Sys2Proof

/-! ## Event counters (R428) -/

theorem counts_refl (d : Dev) : Counts [] d d := fun e => by simp

/-- One more event is counted. -/
theorem counts_count {evs : List Nat} {a b : Dev} (h : Counts evs a b) (ev : Nat) : Counts (ev :: evs) a (b.count ev) := fun e => by
  by_cases he : e = ev
  · subst he
    rw [Dev.counter_count_same, h e, List.count_cons_self, BitVec.ofNat_add, BitVec.add_assoc]
    rfl
  · rw [Dev.counter_count_ne _ he, h e, List.count_cons_of_ne (Ne.symm he)]

/-- What moves no counter leaves the counts as they are. -/
theorem counts_same {evs : List Nat} {a b c : Dev} (h : Counts evs a b) (hc : ∀ e, c.counter e = b.counter e) : Counts evs a c := fun e => (hc e).trans (h e)

theorem counts_perm {evs evs' : List Nat} {a b : Dev} (h : Counts evs a b) (hp : evs.Perm evs') : Counts evs' a b := fun e => by
  rw [h e, hp.count_eq]

theorem tabGet_add_same (t : Tab Nat) (k n : Nat) : tabGet (tabAdd t k n) 0 k = tabGet t 0 k + n := tabGet_put_same _ _ _ _

/-! ## Links (R135, R138) -/

section
variable (d : Dev) (x : Nat)

theorem mmStart_rest : Keeps [.portStatus] d (d.mmStart x) ∧ (∀ y, (d.mmStart x).portUp y = d.portUp y) ∧ (d.mmStart x).flt = d.flt ∧
    (d.mmStart x).life = d.life ∧ ∀ e, (d.mmStart x).counter e = d.counter e := by
  unfold Dev.mmStart
  dsimp only
  exact ⟨by simp, fun y => Dev.rb_setRf_other _ _ _ _ _ (.inl (by decide)), rfl, rfl, fun _ => rfl⟩

/-- PORT_STATUS as PORT_MM starts verification (R138). -/
theorem mmStart_state : (d.mmStart x).rf .portStatus x 0 2 =
    if d.portUp x = false ∨ d.rb .portMm x 0 = false then 0 else if d.rb .portMm x 1 then 2 else 1 := by
  have hcond : ((!d.portUp x || !d.rb .portMm x 0) = true) ↔ (d.portUp x = false ∨ d.rb .portMm x 0 = false) := by simp
  have hval : ∀ v < 4, (Dev.setRf { d with pkt := { d.pkt with mmTries := tabDel x d.pkt.mmTries } } .portStatus x 0 2 v).rf .portStatus x 0 2 = v := fun v hv =>
    Dev.rf_setRf_of_lt _ (by decide) hv
  unfold Dev.mmStart
  dsimp only
  rw [hval]
  · exact if_congr hcond rfl rfl
  · split
    · decide
    · split <;> decide

/-- A link that is up or down now. -/
theorem portUp_setRb (b : Bool) : (d.setRb .portLink (x / 8) (x % 8) b).portUp x = b :=
  Dev.rb_setRb_same _ _ _ _ _ ((Nat.mod_lt _ (by decide)).trans (by decide))

end

/-- The device with a link gone, before preemption ends (R135). -/
def Dev.linkGone (d : Dev) (x : Nat) : Dev := ((d.setRb .portLink (x / 8) (x % 8) false).raiseFree 768 (6 + x / 16) none).count (evPort x 20)

theorem linkGone_shows (d : Dev) (x : Nat) : (d.linkGone x).portUp x = false ∧ RaisesSome 768 (6 + x / 16) none d (d.linkGone x) ∧
    Counts [evPort x 20] d (d.linkGone x) ∧ Keeps [.portLink, .portStatus] d (d.linkGone x) :=
  ⟨portUp_setRb d x false, ⟨_, rfl⟩, counts_count (counts_same (counts_refl d) fun _ => rfl) _, by simp [Dev.linkGone]⟩

theorem link_down (x : Fin 32) (s : State) (inRx : Bool) (hp : s.dev.powered = true) (hup : s.dev.portUp x.val = true) :
    Answers (.portLinkDown x inRx) s (fun d =>
      d.portUp x.val = false ∧ d.rf .portStatus x.val 0 2 = 0 ∧ RaisesSome 768 (6 + x.val / 16) none s.dev d ∧
      Counts (evPort x.val 20 :: if inRx then [evPort x.val 7] else []) s.dev d ∧ Keeps [.portLink, .portStatus] s.dev d) := by
  refine answers_eventOn (rfl : execPortLinkDown x inRx s = _) hp ?_
  have heq : s.dev.linkDown x.val inRx = (if inRx then (s.dev.linkGone x.val).count (evPort x.val 7) else s.dev.linkGone x.val).mmStart x.val := by
    rw [Dev.linkDown, if_neg (by simp [hup])]
    rfl
  rw [heq]
  have hgone : ∃ f, f = (if inRx then (s.dev.linkGone x.val).count (evPort x.val 7) else s.dev.linkGone x.val) ∧ f.portUp x.val = false ∧
      RaisesSome 768 (6 + x.val / 16) none s.dev f ∧ Counts (evPort x.val 20 :: if inRx then [evPort x.val 7] else []) s.dev f ∧
      Keeps [.portLink, .portStatus] s.dev f := by
    obtain ⟨hdown, hraise, hcount, hkeep⟩ := linkGone_shows s.dev x.val
    cases inRx with
    | false => exact ⟨_, rfl, hdown, hraise, hcount, hkeep⟩
    | true => exact ⟨_, rfl, hdown, hraise, counts_perm (counts_count hcount _) (List.Perm.swap _ _ _), (keeps_count_iff _).mpr hkeep⟩
  obtain ⟨f, hf, hd, ⟨v, hr⟩, hc, hk⟩ := hgone
  rw [← hf]
  obtain ⟨hkm, hum, hfm, -, hcm⟩ := mmStart_rest f x.val
  refine ⟨(hum _).trans hd, ?_, ⟨v, ?_⟩, counts_same hc hcm, hk.trans (hkm.mono (by simp))⟩
  · rw [mmStart_state, if_pos (.inl hd)]
  · rw [Raises, hfm]; exact hr

/-- Settles O26. -/
theorem portLinksFollowTheirTraining : Obligations.PortLinksFollowTheirTraining := by
  unfold Obligations.PortLinksFollowTheirTraining
  refine fun x s => ⟨fun inRx hp hup => link_down x s inRx hp hup, fun hp hup hsub himg => ?_, fun hl h1 => ?_, fun hl h1 => ?_, fun c e hl he hle => ?_⟩
  · refine answers_eventOn (rfl : execPortLinkUp x s = _) hp ?_
    rw [if_neg (by simp [hup, hsub, himg])]
    obtain ⟨hkm, hum, -, hlm, -⟩ := mmStart_rest ((s.dev.setRb .portLink (x.val / 8) (x.val % 8) true).ethTrain (x.val / 8)) x.val
    have hnow : ((s.dev.setRb .portLink (x.val / 8) (x.val % 8) true).ethTrain (x.val / 8)).portUp x.val = true := portUp_setRb s.dev x.val true
    have hmm : ∀ b, ((s.dev.setRb .portLink (x.val / 8) (x.val % 8) true).ethTrain (x.val / 8)).rb .portMm x.val b = s.dev.rb .portMm x.val b := fun b =>
      Dev.rb_setRb_other s.dev (r := .portLink) (r' := .portMm) _ _ _ (.inl (by decide))
    refine ⟨(hum _).trans hnow, Keeps.trans ?_ (hkm.mono (by simp)), ?_, ?_⟩
    · exact (Iff.rfl : Keeps _ s.dev ((s.dev.setRb .portLink (x.val / 8) (x.val % 8) true).ethTrain (x.val / 8)) ↔ Keeps _ s.dev _).mpr
        ((keeps_setRb_iff (by simp) _ _ _).mpr (.refl _ _))
    · rw [mmStart_state, hnow, hmm, hmm]
      simp
    · rw [hlm]
      exact tabGet_put_same _ _ _ _
  · refine answers_event (rfl : execPreemptVerify x true s = _) hl ?_
    rw [if_neg (by simp [h1]), if_pos rfl]
    exact ⟨Dev.rf_setRf_of_lt _ (by decide) (by decide), by simp⟩
  · refine answers_event (rfl : execPreemptVerify x false s = _) hl ?_
    rw [if_neg (by simp [h1]), if_neg (by decide)]
    split
    next h2 => exact ⟨by simp, fun h => absurd h2 (Nat.not_le.mpr h), fun _ => Dev.rf_setRf_of_lt _ (by decide) (by decide)⟩
    next h2 => exact ⟨by simp, fun _ => ⟨h1, tabGet_add_same s.dev.pkt.mmTries x.val 1⟩, fun h => absurd h h2⟩
  · refine answers_event (rfl : execPauseExpire x c s = _) hl ?_
    simp only [he, hle, if_true]
    exact ⟨s.dev.pauseClass x.val c.val 0, tabFind_del_same _ _, fun k hk => tabFind_del_ne hk _, keeps_of_eq rfl rfl rfl, rfl⟩

end Sys2Proof.Machine
end

section
/-! PROOFS. Gate lists, list changes and shaper refills (R185 to R192). -/
namespace Sys2Proof.Machine
open Sys2Proof

/-! ## The entry in force (R191) -/

@[simp] theorem intervals_zero (es : List (BitVec 8 × Nat)) : Claims.intervals es 0 = 0 := rfl
@[simp] theorem intervals_cons_succ (e : BitVec 8 × Nat) (es : List (BitVec 8 × Nat)) (k : Nat) :
    Claims.intervals (e :: es) (k + 1) = e.2 + Claims.intervals es k := rfl

/-- The position lies in entry `k` of the list: in its interval, or past the intervals' sum with `k` the last entry. -/
theorem gateAt_of_interval (es : List (BitVec 8 × Nat)) (cycle pos k i : Nat) (g : BitVec 8) (n : Nat) (hk : es[k]? = some (g, n))
    (hlow : Claims.intervals es k ≤ pos) (hcycle : pos < cycle) (hhigh : k + 1 = es.length ∨ pos < Claims.intervals es (k + 1)) :
    (gateAt cycle es i pos).1 = i + k ∧ (gateAt cycle es i pos).2.1 = g ∧
    pos + (gateAt cycle es i pos).2.2 = (if k + 1 = es.length then cycle else min cycle (Claims.intervals es (k + 1))) := by
  induction es generalizing cycle pos k i with
  | nil => simp at hk
  | cons e es ih =>
    obtain ⟨ge, ne⟩ := e
    cases es with
    | nil =>
      -- the only entry holds to the cycle's end
      cases k with
      | zero => simp_all [gateAt]; omega
      | succ k => simp at hk
    | cons e' es =>
      unfold gateAt
      cases k with
      | zero =>
        have hpos : pos < ne := by simpa using hhigh
        have hge : ge = g := (Prod.ext_iff.1 (Option.some.inj hk)).1
        have hend : pos + (ne - pos).min (cycle - pos) = min cycle ne := by
          have hm : (ne - pos).min (cycle - pos) = min (ne - pos) (cycle - pos) := rfl
          omega
        simpa [hpos, hge] using hend
      | succ k =>
        have hpos : ne ≤ pos := le_trans (Nat.le_add_right _ _) hlow
        obtain ⟨h1, h2, h3⟩ := ih (cycle - ne) (pos - ne) k (i + 1) hk (Nat.le_sub_of_add_le' hlow) (by omega)
          (hhigh.imp Nat.succ.inj fun h => by simp only [intervals_cons_succ] at h ⊢; omega)
        rw [if_neg (not_lt.2 hpos)]
        refine ⟨h1.trans (by omega), h2, ?_⟩
        simp only [List.length_cons, Nat.add_right_cancel_iff, intervals_cons_succ] at h3 ⊢
        split_ifs at h3 ⊢ <;> omega

/-- Settles O30, by induction on the list: an interval that is over shortens the cycle and the position alike. -/
theorem gateListEntryInForce : Obligations.GateListEntryInForce := by
  intro es cycle pos k g n hk hlow hcycle hhigh
  have h := gateAt_of_interval es cycle pos k 0 g n hk hlow hcycle hhigh
  rwa [Nat.zero_add] at h

/-! ## Gates and list changes (R191, R192) -/

@[simp] theorem Dev.gateOf_setGate_same (d : Dev) (x : Nat) (g : Gate) : (d.setGate x g).gateOf x = g := tabGet_put_same _ _ _ _
theorem Dev.gateOf_setGate_ne (d : Dev) {x y : Nat} (g : Gate) (h : y ≠ x) : (d.setGate x g).gateOf y = d.gateOf y := tabGet_put_ne _ _ _ h _

theorem Dev.reg_setGate (d : Dev) (x : Nat) (g : Gate) (r : Reg) (i : Nat) : (d.setGate x g).reg r i = d.reg r i := rfl

/-- The sub-port's gates and GATE_STAT's entry as they stand now, before a selection. -/
def Dev.gatesShown (d : Dev) (x : Nat) : Dev :=
  (d.setGate x { d.gateOf x with gates := (d.gatesAt x d.ns).2.1, next := (d.gatesAt x d.ns).2.2.getD 0 }).setRf .gateStat x 3 10
    (if d.rb .gateStat x 0 then (d.gatesAt x d.ns).1 else 0)

/-- With no frame on the wire nothing is cut. -/
theorem Dev.gatesNow_idle (d : Dev) (x at_ : Nat) (hw : tabFind x d.pkt.wire = none) : d.gatesNow x at_ = (d.gatesShown x).kick x := by
  have hw' : tabFind x (d.gatesShown x).pkt.wire = none := hw
  have h : d.gatesNow x at_ = Dev.kick (match tabFind x (d.gatesShown x).pkt.wire with
      | some w => if (d.gatesShown x).gateOpen x w.cls (d.gatesShown x).time.now then d.gatesShown x else (d.gatesShown x).cut x at_
      | none => d.gatesShown x) x := rfl
  rw [h, hw']

/-- What a fold of register writes to distinct copies leaves in each copy. -/
theorem reg_foldl_setReg (r : Reg) (at_ : Nat → Nat) (v : Nat → Word) (hat : ∀ i j, at_ i = at_ j → i = j) (l : List Nat) (d : Dev) (k : Nat) (hk : k ∈ l) :
    (l.foldl (fun d k => d.setReg r (at_ k) (v k)) d).reg r (at_ k) = v k := by
  induction l using List.reverseRecOn with
  | nil => exact absurd hk List.not_mem_nil
  | append_singleton l j ih =>
    rw [List.foldl_append, List.foldl_cons, List.foldl_nil, Dev.reg_setReg]
    by_cases hj : k = j
    · rw [hj, if_pos ⟨rfl, rfl⟩]
    · rw [if_neg fun h => hj (hat _ _ h.2)]
      exact ih ((List.mem_append.1 hk).resolve_right fun h => hj (List.mem_singleton.1 h))

/-- Writes to one register leave every other register. -/
theorem reg_foldl_setReg_ne (r : Reg) (at_ : Nat → Nat) (v : Nat → Word) (l : List Nat) (d : Dev) (r' : Reg) (i : Nat) (hr : r' ≠ r) :
    (l.foldl (fun d k => d.setReg r (at_ k) (v k)) d).reg r' i = d.reg r' i := by
  induction l generalizing d with
  | nil => rfl
  | cons j l ih => exact (ih _).trans (Dev.reg_setReg_ne _ _ (.inl hr))

theorem keeps_foldl_setReg (r : Reg) (at_ : Nat → Nat) (v : Nat → Word) (l : List Nat) (d : Dev) :
    Keeps [r] d (l.foldl (fun d k => d.setReg r (at_ k) (v k)) d) :=
  foldl_related (R := Keeps [r]) (Keeps.refl _) (fun h h' => h.trans h') (fun d k => by simp) l d

theorem maxWindow_lt (cycle : Nat) (es : List (BitVec 8 × Nat)) (k : Nat) : maxWindow cycle es k < 2 ^ 32 := by
  unfold maxWindow
  dsimp only
  split
  · decide
  · exact lt_of_le_of_lt (Nat.min_le_left _ _) (by decide)

/-- GATE_MAXWIN of the eight classes of a sub-port. -/
@[irreducible] def Dev.setWindows (d : Dev) (x : Nat) (w : Nat → Nat) : Dev := (List.range 8).foldl (fun d k => d.setReg .gateMaxwin (8 * x + k) (BitVec.ofNat 64 (w k))) d

section
variable (d : Dev) (x : Nat) (w : Nat → Nat)

theorem setWindows_time : (d.setWindows x w).time = d.time := by
  unfold Dev.setWindows
  exact foldl_related (R := fun a b : Dev => b.time = a.time) (fun _ => rfl) (fun h h' => h'.trans h) (fun _ _ => rfl) (List.range 8) d

theorem keeps_setWindows : Keeps [.gateMaxwin] d (d.setWindows x w) := by
  unfold Dev.setWindows
  exact keeps_foldl_setReg _ _ _ _ _

theorem reg_setWindows_ne {r : Reg} (i : Nat) (hr : r ≠ .gateMaxwin) : (d.setWindows x w).reg r i = d.reg r i := by
  unfold Dev.setWindows
  exact reg_foldl_setReg_ne _ _ _ _ _ _ _ hr

theorem rf_setWindows {k : Nat} (hk : k < 8) (hw : w k < 2 ^ 32) : (d.setWindows x w).rf .gateMaxwin (8 * x + k) 0 32 = w k := by
  unfold Dev.rf Dev.setWindows
  rw [reg_foldl_setReg .gateMaxwin (8 * x + ·) (fun k => BitVec.ofNat 64 (w k)) (fun i j h => Nat.add_left_cancel h) _ _ k (List.mem_range.2 hk),
    wf_eq_mod, toNat_ofNat64 (hw.trans (by decide)), Nat.mod_eq_of_lt hw]

end

/-- The device with the administrative list's registers in force (R192). -/
def Dev.listSwitched (d : Dev) (x : Nat) : Dev :=
  let d' := ((d.setRb .gateStat x 0 (d.gateOf x).adminEn).setRb .gateStat x 1 false).setRf .gateStat x 2 1 (1 - d.operBank x)
  (d'.setReg .gateCycle x (BitVec.ofNat 64 (d.gateOf x).adminCycle)).setReg .gateExt x (BitVec.ofNat 64 (d.gateOf x).adminExt)

/-- A class's longest window of the administrative list, 0 while the list opens no gates (R198). -/
def Dev.adminWindow (d : Dev) (x k : Nat) : Nat :=
  if (d.gateOf x).adminEn then maxWindow (d.gateOf x).adminCycle (d.gateEntries x (1 - d.operBank x) (d.gateOf x).adminCount) k else 0

/-- The device with the administrative list operational from the change time `c` on, before its gates act. -/
def Dev.gateSwitched (d : Dev) (x c : Nat) : Dev :=
  ((d.listSwitched x).setWindows x (d.adminWindow x)).setGate x
    { d.gateOf x with operBase := c, operCount := (d.gateOf x).adminCount, change := none }

section
variable (d : Dev) (x c : Nat)

theorem keeps_listSwitched : Keeps [.gateStat, .gateCycle, .gateExt] d (d.listSwitched x) := by
  unfold Dev.listSwitched
  simp

theorem keeps_gateSwitched : Keeps [.gateStat, .gateCycle, .gateExt, .gateMaxwin] d (d.gateSwitched x c) := by
  unfold Dev.gateSwitched Dev.setGate
  simp only [keeps_pkt]
  exact ((keeps_listSwitched d x).mono (by simp)).trans ((keeps_setWindows _ x _).mono (by simp))

theorem gateSwitch_eq : d.gateSwitch x c = (d.gateSwitched x c).gatesNow x (d.tickCeil c) := by
  have hceil : ((d.listSwitched x).setWindows x (d.adminWindow x)).tickCeil c = d.tickCeil c := by
    unfold Dev.tickCeil Dev.rf
    rw [reg_setWindows_ne _ _ _ _ (by decide), (keeps_listSwitched d x).reg (by decide), setWindows_time]
    rfl
  rw [← hceil]
  unfold Dev.gateSwitch Dev.gateSwitched Dev.setWindows Dev.listSwitched Dev.adminWindow
  rfl

theorem adminWindow_lt (k : Nat) : d.adminWindow x k < 2 ^ 32 := by
  unfold Dev.adminWindow
  split
  · exact maxWindow_lt _ _ _
  · decide

/-- The registers and the list in force after the switch (R192). -/
theorem gateSwitched_shows :
    (d.gateSwitched x c).rb .gateStat x 0 = (d.gateOf x).adminEn ∧ (d.gateSwitched x c).rb .gateStat x 1 = false ∧
    (d.gateSwitched x c).operBank x = 1 - d.operBank x ∧ ((d.gateSwitched x c).reg .gateCycle x).toNat = (d.gateOf x).adminCycle % 2 ^ 64 ∧
    ((d.gateSwitched x c).reg .gateExt x).toNat = (d.gateOf x).adminExt % 2 ^ 64 ∧
    ∀ k < 8, (d.gateSwitched x c).rf .gateMaxwin (8 * x + k) 0 32 = d.adminWindow x k := by
  have hreg : ∀ r i, r ≠ .gateMaxwin → (d.gateSwitched x c).reg r i = (d.listSwitched x).reg r i := fun r i hr => by
    unfold Dev.gateSwitched
    rw [Dev.reg_setGate, reg_setWindows_ne _ _ _ _ hr]
  have hstat : (d.gateSwitched x c).reg .gateStat x =
      (((d.setRb .gateStat x 0 (d.gateOf x).adminEn).setRb .gateStat x 1 false).setRf .gateStat x 2 1 (1 - d.operBank x)).reg .gateStat x := by
    rw [hreg _ _ (by decide)]
    unfold Dev.listSwitched
    dsimp only
    rw [Dev.reg_setReg_ne _ _ (.inl (by decide)), Dev.reg_setReg_ne _ _ (.inl (by decide))]
  refine ⟨?_, ?_, ?_, ?_, ?_, fun k hk => ?_⟩
  · exact (congrArg (·.getLsbD 0) hstat).trans
      ((Dev.rb_setRf_ne _ _ _ _ _ _ _ (by decide) (.inl (by decide))).trans
        ((Dev.rb_setRb_ne _ _ _ _ _ _ (by decide)).trans (Dev.rb_setRb_same _ _ _ _ _ (by decide))))
  · exact (congrArg (·.getLsbD 1) hstat).trans
      ((Dev.rb_setRf_ne _ _ _ _ _ _ _ (by decide) (.inl (by decide))).trans (Dev.rb_setRb_same _ _ _ _ _ (by decide)))
  · exact (congrArg (wf · 2 1) hstat).trans (Dev.rf_setRf_of_lt _ (by decide) (by omega))
  · rw [hreg _ _ (by decide)]
    unfold Dev.listSwitched
    dsimp only
    rw [Dev.reg_setReg_ne _ _ (.inl (by decide)), Dev.reg_setReg_same]
    exact BitVec.toNat_ofNat _ _
  · rw [hreg _ _ (by decide)]
    unfold Dev.listSwitched
    dsimp only
    rw [Dev.reg_setReg_same]
    exact BitVec.toNat_ofNat _ _
  · unfold Dev.gateSwitched Dev.rf
    rw [Dev.reg_setGate]
    exact rf_setWindows _ x _ hk (adminWindow_lt d x k)

end

theorem keeps_gatesShown (d : Dev) (x : Nat) : Keeps [.gateStat] d (d.gatesShown x) := by
  unfold Dev.gatesShown Dev.setGate
  simp

/-! ## Shaper tokens (R186, R188) -/

/-- Every signed 32-bit value is read as it was written. -/
theorem signed32_of_bounds {t : Int} (hl : -2 ^ 31 ≤ t) (hh : t < 2 ^ 31) : signed32 (t % 2 ^ 32).toNat = t := by
  unfold signed32
  split <;> omega

theorem signed32_lower (n : Nat) : -2 ^ 31 ≤ signed32 n := by
  unfold signed32
  split <;> omega

section
variable (d : Dev) (i : Nat)

theorem shpTok_setShpTok_same {t : Int} (hl : -2 ^ 31 ≤ t) (hh : t < 2 ^ 31) : (d.setShpTok i t).shpTok i = t := by
  have hlt : (t % 2 ^ 32).toNat < 2 ^ 32 := by omega
  unfold Dev.shpTok Dev.setShpTok
  dsimp only
  rw [Dev.rf_setRb_other _ _ _ _ _ (.inl (by decide))]
  unfold Dev.rf
  rw [Dev.reg_setReg_same]
  rw [wf_eq_mod, toNat_ofNat64 (hlt.trans (by decide)), Nat.mod_eq_of_lt hlt, signed32_of_bounds hl hh]

/-- A shaper's tokens are its own registers. -/
theorem reg_setShpTok_other (t : Int) {r : Reg} {j : Nat} (h : (r ≠ .schShpTok ∧ r ≠ .schShpStat) ∨ j ≠ i) : (d.setShpTok i t).reg r j = d.reg r j := by
  unfold Dev.setShpTok
  dsimp only
  rw [Dev.reg_setRb_ne _ _ _ (h.imp_left And.right), Dev.reg_setReg_ne _ _ (h.imp_left And.left)]

theorem shpTok_setShpTok_ne (t : Int) {j : Nat} (h : j ≠ i) : (d.setShpTok i t).shpTok j = d.shpTok j := by
  unfold Dev.shpTok Dev.rf
  rw [reg_setShpTok_other _ _ _ (.inr h)]

/-- SCH_SHP_STAT's pending bit. -/
theorem rb_setShpTok_pending (t : Int) : (d.setShpTok i t).rb .schShpStat i 0 = d.rb .schShpStat i 0 := by
  unfold Dev.setShpTok
  dsimp only
  rw [Dev.rb_setRb_ne _ _ _ _ _ _ (by decide), Dev.rb_setReg_other _ _ _ (.inl (by decide))]

theorem keeps_setShpTok (t : Int) : Keeps [.schShpTok, .schShpStat] d (d.setShpTok i t) := by
  unfold Dev.setShpTok
  simp

end

/-- One shaper's increments of `k` refill instants (R186). -/
def Dev.refillShaper (d : Dev) (i k : Nat) : Dev := d.setShpTok i (min (d.shpTok i + d.rf .schShpRate i 0 28 * k) (d.rf .schShpBurst i 0 23 * 256))

section
variable (d : Dev) (i k : Nat)

theorem keeps_refillShaper : Keeps [.schShpTok, .schShpStat] d (d.refillShaper i k) := keeps_setShpTok _ _ _

theorem shpTok_refillShaper : (d.refillShaper i k).shpTok i = min (d.shpTok i + d.rf .schShpRate i 0 28 * k) (d.rf .schShpBurst i 0 23 * 256) := by
  have hlow : -2 ^ 31 ≤ d.shpTok i := signed32_lower _
  have hburst : d.rf .schShpBurst i 0 23 < 2 ^ 23 := Dev.rf_lt _ _ _
  have hrate : (0 : Int) ≤ d.rf .schShpRate i 0 28 * k := by positivity
  exact shpTok_setShpTok_same _ _ (by omega) (by omega)

theorem shpTok_refillShaper_ne {j : Nat} (h : j ≠ i) : (d.refillShaper i k).shpTok j = d.shpTok j := shpTok_setShpTok_ne _ _ _ h

/-- Rates and bursts stay. -/
theorem rf_refillShaper {r : Reg} (j lo w : Nat) (hr : r ∉ [Reg.schShpTok, .schShpStat]) : (d.refillShaper i k).rf r j lo w = d.rf r j lo w :=
  (keeps_refillShaper d i k).rf hr j lo w

end

/-- Every shaper of a list takes its increments, but for those with a staged change. -/
def Dev.refillShapers (d : Dev) (l : List Nat) (k : Nat) : Dev := l.foldl (fun d i => if (tabFind i d.pkt.shpPend).isSome then d else d.refillShaper i k) d

/-- Every policer of a list takes its increments, but for those with a staged change. -/
def Dev.refillPolicers (d : Dev) (l : List Nat) (k : Nat) : Dev := l.foldl (fun d i => if (tabFind i d.pkt.polPend).isSome then d
  else d.setReg .schPolTok i (BitVec.ofNat 64 (Nat.min (d.rf .schPolTok i 0 32 + d.rf .schPolRate i 0 28 * k) (d.rf .schPolBurst i 0 23 * 256)))) d

/-- Staged shaper changes take effect, and their shapers take the later increments. -/
def Dev.applyShapers (d : Dev) (l : Tab ShpChange) (k : Nat) : Dev := l.foldl (fun d e =>
  if k - 1 = 0 then d.applyShaper e.1 e.2
  else (d.applyShaper e.1 e.2).setShpTok e.1 (min ((d.applyShaper e.1 e.2).shpTok e.1 + e.2.rate.toNat * (k - 1 : Nat)) (e.2.burst.toNat * 256))) d

/-- Staged policer changes take effect, and their policers take the later increments. -/
def Dev.applyPolicers (d : Dev) (l : Tab ShpChange) (k : Nat) : Dev := l.foldl (fun d e =>
  let d := d.applyPolicer e.1 e.2
  if k - 1 = 0 then d else d.setReg .schPolTok e.1 (BitVec.ofNat 64 (Nat.min (d.rf .schPolTok e.1 0 32 + e.2.rate.toNat * (k - 1)) (e.2.burst.toNat * 256)))) d

/-- No change of a port island is staged any more. -/
def Dev.dropStaged (d : Dev) (m : Nat) : Dev :=
  { d with pkt := { d.pkt with shpPend := d.pkt.shpPend.filter (fun e => e.1 / 8192 != m), polPend := d.pkt.polPend.filter (fun e => e.1 / 4096 != m) } }

/-- The staged changes of a port island replace the first of `k` refills (R188). -/
def Dev.refillStaged (d : Dev) (m k : Nat) : Dev :=
  let d := d.applyShapers (d.pkt.shpPend.filter (fun e => e.1 / 8192 == m)) k
  (d.applyPolicers (d.pkt.polPend.filter (fun e => e.1 / 4096 == m)) k).dropStaged m

theorem refill_eq (d : Dev) (m k : Nat) : d.refill m k =
    (((d.refillShapers (d.listedIdx .schShpRate 8192 m) k).refillPolicers
      ((d.refillShapers (d.listedIdx .schShpRate 8192 m) k).listedIdx .schPolRate 4096 m) k).refillStaged m k) := by
  unfold Dev.refill Dev.refillStaged Dev.refillPolicers Dev.refillShapers Dev.applyShapers Dev.applyPolicers Dev.refillShaper Dev.dropStaged
  rfl

section
variable (d : Dev) (l : List Nat) (k : Nat)

theorem keeps_refillShapers : Keeps [.schShpTok, .schShpStat] d (d.refillShapers l k) :=
  foldl_related (R := Keeps _) (Keeps.refl _) (fun h h' => h.trans h') (fun d i => by
    split
    · exact Keeps.refl _ _
    · exact keeps_refillShaper d i k) l d

theorem pkt_refillShapers : (d.refillShapers l k).pkt = d.pkt :=
  foldl_related (R := fun a b : Dev => b.pkt = a.pkt) (fun _ => rfl) (fun h h' => h'.trans h) (fun d i => by split <;> rfl) l d

theorem keeps_refillPolicers : Keeps [.schPolTok] d (d.refillPolicers l k) :=
  foldl_related (R := Keeps _) (Keeps.refl _) (fun h h' => h.trans h') (fun d i => by split <;> simp) l d

theorem pkt_refillPolicers : (d.refillPolicers l k).pkt = d.pkt :=
  foldl_related (R := fun a b : Dev => b.pkt = a.pkt) (fun _ => rfl) (fun h h' => h'.trans h) (fun d i => by split <;> rfl) l d

theorem shpTok_refillShapers_of_not_mem {i : Nat} (h : i ∉ l) : (d.refillShapers l k).shpTok i = d.shpTok i := by
  induction l generalizing d with
  | nil => rfl
  | cons j l ih =>
    refine (ih _ fun hi => h (.tail _ hi)).trans ?_
    dsimp only
    split
    · rfl
    · exact shpTok_refillShaper_ne _ _ _ fun hj => h (hj ▸ .head _)

/-- A shaper that is listed once and has no staged change takes its increments once. -/
theorem shpTok_refillShapers {i : Nat} (h : l.count i = 1) (hs : d.pkt.shpPend = []) :
    (d.refillShapers l k).shpTok i = min (d.shpTok i + d.rf .schShpRate i 0 28 * k) (d.rf .schShpBurst i 0 23 * 256) := by
  induction l generalizing d with
  | nil => simp at h
  | cons j l ih =>
    have hstep : d.refillShapers (j :: l) k = (d.refillShaper j k).refillShapers l k := by
      unfold Dev.refillShapers
      rw [List.foldl_cons, hs]
      rfl
    rw [hstep]
    by_cases hj : j = i
    · subst hj
      have hl : j ∉ l := List.count_eq_zero.1 (by simpa using h)
      exact (shpTok_refillShapers_of_not_mem _ _ _ hl).trans (shpTok_refillShaper d j k)
    · rw [List.count_cons_of_ne hj] at h
      refine (ih (d.refillShaper j k) h hs).trans ?_
      rw [shpTok_refillShaper_ne _ _ _ (Ne.symm hj), rf_refillShaper _ _ _ _ _ _ (by decide), rf_refillShaper _ _ _ _ _ _ (by decide)]

end

theorem shpTok_dropStaged (d : Dev) (m i : Nat) : (d.dropStaged m).shpTok i = d.shpTok i := rfl

theorem reg_dropStaged (d : Dev) (m : Nat) (r : Reg) (i : Nat) : (d.dropStaged m).reg r i = d.reg r i := rfl

theorem rf_dropStaged (d : Dev) (m : Nat) (r : Reg) (i lo w : Nat) : (d.dropStaged m).rf r i lo w = d.rf r i lo w := rfl

/-- With nothing staged no register changes. -/
theorem refillStaged_of_none (d : Dev) (m k : Nat) (hs : d.pkt.shpPend = []) (hp : d.pkt.polPend = []) : d.refillStaged m k = d.dropStaged m := by
  unfold Dev.refillStaged
  rw [hs]
  exact congrArg (fun l => (d.applyPolicers (l.filter fun e => e.1 / 4096 == m) k).dropStaged m) hp

/-- One staged shaper change at its first refill instant. -/
theorem refillStaged_of_one (d : Dev) (m i : Nat) (c : ShpChange) (hs : d.pkt.shpPend = [(i, c)]) (hp : d.pkt.polPend = []) (hi : i / 8192 = m) :
    d.refillStaged m 1 = (d.applyShaper i c).dropStaged m := by
  have hf : [(i, c)].filter (fun e => e.1 / 8192 == m) = [(i, c)] := by simp [hi]
  unfold Dev.refillStaged
  rw [hs, hf]
  exact congrArg (fun l => ((d.applyShaper i c).applyPolicers (l.filter fun e => e.1 / 4096 == m) 1).dropStaged m) hp

/-- What a staged change leaves in the shaper's registers (R188). -/
theorem applyShaper_shows (d : Dev) (i : Nat) (c : ShpChange) (hb : c.burst.toNat < 2 ^ 23) :
    (d.applyShaper i c).reg .schShpRate i = c.rate.setWidth 64 ∧ (d.applyShaper i c).reg .schShpBurst i = c.burst.setWidth 64 ∧
    (d.applyShaper i c).reg .schShpParent i = c.parent.setWidth 64 ∧ (d.applyShaper i c).rb .schShpStat i 0 = false ∧
    (d.applyShaper i c).shpTok i = (if c.full then c.burst.toNat * 256 else 0) ∧
    (d.applyShaper i c).rf .schUpdStat (8 * (i / 8192) + c.part) 0 4 = (if c.clamped then 10 else 0) := by
  have htok : -2 ^ 31 ≤ (if c.full then (c.burst.toNat : Int) * 256 else 0) ∧ (if c.full then (c.burst.toNat : Int) * 256 else 0) < 2 ^ 31 := by split <;> omega
  unfold Dev.applyShaper
  dsimp only
  refine ⟨?_, ?_, ?_, ?_, ?_, ?_⟩
  · rw [Dev.reg_setRf_ne _ _ _ _ (.inl (by decide)), reg_setShpTok_other _ _ _ (.inl (by decide)), Dev.reg_setRb_ne _ _ _ (.inl (by decide)),
      Dev.reg_setReg_ne _ _ (.inl (by decide)), Dev.reg_setReg_ne _ _ (.inl (by decide)), Dev.reg_setReg_same]
  · rw [Dev.reg_setRf_ne _ _ _ _ (.inl (by decide)), reg_setShpTok_other _ _ _ (.inl (by decide)), Dev.reg_setRb_ne _ _ _ (.inl (by decide)),
      Dev.reg_setReg_ne _ _ (.inl (by decide)), Dev.reg_setReg_same]
  · rw [Dev.reg_setRf_ne _ _ _ _ (.inl (by decide)), reg_setShpTok_other _ _ _ (.inl (by decide)), Dev.reg_setRb_ne _ _ _ (.inl (by decide)),
      Dev.reg_setReg_same]
  · rw [Dev.rb_setRf_other _ _ _ _ _ (.inl (by decide))]
    exact (rb_setShpTok_pending _ _ _).trans (Dev.rb_setRb_same _ _ _ _ _ (by decide))
  · unfold Dev.shpTok
    rw [Dev.rf_setRf_other _ _ _ _ _ _ (.inl (by decide))]
    refine (shpTok_setShpTok_same _ _ htok.1 htok.2).trans ?_
    split <;> rfl
  · exact Dev.rf_setRf_of_lt _ (by decide) (by split <;> decide)

/-! ## The commands -/

/-- What holds of the one device a command can leave holds of its answer. -/
theorem answers_of_eq {c : Instr} {s : State} {p : Dev → Prop} {d : Dev} (h : Answers c s (fun d' => d' = d)) (hd : p d) : Answers c s p := by
  obtain ⟨t, ht, hpend, rfl⟩ := h
  exact ⟨t, ht, hpend, hd⟩

/-- GATE_TRANSITION on a sub-port without a frame on the wire. -/
theorem gateTransition_answers (s : State) (hp : s.dev.live = true) (x : Fin 32) (hoper : s.dev.rb .gateStat x.val 0 = true)
    (hnext : (s.dev.gateOf x.val).next ≤ s.dev.ns) (hw : tabFind x.val s.dev.pkt.wire = none) :
    Answers (.gateTransition x) s (fun d => d = (s.dev.gatesShown x.val).kick x.val) := by
  refine answers_event (rfl : execGateTransition x s = _) hp ?_
  exact (if_neg (by simp [hoper, hnext])).trans (Dev.gatesNow_idle _ _ _ hw)

/-- GATE_LIST_SWITCH at its change time. -/
theorem gateListSwitch_answers (s : State) (hp : s.dev.live = true) (x : Fin 32) (c : Nat) (hc : (s.dev.gateOf x.val).change = some c) (hle : c ≤ s.dev.ns) :
    Answers (.gateListSwitch x) s (fun d => d = (s.dev.gateSwitched x.val c).gatesNow x.val (s.dev.tickCeil c)) := by
  refine answers_event (rfl : execGateListSwitch x s = _) hp ?_
  rw [hc]
  exact (if_pos hle).trans (gateSwitch_eq _ _ _)

/-- The refill instants of a port island up to now are taken. -/
def Dev.refillsTaken (d : Dev) (m : Nat) : Dev := { d with pkt := { d.pkt with refillAt := tabPut d.pkt.refillAt 0 m (d.ns / 1000 * 1000) } }

/-- SHAPER_REFILL after `k` whole microseconds. -/
theorem shaperRefill_answers (s : State) (hp : s.dev.live = true) (m : Fin 2) (k : Nat)
    (hk : k = s.dev.ns / 1000 - tabGet s.dev.pkt.refillAt 0 m.val / 1000) (h0 : 0 < k) :
    Answers (.shaperRefill m) s (fun d => d = ((s.dev.refillsTaken m.val).refill m.val k).kickAll m.val) := by
  refine answers_event (rfl : execShaperRefill m s = _) hp ?_
  subst hk
  exact if_neg (Nat.pos_iff_ne_zero.1 h0)

/-- The state the shapers and policers of a port island have before the staged changes. -/
theorem refilled_rest (d : Dev) (m k : Nat) (hs : d.pkt.shpPend = []) (hp : d.pkt.polPend = []) :
    ((d.refill m k).pkt.refillAt = d.pkt.refillAt) ∧ Keeps [.schShpTok, .schShpStat, .schPolTok] d (d.refill m k) ∧
    ∀ i, (d.listedIdx .schShpRate 8192 m).count i = 1 →
      (d.refill m k).shpTok i = min (d.shpTok i + d.rf .schShpRate i 0 28 * k) (d.rf .schShpBurst i 0 23 * 256) := by
  have hpkt : ∀ l l', ((d.refillShapers l k).refillPolicers l' k).pkt = d.pkt := fun l l' => (pkt_refillPolicers _ _ _).trans (pkt_refillShapers _ _ _)
  rw [refill_eq, refillStaged_of_none _ _ _ ((congrArg Pkt.shpPend (hpkt _ _)).trans hs) ((congrArg Pkt.polPend (hpkt _ _)).trans hp)]
  refine ⟨(congrArg Pkt.refillAt (hpkt _ _) :), ?_, fun i hi => ?_⟩
  · unfold Dev.dropStaged
    simp only [keeps_pkt]
    exact ((keeps_refillShapers d _ k).mono (by simp)).trans ((keeps_refillPolicers _ _ k).mono (by simp))
  · refine Eq.trans ?_ (shpTok_refillShapers d _ k hi hs)
    exact congrArg signed32 ((keeps_refillPolicers _ _ k).rf (by decide) i 0 32)

/-- Settles O31: each command is the named change followed by a selection. -/
theorem gatesAndShapersFollowDeviceTime : Obligations.GatesAndShapersFollowDeviceTime := by
  intro s hp
  refine ⟨fun x hoper hnext hw => ?_, fun x c g hg hc hle => ?_, fun m k hk h0 => ⟨fun hs hpol => ?_, fun i c hk1 hs hpol hi hb => ?_⟩⟩
  · refine answers_of_eq (gateTransition_answers s hp x hoper hnext hw) ?_
    refine ⟨_, rfl, congrArg Gate.gates (Dev.gateOf_setGate_same _ _ _), ?_, keeps_gatesShown _ _, fun y hy => Dev.gateOf_setGate_ne _ _ hy⟩
    unfold Dev.gatesShown
    rw [if_pos hoper]
    exact Dev.rf_setRf_same _ _ _ _ _ _ (by decide)
  · subst hg
    refine answers_of_eq (gateListSwitch_answers s hp x c hc hle) ?_
    obtain ⟨hen, hpend, hbank, hcyc, hext, hwin⟩ := gateSwitched_shows s.dev x.val c
    have hg : (s.dev.gateSwitched x.val c).gateOf x.val = _ := Dev.gateOf_setGate_same _ _ _
    exact ⟨_, rfl, hen, hpend, hbank, hcyc, hext, congrArg Gate.change hg, congrArg Gate.operBase hg, congrArg Gate.operCount hg, hwin, keeps_gateSwitched s.dev x.val c⟩
  · refine answers_of_eq (shaperRefill_answers s hp m k hk h0) ?_
    obtain ⟨hat, hkeep, htok⟩ := refilled_rest (s.dev.refillsTaken m.val) m.val k hs hpol
    exact ⟨_, rfl, (congrArg (tabGet · 0 m.val) hat).trans (tabGet_put_same _ _ _ _), hkeep, fun i hi _ => htok i hi⟩
  · subst hk1
    refine answers_of_eq (shaperRefill_answers s hp m 1 hk h0) ?_
    have hpkt : ∀ l l', (((s.dev.refillsTaken m.val).refillShapers l 1).refillPolicers l' 1).pkt = (s.dev.refillsTaken m.val).pkt :=
      fun l l' => (pkt_refillPolicers _ _ _).trans (pkt_refillShapers _ _ _)
    rw [refill_eq, refillStaged_of_one _ _ i c ((congrArg Pkt.shpPend (hpkt _ _)).trans hs) ((congrArg Pkt.polPend (hpkt _ _)).trans hpol) hi]
    obtain ⟨hrate, hburst, hparent, hpend, htok, hstat⟩ := applyShaper_shows (((s.dev.refillsTaken m.val).refillShapers
      ((s.dev.refillsTaken m.val).listedIdx .schShpRate 8192 m.val) 1).refillPolicers (((s.dev.refillsTaken m.val).refillShapers
      ((s.dev.refillsTaken m.val).listedIdx .schShpRate 8192 m.val) 1).listedIdx .schPolRate 4096 m.val) 1) i c hb
    refine ⟨_, rfl, ?_, (reg_dropStaged _ _ _ _).trans hrate, (reg_dropStaged _ _ _ _).trans hburst, (reg_dropStaged _ _ _ _).trans hparent, hpend, (shpTok_dropStaged _ _ _).trans htok, ?_⟩
    · exact (congrArg (List.filter _) ((congrArg Pkt.shpPend (hpkt _ _)).trans hs)).trans (by simp [hi])
    · rw [hi] at hstat
      exact (rf_dropStaged _ _ _ _ _ _).trans hstat

end Sys2Proof.Machine
end

section
/-! PROOFS. Transmit queues: the enqueue, the end of a frame on the wire (R178 to R181, R195). -/
namespace Sys2Proof.Machine
open Sys2Proof

/-! ## Ingress cells (R148, R150) -/

/-- What the cells of a frame are given back with: their counts, and a PAUSE frame where the port's level falls. -/
structure FreesCells (d d' : Dev) : Prop where
  keeps : Keeps [] d d'
  txq : d'.pkt.txq = d.pkt.txq
  arriving : d'.pkt.arriving = d.pkt.arriving
  wire : d'.pkt.wire = d.pkt.wire
  eqUse : d'.pkt.eqUse = d.pkt.eqUse
  active : d'.pkt.active = d.pkt.active
  counter : ∀ ev, (∀ x, ev ≠ evPort x 15) → d'.counter ev = d.counter ev
  outs : ∃ os, d'.outs = os ++ d.outs

theorem freesCells_refl (d : Dev) : FreesCells d d := ⟨Keeps.refl _ _, rfl, rfl, rfl, rfl, rfl, fun _ _ => rfl, [], rfl⟩

theorem freesCells_moveClassUse (d : Dev) (x c add sub : Nat) : FreesCells d (d.moveClassUse x c add sub) := by
  unfold Dev.moveClassUse
  dsimp only
  split
  · exact ⟨by simp, rfl, rfl, rfl, rfl, rfl, fun _ _ => rfl, [], rfl⟩
  · split
    · exact ⟨by simp, rfl, rfl, rfl, rfl, rfl, fun ev h => Dev.counter_countBy_ne _ _ (h x), [_], rfl⟩
    · split
      · exact ⟨by simp, rfl, rfl, rfl, rfl, rfl, fun ev h => Dev.counter_countBy_ne _ _ (h x), [_], rfl⟩
      · exact ⟨by simp, rfl, rfl, rfl, rfl, rfl, fun _ _ => rfl, [], rfl⟩

theorem FreesCells.setFrame {d d' : Dev} (h : FreesCells d d') (f : Nat) (x : Frame) : FreesCells d (d'.setFrame f x) :=
  ⟨h.keeps, h.txq, h.arriving, h.wire, h.eqUse, h.active, h.counter, h.outs⟩

theorem FreesCells.of_uses {d d' : Dev} {ing hold : Tab Nat} (h : FreesCells { d with pkt := { d.pkt with ingUse := ing, holdUse := hold } } d') : FreesCells d d' :=
  ⟨h.keeps, h.txq, h.arriving, h.wire, h.eqUse, h.active, h.counter, h.outs⟩

section
variable (d : Dev) (f : Nat)

theorem freesCells_freeCells : FreesCells d (d.freeCells f) := by
  unfold Dev.freeCells
  split
  · exact freesCells_refl d
  next x _ =>
    split
    · exact freesCells_refl d
    · exact ((freesCells_moveClassUse _ _ _ _ _).of_uses (d := d) (ing := tabSub d.pkt.ingUse (x.port / 8) x.cells)
        (hold := tabSub d.pkt.holdUse (2 * x.part + x.port / 16) x.cells)).setFrame f { x with cells := 0 }

theorem freesCells_dropFrame : FreesCells d (d.dropFrame f) := by
  obtain ⟨hk, h1, h2, h3, h4, h5, h6, h7⟩ := freesCells_freeCells d f
  exact ⟨hk, h1, h2, h3, h4, h5, h6, h7⟩

theorem frame_dropFrame : (d.dropFrame f).frame f = none := tabFind_del_same _ _

/-- The frame holds no cells any more. -/
theorem frame_freeCells {y : Frame} (hy : d.frame f = some y) : ∃ z, (d.freeCells f).frame f = some z ∧ z.cells = 0 ∧ z.bytes = y.bytes := by
  unfold Dev.freeCells
  rw [hy]
  dsimp only
  split
  · exact ⟨y, hy, ‹_›, rfl⟩
  · exact ⟨_, tabFind_ins_same _ _ _, rfl, rfl⟩

/-- A frame that no ring submitted leaves without a completion. -/
theorem txDrop_of_received {y : Frame} (hy : d.frame f = some y) (htx : y.tx = none) : d.txDrop f = d.dropFrame f := by
  unfold Dev.txDrop
  rw [hy]
  dsimp only
  unfold Dev.txComplete
  rw [htx]

end

/-! ## The enqueue (R179) -/

/-- The device with a frame no longer on its way to a queue. -/
def Dev.arrived (d : Dev) (f : Nat) : Dev := { d with pkt := { d.pkt with arriving := d.pkt.arriving.erase f } }

/-- The frame is the last one its queue holds. -/
def Dev.txqAppend (d : Dev) (q f : Nat) : Dev :=
  let t := d.txq q
  let k := actKey (d.txqPort q) (d.txqClass q)
  if t.frames.isEmpty then (d.setTxq q { frames := [f] }).setActive k (d.activeOf k ++ [q]) else d.setTxq q { t with frames := t.frames ++ [f] }

/-- A frame moves from the ingress cells to its queue and takes egress buffer. -/
def Dev.txqTake (d : Dev) (q f : Nat) (bs : List Byte) : Dev := ((d.freeCells f).moveEgress (d.txqPart q) (txqM q) (egressBytes bs) 0).txqAppend q f

/-- A frame that has arrived meets the checks of R179. -/
def Dev.txqMeet (d : Dev) (f : Nat) (y : Frame) : Dev :=
  let q := y.ind.number
  let m := txqM q
  if !d.txqOk q then (d.count (evP (6 + m) 576)).txDrop f
  else
    let pol := if d.rb .schTxqAtt q 31 then d.police m (d.rf .schTxqAtt q 16 12) (wireLen y.bytes) else (true, d)
    let d := pol.2
    if !pol.1 then d.txDrop f
    else match (if y.tx.isSome then none else d.txqRefuses q y.bytes) with
      | some k => (d.count (evP (6 + m) (576 + k))).txDrop f
      | none =>
        let d := d.txqTake q f y.bytes
        d.kick (d.txqPort q)

section
variable (d : Dev) (f : Nat) {y : Frame}

theorem txqEnqueue_eq (hy : d.frame f = some y) (ha : f ∈ d.pkt.arriving) : d.txqEnqueue f = (d.arrived f).txqMeet f y := by
  unfold Dev.txqEnqueue
  rw [hy]
  exact if_neg (by simpa using ha)

theorem txqMeet_foreign (hok : d.txqOk y.ind.number = false) : d.txqMeet f y = (d.count (evP (6 + txqM y.ind.number) 576)).txDrop f := by
  unfold Dev.txqMeet
  exact if_pos (by rw [hok]; rfl)

section
variable (hok : d.txqOk y.ind.number = true) (hpol : d.rb .schTxqAtt y.ind.number 31 = false) (htx : y.tx = none)
include hok hpol htx

theorem txqMeet_refused {k : Nat} (href : d.txqRefuses y.ind.number y.bytes = some k) :
    d.txqMeet f y = (d.count (evP (6 + txqM y.ind.number) (576 + k))).txDrop f := by
  unfold Dev.txqMeet
  dsimp only
  simp only [hok, hpol, htx, href, Bool.not_true, Bool.false_eq_true, if_false, Option.isSome_none]

theorem txqMeet_taken (href : d.txqRefuses y.ind.number y.bytes = none) :
    d.txqMeet f y = (d.txqTake y.ind.number f y.bytes).kick ((d.txqTake y.ind.number f y.bytes).txqPort y.ind.number) := by
  unfold Dev.txqMeet
  dsimp only
  simp only [hok, hpol, htx, href, Bool.not_true, Bool.false_eq_true, if_false, Option.isSome_none]

end

/-- A frame that its queue refuses is gone, counted under the check it failed (R179). -/
theorem refused_shows (hy : d.frame f = some y) (htx : y.tx = none) {e : Nat} (he : ∀ x, e ≠ evPort x 15) :
    (((d.arrived f).count e).txDrop f).frame f = none ∧ (((d.arrived f).count e).txDrop f).pkt.arriving = d.pkt.arriving.erase f ∧
    (((d.arrived f).count e).txDrop f).pkt.txq = d.pkt.txq ∧ (((d.arrived f).count e).txDrop f).counter e = d.counter e + 1 ∧
    Keeps [] d (((d.arrived f).count e).txDrop f) := by
  have hy' : ((d.arrived f).count e).frame f = some y := hy
  rw [txDrop_of_received _ _ hy' htx]
  obtain ⟨hk, htxq, harr, _, _, _, hcnt, _⟩ := freesCells_dropFrame ((d.arrived f).count e) f
  exact ⟨frame_dropFrame _ _, harr, htxq, (hcnt e he).trans (Dev.counter_count_same _ _), hk⟩

theorem txq_setTxq_same (q : Nat) (t : TxQ) : (d.setTxq q t).txq q = t := tabGet_put_same _ _ _ _

theorem txq_setTxq_ne {q k : Nat} (t : TxQ) (h : k ≠ q) : (d.setTxq q t).txq k = d.txq k := tabGet_put_ne _ _ _ h _

theorem txq_setActive (k : Nat) (l : List Nat) (q : Nat) : (d.setActive k l).txq q = d.txq q := rfl

theorem txqAppend_frames (q : Nat) : ((d.txqAppend q f).txq q).frames = (d.txq q).frames ++ [f] := by
  unfold Dev.txqAppend
  dsimp only
  split
  next h =>
    rw [List.isEmpty_iff.1 h]
    exact congrArg TxQ.frames ((txq_setActive _ _ _ _).trans (txq_setTxq_same d q _))
  · exact congrArg TxQ.frames (txq_setTxq_same d q _)

/-- The other queues, the frames and the buffer counts are as before. -/
theorem txqAppend_rest (q : Nat) : (∀ k, k ≠ q → (d.txqAppend q f).txq k = d.txq k) ∧ (d.txqAppend q f).pkt.arriving = d.pkt.arriving ∧
    (d.txqAppend q f).pkt.eqUse = d.pkt.eqUse ∧ (d.txqAppend q f).pkt.frames = d.pkt.frames ∧ Keeps [] d (d.txqAppend q f) := by
  unfold Dev.txqAppend
  dsimp only
  split
  · exact ⟨fun k hk => (txq_setActive _ _ _ _).trans (txq_setTxq_ne d _ hk), rfl, rfl, rfl, Keeps.refl _ _⟩
  · exact ⟨fun k hk => txq_setTxq_ne d _ hk, rfl, rfl, rfl, Keeps.refl _ _⟩

/-- What a queue's frame changes as it is taken (R178, R179). -/
theorem txqTake_shows (q : Nat) (hy : d.frame f = some y) :
    ((d.txqTake q f y.bytes).txq q).frames = (d.txq q).frames ++ [f] ∧ (∀ k, k ≠ q → (d.txqTake q f y.bytes).txq k = d.txq k) ∧
    (d.txqTake q f y.bytes).pkt.arriving = d.pkt.arriving ∧
    tabGet (d.txqTake q f y.bytes).pkt.eqUse 0 (2 * d.txqPart q + txqM q) = tabGet d.pkt.eqUse 0 (2 * d.txqPart q + txqM q) + egressBytes y.bytes ∧
    (∃ z, (d.txqTake q f y.bytes).frame f = some z ∧ z.cells = 0 ∧ z.bytes = y.bytes) ∧ Keeps [.schPartEq] d (d.txqTake q f y.bytes) := by
  have hfree := freesCells_freeCells d f
  have hframe := frame_freeCells d f hy
  unfold Dev.txqTake
  generalize d.freeCells f = e at hfree hframe ⊢
  generalize hm : e.moveEgress (d.txqPart q) (txqM q) (egressBytes y.bytes) 0 = e'
  have htxq : e'.pkt.txq = d.pkt.txq := by rw [← hm]; exact hfree.txq
  have harr : e'.pkt.arriving = d.pkt.arriving := by rw [← hm]; exact hfree.arriving
  have hfr : e'.pkt.frames = e.pkt.frames := by rw [← hm]; rfl
  have huse : tabGet e'.pkt.eqUse 0 (2 * d.txqPart q + txqM q) = tabGet d.pkt.eqUse 0 (2 * d.txqPart q + txqM q) + egressBytes y.bytes := by
    rw [← hm, ← hfree.eqUse]
    exact tabGet_put_same _ _ _ _
  have hkeep : Keeps [.schPartEq] d e' := by
    rw [← hm]
    unfold Dev.moveEgress
    simpa using hfree.keeps.mono (by simp)
  obtain ⟨hothers, hrarr, hruse, hrfr, hrkeep⟩ := txqAppend_rest e' f q
  refine ⟨(txqAppend_frames e' f q).trans ?_, fun k hk => (hothers k hk).trans (by unfold Dev.txq; rw [htxq]), hrarr.trans harr, ?_, ?_,
    hkeep.trans (hrkeep.mono (by simp))⟩
  · exact congrArg (fun t => (tabGet t {} q).frames ++ [f]) htxq
  · rw [hruse, huse]
  · obtain ⟨z, hz, hz'⟩ := hframe
    exact ⟨z, (congrArg (tabFind f) (hrfr.trans hfr)).trans hz, hz'⟩

end

/-! ## The end of a frame on the wire (R135, R181) -/

section
variable (d : Dev) (x : Nat) {w : OnWire} {y : Frame}

/-- The device with the sub-port's wire free. -/
def Dev.wireFree (d : Dev) (x : Nat) : Dev := { d with pkt := { d.pkt with wire := tabDel x d.pkt.wire } }

theorem frameTxComplete_eq (hw : tabFind x d.pkt.wire = some w) (hend : w.end_ ≤ d.time.now) (hsusp : tabFind x d.pkt.susp = none) (hy : d.frame w.frame = some y) :
    d.frameTxComplete x = ((d.wireFree x).sendDone x w y).select x
      (if d.time.now < d.nextStart x w + d.rf .timeAddend 0 0 32 then d.nextStart x w else d.time.now) d.selFuel := by
  have hsent : d.frameSent x w = (d.wireFree x).sendDone x w y := by
    have hs : tabFind x (d.wireFree x).pkt.susp = none := hsusp
    have hf : (d.wireFree x).frame w.frame = some y := hy
    unfold Dev.frameSent
    change (match tabFind x (d.wireFree x).pkt.susp, (d.wireFree x).frame w.frame with
      | some v, some y => if v.frame = w.frame then (d.wireFree x).count (evPort x 16) else (d.wireFree x).sendDone x w y
      | none, some y => (d.wireFree x).sendDone x w y
      | _, none => d.wireFree x) = _
    rw [hs, hf]
  unfold Dev.frameTxComplete
  rw [hw]
  dsimp only
  rw [if_neg (not_lt.2 hend), hsent]

section
variable (e : Dev)

theorem rf_wireFree : (e.wireFree x).rf = e.rf := rfl
theorem rb_wireFree : (e.wireFree x).rb = e.rb := rfl
theorem prsNode_wireFree : (e.wireFree x).prsNode = e.prsNode := rfl
theorem offCtx_wireFree : (e.wireFree x).offCtx = e.offCtx := rfl

theorem parse_wireFree : (e.wireFree x).parse = e.parse := by
  funext p bs
  unfold Dev.parse
  rw [rf_wireFree, prsNode_wireFree]

/-! These are equations of functions: applied to a frame, a definition that matches on a parse makes the kernel parse. -/

theorem insertSums_wireFree : (e.wireFree x).insertSums = e.insertSums := by
  delta Dev.insertSums
  rw [parse_wireFree, rb_wireFree]

theorem insertIcrc_wireFree : (e.wireFree x).insertIcrc = e.insertIcrc := by
  delta Dev.insertIcrc
  rw [parse_wireFree]

theorem insertNvt_wireFree : (e.wireFree x).insertNvt = e.insertNvt := by
  delta Dev.insertNvt
  rw [parse_wireFree, offCtx_wireFree]

/-- What is sent does not depend on the wire. -/
theorem sentBytes_wireFree : (e.wireFree x).sentBytes = e.sentBytes := by
  delta Dev.sentBytes
  rw [insertSums_wireFree, insertIcrc_wireFree, insertNvt_wireFree]

end

theorem freeEgress_wireFree (q f : Nat) : (d.wireFree x).freeEgress q f = (d.freeEgress q f).wireFree x := by
  have h : (d.wireFree x).frame f = d.frame f := rfl
  unfold Dev.freeEgress
  rw [h]
  split <;> rfl

/-- The egress buffer of a frame is given back. -/
theorem freeEgress_rest (q f : Nat) : Keeps [.schPartEq] d (d.freeEgress q f) ∧ (d.freeEgress q f).pkt.frames = d.pkt.frames ∧
    (d.freeEgress q f).pkt.wire = d.pkt.wire ∧ (d.freeEgress q f).outs = d.outs ∧ (d.freeEgress q f).cnt = d.cnt := by
  unfold Dev.freeEgress
  split
  · unfold Dev.moveEgress
    exact ⟨by simp, rfl, rfl, rfl, rfl⟩
  · exact ⟨Keeps.refl _ _, rfl, rfl, rfl, rfl⟩

theorem pkt_countBy (e n : Nat) : (d.countBy e n).pkt = d.pkt := rfl
theorem pkt_count (e : Nat) : (d.count e).pkt = d.pkt := rfl
theorem outs_countBy (e n : Nat) : (d.countBy e n).outs = d.outs := rfl
theorem outs_count (e : Nat) : (d.count e).outs = d.outs := rfl
theorem txqPart_countBy (e n q : Nat) : (d.countBy e n).txqPart q = d.txqPart q := rfl
theorem txqPart_count (e q : Nat) : (d.count e).txqPart q = d.txqPart q := rfl
theorem txqPart_emit (o : OutEv) (q : Nat) : (d.emit o).txqPart q = d.txqPart q := rfl

/-- A frame's bytes leave the sub-port and are counted, with the checksums that found no place (R181). -/
def Dev.frameCounted (d : Dev) (x : Nat) (w : OnWire) (y : Frame) (bs : List Byte) (k : Nat) : Dev :=
  let d1 := (d.emit (.frame x bs)).countBy (evPort x 12) k
  let d1 := (d1.count (evPort x 2)).countBy (evPort x 3) (wireLen y.bytes)
  d1.count (evPart (d1.txqPart w.queue) 3)

theorem frameCounted_shows (bs : List Byte) (k : Nat) :
    (d.frameCounted x w y bs k).outs = .frame x bs :: d.outs ∧ (d.frameCounted x w y bs k).pkt = d.pkt ∧
    (d.frameCounted x w y bs k).counter (evPort x 2) = d.counter (evPort x 2) + 1 ∧ Keeps [] d (d.frameCounted x w y bs k) := by
  unfold Dev.frameCounted
  dsimp only
  rw [txqPart_countBy, txqPart_count, txqPart_countBy, txqPart_emit]
  refine ⟨by simp only [outs_count, outs_countBy]; rfl, by simp only [pkt_count, pkt_countBy, Dev.emit_pkt], ?_, by simp⟩
  have hpart : evPort x 2 ≠ evPart (d.txqPart w.queue) 3 := by unfold evPort evPart; omega
  have hbytes : evPort x 2 ≠ evPort x 3 := by unfold evPort; omega
  have hsums : evPort x 2 ≠ evPort x 12 := by unfold evPort; omega
  rw [Dev.counter_count_ne _ hpart, Dev.counter_countBy_ne _ _ hbytes, Dev.counter_count_same, Dev.counter_countBy_ne _ _ hsums]
  rfl

/-- A whole frame leaves the sub-port and is gone (R181, R277). -/
def Dev.frameLeaves (d : Dev) (x : Nat) (w : OnWire) (y : Frame) : Dev :=
  (d.frameCounted x w y (d.sentBytes x y).1 (d.sentBytes x y).2).dropFrame w.frame

theorem portUp_freeEgress (q f z : Nat) : (d.freeEgress q f).portUp z = d.portUp z := (freeEgress_rest d q f).1.rb (by decide) _ _

theorem sendDone_up (hup : (d.freeEgress w.queue w.frame).portUp x = true) :
    d.sendDone x w y = ((d.freeEgress w.queue w.frame).frameLeaves x w y).txComplete y 0 := by
  unfold Dev.sendDone
  dsimp only
  rw [hup]
  exact if_neg Bool.false_ne_true

theorem sendDone_down (hup : (d.freeEgress w.queue w.frame).portUp x = false) :
    d.sendDone x w y = ((d.freeEgress w.queue w.frame).count (evPort x 11)).txDrop w.frame := by
  unfold Dev.sendDone
  dsimp only
  rw [hup]
  exact if_pos rfl

/-- No other event counts as the frames a sub-port sent. -/
theorem frameLeaves_shows : (∃ os, (d.frameLeaves x w y).outs = os ++ .frame x (d.sentBytes x y).1 :: d.outs) ∧
    (d.frameLeaves x w y).frame w.frame = none ∧ (d.frameLeaves x w y).pkt.wire = d.pkt.wire ∧
    (d.frameLeaves x w y).counter (evPort x 2) = d.counter (evPort x 2) + 1 ∧ Keeps [] d (d.frameLeaves x w y) := by
  obtain ⟨hout, hpkt, hone, hkeep⟩ := frameCounted_shows d x (w := w) (y := y) (d.sentBytes x y).1 (d.sentBytes x y).2
  unfold Dev.frameLeaves
  generalize d.frameCounted x w y (d.sentBytes x y).1 (d.sentBytes x y).2 = e at hout hpkt hone hkeep
  obtain ⟨hk, _, _, hwire, _, _, hcnt, os, hos⟩ := freesCells_dropFrame e w.frame
  exact ⟨⟨os, hos.trans (congrArg (os ++ ·) hout)⟩, frame_dropFrame _ _, hwire.trans (congrArg Pkt.wire hpkt),
    (hcnt _ fun z => by unfold evPort; omega).trans hone, hkeep.trans hk⟩

end

/-! ## The commands -/

section
variable (s : State) (hp : s.dev.live = true)
include hp

theorem txqEnqueue_answers (f : Nat) {y : Frame} (hy : s.dev.frame f = some y) (ha : f ∈ s.dev.pkt.arriving) :
    Answers (.txqEnqueue f) s (fun d => d = (s.dev.arrived f).txqMeet f y) :=
  answers_event (rfl : execTxqEnqueue f s = _) hp (txqEnqueue_eq s.dev f hy ha)

theorem frameTxComplete_answers (x : Fin 32) {w : OnWire} {y : Frame} (hw : tabFind x.val s.dev.pkt.wire = some w) (hend : w.end_ ≤ s.dev.time.now)
    (hsusp : tabFind x.val s.dev.pkt.susp = none) (hy : s.dev.frame w.frame = some y) :
    Answers (.frameTxComplete x) s (fun d => d = ((s.dev.wireFree x.val).sendDone x.val w y).select x.val
      (if s.dev.time.now < w.end_ + s.dev.wireFx x.val 12 + s.dev.rf .timeAddend 0 0 32 then w.end_ + s.dev.wireFx x.val 12 else s.dev.time.now) s.dev.selFuel) :=
  answers_event (rfl : execFrameTxComplete x s = _) hp (frameTxComplete_eq s.dev x.val hw hend hsusp hy)

end

/-- The checks of R179 number 1 to 3. -/
theorem txqRefuses_le {d : Dev} {q k : Nat} {bs : List Byte} (h : d.txqRefuses q bs = some k) : k ≤ 3 := by
  unfold Dev.txqRefuses at h
  dsimp only at h
  split_ifs at h <;> injection h <;> omega

/-- Settles O29: the enqueue by R179's checks, the end on the wire by the state of the link. -/
theorem transmitQueuesTakeAndSendFrames : Obligations.TransmitQueuesTakeAndSendFrames := by
  intro s hp
  refine ⟨fun f y q m hy htx ha hq hm => ?_, fun x w y hw hend hsusp hy start hstart => ?_⟩
  · subst hq hm
    have hcount : ∀ k ≤ 3, ∀ x, evP (6 + y.ind.number / 32768) (576 + k) ≠ evPort x 15 := fun k hk x => by
      unfold evP evPort
      omega
    refine ⟨fun hok => ?_, fun hok hpol => ⟨fun k href => ?_, fun href => ?_⟩⟩
    · refine answers_of_eq (txqEnqueue_answers s hp f hy ha) ?_
      rw [txqMeet_foreign (s.dev.arrived f) f hok]
      exact refused_shows s.dev f hy htx (hcount 0 (by decide))
    · refine answers_of_eq (txqEnqueue_answers s hp f hy ha) ?_
      rw [txqMeet_refused (s.dev.arrived f) f hok hpol htx href]
      obtain ⟨hf, harr, htxq, hcnt, hkeep⟩ := refused_shows s.dev f hy htx (hcount k (txqRefuses_le href))
      exact ⟨hf, harr, htxq, hkeep, hcnt⟩
    · refine answers_of_eq (txqEnqueue_answers s hp f hy ha) ?_
      rw [txqMeet_taken (s.dev.arrived f) f hok hpol htx href]
      obtain ⟨hframes, hothers, harr, huse, hcells, hkeep⟩ := txqTake_shows (s.dev.arrived f) f y.ind.number (y := y) hy
      exact ⟨_, congrArg (Dev.kick _) (hkeep.rf (by decide) _ _ _), hframes, hothers, harr, huse, hcells, hkeep⟩
  · have hfree := freeEgress_rest s.dev w.queue w.frame
    have hportUp : ∀ b, s.dev.portUp x.val = b → ((s.dev.wireFree x.val).freeEgress w.queue w.frame).portUp x.val = b := fun b hb =>
      (portUp_freeEgress (s.dev.wireFree x.val) _ _ _).trans hb
    have hkeep : Keeps [.schPartEq] s.dev ((s.dev.freeEgress w.queue w.frame).wireFree x.val) := hfree.1
    have hwire : tabFind x.val ((s.dev.freeEgress w.queue w.frame).wireFree x.val).pkt.wire = none := tabFind_del_same _ _
    refine ⟨fun hup => ?_, fun hup htx => ?_⟩
    · refine answers_of_eq (frameTxComplete_answers s hp x hw hend hsusp hy) ?_
      rw [sendDone_up _ _ (hportUp _ hup), freeEgress_wireFree, ← hstart]
      obtain ⟨⟨os, hos⟩, hf, hw', hcnt, hk⟩ := frameLeaves_shows ((s.dev.freeEgress w.queue w.frame).wireFree x.val) x.val (w := w) (y := y)
      rw [sentBytes_wireFree] at hos
      refine ⟨_, os, rfl, hos.trans ?_, hf, (congrArg (tabFind x.val) hw').trans hwire, hcnt.trans ?_, hkeep.trans (hk.mono (by simp))⟩
      · exact congrArg (fun l => os ++ _ :: l) hfree.2.2.2.1
      · exact congrArg (fun c => tabGet (Cnt.ev c) 0 (evPort x.val 2) + 1) hfree.2.2.2.2
    · refine answers_of_eq (frameTxComplete_answers s hp x hw hend hsusp hy) ?_
      rw [sendDone_down _ _ (hportUp _ hup), freeEgress_wireFree, ← hstart,
        txDrop_of_received (((s.dev.freeEgress w.queue w.frame).wireFree x.val).count (evPort x.val 11)) w.frame (y := y) ((congrArg (tabFind w.frame) hfree.2.1).trans hy) htx]
      obtain ⟨hk, _, _, hw', _, _, hcnt, _⟩ := freesCells_dropFrame (((s.dev.freeEgress w.queue w.frame).wireFree x.val).count (evPort x.val 11)) w.frame
      refine ⟨_, rfl, frame_dropFrame _ _, (congrArg (tabFind x.val) hw').trans hwire, ?_, hkeep.trans (hk.mono (by simp))⟩
      refine (hcnt _ fun z => by unfold evPort; omega).trans ((Dev.counter_count_same _ _).trans ?_)
      exact congrArg (fun c => tabGet (Cnt.ev c) 0 (evPort x.val 11) + 1) hfree.2.2.2.2

end Sys2Proof.Machine
end

section
/-! PROOFS. The scheduler's update interface (R180, R185, R188, R189, R203). -/
namespace Sys2Proof.Machine
open Sys2Proof

/-! ## The interface's status -/

/-- How the interface shows what an operation came to. -/
def Dev.schEnd (d : Dev) (k : Nat) : Upd → Dev
  | .done d => d.setReg .schUpdStat k 0
  | .clamped d => d.setReg .schUpdStat k 10
  | .busy d => d.setReg .schUpdStat k 1
  | .fail c => d.setReg .schUpdStat k (BitVec.ofNat 64 (2 * c))

section
variable {c : Instr} {s : State} {p m : Nat} {f : Dev → Upd} (hc : exec c s = schUpd p m f s) (hp : s.dev.live = true)
include hc hp

theorem schUpd_busy (hb : s.dev.rb .schUpdStat (8 * m + p) 0 = true) : Answers c s (fun d => d = s.dev.setRb .schUpdStat (8 * m + p) 4 true) :=
  answers_event hc hp (if_pos hb)

theorem schUpd_idle (hb : s.dev.rb .schUpdStat (8 * m + p) 0 = false) {u : Upd} (hu : f s.dev = u) :
    Answers c s (fun d => d = s.dev.schEnd (8 * m + p) u) := by
  refine answers_event hc hp ((if_neg (by simp [hb])).trans ?_)
  rw [hu]
  cases u <;> rfl

theorem schUpd_gives (hb : s.dev.rb .schUpdStat (8 * m + p) 0 = false) {u : Upd} (hu : f s.dev = u) {P : Dev → Prop} (h : P (s.dev.schEnd (8 * m + p) u)) :
    Answers c s P := answers_of_eq (schUpd_idle hc hp hb hu) h

/-- A refused operation only reports its code. -/
theorem schUpd_denied (hb : s.dev.rb .schUpdStat (8 * m + p) 0 = false) (hu : f s.dev = .fail 4) :
    Answers c s (fun d => Claims.Ends .schUpdStat (8 * m + p) 8 [] s.dev d ∧ d.pkt = s.dev.pkt) :=
  schUpd_gives hc hp hb hu ⟨⟨Dev.reg_setReg_same _ _ _ _, by unfold Dev.schEnd; simp⟩, rfl⟩

/-- An operation that is done at once has changed what it changed, and reports 0. -/
theorem schUpd_done (hb : s.dev.rb .schUpdStat (8 * m + p) 0 = false) {d1 : Dev} (hu : f s.dev = .done d1) {P : Dev → Prop}
    (h : P (d1.setReg .schUpdStat (8 * m + p) 0)) : Answers c s P := schUpd_gives hc hp hb hu h

/-- A staged change keeps the interface busy. -/
theorem schUpd_staged (hb : s.dev.rb .schUpdStat (8 * m + p) 0 = false) {d1 : Dev} (hu : f s.dev = .busy d1) {P : Dev → Prop}
    (h : P (d1.setReg .schUpdStat (8 * m + p) 1)) : Answers c s P := schUpd_gives hc hp hb hu h

/-- An operation that is done at once, with values held to their ranges or not. -/
theorem schUpd_held (hb : s.dev.rb .schUpdStat (8 * m + p) 0 = false) {d1 : Dev} {q : Prop} [Decidable q] (hu : f s.dev = if q then .clamped d1 else .done d1)
    {P : Dev → Prop} (h : P (d1.setReg .schUpdStat (8 * m + p) (if q then 10 else 0))) : Answers c s P := by
  refine schUpd_gives hc hp hb hu ?_
  split_ifs at h ⊢ <;> exact h

end

theorem schUpdates_run {p : Fin 8} {m : Fin 2} {index : BitVec 16} {full : Bool} {c : Instr} (hc : c ∈ Claims.schUpdates p m index full) (s : State) :
    ∃ f, exec c s = schUpd p.val m.val f s := by
  unfold Claims.schUpdates at hc
  simp only [List.mem_cons, List.not_mem_nil, or_false] at hc
  rcases hc with rfl | rfl | rfl | rfl | rfl | rfl | rfl | rfl
  · exact ⟨_, (rfl : execQueueSet p m index s = _)⟩
  · exact ⟨_, (rfl : execQueueRead p m index s = _)⟩
  · exact ⟨_, (rfl : execQueueFlush p m index s = _)⟩
  · exact ⟨_, (rfl : execShaperSet p m index full s = _)⟩
  · exact ⟨_, (rfl : execShaperRead p m index s = _)⟩
  · exact ⟨_, (rfl : execPolicerSet p m index full s = _)⟩
  · exact ⟨_, (rfl : execPolicerRead p m index s = _)⟩
  · exact ⟨_, (rfl : execIngPolSet p m index s = _)⟩

/-! ## The interface's data words -/

section
variable (d : Dev) (p m : Nat)

theorem rf_setSchData_same (j v : Nat) : (d.setSchData p m j v).rf .schUpdData ((8 * m + p) * 4 + j) 0 32 = v % 2 ^ 32 := by
  have hlt : v % 2 ^ 32 < 2 ^ 32 := Nat.mod_lt _ (by decide)
  unfold Dev.setSchData Dev.rf
  rw [Dev.reg_setReg_same, wf_eq_mod, toNat_ofNat64 (hlt.trans (by decide)), Nat.mod_eq_of_lt hlt]

theorem rf_setSchData_ne {j j' : Nat} (v : Nat) (h : j' ≠ j) :
    (d.setSchData p m j v).rf .schUpdData ((8 * m + p) * 4 + j') 0 32 = d.rf .schUpdData ((8 * m + p) * 4 + j') 0 32 :=
  Dev.rf_setReg_other _ _ _ _ (.inr fun he => h (Nat.add_left_cancel he))

theorem reg_setSchData_other (j v : Nat) {r : Reg} (i : Nat) (hr : r ≠ .schUpdData) : (d.setSchData p m j v).reg r i = d.reg r i :=
  Dev.reg_setReg_ne _ _ (.inl hr)

/-- The four data words of an answer. -/
def Dev.setSchWords (d : Dev) (p m v0 v1 v2 v3 : Nat) : Dev :=
  (((d.setSchData p m 0 v0).setSchData p m 1 v1).setSchData p m 2 v2).setSchData p m 3 v3

variable (v0 v1 v2 v3 : Nat)

theorem keeps_setSchWords : Keeps [.schUpdData] d (d.setSchWords p m v0 v1 v2 v3) := by
  unfold Dev.setSchWords Dev.setSchData
  simp

theorem setSchWords_words :
    (d.setSchWords p m v0 v1 v2 v3).rf .schUpdData ((8 * m + p) * 4) 0 32 = v0 % 2 ^ 32 ∧
    (d.setSchWords p m v0 v1 v2 v3).rf .schUpdData ((8 * m + p) * 4 + 1) 0 32 = v1 % 2 ^ 32 ∧
    (d.setSchWords p m v0 v1 v2 v3).rf .schUpdData ((8 * m + p) * 4 + 2) 0 32 = v2 % 2 ^ 32 ∧
    (d.setSchWords p m v0 v1 v2 v3).rf .schUpdData ((8 * m + p) * 4 + 3) 0 32 = v3 % 2 ^ 32 := by
  unfold Dev.setSchWords
  refine ⟨?_, ?_, ?_, rf_setSchData_same _ _ _ _ _⟩
  · refine (rf_setSchData_ne _ _ _ (j := 3) (j' := 0) _ (by decide)).trans ?_
    rw [rf_setSchData_ne _ _ _ _ (by decide), rf_setSchData_ne _ _ _ _ (by decide), rf_setSchData_same]
  · rw [rf_setSchData_ne _ _ _ _ (by decide), rf_setSchData_ne _ _ _ _ (by decide), rf_setSchData_same]
  · rw [rf_setSchData_ne _ _ _ _ (by decide), rf_setSchData_same]

end

/-! ## Values of the fields -/

theorem clampTo_eq (lo hi v : Nat) : clampTo lo hi v = min hi (max lo v) := rfl

/-- A quantum and its weight in one word. -/
theorem wf_pair (a b : Nat) (ha : a < 2 ^ 21) (hb : b < 16) : wf (BitVec.ofNat 64 (a + b * 2 ^ 24)) 0 21 = a ∧ wf (BitVec.ofNat 64 (a + b * 2 ^ 24)) 24 4 = b := by
  have h64 : (BitVec.ofNat 64 (a + b * 2 ^ 24)).toNat = a + b * 2 ^ 24 := toNat_ofNat64 (by omega)
  constructor
  · rw [wf_eq_mod, h64]
    omega
  · unfold wf fld
    rw [h64, Nat.shiftRight_eq_div_pow]
    omega

theorem rb_ofNat_and (v mask i : Nat) (hi : i < 64) : wbit (BitVec.ofNat 64 (v &&& mask)) i = (v.testBit i && mask.testBit i) := by
  unfold wbit
  rw [BitVec.getLsbD_ofNat, Nat.testBit_and]
  simp [hi]

theorem and_mod_4096 (v : Nat) : (v &&& 0x8FFF) % 2 ^ 12 = v % 4096 := by
  rw [← Nat.and_two_pow_sub_one_eq_mod, Nat.and_assoc]
  exact Nat.and_two_pow_sub_one_eq_mod v 12

/-- A queue's settings without a shaper or a policer. -/
def Dev.setQueue (d : Dev) (q quantum weight att lim : Nat) : Dev :=
  let d := d.setReg .schTxqDrr q (BitVec.ofNat 64 (quantum + weight * 2 ^ 24))
  (d.setReg .schTxqAtt q (BitVec.ofNat 64 (att &&& 0x8FFF9FFF))).setReg .schTxqLim q (BitVec.ofNat 64 lim)

theorem setQueue_shows (d : Dev) (q quantum weight att lim : Nat) (hq : quantum < 2 ^ 21) (hw : weight < 16) (hl : lim < 65536) :
    (d.setQueue q quantum weight att lim).rf .schTxqDrr q 0 21 = quantum ∧ (d.setQueue q quantum weight att lim).rf .schTxqDrr q 24 4 = weight ∧
    (d.setQueue q quantum weight att lim).rb .schTxqAtt q 15 = att.testBit 15 ∧ (d.setQueue q quantum weight att lim).rb .schTxqAtt q 31 = att.testBit 31 ∧
    (d.setQueue q quantum weight att lim).rf .schTxqLim q 0 16 = lim := by
  have hdrr : (d.setQueue q quantum weight att lim).reg .schTxqDrr q = BitVec.ofNat 64 (quantum + weight * 2 ^ 24) := by
    unfold Dev.setQueue
    rw [Dev.reg_setReg_ne _ _ (.inl (by decide)), Dev.reg_setReg_ne _ _ (.inl (by decide)), Dev.reg_setReg_same]
  have hatt : (d.setQueue q quantum weight att lim).reg .schTxqAtt q = BitVec.ofNat 64 (att &&& 0x8FFF9FFF) := by
    unfold Dev.setQueue
    rw [Dev.reg_setReg_ne _ _ (.inl (by decide)), Dev.reg_setReg_same]
  have hlim : (d.setQueue q quantum weight att lim).reg .schTxqLim q = BitVec.ofNat 64 lim := Dev.reg_setReg_same _ _ _ _
  unfold Dev.rf Dev.rb
  rw [hdrr, hatt, hlim, rb_ofNat_and _ _ _ (by decide), rb_ofNat_and _ _ _ (by decide), wf_eq_mod (BitVec.ofNat 64 lim), toNat_ofNat64 (hl.trans (by decide))]
  obtain ⟨h1, h2⟩ := wf_pair quantum weight hq hw
  exact ⟨h1, h2, by rw [(by decide : Nat.testBit 0x8FFF9FFF 15 = true), Bool.and_true], by rw [(by decide : Nat.testBit 0x8FFF9FFF 31 = true), Bool.and_true],
    Nat.mod_eq_of_lt hl⟩

theorem pkt_setReg (d : Dev) (r : Reg) (i : Nat) (v : Word) : (d.setReg r i v).pkt = d.pkt := rfl

theorem pkt_setQueue (d : Dev) (q quantum weight att lim : Nat) : (d.setQueue q quantum weight att lim).pkt = d.pkt := by
  unfold Dev.setQueue
  rw [pkt_setReg, pkt_setReg, pkt_setReg]

theorem keeps_setQueue (d : Dev) (q quantum weight att lim : Nat) : Keeps [.schTxqDrr, .schTxqAtt, .schTxqLim] d (d.setQueue q quantum weight att lim) := by
  unfold Dev.setQueue
  simp

/-- The change that a SHAPER_SET or POLICER_SET stages, its rate and burst held to their ranges (R188). -/
def setChange (p rate burst parent : Nat) (full : Bool) : ShpChange :=
  let r := Nat.min (rate % 2 ^ 28) 25600000
  let b := clampTo 64 8388607 (burst % 2 ^ 23)
  ⟨p, BitVec.ofNat 32 r, BitVec.ofNat 32 b, BitVec.ofNat 32 parent, full, r != rate % 2 ^ 28 || b != burst % 2 ^ 23⟩

/-- A shaper's change is staged and shown as pending. -/
def Dev.stageShaper (d : Dev) (i : Nat) (c : ShpChange) : Dev := { d with pkt := { d.pkt with shpPend := tabIns i c d.pkt.shpPend } }.setRb .schShpStat i 0 true

/-! ## The operations -/

theorem txq_flushTxq (d : Dev) (q : Nat) : (d.flushTxq q).txq q = {} := by
  unfold Dev.flushTxq
  exact txq_setTxq_same _ _ _

theorem keeps_setReg_of_mem {a b : Dev} {rs : List Reg} {r : Reg} {i : Nat} {v : Word} (h : Keeps rs a b) (hr : r ∈ rs) : Keeps rs a (b.setReg r i v) :=
  (keeps_setReg_iff hr i v).2 h

section
variable (p : Fin 8) (m : Fin 2) (index : BitVec 16) (full : Bool) {s : State} (hp : s.dev.live = true)
  (hb : s.dev.rb .schUpdStat (8 * m.val + p.val) 0 = false)
include hp hb

theorem queue_denied (h : 32768 ≤ index.toNat ∨ s.dev.granted p.val 3 0 (32768 * m.val + index.toNat) = false) :
    ∀ c ∈ [Instr.queueSet p m index, .queueRead p m index, .queueFlush p m index],
      Answers c s (fun d => Claims.Ends .schUpdStat (8 * m.val + p.val) 8 [] s.dev d ∧ d.pkt = s.dev.pkt) := by
  have hbad : (decide (32768 ≤ index.toNat) || !s.dev.granted p.val 3 0 (32768 * m.val + index.toNat)) = true := by simpa using h
  simp only [List.forall_mem_cons, List.not_mem_nil, false_implies, implies_true, and_true]
  refine ⟨?_, ?_, ?_⟩
  · exact schUpd_denied (rfl : execQueueSet p m index s = _) hp hb (if_pos hbad)
  · exact schUpd_denied (rfl : execQueueRead p m index s = _) hp hb (if_pos hbad)
  · exact schUpd_denied (rfl : execQueueFlush p m index s = _) hp hb (if_pos hbad)

theorem shaper_denied (h : 8192 ≤ index.toNat ∨ s.dev.granted p.val 4 (6 + m.val) index.toNat = false) :
    ∀ c ∈ [Instr.shaperSet p m index full, .shaperRead p m index],
      Answers c s (fun d => Claims.Ends .schUpdStat (8 * m.val + p.val) 8 [] s.dev d ∧ d.pkt = s.dev.pkt) := by
  have hbad : (decide (8192 ≤ index.toNat) || !s.dev.granted p.val 4 (6 + m.val) index.toNat) = true := by simpa using h
  simp only [List.forall_mem_cons, List.not_mem_nil, false_implies, implies_true, and_true]
  refine ⟨?_, ?_⟩
  · exact schUpd_denied (rfl : execShaperSet p m index full s = _) hp hb (if_pos hbad)
  · exact schUpd_denied (rfl : execShaperRead p m index s = _) hp hb (if_pos hbad)

theorem policer_denied (h : 4096 ≤ index.toNat ∨ s.dev.granted p.val 5 (6 + m.val) index.toNat = false) :
    ∀ c ∈ [Instr.policerSet p m index full, .policerRead p m index],
      Answers c s (fun d => Claims.Ends .schUpdStat (8 * m.val + p.val) 8 [] s.dev d ∧ d.pkt = s.dev.pkt) := by
  have hbad : (decide (4096 ≤ index.toNat) || !s.dev.granted p.val 5 (6 + m.val) index.toNat) = true := by simpa using h
  simp only [List.forall_mem_cons, List.not_mem_nil, false_implies, implies_true, and_true]
  refine ⟨?_, ?_⟩
  · exact schUpd_denied (rfl : execPolicerSet p m index full s = _) hp hb (if_pos hbad)
  · exact schUpd_denied (rfl : execPolicerRead p m index s = _) hp hb (if_pos hbad)

/-- A read puts four words in the data registers. -/
theorem schRead_answers {c : Instr} {f : Dev → Upd} {v0 v1 v2 v3 : Nat} (hc : exec c s = schUpd p.val m.val f s)
    (hf : f s.dev = .done (s.dev.setSchWords p.val m.val v0 v1 v2 v3)) :
    Answers c s (fun d => Claims.Ends .schUpdStat (8 * m.val + p.val) 0 [.schUpdData] s.dev d ∧ d.pkt = s.dev.pkt ∧
      d.rf .schUpdData ((8 * m.val + p.val) * 4) 0 32 = v0 % 2 ^ 32 ∧ d.rf .schUpdData ((8 * m.val + p.val) * 4 + 1) 0 32 = v1 % 2 ^ 32 ∧
      d.rf .schUpdData ((8 * m.val + p.val) * 4 + 2) 0 32 = v2 % 2 ^ 32 ∧ d.rf .schUpdData ((8 * m.val + p.val) * 4 + 3) 0 32 = v3 % 2 ^ 32) := by
  refine schUpd_done hc hp hb hf ?_
  have hw := setSchWords_words s.dev p.val m.val v0 v1 v2 v3
  refine ⟨⟨Dev.reg_setReg_same _ _ _ _, ?_⟩, rfl, ?_⟩
  · simpa using (keeps_setSchWords s.dev p.val m.val v0 v1 v2 v3).mono (by simp)
  · rw [Dev.rf_setReg_other _ _ _ _ (.inl (by decide)), Dev.rf_setReg_other _ _ _ _ (.inl (by decide)), Dev.rf_setReg_other _ _ _ _ (.inl (by decide)),
      Dev.rf_setReg_other _ _ _ _ (.inl (by decide))]
    exact hw

theorem queueRead_answers (hi : index.toNat < 32768) (hg : s.dev.granted p.val 3 0 (32768 * m.val + index.toNat) = true) (q : Nat)
    (hq : q = 32768 * m.val + index.toNat) : Answers (.queueRead p m index) s (fun d =>
      Claims.Ends .schUpdStat (8 * m.val + p.val) 0 [.schUpdData] s.dev d ∧ d.pkt = s.dev.pkt ∧
      d.rf .schUpdData ((8 * m.val + p.val) * 4) 0 32 = (s.dev.reg .schTxqCfg q).toNat % 2 ^ 32 ∧
      d.rf .schUpdData ((8 * m.val + p.val) * 4 + 1) 0 32 = (s.dev.reg .schTxqDrr q).toNat % 2 ^ 32 ∧
      d.rf .schUpdData ((8 * m.val + p.val) * 4 + 2) 0 32 = (s.dev.reg .schTxqAtt q).toNat % 2 ^ 32 ∧
      d.rf .schUpdData ((8 * m.val + p.val) * 4 + 3) 0 32 = s.dev.txqHeld q % 2 ^ 32) := by
  subst hq
  refine schRead_answers p m hp hb (rfl : execQueueRead p m index s = _) ((if_neg (by simp [hi, hg])).trans ?_)
  dsimp only
  rw [reg_setSchData_other _ _ _ _ _ _ (by decide), reg_setSchData_other _ _ _ _ _ _ (by decide)]
  rfl

theorem shaperRead_answers (hi : index.toNat < 8192) (hg : s.dev.granted p.val 4 (6 + m.val) index.toNat = true) (i : Nat)
    (hq : i = 8192 * m.val + index.toNat) : Answers (.shaperRead p m index) s (fun d =>
      Claims.Ends .schUpdStat (8 * m.val + p.val) 0 [.schUpdData] s.dev d ∧ d.pkt = s.dev.pkt ∧
      d.rf .schUpdData ((8 * m.val + p.val) * 4) 0 32 = (s.dev.reg .schShpRate i).toNat % 2 ^ 32 ∧
      d.rf .schUpdData ((8 * m.val + p.val) * 4 + 1) 0 32 = (s.dev.reg .schShpBurst i).toNat % 2 ^ 32 ∧
      d.rf .schUpdData ((8 * m.val + p.val) * 4 + 2) 0 32 = (s.dev.reg .schShpParent i).toNat % 2 ^ 32 ∧
      d.rf .schUpdData ((8 * m.val + p.val) * 4 + 3) 0 32 = (s.dev.reg .schShpTok i).toNat % 2 ^ 32) := by
  subst hq
  refine schRead_answers p m hp hb (rfl : execShaperRead p m index s = _) ((if_neg (by simp [hi, hg])).trans ?_)
  dsimp only
  rw [reg_setSchData_other _ _ _ _ _ _ (by decide), reg_setSchData_other _ _ _ _ _ _ (by decide), reg_setSchData_other _ _ _ _ _ _ (by decide),
    reg_setSchData_other _ _ _ _ _ _ (by decide)]
  rfl

theorem policerRead_answers (hi : index.toNat < 4096) (hg : s.dev.granted p.val 5 (6 + m.val) index.toNat = true) (i : Nat)
    (hq : i = 4096 * m.val + index.toNat) : Answers (.policerRead p m index) s (fun d =>
      Claims.Ends .schUpdStat (8 * m.val + p.val) 0 [.schUpdData] s.dev d ∧ d.pkt = s.dev.pkt ∧
      d.rf .schUpdData ((8 * m.val + p.val) * 4) 0 32 = (s.dev.reg .schPolRate i).toNat % 2 ^ 32 ∧
      d.rf .schUpdData ((8 * m.val + p.val) * 4 + 1) 0 32 = (s.dev.reg .schPolBurst i).toNat % 2 ^ 32 ∧
      d.rf .schUpdData ((8 * m.val + p.val) * 4 + 2) 0 32 = (s.dev.reg .schPolCfg i).toNat % 2 ^ 32 ∧
      d.rf .schUpdData ((8 * m.val + p.val) * 4 + 3) 0 32 = (s.dev.reg .schPolTok i).toNat % 2 ^ 32) := by
  subst hq
  refine schRead_answers p m hp hb (rfl : execPolicerRead p m index s = _) ((if_neg (by simp [hi, hg])).trans ?_)
  dsimp only
  rw [reg_setSchData_other _ _ _ _ _ _ (by decide), reg_setSchData_other _ _ _ _ _ _ (by decide), reg_setSchData_other _ _ _ _ _ _ (by decide),
    reg_setSchData_other _ _ _ _ _ _ (by decide)]
  rfl

/-- A queue's settings without attachments (R178, R203). -/
theorem queueSet_answers (hi : index.toNat < 32768) (q : Nat) (hq : q = 32768 * m.val + index.toNat) (hg : s.dev.granted p.val 3 0 q = true) (w0 w1 w2 : Nat)
    (h0 : s.dev.schData p.val m.val 0 = w0) (h1 : s.dev.schData p.val m.val 1 = w1) (h2 : s.dev.schData p.val m.val 2 = w2)
    (hs : w1.testBit 15 = false) (hpol : w1.testBit 31 = false)
    (hpath : s.dev.pathsBad m.val s.dev.shpParent (fun j => if j = q then none else s.dev.txqShaper j) [q] = false) :
    Answers (.queueSet p m index) s (fun d => d = (s.dev.setQueue q (clampTo 64 1048576 (w0 % 2 ^ 21)) (fld w0 24 4) w1 (Nat.max 1 (w2 % 65536))).setReg .schUpdStat
      (8 * m.val + p.val) (if clampTo 64 1048576 (w0 % 2 ^ 21) ≠ w0 % 2 ^ 21 ∨ w2 % 65536 = 0 then 10 else 0)) := by
  subst hq h0 h1 h2
  refine schUpd_held (c := .queueSet p m index) (rfl : execQueueSet p m index s = _) hp hb ?_ rfl
  dsimp only
  rw [if_neg (by simp [hi, hg]), if_neg (by simp [nbit, hs]), if_neg (by simp [nbit, hpol]), if_neg (by simpa [nbit, hs] using hpath)]
  rfl

/-- A shaper's staged change (R185, R188). -/
theorem shaperSet_answers (hi : index.toNat < 8192) (hg : s.dev.granted p.val 4 (6 + m.val) index.toNat = true) (i : Nat) (hq : i = 8192 * m.val + index.toNat)
    (w0 w1 w2 : Nat) (h0 : s.dev.schData p.val m.val 0 = w0) (h1 : s.dev.schData p.val m.val 1 = w1) (h2 : s.dev.schData p.val m.val 2 = w2)
    (hpar : w2.testBit 15 = false) (hpath : s.dev.pathsBad m.val (fun j => if j = i then none else s.dev.shpParent j) s.dev.txqShaper [] = false) :
    Answers (.shaperSet p m index full) s (fun d => Claims.Ends .schUpdStat (8 * m.val + p.val) 1 [.schShpStat] s.dev d ∧ d.rb .schShpStat i 0 = true ∧
      ∃ c, tabFind i d.pkt.shpPend = some c ∧ c.rate = BitVec.ofNat 32 (Nat.min (w0 % 2 ^ 28) 25600000) ∧
        c.burst = BitVec.ofNat 32 (clampTo 64 8388607 (w1 % 2 ^ 23)) ∧ c.full = full) := by
  subst hq h0 h1 h2
  have hbit : nbit (s.dev.schData p.val m.val 2 &&& 0x9FFF) 15 = false := by simp [nbit, hpar]
  refine schUpd_staged (c := .shaperSet p m index full) (d1 := s.dev.stageShaper (8192 * m.val + index.toNat)
    (setChange p.val (s.dev.schData p.val m.val 0) (s.dev.schData p.val m.val 1) (s.dev.schData p.val m.val 2 &&& 0x9FFF) full))
    (rfl : execShaperSet p m index full s = _) hp hb ?_ ?_
  · dsimp only
    rw [if_neg (by simp [hi, hg]), hbit, if_neg (by simp), if_neg (by simpa [chainUp] using hpath)]
    rfl
  · refine ⟨⟨Dev.reg_setReg_same _ _ _ _, by unfold Dev.stageShaper; simp⟩, ?_, _, tabFind_ins_same _ _ _, rfl, rfl, rfl⟩
    exact (Dev.rb_setReg_other _ _ _ (.inl (by decide))).trans (Dev.rb_setRb_same _ _ _ _ _ (by decide))

/-- A policer's staged change (R188, R189). -/
theorem policerSet_answers (hi : index.toNat < 4096) (hg : s.dev.granted p.val 5 (6 + m.val) index.toNat = true) (i : Nat) (hq : i = 4096 * m.val + index.toNat)
    (w0 w1 w2 : Nat) (h0 : s.dev.schData p.val m.val 0 = w0) (h1 : s.dev.schData p.val m.val 1 = w1) (h2 : s.dev.schData p.val m.val 2 = w2) :
    Answers (.policerSet p m index full) s (fun d => Claims.Ends .schUpdStat (8 * m.val + p.val) 1 [] s.dev d ∧
      ∃ c, tabFind i d.pkt.polPend = some c ∧ c.rate = BitVec.ofNat 32 (Nat.min (w0 % 2 ^ 28) 25600000) ∧
        c.burst = BitVec.ofNat 32 (clampTo 64 8388607 (w1 % 2 ^ 23)) ∧ c.parent = BitVec.ofNat 32 (w2 % 16) ∧ c.full = full) := by
  subst hq h0 h1 h2
  refine schUpd_staged (c := .policerSet p m index full) (rfl : execPolicerSet p m index full s = _) hp hb (if_neg (by simp [hi, hg])) ?_
  exact ⟨⟨Dev.reg_setReg_same _ _ _ _, by simp⟩, _, tabFind_ins_same _ _ _, rfl, rfl, rfl, rfl⟩

/-- A sub-port's entry of the policer map (R189). -/
theorem ingPolSet_answers (hi : index.toNat < 16) (w0 : Nat) (h0 : s.dev.schData p.val m.val 0 = w0)
    (hpol : w0.testBit 15 = false ∨ s.dev.granted p.val 5 (6 + m.val) (w0 % 4096) = true) :
    Answers (.ingPolSet p m index) s (fun d => Claims.Ends .schUpdStat (8 * m.val + p.val) 0 [.schIngPol] s.dev d ∧ d.pkt = s.dev.pkt ∧
      d.rf .schIngPol ((8 * m.val + p.val) * 16 + index.toNat) 0 12 = w0 % 4096 ∧
      d.rb .schIngPol ((8 * m.val + p.val) * 16 + index.toNat) 15 = w0.testBit 15) := by
  subst h0
  have hmask : s.dev.schData p.val m.val 0 &&& 0x8FFF < 2 ^ 64 := lt_of_le_of_lt Nat.and_le_right (by decide)
  refine schUpd_done (c := .ingPolSet p m index) (rfl : execIngPolSet p m index s = _) hp hb (d1 := s.dev.setReg .schIngPol ((8 * m.val + p.val) * 16 + index.toNat)
    (BitVec.ofNat 64 (s.dev.schData p.val m.val 0 &&& 0x8FFF))) ?_ ?_
  · refine (if_neg (by omega)).trans ((if_neg ?_).trans rfl)
    rcases hpol with h | h <;> simp [nbit, h]
  · have hreg : ((s.dev.setReg .schIngPol ((8 * m.val + p.val) * 16 + index.toNat) (BitVec.ofNat 64 (s.dev.schData p.val m.val 0 &&& 0x8FFF))).setReg
        .schUpdStat (8 * m.val + p.val) 0).reg .schIngPol ((8 * m.val + p.val) * 16 + index.toNat) = BitVec.ofNat 64 (s.dev.schData p.val m.val 0 &&& 0x8FFF) := by
      rw [Dev.reg_setReg_ne _ _ (.inl (by decide)), Dev.reg_setReg_same]
    refine ⟨⟨Dev.reg_setReg_same _ _ _ _, by simp⟩, rfl, ?_, ?_⟩
    · unfold Dev.rf
      rw [hreg, wf_eq_mod, toNat_ofNat64 hmask]
      exact and_mod_4096 _
    · unfold Dev.rb
      rw [hreg, rb_ofNat_and _ _ _ (by decide), (by decide : Nat.testBit 0x8FFF 15 = true), Bool.and_true]

/-- A flush leaves the queue empty and reports how many frames it held (R180). -/
theorem queueFlush_answers (hi : index.toNat < 32768) (q : Nat) (hq : q = 32768 * m.val + index.toNat) (hg : s.dev.granted p.val 3 0 q = true) :
    Answers (.queueFlush p m index) s (fun d => d.reg .schUpdStat (8 * m.val + p.val) = 0 ∧ (d.txq q).frames = [] ∧
      d.rf .schUpdData ((8 * m.val + p.val) * 4 + 3) 0 32 = (s.dev.txq q).frames.length % 2 ^ 32) := by
  subst hq
  refine schUpd_done (c := .queueFlush p m index) (rfl : execQueueFlush p m index s = _) hp hb (if_neg (by simp [hi, hg])) ?_
  refine ⟨Dev.reg_setReg_same _ _ _ _, ?_, ?_⟩
  · exact congrArg TxQ.frames (txq_flushTxq s.dev _)
  · exact (Dev.rf_setReg_other _ _ _ _ (.inl (by decide))).trans (rf_setSchData_same _ _ _ _ _)

end

/-- The low word of a register. -/
theorem rf_low (d : Dev) (r : Reg) (i : Nat) : (d.reg r i).toNat % 2 ^ 32 = d.rf r i 0 32 := (wf_eq_mod _ _).symm

theorem nat_min_eq (a b : Nat) : Nat.min a b = min a b := rfl
theorem nat_max_eq (a b : Nat) : Nat.max a b = max a b := rfl

theorem toNat_rate (v : Nat) : (BitVec.ofNat 32 (Nat.min (v % 2 ^ 28) 25600000)).toNat = min (v % 2 ^ 28) 25600000 := by
  rw [nat_min_eq, BitVec.toNat_ofNat]
  exact Nat.mod_eq_of_lt (lt_of_le_of_lt (min_le_right _ _) (by decide))

theorem toNat_burst (v : Nat) : (BitVec.ofNat 32 (clampTo 64 8388607 v)).toNat = min 8388607 (max 64 v) := by
  rw [clampTo_eq, BitVec.toNat_ofNat]
  exact Nat.mod_eq_of_lt (lt_of_le_of_lt (min_le_left _ _) (by decide))

/-- Settles O32: an update either meets a busy interface, or its checks, or acts. -/
theorem schedulerUpdatesActForTheirPartition : Obligations.SchedulerUpdatesActForTheirPartition := by
  intro p m index full s k q sh po w hp hk hq hsh hpo hw
  subst hk hsh hpo
  have hword : ∀ j, s.dev.schData p.val m.val j = w j := fun j => (hw j).symm
  refine ⟨fun hb c hc => ?_, fun hb => ⟨fun h => ?_, fun h => ?_, fun h => ?_, fun hi hg => ⟨fun h15 h31 hpath => ?_, ?_, ?_⟩, fun hi hg => ⟨fun h15 hpath => ?_, ?_⟩,
    fun hi hg => ⟨?_, ?_⟩, fun hi hpol => ?_⟩⟩
  · obtain ⟨f, hf⟩ := schUpdates_run hc s
    exact answers_of_eq (schUpd_busy hf hp hb) ⟨Dev.rb_setRb_same _ _ _ _ _ (by decide), fun b hb4 => Dev.rb_setRb_ne _ _ _ _ _ _ hb4, by simp, rfl⟩
  · exact queue_denied p m index hp hb (hq ▸ h)
  · exact shaper_denied p m index full hp hb h
  · exact policer_denied p m index full hp hb h
  · have hset := queueSet_answers p m index hp hb hi q hq hg (w 0) (w 1) (w 2) (hword 0) (hword 1) (hword 2) h15 h31 hpath
    rw [clampTo_eq, nat_max_eq] at hset
    refine answers_of_eq hset ?_
    obtain ⟨hquant, hweight, hatt15, hatt31, hlim⟩ := setQueue_shows s.dev q (min 1048576 (max 64 (w 0 % 2 ^ 21))) (fld (w 0) 24 4) (w 1) (max 1 (w 2 % 65536))
      (lt_of_le_of_lt (min_le_left _ _) (by decide)) (Nat.mod_lt _ (by decide)) (max_lt (by decide) (Nat.mod_lt _ (by decide)))
    have hfld : fld (w 0) 24 4 = w 0 / 2 ^ 24 % 16 := by simp [fld, Nat.shiftRight_eq_div_pow]
    refine ⟨?_, ?_, ?_, ?_, ?_, ⟨Dev.reg_setReg_same _ _ _ _, ?_⟩, (pkt_setReg _ _ _ _).trans (pkt_setQueue _ _ _ _ _ _)⟩
    · exact (Dev.rf_setReg_other _ _ _ _ (.inl (by decide))).trans hquant
    · exact (Dev.rf_setReg_other _ _ _ _ (.inl (by decide))).trans (hweight.trans hfld)
    · exact (Dev.rb_setReg_other _ _ _ (.inl (by decide))).trans (hatt15.trans h15)
    · exact (Dev.rb_setReg_other _ _ _ (.inl (by decide))).trans (hatt31.trans h31)
    · exact (Dev.rf_setReg_other _ _ _ _ (.inl (by decide))).trans hlim
    · exact keeps_setReg_of_mem ((keeps_setQueue s.dev q _ _ _ _).mono (by simp)) (by simp)
  · obtain ⟨t, ht, hpend, hends, _, h0, h1, h2, h3⟩ := queueRead_answers p m index hp hb hi (hq ▸ hg) q hq
    exact ⟨t, ht, hpend, hends, h0.trans (rf_low _ _ _), h1.trans (rf_low _ _ _), h2.trans (rf_low _ _ _), h3⟩
  · exact queueFlush_answers p m index hp hb hi q hq hg
  · obtain ⟨t, ht, hpend, hends, hstat, c, hc, hrate, hburst, hfull⟩ := shaperSet_answers p m index full hp hb hi hg _ rfl (w 0) (w 1) (w 2) (hword 0) (hword 1) (hword 2) h15 hpath
    exact ⟨t, ht, hpend, hends, hstat, c, hc, hrate ▸ toNat_rate _, hburst ▸ toNat_burst _, hfull⟩
  · obtain ⟨t, ht, hpend, hends, hpkt, h0, h1, h2, h3⟩ := shaperRead_answers p m index hp hb hi hg _ rfl
    exact ⟨t, ht, hpend, hends, hpkt, h0.trans (rf_low _ _ _), h1.trans (rf_low _ _ _), h2.trans (rf_low _ _ _), h3.trans (rf_low _ _ _)⟩
  · obtain ⟨t, ht, hpend, hends, c, hc, hrate, hburst, hpar, hfull⟩ := policerSet_answers p m index full hp hb hi hg _ rfl (w 0) (w 1) (w 2) (hword 0) (hword 1) (hword 2)
    refine ⟨t, ht, hpend, hends, c, hc, hrate ▸ toNat_rate _, hburst ▸ toNat_burst _, ?_, hfull⟩
    rw [hpar, BitVec.toNat_ofNat]
    omega
  · obtain ⟨t, ht, hpend, hends, hpkt, h0, h1, h2, h3⟩ := policerRead_answers p m index hp hb hi hg _ rfl
    exact ⟨t, ht, hpend, hends, hpkt, h0.trans (rf_low _ _ _), h1.trans (rf_low _ _ _), h2.trans (rf_low _ _ _), h3.trans (rf_low _ _ _)⟩
  · exact ingPolSet_answers p m index hp hb hi (w 0) (hword 0) hpol

end Sys2Proof.Machine
end

section
/-! PROOFS. The classifier's update interface (R156, R157, R159, R172, R173). -/
namespace Sys2Proof.Machine
open Sys2Proof

/-! ## Bytes -/

theorem leBytes_ofLe (bs : List Byte) : leBytes bs.length (ofLe bs) = bs := by
  induction bs with
  | nil => rfl
  | cons b bs ih =>
    have hb : b.toNat < 256 := b.isLt
    have hdiv : (b.toNat + 256 * ofLe bs) / 256 = ofLe bs := by omega
    rw [List.length_cons, leBytes, ofLe, hdiv, ih]
    congr 1
    apply BitVec.eq_of_toNat_eq
    rw [BitVec.toNat_ofNat]
    omega

theorem slice_length (bs : List Byte) (off n : Nat) : (slice bs off n).length = n := by
  unfold slice
  simp only [List.length_append, List.length_replicate, List.length_take]
  omega

/-- The bytes in the middle of a byte string. -/
theorem slice_append (a b c : List Byte) {off n : Nat} (ha : a.length = off) (hb : b.length = n) : slice (a ++ (b ++ c)) off n = b := by
  subst ha hb
  unfold slice
  simp

/-- A byte string is the string of its four-byte words. -/
theorem flatMap_leBytes_leAt (n : Nat) (bs : List Byte) (h : bs.length = 4 * n) : (List.range n).flatMap (fun j => leBytes 4 (leAt bs (4 * j) 4)) = bs := by
  induction n generalizing bs with
  | zero => simpa using (List.length_eq_zero_iff.1 h).symm
  | succ n ih =>
    have hlen : (bs.take 4).length = 4 := by simp; omega
    have hfirst : leBytes 4 (leAt bs (4 * 0) 4) = bs.take 4 := by
      have hs : slice bs (4 * 0) 4 = bs.take 4 := by
        conv_lhs => rw [← List.take_append_drop 4 bs]
        exact slice_append [] (bs.take 4) (bs.drop 4) rfl hlen
      unfold leAt
      rw [hs]
      exact (congrArg (leBytes · _) hlen.symm).trans (leBytes_ofLe _)
    have hrest : ∀ j, leAt bs (4 * (j + 1)) 4 = leAt (bs.drop 4) (4 * j) 4 := fun j => by
      unfold leAt slice
      rw [List.drop_drop, Nat.mul_succ, Nat.add_comm]
    rw [List.range_succ_eq_map, List.flatMap_cons, hfirst, List.flatMap_map]
    simp only [hrest]
    rw [ih _ (by rw [List.length_drop]; omega), List.take_append_drop]

theorem pkt_foldl_setReg (r : Reg) (at_ : Nat → Nat) (v : Nat → Word) (l : List Nat) (d : Dev) : (l.foldl (fun d k => d.setReg r (at_ k) (v k)) d).pkt = d.pkt := by
  induction l generalizing d with
  | nil => rfl
  | cons j l ih => exact (ih _).trans (pkt_setReg _ _ _ _)

/-! ## The data of an update block -/

section
variable (d : Dev) (e p : Nat)

/-- Words of an update block from `j` on written, one after the other. -/
theorem rf_setUpdData (j : Nat) (bs : List Byte) (k : Nat) (hk : k < bs.length / 4) :
    (d.setUpdData e p j bs).rf .clsUpdData (updIdx e p * 44 + (j + k)) 0 32 = leAt bs (4 * k) 4 := by
  have hlt : leAt bs (4 * k) 4 < 2 ^ 32 := by
    have h := ofLe_lt (slice bs (4 * k) 4)
    rwa [slice_length] at h
  unfold Dev.rf Dev.setUpdData
  have hreg := reg_foldl_setReg .clsUpdData (updIdx e p * 44 + j + ·) (fun k => BitVec.ofNat 64 (leAt bs (4 * k) 4)) (fun i j h => Nat.add_left_cancel h)
    (List.range (bs.length / 4)) d k (List.mem_range.2 hk)
  rw [← Nat.add_assoc]
  refine (congrArg (wf · 0 32) hreg).trans ?_
  rw [wf_eq_mod, toNat_ofNat64 (hlt.trans (by decide)), Nat.mod_eq_of_lt hlt]

theorem keeps_setUpdData (j : Nat) (bs : List Byte) : Keeps [.clsUpdData] d (d.setUpdData e p j bs) := by
  unfold Dev.setUpdData
  exact keeps_foldl_setReg _ _ _ _ _

theorem pkt_setUpdData (j : Nat) (bs : List Byte) : (d.setUpdData e p j bs).pkt = d.pkt := by
  unfold Dev.setUpdData
  exact pkt_foldl_setReg _ _ _ _ _

/-- A whole block of data is read as it was written. -/
theorem updData_setUpdData (bs : List Byte) (h : bs.length = 176) : (d.setUpdData e p 0 bs).updData e p = bs := by
  have hword : ∀ j ∈ List.range 44, leBytes 4 ((d.setUpdData e p 0 bs).rf .clsUpdData (updIdx e p * 44 + j) 0 32) = leBytes 4 (leAt bs (4 * j) 4) := fun j hj => by
    have hr := rf_setUpdData d e p 0 bs j (by rw [h]; exact List.mem_range.1 hj)
    rw [Nat.zero_add] at hr
    rw [hr]
  unfold Dev.updData
  rw [List.flatMap_congr hword]
  exact flatMap_leBytes_leAt 44 bs h

/-- The result place of the data (R159). -/
theorem leAt_updData_result (bs : List Byte) (h : bs.length = 8) : leAt ((d.setUpdData e p 40 bs).updData e p) 160 8 = ofLe bs := by
  have hrange : List.range 44 = List.range 40 ++ ((List.range 2).map (40 + ·) ++ (List.range 2).map (42 + ·)) := by decide
  have hword : ∀ k ∈ List.range 2, leBytes 4 ((d.setUpdData e p 40 bs).rf .clsUpdData (updIdx e p * 44 + (40 + k)) 0 32) = leBytes 4 (leAt bs (4 * k) 4) := fun k hk => by
    rw [rf_setUpdData d e p 40 bs k (by rw [h]; exact List.mem_range.1 hk)]
  have hlen : ∀ (l : List Nat) (f : Nat → Nat), (l.flatMap (fun j => leBytes 4 (f j))).length = 4 * l.length := fun l f => by
    induction l with
    | nil => rfl
    | cons a l ih => rw [List.flatMap_cons, List.length_append, leBytes_length, ih, List.length_cons]; omega
  unfold leAt Dev.updData
  rw [hrange, List.flatMap_append, List.flatMap_append, List.flatMap_map, List.flatMap_congr hword, flatMap_leBytes_leAt 2 bs h]
  exact congrArg ofLe (slice_append _ _ _ (by rw [hlen]; rfl) h)

end

/-! ## The interface -/

theorem clsUpdates_run {p : Fin 8} {e : Fin 4} {i : BitVec 15} {t : BitVec 8} {c : Instr} (hc : c ∈ Claims.clsUpdates p e i t) (s : State) :
    ∃ f, exec c s = clsUpd p.val e.val f s := by
  unfold Claims.clsUpdates at hc
  simp only [List.mem_cons, List.not_mem_nil, or_false] at hc
  rcases hc with rfl | rfl | rfl | rfl | rfl | rfl | rfl | rfl
  · exact ⟨_, (rfl : execRuleWrite p e i s = _)⟩
  · exact ⟨_, (rfl : execRuleDisable p e i s = _)⟩
  · exact ⟨_, (rfl : execRuleRead p e i s = _)⟩
  · exact ⟨_, (rfl : execExactInsert p e t s = _)⟩
  · exact ⟨_, (rfl : execExactDelete p e t s = _)⟩
  · exact ⟨_, (rfl : execExactRead p e t s = _)⟩
  · exact ⟨_, (rfl : execCtxWrite p e i s = _)⟩
  · exact ⟨_, (rfl : execCtxResync p e i s = _)⟩

section
variable {c : Instr} {s : State} {p : Fin 8} {e : Fin 4} {f : Dev → Dev} (hc : exec c s = clsUpd p.val e.val f s) (hp : s.dev.live = true)
include hc hp

theorem clsUpd_busy (hb : s.dev.rb .clsUpdStat (8 * e.val + p.val) 0 = true) :
    Answers c s (fun d => d = s.dev.setRb .clsUpdStat (8 * e.val + p.val) 4 true) := answers_event hc hp (if_pos hb)

theorem clsUpd_gives (hb : s.dev.rb .clsUpdStat (8 * e.val + p.val) 0 = false) {d : Dev} (hd : f s.dev = d) {P : Dev → Prop} (h : P d) : Answers c s P := by
  subst hd
  refine answers_event hc hp ?_
  rw [if_neg (by simp [updIdx, hb])]
  exact h

end

section
variable (d : Dev) (p : Fin 8) (e : Fin 4) (code : Nat)

/-- An operation ends with its code. -/
theorem reports_updDone {a : Dev} {rs : List Reg} (h : Keeps rs a d) : Claims.Reports p e code rs a (d.updDone e.val p.val code) :=
  ⟨Dev.reg_setReg_same _ _ _ _, (keeps_setReg_iff (by simp) _ _).2 (h.mono (by simp))⟩

theorem pkt_updDone : (d.updDone e.val p.val code).pkt = d.pkt := pkt_setReg _ _ _ _

end

section
variable (p : Fin 8) (e : Fin 4) (i : BitVec 15) (t : BitVec 8) {s : State} (hp : s.dev.live = true) (hb : s.dev.rb .clsUpdStat (8 * e.val + p.val) 0 = false)
include hp hb

/-- An operation that fails a check only reports its code. -/
theorem clsUpd_refused {c : Instr} {f : Dev → Dev} {code : Nat} (hc : exec c s = clsUpd p.val e.val f s) (hf : f s.dev = s.dev.updDone e.val p.val code) :
    Answers c s (fun d => Claims.Reports p e code [] s.dev d ∧ d.pkt = s.dev.pkt) :=
  clsUpd_gives hc hp hb hf ⟨reports_updDone _ _ _ _ (Keeps.refl _ _), pkt_updDone _ _ _ _⟩

theorem rule_denied (h : s.dev.granted p.val 11 (e.val + 2) i.toNat = false) : ∀ c ∈ [Instr.ruleWrite p e i, .ruleDisable p e i, .ruleRead p e i],
    Answers c s (fun d => Claims.Reports p e 4 [] s.dev d ∧ d.pkt = s.dev.pkt) := by
  have hbad : (!s.dev.ruleOk p.val e.val i.toNat) = true := by simpa [Dev.ruleOk] using h
  simp only [List.forall_mem_cons, List.not_mem_nil, false_implies, implies_true, and_true]
  refine ⟨?_, ?_, ?_⟩
  · exact clsUpd_refused p e hp hb (rfl : execRuleWrite p e i s = _) (if_pos hbad)
  · exact clsUpd_refused p e hp hb (rfl : execRuleDisable p e i s = _) (if_pos hbad)
  · exact clsUpd_refused p e hp hb (rfl : execRuleRead p e i s = _) (if_pos hbad)

theorem exact_denied (h : s.dev.exactOf p.val t.toNat = false) : ∀ c ∈ [Instr.exactInsert p e t, .exactDelete p e t, .exactRead p e t],
    Answers c s (fun d => Claims.Reports p e 4 [] s.dev d ∧ d.pkt = s.dev.pkt) := by
  have hbad : (!(s.dev.tdirKind t.toNat == 1 && s.dev.exactOf p.val t.toNat)) = true := by simp [h]
  simp only [List.forall_mem_cons, List.not_mem_nil, false_implies, implies_true, and_true]
  refine ⟨?_, ?_, ?_⟩
  · exact clsUpd_refused p e hp hb (rfl : execExactInsert p e t s = _) (if_pos hbad)
  · exact clsUpd_refused p e hp hb (rfl : execExactDelete p e t s = _) (if_pos hbad)
  · exact clsUpd_refused p e hp hb (rfl : execExactRead p e t s = _) (if_pos hbad)

theorem ctx_denied (h : 16384 ≤ i.toNat ∨ s.dev.granted p.val 14 (e.val + 2) i.toNat = false) : ∀ c ∈ [Instr.ctxWrite p e i, .ctxResync p e i],
    Answers c s (fun d => Claims.Reports p e 4 [] s.dev d ∧ d.pkt = s.dev.pkt) := by
  have hbad : (!s.dev.ctxOk p.val e.val i.toNat) = true := by
    rcases h with h | h
    · simp [Dev.ctxOk, not_lt.2 h]
    · simp [Dev.ctxOk, h]
  simp only [List.forall_mem_cons, List.not_mem_nil, false_implies, implies_true, and_true]
  refine ⟨?_, ?_⟩
  · exact clsUpd_refused p e hp hb (rfl : execCtxWrite p e i s = _) (if_pos hbad)
  · exact clsUpd_refused p e hp hb (rfl : execCtxResync p e i s = _) (if_pos hbad)

omit hp hb in
/-- A rule that may be written is as given, and every other rule as it was. -/
theorem ruleSet_shows (r : Rule) : Claims.Reports p e 0 [] s.dev ((s.dev.setRule e.val i.toNat r).updDone e.val p.val 0) ∧
    ((s.dev.setRule e.val i.toNat r).updDone e.val p.val 0).rule e.val i.toNat = r ∧
    ∀ j < 32768, j ≠ i.toNat → ((s.dev.setRule e.val i.toNat r).updDone e.val p.val 0).rule e.val j = s.dev.rule e.val j := by
  refine ⟨reports_updDone _ _ _ _ (Keeps.refl _ _), ?_, fun j _ hj => ?_⟩
  · exact (congrArg (fun x => tabGet (Pkt.rules x) {} (ruleKey e.val i.toNat)) (pkt_updDone _ _ _ _)).trans (tabGet_put_same s.dev.pkt.rules {} _ r)
  · refine (congrArg (fun x => tabGet (Pkt.rules x) {} (ruleKey e.val j)) (pkt_updDone _ _ _ _)).trans (tabGet_put_ne s.dev.pkt.rules {} r ?_ _)
    unfold ruleKey
    omega

omit hp hb in
/-- The same for a context. -/
theorem ctxSet_shows (c : OffCtx) : Claims.Reports p e 0 [] s.dev ((s.dev.setOffCtx e.val i.toNat c).updDone e.val p.val 0) ∧
    ((s.dev.setOffCtx e.val i.toNat c).updDone e.val p.val 0).offCtx e.val i.toNat = c ∧
    ∀ j < 16384, j ≠ i.toNat → ((s.dev.setOffCtx e.val i.toNat c).updDone e.val p.val 0).offCtx e.val j = s.dev.offCtx e.val j := by
  refine ⟨reports_updDone _ _ _ _ (Keeps.refl _ _), ?_, fun j _ hj => ?_⟩
  · exact (congrArg (fun x => tabGet (Pkt.ctxs x) {} (ctxKey e.val i.toNat)) (pkt_updDone _ _ _ _)).trans (tabGet_put_same s.dev.pkt.ctxs {} _ c)
  · refine (congrArg (fun x => tabGet (Pkt.ctxs x) {} (ctxKey e.val j)) (pkt_updDone _ _ _ _)).trans (tabGet_put_ne s.dev.pkt.ctxs {} c ?_ _)
    unfold ctxKey
    omega

theorem ruleWrite_answers (hg : s.dev.granted p.val 11 (e.val + 2) i.toNat = true) (b : List Byte) (hdata : b = s.dev.updData e.val p.val)
    (hact : s.dev.actionOk p.val true (leAt b 160 4) = true) : Answers (.ruleWrite p e i) s (fun d => d = (s.dev.setRule e.val i.toNat
      { value := b.take 80, mask := (b.drop 80).take 80, action := BitVec.ofNat 32 (leAt b 160 4), enable := nbit (leAt b 164 1) 0,
        hits := if nbit (leAt b 164 1) 1 then 0 else (s.dev.rule e.val i.toNat).hits }).updDone e.val p.val 0) := by
  subst hdata
  exact clsUpd_gives (c := .ruleWrite p e i) (rfl : execRuleWrite p e i s = _) hp hb ((if_neg (by simp [Dev.ruleOk, hg])).trans (if_neg (by simp [hact]))) rfl

theorem ruleDisable_answers (hg : s.dev.granted p.val 11 (e.val + 2) i.toNat = true) : Answers (.ruleDisable p e i) s
    (fun d => d = (s.dev.setRule e.val i.toNat { s.dev.rule e.val i.toNat with enable := false }).updDone e.val p.val 0) :=
  clsUpd_gives (c := .ruleDisable p e i) (rfl : execRuleDisable p e i s = _) hp hb (if_neg (by simp [Dev.ruleOk, hg])) rfl

theorem ctxResync_answers (hi : i.toNat < 16384) (hg : s.dev.granted p.val 14 (e.val + 2) i.toNat = true) : Answers (.ctxResync p e i) s
    (fun d => d = (s.dev.setOffCtx e.val i.toNat { s.dev.offCtx e.val i.toNat with seq := BitVec.ofNat 32 (leAt (s.dev.updData e.val p.val) 4 4), resync := true, raw := [] }).updDone
      e.val p.val 0) :=
  clsUpd_gives (c := .ctxResync p e i) (rfl : execCtxResync p e i s = _) hp hb (if_neg (by simp [Dev.ctxOk, hi, hg])) rfl

theorem ctxWrite_answers (hi : i.toNat < 16384) (hg : s.dev.granted p.val 14 (e.val + 2) i.toNat = true) (b : List Byte) (hdata : b = s.dev.updData e.val p.val)
    (hok : ¬ (2 < leAt b 0 1 ∨ (leAt b 0 1 = 1 ∧ leAt b 2 1 ≠ 0 ∧ (leAt b 2 1 < 4 ∨ 12 < leAt b 2 1)))) : Answers (.ctxWrite p e i) s
    (fun d => d = (s.dev.setOffCtx e.val i.toNat { type := leAt b 0 1, seq := BitVec.ofNat 32 (leAt b 4 4), sync := nbit (leAt b 3 1) 0, digests := BitVec.ofNat 2 (leAt b 1 1),
                                                     table := leAt b 8 8 % 2 ^ 48, tableLog := leAt b 2 1 }).updDone e.val p.val 0) := by
  subst hdata
  exact clsUpd_gives (c := .ctxWrite p e i) (rfl : execCtxWrite p e i s = _) hp hb ((if_neg (by simp [Dev.ctxOk, hi, hg])).trans (if_neg hok)) rfl

end

/-- The data bytes of a rule that is read out (R159). -/
def ruleBytes (r : Rule) (old : List Byte) : List Byte :=
  slice r.value 0 80 ++ (slice r.mask 0 80 ++ (leBytes 4 r.action.toNat ++ ([BitVec.ofNat 8 (b2n r.enable)] ++ (slice old 165 3 ++ leBytes 8 r.hits.toNat))))

theorem ruleBytes_length (r : Rule) (old : List Byte) : (ruleBytes r old).length = 176 := by
  unfold ruleBytes
  simp only [List.length_append, slice_length, leBytes_length, List.length_singleton]

/-- Each field of the rule stands at its place. -/
theorem ruleBytes_fields (r : Rule) (old : List Byte) :
    slice (ruleBytes r old) 0 80 = slice r.value 0 80 ∧ slice (ruleBytes r old) 80 80 = slice r.mask 0 80 ∧ leAt (ruleBytes r old) 160 4 = r.action.toNat ∧
    leAt (ruleBytes r old) 164 1 = b2n r.enable ∧ leAt (ruleBytes r old) 168 8 = r.hits.toNat := by
  have hact : ofLe (leBytes 4 r.action.toNat) = r.action.toNat := (ofLe_leBytes _ _).trans (Nat.mod_eq_of_lt r.action.isLt)
  have hhits : ofLe (leBytes 8 r.hits.toNat) = r.hits.toNat := (ofLe_leBytes _ _).trans (Nat.mod_eq_of_lt r.hits.isLt)
  have hen : ofLe [BitVec.ofNat 8 (b2n r.enable)] = b2n r.enable := by cases r.enable <;> rfl
  unfold ruleBytes leAt
  refine ⟨slice_append [] _ _ rfl (slice_length _ _ _), slice_append _ _ _ (slice_length _ _ _) (slice_length _ _ _), ?_, ?_, ?_⟩
  · rw [← List.append_assoc, slice_append _ _ _ (by simp [slice_length]) (leBytes_length _ _), hact]
  · rw [← List.append_assoc, ← List.append_assoc, slice_append _ _ _ (by simp [slice_length]) (List.length_singleton), hen]
  · rw [← List.append_assoc, ← List.append_assoc, ← List.append_assoc, ← List.append_assoc, ← List.append_nil (leBytes 8 _),
      slice_append _ _ _ (by simp [slice_length]) (leBytes_length _ _), hhits]

theorem ruleRead_answers (p : Fin 8) (e : Fin 4) (i : BitVec 15) {s : State} (hp : s.dev.live = true) (hb : s.dev.rb .clsUpdStat (8 * e.val + p.val) 0 = false)
    (hg : s.dev.granted p.val 11 (e.val + 2) i.toNat = true) : Answers (.ruleRead p e i) s
    (fun d => d = (s.dev.setUpdData e.val p.val 0 (ruleBytes (s.dev.rule e.val i.toNat) (s.dev.updData e.val p.val))).updDone e.val p.val 0) := by
  refine clsUpd_gives (c := .ruleRead p e i) (rfl : execRuleRead p e i s = _) hp hb (if_neg (by simp [Dev.ruleOk, hg])) ?_
  unfold ruleBytes
  simp only [List.append_assoc]

/-- An update's data does not depend on its status. -/
theorem updData_updDone (d : Dev) (e p code : Nat) : (d.updDone e p code).updData e p = d.updData e p := by
  unfold Dev.updData Dev.updDone
  exact List.flatMap_congr fun j _ => by rw [Dev.rf_setReg_other _ _ _ _ (.inl (by decide))]

/-- An exact operation on a table that its memory allows waits for its writes. -/
theorem exactStart_answers (p : Fin 8) (e : Fin 4) (t : BitVec 8) {s : State} (hp : s.dev.live = true) (hb : s.dev.rb .clsUpdStat (8 * e.val + p.val) 0 = false)
    (hx : s.dev.exactOf p.val t.toNat = true) (hchk : s.dev.exactCheck t.toNat = .ok) {c : Instr} {op : Nat}
    (hc : exec c s = clsUpd p.val e.val (fun d => d.exactStart op p.val e.val t.toNat) s) (b : List Byte) (hdata : b = s.dev.updData e.val p.val) :
    Answers c s (fun d => d.reg .clsUpdStat (8 * e.val + p.val) = 1 ∧ Keeps [.clsUpdStat] s.dev d ∧
      tabFind (8 * e.val + p.val) d.pkt.updPend = some (op, t.toNat, b.take (8 * s.dev.tdirN t.toNat), BitVec.ofNat 64 (leAt b 160 8))) := by
  subst hdata
  have hkind : s.dev.tdirKind t.toNat = 1 := by
    unfold Dev.exactOf at hx
    simp only [Bool.and_eq_true, beq_iff_eq] at hx
    exact hx.1.1
  refine clsUpd_gives hc hp hb ((if_neg (by simp [hx, hkind])).trans (if_neg (by simp [hchk]))) ?_
  exact ⟨Dev.reg_setReg_same _ _ _ _, by simp, tabFind_ins_same _ _ _⟩

/-! ## The end of an exact operation (R156, R157) -/

/-- What a cache keeps of an entry once its key has the result `r`, or none (R157). -/
def cacheTakes (t : Nat) (key : List Byte) (r : Option Word) (q : CacheEntry) : Option CacheEntry :=
  if q.table == t && q.key == key then r.map (fun v => { q with result := v }) else some q

section
variable (d : Dev) (p t : Nat) (key : List Byte) (r : Option Word)

/-- One island's cache takes the result. -/
def Dev.cacheTake (d : Dev) (p t : Nat) (key : List Byte) (r : Option Word) (isl : Nat) : Dev :=
  d.setCache isl p ((d.cache isl p).filterMap (cacheTakes t key r))

theorem cacheUpdate_eq : d.cacheUpdate p t key r = [2, 3, 4, 5].foldl (fun d isl => d.cacheTake p t key r isl) d := rfl

theorem cacheUpdate_mem : (d.cacheUpdate p t key r).mem = d.mem :=
  foldl_related (R := fun a b : Dev => b.mem = a.mem) (fun _ => rfl) (fun h h' => h'.trans h) (f := fun d isl => d.cacheTake p t key r isl) (fun _ _ => rfl) [2, 3, 4, 5] d

theorem cacheUpdate_updPend : (d.cacheUpdate p t key r).pkt.updPend = d.pkt.updPend :=
  foldl_related (R := fun a b : Dev => b.pkt.updPend = a.pkt.updPend) (fun _ => rfl) (fun h h' => h'.trans h) (f := fun d isl => d.cacheTake p t key r isl)
    (fun _ _ => rfl) [2, 3, 4, 5] d

theorem cache_cacheTake_same (isl : Nat) : (d.cacheTake p t key r isl).cache isl p = (d.cache isl p).filterMap (cacheTakes t key r) := tabGet_put_same _ _ _ _

theorem cache_cacheTake_ne {isl j : Nat} (hi : 2 ≤ isl) (hj : 2 ≤ j) (h : j ≠ isl) : (d.cacheTake p t key r isl).cache j p = d.cache j p :=
  tabGet_put_ne _ _ _ (by omega) _

/-- Every island of a list without repetitions takes the result once. -/
theorem cache_foldl_cacheTake (l : List Nat) (hl : l.Nodup) (h2 : ∀ i ∈ l, 2 ≤ i) {isl : Nat} (hi : 2 ≤ isl) :
    (l.foldl (fun d isl => d.cacheTake p t key r isl) d).cache isl p = if isl ∈ l then (d.cache isl p).filterMap (cacheTakes t key r) else d.cache isl p := by
  induction l generalizing d with
  | nil => rfl
  | cons j l ih =>
    obtain ⟨hj, hl⟩ := List.nodup_cons.1 hl
    rw [List.foldl_cons, ih _ hl fun i hi => h2 i (.tail _ hi)]
    by_cases hij : isl = j
    · subst hij
      rw [if_neg hj, if_pos (.head _), cache_cacheTake_same]
    · rw [cache_cacheTake_ne _ _ _ _ _ (h2 j (.head _)) hi hij]
      simp [hij]

theorem cache_cacheUpdate {isl : Nat} (hi : isl ∈ [2, 3, 4, 5]) : (d.cacheUpdate p t key r).cache isl p = (d.cache isl p).filterMap (cacheTakes t key r) := by
  have h2 : ∀ i ∈ [2, 3, 4, 5], 2 ≤ i := by decide
  rw [cacheUpdate_eq, cache_foldl_cacheTake d p t key r _ (by decide) h2 (h2 _ hi), if_pos hi]

/-- An entry of the key that a cache keeps has the new result. -/
theorem mem_cacheUpdate {c : CacheEntry} {isl : Nat} (hi : isl ∈ [2, 3, 4, 5]) (h : c ∈ (d.cacheUpdate p t key r).cache isl p) (ht : c.table = t) (hk : c.key = key) :
    r = some c.result := by
  rw [cache_cacheUpdate _ _ _ _ _ hi] at h
  obtain ⟨q, _, hq⟩ := List.mem_filterMap.1 h
  unfold cacheTakes at hq
  split at hq
  · obtain ⟨v, hv, rfl⟩ := Option.map_eq_some_iff.1 hq
    exact hv
  next hne =>
    cases hq
    exact absurd (by simp [ht, hk]) hne

end

section
variable (d : Dev) (p : Fin 8) (e : Fin 4) (t : Nat) (key : List Byte) (res : Word) (hchk : d.exactCheck t = .ok)
include hchk

/-- EXACT_INSERT writes the key's entry, or the first free one. -/
theorem exactFinish_insert {a : Nat} (ha : d.exactFind t key = some a ∨ (d.exactFind t key = none ∧ (d.exactSlots t key).find? (fun a => !d.slotValid a) = some a)) :
    d.exactFinish e.val p.val 4 t key res = ((d.write a (slice key 0 32 ++ leBytes 8 (wsetBit res 63 true).toNat ++ List.replicate 24 0)).cacheUpdate p.val t key
      (some (wsetBit res 63 true))).updDone e.val p.val 0 := by
  unfold Dev.exactFinish
  refine (if_neg (by simp [hchk])).trans ?_
  rcases ha with ha | ⟨hnone, ha⟩
  · rw [ha]
    rfl
  · rw [hnone, ha]
    rfl

theorem exactFinish_full (hnone : d.exactFind t key = none) (hfull : (d.exactSlots t key).find? (fun a => !d.slotValid a) = none) :
    d.exactFinish e.val p.val 4 t key res = d.updDone e.val p.val 1 := by
  unfold Dev.exactFinish
  refine (if_neg (by simp [hchk])).trans ?_
  rw [hnone, hfull]
  rfl

theorem exactFinish_delete {a : Nat} (ha : d.exactFind t key = some a) : d.exactFinish e.val p.val 5 t key res =
    ((d.write (a + 32) (leBytes 8 (wsetBit (BitVec.ofNat 64 (ofLe (d.read (a + 32) 8))) 63 false).toNat)).cacheUpdate p.val t key none).updDone e.val p.val 0 := by
  unfold Dev.exactFinish
  refine (if_neg (by simp [hchk])).trans ?_
  rw [ha]
  rfl

theorem exactFinish_read {a : Nat} (ha : d.exactFind t key = some a) :
    d.exactFinish e.val p.val 6 t key res = (d.setUpdData e.val p.val 40 (d.read (a + 32) 8)).updDone e.val p.val 0 := by
  unfold Dev.exactFinish
  refine (if_neg (by simp [hchk])).trans ?_
  rw [ha]
  rfl

theorem exactFinish_notFound {op : Nat} (hop : op = 5 ∨ op = 6) (hnone : d.exactFind t key = none) :
    d.exactFinish e.val p.val op t key res = d.updDone e.val p.val 2 := by
  unfold Dev.exactFinish
  refine (if_neg (by simp [hchk])).trans ?_
  rcases hop with rfl | rfl
  · rw [hnone]
    rfl
  · rw [hnone]
    rfl

end

/-- The device with an update no longer pending. -/
def Dev.updTaken (d : Dev) (e p : Nat) : Dev := { d with pkt := { d.pkt with updPend := tabDel (updIdx e p) d.pkt.updPend } }

theorem clsUpdDone_answers (p : Fin 8) (e : Fin 4) {s : State} (hp : s.dev.live = true) {op t : Nat} {key : List Byte} {res : Word}
    (h : tabFind (8 * e.val + p.val) s.dev.pkt.updPend = some (op, t, key, res)) {d : Dev} (hd : (s.dev.updTaken e.val p.val).exactFinish e.val p.val op t key res = d)
    {P : Dev → Prop} (hP : P d) : Answers (.clsUpdDone p e) s P := by
  subst hd
  refine answers_event (rfl : execClsUpdDone p e s = _) hp ?_
  have h' : tabFind (updIdx e.val p.val) s.dev.pkt.updPend = some (op, t, key, res) := h
  rw [h']
  exact hP

/-- A read of eight bytes just written. -/
theorem read_write_word (d : Dev) (a v : Nat) : (d.write a (leBytes 8 v)).read a 8 = leBytes 8 v := by
  have h := Dev.read_write_same d a (leBytes 8 v)
  rwa [leBytes_length] at h

/-- An entry whose result word has a clear bit 63 is free. -/
theorem not_slotValid_write (d : Dev) (a : Nat) (w : Word) : (d.write (a + 32) (leBytes 8 (wsetBit w 63 false).toNat)).slotValid a = false := by
  unfold Dev.slotValid
  rw [read_write_word, ofLe_leBytes, Nat.mod_eq_of_lt (wsetBit w 63 false).isLt]
  exact wbit_wsetBit_same w 63 false (by decide)

theorem wsetBit_valid (w : Word) : wsetBit w 63 true = w ||| 0x8000000000000000#64 := by
  have h : (1#64 <<< 63) = 0x8000000000000000#64 := by decide
  unfold wsetBit
  rw [if_pos rfl, h]

theorem mem_updDone (d : Dev) (e p code : Nat) : (d.updDone e p code).mem = d.mem := rfl
theorem mem_write_updTaken (d : Dev) (e p a : Nat) (bs : List Byte) : ((d.updTaken e p).write a bs).mem = (d.write a bs).mem := rfl

/-- The end of an exact operation, by its code and by what the table holds. -/
theorem exactOperation_ends (p : Fin 8) (e : Fin 4) (s : State) (op t : Nat) (key : List Byte) (res : Word) (hp : s.dev.live = true)
    (hpend : tabFind (8 * e.val + p.val) s.dev.pkt.updPend = some (op, t, key, res)) (hchk : s.dev.exactCheck t = .ok) :
    (op = 4 → ∀ a, (s.dev.exactFind t key = some a ∨ (s.dev.exactFind t key = none ∧ (s.dev.exactSlots t key).find? (fun a => !s.dev.slotValid a) = some a)) →
      Answers (.clsUpdDone p e) s (fun d => d.reg .clsUpdStat (8 * e.val + p.val) = 0 ∧ tabFind (8 * e.val + p.val) d.pkt.updPend = none ∧
        d.mem = (s.dev.write a (slice key 0 32 ++ leBytes 8 (res ||| 0x8000000000000000#64).toNat ++ List.replicate 24 0)).mem ∧
        (∀ isl ∈ [2, 3, 4, 5], ∀ c ∈ d.cache isl p.val, c.table = t → c.key = key → c.result = res ||| 0x8000000000000000#64))) ∧
    (op = 4 → s.dev.exactFind t key = none → (s.dev.exactSlots t key).find? (fun a => !s.dev.slotValid a) = none → Answers (.clsUpdDone p e) s (fun d =>
      Claims.Reports p e 1 [] s.dev d ∧ tabFind (8 * e.val + p.val) d.pkt.updPend = none)) ∧
    (op = 5 → ∀ a, s.dev.exactFind t key = some a → Answers (.clsUpdDone p e) s (fun d => d.reg .clsUpdStat (8 * e.val + p.val) = 0 ∧ d.slotValid a = false ∧
      (∀ b, b < a + 32 ∨ a + 40 ≤ b → d.byte b = s.dev.byte b) ∧ (∀ isl ∈ [2, 3, 4, 5], ∀ c ∈ d.cache isl p.val, ¬ (c.table = t ∧ c.key = key)))) ∧
    (op = 6 → ∀ a, s.dev.exactFind t key = some a → Answers (.clsUpdDone p e) s (fun d => Claims.Reports p e 0 [.clsUpdData] s.dev d ∧
      leAt (d.updData e.val p.val) 160 8 = ofLe (s.dev.read (a + 32) 8))) ∧
    (op = 5 ∨ op = 6 → s.dev.exactFind t key = none → Answers (.clsUpdDone p e) s (fun d => Claims.Reports p e 2 [] s.dev d ∧
      tabFind (8 * e.val + p.val) d.pkt.updPend = none)) := by
  have hgone : tabFind (8 * e.val + p.val) (s.dev.updTaken e.val p.val).pkt.updPend = none := tabFind_del_same _ _
  refine ⟨fun hop a ha => ?_, fun hop hnone hfull => ?_, fun hop a ha => ?_, fun hop a ha => ?_, fun hop hnone => ?_⟩
  · subst hop
    refine clsUpdDone_answers p e hp hpend (exactFinish_insert (s.dev.updTaken e.val p.val) p e t key res hchk ha) ?_
    rw [wsetBit_valid]
    refine ⟨Dev.reg_setReg_same _ _ _ _, ?_, (mem_updDone _ _ _ _).trans ((cacheUpdate_mem _ _ _ _ _).trans (mem_write_updTaken _ _ _ _ _)), fun isl hisl c hc ht hk => ?_⟩
    · rw [pkt_updDone, cacheUpdate_updPend]
      exact hgone
    · unfold Dev.cache at hc
      rw [pkt_updDone] at hc
      exact (Option.some.inj (mem_cacheUpdate _ _ _ _ _ hisl hc ht hk)).symm
  · subst hop
    exact clsUpdDone_answers p e hp hpend (exactFinish_full (s.dev.updTaken e.val p.val) p e t key res hchk hnone hfull)
      ⟨reports_updDone _ _ _ _ (Keeps.refl _ _), by rw [pkt_updDone]; exact hgone⟩
  · subst hop
    refine clsUpdDone_answers p e hp hpend (exactFinish_delete (s.dev.updTaken e.val p.val) p e t key res hchk ha) ?_
    generalize BitVec.ofNat 64 (ofLe ((s.dev.updTaken e.val p.val).read (a + 32) 8)) = w
    have hmem := cacheUpdate_mem ((s.dev.updTaken e.val p.val).write (a + 32) (leBytes 8 (wsetBit w 63 false).toNat)) p.val t key none
    refine ⟨Dev.reg_setReg_same _ _ _ _, ?_, fun b hb => ?_, fun isl hisl c hc => ?_⟩
    · exact (congrArg (fun m => nbit (ofLe (memBytes m (a + 32) 8)) 63) hmem).trans (not_slotValid_write _ _ _)
    · exact (congrArg (fun m => tabGet m 0 b) hmem).trans (Dev.byte_write_outside _ (by rw [leBytes_length]; omega))
    · unfold Dev.cache at hc
      rw [pkt_updDone] at hc
      rintro ⟨ht, hk⟩
      exact nomatch mem_cacheUpdate _ _ _ _ _ hisl hc ht hk
  · subst hop
    refine clsUpdDone_answers p e hp hpend (exactFinish_read (s.dev.updTaken e.val p.val) p e t key res hchk ha)
      ⟨reports_updDone _ _ _ _ (keeps_setUpdData _ _ _ _ _), ?_⟩
    rw [updData_updDone]
    exact leAt_updData_result _ _ _ _ (by simp [Dev.read, memBytes])
  · exact clsUpdDone_answers p e hp hpend (exactFinish_notFound (s.dev.updTaken e.val p.val) p e t key res hchk hop hnone)
      ⟨reports_updDone _ _ _ _ (Keeps.refl _ _), by rw [pkt_updDone]; exact hgone⟩


/-- Settles O33: each operation by its check, and what it writes by the place that an update block, a rule, a context or a table entry has. -/
theorem classifierUpdatesActForTheirPartition : Obligations.ClassifierUpdatesActForTheirPartition := by
  refine ⟨fun p e i t s k n b hp hk hn hdata => ?_, exactOperation_ends⟩
  · subst hk hn
    refine ⟨fun hb c hc => ?_, fun hb => ⟨rule_denied p e i hp hb, exact_denied p e t hp hb, ctx_denied p e i hp hb, fun hg => ⟨fun hact => ?_, fun hact => ?_, ?_, ?_⟩,
      fun hx hok x hmem => ?_, fun hi hg => ⟨fun htyp => ?_, ?_⟩⟩⟩
    · obtain ⟨f, hf⟩ := clsUpdates_run hc s
      exact answers_of_eq (clsUpd_busy hf hp hb) ⟨Dev.rb_setRb_same _ _ _ _ _ (by decide), fun b hb4 => Dev.rb_setRb_ne _ _ _ _ _ _ hb4, by simp, rfl⟩
    · subst hdata
      exact clsUpd_refused p e hp hb (rfl : execRuleWrite p e i s = _) ((if_neg (by simp [Dev.ruleOk, hg])).trans (if_pos (by simp [hact])))
    · exact answers_of_eq (ruleWrite_answers p e i hp hb hg b hdata hact) (ruleSet_shows p e i _)
    · exact answers_of_eq (ruleDisable_answers p e i hp hb hg) (ruleSet_shows p e i _)
    · refine answers_of_eq (ruleRead_answers p e i hp hb hg) ⟨reports_updDone _ _ _ _ (keeps_setUpdData _ _ _ _ _), (pkt_updDone _ _ _ _).trans (pkt_setUpdData _ _ _ _ _), ?_⟩
      rw [updData_updDone, updData_setUpdData _ _ _ _ (ruleBytes_length _ _)]
      exact ruleBytes_fields _ _
    · simp only [List.mem_cons, List.not_mem_nil, or_false] at hmem
      rcases hmem with rfl | rfl | rfl
      · exact exactStart_answers p e t hp hb hx hok (c := .exactInsert p e t) (op := 4) (rfl : execExactInsert p e t s = _) b hdata
      · exact exactStart_answers p e t hp hb hx hok (c := .exactDelete p e t) (op := 5) (rfl : execExactDelete p e t s = _) b hdata
      · exact exactStart_answers p e t hp hb hx hok (c := .exactRead p e t) (op := 6) (rfl : execExactRead p e t s = _) b hdata
    · obtain ⟨hrep, hctx, hothers⟩ := ctxSet_shows p e i (s := s) { type := leAt b 0 1, seq := BitVec.ofNat 32 (leAt b 4 4), sync := nbit (leAt b 3 1) 0, digests := BitVec.ofNat 2 (leAt b 1 1), table := leAt b 8 8 % 2 ^ 48, tableLog := leAt b 2 1 }
      exact answers_of_eq (ctxWrite_answers p e i hp hb hi hg b hdata (by omega)) ⟨hrep, by rw [hctx], by rw [hctx], by rw [hctx]; rfl,
        by rw [hctx], hothers⟩
    · subst hdata
      obtain ⟨hrep, hctx, hothers⟩ := ctxSet_shows p e i (s := s) { s.dev.offCtx e.val i.toNat with seq := BitVec.ofNat 32 (leAt (s.dev.updData e.val p.val) 4 4), resync := true, raw := [] }
      exact answers_of_eq (ctxResync_answers p e i hp hb hi hg) ⟨hrep, by rw [hctx], by rw [hctx], by rw [hctx],
        by rw [hctx], hothers⟩

end Sys2Proof.Machine
end

section
/-! PROOFS. Temperature sensors, thermal faults, the governor and the SMBus slave (R490, R493 to R495). -/
namespace Sys2Proof.Machine
open Sys2Proof

/-! ## Folds over places of their own -/

/-- Each place of a list is worked on once: what its step makes of it lasts, where no other step touches it. -/
theorem foldl_each {α β : Type} {f : β → α → β} {pre post : α → β → Prop} (hstep : ∀ b a, pre a b → post a (f b a))
    (hpre : ∀ b a c, c ≠ a → pre a b → pre a (f b c)) (hpost : ∀ b a c, c ≠ a → post a b → post a (f b c)) (l : List α) (hl : l.Nodup) (b : β)
    (h : ∀ a ∈ l, pre a b) : ∀ a ∈ l, post a (l.foldl f b) := by
  induction l generalizing b with
  | nil => exact fun _ ha => absurd ha List.not_mem_nil
  | cons c l ih =>
    obtain ⟨hc, hl⟩ := List.nodup_cons.1 hl
    have hne : ∀ a ∈ l, c ≠ a := fun a ha he => hc (he ▸ ha)
    intro a ha
    rcases List.mem_cons.1 ha with rfl | ha
    · have hkeep : ∀ (l : List α) (b : β), (∀ x ∈ l, x ≠ a) → post a b → post a (l.foldl f b) := fun l => by
        induction l with
        | nil => exact fun _ _ hb => hb
        | cons x l ihl => exact fun b hx hb => ihl _ (fun y hy => hx y (.tail _ hy)) (hpost _ _ _ (hx x (.head _)) hb)
      exact hkeep l _ (fun x hx => (hne x hx).symm) (hstep _ _ (h a (.head _)))
    · exact ih hl _ (fun x hx => hpre _ _ _ (hne x hx) (h x (.tail _ hx))) a ha

/-! ## The hottest reading (R493) -/

/-- There is no valid reading, or the hottest one is the greatest of the valid ones. -/
theorem hottest_spec (vs : List Sensor) :
    (hottest vs = none ∧ ∀ v ∈ vs, sensorOk v = false) ∨
    ∃ q, hottest vs = some q ∧ some q ∈ vs ∧ sensorOk (some q) = true ∧ ∀ u, some u ∈ vs → sensorOk (some u) = true → u ≤ q := by
  induction vs using List.reverseRecOn with
  | nil => exact .inl ⟨rfl, fun _ h => absurd h List.not_mem_nil⟩
  | append_singleton vs v ih =>
    have hlast : hottest (vs ++ [v]) = if sensorOk v then (match hottest vs with | some m => some (max m (v.getD m)) | none => v) else hottest vs := by
      unfold hottest
      rw [List.foldl_append]
      rfl
    rw [hlast]
    cases hv : sensorOk v with
    | false =>
      rw [if_neg Bool.false_ne_true]
      rcases ih with ⟨hn, hall⟩ | ⟨q, hq, hmem, hok, hmax⟩
      · refine .inl ⟨hn, fun w hw => ?_⟩
        rcases List.mem_append.1 hw with hw | hw
        · exact hall w hw
        · rw [List.mem_singleton.1 hw, hv]
      · refine .inr ⟨q, hq, List.mem_append_left _ hmem, hok, fun u hu huok => ?_⟩
        rcases List.mem_append.1 hu with hu | hu
        · exact hmax u hu huok
        · rw [List.mem_singleton.1 hu, hv] at huok
          exact absurd huok Bool.false_ne_true
    | true =>
      rw [if_pos rfl]
      obtain ⟨x, rfl⟩ : ∃ x, v = some x := by
        cases v with
        | none => exact absurd hv Bool.false_ne_true
        | some x => exact ⟨x, rfl⟩
      rcases ih with ⟨hn, hall⟩ | ⟨q, hq, hmem, hok, hmax⟩
      · rw [hn]
        refine .inr ⟨x, rfl, by simp, hv, fun u hu huok => ?_⟩
        rcases List.mem_append.1 hu with hu | hu
        · rw [hall _ hu] at huok
          exact absurd huok Bool.false_ne_true
        · exact (Option.some.inj (List.mem_singleton.1 hu)).le
      · rw [hq]
        refine .inr ⟨max q x, rfl, ?_, ?_, fun u hu huok => ?_⟩
        · rcases max_choice q x with h | h
          · rw [h]; exact List.mem_append_left _ hmem
          · rw [h]; simp
        · rcases max_choice q x with h | h <;> rw [h] <;> assumption
        · rcases List.mem_append.1 hu with hu | hu
          · exact (hmax u hu huok).trans (le_max_left _ _)
          · exact (Option.some.inj (List.mem_singleton.1 hu)).le.trans (le_max_right _ _)

theorem hottest_isSome (vs : List Sensor) : (hottest vs).isSome = true ↔ ∃ v ∈ vs, sensorOk v = true := by
  rcases hottest_spec vs with ⟨hn, hall⟩ | ⟨q, hq, hmem, hok, _⟩
  · rw [hn]
    simp only [Option.isSome_none, Bool.false_eq_true, false_iff, not_exists, not_and]
    exact fun v hv => by rw [hall v hv]; exact Bool.false_ne_true
  · rw [hq]
    exact ⟨fun _ => ⟨_, hmem, hok⟩, fun _ => rfl⟩

theorem hottest_eq {vs : List Sensor} {q : Int} (hmem : some q ∈ vs) (hok : sensorOk (some q) = true) (hmax : ∀ u, some u ∈ vs → sensorOk (some u) = true → u ≤ q) :
    hottest vs = some q := by
  rcases hottest_spec vs with ⟨_, hall⟩ | ⟨x, hx, hxmem, hxok, hxmax⟩
  · rw [hall _ hmem] at hok
    exact absurd hok Bool.false_ne_true
  · rw [hx, le_antisymm (hmax x hxmem hxok) (hxmax q hmem hok)]

theorem mem_islReadings {readings : List Sensor} {i : Nat} {v : Sensor} : v ∈ Claims.islReadings readings i ↔ ∃ j < 4, readings.getD (4 * i + j) none = v := by
  simp [Claims.islReadings]

/-! ## The sensors' registers (R493) -/

section
variable (d : Dev) (n : Nat) (v : Sensor)

theorem sensorShow_rest : Keeps [.thermSens] d (d.sensorShow n v) ∧ (d.sensorShow n v).time = d.time ∧ (d.sensorShow n v).boot = d.boot ∧
    (d.sensorShow n v).flt = d.flt := by
  unfold Dev.sensorShow
  cases v
  · exact ⟨by simp, rfl, rfl, rfl⟩
  · exact ⟨by simp, rfl, rfl, rfl⟩

theorem sensorShow_other {k : Nat} (h : k ≠ n) : (d.sensorShow n v).reg .thermSens k = d.reg .thermSens k := by
  unfold Dev.sensorShow
  cases v
  · exact Dev.reg_setRb_ne _ _ _ (.inr h)
  · exact (Dev.reg_setRb_ne _ _ _ (.inr h)).trans (Dev.reg_setRf_ne _ _ _ _ (.inr h))

theorem sensorShow_shows : (d.sensorShow n v).rb .thermSens n 15 = sensorOk v ∧ ∀ q, v = some q → (d.sensorShow n v).rf .thermSens n 0 12 = (q % 4096).toNat := by
  unfold Dev.sensorShow
  refine ⟨Dev.rb_setRb_same _ _ _ _ _ (by decide), ?_⟩
  rintro q rfl
  dsimp only
  rw [Dev.rf_setRb_ne _ _ _ _ _ _ _ (.inr (by decide)), Dev.rf_setRf_of_lt _ (by decide) (BitVec.isLt _), BitVec.toNat_ofInt]
  rfl

end

/-- The sensors of a list show their readings. -/
def Dev.sensorsShow (d : Dev) (l : List Nat) (v : Nat → Sensor) : Dev := l.foldl (fun d n => d.sensorShow n (v n)) d

section
variable (d : Dev) (l : List Nat) (v : Nat → Sensor)

theorem sensorsShow_rest : Keeps [.thermSens] d (d.sensorsShow l v) ∧ (d.sensorsShow l v).time = d.time ∧ (d.sensorsShow l v).boot = d.boot ∧
    (d.sensorsShow l v).flt = d.flt :=
  foldl_related (R := fun a b : Dev => Keeps [.thermSens] a b ∧ b.time = a.time ∧ b.boot = a.boot ∧ b.flt = a.flt) (f := fun d n => d.sensorShow n (v n))
    (fun _ => ⟨Keeps.refl _ _, rfl, rfl, rfl⟩)
    (fun ⟨h1, h2, h3, h4⟩ ⟨k1, k2, k3, k4⟩ => ⟨h1.trans k1, k2.trans h2, k3.trans h3, k4.trans h4⟩) (fun d n => sensorShow_rest d n (v n)) l d

/-- A sensor's register after its conversion. -/
def SensorShows (v : Nat → Sensor) (n : Nat) (e : Dev) : Prop :=
  e.rb .thermSens n 15 = sensorOk (v n) ∧ ∀ q, v n = some q → e.rf .thermSens n 0 12 = (q % 4096).toNat

theorem sensorShows_other {n k : Nat} (h : k ≠ n) (hs : SensorShows v n d) : SensorShows v n (d.sensorShow k (v k)) := by
  unfold SensorShows Dev.rb Dev.rf at hs ⊢
  rwa [sensorShow_other d k (v k) h.symm]

theorem sensorsShow_shows (hl : l.Nodup) : ∀ n ∈ l, SensorShows v n (d.sensorsShow l v) := by
  have h1 : ∀ (b : Dev) (n : Nat), True → SensorShows v n (b.sensorShow n (v n)) := fun b n _ => sensorShow_shows b n (v n)
  have h2 : ∀ (b : Dev) (n k : Nat), k ≠ n → SensorShows v n b → SensorShows v n (b.sensorShow k (v k)) := fun b n k hk hb => sensorShows_other b v hk hb
  have h3 : ∀ (b : Dev) (n k : Nat), k ≠ n → True → True := fun _ _ _ _ _ => trivial
  exact foldl_each (α := Nat) (β := Dev) (f := fun d n => d.sensorShow n (v n)) (pre := fun _ _ => True) (post := fun n d => SensorShows v n d) h1 h3 h2 l hl d (fun _ _ => trivial)
end

/-! ## An island's temperature (R493, R494) -/

/-- THERM_HOT of an island whose hottest valid reading is given. -/
def heatValue : Sensor → Word
  | some q => BitVec.ofNat 64 ((BitVec.ofInt 12 q).toNat + 2 ^ 15)
  | none => 0

/-- The hottest valid reading lies above a limit in whole degrees. -/
def heatAbove (hot : Sensor) (t : Int) : Bool :=
  match hot with
  | some q => decide (4 * t < q)
  | none => false

/-- It lies at or below a limit. -/
def heatBelow (hot : Sensor) (t : Int) : Bool :=
  match hot with
  | some q => decide (q ≤ 4 * t)
  | none => false

theorem heatAbove_iff (readings : List Sensor) (i : Nat) (t : Int) : heatAbove (hottest (Claims.islReadings readings i)) t = true ↔ Claims.Above readings i t := by
  unfold Claims.Above heatAbove
  cases hottest (Claims.islReadings readings i) <;> simp

theorem heatValue_fields (hot : Sensor) : wbit (heatValue hot) 15 = hot.isSome ∧ ∀ q, hot = some q → wf (heatValue hot) 0 12 = (q % 4096).toNat := by
  cases hot with
  | none => exact ⟨by decide, fun _ h => nomatch h⟩
  | some q =>
    have hlt : (BitVec.ofInt 12 q).toNat < 2 ^ 12 := BitVec.isLt _
    have hval : (heatValue (some q)).toNat = 2 ^ 15 + (BitVec.ofInt 12 q).toNat := (toNat_ofNat64 (by omega)).trans (Nat.add_comm _ _)
    constructor
    · unfold wbit BitVec.getLsbD
      rw [hval, Nat.testBit_two_pow_add_eq, Nat.testBit_lt_two_pow (hlt.trans (by decide))]
      rfl
    · rintro u ⟨⟩
      have hq : (BitVec.ofInt 12 q).toNat = (q % 4096).toNat := BitVec.toNat_ofInt _
      rw [wf_eq_mod, hval, ← hq]
      omega

/-- What a conversion notes of an island: since when it has been too hot, and what has been raised. -/
def heatNoted (boot : Boot) (tick i : Nat) (hot : Sensor) (warn gov crit : Int) : Boot :=
  let above := heatAbove hot
  let bit : BitVec 8 := 1#8 <<< i
  let cold := heatBelow hot (warn - 5)
  let hotRaised := if above warn then boot.hotRaised ||| bit else if cold then boot.hotRaised &&& ~~~ bit else boot.hotRaised
  let bad := above crit || hot.isNone
  { boot with
    hotRaised := hotRaised, critSince := sinceIf boot.critSince i tick bad, govSince := sinceIf boot.govSince i tick (above gov)
    critRaised := if bad then boot.critRaised else boot.critRaised &&& ~~~ bit }

/-- The island's warning is raised where it has just risen. -/
def Dev.heatWarned (d : Dev) (i : Nat) (rises : Bool) : Dev := if rises then d.raiseFree (136 + i) i none else d

/-- The island's warning bit, its notice, and what is noted. -/
def Dev.heatWith (d : Dev) (i : Nat) (hot : Sensor) (warn gov crit : Int) : Dev :=
  let e := (d.setRb .thermStat 0 (i + 1) (heatAbove hot warn)).heatWarned i (heatAbove hot warn && !d.boot.hotRaised.getLsbD i)
  { e with boot := heatNoted e.boot e.time.tick i hot warn gov crit }

section
variable (d : Dev) (i : Nat) (vs : List Sensor)

theorem islandHeat_eq : d.islandHeat i vs =
    (d.setReg .thermHot i (heatValue (hottest vs))).heatWith i (hottest vs) (d.rf .thermCfg 0 0 8) (d.rf .thermCfg 0 8 8) (d.rf .thermCfg 0 16 8) := by
  have hcfg : ∀ lo w, d.rf .thermCfg 0 lo w = (d.setReg .thermHot i (heatValue (hottest vs))).rf .thermCfg 0 lo w := fun _ _ =>
    (Dev.rf_setReg_other _ _ _ _ (.inl (by decide))).symm
  rw [hcfg 0 8, hcfg 8 8, hcfg 16 8]
  unfold Dev.islandHeat
  cases hottest vs with
  | none => rfl
  | some q => rfl

theorem heatWarned_rest (b : Bool) : Keeps [] d (d.heatWarned i b) ∧ (d.heatWarned i b).time = d.time ∧ (d.heatWarned i b).boot = d.boot := by
  unfold Dev.heatWarned
  split
  · exact ⟨by simp, rfl, rfl⟩
  · exact ⟨Keeps.refl _ _, rfl, rfl⟩

/-- The island has just risen above the warning limit. -/
def Dev.rises (d : Dev) (i : Nat) (vs : List Sensor) : Bool := heatAbove (hottest vs) (d.rf .thermCfg 0 0 8) && !d.boot.hotRaised.getLsbD i

theorem islandHeat_rest : Keeps [.thermHot, .thermStat] d (d.islandHeat i vs) ∧ (d.islandHeat i vs).time = d.time := by
  rw [islandHeat_eq]
  unfold Dev.heatWith
  dsimp only
  refine ⟨?_, (heatWarned_rest _ _ _).2.1⟩
  simp only [keeps_boot]
  exact Keeps.trans (by simp) ((heatWarned_rest _ _ _).1.mono (by simp))

theorem islandHeat_hot (k : Nat) : (d.islandHeat i vs).reg .thermHot k = if k = i then heatValue (hottest vs) else d.reg .thermHot k := by
  rw [islandHeat_eq]
  refine ((heatWarned_rest _ _ _).1.reg (by simp) _).trans ((Dev.reg_setRb_ne _ _ _ (.inl (by decide))).trans ?_)
  rw [Dev.reg_setReg]
  exact if_congr (by simp) rfl rfl

/-- THERM_STAT's warning bit of the island. -/
theorem islandHeat_warn (hi : i < 63) : (d.islandHeat i vs).rb .thermStat 0 (i + 1) = heatAbove (hottest vs) (d.rf .thermCfg 0 0 8) := by
  rw [islandHeat_eq]
  exact ((heatWarned_rest _ _ _).1.rb (by simp) _ _).trans (Dev.rb_setRb_same _ _ _ _ _ (by omega))

theorem islandHeat_warn_ne {k : Nat} (h : k ≠ i + 1) : (d.islandHeat i vs).rb .thermStat 0 k = d.rb .thermStat 0 k := by
  rw [islandHeat_eq]
  exact ((heatWarned_rest _ _ _).1.rb (by simp) _ _).trans ((Dev.rb_setRb_ne _ _ _ _ _ _ h).trans (Dev.rb_setReg_other _ _ _ (.inl (by decide))))

/-- An island's conversion notes nothing of another island's warning. -/
theorem islandHeat_hotRaised {j : Nat} (h : j ≠ i) : (d.islandHeat i vs).boot.hotRaised.getLsbD j = d.boot.hotRaised.getLsbD j := by
  have hbit : (1#8 <<< i).getLsbD j = false := by
    rw [BitVec.getLsbD_shiftLeft]
    simp only [BitVec.getLsbD_one]
    simp
    omega
  have hnoted : ∀ (boot : Boot) tick hot w g c, (heatNoted boot tick i hot w g c).hotRaised.getLsbD j = boot.hotRaised.getLsbD j := fun boot tick hot w g c => by
    by_cases hj : j < 8
    · unfold heatNoted
      dsimp only
      split_ifs
      · rw [BitVec.getLsbD_or, hbit, Bool.or_false]
      · rw [BitVec.getLsbD_and, BitVec.getLsbD_not, hbit]
        simp [hj]
      · rfl
    · rw [BitVec.getLsbD_of_ge _ _ (by omega), BitVec.getLsbD_of_ge _ _ (by omega)]
  rw [islandHeat_eq]
  refine (hnoted _ _ _ _ _ _).trans ?_
  rw [(heatWarned_rest _ _ _).2.2]
  rfl

theorem islandHeat_quiet (h : d.rises i vs = false) : (d.islandHeat i vs).flt = d.flt := by
  have h' : (heatAbove (hottest vs) (d.rf .thermCfg 0 0 8) && !(d.setReg .thermHot i (heatValue (hottest vs))).boot.hotRaised.getLsbD i) = false := h
  rw [islandHeat_eq]
  unfold Dev.heatWith Dev.heatWarned
  dsimp only
  rw [h']
  rfl

theorem islandHeat_raises (h : d.rises i vs = true) : RaisesSome (136 + i) i none d (d.islandHeat i vs) := by
  have h' : (heatAbove (hottest vs) (d.rf .thermCfg 0 0 8) && !(d.setReg .thermHot i (heatValue (hottest vs))).boot.hotRaised.getLsbD i) = true := h
  rw [islandHeat_eq]
  unfold Dev.heatWith Dev.heatWarned
  dsimp only
  rw [h']
  exact ⟨_, rfl⟩

end

/-! ## All islands -/

/-- The islands of a list after a conversion. -/
def Dev.islandsHeat (d : Dev) (l : List Nat) (vs : Nat → List Sensor) : Dev := l.foldl (fun d i => d.islandHeat i (vs i)) d

section
variable (vs : Nat → List Sensor)

theorem islandsHeat_rest (d : Dev) (l : List Nat) : Keeps [.thermHot, .thermStat] d (d.islandsHeat l vs) ∧ (d.islandsHeat l vs).time = d.time :=
  foldl_related (R := fun a b : Dev => Keeps [.thermHot, .thermStat] a b ∧ b.time = a.time) (f := fun d i => d.islandHeat i (vs i)) (fun _ => ⟨Keeps.refl _ _, rfl⟩)
    (fun ⟨h1, h2⟩ ⟨k1, k2⟩ => ⟨h1.trans k1, k2.trans h2⟩) (fun d i => islandHeat_rest d i (vs i)) l d

/-- An island's registers after its conversion, under a warning limit. -/
def HeatShows (w : Nat) (i : Nat) (e : Dev) : Prop :=
  e.reg .thermHot i = heatValue (hottest (vs i)) ∧ (i < 63 → e.rb .thermStat 0 (i + 1) = heatAbove (hottest (vs i)) w)

theorem islandsHeat_shows (d : Dev) (l : List Nat) (hl : l.Nodup) : ∀ i ∈ l, HeatShows vs (d.rf .thermCfg 0 0 8) i (d.islandsHeat l vs) := by
  have hstep : ∀ (b : Dev) (i : Nat), b.rf .thermCfg 0 0 8 = d.rf .thermCfg 0 0 8 → HeatShows vs (d.rf .thermCfg 0 0 8) i (b.islandHeat i (vs i)) := fun b i hb =>
    ⟨(islandHeat_hot b i (vs i) i).trans (if_pos rfl), fun hi => hb ▸ islandHeat_warn b i (vs i) hi⟩
  have hcfg : ∀ (b : Dev) (i k : Nat), k ≠ i → b.rf .thermCfg 0 0 8 = d.rf .thermCfg 0 0 8 → (b.islandHeat k (vs k)).rf .thermCfg 0 0 8 = d.rf .thermCfg 0 0 8 :=
    fun b i k _ hb => ((islandHeat_rest b k (vs k)).1.rf (by decide) _ _ _).trans hb
  have hkeep : ∀ (b : Dev) (i k : Nat), k ≠ i → HeatShows vs (d.rf .thermCfg 0 0 8) i b → HeatShows vs (d.rf .thermCfg 0 0 8) i (b.islandHeat k (vs k)) :=
    fun b i k hk ⟨h1, h2⟩ => ⟨(islandHeat_hot b k (vs k) i).trans ((if_neg hk.symm).trans h1), fun hi => (islandHeat_warn_ne b k (vs k) (by omega)).trans (h2 hi)⟩
  exact foldl_each (α := Nat) (β := Dev) (f := fun d i => d.islandHeat i (vs i)) (pre := fun _ b => b.rf .thermCfg 0 0 8 = d.rf .thermCfg 0 0 8)
    (post := fun i b => HeatShows vs (d.rf .thermCfg 0 0 8) i b) hstep hcfg hkeep l hl d (fun _ _ => rfl)

/-- Another island's conversion does not make an island rise. -/
theorem rises_islandHeat (d : Dev) {i j : Nat} (h : j ≠ i) (us : List Sensor) : (d.islandHeat i us).rises j (vs j) = d.rises j (vs j) := by
  unfold Dev.rises
  rw [(islandHeat_rest d i us).1.rf (by decide), islandHeat_hotRaised d i us h]

/-- Where no island rises nothing is raised. -/
theorem islandsHeat_quiet (d : Dev) (l : List Nat) (hl : l.Nodup) (h : ∀ j ∈ l, d.rises j (vs j) = false) : (d.islandsHeat l vs).flt = d.flt := by
  induction l generalizing d with
  | nil => rfl
  | cons i l ih =>
    obtain ⟨hi, hl'⟩ := List.nodup_cons.1 hl
    refine (ih (d.islandHeat i (vs i)) hl' fun j hj => ?_).trans (islandHeat_quiet _ _ _ (h i (.head _)))
    have hji : j ≠ i := fun he => hi (he ▸ hj)
    rw [rises_islandHeat vs d hji]
    exact h j (.tail _ hj)

/-- The one island that rises raises its warning. -/
theorem islandsHeat_raises (d : Dev) (l : List Nat) (hl : l.Nodup) {i : Nat} (hi : i ∈ l) (hrise : d.rises i (vs i) = true)
    (h : ∀ j ∈ l, j ≠ i → d.rises j (vs j) = false) : RaisesSome (136 + i) i none d (d.islandsHeat l vs) := by
  induction l generalizing d with
  | nil => exact absurd hi List.not_mem_nil
  | cons k l ih =>
    obtain ⟨hk, hl'⟩ := List.nodup_cons.1 hl
    by_cases hik : i = k
    · subst hik
      obtain ⟨v, hv⟩ := islandHeat_raises d i (vs i) hrise
      refine ⟨v, (congrArg Flt.queue (islandsHeat_quiet vs _ l hl' fun j hj => ?_)).trans hv⟩
      have hji : j ≠ i := fun he => hk (he ▸ hj)
      rw [rises_islandHeat vs d hji]
      exact h j (.tail _ hj) hji
    · have hmem : i ∈ l := (List.mem_cons.1 hi).resolve_left hik
      obtain ⟨v, hv⟩ := ih (d.islandHeat k (vs k)) hl' hmem ((rises_islandHeat vs d hik (vs k)).trans hrise) fun j hj hji => by
        have hjk : j ≠ k := fun he => hk (he ▸ hj)
        rw [rises_islandHeat vs d hjk]
        exact h j (.tail _ hj) hji
      have hq : (d.islandHeat k (vs k)).flt = d.flt := islandHeat_quiet _ _ _ (h k (.head _) (Ne.symm hik))
      refine ⟨v, ?_⟩
      unfold Raises at hv ⊢
      rwa [hq, (islandHeat_rest d k (vs k)).2] at hv

end

/-! ## The commands -/

/-- Every sensor's reading is shown. -/
def Dev.sensed (d : Dev) (readings : List Sensor) : Dev := d.sensorsShow (List.range 32) (fun n => readings.getD n none)

/-- Every island's temperature is shown, and acts. -/
def Dev.heated (d : Dev) (readings : List Sensor) : Dev := d.islandsHeat (List.range 8) (Claims.islReadings readings)

/-- Since when every island has been cool is noted (R495). -/
def Dev.coolNoted (d : Dev) : Dev := { d with boot := { d.boot with coolSince := if d.allCool then some (d.boot.coolSince.getD d.time.tick) else none } }

theorem coolNoted_keeps (d : Dev) {a : Dev} {rs : List Reg} (h : Keeps rs a d) : Keeps rs a d.coolNoted := h
theorem coolNoted_reg (d : Dev) (r : Reg) (k : Nat) : d.coolNoted.reg r k = d.reg r k := rfl
theorem coolNoted_rb (d : Dev) (r : Reg) (k i : Nat) : d.coolNoted.rb r k i = d.rb r k i := rfl
theorem coolNoted_flt (d : Dev) : d.coolNoted.flt = d.flt := rfl

/-- The device after a conversion. -/
def Dev.converted (d : Dev) (readings : List Sensor) : Dev := ((d.sensed readings).heated readings).coolNoted

theorem thermalSensorConvert_answers (s : State) (hp : s.dev.powered = true) (readings : List Sensor) :
    Answers (.thermalSensorConvert readings) s (fun d => d = s.dev.converted readings) :=
  answers_eventOn (rfl : execThermalSensorConvert readings s = _) hp rfl

section
variable (s : State) (isl : Fin 8) (t : Nat) (hp : s.dev.powered = true) (ht : tabFind isl.val s.dev.boot.critSince = some t)
include hp ht

theorem thermalCrit_raises (hr : s.dev.boot.critRaised.getLsbD isl.val = false) (hc : s.dev.rb .thermHot isl.val 15 = false ∨ t + 25000 ≤ s.dev.time.tick) :
    Answers (.thermalCrit isl) s (fun d => RaisesSome (144 + isl.val) isl.val none s.dev d ∧ d.boot.critRaised.getLsbD isl.val = true ∧ Keeps [] s.dev d) := by
  have hcond : ¬ (s.dev.boot.critRaised.getLsbD isl.val || (s.dev.rb .thermHot isl.val 15 && decide (s.dev.time.tick < t + 25000))) = true := by
    rw [hr, Bool.false_or]
    rcases hc with hc | hc <;> simp [hc]
  refine answers_eventOn (rfl : execThermalCrit isl s = _) hp ?_
  rw [ht]
  dsimp only
  rw [if_neg hcond]
  refine ⟨⟨_, rfl⟩, ?_, by simp⟩
  have hbit : (s.dev.boot.critRaised ||| (1#8 <<< isl.val)).getLsbD isl.val = true := by
    rw [BitVec.getLsbD_or, BitVec.getLsbD_shiftLeft]
    simp
  exact hbit

theorem thermalCrit_waits (hv : s.dev.rb .thermHot isl.val 15 = true) (hc : s.dev.time.tick < t + 25000) : Answers (.thermalCrit isl) s (fun d => d = s.dev) := by
  refine answers_eventOn (rfl : execThermalCrit isl s = _) hp ?_
  rw [ht]
  exact if_pos (by simp [hv, hc])

end

theorem governorEnter_enters (s : State) (hp : s.dev.powered = true) {i t : Nat} (hen : s.dev.rb .thermCfg 0 24 = true) (hoff : s.dev.rb .thermStat 0 0 = false)
    (hmem : (i, t) ∈ s.dev.boot.govSince) (hold : t + 250000 ≤ s.dev.time.tick) : Answers .governorEnter s (fun d =>
      d.rb .thermStat 0 0 = true ∧ d.rf .thermStat 0 16 16 = min 65535 (s.dev.rf .thermStat 0 16 16 + 1) ∧ Keeps [.thermStat] s.dev d) := by
  have hany : s.dev.boot.govSince.any (fun (e : Nat × Nat) => decide (e.2 + 250000 ≤ s.dev.time.tick)) = true := List.any_eq_true.2 ⟨(i, t), hmem, by simpa using hold⟩
  refine answers_eventOn (rfl : execGovernorEnter s = _) hp ?_
  rw [if_pos (by simp only [hen, hoff, hany]; decide)]
  refine ⟨?_, ?_, by simp⟩
  · unfold Dev.incRf
    rw [Dev.rb_setRf_ne _ _ _ _ _ _ _ (by decide) (.inl (by decide)), Dev.rb_setRb_same _ _ _ _ _ (by decide)]
  · rw [Dev.rf_incRf_same _ (by decide), Dev.rf_setRb_ne _ _ _ _ _ _ _ (.inl (by decide)), min_comm]
    rfl

/-- A command of the powered device that finds nothing to do leaves the device as it is, powered or not. -/
theorem answers_eventOn_same {c : Instr} {s : State} {f : Dev → Dev} (hc : exec c s = eventOn f s) (hf : f s.dev = s.dev) : Answers c s (fun d => d = s.dev) :=
  ⟨_, hc, rfl, by dsimp only; split; exacts [hf, rfl]⟩

theorem governorEnter_waits (s : State)
    (h : s.dev.rb .thermCfg 0 24 = false ∨ s.dev.rb .thermStat 0 0 = true ∨ (∀ e ∈ s.dev.boot.govSince, s.dev.time.tick < e.2 + 250000)) :
    Answers .governorEnter s (fun d => d = s.dev) := by
  refine answers_eventOn_same (rfl : execGovernorEnter s = _) (if_neg ?_)
  rcases h with h | h | h
  · simp [h]
  · simp [h]
  · have hany : s.dev.boot.govSince.any (fun (e : Nat × Nat) => decide (e.2 + 250000 ≤ s.dev.time.tick)) = false :=
      List.any_eq_false.2 fun e he => by simpa using h e he
    rw [hany, Bool.and_false]
    exact Bool.false_ne_true

theorem governorRelease_releases (s : State) (hp : s.dev.powered = true) (hon : s.dev.rb .thermStat 0 0 = true)
    (h : s.dev.rb .thermCfg 0 24 = false ∨ ∃ t, s.dev.boot.coolSince = some t ∧ t + 25000000 ≤ s.dev.time.tick) :
    Answers .governorRelease s (fun d => d.rb .thermStat 0 0 = false ∧ Keeps [.thermStat] s.dev d) := by
  have hcond : (s.dev.rb .thermStat 0 0 && (s.dev.boot.coolSince.any (fun t => decide (t + 25000000 ≤ s.dev.time.tick)) || !s.dev.rb .thermCfg 0 24)) = true := by
    rw [hon]
    rcases h with h | ⟨t, ht, hle⟩
    · rw [h, Bool.not_false, Bool.or_true, Bool.and_true]
    · have hany : s.dev.boot.coolSince.any (fun t => decide (t + 25000000 ≤ s.dev.time.tick)) = true := by
        rw [ht, Option.any_some]
        exact decide_eq_true hle
      rw [hany, Bool.true_or, Bool.and_true]
  refine answers_eventOn (rfl : execGovernorRelease s = _) hp ?_
  dsimp only
  rw [if_pos hcond]
  exact ⟨Dev.rb_setRb_same _ _ _ _ _ (by decide), by simp⟩

theorem governorRelease_waits (s : State) (hen : s.dev.rb .thermCfg 0 24 = true) (h : ∀ t, s.dev.boot.coolSince = some t → s.dev.time.tick < t + 25000000) :
    Answers .governorRelease s (fun d => d = s.dev) := by
  have hany : s.dev.boot.coolSince.any (fun t => decide (t + 25000000 ≤ s.dev.time.tick)) = false := by
    cases hc : s.dev.boot.coolSince with
    | none => rfl
    | some t =>
      rw [Option.any_some]
      exact decide_eq_false (not_le.2 (h t hc))
  refine answers_eventOn_same (rfl : execGovernorRelease s = _) (if_neg ?_)
  rw [hany, hen, Bool.not_true, Bool.or_false, Bool.and_false]
  exact Bool.false_ne_true

/-! ## The SMBus slave (R490) -/

theorem patch_append (h rest new : List Byte) (off : Nat) (hoff : h.length ≤ off) : patch (h ++ rest) off new = h ++ patch rest (off - h.length) new := by
  have hlen : (h ++ rest).length - off = rest.length - (off - h.length) := by rw [List.length_append]; omega
  have hdrop : ∀ k, List.drop (off + k) (h ++ rest) = List.drop (off - h.length + k) rest := fun k => by
    rw [List.drop_append, List.drop_of_length_le (by omega), List.nil_append]
    congr 1
    omega
  unfold patch
  dsimp only
  rw [hlen, hdrop, List.take_append, List.take_of_length_le hoff]
  simp only [List.append_assoc]

/-- A lifetime record begins with its mark, its version and its kind. -/
theorem lifeRecord_head (d : Dev) (kind seq : Nat) : ∃ flags rest, d.lifeRecord kind seq = [0x4C, 0x49, 0x46, 0x45, 1, BitVec.ofNat 8 kind, flags, 0] ++ rest := by
  unfold Dev.lifeRecord
  dsimp only
  simp only [List.append_assoc]
  exact ⟨_, _, patch_append _ _ _ _ (by simp)⟩

theorem leAt_leBytes (v : Nat) : leAt (leBytes 4 v) 0 4 = v % 2 ^ 32 := by
  have hs : slice (leBytes 4 v) 0 4 = leBytes 4 v := by simpa using slice_append [] (leBytes 4 v) [] rfl (leBytes_length 4 v)
  unfold leAt
  rw [hs, ofLe_leBytes]

theorem regAt_thermStat : regAt 0 (0x7200000 + 4 % 4096) = some (.thermStat, 0, 0) := by decide

theorem smbAnswer_shows (d : Dev) (r : SmbRead) : (r = .rstCause → leAt (d.smbAnswer r) 0 4 = (d.reg .cfgRstCause 0).toNat % 2 ^ 32) ∧
    (r = .therm 4 → leAt (d.smbAnswer r) 0 4 = (d.reg .thermStat 0).toNat % 2 ^ 32) ∧
    (r = .life → (d.smbAnswer r).take 4 = [0x4C, 0x49, 0x46, 0x45] ∧ leAt (d.smbAnswer r) 5 1 = 0) ∧ (r = .identify → d.smbAnswer r = d.identity) := by
  refine ⟨?_, ?_, ?_, ?_⟩
  · rintro rfl
    exact leAt_leBytes _
  · rintro rfl
    unfold Dev.smbAnswer
    dsimp only
    rw [regAt_thermStat]
    exact leAt_leBytes _
  · rintro rfl
    unfold Dev.smbAnswer
    dsimp only
    obtain ⟨flags, rest, h⟩ := lifeRecord_head d 0 (if d.life.vin then (d.reg .lifeSeq 0).toNat else match newestRecord d.kept with | some r => recordSeq r | none => 0)
    refine ⟨(congrArg (List.take 4) h).trans rfl, ?_⟩
    exact (congrArg (leAt · 5 1) h).trans rfl
  · rintro rfl
    rfl

/-! ## The conversion -/

section
variable (d : Dev) (readings : List Sensor)

theorem sensed_rest : Keeps [.thermSens] d (d.sensed readings) ∧ (d.sensed readings).time = d.time ∧ (d.sensed readings).boot = d.boot ∧ (d.sensed readings).flt = d.flt :=
  sensorsShow_rest _ _ _

theorem heated_rest : Keeps [.thermHot, .thermStat] d (d.heated readings) ∧ (d.heated readings).time = d.time := islandsHeat_rest _ _ _

theorem converted_keeps : Keeps [.thermSens, .thermHot, .thermStat] d (d.converted readings) :=
  coolNoted_keeps _ (((sensed_rest d readings).1.mono (by simp)).trans ((heated_rest (d.sensed readings) readings).1.mono (by simp)))

theorem converted_sensor {n : Nat} (hn : n < 32) : (d.converted readings).rb .thermSens n 15 = sensorOk (readings.getD n none) ∧
    ∀ q, readings.getD n none = some q → (d.converted readings).rf .thermSens n 0 12 = (q % 4096).toNat := by
  have hs : SensorShows (fun n => readings.getD n none) n (d.sensed readings) := sensorsShow_shows d _ _ List.nodup_range n (List.mem_range.2 hn)
  have hreg : (d.converted readings).reg .thermSens n = (d.sensed readings).reg .thermSens n :=
    (coolNoted_reg _ _ _).trans ((heated_rest (d.sensed readings) readings).1.reg (by decide) n)
  unfold SensorShows Dev.rb Dev.rf at hs
  unfold Dev.rb Dev.rf
  rwa [hreg]

theorem converted_island {i : Nat} (hi : i < 8) : (d.converted readings).reg .thermHot i = heatValue (hottest (Claims.islReadings readings i)) ∧
    (d.converted readings).rb .thermStat 0 (i + 1) = heatAbove (hottest (Claims.islReadings readings i)) (d.rf .thermCfg 0 0 8) := by
  obtain ⟨h1, h2⟩ := islandsHeat_shows (Claims.islReadings readings) (d.sensed readings) (List.range 8) List.nodup_range i (List.mem_range.2 hi)
  have hcfg : (d.sensed readings).rf .thermCfg 0 0 8 = d.rf .thermCfg 0 0 8 := (sensed_rest d readings).1.rf (by decide) _ _ _
  rw [hcfg] at h2
  exact ⟨(coolNoted_reg _ _ _).trans h1, (coolNoted_rb _ _ _ _).trans (h2 (by omega))⟩

/-- An island rises where its hottest valid reading is above the warning limit and its warning is not out yet. -/
theorem rises_sensed (i : Nat) : (d.sensed readings).rises i (Claims.islReadings readings i) = true ↔
    Claims.Above readings i (d.rf .thermCfg 0 0 8) ∧ d.boot.hotRaised.getLsbD i = false := by
  obtain ⟨hk, _, hboot, _⟩ := sensed_rest d readings
  unfold Dev.rises
  rw [hk.rf (by decide), hboot, Bool.and_eq_true, heatAbove_iff, Bool.not_eq_true']

theorem rises_sensed_false (i : Nat) (h : ¬ (Claims.Above readings i (d.rf .thermCfg 0 0 8) ∧ d.boot.hotRaised.getLsbD i = false)) :
    (d.sensed readings).rises i (Claims.islReadings readings i) = false :=
  Bool.eq_false_iff.2 fun hr => h ((rises_sensed d readings i).1 hr)

theorem converted_raises {i : Nat} (hi : i < 8)
    (h : ∀ j < 8, (Claims.Above readings j (d.rf .thermCfg 0 0 8) ∧ d.boot.hotRaised.getLsbD j = false) ↔ j = i) : RaisesSome (136 + i) i none d (d.converted readings) := by
  obtain ⟨v, hv⟩ := islandsHeat_raises (Claims.islReadings readings) (d.sensed readings) (List.range 8) List.nodup_range (List.mem_range.2 hi)
    ((rises_sensed d readings i).2 ((h i hi).2 rfl)) fun j hj hji => rises_sensed_false d readings j fun hr => hji ((h j (List.mem_range.1 hj)).1 hr)
  obtain ⟨_, htime, _, hflt⟩ := sensed_rest d readings
  refine ⟨v, ?_⟩
  unfold Raises at hv ⊢
  rw [htime, hflt] at hv
  unfold Dev.converted
  rw [coolNoted_flt]
  exact hv

theorem converted_quiet (h : ∀ j < 8, Claims.Above readings j (d.rf .thermCfg 0 0 8) → d.boot.hotRaised.getLsbD j = true) : (d.converted readings).flt = d.flt := by
  refine (coolNoted_flt _).trans ((islandsHeat_quiet _ _ _ List.nodup_range fun j hj => rises_sensed_false d readings j fun ⟨ha, hr⟩ => ?_).trans (sensed_rest d readings).2.2.2)
  rw [h j (List.mem_range.1 hj) ha] at hr
  exact Bool.false_ne_true hr.symm

end

/-- Settles O55. -/
theorem temperaturesActOnTheDevice : Obligations.TemperaturesActOnTheDevice := by
  intro s
  refine ⟨fun readings hp => answers_of_eq (thermalSensorConvert_answers s hp readings) ?_, fun isl t hp ht => ⟨thermalCrit_raises s isl t hp ht, thermalCrit_waits s isl t hp ht⟩,
    fun i t hp hen hoff hmem hold => governorEnter_enters s hp hen hoff hmem hold, governorEnter_waits s,
    fun hp hon => ⟨governorRelease_releases s hp hon, governorRelease_waits s⟩,
    fun r => ⟨fun hv => answers_eventAny (rfl : execSmbusRead r s = _) (if_neg (by simp [hv])),
      fun hv => answers_eventAny (rfl : execSmbusRead r s = _) ⟨s.dev.smbAnswer r, if_pos hv, smbAnswer_shows s.dev r⟩⟩⟩
  obtain ⟨hregs, hmem, hthr⟩ := converted_keeps s.dev readings
  refine ⟨hmem, hthr, fun r k h1 h2 h3 => hregs r k (by simp [h1, h2, h3]), fun n hn => ?_, fun i hi => ?_, converted_quiet s.dev readings⟩
  · obtain ⟨hok, hval⟩ := converted_sensor s.dev readings hn
    exact ⟨hok, fun q hq _ => hval q hq⟩
  · obtain ⟨hhot, hwarn⟩ := converted_island s.dev readings hi
    obtain ⟨hvalid, hvalue⟩ := heatValue_fields (hottest (Claims.islReadings readings i))
    refine ⟨?_, fun j hj q hq hok hmax => ?_, ?_, converted_raises s.dev readings hi⟩
    · unfold Dev.rb
      rw [hhot, hvalid, hottest_isSome]
      simp only [mem_islReadings]
      exact ⟨fun ⟨v, ⟨j, hj, he⟩, hv⟩ => ⟨j, hj, he ▸ hv⟩, fun ⟨j, hj, hv⟩ => ⟨_, ⟨j, hj, rfl⟩, hv⟩⟩
    · unfold Dev.rf
      rw [hhot]
      refine hvalue q (hottest_eq (mem_islReadings.2 ⟨j, hj, hq⟩) hok fun u hu huok => ?_)
      obtain ⟨k, hk, hku⟩ := mem_islReadings.1 hu
      exact hmax k hk u hku huok
    · rw [hwarn, heatAbove_iff]

end Sys2Proof.Machine
end

section
/-! PROOFS. Register space: rights, access codes and refusals (R7, R8, R303, R501). -/
namespace Sys2Proof.Machine
open Sys2Proof

/-! ## Refusals -/

/-- A refused write changes no register and shows at the function that made it. -/
theorem refused_denyWrite (d : Dev) (who : Who) : Claims.Refused who d (d.denyWrite who) := by
  cases who with
  | fn h f =>
    refine ⟨(keeps_aer_iff ..).2 (Keeps.refl _ _), rfl, fun h' f' he => ?_⟩
    obtain ⟨rfl, rfl⟩ := Who.fn.inj he
    exact by rw [Dev.denyWrite, Dev.aer, Dev.updFn, Dev.fn_setFn_same]
  | _ => exact ⟨Keeps.refl _ _, rfl, nofun⟩

/-- A refused read is a refused write that is answered with Completer Abort and counted. -/
theorem denyRead_fn (d : Dev) (h : Fin 8) (f : Fin 9) :
    d.denyRead (.fn h f) = ((d.denyWrite (.fn h f)).emit (.completerAbort h.val f.val)).count (evHost h.val 8) := rfl

theorem refused_denyRead (d : Dev) (who : Who) : Claims.Refused who d (d.denyRead who) := by
  cases who with
  | fn h f =>
    obtain ⟨hk, hp, hf⟩ := refused_denyWrite d (.fn h f)
    rw [denyRead_fn]
    exact ⟨(keeps_count_iff ..).2 ((keeps_emit_iff ..).2 hk), hp, hf⟩
  | _ => exact ⟨Keeps.refl _ _, rfl, nofun⟩

/-! ## Rights -/

theorem mayRead_firmware (d : Dev) (r : Reg) (i : Nat) : d.mayRead .firmware r i = true := rfl

theorem mayRead_manager (d : Dev) (h : Fin 8) (f : Fin 9) (r : Reg) (i : Nat) (hf : f.val = 0) : d.mayRead (.fn h f) r i = true := by
  simp [Dev.mayRead, whoPart, hf]

theorem mayRead_part_iff (d : Dev) (h : Fin 8) (f : Fin 9) (r : Reg) (i p : Nat) (hf : f.val = p + 1) :
    d.mayRead (.fn h f) r i = true ↔ r ∈ timeRegs ∨ d.regOwner r i = some p := by
  simp [Dev.mayRead, whoPart, hf]

/-- No driver has a write access to the time block. -/
theorem mayWrite_timeRegs (d : Dev) (r : Reg) (i : Nat) (hr : r ∈ timeRegs) (who : Who) (hw : who ≠ .firmware) : d.mayWrite who r i = false := by
  cases who with
  | firmware => exact absurd rfl hw
  | debug => simp [Dev.mayWrite, hr]
  | fn h f =>
    unfold Dev.mayWrite
    dsimp only
    split
    case h_34 => rfl
    all_goals exact absurd hr (by decide)

/-! ## Registers without a rule of their own -/

/-- A register that software cannot write keeps its value. -/
theorem regEffect_readOnly (d : Dev) (isl off : Nat) (r : Reg) (i byte n v : Nat) (hr : r ∉ Claims.ownRule) (ha : r.info.acc = .ro ∨ r.info.acc = .rc) :
    d.regEffect isl off r i byte n v = d := by
  unfold Dev.regEffect
  dsimp only
  split
  case h_25 => rcases ha with ha | ha <;> rw [ha]
  all_goals exact absurd (by decide) hr

theorem regEffect_rw (d : Dev) (isl off : Nat) (r : Reg) (i byte n v : Nat) (hr : r ∉ Claims.ownRule) (ha : r.info.acc = .rw) :
    d.regEffect isl off r i byte n v = d.rwStore r i (setFld (d.reg r i).toNat (8 * byte) (8 * n) v) := by
  unfold Dev.regEffect
  dsimp only
  split
  case h_25 => rw [ha]
  all_goals exact absurd (by decide) hr

theorem rwStore_of_no_fields (d : Dev) (r : Reg) (i v : Nat) (hr : rwFields r = []) : d.rwStore r i v = d.setReg r i (BitVec.ofNat 64 (v &&& rwMask r)) := by
  rw [Dev.rwStore, hr, List.foldl_nil]

theorem rwMask_lt (r : Reg) (hr : r.info.bytes = 4) : rwMask r < 2 ^ 32 := by
  unfold rwMask
  split
  case h_25 => rw [hr]; decide
  case h_5 | h_18 | h_19 | h_21 | h_23 => exact absurd hr (by decide)
  all_goals decide

/-- Of the bits of a value, those below a bound that the mask keeps too count only. -/
theorem and_mask_low (v m n : Nat) (hm : m < 2 ^ n) : v &&& m = v % 2 ^ n &&& m := by
  apply Nat.eq_of_testBit_eq
  intro k
  by_cases hk : k < n
  · simp [Nat.testBit_mod_two_pow, hk]
  · simp [Nat.testBit_lt_two_pow (hm.trans_le (Nat.pow_le_pow_right (by decide) (Nat.le_of_not_lt hk)))]

/-- The low bits of a value whose low field is written. -/
theorem setFld_low (v w x : Nat) : setFld v 0 w x % 2 ^ w = x % 2 ^ w := by
  simpa [fld] using fld_setFld_same v 0 w x

/-- A register that a read clears shows its stored value. -/
theorem regNow_rc (d : Dev) (r : Reg) (i : Nat) (ha : r.info.acc = .rc) : d.regNow r i = d.reg r i := by
  unfold Dev.regNow
  split
  case h_14 => rw [if_neg (by rw [ha]; decide)]
  all_goals exact absurd ha (by decide)

/-! ## Words of register space -/

/-- A 4-byte read of a register that is no mailbox's, as its requester's right says. -/
theorem regWord_denied (d : Dev) (who : Who) (isl off : Nat) (whole : Bool) (r : Reg) (i byte : Nat) (hc : ctrAt isl off = none)
    (hr : regAt (blockIsl isl off) off = some (r, i, byte)) (hm : r ∉ mbxRegs) (hd : d.mayRead who r i = false) :
    d.regWord who isl off whole = (none, d.denyRead who) := by
  simp [Dev.regWord, hc, hr, hm, hd]

theorem regWord_rc (d : Dev) (who : Who) (isl off : Nat) (whole : Bool) (r : Reg) (i byte : Nat) (hc : ctrAt isl off = none)
    (hr : regAt (blockIsl isl off) off = some (r, i, byte)) (hm : r ∉ mbxRegs) (ha : r.info.acc = .rc) (hd : d.mayRead who r i = true) :
    d.regWord who isl off whole = (some (BitVec.ofNat 64 ((d.reg r i).toNat / 2 ^ (8 * byte) % 2 ^ 32)), d.setReg r i 0) := by
  have h1 : r ≠ .timeNow0 := by rintro rfl; exact absurd ha (by decide)
  have h2 : r ≠ .cntWinVal := by rintro rfl; exact absurd ha (by decide)
  simp [Dev.regWord, hc, hr, hm, hd, ha, h1, h2, regNow_rc]

theorem regWord_reserved (d : Dev) (who : Who) (isl off : Nat) (whole : Bool) (hc : ctrAt isl off = none) (hr : regAt (blockIsl isl off) off = none) :
    d.regWord who isl off whole = (some 0, d) := by
  simp [Dev.regWord, hc, hr]

theorem regPut_reserved (d : Dev) (who : Who) (isl off n v : Nat) (hc : ctrAt isl off = none) (hr : regAt (blockIsl isl off) off = none) :
    d.regPut who isl off n v = some d := by
  simp [Dev.regPut, hc, hr]

theorem regPut_denied (d : Dev) (who : Who) (isl off n v : Nat) (r : Reg) (i byte : Nat) (hr : regAt (blockIsl isl off) off = some (r, i, byte))
    (hm : r ∉ mbxRegs) (hd : d.mayWrite who r i = false) : d.regPut who isl off n v = none := by
  simp [Dev.regPut, hr, hm, hd]

theorem regPut_allowed (d : Dev) (who : Who) (isl off n v : Nat) (r : Reg) (i byte : Nat) (hr : regAt (blockIsl isl off) off = some (r, i, byte))
    (hm : r ∉ mbxRegs) (hd : d.mayWrite who r i = true) : d.regPut who isl off n v = some (d.regEffect (blockIsl isl off) off r i byte n v) := by
  simp [Dev.regPut, hr, hm, hd]

/-! ## The two commands -/

section
variable {s : State} {who : Who} {isl : Fin 8} {off : Nat} {v : Word} {p : Dev → Prop} (hp : s.dev.powered = true)
include hp

theorem registerWrite_misaligned (ho : off % 4 ≠ 0) (h : p (s.dev.denyWrite who)) : Answers (.registerWrite who isl off false v) s p := by
  refine answers_eventOn (rfl : execRegisterWrite who isl off false v s = _) hp ?_
  rwa [if_neg (by simp [aligned, ho])]

theorem registerReadClear_misaligned (ho : off % 4 ≠ 0) (h : p (s.dev.denyRead who)) : Answers (.registerReadClear who isl off) s p := by
  refine answers_eventOn (rfl : execRegisterReadClear who isl off s = _) hp ?_
  rwa [if_pos (by simp [aligned, ho])]

theorem registerWrite_denied (ho : off % 4 = 0) (he : s.dev.regPut who isl.val off 4 (v.toNat % 2 ^ 32) = none) (h : p (s.dev.denyWrite who)) :
    Answers (.registerWrite who isl off false v) s p := by
  refine answers_eventOn (rfl : execRegisterWrite who isl off false v s = _) hp ?_
  rw [if_pos (by simp [aligned, ho])]
  simp only [Dev.regWrite, Bool.not_false, if_true, he]
  exact h

theorem registerWrite_done (ho : off % 4 = 0) {e : Dev} (he : s.dev.regPut who isl.val off 4 (v.toNat % 2 ^ 32) = some e) (h : p e) :
    Answers (.registerWrite who isl off false v) s p := by
  refine answers_eventOn (rfl : execRegisterWrite who isl off false v s = _) hp ?_
  rw [if_pos (by simp [aligned, ho])]
  simp only [Dev.regWrite, Bool.not_false, if_true, he]
  exact h

theorem registerReadClear_denied (ho : off % 4 = 0) {e : Dev} (he : s.dev.regWord who isl.val off false = (none, e)) (h : p e) :
    Answers (.registerReadClear who isl off) s p := by
  refine answers_eventOn (rfl : execRegisterReadClear who isl off s = _) hp ?_
  rw [if_neg (by simp [aligned, ho])]
  simp only [Dev.regRead, Bool.not_false, if_true, he]
  exact h

theorem registerReadClear_answered (ho : off % 4 = 0) {e : Dev} {w : Word} (he : s.dev.regWord who isl.val off false = (some w, e))
    (h : p (e.emit (.readValue isl.val off w))) : Answers (.registerReadClear who isl off) s p := by
  refine answers_eventOn (rfl : execRegisterReadClear who isl off s = _) hp ?_
  rw [if_neg (by simp [aligned, ho])]
  simp only [Dev.regRead, Bool.not_false, if_true, he]
  exact h

end

/-- Settles O56. -/
theorem registersFollowTheirAccessCodes : Obligations.RegistersFollowTheirAccessCodes := by
  intro s who isl off hp
  refine ⟨fun v ho => ⟨registerWrite_misaligned hp ho (refused_denyWrite ..), registerReadClear_misaligned hp ho (refused_denyRead ..)⟩,
    fun ho hc hr => ⟨fun v => registerWrite_done hp ho (regPut_reserved _ _ _ _ _ _ hc hr) rfl,
      registerReadClear_answered hp ho (regWord_reserved _ _ _ _ _ hc hr) rfl⟩, ?_,
    fun r i => ⟨⟨rfl, rfl⟩, fun h f hf => mayRead_manager _ _ _ _ _ hf, fun h f p hf => mayRead_part_iff _ _ _ _ _ _ hf,
      fun hr who hw => mayWrite_timeRegs _ _ _ hr _ hw⟩⟩
  intro r i v ho hc hr hm hown hb
  refine ⟨?_, ?_, ?_, ?_, ?_⟩
  · rintro h f p rfl hf ht hno
    have hd : s.dev.mayRead (.fn h f) r i = false := by
      rw [Bool.eq_false_iff, Ne, mayRead_part_iff _ _ _ _ _ _ hf]
      tauto
    refine registerReadClear_denied hp ho (regWord_denied _ _ _ _ _ _ _ _ hc hr hm hd) ⟨refused_denyRead .., rfl, ?_⟩
    exact counts_count (counts_refl _) _
  · intro ha hd
    refine registerReadClear_answered hp ho (regWord_rc _ _ _ _ _ _ _ _ hc hr hm ha hd)
      ⟨Dev.reg_setReg_same .., (keeps_emit_iff ..).2 (keeps_setReg_of_mem (Keeps.refl _ _) (List.mem_singleton_self r)), fun j hj => Dev.reg_setReg_ne _ _ (.inr hj), ?_⟩
    rw [Nat.mul_zero, Nat.pow_zero, Nat.div_one]
    rfl
  · intro hd
    exact registerWrite_denied hp ho (regPut_denied _ _ _ _ _ _ _ _ _ hr hm hd) (refused_denyWrite ..)
  · intro hd ha
    refine registerWrite_done hp ho (regPut_allowed _ _ _ _ _ _ _ _ _ hr hm hd) ?_
    exact regEffect_readOnly _ _ _ _ _ _ _ _ hown ha
  · intro hd ha hf
    refine registerWrite_done hp ho (regPut_allowed _ _ _ _ _ _ _ _ _ hr hm hd) ?_
    rw [regEffect_rw _ _ _ _ _ _ _ _ hown ha, rwStore_of_no_fields _ _ _ _ hf]
    refine ⟨?_, keeps_setReg_of_mem (Keeps.refl _ _) (List.mem_singleton_self r), fun j hj => Dev.reg_setReg_ne _ _ (.inr hj)⟩
    have hl := rwMask_lt r hb
    rw [Dev.reg_setReg_same, and_mask_low _ _ 32 hl, setFld_low, Nat.mod_mod, BitVec.toNat_ofNat, Nat.mod_eq_of_lt]
    exact (Nat.and_le_right.trans_lt hl).trans (by decide)

end Sys2Proof.Machine
end

section
/-! PROOFS. Host functions: bus master enable, power states, interrupts and tags (R310 to R313, R317). -/
namespace Sys2Proof.Machine
open Sys2Proof

/-! ## Faces that are not shown -/

/-- No mailbox shows a face. -/
def FacesHidden (d : Dev) : Prop := ∀ m ∈ d.mbxList, d.faceAddr m = none

section
variable {rs : List Reg} {a b : Dev}

theorem mbxList_of_keeps (hk : Keeps rs a b) (hp : b.ptn = a.ptn) (hr : .mbxCfg ∉ rs) : b.mbxList = a.mbxList := by
  simp only [Dev.mbxList, Dev.mbxValid, hp, hk.rb hr]

theorem faceAddr_of_keeps (hk : Keeps rs a b) (h0 : .mbxFace0 ∉ rs) (h1 : .mbxFace1 ∉ rs) (m : Nat) : b.faceAddr m = a.faceAddr m := by
  simp only [Dev.faceAddr, hk.rb h1, hk.rf h0, hk.rf h1]

theorem facesHidden_of_keeps (hk : Keeps rs a b) (hp : b.ptn = a.ptn) (hr : .mbxCfg ∉ rs) (h0 : .mbxFace0 ∉ rs) (h1 : .mbxFace1 ∉ rs)
    (h : FacesHidden a) : FacesHidden b := by
  intro m hm
  rw [mbxList_of_keeps hk hp hr] at hm
  rw [faceAddr_of_keeps hk h0 h1, h m hm]

end

theorem showFaces_of_hidden {d : Dev} (h : FacesHidden d) : d.showFaces = d := by
  have hstep : ∀ l : List Nat, (∀ m ∈ l, d.faceAddr m = none) → l.foldl (fun d m => d.faceShow m) d = d := by
    intro l hl
    induction l with
    | nil => rfl
    | cons m ms ih =>
      rw [List.foldl_cons, Dev.faceShow, hl m List.mem_cons_self]
      exact ih fun x hx => hl x (List.mem_cons_of_mem _ hx)
  exact hstep _ h

/-! ## Functions that carry nothing -/

/-- The registers that say what a function carries. -/
def carryRegs : List Reg := [.mbxCfg, .mbxFace0, .mbxFace1, .slcState, .dmaChOwner, .dmaChMode, .dmaChPasid]

theorem fnQuiet_of_keeps {rs : List Reg} {a b : Dev} {h f : Nat} (hk : Keeps rs a b) (hp : b.ptn = a.ptn) (hd : b.dma = a.dma) (hr : ∀ r ∈ carryRegs, r ∉ rs)
    (hq : Claims.FnQuiet a h f) : Claims.FnQuiet b h f := by
  obtain ⟨hs, hc, hf⟩ := hq
  have hrf (r : Reg) (hm : r ∈ carryRegs) := hk.rf (hr r hm)
  have hrb (r : Reg) (hm : r ∈ carryRegs) := hk.rb (hr r hm)
  have hreg (r : Reg) (hm : r ∈ carryRegs) := hk.reg (hr r hm)
  refine ⟨?_, ?_, facesHidden_of_keeps hk hp (hr _ (by decide)) (hr _ (by decide)) (hr _ (by decide)) hf⟩
  · rw [← hs]
    simp only [Dev.fnSlices, Dev.slicesOf, Dev.slicePort, hp, hrf .slcState (by decide)]
  · rw [← hc]
    simp only [Dev.fnChans, Dev.chansOf, Dev.chanPart, Dev.chMode, Dev.chanSlice, Dev.sliceOfPasid, hp, hd, hrf .dmaChMode (by decide),
      hrb .dmaChPasid (by decide), hreg .dmaChPasid (by decide), hrb .dmaChOwner (by decide), hrf .dmaChOwner (by decide)]

/-! ## Fields beside a field that is set -/

section
variable (d : Dev) {r r' : Reg} {i i' lo w : Nat} (x : Nat)

theorem rb_setRf_beside {j : Nat} (h : lo + w ≤ 64) (hj : j < lo ∨ lo + w ≤ j) : (d.setRf r i lo w x).rb r' i' j = d.rb r' i' j := by
  by_cases he : r' = r ∧ i' = i
  · obtain ⟨rfl, rfl⟩ := he
    exact Dev.rb_setRf_ne _ _ _ _ _ _ _ h hj
  · exact Dev.rb_setRf_other _ _ _ _ _ (by tauto)

theorem rf_setRf_beside {lo' w' : Nat} (h : lo + w ≤ 64) (hj : lo' + w' ≤ lo ∨ lo + w ≤ lo') : (d.setRf r i lo w x).rf r' i' lo' w' = d.rf r' i' lo' w' := by
  by_cases he : r' = r ∧ i' = i
  · obtain ⟨rfl, rfl⟩ := he
    exact Dev.rf_setRf_ne _ _ _ _ _ _ _ _ h hj
  · exact Dev.rf_setRf_other _ _ _ _ _ _ (by tauto)

end

/-! ## Tags -/

section
variable (d : Dev) (h f : Nat)

theorem countTags_host : (d.countTags h f).host = d.host := by
  unfold Dev.countTags
  simp only [Dev.setRf_host]

theorem countTags_ptn : (d.countTags h f).ptn = d.ptn := by
  unfold Dev.countTags
  simp only [Dev.setRf_ptn]

theorem keeps_countTags : Keeps [.hostFnStat, .hostLinkStat] d (d.countTags h f) :=
  (keeps_countTags_iff (by decide) (by decide) _ _).2 (Keeps.refl _ _)

/-- The counts of tags leave the power state and the bus master enable. -/
theorem rb_countTags {h' f' i : Nat} (hi : 28 ≤ i) : (d.countTags h f).rb .hostFnStat (fnKey h' f') i = d.rb .hostFnStat (fnKey h' f') i := by
  rw [Dev.countTags, Dev.rb_setRf_other _ _ _ _ _ (.inl (by decide)), Dev.rb_setRf_other _ _ _ _ _ (.inl (by decide)),
    rb_setRf_beside _ _ (by decide) (.inr hi), rb_setRf_beside _ _ (by decide) (.inr (Nat.le_trans (by decide) hi))]

theorem rf_countTags {h' f' lo w : Nat} (hi : 28 ≤ lo) : (d.countTags h f).rf .hostFnStat (fnKey h' f') lo w = d.rf .hostFnStat (fnKey h' f') lo w := by
  rw [Dev.countTags, Dev.rf_setRf_other _ _ _ _ _ _ (.inl (by decide)), Dev.rf_setRf_other _ _ _ _ _ _ (.inl (by decide)),
    rf_setRf_beside _ _ (by decide) (.inr hi), rf_setRf_beside _ _ (by decide) (.inr (Nat.le_trans (by decide) hi))]

/-- A tag is taken off the requests that are out. -/
theorem dropTag_reqs {t : Nat} {r : HostReq} (ht : tabFind t d.host.reqs = some r) : (d.dropTag t).host.reqs = tabDel t d.host.reqs := by
  rw [Dev.dropTag, ht]
  rfl

end

theorem mem_of_tabFind {α : Type} {k : Nat} {x : α} {t : Tab α} (h : tabFind k t = some x) : (k, x) ∈ t := by
  induction t with
  | nil => cases h
  | cons e t ih =>
    obtain ⟨k', y⟩ := e
    by_cases hk : k = k'
    · rw [tabFind, if_pos hk] at h
      obtain rfl := Option.some.inj h
      exact hk ▸ List.mem_cons_self
    · rw [tabFind, if_neg hk] at h
      exact List.mem_cons_of_mem _ (ih h)

theorem discardReqs_ptn (d : Dev) (p : HostReq → Bool) : (d.discardReqs p).ptn = d.ptn := rfl
theorem discardReqs_regs (d : Dev) (p : HostReq → Bool) : (d.discardReqs p).regs = d.regs := rfl

/-- Of the requests discarded, those still out bring nothing back. -/
theorem discardReqs_discards {d : Dev} {p : HostReq → Bool} {t : Nat} {r : HostReq} (h : tabFind t (d.discardReqs p).host.reqs = some r)
    (hp : p r = true) : r.op = .discarded ∧ r.reply = none := by
  obtain ⟨e, he, her⟩ := List.mem_map.1 (mem_of_tabFind h)
  obtain ⟨-, hkeep⟩ := List.mem_filter.1 he
  split at her
  case isTrue hpe =>
    obtain rfl := (Prod.mk.inj her).2
    refine ⟨rfl, ?_⟩
    simpa [hpe] using hkeep
  case isFalse hpe =>
    obtain rfl := (Prod.mk.inj her).2
    exact absurd hp hpe

/-! ## Bus master enable and power states -/

section
variable {d : Dev} {h f : Nat}

theorem canIssue_iff : d.canIssue h f = true ↔ d.linkUp h = true ∧ d.bme h f = true ∧ d.d3 h f = false := by
  simp [Dev.canIssue, and_assoc]

theorem canIssue_of_bme (hb : d.bme h f = false) : d.canIssue h f = false := by simp [Dev.canIssue, hb]
theorem canIssue_of_d3 (hb : d.d3 h f = true) : d.canIssue h f = false := by simp [Dev.canIssue, hb]

/-- A function without slices, transfers and faces stops by discarding its requests. -/
theorem masterOff_of_quiet (hq : Claims.FnQuiet d h f) :
    d.masterOff h f = (d.discardReqs (fun r => r.h == h && r.f == f && !r.quarantined)).countTags h f := by
  obtain ⟨hs, hc, hf⟩ := hq
  have hstop : d.fnStop h f = d.discardReqs (fun r => r.h == h && r.f == f && !r.quarantined) := by
    simp only [Dev.fnStop, hs, hc, List.foldl_nil]
  have hk : Keeps [.hostFnStat, .hostLinkStat] d ((d.fnStop h f).countTags h f) := by
    rw [hstop]
    exact (keeps_countTags_iff (by decide) (by decide) _ _).2 ((keeps_discardReqs_iff _).2 (Keeps.refl _ _))
  have hp : ((d.fnStop h f).countTags h f).ptn = d.ptn := by rw [countTags_ptn, hstop, discardReqs_ptn]
  rw [Dev.masterOff, showFaces_of_hidden (facesHidden_of_keeps hk hp (by decide) (by decide) (by decide) hf), hstop]

/-- And it starts by sending the interrupts it held. -/
theorem masterOn_of_quiet (hq : Claims.FnQuiet d h f) (hw : d.dma.cqWait = []) : d.masterOn h f = (d.sendHeld h f).showFaces := by
  have hd : d.drainChannels = d := by
    simp only [Dev.drainChannels, hw, List.foldl_nil]
    rw [← hw]
  simp only [Dev.masterOn, hq.1, List.foldl_nil, hd]

theorem sendHeld_nil (hh : (d.fn h f).held = []) : d.sendHeld h f = d.updFn h f (fun x => { x with held := [] }) := by
  rw [Dev.sendHeld, hh, List.foldl_nil]

/-- An MSI-X message leaves. -/
def Dev.msixOut (d : Dev) (h f v : Nat) : Dev := ((d.emit (.msix h f v)).count (evHost h 14)).wakeLink h

/-- An interrupt of a function with MSI-X whose vector is unmasked leaves at once. -/
theorem interrupt_sends {v : Nat} (hm : (d.fn h f).msixEn = true) (hb : d.bme h f = true) (hf : (d.fn h f).fnMask = false) (hv : v ∈ (d.fn h f).unmasked) :
    d.interrupt h f v = d.msixOut h f v := by
  simp only [Dev.interrupt, Dev.msixOut, hm, hb, hf, List.contains_iff_mem.2 hv, if_true, Bool.not_true, Bool.false_or, Bool.false_eq_true, if_false]

theorem wakeLink_host : (d.wakeLink h).host = d.host := by
  unfold Dev.wakeLink
  split <;> rfl

theorem keeps_wakeLink : Keeps [.hostPortStat] d (d.wakeLink h) := (keeps_wakeLink_iff (by decide) _).2 (Keeps.refl _ _)

theorem msixOut_host (v : Nat) : (d.msixOut h f v).host = d.host := wakeLink_host

theorem msixOut_ptn (v : Nat) : (d.msixOut h f v).ptn = d.ptn := by
  unfold Dev.msixOut Dev.wakeLink
  split <;> rfl

theorem msixOut_outs (v : Nat) : (d.msixOut h f v).outs = .msix h f v :: d.outs := by
  unfold Dev.msixOut Dev.wakeLink
  split <;> rfl

theorem keeps_msixOut (v : Nat) : Keeps [.hostPortStat] d (d.msixOut h f v) := by
  simp [Dev.msixOut]

theorem linkUp_msixOut (v h' : Nat) : (d.msixOut h f v).linkUp h' = d.linkUp h' := by
  unfold Dev.msixOut Dev.wakeLink
  split
  · unfold Dev.linkUp
    by_cases hh : h' = h
    · rw [hh, Dev.rb_setRb_ne _ _ _ _ _ _ (by decide)]; rfl
    · rw [Dev.rb_setRb_other _ _ _ _ (.inr hh)]; rfl
  · rfl

end

section
variable {d : Dev} {h f : Nat}

theorem fn_setReg (r : Reg) (i : Nat) (v : Word) : (d.setReg r i v).fn h f = d.fn h f := by
  rw [Dev.fn, Dev.setReg_host, ← Dev.fn]

/-- What a stop of a quiet function leaves: its power state and bus master enable, and of its requests only discarded ones. -/
theorem masterOff_shows (hq : Claims.FnQuiet d h f) : (d.masterOff h f).bme h f = d.bme h f ∧ (d.masterOff h f).d3 h f = d.d3 h f ∧
    Keeps [.hostFnStat, .hostLinkStat] d (d.masterOff h f) ∧
    ∀ t r, tabFind t (d.masterOff h f).host.reqs = some r → r.h = h → r.f = f → r.quarantined = false → r.op = .discarded ∧ r.reply = none := by
  rw [masterOff_of_quiet hq]
  refine ⟨?_, ?_, (keeps_countTags_iff (by decide) (by decide) _ _).2 ((keeps_discardReqs_iff _).2 (Keeps.refl _ _)), fun t r ht hh hf hqr => ?_⟩
  · rw [Dev.bme, rb_countTags _ _ _ (by decide)]; rfl
  · rw [Dev.d3, rf_countTags _ _ _ (by decide)]; rfl
  · rw [countTags_host] at ht
    exact discardReqs_discards ht (by simp [hh, hf, hqr])

theorem fnQuiet_setFnStat (hq : Claims.FnQuiet d h f) (i : Nat) (v : Word) : Claims.FnQuiet (d.setReg .hostFnStat i v) h f :=
  fnQuiet_of_keeps (keeps_setReg d (List.mem_singleton_self _) i v) rfl rfl (by decide) hq

/-- A quiet function that starts issues again, and an interrupt it holds leaves. -/
theorem masterOn_shows (hq : Claims.FnQuiet d h f) (hw : d.dma.cqWait = []) (hl : d.linkUp h = true) (hb : d.bme h f = true) (hd : d.d3 h f = false) :
    ((d.fn h f).held = [] → (d.masterOn h f).canIssue h f = true ∧ (d.masterOn h f).host.reqs = d.host.reqs ∧ (d.masterOn h f).outs = d.outs ∧
      Keeps [] d (d.masterOn h f)) ∧
    (∀ v, (d.fn h f).held = [v] → (d.fn h f).msixEn = true → (d.fn h f).fnMask = false → v ∈ (d.fn h f).unmasked →
      (d.masterOn h f).canIssue h f = true ∧ ((d.masterOn h f).fn h f).held = [] ∧ (d.masterOn h f).outs = .msix h f v :: d.outs) := by
  rw [masterOn_of_quiet hq hw]
  obtain ⟨-, -, hf⟩ := hq
  refine ⟨fun hh => ?_, fun v hh hm hmask hv => ?_⟩
  · have hk : Keeps [] d (d.updFn h f (fun x => { x with held := [] })) := (keeps_updFn_iff ..).2 (Keeps.refl _ _)
    rw [sendHeld_nil hh, showFaces_of_hidden (facesHidden_of_keeps hk rfl (by decide) (by decide) (by decide) hf)]
    exact ⟨canIssue_iff.2 ⟨hl, hb, hd⟩, rfl, rfl, hk⟩
  · have hs : d.sendHeld h f = (d.updFn h f (fun x => { x with held := [] })).msixOut h f v := by
      rw [Dev.sendHeld, hh, List.foldl_cons, List.foldl_nil]
      refine interrupt_sends ?_ hb ?_ ?_ <;> rw [Dev.fn_updFn_same] <;> assumption
    have hk : Keeps [.hostPortStat] d ((d.updFn h f (fun x => { x with held := [] })).msixOut h f v) :=
      ((keeps_updFn_iff ..).2 (Keeps.refl _ _)).trans (keeps_msixOut v)
    rw [hs, showFaces_of_hidden (facesHidden_of_keeps hk (msixOut_ptn v) (by decide) (by decide) (by decide) hf)]
    refine ⟨canIssue_iff.2 ⟨?_, ?_, ?_⟩, ?_, msixOut_outs v⟩
    · rw [linkUp_msixOut]; exact hl
    · rw [Dev.bme, hk.rb (by decide)]; exact hb
    · rw [Dev.d3, hk.rf (by decide)]; exact hd
    · rw [Dev.fn, msixOut_host, ← Dev.fn, Dev.fn_updFn_same]

/-- The same after a write of its status register. -/
theorem masterOn_setFnStat (hq : Claims.FnQuiet d h f) (hw : d.dma.cqWait = []) (hl : d.linkUp h = true) {v : Word}
    (hb : (d.setReg .hostFnStat (fnKey h f) v).bme h f = true) (hd : (d.setReg .hostFnStat (fnKey h f) v).d3 h f = false) :
    ((d.fn h f).held = [] → ((d.setReg .hostFnStat (fnKey h f) v).masterOn h f).canIssue h f = true ∧
      ((d.setReg .hostFnStat (fnKey h f) v).masterOn h f).host.reqs = d.host.reqs ∧ ((d.setReg .hostFnStat (fnKey h f) v).masterOn h f).outs = d.outs ∧
      Keeps [.hostFnStat] d ((d.setReg .hostFnStat (fnKey h f) v).masterOn h f)) ∧
    (∀ v', (d.fn h f).held = [v'] → (d.fn h f).msixEn = true → (d.fn h f).fnMask = false → v' ∈ (d.fn h f).unmasked →
      ((d.setReg .hostFnStat (fnKey h f) v).masterOn h f).canIssue h f = true ∧ (((d.setReg .hostFnStat (fnKey h f) v).masterOn h f).fn h f).held = [] ∧
      ((d.setReg .hostFnStat (fnKey h f) v).masterOn h f).outs = .msix h f v' :: d.outs) := by
  have hl' : (d.setReg .hostFnStat (fnKey h f) v).linkUp h = true := (Dev.rb_setReg_other _ _ _ (.inl (by decide))).trans hl
  obtain ⟨h1, h2⟩ := masterOn_shows (fnQuiet_setFnStat hq (fnKey h f) v) (by rwa [Dev.setReg_dma]) hl' hb hd
  rw [fn_setReg, Dev.setReg_host, Dev.setReg_outs] at h1
  rw [fn_setReg, Dev.setReg_outs] at h2
  refine ⟨fun hh => ?_, h2⟩
  obtain ⟨g1, g2, g3, g4⟩ := h1 hh
  exact ⟨g1, g2, g3, (keeps_setReg _ (List.mem_singleton_self _) _ _).trans (g4.mono (by decide))⟩

end

/-! ## Interrupts on their way -/

section
variable {d : Dev} {h f : Nat}

theorem intxAny_false_iff : d.intxAny h f = false ↔ ∀ i < 64, d.reg .hostIntxPend (64 * fnKey h f + i) = 0 := by
  simp [Dev.intxAny]

theorem intxVectors_nil (hn : d.intxAny h f = false) : d.intxVectors h f = [] := by
  rw [intxAny_false_iff] at hn
  refine List.filter_eq_nil_iff.2 fun v hv => ?_
  have hv' : v / 32 < 64 := by have := List.mem_range.1 hv; omega
  rw [Dev.rb, hn _ hv']
  simp [wbit]

/-- A function with MSI-X or MSI sends its interrupts without HOST_INTX_PEND. -/
def Messages (d : Dev) (h f : Nat) : Prop := (d.fn h f).msixEn = true ∨ (d.fn h f).msiEn = true

/-- And they leave it as it is. -/
theorem interrupt_messages (v : Nat) (hm : Messages d h f) :
    Messages (d.interrupt h f v) h f ∧ ∀ k, (d.interrupt h f v).reg .hostIntxPend k = d.reg .hostIntxPend k := by
  have hset (x : HostFn) (h1 : x.msixEn = (d.fn h f).msixEn) (h2 : x.msiEn = (d.fn h f).msiEn) :
      Messages (d.setFn h f x) h f ∧ ∀ k, (d.setFn h f x).reg .hostIntxPend k = d.reg .hostIntxPend k :=
    ⟨by rw [Messages, Dev.fn_setFn_same, h1, h2]; exact hm, fun _ => rfl⟩
  have hsent (o : OutEv) : Messages (((d.emit o).count (evHost h 14)).wakeLink h) h f ∧
      ∀ k, (((d.emit o).count (evHost h 14)).wakeLink h).reg .hostIntxPend k = d.reg .hostIntxPend k :=
    ⟨by rw [Messages, Dev.fn, wakeLink_host]; exact hm, fun k => keeps_wakeLink.reg (by decide) k⟩
  unfold Dev.interrupt
  dsimp only
  split
  case isTrue hx =>
    split
    · exact hset _ rfl rfl
    · split
      · exact hset _ rfl rfl
      · exact hsent _
  case isFalse hx =>
    split
    case isTrue hi =>
      split
      · exact hset _ rfl rfl
      · split
        · exact hset _ rfl rfl
        · exact hsent _
    case isFalse hi => exact absurd hm (by simp [Messages, hx, hi])

theorem foldl_interrupt_messages (vs : List Nat) (hm : Messages d h f) : Messages (vs.foldl (fun d v => d.interrupt h f v) d) h f ∧
    ∀ k, (vs.foldl (fun d v => d.interrupt h f v) d).reg .hostIntxPend k = d.reg .hostIntxPend k := by
  induction vs generalizing d with
  | nil => exact ⟨hm, fun _ => rfl⟩
  | cons v vs ih =>
    obtain ⟨h1, h2⟩ := interrupt_messages v hm
    obtain ⟨h3, h4⟩ := ih h1
    exact ⟨h3, fun k => (h4 k).trans (h2 k)⟩

/-- Pending vectors are sent without HOST_INTX_PEND too. -/
theorem sendPending_intx (k : Nat) : (d.sendPending h f).reg .hostIntxPend k = d.reg .hostIntxPend k := by
  simp only [Dev.sendPending]
  split_ifs with h1 h2 h3
  case pos => rfl
  case neg => exact (foldl_interrupt_messages _ (.inl (by rw [Dev.fn_setFn_same]; exact h1))).2 k
  case pos => exact (foldl_interrupt_messages _ (.inr (by rw [Dev.fn_setFn_same]; exact h3))).2 k
  case neg => rfl

theorem withPba_nil (x : HostFn) (hx : x.pba = []) (q : Nat → Bool) : { x with pba := x.pba.filter q } = x := by
  cases x
  subst hx
  rfl

theorem withMsiPend_zero (x : HostFn) (hx : x.msiPend = 0) (m : W32) : { x with msiPend := x.msiPend &&& m } = x := by
  cases x
  subst hx
  simp

/-- With nothing pending nothing is sent. -/
theorem sendPending_idle (h1 : (d.fn h f).pba = []) (h2 : (d.fn h f).msixEn = true ∨ (d.fn h f).msiPend = 0) : (d.sendPending h f).fn h f = d.fn h f ∧
    (d.sendPending h f).outs = d.outs ∧ Keeps [] d (d.sendPending h f) := by
  have hset (x : HostFn) (hx : x = d.fn h f) : (d.setFn h f x).fn h f = d.fn h f ∧ (d.setFn h f x).outs = d.outs ∧ Keeps [] d (d.setFn h f x) :=
    ⟨by rw [Dev.fn_setFn_same, hx], rfl, (keeps_setFn_iff ..).2 (Keeps.refl _ _)⟩
  have hpba : (d.fn h f).pba.filter (fun v => (d.fn h f).unmasked.contains v) = [] := by rw [h1, List.filter_nil]
  unfold Dev.sendPending
  dsimp only
  rw [hpba, List.foldl_nil]
  split
  · split
    · exact ⟨rfl, rfl, Keeps.refl _ _⟩
    · exact hset _ (withPba_nil _ h1 _)
  case isFalse hx =>
    have h2 := h2.resolve_left hx
    have hmsi : (List.range 32).filter (fun m => ((d.fn h f).msiPend &&& ~~~ (d.fn h f).msiMask).getLsbD m) = [] :=
      List.filter_eq_nil_iff.2 fun m _ => by simp [h2]
    rw [hmsi, List.foldl_nil]
    split
    · exact hset _ (withMsiPend_zero _ h2 _)
    · exact ⟨rfl, rfl, Keeps.refl _ _⟩

/-- An unmasked vector that is alone pending is sent. -/
theorem sendPending_one {v : Nat} (hm : (d.fn h f).msixEn = true) (hf : (d.fn h f).fnMask = false) (hv : v ∈ (d.fn h f).unmasked)
    (hp : (d.fn h f).pba = [v]) (hb : d.bme h f = true) : d.sendPending h f = (d.setFn h f { d.fn h f with pba := [] }).msixOut h f v := by
  have h1 : [v].filter (fun u => (d.fn h f).unmasked.contains u) = [v] := by simp [hv]
  have h2 : [v].filter (fun u => !(d.fn h f).unmasked.contains u) = [] := by simp [hv]
  rw [← hp] at h1 h2
  unfold Dev.sendPending
  dsimp only
  rw [if_pos hm, if_neg (by simp [hf]), h1, h2, hp, List.foldl_cons, List.foldl_nil]
  refine interrupt_sends ?_ hb ?_ ?_ <;> rw [Dev.fn_setFn_same] <;> assumption

/-! ## The mechanism -/

/-- The host's enables in a function. -/
def enabledFn (e : IrqEnables) (x : HostFn) : HostFn :=
  { x with msixEn := e.msixEn, fnMask := e.fnMask, msiEn := e.msiEn, msiCount := msiMessages e.msiCount, msiMask := e.msiMask, intxDis := e.intxDis }

/-- The enables are taken and HOST_FN_IRQ names the mechanism. -/
def Dev.irqChosen (d : Dev) (h f : Nat) (e : IrqEnables) : Dev := (d.updFn h f (enabledFn e)).irqMech h f

theorem irqChosen_fn (e : IrqEnables) : (d.irqChosen h f e).fn h f = enabledFn e (d.fn h f) := Dev.fn_updFn_same _ _ _ _

theorem keeps_irqChosen (e : IrqEnables) : Keeps [.hostFnIrq] d (d.irqChosen h f e) :=
  (keeps_irqMech_iff (by decide) _ _).2 ((keeps_updFn_iff ..).2 (Keeps.refl _ _))

theorem irqChosen_mech (e : IrqEnables) :
    (d.irqChosen h f e).rf .hostFnIrq (fnKey h f) 0 2 = (if e.msixEn then 1 else if e.msiEn then 2 else if e.intxDis then 0 else 3) := by
  have hx : (d.updFn h f (enabledFn e)).fn h f = enabledFn e (d.fn h f) := Dev.fn_updFn_same _ _ _ _
  rw [Dev.irqChosen, Dev.irqMech, Dev.rf_setRf_same _ _ _ _ _ _ (by decide), hx]
  simp only [enabledFn]
  by_cases h1 : e.msixEn = true
  · simp [h1]
  by_cases h2 : e.msiEn = true
  · simp [h1, h2]
  by_cases h3 : e.intxDis = true
  · simp [h1, h2, h3]
  · simp [h1, h2, h3]

/-- HOST_INTX_PEND of a function is cleared. -/
def Dev.intxReset (d : Dev) (h f : Nat) : Dev := d.resetWhere [.hostIntxPend] (fun _ i => i / 64 == fnKey h f)

theorem intxReset_zero {i : Nat} (hi : i < 64) : (d.intxReset h f).reg .hostIntxPend (64 * fnKey h f + i) = 0 := by
  rw [Dev.intxReset, Dev.reg_resetWhere, if_pos ⟨List.mem_singleton_self _, by rw [beq_iff_eq]; omega⟩]
  rfl

/-- A function without pending INTx bits has nothing to clear. -/
theorem intxReset_idle (hn : d.intxAny h f = false) : Keeps [] d (d.intxReset h f) := by
  refine ⟨fun r k _ => ?_, rfl, rfl⟩
  rw [Dev.intxReset, Dev.reg_resetWhere]
  split
  case isFalse => rfl
  case isTrue hr =>
    obtain ⟨hr, hk⟩ := hr
    obtain rfl := List.mem_singleton.1 hr
    have hk : 64 * fnKey h f + k % 64 = k := by rw [beq_iff_eq] at hk; omega
    have hz := intxAny_false_iff.1 hn (k % 64) (Nat.mod_lt _ (by decide))
    rw [hk] at hz
    rw [hz]
    rfl

theorem irqEnables_messages (e : IrqEnables) (he : (e.msixEn || e.msiEn) = true) : d.irqEnables h f e =
    ((((d.irqChosen h f e).intxVectors h f).foldl (fun d v => d.interrupt h f v) ((d.irqChosen h f e).intxReset h f)).intaEdge d h f).sendPending h f := by
  simp only [Dev.irqEnables, he, if_true]
  rfl

theorem irqEnables_wire (e : IrqEnables) (he : (e.msixEn || e.msiEn) = false) : d.irqEnables h f e = ((d.irqChosen h f e).intaEdge d h f).sendPending h f := by
  simp only [Dev.irqEnables, he, Bool.false_eq_true, if_false]
  rfl

theorem intaEdge_reg (b : Dev) (r : Reg) (k : Nat) : (d.intaEdge b h f).reg r k = d.reg r k := by
  unfold Dev.intaEdge
  split <;> rfl

theorem intxAny_of_keeps {rs : List Reg} {a b : Dev} (hk : Keeps rs a b) (hr : .hostIntxPend ∉ rs) : b.intxAny h f = a.intxAny h f := by
  simp only [Dev.intxAny, hk.reg hr]

theorem intaOn_of_none (hn : d.intxAny h f = false) : d.intaOn h f = false := by simp [Dev.intaOn, hn]

/-- With nothing pending, the enables only choose the mechanism. -/
theorem irqEnables_idle (e : IrqEnables) (hn : d.intxAny h f = false) : ∃ e1 : Dev, d.irqEnables h f e = e1.sendPending h f ∧
    e1.host = (d.irqChosen h f e).host ∧ e1.outs = d.outs ∧ Keeps [] (d.irqChosen h f e) e1 := by
  have hn1 : (d.irqChosen h f e).intxAny h f = false := (intxAny_of_keeps (keeps_irqChosen e) (by decide)).trans hn
  have hedge (e1 : Dev) (hk : Keeps [] (d.irqChosen h f e) e1) : e1.intaEdge d h f = e1 := by
    rw [Dev.intaEdge, intaOn_of_none hn, intaOn_of_none ((intxAny_of_keeps hk (by decide)).trans hn1), if_pos rfl]
  cases he : e.msixEn || e.msiEn with
  | true =>
    refine ⟨(d.irqChosen h f e).intxReset h f, ?_, rfl, rfl, intxReset_idle hn1⟩
    rw [irqEnables_messages e he, intxVectors_nil hn1, List.foldl_nil, hedge _ (intxReset_idle hn1)]
  | false =>
    refine ⟨d.irqChosen h f e, ?_, rfl, rfl, Keeps.refl _ _⟩
    rw [irqEnables_wire e he, hedge _ (Keeps.refl _ _)]

/-- MSI-X and MSI leave no pending INTx bit. -/
theorem irqEnables_clears (e : IrqEnables) (he : (e.msixEn || e.msiEn) = true) {i : Nat} (hi : i < 64) :
    (d.irqEnables h f e).reg .hostIntxPend (64 * fnKey h f + i) = 0 := by
  have hm : Messages ((d.irqChosen h f e).intxReset h f) h f := by
    have hx : ((d.irqChosen h f e).intxReset h f).fn h f = enabledFn e (d.fn h f) := irqChosen_fn e
    rw [Messages, hx]
    simpa [enabledFn] using he
  rw [irqEnables_messages e he, sendPending_intx, intaEdge_reg, (foldl_interrupt_messages _ hm).2, intxReset_zero hi]

/-! ## HOST_INTX_PEND -/

/-- The bits written as 1 are cleared. -/
theorem sub_and_toNat {w : Nat} (p v : BitVec w) : p.toNat - (p.toNat &&& v.toNat) = (p &&& ~~~ v).toNat := by
  have hsum : (p &&& ~~~ v) + (p &&& v) = p := by
    rw [BitVec.add_eq_or_of_and_eq_zero]
    · ext i hi
      simp only [BitVec.getElem_or, BitVec.getElem_and, BitVec.getElem_not]
      cases p[i] <;> cases v[i] <;> rfl
    · ext i hi
      simp only [BitVec.getElem_and, BitVec.getElem_not, BitVec.getElem_zero]
      cases p[i] <;> cases v[i] <;> rfl
  have hdisj : (p &&& ~~~ v) &&& (p &&& v) = 0#w := by
    ext i hi
    simp only [BitVec.getElem_and, BitVec.getElem_not, BitVec.getElem_zero]
    cases p[i] <;> cases v[i] <;> rfl
  have hnat := BitVec.toNat_add_of_and_eq_zero hdisj
  rw [hsum] at hnat
  rw [← BitVec.toNat_and]
  omega

theorem intaEdge_outs (d b : Dev) (h f : Nat) : (d.intaEdge b h f).intaOn h f = d.intaOn h f ∧
    (d.intaEdge b h f).outs = (if d.intaOn h f = b.intaOn h f then d.outs else .inta h f (d.intaOn h f) :: d.outs) := by
  unfold Dev.intaEdge
  split_ifs
  · exact ⟨rfl, rfl⟩
  · exact ⟨rfl, rfl⟩

/-- What a write of HOST_INTX_PEND leaves, and the edge of INTA that it shows. -/
theorem intxSet_shows (k : Nat) (w : Word) : ((d.setReg .hostIntxPend k w).intaEdge d h f).reg .hostIntxPend k = w ∧
    (∀ j, j ≠ k → ((d.setReg .hostIntxPend k w).intaEdge d h f).reg .hostIntxPend j = d.reg .hostIntxPend j) ∧
    Keeps [.hostIntxPend] d ((d.setReg .hostIntxPend k w).intaEdge d h f) ∧
    ((d.setReg .hostIntxPend k w).intaEdge d h f).outs = (if ((d.setReg .hostIntxPend k w).intaEdge d h f).intaOn h f = d.intaOn h f then d.outs
      else .inta h f (((d.setReg .hostIntxPend k w).intaEdge d h f).intaOn h f) :: d.outs) := by
  obtain ⟨h1, h2⟩ := intaEdge_outs (d.setReg .hostIntxPend k w) d h f
  refine ⟨by rw [intaEdge_reg, Dev.reg_setReg_same], fun j hj => by rw [intaEdge_reg, Dev.reg_setReg_ne _ _ (.inr hj)],
    (keeps_intaEdge_iff ..).2 (keeps_setReg _ (List.mem_singleton_self _) _ _), ?_⟩
  rw [h2, h1]
  rfl

theorem intxClear_eq {i : Nat} {p v : BitVec 32} (hp : p.toNat = d.rf .hostIntxPend (64 * fnKey h f + i) 0 32) :
    d.intxClear h f i v.toNat = (d.setReg .hostIntxPend (64 * fnKey h f + i) ((p &&& ~~~ v).setWidth 64)).intaEdge d h f := by
  rw [Dev.intxClear, ← hp, sub_and_toNat, BitVec.ofNat_toNat]

/-- A vector of a function is unmasked. -/
def unmask (v : Nat) (x : HostFn) : HostFn := { x with unmasked := if x.unmasked.contains v then x.unmasked else x.unmasked ++ [v] }

end

/-! ## The commands -/

section
variable {s : State} {h : Fin 8} {f : Fin 9}

theorem tagQuarantineRelease_returns (hp : s.dev.powered = true) {tag : Nat} {r : HostReq} (ht : tabFind tag s.dev.host.reqs = some r) (hq : r.quarantined = true) :
    (r.tick + r.limit ≤ s.dev.time.tick → Answers (.tagQuarantineRelease tag) s (fun d => tabFind tag d.host.reqs = none ∧
      (∀ t, t ≠ tag → tabFind t d.host.reqs = tabFind t s.dev.host.reqs) ∧ Keeps [.hostFnStat, .hostLinkStat] s.dev d)) ∧
    (s.dev.time.tick < r.tick + r.limit → Answers (.tagQuarantineRelease tag) s (fun d => d = s.dev)) := by
  constructor
  · intro hdue
    refine answers_eventOn (c := .tagQuarantineRelease tag) (rfl : execTagQuarantineRelease tag s = _) hp ?_
    simp only [ht, hq, hdue, decide_true, Bool.and_self, if_true]
    rw [dropTag_reqs _ ht]
    exact ⟨tabFind_del_same _ _, fun t hne => tabFind_del_ne hne _, (keeps_dropTag_iff (by decide) (by decide) _).2 (Keeps.refl _ _)⟩
  · intro hearly
    refine answers_eventOn_same (c := .tagQuarantineRelease tag) (rfl : execTagQuarantineRelease tag s = _) ?_
    simp only [ht, hq, Nat.not_le.2 hearly, decide_false, Bool.and_false, Bool.false_eq_true, if_false]

theorem master_stops (hp : s.dev.powered = true) (hx : s.dev.fnExists h.val f.val = true) (hq : Claims.FnQuiet s.dev h.val f.val) (c : Instr)
    (hc : (c = Instr.busMasterEnableClear h f ∧ s.dev.bme h.val f.val = true) ∨ (c = .d3hotEntry h f ∧ s.dev.linkUp h.val = true ∧ s.dev.d3 h.val f.val = false)) :
    Answers c s (fun d => d.canIssue h.val f.val = false ∧ Keeps [.hostFnStat, .hostLinkStat] s.dev d ∧ (c = .d3hotEntry h f → d.d3 h.val f.val = true) ∧
      ∀ t r, tabFind t d.host.reqs = some r → r.h = h.val → r.f = f.val → r.quarantined = false → r.op = .discarded ∧ r.reply = none) := by
  obtain ⟨rfl, hb⟩ | ⟨rfl, hl, hd⟩ := hc
  · refine answers_eventOn (c := .busMasterEnableClear h f) (rfl : execBusMasterEnableClear h f s = _) hp ?_
    rw [if_pos (by rw [hx, hb]; rfl)]
    obtain ⟨h1, -, h3, h4⟩ := masterOff_shows (fnQuiet_setFnStat hq (fnKey h.val f.val) _)
    refine ⟨canIssue_of_bme (h1.trans (Dev.rb_setRb_same _ _ _ _ _ (by decide))), ((keeps_setRb_iff (by decide) _ _ _).2 (Keeps.refl _ _)).trans h3, nofun, h4⟩
  · refine answers_eventOn (c := .d3hotEntry h f) (rfl : execD3hotEntry h f s = _) hp ?_
    rw [if_pos (by rw [hx, hl, hd]; rfl)]
    obtain ⟨-, h2, h3, h4⟩ := masterOff_shows (fnQuiet_setFnStat hq (fnKey h.val f.val) _)
    have hset : (s.dev.setRf .hostFnStat (fnKey h.val f.val) 29 2 3).d3 h.val f.val = true := by
      rw [Dev.d3, Dev.rf_setRf_of_lt _ (by decide) (by decide)]
      rfl
    have hd3 := h2.trans hset
    exact ⟨canIssue_of_d3 hd3, ((keeps_setRf_iff (by decide) _ _ _ _).2 (Keeps.refl _ _)).trans h3, fun _ => hd3, h4⟩

theorem master_starts (hp : s.dev.powered = true) (hx : s.dev.fnExists h.val f.val = true) (hq : Claims.FnQuiet s.dev h.val f.val)
    (hw : s.dev.dma.cqWait = []) (hl : s.dev.linkUp h.val = true) (c : Instr)
    (hc : (c = Instr.busMasterEnableSet h f ∧ s.dev.live = true ∧ s.dev.fw.serving = true ∧ s.dev.bme h.val f.val = false ∧ s.dev.d3 h.val f.val = false) ∨
      (c = .d3hotExit h f ∧ s.dev.d3 h.val f.val = true ∧ s.dev.bme h.val f.val = true)) :
    ((s.dev.fn h.val f.val).held = [] → Answers c s (fun d => d.canIssue h.val f.val = true ∧ d.host.reqs = s.dev.host.reqs ∧ d.outs = s.dev.outs ∧
      Keeps [.hostFnStat] s.dev d)) ∧
    (∀ v, (s.dev.fn h.val f.val).held = [v] → (s.dev.fn h.val f.val).msixEn = true → (s.dev.fn h.val f.val).fnMask = false → v ∈ (s.dev.fn h.val f.val).unmasked →
      Answers c s (fun d => d.canIssue h.val f.val = true ∧ (d.fn h.val f.val).held = [] ∧ d.outs = .msix h.val f.val v :: s.dev.outs)) := by
  obtain ⟨rfl, hlive, hserv, hb, hd⟩ | ⟨rfl, hd, hb⟩ := hc
  · have hb' : (s.dev.setRb .hostFnStat (fnKey h.val f.val) 28 true).bme h.val f.val = true := Dev.rb_setRb_same _ _ _ _ _ (by decide)
    have hd' : (s.dev.setRb .hostFnStat (fnKey h.val f.val) 28 true).d3 h.val f.val = false := by
      rw [Dev.d3, Dev.rf_setRb_ne _ _ _ _ _ _ _ (.inl (by decide)), ← Dev.d3, hd]
    have hrun {p : Dev → Prop} (hr : p ((s.dev.setRb .hostFnStat (fnKey h.val f.val) 28 true).masterOn h.val f.val)) :
        Answers (.busMasterEnableSet h f) s p := by
      refine answers_event (c := .busMasterEnableSet h f) (rfl : execBusMasterEnableSet h f s = _) hlive ?_
      rwa [if_pos (by rw [hx, hl, hserv, hb]; rfl)]
    obtain ⟨h1, h2⟩ := masterOn_setFnStat hq hw hl hb' hd'
    exact ⟨fun hh => hrun (h1 hh), fun v hh hm hmask hv => hrun (h2 v hh hm hmask hv)⟩
  · have hb' : (s.dev.setRf .hostFnStat (fnKey h.val f.val) 29 2 0).bme h.val f.val = true :=
      (Dev.rb_setRf_ne _ _ _ _ _ _ _ (by decide) (.inl (by decide))).trans hb
    have hd' : (s.dev.setRf .hostFnStat (fnKey h.val f.val) 29 2 0).d3 h.val f.val = false := by
      rw [Dev.d3, Dev.rf_setRf_of_lt _ (by decide) (by decide)]
      rfl
    have hrun {p : Dev → Prop} (hr : p ((s.dev.setRf .hostFnStat (fnKey h.val f.val) 29 2 0).masterOn h.val f.val)) : Answers (.d3hotExit h f) s p := by
      refine answers_eventOn (c := .d3hotExit h f) (rfl : execD3hotExit h f s = _) hp ?_
      rw [if_pos (by rw [hx, hd]; rfl)]
      dsimp only
      rwa [if_pos hb']
    obtain ⟨h1, h2⟩ := masterOn_setFnStat hq hw hl hb' hd'
    exact ⟨fun hh => hrun (h1 hh), fun v hh hm hmask hv => hrun (h2 v hh hm hmask hv)⟩

theorem interruptEnables_choose (hlive : s.dev.live = true) (hx : s.dev.fnExists h.val f.val = true) (e : IrqEnables) {k : Nat} (hk : k = fnKey h.val f.val) :
    (s.dev.intxAny h.val f.val = false → (s.dev.fn h.val f.val).pba = [] → (s.dev.fn h.val f.val).msiPend = 0 → Answers (.interruptEnableChange h f e) s (fun d =>
      d.fn h.val f.val = enabledFn e (s.dev.fn h.val f.val) ∧
      d.rf .hostFnIrq k 0 2 = (if e.msixEn then 1 else if e.msiEn then 2 else if e.intxDis then 0 else 3) ∧ d.outs = s.dev.outs ∧ Keeps [.hostFnIrq] s.dev d)) ∧
    (e.msixEn = true ∨ e.msiEn = true → Answers (.interruptEnableChange h f e) s (fun d => ∀ i < 64, d.reg .hostIntxPend (64 * k + i) = 0)) := by
  constructor
  · intro hn hpba hmsi
    refine answers_event (c := .interruptEnableChange h f e) (rfl : execInterruptEnableChange h f e s = _) hlive ?_
    rw [if_pos hx]
    obtain ⟨e1, he, hhost, houts, hk1⟩ := irqEnables_idle e hn
    have hfn : e1.fn h.val f.val = enabledFn e (s.dev.fn h.val f.val) := by rw [Dev.fn, hhost, ← Dev.fn, irqChosen_fn]
    obtain ⟨h1, h2, h3⟩ := sendPending_idle (d := e1) (h := h.val) (f := f.val) (by rw [hfn]; exact hpba) (.inr (by rw [hfn]; exact hmsi))
    have hk3 := hk1.trans h3
    rw [he, hk3.rf (by decide), hk, irqChosen_mech]
    exact ⟨h1.trans hfn, rfl, h2.trans houts, (keeps_irqChosen e).trans (hk3.mono (by decide))⟩
  · intro he
    refine answers_event (c := .interruptEnableChange h f e) (rfl : execInterruptEnableChange h f e s = _) hlive ?_
    rw [if_pos hx]
    intro i hi
    rw [hk, irqEnables_clears e (by simpa using he) hi]

theorem vectorUnmask_sends (hlive : s.dev.live = true) (hx : s.dev.fnExists h.val f.val = true) (hm : (s.dev.fn h.val f.val).msixEn = true)
    (hmask : (s.dev.fn h.val f.val).fnMask = false) (v : Fin 2048) (hv : v.val ∉ (s.dev.fn h.val f.val).unmasked) :
    ((s.dev.fn h.val f.val).pba = [] → Answers (.vectorUnmask h f (some v)) s (fun d => v.val ∈ (d.fn h.val f.val).unmasked ∧ d.outs = s.dev.outs ∧ Keeps [] s.dev d)) ∧
    ((s.dev.fn h.val f.val).pba = [v.val] → s.dev.bme h.val f.val = true → Answers (.vectorUnmask h f (some v)) s (fun d =>
      v.val ∈ (d.fn h.val f.val).unmasked ∧ (d.fn h.val f.val).pba = [] ∧ d.outs = .msix h.val f.val v.val :: s.dev.outs)) := by
  have hun : (s.dev.updFn h.val f.val (unmask v.val)).fn h.val f.val = unmask v.val (s.dev.fn h.val f.val) := Dev.fn_updFn_same _ _ _ _
  have hmem : v.val ∈ (unmask v.val (s.dev.fn h.val f.val)).unmasked := by simp [unmask, hv]
  have hrun {p : Dev → Prop} (hr : p ((s.dev.updFn h.val f.val (unmask v.val)).sendPending h.val f.val)) : Answers (.vectorUnmask h f (some v)) s p := by
    refine answers_event (c := .vectorUnmask h f (some v)) (rfl : execVectorUnmask h f (some v) s = _) hlive ?_
    rwa [if_pos hx]
  constructor
  · intro hpba
    obtain ⟨h1, h2, h3⟩ := sendPending_idle (d := s.dev.updFn h.val f.val (unmask v.val)) (h := h.val) (f := f.val)
      (by rw [hun]; exact hpba) (.inl (by rw [hun]; exact hm))
    refine hrun ⟨?_, h2, ((keeps_updFn_iff ..).2 (Keeps.refl _ _)).trans h3⟩
    rw [h1, hun]
    exact hmem
  · intro hpba hb
    refine hrun ?_
    rw [sendPending_one (d := s.dev.updFn h.val f.val (unmask v.val)) (by rw [hun]; exact hm) (by rw [hun]; exact hmask) (by rw [hun]; exact hmem) (by rw [hun]; exact hpba) hb, msixOut_outs]
    have hfn : (((s.dev.updFn h.val f.val (unmask v.val)).setFn h.val f.val
        { (s.dev.updFn h.val f.val (unmask v.val)).fn h.val f.val with pba := [] }).msixOut h.val f.val v.val).fn h.val f.val =
        { unmask v.val (s.dev.fn h.val f.val) with pba := [] } := by rw [Dev.fn, msixOut_host, ← Dev.fn, Dev.fn_setFn_same, hun]
    rw [hfn]
    exact ⟨hmem, rfl, rfl⟩

theorem hostIntxPend_runs (hp : s.dev.powered = true) {who : Who} (hown : s.dev.ownFn who h.val f.val = true) (i : Fin 64) (v : W32) {p : Dev → Prop}
    (hr : p (s.dev.intxClear h.val f.val i.val v.toNat)) : Answers (.hostIntxPend who h f i v) s p := by
  refine answers_eventOn (c := .hostIntxPend who h f i v) (rfl : execHostIntxPend who h f i v s = _) hp ?_
  rwa [if_pos hown]

theorem hostIntxPend_clears (hp : s.dev.powered = true) {who : Who} (hown : s.dev.ownFn who h.val f.val = true) (i : Fin 64) (v : W32) {k : Nat}
    (hk : k = fnKey h.val f.val) {p : BitVec 32} (hpv : p.toNat = s.dev.rf .hostIntxPend (64 * k + i.val) 0 32) :
    Answers (.hostIntxPend who h f i v) s (fun d => d.reg .hostIntxPend (64 * k + i.val) = (p &&& ~~~ v).setWidth 64 ∧
      (∀ j, j ≠ 64 * k + i.val → d.reg .hostIntxPend j = s.dev.reg .hostIntxPend j) ∧ Keeps [.hostIntxPend] s.dev d ∧
      d.outs = (if d.intaOn h.val f.val = s.dev.intaOn h.val f.val then s.dev.outs else .inta h.val f.val (d.intaOn h.val f.val) :: s.dev.outs)) := by
  subst hk
  refine hostIntxPend_runs hp hown i v ?_
  rw [intxClear_eq hpv]
  exact intxSet_shows _ _

end

/-- Settles O40. -/
theorem hostFunctionsIssueOnlyWhileEnabled : Obligations.HostFunctionsIssueOnlyWhileEnabled := fun _ _ _ _ hp hk =>
  ⟨fun _ _ ht hq => tagQuarantineRelease_returns hp ht hq, master_stops hp, master_starts hp,
    fun e hlive hx => interruptEnables_choose hlive hx e hk, fun v hlive hx hm hmask hv => vectorUnmask_sends hlive hx hm hmask v hv,
    fun _ i v _ hown hpv => hostIntxPend_clears hp hown i v hk hpv⟩

end Sys2Proof.Machine
end

section
/-! PROOFS. Resets of host functions and ports, and host links (R293 to R295, R313, R314, R318). -/
namespace Sys2Proof.Machine
open Sys2Proof

/-! ## What a function's reset touches -/

/-- The registers of a function and of its controller's tag counts. -/
def fnRegs : List Reg := [.hostFnStat, .hostLinkStat, .hostFnIrq, .hostWinStat, .hostWinAct, .hostWinStg, .hostIntxPend]

/-- Only functions, their registers and the requests that are out have moved. -/
structure OnFns (a b : Dev) : Prop where
  keeps : Keeps fnRegs a b
  ptn : b.ptn = a.ptn
  dma : b.dma = a.dma
  flt : b.flt = a.flt
  life : b.life = a.life
  bifNow : b.host.bifNow = a.host.bifNow
  perst : b.host.perst = a.host.perst

theorem OnFns.refl (a : Dev) : OnFns a a := ⟨Keeps.refl _ _, rfl, rfl, rfl, rfl, rfl, rfl⟩

theorem OnFns.trans {a b c : Dev} (h : OnFns a b) (h' : OnFns b c) : OnFns a c :=
  ⟨h.keeps.trans h'.keeps, h'.ptn.trans h.ptn, h'.dma.trans h.dma, h'.flt.trans h.flt, h'.life.trans h.life, h'.bifNow.trans h.bifNow, h'.perst.trans h.perst⟩

theorem onFns_setReg (d : Dev) {r : Reg} (hr : r ∈ fnRegs) (i : Nat) (v : Word) : OnFns d (d.setReg r i v) :=
  ⟨keeps_setReg d hr i v, Dev.setReg_ptn .., Dev.setReg_dma .., Dev.setReg_flt .., Dev.setReg_life .., by rw [Dev.setReg_host], by rw [Dev.setReg_host]⟩

theorem onFns_reqs (d : Dev) (x : Tab HostReq) : OnFns d { d with host := { d.host with reqs := x } } := ⟨keeps_of_eq rfl rfl rfl, rfl, rfl, rfl, rfl, rfl, rfl⟩

theorem onFns_setFn (d : Dev) (h f : Nat) (x : HostFn) : OnFns d (d.setFn h f x) := ⟨keeps_of_eq rfl rfl rfl, rfl, rfl, rfl, rfl, rfl, rfl⟩

theorem onFns_countTags (d : Dev) (h f : Nat) : OnFns d (d.countTags h f) :=
  (((onFns_setReg d (by decide) _ _).trans (onFns_setReg _ (by decide) _ _)).trans (onFns_setReg _ (by decide) _ _)).trans (onFns_setReg _ (by decide) _ _)

theorem onFns_resetWhere (d : Dev) {rs : List Reg} (hr : ∀ r ∈ rs, r ∈ fnRegs) (p : Reg → Nat → Bool) : OnFns d (d.resetWhere rs p) := by
  refine ⟨⟨fun r k hn => ?_, rfl, rfl⟩, rfl, rfl, rfl, rfl, rfl, rfl⟩
  rw [Dev.reg_resetWhere, if_neg (fun he => hn (hr r he.1))]

theorem onFns_intaEdge (d b : Dev) (h f : Nat) : OnFns d (d.intaEdge b h f) := by
  unfold Dev.intaEdge
  split
  · exact OnFns.refl d
  · exact ⟨keeps_of_eq rfl rfl rfl, rfl, rfl, rfl, rfl, rfl, rfl⟩

/-- The registers that say where mailbox ends lie. -/
def endRegs : List Reg := [.mbxCfg, .hostLinkCfg, .slcState]

theorem noEnds_of_keeps {rs : List Reg} {a b : Dev} {h f : Nat} (hk : Keeps rs a b) (hp : b.ptn = a.ptn) (hr : ∀ r ∈ endRegs, r ∉ rs)
    (hq : Claims.NoEnds a h f) : Claims.NoEnds b h f := by
  have hm (m : Nat) : b.sndEnd m = a.sndEnd m ∧ b.rcvEnd m = a.rcvEnd m := by
    simp only [Dev.sndEnd, Dev.rcvEnd, Dev.mbx, hp, hk.rf (hr .mbxCfg (by decide)), and_self]
  have he (e : MbxEnd) : b.endFn e = a.endFn e := by
    simp only [Dev.endFn, Dev.mgmtPort, Dev.slicePort, Dev.sliceFn, Dev.slicePart, hk.rf (hr .hostLinkCfg (by decide)), hk.rf (hr .slcState (by decide))]
  intro m hmem
  rw [mbxList_of_keeps hk hp (hr _ (by decide))] at hmem
  rw [(hm m).1, (hm m).2]
  simpa only [he] using hq m hmem

section
variable {a b : Dev} (ho : OnFns a b) {h f : Nat}
include ho

theorem fnQuiet_of_onFns (hq : Claims.FnQuiet a h f) : Claims.FnQuiet b h f := fnQuiet_of_keeps ho.keeps ho.ptn ho.dma (by decide) hq

theorem noEnds_of_onFns (hq : Claims.NoEnds a h f) : Claims.NoEnds b h f := noEnds_of_keeps ho.keeps ho.ptn (by decide) hq

theorem fnExists_of_onFns : b.fnExists h f = a.fnExists h f := by
  simp only [Dev.fnExists, Dev.hostPortExists, ho.bifNow, ho.keeps.rb (show Reg.hostPortCfg ∉ fnRegs by decide)]

theorem mgmtPort_of_onFns : b.mgmtPort = a.mgmtPort := ho.keeps.rf (by decide) _ _ _

theorem linkUp_of_onFns : b.linkUp h = a.linkUp h := ho.keeps.rb (by decide) _ _

end

/-! ## A function's configuration -/

/-- A function's configuration space, window tables and interrupt state at their reset values. -/
def Dev.fnCleared (d : Dev) (h f : Nat) : Dev :=
  (((d.setFn h f { bar2Log := (d.fn h f).bar2Log }).resetWhere [.hostFnStat, .hostFnIrq, .hostWinStat] (fun _ i => i == fnKey h f)).resetWhere
    [.hostWinAct, .hostWinStg] (fun _ i => i / 256 == fnKey h f)).resetWhere [.hostIntxPend] (fun _ i => i / 64 == fnKey h f)

theorem fnConfigReset_eq (d : Dev) (h f : Nat) : d.fnConfigReset h f = ((d.fnCleared h f).countTags h f).intaEdge d h f := by
  rw [Dev.fnConfigReset, Dev.fnCleared]

section
variable {d : Dev} {h f : Nat}

theorem onFns_fnCleared : OnFns d (d.fnCleared h f) :=
  (((onFns_setFn d h f _).trans (onFns_resetWhere _ (by decide) _)).trans (onFns_resetWhere _ (by decide) _)).trans (onFns_resetWhere _ (by decide) _)

theorem onFns_fnConfigReset : OnFns d (d.fnConfigReset h f) := by
  rw [fnConfigReset_eq]
  exact (onFns_fnCleared.trans (onFns_countTags _ _ _)).trans (onFns_intaEdge _ _ _ _)

theorem fnCleared_host : (d.fnCleared h f).host = (d.setFn h f { bar2Log := (d.fn h f).bar2Log }).host := by
  simp only [Dev.fnCleared, Dev.resetWhere_host]

theorem intaEdge_host (b : Dev) : (d.intaEdge b h f).host = d.host := by
  unfold Dev.intaEdge
  split <;> rfl

theorem fnConfigReset_host : (d.fnConfigReset h f).host = (d.setFn h f { bar2Log := (d.fn h f).bar2Log }).host := by
  rw [fnConfigReset_eq, intaEdge_host, countTags_host, fnCleared_host]

theorem fn_fnConfigReset_same : (d.fnConfigReset h f).fn h f = { bar2Log := (d.fn h f).bar2Log } := by
  rw [Dev.fn, fnConfigReset_host, ← Dev.fn, Dev.fn_setFn_same]

theorem fn_fnConfigReset_ne {g : Nat} (hg : g ≠ f) : (d.fnConfigReset h f).fn h g = d.fn h g := by
  rw [Dev.fn, fnConfigReset_host, Dev.setFn]
  exact tabGet_put_ne _ _ _ (by unfold fnKey; omega) _

theorem reqs_fnConfigReset : (d.fnConfigReset h f).host.reqs = d.host.reqs := by
  rw [fnConfigReset_host]
  rfl

theorem reg_fnCleared_stat {r : Reg} (hr : r ∈ [Reg.hostFnStat, .hostFnIrq, .hostWinStat]) : (d.fnCleared h f).reg r (fnKey h f) = 0 := by
  fin_cases hr <;> simp [Dev.fnCleared, Dev.reg_resetWhere] <;> rfl

theorem reg_fnCleared_win {r : Reg} (hr : r ∈ [Reg.hostWinAct, .hostWinStg]) {e : Nat} (he : e < 256) :
    (d.fnCleared h f).reg r (256 * fnKey h f + e) = 0 := by
  have hk : (256 * fnKey h f + e) / 256 = fnKey h f := by omega
  fin_cases hr <;> simp [Dev.fnCleared, Dev.reg_resetWhere, hk] <;> rfl

theorem reg_fnCleared_intx {i : Nat} (hi : i < 64) : (d.fnCleared h f).reg .hostIntxPend (64 * fnKey h f + i) = 0 := by
  have hk : (64 * fnKey h f + i) / 64 = fnKey h f := by omega
  simp [Dev.fnCleared, Dev.reg_resetWhere, hk]
  rfl

/-- The tag counts are written to two registers only. -/
theorem reg_countTags {r : Reg} (hr : r ∉ [Reg.hostFnStat, .hostLinkStat]) (k : Nat) : (d.countTags h f).reg r k = d.reg r k :=
  (keeps_countTags d h f).reg hr k

theorem reg_fnConfigReset {r : Reg} (hr : r ∉ [Reg.hostFnStat, .hostLinkStat]) (k : Nat) : (d.fnConfigReset h f).reg r k = (d.fnCleared h f).reg r k := by
  rw [fnConfigReset_eq, intaEdge_reg, reg_countTags hr]

/-- Power state and bus master enable of the functions, past the tag counts. -/
theorem rb_fnConfigReset {g i : Nat} (hi : 28 ≤ i) :
    (d.fnConfigReset h f).rb .hostFnStat (fnKey h g) i = (d.fnCleared h f).rb .hostFnStat (fnKey h g) i := by
  rw [fnConfigReset_eq, Dev.rb, intaEdge_reg, ← Dev.rb, rb_countTags _ _ _ hi]

theorem bme_fnConfigReset_same : (d.fnConfigReset h f).bme h f = false := by
  rw [Dev.bme, rb_fnConfigReset (by decide), Dev.rb, reg_fnCleared_stat (by decide)]
  rfl

theorem bme_fnConfigReset_ne {g : Nat} (hg : g ≠ f) : (d.fnConfigReset h f).bme h g = d.bme h g := by
  have hk : fnKey h g ≠ fnKey h f := by unfold fnKey; omega
  rw [Dev.bme, rb_fnConfigReset (by decide), Dev.bme, Dev.rb, Dev.rb]
  congr 1
  simp [Dev.fnCleared, Dev.reg_resetWhere, hk]

theorem d3_fnConfigReset : (d.fnConfigReset h f).d3 h f = false := by
  rw [Dev.d3, fnConfigReset_eq, Dev.rf, intaEdge_reg, ← Dev.rf, rf_countTags _ _ _ (by decide), Dev.rf, reg_fnCleared_stat (by decide)]
  rfl

/-- A function's configuration is as its reset leaves it. -/
theorem fnReset_fnConfigReset (a : Dev) (ha : (a.fn h f).bar2Log = (d.fn h f).bar2Log) : Claims.FnReset h f a (d.fnConfigReset h f) := by
  refine ⟨by rw [fn_fnConfigReset_same, ha], bme_fnConfigReset_same, d3_fnConfigReset, ?_, fun e he => ⟨?_, ?_⟩, fun i hi => ?_⟩
  · rw [reg_fnConfigReset (by decide), reg_fnCleared_stat (by decide)]
  · rw [reg_fnConfigReset (by decide), reg_fnCleared_win (by decide) he]
  · rw [reg_fnConfigReset (by decide), reg_fnCleared_win (by decide) he]
  · rw [reg_fnConfigReset (by decide), reg_fnCleared_intx hi]

/-! ## Functions that carry nothing and have no mailbox end -/

theorem resetEnds_of_none {p : MbxEnd → Bool} (hp : ∀ m ∈ d.mbxList, p (d.rcvEnd m) = false ∧ p (d.sndEnd m) = false) : d.resetEnds p = d := by
  have hstep : ∀ l : List Nat, (∀ m ∈ l, p (d.rcvEnd m) = false ∧ p (d.sndEnd m) = false) → l.foldl (fun d m =>
      let d := if p (d.rcvEnd m) then d.resetReceiver m else d
      if p (d.sndEnd m) then d.resetSender m else d) d = d := by
    intro l hl
    induction l with
    | nil => rfl
    | cons m ms ih =>
      obtain ⟨h1, h2⟩ := hl m List.mem_cons_self
      rw [List.foldl_cons]
      simp only [h1, h2, Bool.false_eq_true, if_false]
      exact ih fun x hx => hl x (List.mem_cons_of_mem _ hx)
  exact hstep _ hp

/-- The reset of such a function is its configuration's, but for the manager's own function. -/
theorem fnReset_of_quiet (hq : Claims.FnQuiet d h f) (hn : Claims.NoEnds d h f) (hm : ¬ (f = 0 ∧ h = d.mgmtPort)) : d.fnReset h f = d.fnConfigReset h f := by
  have hslices : (if d.safe then d else (d.fnSlices h f).foldl (fun d s => d.sliceResetNow s) d) = d := by
    rw [hq.1, List.foldl_nil, ite_self]
  have ho : OnFns d (d.fnConfigReset h f) := onFns_fnConfigReset
  have hends : (d.fnConfigReset h f).resetEnds (fun e => (e.kind == 1 || e.kind == 2) && (d.fnConfigReset h f).endFn e == some (h, f)) = d.fnConfigReset h f := by
    refine resetEnds_of_none fun m hmem => ?_
    have hno := noEnds_of_onFns ho hn m hmem
    have hone (e : MbxEnd) (he : e ∈ [(d.fnConfigReset h f).sndEnd m, (d.fnConfigReset h f).rcvEnd m]) :
        ((e.kind == 1 || e.kind == 2) && (d.fnConfigReset h f).endFn e == some (h, f)) = false := by
      by_cases hk : e.kind = 1 ∨ e.kind = 2
      · rw [beq_eq_false_iff_ne.2 (hno e he hk), Bool.and_false]
      · rw [show (e.kind == 1 || e.kind == 2) = false by simpa using hk, Bool.false_and]
    exact ⟨hone _ (by simp), hone _ (by simp)⟩
  unfold Dev.fnReset
  dsimp only
  rw [hslices, hends, if_neg]
  rw [mgmtPort_of_onFns ho]
  simpa using hm

theorem onFns_fnReset (hq : Claims.FnQuiet d h f) (hn : Claims.NoEnds d h f) (hm : ¬ (f = 0 ∧ h = d.mgmtPort)) : OnFns d (d.fnReset h f) := by
  rw [fnReset_of_quiet hq hn hm]
  exact onFns_fnConfigReset

theorem fnStop_of_quiet (hq : Claims.FnQuiet d h f) : d.fnStop h f = d.discardReqs (fun r => r.h == h && r.f == f && !r.quarantined) := by
  obtain ⟨hs, hc, -⟩ := hq
  simp only [Dev.fnStop, hs, hc, List.foldl_nil]

theorem onFns_fnStop (hq : Claims.FnQuiet d h f) : OnFns d (d.fnStop h f) := by
  rw [fnStop_of_quiet hq]
  exact onFns_reqs _ _

end

/-! ## A port and its functions -/

/-- No function of a port carries anything or has a mailbox end. -/
def PortQuiet (d : Dev) (h : Nat) : Prop := h ≠ d.mgmtPort ∧ ∀ f < 9, Claims.FnQuiet d h f ∧ Claims.NoEnds d h f

section
variable {a b d : Dev} {h : Nat}

theorem portQuiet_of_onFns (ho : OnFns a b) (hq : PortQuiet a h) : PortQuiet b h :=
  ⟨by rw [mgmtPort_of_onFns ho]; exact hq.1, fun f hf => ⟨fnQuiet_of_onFns ho (hq.2 f hf).1, noEnds_of_onFns ho (hq.2 f hf).2⟩⟩

/-- Work on the functions of a quiet port, one after the other. -/
theorem onFns_foldl {F : Dev → Nat → Dev} (hF : ∀ d f, PortQuiet d h → f < 9 → OnFns d (F d f)) (l : List Nat) (hl : ∀ f ∈ l, f < 9) (hq : PortQuiet d h) :
    OnFns d (l.foldl F d) := by
  induction l generalizing d with
  | nil => exact OnFns.refl d
  | cons f l ih =>
    have h1 := hF d f hq (hl f List.mem_cons_self)
    exact h1.trans (ih (fun g hg => hl g (List.mem_cons_of_mem _ hg)) (portQuiet_of_onFns h1 hq))

/-- A function whose bus master enable is cleared, and that stops. -/
def Dev.fnHalt (d : Dev) (h f : Nat) : Dev := (d.setRb .hostFnStat (fnKey h f) 28 false).fnStop h f

theorem onFns_fnHalt {f : Nat} (hq : Claims.FnQuiet d h f) : OnFns d (d.fnHalt h f) :=
  (onFns_setReg d (by decide) _ _).trans (onFns_fnStop (fnQuiet_setFnStat hq _ _))

/-- The functions a port presents. -/
def Dev.presented (d : Dev) (h : Nat) : List Nat := (List.range 9).filter (fun f => d.fnExists h f)

/-- None of a port's requests is out. -/
def Dev.portDropped (d : Dev) (h : Nat) : Dev := { d with host := { d.host with reqs := d.host.reqs.filter (fun e => e.2.h != h) } }

theorem onFns_portDropped : OnFns d (d.portDropped h) := onFns_reqs _ _

/-- A port whose functions have stopped, with none of its requests out. -/
def Dev.portHalted (d : Dev) (h : Nat) : Dev :=
  (List.range 9).foldl (fun d f => d.countTags h f) (((d.presented h).foldl (fun d f => d.fnHalt h f) d).portDropped h)

theorem portReset_eq (d : Dev) (h : Nat) : d.portReset h =
    (((d.resetReg .hostPortStat h).presented h).foldl (fun d f => d.fnReset h f) ((d.resetReg .hostPortStat h).portHalted h)).showFaces := rfl

theorem foldl_countTags_host (l : List Nat) : (l.foldl (fun d f => d.countTags h f) d).host = d.host := by
  induction l generalizing d with
  | nil => rfl
  | cons f l ih => rw [List.foldl_cons, ih, countTags_host]

theorem presented_lt {f : Nat} (hf : f ∈ d.presented h) : f < 9 := List.mem_range.1 (List.mem_filter.1 hf).1

theorem onFns_portHalted (hq : PortQuiet d h) : OnFns d (d.portHalted h) := by
  have h1 := onFns_foldl (F := fun d f => d.fnHalt h f) (fun d f hq hf => onFns_fnHalt (hq.2 f hf).1) (d.presented h) (fun f hf => presented_lt hf) hq
  have h2 := h1.trans (onFns_portDropped (h := h))
  exact h2.trans (onFns_foldl (F := fun d f => d.countTags h f) (fun d f _ _ => onFns_countTags d h f) (List.range 9) (fun f hf => List.mem_range.1 hf)
    (portQuiet_of_onFns h2 hq))

theorem portHalted_reqs {t : Nat} {r : HostReq} (hr : tabFind t (d.portHalted h).host.reqs = some r) : r.h ≠ h := by
  have hr := mem_of_tabFind hr
  rw [Dev.portHalted, foldl_countTags_host] at hr
  simpa using (List.mem_filter.1 hr).2

theorem fnHalt_fns {f : Nat} (hq : Claims.FnQuiet d h f) : (d.fnHalt h f).host.fns = d.host.fns := by
  rw [Dev.fnHalt, Dev.setRb, fnStop_of_quiet (fnQuiet_setFnStat hq _ _)]
  show (d.setReg .hostFnStat (fnKey h f) _).host.fns = d.host.fns
  rw [Dev.setReg_host]

theorem foldl_fnHalt_fns (l : List Nat) (hl : ∀ f ∈ l, f < 9) (hq : PortQuiet d h) : (l.foldl (fun d f => d.fnHalt h f) d).host.fns = d.host.fns := by
  induction l generalizing d with
  | nil => rfl
  | cons f l ih =>
    have hf := (hq.2 f (hl f List.mem_cons_self)).1
    rw [List.foldl_cons, ih (fun g hg => hl g (List.mem_cons_of_mem _ hg)) (portQuiet_of_onFns (onFns_fnHalt hf) hq), fnHalt_fns hf]

theorem fn_portHalted (hq : PortQuiet d h) (f : Nat) : (d.portHalted h).fn h f = d.fn h f := by
  have he : (d.portHalted h).host.fns = d.host.fns := by
    rw [Dev.portHalted, foldl_countTags_host]
    exact foldl_fnHalt_fns _ (fun f hf => presented_lt hf) hq
  rw [Dev.fn, he, ← Dev.fn]

theorem onFns_fnReset_port {f : Nat} (hq : PortQuiet d h) (hf : f < 9) : OnFns d (d.fnReset h f) :=
  onFns_fnReset (hq.2 f hf).1 (hq.2 f hf).2 fun he => hq.1 he.2

theorem fnReset_port {f : Nat} (hq : PortQuiet d h) (hf : f < 9) : d.fnReset h f = d.fnConfigReset h f :=
  fnReset_of_quiet (hq.2 f hf).1 (hq.2 f hf).2 fun he => hq.1 he.2

/-- Resetting functions of a quiet port leaves the requests that are out, resets those in the list, and no other. -/
theorem foldl_fnReset (l : List Nat) (hl : ∀ f ∈ l, f < 9) (hq : PortQuiet d h) : (l.foldl (fun d f => d.fnReset h f) d).host.reqs = d.host.reqs ∧
    (∀ f, ((l.foldl (fun d f => d.fnReset h f) d).fn h f).bar2Log = (d.fn h f).bar2Log) ∧
    ∀ f, f ∈ l ∨ (d.fn h f = { bar2Log := (d.fn h f).bar2Log } ∧ d.bme h f = false) →
      (l.foldl (fun d f => d.fnReset h f) d).fn h f = { bar2Log := (d.fn h f).bar2Log } ∧ (l.foldl (fun d f => d.fnReset h f) d).bme h f = false := by
  induction l generalizing d with
  | nil => exact ⟨rfl, fun _ => rfl, fun f hf => hf.resolve_left List.not_mem_nil⟩
  | cons g l ih =>
    have hg := hl g List.mem_cons_self
    have heq := fnReset_port hq hg
    obtain ⟨h1, h2, h3⟩ := ih (fun f hf => hl f (List.mem_cons_of_mem _ hf)) (portQuiet_of_onFns (onFns_fnReset_port hq hg) hq)
    have hbar (f : Nat) : ((d.fnReset h g).fn h f).bar2Log = (d.fn h f).bar2Log := by
      rw [heq]
      by_cases hfg : f = g
      · rw [hfg, fn_fnConfigReset_same]
      · rw [fn_fnConfigReset_ne hfg]
    rw [List.foldl_cons]
    refine ⟨h1.trans (by rw [heq, reqs_fnConfigReset]), fun f => (h2 f).trans (hbar f), fun f hf => ?_⟩
    rw [← hbar f]
    refine h3 f ?_
    by_cases hfg : f = g
    · subst hfg
      right
      rw [heq, fn_fnConfigReset_same]
      exact ⟨rfl, bme_fnConfigReset_same⟩
    · rw [heq, fn_fnConfigReset_ne hfg, bme_fnConfigReset_ne hfg]
      exact hf.imp_left fun hm => (List.mem_cons.1 hm).resolve_left hfg

theorem portQuiet_resetReg (hq : PortQuiet d h) : PortQuiet (d.resetReg .hostPortStat h) h :=
  have hk : Keeps [.hostPortStat] d (d.resetReg .hostPortStat h) := (keeps_resetReg_iff (by decide) _).2 (Keeps.refl _ _)
  ⟨by rw [Dev.mgmtPort, hk.rf (by decide), ← Dev.mgmtPort]; exact hq.1,
    fun f hf => ⟨fnQuiet_of_keeps hk rfl rfl (by decide) (hq.2 f hf).1, noEnds_of_keeps hk rfl (by decide) (hq.2 f hf).2⟩⟩

theorem linkUp_resetReg : (d.resetReg .hostPortStat h).linkUp h = false := by
  rw [Dev.linkUp, Dev.resetReg_eq_setReg, Dev.rb, Dev.reg_setReg_same, show Reg.hostPortStat.resetAt h = 0 from rfl]
  decide

theorem fnExists_resetReg (f : Nat) : (d.resetReg .hostPortStat h).fnExists h f = d.fnExists h f := by
  rw [Dev.fnExists, Dev.resetReg_eq_setReg, Dev.rb_setReg_other _ _ _ (.inl (by decide)), Dev.hostPortExists, Dev.setReg_host]
  rfl

/-- A port in reset, without its faces shown again. -/
def Dev.portCleared (d : Dev) (h : Nat) : Dev :=
  ((d.resetReg .hostPortStat h).presented h).foldl (fun d f => d.fnReset h f) ((d.resetReg .hostPortStat h).portHalted h)

theorem onFns_portCleared (hq : PortQuiet d h) : OnFns (d.resetReg .hostPortStat h) (d.portCleared h) := by
  have h1 := onFns_portHalted (portQuiet_resetReg hq)
  exact h1.trans (onFns_foldl (F := fun d f => d.fnReset h f) (fun d f hq hf => onFns_fnReset_port hq hf) _ (fun f hf => presented_lt hf)
    (portQuiet_of_onFns h1 (portQuiet_resetReg hq)))

theorem keeps_portCleared (hq : PortQuiet d h) : Keeps (.hostPortStat :: fnRegs) d (d.portCleared h) :=
  ((keeps_resetReg_iff (List.mem_cons_self) _).2 (Keeps.refl _ _)).trans ((onFns_portCleared hq).keeps.mono (fun _ hr => List.mem_cons_of_mem _ hr))

theorem portReset_eq_cleared (hq : PortQuiet d h) : d.portReset h = d.portCleared h := by
  have hp : (d.portCleared h).ptn = d.ptn := (onFns_portCleared hq).ptn
  exact (portReset_eq d h).trans
    (showFaces_of_hidden (facesHidden_of_keeps (keeps_portCleared hq) hp (by decide) (by decide) (by decide) (hq.2 0 (by decide)).1.2.2))

/-- What a reset of a quiet port leaves. -/
theorem portReset_shows (hq : PortQuiet d h) : Claims.PortReset h d (d.portReset h) ∧ (d.portReset h).life = d.life ∧ (d.portReset h).flt = d.flt ∧
    (d.portReset h).host.perst = d.host.perst ∧ Keeps (.hostPortStat :: fnRegs) d (d.portReset h) := by
  have hq1 := portQuiet_resetReg hq
  have ho := onFns_portCleared hq
  have hk := keeps_portCleared hq
  obtain ⟨hreqs, -, hfn⟩ := foldl_fnReset (d := (d.resetReg .hostPortStat h).portHalted h) ((d.resetReg .hostPortStat h).presented h)
    (fun f hf => presented_lt hf) (portQuiet_of_onFns (onFns_portHalted hq1) hq1)
  rw [portReset_eq_cleared hq]
  refine ⟨⟨?_, fun t r ht => ?_, fun f hf hx => ?_, hk.2.1, hk.2.2⟩, ho.life, ho.flt, ho.perst, hk⟩
  · rw [linkUp_of_onFns ho, linkUp_resetReg]
  · rw [Dev.portCleared, hreqs] at ht
    exact portHalted_reqs ht
  · have hmem : f ∈ (d.resetReg .hostPortStat h).presented h :=
      List.mem_filter.2 ⟨List.mem_range.2 hf, by rw [fnExists_resetReg, hx]⟩
    have hf' := hfn f (.inl hmem)
    rw [fn_portHalted hq1] at hf'
    exact hf'

end

/-! ## Training -/

theorem b2n_le (b : Bool) : b2n b ≤ 1 := by cases b <;> decide

/-- Fields that lie beside each other are read apart. -/
theorem packed_fields {r w b g : Nat} (hr : r ≤ 7) (hw : w ≤ 16) (hb : b ≤ 1) (hg : g ≤ 14) {v : Nat}
    (hv : 1 + r * 2 + w * 2 ^ 4 + b * 2 ^ 9 + w * 2 ^ 10 + g * 2 ^ 16 = v) : v % 2 = 1 ∧ v / 2 % 8 = r ∧ v / 16 % 32 = w ∧ v / 512 % 2 = b ∧ v < 2 ^ 64 := by
  have h1 : v / 512 = b + 2 * w + 128 * g := by omega
  have h2 : v / 16 = w + 32 * (b + 2 * w + 128 * g) := by omega
  have h3 : v / 2 = r + 8 * (w + 32 * (b + 2 * w + 128 * g)) := by omega
  omega

theorem wf_ofNat {v : Nat} (hv : v < 2 ^ 64) (lo w : Nat) : wf (BitVec.ofNat 64 v) lo w = v / 2 ^ lo % 2 ^ w := by
  rw [wf, fld_eq_div, BitVec.toNat_ofNat, Nat.mod_eq_of_lt hv]

/-- The fields of HOST_PORT_STAT after training. -/
theorem trainStat_fields (max : Nat) (t : LinkTrain) : trainStat max t % 2 = 1 ∧ trainStat max t / 2 % 8 = min t.rate.toNat max ∧
    trainStat max t / 16 % 32 = min 16 (Nat.max 1 t.width.toNat) ∧ trainStat max t / 512 % 2 = b2n (t.flit || decide (5 ≤ min t.rate.toNat max)) ∧
    trainStat max t < 2 ^ 64 := by
  have hr : min t.rate.toNat max ≤ 7 := by have := t.rate.isLt; omega
  have hw : min 16 (Nat.max 1 t.width.toNat) ≤ 16 := by omega
  have hb := b2n_le (t.flit || decide (5 ≤ min t.rate.toNat max))
  have ht : (if t.tagBits = 14 then 14 else if t.tagBits = 10 then 10 else 8) ≤ 14 := by split_ifs <;> decide
  unfold trainStat
  simp only [nat_min_eq]
  exact packed_fields hr hw hb ht rfl

theorem up_hostTrain (d : Dev) (h : Nat) : Claims.Up d.life.host (d.hostTrain h).life.host h := tabGet_put_same _ _ _ _

theorem clearBit_getLsbD (x : BitVec 8) (i k : Nat) : (x &&& ~~~ (1#8 <<< i)).getLsbD k = (x.getLsbD k && decide (k ≠ i)) := by
  rw [BitVec.getLsbD_and, BitVec.getLsbD_not, BitVec.getLsbD_shiftLeft, BitVec.getLsbD_one]
  by_cases hk : k < 8
  · rcases Nat.lt_trichotomy k i with hi | hi | hi
    · simp [hk, hi, hi.ne]
    · simp [hi]
    · simp [hk, hi.ne', Nat.sub_ne_zero_of_lt hi]
  · simp [BitVec.getLsbD_of_ge x k (Nat.le_of_not_lt hk)]

theorem setBit_getLsbD (x : BitVec 8) (i : Nat) (hi : i < 8) : (x ||| (1#8 <<< i)).getLsbD i = true := by
  rw [BitVec.getLsbD_or, BitVec.getLsbD_shiftLeft, BitVec.getLsbD_one]
  simp [hi]

/-- A port's PERST input is released. -/
def Dev.perstHigh (d : Dev) (h : Nat) : Dev := { d with host := { d.host with perst := d.host.perst &&& ~~~ (1#8 <<< h) } }

/-- It is asserted, which a fundamental reset counts. -/
def Dev.perstLow (d : Dev) (h : Nat) : Dev := { d with host := { d.host with perst := d.host.perst ||| (1#8 <<< h) } }

theorem lifeReset_host (d : Dev) (k : Nat) : (d.lifeReset k).life.host = d.life.host := rfl
theorem lifeReset_flt (d : Dev) (k : Nat) : (d.lifeReset k).flt = d.flt := rfl
theorem hostTrain_flt (d : Dev) (h : Nat) : (d.hostTrain h).flt = d.flt := rfl
theorem hostTrain_resets (d : Dev) (h : Nat) : (d.hostTrain h).life.resets = d.life.resets := rfl

/-- Host side, registers, memory and threads are the same. -/
def SameHost (a b : Dev) : Prop := b.host = a.host ∧ b.regs = a.regs ∧ b.mem = a.mem ∧ b.thr = a.thr

theorem SameHost.symm {a b : Dev} (hs : SameHost a b) : SameHost b a := ⟨hs.1.symm, hs.2.1.symm, hs.2.2.1.symm, hs.2.2.2.symm⟩

theorem SameHost.trans {a b c : Dev} (hs : SameHost a b) (ht : SameHost b c) : SameHost a c :=
  ⟨ht.1.trans hs.1, ht.2.1.trans hs.2.1, ht.2.2.1.trans hs.2.2.1, ht.2.2.2.trans hs.2.2.2⟩

theorem SameHost.keeps {a b : Dev} (hs : SameHost a b) : Keeps [] a b := keeps_of_eq hs.2.1 hs.2.2.1 hs.2.2.2

theorem sameHost_lifeReset (d : Dev) (k : Nat) : SameHost d (d.lifeReset k) := ⟨rfl, rfl, rfl, rfl⟩
theorem sameHost_hostTrain (d : Dev) (h : Nat) : SameHost d (d.hostTrain h) := ⟨rfl, rfl, rfl, rfl⟩

theorem SameHost.reg {a b : Dev} (hs : SameHost a b) (r : Reg) (k : Nat) : b.reg r k = a.reg r k := by rw [Dev.reg, hs.2.1, ← Dev.reg]

theorem portReset_congr {a a' b b' : Dev} {h : Nat} (ha : SameHost a a') (hb : SameHost b b') (hr : Claims.PortReset h a b) : Claims.PortReset h a' b' := by
  obtain ⟨h1, h2, h3, h4, h5⟩ := hr
  have hra := ha.reg
  have hrb := hb.reg
  obtain ⟨ha1, -, ha3, ha4⟩ := ha
  obtain ⟨hb1, -, hb3, hb4⟩ := hb
  refine ⟨?_, fun t r => by rw [hb1]; exact h2 t r, fun f hf hx => ?_, by rw [hb3, ha3, h4], by rw [hb4, ha4, h5]⟩
  · rw [Dev.linkUp, Dev.rb, hrb]
    exact h1
  · have hx' : a.fnExists h f = true := by
      rw [← hx]
      simp only [Dev.fnExists, Dev.hostPortExists, Dev.rb, ha1, hra]
    obtain ⟨g1, g2⟩ := h3 f hf hx'
    refine ⟨?_, ?_⟩
    · rw [Dev.fn, hb1, ← Dev.fn, g1, Dev.fn, ← ha1, ← Dev.fn]
    · rw [Dev.bme, Dev.rb, hrb]
      exact g2

theorem portQuiet_of_keeps {a b : Dev} {h : Nat} (hk : Keeps [] a b) (hp : b.ptn = a.ptn) (hd : b.dma = a.dma) (hq : PortQuiet a h) : PortQuiet b h :=
  ⟨by rw [Dev.mgmtPort, hk.rf (by decide), ← Dev.mgmtPort]; exact hq.1,
    fun f hf => ⟨fnQuiet_of_keeps hk hp hd (by decide) (hq.2 f hf).1, noEnds_of_keeps hk hp (by decide) (hq.2 f hf).2⟩⟩

/-- A counted reset of a quiet port, which then trains. -/
theorem countedReset_shows {a d : Dev} {h : Nat} (hs : SameHost a d) (hp : d.ptn = a.ptn) (hd : d.dma = a.dma) (hl : d.life = a.life) (hq : PortQuiet a h) :
    Claims.PortReset h a (((d.lifeReset 4).portReset h).hostTrain h) ∧ (((d.lifeReset 4).portReset h).hostTrain h).flt = d.flt ∧
    Claims.Up a.life.host (((d.lifeReset 4).portReset h).hostTrain h).life.host h ∧
    Claims.Up a.life.resets (((d.lifeReset 4).portReset h).hostTrain h).life.resets 4 := by
  obtain ⟨h1, h2, h3, -, -⟩ := portReset_shows (portQuiet_of_keeps (hs.trans (sameHost_lifeReset d 4)).keeps hp hd hq)
  refine ⟨portReset_congr (hs.trans (sameHost_lifeReset d 4)).symm (sameHost_hostTrain _ h) h1, by rw [hostTrain_flt, h3, lifeReset_flt], ?_, ?_⟩
  · have hup := up_hostTrain ((d.lifeReset 4).portReset h) h
    rw [h2, lifeReset_host, hl] at hup
    exact hup
  · rw [hostTrain_resets, h2, ← hl]
    exact Dev.tabGet_lifeReset d 4

/-- A changed BAR2 size takes effect. -/
theorem applyBar2_shows (d : Dev) (h f : Nat) (hf : f < 9) : ((d.applyBar2 h).fn h f).bar2Log = d.rf .hostFnCfg (fnKey h f) 0 5 := by
  have hsame {b : Dev} (hb : b.regs = d.regs) (k : Nat) : b.rf .hostFnCfg k 0 5 = d.rf .hostFnCfg k 0 5 := by
    rw [Dev.rf, Dev.reg, hb, ← Dev.reg, ← Dev.rf]
  have hall := foldl_each (α := Nat) (β := Dev) (f := fun d f => d.updFn h f (fun x => { x with bar2Log := d.rf .hostFnCfg (fnKey h f) 0 5 }))
    (pre := fun _ b => b.regs = d.regs) (post := fun f b => b.regs = d.regs ∧ (b.fn h f).bar2Log = d.rf .hostFnCfg (fnKey h f) 0 5)
    (fun b f hb => ⟨hb, by rw [Dev.fn_updFn_same, hsame hb]⟩) (fun b f g _ hb => hb) (fun b f g hg hb => ⟨hb.1, by
      rw [← hb.2, Dev.fn, Dev.updFn, Dev.setFn, Dev.fn]
      exact congrArg HostFn.bar2Log (tabGet_put_ne _ _ _ (by unfold fnKey; omega) _)⟩)
    (List.range 9) List.nodup_range d (fun _ _ => rfl)
  exact (hall f (List.mem_range.2 hf)).2

/-- A function-level reset marks the requests of its function. -/
def Dev.quarantine (d : Dev) (h f : Nat) : Dev :=
  { d with host := { d.host with reqs := d.host.reqs.map (fun e => if e.2.h = h ∧ e.2.f = f then (e.1, { e.2 with quarantined := true }) else e) } }

theorem onFns_quarantine (d : Dev) (h f : Nat) : OnFns d (d.quarantine h f) := onFns_reqs _ _

theorem onFns_countBy (d : Dev) (e n : Nat) : OnFns d (d.countBy e n) := ⟨keeps_of_eq rfl rfl rfl, rfl, rfl, rfl, rfl, rfl, rfl⟩

/-- The function in a function-level reset, its requests marked. -/
def Dev.flrMarked (d : Dev) (h f : Nat) : Dev :=
  ((d.fnHalt h f).countBy (896 + 32 * (h / 4))
    ((d.fnHalt h f).host.reqs.filter (fun (e : Nat × HostReq) => e.2.h == h && e.2.f == f && !e.2.quarantined)).length).quarantine h f

theorem functionReset_eq (d : Dev) (h f : Nat) : d.functionReset h f = (((d.flrMarked h f).fnReset h f).lifeReset 5).showFaces := by
  rw [Dev.functionReset, Dev.flrMarked, Dev.quarantine, Dev.fnHalt]

theorem quarantine_marks {d : Dev} {h f t : Nat} {r : HostReq} (ht : tabFind t (d.quarantine h f).host.reqs = some r) (hh : r.h = h) (hf : r.f = f) :
    r.quarantined = true := by
  obtain ⟨e, -, he⟩ := List.mem_map.1 (mem_of_tabFind ht)
  split at he
  case isTrue =>
    obtain rfl := (Prod.mk.inj he).2
    rfl
  case isFalse hne =>
    obtain rfl := (Prod.mk.inj he).2
    exact absurd ⟨hh, hf⟩ hne

/-! ## The commands -/

section
variable {s : State} {h : Fin 8}

theorem hostLinkUp_trains (hp : s.dev.powered = true) (hx : s.dev.hostPortExists h.val = true) (hperst : s.dev.host.perst.getLsbD h.val = false)
    (htr : s.dev.host.training.getLsbD h.val = true) (hl : s.dev.linkUp h.val = false) (hf : FacesHidden s.dev) (t : LinkTrain) :
    Answers (.hostLinkUp h t) s (fun d => d.linkUp h.val = true ∧
      d.rf .hostPortStat h.val 1 3 = min t.rate.toNat (s.dev.rf .hostLinkCfg (h.val / 4) 4 3) ∧ d.rf .hostPortStat h.val 4 5 = min 16 (max 1 t.width.toNat) ∧
      d.rb .hostPortStat h.val 9 = (t.flit || decide (5 ≤ min t.rate.toNat (s.dev.rf .hostLinkCfg (h.val / 4) 4 3))) ∧ Keeps [.hostPortStat] s.dev d) := by
  refine answers_eventOn (c := .hostLinkUp h t) (rfl : execHostLinkUp h t s = _) hp ?_
  simp only [hx, hperst, htr, hl, Bool.not_false, Bool.and_self, if_true]
  obtain ⟨h0, h1, h2, h3, hlt⟩ := trainStat_fields (s.dev.rf .hostLinkCfg (h.val / 4) 4 3) t
  generalize trainStat (s.dev.rf .hostLinkCfg (h.val / 4) 4 3) t = v at *
  have hk : Keeps [.hostPortStat] s.dev (s.dev.setReg .hostPortStat h.val (BitVec.ofNat 64 v)) := keeps_setReg _ (List.mem_singleton_self _) _ _
  rw [showFaces_of_hidden (facesHidden_of_keeps hk (Dev.setReg_ptn ..) (by decide) (by decide) (by decide) hf)]
  have hrf (lo w : Nat) : (s.dev.setReg .hostPortStat h.val (BitVec.ofNat 64 v)).rf .hostPortStat h.val lo w = v / 2 ^ lo % 2 ^ w := by
    rw [Dev.rf, Dev.reg_setReg_same, wf_ofNat hlt]
  have hrb (i : Nat) : (s.dev.setReg .hostPortStat h.val (BitVec.ofNat 64 v)).rb .hostPortStat h.val i = (v / 2 ^ i % 2 == 1) := by
    rw [Dev.rb, Dev.reg_setReg_same, wbit_eq_wf, wf_ofNat hlt, Bool.eq_iff_iff, decide_eq_true_eq, beq_iff_eq, Nat.pow_one]
  refine ⟨?_, (hrf 1 3).trans h1, (hrf 4 5).trans h2, ?_, hk⟩
  · rw [Dev.linkUp, hrb, Nat.pow_zero, Nat.div_one, h0]
    rfl
  · rw [hrb, show 2 ^ 9 = 512 from rfl, h3]
    cases t.flit || decide (5 ≤ min t.rate.toNat (s.dev.rf .hostLinkCfg (h.val / 4) 4 3)) <;> rfl

theorem perstRelease_trains (hperst : s.dev.host.perst.getLsbD h.val = true) :
    Answers (.perstRelease h) s (fun d => d.host.perst.getLsbD h.val = false ∧ Keeps [] s.dev d ∧
      (∀ k, k ≠ h.val → d.host.perst.getLsbD k = s.dev.host.perst.getLsbD k) ∧
      ((s.dev.powered && s.dev.boot.imaged && s.dev.hostPortExists h.val) = true → Claims.Up s.dev.life.host d.life.host h.val)) := by
  have hrun {p : Dev → Prop}
      (hr : p (if (s.dev.powered && s.dev.boot.imaged && s.dev.hostPortExists h.val) = true then (s.dev.perstHigh h.val).hostTrain h.val
        else s.dev.perstHigh h.val)) : Answers (.perstRelease h) s p := by
    refine answers_eventAny (c := .perstRelease h) (rfl : execPerstRelease h s = _) ?_
    simp only [hperst, Bool.not_true, Bool.false_eq_true, if_false]
    exact hr
  have hk : Keeps [] s.dev (s.dev.perstHigh h.val) := keeps_of_eq rfl rfl rfl
  have hbit (k : Nat) : (s.dev.perstHigh h.val).host.perst.getLsbD k = (s.dev.host.perst.getLsbD k && decide (k ≠ h.val)) := clearBit_getLsbD _ _ _
  have h1 : (s.dev.perstHigh h.val).host.perst.getLsbD h.val = false := by rw [hbit]; simp
  have h2 (k : Nat) (hne : k ≠ h.val) : (s.dev.perstHigh h.val).host.perst.getLsbD k = s.dev.host.perst.getLsbD k := by rw [hbit]; simp [hne]
  refine hrun ?_
  split
  case isTrue => exact ⟨h1, hk, h2, fun _ => up_hostTrain _ _⟩
  case isFalse hno => exact ⟨h1, hk, h2, fun hyes => absurd hyes hno⟩

theorem hostLinkDown_resets (hp : s.dev.powered = true) (hx : s.dev.hostPortExists h.val = true) (hq : PortQuiet s.dev h.val) (hl : s.dev.linkUp h.val = true) :
    Answers (.hostLinkDown h) s (fun d => Claims.PortReset h.val s.dev d ∧ RaisesSome 1152 1 none s.dev d ∧ Claims.Up s.dev.life.host d.life.host h.val ∧
      Claims.Up s.dev.life.resets d.life.resets 4) := by
  refine answers_eventOn (c := .hostLinkDown h) (rfl : execHostLinkDown h s = _) hp ?_
  rw [if_pos (by rw [hx, hl]; rfl)]
  obtain ⟨h1, h2, h3, h4⟩ := countedReset_shows (d := s.dev.raiseFree 1152 1 none) ⟨rfl, rfl, rfl, rfl⟩ rfl rfl rfl hq
  obtain ⟨v, hv⟩ := raisesSome_raiseFree s.dev 1152 1 none
  exact ⟨h1, ⟨v, by rw [Raises, h2]; exact hv⟩, h3, h4⟩

theorem hotReset_resets (hp : s.dev.powered = true) (hx : s.dev.hostPortExists h.val = true) (hq : PortQuiet s.dev h.val) (hl : s.dev.linkUp h.val = true) :
    Answers (.hotReset h) s (fun d => Claims.PortReset h.val s.dev d ∧ d.flt = s.dev.flt ∧ Claims.Up s.dev.life.host d.life.host h.val ∧
      Claims.Up s.dev.life.resets d.life.resets 4) := by
  refine answers_eventOn (c := .hotReset h) (rfl : execHotReset h s = _) hp ?_
  rw [if_pos (by rw [hx, hl]; rfl)]
  exact countedReset_shows (d := s.dev) ⟨rfl, rfl, rfl, rfl⟩ rfl rfl rfl hq

theorem fundamentalReset_resets (hp : s.dev.powered = true) (hx : s.dev.hostPortExists h.val = true) (hq : PortQuiet s.dev h.val)
    (hperst : s.dev.host.perst.getLsbD h.val = false) :
    Answers (.fundamentalReset h) s (fun d => d.linkUp h.val = false ∧ d.host.perst.getLsbD h.val = true ∧
      (∀ f < 9, (d.fn h.val f).bar2Log = s.dev.rf .hostFnCfg (fnKey h.val f) 0 5) ∧ Claims.Up s.dev.life.resets d.life.resets 3 ∧ d.mem = s.dev.mem) := by
  have hrun {p : Dev → Prop} (hr : p ((((s.dev.perstLow h.val).lifeReset 3).portReset h.val).applyBar2 h.val)) : Answers (.fundamentalReset h) s p := by
    refine answers_eventOn (c := .fundamentalReset h) (rfl : execFundamentalReset h s = _) hp ?_
    rw [if_neg (by rw [hx, hperst]; decide)]
    exact hr
  have hk : Keeps [] s.dev ((s.dev.perstLow h.val).lifeReset 3) := keeps_of_eq rfl rfl rfl
  obtain ⟨h1, h2, h3, h4, h5⟩ := portReset_shows (d := (s.dev.perstLow h.val).lifeReset 3) (h := h.val)
    (portQuiet_of_keeps hk rfl rfl hq)
  refine hrun ?_
  generalize ((s.dev.perstLow h.val).lifeReset 3).portReset h.val = e at *
  obtain ⟨hl, -, -, hm, -⟩ := h1
  obtain ⟨fns, he⟩ := applyBar2_rest e h.val
  refine ⟨?_, ?_, fun f hf => ?_, ?_, ?_⟩
  · rw [he]
    exact hl
  · rw [he]
    exact h4 ▸ setBit_getLsbD _ _ h.isLt
  · rw [applyBar2_shows e h.val f hf, h5.rf (by decide), hk.rf (by decide)]
  · have hres : (e.applyBar2 h.val).life.resets = ((s.dev.perstLow h.val).lifeReset 3).life.resets := by rw [he, ← h2]
    rw [hres]
    exact Dev.tabGet_lifeReset _ 3
  · rw [he]
    exact hm

theorem functionLevelReset_resets {f : Fin 9} (hp : s.dev.powered = true) (hx : s.dev.fnExists h.val f.val = true) (hf : f.val ≠ 0)
    (hq : Claims.FnQuiet s.dev h.val f.val) (hn : Claims.NoEnds s.dev h.val f.val) :
    Answers (.functionLevelReset h f) s (fun d => Claims.FnReset h.val f.val s.dev d ∧ d.mem = s.dev.mem ∧ d.thr = s.dev.thr ∧ Claims.Up s.dev.life.resets d.life.resets 5 ∧
      ∀ t r, tabFind t d.host.reqs = some r → r.h = h.val → r.f = f.val → r.quarantined = true) := by
  refine answers_eventOn (c := .functionLevelReset h f) (rfl : execFunctionLevelReset h f s = _) hp ?_
  rw [if_pos hx, functionReset_eq]
  have hfn : ((s.dev.flrMarked h.val f.val).fn h.val f.val) = s.dev.fn h.val f.val := by
    have he : (s.dev.flrMarked h.val f.val).host.fns = s.dev.host.fns := (fnHalt_fns hq : (s.dev.fnHalt h.val f.val).host.fns = _)
    rw [Dev.fn, he, ← Dev.fn]
  have h1 : OnFns s.dev (s.dev.flrMarked h.val f.val) := ((onFns_fnHalt hq).trans (onFns_countBy _ _ _)).trans (onFns_quarantine _ _ _)
  have hmarks {t : Nat} {r : HostReq} (ht : tabFind t (s.dev.flrMarked h.val f.val).host.reqs = some r) := quarantine_marks (d := _) ht
  generalize s.dev.flrMarked h.val f.val = e at *
  rw [fnReset_of_quiet (fnQuiet_of_onFns h1 hq) (noEnds_of_onFns h1 hn) fun he => hf he.1]
  have h2 : OnFns s.dev (e.fnConfigReset h.val f.val) := h1.trans onFns_fnConfigReset
  have hreset := fnReset_fnConfigReset (d := e) (h := h.val) (f := f.val) s.dev (by rw [hfn])
  have hreqs := reqs_fnConfigReset (d := e) (h := h.val) (f := f.val)
  generalize e.fnConfigReset h.val f.val = c at *
  have hk : Keeps fnRegs s.dev (c.lifeReset 5) := h2.keeps
  rw [showFaces_of_hidden (facesHidden_of_keeps hk h2.ptn (by decide) (by decide) (by decide) hq.2.2)]
  refine ⟨hreset, hk.2.1, hk.2.2, ?_, fun t r ht => ?_⟩
  · rw [Claims.Up, ← h2.life]
    exact Dev.tabGet_lifeReset c 5
  · have ht' : tabFind t e.host.reqs = some r := by rw [← hreqs]; exact ht
    exact hmarks ht'

theorem aspmL1Entry_idles (hp : s.dev.powered = true) (hl : s.dev.linkUp h.val = true) (hb : s.dev.rb .hostPortStat h.val 15 = false)
    (hr : ∀ e ∈ s.dev.host.reqs, e.2.h = h.val → e.2.reply ≠ none) :
    Answers (.aspmL1Entry h) s (fun d => d.rb .hostPortStat h.val 15 = true ∧ d.linkUp h.val = true ∧ Counts [evHost h.val 11] s.dev d ∧ Keeps [.hostPortStat] s.dev d) := by
  have hnone : s.dev.tagsWhere (fun r => r.h == h.val) = 0 := by
    rw [Dev.tagsWhere, List.length_eq_zero_iff, List.filter_eq_nil_iff]
    intro e he
    by_cases hh : e.2.h = h.val
    · simp [hh, Option.isNone_iff_eq_none, hr e he hh]
    · simp [hh]
  refine answers_eventOn (c := .aspmL1Entry h) (rfl : execAspmL1Entry h s = _) hp ?_
  rw [if_pos (by simp [hl, hb, hnone])]
  refine ⟨?_, ?_, ?_, (keeps_count_iff ..).2 ((keeps_setRb_iff (by decide) _ _ _).2 (Keeps.refl _ _))⟩
  · exact Dev.rb_setRb_same s.dev _ _ _ _ (by decide)
  · exact (Dev.rb_setRb_ne s.dev _ _ _ _ _ (by decide)).trans hl
  · exact counts_count (counts_same (counts_refl _) (fun _ => rfl)) _

end

/-- Settles O39. -/
theorem hostLinksAndFunctionsReset : Obligations.HostLinksAndFunctionsReset := fun _ _ =>
  ⟨fun t hp hx hperst htr hl hf => hostLinkUp_trains hp hx hperst htr hl hf t,
    fun hp hx hm hq => ⟨fun hl => ⟨hostLinkDown_resets hp hx ⟨hm, hq⟩ hl, hotReset_resets hp hx ⟨hm, hq⟩ hl⟩,
      fundamentalReset_resets hp hx ⟨hm, hq⟩⟩,
    fun _ hp hx hf hq hn => functionLevelReset_resets hp hx hf hq hn, perstRelease_trains, aspmL1Entry_idles⟩

end Sys2Proof.Machine
end

section
/-! PROOFS. Mailboxes without a face: posting, reading, doorbells, masks and refusals (R348 to R352, R354, R357). -/
namespace Sys2Proof.Machine
open Sys2Proof

/-! ## Mailboxes without a face -/

theorem faceShow_hidden {d : Dev} {m : Nat} (h : d.faceAddr m = none) : d.faceShow m = d := by rw [Dev.faceShow, h]

theorem faceAddr_of_regs {a b : Dev} (h : ∀ r ∈ [Reg.mbxFace0, .mbxFace1], ∀ k, b.reg r k = a.reg r k) (m : Nat) : b.faceAddr m = a.faceAddr m := by
  have hb (k i : Nat) : b.rb .mbxFace1 k i = a.rb .mbxFace1 k i := by rw [Dev.rb, h _ (by decide), ← Dev.rb]
  have hf (r : Reg) (hr : r ∈ [Reg.mbxFace0, .mbxFace1]) (k lo w : Nat) : b.rf r k lo w = a.rf r k lo w := by rw [Dev.rf, h r hr, ← Dev.rf]
  simp only [Dev.faceAddr, hb, hf _ (List.mem_cons_self), hf .mbxFace1 (by decide)]

/-- A step that leaves the face registers shows no face where there is none. -/
theorem faceShow_of_keeps {rs : List Reg} {a b : Dev} {m : Nat} (hk : Keeps rs a b) (h0 : .mbxFace0 ∉ rs) (h1 : .mbxFace1 ∉ rs) (h : a.faceAddr m = none) :
    b.faceShow m = b := faceShow_hidden ((faceAddr_of_keeps hk h0 h1 m).trans h)

theorem onlyAt_setReg (d : Dev) (r : Reg) (i : Nat) (v : Word) : Claims.OnlyAt r i d (d.setReg r i v) := fun _ hj => Dev.reg_setReg_ne _ _ (.inr hj)

theorem onlyAt_trans {r : Reg} {i : Nat} {a b c : Dev} (h : Claims.OnlyAt r i a b) (h' : Claims.OnlyAt r i b c) : Claims.OnlyAt r i a c :=
  fun j hj => (h' j hj).trans (h j hj)

theorem rcvEnd_of_keeps {rs : List Reg} {a b : Dev} (hk : Keeps rs a b) (hp : b.ptn = a.ptn) (hr : .mbxCfg ∉ rs) (m : Nat) : b.rcvEnd m = a.rcvEnd m := by
  simp only [Dev.rcvEnd, Dev.mbx, hp, hk.rf hr]

theorem endFn_of_keeps {rs : List Reg} {a b : Dev} (hk : Keeps rs a b) (hl : .hostLinkCfg ∉ rs) (hs : .slcState ∉ rs) (e : MbxEnd) : b.endFn e = a.endFn e := by
  simp only [Dev.endFn, Dev.mgmtPort, Dev.slicePort, Dev.sliceFn, Dev.slicePart, hk.rf hl, hk.rf hs]

/-! ## Who may -/

section
variable {d : Dev} {who : Who} {m : Nat} {act : Dev → Dev}

theorem sndWrite_acts (hs : (d.mbxValid m && d.isEnd who (d.sndEnd m)) = true) (hd : d.rxDown m = false) : d.sndWrite who m act = act d := by
  obtain ⟨h1, h2⟩ := Bool.and_eq_true_iff.1 hs
  simp [Dev.sndWrite, h1, h2, hd]

theorem sndWrite_down (hs : (d.mbxValid m && d.isEnd who (d.sndEnd m)) = true) (hd : d.rxDown m = true) : d.sndWrite who m act = d.denyWrite who := by
  obtain ⟨h1, h2⟩ := Bool.and_eq_true_iff.1 hs
  simp [Dev.sndWrite, h1, h2, hd]

theorem sndWrite_denied (hs : (d.mbxValid m && d.isEnd who (d.sndEnd m)) = false) : d.sndWrite who m act = (d.mbxDenied who).denyWrite who := by
  have h : (!d.mbxValid m || !d.isEnd who (d.sndEnd m)) = true := by rw [← Bool.not_and, hs]; rfl
  rw [Dev.sndWrite, if_pos h]

theorem rxPtrRead_denied (hs : (d.mbxValid m && d.isEnd who (d.rcvEnd m)) = false) : d.rxPtrRead who m = (none, (d.mbxDenied who).denyRead who) := by
  have h : (!d.mbxValid m || !d.isEnd who (d.rcvEnd m)) = true := by rw [← Bool.not_and, hs]; rfl
  rw [Dev.rxPtrRead, if_pos h]

theorem rxPtrRead_allowed (hs : (d.mbxValid m && d.isEnd who (d.rcvEnd m)) = true) (hm : m ≠ 1 ∨ (d.mbxRead m).2.fw.posting = none) :
    d.rxPtrRead who m = (some (d.mbxRead m).1, (d.mbxRead m).2) := by
  obtain ⟨h1, h2⟩ := Bool.and_eq_true_iff.1 hs
  have hpost : (if m = 1 then (d.mbxRead m).2.fwPostNow else (d.mbxRead m).2) = (d.mbxRead m).2 := by
    split
    case isTrue he => rw [Dev.fwPostNow, hm.resolve_left (not_not.2 he)]
    case isFalse => rfl
  rw [Dev.rxPtrRead, if_neg (by simp [h1, h2])]
  dsimp only
  rw [hpost]

variable {act : Nat → Dev → Dev}

theorem sideWrite_acts (hs : (d.mbxValid m && d.isEnd who (d.sndEnd m) || d.mbxValid m && d.isEnd who (d.rcvEnd m)) = true)
    (hd : (d.mbxValid m && d.isEnd who (d.rcvEnd m)) = true ∨ d.rxDown m = false) :
    d.sideWrite who m act = (act (sideBits (d.mbxValid m && d.isEnd who (d.sndEnd m)) (d.mbxValid m && d.isEnd who (d.rcvEnd m))) d).faceShow m := by
  have hv : d.mbxValid m = true := by
    cases hv : d.mbxValid m with
    | true => rfl
    | false => simp [hv] at hs
  simp only [hv, Bool.true_and] at hs hd ⊢
  have hdown : (d.isEnd who (d.sndEnd m) && !d.isEnd who (d.rcvEnd m) && d.rxDown m) = false := by
    rcases hd with h | h <;> simp [h]
  rw [Dev.sideWrite]
  simp only [hv, hs, hdown, Bool.not_true, Bool.or_self, Bool.false_eq_true, if_false]

theorem sideWrite_denied (hs : (d.mbxValid m && d.isEnd who (d.sndEnd m) || d.mbxValid m && d.isEnd who (d.rcvEnd m)) = false) :
    d.sideWrite who m act = (d.mbxDenied who).denyWrite who := by
  have h : (!d.mbxValid m || !(d.isEnd who (d.sndEnd m) || d.isEnd who (d.rcvEnd m))) = true := by
    rw [← Bool.not_and, Bool.and_or_distrib_left, hs]
    rfl
  unfold Dev.sideWrite
  dsimp only
  rw [if_pos h]

theorem sideWrite_down (hs : (d.mbxValid m && d.isEnd who (d.sndEnd m)) = true) (hr : (d.mbxValid m && d.isEnd who (d.rcvEnd m)) = false) (hd : d.rxDown m = true) :
    d.sideWrite who m act = d.denyWrite who := by
  obtain ⟨h1, h2⟩ := Bool.and_eq_true_iff.1 hs
  have h3 : d.isEnd who (d.rcvEnd m) = false := by simpa [h1] using hr
  simp [Dev.sideWrite, h1, h2, h3, hd]

end

theorem refused_raised {who : Who} {a b : Dev} (h : Claims.Refused who b (b.denyWrite who)) (hk : Keeps [] a b) (hp : b.ptn = a.ptn) (hh : b.host = a.host) :
    Claims.Refused who a (b.denyWrite who) := by
  obtain ⟨h1, h2, h3⟩ := h
  refine ⟨hk.trans h1, h2.trans hp, fun x f he => ?_⟩
  rw [h3 x f he, Dev.fn, hh, ← Dev.fn]

/-! ## Posting -/

section
variable {d : Dev} {m : Nat}

theorem mbxSend_posts (hf : d.faceAddr m = none) (he : d.rb .mbxStat m 0 = false) : (d.mbxSend m).rb .mbxStat m 0 = true ∧ (d.mbxSend m).rb .mbxStat m 1 = false ∧
    (d.mbxSend m).rb .mbxStat m 5 = false ∧ ((d.mbxSend m).mbx m).ptr.toNat = d.rf .mbxTxPtr0 m 0 32 + d.rf .mbxTxPtr1 m 0 32 * 2 ^ 32 ∧
    ((d.mbxSend m).mbx m).len.toNat = d.rf .mbxTxLen m 0 32 ∧ Keeps [.mbxStat] d (d.mbxSend m) ∧ Claims.OnlyAt .mbxStat m d (d.mbxSend m) ∧
    Counts [11] d (d.mbxSend m) := by
  have hlow := Dev.rf_lt d (r := .mbxTxPtr0) (i := m) 0 32
  have hhigh := Dev.rf_lt d (r := .mbxTxPtr1) (i := m) 0 32
  have hptr : (BitVec.ofNat 64 (d.rf .mbxTxPtr0 m 0 32 + d.rf .mbxTxPtr1 m 0 32 * 2 ^ 32)).toNat = d.rf .mbxTxPtr0 m 0 32 + d.rf .mbxTxPtr1 m 0 32 * 2 ^ 32 := by
    rw [BitVec.toNat_ofNat, Nat.mod_eq_of_lt]
    omega
  have hlen : ((d.reg .mbxTxLen m).setWidth 32).toNat = d.rf .mbxTxLen m 0 32 := by
    rw [BitVec.toNat_setWidth, Dev.rf, wf_eq_mod]
  rw [Dev.mbxSend]
  generalize BitVec.ofNat 64 (d.rf .mbxTxPtr0 m 0 32 + d.rf .mbxTxPtr1 m 0 32 * 2 ^ 32) = ptr at *
  generalize (d.reg .mbxTxLen m).setWidth 32 = len at *
  have hk : Keeps [.mbxStat] d (((((d.setMbx m { d.mbx m with ptr := ptr, len := len }).count 11).setRb .mbxStat m 0 true).setRb .mbxStat m 1 false).setRb
    .mbxStat m 5 false) := by simp
  have heq : d.mbxPost m ptr len = ((((d.setMbx m { d.mbx m with ptr := ptr, len := len }).count 11).setRb .mbxStat m 0 true).setRb .mbxStat m 1 false).setRb
      .mbxStat m 5 false := by
    rw [Dev.mbxPost, if_neg (by simp [he])]
    exact faceShow_of_keeps hk (by decide) (by decide) hf
  rw [heq]
  refine ⟨?_, ?_, Dev.rb_setRb_same _ _ _ _ _ (by decide), ?_, ?_, hk, ?_, ?_⟩
  · rw [Dev.rb_setRb_ne _ _ _ _ _ _ (by decide), Dev.rb_setRb_ne _ _ _ _ _ _ (by decide), Dev.rb_setRb_same _ _ _ _ _ (by decide)]
  · rw [Dev.rb_setRb_ne _ _ _ _ _ _ (by decide), Dev.rb_setRb_same _ _ _ _ _ (by decide)]
  · rw [Dev.mbx, Dev.setRb_ptn, Dev.setRb_ptn, Dev.setRb_ptn, Dev.count_ptn, ← Dev.mbx, Dev.mbx_setMbx_same, hptr]
  · rw [Dev.mbx, Dev.setRb_ptn, Dev.setRb_ptn, Dev.setRb_ptn, Dev.count_ptn, ← Dev.mbx, Dev.mbx_setMbx_same, hlen]
  · exact onlyAt_trans (b := (d.setMbx m { d.mbx m with ptr := ptr, len := len }).count 11) (fun _ _ => by rw [Dev.count_reg, Dev.setMbx_reg])
      (onlyAt_trans (onlyAt_trans (onlyAt_setReg _ _ _ _) (onlyAt_setReg _ _ _ _)) (onlyAt_setReg _ _ _ _))
  · exact counts_same (counts_count (counts_same (counts_refl d) (c := d.setMbx m { d.mbx m with ptr := ptr, len := len }) fun _ => by rw [Dev.counter, Dev.setMbx_cnt, ← Dev.counter]) 11)
      fun _ => by rw [Dev.counter, Dev.setRb_cnt, Dev.setRb_cnt, Dev.setRb_cnt, ← Dev.counter]

theorem mbxSend_full (hf : d.faceAddr m = none) (he : d.rb .mbxStat m 0 = true) : d.mbxSend m = (d.setRb .mbxStat m 3 true).count 12 := by
  have hk : Keeps [.mbxStat] d (d.setRb .mbxStat m 3 true) := by simp
  rw [Dev.mbxSend, Dev.mbxPost, if_pos he, faceShow_of_keeps hk (by decide) (by decide) hf]

/-! ## Ringing -/

/-- A bit that is pending, or masked, sends no route. -/
theorem ringBit_silent {b : Nat} (hb : b < 64) (hm : d.rb .mbxDbPend m b = true ∨ d.rb .mbxDbMask m b = true) :
    (∀ k, (d.ringBit m b).rb .mbxDbPend m k = (d.rb .mbxDbPend m k || decide (k = b))) ∧ Keeps [.mbxDbPend] d (d.ringBit m b) ∧
    Claims.OnlyAt .mbxDbPend m d (d.ringBit m b) ∧ (d.ringBit m b).fw = d.fw ∧ (d.ringBit m b).outs = d.outs := by
  unfold Dev.ringBit
  dsimp only
  split
  case isTrue hp =>
    refine ⟨fun k => ?_, Keeps.refl _ _, fun _ _ => rfl, rfl, rfl⟩
    by_cases hk : k = b
    · rw [hk, hp]; rfl
    · simp [hk]
  case isFalse hp =>
    have hmask : (d.setRb .mbxDbPend m b true).rb .mbxDbMask m b = true := by
      rw [Dev.rb_setRb_other _ _ _ _ (.inl (by decide))]
      exact hm.resolve_left hp
    rw [if_pos hmask]
    refine ⟨fun k => ?_, by simp, onlyAt_setReg _ _ _ _, Dev.setRb_fw .., Dev.setRb_outs ..⟩
    by_cases hk : k = b
    · rw [hk, Dev.rb_setRb_same _ _ _ _ _ hb]; simp
    · rw [Dev.rb_setRb_ne _ _ _ _ _ _ hk]; simp [hk]

theorem foldl_ringBit_silent (v : Nat) (l : List Nat) (hl : ∀ b ∈ l, b < 30)
    (hm : ∀ b ∈ l, nbit v b = true → d.rb .mbxDbPend m b = true ∨ d.rb .mbxDbMask m b = true) :
    (∀ k, (l.foldl (fun d b => if nbit v b then d.ringBit m b else d) d).rb .mbxDbPend m k = (d.rb .mbxDbPend m k || (decide (k ∈ l) && nbit v k))) ∧
    Keeps [.mbxDbPend] d (l.foldl (fun d b => if nbit v b then d.ringBit m b else d) d) ∧
    Claims.OnlyAt .mbxDbPend m d (l.foldl (fun d b => if nbit v b then d.ringBit m b else d) d) := by
  induction l generalizing d with
  | nil => exact ⟨fun k => by simp, Keeps.refl _ _, fun _ _ => rfl⟩
  | cons b l ih =>
    rw [List.foldl_cons]
    by_cases hb : nbit v b = true
    · obtain ⟨h1, h2, h3, -⟩ := ringBit_silent (m := m) (Nat.lt_trans (hl b List.mem_cons_self) (by decide)) (hm b List.mem_cons_self hb)
      rw [if_pos hb]
      obtain ⟨g1, g2, g3⟩ := ih (d := d.ringBit m b) (fun c hc => hl c (List.mem_cons_of_mem _ hc)) fun c hc hv => by
        rw [h1, h2.rb (by decide)]
        exact (hm c (List.mem_cons_of_mem _ hc) hv).imp_left fun h => by rw [h]; rfl
      refine ⟨fun k => ?_, h2.trans g2, onlyAt_trans h3 g3⟩
      rw [g1, h1]
      by_cases hk : k = b
      · simp [hk, hb]
      · simp [hk]
    · rw [if_neg hb]
      obtain ⟨g1, g2, g3⟩ := ih (d := d) (fun c hc => hl c (List.mem_cons_of_mem _ hc)) fun c hc hv => hm c (List.mem_cons_of_mem _ hc) hv
      refine ⟨fun k => ?_, g2, g3⟩
      rw [g1]
      by_cases hk : k = b
      · subst hk
        simp [Bool.eq_false_iff.2 hb]
      · simp [hk]

theorem ringBits_silent {v : W32} (hm : ∀ b < 30, v.getLsbD b = true → d.rb .mbxDbPend m b = true ∨ d.rb .mbxDbMask m b = true) :
    (∀ k, (d.ringBits m v.toNat).rb .mbxDbPend m k = (d.rb .mbxDbPend m k || (decide (k < 30) && v.getLsbD k))) ∧ Keeps [.mbxDbPend] d (d.ringBits m v.toNat) ∧
    Claims.OnlyAt .mbxDbPend m d (d.ringBits m v.toNat) := by
  obtain ⟨h1, h2, h3⟩ := foldl_ringBit_silent (d := d) (m := m) v.toNat (List.range 30) (fun b hb => List.mem_range.1 hb)
    fun b hb hv => hm b (List.mem_range.1 hb) hv
  refine ⟨fun k => ?_, h2, h3⟩
  rw [Dev.ringBits, h1]
  simp only [List.mem_range]
  rfl

theorem foldl_single {F : Dev → Nat → Dev} {b : Nat} (l : List Nat) (hl : l.Nodup) (hb : b ∈ l) (hF : ∀ e k, k ≠ b → F e k = e) : l.foldl F d = F d b := by
  have hrest : ∀ (l : List Nat) (e : Dev), b ∉ l → l.foldl F e = e := by
    intro l
    induction l with
    | nil => exact fun _ _ => rfl
    | cons k l ih =>
      intro e hn
      rw [List.foldl_cons, hF e k (List.ne_of_not_mem_cons hn).symm, ih e (List.not_mem_of_not_mem_cons hn)]
  induction l with
  | nil => exact absurd hb List.not_mem_nil
  | cons k l ih =>
    obtain ⟨hk, hl⟩ := List.nodup_cons.1 hl
    rw [List.foldl_cons]
    by_cases he : k = b
    · rw [he, hrest l _ (he ▸ hk)]
    · rw [hF d k he]
      exact ih hl ((List.mem_cons.1 hb).resolve_left (Ne.symm he))

theorem nbit_shiftLeft_one {b : Nat} (hb : b < 32) (k : Nat) : nbit (1#32 <<< b).toNat k = decide (k = b) := by
  have h : (1#32 <<< b).toNat = 2 ^ b := by
    rw [BitVec.toNat_shiftLeft, Nat.shiftLeft_eq, Nat.mod_eq_of_lt]
    · simp
    · simpa using Nat.pow_lt_pow_right (by decide) hb
  rw [nbit, h, Nat.testBit_two_pow, Bool.decide_congr eq_comm]

/-- One bit alone is rung. -/
theorem ringBits_one {b : Nat} (hb : b < 30) : d.ringBits m (1#32 <<< b).toNat = d.ringBit m b := by
  have hbit := nbit_shiftLeft_one (b := b) (by omega)
  rw [Dev.ringBits, foldl_single (b := b) (List.range 30) List.nodup_range (List.mem_range.2 hb) fun e k hk => by rw [hbit, if_neg (by simpa using hk)],
    hbit, if_pos (by simp)]

/-- A bit that is neither pending nor masked sends its route. -/
theorem ringBit_sends {b : Nat} (hp : d.rb .mbxDbPend m b = false) (hm : d.rb .mbxDbMask m b = false) : d.ringBit m b = (d.setRb .mbxDbPend m b true).sendRoute m b := by
  unfold Dev.ringBit
  dsimp only
  rw [if_neg (by simp [hp]), if_neg]
  rw [Dev.rb_setRb_other _ _ _ _ (.inl (by decide)), hm]
  decide

/-! ## Routes -/

theorem sendRoute_none {b : Nat} (h : d.rf .mbxRoute (32 * m + b) 0 2 = 0) : d.sendRoute m b = d := by
  unfold Dev.sendRoute
  dsimp only
  rw [h]
  rfl

theorem sendRoute_thread {b : Nat} (h : d.rf .mbxRoute (32 * m + b) 0 2 = 1) :
    d.sendRoute m b = d.route (d.mbx m).part false (d.rf .mbxRoute (32 * m + b) 2 11) (d.rf .mbxRoute (32 * m + b) 13 5) := by
  unfold Dev.sendRoute
  dsimp only
  rw [h]
  rfl

theorem sendRoute_vector {b x f : Nat} (h : d.rf .mbxRoute (32 * m + b) 0 2 = 3) (hb : b < 30) (he : d.endFn (d.rcvEnd m) = some (x, f)) :
    d.sendRoute m b = d.interrupt x f (d.rf .mbxRoute (32 * m + b) 2 11) := by
  unfold Dev.sendRoute
  dsimp only
  rw [h, if_pos hb, he]
  rfl

theorem route_regs (p : Nat) (group : Bool) (n line : Nat) : (d.route p group n line).regs = d.regs := by
  have hset (e : Dev) (t : Nat) : (e.setEvent t line).regs = e.regs := (keepsTimers_setEvent e t line).2.1
  have hfold (l : List Nat) (e : Dev) : (l.foldl (fun d u => d.setEvent u line) e).regs = e.regs :=
    foldl_related (R := fun a b : Dev => b.regs = a.regs) (fun _ => rfl) (fun h h' => h'.trans h) (fun e t => hset e t) l e
  unfold Dev.route Dev.signal
  split_ifs
  · rfl
  · exact hfold _ _
  · rfl
  · exact hset _ _
  · rfl

/-- A route's way leaves the faces as they are. -/
theorem sendRoute_faces (b : Nat) {r : Reg} (hr : r ∈ [Reg.mbxFace0, .mbxFace1]) (k : Nat) : (d.sendRoute m b).reg r k = d.reg r k := by
  have hroute (p : Nat) (g : Bool) (n l : Nat) : (d.route p g n l).reg r k = d.reg r k := by rw [Dev.reg, route_regs, ← Dev.reg]
  have hint (x f v : Nat) : (d.interrupt x f v).reg r k = d.reg r k :=
    ((keeps_interrupt_iff (rs := [.hostPortStat, .hostIntxPend]) (by decide) (by decide) x f v).2 (Keeps.refl _ d)).reg
      (by revert hr; cases r <;> decide) k
  unfold Dev.sendRoute
  dsimp only
  split
  · exact hroute _ _ _ _
  · exact hroute _ _ _ _
  · split
    · exact hint _ _ _
    · rfl
  · rfl

/-! ## Reading -/

/-- The message of a mailbox is latched for its receiver, and full is cleared. -/
def Dev.latched (d : Dev) (m : Nat) : Dev :=
  ((((d.setRf .mbxRxPtr1 m 0 32 ((d.mbx m).ptr.toNat / 2 ^ 32)).setRf .mbxRxLen m 0 32 (d.mbx m).len.toNat).setRf .mbxRxPtr0 m 0 32 (d.mbx m).ptr.toNat).setRb
    .mbxStat m 0 false).setRb .mbxStat m 5 true

theorem mbxRead_full (h : d.rb .mbxStat m 0 = true) : d.mbxRead m = ((d.mbx m).ptr, ((d.latched m).ringBit m 30).faceShow m) := by
  rw [Dev.mbxRead, if_pos h]
  rfl

theorem mbxRead_empty (h : d.rb .mbxStat m 0 = false) :
    d.mbxRead m = (0, ((d.setReg .mbxRxPtr0 m 0).setReg .mbxRxPtr1 m 0).setReg .mbxRxLen m 0) := by
  rw [Dev.mbxRead, if_neg (by simp [h])]

theorem keeps_latched : Keeps [.mbxRxPtr0, .mbxRxPtr1, .mbxRxLen, .mbxStat, .mbxDbPend] d (d.latched m) := by simp [Dev.latched]

/-- What the receiver's read of a full mailbox leaves. -/
theorem mbxRead_shows (hf : d.faceAddr m = none) (h : d.rb .mbxStat m 0 = true) (hm : d.rb .mbxDbPend m 30 = true ∨ d.rb .mbxDbMask m 30 = true) :
    (d.mbxRead m).2.rf .mbxRxPtr0 m 0 32 = (d.mbx m).ptr.toNat % 2 ^ 32 ∧ (d.mbxRead m).2.rf .mbxRxPtr1 m 0 32 = (d.mbx m).ptr.toNat / 2 ^ 32 ∧
    (d.mbxRead m).2.rf .mbxRxLen m 0 32 = (d.mbx m).len.toNat ∧ (d.mbxRead m).2.rb .mbxStat m 0 = false ∧ (d.mbxRead m).2.rb .mbxStat m 5 = true ∧
    (d.mbxRead m).2.rb .mbxDbPend m 30 = true ∧ Keeps [.mbxRxPtr0, .mbxRxPtr1, .mbxRxLen, .mbxStat, .mbxDbPend] d (d.mbxRead m).2 ∧
    (d.mbxRead m).2.fw = d.fw ∧ (d.mbxRead m).2.outs = d.outs := by
  have hk := keeps_latched (d := d) (m := m)
  have hkp : Keeps [.mbxRxPtr0, .mbxRxPtr1, .mbxRxLen, .mbxStat] d (d.latched m) := by simp [Dev.latched]
  obtain ⟨h1, h2, -, h4, h5⟩ := ringBit_silent (d := d.latched m) (m := m) (b := 30) (by decide)
    (by rw [hkp.rb (by decide), hk.rb (by decide)]; exact hm)
  have hk2 : Keeps [.mbxRxPtr0, .mbxRxPtr1, .mbxRxLen, .mbxStat, .mbxDbPend] d ((d.latched m).ringBit m 30) := hk.trans (h2.mono (by decide))
  have hptr : (d.mbx m).ptr.toNat / 2 ^ 32 < 2 ^ 32 := by have := (d.mbx m).ptr.isLt; omega
  rw [mbxRead_full h]
  dsimp only
  rw [faceShow_of_keeps hk2 (by decide) (by decide) hf]
  refine ⟨?_, ?_, ?_, ?_, ?_, ?_, hk2, ?_, ?_⟩
  · rw [h2.rf (by decide), Dev.latched, Dev.rf_setRb_other _ _ _ _ _ (.inl (by decide)), Dev.rf_setRb_other _ _ _ _ _ (.inl (by decide)),
      Dev.rf_setRf_same _ _ _ _ _ _ (by decide)]
  · rw [h2.rf (by decide), Dev.latched, Dev.rf_setRb_other _ _ _ _ _ (.inl (by decide)), Dev.rf_setRb_other _ _ _ _ _ (.inl (by decide)),
      Dev.rf_setRf_other _ _ _ _ _ _ (.inl (by decide)), Dev.rf_setRf_other _ _ _ _ _ _ (.inl (by decide)), Dev.rf_setRf_of_lt _ (by decide) hptr]
  · rw [h2.rf (by decide), Dev.latched, Dev.rf_setRb_other _ _ _ _ _ (.inl (by decide)), Dev.rf_setRb_other _ _ _ _ _ (.inl (by decide)),
      Dev.rf_setRf_other _ _ _ _ _ _ (.inl (by decide)), Dev.rf_setRf_of_lt _ (by decide) (d.mbx m).len.isLt]
  · rw [h2.rb (by decide), Dev.latched, Dev.rb_setRb_ne _ _ _ _ _ _ (by decide), Dev.rb_setRb_same _ _ _ _ _ (by decide)]
  · rw [h2.rb (by decide), Dev.latched, Dev.rb_setRb_same _ _ _ _ _ (by decide)]
  · rw [h1]
    simp
  · rw [h4, Dev.latched]
    simp only [Dev.setRb_fw, Dev.setRf_fw]
  · rw [h5, Dev.latched]
    simp only [Dev.setRb_outs, Dev.setRf_outs]

theorem mbxRead_empty_shows (h : d.rb .mbxStat m 0 = false) : (d.mbxRead m).2.reg .mbxRxPtr0 m = 0 ∧ (d.mbxRead m).2.reg .mbxRxPtr1 m = 0 ∧
    (d.mbxRead m).2.reg .mbxRxLen m = 0 ∧ Keeps [.mbxRxPtr0, .mbxRxPtr1, .mbxRxLen] d (d.mbxRead m).2 ∧ (d.mbxRead m).2.fw = d.fw ∧
    (d.mbxRead m).2.outs = d.outs := by
  rw [mbxRead_empty h]
  refine ⟨?_, ?_, Dev.reg_setReg_same _ _ _ _, by simp, ?_, ?_⟩
  · rw [Dev.reg_setReg_ne _ _ (.inl (by decide)), Dev.reg_setReg_ne _ _ (.inl (by decide)), Dev.reg_setReg_same]
  · rw [Dev.reg_setReg_ne _ _ (.inl (by decide)), Dev.reg_setReg_same]
  · simp only [Dev.setReg_fw]
  · simp only [Dev.setReg_outs]

/-! ## The bits of a side -/

theorem sideBits_testBit (snd rcv : Bool) : ∀ b < 32, (sideBits snd rcv).testBit b = Claims.side snd rcv b := by
  cases snd <;> cases rcv <;> decide

theorem sideBits_lt (snd rcv : Bool) : sideBits snd rcv < 2 ^ 32 := by cases snd <;> cases rcv <;> decide

theorem rb_eq_testBit (r : Reg) (k : Nat) {b : Nat} (hb : b < 32) : d.rb r k b = (d.rf r k 0 32).testBit b := by
  rw [Dev.rf, wf_eq_mod, Nat.testBit_mod_two_pow, decide_eq_true hb, Bool.true_and]
  rfl

/-- Of a word of 32 bits, those of a mask are taken away. -/
theorem testBit_sub_and {p m : Nat} (hp : p < 2 ^ 32) (hm : m < 2 ^ 32) (b : Nat) : (p - (p &&& m)).testBit b = (p.testBit b && !m.testBit b) := by
  have hP : (BitVec.ofNat 32 p).toNat = p := Nat.mod_eq_of_lt hp
  have hM : (BitVec.ofNat 32 m).toNat = m := Nat.mod_eq_of_lt hm
  have hsub := sub_and_toNat (BitVec.ofNat 32 p) (BitVec.ofNat 32 m)
  rw [hP, hM] at hsub
  rw [hsub, BitVec.testBit_toNat, BitVec.getLsbD_and, BitVec.getLsbD_not, BitVec.getLsbD_ofNat, BitVec.getLsbD_ofNat]
  by_cases hb : b < 32
  · simp [hb]
  · simp [hb, Nat.testBit_lt_two_pow (hp.trans_le (Nat.pow_le_pow_right (by decide) (Nat.le_of_not_lt hb)))]

/-- And others put in their place. -/
theorem testBit_replace {p m v : Nat} (hp : p < 2 ^ 32) (hm : m < 2 ^ 32) {b : Nat} (hb : b < 32) :
    (p - (p &&& m) + (v &&& m)).testBit b = if m.testBit b then v.testBit b else p.testBit b := by
  have hM : (BitVec.ofNat 32 m).toNat = m := Nat.mod_eq_of_lt hm
  have hlow : (p - (p &&& m)) = (BitVec.ofNat 32 p &&& ~~~ BitVec.ofNat 32 m).toNat := by
    rw [← sub_and_toNat, hM, BitVec.toNat_ofNat, Nat.mod_eq_of_lt hp]
  have hhigh : v &&& m = (BitVec.ofNat 32 v &&& BitVec.ofNat 32 m).toNat := by
    rw [BitVec.toNat_and, hM, BitVec.toNat_ofNat, ← and_mask_low _ _ _ hm]
  have hdisj : (BitVec.ofNat 32 p &&& ~~~ BitVec.ofNat 32 m) &&& (BitVec.ofNat 32 v &&& BitVec.ofNat 32 m) = 0#32 := by
    ext i hi
    simp only [BitVec.getElem_and, BitVec.getElem_not, BitVec.getElem_zero]
    cases (BitVec.ofNat 32 m)[i] <;> simp
  rw [hlow, hhigh, ← BitVec.toNat_add_of_and_eq_zero hdisj, BitVec.add_eq_or_of_and_eq_zero _ _ hdisj, BitVec.testBit_toNat, BitVec.getLsbD_or,
    BitVec.getLsbD_and, BitVec.getLsbD_and, BitVec.getLsbD_not, BitVec.getLsbD_ofNat, BitVec.getLsbD_ofNat, BitVec.getLsbD_ofNat]
  cases m.testBit b <;> simp [hb]

theorem wbit_ofNat (v : Nat) {b : Nat} (hb : b < 64) : wbit (BitVec.ofNat 64 v) b = v.testBit b := by
  rw [wbit, BitVec.getLsbD_ofNat, decide_eq_true hb, Bool.true_and]

theorem clearPend_shows (snd rcv : Bool) (v : W32) : (∀ b < 32, (d.clearPend m (sideBits snd rcv) v.toNat).rb .mbxDbPend m b =
      (d.rb .mbxDbPend m b && !(Claims.side snd rcv b && v.getLsbD b))) ∧
    Keeps [.mbxDbPend] d (d.clearPend m (sideBits snd rcv) v.toNat) ∧ Claims.OnlyAt .mbxDbPend m d (d.clearPend m (sideBits snd rcv) v.toNat) := by
  have hp := Dev.rf_lt d (r := .mbxDbPend) (i := m) 0 32
  refine ⟨fun b hb => ?_, by simp [Dev.clearPend], onlyAt_setReg _ _ _ _⟩
  rw [Dev.clearPend, Dev.rb, Dev.reg_setReg_same, wbit_ofNat _ (by omega), rb_eq_testBit _ _ hb, Nat.and_assoc,
    testBit_sub_and hp (Nat.and_lt_two_pow _ v.isLt), Nat.testBit_and, sideBits_testBit _ _ _ hb]
  rfl

theorem writeMask_shows (snd rcv : Bool) (v : W32) (hp : ∀ b < 32, d.rb .mbxDbPend m b = false) :
    (∀ b < 32, (d.writeMask m (sideBits snd rcv) v.toNat).rb .mbxDbMask m b = if Claims.side snd rcv b then v.getLsbD b else d.rb .mbxDbMask m b) ∧
    Keeps [.mbxDbMask] d (d.writeMask m (sideBits snd rcv) v.toNat) ∧ Claims.OnlyAt .mbxDbMask m d (d.writeMask m (sideBits snd rcv) v.toNat) := by
  have hold := Dev.rf_lt d (r := .mbxDbMask) (i := m) 0 32
  have hquiet {x : Word} (c : Nat → Bool) : ∀ l : List Nat, (∀ b ∈ l, b < 32) → l.foldl (fun e b => if c b && e.rb .mbxDbPend m b then e.sendRoute m b else e)
      (d.setReg .mbxDbMask m x) = d.setReg .mbxDbMask m x := by
    intro l hl
    induction l with
    | nil => rfl
    | cons b l ih =>
      have hb : (d.setReg .mbxDbMask m x).rb .mbxDbPend m b = false := by
        rw [Dev.rb_setReg_other _ _ _ (.inl (by decide)), hp b (hl b List.mem_cons_self)]
      rw [List.foldl_cons, hb, Bool.and_false, if_neg (by decide)]
      exact ih fun c hc => hl c (List.mem_cons_of_mem _ hc)
  have heq : d.writeMask m (sideBits snd rcv) v.toNat = d.setReg .mbxDbMask m (BitVec.ofNat 64 (d.rf .mbxDbMask m 0 32 -
      (d.rf .mbxDbMask m 0 32 &&& sideBits snd rcv) + (v.toNat % 2 ^ 32 &&& sideBits snd rcv))) :=
    hquiet (fun b => nbit (d.rf .mbxDbMask m 0 32) b && !nbit (d.rf .mbxDbMask m 0 32 - (d.rf .mbxDbMask m 0 32 &&& sideBits snd rcv) +
      (v.toNat % 2 ^ 32 &&& sideBits snd rcv)) b) (List.range 32) fun b hb => List.mem_range.1 hb
  rw [heq]
  refine ⟨fun b hb => ?_, by simp, onlyAt_setReg _ _ _ _⟩
  rw [Dev.rb, Dev.reg_setReg_same, wbit_ofNat _ (by omega), testBit_replace hold (sideBits_lt _ _) hb, sideBits_testBit _ _ _ hb, rb_eq_testBit _ _ hb,
    Nat.mod_eq_of_lt v.isLt]
  rfl

end

/-! ## The commands -/

theorem mbxDenied_refused (d : Dev) (who : Who) (c : Dev) (hc : Claims.Refused who (d.mbxDenied who) c ∧ c.flt = (d.mbxDenied who).flt) :
    Claims.Refused who d c ∧ RaisesSome 1280 0 (whoPart who) d c := by
  obtain ⟨⟨h1, h2, h3⟩, h4⟩ := hc
  obtain ⟨v, hv⟩ := raisesSome_raiseFree d 1280 0 (whoPart who)
  refine ⟨⟨h1, h2, h3⟩, v, ?_⟩
  rw [Raises, h4]
  exact hv

theorem denyWrite_flt (d : Dev) (who : Who) : (d.denyWrite who).flt = d.flt := by cases who <;> rfl
theorem denyRead_flt (d : Dev) (who : Who) : (d.denyRead who).flt = d.flt := by cases who <;> rfl

section
variable {s : State} {who : Who} {m : Fin 8192} {v : W32} {p : Dev → Prop} (hp : s.dev.powered = true)
include hp

theorem mbxSend_runs (h : p (s.dev.sndWrite who m.val (fun d => d.mbxSend m.val))) : Answers (.mbxSend who m) s p :=
  answers_eventOn (c := .mbxSend who m) (rfl : execMbxSend who m s = _) hp h

/-- A ring as its command runs it. -/
def Dev.rung (d : Dev) (m : Nat) (v : W32) : Dev :=
  let d := (d.ringBits m v.toNat).faceShow m
  if m = 0 && v.getLsbD 0 then d.fwTake else d

theorem mbxDbRing_runs (h : p (s.dev.sndWrite who m.val (fun d => d.rung m.val v))) : Answers (.mbxDbRing who m v) s p :=
  answers_eventOn (c := .mbxDbRing who m v) (rfl : execMbxDbRing who m v s = _) hp h

/-- The status bits written as 1 are cleared. -/
def Dev.statCleared (d : Dev) (m : Nat) (v : W32) : Dev :=
  let d := if v.getLsbD 2 then d.setRb .mbxStat m 2 false else d
  if v.getLsbD 3 then d.setRb .mbxStat m 3 false else d

theorem mbxStatWrite_runs (h : p (s.dev.sndWrite who m.val (fun d => (d.statCleared m.val v).faceShow m.val))) : Answers (.mbxStatWrite who m v) s p :=
  answers_eventOn (c := .mbxStatWrite who m v) (rfl : execMbxStatWrite who m v s = _) hp h

theorem mbxDbPend_runs (h : p (s.dev.sideWrite who m.val (fun bits d => d.clearPend m.val bits v.toNat))) : Answers (.mbxDbPend who m v) s p :=
  answers_eventOn (c := .mbxDbPend who m v) (rfl : execMbxDbPend who m v s = _) hp h

theorem mbxDbMask_runs (h : p (s.dev.sideWrite who m.val (fun bits d => d.writeMask m.val bits v.toNat))) : Answers (.mbxDbMask who m v) s p :=
  answers_eventOn (c := .mbxDbMask who m v) (rfl : execMbxDbMask who m v s = _) hp h

theorem mbxRxPtr0Read_answered {x : Word} {e : Dev} (hr : s.dev.rxPtrRead who m.val = (some x, e)) (h : p (e.emit (.readValue 0 (0x3000018 + 64 * m.val) x))) :
    Answers (.mbxRxPtr0Read who m) s p := by
  refine answers_eventOn (c := .mbxRxPtr0Read who m) (rfl : execMbxRxPtr0Read who m s = _) hp ?_
  rw [hr]
  exact h

theorem mbxRxPtr0Read_denied {e : Dev} (hr : s.dev.rxPtrRead who m.val = (none, e)) (h : p e) : Answers (.mbxRxPtr0Read who m) s p := by
  refine answers_eventOn (c := .mbxRxPtr0Read who m) (rfl : execMbxRxPtr0Read who m s = _) hp ?_
  rw [hr]
  exact h

end

theorem statCleared_shows (d : Dev) (m : Nat) (v : W32) : (d.statCleared m v).rb .mbxStat m 2 = (d.rb .mbxStat m 2 && !v.getLsbD 2) ∧
    (d.statCleared m v).rb .mbxStat m 3 = (d.rb .mbxStat m 3 && !v.getLsbD 3) ∧
    (∀ b, b ≠ 2 → b ≠ 3 → (d.statCleared m v).rb .mbxStat m b = d.rb .mbxStat m b) ∧
    Keeps [.mbxStat] d (d.statCleared m v) ∧ Claims.OnlyAt .mbxStat m d (d.statCleared m v) := by
  have hone (e : Dev) (i : Nat) (c : Bool) (hi : i < 64) : let e' := if c then e.setRb .mbxStat m i false else e
      e'.rb .mbxStat m i = (e.rb .mbxStat m i && !c) ∧ (∀ b, b ≠ i → e'.rb .mbxStat m b = e.rb .mbxStat m b) ∧ Keeps [.mbxStat] e e' ∧ Claims.OnlyAt .mbxStat m e e' := by
    cases c with
    | false => exact ⟨by simp, fun _ _ => rfl, Keeps.refl _ _, fun _ _ => rfl⟩
    | true => exact ⟨by simp [Dev.rb_setRb_same _ _ _ _ _ hi], fun b hb => Dev.rb_setRb_ne _ _ _ _ _ _ hb, by simp, onlyAt_setReg _ _ _ _⟩
  obtain ⟨h1, h2, h3, h4⟩ := hone d 2 (v.getLsbD 2) (by decide)
  obtain ⟨g1, g2, g3, g4⟩ := hone (if v.getLsbD 2 then d.setRb .mbxStat m 2 false else d) 3 (v.getLsbD 3) (by decide)
  exact ⟨(g2 2 (by decide)).trans h1, g1.trans (by rw [h2 3 (by decide)]), fun b hb hb' => (g2 b hb').trans (h2 b hb), h3.trans g3, onlyAt_trans h4 g4⟩

theorem rung_of (d : Dev) (m : Nat) (v : W32) (h : m ≠ 0 ∨ v.getLsbD 0 = false) : d.rung m v = (d.ringBits m v.toNat).faceShow m := by
  unfold Dev.rung
  dsimp only
  rw [if_neg]
  rcases h with h | h
  · simp [h]
  · rw [h, Bool.and_false]
    decide

/-- What a ring of one bit that is neither pending nor masked does. -/
theorem rung_one {d : Dev} {m b : Nat} (hf : d.faceAddr m = none) (hb : b < 30) (hp : d.rb .mbxDbPend m b = false) (hm : d.rb .mbxDbMask m b = false)
    (h0 : m ≠ 0 ∨ b ≠ 0) : d.rung m (1#32 <<< b) = (d.setRb .mbxDbPend m b true).sendRoute m b := by
  have hbit : m ≠ 0 ∨ (1#32 <<< b).getLsbD 0 = false := h0.imp_right fun h => by
    simp [Nat.pos_of_ne_zero h]
  have hface : ((d.setRb .mbxDbPend m b true).sendRoute m b).faceAddr m = none := by
    rw [faceAddr_of_regs fun r hr k => sendRoute_faces b hr k]
    exact (faceAddr_of_keeps (keeps_setReg d (List.mem_singleton_self _) _ _) (by decide) (by decide) m).trans hf
  rw [rung_of _ _ _ hbit, ringBits_one hb, ringBit_sends hp hm, faceShow_hidden hface]

section
variable {s : State} {who : Who} {m : Fin 8192} {v : W32} (hp : s.dev.powered = true) (hf : s.dev.faceAddr m.val = none)
include hp hf

/-- The sender's commands, with its receiver up. -/
theorem sender_acts (hs : (s.dev.mbxValid m.val && s.dev.isEnd who (s.dev.sndEnd m.val)) = true) (hd : s.dev.rxDown m.val = false) :
    (s.dev.rb .mbxStat m.val 0 = true → Answers (.mbxSend who m) s (fun d => d.rb .mbxStat m.val 3 = true ∧ d.rb .mbxStat m.val 0 = true ∧ d.ptn = s.dev.ptn ∧
      Keeps [.mbxStat] s.dev d ∧ Claims.OnlyAt .mbxStat m.val s.dev d ∧ Counts [12] s.dev d)) ∧
    ((∀ b < 30, v.getLsbD b = true → s.dev.rb .mbxDbPend m.val b = true ∨ s.dev.rb .mbxDbMask m.val b = true) → m.val ≠ 0 ∨ v.getLsbD 0 = false →
      Answers (.mbxDbRing who m v) s (fun d => (∀ b < 32, d.rb .mbxDbPend m.val b = (s.dev.rb .mbxDbPend m.val b || (decide (b < 30) && v.getLsbD b))) ∧
        Keeps [.mbxDbPend] s.dev d ∧ Claims.OnlyAt .mbxDbPend m.val s.dev d)) ∧
    (∀ b < 30, v = 1#32 <<< b → s.dev.rb .mbxDbPend m.val b = false → s.dev.rb .mbxDbMask m.val b = false → m.val ≠ 0 ∨ b ≠ 0 →
      Answers (.mbxDbRing who m v) s (fun d => ∃ d1 : Dev, d1.rb .mbxDbPend m.val b = true ∧ Keeps [.mbxDbPend] s.dev d1 ∧
        (s.dev.rf .mbxRoute (32 * m.val + b) 0 2 = 0 → d = d1) ∧
        (s.dev.rf .mbxRoute (32 * m.val + b) 0 2 = 1 →
          d = d1.route (s.dev.mbx m.val).part false (s.dev.rf .mbxRoute (32 * m.val + b) 2 11) (s.dev.rf .mbxRoute (32 * m.val + b) 13 5)) ∧
        (∀ h f, s.dev.rf .mbxRoute (32 * m.val + b) 0 2 = 3 → s.dev.endFn (s.dev.rcvEnd m.val) = some (h, f) →
          d = d1.interrupt h f (s.dev.rf .mbxRoute (32 * m.val + b) 2 11)))) ∧
    Answers (.mbxStatWrite who m v) s (fun d => d.rb .mbxStat m.val 2 = (s.dev.rb .mbxStat m.val 2 && !v.getLsbD 2) ∧
      d.rb .mbxStat m.val 3 = (s.dev.rb .mbxStat m.val 3 && !v.getLsbD 3) ∧ (∀ b, b ≠ 2 → b ≠ 3 → d.rb .mbxStat m.val b = s.dev.rb .mbxStat m.val b) ∧
      Keeps [.mbxStat] s.dev d ∧ Claims.OnlyAt .mbxStat m.val s.dev d) := by
  refine ⟨fun he => mbxSend_runs hp ?_, fun hm h0 => mbxDbRing_runs hp ?_, fun b hb hv hpend hmask h0 => mbxDbRing_runs hp ?_, mbxStatWrite_runs hp ?_⟩
  · rw [sndWrite_acts hs hd, mbxSend_full hf he]
    refine ⟨Dev.rb_setRb_same s.dev _ _ _ _ (by decide), (Dev.rb_setRb_ne s.dev _ _ _ _ _ (by decide)).trans he, rfl, by simp, onlyAt_setReg _ _ _ _, ?_⟩
    exact counts_count (counts_same (counts_refl _) fun _ => by rw [Dev.counter, Dev.setRb_cnt, ← Dev.counter]) 12
  · obtain ⟨h1, h2, h3⟩ := ringBits_silent hm
    rw [sndWrite_acts hs hd, rung_of _ _ _ h0, faceShow_of_keeps h2 (by decide) (by decide) hf]
    exact ⟨fun b _ => h1 b, h2, h3⟩
  · rw [sndWrite_acts hs hd, hv, rung_one hf hb hpend hmask h0]
    have hk : Keeps [.mbxDbPend] s.dev (s.dev.setRb .mbxDbPend m.val b true) := by simp
    refine ⟨_, Dev.rb_setRb_same _ _ _ _ _ (by omega), hk, fun hr => sendRoute_none (by rw [hk.rf (by decide), hr]), fun hr => ?_, fun x f hr he => ?_⟩
    · rw [sendRoute_thread (by rw [hk.rf (by decide), hr]), hk.rf (by decide), hk.rf (by decide), Dev.mbx, Dev.setRb_ptn, ← Dev.mbx]
    · have hrcv := rcvEnd_of_keeps hk (Dev.setRb_ptn ..) (by decide) m.val
      rw [sendRoute_vector (by rw [hk.rf (by decide), hr]) hb (by rw [hrcv, endFn_of_keeps hk (by decide) (by decide), he]), hk.rf (by decide)]
  · obtain ⟨h1, h2, h3, h4, h5⟩ := statCleared_shows s.dev m.val v
    rw [sndWrite_acts hs hd, faceShow_of_keeps h4 (by decide) (by decide) hf]
    exact ⟨h1, h2, h3, h4, h5⟩

/-- The receiver's read. -/
theorem receiver_reads (hs : (s.dev.mbxValid m.val && s.dev.isEnd who (s.dev.rcvEnd m.val)) = true) (hpost : m.val ≠ 1 ∨ s.dev.fw.posting = none) :
    (s.dev.rb .mbxStat m.val 0 = true → s.dev.rb .mbxDbPend m.val 30 = true ∨ s.dev.rb .mbxDbMask m.val 30 = true → Answers (.mbxRxPtr0Read who m) s (fun d =>
      d.outs = .readValue 0 (0x3000018 + 64 * m.val) (s.dev.mbx m.val).ptr :: s.dev.outs ∧ d.rf .mbxRxPtr0 m.val 0 32 = (s.dev.mbx m.val).ptr.toNat % 2 ^ 32 ∧
      d.rf .mbxRxPtr1 m.val 0 32 = (s.dev.mbx m.val).ptr.toNat / 2 ^ 32 ∧ d.rf .mbxRxLen m.val 0 32 = (s.dev.mbx m.val).len.toNat ∧
      d.rb .mbxStat m.val 0 = false ∧ d.rb .mbxStat m.val 5 = true ∧ d.rb .mbxDbPend m.val 30 = true ∧
      Keeps [.mbxRxPtr0, .mbxRxPtr1, .mbxRxLen, .mbxStat, .mbxDbPend] s.dev d)) ∧
    (s.dev.rb .mbxStat m.val 0 = false → Answers (.mbxRxPtr0Read who m) s (fun d => d.outs = .readValue 0 (0x3000018 + 64 * m.val) 0 :: s.dev.outs ∧
      d.reg .mbxRxPtr0 m.val = 0 ∧ d.reg .mbxRxPtr1 m.val = 0 ∧ d.reg .mbxRxLen m.val = 0 ∧ Keeps [.mbxRxPtr0, .mbxRxPtr1, .mbxRxLen] s.dev d)) := by
  refine ⟨fun hfull hm => ?_, fun he => ?_⟩
  · obtain ⟨h1, h2, h3, h4, h5, h6, h7, h8, h9⟩ := mbxRead_shows hf hfull hm
    refine mbxRxPtr0Read_answered hp (rxPtrRead_allowed hs (by rw [h8]; exact hpost)) ⟨?_, h1, h2, h3, h4, h5, h6, (keeps_emit_iff ..).2 h7⟩
    rw [Dev.emit, h9, mbxRead_full hfull]
  · obtain ⟨h1, h2, h3, h4, h5, h6⟩ := mbxRead_empty_shows he
    refine mbxRxPtr0Read_answered hp (rxPtrRead_allowed hs (by rw [h5]; exact hpost)) ⟨?_, h1, h2, h3, (keeps_emit_iff ..).2 h4⟩
    rw [Dev.emit, h6, mbxRead_empty he]

/-- Both sides' doorbell bits. -/
theorem sides_write {snd rcv : Bool} (hsnd : snd = (s.dev.mbxValid m.val && s.dev.isEnd who (s.dev.sndEnd m.val)))
    (hrcv : rcv = (s.dev.mbxValid m.val && s.dev.isEnd who (s.dev.rcvEnd m.val))) (hs : (snd || rcv) = true) (hd : rcv = true ∨ s.dev.rxDown m.val = false) :
    Answers (.mbxDbPend who m v) s (fun d => (∀ b < 32, d.rb .mbxDbPend m.val b = (s.dev.rb .mbxDbPend m.val b && !(Claims.side snd rcv b && v.getLsbD b))) ∧
      Keeps [.mbxDbPend] s.dev d ∧ Claims.OnlyAt .mbxDbPend m.val s.dev d) ∧
    ((∀ b < 32, s.dev.rb .mbxDbPend m.val b = false) → Answers (.mbxDbMask who m v) s (fun d =>
      (∀ b < 32, d.rb .mbxDbMask m.val b = if Claims.side snd rcv b then v.getLsbD b else s.dev.rb .mbxDbMask m.val b) ∧
      Keeps [.mbxDbMask] s.dev d ∧ Claims.OnlyAt .mbxDbMask m.val s.dev d)) := by
  subst hsnd hrcv
  refine ⟨mbxDbPend_runs hp ?_, fun hpend => mbxDbMask_runs hp ?_⟩
  · have h := clearPend_shows (d := s.dev) (m := m.val) (s.dev.mbxValid m.val && s.dev.isEnd who (s.dev.sndEnd m.val))
      (s.dev.mbxValid m.val && s.dev.isEnd who (s.dev.rcvEnd m.val)) v
    rw [sideWrite_acts hs hd, faceShow_of_keeps h.2.1 (by decide) (by decide) hf]
    exact h
  · have h := writeMask_shows (d := s.dev) (m := m.val) (s.dev.mbxValid m.val && s.dev.isEnd who (s.dev.sndEnd m.val))
      (s.dev.mbxValid m.val && s.dev.isEnd who (s.dev.rcvEnd m.val)) v hpend
    rw [sideWrite_acts hs hd, faceShow_of_keeps h.2.1 (by decide) (by decide) hf]
    exact h

omit hf

/-- Everyone else is refused, which is reported. -/
theorem others_denied {snd rcv : Bool} (hsnd : snd = (s.dev.mbxValid m.val && s.dev.isEnd who (s.dev.sndEnd m.val)))
    (hrcv : rcv = (s.dev.mbxValid m.val && s.dev.isEnd who (s.dev.rcvEnd m.val))) (c : Instr)
    (hc : (snd = false ∧ (c = Instr.mbxSend who m ∨ c = .mbxDbRing who m v ∨ c = .mbxStatWrite who m v)) ∨ (rcv = false ∧ c = .mbxRxPtr0Read who m) ∨
      ((snd || rcv) = false ∧ (c = .mbxDbPend who m v ∨ c = .mbxDbMask who m v))) :
    Answers c s (fun d => Claims.Refused who s.dev d ∧ RaisesSome 1280 0 (whoPart who) s.dev d) := by
  have hwrite := mbxDenied_refused s.dev who _ ⟨refused_denyWrite (s.dev.mbxDenied who) who, denyWrite_flt _ _⟩
  have hread := mbxDenied_refused s.dev who _ ⟨refused_denyRead (s.dev.mbxDenied who) who, denyRead_flt _ _⟩
  subst hsnd hrcv
  obtain ⟨hs, rfl | rfl | rfl⟩ | ⟨hs, rfl⟩ | ⟨hs, rfl | rfl⟩ := hc
  · exact mbxSend_runs hp (by rw [sndWrite_denied hs]; exact hwrite)
  · exact mbxDbRing_runs hp (by rw [sndWrite_denied hs]; exact hwrite)
  · exact mbxStatWrite_runs hp (by rw [sndWrite_denied hs]; exact hwrite)
  · exact mbxRxPtr0Read_denied hp (rxPtrRead_denied hs) hread
  · exact mbxDbPend_runs hp (by rw [sideWrite_denied hs]; exact hwrite)
  · exact mbxDbMask_runs hp (by rw [sideWrite_denied hs]; exact hwrite)

/-- A sender whose receiver is down is refused. -/
theorem receiverDown_refused {snd rcv : Bool} (hsnd : snd = (s.dev.mbxValid m.val && s.dev.isEnd who (s.dev.sndEnd m.val)))
    (hrcv : rcv = (s.dev.mbxValid m.val && s.dev.isEnd who (s.dev.rcvEnd m.val))) (hs : snd = true) (hd : s.dev.rxDown m.val = true) (c : Instr)
    (hc : c = Instr.mbxSend who m ∨ c = .mbxDbRing who m v ∨ c = .mbxStatWrite who m v ∨ (rcv = false ∧ (c = .mbxDbPend who m v ∨ c = .mbxDbMask who m v))) :
    Answers c s (fun d => Claims.Refused who s.dev d ∧ d.flt = s.dev.flt) := by
  have hwrite : Claims.Refused who s.dev (s.dev.denyWrite who) ∧ (s.dev.denyWrite who).flt = s.dev.flt := ⟨refused_denyWrite _ _, denyWrite_flt _ _⟩
  subst hsnd hrcv
  obtain rfl | rfl | rfl | ⟨hr, rfl | rfl⟩ := hc
  · exact mbxSend_runs hp (by rw [sndWrite_down hs hd]; exact hwrite)
  · exact mbxDbRing_runs hp (by rw [sndWrite_down hs hd]; exact hwrite)
  · exact mbxStatWrite_runs hp (by rw [sndWrite_down hs hd]; exact hwrite)
  · exact mbxDbPend_runs hp (by rw [sideWrite_down hs hr hd]; exact hwrite)
  · exact mbxDbMask_runs hp (by rw [sideWrite_down hs hr hd]; exact hwrite)

end

/-- Settles O42. -/
theorem mailboxesCarryTheirMessages : Obligations.MailboxesCarryTheirMessages := by
  rintro who m v s snd rcv down hp hf hsnd hrcv rfl
  have hpost (hs : snd = true) (hd : s.dev.rxDown m.val = false) (he : s.dev.rb .mbxStat m.val 0 = false) {p : Dev → Prop} (h : p (s.dev.mbxSend m.val)) :
      Answers (.mbxSend who m) s p := mbxSend_runs hp (by rw [sndWrite_acts (hsnd ▸ hs) hd]; exact h)
  refine ⟨fun hs hd => ⟨fun he => hpost hs hd he (mbxSend_posts hf he), sender_acts hp hf (hsnd ▸ hs) hd⟩,
    fun hr hfw => receiver_reads hp hf (hrcv ▸ hr) hfw, sides_write hp hf hsnd hrcv, ?_, receiverDown_refused hp hsnd hrcv⟩
  intro c hc
  have h := others_denied hp hsnd hrcv c hc
  cases who <;> exact h

end Sys2Proof.Machine
end

section
/-! PROOFS. Host windows, inbound and configuration requests, completions (R297 to R303, R308, R309, R454). -/
namespace Sys2Proof.Machine
open Sys2Proof

/-! ## Window tables -/

section
variable (d : Dev) (k : Nat)

/-- The active and the staged tables of a function are exchanged. -/
def Dev.winSwapped : Dev :=
  (List.range 256).foldl (fun (e : Dev) i =>
    (e.setReg .hostWinAct (256 * k + i) (d.reg .hostWinStg (256 * k + i))).setReg .hostWinStg (256 * k + i) (d.reg .hostWinAct (256 * k + i))) d

/-- The active table is copied to the staged one. -/
def Dev.winCopied : Dev :=
  (List.range 256).foldl (fun (e : Dev) i => e.setReg .hostWinStg (256 * k + i) (d.reg .hostWinAct (256 * k + i))) d

theorem keeps_winSwapped : Keeps [.hostWinAct, .hostWinStg] d (d.winSwapped k) :=
  foldl_related (Keeps.refl _) Keeps.trans (fun _ _ => by simp) _ _

theorem keeps_winCopied : Keeps [.hostWinStg] d (d.winCopied k) :=
  foldl_related (Keeps.refl _) Keeps.trans (fun _ _ => by simp) _ _

theorem reg_winSwapped (e : Nat) (he : e < 256) : (d.winSwapped k).reg .hostWinAct (256 * k + e) = d.reg .hostWinStg (256 * k + e) ∧
    (d.winSwapped k).reg .hostWinStg (256 * k + e) = d.reg .hostWinAct (256 * k + e) := by
  have hstep (c : Dev) (i : Nat) (x y : Word) (r : Reg) (j : Nat) (hj : j ≠ i) :
      ((c.setReg .hostWinAct (256 * k + i) x).setReg .hostWinStg (256 * k + i) y).reg r (256 * k + j) = c.reg r (256 * k + j) := by
    rw [Dev.reg_setReg_ne _ _ (.inr (by omega)), Dev.reg_setReg_ne _ _ (.inr (by omega))]
  refine foldl_each (α := Nat) (β := Dev) (f := fun c i => (c.setReg .hostWinAct (256 * k + i) (d.reg .hostWinStg (256 * k + i))).setReg .hostWinStg (256 * k + i)
      (d.reg .hostWinAct (256 * k + i))) (pre := fun _ _ => True)
    (post := fun i c => c.reg .hostWinAct (256 * k + i) = d.reg .hostWinStg (256 * k + i) ∧ c.reg .hostWinStg (256 * k + i) = d.reg .hostWinAct (256 * k + i))
    (fun c i _ => ⟨?_, Dev.reg_setReg_same _ _ _ _⟩) (fun _ _ _ _ _ => trivial) (fun c i j hj h => ⟨?_, ?_⟩) (List.range 256) List.nodup_range d
    (fun _ _ => trivial) e (List.mem_range.2 he)
  · rw [Dev.reg_setReg_ne _ _ (.inl (by decide)), Dev.reg_setReg_same]
  · rw [hstep _ _ _ _ _ _ (Ne.symm hj), h.1]
  · rw [hstep _ _ _ _ _ _ (Ne.symm hj), h.2]

theorem reg_winCopied (e : Nat) (he : e < 256) : (d.winCopied k).reg .hostWinStg (256 * k + e) = d.reg .hostWinAct (256 * k + e) :=
  foldl_each (α := Nat) (β := Dev) (f := fun c i => c.setReg .hostWinStg (256 * k + i) (d.reg .hostWinAct (256 * k + i))) (pre := fun _ _ => True)
    (post := fun i c => c.reg .hostWinStg (256 * k + i) = d.reg .hostWinAct (256 * k + i))
    (fun c i _ => Dev.reg_setReg_same _ _ _ _) (fun _ _ _ _ _ => trivial)
    (fun c i j hj h => by rw [Dev.reg_setReg_ne _ _ (.inr (by omega)), h]) (List.range 256) List.nodup_range d (fun _ _ => trivial) e (List.mem_range.2 he)

end

section
variable {d : Dev} {h f : Nat}

theorem winBad_setRb (e i : Nat) (b : Bool) : (d.setRb .hostWinStat (fnKey h f) i b).winBad h f e = d.winBad h f e := by
  simp only [Dev.winBad, Dev.pageLog, Dev.fn, Dev.setRb_host, Dev.reg_setRb_ne d i b (r := .hostWinStat) (r' := .hostWinStg) (.inl (by decide))]

theorem winCommit_busy (hb : d.rb .hostWinStat (fnKey h f) 0 = true) : d.winCommit h f = d.setRb .hostWinStat (fnKey h f) 1 true := by
  unfold Dev.winCommit
  dsimp only
  rw [if_pos hb]

theorem winCommit_bad {e : Nat} (hb : d.rb .hostWinStat (fnKey h f) 0 = false) (he : (List.range 256).find? (fun e => d.winBad h f e) = some e) :
    d.winCommit h f = ((d.setRb .hostWinStat (fnKey h f) 1 false).setRb .hostWinStat (fnKey h f) 2 true).setRf .hostWinStat (fnKey h f) 3 8 e := by
  unfold Dev.winCommit
  dsimp only
  simp only [winBad_setRb]
  rw [if_neg (by simp [hb]), he]

/-- A commit in progress. -/
def Dev.winCommitting (d : Dev) (k : Nat) : Dev := ((d.setRf .hostWinStat k 2 9 0).setRb .hostWinStat k 11 (!d.rb .hostWinStat k 11)).setRb .hostWinStat k 0 true

theorem winCommit_good (hb : d.rb .hostWinStat (fnKey h f) 0 = false) (he : ∀ e < 256, d.winBad h f e = false) :
    d.winCommit h f = ((d.setRb .hostWinStat (fnKey h f) 1 false).winSwapped (fnKey h f)).winCommitting (fnKey h f) := by
  have hnone : (List.range 256).find? (fun e => d.winBad h f e) = none := List.find?_eq_none.2 fun e hm => by simp [he e (List.mem_range.1 hm)]
  unfold Dev.winCommit
  dsimp only
  simp only [winBad_setRb]
  rw [if_neg (by simp [hb]), hnone]
  rfl

end

/-! ## Inbound requests -/

/-- A host link may have woken, and nothing else has moved. -/
structure LinkWoken (a b : Dev) : Prop where
  keeps : Keeps [.hostPortStat] a b
  host : b.host = a.host
  ptn : b.ptn = a.ptn
  flt : b.flt = a.flt
  fw : b.fw = a.fw
  board : b.board = a.board
  outs : b.outs = a.outs
  time : b.time = a.time

theorem linkWoken_wakeLink (d : Dev) (h : Nat) : LinkWoken d (d.wakeLink h) := by
  unfold Dev.wakeLink
  split
  · exact ⟨by simp, Dev.setRb_host .., Dev.setRb_ptn .., Dev.setRb_flt .., Dev.setRb_fw .., Dev.setRb_board .., Dev.setRb_outs .., Dev.setRb_time ..⟩
  · exact ⟨Keeps.refl _ _, rfl, rfl, rfl, rfl, rfl, rfl, rfl⟩

section
variable {a b : Dev} (hw : LinkWoken a b)
include hw

theorem fn_of_woken (h f : Nat) : b.fn h f = a.fn h f := by rw [Dev.fn, hw.host, ← Dev.fn]

theorem region_of_woken (x n : Nat) : b.region x n = a.region x n := by
  unfold Dev.region
  rw [hw.board]

theorem checkMem_of_woken (dom : Dom) (x n : Nat) : b.checkMem dom x n = a.checkMem dom x n := by
  have hg (p kind w : Nat) : b.granted p kind w = a.granted p kind w := by
    funext n
    simp only [Dev.granted, Dev.part, hw.ptn]
  have hu : b.unitsGranted = a.unitsGranted := by
    funext p kind w unit off n
    simp only [Dev.unitsGranted, hg]
  have hc : b.partOfCore = a.partOfCore := by
    funext c
    simp only [Dev.partOfCore, hw.keeps.rb (show Reg.coreCfg ∉ [Reg.hostPortStat] by decide), hw.keeps.rf (show Reg.coreCfg ∉ [Reg.hostPortStat] by decide)]
  unfold Dev.checkMem
  rw [region_of_woken hw, hu, hc]

end

section
variable {d : Dev} {r : Inbound}

/-- A request within one page of its BAR has one part. -/
theorem pieces_one {h f bar off len z : Nat} (hb : bar = 0 ∧ z = 16 ∨ bar = 2 ∧ z = (d.fn h f).bar2Log) (h1 : off + len ≤ 128 * 2 ^ z)
    (h2 : off % 2 ^ z + len ≤ 2 ^ z) : d.pieces h f bar off len = some [⟨d.reg .hostWinAct (256 * fnKey h f + (if bar = 0 then 0 else 128) + off / 2 ^ z),
      wf (d.reg .hostWinAct (256 * fnKey h f + (if bar = 0 then 0 else 128) + off / 2 ^ z)) 16 32 * 65536 + off % 2 ^ z, len⟩] := by
  have hz : (if bar = 0 then 16 else (d.fn h f).bar2Log) = z := by
    rcases hb with ⟨rfl, rfl⟩ | ⟨rfl, rfl⟩ <;> rfl
  have hout : ¬ (bar ≠ 0 ∧ bar ≠ 2 ∨ 128 * 2 ^ z < off + len) := by
    rintro (h | h)
    · rcases hb with ⟨rfl, -⟩ | ⟨rfl, -⟩ <;> simp at h
    · exact absurd h1 (Nat.not_le.2 h)
  have hroom : len ≤ 2 ^ z - off % 2 ^ z := by omega
  unfold Dev.pieces
  dsimp only
  rw [hz, if_neg hout, if_pos hroom]

/-- The part of a request within one page. -/
def Dev.piece (d : Dev) (r : Inbound) (z : Nat) : Piece :=
  ⟨d.reg .hostWinAct (256 * fnKey r.h.val r.f.val + (if r.bar = 0 then 0 else 128) + r.off / 2 ^ z),
    wf (d.reg .hostWinAct (256 * fnKey r.h.val r.f.val + (if r.bar = 0 then 0 else 128) + r.off / 2 ^ z)) 16 32 * 65536 + r.off % 2 ^ z, r.len⟩

/-- Whether a window entry lets a request through. -/
def Dev.mayPass (d : Dev) (r : Inbound) (w : Word) : Bool :=
  if r.write then wbit w 2 && (r.f.val != 0 || d.isManager (.fn r.h r.f)) else wbit w 1

variable {p : Piece} (hp : d.pieces r.h.val r.f.val r.bar r.off r.len = some [p])
include hp

theorem inboundWindow_invalid (hv : wbit p.entry 0 = false) : d.inboundWindow r r.len = d.inboundUr r := by
  rw [Dev.inboundWindow, hp]
  simp [hv]

theorem inboundWindow_denied (hv : wbit p.entry 0 = true) (hm : d.mayPass r p.entry = false) :
    d.inboundWindow r r.len = ((d.raiseFree 1154 1 (whoPart (.fn r.h r.f))).count (evHost r.h.val 9)).inboundCa r := by
  have hm' : ([p].all fun p => if r.write then wbit p.entry 2 && (r.f.val != 0 || d.isManager (.fn r.h r.f)) else wbit p.entry 1) = false := by
    rw [List.all_cons, List.all_nil, Bool.and_true]
    exact hm
  rw [Dev.inboundWindow, hp]
  dsimp only
  rw [if_neg (by simp [hv]), if_pos (by rw [hm']; rfl)]

theorem inboundWindow_memory (hv : wbit p.entry 0 = true) (hm : d.mayPass r p.entry = true) (hr : ∀ isl off, d.region p.addr p.len ≠ some (.regs isl off)) :
    d.inboundWindow r r.len = d.inboundMem r [p] := by
  have hm' : ([p].all fun p => if r.write then wbit p.entry 2 && (r.f.val != 0 || d.isManager (.fn r.h r.f)) else wbit p.entry 1) = true := by
    rw [List.all_cons, List.all_nil, Bool.and_true]
    exact hm
  rw [Dev.inboundWindow, hp]
  dsimp only
  rw [if_neg (by simp [hv]), if_neg (by rw [hm']; decide)]
  split
  case h_1 isl off he => exact absurd he (hr isl off)
  case h_2 => rfl

omit hp

theorem inboundMem_ok (hc : d.checkMem (inboundDom r.f.val) p.addr p.len = .ok) : d.inboundMem r [p] =
    if !r.write then (if r.ecc then d.emit (.poisonedCpl r.h.val r.f.val) else d.emit (.completion r.h.val r.f.val (d.read p.addr p.len)))
    else if r.poisoned then d.aer r.h.val r.f.val .poisoned else d.inboundStore p.addr (r.data.take p.len) := by
  have hok : d.checkPieces r.f.val [p] = .ok := by
    simp [Dev.checkPieces, hc]
  unfold Dev.inboundMem
  dsimp only
  rw [hok]
  simp only [List.flatMap_cons, List.flatMap_nil, List.append_nil, List.foldl_cons, List.foldl_nil]

theorem inboundStore_simplex (hx : ∀ q < 8, d.inDuplex q = false) (x : Nat) (bs : List Byte) : d.inboundStore x bs = d.write x bs := by
  have hnone : (List.range 8).find? (fun q => d.inDuplex q && d.checkMem (.part q) x bs.length == .ok) = none :=
    List.find?_eq_none.2 fun q hq => by simp [hx q (List.mem_range.1 hq)]
  rw [Dev.inboundStore, hnone]

end

/-- A refusal as unsupported is logged at the function, and a read is answered so. -/
theorem inboundUr_shows (d : Dev) (r : Inbound) : ((d.inboundUr r).fn r.h.val r.f.val).aer = .unsupported :: (d.fn r.h.val r.f.val).aer ∧
    (r.write = false → (d.inboundUr r).outs = .unsupported r.h.val r.f.val :: d.outs) ∧ Keeps [] d (d.inboundUr r) := by
  have haer : ((d.aer r.h.val r.f.val .unsupported).fn r.h.val r.f.val).aer = .unsupported :: (d.fn r.h.val r.f.val).aer := by
    rw [Dev.aer, Dev.fn_updFn_same]
  unfold Dev.inboundUr
  dsimp only
  split
  case isTrue hw => exact ⟨haer, fun hr => absurd (hw.symm.trans hr) (by decide), by simp⟩
  case isFalse hw => exact ⟨haer, fun _ => rfl, by simp⟩

/-- A refusal by Completer Abort is too. -/
theorem inboundCa_shows (d : Dev) (r : Inbound) : ((d.inboundCa r).fn r.h.val r.f.val).aer = .completerAbort :: (d.fn r.h.val r.f.val).aer ∧
    (r.write = false → (d.inboundCa r).outs = .completerAbort r.h.val r.f.val :: d.outs) ∧ Keeps [] d (d.inboundCa r) ∧ (d.inboundCa r).flt = d.flt := by
  unfold Dev.inboundCa
  split
  case isTrue hw =>
    obtain ⟨hk, -, ha⟩ := refused_denyWrite d (.fn r.h r.f)
    exact ⟨ha _ _ rfl, fun hr => absurd (hw.symm.trans hr) (by decide), hk, denyWrite_flt _ _⟩
  case isFalse hw =>
    obtain ⟨hk, -, ha⟩ := refused_denyRead d (.fn r.h r.f)
    exact ⟨ha _ _ rfl, fun _ => rfl, hk, denyRead_flt _ _⟩

/-- A request that arrives over a link that is up, at a function that decodes it. -/
theorem inbound_runs {s : State} {r : Inbound} {p : Dev → Prop} (hp : s.dev.powered = true) (hx : s.dev.fnExists r.h.val r.f.val = true) (hl : s.dev.linkUp r.h.val = true)
    (hs : s.dev.fw.serving = true) (hd : s.dev.d3 r.h.val r.f.val = false) (hm : (s.dev.fn r.h.val r.f.val).mse = true) (hb : r.bar ≠ 4)
    (hlen : r.write = true → r.len = r.data.length) (h : p ((s.dev.wakeLink r.h.val).inboundWindow r r.len)) : Answers (.inboundRequest r) s p := by
  have hl' : (if r.write then r.data.length else r.len) = r.len := by
    split
    case isTrue hw => exact (hlen hw).symm
    case isFalse => rfl
  have hr : { r with len := r.len } = r := rfl
  have hw := linkWoken_wakeLink s.dev r.h.val
  have hd' : (s.dev.wakeLink r.h.val).d3 r.h.val r.f.val = false := by rw [Dev.d3, hw.keeps.rf (by decide), ← Dev.d3, hd]
  refine answers_eventOn (c := .inboundRequest r) (rfl : execInboundRequest r s = _) hp ?_
  dsimp only
  rw [hl', hr, if_neg (by simp [hx, hl]), if_neg (by simp [hw.fw, hs, hd', fn_of_woken hw, hm]), if_neg hb]
  exact h

/-! ## Completions -/

/-- A completion's bytes are counted. -/
def Dev.cplCounted (d : Dev) (r : HostReq) (rep : Reply) : Dev :=
  match rep with
  | .data _ => d.countBy (evHost r.h 4) r.len
  | .part bs => d.countBy (evHost r.h 4) bs.length
  | _ => d

theorem cplCounted_rest (d : Dev) (r : HostReq) (rep : Reply) : (d.cplCounted r rep).host = d.host ∧ (d.cplCounted r rep).regs = d.regs ∧
    (d.cplCounted r rep).mem = d.mem ∧ (d.cplCounted r rep).thr = d.thr := by
  cases rep <;> exact ⟨rfl, rfl, rfl, rfl⟩

/-- The reply of a request is kept for the operation that waits. -/
def Dev.replied (d : Dev) (tag : Nat) (r : HostReq) (rep : Reply) : Dev :=
  ({ d with host := { d.host with reqs := tabIns tag { r with reply := some rep } d.host.reqs } }).countTags r.h r.f

theorem replied_reqs (d : Dev) (tag : Nat) (r : HostReq) (rep : Reply) : tabFind tag (d.replied tag r rep).host.reqs = some { r with reply := some rep } := by
  rw [Dev.replied, countTags_host]
  exact tabFind_ins_same _ _ _

theorem keeps_replied (d : Dev) (tag : Nat) (r : HostReq) (rep : Reply) : Keeps [.hostFnStat, .hostLinkStat] d (d.replied tag r rep) :=
  (keeps_countTags_iff (by decide) (by decide) _ _).2 ((keeps_host _).2 (Keeps.refl _ _))

theorem dropTag_gone {d : Dev} {tag : Nat} : tabFind tag (d.dropTag tag).host.reqs = none := by
  cases ht : tabFind tag d.host.reqs with
  | none => rw [Dev.dropTag, ht]; exact ht
  | some r => rw [dropTag_reqs _ ht, tabFind_del_same]

theorem keeps_dropTag (d : Dev) (tag : Nat) : Keeps [.hostFnStat, .hostLinkStat] d (d.dropTag tag) := (keeps_dropTag_iff (by decide) (by decide) _).2 (Keeps.refl _ _)

/-- Taking a tag off leaves the functions, the reports and the counters. -/
theorem dropTag_rest (d : Dev) (tag : Nat) : (d.dropTag tag).host.fns = d.host.fns ∧ (d.dropTag tag).flt = d.flt ∧ (d.dropTag tag).cnt = d.cnt := by
  have htags (e : Dev) (h f : Nat) : (e.countTags h f).flt = e.flt ∧ (e.countTags h f).cnt = e.cnt := by
    unfold Dev.countTags
    simp only [Dev.setRf_flt, Dev.setRf_cnt, and_self]
  unfold Dev.dropTag
  split
  · rw [countTags_host, (htags _ _ _).1, (htags _ _ _).2]
    exact ⟨rfl, rfl, rfl⟩
  · exact ⟨rfl, rfl, rfl⟩

/-- A request past its timeout is logged and reported. -/
def Dev.timedOut (d : Dev) (r : HostReq) : Dev :=
  ((d.aer r.h r.f .completionTimeout).raiseFree 1153 1 (if r.f = 0 then none else some (r.f - 1))).count (evHost r.h 6)

theorem timedOut_shows (d : Dev) (r : HostReq) (tag : Nat) : tabFind tag ((d.timedOut r).dropTag tag).host.reqs = none ∧
    (((d.timedOut r).dropTag tag).fn r.h r.f).aer = .completionTimeout :: (d.fn r.h r.f).aer ∧
    RaisesSome 1153 1 (if r.f = 0 then none else some (r.f - 1)) d ((d.timedOut r).dropTag tag) ∧
    Counts [evHost r.h 6] d ((d.timedOut r).dropTag tag) ∧ Keeps [.hostFnStat, .hostLinkStat] d ((d.timedOut r).dropTag tag) := by
  have hfn : (d.timedOut r).fn r.h r.f = (d.aer r.h r.f .completionTimeout).fn r.h r.f := rfl
  have hraise : RaisesSome 1153 1 (if r.f = 0 then none else some (r.f - 1)) d (d.timedOut r) := ⟨_, rfl⟩
  have hcount : Counts [evHost r.h 6] d (d.timedOut r) := counts_count (counts_same (counts_refl d) fun _ => rfl) _
  have hkeep : Keeps [.hostFnStat, .hostLinkStat] d (d.timedOut r) := by simp [Dev.timedOut]
  have haer : (d.aer r.h r.f .completionTimeout).fn r.h r.f = { d.fn r.h r.f with aer := .completionTimeout :: (d.fn r.h r.f).aer } := Dev.fn_updFn_same _ _ _ _
  generalize d.timedOut r = e at *
  obtain ⟨h1, h2, h3⟩ := dropTag_rest e tag
  obtain ⟨v, hv⟩ := hraise
  refine ⟨dropTag_gone, ?_, ⟨v, by rw [Raises, h2]; exact hv⟩, counts_same hcount fun _ => by rw [Dev.counter, h3, ← Dev.counter], hkeep.trans (keeps_dropTag _ _)⟩
  rw [Dev.fn, h1, ← Dev.fn, hfn, haer]

/-! ## Identity words -/

/-- The first word of configuration space ends in the device's number. -/
theorem idWord_device (f : Nat) (v : BitVec 16) :
    (BitVec.ofNat 32 (v.toNat + (if f = 0 then 0x8640 else 0x8641) * 2 ^ 16)).toNat / 65536 = (if f = 0 then 0x8640 else 0x8641) := by
  have hv := v.isLt
  split_ifs <;> rw [BitVec.toNat_ofNat] <;> omega

theorem idWord_class (f : Nat) :
    (BitVec.ofNat 32 (0xB1 + (if f = 0 then 0x120000 else 0x028000) * 2 ^ 8)).toNat / 256 = (if f = 0 then 0x120000 else 0x028000) := by
  split_ifs <;> decide

/-! ## The commands -/

section
variable {s : State} {h : Fin 8} {f : Fin 9} {k : Nat} (hk : k = fnKey h.val f.val)
include hk

theorem hostWinCommit_answers {who : Who} (hlive : s.dev.live = true) (hm : s.dev.isManager who = true) :
    (s.dev.rb .hostWinStat k 0 = true → Answers (.hostWinCommit who h f) s (fun d => d.rb .hostWinStat k 1 = true ∧ d.rb .hostWinStat k 0 = true ∧ Keeps [.hostWinStat] s.dev d)) ∧
    (∀ e, s.dev.rb .hostWinStat k 0 = false → (List.range 256).find? (fun e => s.dev.winBad h.val f.val e) = some e → Answers (.hostWinCommit who h f) s (fun d =>
      d.rb .hostWinStat k 2 = true ∧ d.rf .hostWinStat k 3 8 = e ∧ d.rb .hostWinStat k 0 = false ∧ Keeps [.hostWinStat] s.dev d)) ∧
    (s.dev.rb .hostWinStat k 0 = false → (∀ e < 256, s.dev.winBad h.val f.val e = false) → Answers (.hostWinCommit who h f) s (fun d =>
      d.rb .hostWinStat k 0 = true ∧ d.rb .hostWinStat k 11 = !s.dev.rb .hostWinStat k 11 ∧ Keeps [.hostWinStat, .hostWinAct, .hostWinStg] s.dev d ∧
      ∀ e < 256, d.reg .hostWinAct (256 * k + e) = s.dev.reg .hostWinStg (256 * k + e) ∧ d.reg .hostWinStg (256 * k + e) = s.dev.reg .hostWinAct (256 * k + e))) := by
  subst hk
  have hrun {p : Dev → Prop} (hr : p (s.dev.winCommit h.val f.val)) : Answers (.hostWinCommit who h f) s p := by
    refine answers_event (c := .hostWinCommit who h f) (rfl : execHostWinCommit who h f s = _) hlive ?_
    rwa [if_pos hm]
  refine ⟨fun hb => hrun ?_, fun e hb he => hrun ?_, fun hb he => hrun ?_⟩
  · rw [winCommit_busy hb]
    exact ⟨Dev.rb_setRb_same _ _ _ _ _ (by decide), (Dev.rb_setRb_ne _ _ _ _ _ _ (by decide)).trans hb, by simp⟩
  · have he256 : e < 2 ^ 8 := List.mem_range.1 (List.mem_of_find?_eq_some he)
    rw [winCommit_bad hb he]
    refine ⟨?_, Dev.rf_setRf_of_lt _ (by decide) he256, ?_, by simp⟩
    · rw [Dev.rb_setRf_ne _ _ _ _ _ _ _ (by decide) (.inl (by decide)), Dev.rb_setRb_same _ _ _ _ _ (by decide)]
    · rw [Dev.rb_setRf_ne _ _ _ _ _ _ _ (by decide) (.inl (by decide)), Dev.rb_setRb_ne _ _ _ _ _ _ (by decide), Dev.rb_setRb_ne _ _ _ _ _ _ (by decide), hb]
  · rw [winCommit_good hb he]
    have hk0 : Keeps [.hostWinStat] s.dev (s.dev.setRb .hostWinStat (fnKey h.val f.val) 1 false) := by simp
    have hks := keeps_winSwapped (s.dev.setRb .hostWinStat (fnKey h.val f.val) 1 false) (fnKey h.val f.val)
    have hsw := reg_winSwapped (s.dev.setRb .hostWinStat (fnKey h.val f.val) 1 false) (fnKey h.val f.val)
    generalize (s.dev.setRb .hostWinStat (fnKey h.val f.val) 1 false).winSwapped (fnKey h.val f.val) = c at *
    have hkc : Keeps [.hostWinStat] c (c.winCommitting (fnKey h.val f.val)) := by simp [Dev.winCommitting]
    refine ⟨Dev.rb_setRb_same _ _ _ _ _ (by decide), ?_, ((hk0.mono (by decide)).trans (hks.mono (by decide))).trans (hkc.mono (by decide)), fun e he => ?_⟩
    · rw [Dev.winCommitting, Dev.rb_setRb_ne _ _ _ _ _ _ (by decide), Dev.rb_setRb_same _ _ _ _ _ (by decide), hks.rb (by decide),
        Dev.rb_setRb_ne _ _ _ _ _ _ (by decide)]
    · obtain ⟨h1, h2⟩ := hsw e he
      rw [hkc.reg (by decide), hkc.reg (by decide), h1, h2, hk0.reg (by decide), hk0.reg (by decide)]
      exact ⟨rfl, rfl⟩

theorem winCopyDone_answers (hlive : s.dev.live = true) (hb : s.dev.rb .hostWinStat k 0 = true) : Answers (.winCopyDone h f) s (fun d => d.rb .hostWinStat k 0 = false ∧
    (∀ e < 256, d.reg .hostWinStg (256 * k + e) = s.dev.reg .hostWinAct (256 * k + e)) ∧ Keeps [.hostWinStat, .hostWinStg] s.dev d) := by
  subst hk
  refine answers_event (c := .winCopyDone h f) (rfl : execWinCopyDone h f s = _) hlive ?_
  dsimp only
  rw [if_neg (by rw [hb]; decide)]
  refine ⟨Dev.rb_setRb_same _ _ _ _ _ (by decide), fun e he => ?_, ((keeps_winCopied s.dev _).mono (by decide)).trans ((keeps_setRb_iff (by decide) _ _ _).2 (Keeps.refl _ _))⟩
  rw [Dev.reg_setRb_ne _ _ _ (.inl (by decide))]
  exact reg_winCopied s.dev _ e he

end

section
variable {s : State} {h : Fin 8} {f : Fin 9} (hp : s.dev.powered = true)
include hp

theorem configRequest_answers (hx : s.dev.fnExists h.val f.val = true) (hl : s.dev.linkUp h.val = true) (off : BitVec 12) :
    (s.dev.fw.serving = false → ∀ w, Answers (.configRequest h f off w) s (fun d => d.outs = .retryStatus h.val f.val :: s.dev.outs ∧ Keeps [] s.dev d)) ∧
    (s.dev.fw.serving = true → Answers (.configRequest h f off none) s (fun d => ∃ v, d.outs = .cfgValue h.val f.val (off.toNat / 4 * 4) v :: s.dev.outs ∧ Keeps [] s.dev d ∧
      (off.toNat / 4 = 0 → v.toNat / 65536 = (if f.val = 0 then 0x8640 else 0x8641)) ∧ (off.toNat / 4 = 2 → v.toNat / 256 = (if f.val = 0 then 0x120000 else 0x028000)))) := by
  refine ⟨fun hs w => ?_, fun hs => ?_⟩
  · refine answers_eventOn (c := .configRequest h f off w) (rfl : execConfigRequest h f off w s = _) hp ?_
    dsimp only
    rw [if_neg (by simp [hx, hl]), if_pos (by rw [hs]; rfl)]
    exact ⟨rfl, (keeps_emit_iff ..).2 (Keeps.refl _ _)⟩
  · refine answers_eventOn (c := .configRequest h f off none) (rfl : execConfigRequest h f off none s = _) hp ?_
    dsimp only
    rw [if_neg (by simp [hx, hl]), if_neg (by rw [hs]; decide)]
    cases hv : s.dev.cfgWord h.val f.val (off.toNat / 4 * 4) with
    | some v =>
      refine ⟨v, rfl, (keeps_emit_iff ..).2 (Keeps.refl _ _), fun h0 => ?_, fun h2 => ?_⟩
      · rw [h0, Nat.zero_mul] at hv
        obtain rfl := Option.some.inj hv
        exact idWord_device _ _
      · rw [h2] at hv
        obtain rfl := Option.some.inj hv
        exact idWord_class _
    | none =>
      refine ⟨_, rfl, keeps_of_eq rfl rfl rfl, fun h0 => ?_, fun h2 => ?_⟩
      · rw [h0, Nat.zero_mul] at hv
        cases hv
      · rw [h2] at hv
        cases hv

theorem hostCompletionRx_answers {tag : Nat} {r : HostReq} {rep : Reply} (ht : tabFind tag s.dev.host.reqs = some r) (hrep : rep ≠ .timeout) (hn : r.reply = none)
    (hq : r.quarantined = false) (hs : s.dev.safe = false) :
    (s.dev.reqWanted r = true → Answers (.hostCompletionRx tag rep) s (fun d => tabFind tag d.host.reqs = some { r with reply := some rep } ∧ Keeps [.hostFnStat, .hostLinkStat] s.dev d)) ∧
    (s.dev.reqWanted r = false → Answers (.hostCompletionRx tag rep) s (fun d => tabFind tag d.host.reqs = none ∧ Keeps [.hostFnStat, .hostLinkStat] s.dev d)) := by
  obtain ⟨h1, h2, h3, h4⟩ := cplCounted_rest s.dev r rep
  have hk : Keeps [.hostFnStat, .hostLinkStat] s.dev (s.dev.cplCounted r rep) := keeps_of_eq h2 h3 h4
  have hwant : (s.dev.cplCounted r rep).reqWanted r = s.dev.reqWanted r := by simp only [Dev.reqWanted, Dev.thread, h4]
  have hsafe : (s.dev.cplCounted r rep).safe = false := by rw [Dev.safe, hk.rb (by decide), ← Dev.safe, hs]
  have hrun {p : Dev → Prop} (hr : p (if (s.dev.cplCounted r rep).safe || !(s.dev.cplCounted r rep).reqWanted r then (s.dev.cplCounted r rep).dropTag tag
      else (s.dev.cplCounted r rep).replied tag r rep)) : Answers (.hostCompletionRx tag rep) s p := by
    refine answers_eventOn (c := .hostCompletionRx tag rep) (rfl : execHostCompletionRx tag rep s = _) hp ?_
    simp only [ht]
    rw [if_neg (by simp [hrep, hn]), if_neg (by simp [hq])]
    exact hr
  refine ⟨fun hwanted => hrun ?_, fun hwanted => hrun ?_⟩
  · rw [if_neg (by simp [hsafe, hwant, hwanted])]
    exact ⟨replied_reqs _ _ _ _, hk.trans (keeps_replied _ _ _ _)⟩
  · rw [if_pos (by simp [hwant, hwanted])]
    exact ⟨dropTag_gone, hk.trans (keeps_dropTag _ _)⟩

theorem hostCplTimeout_answers {tag : Nat} {r : HostReq} (ht : tabFind tag s.dev.host.reqs = some r) (hn : r.reply = none) (hq : r.quarantined = false)
    (hdue : r.tick + r.limit ≤ s.dev.time.tick) (hs : s.dev.safe = false) :
    (r.op = .discarded → Answers (.hostCplTimeout tag) s (fun d => tabFind tag d.host.reqs = none ∧ (d.fn r.h r.f).aer = .completionTimeout :: (s.dev.fn r.h r.f).aer ∧
      RaisesSome 1153 1 (if r.f = 0 then none else some (r.f - 1)) s.dev d ∧ Counts [evHost r.h 6] s.dev d ∧ Keeps [.hostFnStat, .hostLinkStat] s.dev d)) ∧
    (∀ ch off len, r.op = .xferRead ch off len → Answers (.hostCplTimeout tag) s (fun d => ∃ d1 : Dev, d = d1.failXfer ch 7 ∧ tabFind tag d1.host.reqs = none ∧
      RaisesSome 1153 1 (if r.f = 0 then none else some (r.f - 1)) s.dev d1 ∧ Keeps [.hostFnStat, .hostLinkStat] s.dev d1)) := by
  have hk : Keeps [.hostFnStat, .hostLinkStat] s.dev (s.dev.timedOut r) := by simp [Dev.timedOut]
  have hsafe : (s.dev.timedOut r).safe = false := by rw [Dev.safe, hk.rb (by decide), ← Dev.safe, hs]
  obtain ⟨h1, h2, h3, h4, h5⟩ := timedOut_shows s.dev r tag
  refine ⟨fun hop => ?_, fun ch off len hop => ?_⟩
  · refine answers_eventOn (c := .hostCplTimeout tag) (rfl : execHostCplTimeout tag s = _) hp ?_
    simp only [ht]
    rw [if_neg (by simp [hn, hq, Nat.not_lt.2 hdue]), if_neg (by rw [← Dev.timedOut, hsafe]; decide), hop]
    exact ⟨h1, h2, h3, h4, h5⟩
  · refine answers_eventOn (c := .hostCplTimeout tag) (rfl : execHostCplTimeout tag s = _) hp ?_
    simp only [ht]
    rw [if_neg (by simp [hn, hq, Nat.not_lt.2 hdue]), if_neg (by rw [← Dev.timedOut, hsafe]; decide), hop]
    exact ⟨(s.dev.timedOut r).dropTag tag, rfl, h1, h3, h5⟩

end

/-- Settles O41. -/
theorem hostWindowsAndCompletions : Obligations.HostWindowsAndCompletions := by
  intro h f s k hp hk
  refine ⟨fun who hlive hm => hostWinCommit_answers hk hlive hm, fun hlive hb => winCopyDone_answers hk hlive hb, ?_,
    fun off hx hl => configRequest_answers hp hx hl off, fun tag r rep ht hrep hn hq hs => hostCompletionRx_answers hp ht hrep hn hq hs,
    fun tag r ht hn hq hdue hs => hostCplTimeout_answers hp ht hn hq hdue hs⟩
  rintro r w z a rfl rfl hx hl hs hd hm hbar hlen hoff hpage hw ha
  have hwk := linkWoken_wakeLink s.dev r.h.val
  have hrun {p : Dev → Prop} (h : p ((s.dev.wakeLink r.h.val).inboundWindow r r.len)) : Answers (.inboundRequest r) s p :=
    inbound_runs hp hx hl hs hd hm (by rcases hbar with ⟨h, -⟩ | ⟨h, -⟩ <;> omega) hlen h
  have hpc : (s.dev.wakeLink r.h.val).pieces r.h.val r.f.val r.bar r.off r.len = some [⟨w, a, r.len⟩] := by
    rw [pieces_one (by rw [fn_of_woken hwk]; exact hbar) hoff hpage, hwk.keeps.reg (by decide), ← hk, ← hw, ← ha]
  have hdom : inboundDom r.f.val = if r.f.val = 0 then .manager else .part (r.f.val - 1) := rfl
  generalize s.dev.wakeLink r.h.val = e at *
  refine ⟨fun hv => hrun ?_, fun hv hperm => hrun ?_, fun hv hreg hchk => ⟨fun hread hecc hperm => hrun ?_, fun hwrite hpois hperm hman hdpx => hrun ?_⟩⟩
  · rw [inboundWindow_invalid hpc hv]
    obtain ⟨h1, h2, h3⟩ := inboundUr_shows e r
    rw [fn_of_woken hwk] at h1
    rw [hwk.outs] at h2
    exact ⟨h3.2.1.trans hwk.keeps.2.1, h1, h2, hwk.keeps.trans (h3.mono (by decide))⟩
  · have hmay : e.mayPass r w = false := by
      unfold Dev.mayPass
      split
      case isTrue hwr => rw [if_pos hwr] at hperm; rw [hperm, Bool.false_and]
      case isFalse hwr => rwa [if_neg hwr] at hperm
    rw [inboundWindow_denied hpc hv hmay]
    have hk1 : Keeps [] e ((e.raiseFree 1154 1 (whoPart (.fn r.h r.f))).count (evHost r.h.val 9)) := by simp
    obtain ⟨h1, h2, h3, h4⟩ := inboundCa_shows ((e.raiseFree 1154 1 (whoPart (.fn r.h r.f))).count (evHost r.h.val 9)) r
    have hfn : ((e.raiseFree 1154 1 (whoPart (.fn r.h r.f))).count (evHost r.h.val 9)).fn r.h.val r.f.val = s.dev.fn r.h.val r.f.val := fn_of_woken hwk _ _
    have hraise : RaisesSome 1154 1 (whoPart (.fn r.h r.f)) s.dev ((e.raiseFree 1154 1 (whoPart (.fn r.h r.f))).count (evHost r.h.val 9)) := by
      obtain ⟨v, hv⟩ := raisesSome_raiseFree e 1154 1 (whoPart (.fn r.h r.f))
      rw [Raises, hwk.flt, hwk.time] at hv
      exact ⟨v, hv⟩
    have houts : ((e.raiseFree 1154 1 (whoPart (.fn r.h r.f))).count (evHost r.h.val 9)).outs = s.dev.outs := hwk.outs
    generalize (e.raiseFree 1154 1 (whoPart (.fn r.h r.f))).count (evHost r.h.val 9) = c at *
    obtain ⟨v, hv⟩ := hraise
    have hk2 := hk1.trans h3
    exact ⟨hk2.2.1.trans hwk.keeps.2.1, ⟨v, by rw [Raises, h4]; exact hv⟩, by rw [h1, hfn], fun hr => by rw [h2 hr, houts], hwk.keeps.trans (hk2.mono (by decide))⟩
  · have hmay : e.mayPass r w = true := by rw [Dev.mayPass, if_neg (by simp [hread]), hperm]
    rw [inboundWindow_memory hpc hv hmay (fun isl o => by rw [region_of_woken hwk]; exact hreg isl o),
      inboundMem_ok (by rw [checkMem_of_woken hwk, hdom]; exact hchk), if_pos (by rw [hread]; rfl), if_neg (by rw [hecc]; decide)]
    refine ⟨(keeps_emit_iff ..).2 hwk.keeps, ?_⟩
    rw [Dev.emit, hwk.outs, Dev.read, hwk.keeps.2.1, ← Dev.read]
  · have hmay : e.mayPass r w = true := by
      rw [Dev.mayPass, if_pos hwrite, hperm, Bool.true_and]
      by_cases hf : r.f.val = 0
      · have hport : e.mgmtPort = s.dev.mgmtPort := hwk.keeps.rf (by decide) _ _ _
        simp [Dev.isManager, hf, hport, hman hf]
      · simp [hf]
    rw [inboundWindow_memory hpc hv hmay (fun isl o => by rw [region_of_woken hwk]; exact hreg isl o),
      inboundMem_ok (by rw [checkMem_of_woken hwk, hdom]; exact hchk), if_neg (by rw [hwrite]; decide), if_neg (by rw [hpois]; decide),
      inboundStore_simplex (fun q hq => by rw [Dev.inDuplex, hwk.keeps.rb (by decide)]; exact hdpx q hq), hlen hwrite, List.take_length]
    refine ⟨?_, hwk.outs, hwk.keeps.2.2, fun q i hq => ?_⟩
    · rw [Dev.write, hwk.keeps.2.1]
      rfl
    · rw [Dev.write_reg]
      exact hwk.keeps.reg (by simpa using hq) i

end Sys2Proof.Machine
end

section
/-! PROOFS. Counters, counter windows, their mirrors and freed slots (R429, R431 to R434, R448). -/
namespace Sys2Proof.Machine
open Sys2Proof

/-! ## Parts of what has been stored -/

theorem leBytes_length8 (v : Nat) : (leBytes 8 v).length = 8 := leBytes_length 8 v

/-- A part of what has been stored is read again. -/
theorem read_write_part (d : Dev) (a : Nat) (pre seg post : List Byte) : (d.write a (pre ++ (seg ++ post))).read (a + pre.length) seg.length = seg := by
  apply List.ext_getElem
  · simp [Dev.read, memBytes]
  · intro k h1 h2
    have hb : (d.write a (pre ++ (seg ++ post))).byte (a + pre.length + k) = seg[k] := by
      rw [Dev.byte_write, if_pos ⟨by omega, by simp only [List.length_append]; omega⟩, Nat.add_assoc, Nat.add_sub_cancel_left, List.getD_eq_getElem?_getD,
        List.getElem?_append_right (by omega), Nat.add_sub_cancel_left, List.getElem?_append_left h2, List.getElem?_eq_getElem h2]
      rfl
    simp only [Dev.read, memBytes, List.getElem_map, List.getElem_range]
    exact hb

/-- The words of a list stand one after the other. -/
theorem words_split (f : Nat → Nat) {n k : Nat} (hk : k < n) : ∃ pre post : List Byte, pre.length = 8 * k ∧
    (List.range n).flatMap (fun j => leBytes 8 (f j)) = pre ++ (leBytes 8 (f k) ++ post) := by
  have hlen (m : Nat) : ((List.range m).flatMap (fun j => leBytes 8 (f j))).length = 8 * m := by
    simp [List.length_flatMap, leBytes_length, Nat.mul_comm]
  have hsplit : List.range n = List.range k ++ k :: (List.range n).drop (k + 1) := by
    conv_lhs => rw [← List.take_append_drop k (List.range n)]
    rw [List.take_range, Nat.min_eq_left hk.le, List.drop_eq_getElem_cons (by simpa using hk), List.getElem_range]
  refine ⟨(List.range k).flatMap (fun j => leBytes 8 (f j)), ((List.range n).drop (k + 1)).flatMap (fun j => leBytes 8 (f j)), hlen k, ?_⟩
  conv_lhs => rw [hsplit]
  rw [List.flatMap_append, List.flatMap_cons]

/-! ## Reads of counters -/

section
variable {s : State} (hp : s.dev.powered = true)
include hp

theorem counterLowRead_answers (who : Who) (ev : Fin 5120) :
    (s.dev.isManager who = true → Answers (.counterLowRead who ev) s (fun d => Keeps [] s.dev d ∧
      d.outs = .readValue (evHome ev.val) (0x6000000 + 8 * ev.val) (BitVec.ofNat 64 ((s.dev.counter ev.val).toNat % 2 ^ 32)) :: s.dev.outs ∧
      (tabGet d.cnt.hiLatch 0 (latchKey who)).toNat = (s.dev.counter ev.val).toNat / 2 ^ 32 ∧
      (∀ k, k ≠ latchKey who → tabGet d.cnt.hiLatch 0 k = tabGet s.dev.cnt.hiLatch 0 k) ∧ ∀ e, d.counter e = s.dev.counter e)) ∧
    (∀ h f, who = .fn h f → s.dev.isManager who = false → Answers (.counterLowRead who ev) s (fun d => Claims.Refused who s.dev d ∧
      d.outs = .completerAbort h.val f.val :: s.dev.outs ∧ Counts [evHost h.val 8] s.dev d)) := by
  refine ⟨fun hm => ?_, fun h f hw hm => ?_⟩
  · refine answers_eventOn (c := .counterLowRead who ev) (rfl : execCounterLowRead who ev s = _) hp ?_
    rw [if_neg (by rw [hm]; decide)]
    have hhi : (s.dev.counter ev.val).toNat / 2 ^ 32 < 2 ^ 32 := by have := (s.dev.counter ev.val).isLt; omega
    refine ⟨keeps_of_eq rfl rfl rfl, rfl, ?_, fun k hk => tabGet_put_ne _ _ _ hk _, fun _ => rfl⟩
    refine (congrArg BitVec.toNat (tabGet_put_same _ _ _ _)).trans ?_
    rw [BitVec.toNat_ofNat, Nat.mod_eq_of_lt hhi]
  · refine answers_eventOn (c := .counterLowRead who ev) (rfl : execCounterLowRead who ev s = _) hp ?_
    rw [if_pos (by rw [hm]; rfl)]
    subst hw
    exact ⟨refused_denyRead _ _, rfl, counts_count (counts_same (counts_refl _) fun _ => rfl) _⟩

theorem slotRetiredRead_answers (tid : Fin 512) : Answers (.slotRetiredRead tid) s (fun d => Keeps [] s.dev d ∧ d.cnt.slot = s.dev.cnt.slot ∧
    d.outs = .readValue (islOf tid.val) (0x6200000 + tid.val % 128 * 0x80) (tabGet s.dev.cnt.slot 0 (5 * tid.val)) :: s.dev.outs ∧
    ∀ c, 1 ≤ c → c ≤ 4 → tabGet d.cnt.slotLatch 0 (5 * tid.val + c) = tabGet s.dev.cnt.slot 0 (5 * tid.val + c)) := by
  refine answers_eventOn (c := .slotRetiredRead tid) (rfl : execSlotRetiredRead tid s = _) hp ⟨keeps_of_eq rfl rfl rfl, rfl, rfl, fun c h1 h4 => ?_⟩
  have hall := foldl_each (α := Nat) (β := Tab Word) (f := fun t c => tabPut t 0 (5 * tid.val + c) (tabGet s.dev.cnt.slot 0 (5 * tid.val + c)))
    (pre := fun _ _ => True) (post := fun c t => tabGet t 0 (5 * tid.val + c) = tabGet s.dev.cnt.slot 0 (5 * tid.val + c))
    (fun _ _ _ => tabGet_put_same _ _ _ _) (fun _ _ _ _ _ => trivial) (fun t c j hj h => (tabGet_put_ne _ _ _ (by omega) _).trans h)
    [1, 2, 3, 4] (by decide) s.dev.cnt.slotLatch (fun _ _ => trivial)
  exact hall c (by simp; omega)

end

/-! ## Window configuration -/

section
variable {d : Dev} {w : Nat}

theorem winRange_fields {v p : Nat} (ho : d.winOwner w = some p) : (d.winRange w v) % 2 ^ 21 = v % 2 ^ 21 ∧
    (d.winRange w v).testBit 31 = (v.testBit 31 && d.winMay p (v / 2 ^ 19 % 4) (v % 2 ^ 13) (v / 2 ^ 13 % 64 + 1)) := by
  have hkeep : v % 2 ^ 21 < 2 ^ 21 := Nat.mod_lt _ (by decide)
  have heq : d.winRange w v = v % 2 ^ 21 + (if v.testBit 31 && d.winMay p (v / 2 ^ 19 % 4) (v % 2 ^ 13) (v / 2 ^ 13 % 64 + 1) then 2 ^ 31 else 0) := by
    unfold Dev.winRange
    rw [ho]
    simp only [fld_eq_div, Nat.pow_zero, Nat.div_one, nbit]
    rfl
  rw [heq]
  cases v.testBit 31 && d.winMay p (v / 2 ^ 19 % 4) (v % 2 ^ 13) (v / 2 ^ 13 % 64 + 1) with
  | false =>
    rw [if_neg (by decide), Nat.add_zero, Nat.mod_mod]
    exact ⟨rfl, Nat.testBit_lt_two_pow (hkeep.trans (by decide))⟩
  | true =>
    rw [if_pos rfl]
    refine ⟨by omega, ?_⟩
    rw [Nat.testBit_eq_decide_div_mod_eq, decide_eq_true_eq]
    omega

theorem mirrorStart_rest : Keeps [.cntWinStat] d (d.mirrorStart w) ∧ (d.mirrorStart w).rb .cntWinStat w 0 = false ∧
    (d.mirrorStart w).cnt.mirrorAt = (if d.mirrorStep w = 0 then tabDel w d.cnt.mirrorAt else tabIns w (d.ns + d.mirrorStep w) d.cnt.mirrorAt) := by
  refine ⟨?_, Dev.rb_setRb_same d _ _ _ _ (by decide), rfl⟩
  exact (keeps_cnt _).2 (by simp)

/-- A mirror's period is written. -/
theorem mirrorPeriod_shows {x : Nat} (hx : x ≤ 1000000) : Keeps [.cntWinCfg3, .cntWinStat] d ((d.setRf .cntWinCfg3 w 0 20 x).mirrorStart w) ∧
    ((d.setRf .cntWinCfg3 w 0 20 x).mirrorStart w).winOwner w = d.winOwner w ∧ ((d.setRf .cntWinCfg3 w 0 20 x).mirrorStart w).rf .cntWinCfg3 w 0 20 = x ∧
    tabFind w ((d.setRf .cntWinCfg3 w 0 20 x).mirrorStart w).cnt.mirrorAt = if x = 0 then none else some (d.ns + x * 1000) := by
  obtain ⟨h1, -, h3⟩ := mirrorStart_rest (d := d.setRf .cntWinCfg3 w 0 20 x) (w := w)
  have hx20 : x < 2 ^ 20 := Nat.lt_of_le_of_lt hx (by decide)
  have hrf : (d.setRf .cntWinCfg3 w 0 20 x).rf .cntWinCfg3 w 0 20 = x := Dev.rf_setRf_of_lt _ (by decide) hx20
  refine ⟨((keeps_setRf_iff (by decide) _ _ _ _).2 (Keeps.refl _ _)).trans (h1.mono (by decide)), ?_, (h1.rf (by decide) _ _ _).trans hrf, ?_⟩
  · rw [Dev.winOwner, h1.rb (by decide), h1.rf (by decide), Dev.rb_setRf_ne _ _ _ _ _ _ _ (by decide) (.inr (by decide)),
      Dev.rf_setRf_ne _ _ _ _ _ _ _ _ (by decide) (.inr (by decide)), ← Dev.winOwner]
  · rw [h3, Dev.mirrorStep, hrf]
    by_cases h0 : x = 0
    · rw [if_pos (by omega), if_pos h0, tabFind_del_same]
    · rw [if_neg (by omega), if_neg h0, tabFind_ins_same, Dev.ns, Dev.setRf_time, ← Dev.ns]

end

section
variable {s : State} (hp : s.dev.powered = true)
include hp

theorem cntWinCfgWrite_runs {who : Who} {w : Fin 1024} {r : Fin 4} {v : W32} {p : Nat} {q : Dev → Prop} (ho : s.dev.winOwner w.val = some p)
    (hm : s.dev.mayDrive who p = true) (h : q (s.dev.winWrite w.val r.val v.toNat)) : Answers (.cntWinCfgWrite who w r v) s q := by
  refine answers_eventOn (c := .cntWinCfgWrite who w r v) (rfl : execCntWinCfgWrite who w r v s = _) hp ?_
  rw [ho]
  cases who with
  | fn x f =>
    dsimp only
    rw [if_pos hm]
    exact h
  | _ => exact h

theorem cntWinCfgWrite_answers (who : Who) (w : Fin 1024) (v : W32) (p : Nat) (ho : s.dev.winOwner w.val = some p) :
    (s.dev.mayDrive who p = true →
      Answers (.cntWinCfgWrite who w 0 v) s (fun d => Keeps [.cntWinCfg0] s.dev d ∧ Claims.OnlyAt .cntWinCfg0 w.val s.dev d ∧ d.rf .cntWinCfg0 w.val 0 21 = v.toNat % 2 ^ 21 ∧
        d.rb .cntWinCfg0 w.val 31 = (v.getLsbD 31 && s.dev.winMay p (v.toNat / 2 ^ 19 % 4) (v.toNat % 2 ^ 13) (v.toNat / 2 ^ 13 % 64 + 1))) ∧
      Answers (.cntWinCfgWrite who w 1 v) s (fun d => Keeps [.cntWinCfg1, .cntWinStat] s.dev d ∧ d.rf .cntWinCfg1 w.val 0 32 = v.toNat ∧ d.rb .cntWinStat w.val 0 = false) ∧
      Answers (.cntWinCfgWrite who w 3 v) s (fun d => Keeps [.cntWinCfg3, .cntWinStat] s.dev d ∧ d.winOwner w.val = some p ∧
        d.rf .cntWinCfg3 w.val 0 20 = min (v.toNat % 2 ^ 20) 1000000 ∧
        tabFind w.val d.cnt.mirrorAt = if v.toNat % 2 ^ 20 = 0 then none else some (s.dev.ns + min (v.toNat % 2 ^ 20) 1000000 * 1000))) ∧
    (∀ h f r, who = .fn h f → s.dev.mayDrive who p = false → Answers (.cntWinCfgWrite who w r v) s (fun d => Claims.Refused who s.dev d ∧ d.cnt = s.dev.cnt)) := by
  refine ⟨fun hm => ⟨cntWinCfgWrite_runs hp ho hm ?_, cntWinCfgWrite_runs hp ho hm ?_, cntWinCfgWrite_runs hp ho hm ?_⟩, fun h f r hw hm => ?_⟩
  · obtain ⟨h1, h2⟩ := winRange_fields (d := s.dev) (w := w.val) (v := v.toNat) ho
    refine ⟨keeps_setReg _ (List.mem_singleton_self _) _ _, onlyAt_setReg _ _ _ _, ?_, ?_⟩
    · show (s.dev.setReg .cntWinCfg0 w.val (BitVec.ofNat 64 (s.dev.winRange w.val v.toNat))).rf .cntWinCfg0 w.val 0 21 = _
      rw [Dev.rf, Dev.reg_setReg_same, wf_eq_mod, BitVec.toNat_ofNat, Nat.mod_mod_of_dvd _ (by decide), h1]
    · show (s.dev.setReg .cntWinCfg0 w.val (BitVec.ofNat 64 (s.dev.winRange w.val v.toNat))).rb .cntWinCfg0 w.val 31 = _
      rw [Dev.rb, Dev.reg_setReg_same, wbit_ofNat _ (by decide), h2]
      rfl
  · obtain ⟨h1, h2, -⟩ := mirrorStart_rest (d := s.dev.setReg .cntWinCfg1 w.val (BitVec.ofNat 64 (v.toNat % 2 ^ 32))) (w := w.val)
    refine ⟨(keeps_setReg _ (by decide) _ _).trans (h1.mono (by decide)), ?_, h2⟩
    show ((s.dev.setReg .cntWinCfg1 w.val (BitVec.ofNat 64 (v.toNat % 2 ^ 32))).mirrorStart w.val).rf .cntWinCfg1 w.val 0 32 = _
    rw [h1.rf (by decide), Dev.rf, Dev.reg_setReg_same, wf_eq_mod, BitVec.toNat_ofNat]
    have := v.isLt
    omega
  · obtain ⟨h1, h2, h3, h4⟩ := mirrorPeriod_shows (d := s.dev) (w := w.val) (x := min (v.toNat % 2 ^ 20) 1000000) (Nat.min_le_right _ _)
    have heq : s.dev.winWrite w.val (3 : Fin 4).val v.toNat = (s.dev.setRf .cntWinCfg3 w.val 0 20 (min (v.toNat % 2 ^ 20) 1000000)).mirrorStart w.val := by
      unfold Dev.winWrite
      rw [nat_min_eq]
      rfl
    have h0 : min (v.toNat % 2 ^ 20) 1000000 = 0 ↔ v.toNat % 2 ^ 20 = 0 := by omega
    rw [heq]
    exact ⟨h1, h2.trans ho, h3, by rw [h4]; simp only [h0]⟩
  · refine answers_eventOn (c := .cntWinCfgWrite who w r v) (rfl : execCntWinCfgWrite who w r v s = _) hp ?_
    subst hw
    rw [ho]
    dsimp only
    rw [if_neg (by rw [hm]; decide)]
    exact ⟨refused_denyWrite _ _, rfl⟩

end

/-! ## Mirrors -/

theorem islAddr_self (a : Nat) : islAddr (a / 2 ^ 44) (a % 2 ^ 44) = a := by
  unfold islAddr
  omega

/-- What a mirror writes: the sequence word, the time and the values. -/
def mirrorBytes (seq time : Word) (n : Nat) (val : Nat → Word) : List Byte :=
  leBytes 8 seq.toNat ++ leBytes 8 time.toNat ++ (List.range n).flatMap (fun k => leBytes 8 (val k).toNat)

theorem mirrorBytes_length (seq time : Word) (n : Nat) (val : Nat → Word) : (mirrorBytes seq time n val).length = 16 + 8 * n := by
  simp [mirrorBytes, List.length_flatMap, leBytes_length, Nat.mul_comm]
  omega

theorem mirrorBytes_read (d : Dev) (a : Nat) (seq time : Word) (n : Nat) (val : Nat → Word) : (d.write a (mirrorBytes seq time n val)).read a 8 = leBytes 8 seq.toNat ∧
    (d.write a (mirrorBytes seq time n val)).read (a + 8) 8 = leBytes 8 time.toNat ∧
    ∀ k < n, (d.write a (mirrorBytes seq time n val)).read (a + 16 + 8 * k) 8 = leBytes 8 (val k).toNat := by
  refine ⟨?_, ?_, fun k hk => ?_⟩
  · have h := read_write_part d a [] (leBytes 8 seq.toNat) (leBytes 8 time.toNat ++ (List.range n).flatMap (fun k => leBytes 8 (val k).toNat))
    rwa [List.nil_append, List.length_nil, Nat.add_zero, leBytes_length, ← List.append_assoc] at h
  · have h := read_write_part d a (leBytes 8 seq.toNat) (leBytes 8 time.toNat) ((List.range n).flatMap (fun k => leBytes 8 (val k).toNat))
    rwa [leBytes_length, leBytes_length, ← List.append_assoc] at h
  · obtain ⟨pre, post, hpre, hsplit⟩ := words_split (fun k => (val k).toNat) hk
    have h := read_write_part d a (leBytes 8 seq.toNat ++ leBytes 8 time.toNat ++ pre) (leBytes 8 (val k).toNat) post
    have hlen : (leBytes 8 seq.toNat ++ leBytes 8 time.toNat ++ pre).length = 16 + 8 * k := by
      simp only [List.length_append, leBytes_length, hpre]
    rw [hlen, leBytes_length, List.append_assoc, ← hsplit, ← Nat.add_assoc] at h
    exact h

theorem mirrorStep_write (d : Dev) (a : Nat) (bs : List Byte) (w : Nat) : (d.write a bs).mirrorStep w = d.mirrorStep w := by
  rw [Dev.mirrorStep, Dev.write_rf, ← Dev.mirrorStep]

/-- A mirror has written its face, and waits for its next instant. -/
def MirrorDone (a b : Dev) (w x n at_ : Nat) : Prop :=
  b.read x 8 = leBytes 8 (tabGet a.cnt.mirrorSeq 0 w + 2).toNat ∧ b.read (x + 8) 8 = leBytes 8 (timeWord at_).toNat ∧
  (∀ k < n, b.read (x + 16 + 8 * k) 8 = leBytes 8 (a.winValue w k).toNat) ∧ (∀ y, y < x ∨ x + 16 + 8 * n ≤ y → b.byte y = a.byte y) ∧
  b.regs = a.regs ∧ b.thr = a.thr ∧ tabFind w b.cnt.mirrorAt = some (at_ + max 1000 (a.mirrorStep w))

/-- A mirror writes its face: in duplex both faces of the pair. -/
def Dev.mirrorTo (d : Dev) (w p at_ n a isl : Nat) : Dev :=
  let seq := tabGet d.cnt.mirrorSeq 0 w + 2
  let bs := leBytes 8 seq.toNat ++ leBytes 8 (timeWord at_).toNat ++ (List.range n).flatMap (fun k => leBytes 8 (d.winValue w k).toNat)
  let isls := if d.inDuplex p && !d.dpxExternal p then [isl, peerIsl isl] else [isl]
  let d := isls.foldl (fun d i => d.write (islAddr i (a % 2 ^ 44)) bs) d
  { d with cnt := { d.cnt with
      mirrorSeq := tabPut d.cnt.mirrorSeq 0 w seq
      mirrorAt := tabIns w (at_ + Nat.max 1000 (d.mirrorStep w)) d.cnt.mirrorAt } }

theorem mirrorTo_done {d : Dev} {w p at_ a isl : Nat} (hdpx : d.inDuplex p = false) (hisl : isl = a / 2 ^ 44) :
    MirrorDone d (d.mirrorTo w p at_ (d.rf .cntWinCfg0 w 13 6 + 1) a isl) w a (d.rf .cntWinCfg0 w 13 6 + 1) at_ := by
  have hend {c : Cnt} (hc : tabFind w c.mirrorAt = some (at_ + max 1000 (d.mirrorStep w))) : MirrorDone d
      { d.write a (mirrorBytes (tabGet d.cnt.mirrorSeq 0 w + 2) (timeWord at_) (d.rf .cntWinCfg0 w 13 6 + 1) (d.winValue w)) with cnt := c }
      w a (d.rf .cntWinCfg0 w 13 6 + 1) at_ := by
    obtain ⟨h1, h2, h3⟩ := mirrorBytes_read d a (tabGet d.cnt.mirrorSeq 0 w + 2) (timeWord at_) (d.rf .cntWinCfg0 w 13 6 + 1) (d.winValue w)
    exact ⟨h1, h2, h3, fun x hx => Dev.byte_write_outside d (by rw [mirrorBytes_length]; omega), rfl, rfl, hc⟩
  have hone : (if d.inDuplex p && !d.dpxExternal p then [isl, peerIsl isl] else [isl]) = [isl] := if_neg (by rw [hdpx, Bool.false_and]; decide)
  rw [Dev.mirrorTo, hone, List.foldl_cons, List.foldl_nil, hisl, islAddr_self]
  exact hend ((tabFind_ins_same _ _ _).trans (by rw [nat_max_eq, mirrorStep_write]))

/-- What a mirror does with the face found: without one it stops. -/
def Dev.mirrorFace (d : Dev) (w p at_ n : Nat) : Option (Nat × Nat) → Dev
  | none => { d.setRb .cntWinStat w 0 true with cnt := { d.cnt with mirrorAt := tabDel w d.cnt.mirrorAt } }
  | some (a, isl) => d.mirrorTo w p at_ n a isl

/-- The model's own text of a mirror is `Dev.mirrorFace`, whatever finds the face: said for a variable in the place of
`Dev.winFace`, so that the kernel does not evaluate it. -/
theorem mirrorFace_of_text (d : Dev) (w : Fin 1024) (p at_ n : Nat) (q : Dev → Prop) (f : Nat → Option (Nat × Nat)) (h : q (d.mirrorFace w.val p at_ n (f n))) :
    q (
      match f n with
      | none => { d.setRb .cntWinStat w.val 0 true with cnt := { d.cnt with mirrorAt := tabDel w.val d.cnt.mirrorAt } }
      | some (a, isl) =>
        let seq := tabGet d.cnt.mirrorSeq 0 w + 2
        let bs := leBytes 8 seq.toNat ++ leBytes 8 (timeWord at_).toNat ++ (List.range n).flatMap (fun k => leBytes 8 (d.winValue w k).toNat)
        let isls := if d.inDuplex p && !d.dpxExternal p then [isl, peerIsl isl] else [isl]
        let d := isls.foldl (fun d i => d.write (islAddr i (a % 2 ^ 44)) bs) d
        { d with cnt := { d.cnt with
          mirrorSeq := tabPut d.cnt.mirrorSeq 0 w seq
          mirrorAt := tabIns w (at_ + Nat.max 1000 (d.mirrorStep w)) d.cnt.mirrorAt } }) := h

section
variable {s : State} (hlive : s.dev.live = true)
include hlive

theorem counterFaceMirror_due {w : Fin 1024} {at_ p : Nat} {q : Dev → Prop} (hat : tabFind w.val s.dev.cnt.mirrorAt = some at_)
    (ho : s.dev.winOwner w.val = some p) (hearly : s.dev.ns < at_ → q s.dev)
    (hface : at_ ≤ s.dev.ns → q (s.dev.mirrorFace w.val p at_ (s.dev.rf .cntWinCfg0 w.val 13 6 + 1)
      (s.dev.winFace w.val p (16 + 8 * (s.dev.rf .cntWinCfg0 w.val 13 6 + 1))))) :
    Answers (.counterFaceMirror w) s q := by
  refine answers_event (c := .counterFaceMirror w) (rfl : execCounterFaceMirror w s = _) hlive ?_
  split
  case h_1 a' p' h1 h2 =>
    obtain rfl : at_ = a' := Option.some.inj (hat.symm.trans h1)
    obtain rfl : p = p' := Option.some.inj (ho.symm.trans h2)
    rcases Nat.lt_or_ge s.dev.ns at_ with hlt | hge
    · rw [if_pos hlt]; exact hearly hlt
    rw [if_neg (Nat.not_lt.2 hge)]
    replace hface := hface hge
    clear hat ho hearly hlive hge h1 h2
    generalize s.dev.rf .cntWinCfg0 w.val 13 6 + 1 = n at *
    generalize s.dev.winFace = f at *
    generalize s.dev = d at *
    exact mirrorFace_of_text d w p at_ n q (fun n => f w.val p (16 + 8 * n)) hface
  case h_2 h => exact absurd ho (h at_ p hat)

theorem counterFaceMirror_answers (w : Fin 1024) (at_ p n : Nat) (hat : tabFind w.val s.dev.cnt.mirrorAt = some at_) (ho : s.dev.winOwner w.val = some p)
    (hn : n = s.dev.rf .cntWinCfg0 w.val 13 6 + 1) :
    (s.dev.ns < at_ → Answers (.counterFaceMirror w) s (fun d => d = s.dev)) ∧
    (at_ ≤ s.dev.ns → s.dev.winFace w.val p (16 + 8 * n) = none → Answers (.counterFaceMirror w) s (fun d => d.rb .cntWinStat w.val 0 = true ∧
      tabFind w.val d.cnt.mirrorAt = none ∧ Keeps [.cntWinStat] s.dev d)) ∧
    (∀ a isl, at_ ≤ s.dev.ns → s.dev.winFace w.val p (16 + 8 * n) = some (a, isl) → isl = a / 2 ^ 44 → s.dev.inDuplex p = false → Answers (.counterFaceMirror w) s (fun d =>
      MirrorDone s.dev d w.val a n at_)) := by
  subst hn
  refine ⟨fun he => counterFaceMirror_due hlive hat ho (fun _ => rfl) (fun hge => absurd he (Nat.not_lt.2 hge)),
    fun hdue hface => counterFaceMirror_due hlive hat ho (fun hlt => absurd hlt (Nat.not_lt.2 hdue)) fun _ => ?_,
    fun a isl hdue hface hisl hdpx => counterFaceMirror_due hlive hat ho (fun hlt => absurd hlt (Nat.not_lt.2 hdue)) fun _ => ?_⟩
  · rw [hface, Dev.mirrorFace]
    exact ⟨Dev.rb_setRb_same s.dev _ _ _ _ (by decide), tabFind_del_same _ _, (keeps_cnt _).2 (by simp)⟩
  · rw [hface, Dev.mirrorFace]
    exact mirrorTo_done hdpx hisl

end

/-! Freed slots (R56): a slot goes to a ring's read-ahead, else to a dump's line, else it is counted. -/

/-- The device with one more freed slot of `tid`. -/
def Dev.slotFreed (d : Dev) (tid : Nat) : Dev :=
  { d with cnt := { d.cnt with slot := tabPut d.cnt.slot 0 (5 * tid + 4) (tabGet d.cnt.slot 0 (5 * tid + 4) + 1) } }

theorem slots_freed (d : Dev) {tid : Nat} (h : tid < 512) : d.slots tid 4 1 = d.slotFreed tid := if_pos (decide_eq_true h)

theorem prefetchRing_slotFreed (d : Dev) (tid c : Nat) (ring : Option (Fin 16384)) : (d.slotFreed tid).prefetchRing c ring = d.prefetchRing c ring :=
  have h (x : Cnt) : ({ d with cnt := x } : Dev).prefetchRing c ring = d.prefetchRing c ring := rfl
  h _

theorem dumpWork_slotFreed (d : Dev) (tid c : Nat) : (d.slotFreed tid).dumpWork c = d.dumpWork c :=
  have h (x : Tab Word) : ({ d with cnt := { d.cnt with slot := x } } : Dev).dumpWork c = d.dumpWork c := rfl
  h _

theorem dumpLine_body (d : Dev) {at_ k : Nat} {vs : List Word} (hd : d.cnt.dump = some (at_, vs, k)) (hk : k + 1 < dumpLines vs.length)
    (hcan : d.canIssue d.mgmtPort 0 = true) :
    d.dumpLine = { d.hostWrite d.mgmtPort 0 0 (d.dumpAddr vs.length + 64 * (k + 1)) (slice (vs.flatMap (fun v => leBytes 8 v.toNat)) (64 * (k + 1) - 32) 64) with
      cnt := { (d.hostWrite d.mgmtPort 0 0 (d.dumpAddr vs.length + 64 * (k + 1)) (slice (vs.flatMap (fun v => leBytes 8 v.toNat)) (64 * (k + 1) - 32) 64)).cnt with
        dump := some (at_, vs, k + 1) } } := by
  rw [Dev.dumpLine, hd]
  exact (if_neg (by rw [hcan]; decide)).trans (if_pos hk)

/-- A host write of the physical function goes out at once. -/
theorem hostWrite_pf_outs (d : Dev) (h addr : Nat) (pasid : Word) (bs : List Byte) :
    (d.hostWrite h 0 pasid addr bs).outs = .hostWrite h 0 pasid addr bs :: d.outs := by
  rw [Dev.hostWrite, if_neg (by simp), Dev.hostEmit, (linkWoken_wakeLink _ _).outs]
  rfl

section
variable {s : State} (hlive : s.dev.live = true)
include hlive

theorem freedSlot_due {tid : Fin 512} {ring : Option (Fin 16384)} {p c : Nat} {q : Dev → Prop} (hc : c = coreOf tid.val) (hp : s.dev.partOf tid.val = some p)
    (hst : (s.dev.thread tid.val).st ≠ .running)
    (hring : ∀ n, s.dev.prefetchRing c ring = some n → q (((s.dev.slotFreed tid.val).prefetch n).count (evE (islOfCore c) (16 * (c % 16) + 2))))
    (hdump : s.dev.prefetchRing c ring = none → s.dev.dumpWork c = true → q ((s.dev.slotFreed tid.val).dumpLine.count (evE (islOfCore c) (16 * (c % 16) + 2))))
    (hidle : s.dev.prefetchRing c ring = none → s.dev.dumpWork c = false →
      q (if (s.dev.thread (512 + c)).st = .running then s.dev.slotFreed tid.val else (s.dev.slotFreed tid.val).count (evE (islOfCore c) (16 * (c % 16) + 3)))) :
    Answers (.freedSlot tid ring) s q := by
  subst hc
  refine answers_event (c := .freedSlot tid ring) (rfl : execFreedSlot tid ring s = _) hlive ?_
  rw [if_neg (by simp [hp, hst]), slots_freed s.dev tid.isLt]
  dsimp only
  rw [prefetchRing_slotFreed, dumpWork_slotFreed]
  cases hr : s.dev.prefetchRing (coreOf tid.val) ring with
  | some n => exact hring n hr
  | none =>
    cases hw : s.dev.dumpWork (coreOf tid.val) with
    | true => exact hdump hr hw
    | false => exact hidle hr hw

theorem freedSlot_answers (tid : Fin 512) (ring : Option (Fin 16384)) (c : Nat) (hc : c = coreOf tid.val) :
    (s.dev.partOf tid.val = none ∨ (s.dev.thread tid.val).st = .running → Answers (.freedSlot tid ring) s (fun d => d = s.dev)) ∧
    (∀ p, s.dev.partOf tid.val = some p → (s.dev.thread tid.val).st ≠ .running →
      (s.dev.prefetchRing c ring = none → s.dev.dumpWork c = false → Answers (.freedSlot tid ring) s (fun d => Keeps [] s.dev d ∧ d.dma = s.dev.dma ∧
        tabGet d.cnt.slot 0 (5 * tid.val + 4) = tabGet s.dev.cnt.slot 0 (5 * tid.val + 4) + 1 ∧
        Counts (if (s.dev.thread (512 + c)).st = .running then [] else [evE (islOfCore c) (16 * (c % 16) + 3)]) s.dev d)) ∧
      (∀ n, s.dev.prefetchRing c ring = some n → Answers (.freedSlot tid ring) s (fun d => Keeps [] s.dev d ∧ (d.sq n).ahead = 7 ∧ (∀ k, k ≠ n → d.sq k = s.dev.sq k) ∧
        Counts [evE (islOfCore c) (16 * (c % 16) + 2)] s.dev d)) ∧
      (∀ at_ vs k, s.dev.prefetchRing c ring = none → s.dev.dumpWork c = true → s.dev.cnt.dump = some (at_, vs, k) → k + 1 < dumpLines vs.length → s.dev.canIssue s.dev.mgmtPort 0 = true →
        Answers (.freedSlot tid ring) s (fun d => d.cnt.dump = some (at_, vs, k + 1) ∧ Keeps [.hostPortStat] s.dev d ∧
          d.outs = .hostWrite s.dev.mgmtPort 0 0 (s.dev.dumpAddr vs.length + 64 * (k + 1)) (slice (vs.flatMap (fun v => leBytes 8 v.toNat)) (64 * k + 32) 64) :: s.dev.outs))) := by
  refine ⟨fun h => ?_, fun p hp hst => ⟨fun hr hw => ?_, fun n hr => ?_, fun at_ vs k hr hw hd hk hcan => ?_⟩⟩
  · refine answers_event (c := .freedSlot tid ring) (rfl : execFreedSlot tid ring s = _) hlive ?_
    exact if_pos (by simpa [Option.isNone_iff_eq_none] using h)
  · refine freedSlot_due hlive hc hp hst (fun n h => absurd (hr.symm.trans h) nofun) (fun _ h => absurd (hw.symm.trans h) nofun) fun _ _ => ?_
    split
    · exact ⟨Keeps.refl _ _, rfl, tabGet_put_same .., counts_refl _⟩
    · exact ⟨Keeps.refl _ _, rfl, tabGet_put_same .., counts_count (b := s.dev.slotFreed tid.val) (counts_refl _) _⟩
  · refine freedSlot_due hlive hc hp hst (fun m h => ?_) (fun h => absurd (hr.symm.trans h) nofun) (fun h => absurd (hr.symm.trans h) nofun)
    obtain rfl : n = m := Option.some.inj (hr.symm.trans h)
    exact ⟨Keeps.refl _ _, congrArg SqSt.ahead (tabGet_put_same ..), fun k hk => tabGet_put_ne _ _ _ hk _,
      counts_count (b := (s.dev.slotFreed tid.val).prefetch n) (counts_refl _) _⟩
  · refine freedSlot_due hlive hc hp hst (fun m h => absurd (hr.symm.trans h) nofun) (fun _ _ => ?_) (fun _ h => absurd (hw.symm.trans h) nofun)
    rw [dumpLine_body (s.dev.slotFreed tid.val) hd hk hcan]
    refine ⟨rfl, ?_, ?_⟩
    · simp [Dev.slotFreed]
    · rw [Nat.mul_succ, Nat.add_sub_assoc (by decide : 32 ≤ 64)]
      exact hostWrite_pf_outs _ _ _ _ _

end

/-- Settles O51. -/
theorem countersAndWindowsAreRead : Obligations.CountersAndWindowsAreRead := fun _ hp =>
  ⟨counterLowRead_answers hp, slotRetiredRead_answers hp, cntWinCfgWrite_answers hp,
    fun w at_ p n hlive hat ho hn => counterFaceMirror_answers hlive w at_ p n hat ho hn,
    fun tid ring c hlive hc => freedSlot_answers hlive tid ring c hc⟩

end Sys2Proof.Machine
end

section
/-! PROOFS. The classifier's decisions, groups, reordering and fragments (R153, R158, R160 to R171). -/
namespace Sys2Proof.Machine
open Sys2Proof

/-! ## The action that forwards to a host queue (R160 to R162) -/

section
variable {number : Nat}

theorem actAct_forward : actAct (5 + number * 16) = 1 := by
  rw [actAct, fld, Nat.shiftRight_eq_div_pow]
  omega

theorem actKind_forward : actKind (5 + number * 16) = 1 := by
  rw [actKind, fld, Nat.shiftRight_eq_div_pow]
  omega

variable (hnum : number < 16384)
include hnum

theorem actNumber_forward : actNumber (5 + number * 16) = number := by
  rw [actNumber, fld, Nat.shiftRight_eq_div_pow]
  omega

theorem reserved_forward : fld (5 + number * 16) 30 2 = 0 := by
  rw [fld, Nat.shiftRight_eq_div_pow]
  omega

theorem actionOk_forward (d : Dev) (p : Nat) : d.actionOk p false (5 + number * 16) = true := by
  simp [Dev.actionOk, reserved_forward hnum, actAct_forward, actKind_forward, actNumber_forward hnum, numberOk, hnum]

theorem actionGranted_forward {d : Dev} {p isl : Nat} (h : d.targetGranted p isl 1 number = true) : d.actionGranted p isl (5 + number * 16) = true := by
  simp [Dev.actionGranted, actAct_forward, actKind_forward, actNumber_forward hnum, h]

omit hnum in
theorem actCopies_forward (d : Dev) (x : Frame) : d.actCopies x (5 + number * 16) = d := by
  rw [Dev.actCopies, actAct_forward]
  rfl

end

/-- What the decision of a frame for a host queue does, and what it leaves: the classifier's queues, the rules and the faults. -/
structure SentOn (f : Nat) (x : Frame) (a number : Nat) (d d' : Dev) : Prop where
  clsQ : d'.pkt.clsQ = d.pkt.clsQ
  missQ : d'.pkt.missQ = d.pkt.missQ
  toHost : d'.pkt.toHost = d.pkt.toHost ++ [f]
  rules : d'.pkt.rules = d.pkt.rules
  flt : d'.flt = d.flt
  frame : ∃ y, d'.frame f = some y ∧ y.bytes = x.bytes ∧ y.part = x.part ∧ y.action = BitVec.ofNat 32 a ∧ y.ind = ⟨1, number⟩
  keeps : Keeps [] d d'

theorem frame_setFrame_same (d : Dev) (f : Nat) (x : Frame) : (d.setFrame f x).frame f = some x := tabFind_ins_same ..

theorem recordFragDecision_whole (d : Dev) {x : Frame} (h : x.frag = none) (a : Nat) : d.recordFragDecision x a = d := by
  rw [Dev.recordFragDecision, Dev.fragEntry, h]

theorem sentOn_deliverTo {d : Dev} {f : Nat} {x : Frame} {a number : Nat} :
    SentOn f x a number d ((d.setFrame f { x with action := BitVec.ofNat 32 a }).deliverTo f ⟨1, number⟩) := by
  have hu : (d.setFrame f { x with action := BitVec.ofNat 32 a }).deliverTo f ⟨1, number⟩ =
      { ((d.setFrame f { x with action := BitVec.ofNat 32 a }).setFrame f { x with action := BitVec.ofNat 32 a, ind := ⟨1, number⟩ }) with
        pkt := { ((d.setFrame f { x with action := BitVec.ofNat 32 a }).setFrame f { x with action := BitVec.ofNat 32 a, ind := ⟨1, number⟩ }).pkt with
          toHost := d.pkt.toHost ++ [f] } } := by
    unfold Dev.deliverTo Dev.updFrame
    rw [frame_setFrame_same]
    rfl
  rw [hu]
  exact ⟨rfl, rfl, rfl, rfl, rfl, ⟨_, tabFind_ins_same .., rfl, rfl, rfl, rfl⟩, Keeps.refl _ _⟩

section
variable {d : Dev} {f number : Nat} {x : Frame} (hx : d.frame f = some x) (hfrag : x.frag = none) (hnum : number < 16384)
  (hg : d.targetGranted x.part x.isl 1 number = true)
include hx hnum hg

theorem applyAction_forwards : SentOn f x (5 + number * 16) number d (d.applyAction f (5 + number * 16)) := by
  have ha : d.applyAction f (5 + number * 16) = (d.setFrame f { x with action := BitVec.ofNat 32 (5 + number * 16) }).deliverTo f ⟨1, number⟩ := by
    rw [Dev.applyAction, hx]
    dsimp only
    rw [if_neg (by simp [actionOk_forward hnum, actionGranted_forward hnum hg]), if_neg (by rw [actAct_forward]; decide), actCopies_forward,
      actKind_forward, actNumber_forward hnum]
    rfl
  rw [ha]
  exact sentOn_deliverTo

include hfrag

theorem decide_forwards : SentOn f x (5 + number * 16) number d (d.decide_ f (5 + number * 16)) := by
  have ha : d.decide_ f (5 + number * 16) = (d.count (evE x.isl 256)).applyAction f (5 + number * 16) := by
    rw [Dev.decide_, hx]
    dsimp only
    rw [recordFragDecision_whole _ hfrag]
  rw [ha]
  obtain ⟨h1, h2, h3, h4, h5, h6, h7⟩ := applyAction_forwards (d := d.count (evE x.isl 256)) hx hnum hg
  exact ⟨h1, h2, h3, h4, h5, h6, h7⟩

theorem flowDecide_none_forwards (hind : x.ind = ⟨1, number⟩) : SentOn f x (5 + number * 16) number d (d.flowDecide f none) := by
  have ha : d.flowDecide f none = d.decide_ f (5 + number * 16) := by
    rw [Dev.flowDecide, hx]
    dsimp only
    rw [indAction, hind]
    rfl
  rw [ha]
  exact decide_forwards hx hfrag hnum hg

end

/-! ## The classifier's step (R153, R158, R160) -/

/-- A frame has left the classifier's queue. -/
def Dev.offClsQ (d : Dev) (f : Nat) : Dev := { d with pkt := { d.pkt with clsQ := d.pkt.clsQ.erase f } }

/-- A frame waits no longer for its flow-table read. -/
def Dev.offMissQ (d : Dev) (f : Nat) : Dev := { d with pkt := { d.pkt with missQ := d.pkt.missQ.erase f } }

theorem SentOn.fromClsQ {d e d' : Dev} {f a number : Nat} {x : Frame} (h : SentOn f x a number e d') (hf : f ∉ d.pkt.missQ) (hc : e.pkt.clsQ = d.pkt.clsQ.erase f)
    (hm : e.pkt.missQ = d.pkt.missQ) (ht : e.pkt.toHost = d.pkt.toHost) (hk : Keeps [] d e) : Claims.SentToHost f x a number d d' :=
  ⟨h.clsQ.trans hc, (h.missQ.trans hm).trans (List.erase_of_not_mem hf).symm, h.toHost.trans (congrArg (· ++ [f]) ht), h.frame, hk.trans h.keeps⟩

theorem SentOn.fromMissQ {d e d' : Dev} {f a number : Nat} {x : Frame} (h : SentOn f x a number e d') (hf : f ∉ d.pkt.clsQ) (hc : e.pkt.clsQ = d.pkt.clsQ)
    (hm : e.pkt.missQ = d.pkt.missQ.erase f) (ht : e.pkt.toHost = d.pkt.toHost) (hk : Keeps [] d e) : Claims.SentToHost f x a number d d' :=
  ⟨(h.clsQ.trans hc).trans (List.erase_of_not_mem hf).symm, h.missQ.trans hm, h.toHost.trans (congrArg (· ++ [f]) ht), h.frame, hk.trans h.keeps⟩

section
variable {d : Dev} {f : Nat} {x : Frame} (hx : d.frame f = some x) (hq : f ∈ d.pkt.clsQ) (hnext : d.isNext f x = true)
include hx hq hnext

theorem classify_down (hst : 2 ≤ d.partState x.part) :
    d.classify f = (((d.offClsQ f).incRf .ptnDownDrop x.part 0 32 1).count (evPart x.part 1)).dropFrame f := by
  rw [Dev.classify, hx]
  dsimp only
  rw [if_neg (by simp [hq, hnext])]
  exact if_pos hst

variable (hst : d.partState x.part < 2) (hdec : x.fragDec = none)
include hst hdec

theorem classify_hit {i : Nat} {r : Rule} (ht : d.rf .clsPartWtbl x.part (8 * (x.isl - 2)) 8 ≠ 255)
    (hit : d.wildLookup x.part (d.rf .clsPartWtbl x.part (8 * (x.isl - 2)) 8) x.isl x.key = some (i, r)) (hk : actKind r.action.toNat ≠ 3) :
    d.classify f = (((d.offClsQ f).setRule (x.isl - 2) i { r with hits := r.hits + 1 }).setFrame f { x with rule := BitVec.ofNat 16 (32768 + i) }).decide_ f r.action.toNat := by
  rw [Dev.classify, hx]
  dsimp only
  rw [if_neg (by simp [hq, hnext])]
  refine (if_neg (Nat.not_le.2 hst)).trans ?_
  rw [hdec]
  dsimp only
  change _ = (((Dev.setRule { d with pkt := { d.pkt with clsQ := d.pkt.clsQ.erase f } } (x.isl - 2) i { r with hits := r.hits + 1 }).setFrame f _).decide_ f _)
  generalize hE : ({ d with pkt := { d.pkt with clsQ := d.pkt.clsQ.erase f } } : Dev) = e
  have hte : e.rf .clsPartWtbl x.part (8 * (x.isl - 2)) 8 ≠ 255 := by rw [← hE]; exact ht
  have hie : e.wildLookup x.part (e.rf .clsPartWtbl x.part (8 * (x.isl - 2)) 8) x.isl x.key = some (i, r) := by rw [← hE]; exact hit
  rw [if_neg hte, hie]
  have hf : (some (i, r)).filter (fun h => actKind h.2.action.toNat != 3) = some (i, r) := by simp [hk]
  rw [hf]

theorem classify_noTable (ht : d.rf .clsPartWtbl x.part (8 * (x.isl - 2)) 8 = 255) (hflow : d.rb .clsPartCfg x.part 9 = false) :
    d.classify f = (d.offClsQ f).flowDecide f none := by
  rw [Dev.classify, hx]
  dsimp only
  rw [if_neg (by simp [hq, hnext])]
  refine (if_neg (Nat.not_le.2 hst)).trans ?_
  rw [hdec]
  dsimp only
  change _ = Dev.flowDecide { d with pkt := { d.pkt with clsQ := d.pkt.clsQ.erase f } } f none
  generalize hE : ({ d with pkt := { d.pkt with clsQ := d.pkt.clsQ.erase f } } : Dev) = e
  have hte : e.rf .clsPartWtbl x.part (8 * (x.isl - 2)) 8 = 255 := by rw [← hE]; exact ht
  have hfe : e.rb .clsPartCfg x.part 9 = false := by rw [← hE]; exact hflow
  rw [if_pos hte, Option.filter_none]
  exact if_pos (by rw [hfe]; rfl)

end

/-- Moving a class's use moves none of the frame queues. -/
theorem moveClassUse_queues (d : Dev) (x c add sub : Nat) : (d.moveClassUse x c add sub).pkt.clsQ = d.pkt.clsQ ∧ (d.moveClassUse x c add sub).pkt.fragHold = d.pkt.fragHold ∧
    (d.moveClassUse x c add sub).pkt.frags = d.pkt.frags ∧ (d.moveClassUse x c add sub).pkt.frames = d.pkt.frames := by
  unfold Dev.moveClassUse
  dsimp only
  split
  · exact ⟨rfl, rfl, rfl, rfl⟩
  · split
    · exact ⟨rfl, rfl, rfl, rfl⟩
    · split
      · exact ⟨rfl, rfl, rfl, rfl⟩
      · exact ⟨rfl, rfl, rfl, rfl⟩

theorem dropFrame_clsQ (d : Dev) (f : Nat) : (d.dropFrame f).pkt.clsQ = d.pkt.clsQ := by
  unfold Dev.dropFrame Dev.freeCells
  dsimp only
  split
  · rfl
  · split
    · rfl
    · exact (moveClassUse_queues _ _ _ _ _).1

section
variable {s : State} (hlive : s.dev.live = true) {f number : Nat} {x : Frame} (hx : s.dev.frame f = some x) (hdec : x.fragDec = none) (hfrag : x.frag = none)
  (hnum : number < 16384) (hg : s.dev.targetGranted x.part x.isl 1 number = true)
include hlive hx hdec hfrag hnum hg

theorem classify_answers (hq : f ∈ s.dev.pkt.clsQ) (hm : f ∉ s.dev.pkt.missQ) (hnext : s.dev.isNext f x = true) :
    (∀ i r, s.dev.partState x.part < 2 → s.dev.rf .clsPartWtbl x.part (8 * (x.isl - 2)) 8 ≠ 255 →
      s.dev.wildLookup x.part (s.dev.rf .clsPartWtbl x.part (8 * (x.isl - 2)) 8) x.isl x.key = some (i, r) →
      r.action.toNat = 1 + 1 * 4 + number * 16 → Answers (.classify f) s (fun d =>
        Claims.SentToHost f x r.action.toNat number s.dev d ∧ (d.rule (x.isl - 2) i) = { r with hits := r.hits + 1 })) ∧
    (s.dev.partState x.part < 2 → s.dev.rf .clsPartWtbl x.part (8 * (x.isl - 2)) 8 = 255 → s.dev.rb .clsPartCfg x.part 9 = false → x.ind = ⟨1, number⟩ →
      Answers (.classify f) s (Claims.SentToHost f x (5 + number * 16) number s.dev)) ∧
    (2 ≤ s.dev.partState x.part → Answers (.classify f) s (fun d =>
      d.frame f = none ∧ d.pkt.clsQ = s.dev.pkt.clsQ.erase f ∧ Keeps [.ptnDownDrop] s.dev d)) := by
  refine ⟨fun i r hst ht hit ha => answers_event (c := .classify f) (rfl : execClassify f s = _) hlive ?_,
    fun hst ht hflow hind => answers_event (c := .classify f) (rfl : execClassify f s = _) hlive ?_,
    fun hst => answers_event (c := .classify f) (rfl : execClassify f s = _) hlive ?_⟩
  · have ha' : r.action.toNat = 5 + number * 16 := ha
    rw [classify_hit hx hq hnext hst hdec ht hit (by rw [ha', actKind_forward]; decide), ha']
    have h := decide_forwards (x := { x with rule := BitVec.ofNat 16 (32768 + i) })
      (frame_setFrame_same ((s.dev.offClsQ f).setRule (x.isl - 2) i { r with hits := r.hits + 1 }) f _) hfrag hnum hg
    exact ⟨SentOn.fromClsQ (x := x) ⟨h.clsQ, h.missQ, h.toHost, h.rules, h.flt, h.frame, h.keeps⟩ hm rfl rfl rfl (Keeps.refl _ _),
      (congrArg (fun t => tabGet t ({} : Rule) (ruleKey (x.isl - 2) i)) h.rules).trans (tabGet_put_same ..)⟩
  · rw [classify_noTable hx hq hnext hst hdec ht hflow]
    exact (flowDecide_none_forwards (d := s.dev.offClsQ f) hx hfrag hnum hg hind).fromClsQ hm rfl rfl rfl (Keeps.refl _ _)
  · rw [classify_down hx hq hnext hst]
    exact ⟨frame_dropFrame _ _, dropFrame_clsQ _ _, (Keeps.through (freesCells_dropFrame _ _).keeps (by simp)).2 (by simp [Dev.offClsQ])⟩

omit hdec in
theorem flowMissReturn_answers (hm : f ∈ s.dev.pkt.missQ) (hq : f ∉ s.dev.pkt.clsQ) (hind : x.ind = ⟨1, number⟩) (ft : Nat) (hft : ft = s.dev.rf .clsPartCfg x.part 1 8)
    (hok : s.dev.exactCheck ft = .ok) (hnone : s.dev.exactFind ft (s.dev.flowKey x.part (s.dev.tdirN ft) x.key) = none) :
    Answers (.flowMissReturn f) s (Claims.SentToHost f x (5 + number * 16) number s.dev) := by
  subst hft
  refine answers_event (c := .flowMissReturn f) (rfl : execFlowMissReturn f s = _) hlive ?_
  have h : s.dev.flowReturn f = (s.dev.offMissQ f).flowDecide f none := by
    rw [Dev.flowReturn, hx]
    dsimp only
    rw [if_neg (by simp [hm])]
    change _ = Dev.flowDecide { s.dev with pkt := { s.dev.pkt with missQ := s.dev.pkt.missQ.erase f } } f none
    generalize hE : ({ s.dev with pkt := { s.dev.pkt with missQ := s.dev.pkt.missQ.erase f } } : Dev) = e
    have hoke : e.exactCheck (e.rf .clsPartCfg x.part 1 8) = .ok := by rw [← hE]; exact hok
    have hne : e.exactFind (e.rf .clsPartCfg x.part 1 8) (e.flowKey x.part (e.tdirN (e.rf .clsPartCfg x.part 1 8)) x.key) = none := by rw [← hE]; exact hnone
    rw [hoke, Dev.exactSlow, hne]
  rw [h]
  exact (flowDecide_none_forwards (d := s.dev.offMissQ f) hx hfrag hnum hg hind).fromMissQ hq rfl rfl rfl (Keeps.refl _ _)

omit hdec in
theorem clsMissTo_answers (hm : f ∈ s.dev.pkt.missQ) (hq : f ∉ s.dev.pkt.clsQ) (hind : x.ind = ⟨1, number⟩) :
    (x.since + s.dev.rf .clsMissTimeout x.part 0 32 * 1000 ≤ s.dev.ns → Answers (.clsMissTo f) s (fun d =>
      Claims.SentToHost f x (5 + number * 16) number s.dev d ∧ RaisesSome 769 x.isl (some x.part) s.dev d)) ∧
    (s.dev.ns < x.since + s.dev.rf .clsMissTimeout x.part 0 32 * 1000 → Answers (.clsMissTo f) s (fun d => d = s.dev)) := by
  refine ⟨fun hdue => answers_event (c := .clsMissTo f) (rfl : execClsMissTo f s = _) hlive ?_,
    fun hearly => answers_event (c := .clsMissTo f) (rfl : execClsMissTo f s = _) hlive ?_⟩
  · rw [hx]
    dsimp only
    rw [if_pos (by simp [hm, hdue])]
    have h := flowDecide_none_forwards (d := ((s.dev.offMissQ f).count (evE x.isl (256 + 5))).raiseFree 769 x.isl (some x.part)) hx hfrag hnum hg hind
    exact ⟨h.fromMissQ hq rfl rfl rfl (Keeps.refl _ _), _, congrArg Flt.queue h.flt⟩
  · rw [hx]
    dsimp only
    rw [if_neg (by simp [hearly])]

end

/-! ## Groups (R165, R166) -/

/-- What an event bit leaves of a device: the registers, memory, the packet path's state and the frames that threads hold. -/
structure KeepsAssigned (d d' : Dev) : Prop where
  regs : d'.regs = d.regs
  mem : d'.mem = d.mem
  pkt : d'.pkt = d.pkt
  assigned : ∀ u, (d'.thread u).assigned = (d.thread u).assigned

theorem KeepsAssigned.refl (d : Dev) : KeepsAssigned d d := ⟨rfl, rfl, rfl, fun _ => rfl⟩

theorem KeepsAssigned.trans {a b c : Dev} (h : KeepsAssigned a b) (h' : KeepsAssigned b c) : KeepsAssigned a c :=
  ⟨h'.regs.trans h.regs, h'.mem.trans h.mem, h'.pkt.trans h.pkt, fun u => (h'.assigned u).trans (h.assigned u)⟩

theorem keepsAssigned_count (d : Dev) (e : Nat) : KeepsAssigned d (d.count e) := ⟨rfl, rfl, rfl, fun _ => rfl⟩

theorem keepsAssigned_setThread (d : Dev) (k : Nat) {t : Thread} (ht : t.assigned = (d.thread k).assigned) : KeepsAssigned d (d.setThread k t) := by
  refine ⟨rfl, rfl, rfl, fun u => ?_⟩
  by_cases hu : u = k
  · subst hu; rw [Dev.thread_setThread_same, ht]
  · rw [Dev.thread_setThread_ne _ _ hu]

@[simp] theorem Thread.setReg_assigned (t : Thread) (r : BitVec 5) (v : Word) : (t.setReg r v).assigned = t.assigned := by
  rw [Thread.setReg_rest]

theorem keepsAssigned_recordInput (d : Dev) (tid : Nat) (v : Word) : KeepsAssigned d (d.recordInput tid v) := by
  unfold Dev.recordInput
  split
  · split
    · exact keepsAssigned_setThread _ _ rfl
    · exact .refl d
  · exact .refl d

theorem keepsAssigned_wakeShadow (d : Dev) (tid : Nat) : KeepsAssigned d (d.wakeShadow tid) := by
  unfold Dev.wakeShadow
  dsimp only
  split
  · split
    · exact keepsAssigned_setThread _ _ (by simp [Thread.wake])
    · exact .refl d
  · exact .refl d

theorem keepsAssigned_setEvent (d : Dev) (tid line : Nat) : KeepsAssigned d (d.setEvent tid line) := by
  unfold Dev.setEvent
  dsimp only
  split
  · split
    · exact keepsAssigned_setThread _ _ rfl
    · refine .trans ?_ (keepsAssigned_wakeShadow _ _)
      refine .trans ?_ (keepsAssigned_recordInput _ _ _)
      refine .trans ?_ (keepsAssigned_count _ _)
      exact keepsAssigned_setThread _ _ (by simp [Thread.wake, Thread.takeEvents])
  · exact keepsAssigned_setThread _ _ rfl

/-- A frame is assigned to a member of its group. -/
structure Assigned (g tid f : Nat) (d d' : Dev) : Prop where
  regs : d'.regs = d.regs
  mem : d'.mem = d.mem
  group : d'.group g = { d.group g with last := tid }
  mine : (d'.thread tid).assigned = (d.thread tid).assigned ++ [f]

theorem assigned_assignTo (d : Dev) (g tid f : Nat) : Assigned g tid f d (d.assignTo g tid f) := by
  obtain ⟨hr, hm, hp, ha⟩ := keepsAssigned_setEvent
    ((d.setGroup g { d.group g with last := tid }).updThread tid (fun t => { t with assigned := t.assigned ++ [f] })) tid
    (((d.setGroup g { d.group g with last := tid }).updThread tid (fun t => { t with assigned := t.assigned ++ [f] })).rf .clsGrp g 4 5)
  refine ⟨hr, hm, (congrArg (fun p : Pkt => tabGet p.groups ({} : Group) g) hp).trans (tabGet_put_same ..), (ha tid).trans ?_⟩
  rw [Dev.thread_updThread_same]
  rfl

theorem drainGroup_empty (d : Dev) {g : Nat} (h : (d.group g).queue = []) : ∀ n, d.drainGroup g n = d
  | 0 => rfl
  | n + 1 => by rw [Dev.drainGroup, h]

theorem drainGroup_noMember (d : Dev) {g : Nat} (h : d.nextMember g = none) : ∀ n, d.drainGroup g n = d
  | 0 => rfl
  | n + 1 => by
    rw [Dev.drainGroup, h]
    cases (d.group g).queue with
    | nil => rfl
    | cons f fs => rfl

/-- The group's oldest frame goes to a member. -/
def Dev.assignFirst (d : Dev) (g tid f : Nat) (fs : List Nat) : Dev := (d.setGroup g { d.group g with queue := fs }).assignTo g tid f

theorem drainGroup_step (d : Dev) {g f tid : Nat} {fs : List Nat} (hq : (d.group g).queue = f :: fs) (hm : d.nextMember g = some tid) (n : Nat) :
    d.drainGroup g (n + 1) = (d.assignFirst g tid f fs).drainGroup g n := by
  rw [Dev.drainGroup, hq, hm]
  rfl

theorem assignFirst_group (d : Dev) (g tid f : Nat) (fs : List Nat) : ((d.assignFirst g tid f fs).group g).queue = fs ∧ ((d.assignFirst g tid f fs).group g).last = tid := by
  have h := (assigned_assignTo (d.setGroup g { d.group g with queue := fs }) g tid f).group
  have hg : (d.setGroup g { d.group g with queue := fs }).group g = { d.group g with queue := fs } := tabGet_put_same ..
  rw [hg] at h
  exact ⟨congrArg Group.queue h, congrArg Group.last h⟩

/-- A long enough drain ends with an empty queue or without a member that accepts. -/
theorem drainGroup_ends (g : Nat) : ∀ (n : Nat) (d : Dev), (d.group g).queue.length ≤ n →
    (((d.drainGroup g n).group g).queue = [] ∨ (d.drainGroup g n).nextMember g = none) ∧ (d.drainGroup g n).regs = d.regs ∧ (d.drainGroup g n).mem = d.mem
  | 0, d, h => ⟨.inl (List.eq_nil_of_length_eq_zero (Nat.le_zero.1 h)), rfl, rfl⟩
  | n + 1, d, h => by
    cases hq : (d.group g).queue with
    | nil => rw [drainGroup_empty d hq]; exact ⟨.inl hq, rfl, rfl⟩
    | cons f fs =>
      cases hm : d.nextMember g with
      | none => rw [drainGroup_noMember d hm]; exact ⟨.inr hm, rfl, rfl⟩
      | some tid =>
        rw [drainGroup_step d hq hm]
        rw [hq, List.length_cons] at h
        have ha := assigned_assignTo (d.setGroup g { d.group g with queue := fs }) g tid f
        obtain ⟨hend, hr, hmem⟩ := drainGroup_ends g n (d.assignFirst g tid f fs) (by rw [(assignFirst_group d g tid f fs).1]; omega)
        exact ⟨hend, hr.trans ha.regs, hmem.trans ha.mem⟩

/-- A fold whose every step leaves the start as it is. -/
theorem foldl_stays {α β : Type} {f : α → β → α} {a : α} {l : List β} (h : ∀ b ∈ l, f a b = a) : l.foldl f a = a := by
  induction l with
  | nil => rfl
  | cons b bs ih => rw [List.foldl_cons, h b List.mem_cons_self, ih fun c hc => h c (List.mem_cons_of_mem _ hc)]

theorem groupQueueAssign_answers {s : State} (hlive : s.dev.live = true) (g : Fin 1024) (hlen : (s.dev.group g.val).queue.length ≤ 64)
    (hidle : ∀ t ∈ s.dev.groupMembers g.val, ((s.dev.thread t).st = .halted ∨ (s.dev.thread t).st = .faulted) → (s.dev.thread t).assigned = []) :
    Answers (.groupQueueAssign g) s (fun d => ((d.group g.val).queue = [] ∨ d.nextMember g.val = none) ∧ d.regs = s.dev.regs ∧ d.mem = s.dev.mem ∧
      ((s.dev.group g.val).queue.length = 1 → ∀ u, s.dev.nextMember g.val = some u → (d.group g.val).queue = [] ∧ (d.group g.val).last = u ∧
        (d.thread u).assigned = (s.dev.thread u).assigned ++ (s.dev.group g.val).queue)) := by
  refine answers_event (c := .groupQueueAssign g) (rfl : execGroupQueueAssign g s = _) hlive ?_
  have hfold : (s.dev.groupMembers g.val).foldl (fun d t =>
      if ((d.thread t).st == .halted || (d.thread t).st == .faulted) && !(d.thread t).assigned.isEmpty then d.reassign t else d) s.dev = s.dev := by
    refine foldl_stays fun t ht => if_neg ?_
    simpa using hidle t ht
  rw [hfold]
  obtain ⟨hend, hr, hm⟩ := drainGroup_ends g.val 64 s.dev hlen
  refine ⟨hend, hr, hm, fun h1 u hu => ?_⟩
  obtain ⟨f, hf⟩ := List.length_eq_one_iff.1 h1
  have hg := assignFirst_group s.dev g.val u f []
  rw [drainGroup_step s.dev hf hu 63, drainGroup_empty _ hg.1, hf]
  exact ⟨hg.1, hg.2, (assigned_assignTo _ g.val u f).mine⟩

/-! ## Reordering (R167, R168) -/

/-- The incomplete frames of an order among some are skipped. -/
def skipOf (g o : Nat) (q : Reorder) : Reorder := if q.group = g ∧ q.order = o ∧ q.done = none then { q with skipped := true } else q

/-- Skipping the listed incomplete frames is skipping those of the order. -/
theorem map_skipped (g o : Nat) (l : List Reorder) :
    l.map (fun q => if (l.filter (fun q => q.key g o && q.done.isNone && !q.skipped)).contains q then { q with skipped := true } else q) = l.map (skipOf g o) := by
  refine List.map_congr_left fun q hq => ?_
  by_cases hk : q.group = g ∧ q.order = o ∧ q.done = none
  · rw [skipOf, if_pos hk]
    obtain ⟨hg, ho, hd⟩ := hk
    cases hs : q.skipped with
    | false => rw [if_pos (by simp [hq, Reorder.key, hg, ho, hd, hs])]
    | true => rw [if_neg (by simp [hs]), ← hs]
  · rw [skipOf, if_neg hk, if_neg (by simpa [hq, Reorder.key, ← and_assoc] using fun a b c => absurd ⟨a, b, c⟩ hk)]

theorem reorderTimeout_answers {s : State} (hlive : s.dev.live = true) (f : Nat) (r : Reorder) (w : W32) (at_ : Nat) (hr : s.dev.entryOf f = some r) (hd : r.done = some (w, at_)) :
    (s.dev.ns < at_ + s.dev.rf .clsGrp r.group 12 20 * 1000 → Answers (.reorderTimeout f) s (fun d => d = s.dev)) ∧
    (at_ + s.dev.rf .clsGrp r.group 12 20 * 1000 ≤ s.dev.ns → Answers (.reorderTimeout f) s (fun d => ∃ d1, d = d1.releaseAll r.group r.order ∧ Keeps [] s.dev d1 ∧
      ∀ k, s.dev.pkt.reorder.findIdx? (· == r) = some k → d1.pkt.reorder =
        (s.dev.pkt.reorder.take k).map (fun q => if q.group = r.group ∧ q.order = r.order ∧ q.done = none then { q with skipped := true } else q) ++
          s.dev.pkt.reorder.drop k)) := by
  refine ⟨fun hearly => answers_event (c := .reorderTimeout f) (rfl : execReorderTimeout f s = _) hlive ?_,
    fun hdue => answers_event (c := .reorderTimeout f) (rfl : execReorderTimeout f s = _) hlive ?_⟩
  · rw [Dev.reorderExpire, hr]
    dsimp only
    rw [hd]
    exact if_pos hearly
  · rw [Dev.reorderExpire, hr]
    dsimp only
    rw [hd]
    refine ⟨_, if_neg (Nat.not_lt.2 hdue), Keeps.refl _ _, fun k hk => ?_⟩
    rw [hk, Option.getD_some, map_skipped]
    rfl

/-! ## Fragments (R170, R171) -/

section
variable (d : Dev) (m : Nat)

theorem fragStat_rest : (d.fragStat m).pkt = d.pkt ∧ (∀ e, (d.fragStat m).counter e = d.counter e) ∧ Keeps [.clsFragStat] d (d.fragStat m) :=
  ⟨rfl, fun _ => rfl, by simp [Dev.fragStat]⟩

theorem fragStat_shows : (d.fragStat m).rf .clsFragStat m 0 16 = (d.pkt.frags.filter (fun e => e.m == m)).length % 65536 ∧
    (d.fragStat m).rf .clsFragStat m 16 11 = (d.pkt.fragHold.filter (fun g => (d.frame g).any (fun y => y.port / 16 == m))).length % 2048 := by
  unfold Dev.fragStat
  dsimp only
  refine ⟨?_, Dev.rf_setRf_same _ _ _ _ _ _ (by decide)⟩
  rw [Dev.rf_setRf_ne _ _ _ _ _ _ _ _ (by decide) (by decide)]
  exact Dev.rf_setRf_same _ _ _ _ _ _ (by decide)

end

section
variable {s : State} (hlive : s.dev.live = true)
include hlive

theorem fragHoldExpired_answers (f : Nat) (x : Frame) (hx : s.dev.frame f = some x) (hf : f ∈ s.dev.pkt.fragHold)
    (hdue : x.since + s.dev.rf .clsFragHold (x.port / 16) 0 32 * 1000 ≤ s.dev.ns) : Answers (.fragHoldExpired f) s (fun d =>
      d.frame f = none ∧ d.pkt.fragHold = s.dev.pkt.fragHold.erase f ∧ d.counter (evP (6 + x.port / 16) 518) = s.dev.counter (evP (6 + x.port / 16) 518) + 1 ∧
      d.rf .clsFragStat (x.port / 16) 0 16 = (s.dev.pkt.frags.filter (fun e => e.m == x.port / 16)).length % 65536 ∧
      d.rf .clsFragStat (x.port / 16) 16 11 = (d.pkt.fragHold.filter (fun g => (d.frame g).any (fun y => y.port / 16 == x.port / 16))).length % 2048 ∧
      Keeps [.clsFragStat] s.dev d) := by
  refine answers_event (c := .fragHoldExpired f) (rfl : execFragHoldExpired f s = _) hlive ?_
  rw [hx]
  dsimp only
  rw [if_pos (by simp [hf, hdue])]
  generalize hE : ({ s.dev with pkt := { s.dev.pkt with fragHold := s.dev.pkt.fragHold.erase f, ingUse := tabSub s.dev.pkt.ingUse (x.port / 8) x.cells, frames := tabDel f s.dev.pkt.frames } } : Dev) = e
  have he : e.pkt.fragHold = s.dev.pkt.fragHold.erase f ∧ e.pkt.frags = s.dev.pkt.frags ∧ e.pkt.frames = tabDel f s.dev.pkt.frames ∧
      (∀ ev, e.counter ev = s.dev.counter ev) ∧ Keeps [] s.dev e := by
    subst hE
    exact ⟨rfl, rfl, rfl, fun _ => rfl, Keeps.refl _ _⟩
  obtain ⟨hhold, hfrags, hframes, hcnt, hkeep⟩ := he
  generalize hC : e.moveClassUse x.port (e.rxClass x.port x.bytes) 0 (x.cells * 256) = c
  have hfree := freesCells_moveClassUse e x.port (e.rxClass x.port x.bytes) 0 (x.cells * 256)
  obtain ⟨-, hh, hg, hfr⟩ := moveClassUse_queues e x.port (e.rxClass x.port x.bytes) 0 (x.cells * 256)
  rw [hC] at hfree hh hg hfr
  obtain ⟨hpkt, hct, hk⟩ := fragStat_rest (c.count (evP (6 + x.port / 16) 518)) (x.port / 16)
  obtain ⟨h1, h2⟩ := fragStat_shows (c.count (evP (6 + x.port / 16) 518)) (x.port / 16)
  generalize (c.count (evP (6 + x.port / 16) 518)).fragStat (x.port / 16) = z at *
  have hframe (g : Nat) : z.frame g = c.frame g := congrArg (fun p : Pkt => tabFind g p.frames) hpkt
  refine ⟨?_, ?_, ?_, ?_, ?_, ?_⟩
  · rw [hframe, Dev.frame, hfr, hframes]
    exact tabFind_del_same _ _
  · rw [hpkt]
    exact hh.trans hhold
  · rw [hct, Dev.counter_count_same, hfree.counter _ (fun y => by unfold evP evPort; omega), hcnt]
  · rw [h1]
    exact congrArg (fun l : List FragEntry => (l.filter (fun e => e.m == x.port / 16)).length % 65536) (hg.trans hfrags)
  · rw [h2, hpkt]
    simp only [hframe]
    rfl
  · exact ((hkeep.trans hfree.keeps).mono (by simp)).trans hk

theorem fragEntryFree_answers (m : Fin 2) (k : Nat) (e : FragEntry) (he : (s.dev.pkt.frags.filter (fun e => e.m == m.val))[k]? = some e)
    (hdue : e.created + s.dev.rf .clsFragLife m.val 0 32 * 1000000 ≤ s.dev.ns ∨ (∃ t, e.lastTaken = some t ∧ t + 100000 ≤ s.dev.ns)) :
    Answers (.fragEntryFree m k) s (fun d => d.pkt.frags = s.dev.pkt.frags.erase e ∧ Keeps [.clsFragStat] s.dev d ∧
      d.rf .clsFragStat m.val 0 16 = (d.pkt.frags.filter (fun e => e.m == m.val)).length % 65536) := by
  refine answers_event (c := .fragEntryFree m k) (rfl : execFragEntryFree m k s = _) hlive ?_
  rw [he]
  dsimp only
  rw [if_pos (by simpa [Option.any_eq_true] using hdue)]
  obtain ⟨hpkt, -, hk⟩ := fragStat_rest { s.dev with pkt := { s.dev.pkt with frags := s.dev.pkt.frags.erase e } } m.val
  exact ⟨congrArg Pkt.frags hpkt, hk, (fragStat_shows _ _).1.trans (by rw [hpkt])⟩

end

/-- Settles O28. -/
theorem classifierGroupsAndReorderMoveFrames : Obligations.ClassifierGroupsAndReorderMoveFrames :=
  ⟨fun _ _ _ _ hlive hx hdec hfrag hnum hg =>
      ⟨classify_answers hlive hx hdec hfrag hnum hg, fun hm hq hind =>
        ⟨flowMissReturn_answers hlive hx hfrag hnum hg hm hq hind, clsMissTo_answers hlive hx hfrag hnum hg hm hq hind⟩⟩,
    fun _ hlive => ⟨groupQueueAssign_answers hlive, reorderTimeout_answers hlive, fragHoldExpired_answers hlive, fragEntryFree_answers hlive⟩⟩

end Sys2Proof.Machine
end

section
/-! PROOFS. Engine operations (R123, R215, R232): an operation that ends with an error lets a RETIRING slot go, and the command that waits for it answers. -/
namespace Sys2Proof.Machine
open Sys2Proof

/-- A device whose KEY_RETIRE of slot 0 waits, whose management port is up, whose mailbox 1 has a face at address 0, and whose thread 0 has submitted a descriptor that fails its check. -/
def retiringFaced : Dev :=
  let d : Dev := {
    thr := [(0, { st := .running, subC := [⟨1, 0, []⟩] })]
    life := { vin := true }
    keys := { slots := [(0, { state := 2 })], retiring := [0] }
    fw := { running := some (0x52, ⟨1, false, 0, 0, 0, 0, 0, 0, 0, 0, [], true, true⟩) } }
  ((d.setReg .coreCfg 0 8).setReg .hostPortStat 0 1).setReg .mbxFace1 1 0x80000000

/-- The state of that device. -/
def retiringState : State := ⟨retiringFaced, none, []⟩

theorem retiringState_live : retiringState.dev.live = true := by decide

theorem retiringState_pick : retiringState.dev.engPick 2 false = some (0, 0, ⟨1, 0, []⟩) := by decide

theorem retiringState_fails : retiringState.dev.acceptStatus (Claims.opOf retiringState.dev 0 false 0 0 ⟨1, 0, []⟩) = 4 := by decide

/-- The face of mailbox 1 shows the response: byte 0x34 of memory, 0 before, is mailbox 1's `full` bit. -/
theorem retiringState_writes : ∃ t, exec (.engineAccept 0 false) retiringState = .next t ∧ t.dev.byte 0x34 = 1 := ⟨_, rfl, by decide⟩

/-- Refutes O34: the operation that ends at its acceptance retires slot 0, and the answer of the command that waited for it is shown in memory. -/
theorem not_engineOperationsAreAcceptedStartedAndDone : ¬ Obligations.EngineOperationsAreAcceptedStartedAndDone := by
  unfold Obligations.EngineOperationsAreAcceptedStartedAndDone
  intro h
  obtain ⟨haccept, -⟩ := h retiringState retiringState_live
  obtain ⟨-, hends⟩ := haccept 0 false 0 0 ⟨1, 0, []⟩ _ _ retiringState_pick rfl rfl
  obtain ⟨t, ht, -, -, -, hmem⟩ := hends (by rw [retiringState_fails]; decide) (by decide) (by decide)
  obtain ⟨u, hu, hbyte⟩ := retiringState_writes
  obtain rfl : t = u := Host.Outcome.next.inj (ht.symm.trans hu)
  rw [Dev.byte, hmem] at hbyte
  exact absurd hbyte (by decide)

end Sys2Proof.Machine
end

section
/-! PROOFS. DMA transfers: the hand-over, the bursts, and how a transfer ends (R255 to R271, R278). -/
namespace Sys2Proof.Machine
open Sys2Proof

/-! ## Shadow sets (R261, R264) -/

/-- The shadow index that a channel register is written through. -/
def shadowIdx : Reg → Nat
  | .dmaChSrc => 0 | .dmaChDst => 1 | .dmaChCnt => 2 | .dmaChMode => 3 | .dmaChPasid => 4 | .dmaChSeed => 5 | .dmaChEvent => 6 | .dmaChCq => 7 | _ => 8

/-- The channel registers a shadow set writes. -/
def shadowRegs : List Reg := [.dmaChSrc, .dmaChDst, .dmaChCnt, .dmaChMode, .dmaChPasid, .dmaChSeed, .dmaChEvent, .dmaChCq, .dmaChCqdata]

theorem shadowReg_facts {k w : Nat} {r : Reg} (h : shadowReg k = some (r, w)) : shadowIdx r = k ∧ r ∈ shadowRegs ∧ w ≤ 64 := by
  unfold shadowReg at h
  split at h
  all_goals simp only [Option.some.injEq, Prod.mk.injEq, reduceCtorEq] at h
  all_goals
    obtain ⟨rfl, rfl⟩ := h
    decide

theorem shadowReg_inj {k k' w w' : Nat} {r : Reg} (h : shadowReg k = some (r, w)) (h' : shadowReg k' = some (r, w')) : k' = k :=
  (shadowReg_facts h').1.symm.trans (shadowReg_facts h).1

/-- One index of a set is written to its register. -/
def Dev.withIndex (d : Dev) (ch : Nat) (e : Nat × Word) : Dev :=
  match shadowReg e.1 with
  | some (r, w) => d.setReg r ch (BitVec.ofNat 64 (e.2.toNat % 2 ^ w))
  | none => d

theorem withSet_eq (d : Dev) (ch : Nat) (sh : Tab Word) : Claims.withSet d ch sh = sh.foldl (fun d e => d.withIndex ch e) d := rfl

theorem withIndex_reg_other (d : Dev) (ch : Nat) (e : Nat × Word) {r : Reg} (i : Nat) (h : ∀ w, shadowReg e.1 ≠ some (r, w)) : (d.withIndex ch e).reg r i = d.reg r i := by
  unfold Dev.withIndex
  split
  next r' w hr => exact Dev.reg_setReg_ne _ _ (.inl fun he => h w (he ▸ hr))
  · rfl

theorem withSet_reg_other (ch : Nat) {r : Reg} (i : Nat) : ∀ (sh : Tab Word) (d : Dev), (∀ e ∈ sh, ∀ w, shadowReg e.1 ≠ some (r, w)) → (Claims.withSet d ch sh).reg r i = d.reg r i
  | [], _, _ => rfl
  | e :: sh, d, h => by
    rw [withSet_eq, List.foldl_cons, ← withSet_eq, withSet_reg_other ch i sh _ fun e' he => h e' (List.mem_cons_of_mem _ he),
      withIndex_reg_other d ch e i (h e List.mem_cons_self)]

/-- A set writes no register but a channel's own. -/
theorem withSet_reg_of_not_mem (d : Dev) (ch : Nat) (sh : Tab Word) {r : Reg} (hr : r ∉ shadowRegs) (i : Nat) : (Claims.withSet d ch sh).reg r i = d.reg r i :=
  withSet_reg_other ch i sh d fun _ _ _ h => hr (shadowReg_facts h).2.1

theorem withSet_reg_written (ch : Nat) {k w : Nat} {v : Word} {r : Reg} (hk : shadowReg k = some (r, w)) : ∀ (sh : Tab Word) (d : Dev), (sh.map Prod.fst).Nodup →
    (k, v) ∈ sh → (Claims.withSet d ch sh).reg r ch = BitVec.ofNat 64 (v.toNat % 2 ^ w)
  | [], _, _, h => absurd h List.not_mem_nil
  | e :: sh, d, hn, h => by
    rw [List.map_cons, List.nodup_cons] at hn
    rw [withSet_eq, List.foldl_cons, ← withSet_eq]
    rcases List.mem_cons.1 h with rfl | h
    · rw [withSet_reg_other ch ch sh _ fun e he w' h' => hn.1 (List.mem_map.2 ⟨e, he, shadowReg_inj hk h'⟩), Dev.withIndex, hk]
      exact Dev.reg_setReg_same ..
    · exact withSet_reg_written ch hk sh _ hn.2 h

theorem withSet_reads (d : Dev) (ch k : Nat) (sh : Tab Word) (r : Reg) (w : Nat) (v : Word) (hn : (sh.map Prod.fst).Nodup) (hm : (k, v) ∈ sh)
    (hk : shadowReg k = some (r, w)) : ((Claims.withSet d ch sh).reg r ch).toNat = v.toNat % 2 ^ w := by
  rw [withSet_reg_written ch hk sh d hn hm, BitVec.toNat_ofNat, Nat.mod_eq_of_lt]
  exact Nat.lt_of_lt_of_le (Nat.mod_lt _ (Nat.two_pow_pos w)) (Nat.pow_le_pow_right (by decide) (shadowReg_facts hk).2.2)

/-! ## Whether a set is bad (R264) -/

/-- Two devices with the same grants and the same registers but DMA_CH_STAT. -/
structure SameButChStat (a b : Dev) : Prop where
  reg : ∀ r i, r ≠ .dmaChStat → b.reg r i = a.reg r i
  ptn : b.ptn = a.ptn

section
variable {a b : Dev} (h : SameButChStat a b)
include h

theorem SameButChStat.rf {r : Reg} (hr : r ≠ .dmaChStat) (i lo w : Nat) : b.rf r i lo w = a.rf r i lo w := by rw [Dev.rf, h.reg r i hr, ← Dev.rf]
theorem SameButChStat.rb {r : Reg} (hr : r ≠ .dmaChStat) (i lo : Nat) : b.rb r i lo = a.rb r i lo := by rw [Dev.rb, h.reg r i hr, ← Dev.rb]

theorem SameButChStat.heldBad (ch k : Nat) : b.heldBad ch k = a.heldBad ch k := by
  unfold Dev.heldBad
  split
  next r w hk => rw [h.reg r ch (fun he => absurd (shadowReg_facts hk).2.1 (he ▸ by decide))]
  · rfl

theorem SameButChStat.partOf (tid : Nat) : b.partOf tid = a.partOf tid := by
  simp only [Dev.partOf, Dev.partOfCore, h.rb (r := .coreCfg) (by decide), h.rf (r := .coreCfg) (by decide)]

theorem SameButChStat.activeTid (tid : Nat) : b.activeTid tid = a.activeTid tid := by
  simp only [Dev.activeTid, h.partOf, Dev.inDuplex, Dev.dpxExternal, Dev.dpxActive, h.rb (r := .dpxCfg) (by decide), h.rf (r := .dpxCfg) (by decide)]
  rfl

theorem SameButChStat.groupOk (p g : Nat) : b.groupOk p g = a.groupOk p g := by
  simp only [Dev.groupOk, Dev.granted, Dev.part, h.ptn, Dev.groupMembers, h.rf (r := .clsGrp) (by decide), h.rb (r := .clsGrpMem) (by decide), h.partOf, h.activeTid]

theorem SameButChStat.setBad (ch p : Nat) (sh : Tab Word) : b.setBad ch p sh = a.setBad ch p sh := by
  have hcq (n : Nat) : b.cqSlice n = a.cqSlice n := by
    simp only [Dev.cqSlice, Dev.sliceGranted, Dev.slc, h.ptn, h.rf (r := .ringCqOwner) (by decide), h.rb (r := .ringCqOwner) (by decide)]
    rfl
  simp only [Dev.setBad, Dev.chMode, h.rf (r := .dmaChMode) (by decide), h.rf (r := .dmaChCnt) (by decide), h.reg .dmaChEvent _ (by decide),
    h.reg .dmaChSrc _ (by decide), h.reg .dmaChDst _ (by decide), h.heldBad, h.partOf, h.groupOk, h.rb (r := .dmaChCq) (by decide),
    h.rf (r := .dmaChCq) (by decide), hcq, Dev.slicePart, Dev.sliceState, h.rf (r := .slcState) (by decide)]

end

/-! ## The end of a transfer (R270, R271) -/

theorem keepsAssigned_foldl {β : Type} (f : Dev → β → Dev) (l : List β) (h : ∀ d b, KeepsAssigned d (f d b)) (d : Dev) : KeepsAssigned d (l.foldl f d) := by
  induction l generalizing d with
  | nil => exact .refl d
  | cons b bs ih => exact (h d b).trans (ih _)

theorem keepsAssigned_route (d : Dev) (p : Nat) (group : Bool) (n line : Nat) : KeepsAssigned d (d.route p group n line) := by
  unfold Dev.route Dev.signal
  split
  · exact .refl d
  · split
    · split
      · exact keepsAssigned_foldl _ _ (fun e u => keepsAssigned_setEvent e u line) d
      · exact .refl d
    · split
      · exact keepsAssigned_setEvent _ _ _
      · exact .refl d

theorem keepsAssigned_xferEvent (d : Dev) (ch : Nat) (x : Xfer) : KeepsAssigned d (d.xferEvent ch x) := by
  unfold Dev.xferEvent
  dsimp only
  split
  · exact keepsAssigned_route ..
  · exact keepsAssigned_route ..
  · exact keepsAssigned_route ..
  · exact .refl d

/-- A transfer with no queue to post to has ended, before its event is set: what the end shows, and what it leaves. -/
structure EndsTo (ch : Nat) (st : Byte) (done : Nat) (d d1 : Dev) : Prop where
  ended : Claims.Ended ch st.toNat done d1
  armed : (d1.chan ch).armed = (d.chan ch).armed
  keeps : Keeps [.dmaChStat, .dmaIslStat] d d1
  flt : d1.flt = d.flt
  time : d1.time = d.time

/-- The end of a transfer is counted. -/
def Dev.endCounted (d : Dev) (ch : Nat) (status : Byte) : Dev :=
  let d := d.count (evE (chanIsl ch) (384 + 6))
  let d := if status = 0 then d else d.count (evE (chanIsl ch) (384 + 7))
  if status = 0x18 then d.count (evE (chanIsl ch) (384 + 8)) else d

/-- The transfer's reads are abandoned and DMA_CH_STAT is written. -/
def Dev.endShown (d : Dev) (ch : Nat) (x : Xfer) (status : Byte) (done : Nat) : Dev :=
  let d := (d.setChan ch { d.chan ch with xfer := some x }).stageStat (chanIsl ch)
  ((d.setRb .dmaChStat ch 3 true).setRf .dmaChStat ch 8 8 status.toNat).setRf .dmaChStat ch 32 32 done

/-- The transfer's end up to its completion. -/
def Dev.xferStops (d : Dev) (ch : Nat) (x : Xfer) (status : Byte) (done : Nat) : Dev := (d.endShown ch x status done).endCounted ch status

/-- The channel is free, with the event still to be set. -/
def Dev.chanFreed (d : Dev) (ch : Nat) : Dev :=
  let d := (d.setRb .dmaChStat ch 0 false).setRb .dmaChStat ch 5 false
  d.setChan ch { d.chan ch with xfer := none }

/-- What a transfer's end shows before its completion. -/
structure Shown (ch : Nat) (x : Xfer) (st : Byte) (done : Nat) (d e : Dev) : Prop where
  chan : e.chan ch = { d.chan ch with xfer := some x }
  keeps : Keeps [.dmaChStat, .dmaIslStat] d e
  status : e.rf .dmaChStat ch 8 8 = st.toNat
  ended : e.rb .dmaChStat ch 3 = true
  done : e.rf .dmaChStat ch 32 32 = done % 2 ^ 32
  flt : e.flt = d.flt
  time : e.time = d.time

theorem shown_endShown (d : Dev) (ch : Nat) (x : Xfer) (st : Byte) (done : Nat) : Shown ch x st done d (d.endShown ch x st done) := by
  have hk : Keeps [.dmaChStat, .dmaIslStat] d ((d.setChan ch { d.chan ch with xfer := some x }).stageStat (chanIsl ch)) := by simp [Dev.stageStat]
  have hc : ((d.setChan ch { d.chan ch with xfer := some x }).stageStat (chanIsl ch)).chan ch = { d.chan ch with xfer := some x } := by
    rw [Dev.chan, Dev.stageStat, Dev.setRf_dma, ← Dev.chan, Dev.chan_setChan_same]
  have hf : ((d.setChan ch { d.chan ch with xfer := some x }).stageStat (chanIsl ch)).flt = d.flt := by rw [Dev.stageStat, Dev.setRf_flt]; rfl
  have ht : ((d.setChan ch { d.chan ch with xfer := some x }).stageStat (chanIsl ch)).time = d.time := by rw [Dev.stageStat, Dev.setRf_time]; rfl
  unfold Dev.endShown
  dsimp only
  generalize (d.setChan ch { d.chan ch with xfer := some x }).stageStat (chanIsl ch) = e at *
  refine ⟨?_, ?_, ?_, ?_, Dev.rf_setRf_same _ _ _ _ _ _ (by decide), ?_, ?_⟩
  · rw [Dev.chan, Dev.setRf_dma, Dev.setRf_dma, Dev.setRb_dma, ← Dev.chan, hc]
  · simp [hk]
  · exact (Dev.rf_setRf_ne _ _ _ _ _ _ _ _ (by decide) (by decide)).trans ((Dev.rf_setRf_same _ _ _ _ _ _ (by decide)).trans (Nat.mod_eq_of_lt st.isLt))
  · exact (Dev.rb_setRf_ne _ _ _ _ _ _ _ (by decide) (by decide)).trans ((Dev.rb_setRf_ne _ _ _ _ _ _ _ (by decide) (by decide)).trans
      (Dev.rb_setRb_same _ _ _ _ _ (by decide)))
  · rw [Dev.setRf_flt, Dev.setRf_flt, Dev.setRb_flt, hf]
  · rw [Dev.setRf_time, Dev.setRf_time, Dev.setRb_time, ht]

theorem Shown.counted {d e : Dev} {ch : Nat} {x : Xfer} {st : Byte} {done : Nat} (h : Shown ch x st done d e) (ev : Nat) : Shown ch x st done d (e.count ev) :=
  ⟨h.chan, h.keeps, h.status, h.ended, h.done, h.flt, h.time⟩

theorem shown_xferStops (d : Dev) (ch : Nat) (x : Xfer) (st : Byte) (done : Nat) : Shown ch x st done d (d.xferStops ch x st done) := by
  have h := shown_endShown d ch x st done
  unfold Dev.xferStops Dev.endCounted
  dsimp only
  split
  · split
    · exact (h.counted _).counted _
    · exact ((h.counted _).counted _).counted _
  · split
    · exact h.counted _
    · exact (h.counted _).counted _

/-- A channel freed of its transfer. -/
theorem endsTo_of_shown {d e : Dev} {ch : Nat} {x : Xfer} {st : Byte} {done : Nat} (h : Shown ch x st done d e) : EndsTo ch st done d (e.chanFreed ch) := by
  have hchan : ((e.setRb .dmaChStat ch 0 false).setRb .dmaChStat ch 5 false).chan ch = e.chan ch := by
    rw [Dev.chan, Dev.setRb_dma, Dev.setRb_dma, ← Dev.chan]
  have hkeep : Keeps [.dmaChStat] e ((e.setRb .dmaChStat ch 0 false).setRb .dmaChStat ch 5 false) := by simp
  have hbits : ((e.setRb .dmaChStat ch 0 false).setRb .dmaChStat ch 5 false).rf .dmaChStat ch 8 8 = st.toNat ∧
      ((e.setRb .dmaChStat ch 0 false).setRb .dmaChStat ch 5 false).rb .dmaChStat ch 0 = false ∧
      ((e.setRb .dmaChStat ch 0 false).setRb .dmaChStat ch 5 false).rb .dmaChStat ch 3 = true ∧
      ((e.setRb .dmaChStat ch 0 false).setRb .dmaChStat ch 5 false).rf .dmaChStat ch 32 32 = done % 2 ^ 32 :=
    ⟨(Dev.rf_setRb_ne _ _ _ _ _ _ _ (by decide)).trans ((Dev.rf_setRb_ne _ _ _ _ _ _ _ (by decide)).trans h.status),
      (Dev.rb_setRb_ne _ _ _ _ _ _ (by decide)).trans (Dev.rb_setRb_same _ _ _ _ _ (by decide)),
      (Dev.rb_setRb_ne _ _ _ _ _ _ (by decide)).trans ((Dev.rb_setRb_ne _ _ _ _ _ _ (by decide)).trans h.ended),
      (Dev.rf_setRb_ne _ _ _ _ _ _ _ (by decide)).trans ((Dev.rf_setRb_ne _ _ _ _ _ _ _ (by decide)).trans h.done)⟩
  have hrest : ((e.setRb .dmaChStat ch 0 false).setRb .dmaChStat ch 5 false).flt = e.flt ∧ ((e.setRb .dmaChStat ch 0 false).setRb .dmaChStat ch 5 false).time = e.time :=
    ⟨by rw [Dev.setRb_flt, Dev.setRb_flt], by rw [Dev.setRb_time, Dev.setRb_time]⟩
  unfold Dev.chanFreed
  dsimp only
  generalize (e.setRb .dmaChStat ch 0 false).setRb .dmaChStat ch 5 false = f at *
  obtain ⟨h8, h0, h3, h32⟩ := hbits
  refine ⟨⟨congrArg Chan.xfer (Dev.chan_setChan_same ..), h8, h0, h3, h32⟩, ?_, (h.keeps.trans (hkeep.mono (by simp))).trans (Keeps.refl _ _), hrest.1.trans h.flt, hrest.2.trans h.time⟩
  rw [Dev.chan_setChan_same, hchan, h.chan]

/-- With no completion queue to post to, a transfer ends with its channel free and its event (R271). -/
theorem endXfer_unqueued {d : Dev} {ch : Nat} {x : Xfer} (hx : (d.chan ch).xfer = some x) (hq : d.rb .dmaChCq ch 15 = false) (st : Byte) (done : Nat) :
    ∃ (d1 : Dev) (y : Xfer), d.endXfer ch st done = d1.xferEvent ch y ∧ y.tid = x.tid ∧ EndsTo ch st done d d1 := by
  have h := shown_xferStops d ch { x with stage := .ended st, bursts := [] } st done
  refine ⟨_, { x with stage := .ended st, bursts := [] }, ?_, rfl, endsTo_of_shown h⟩
  have he : d.endXfer ch st done = (d.xferStops ch { x with stage := .ended st, bursts := [] } st done).xferPost ch { x with stage := .ended st, bursts := [] } st := by
    rw [Dev.endXfer, hx]
    rfl
  rw [he]
  generalize d.xferStops ch { x with stage := .ended st, bursts := [] } st done = e at *
  have hnone : e.xferCqe ch { x with stage := .ended st, bursts := [] } st (e.rf .dmaChStat ch 32 32) = none := if_pos (by rw [h.keeps.rb (by decide), hq]; rfl)
  rw [Dev.xferPost, hnone]
  rfl

/-! ## The hand-over (R263, R264, R278) -/

/-- The transfer an armed set becomes. -/
def Dev.xferOf (d : Dev) (ch : Nat) (a : Armed) : Xfer :=
  ⟨a.tid, a.ring, a.errOnly, (d.reg .dmaChSrc ch).toNat, (d.reg .dmaChDst ch).toNat, d.rf .dmaChCnt ch 0 32, 0, 0, [], [], .moving, 0⟩

/-- A channel whose registers hold its set starts the transfer. -/
def Dev.takesSet (d : Dev) (ch : Nat) (a : Armed) : Dev :=
  let x := d.xferOf ch a
  let d := d.setChan ch { d.chan ch with armed := none, xfer := some x }
  let d := (((d.setRb .dmaChStat ch 0 true).setRb .dmaChStat ch 1 false).setRb .dmaChStat ch 3 false).setRf .dmaChStat ch 32 32 0
  d.setRf .dmaChStat ch 16 3 (d.chMode ch 16 3)

/-- What a started channel shows. -/
structure Started (ch : Nat) (a : Armed) (d e : Dev) : Prop where
  chan : e.chan ch = { d.chan ch with armed := none, xfer := some (d.xferOf ch a) }
  keeps : Keeps [.dmaChStat] d e
  ptn : e.ptn = d.ptn
  busy : e.rb .dmaChStat ch 0 = true
  armed : e.rb .dmaChStat ch 1 = false
  ended : e.rb .dmaChStat ch 3 = false
  done : e.rf .dmaChStat ch 32 32 = 0

theorem started_shows (d : Dev) (ch : Nat) (a : Armed) : Started ch a d (d.takesSet ch a) := by
  have hc : (d.setChan ch { d.chan ch with armed := none, xfer := some (d.xferOf ch a) }).chan ch = { d.chan ch with armed := none, xfer := some (d.xferOf ch a) } :=
    Dev.chan_setChan_same ..
  have hk : Keeps [.dmaChStat] d (d.setChan ch { d.chan ch with armed := none, xfer := some (d.xferOf ch a) }) := Keeps.refl _ _
  have hp : (d.setChan ch { d.chan ch with armed := none, xfer := some (d.xferOf ch a) }).ptn = d.ptn := rfl
  unfold Dev.takesSet
  dsimp only
  generalize d.setChan ch { d.chan ch with armed := none, xfer := some (d.xferOf ch a) } = e at *
  refine ⟨?_, ?_, ?_, ?_, ?_, ?_, ?_⟩
  · rw [Dev.chan, Dev.setRf_dma, Dev.setRf_dma, Dev.setRb_dma, Dev.setRb_dma, Dev.setRb_dma, ← Dev.chan, hc]
  · simp [hk]
  · rw [Dev.setRf_ptn, Dev.setRf_ptn, Dev.setRb_ptn, Dev.setRb_ptn, Dev.setRb_ptn, hp]
  · rw [Dev.rb_setRf_ne _ _ _ _ _ _ _ (by decide) (by decide), Dev.rb_setRf_ne _ _ _ _ _ _ _ (by decide) (by decide), Dev.rb_setRb_ne _ _ _ _ _ _ (by decide),
      Dev.rb_setRb_ne _ _ _ _ _ _ (by decide), Dev.rb_setRb_same _ _ _ _ _ (by decide)]
  · rw [Dev.rb_setRf_ne _ _ _ _ _ _ _ (by decide) (by decide), Dev.rb_setRf_ne _ _ _ _ _ _ _ (by decide) (by decide), Dev.rb_setRb_ne _ _ _ _ _ _ (by decide),
      Dev.rb_setRb_same _ _ _ _ _ (by decide)]
  · rw [Dev.rb_setRf_ne _ _ _ _ _ _ _ (by decide) (by decide), Dev.rb_setRf_ne _ _ _ _ _ _ _ (by decide) (by decide), Dev.rb_setRb_same _ _ _ _ _ (by decide)]
  · rw [Dev.rf_setRf_ne _ _ _ _ _ _ _ _ (by decide) (by decide)]
    exact (Dev.rf_setRf_same _ _ _ _ _ _ (by decide)).trans (Nat.zero_mod _)

theorem handover_taken {d : Dev} {ch p : Nat} {a : Armed} (ha : (d.chan ch).armed = some a) (hp : d.chanPart ch = some p) (hb : d.chanBusy ch = false) :
    d.handover ch = if ((Claims.withSet d ch a.shadow).takesSet ch a).setBad ch p a.shadow then ((Claims.withSet d ch a.shadow).takesSet ch a).endXfer ch 0x04 0
      else (Claims.withSet d ch a.shadow).takesSet ch a := by
  rw [Dev.handover, ha, hp]
  dsimp only
  rw [if_neg (by rw [hb]; decide)]
  rfl

theorem setBad_started (d : Dev) (ch p : Nat) (a : Armed) (sh : Tab Word) : (d.takesSet ch a).setBad ch p sh = d.setBad ch p sh :=
  have h := started_shows d ch a
  SameButChStat.setBad ⟨fun r i hr => h.keeps.reg (by simpa using hr) i, h.ptn⟩ ch p sh

theorem handover_idle {d : Dev} {ch : Nat} (ha : (d.chan ch).armed = none) : d.handover ch = d := by
  rw [Dev.handover, ha]

/-! ## Reads that are over, and errors (R270) -/

/-- What taking off a host operation's tag leaves. -/
structure OpEnded (a b : Dev) : Prop where
  keeps : Keeps [.hostFnStat, .hostLinkStat] a b
  dma : b.dma = a.dma
  ptn : b.ptn = a.ptn
  flt : b.flt = a.flt
  time : b.time = a.time
  board : b.board = a.board

theorem opEnded_countTags (d : Dev) (h f : Nat) : OpEnded d (d.countTags h f) := by
  refine ⟨by simp, ?_, ?_, ?_, ?_, ?_⟩
  all_goals unfold Dev.countTags
  · simp only [Dev.setRf_dma]
  · simp only [Dev.setRf_ptn]
  · simp only [Dev.setRf_flt]
  · simp only [Dev.setRf_time]
  · simp only [Dev.setRf_board]

theorem opEnded_endOp (d : Dev) (op : HostOp) : OpEnded d (d.endOp op) := by
  unfold Dev.endOp Dev.dropTag
  split
  next t _ =>
    split
    next r _ =>
      obtain ⟨h1, h2, h3, h4, h5, h6⟩ := opEnded_countTags { d with host := { d.host with reqs := tabDel t d.host.reqs } } r.h r.f
      exact ⟨h1, h2, h3, h4, h5, h6⟩
    · exact ⟨Keeps.refl _ _, rfl, rfl, rfl, rfl, rfl⟩
  · exact ⟨Keeps.refl _ _, rfl, rfl, rfl, rfl, rfl⟩

section
variable {d : Dev} {ch : Nat} {x : Xfer} {st : Byte} (hx : (d.chan ch).xfer = some x) (hst : x.stage = .moving) (hq : d.rb .dmaChCq ch 15 = false)
include hx hst hq

/-- A moving transfer that fails ends with the status, and nothing else changes but its abandoned reads. -/
theorem failXfer_unqueued : ∃ (d1 : Dev) (y : Xfer), d.failXfer ch st = d1.xferEvent ch y ∧ y.tid = x.tid ∧ EndsTo ch st (bytesDone (d.descends ch x) x) d d1 := by
  have he : ∃ f, d.failXfer ch st = (d.discardOps f).endXfer ch st (bytesDone (d.descends ch x) x) := by
    rw [Dev.failXfer, hx]
    dsimp only
    rw [hst]
    exact ⟨_, rfl⟩
  obtain ⟨f, hf⟩ := he
  obtain ⟨d1, y, hy, ht, hend⟩ := endXfer_unqueued (d := d.discardOps f) hx hq st (bytesDone (d.descends ch x) x)
  exact ⟨d1, y, hf.trans hy, ht, hend.ended, hend.armed, hend.keeps, hend.flt, hend.time⟩

theorem xferFault_unqueued {p addr : Nat} : ∃ (d1 : Dev) (y : Xfer), d.xferFault ch p addr st = d1.xferEvent ch y ∧ y.tid = x.tid ∧
    EndsTo ch st (bytesDone (d.descends ch x) x) { d with flt := d1.flt } d1 ∧
    (st = 0x14 → d1.flt.queue = insertReport ⟨644, chanIsl ch, some p, none, 0, BitVec.ofNat 64 addr, d.time.tick, d.time.now⟩ d.flt.queue) := by
  by_cases h : st = 0x14
  · obtain ⟨d1, y, hy, ht, hend⟩ := failXfer_unqueued (d := d.raiseDecode (chanIsl ch) (some p) addr) (st := st) hx hst hq
    refine ⟨d1, y, ?_, ht, ⟨hend.ended, hend.armed, hend.keeps, rfl, hend.time⟩, fun _ => congrArg Flt.queue hend.flt⟩
    rw [Dev.xferFault, if_pos h, hy]
  · obtain ⟨d1, y, hy, ht, hend⟩ := failXfer_unqueued (d := d) (st := st) hx hst hq
    refine ⟨d1, y, ?_, ht, ⟨hend.ended, hend.armed, hend.keeps, rfl, hend.time⟩, fun he => absurd he h⟩
    rw [Dev.xferFault, if_neg h, hy]

end

/-! ## Bursts (R255, R256, R266) -/

/-- What a channel's steps on one island leave alone. -/
structure BurstStep (rs : List Reg) (a b : Dev) : Prop where
  keeps : Keeps rs a b
  chans : b.dma.chans = a.dma.chans
  ptn : b.ptn = a.ptn
  time : b.time = a.time

theorem BurstStep.refl (rs : List Reg) (d : Dev) : BurstStep rs d d := ⟨Keeps.refl _ _, rfl, rfl, rfl⟩

theorem BurstStep.trans {rs : List Reg} {a b c : Dev} (h : BurstStep rs a b) (h' : BurstStep rs b c) : BurstStep rs a c :=
  ⟨h.keeps.trans h'.keeps, h'.chans.trans h.chans, h'.ptn.trans h.ptn, h'.time.trans h.time⟩

theorem BurstStep.mono {rs ws : List Reg} {a b : Dev} (h : BurstStep rs a b) (hs : rs ⊆ ws) : BurstStep ws a b := ⟨h.keeps.mono hs, h.chans, h.ptn, h.time⟩

theorem BurstStep.chan {rs : List Reg} {a b : Dev} (h : BurstStep rs a b) (ch : Nat) : b.chan ch = a.chan ch := by rw [Dev.chan, h.chans, ← Dev.chan]

theorem burstStep_charge (d : Dev) (cr bal : Reg) (rate isl p amount : Nat) : BurstStep [bal] d (d.charge cr bal rate isl p amount) := by
  unfold Dev.charge Dev.setBalance
  dsimp only
  split
  · exact .refl _ _
  · exact ⟨by simp, by rw [Dev.setReg_dma], by rw [Dev.setReg_ptn], by rw [Dev.setReg_time]⟩

theorem burstStep_stageStat (d : Dev) (isl : Nat) : BurstStep [.dmaIslStat] d (d.stageStat isl) := by
  unfold Dev.stageStat
  exact ⟨by simp, by rw [Dev.setRf_dma], by rw [Dev.setRf_ptn], by rw [Dev.setRf_time]⟩

theorem burstStep_count (d : Dev) (e : Nat) : BurstStep [] d (d.count e) := ⟨Keeps.refl _ _, rfl, rfl, rfl⟩

theorem burstStep_countBy (d : Dev) (e n : Nat) : BurstStep [] d (d.countBy e n) := ⟨Keeps.refl _ _, rfl, rfl, rfl⟩

/-- A channel's state is replaced. -/
structure ChanSet (rs : List Reg) (ch : Nat) (x : Chan) (a b : Dev) : Prop where
  keeps : Keeps rs a b
  chan : b.chan ch = x
  ptn : b.ptn = a.ptn
  time : b.time = a.time

theorem chanSet_setChan (d : Dev) (ch : Nat) (x : Chan) : ChanSet [] ch x d (d.setChan ch x) := ⟨Keeps.refl _ _, Dev.chan_setChan_same .., rfl, rfl⟩

theorem ChanSet.step {rs ws : List Reg} {ch : Nat} {x : Chan} {a b c : Dev} (h : ChanSet rs ch x a b) (h' : BurstStep ws b c) : ChanSet (rs ++ ws) ch x a c :=
  ⟨(h.keeps.mono (by simp)).trans (h'.keeps.mono (by simp)), (h'.chan ch).trans h.chan, h'.ptn.trans h.ptn, h'.time.trans h.time⟩

theorem sendBurst_shows (d : Dev) (ch p isl : Nat) (x : Xfer) (b : Burst) (borrowed : Bool) :
    ChanSet [.ptnBalRd, .dmaIslStat] ch { d.chan ch with xfer := some { x with issued := x.issued + b.len, bursts := x.bursts ++ [b] } } d (d.sendBurst ch p isl x b borrowed) := by
  have h0 : ChanSet [] ch { d.chan ch with xfer := some { x with issued := x.issued + b.len, bursts := x.bursts ++ [b] } } d
      (d.setChan ch { d.chan ch with xfer := some { x with issued := x.issued + b.len, bursts := x.bursts ++ [b] } }) := chanSet_setChan ..
  unfold Dev.sendBurst
  dsimp only
  generalize d.setChan ch { d.chan ch with xfer := some { x with issued := x.issued + b.len, bursts := x.bursts ++ [b] } } = e at *
  have h1 : BurstStep [] e { e with dma := { e.dma with lastCh := tabPut e.dma.lastCh 1023 (isl - 2) ch, lastPart := tabPut e.dma.lastPart 7 (isl - 2) p } } :=
    ⟨Keeps.refl _ _, rfl, rfl, rfl⟩
  have h2 := (((h0.step h1).step (burstStep_charge _ .ptnCrDma .ptnBalRd 1024 isl p b.len)).step (burstStep_stageStat _ isl)).step (burstStep_count _ (evE isl 384))
  split
  · exact h2.step (burstStep_count _ _)
  · exact h2

theorem hostRead_shows (d : Dev) (h f : Nat) (sl : Option Nat) (op : HostOp) (addr len : Nat) : (d.hostRead h f sl op addr len).dma = d.dma ∧
    ∃ t r, tabFind t (d.hostRead h f sl op addr len).host.reqs = some r ∧ r.op = op ∧ r.addr = addr ∧ r.len = len ∧ r.reply = none := by
  have hw (e : Dev) : (e.wakeLink h).dma = e.dma := by
    unfold Dev.wakeLink
    split
    · rw [Dev.setRb_dma]
    · rfl
  unfold Dev.hostRead
  refine ⟨by rw [hw, Dev.count_dma, (opEnded_countTags _ h f).dma], d.freeTag, ⟨h, f, sl, op, addr, len, d.time.tick, ctvTicks (d.fn h f).ctv, false, none⟩, ?_, rfl, rfl, rfl, rfl⟩
  rw [wakeLink_host, Dev.count_host, countTags_host]
  exact tabFind_ins_same ..

/-- Memory has changed and nothing else. -/
structure OnlyMem (a b : Dev) : Prop where
  regs : b.regs = a.regs
  thr : b.thr = a.thr
  dma : b.dma = a.dma
  ptn : b.ptn = a.ptn
  time : b.time = a.time

theorem onlyMem_writeDup (d : Dev) (p a : Nat) (bs : List Byte) : OnlyMem d (d.writeDup p a bs) := by
  unfold Dev.writeDup
  dsimp only
  split
  · exact ⟨rfl, rfl, rfl, rfl, rfl⟩
  · exact ⟨rfl, rfl, rfl, rfl, rfl⟩

theorem OnlyMem.reg {a b : Dev} (h : OnlyMem a b) (r : Reg) (i : Nat) : b.reg r i = a.reg r i := by rw [Dev.reg, h.regs, ← Dev.reg]

section
variable {a b : Dev} (h : OpEnded a b)
include h

theorem xferCheck_of_opEnded (ch p addr len : Nat) : b.xferCheck ch p addr len = a.xferCheck ch p addr len := by
  have hr : b.region = a.region := by
    funext x n
    unfold Dev.region
    rw [h.board]
  have hu : b.unitsGranted = a.unitsGranted := by
    funext p kind w unit off n
    simp only [Dev.unitsGranted, Dev.granted, Dev.part, h.ptn]
  have hc : b.partOfCore = a.partOfCore := by
    funext c
    simp only [Dev.partOfCore, h.keeps.rb (r := .coreCfg) (by decide), h.keeps.rf (r := .coreCfg) (by decide)]
  have hm : b.checkMem = a.checkMem := by
    funext dom x n
    unfold Dev.checkMem
    rw [hr, hu, hc]
  unfold Dev.xferCheck
  rw [hr, hm]

theorem writeDup_mem_of_opEnded (p addr : Nat) (bs : List Byte) : (b.writeDup p addr bs).mem = (a.writeDup p addr bs).mem := by
  have hd : b.inDuplex p = a.inDuplex p ∧ b.dpxExternal p = a.dpxExternal p ∧ b.dpxActive p = a.dpxActive p :=
    ⟨h.keeps.rb (r := .dpxCfg) (by decide) .., h.keeps.rb (r := .dpxCfg) (by decide) .., h.keeps.rf (r := .dpxCfg) (by decide) ..⟩
  obtain ⟨h1, h2, h3⟩ := hd
  unfold Dev.writeDup
  dsimp only
  rw [h1, h2, h3]
  split
  · rw [Dev.write, Dev.write, Dev.write, Dev.write, h.keeps.2.1]
  · rw [Dev.write, Dev.write, h.keeps.2.1]

end

/-- A burst's data has been written: the transfer as it goes on. -/
def Dev.xferNext (d : Dev) (ch : Nat) (x : Xfer) (b : Burst) (bs : List Burst) (data : List Byte) : Xfer :=
  { x with bursts := bs, written := x.written + b.len, data := if d.chMode ch 12 2 = 0 then [] else if d.descends ch x then data ++ x.data else x.data ++ data }

/-- A burst's data has been written: the channel shows it, and the write is charged and counted. -/
def Dev.burstLands (d : Dev) (ch p : Nat) (x : Xfer) (down : Bool) (n : Nat) : Dev :=
  let isl := chanIsl ch
  let d := (d.setChan ch { d.chan ch with xfer := some x }).stageStat isl
  let d := d.setRf .dmaChStat ch 32 32 (bytesDone down x)
  let d := (d.charge .ptnCrDma .ptnBalWr 1024 isl p n).count (evE isl (384 + 1))
  (d.countBy (evE isl (384 + 2)) n).countBy (evE isl (384 + 3)) n

theorem burstLands_shows (d : Dev) (ch p : Nat) (x : Xfer) (down : Bool) (n : Nat) :
    ChanSet [.dmaIslStat, .dmaChStat, .ptnBalWr] ch { d.chan ch with xfer := some x } d (d.burstLands ch p x down n) ∧
    (d.burstLands ch p x down n).rf .dmaChStat ch 32 32 = bytesDone down x % 2 ^ 32 := by
  have h0 : ChanSet [] ch { d.chan ch with xfer := some x } d (d.setChan ch { d.chan ch with xfer := some x }) := chanSet_setChan ..
  unfold Dev.burstLands
  dsimp only
  have h1 := h0.step (burstStep_stageStat _ (chanIsl ch))
  generalize (d.setChan ch { d.chan ch with xfer := some x }).stageStat (chanIsl ch) = e at *
  have h2 : BurstStep [.dmaChStat] e (e.setRf .dmaChStat ch 32 32 (bytesDone down x)) :=
    ⟨by simp, by rw [Dev.setRf_dma], by rw [Dev.setRf_ptn], by rw [Dev.setRf_time]⟩
  have hf : (e.setRf .dmaChStat ch 32 32 (bytesDone down x)).rf .dmaChStat ch 32 32 = bytesDone down x % 2 ^ 32 := Dev.rf_setRf_same _ _ _ _ _ _ (by decide)
  have h3 := h1.step h2
  generalize e.setRf .dmaChStat ch 32 32 (bytesDone down x) = g at *
  have h4 := burstStep_charge g .ptnCrDma .ptnBalWr 1024 (chanIsl ch) p n
  have hf' := (h4.keeps.rf (r := .dmaChStat) (by decide) ch 32 32).trans hf
  have h5 := h3.step h4
  generalize g.charge .ptnCrDma .ptnBalWr 1024 (chanIsl ch) p n = k at *
  have hc := ((burstStep_count k (evE (chanIsl ch) (384 + 1))).trans (burstStep_countBy _ (evE (chanIsl ch) (384 + 2)) n)).trans (burstStep_countBy _ (evE (chanIsl ch) (384 + 3)) n)
  exact ⟨h5.step hc, (hc.keeps.rf (by decide) ch 32 32).trans hf'⟩

/-- After the last byte of a transfer that stays in the device: its read-back is awaited, and its checksum is final. -/
theorem finishMove_shows {d : Dev} {ch : Nat} (p : Nat) (x : Xfer) (h1 : d.chMode ch 1 1 = 0) (h14 : d.chMode ch 14 1 = 0) :
    (∃ t, ChanSet [.dmaChChk] ch { d.chan ch with xfer := some { x with stage := .readback, readAt := t } } d (d.finishMove ch p x)) ∧
    (d.chMode ch 12 2 ≠ 0 → (d.finishMove ch p x).reg .dmaChChk ch = streamCheck (d.chMode ch 12 2) (d.reg .dmaChSeed ch) x.data) := by
  have hsum : ∃ e : Dev, (if d.chMode ch 12 2 = 0 then d else d.setReg .dmaChChk ch (streamCheck (d.chMode ch 12 2) (d.reg .dmaChSeed ch) x.data)) = e ∧ ChanSet [.dmaChChk] ch (d.chan ch) d e ∧
      (d.chMode ch 12 2 ≠ 0 → e.reg .dmaChChk ch = streamCheck (d.chMode ch 12 2) (d.reg .dmaChSeed ch) x.data) := by
    refine ⟨_, rfl, ?_⟩
    split
    next h0 => exact ⟨⟨Keeps.refl _ _, rfl, rfl, rfl⟩, fun h => absurd h0 h⟩
    · exact ⟨⟨by simp, by rw [Dev.chan, Dev.setReg_dma, ← Dev.chan], by rw [Dev.setReg_ptn], by rw [Dev.setReg_time]⟩, fun _ => Dev.reg_setReg_same ..⟩
  obtain ⟨e, he, hs, hreg⟩ := hsum
  have hm (lo width : Nat) : e.chMode ch lo width = d.chMode ch lo width := hs.keeps.rf (by decide) ..
  have hend : ChanSet [.dmaChChk] ch { d.chan ch with xfer := some { x with stage := .readback, readAt := e.ns } } d
      ((e.setChan ch { e.chan ch with xfer := some { x with stage := .readback, readAt := e.ns } }).count (evE (chanIsl ch) (384 + 4))) := by
    refine ⟨hs.keeps, ?_, hs.ptn, hs.time⟩
    rw [hs.chan]
    exact Dev.chan_setChan_same ..
  have hm1 : ((e.setChan ch { e.chan ch with xfer := some { x with stage := .readback, readAt := e.ns } }).count (evE (chanIsl ch) (384 + 4))).chMode ch 1 1 = 0 :=
    (hm 1 1).trans h1
  have hf : d.finishMove ch p x = (e.setChan ch { e.chan ch with xfer := some { x with stage := .readback, readAt := e.ns } }).count (evE (chanIsl ch) (384 + 4)) := by
    unfold Dev.finishMove
    dsimp only
    rw [he, if_neg (by rw [hm, h14]; decide)]
    exact if_pos hm1
  rw [hf]
  exact ⟨⟨_, hend⟩, hreg⟩

/-- The data of a burst of a moving transfer within the device arrives: it is written, and after the last byte the read-back is awaited. -/
theorem burstArrives_eq {d w : Dev} {ch p : Nat} {x : Xfer} {b : Burst} {bs : List Burst} {data : List Byte} (hx : (d.chan ch).xfer = some x) (hp : d.chanPart ch = some p)
    (hst : x.stage = .moving) (hb : x.bursts = b :: bs) (hdata : d.burstData ch p x b = some (.ok data))
    (hw : (d.endOp (.xferRead ch b.off b.len)).xferWrite ch p (x.dst + b.off) data = .ok w) :
    d.burstArrives ch = if x.written + b.len = x.cnt then (w.burstLands ch p (w.xferNext ch x b bs data) (w.descends ch x) b.len).finishMove ch p (w.xferNext ch x b bs data)
      else w.burstLands ch p (w.xferNext ch x b bs data) (w.descends ch x) b.len := by
  rw [Dev.burstArrives, hx, hp]
  dsimp only
  rw [hst, hb]
  dsimp only
  rw [hdata]
  dsimp only
  rw [hw, Dev.xferNext, hst]
  rfl

section
variable {s : State} (hlive : s.dev.live = true)
include hlive

/-- A channel of no COPY ring: the hand-over alone. -/
theorem handover_of_plain {ch : Fin 1024} {q : Dev → Prop} (ho : (s.dev.handover ch.val).rb .dmaChOwner ch.val 4 = false) (hq : q (s.dev.handover ch.val)) :
    Answers (.handover ch) s q := by
  refine answers_event (c := .handover ch) (rfl : execHandover ch s = _) hlive ?_
  generalize s.dev.handover ch.val = e at *
  dsimp only
  split
  · rw [if_neg (by simp [ho])]
    exact hq
  · exact hq

theorem handover_answers (ch : Fin 1024) (a : Armed) (p : Nat) (d0 : Dev) (ha : (s.dev.chan ch.val).armed = some a) (hp : s.dev.chanPart ch.val = some p)
    (hb : s.dev.chanBusy ch.val = false) (ho : s.dev.rb .dmaChOwner ch.val 4 = false) (hd : d0 = Claims.withSet s.dev ch.val a.shadow) :
    (d0.setBad ch.val p a.shadow = false → Answers (.handover ch) s (fun d => Keeps [.dmaChStat] d0 d ∧ (d.chan ch.val).armed = none ∧
      (d.chan ch.val).xfer = some ⟨a.tid, a.ring, a.errOnly, (d0.reg .dmaChSrc ch.val).toNat, (d0.reg .dmaChDst ch.val).toNat, d0.rf .dmaChCnt ch.val 0 32, 0, 0, [], [], .moving, 0⟩ ∧
      d.rb .dmaChStat ch.val 0 = true ∧ d.rb .dmaChStat ch.val 1 = false ∧ d.rb .dmaChStat ch.val 3 = false ∧ d.rf .dmaChStat ch.val 32 32 = 0)) ∧
    (d0.setBad ch.val p a.shadow = true → d0.rb .dmaChCq ch.val 15 = false → Answers (.handover ch) s (fun d => ∃ (d1 : Dev) (x : Xfer),
      d = d1.xferEvent ch.val x ∧ x.tid = a.tid ∧ Claims.Ended ch.val 4 0 d1 ∧ (d1.chan ch.val).armed = none ∧ Keeps [.dmaChStat, .dmaIslStat] d0 d1)) := by
  have hown : d0.rb .dmaChOwner ch.val 4 = false := by
    rw [hd, Dev.rb, withSet_reg_of_not_mem _ _ _ (by decide), ← Dev.rb, ho]
  have he := handover_taken ha hp hb
  rw [setBad_started, ← hd] at he
  have hs := started_shows d0 ch.val a
  refine ⟨fun hok => ?_, fun hbad hcq => ?_⟩
  · rw [hok] at he
    have he' : s.dev.handover ch.val = d0.takesSet ch.val a := he
    refine handover_of_plain hlive (by rw [he', hs.keeps.rb (by decide), hown]) ?_
    rw [he']
    exact ⟨hs.keeps, congrArg Chan.armed hs.chan, congrArg Chan.xfer hs.chan, hs.busy, hs.armed, hs.ended, hs.done⟩
  · rw [hbad] at he
    have he' : s.dev.handover ch.val = (d0.takesSet ch.val a).endXfer ch.val 0x04 0 := he
    obtain ⟨d1, y, hy, ht, hend⟩ := endXfer_unqueued (congrArg Chan.xfer hs.chan) (by rw [hs.keeps.rb (by decide), hcq]) 0x04 0
    rw [hy] at he'
    refine handover_of_plain hlive ?_ ?_
    · rw [he', Dev.rb, Dev.reg, (keepsAssigned_xferEvent d1 ch.val y).regs, ← Dev.reg, ← Dev.rb, hend.keeps.rb (by decide), hs.keeps.rb (by decide), hown]
    · exact ⟨d1, y, he', ht, hend.ended, hend.armed.trans (congrArg Chan.armed hs.chan), (hs.keeps.mono (by simp)).trans hend.keeps⟩

theorem handover_feeds (ch : Fin 1024) (n sl : Nat) (e : List Byte) (es : List (List Byte)) (ha : (s.dev.chan ch.val).armed = none) (ho : s.dev.rb .dmaChOwner ch.val 4 = true)
    (hn : n = s.dev.rf .dmaChOwner ch.val 5 14) (hsl : s.dev.sqSlice n = some sl) (hk : s.dev.sqKind n = 2) (hc : s.dev.sqChan n = ch.val)
    (hes : (s.dev.sq n).entries = e :: es) : Answers (.handover ch) s (fun d =>
      (d.sq n).entries = es ∧ (d.chan ch.val).armed = some ⟨0, some (n, BitVec.ofNat 16 (leAt e 0 2)), (leAt e 3 1).testBit 1, s.dev.copySet n sl e⟩ ∧
      d.rb .dmaChStat ch.val 1 = true ∧ Keeps [.dmaChStat] s.dev d) := by
  subst hn
  refine answers_event (c := .handover ch) (rfl : execHandover ch s = _) hlive ?_
  rw [handover_idle ha]
  dsimp only
  rw [hsl]
  dsimp only
  rw [if_pos (by rw [ho, hk]; rfl), Dev.copyFeed, hc, hes, ha]
  dsimp only
  refine ⟨?_, ?_, Dev.rb_setRb_same _ _ _ _ _ (by decide), by simp⟩
  · rw [Dev.sq, Dev.setRb_dma]
    exact congrArg SqSt.entries (tabGet_put_same ..)
  · rw [Dev.chan, Dev.setRb_dma]
    exact congrArg Chan.armed (tabGet_put_same ..)

/-! ## Read-backs and errors (R268, R270) -/

theorem readbackReturn_answers (ch : Fin 1024) (x : Xfer) (hx : (s.dev.chan ch.val).xfer = some x) (hst : x.stage = .readback) (hm : s.dev.chMode ch.val 1 1 = 0)
    (hdue : s.dev.ns ≤ x.readAt + 100000) (hq : s.dev.rb .dmaChCq ch.val 15 = false) : Answers (.readbackReturn ch) s (fun d => ∃ (d1 : Dev) (y : Xfer),
      d = d1.xferEvent ch.val y ∧ y.tid = x.tid ∧ Claims.Ended ch.val 0 x.cnt d1 ∧ d1.mem = s.dev.mem ∧ d1.thr = s.dev.thr) := by
  refine answers_event (c := .readbackReturn ch) (rfl : execReadbackReturn ch s = _) hlive ?_
  have he : s.dev.readbackReturn ch.val = s.dev.endXfer ch.val 0 x.cnt := by
    rw [Dev.readbackReturn, hx]
    dsimp only
    rw [if_neg (by rw [hst]; exact fun h => h rfl), if_pos hm, readbackLimit, if_neg (Nat.not_lt.2 hdue)]
  rw [he]
  obtain ⟨d1, y, hy, ht, hend⟩ := endXfer_unqueued hx hq 0 x.cnt
  exact ⟨d1, y, hy, ht, hend.ended, hend.keeps.2.1, hend.keeps.2.2⟩

theorem dmaModeApply_answers (e : Fin 4) (v : W32) (hv : tabFind e.val s.dev.dma.modePend = some v) :
    (s.dev.rf .dmaIslStat e.val 0 12 = 0 → Answers (.dmaModeApply e) s (fun d => d.reg .dmaIslCfg e.val = v.setWidth 64 ∧ d.rb .dmaIslStat e.val 16 = false ∧
      tabFind e.val d.dma.modePend = none ∧ Keeps [.dmaIslCfg, .dmaIslStat] s.dev d)) ∧
    (s.dev.rf .dmaIslStat e.val 0 12 ≠ 0 → Answers (.dmaModeApply e) s (fun d => d = s.dev)) := by
  refine ⟨fun h => answers_event (c := .dmaModeApply e) (rfl : execDmaModeApply e s = _) hlive ?_,
    fun h => answers_event (c := .dmaModeApply e) (rfl : execDmaModeApply e s = _) hlive ?_⟩
  · rw [hv]
    dsimp only
    rw [if_neg (fun hn => hn h)]
    refine ⟨?_, Dev.rb_setRb_same _ _ _ _ _ (by decide), ?_, by simp⟩
    · exact (Dev.reg_setRb_ne _ _ _ (.inl (by decide))).trans (Dev.reg_setReg_same ..)
    · rw [Dev.setRb_dma, Dev.setReg_dma]
      exact tabFind_del_same ..
  · rw [hv]
    exact if_pos h

theorem transferError_answers (ch : Fin 1024) (x : Xfer) (p : Nat) (b : Burst) (bs : List Burst) (st : Byte) (hx : (s.dev.chan ch.val).xfer = some x)
    (hp : s.dev.chanPart ch.val = some p) (hst : x.stage = .moving) (hb : x.bursts = b :: bs) (hm : s.dev.chMode ch.val 0 1 = 0)
    (hc : s.dev.xferCheck ch.val p (x.src + b.off) b.len = some st) (hq : s.dev.rb .dmaChCq ch.val 15 = false) : Answers (.transferError ch) s (fun d =>
      ∃ (d1 : Dev) (y : Xfer), d = d1.xferEvent ch.val y ∧ y.tid = x.tid ∧ d1.mem = s.dev.mem ∧ d1.thr = s.dev.thr ∧
      Claims.Ended ch.val st.toNat (if s.dev.descends ch.val x = true ∧ x.written < x.cnt then 0 else x.written) d1 ∧
      (st = 0x14 → Raises 644 (chanIsl ch.val) (some p) none 0 (BitVec.ofNat 64 (x.src + b.off)) s.dev d1)) := by
  refine answers_event (c := .transferError ch) (rfl : execTransferError ch s = _) hlive ?_
  have hdata : s.dev.burstData ch.val p x b = some (.error st) := by
    rw [Dev.burstData, if_pos hm, hc]
  rw [hx, hp]
  dsimp only
  rw [hst]
  dsimp only
  rw [hb]
  dsimp only
  rw [hdata]
  dsimp only
  have hr := opEnded_endOp s.dev (.xferRead ch.val b.off b.len)
  generalize s.dev.endOp (.xferRead ch.val b.off b.len) = e at *
  obtain ⟨d1, y, hy, ht, hend, hflt⟩ := xferFault_unqueued (d := e) (p := p) (addr := x.src + b.off) (st := st) (by rw [Dev.chan, hr.dma]; exact hx) hst
    (by rw [hr.keeps.rb (by decide), hq])
  have hdesc : bytesDone (e.descends ch.val x) x = if s.dev.descends ch.val x = true ∧ x.written < x.cnt then 0 else x.written := by
    rw [bytesDone, Dev.descends, Dev.chMode, Dev.chMode, hr.keeps.rf (by decide), hr.keeps.rf (by decide), ← Dev.chMode, ← Dev.chMode, ← Dev.descends]
    simp only [Bool.and_eq_true, decide_eq_true_eq]
  rw [hdesc] at hend
  refine ⟨d1, y, hy, ht, hend.keeps.2.1.trans hr.keeps.2.1, hend.keeps.2.2.trans hr.keeps.2.2, hend.ended, fun h => ?_⟩
  have h' := hflt h
  rw [Raises, h', hr.flt, hr.time]

/-! ## The bursts' commands (R255, R256, R264 to R267) -/

theorem burstReadIssue_answers (e : Fin 4) (ch p : Nat) (b : Bool) (x : Xfer) (hpick : s.dev.pickChannel (e.val + 2) = some (ch, p, b)) (hx : (s.dev.chan ch).xfer = some x)
    (hsrc : s.dev.chMode ch 0 1 = 0 ∨ (∃ sl g, s.dev.chanSlice ch p = some (sl, g) ∧ s.dev.sliceState sl ≠ 3 ∧ s.dev.canIssue g.port (p + 1) = true)) :
    Answers (.burstReadIssue e) s (fun d => d.mem = s.dev.mem ∧ d.thr = s.dev.thr ∧
      (d.chan ch).xfer = some { x with issued := x.issued + (s.dev.nextBurst ch x).len, bursts := x.bursts ++ [s.dev.nextBurst ch x] } ∧
      (s.dev.chMode ch 0 1 = 1 → ∃ t r, tabFind t d.host.reqs = some r ∧ r.op = .xferRead ch (s.dev.nextBurst ch x).off (s.dev.nextBurst ch x).len ∧
        r.addr = x.src + (s.dev.nextBurst ch x).off ∧ r.len = (s.dev.nextBurst ch x).len ∧ r.reply = none)) := by
  refine answers_event (c := .burstReadIssue e) (rfl : execBurstReadIssue e s = _) hlive ?_
  rw [hpick]
  dsimp only
  have hs := sendBurst_shows s.dev ch p (chanIsl ch) x (s.dev.nextBurst ch x) b
  by_cases hm : s.dev.chMode ch 0 1 = 1
  · obtain ⟨sl, g, hsl, hst, hcan⟩ : ∃ sl g, s.dev.chanSlice ch p = some (sl, g) ∧ s.dev.sliceState sl ≠ 3 ∧ s.dev.canIssue g.port (p + 1) = true :=
      hsrc.resolve_left (by rw [hm]; decide)
    have he : s.dev.issueBurst ch p b = (s.dev.sendBurst ch p (chanIsl ch) x (s.dev.nextBurst ch x) b).hostRead g.port (p + 1) (some sl)
        (.xferRead ch (s.dev.nextBurst ch x).off (s.dev.nextBurst ch x).len) (x.src + (s.dev.nextBurst ch x).off) (s.dev.nextBurst ch x).len := by
      rw [Dev.issueBurst, hx]
      dsimp only
      rw [if_pos (by rw [hm]; rfl), hsl]
      dsimp only
      rw [if_neg hst, if_neg (by rw [hcan]; decide)]
    rw [he]
    generalize s.dev.sendBurst ch p (chanIsl ch) x (s.dev.nextBurst ch x) b = k at *
    obtain ⟨hdma, hreq⟩ := hostRead_shows k g.port (p + 1) (some sl) (.xferRead ch (s.dev.nextBurst ch x).off (s.dev.nextBurst ch x).len) (x.src + (s.dev.nextBurst ch x).off)
      (s.dev.nextBurst ch x).len
    have hk : Keeps [.hostFnStat, .hostLinkStat, .hostPortStat] k (k.hostRead g.port (p + 1) (some sl)
        (.xferRead ch (s.dev.nextBurst ch x).off (s.dev.nextBurst ch x).len) (x.src + (s.dev.nextBurst ch x).off) (s.dev.nextBurst ch x).len) := by simp
    exact ⟨hk.2.1.trans hs.keeps.2.1, hk.2.2.trans hs.keeps.2.2, by rw [Dev.chan, hdma, ← Dev.chan, hs.chan], fun _ => hreq⟩
  · have he : s.dev.issueBurst ch p b = s.dev.sendBurst ch p (chanIsl ch) x (s.dev.nextBurst ch x) b := by
      have hh : (s.dev.chMode ch 0 1 == 1) = false := beq_false_of_ne hm
      rw [Dev.issueBurst, hx]
      dsimp only
      rw [hh]
      rfl
    rw [he]
    exact ⟨hs.keeps.2.1, hs.keeps.2.2, congrArg Chan.xfer hs.chan, fun h => absurd h hm⟩

theorem burstReadData_answers (ch : Fin 1024) (x : Xfer) (p : Nat) (b : Burst) (bs : List Burst) (data : List Byte) (hx : (s.dev.chan ch.val).xfer = some x)
    (hp : s.dev.chanPart ch.val = some p) (hst : x.stage = .moving) (hb : x.bursts = b :: bs) (hm0 : s.dev.chMode ch.val 0 1 = 0) (hm1 : s.dev.chMode ch.val 1 1 = 0)
    (hm14 : s.dev.chMode ch.val 14 1 = 0) (hc : s.dev.xferCheck ch.val p (x.src + b.off) b.len = none) (hdata : data = s.dev.read (x.src + b.off) b.len)
    (hcd : s.dev.xferCheck ch.val p (x.dst + b.off) b.len = none) : Answers (.burstReadData ch) s (fun d =>
      d.mem = (s.dev.writeDup p (x.dst + b.off) data).mem ∧ d.thr = s.dev.thr ∧ ∃ y, (d.chan ch.val).xfer = some y ∧ y.written = x.written + b.len ∧ y.bursts = bs ∧
        y.stage = (if x.written + b.len = x.cnt then .readback else .moving) ∧
        y.data = (if s.dev.chMode ch.val 12 2 = 0 then [] else if s.dev.descends ch.val x then data ++ x.data else x.data ++ data) ∧
        (x.written + b.len = x.cnt → s.dev.chMode ch.val 12 2 ≠ 0 →
          d.reg .dmaChChk ch.val = streamCheck (s.dev.chMode ch.val 12 2) (s.dev.reg .dmaChSeed ch.val) y.data) ∧
        d.rf .dmaChStat ch.val 32 32 = (if s.dev.descends ch.val x = true ∧ x.written + b.len < x.cnt then 0 else (x.written + b.len) % 2 ^ 32)) := by
  refine answers_event (c := .burstReadData ch) (rfl : execBurstReadData ch s = _) hlive ?_
  have hlen : data.length = b.len := by rw [hdata]; exact List.length_map _ |>.trans List.length_range
  have hr := opEnded_endOp s.dev (.xferRead ch.val b.off b.len)
  have hw : (s.dev.endOp (.xferRead ch.val b.off b.len)).xferWrite ch.val p (x.dst + b.off) data =
      .ok ((s.dev.endOp (.xferRead ch.val b.off b.len)).writeDup p (x.dst + b.off) data) := by
    have hm : (s.dev.endOp (.xferRead ch.val b.off b.len)).chMode ch.val 1 1 = 0 := (hr.keeps.rf (by decide) ..).trans hm1
    rw [Dev.xferWrite, if_pos hm, xferCheck_of_opEnded hr, hlen, hcd]
  rw [burstArrives_eq hx hp hst hb (by rw [Dev.burstData, if_pos hm0, hc, hdata]) hw]
  have hmem := writeDup_mem_of_opEnded hr p (x.dst + b.off) data
  have hom := onlyMem_writeDup (s.dev.endOp (.xferRead ch.val b.off b.len)) p (x.dst + b.off) data
  generalize (s.dev.endOp (.xferRead ch.val b.off b.len)).writeDup p (x.dst + b.off) data = w at *
  generalize s.dev.endOp (.xferRead ch.val b.off b.len) = e at *
  have hreg {r : Reg} (hn : r ∉ [Reg.hostFnStat, .hostLinkStat]) (i : Nat) : w.reg r i = s.dev.reg r i := (hom.reg r i).trans (hr.keeps.reg hn i)
  have hmode (lo width : Nat) : w.chMode ch.val lo width = s.dev.chMode ch.val lo width := by
    rw [Dev.chMode, Dev.rf, hreg (by decide), ← Dev.rf, ← Dev.chMode]
  have hdesc : w.descends ch.val x = s.dev.descends ch.val x := by rw [Dev.descends, hmode, hmode, ← Dev.descends]
  have hnext : w.xferNext ch.val x b bs data = s.dev.xferNext ch.val x b bs data := by rw [Dev.xferNext, hmode, hdesc, ← Dev.xferNext]
  have hthr : w.thr = s.dev.thr := hom.thr.trans hr.keeps.2.2
  rw [hnext, hdesc]
  obtain ⟨hl, hdone⟩ := burstLands_shows w ch.val p (s.dev.xferNext ch.val x b bs data) (s.dev.descends ch.val x) b.len
  have hbytes : bytesDone (s.dev.descends ch.val x) (s.dev.xferNext ch.val x b bs data) % 2 ^ 32 =
      if s.dev.descends ch.val x = true ∧ x.written + b.len < x.cnt then 0 else (x.written + b.len) % 2 ^ 32 := by
    rw [bytesDone, apply_ite (· % 2 ^ 32), Nat.zero_mod]
    unfold Dev.xferNext
    dsimp only
    simp only [Bool.and_eq_true, decide_eq_true_eq]
  rw [hbytes] at hdone
  generalize w.burstLands ch.val p (s.dev.xferNext ch.val x b bs data) (s.dev.descends ch.val x) b.len = l at *
  split
  next hlast =>
    have hlmode (lo width : Nat) : l.chMode ch.val lo width = s.dev.chMode ch.val lo width := (hl.keeps.rf (by decide) ..).trans (hmode lo width)
    obtain ⟨⟨t, hf⟩, hchk⟩ := finishMove_shows p (s.dev.xferNext ch.val x b bs data) ((hlmode 1 1).trans hm1) ((hlmode 14 1).trans hm14)
    rw [hlmode, hl.keeps.reg (by decide), hreg (by decide)] at hchk
    exact ⟨(hf.keeps.2.1.trans hl.keeps.2.1).trans hmem, (hf.keeps.2.2.trans hl.keeps.2.2).trans hthr, _, congrArg Chan.xfer hf.chan, rfl, rfl, rfl, rfl, fun _ h => hchk h,
      (hf.keeps.rf (by decide) ..).trans hdone⟩
  next hmore =>
    exact ⟨hl.keeps.2.1.trans hmem, hl.keeps.2.2.trans hthr, _, congrArg Chan.xfer hl.chan, rfl, rfl, hst, rfl, fun h => absurd h hmore, hdone⟩

end

/-- Settles O36. -/
theorem dmaTransfersMoveTheirBytes : Obligations.DmaTransfersMoveTheirBytes := fun _ hlive =>
  ⟨fun ch a p d0 ha hp hb ho hd => handover_answers hlive ch a p d0 ha hp hb ho hd, withSet_reads, handover_feeds hlive,
    fun e ch p b x hpick _ hx hsrc => burstReadIssue_answers hlive e ch p b x hpick hx hsrc,
    fun ch x p b bs data hx hp hst hb hm0 hm1 hm14 hc hd hcd => burstReadData_answers hlive ch x p b bs data hx hp hst hb hm0 hm1 hm14 hc hd hcd,
    readbackReturn_answers hlive, transferError_answers hlive, dmaModeApply_answers hlive⟩

end Sys2Proof.Machine
end

section
/-! PROOFS. The ends of slice resets, freezes, partition resets and program starts (R326, R331, R332, R338, R339, R341, R377). -/
namespace Sys2Proof.Machine
open Sys2Proof

/-! ## Firmware's commands that no event ends -/

theorem fwFinish_idle {d : Dev} (h : d.fw.running = none) (opcode : Nat) (a : FwAns) : d.fwFinish opcode a = d := by
  rw [Dev.fwFinish, h]

theorem fwFinishAt_idle {d : Dev} (h : d.fw.running = none) (opcode n : Nat) (a : FwAns) : d.fwFinishAt opcode n a = d := by
  rw [Dev.fwFinishAt, h]

/-- A running command with no forward and no owner answers. -/
theorem fwFinish_responds {d : Dev} {opcode : Nat} {h : CmdHdr} (hr : d.fw.running = some (opcode, h)) (hf : d.fw.forward = none) (ho : d.fw.owned = none) (a : FwAns) :
    d.fwFinish opcode a = d.fwRespond opcode h a false := by
  rw [Dev.fwFinish, hr]
  dsimp only
  rw [if_pos (by rw [hf]; simp), Dev.fwEnd, ho]

/-! ## Slice reset and freeze (R338, R339, R341) -/

/-- A step on rings and registers alone. -/
structure RingStep (a b : Dev) : Prop where
  mem : b.mem = a.mem
  thr : b.thr = a.thr
  ptn : b.ptn = a.ptn
  fw : b.fw = a.fw
  time : b.time = a.time

theorem RingStep.refl (d : Dev) : RingStep d d := ⟨rfl, rfl, rfl, rfl, rfl⟩

theorem RingStep.trans {a b c : Dev} (h : RingStep a b) (h' : RingStep b c) : RingStep a c :=
  ⟨h'.mem.trans h.mem, h'.thr.trans h.thr, h'.ptn.trans h.ptn, h'.fw.trans h.fw, h'.time.trans h.time⟩

theorem ringStep_resetWhere (d : Dev) (rs : List Reg) (p : Reg → Nat → Bool) : RingStep d (d.resetWhere rs p) := ⟨rfl, rfl, rfl, rfl, rfl⟩

theorem ringStep_foldl {β : Type} {f : Dev → β → Dev} (h : ∀ d b, RingStep d (f d b)) (l : List β) (d : Dev) : RingStep d (l.foldl f d) :=
  foldl_related RingStep.refl RingStep.trans h l d

theorem regs_foldl {β : Type} {f : Dev → β → Dev} (h : ∀ d b, (f d b).regs = d.regs) (l : List β) (d : Dev) : (l.foldl f d).regs = d.regs :=
  foldl_related (R := fun a b : Dev => b.regs = a.regs) (fun _ => rfl) (fun {_ _ _} h h' => h'.trans h) h l d

/-- The registers of a slice's rings and of the slice, reset. -/
def Dev.sliceRegsReset (d : Dev) (n : Nat) : Dev :=
  ((d.resetWhere sqRegs (fun _ i => (d.sqsOf n).contains i)).resetWhere cqRegs (fun _ i => (d.cqsOf n).contains i)).resetWhere sliceRegs (fun _ i => i == n)

theorem resetSliceRegs_rest (d : Dev) (n : Nat) : RingStep d (d.resetSliceRegs n) ∧ (d.resetSliceRegs n).regs = (d.sliceRegsReset n).regs := by
  have h := ((ringStep_resetWhere d sqRegs (fun _ i => (d.sqsOf n).contains i)).trans (ringStep_resetWhere _ cqRegs (fun _ i => (d.cqsOf n).contains i))).trans
    (ringStep_resetWhere _ sliceRegs (fun _ i => i == n))
  have hc (e : Dev) : RingStep e ((d.cqsOf n).foldl (fun d k => d.setCq k {}) e) ∧ ((d.cqsOf n).foldl (fun d k => d.setCq k {}) e).regs = e.regs :=
    ⟨ringStep_foldl (f := fun d k => d.setCq k {}) (fun _ _ => ⟨rfl, rfl, rfl, rfl, rfl⟩) _ _, regs_foldl (f := fun d k => d.setCq k {}) (fun _ _ => rfl) _ _⟩
  have hs (e : Dev) : RingStep e ((d.sqsOf n).foldl (fun d k => d.setSq k {}) e) ∧ ((d.sqsOf n).foldl (fun d k => d.setSq k {}) e).regs = e.regs :=
    ⟨ringStep_foldl (f := fun d k => d.setSq k {}) (fun _ _ => ⟨rfl, rfl, rfl, rfl, rfl⟩) _ _, regs_foldl (f := fun d k => d.setSq k {}) (fun _ _ => rfl) _ _⟩
  exact ⟨(h.trans (hc _).1).trans (hs _).1, (hs _).2.trans (hc _).2⟩

section
variable (d : Dev) (n : Nat)

theorem resetSliceRegs_reg (r : Reg) (i : Nat) : (d.resetSliceRegs n).reg r i = (d.sliceRegsReset n).reg r i := by
  rw [Dev.reg, (resetSliceRegs_rest d n).2, ← Dev.reg]

/-- The rings of a slice that is being reset are off. -/
theorem resetSliceRegs_sqOff {k : Nat} (hk : k ∈ d.sqsOf n) : (d.resetSliceRegs n).rb .ringSqCfg k 0 = false := by
  rw [Dev.rb, resetSliceRegs_reg, Dev.sliceRegsReset, Dev.reg_resetWhere, if_neg (fun h => absurd h.1 (by decide)), Dev.reg_resetWhere,
    if_neg (fun h => absurd h.1 (by decide)), Dev.reg_resetWhere, if_pos ⟨by decide, by simpa using hk⟩, show Reg.ringSqCfg.resetAt k = 8 from rfl]
  decide

theorem resetSliceRegs_cqOff {k : Nat} (hk : k ∈ d.cqsOf n) : (d.resetSliceRegs n).rb .ringCqCfg k 0 = false := by
  rw [Dev.rb, resetSliceRegs_reg, Dev.sliceRegsReset, Dev.reg_resetWhere, if_neg (fun h => absurd h.1 (by decide)), Dev.reg_resetWhere,
    if_pos ⟨by decide, by simpa using hk⟩, show Reg.ringCqCfg.resetAt k = 8 from rfl]
  decide

theorem resetSliceRegs_stat : (d.resetSliceRegs n).reg .ringSliceStat n = 0 := by
  rw [resetSliceRegs_reg, Dev.sliceRegsReset, Dev.reg_resetWhere, if_pos ⟨by decide, beq_self_eq_true n⟩]
  rfl

end

theorem setSliceState_state (d : Dev) (n : Nat) {st : Nat} (h : st < 8) : (d.setSliceState n st).sliceState n = st :=
  Dev.rf_setRf_of_lt d (by decide) h

theorem ringStep_setReg (d : Dev) (r : Reg) (i : Nat) (v : Word) : RingStep d (d.setReg r i v) :=
  ⟨Dev.setReg_mem .., Dev.setReg_thr .., Dev.setReg_ptn .., Dev.setReg_fw .., Dev.setReg_time ..⟩

theorem slc_setSlice_same (d : Dev) (n : Nat) (x : Slice) : (d.setSlice n x).slc n = x := tabGet_put_same ..

/-- A slice whose reset has ended, with no command that waits for it. -/
def Dev.sliceReady (d : Dev) (n : Nat) : Dev := ((d.resetSliceRegs n).setReg .slcRstTime n (BitVec.ofNat 64 (d.ticksSince (d.slc n).began))).setSliceState n 1

/-- What such a slice shows, and what its reset's end leaves. -/
structure SliceReady (n : Nat) (d e : Dev) : Prop where
  step : RingStep d e
  state : e.sliceState n = 1
  time : (e.reg .slcRstTime n).toNat = min (d.time.tick - (d.slc n).began) (2 ^ 32 - 1)
  sqOff : ∀ k ∈ d.sqsOf n, e.rb .ringSqCfg k 0 = false
  cqOff : ∀ k ∈ d.cqsOf n, e.rb .ringCqCfg k 0 = false
  stat : e.reg .ringSliceStat n = 0

theorem ticksSince_eq (d : Dev) (t : Nat) : d.ticksSince t = min (d.time.tick - t) (2 ^ 32 - 1) := nat_min_eq _ _

theorem ticksSince_lt (d : Dev) (t : Nat) : d.ticksSince t < 2 ^ 64 := by
  rw [ticksSince_eq]
  exact Nat.lt_of_le_of_lt (Nat.min_le_right _ _) (by decide)

theorem sliceReady_shows (d : Dev) (n : Nat) : SliceReady n d (d.sliceReady n) := by
  obtain ⟨hr, -⟩ := resetSliceRegs_rest d n
  have hs (k : Nat) (hk : k ∈ d.sqsOf n) := resetSliceRegs_sqOff d n hk
  have hc (k : Nat) (hk : k ∈ d.cqsOf n) := resetSliceRegs_cqOff d n hk
  have hst := resetSliceRegs_stat d n
  unfold Dev.sliceReady
  generalize d.resetSliceRegs n = e at *
  have ht := ticksSince_lt d (d.slc n).began
  have hte := ticksSince_eq d (d.slc n).began
  generalize d.ticksSince (d.slc n).began = t at *
  have hk : Keeps [.slcRstTime, .slcState] e ((e.setReg .slcRstTime n (BitVec.ofNat 64 t)).setSliceState n 1) := by simp [Dev.setSliceState]
  refine ⟨(hr.trans (ringStep_setReg _ _ _ _)).trans (ringStep_setReg _ _ _ _), setSliceState_state _ _ (by decide), ?_, fun k h => ?_, fun k h => ?_, ?_⟩
  · rw [Dev.setSliceState, Dev.reg_setRf_ne _ _ _ _ (.inl (by decide)), Dev.reg_setReg_same, BitVec.toNat_ofNat, Nat.mod_eq_of_lt ht, hte]
  · rw [hk.rb (by decide), hs k h]
  · rw [hk.rb (by decide), hc k h]
  · rw [hk.reg (by decide), hst]

theorem sliceResetFinish_plain {d : Dev} {n : Nat} (hd : (d.slc n).destroy = false) (hw : (d.slc n).waiting = none) (hf : d.fw.running = none) :
    d.sliceResetFinish n = (d.sliceReady n).setSlice n { (d.sliceReady n).slc n with waiting := none, discarded := 0 } := by
  have hstep := (sliceReady_shows d n).step
  unfold Dev.sliceResetFinish
  dsimp only
  rw [hd, hw]
  exact fwFinishAt_idle (d := (d.sliceReady n).setSlice n { (d.sliceReady n).slc n with waiting := none, discarded := 0 }) ((congrArg Fw.running hstep.fw).trans hf) _ _ _

/-- What is in flight for a slice does not depend on a slice's state. -/
theorem sliceFlight_setSliceState (d : Dev) (n m st : Nat) : (d.setSliceState n st).sliceFlight m = d.sliceFlight m := by
  have hk (q : Nat) : (d.setSliceState n st).sqKind q = d.sqKind q := Dev.rf_setRf_other _ _ _ _ _ _ (.inl (by decide))
  have hs : (d.setSliceState n st).sqsOf m = d.sqsOf m ∧ (d.setSliceState n st).cqsOf m = d.cqsOf m ∧ (d.setSliceState n st).sliceNums m 6 = d.sliceNums m 6 := by
    simp only [Dev.sqsOf, Dev.cqsOf, Dev.sliceNums, Dev.slc, Dev.setSliceState, Dev.setRf_ptn, and_self]
  have hd : (d.setSliceState n st).dma = d.dma ∧ (d.setSliceState n st).host = d.host := ⟨Dev.setRf_dma .., Dev.setRf_host ..⟩
  simp only [Dev.sliceFlight, hs.1, hs.2.1, hs.2.2, Dev.sq, Dev.chan, hk, hd.1, hd.2]

section
variable {s : State} (hlive : s.dev.live = true) (sl : Fin 4096)
include hlive

theorem sliceResetEnd_answers :
    (s.dev.sliceState sl.val ≠ 3 ∨ s.dev.sliceTags sl.val = true → Answers (.sliceResetEnd sl) s (fun d => d = s.dev)) ∧
    (s.dev.sliceState sl.val = 3 → s.dev.sliceTags sl.val = false → (s.dev.slc sl.val).destroy = false → (s.dev.slc sl.val).waiting = none → s.dev.fw.running = none →
      Answers (.sliceResetEnd sl) s (fun d => d.sliceState sl.val = 1 ∧ (d.slc sl.val).grant = (s.dev.slc sl.val).grant ∧
        (d.reg .slcRstTime sl.val).toNat = min (s.dev.time.tick - (s.dev.slc sl.val).began) (2 ^ 32 - 1) ∧ (∀ n ∈ s.dev.sqsOf sl.val, d.rb .ringSqCfg n 0 = false) ∧
        (∀ n ∈ s.dev.cqsOf sl.val, d.rb .ringCqCfg n 0 = false) ∧ d.reg .ringSliceStat sl.val = 0 ∧ d.mem = s.dev.mem ∧ d.thr = s.dev.thr)) := by
  refine ⟨fun h => answers_event (c := .sliceResetEnd sl) (rfl : execSliceResetEnd sl s = _) hlive ?_,
    fun h3 ht hd hw hf => answers_event (c := .sliceResetEnd sl) (rfl : execSliceResetEnd sl s = _) hlive ?_⟩
  · exact if_neg (by simpa [imp_iff_not_or] using h)
  · rw [if_pos (by simp [h3, ht]), sliceResetFinish_plain hd hw hf]
    have hr := sliceReady_shows s.dev sl.val
    have hslc : (s.dev.sliceReady sl.val).slc sl.val = s.dev.slc sl.val := congrArg (fun p : Ptn => tabGet p.slices ({} : Slice) sl.val) hr.step.ptn
    generalize s.dev.sliceReady sl.val = e at *
    have hg : (e.slc sl.val).grant = (s.dev.slc sl.val).grant := congrArg Slice.grant hslc
    exact ⟨hr.state, (congrArg Slice.grant (slc_setSlice_same ..)).trans hg, hr.time, hr.sqOff, hr.cqOff, hr.stat, hr.step.mem, hr.step.thr⟩

theorem freezeComplete_answers :
    (s.dev.sliceState sl.val = 4 → s.dev.sliceFlight sl.val = 0 → s.dev.fw.running = none → Answers (.freezeComplete sl) s (fun d =>
      d.sliceState sl.val = 5 ∧ d.reg .slcFrzStat sl.val = 1 ∧ Keeps [.slcState, .slcFrzStat] s.dev d)) ∧
    (s.dev.sliceState sl.val ≠ 4 ∨ s.dev.sliceFlight sl.val ≠ 0 → Answers (.freezeComplete sl) s (fun d => d = s.dev)) := by
  refine ⟨fun h4 h0 hf => answers_event (c := .freezeComplete sl) (rfl : execFreezeComplete sl s = _) hlive ?_,
    fun h => answers_event (c := .freezeComplete sl) (rfl : execFreezeComplete sl s = _) hlive ?_⟩
  · rw [if_pos (by simp [h4, h0])]
    have hflight : (s.dev.setSliceState sl.val 5).sliceFlight sl.val = 0 := by rw [sliceFlight_setSliceState, h0]
    have hst := setSliceState_state s.dev sl.val (st := 5) (by decide)
    have hk : Keeps [.slcState] s.dev (s.dev.setSliceState sl.val 5) := by simp [Dev.setSliceState]
    have hfw : (s.dev.setSliceState sl.val 5).fw.running = none := by rw [Dev.setSliceState, Dev.setRf_fw, hf]
    generalize s.dev.setSliceState sl.val 5 = e at *
    rw [fwFinishAt_idle (by rw [Dev.frzStat, Dev.setReg_fw, hfw]), Dev.frzStat, hflight]
    refine ⟨?_, Dev.reg_setReg_same .., (hk.mono (by simp)).trans (by simp)⟩
    rw [Dev.sliceState, Dev.rf_setReg_other _ _ _ _ (.inl (by decide)), ← Dev.sliceState, hst]
  · exact if_neg (by simpa [imp_iff_not_or] using h)

theorem freezeTimeout_answers (h : CmdHdr) (hr : s.dev.fw.running = some (0x33, h)) (ha : h.arg0.toNat = sl.val) (ho : s.dev.fw.owned = none) (hf : s.dev.fw.forward = none)
    (hdue : (s.dev.slc sl.val).began + ctvTicks (s.dev.fn (s.dev.slicePort sl.val) (s.dev.sliceFn sl.val)).ctv + 250000 ≤ s.dev.time.tick) :
    Answers (.freezeTimeout sl) s (fun d => ∃ d1 : Dev, d = d1.fwRespond 0x33 h { status := 7, r0 := BitVec.ofNat 64 (s.dev.sliceFlight sl.val) } false ∧
      Keeps [.slcFrzStat] s.dev d1 ∧ d1.fw = s.dev.fw) := by
  refine answers_event (c := .freezeTimeout sl) (rfl : execFreezeTimeout sl s = _) hlive ?_
  have hfw : (s.dev.frzStat sl.val).fw = s.dev.fw := by rw [Dev.frzStat, Dev.setReg_fw]
  have hk : Keeps [.slcFrzStat] s.dev (s.dev.frzStat sl.val) := by simp [Dev.frzStat]
  dsimp only
  rw [if_pos (by simp [Dev.freezing, hr, ha, hdue])]
  generalize s.dev.frzStat sl.val = e at *
  exact ⟨e, fwFinish_responds (by rw [hfw, hr]) (by rw [hfw, hf]) (by rw [hfw, ho]) _, hk, hfw⟩

end

/-! ## Partition resets and program starts (R332, R377) -/

theorem facesOf_of_hidden {d : Dev} (h : FacesHidden d) (p : Nat) : d.facesOf p = d :=
  foldl_stays fun m hm => by rw [Dev.faceShow, h m (List.mem_of_mem_filter hm)]

/-- A partition that is ACTIVE again after its reset. -/
structure PartReady (p : Nat) (t : Nat) (d e : Dev) : Prop where
  state : e.partState p = 1
  part : e.part p = { d.part p with job := none }
  time : (e.reg .ptnRstTime p).toNat = t
  recovering : e.flt.recovering = false
  keeps : Keeps [.ptnRstTime, .ptnState, .fltStat] d e
  mbxs : e.ptn.mbxs = d.ptn.mbxs
  fw : e.fw = d.fw

/-- The reset's end before the partition's faces follow. -/
def Dev.partBack (d : Dev) (p n : Nat) : Dev :=
  let d := d.setReg .ptnRstTime p (BitVec.ofNat 64 n)
  let d := { d with flt := { d.flt with recovering := false } }.setPhase
  (d.setPart p { d.part p with job := none }).setRf .ptnState p 0 3 1

theorem partReady_shows (d : Dev) (p : Nat) {n : Nat} (hn : n < 2 ^ 64) : PartReady p n d (d.partBack p n) := by
  have hk : Keeps [.ptnRstTime] d (d.setReg .ptnRstTime p (BitVec.ofNat 64 n)) := by simp
  have ht : ((d.setReg .ptnRstTime p (BitVec.ofNat 64 n)).reg .ptnRstTime p).toNat = n := by rw [Dev.reg_setReg_same, BitVec.toNat_ofNat, Nat.mod_eq_of_lt hn]
  have hp : (d.setReg .ptnRstTime p (BitVec.ofNat 64 n)).ptn = d.ptn ∧ (d.setReg .ptnRstTime p (BitVec.ofNat 64 n)).fw = d.fw := ⟨Dev.setReg_ptn .., Dev.setReg_fw ..⟩
  unfold Dev.partBack
  dsimp only
  generalize d.setReg .ptnRstTime p (BitVec.ofNat 64 n) = e at *
  have hk2 : Keeps [.fltStat] e ({ e with flt := { e.flt with recovering := false } } : Dev).setPhase := by simp [Dev.setPhase]
  have hr2 : ({ e with flt := { e.flt with recovering := false } } : Dev).setPhase.flt.recovering = false ∧ ({ e with flt := { e.flt with recovering := false } } : Dev).setPhase.ptn = e.ptn ∧
      ({ e with flt := { e.flt with recovering := false } } : Dev).setPhase.fw = e.fw :=
    ⟨by rw [Dev.setPhase, Dev.setRf_flt], by rw [Dev.setPhase, Dev.setRf_ptn], by rw [Dev.setPhase, Dev.setRf_fw]⟩
  generalize ({ e with flt := { e.flt with recovering := false } } : Dev).setPhase = g at *
  obtain ⟨hrec, hptn, hfw⟩ := hr2
  have hpart : g.part p = d.part p := by rw [Dev.part, hptn, hp.1, ← Dev.part]
  refine ⟨Dev.rf_setRf_of_lt _ (by decide) (by decide), ?_, ?_, ?_, ?_, ?_, ?_⟩
  · rw [Dev.part, Dev.setRf_ptn, ← Dev.part, Dev.part_setPart_same, hpart]
  · rw [Dev.reg_setRf_ne _ _ _ _ (.inl (by decide))]
    exact (congrArg BitVec.toNat (hk2.reg (by decide) p)).trans ht
  · rw [Dev.setRf_flt]
    exact hrec
  · exact ((hk.mono (by simp)).trans (hk2.mono (by simp))).trans (by simp)
  · rw [Dev.setRf_ptn]
    exact (congrArg Ptn.mbxs (hptn.trans hp.1) : g.ptn.mbxs = d.ptn.mbxs)
  · rw [Dev.setRf_fw]
    exact hfw.trans hp.2

theorem facesHidden_of_partReady {d e : Dev} {p n : Nat} (h : PartReady p n d e) (hf : FacesHidden d) : FacesHidden e := by
  intro m hm
  have hl : e.mbxList = d.mbxList := by simp only [Dev.mbxList, Dev.mbxValid, h.mbxs, h.keeps.rb (r := .mbxCfg) (by decide)]
  rw [faceAddr_of_keeps h.keeps (by decide) (by decide), hf m (hl ▸ hm)]

section
variable {s : State} (hlive : s.dev.live = true) (p : Fin 8)
include hlive

theorem partResetEnd_answers (j : PartJob) (hj : (s.dev.part p.val).job = some j) :
    (∀ n ∈ s.dev.slicesOf p.val, s.dev.sliceState n = 3 → Answers (.partResetEnd p) s (fun d => d = s.dev)) ∧
    ((∀ n ∈ s.dev.slicesOf p.val, s.dev.sliceState n ≠ 3) → j.destroy = false → s.dev.fw.running = none → (∀ m ∈ s.dev.mbxList, s.dev.faceAddr m = none) →
      Answers (.partResetEnd p) s (fun d => d.partState p.val = 1 ∧ (d.part p.val).job = none ∧ (d.part p.val).grant = (s.dev.part p.val).grant ∧
        (d.reg .ptnRstTime p.val).toNat = min (s.dev.time.tick - j.began) (2 ^ 32 - 1) ∧ d.flt.recovering = false ∧ Keeps [.ptnRstTime, .ptnState, .fltStat] s.dev d)) := by
  refine ⟨fun n hn h3 => answers_event (c := .partResetEnd p) (rfl : execPartResetEnd p s = _) hlive ?_,
    fun hn hd hf hfaces => answers_event (c := .partResetEnd p) (rfl : execPartResetEnd p s = _) hlive ?_⟩
  · rw [hj]
    exact if_pos (List.any_eq_true.2 ⟨n, hn, by rw [h3]; rfl⟩)
  · have hready := partReady_shows s.dev p.val (ticksSince_lt s.dev j.began)
    have he : s.dev.partResetFinish p.val j = s.dev.partBack p.val (s.dev.ticksSince j.began) := by
      unfold Dev.partResetFinish
      dsimp only
      rw [hd]
      change ((s.dev.partBack p.val (s.dev.ticksSince j.began)).facesOf p.val).fwFinish 0x22 _ = _
      rw [facesOf_of_hidden (facesHidden_of_partReady hready hfaces), fwFinish_idle (by rw [hready.fw, hf])]
    rw [hj]
    dsimp only
    rw [if_neg (by simpa using hn), he]
    exact ⟨hready.state, by rw [hready.part], by rw [hready.part], hready.time.trans (ticksSince_eq _ _), hready.recovering, hready.keeps⟩

end

/-- An entry thread at its start (R91, R94). -/
def Dev.entryStarts (d : Dev) (e : Nat × Nat) : Dev := d.updThread e.1 (fun x => { st := .running, pc := e.2, nextId := x.nextId, assigned := x.assigned })

theorem entryStarts_ne (d : Dev) {e : Nat × Nat} {u : Nat} (h : e.1 ≠ u) : (d.entryStarts e).thread u = d.thread u := d.thread_updThread_ne _ h.symm

theorem foldl_entryStarts_other (es : List (Nat × Nat)) (u : Nat) (hu : ∀ e ∈ es, e.1 ≠ u) (d : Dev) : (es.foldl Dev.entryStarts d).thread u = d.thread u := by
  induction es generalizing d with
  | nil => rfl
  | cons e es ih =>
    rw [List.foldl_cons, ih (fun x hx => hu x (List.mem_cons_of_mem _ hx)), entryStarts_ne d (hu e List.mem_cons_self)]

theorem foldl_entryStarts_entry (es : List (Nat × Nat)) (hn : es.Pairwise (fun x y => x.1 ≠ y.1)) (d : Dev) : ∀ e ∈ es, (es.foldl Dev.entryStarts d).thread e.1 =
    { st := .running, pc := e.2, nextId := (d.thread e.1).nextId, assigned := (d.thread e.1).assigned } := by
  induction es generalizing d with
  | nil => exact fun _ h => absurd h List.not_mem_nil
  | cons x xs ih =>
    obtain ⟨hx, hxs⟩ := List.pairwise_cons.1 hn
    intro e he
    rw [List.foldl_cons]
    rcases List.mem_cons.1 he with rfl | he
    · rw [foldl_entryStarts_other xs e.1 (fun y hy => (hx y hy).symm)]
      exact Dev.thread_updThread_same ..
    · rw [ih hxs _ e he, entryStarts_ne d (hx e he)]

theorem foldl_entryStarts_rest (es : List (Nat × Nat)) (d : Dev) : (es.foldl Dev.entryStarts d).regs = d.regs ∧ (es.foldl Dev.entryStarts d).mem = d.mem ∧
    (es.foldl Dev.entryStarts d).ptn = d.ptn :=
  foldl_related (f := Dev.entryStarts) (R := fun a b : Dev => b.regs = a.regs ∧ b.mem = a.mem ∧ b.ptn = a.ptn) (fun _ => ⟨rfl, rfl, rfl⟩)
    (fun {_ _ _} h h' => ⟨h'.1.trans h.1, h'.2.1.trans h.2.1, h'.2.2.trans h.2.2⟩) (fun _ _ => ⟨rfl, rfl, rfl⟩) es d

theorem release_simplex {d : Dev} {p : Nat} {g : Prog} (hg : (d.part p).prog = some g) (hs : d.inDuplex p = false) :
    d.release p = g.entries.foldl Dev.entryStarts (d.setPart p { d.part p with startAt := none, quietSince := none, quietRaised := false }) := by
  have hfold : ∀ (es : List (Nat × Nat)) (e : Dev), e.inDuplex p = false → es.foldl (fun d e =>
      (if d.inDuplex p && !d.dpxExternal p then [e.1, peerTid e.1] else [e.1]).foldl
        (fun d t => d.updThread t (fun x => { st := .running, pc := e.2, nextId := x.nextId, assigned := x.assigned })) d) e = es.foldl Dev.entryStarts e := by
    intro es
    induction es with
    | nil => exact fun _ _ => rfl
    | cons x xs ih =>
      intro e he
      rw [List.foldl_cons, List.foldl_cons, if_neg (by rw [he]; exact Bool.false_ne_true)]
      exact ih _ he
  have hend : (g.entries.foldl Dev.entryStarts (d.setPart p { d.part p with startAt := none, quietSince := none, quietRaised := false })).inDuplex p = false := by
    rw [Dev.inDuplex, Dev.rb, Dev.reg, (foldl_entryStarts_rest _ _).1]
    exact hs
  rw [Dev.release, hg]
  dsimp only
  rw [hfold g.entries (d.setPart p { d.part p with startAt := none, quietSince := none, quietRaised := false }) hs, Dev.dpxStart, hend]
  rfl

theorem progStartRelease_answers {s : State} (hlive : s.dev.live = true) (p : Fin 8) (t : Nat) (ht : (s.dev.part p.val).startAt = some t) :
    (s.dev.ns < t → Answers (.progStartRelease p) s (fun d => d = s.dev)) ∧
    (∀ g, t ≤ s.dev.ns → s.dev.partState p.val = 1 → (s.dev.part p.val).prog = some g → s.dev.inDuplex p.val = false → g.entries.Pairwise (fun x y => x.1 ≠ y.1) →
      Answers (.progStartRelease p) s (fun d => (d.part p.val).startAt = none ∧
        (∀ e ∈ g.entries, d.thread e.1 = { st := .running, pc := e.2, nextId := (s.dev.thread e.1).nextId, assigned := (s.dev.thread e.1).assigned }) ∧
        (∀ u, (∀ e ∈ g.entries, e.1 ≠ u) → d.thread u = s.dev.thread u) ∧ d.regs = s.dev.regs ∧ d.mem = s.dev.mem)) := by
  refine ⟨fun h => answers_event (c := .progStartRelease p) (rfl : execProgStartRelease p s = _) hlive ?_,
    fun g h h1 hg hs hn => answers_event (c := .progStartRelease p) (rfl : execProgStartRelease p s = _) hlive ?_⟩
  · rw [ht]
    exact if_neg (by simp [h])
  · rw [ht]
    dsimp only
    rw [if_pos (by simp [h, h1]), release_simplex hg hs]
    obtain ⟨hr, hm, hp⟩ := foldl_entryStarts_rest g.entries (s.dev.setPart p.val { s.dev.part p.val with startAt := none, quietSince := none, quietRaised := false })
    refine ⟨?_, foldl_entryStarts_entry g.entries hn _, fun u hu => foldl_entryStarts_other g.entries u hu _, hr, hm⟩
    rw [Dev.part, hp]
    exact congrArg Part.startAt (Dev.part_setPart_same ..)

/-- Settles O44. -/
theorem resetsFreezesAndStartsEnd : Obligations.ResetsFreezesAndStartsEnd := fun _ hlive =>
  ⟨fun sl =>
      have hr := sliceResetEnd_answers hlive sl
      have hf := freezeComplete_answers hlive sl
      ⟨hr.1, hr.2, hf.1, hf.2, freezeTimeout_answers hlive sl⟩,
    partResetEnd_answers hlive, progStartRelease_answers hlive⟩

end Sys2Proof.Machine
end

section
/-! PROOFS. Wenot commands: taken by firmware, checked, answered, and forwarded to a partner (R361 to R363, R367, R420, R425). -/
namespace Sys2Proof.Machine
open Sys2Proof

/-! ## What firmware writes to the host (R361, R362) -/

/-- Firmware has sent events out; nothing else that a response depends on has moved. -/
structure Sent (os : List OutEv) (d e : Dev) : Prop where
  keeps : Keeps [.hostPortStat] d e
  outs : e.outs = os ++ d.outs
  ptn : e.ptn = d.ptn
  flt : e.flt = d.flt
  fw : e.fw = d.fw
  time : e.time = d.time
  linkUp : ∀ h, e.linkUp h = d.linkUp h
  host : e.host = d.host

theorem Sent.refl (d : Dev) : Sent [] d d := ⟨Keeps.refl _ _, rfl, rfl, rfl, rfl, rfl, fun _ => rfl, rfl⟩

theorem Sent.trans {os os' : List OutEv} {a b c : Dev} (h : Sent os a b) (h' : Sent os' b c) : Sent (os' ++ os) a c :=
  ⟨h.keeps.trans h'.keeps, by rw [h'.outs, h.outs, List.append_assoc], h'.ptn.trans h.ptn, h'.flt.trans h.flt, h'.fw.trans h.fw, h'.time.trans h.time,
    fun x => (h'.linkUp x).trans (h.linkUp x), h'.host.trans h.host⟩

theorem wakeLink_linkUp (d : Dev) (h k : Nat) : (d.wakeLink h).linkUp k = d.linkUp k := by
  unfold Dev.wakeLink
  split
  · by_cases hk : k = h
    · subst hk; exact Dev.rb_setRb_ne _ _ _ _ _ _ (by decide)
    · exact Dev.rb_setRb_other _ _ _ _ (.inr hk)
  · rfl

theorem sent_emit (d : Dev) (o : OutEv) : Sent [o] d (d.emit o) := ⟨by simp, rfl, rfl, rfl, rfl, rfl, fun _ => rfl, rfl⟩

theorem sent_count (d : Dev) (e : Nat) : Sent [] d (d.count e) := ⟨by simp, rfl, rfl, rfl, rfl, rfl, fun _ => rfl, rfl⟩

theorem sent_countBy (d : Dev) (e n : Nat) : Sent [] d (d.countBy e n) := ⟨by simp, rfl, rfl, rfl, rfl, rfl, fun _ => rfl, rfl⟩

theorem sent_wakeLink (d : Dev) (h : Nat) : Sent [] d (d.wakeLink h) :=
  have hw := linkWoken_wakeLink d h
  ⟨hw.keeps, hw.outs, hw.ptn, hw.flt, hw.fw, hw.time, wakeLink_linkUp d h, hw.host⟩

theorem sent_hostWrite (d : Dev) (h : Nat) (pasid : Word) (addr : Nat) (bs : List Byte) : Sent [.hostWrite h 0 pasid addr bs] d (d.hostWrite h 0 pasid addr bs) := by
  rw [Dev.hostWrite, if_neg (by simp)]
  exact (((sent_emit d _).trans (sent_count _ _)).trans (sent_countBy _ _ _)).trans (sent_wakeLink _ _)

theorem rxDown_one_of_keeps {rs : List Reg} {d e : Dev} (h : Keeps rs d e) (h1 : .hostLinkCfg ∉ rs) (h2 : .slcState ∉ rs) (h3 : .hostFnStat ∉ rs)
    (hl : ∀ x, e.linkUp x = d.linkUp x) : e.rxDown 1 = d.rxDown 1 := by
  have hp : e.mgmtPort = d.mgmtPort := h.rf h1 ..
  have hs : e.sliceState 0 = d.sliceState 0 := h.rf h2 ..
  have hd : e.d3 d.mgmtPort 0 = d.d3 d.mgmtPort 0 := by
    unfold Dev.d3
    rw [h.rf h3]
  show ((!e.linkUp e.mgmtPort || e.d3 e.mgmtPort 0) || (1 == 3 && e.sliceState 0 == 3)) = ((!d.linkUp d.mgmtPort || d.d3 d.mgmtPort 0) || (1 == 3 && d.sliceState 0 == 3))
  rw [hp, hl, hd, hs]

theorem rxDown_one_of_sent {os : List OutEv} {d e : Dev} (h : Sent os d e) : e.rxDown 1 = d.rxDown 1 :=
  rxDown_one_of_keeps h.keeps (by decide) (by decide) (by decide) h.linkUp

/-! ## Posting (R362) -/

theorem fwPost_busy {d : Dev} (h : Claims.Busy1 d) (ptr : Word) (len : W32) : d.fwPost ptr len = { d with fw := { d.fw with posting := some (ptr, len) } } := by
  rw [Dev.fwPost, if_neg (by simp [h.1]), if_pos h.2]

theorem busy1_of_sent {os : List OutEv} {d e : Dev} (h : Sent os d e) (hb : Claims.Busy1 d) : Claims.Busy1 e :=
  ⟨(rxDown_one_of_sent h).trans hb.1, (h.keeps.rb (by decide) ..).trans hb.2⟩

/-- Firmware after the answer it has in hand is given. -/
def Dev.answered (d : Dev) : Dev := { d with fw := { d.fw with running := none, mute := false, owned := none, guest := 0, forward := none } }

/-- The output of a response, where the command has one. -/
def outputOuts (d : Dev) (h : CmdHdr) (a : FwAns) : List OutEv :=
  if a.out.isEmpty ∨ h.out = 0 then [] else [.hostWrite d.mgmtPort 0 0 h.out.toNat a.out]

/-- The output goes to the host, where the command has one. -/
def Dev.withOutput (d : Dev) (h : CmdHdr) (a : FwAns) : Dev := if a.out.isEmpty ∨ h.out = 0 then d else d.hostWrite d.mgmtPort 0 0 h.out.toNat a.out

theorem sent_withOutput (d : Dev) (h : CmdHdr) (a : FwAns) : Sent (outputOuts d h a) d (d.withOutput h a) := by
  unfold Dev.withOutput outputOuts
  split
  · exact Sent.refl _
  · exact sent_hostWrite ..

theorem mgmtPort_answered (d : Dev) (e : Nat) : (d.count e).answered.mgmtPort = d.mgmtPort := by
  unfold Dev.mgmtPort Dev.rf Dev.reg
  rfl

theorem outputOuts_answered (d : Dev) (e : Nat) (h : CmdHdr) (a : FwAns) : outputOuts (d.count e).answered h a = outputOuts d h a := by
  rw [outputOuts, mgmtPort_answered, ← outputOuts]

/-- A response to the manager goes out, output first, and is then posted. -/
theorem fwRespond_sends {d : Dev} {opcode : Nat} {h : CmdHdr} {a : FwAns} (hg : d.fw.guest = 0) (hm : d.fw.mute = false) (hb : h.backOk = true) :
    ∃ e : Dev, Sent (Claims.responseOuts d opcode h a ++ outputOuts d h a) (d.count 9).answered e ∧ d.fwRespond opcode h a false = e.fwPost h.resp 32 := by
  have h1 : Sent (outputOuts d h a) (d.count 9).answered ((d.count 9).answered.withOutput h a) := outputOuts_answered d 9 h a ▸ sent_withOutput ..
  have hns : ((d.count 9).answered.withOutput h a).ns = d.ns := by
    rw [Dev.ns, h1.time]
    rfl
  have heq : d.fwRespond opcode h a false = ((((d.count 9).answered.withOutput h a).hostWrite d.mgmtPort 0 0 h.resp.toNat
      (fwResponse opcode a (b2n d.viewOpen + 2 * b2n a.late) h.seq (timeWord ((d.count 9).answered.withOutput h a).ns))).emit
      (.command opcode a.status h.seq a.r0 a.r1 (BitVec.ofNat 8 (b2n d.viewOpen + 2 * b2n a.late)))).fwPost h.resp 32 := by
    unfold Dev.fwRespond
    simp only [hg, hm, hb, if_true, if_neg (by decide : ¬ (0 = 2)), if_neg (by decide : ¬ (0 = 1)), if_neg Bool.false_ne_true]
    rfl
  rw [hns] at heq
  exact ⟨_, (h1.trans (sent_hostWrite ..)).trans (sent_emit ..), heq⟩

/-- A device in which firmware has answered with no output, and its post waits for mailbox 1. -/
structure Answered (opcode : Nat) (h : CmdHdr) (a : FwAns) (d e : Dev) : Prop where
  outs : e.outs = Claims.responseOuts d opcode h a ++ d.outs
  ptn : e.ptn = d.ptn
  flt : e.flt = d.flt
  keeps : Keeps [.hostPortStat] d e
  fw : e.fw = { d.answered.fw with posting := some (h.resp, 32) }

theorem fwRespond_answered {d : Dev} {opcode : Nat} {h : CmdHdr} {a : FwAns} (hg : d.fw.guest = 0) (hm : d.fw.mute = false) (hb : h.backOk = true) (hw : Claims.Busy1 d)
    (ha : a.out = []) : Answered opcode h a d (d.fwRespond opcode h a false) := by
  obtain ⟨e, he, heq⟩ := fwRespond_sends (opcode := opcode) (a := a) hg hm hb
  have ho : outputOuts d h a = [] := if_pos (.inl (by rw [ha]; rfl))
  have hd : Keeps [.hostPortStat] d (d.count 9).answered := ⟨fun _ _ _ => rfl, rfl, rfl⟩
  have hx : Claims.Busy1 (d.count 9).answered := by
    refine ⟨?_, (hd.rb (by decide) ..).trans hw.2⟩
    rw [← hw.1, Dev.rxDown, Dev.rxDown]
    rfl
  rw [ho, List.append_nil] at he
  rw [heq, fwPost_busy (busy1_of_sent he hx)]
  exact ⟨he.outs, he.ptn, he.flt, hd.trans he.keeps, by rw [he.fw]; rfl⟩

/-! ## Checks before a command's row (R361, R363, R367) -/

theorem exec_of_row {c : Instr} {opcode : Nat} {np : Bool} {h : CmdHdr} (hc : Claims.wenotRow c = some (opcode, np, h)) :
    ∃ f, ∀ s, exec c s = wenot opcode np f h s := by
  unfold Claims.wenotRow at hc
  split at hc <;> cases hc <;> exact ⟨_, fun _ => rfl⟩

theorem fwRun_unreadable {d : Dev} {opcode : Nat} {np : Bool} {f : List Byte → CmdHdr → Dev → FwRes} {h : CmdHdr} {x : Word × W32}
    (ht : d.fw.taken = some x) (hs : d.fwServes = true) (hr : h.readOk = false) :
    d.fwRun opcode np f h = ({ d with fw := { d.fw with taken := none } } : Dev).fwHeaderErr x.1 := by
  simp [Dev.fwRun, ht, hs, hr]

theorem fwRun_denied {d : Dev} {opcode : Nat} {np : Bool} {f : List Byte → CmdHdr → Dev → FwRes} {h : CmdHdr} {x : Word × W32}
    (ht : d.fw.taken = some x) (hs : d.fwServes = true) (hg : d.fw.guest = 0) (hr : h.readOk = true) (hh : headerBad np h = false) (ha : argBad opcode h = false)
    (ho : d.fwOwner opcode (slice h.payload 0 h.payloadLen.toNat) h = some false) :
    d.fwRun opcode np f h = ({ d with fw := { d.fw with taken := none } } : Dev).fwRespond opcode h { status := 0x05 } false := by
  have ho' : ({ d with fw := { d.fw with taken := none } } : Dev).fwOwner opcode (slice h.payload 0 h.payloadLen.toNat) h = some false := ho
  unfold Dev.fwRun
  simp only [ht, hs, hg, hr, hh, ha, Bool.not_true, Bool.or_self, Bool.false_eq_true, if_false, ne_eq, not_true_eq_false]
  exact if_pos ho'

/-- A header that cannot be read is answered with its pointer and length 0, and CMD_HEADER_ERR. -/
theorem fwHeaderErr_busy {d : Dev} (hb : Claims.Busy1 d) (ptr : Word) : (d.fwHeaderErr ptr).fw = { d.fw with posting := some (ptr, 0) } ∧
    RaisesSome 1281 0 none d (d.fwHeaderErr ptr) ∧ (d.fwHeaderErr ptr).outs = d.outs ∧ Keeps [] d (d.fwHeaderErr ptr) := by
  have hb' : Claims.Busy1 (d.raiseFree 1281 0 none) := hb
  rw [Dev.fwHeaderErr, fwPost_busy hb']
  exact ⟨rfl, raisesSome_raiseFree .., rfl, ⟨fun _ _ _ => rfl, rfl, rfl⟩⟩

theorem headerBad_of {np : Bool} {h : CmdHdr} (hb : h.version ≠ 1 ∨ h.rsv = true ∨ (np = true ∧ h.payloadLen ≠ 0)) : headerBad np h = true := by
  simp only [headerBad, Bool.or_eq_true, bne_iff_ne, Bool.and_eq_true]
  rcases hb with h1 | h1 | h1
  · exact .inl (.inl (.inl (.inl (.inl (.inl (.inl h1))))))
  · exact .inl (.inl (.inl (.inl (.inl (.inl (.inr h1))))))
  · exact .inr h1

theorem checked_answers {s : State} (hlive : s.dev.live = true) {c : Instr} {opcode : Nat} {np : Bool} {h : CmdHdr} {ptr : Word} (hc : Claims.wenotRow c = some (opcode, np, h))
    (ht : Claims.Taken s.dev ptr) (hb : Claims.Busy1 s.dev) :
    (h.readOk = false → Answers c s (fun d => d.fw = { s.dev.fw with taken := none, posting := some (ptr, 0) } ∧ RaisesSome 1281 0 none s.dev d ∧
      d.outs = s.dev.outs ∧ Keeps [] s.dev d)) ∧
    (∀ st, h.readOk = true → h.backOk = true →
      ((h.version ≠ 1 ∨ h.rsv = true ∨ (np = true ∧ h.payloadLen ≠ 0) ∨ argBad opcode h = true) ∧ st = 4#8 ∨
        (headerBad np h = false ∧ argBad opcode h = false ∧ s.dev.fwOwner opcode (slice h.payload 0 h.payloadLen.toNat) h = some false) ∧ st = 5#8) →
      Answers c s (fun d => d.outs = Claims.responseOuts s.dev opcode h { status := st } ++ s.dev.outs ∧ d.ptn = s.dev.ptn ∧ d.flt = s.dev.flt ∧ Keeps [.hostPortStat] s.dev d ∧
        d.fw = { s.dev.fw with taken := none, running := none, owned := none, forward := none, posting := some (h.resp, 32) })) := by
  obtain ⟨-, hs, ⟨n, htaken⟩, hg, hm⟩ := ht
  obtain ⟨f, hf⟩ := exec_of_row hc
  have hrun : exec c s = event (fun d => d.fwRun opcode np f h) s := hf s
  refine ⟨fun hr => answers_event hrun hlive ?_, fun st hr hk hst => answers_event hrun hlive ?_⟩
  · have hw : Claims.Busy1 ({ s.dev with fw := { s.dev.fw with taken := none } } : Dev) := hb
    rw [fwRun_unreadable htaken hs hr]
    exact fwHeaderErr_busy hw ptr
  · have hw : Claims.Busy1 ({ s.dev with fw := { s.dev.fw with taken := none } } : Dev) := hb
    have hx := fwRespond_answered (d := { s.dev with fw := { s.dev.fw with taken := none } }) (opcode := opcode) (h := h) (a := { status := st }) hg hm hk hw rfl
    have heq : s.dev.fwRun opcode np f h = ({ s.dev with fw := { s.dev.fw with taken := none } } : Dev).fwRespond opcode h { status := st } false := by
      rcases hst with ⟨hbad, rfl⟩ | ⟨⟨hh, ha, ho⟩, rfl⟩
      · refine Dev.fwRun_bad htaken hs hr ?_
        rcases hbad with h1 | h1 | ⟨h1, h2⟩ | h1
        · exact .inl (headerBad_of (.inl h1))
        · exact .inl (headerBad_of (.inr (.inl h1)))
        · exact .inl (headerBad_of (.inr (.inr ⟨h1, h2⟩)))
        · exact .inr h1
      · exact fwRun_denied htaken hs hg hr hh ha ho
    rw [heq]
    refine ⟨hx.outs, hx.ptn, hx.flt, hx.keeps, hx.fw.trans ?_⟩
    have hfw : ∀ w : Fw, w.guest = 0 → w.mute = false → ({ w with taken := none, running := none, mute := false, owned := none, guest := 0, forward := none, posting := some (h.resp, 32) } : Fw) =
        { w with taken := none, running := none, owned := none, forward := none, posting := some (h.resp, 32) } := fun w h1 h2 => by rw [← h1, ← h2]
    exact hfw s.dev.fw hg hm

/-! ## Taking a message (R361) -/

/-- Only registers have moved. -/
def OnlyRegs (d e : Dev) : Prop := e = { d with regs := e.regs }

theorem onlyRegs_setReg (d : Dev) (r : Reg) (i : Nat) (v : Word) : OnlyRegs d (d.setReg r i v) := rfl

theorem OnlyRegs.trans {a b c : Dev} (h : OnlyRegs a b) (h' : OnlyRegs b c) : OnlyRegs a c := by
  unfold OnlyRegs at *
  rw [h', h]

theorem onlyRegs_ringBit {d : Dev} {m b : Nat} (hm : d.rb .mbxDbPend m b = true ∨ d.rb .mbxDbMask m b = true) : OnlyRegs d (d.ringBit m b) := by
  unfold Dev.ringBit
  split
  · rfl
  case isFalse hp =>
    dsimp only
    rw [if_pos (by rw [Dev.rb_setRb_other _ _ _ _ (.inl (by decide))]; exact hm.resolve_left hp)]
    exact onlyRegs_setReg ..

/-- Firmware has read mailbox 0, and its doorbell bit 0 is clear. -/
def Dev.readIn (d : Dev) : Dev := (d.mbxRead 0).2.setRb .mbxDbPend 0 0 false

structure ReadIn (d e : Dev) : Prop where
  only : OnlyRegs d e
  keeps : Keeps [.mbxRxPtr0, .mbxRxPtr1, .mbxRxLen, .mbxStat, .mbxDbPend] d e
  full : e.rb .mbxStat 0 0 = false
  read : e.rb .mbxStat 0 5 = true
  bell : e.rb .mbxDbPend 0 0 = false
  other : ∀ k, e.rb .mbxStat 1 k = d.rb .mbxStat 1 k

theorem readIn_shows {d : Dev} (hf : d.faceAddr 0 = none) (h : d.rb .mbxStat 0 0 = true) (hm : d.rb .mbxDbPend 0 30 = true ∨ d.rb .mbxDbMask 0 30 = true) :
    ReadIn d d.readIn := by
  obtain ⟨-, -, -, hfull, hread, -, hk, -, -⟩ := mbxRead_shows hf h hm
  have hlat : OnlyRegs d (d.latched 0) := rfl
  have hkl := keeps_latched (d := d) (m := 0)
  have hpm : (d.latched 0).rb .mbxDbPend 0 30 = true ∨ (d.latched 0).rb .mbxDbMask 0 30 = true := by
    rw [hkl.rb (r := .mbxDbMask) (by decide), Keeps.rb (a := d) (b := d.latched 0) (rs := [.mbxRxPtr0, .mbxRxPtr1, .mbxRxLen, .mbxStat]) (by simp [Dev.latched]) (by decide)]
    exact hm
  have heq : (d.mbxRead 0).2 = (d.latched 0).ringBit 0 30 := by
    rw [mbxRead_full h]
    exact faceShow_of_keeps (hkl.trans ((ringBit_silent (by decide) hpm).2.1.mono (by decide))) (by decide) (by decide) hf
  have hoth : ∀ k, (d.mbxRead 0).2.rb .mbxStat 1 k = d.rb .mbxStat 1 k := by
    intro k
    rw [heq, (ringBit_silent (by decide) hpm).2.1.rb (by decide), Dev.latched, Dev.rb_setRb_other _ _ _ _ (.inr (by decide)),
      Dev.rb_setRb_other _ _ _ _ (.inr (by decide))]
    exact Keeps.rb (rs := [.mbxRxPtr0, .mbxRxPtr1, .mbxRxLen]) (by simp) (by decide) ..
  have hon : OnlyRegs d (d.mbxRead 0).2 := heq ▸ hlat.trans (onlyRegs_ringBit hpm)
  unfold Dev.readIn
  generalize (d.mbxRead 0).2 = e at *
  exact ⟨hon.trans (onlyRegs_setReg ..), hk.trans (by simp), (Dev.rb_setRb_other _ _ _ _ (.inl (by decide))).trans hfull,
    (Dev.rb_setRb_other _ _ _ _ (.inl (by decide))).trans hread, Dev.rb_setRb_same _ _ _ _ _ (by decide), fun k => (Dev.rb_setRb_other _ _ _ _ (.inl (by decide))).trans (hoth k)⟩

theorem OnlyRegs.field {α : Type} {d e : Dev} (h : OnlyRegs d e) (g : Dev → α) (hg : ∀ (x : Dev) r, g { x with regs := r } = g x) : g e = g d :=
  (congrArg g h).trans (hg ..)

theorem taken_of_free {d : Dev} (hfree : d.fwFree = true) : d.fw.taken = none := by
  simp only [Dev.fwFree, Bool.and_eq_true, Option.isNone_iff_eq_none] at hfree
  exact hfree.1.1.2

theorem fwTake_empty {d : Dev} (h : d.rb .mbxStat 0 0 = false) : d.fwTake = d := by
  rw [Dev.fwTake, if_pos (by simp [h])]

theorem fwTake_full {d : Dev} (hfree : d.fwFree = true) (h : d.rb .mbxStat 0 0 = true) : d.fwTake =
    if d.rb .mbxStat 0 1 then { d.readIn with fw := { d.readIn.fw with orphans := min 65535 (d.readIn.fw.orphans + 1) } }.count 10
    else if (d.mbx 0).len ≠ 64 ∨ (d.mbx 0).ptr.toNat % 64 ≠ 0 then d.readIn.fwHeaderErr (d.mbx 0).ptr
    else { d.readIn with fw := { d.readIn.fw with taken := some ((d.mbx 0).ptr, (d.mbx 0).len) } } := by
  rw [Dev.fwTake, if_neg (by simp [h, hfree])]
  rfl

/-- A poll that takes no command, or one whose header can be read, leaves what taking the message left. -/
theorem firmwarePoll_runs {s : State} (hlive : s.dev.live = true) {h : CmdHdr} {p : Dev → Prop} {e : Dev} (he : s.dev.fwTake = e)
    (hx : e.fw.taken = none ∨ h.readOk = true) (hp : p e) : Answers (.firmwarePoll h) s p := by
  refine answers_event (c := .firmwarePoll h) (rfl : execFirmwarePoll h s = _) hlive ?_
  rw [he]
  dsimp only
  split
  case h_1 ptr n ht =>
    rw [if_neg (by simp [hx.resolve_left (by simp [ht])])]
    exact hp
  case h_2 => exact hp

theorem firmwarePoll_answers {s : State} (hlive : s.dev.live = true) (h : CmdHdr) (hfree : s.dev.fwFree = true) :
    (s.dev.rb .mbxStat 0 0 = false → Answers (.firmwarePoll h) s (fun d => d = s.dev)) ∧
    (s.dev.rb .mbxStat 0 0 = true → s.dev.rb .mbxDbPend 0 30 = true ∨ s.dev.rb .mbxDbMask 0 30 = true → s.dev.faceAddr 0 = none →
      (s.dev.rb .mbxStat 0 1 = false → (s.dev.mbx 0).len = 64 → (s.dev.mbx 0).ptr.toNat % 64 = 0 → h.readOk = true → Answers (.firmwarePoll h) s (fun d =>
        d.fw = { s.dev.fw with taken := some ((s.dev.mbx 0).ptr, 64) } ∧ d.rb .mbxStat 0 0 = false ∧ d.rb .mbxStat 0 5 = true ∧ d.rb .mbxDbPend 0 0 = false ∧
        Keeps [.mbxRxPtr0, .mbxRxPtr1, .mbxRxLen, .mbxStat, .mbxDbPend] s.dev d)) ∧
      (s.dev.rb .mbxStat 0 1 = true → Answers (.firmwarePoll h) s (fun d => d.fw = { s.dev.fw with orphans := min 65535 (s.dev.fw.orphans + 1) } ∧
        d.rb .mbxStat 0 0 = false ∧ Counts [10] s.dev d ∧ Keeps [.mbxRxPtr0, .mbxRxPtr1, .mbxRxLen, .mbxStat, .mbxDbPend] s.dev d)) ∧
      (s.dev.rb .mbxStat 0 1 = false → (s.dev.mbx 0).len ≠ 64 ∨ (s.dev.mbx 0).ptr.toNat % 64 ≠ 0 → Claims.Busy1 s.dev → Answers (.firmwarePoll h) s (fun d =>
        d.fw = { s.dev.fw with posting := some ((s.dev.mbx 0).ptr, 0) } ∧ RaisesSome 1281 0 none s.dev d ∧
        Keeps [.mbxRxPtr0, .mbxRxPtr1, .mbxRxLen, .mbxStat, .mbxDbPend] s.dev d))) := by
  have hnone := taken_of_free hfree
  refine ⟨fun he => firmwarePoll_runs hlive (fwTake_empty he) (.inl hnone) rfl, fun hfull hpm hf => ?_⟩
  obtain ⟨hon, hk, h0, h5, hb, hoth⟩ := readIn_shows hf hfull hpm
  have hfw : s.dev.readIn.fw = s.dev.fw := hon.field Dev.fw fun _ _ => rfl
  refine ⟨fun h1 hl hp hr => firmwarePoll_runs hlive (fwTake_full hfree hfull) (.inr hr) ?_, fun h1 => firmwarePoll_runs hlive ((fwTake_full hfree hfull).trans (if_pos h1)) (.inl ?_) ?_,
    fun h1 hbad hw => ?_⟩
  · rw [if_neg (by simp [h1]), if_neg (by simp [hl, hp]), hfw, hl]
    exact ⟨rfl, h0, h5, hb, hk⟩
  · exact (congrArg Fw.taken hfw).trans hnone
  · have hc : ∀ e, s.dev.readIn.counter e = s.dev.counter e := fun e => hon.field (Dev.counter · e) fun _ _ => rfl
    rw [hfw]
    exact ⟨rfl, h0, counts_count (counts_same (counts_refl _) hc) 10, hk⟩
  · have hw' : Claims.Busy1 s.dev.readIn :=
      ⟨(rxDown_one_of_keeps hk (by decide) (by decide) (by decide) fun _ => hk.rb (by decide) ..).trans hw.1, (hoth 0).trans hw.2⟩
    obtain ⟨e1, ⟨v, e2⟩, -, e4⟩ := fwHeaderErr_busy hw' (s.dev.mbx 0).ptr
    rw [hfw] at e1
    refine firmwarePoll_runs hlive ((fwTake_full hfree hfull).trans ((if_neg (by simp [h1])).trans (if_pos hbad))) (.inl (by rw [e1]; exact hnone))
      ⟨e1, ⟨v, ?_⟩, hk.trans (e4.mono (by simp))⟩
    rw [Raises, hon.field Dev.time fun _ _ => rfl, hon.field Dev.flt fun _ _ => rfl] at e2
    exact e2

/-! ## Identification (R369) -/

theorem identity_length (d : Dev) : d.identity.length = 64 := by
  simp only [Dev.identity, List.length_append, leBytes_length, List.length_cons, List.length_nil]

theorem identity_head (d : Dev) : d.identity.take 7 = [0x4D, 0x38, 0x36, 0x34, 0x2D, 0x48, 0x58] := by
  simp only [Dev.identity, List.append_assoc]
  rfl

/-- A post on an empty mailbox 1 without a face, whose doorbell sends no route. -/
theorem fwPost_free {d : Dev} (hd : d.rxDown 1 = false) (hf : d.faceAddr 1 = none) (hs : d.rb .mbxStat 1 0 = false)
    (hm : d.rb .mbxDbPend 1 0 = true ∨ d.rb .mbxDbMask 1 0 = true) (ptr : Word) (len : W32) :
    (d.fwPost ptr len).rb .mbxStat 1 0 = true ∧ ((d.fwPost ptr len).mbx 1).ptr = ptr ∧ ((d.fwPost ptr len).mbx 1).len = len ∧
    (d.fwPost ptr len).rb .mbxDbPend 1 0 = true ∧ (d.fwPost ptr len).outs = d.outs ∧ Keeps [.mbxStat, .mbxDbPend] d (d.fwPost ptr len) := by
  have hk : Keeps [.mbxStat] d (((((d.setMbx 1 { d.mbx 1 with ptr := ptr, len := len }).count 11).setRb .mbxStat 1 0 true).setRb .mbxStat 1 1 false).setRb
    .mbxStat 1 5 false) := by simp
  have heq : d.mbxPost 1 ptr len = ((((d.setMbx 1 { d.mbx 1 with ptr := ptr, len := len }).count 11).setRb .mbxStat 1 0 true).setRb .mbxStat 1 1 false).setRb
      .mbxStat 1 5 false := by
    rw [Dev.mbxPost, if_neg (by simp [hs])]
    exact faceShow_of_keeps hk (by decide) (by decide) hf
  have hfull : (d.mbxPost 1 ptr len).rb .mbxStat 1 0 = true := by
    rw [heq, Dev.rb_setRb_ne _ _ _ _ _ _ (by decide), Dev.rb_setRb_ne _ _ _ _ _ _ (by decide), Dev.rb_setRb_same _ _ _ _ _ (by decide)]
  have hmbx : (d.mbxPost 1 ptr len).mbx 1 = { d.mbx 1 with ptr := ptr, len := len } := by
    rw [heq, Dev.mbx, Dev.setRb_ptn, Dev.setRb_ptn, Dev.setRb_ptn, Dev.count_ptn, ← Dev.mbx, Dev.mbx_setMbx_same]
  have houts : (d.mbxPost 1 ptr len).outs = d.outs := by
    rw [heq, Dev.setRb_outs, Dev.setRb_outs, Dev.setRb_outs]
    rfl
  rw [← heq] at hk
  rw [Dev.fwPost, if_neg (by simp [hd]), if_neg (by simp [hs])]
  generalize d.mbxPost 1 ptr len = e at *
  have hpm : e.rb .mbxDbPend 1 0 = true ∨ e.rb .mbxDbMask 1 0 = true := by
    rw [hk.rb (by decide), hk.rb (by decide)]
    exact hm
  obtain ⟨r1, r2, -, -, r5⟩ := ringBit_silent (by decide) hpm
  have hptn : (e.ringBit 1 0).mbx 1 = e.mbx 1 := (onlyRegs_ringBit hpm).field (Dev.mbx · 1) fun _ _ => rfl
  refine ⟨(r2.rb (by decide) ..).trans hfull, ?_, ?_, by rw [r1]; simp, r5.trans houts, (hk.mono (by simp)).trans (r2.mono (by simp))⟩
  · rw [hptn, hmbx]
  · rw [hptn, hmbx]

theorem identify_answers {s : State} (hlive : s.dev.live = true) {h : CmdHdr} {ptr : Word} (ht : Claims.Taken s.dev ptr) (hr : h.readOk = true) (hk : h.backOk = true)
    (hh : headerBad true h = false) (ha : argBad 1 h = false) (ho : h.out ≠ 0) :
    (h.outLen.toNat < 64 → Claims.Busy1 s.dev → Answers (.devIdentify h) s (fun d =>
      d.outs = Claims.responseOuts s.dev 1 h { status := 3, r1 := 64 } ++ s.dev.outs ∧ Keeps [.hostPortStat] s.dev d)) ∧
    (64 ≤ h.outLen.toNat → s.dev.rxDown 1 = false → s.dev.faceAddr 1 = none → s.dev.rb .mbxStat 1 0 = false → s.dev.rb .mbxDbPend 1 0 = true ∨ s.dev.rb .mbxDbMask 1 0 = true →
      Answers (.devIdentify h) s (fun d => ∃ out : List Byte, out.length = 64 ∧ out.take 7 = [0x4D, 0x38, 0x36, 0x34, 0x2D, 0x48, 0x58] ∧
        d.outs = Claims.responseOuts s.dev 1 h { out := out } ++ .hostWrite s.dev.mgmtPort 0 0 h.out.toNat out :: s.dev.outs ∧
        d.rb .mbxStat 1 0 = true ∧ (d.mbx 1).ptr = h.resp ∧ (d.mbx 1).len = 32 ∧ d.rb .mbxDbPend 1 0 = true ∧
        Keeps [.mbxStat, .mbxDbPend, .hostPortStat] s.dev d)) := by
  obtain ⟨-, hs, ⟨n, htaken⟩, hg, hm⟩ := ht
  have hown : s.dev.fwOwner 1 (slice h.payload 0 h.payloadLen.toNat) h = none := rfl
  have hrun := Dev.fwRun_own (f := fun _ _ d => .answer { out := d.identity } d) htaken hs hg hr hh ha rfl hown
  have hexec : exec (.devIdentify h) s = event (fun d => d.fwRun 1 true (fun _ _ d => .answer { out := d.identity } d) h) s := rfl
  have hid := identity_length s.dev.inHand
  have hkeep : Keeps [.hostPortStat] s.dev s.dev.inHand := ⟨fun _ _ _ => rfl, rfl, rfl⟩
  refine ⟨fun hl hb => answers_event hexec hlive ?_,
    fun hl hd hf hst hpm => answers_event hexec hlive ?_⟩
  · rw [hrun, fwSettle_short (by rw [hid]; exact hl)]
    dsimp only
    rw [Dev.fwEnd_own rfl, hid]
    have hx := fwRespond_answered (d := s.dev.inHand) (opcode := 1) (h := h) (a := { status := 3, r1 := 64 }) hg hm hk hb rfl
    exact ⟨hx.outs, hkeep.trans hx.keeps⟩
  · rw [hrun, fwSettle_fits (by rw [hid]; exact hl)]
    dsimp only
    rw [Dev.fwEnd_own rfl]
    obtain ⟨e, he, heq⟩ := fwRespond_sends (d := s.dev.inHand) (opcode := 1) (h := h) (a := { out := s.dev.inHand.identity }) hg hm hk
    have hk0 : Keeps [.hostPortStat] s.dev (s.dev.inHand.count 9).answered := ⟨fun _ _ _ => rfl, rfl, rfl⟩
    have hk1 := hk0.trans he.keeps
    have hout : outputOuts s.dev.inHand h { out := s.dev.inHand.identity } = [.hostWrite s.dev.inHand.mgmtPort 0 0 h.out.toNat s.dev.inHand.identity] :=
      if_neg (not_or.2 ⟨by simp [List.isEmpty_iff, ← List.length_eq_zero_iff, hid], ho⟩)
    obtain ⟨p1, p2, p3, p4, p5, p6⟩ := fwPost_free (d := e) ((rxDown_one_of_sent he).trans hd) ((faceAddr_of_keeps hk1 (by decide) (by decide) 1).trans hf)
      ((hk1.rb (by decide) ..).trans hst) (by rw [hk1.rb (by decide), hk1.rb (by decide)]; exact hpm) h.resp 32
    rw [heq]
    refine ⟨s.dev.inHand.identity, hid, identity_head _, ?_, p1, p2, p3, p4, (hk1.mono (by simp)).trans (p6.mono (by simp))⟩
    rw [p5, he.outs, hout, List.append_assoc]
    rfl

/-! ## Commands between the devices of an external pair (R420, R425) -/

/-- What a command that the partner forwards acts on. -/
def Dev.guested (d : Dev) : Dev := { d with fw := { d.fw with taken := some (0, 64), guest := 1 } }

theorem forwardExecute_row {opcode : Nat} {h : CmdHdr} {save : List Byte} {c : Instr} (hc : Claims.forwardRow opcode { h with readOk := true } save = some c) (s : State) :
    forwardExecute opcode h save s = exec c { s with dev := s.dev.guested } := by
  unfold Claims.forwardRow at hc
  split at hc <;> cases hc <;> rfl

theorem readOk_of_forwardRow {opcode n : Nat} {h hd : CmdHdr} {save : List Byte} {c : Instr} {np : Bool} (hc : Claims.forwardRow opcode { h with readOk := true } save = some c)
    (hr : Claims.wenotRow c = some (n, np, hd)) : hd.readOk = true := by
  unfold Claims.forwardRow at hc
  split at hc <;> cases hc <;> cases hr <;> rfl

/-- A guest's command answers on the ferry. -/
theorem fwRespond_ferry {d : Dev} {opcode : Nat} {h : CmdHdr} {a : FwAns} (hg : d.fw.guest = 1) (hf : d.dpx.ferryUp = true) :
    d.fwRespond opcode h a false = (d.count 9).answered.emit (.ferry opcode a.status) := by
  unfold Dev.fwRespond
  simp only [hg, if_true, if_neg (by decide : ¬ (1 = 2))]
  exact if_pos hf

section
variable {s : State} {opcode : BitVec 16} {h : CmdHdr} {save : List Byte}

theorem forwarded_runs (hready : s.dev.forwardReady = true) {c : Instr} (hc : Claims.forwardRow opcode.toNat { h with readOk := true } save = some c) :
    exec (.forwardedCommand (.execute opcode h save)) s = exec c { s with dev := s.dev.guested } := by
  show (if s.dev.forwardReady then forwardExecute opcode.toNat h save s else .next { s with bundle := none }) = _
  rw [if_pos hready, forwardExecute_row hc]

theorem forwarded_malformed (hready : s.dev.forwardReady = true) {c : Instr} (hc : Claims.forwardRow opcode.toNat { h with readOk := true } save = some c) {np : Bool} {hd : CmdHdr}
    (hr : Claims.wenotRow c = some (opcode.toNat, np, hd)) (hb : headerBad np hd = true) : Answers (.forwardedCommand (.execute opcode h save)) s (fun d =>
      d.outs = .ferry opcode.toNat 4 :: s.dev.outs ∧ d.fw.guest = 0 ∧ d.fw.taken = none ∧ d.ptn = s.dev.ptn ∧ Keeps [] s.dev d) := by
  obtain ⟨f, hf⟩ := exec_of_row hr
  have hx := hready
  simp only [Dev.forwardReady, Bool.and_eq_true] at hx
  obtain ⟨⟨⟨⟨hlive, hs⟩, -⟩, -⟩, hup⟩ := hx
  have hlive' : (State.mk s.dev.guested s.bundle s.pending).dev.live = true := hlive
  refine ⟨{ s with bundle := none, dev := s.dev.guested.fwRun opcode.toNat np f hd }, ?_, rfl, ?_⟩
  · rw [forwarded_runs hready hc, hf, wenot, event_live _ hlive']
  · have hrun := Dev.fwRun_bad (d := s.dev.guested) (opcode := opcode.toNat) (f := f) (x := (0, 64)) rfl hs (readOk_of_forwardRow hc hr) (.inl hb)
    show _ ∧ _
    rw [hrun, fwRespond_ferry (d := { s.dev.guested with fw := { s.dev.guested.fw with taken := none } }) rfl hup]
    exact ⟨rfl, rfl, rfl, rfl, fun _ _ _ => rfl, rfl, rfl⟩

theorem forwarded_unready (h0 : s.dev.forwardReady = false) : Answers (.forwardedCommand (.execute opcode h save)) s (fun d => d = s.dev) :=
  ⟨{ s with bundle := none }, if_neg (by simp [h0]), rfl, rfl⟩

end

theorem low56_getLsbD (i : Nat) : (0x00FFFFFFFFFFFFFF#64).getLsbD i = decide (i < 56) := by
  have h : (0x00FFFFFFFFFFFFFF#64) = BitVec.ofNat 64 (2 ^ 56 - 1) := by decide
  rw [h, BitVec.getLsbD_ofNat, Nat.testBit_two_pow_sub_one]
  by_cases hi : i < 56 <;> simp [hi]
  omega

/-- The partner's status stands in the top byte of the second result. -/
theorem status_word (st : Byte) (x : Word) : ((x &&& 0x00FFFFFFFFFFFFFF#64) ||| (st.setWidth 64 <<< 56)).toNat / 2 ^ 56 = st.toNat ∧
    ((x &&& 0x00FFFFFFFFFFFFFF#64) ||| (st.setWidth 64 <<< 56)).toNat % 2 ^ 56 = x.toNat % 2 ^ 56 := by
  constructor <;> refine Nat.eq_of_testBit_eq fun i => ?_
  · rw [Nat.testBit_div_two_pow, BitVec.testBit_toNat, BitVec.testBit_toNat, BitVec.getLsbD_or, BitVec.getLsbD_and, low56_getLsbD, BitVec.getLsbD_shiftLeft,
      BitVec.getLsbD_setWidth]
    by_cases hi : i < 8
    · simp [show i + 56 < 64 by omega, show i < 64 by omega]
    · simp [BitVec.getLsbD_of_ge _ _ (Nat.le_of_not_lt hi)]
  · rw [Nat.testBit_mod_two_pow, Nat.testBit_mod_two_pow, BitVec.testBit_toNat, BitVec.testBit_toNat, BitVec.getLsbD_or, BitVec.getLsbD_and, low56_getLsbD,
      BitVec.getLsbD_shiftLeft]
    by_cases hi : i < 56 <;> simp [hi]

/-- A partner whose answer differs is out of the pair. -/
theorem unsync_out (d : Dev) (p : Nat) : ((d.unsync p).setRb .dpxStat p 3 true).rb .dpxStat p 3 = true ∧ ((d.unsync p).setRb .dpxStat p 3 true).rb .dpxStat p 0 = false ∧
    Keeps [.dpxStat] d ((d.unsync p).setRb .dpxStat p 3 true) := by
  refine ⟨Dev.rb_setRb_same _ _ _ _ _ (by decide), ?_, by simp [Dev.unsync]⟩
  rw [Dev.rb_setRb_ne _ _ _ _ _ _ (by decide), Dev.unsync, Dev.rb, Dev.reg, show (Dev.setDuplex _ _ _).regs = ((d.setRb .dpxStat p 0 false).setRb .dpxStat p 1 false).regs from rfl,
    ← Dev.reg, ← Dev.rb, Dev.rb_setRb_ne _ _ _ _ _ _ (by decide), Dev.rb_setRb_same _ _ _ _ _ (by decide)]

section
variable {s : State} (hlive : s.dev.live = true) {w : Forward} (hw : s.dev.fw.forward = some w)
include hlive hw

theorem forwardAnswer_answers (st : Byte) (hup : s.dev.dpx.ferryUp = true) :
    (st = w.status → Answers (.forwardedCommand (.answer st)) s (fun d =>
      d = s.dev.fwRespond w.opcode w.hdr { status := w.status, r0 := w.r0, r1 := w.r1, out := w.out, late := w.late } false)) ∧
    (st ≠ w.status → s.dev.inDuplex w.part = true → Answers (.forwardedCommand (.answer st)) s (fun d => ∃ (d1 : Dev) (r1 : Word),
      d = d1.fwRespond w.opcode w.hdr { status := w.status, r0 := w.r0, r1 := r1, out := w.out, late := w.late } true ∧ r1.toNat / 2 ^ 56 = st.toNat ∧
      r1.toNat % 2 ^ 56 = w.r1.toNat % 2 ^ 56 ∧ d1.rb .dpxStat w.part 3 = true ∧ d1.rb .dpxStat w.part 0 = false ∧ Keeps [.dpxStat] s.dev d1)) := by
  have hexec : exec (.forwardedCommand (.answer st)) s = event (fun d => d.forwardAnswer st) s := rfl
  refine ⟨fun he => answers_event hexec hlive ?_, fun hne hd => answers_event hexec hlive ?_⟩
  · subst he
    rw [Dev.forwardAnswer, hw]
    simp [hup]
  · have hdiff : (st != w.status) = true := bne_iff_ne.2 hne
    rw [Dev.forwardAnswer, hw]
    simp only [hup, hdiff, hd, Bool.not_true, Bool.false_eq_true, if_false, Bool.and_self, if_true]
    obtain ⟨h3, h0, hk⟩ := unsync_out s.dev w.part
    exact ⟨_, _, rfl, (status_word st w.r1).1, (status_word st w.r1).2, h3, h0, hk⟩

theorem forwardTimeout_answers :
    (s.dev.time.tick < w.since + 2500000 → Answers .forwardTimeout s (fun d => d = s.dev)) ∧
    (w.since + 2500000 ≤ s.dev.time.tick → Answers .forwardTimeout s (fun d =>
      d = s.dev.fwRespond w.opcode w.hdr { status := 7, r0 := w.r0, r1 := w.r1, out := w.out, late := w.late } false)) := by
  refine ⟨fun h => answers_event (c := .forwardTimeout) (rfl : execForwardTimeout s = _) hlive ?_,
    fun h => answers_event (c := .forwardTimeout) (rfl : execForwardTimeout s = _) hlive ?_⟩
  · rw [hw]
    exact if_pos h
  · rw [hw]
    exact if_neg (Nat.not_lt.2 h)

end

/-- Settles O49. -/
theorem wenotCommandsAreCheckedForwardedAndAnswered : Obligations.WenotCommandsAreCheckedForwardedAndAnswered :=
  ⟨fun _ hlive => ⟨fun h => firmwarePoll_answers hlive h, fun _ _ _ _ _ => checked_answers hlive, fun _ _ => identify_answers hlive⟩,
    fun _ => ⟨fun _ _ _ _ _ hready hc he => ⟨he ▸ forwarded_runs hready hc, fun _ _ => forwarded_malformed hready hc⟩, fun _ _ _ => forwarded_unready,
      fun _ st hlive hw hup => forwardAnswer_answers hlive hw st hup, fun _ hlive hw => forwardTimeout_answers hlive hw⟩⟩

end Sys2Proof.Machine
end

section
/-! PROOFS. Program and key commands (R205 to R220, R374 to R381). -/
namespace Sys2Proof.Machine
open Sys2Proof

/-! ## A command's row -/

section
variable {c : Instr} {opcode : Nat} {np : Bool} {f : List Byte → CmdHdr → Dev → FwRes} {h : CmdHdr} {s : State} {p : List Byte} {e e' : Dev} {P : Dev → Prop}

/-- A command whose meaning answers. -/
theorem gives_of_row (hc : exec c s = wenot opcode np f h s) (hw : Claims.Wenot opcode np h p s.dev e) {a : FwAns} (hf : f p h e = .answer a e') (hp : P e') :
    Claims.Gives c opcode h s a P := by
  obtain ⟨⟨_, hlive, hs, ⟨_, ht⟩, hg, -⟩, -, hr, hh, ha, hpl, ho, rfl⟩ := hw
  exact fun hn => ⟨_, hc.trans (wenot_answers hlive ht hs hg hr hh ha hpl ho hf hn), rfl, _, rfl, hp⟩

/-- A command whose meaning holds its answer back. -/
theorem begins_of_row (hc : exec c s = wenot opcode np f h s) (hw : Claims.Wenot opcode np h p s.dev e) (hf : f p h e = .hold e') (hp : P e') :
    Claims.Begins c opcode h s P := by
  obtain ⟨⟨_, hlive, hs, ⟨_, ht⟩, hg, -⟩, -, hr, hh, ha, hpl, ho, rfl⟩ := hw
  exact ⟨_, hc.trans (wenot_holds hlive ht hs hg hr hh ha hpl ho hf), rfl, rfl, _, rfl, hp⟩

end

theorem partReady_of {d : Dev} {n : Nat} (h : d.partState n = 1) : d.partReady n = none := by
  rw [Dev.partReady, h]
  rfl

/-! ## PROG_LOAD (R374, R375) -/

theorem loadSect_rest (d : Dev) (n : Nat) (p : List Byte) (x : Sect) : (d.loadSect n p x).regs = d.regs ∧ (d.loadSect n p x).thr = d.thr ∧ (d.loadSect n p x).ptn = d.ptn := by
  unfold Dev.loadSect
  dsimp only
  split
  · split <;> exact ⟨rfl, rfl, rfl⟩
  · refine foldl_related (R := fun a b : Dev => b.regs = a.regs ∧ b.thr = a.thr ∧ b.ptn = a.ptn) (fun _ => ⟨rfl, rfl, rfl⟩)
      (fun {_ _ _} h h' => ⟨h'.1.trans h.1, h'.2.1.trans h.2.1, h'.2.2.trans h.2.2⟩) (fun _ _ => ?_) _ d
    split <;> exact ⟨rfl, rfl, rfl⟩

theorem loadSects_rest (os : List Nat) (d : Dev) (n : Nat) (p : List Byte) : (os.foldl (fun d o => d.loadSect n p (sectAt p o)) d).regs = d.regs ∧
    (os.foldl (fun d o => d.loadSect n p (sectAt p o)) d).thr = d.thr ∧ (os.foldl (fun d o => d.loadSect n p (sectAt p o)) d).ptn = d.ptn :=
  foldl_related (f := fun d o => d.loadSect n p (sectAt p o)) (R := fun a b : Dev => b.regs = a.regs ∧ b.thr = a.thr ∧ b.ptn = a.ptn) (fun _ => ⟨rfl, rfl, rfl⟩)
    (fun {_ _ _} h h' => ⟨h'.1.trans h.1, h'.2.1.trans h.2.1, h'.2.2.trans h.2.2⟩) (fun d o => loadSect_rest d n p (sectAt p o)) os d

theorem progOf_of_regs {d e : Dev} (h : e.regs = d.regs) (n : Nat) (p : List Byte) : e.progOf n p = d.progOf n p := by
  have hm : ∀ isl, e.mirrorIsl n isl = d.mirrorIsl n isl := fun isl => by
    rw [Dev.mirrorIsl, Dev.inDuplex, Dev.dpxExternal, Dev.rb, Dev.rb, Dev.reg, h]
    rfl
  simp only [Dev.progOf, hm]

section
variable {h : CmdHdr} {p : List Byte} {s : State} {e : Dev}

theorem progLoad_gives {n sig : Nat} (hw : Claims.Wenot 0x40 false h p s.dev e) (hb : imgBad p = none) (hn : n = leAt p 5 1) (hsig : sig = leAt p 20 4) (h1 : e.partState n = 1)
    (hs : e.started n = false) (hok : (sig = 0 ∧ e.board.signReq = none) ∨ (sig ≠ 0 ∧ e.sigOk p sig = true)) (hi : e.imgCheck n p = none) :
    Claims.Gives (.progLoad h) 0x40 h s {} (fun d => (d.part n).prog = some (e.progOf n p) ∧ d.mem = ((imgSecs p).foldl (fun (d : Dev) o => d.loadSect n p (sectAt p o)) e).mem ∧
      d.regs = e.regs ∧ d.thr = e.thr) := by
  obtain ⟨hr, ht, -⟩ := loadSects_rest (imgSecs p) e n p
  refine gives_of_row (c := .progLoad h) rfl hw (e' := (((imgSecs p).foldl (fun (d : Dev) o => d.loadSect n p (sectAt p o)) e).setPart n
    { ((imgSecs p).foldl (fun (d : Dev) o => d.loadSect n p (sectAt p o)) e).part n with
      prog := some (((imgSecs p).foldl (fun (d : Dev) o => d.loadSect n p (sectAt p o)) e).progOf n p) })) ?_ ⟨?_, rfl, hr, ht⟩
  · have hsok : ¬ ((e.board.signReq.isSome && sig == 0) || (sig != 0 && !e.sigOk p sig)) = true := by
      rcases hok with ⟨h0, hq⟩ | ⟨h0, hq⟩ <;> simp [h0, hq]
    subst hn hsig
    dsimp only
    rw [hb]
    dsimp only
    rw [partReady_of h1]
    dsimp only
    rw [if_neg (by simp [hs]), if_neg hsok, hi]
    rfl
  · rw [Dev.part_setPart_same, progOf_of_regs hr]

end

/-! ## PROG_START and PROG_STOP (R376 to R378) -/

/-- Registers of the listed names have moved, and nothing else that a program's start depends on. -/
structure SetUp (rs : List Reg) (d e : Dev) : Prop where
  keeps : Keeps rs d e
  time : e.time = d.time
  ptn : e.ptn = d.ptn

theorem SetUp.refl (rs : List Reg) (d : Dev) : SetUp rs d d := ⟨Keeps.refl _ _, rfl, rfl⟩

theorem SetUp.trans {rs : List Reg} {a b c : Dev} (h : SetUp rs a b) (h' : SetUp rs b c) : SetUp rs a c :=
  ⟨h.keeps.trans h'.keeps, h'.time.trans h.time, h'.ptn.trans h.ptn⟩

theorem setUp_setReg {rs : List Reg} (d : Dev) {r : Reg} (hr : r ∈ rs) (i : Nat) (v : Word) : SetUp rs d (d.setReg r i v) := ⟨keeps_setReg d hr i v, rfl, rfl⟩

theorem setUp_foldl {β : Type} {rs : List Reg} {f : Dev → β → Dev} (hf : ∀ d b, SetUp rs d (f d b)) (l : List β) (d : Dev) : SetUp rs d (l.foldl f d) :=
  foldl_related (SetUp.refl rs) (fun h h' => h.trans h') hf l d

theorem setUp_installGroups (d : Dev) (p : Nat) (g : Prog) : SetUp [.clsGrp, .clsGrpMem] d (d.installGroups p g) := by
  have hmem (v : Nat → Word) (n : Nat) (d : Dev) : SetUp [.clsGrp, .clsGrpMem] d ((List.range 4).foldl (fun d k => d.setReg .clsGrpMem (4 * n + k) (v k)) d) :=
    setUp_foldl (fun d k => setUp_setReg d (by decide) _ _) _ d
  have hgrp (v : Word) (u : Nat → Word) (n : Nat) (d : Dev) :
      SetUp [.clsGrp, .clsGrpMem] d ((List.range 4).foldl (fun d k => d.setReg .clsGrpMem (4 * n + k) (u k)) (d.setReg .clsGrp n v)) :=
    (setUp_setReg d (by decide) _ _).trans (hmem u n _)
  unfold Dev.installGroups
  refine (setUp_foldl (fun d n => ?_) _ d).trans (setUp_foldl (fun d r => ?_) _ _)
  · exact hgrp ..
  · exact hgrp ..

theorem setUp_pinCode (d : Dev) (p : Nat) (g : Prog) : SetUp [.coreIcachePin] d (d.pinCode p g) := by
  have hpin (x : Tab CoreSt) (c : Nat) (v : Word) (d : Dev) : SetUp [.coreIcachePin] d (({ d with cores := x } : Dev).setReg .coreIcachePin c v) :=
    SetUp.trans (b := { d with cores := x }) ⟨⟨fun _ _ _ => rfl, rfl, rfl⟩, rfl, rfl⟩ (setUp_setReg _ (by decide) _ _)
  unfold Dev.pinCode
  refine setUp_foldl (fun d c => ?_) _ d
  exact hpin ..

/-- The device with a partition's program set up, before its threads start. -/
def Dev.setUpProg (d : Dev) (n : Nat) (g : Prog) (p : List Byte) : Dev :=
  ((((((d.setReg .coreQuietLimit n (BitVec.ofNat 64 (Nat.min (leAt p 4 4) 10000000))).setReg .coreClaimLease n (BitVec.ofNat 64 (Nat.min (leAt p 8 4) 1000000))).setReg
    .coreDbgPart n (BitVec.ofNat 64 (leAt p 1 1 % 4))).installGroups n g).pinCode n g).setReg .coreSupv n (BitVec.ofNat 64 (g.super + 2 ^ 31)))

structure ProgSetUp (n : Nat) (g : Prog) (p : List Byte) (d e : Dev) : Prop where
  super : e.supervisor n = some g.super
  keeps : Keeps [.coreQuietLimit, .coreClaimLease, .coreDbgPart, .clsGrp, .clsGrpMem, .coreIcachePin, .coreSupv] d e
  time : e.time = d.time
  ptn : e.ptn = d.ptn
  quiet : (e.reg .coreQuietLimit n).toNat = leAt p 4 4
  lease : (e.reg .coreClaimLease n).toNat = leAt p 8 4

theorem supervisor_setReg (d : Dev) (n : Nat) {t : Nat} (ht : t < 512) : (d.setReg .coreSupv n (BitVec.ofNat 64 (t + 2 ^ 31))).supervisor n = some t := by
  have h1 : (d.setReg .coreSupv n (BitVec.ofNat 64 (t + 2 ^ 31))).rb .coreSupv n 31 = true := by
    rw [Dev.rb, Dev.reg_setReg_same, wbit_ofNat _ (by decide), Nat.testBit_eq_decide_div_mod_eq]
    simp only [decide_eq_true_eq]
    omega
  have h2 : (d.setReg .coreSupv n (BitVec.ofNat 64 (t + 2 ^ 31))).rf .coreSupv n 0 9 = t := by
    rw [Dev.rf, Dev.reg_setReg_same, wf_eq_mod, BitVec.toNat_ofNat]
    omega
  rw [Dev.supervisor, if_pos h1, h2]

theorem setUpProg_shows (d : Dev) (n : Nat) {g : Prog} {p : List Byte} (ht : g.super < 512) (hq : leAt p 4 4 ≤ 10000000) (hl : leAt p 8 4 ≤ 1000000) :
    ProgSetUp n g p d (d.setUpProg n g p) := by
  have h1 : Keeps [.coreQuietLimit, .coreClaimLease, .coreDbgPart] d (((d.setReg .coreQuietLimit n (BitVec.ofNat 64 (Nat.min (leAt p 4 4) 10000000))).setReg .coreClaimLease n
      (BitVec.ofNat 64 (Nat.min (leAt p 8 4) 1000000))).setReg .coreDbgPart n (BitVec.ofNat 64 (leAt p 1 1 % 4))) := by simp
  have hqe : ((((d.setReg .coreQuietLimit n (BitVec.ofNat 64 (Nat.min (leAt p 4 4) 10000000))).setReg .coreClaimLease n
      (BitVec.ofNat 64 (Nat.min (leAt p 8 4) 1000000))).setReg .coreDbgPart n (BitVec.ofNat 64 (leAt p 1 1 % 4))).reg .coreQuietLimit n).toNat = leAt p 4 4 := by
    rw [Dev.reg_setReg_ne _ _ (.inl (by decide)), Dev.reg_setReg_ne _ _ (.inl (by decide)), Dev.reg_setReg_same, BitVec.toNat_ofNat, nat_min_eq]
    omega
  have hle : ((((d.setReg .coreQuietLimit n (BitVec.ofNat 64 (Nat.min (leAt p 4 4) 10000000))).setReg .coreClaimLease n
      (BitVec.ofNat 64 (Nat.min (leAt p 8 4) 1000000))).setReg .coreDbgPart n (BitVec.ofNat 64 (leAt p 1 1 % 4))).reg .coreClaimLease n).toNat = leAt p 8 4 := by
    rw [Dev.reg_setReg_ne _ _ (.inl (by decide)), Dev.reg_setReg_same, BitVec.toNat_ofNat, nat_min_eq]
    omega
  have h0 : (((d.setReg .coreQuietLimit n (BitVec.ofNat 64 (Nat.min (leAt p 4 4) 10000000))).setReg .coreClaimLease n
      (BitVec.ofNat 64 (Nat.min (leAt p 8 4) 1000000))).setReg .coreDbgPart n (BitVec.ofNat 64 (leAt p 1 1 % 4))).time = d.time ∧ 
      (((d.setReg .coreQuietLimit n (BitVec.ofNat 64 (Nat.min (leAt p 4 4) 10000000))).setReg .coreClaimLease n
      (BitVec.ofNat 64 (Nat.min (leAt p 8 4) 1000000))).setReg .coreDbgPart n (BitVec.ofNat 64 (leAt p 1 1 % 4))).ptn = d.ptn :=
    ⟨by rw [Dev.setReg_time, Dev.setReg_time, Dev.setReg_time], by rw [Dev.setReg_ptn, Dev.setReg_ptn, Dev.setReg_ptn]⟩
  unfold Dev.setUpProg
  generalize ((d.setReg .coreQuietLimit n (BitVec.ofNat 64 (Nat.min (leAt p 4 4) 10000000))).setReg .coreClaimLease n
    (BitVec.ofNat 64 (Nat.min (leAt p 8 4) 1000000))).setReg .coreDbgPart n (BitVec.ofNat 64 (leAt p 1 1 % 4)) = a at *
  have h2 := setUp_installGroups a n g
  generalize a.installGroups n g = b at *
  have h3 := setUp_pinCode b n g
  generalize b.pinCode n g = c at *
  have hk : Keeps [.clsGrp, .clsGrpMem, .coreIcachePin, .coreSupv] a (c.setReg .coreSupv n (BitVec.ofNat 64 (g.super + 2 ^ 31))) :=
    ((h2.keeps.mono (by simp)).trans (h3.keeps.mono (by simp))).trans (by simp)
  exact ⟨supervisor_setReg _ _ ht, (h1.mono (by simp)).trans (hk.mono (by simp)), (Dev.setReg_time ..).trans (h3.time.trans (h2.time.trans h0.1)), (Dev.setReg_ptn ..).trans (h3.ptn.trans (h2.ptn.trans h0.2)),
    (congrArg BitVec.toNat (hk.reg (by decide) n)).trans hqe, (congrArg BitVec.toNat (hk.reg (by decide) n)).trans hle⟩

section
variable {h : CmdHdr} {p : List Byte} {s : State} {e : Dev}

theorem supervisor_setPart (d : Dev) (p n : Nat) (x : Part) : (d.setPart p x).supervisor n = d.supervisor n := by
  unfold Dev.supervisor Dev.rb Dev.rf Dev.reg
  rfl

/-- What PROG_START answers once the program is set up. -/
def progStarted (h : CmdHdr) (n : Nat) (d : Dev) : FwRes :=
  if h.arg0 == 0 || decide (expandTime d.sec h.arg0 ≤ d.ns) then .answer { status := 0, r0 := timeWord d.ns, late := true } (d.release n)
  else .answer { status := 0, r0 := timeWord (d.tickAt (expandTime d.sec h.arg0)) } (d.setPart n { d.part n with startAt := some (d.tickAt (expandTime d.sec h.arg0)) })

theorem progStart_row {n : Nat} {g : Prog} (hw : Claims.Wenot 0x41 false h p s.dev e) (hp : p.length = 16) (hn : n = leAt p 0 1) (h7 : n ≤ 7) (hfl : leAt p 1 1 ≤ 3)
    (hz : leAt p 2 2 = 0) (hz' : leAt p 12 4 = 0) (ht : timeWordOk h.arg0 = true) (hq : leAt p 4 4 ≤ 10000000) (hl : leAt p 8 4 ≤ 1000000) (h1 : e.partState n = 1)
    (hg : (e.part n).prog = some g) (hs : e.started n = false) (hsup : e.superOk n g = true) {a : FwAns} {e' : Dev} {P : Dev → Prop}
    (ha : progStarted h n (e.setUpProg n g p) = .answer a e') (hP : P e') : Claims.Gives (.progStart h) 0x41 h s a P := by
  have hkeep : nbit (leAt p 1 1) 2 = false := by
    rw [nbit, Nat.testBit_eq_decide_div_mod_eq]
    simp only [decide_eq_false_iff_not]
    omega
  have hclamp : (decide (10000000 < leAt p 4 4) || decide (1000000 < leAt p 8 4)) = false := by
    simp only [Bool.or_eq_false_iff, decide_eq_false_iff_not]
    omega
  refine gives_of_row (c := .progStart h) rfl hw ?_ hP
  subst hn
  rw [← ha]
  dsimp only
  rw [if_neg (by simp [hp, hz, hz', ht]; omega), partReady_of h1, hg]
  dsimp only
  rw [if_neg (by simp [hs]), if_neg (by simp [hsup]), hkeep, hclamp, if_neg Bool.false_ne_true, if_neg (c := (!false && false) = true) (by decide)]
  rfl

theorem progStart_gives {n : Nat} {g : Prog} (hw : Claims.Wenot 0x41 false h p s.dev e) (hp : p.length = 16) (hn : n = leAt p 0 1) (h7 : n ≤ 7) (hfl : leAt p 1 1 ≤ 3)
    (hz : leAt p 2 2 = 0) (hz' : leAt p 12 4 = 0) (ht : timeWordOk h.arg0 = true) (hq : leAt p 4 4 ≤ 10000000) (hl : leAt p 8 4 ≤ 1000000) (h1 : e.partState n = 1)
    (hg : (e.part n).prog = some g) (hs : e.started n = false) (hsup : e.superOk n g = true) :
    (h.arg0 = 0 ∨ expandTime e.sec h.arg0 ≤ e.ns → Claims.Gives (.progStart h) 0x41 h s { r0 := timeWord e.ns, late := true } (fun d => ∃ d1 : Dev, d = d1.release n ∧
      d1.supervisor n = some g.super ∧ d1.thr = e.thr ∧ d1.mem = e.mem ∧ (d1.reg .coreQuietLimit n).toNat = leAt p 4 4 ∧ (d1.reg .coreClaimLease n).toNat = leAt p 8 4)) ∧
    (h.arg0 ≠ 0 → e.ns < expandTime e.sec h.arg0 → Claims.Gives (.progStart h) 0x41 h s { r0 := timeWord (e.tickAt (expandTime e.sec h.arg0)) } (fun d =>
      (d.part n).startAt = some (e.tickAt (expandTime e.sec h.arg0)) ∧ d.supervisor n = some g.super ∧ d.thr = e.thr ∧ d.mem = e.mem)) := by
  have hlt : g.super < 512 := by
    simp only [Dev.superOk, Bool.and_eq_true, timed, decide_eq_true_eq] at hsup
    exact hsup.1
  obtain ⟨hsuper, hk, htime, hptn, hquiet, hlease⟩ := setUpProg_shows e n hlt hq hl
  have hns : (e.setUpProg n g p).ns = e.ns := by rw [Dev.ns, htime, ← Dev.ns]
  have hsec : (e.setUpProg n g p).sec = e.sec := by rw [Dev.sec, hns, ← Dev.sec]
  have htick : ∀ t, (e.setUpProg n g p).tickAt t = e.tickAt t := fun t => by
    rw [Dev.tickAt, hk.rf (by decide), htime, hns, ← Dev.tickAt]
  have hrow := fun {a : FwAns} {e' : Dev} {P : Dev → Prop} => progStart_row (a := a) (e' := e') (P := P) hw hp hn h7 hfl hz hz' ht hq hl h1 hg hs hsup
  generalize e.setUpProg n g p = x at *
  refine ⟨fun hlate => hrow (e' := x.release n) ?_ ⟨x, rfl, hsuper, hk.2.2, hk.2.1, hquiet, hlease⟩, fun h0 hlater =>
    hrow (e' := x.setPart n { x.part n with startAt := some (x.tickAt (expandTime x.sec h.arg0)) }) ?_ ⟨?_, (supervisor_setPart ..).trans hsuper, (Dev.setPart_thr ..).trans hk.2.2, (Dev.setPart_mem ..).trans hk.2.1⟩⟩
  · rw [progStarted, hns, hsec, if_pos (by simpa using hlate)]
  · rw [progStarted, hns, hsec, if_neg (by rw [Bool.or_eq_true, not_or]; exact ⟨fun hc => h0 (eq_of_beq hc), by simp [hlater]⟩), htick]
  · rw [Dev.part_setPart_same, hsec, htick]

theorem progStopped_shows (d : Dev) (n : Nat) (x : Part) : (((d.setRb .coreSupv n 31 false).setPart n x).fresh.2).supervisor n = none ∧
    (((d.setRb .coreSupv n 31 false).setPart n x).fresh.2).part n = x := by
  have hb := Dev.rb_setRb_same d .coreSupv n 31 false (by decide)
  generalize d.setRb .coreSupv n 31 false = y at *
  refine ⟨?_, Dev.part_setPart_same y n x⟩
  have hx : ((y.setPart n x).fresh.2).rb .coreSupv n 31 = false := hb
  rw [Dev.supervisor, if_neg (by simp [hx])]

theorem progStop_gives {n : Nat} (hw : Claims.Wenot 0x42 true h p s.dev e) (hn : n = h.arg0.toNat) (h1 : e.partState n = 1) : ∃ v, v ≤ 250000 ∧
    Claims.Gives (.progStop h) 0x42 h s { r0 := BitVec.ofNat 64 v } (fun d => d.supervisor n = none ∧ (d.part n).startAt = none ∧
      ∃ d1 : Dev, d1 = (e.coresOf n).foldl (fun d c => d.coreReset c false) e ∧ d.thr = d1.thr ∧ d.mem = d1.mem) := by
  have h7 : ¬ 7 < n := by
    obtain ⟨-, -, -, -, ha, -⟩ := hw
    simp only [argBad, Bool.or_eq_false_iff, bne_eq_false_iff_eq] at ha
    have hle : h.arg0.toNat &&& 7 ≤ 7 := Nat.and_le_right
    have := ha.1
    rw [show (argMask 66).1 = 7 from rfl] at this
    omega
  have hrow : ∀ {a : FwAns} {e' : Dev} {P : Dev → Prop}, (fun d : Dev =>
      FwRes.ok d.fresh.2 (d.fresh.1.toNat % 250001)) ((((e.coresOf n).foldl (fun d c => d.coreReset c false) e).setRb .coreSupv n 31 false).setPart n
        { (((e.coresOf n).foldl (fun d c => d.coreReset c false) e).setRb .coreSupv n 31 false).part n with startAt := none, quietSince := none }) = .answer a e' → P e' →
      Claims.Gives (.progStop h) 0x42 h s a P := by
    intro a e' P ha hP
    refine gives_of_row (c := .progStop h) rfl hw ?_ hP
    subst hn
    rw [← ha]
    dsimp only
    rw [if_neg h7, partReady_of h1]
    rfl
  generalize hd : (e.coresOf n).foldl (fun d c => d.coreReset c false) e = d1 at *
  refine ⟨_, Nat.le_of_lt_succ (Nat.mod_lt _ (by decide)), hrow rfl ⟨?_, ?_, d1, rfl, rfl, rfl⟩⟩
  · exact (progStopped_shows ..).1
  · exact congrArg Part.startAt (progStopped_shows ..).2

end

/-! ## KEY_IMPORT, KEY_GENERATE, KEY_RETIRE and KEY_QUERY (R205 to R215, R219, R220) -/

theorem slot_setSlot_ne (d : Dev) {n k : Nat} (x : KeySlot) (h : k ≠ n) : (d.setSlot n x).slot k = d.slot k :=
  tabGet_put_ne d.keys.slots {} x h {}

theorem keeps_setSlot (d : Dev) (n : Nat) (x : KeySlot) : Keeps [.keyStat, .keyDateStat] d (d.setSlot n x) := by
  obtain ⟨v, w, h⟩ := ({ d with keys := { d.keys with slots := tabPut d.keys.slots {} n x } } : Dev).keyCounts_eq
  rw [Dev.setSlot, h]
  exact Keeps.trans (b := { d with keys := { d.keys with slots := tabPut d.keys.slots {} n x } }) ⟨fun _ _ _ => rfl, rfl, rfl⟩
    ((keeps_setReg _ (by decide) 0 v).trans (keeps_setReg _ (by decide) 0 w))

theorem logSlot_slot (d : Dev) (n k : Nat) : (d.logSlot n).slot k = d.slot k := by
  unfold Dev.logSlot
  dsimp only
  split <;> rfl

theorem keeps_logSlot (d : Dev) (n : Nat) : Keeps [] d (d.logSlot n) := by
  unfold Dev.logSlot
  dsimp only
  split <;> exact ⟨fun _ _ _ => rfl, rfl, rfl⟩

/-- A slot as a command fills it. -/
structure Filled (n : Nat) (x : KeySlot) (d e : Dev) : Prop where
  slot : e.slot n = x
  log : x.persistent = true → tabGet e.keys.log {} n = x
  other : ∀ k, k ≠ n → e.slot k = d.slot k
  keeps : Keeps [.keyStat, .keyDateStat] d e

theorem filled_logged (d : Dev) (n : Nat) (x : KeySlot) : Filled n x d ((d.setSlot n x).logSlot n) := by
  have hs := Dev.slot_setSlot d n x
  refine ⟨(logSlot_slot ..).trans hs, fun hp => ?_, fun k hk => (logSlot_slot ..).trans (slot_setSlot_ne d x hk), (keeps_setSlot d n x).trans ((keeps_logSlot _ _).mono (by simp))⟩
  rw [Dev.logSlot, hs, if_pos hp]
  exact tabGet_put_same ..

theorem keyCreate_fills (d : Dev) (n : Nat) (x : KeySlot) : ∃ e, d.keyCreate n x = FwRes.ok e n x.kcv.toNat ∧ Filled n x d e := by
  have hf := filled_logged d n x
  refine ⟨_, rfl, ?_⟩
  generalize (d.setSlot n x).logSlot n = y at *
  split
  · exact ⟨hf.slot, hf.log, hf.other, hf.keeps.trans ⟨fun _ _ _ => rfl, rfl, rfl⟩⟩
  · exact hf

theorem logErase_ready {d : Dev} {p : List Byte} (h : leAt p 3 1 = 0 ∨ d.boot.warnAt = none) : d.logErase p = (false, d) := by
  rw [Dev.logErase, if_neg]
  rintro ⟨h1, h2⟩
  rcases h with h | h
  · omega
  · simp [h] at h2

theorem setSlot_time (d : Dev) (n : Nat) (x : KeySlot) : (d.setSlot n x).time = d.time := by
  obtain ⟨v, w, h⟩ := ({ d with keys := { d.keys with slots := tabPut d.keys.slots {} n x } } : Dev).keyCounts_eq
  rw [Dev.setSlot, h, Dev.setReg_time, Dev.setReg_time]

theorem countUse_eq (d : Dev) (k : Nat) : ∃ x l, d.countUse k = { d.setSlot k x with life := l } := ⟨_, _, rfl⟩

theorem slot_withLife (d : Dev) (l : Life) (j : Nat) : ({ d with life := l } : Dev).slot j = d.slot j := rfl

theorem countUse_slot (d : Dev) {j k : Nat} (h : j ≠ k) : (d.countUse k).slot j = d.slot j := by
  obtain ⟨x, l, he⟩ := countUse_eq d k
  rw [he, slot_withLife, slot_setSlot_ne d x h]

theorem keeps_withLife (d : Dev) (l : Life) (rs : List Reg) : Keeps rs d { d with life := l } := ⟨fun _ _ _ => rfl, rfl, rfl⟩

theorem keeps_countUse (d : Dev) (k : Nat) : Keeps [.keyStat, .keyDateStat] d (d.countUse k) := by
  obtain ⟨x, l, he⟩ := countUse_eq d k
  rw [he]
  exact (keeps_setSlot d k x).trans (keeps_withLife ..)

theorem countUse_time (d : Dev) (k : Nat) : (d.countUse k).time = d.time := by
  obtain ⟨x, l, he⟩ := countUse_eq d k
  exact (congrArg Dev.time he).trans (setSlot_time d k x)

/-- A key that wraps the imported one is used once. -/
def Dev.useOf (d : Dev) (from_ : Option Nat) : Dev := match from_ with | some k => d.countUse k | none => d

theorem useOf_rest (d : Dev) (from_ : Option Nat) : (∀ j, from_ ≠ some j → (d.useOf from_).slot j = d.slot j) ∧ Keeps [.keyStat, .keyDateStat] d (d.useOf from_) ∧
    (d.useOf from_).time = d.time := by
  cases from_ with
  | none => exact ⟨fun _ _ => rfl, Keeps.refl _ _, rfl⟩
  | some k => exact ⟨fun j hj => countUse_slot d fun e => hj (congrArg some e.symm), keeps_countUse d k, countUse_time d k⟩

theorem kcv_keyOf (p m : List Byte) (g : Bool) (now : Nat) : BitVec.ofNat 64 (keyOf p m g now).kcv.toNat = (kcvOf (m.take (if leAt p 5 1 = 1 then 32 else 16))).setWidth 64 := by
  rw [BitVec.ofNat_toNat]
  show (kcvOf (m.take (if (leAt p 5 1 == 1) = true then 32 else 16))).setWidth 64 = _
  simp only [beq_iff_eq]

section
variable {h : CmdHdr} {p : List Byte} {s : State} {e : Dev}

theorem keyImport_gives {n : Nat} {kek m : List Byte} {from_ : Option Nat} (hw : Claims.Wenot 0x50 false h p s.dev e) (hb : keyFieldsBad p true = false)
    (hc : e.keyChecks p e.board.root.isNone = .ok n) (hk : e.keyKek p = .ok (kek, from_)) (hl : leAt p 3 1 = 0 ∨ e.boot.warnAt = none)
    (hu : kwpUnwrap kek (slice p 40 (leAt p 34 2)) = some m) (hm : m.length = materialLen (leAt p 4 1) (if leAt p 5 1 = 1 then 32 else 16)) :
    Claims.Gives (.keyImport h) 0x50 h s { r0 := BitVec.ofNat 64 n, r1 := (kcvOf (m.take (if leAt p 5 1 = 1 then 32 else 16))).setWidth 64 } (fun d =>
      d.slot n = keyOf p m false e.sec ∧ (leAt p 3 1 = 1 → tabGet d.keys.log {} n = keyOf p m false e.sec) ∧
      (∀ k, k ≠ n → from_ ≠ some k → d.slot k = e.slot k) ∧ Keeps [.keyStat, .keyDateStat] e d) := by
  obtain ⟨hslot, hkeep, htime⟩ := useOf_rest e from_
  obtain ⟨x, hx, hfill⟩ := keyCreate_fills (e.useOf from_) n (keyOf p m false e.sec)
  refine gives_of_row (c := .keyImport h) rfl hw (e' := x) ?_
    ⟨hfill.slot, fun h1 => hfill.log (by simp [keyOf, h1]), fun k hkn hf => (hfill.other k hkn).trans (hslot k hf), hkeep.trans hfill.keeps⟩
  dsimp only
  rw [hb, if_neg Bool.false_ne_true, hc]
  dsimp only
  rw [hk]
  dsimp only
  rw [logErase_ready hl]
  dsimp only
  rw [if_neg Bool.false_ne_true, hu]
  dsimp only
  rw [if_pos hm, ← kcv_keyOf p m false e.sec]
  exact hx

theorem keyGenerate_gives {n : Nat} {m : List Byte} (hw : Claims.Wenot 0x51 false h p s.dev e) (hb : keyFieldsBad p false = false) (hr : e.rb .keyRngStat 0 0 = true)
    (hc : e.keyChecks p (leAt p 3 1 == 1 && e.board.root.isNone) = .ok n) (hd : (e.inDuplex (leAt p 2 1) && e.dpxExternal (leAt p 2 1)) = false)
    (hl : leAt p 3 1 = 0 ∨ e.boot.warnAt = none) (hm : m = (List.range (materialLen (leAt p 4 1) (if leAt p 5 1 = 1 then 32 else 16))).map (Config.randomByte e.free)) :
    Claims.Gives (.keyGenerate h) 0x51 h s { r0 := BitVec.ofNat 64 n, r1 := (kcvOf (m.take (if leAt p 5 1 = 1 then 32 else 16))).setWidth 64 } (fun d =>
      d.slot n = keyOf p m true e.sec ∧ (∀ k, k ≠ n → d.slot k = e.slot k) ∧ Keeps [.keyStat, .keyDateStat] e d) := by
  obtain ⟨x, hx, hfill⟩ := keyCreate_fills { e with free := e.free + 1 } n (keyOf p m true e.sec)
  have hkeep : Keeps [.keyStat, .keyDateStat] e { e with free := e.free + 1 } := ⟨fun _ _ _ => rfl, rfl, rfl⟩
  refine gives_of_row (c := .keyGenerate h) rfl hw (e' := x) ?_ ⟨hfill.slot, hfill.other, hkeep.trans hfill.keeps⟩
  dsimp only
  rw [hb, if_neg Bool.false_ne_true, hr, Bool.not_true, Bool.false_or, hc]
  dsimp only
  rw [if_neg (by simp [hd]), logErase_ready hl]
  dsimp only
  rw [if_neg Bool.false_ne_true, ← kcv_keyOf p m true e.sec, hm]
  rw [hm] at hx
  exact hx

end

theorem setSlot_keys (d : Dev) (n : Nat) (x : KeySlot) : (d.setSlot n x).keys = { d.keys with slots := tabPut d.keys.slots {} n x } := by
  obtain ⟨v, w, h⟩ := ({ d with keys := { d.keys with slots := tabPut d.keys.slots {} n x } } : Dev).keyCounts_eq
  rw [Dev.setSlot, h, Dev.setReg_keys, Dev.setReg_keys]

theorem setKeyCache_keys (d : Dev) (i : Nat) (c : List Nat) : (d.setKeyCache i c).keys = { d.keys with cache := tabPut d.keys.cache [] i c } := by
  rw [Dev.setKeyCache, Dev.setRf_keys]

/-- A slot is taken out of every engine's cache, and no slot has moved. -/
theorem purgeSlot_shows (d : Dev) (n : Nat) : (∀ i < 4, (d.purgeSlot n).keyCache i = (d.keyCache i).erase n) ∧
    (d.purgeSlot n).keys = { d.keys with cache := (d.purgeSlot n).keys.cache } := by
  constructor
  · intro i hi
    refine foldl_each (f := fun (x : Dev) a => x.setKeyCache a ((x.keyCache a).erase n)) (pre := fun a x => x.keyCache a = d.keyCache a)
      (post := fun a x => x.keyCache a = (d.keyCache a).erase n) (fun x a h => ?_) (fun x a c hc h => ?_) (fun x a c hc h => ?_) (List.range 4) List.nodup_range d (fun _ _ => rfl)
      i (List.mem_range.2 hi)
    · rw [Dev.keyCache, setKeyCache_keys, tabGet_put_same, h]
    · rw [Dev.keyCache, setKeyCache_keys, tabGet_put_ne _ _ _ hc.symm]
      exact h
    · rw [Dev.keyCache, setKeyCache_keys, tabGet_put_ne _ _ _ hc.symm]
      exact h
  · exact foldl_related (f := fun (x : Dev) a => x.setKeyCache a ((x.keyCache a).erase n)) (R := fun a b : Dev => b.keys = { a.keys with cache := b.keys.cache })
      (fun _ => rfl) (fun {_ _ _} h h' => by rw [h', h]) (fun x a => by rw [setKeyCache_keys]) (List.range 4) d

section
variable {h : CmdHdr} {p : List Byte} {s : State} {e : Dev}

/-- A slot without operations is retired at once. -/
theorem retireStep_shows {d : Dev} {n : Nat} (h2 : (d.slot n).state = 2) (hu : d.slotInUse n = false) (hr : n ∉ d.keys.retiring) :
    (d.retireStep n).slot n = {} ∧ (∀ k, k ≠ n → (d.retireStep n).slot k = d.slot k) ∧ ∀ i < 4, (d.retireStep n).keyCache i = (d.keyCache i).erase n := by
  obtain ⟨hcache, hkeys⟩ := purgeSlot_shows d n
  have hs : ((d.purgeSlot n).setSlot n {}).keys = { d.keys with cache := (d.purgeSlot n).keys.cache, slots := tabPut d.keys.slots {} n {} } := by
    rw [setSlot_keys, hkeys]
  have hc : ((d.purgeSlot n).setSlot n {}).keys.retiring.contains n = false := by
    rw [hs]
    simpa using hr
  have hcase : d.retireStep n = ({ (d.purgeSlot n).setSlot n {} with keys := { ((d.purgeSlot n).setSlot n {}).keys with
      log := tabDel n ((d.purgeSlot n).setSlot n {}).keys.log, ceilPend := tabDel n ((d.purgeSlot n).setSlot n {}).keys.ceilPend,
      retiring := ((d.purgeSlot n).setSlot n {}).keys.retiring.erase n } } : Dev).setRf .keyLogStat 0 0 14 (tabDel n ((d.purgeSlot n).setSlot n {}).keys.ceilPend).length := by
    rw [Dev.retireStep, if_neg (by simp [h2, hu])]
    exact if_neg (by rw [hc]; exact Bool.false_ne_true)
  have hk : (d.retireStep n).keys.slots = tabPut d.keys.slots {} n {} ∧ (d.retireStep n).keys.cache = (d.purgeSlot n).keys.cache := by
    rw [hcase, Dev.setRf_keys, hs]
    exact ⟨rfl, rfl⟩
  refine ⟨?_, fun k hkn => ?_, fun i hi => ?_⟩
  · rw [Dev.slot, hk.1, tabGet_put_same]
  · rw [Dev.slot, hk.1, tabGet_put_ne _ _ _ hkn, ← Dev.slot]
  · rw [Dev.keyCache, hk.2]
    exact hcache i hi

theorem fwOk_plain (d : Dev) : FwRes.ok d = .answer {} d := rfl

theorem addRetiring_shows (d : Dev) (n : Nat) : (∀ k, ({ d with keys := { d.keys with retiring := n :: d.keys.retiring } } : Dev).slot k = d.slot k) ∧
    n ∈ ({ d with keys := { d.keys with retiring := n :: d.keys.retiring } } : Dev).keys.retiring := ⟨fun _ => rfl, List.mem_cons_self⟩

theorem keyRetire_gives {n : Nat} (hw : Claims.Wenot 0x52 true h p s.dev e) (hn : n = h.arg0.toNat) (hs : (e.slot n).state ≠ 0) :
    (e.slotInUse n = true → Claims.Begins (.keyRetire h) 0x52 h s (fun d => d.slot n = { e.slot n with state := 2 } ∧ (∀ k, k ≠ n → d.slot k = e.slot k) ∧ n ∈ d.keys.retiring)) ∧
    (e.slotInUse n = false → n ∉ e.keys.retiring → Claims.Gives (.keyRetire h) 0x52 h s {} (fun d => d.slot n = {} ∧ (∀ k, k ≠ n → d.slot k = e.slot k) ∧
      ∀ i < 4, n ∉ (e.keyCache i).erase n → n ∉ d.keyCache i)) := by
  have hlt : ¬ 65536 ≤ n := by
    obtain ⟨-, -, -, -, ha, -⟩ := hw
    simp only [argBad, Bool.or_eq_false_iff, bne_eq_false_iff_eq] at ha
    have hle : h.arg0.toNat &&& 0xFFFF ≤ 0xFFFF := Nat.and_le_right
    have := ha.1
    rw [show (argMask 0x52).1 = 0xFFFF from rfl] at this
    omega
  have hk := setSlot_keys e n { e.slot n with state := 2 }
  have hsame := Dev.slot_setSlot e n { e.slot n with state := 2 }
  have hother := fun k (hkn : k ≠ n) => slot_setSlot_ne e { e.slot n with state := 2 } hkn
  have huse : (e.setSlot n { e.slot n with state := 2 }).slotInUse n = e.slotInUse n := by
    rw [Dev.slotInUse, hk, ← Dev.slotInUse]
  have hcache : ∀ i, (e.setSlot n { e.slot n with state := 2 }).keyCache i = e.keyCache i := fun i => by
    rw [Dev.keyCache, hk, ← Dev.keyCache]
  have hret : (e.setSlot n { e.slot n with state := 2 }).keys.retiring = e.keys.retiring := by rw [hk]
  refine ⟨fun hu => ?_, fun hu hr => ?_⟩
  · refine begins_of_row (c := .keyRetire h) rfl hw (e' := { e.setSlot n { e.slot n with state := 2 } with
      keys := { (e.setSlot n { e.slot n with state := 2 }).keys with retiring := n :: (e.setSlot n { e.slot n with state := 2 }).keys.retiring } }) ?_ ?_
    · subst hn
      dsimp only
      rw [if_neg hlt, if_neg hs, huse, if_pos hu]
    · obtain ⟨hslots, hmem⟩ := addRetiring_shows (e.setSlot n { e.slot n with state := 2 }) n
      exact ⟨(hslots n).trans hsame, fun k hkn => (hslots k).trans (hother k hkn), hmem⟩
  · obtain ⟨r1, r2, r3⟩ := retireStep_shows (d := e.setSlot n { e.slot n with state := 2 }) (n := n) (by rw [hsame]) (huse.trans hu) (by rw [hret]; exact hr)
    refine gives_of_row (c := .keyRetire h) rfl hw (e' := (e.setSlot n { e.slot n with state := 2 }).retireStep n) ?_ ?_
    · subst hn
      dsimp only
      rw [if_neg hlt, if_neg hs, huse, if_neg (by simp [hu])]
      exact fwOk_plain _
    · exact ⟨r1, fun k hkn => (r2 k hkn).trans (hother k hkn), fun i hi hc => by rw [r3 i hi, hcache]; exact hc⟩

theorem keyQuery_gives {first count : Nat} (hw : Claims.Wenot 0x53 false h p s.dev e) (hfirst : first = wf h.arg0 0 16) (hcount : count = wf h.arg0 16 10 + 1)
    (h0 : h.arg0.toNat < 2 ^ 26) (h1 : h.arg1.toNat < 2) :
    (h.arg1 = 0 → p = [] → first + count ≤ 65536 → Claims.Gives (.keyQuery h) 0x53 h s
      { r0 := BitVec.ofNat 64 count, out := (List.range count).flatMap (fun k => (e.slot (first + k)).record (first + k)) } (fun d => d = e)) ∧
    (∀ x, h.arg1 = 1 → p.length = 16 → count = 1 → leAt p 6 2 = 0 → leAt p 14 2 = 0 → (e.slot first).state ≠ 0 → e.partState (e.slot first).owner = 1 →
      x = { e.slot first with
            expires := leAt p 0 6, verifyDue := leAt p 8 6, expired := (e.slot first).expired && !movedOn (e.slot first).expires (leAt p 0 6),
            dueRaised := (e.slot first).dueRaised && !movedOn (e.slot first).verifyDue (leAt p 8 6) } →
      Claims.Gives (.keyQuery h) 0x53 h s { r0 := 1, out := x.record first } (fun d => d.slot first = x ∧ (∀ k, k ≠ first → d.slot k = e.slot k) ∧
        Keeps [.keyStat, .keyDateStat] e d)) := by
  have hz1 : h.arg1.toNat / 2 = 0 := Nat.div_eq_of_lt h1
  refine ⟨fun ha hp hc => ?_, fun x ha hp hc h6 h14 hs hr hx => ?_⟩
  · have hset : wbit h.arg1 0 = false := by rw [ha]; rfl
    refine gives_of_row (c := .keyQuery h) rfl hw (e' := e) ?_ rfl
    subst hfirst hcount
    dsimp only
    rw [hset, if_neg (by simp [hz1, hp]; omega)]
    rfl
  · have hset : wbit h.arg1 0 = true := by rw [ha]; rfl
    obtain ⟨f1, -, f3, f4⟩ := filled_logged e first x
    have hlow : first < 65536 := by
      rw [hfirst, wf_eq_mod]
      omega
    refine gives_of_row (c := .keyQuery h) rfl hw (e' := (e.setSlot first x).logSlot first) ?_ ⟨f1, f3, f4⟩
    have hout : (List.range 1).flatMap (fun k => (((e.setSlot first x).logSlot first).slot (first + k)).record (first + k)) = x.record first := by
      rw [show List.range 1 = [0] from rfl, List.flatMap_singleton, Nat.add_zero, f1]
    rw [← hout]
    dsimp only
    rw [hset, ← hfirst, ← hcount, hc, if_neg (by simp [hz1, hp, h6, h14]; omega), if_neg (by simp [hs]), if_neg (by simp [hr]), ← hx]
    rfl

end

/-- Settles O46. -/
theorem programAndKeyCommandsAct : Obligations.ProgramAndKeyCommandsAct := fun _ _ _ _ =>
  ⟨fun _ _ => progLoad_gives, fun _ _ => progStart_gives, fun _ => progStop_gives, fun _ _ _ _ => keyImport_gives, fun _ _ => keyGenerate_gives,
    fun _ => keyRetire_gives, fun _ _ => keyQuery_gives⟩

end Sys2Proof.Machine
end

section
/-! PROOFS. The remaining Wenot commands (R369 to R371, R382 to R388, R400, R404 to R407, R410, R411, R436, R439). -/
namespace Sys2Proof.Machine
open Sys2Proof

section
variable {h : CmdHdr} {p : List Byte} {s : State} {e : Dev}

/-! ## Identity, status, configuration (R369 to R371, R382) -/

theorem devIdentify_gives (hw : Claims.Wenot 0x01 true h p s.dev e) : Claims.Gives (.devIdentify h) 0x01 h s { out := e.identity } (fun d => d = e) :=
  gives_of_row (c := .devIdentify h) rfl hw (e' := e) rfl rfl

theorem statusRecord_state (d : Dev) {k : Nat} (hk : k < 8) : d.statusRecord.getD (2 + k) 0 = BitVec.ofNat 8 (d.partState k) := by
  have h8 : List.range 8 = [0, 1, 2, 3, 4, 5, 6, 7] := rfl
  unfold Dev.statusRecord
  rw [h8]
  interval_cases k <;> rfl

theorem devStatus_gives (hw : Claims.Wenot 0x02 true h p s.dev e) :
    Claims.Gives (.devStatus h) 0x02 h s { out := e.statusRecord } (fun d => d = { e with fw := { e.fw with viewUnread := false } }) ∧
    ∀ k < 8, e.statusRecord.getD (2 + k) 0 = BitVec.ofNat 8 (e.partState k) :=
  ⟨gives_of_row (c := .devStatus h) rfl hw (e' := { e with fw := { e.fw with viewUnread := false } }) rfl rfl, fun _ => statusRecord_state e⟩

theorem cfgReport_gives (hw : Claims.Wenot 0x10 true h p s.dev e) (h0 : h.arg0 = 0) :
    Claims.Gives (.cfgReport h) 0x10 h s { r0 := BitVec.ofNat 64 (leAt e.fw.report 32 2), out := e.fw.report } (fun d => d = e) :=
  gives_of_row (c := .cfgReport h) rfl hw (e' := e) (if_pos h0) rfl

theorem foldl_length (rs : List (List Byte)) : rs.foldl (fun a r => a + r.length) 0 = (rs.map List.length).sum := by
  rw [List.sum_eq_foldl, List.foldl_map]

theorem cfgStage_gives {rs all : List (List Byte)} (hw : Claims.Wenot 0x11 false h p s.dev e) (hr : recsOf p = some rs)
    (ht : ∀ r ∈ rs, recType r = 0 ∨ recType r = 1 ∨ recType r = 6) (ha : all = (if h.arg0 = 1 then [] else e.fw.staged) ++ rs) (hl : (all.map List.length).sum ≤ 1048576) :
    Claims.Gives (.cfgStage h) 0x11 h s { r0 := BitVec.ofNat 64 (all.map List.length).sum } (fun d => d.fw.staged = all ∧ Keeps [.cfgStageStat] e d ∧
      (d.reg .cfgStageStat 0).toNat = (all.map List.length).sum) := by
  have hlen : ({ e with fw := { e.fw with staged := all } } : Dev).stagedLen = (all.map List.length).sum := foldl_length all
  have hset : (e.setStaged all).stagedLen = (all.map List.length).sum := by
    rw [Dev.setStaged, Dev.stagedLen, Dev.setReg_fw]
    exact foldl_length all
  have hall : rs.all (fun r => [0, 1, 6].contains (recType r)) = true := List.all_eq_true.2 fun r hr => by simpa using ht r hr
  refine gives_of_row (c := .cfgStage h) rfl hw (e' := e.setStaged all) ?_ ⟨?_, ?_, ?_⟩
  · dsimp only
    rw [hr]
    dsimp only
    rw [← ha, if_neg (by rw [hall]; exact Bool.false_ne_true), foldl_length, if_neg (Nat.not_lt.2 hl), hset]
    rfl
  · rw [Dev.setStaged, Dev.setReg_fw]
  · exact Keeps.trans (b := { e with fw := { e.fw with staged := all } }) ⟨fun _ _ _ => rfl, rfl, rfl⟩ (keeps_setReg _ (by decide) 0 _)
  · rw [Dev.setStaged, Dev.reg_setReg_same, hlen, BitVec.toNat_ofNat, Nat.mod_eq_of_lt (by omega)]

/-! ## CFG_COMMIT (R371, R382) -/

theorem confWord_fw (d : Dev) (isl off v : Nat) : (d.confWord isl off v).1.fw = d.fw := by
  unfold Dev.confWord
  split
  · split
    · rfl
    · rw [Dev.setReg_fw]
  · rfl

theorem confRecord_staged (d : Dev) (k : Nat) (r : List Byte) : (d.confRecord k r).1.fw.staged = d.fw.staged := by
  refine foldl_related (R := fun a b : Dev × Nat => b.1.fw.staged = a.1.fw.staged) (fun _ => rfl) (fun h h' => h'.trans h) (fun a w => ?_) _ (d, 0)
  show (a.1.confWord (leAt r 8 1) (leAt r 12 4 + 4 * w.2) w.1).1.fw.staged = a.1.fw.staged
  rw [confWord_fw]

theorem confRecords_staged (d : Dev) (rs : List (List Byte)) : (d.confRecords rs).1.fw.staged = d.fw.staged := by
  refine foldl_related (R := fun a b : Dev × Nat => b.1.fw.staged = a.1.fw.staged) (fun _ => rfl) (fun h h' => h'.trans h) (fun a r => ?_) _ (d, 0)
  dsimp only
  split
  · exact confRecord_staged a.1 _ _
  · split <;> rfl

theorem logReport_staged (d : Dev) : (d.logReport).fw.staged = d.fw.staged := by
  unfold Dev.logReport Dev.eraseSlot
  dsimp only
  split
  · refine (foldl_related (R := fun a b : Dev => b.fw.staged = a.fw.staged) (fun _ => rfl) (fun h h' => h'.trans h) (fun x a => ?_) _ _).trans rfl
    split <;> rfl
  · rw [Dev.incRf_fw]

/-- Firmware with the report of a commit in hand. -/
def Dev.withReport (d : Dev) (w : Fw) (source : Nat) : Dev :=
  { d with fw := { w with report := ({ d with fw := w } : Dev).reportBytes source 0 0 0 } }

/-- The checked registers with what the commit has recorded in the meantime. -/
def Dev.commitTo (d x : Dev) : Dev := { x with board := d.board, life := d.life, cnt := d.cnt, fw := d.fw }

/-- What a commit that does not persist means once its report is written. -/
def commitNow (d x : Dev) (n : Nat) : FwRes :=
  if d.fw.staged.any (fun r => recType r == 6) then .fail 0x04 d
  else match d.commitBad (d.commitTo x) with
    | some c => .fail c d
    | none => .answer { status := if n = 0 then 0 else 1, r0 := BitVec.ofNat 64 n } ((d.commitRegs (d.commitTo x)).setStaged [])

theorem cfgCommit_answers {x : Dev} {n : Nat} (hw : Claims.Wenot 0x12 true h p s.dev e)
    (hx : (x, n) = ({ e with fw := { e.fw with ents := [], entTotal := 0, reportSeq := e.fw.reportSeq + 1 } } : Dev).confRecords e.fw.staged) :
    (h.arg0 = 2 → Claims.Gives (.cfgCommit h) 0x12 h s { status := if n = 0 then 0 else 1, r0 := BitVec.ofNat 64 n } (fun d => d.regs = e.regs ∧ d.mem = e.mem ∧ d.thr = e.thr ∧
      d.board = e.board ∧ d.fw.staged = e.fw.staged)) ∧
    (h.arg0 = 0 → (∀ r ∈ e.fw.staged, recType r ≠ 6) → Answers (.cfgCommit h) s (fun d => ∃ d1 e1 : Dev, Keeps [.cfgRptStat] e d1 ∧ e1.regs = x.regs ∧
      d = (match d1.commitBad e1 with
        | some c => d1.fwEnd 0x12 h { status := c }
        | none => ((d1.commitRegs e1).setStaged []).fwEnd 0x12 h { status := if n = 0 then 0 else 1, r0 := BitVec.ofNat 64 n }))) := by
  have hstaged : x.fw.staged = e.fw.staged := by
    have := confRecords_staged ({ e with fw := { e.fw with ents := [], entTotal := 0, reportSeq := e.fw.reportSeq + 1 } } : Dev) e.fw.staged
    rw [← hx] at this
    exact this
  refine ⟨fun h0 => ?_, fun h0 hno => ?_⟩
  · have hdry : nbit h.arg0.toNat 1 = true := by rw [h0]; rfl
    refine gives_of_row (c := .cfgCommit h) rfl hw (e' := e.withReport x.fw 2) ?_ ⟨rfl, rfl, rfl, rfl, hstaged⟩
    dsimp only
    rw [← hx, hdry]
    rfl
  · have hdry : nbit h.arg0.toNat 1 = false := by rw [h0]; rfl
    have hpersist : nbit h.arg0.toNat 0 = false := by rw [h0]; rfl
    have hrep : RecordsIn [.cfgRptStat] (e.withReport x.fw 1) ((e.withReport x.fw 1).reportStat false).logReport := (recordsIn_reportStat _ _).trans (recordsIn_logReport _)
    have hst : ((e.withReport x.fw 1).reportStat false).logReport.fw.staged = e.fw.staged := by
      rw [logReport_staged, Dev.reportStat, Dev.setRf_fw]
      exact hstaged
    have hkeep : Keeps [.cfgRptStat] e (e.withReport x.fw 1) := ⟨fun _ _ _ => rfl, rfl, rfl⟩
    have hany : e.fw.staged.any (fun r => recType r == 6) = false := by simpa using hno
    have hk1 := hkeep.trans hrep.keeps
    have hrow : ∀ {a : FwAns} {e' : Dev}, commitNow ((e.withReport x.fw 1).reportStat false).logReport x n = .answer a e' →
        Claims.Gives (.cfgCommit h) 0x12 h s a (fun d => d = e') := by
      intro a e' ha
      refine gives_of_row (c := .cfgCommit h) rfl hw (e' := e') ?_ rfl
      rw [← ha]
      dsimp only
      rw [← hx, hdry, hpersist]
      simp only [Bool.false_eq_true, if_false, Bool.not_false, Bool.true_and, Bool.false_and]
      rfl
    generalize ((e.withReport x.fw 1).reportStat false).logReport = d1 at *
    cases hc : d1.commitBad (d1.commitTo x) with
    | none =>
      obtain ⟨t, ht, hp, d, hd, rfl⟩ := hrow (by rw [commitNow, hst, hany, hc]; rfl) (Nat.zero_le _)
      exact ⟨t, ht, hp, d1, d1.commitTo x, hk1, rfl, by rw [hc]; exact hd⟩
    | some c =>
      obtain ⟨t, ht, hp, d, hd, rfl⟩ := hrow (by rw [commitNow, hst, hany, hc]; rfl) (Nat.zero_le _)
      exact ⟨t, ht, hp, d, d.commitTo x, hk1, rfl, by rw [hc]; exact hd⟩

/-! ## TIME_SET, TIME_STATUS and LEAP_TABLE (R27, R383 to R385) -/

theorem keeps_leapCheck (d : Dev) : Keeps [.timeUtcOffset] d d.leapCheck := by
  unfold Dev.leapCheck Dev.showUtc
  dsimp only
  split <;> simp

theorem fld_zero_step {b : Nat} (hb : b = 2 ^ 33 ∨ b = 2 ^ 33 + 2 ^ 32) : nbit b 33 = true ∧ fld b 0 30 = 0 ∧ fld b 30 2 = 0 ∧ fld b 34 30 = 0 := by
  rcases hb with rfl | rfl <;> decide

/-- What a step of device time leaves once the calendar and the sources follow. -/
structure TimeStepped (step : Int) (d e : Dev) : Prop where
  ns : e.ns = ((d.ns : Int) + step).toNat
  valid : e.rb .timeStatus 0 0 = true
  known : e.time.secsKnown = true
  mem : e.mem = d.mem

/-- Device time is valid and its seconds are known. -/
def Dev.nowKnown (d : Dev) : Dev := (d.setRb .timeStatus 0 0 true).withTime { (d.setRb .timeStatus 0 0 true).time with secsKnown := true }

theorem withTime_rb (d : Dev) (t : Time) (r : Reg) (i lo : Nat) : (d.withTime t).rb r i lo = d.rb r i lo := rfl

theorem withTime_mem (d : Dev) (t : Time) : (d.withTime t).mem = d.mem := rfl

theorem nowKnown_shows (d : Dev) : d.nowKnown.rb .timeStatus 0 0 = true ∧ d.nowKnown.time = { d.time with secsKnown := true } ∧ d.nowKnown.mem = d.mem := by
  refine ⟨?_, ?_, ?_⟩
  · rw [Dev.nowKnown, withTime_rb, Dev.rb_setRb_same _ _ _ _ _ (by decide)]
  · rw [Dev.nowKnown, Dev.setRb_time]
    rfl
  · rw [Dev.nowKnown, withTime_mem, Dev.setRb_mem]

theorem timeStepped_shows {d : Dev} {step : Int} (hf : d.stepFits step = true) (free : Prop) [Decidable free] :
    TimeStepped step d ((if free then (d.applyStep step).nowKnown.toHoldover 0 else (d.applyStep step).nowKnown).behindHwm.leapCheck) := by
  obtain ⟨htime, hmem⟩ := applyStep_time d step
  simp only [Dev.stepFits, Bool.and_eq_true, decide_eq_true_eq] at hf
  generalize d.applyStep step = a at *
  obtain ⟨hb, ht, hm⟩ := nowKnown_shows a
  generalize a.nowKnown = b at *
  have hc : Chooses b (if free then b.toHoldover 0 else b) := by
    split
    · exact chooses_toHoldover b 0
    · exact Chooses.refl b
  generalize (if free then b.toHoldover 0 else b) = c at *
  obtain ⟨hk, hbit, w, est, hct⟩ := hc
  have hlast : c.behindHwm.leapCheck.time = c.time := (leapCheck_time _).trans (Dev.setRb_time ..)
  have hkl := keeps_leapCheck c.behindHwm
  refine ⟨?_, ?_, ?_, ?_⟩
  · rw [Dev.ns, hlast, hct, ht, htime, Dev.ns]
    dsimp only
    rw [Dev.ns] at hf
    omega
  · rw [hkl.rb (by decide), Dev.behindHwm, Dev.rb_setRb_ne _ _ _ _ _ _ (by decide), hbit 0 (by decide)]
    exact hb
  · rw [hlast, hct, ht]
  · rw [hkl.2.1, Dev.behindHwm, Dev.setRb_mem, hk.2.1, hm, hmem]

theorem timeSet_gives {step : Int} (hw : Claims.Wenot 0x60 true h p s.dev e) (hb : h.arg1.toNat = 2 ^ 33 ∨ h.arg1.toNat = 2 ^ 33 + 2 ^ 32) (hs : step = h.arg0.toInt) :
    (e.stepAllowed step (wbit h.arg1 32) = true → Claims.Gives (.timeSet h) 0x60 h s { r0 := BitVec.ofInt 64 step } (fun d =>
      d.ns = ((e.ns : Int) + step).toNat ∧ d.rb .timeStatus 0 0 = true ∧ d.time.secsKnown = true ∧ d.mem = e.mem)) ∧
    (e.stepFits step = true → e.stepAllowed step (wbit h.arg1 32) = false → Claims.Gives (.timeSet h) 0x60 h s { status := 5, r1 := BitVec.ofInt 64 step } (fun d => d = e)) := by
  obtain ⟨h33, hns, h30, h34⟩ := fld_zero_step hb
  have hw32 : nbit h.arg1.toNat 32 = wbit h.arg1 32 := BitVec.testBit_toNat ..
  refine ⟨fun ha => ?_, fun hf ha => ?_⟩
  · have hf : e.stepFits step = true := by
      rw [Dev.stepAllowed, Bool.and_eq_true] at ha
      exact ha.1
    obtain ⟨t1, t2, t3, t4⟩ := timeStepped_shows hf (e.quality = 0)
    refine gives_of_row (c := .timeSet h) rfl hw (e' := (if e.quality = 0 then (e.applyStep step).nowKnown.toHoldover 0 else (e.applyStep step).nowKnown).behindHwm.leapCheck) ?_
      ⟨t1, t2, t3, t4⟩
    subst hs
    dsimp only
    rw [h33, hns, h30, h34]
    simp only [if_true, hf, hw32, ha, bne_self_eq_false, Bool.or_self, Bool.not_true, Bool.false_eq_true, if_false]
    rfl
  · refine gives_of_row (c := .timeSet h) rfl hw (e' := e) ?_ rfl
    subst hs
    dsimp only
    rw [h33, hns, h30, h34]
    simp only [if_true, hf, hw32, ha, bne_self_eq_false, Bool.or_self, Bool.not_true, Bool.not_false, Bool.false_eq_true, if_false]

theorem filter_pow {k : Nat} (hk : k < 7) : (List.range 7).filter (nbit (2 ^ k)) = [k] := by
  interval_cases k <;> decide

theorem timeStatus_gives (hw : Claims.Wenot 0x61 false h p s.dev e) :
    (h.arg0 = 0 → Claims.Gives (.timeStatus h) 0x61 h s { out := e.timeRecord } (fun d => d = e)) ∧
    (∀ k d1 fs, k < 7 → h.arg0.toNat = 2 ^ k → 4 * k + 4 ≤ p.length → (d1, fs) = e.confWord 0 (timeRunning.getD k .timeHoldLimit).info.base (leAt p (4 * k) 4) →
      Claims.Gives (.timeStatus h) 0x61 h s { status := if fs = [] then 0 else 1, out := d1.timeRecord } (fun d => d = d1)) := by
  refine ⟨fun h0 => ?_, fun k d1 fs hk hm hl hd => ?_⟩
  · refine gives_of_row (c := .timeStatus h) rfl hw (e' := e) ?_ rfl
    rw [h0]
    rfl
  · refine gives_of_row (c := .timeStatus h) rfl hw (e' := d1) ?_ rfl
    dsimp only
    rw [hm, filter_pow hk]
    simp only [List.getLast?_singleton, List.foldl_cons, List.foldl_nil, ← hd, Nat.zero_add, List.length_eq_zero_iff]
    exact if_neg (Nat.not_lt.2 hl)

/-- The leap table is taken, and the offset from UTC follows. -/
def Dev.leapSet (d : Dev) (p : List Byte) : Dev :=
  let d := { d with life := { d.life with leap := leapEntries p, leapExpiry := leAt p 8 8 } }
  (d.setRb .timeStatus 0 3 (!d.life.leap.isEmpty && decide (d.life.leapExpiry < d.sec))).leapCheck

theorem leapCheck_life (d : Dev) : d.leapCheck.life = d.life := by
  unfold Dev.leapCheck Dev.showUtc
  dsimp only
  split
  · rw [show ∀ x : Dev, (x.raiseFree 259 0 none).life = x.life from fun _ => rfl, Dev.setRf_life]
  · rw [Dev.setRf_life]

theorem leapSet_shows (d : Dev) (p : List Byte) : (d.leapSet p).life.leap = leapEntries p ∧ (d.leapSet p).life.leapExpiry = leAt p 8 8 ∧ (d.leapSet p).time = d.time ∧
    Keeps [.timeStatus, .timeUtcOffset] d (d.leapSet p) := by
  unfold Dev.leapSet
  dsimp only
  refine ⟨?_, ?_, ?_, ?_⟩
  · rw [leapCheck_life, Dev.setRb_life]
  · rw [leapCheck_life, Dev.setRb_life]
  · rw [leapCheck_time, Dev.setRb_time]
  · exact (Keeps.trans (b := { d with life := { d.life with leap := leapEntries p, leapExpiry := leAt p 8 8 } }) ⟨fun _ _ _ => rfl, rfl, rfl⟩ (keeps_setReg _ (by decide) 0 _)).trans
      ((keeps_leapCheck _).mono (by simp))

theorem leapTable_gives (hw : Claims.Wenot 0x62 false h p s.dev e) (hb : leapBad p = false) :
    Claims.Gives (.leapTable h) 0x62 h s { r0 := BitVec.ofNat 64 (leAt p 0 2) } (fun d =>
      d.life.leap = leapEntries p ∧ d.life.leapExpiry = leAt p 8 8 ∧ d.time = e.time ∧ Keeps [.timeStatus, .timeUtcOffset] e d) := by
  have hexec : exec (.leapTable h) s = wenot 0x62 false (fun p _ d =>
      if leapBad p then .fail 0x04 d else FwRes.ok (d.leapSet p) (leAt p 0 2)) h s := rfl
  obtain ⟨hl, hx, ht, hk⟩ := leapSet_shows e p
  exact gives_of_row hexec hw (e' := e.leapSet p) (if_neg (by simp [hb])) ⟨hl, hx, ht, hk⟩

/-! ## GATE_INSTALL (R191, R386) -/

theorem gateOf_setGate (d : Dev) (x : Nat) (g : Gate) : (d.setGate x g).gateOf x = g := tabGet_put_same d.pkt.gate {} x g

/-- The administrative list of a sub-port is written. -/
def Dev.gateListed (d : Dev) (x bank : Nat) (es : List Nat) : Dev :=
  (es.zip (List.range es.length)).foldl (fun d e => d.setReg .gateList ((2 * x + bank) * 1024 + e.2) (BitVec.ofNat 64 e.1)) d

theorem setUp_gateListed (d : Dev) (x bank : Nat) (es : List Nat) : SetUp [.gateList] d (d.gateListed x bank es) :=
  setUp_foldl (fun d e => setUp_setReg d (by decide) _ _) _ d

theorem zip_range_getD (es : List Nat) : es.zip (List.range es.length) = (List.range es.length).map (fun k => (es.getD k 0, k)) := by
  refine List.ext_getElem (by simp) fun k h1 h2 => ?_
  have hk : k < es.length := by simpa using h2
  simp [hk]

theorem gateListed_words (d : Dev) (x bank : Nat) (es : List Nat) {k : Nat} (hk : k < es.length) :
    (d.gateListed x bank es).reg .gateList ((2 * x + bank) * 1024 + k) = BitVec.ofNat 64 (es.getD k 0) := by
  rw [Dev.gateListed, zip_range_getD, List.foldl_map]
  exact reg_foldl_setReg .gateList (fun k => (2 * x + bank) * 1024 + k) (fun k => BitVec.ofNat 64 (es.getD k 0)) (fun i j h => Nat.add_left_cancel h) _ d k (List.mem_range.2 hk)

/-- The change of a sub-port's list is staged for a time. -/
def Dev.gateStaged (d : Dev) (x c : Nat) : Dev :=
  (((d.setReg .gateChange0 x (BitVec.ofNat 64 (c / nsPerSec % 2 ^ 32))).setReg .gateChange1 x (BitVec.ofNat 64 (c / nsPerSec / 2 ^ 32 % 2 ^ 16))).setReg .gateChange2 x
    (BitVec.ofNat 64 (c % nsPerSec))).setRb .gateStat x 1 true

theorem setUp_gateStaged (d : Dev) (x c : Nat) : SetUp [.gateChange0, .gateChange1, .gateChange2, .gateStat] d (d.gateStaged x c) :=
  (((setUp_setReg d (by decide) _ _).trans (setUp_setReg _ (by decide) _ _)).trans (setUp_setReg _ (by decide) _ _)).trans (setUp_setReg _ (by decide) _ _)

/-- A sub-port with a staged list. -/
structure GateStaged (x : Nat) (es : List Nat) (cycle base : Nat) (d e : Dev) : Prop where
  pending : e.rb .gateStat x 1 = true
  change : (e.gateOf x).change = some base
  count : (e.gateOf x).adminCount = es.length
  cycle : (e.gateOf x).adminCycle = cycle
  words : ∀ k < es.length, e.reg .gateList ((2 * x + (1 - d.operBank x)) * 1024 + k) = BitVec.ofNat 64 (es.getD k 0)
  time : e.time = d.time
  mem : e.mem = d.mem

theorem gateInstall_stages {d : Dev} {x cycle base : Nat} {es : List Nat} (hb : d.ns + 1000 ≤ base) (ext : Nat) (en : Bool) :
    ∃ e word, d.gateInstall x es cycle ext en base = (e, word, 0) ∧ GateStaged x es cycle base d e := by
  have h1 := setUp_gateListed d x (1 - d.operBank x) es
  have hw := fun k (hk : k < es.length) => gateListed_words d x (1 - d.operBank x) es hk
  have h2 := setUp_gateStaged (d.gateListed x (1 - d.operBank x) es) x base
  have hp : ((d.gateListed x (1 - d.operBank x) es).gateStaged x base).rb .gateStat x 1 = true := Dev.rb_setRb_same _ _ _ _ _ (by decide)
  have heq : ∃ g g' word, d.gateInstall x es cycle ext en base = ((((d.gateListed x (1 - d.operBank x) es).gateStaged x base).setGate x g).setGate x g', word, 0) ∧
      g'.change = some base ∧ g'.adminCount = es.length ∧ g'.adminCycle = cycle := by
    unfold Dev.gateInstall
    dsimp only
    rw [if_pos hb]
    simp only [Nat.zero_mul, Nat.add_zero]
    exact ⟨_, _, _, rfl, rfl, rfl, rfl⟩
  generalize d.gateListed x (1 - d.operBank x) es = a at *
  generalize a.gateStaged x base = b at *
  obtain ⟨g, g', word, heq, hc, hn, hy⟩ := heq
  have hrest : ∀ r k, ((b.setGate x g).setGate x g').reg r k = b.reg r k := fun _ _ => rfl
  refine ⟨_, word, heq, ?_, ?_, ?_, ?_, fun k hk => ?_, ?_, ?_⟩
  · rw [Dev.rb, hrest, ← Dev.rb, hp]
  · rw [gateOf_setGate, hc]
  · rw [gateOf_setGate, hn]
  · rw [gateOf_setGate, hy]
  · rw [hrest, h2.keeps.reg (by decide), hw k hk]
  · exact h2.time.trans h1.time
  · exact h2.keeps.2.1.trans h1.keeps.2.1

theorem leAt_lt (bs : List Byte) (off n : Nat) : leAt bs off n < 2 ^ (8 * n) := by
  have h := ofLe_lt (slice bs off n)
  rwa [slice_length] at h

theorem gateInstall_gives {x base : Nat} {es : List Nat} (hw : Claims.Wenot 0x70 false h p s.dev e) (hx : x = leAt p 0 1) (h32 : x < 32)
    (hes : es = (List.range (leAt p 2 2)).map (fun k => leAt p (32 + 8 * k) 8)) (hl : p.length = 32 + 8 * leAt p 2 2) (hf : leAt p 1 1 ≤ 1) (h12 : leAt p 12 4 = 0)
    (h16 : leAt p 16 8 < 2 ^ 48) (h24 : leAt p 24 4 < 1000000000) (h28 : leAt p 28 4 = 0) (hb : e.gateBad x es (leAt p 4 4) (leAt p 8 4) = false)
    (hbase : base = leAt p 16 8 * 1000000000 + leAt p 24 4) (hns : e.ns + 1000 ≤ base) :
    ∃ word, Claims.Gives (.gateInstall h) 0x70 h s { r0 := BitVec.ofNat 64 word } (fun d => d.rb .gateStat x 1 = true ∧ (d.gateOf x).change = some base ∧
      (d.gateOf x).adminCount = es.length ∧ (d.gateOf x).adminCycle = leAt p 4 4 ∧ (∀ k < es.length, (d.reg .gateList ((2 * x + (1 - e.operBank x)) * 1024 + k)).toNat = es.getD k 0) ∧
      d.time = e.time ∧ d.mem = e.mem) := by
  obtain ⟨d, word, heq, hg⟩ := gateInstall_stages (cycle := leAt p 4 4) (es := es) (x := x) hns (leAt p 8 4) (nbit (leAt p 1 1) 0)
  refine ⟨word, gives_of_row (c := .gateInstall h) rfl hw (e' := d) ?_ ⟨hg.pending, hg.change, hg.count, hg.cycle, fun k hk => ?_, hg.time, hg.mem⟩⟩
  · dsimp only
    rw [← hx, ← hes, if_neg (by simp [hl, h12, h28, nsPerSec]; omega), hb, if_neg Bool.false_ne_true, show leAt p 16 8 * nsPerSec + leAt p 24 4 = base from hbase.symm, heq]
    rfl
  · rw [hg.words k hk, BitVec.toNat_ofNat, Nat.mod_eq_of_lt]
    subst hes
    have hk' : k < leAt p 2 2 := by simpa using hk
    simp only [List.getD_eq_getElem?_getD, List.getElem?_map, List.getElem?_range hk', Option.map_some, Option.getD_some]
    exact leAt_lt p _ 8

/-! ## Snapshots (R387, R436, R439) -/

theorem snapAnswers_cnt (l : List (Nat × Nat)) (d : Dev) : (l.foldl (fun d o => d.snapAnswer o 0) d).cnt = d.cnt ∧ (l.foldl (fun d o => d.snapAnswer o 0) d).time = d.time :=
  foldl_related (f := fun (d : Dev) o => d.snapAnswer o 0) (R := fun a b : Dev => b.cnt = a.cnt ∧ b.time = a.time) (fun _ => ⟨rfl, rfl⟩)
    (fun h h' => ⟨h'.1.trans h.1, h'.2.trans h.2⟩) (fun _ _ => ⟨rfl, rfl⟩) l d

/-- Every snapshot register is clear, and the sources are armed. -/
def Dev.snapCleared (d : Dev) (v : Word) : Dev :=
  ((((d.setReg .snapStat 0 0).setReg .snapLatch 0 0).setReg .snapLatchHi 0 0).setReg .snapPin 0 0).setReg .snapCfg 0 v

theorem snapCleared_shows (d : Dev) (v : Word) : (d.snapCleared v).reg .snapCfg 0 = v ∧ (d.snapCleared v).reg .snapStat 0 = 0 ∧ (d.snapCleared v).reg .snapLatch 0 = 0 ∧
    (d.snapCleared v).reg .snapPin 0 = 0 ∧ (d.snapCleared v).cnt = d.cnt := by
  unfold Dev.snapCleared
  refine ⟨Dev.reg_setReg_same .., ?_, ?_, ?_, by simp only [Dev.setReg_cnt]⟩
  · rw [Dev.reg_setReg_ne _ _ (.inl (by decide)), Dev.reg_setReg_ne _ _ (.inl (by decide)), Dev.reg_setReg_ne _ _ (.inl (by decide)), Dev.reg_setReg_ne _ _ (.inl (by decide)),
      Dev.reg_setReg_same]
  · rw [Dev.reg_setReg_ne _ _ (.inl (by decide)), Dev.reg_setReg_ne _ _ (.inl (by decide)), Dev.reg_setReg_ne _ _ (.inl (by decide)), Dev.reg_setReg_same]
  · rw [Dev.reg_setReg_ne _ _ (.inl (by decide)), Dev.reg_setReg_same]

theorem snapArm_gives (hw : Claims.Wenot 0x80 true h p s.dev e) (h0 : h.arg0 = 8 ∨ h.arg0 = 16 ∨ h.arg0 = 24) (h1 : h.arg1 = 0) :
    Claims.Gives (.snapArm h) 0x80 h s {} (fun d =>
      d.reg .snapCfg 0 = h.arg0 ∧ d.reg .snapStat 0 = 0 ∧ d.reg .snapLatch 0 = 0 ∧ d.reg .snapPin 0 = 0 ∧ d.cnt.snapDue = none ∧ d.cnt.snap = e.cnt.snap) := by
  have hbits : nbit h.arg0.toNat 0 = false ∧ nbit h.arg0.toNat 1 = false ∧ nbit h.arg0.toNat 2 = false ∧ BitVec.ofNat 64 (h.arg0.toNat + 0 * 32) = h.arg0 := by
    rcases h0 with h0 | h0 | h0 <;> rw [h0] <;> decide
  obtain ⟨b0, b1, b2, hval⟩ := hbits
  have hdis : e.snapDisarm.cnt = e.cnt := by
    rw [Dev.snapDisarm, Dev.setReg_cnt, Dev.setReg_cnt, (snapAnswers_cnt _ _).1]
  generalize hx : ({ e.snapDisarm with cnt := { e.snapDisarm.cnt with snapDue := none, snapWait := [], snapFrom := e.snapDisarm.time.tick + 4 } } : Dev) = x
  have hxc : x.cnt.snapDue = none ∧ x.cnt.snap = e.cnt.snap := by
    rw [← hx, hdis]
    exact ⟨rfl, rfl⟩
  obtain ⟨c1, c2, c3, c4, c5⟩ := snapCleared_shows x h.arg0
  refine gives_of_row (c := .snapArm h) rfl hw (e' := x.snapCleared h.arg0) ?_ ⟨c1, c2, c3, c4, by rw [c5, hxc.1], by rw [c5, hxc.2]⟩
  dsimp only
  rw [b0, b1, b2, h1, hx]
  simp only [Bool.false_and, Bool.false_eq_true, if_false, hval, Bool.not_false, Bool.true_and]
  rfl

theorem snapRead_idle (hw : Claims.Wenot 0x81 true h p s.dev e) (h0 : e.rb .snapStat 0 0 = false) : Claims.Gives (.snapRead h) 0x81 h s { status := 6 } (fun d => d = e) := by
  refine gives_of_row (c := .snapRead h) rfl hw (e' := e) ?_ rfl
  exact if_pos (by simp [h0])

/-- The records that SNAP_READ puts out of the islands named. -/
def Dev.snapRecords (d : Dev) (a : Nat) : List (List Byte) :=
  (List.range 8).flatMap (fun isl => if nbit a isl then d.fresh.2.snapIsland isl (a / 256) (d.fresh.1.toNat % 2 ^ 32) else [])

/-- The output of SNAP_READ behind the latched time. -/
def Dev.snapRest (d : Dev) (a : Nat) : List Byte :=
  leBytes 2 (d.reg .snapLatchHi 0).toNat ++ ([BitVec.ofNat 8 (d.rf .snapStat 0 1 3), 0] ++ (leBytes 4 (d.snapRecords a).length ++
    (leBytes 8 (d.reg .snapPin 0).toNat ++ (leBytes 8 0 ++ (d.snapRecords a).flatten))))

theorem snapRead_gives (hw : Claims.Wenot 0x81 true h p s.dev e) (h0 : e.rb .snapStat 0 0 = true) :
    ∃ out, Claims.Gives (.snapRead h) 0x81 h s { r0 := e.reg .snapLatch 0, out := out } (fun d => d.regs = e.regs ∧ d.cnt = e.cnt ∧ Keeps [] e d) ∧
      leAt out 0 8 = (e.reg .snapLatch 0).toNat ∧ 32 ≤ out.length := by
  refine ⟨leBytes 8 (e.reg .snapLatch 0).toNat ++ e.snapRest h.arg0.toNat, gives_of_row (c := .snapRead h) rfl hw (e' := e.fresh.2) ?_ ⟨rfl, rfl, fun _ _ _ => rfl, rfl, rfl⟩, ?_, ?_⟩
  · refine (if_neg (by simp [h0])).trans ?_
    simp only [Dev.snapRest, ← List.append_assoc]
    rfl
  · have hs : slice (leBytes 8 (e.reg .snapLatch 0).toNat ++ e.snapRest h.arg0.toNat) 0 8 = leBytes 8 (e.reg .snapLatch 0).toNat := by
      simpa using slice_append [] (leBytes 8 (e.reg .snapLatch 0).toNat) (e.snapRest h.arg0.toNat) rfl (leBytes_length 8 _)
    rw [leAt, hs, ofLe_leBytes, Nat.mod_eq_of_lt (e.reg .snapLatch 0).isLt]
  · simp only [Dev.snapRest, List.length_append, leBytes_length, List.length_cons, List.length_nil]
    omega

/-! ## Faults (R388, R400, R404, R406, R407) -/

theorem faultRead_gives (hw : Claims.Wenot 0x90 true h p s.dev e) :
    (h.arg0 = 0 → h.arg1 = 0 → Claims.Gives (.faultRead h) 0x90 h s
      { r0 := BitVec.ofNat 64 e.histCount, out := (List.range (4 * e.histCount)).flatMap (fun k => leBytes 8 (e.reg .fltHist k).toNat) } (fun d => d = e)) ∧
    (∀ n, h.arg0 = 1 → n < 2048 → h.arg1.toNat = n → Claims.Gives (.faultRead h) 0x90 h s { r0 := 1, out := e.faultRecord n } (fun d => d = e)) := by
  refine ⟨fun h0 h1 => ?_, fun n h0 hn h1 => ?_⟩
  · refine gives_of_row (c := .faultRead h) rfl hw (e' := e) ?_ rfl
    rw [h0, h1]
    rfl
  · refine gives_of_row (c := .faultRead h) rfl hw (e' := e) ?_ rfl
    have hfirst : fld n 0 11 = n := Nat.mod_eq_of_lt hn
    have hcount : fld n 11 11 + 1 = 1 := by
      rw [fld, Nat.shiftRight_eq_div_pow]
      omega
    have hout : (List.range 1).flatMap (fun k => e.faultRecord (n + k)) = e.faultRecord n := by
      rw [show List.range 1 = [0] from rfl, List.flatMap_singleton, Nat.add_zero]
    rw [h0, h1]
    refine Eq.trans (b := if 2 ^ 22 ≤ n ∨ 2048 < fld n 0 11 + (fld n 11 11 + 1) then FwRes.fail 0x04 e
      else .answer { r0 := BitVec.ofNat 64 (fld n 11 11 + 1), out := (List.range (fld n 11 11 + 1)).flatMap (fun k => e.faultRecord (fld n 0 11 + k)) } e) rfl ?_
    rw [hfirst, hcount, if_neg (by omega), hout]
    rfl

theorem keeps_showCpend (d : Dev) (c : Nat) : Keeps [.fltCpend] d (d.showCpend c) := keeps_setReg d (by decide) c _

theorem ackWhere_shows (d : Dev) (f : PendFault → Bool) : Keeps [.fltCpend] d (d.ackWhere f) ∧ (d.ackWhere f).flt.pend = d.flt.pend.filter (fun x => !f x) := by
  have hx : Keeps [.fltCpend] d { d with flt := { d.flt with pend := d.flt.pend.filter (fun x => !f x) } } := ⟨fun _ _ _ => rfl, rfl, rfl⟩
  have hp : ({ d with flt := { d.flt with pend := d.flt.pend.filter (fun x => !f x) } } : Dev).flt.pend = d.flt.pend.filter (fun x => !f x) := rfl
  unfold Dev.ackWhere
  generalize ({ d with flt := { d.flt with pend := d.flt.pend.filter (fun x => !f x) } } : Dev) = y at *
  obtain ⟨hk, hf⟩ := foldl_related (f := fun (d : Dev) c => d.showCpend c) (R := fun a b : Dev => Keeps [.fltCpend] a b ∧ b.flt = a.flt) (fun _ => ⟨Keeps.refl _ _, rfl⟩)
    (fun h h' => ⟨h.1.trans h'.1, h'.2.trans h.2⟩) (fun d c => ⟨keeps_showCpend d c, rfl⟩) (List.range 16) y
  exact ⟨hx.trans hk, by rw [hf, hp]⟩

theorem faultAck_gives (hw : Claims.Wenot 0x91 true h p s.dev e) : Claims.Gives (.faultAck h) 0x91 h s {} (fun d => Keeps [.fltCpend] e d ∧
    d.flt.pend = e.flt.pend.filter (fun f => !(wbit h.arg1 0 || f.source == h.arg0.toNat))) :=
  gives_of_row (c := .faultAck h) rfl hw (e' := e.ackWhere (fun f => wbit h.arg1 0 || f.source == h.arg0.toNat)) rfl (ackWhere_shows e _)

/-- An injection is armed. -/
def Dev.injected (d : Dev) (n k : Nat) : Dev :=
  ({ d.setReg .fltInjStat 0 (BitVec.ofNat 64 (n + 2 ^ 15 + k * 2 ^ 16)) with
    flt := { (d.setReg .fltInjStat 0 (BitVec.ofNat 64 (n + 2 ^ 15 + k * 2 ^ 16))).flt with
      injEnd := some ((d.setReg .fltInjStat 0 (BitVec.ofNat 64 (n + 2 ^ 15 + k * 2 ^ 16))).ns + nsPerSec) } } : Dev).setPhase

theorem setPhase_injected {d : Dev} (h : d.rb .fltInjStat 0 15 = true) : d.setPhase.rf .fltStat 0 0 2 = 2 := by
  have hp : d.phaseNow = 2 := if_pos h
  rw [Dev.setPhase, hp, Dev.rf_setRf_of_lt _ (by decide) (by decide)]

theorem injected_shows (d : Dev) {n k : Nat} (hn : n < 2 ^ 11) (hk : k < 2 ^ 16) : (d.injected n k).rf .fltInjStat 0 0 11 = n ∧ (d.injected n k).rb .fltInjStat 0 15 = true ∧
    (d.injected n k).rf .fltInjStat 0 16 16 = k ∧ (d.injected n k).flt.injEnd = some (d.ns + 1000000000) ∧ (d.injected n k).rf .fltStat 0 0 2 = 2 ∧
    Keeps [.fltInjStat, .fltStat] d (d.injected n k) := by
  have hx : Keeps [.fltInjStat, .fltStat] d (d.setReg .fltInjStat 0 (BitVec.ofNat 64 (n + 2 ^ 15 + k * 2 ^ 16))) := keeps_setReg d (by decide) _ _
  have hreg := Dev.reg_setReg_same d .fltInjStat 0 (BitVec.ofNat 64 (n + 2 ^ 15 + k * 2 ^ 16))
  have htime := Dev.setReg_time d .fltInjStat 0 (BitVec.ofNat 64 (n + 2 ^ 15 + k * 2 ^ 16))
  unfold Dev.injected
  generalize d.setReg .fltInjStat 0 (BitVec.ofNat 64 (n + 2 ^ 15 + k * 2 ^ 16)) = x at *
  have hy : Keeps [.fltInjStat, .fltStat] x { x with flt := { x.flt with injEnd := some (x.ns + nsPerSec) } } := ⟨fun _ _ _ => rfl, rfl, rfl⟩
  have hyr : ({ x with flt := { x.flt with injEnd := some (x.ns + nsPerSec) } } : Dev).reg .fltInjStat 0 = BitVec.ofNat 64 (n + 2 ^ 15 + k * 2 ^ 16) := hreg
  have hyf : ({ x with flt := { x.flt with injEnd := some (x.ns + nsPerSec) } } : Dev).flt.injEnd = some (d.ns + 1000000000) := by
    rw [Dev.ns, htime]
    rfl
  generalize ({ x with flt := { x.flt with injEnd := some (x.ns + nsPerSec) } } : Dev) = y at *
  have hb : y.rb .fltInjStat 0 15 = true := by
    rw [Dev.rb, hyr, wbit_ofNat _ (by decide), Nat.testBit_eq_decide_div_mod_eq]
    simp only [decide_eq_true_eq]
    omega
  have hp : Keeps [.fltStat] y y.setPhase := keeps_setReg y (by decide) 0 _
  refine ⟨?_, (hp.rb (by decide) ..).trans hb, ?_, ?_, setPhase_injected hb, (hx.trans hy).trans (hp.mono (by simp))⟩
  · rw [hp.rf (by decide), Dev.rf, hyr, wf_eq_mod, BitVec.toNat_ofNat]
    omega
  · rw [hp.rf (by decide), Dev.rf, hyr, wf_ofNat (by omega)]
    omega
  · rw [Dev.setPhase, Dev.setRf_flt, hyf]

theorem faultInject_gives {n k : Nat} (hw : Claims.Wenot 0x92 true h p s.dev e) (hn : n = h.arg0.toNat) (hk : k = h.arg1.toNat) (h0 : k ≠ 0) (hc : e.rb .fltCfg 0 4 = true)
    (hs : checkerSource n = true) : Claims.Gives (.faultInject h) 0x92 h s {} (fun d => d.rf .fltInjStat 0 0 11 = n ∧ d.rb .fltInjStat 0 15 = true ∧ d.rf .fltInjStat 0 16 16 = k ∧
      d.flt.injEnd = some (e.ns + 1000000000) ∧ d.rf .fltStat 0 0 2 = 2 ∧ Keeps [.fltInjStat, .fltStat] e d) := by
  have hlt : n < 2 ^ 11 ∧ k < 2 ^ 16 := by
    obtain ⟨-, -, -, -, ha, -⟩ := hw
    simp only [argBad, Bool.or_eq_false_iff, bne_eq_false_iff_eq] at ha
    obtain ⟨ha0, ha1⟩ := ha
    have h7 : h.arg0.toNat &&& 0x7FF ≤ 0x7FF := Nat.and_le_right
    have hF : h.arg1.toNat &&& 0xFFFF ≤ 0xFFFF := Nat.and_le_right
    rw [show (argMask 0x92).1 = 0x7FF from rfl] at ha0
    rw [show (argMask 0x92).2 = 0xFFFF from rfl] at ha1
    omega
  refine gives_of_row (c := .faultInject h) rfl hw (e' := e.injected n k) ?_ (injected_shows e hlt.1 hlt.2)
  subst hn hk
  dsimp only
  rw [if_neg h0, if_neg (by simp [hc, hs])]
  rfl

/-! ## Pairs (R388, R410, R411) -/

theorem dpxCycleOf_within {n : Nat} (h1 : 1000 ≤ n) (h2 : n ≤ 10000000) : dpxCycleOf n false = (n, false) := by
  have hc : Nat.min 10000000 (Nat.max 1000 n) = n := by
    rw [nat_min_eq, nat_max_eq]
    omega
  rw [dpxCycleOf, if_neg (by omega : ¬ n = 0)]
  simp only [Bool.false_eq_true, if_false, hc, bne_self_eq_false]

/-- No unit of the pair is held, and only registers, events and the pair's own state have moved. -/
theorem dropUnits_keeps (d : Dev) (p : Nat) : Keeps [.dpxCw] d (d.dropUnits p) := by
  unfold Dev.dropUnits
  dsimp only
  have h : Keeps [.dpxCw] d (if d.dpxExternal p then (List.range 4).foldl (fun e u => if nbit (d.rf .dpxCw p 0 4) u then e.emit (.causeway u false) else e) d else d) := by
    split
    · refine foldl_related (R := Keeps [.dpxCw]) (Keeps.refl _) (fun h h' => h.trans h') (fun e u => ?_) _ d
      split
      · simp
      · exact Keeps.refl _ _
    · exact Keeps.refl _ _
  exact h.trans (keeps_setReg _ (by decide) p 0)

/-- The pair's registers are at their reset values. -/
def Dev.pairReset (d : Dev) (p : Nat) : Dev := (d.dropUnits p).resetWhere [.dpxCfg, .dpxCycle, .dpxStat] (fun _ i => i == p)

theorem dpxClear_reg (d : Dev) (p : Nat) (r : Reg) (k : Nat) : (d.dpxClear p).reg r k = (d.pairReset p).reg r k := by
  unfold Dev.reg
  rfl

theorem dpxClear_keeps (d : Dev) (p : Nat) : Keeps [.dpxCw, .dpxCfg, .dpxCycle, .dpxStat] d (d.dpxClear p) := by
  obtain ⟨hr, hm, ht⟩ := dropUnits_keeps d p
  refine ⟨fun r k h => ?_, hm, ht⟩
  simp only [List.mem_cons, List.not_mem_nil, or_false, not_or] at h
  obtain ⟨h1, h2, h3, h4⟩ := h
  rw [dpxClear_reg, Dev.pairReset, Dev.reg_resetWhere, if_neg (by simp [h2, h3, h4]), hr r k (by simp [h1])]

theorem dpxClear_stat (d : Dev) (p : Nat) : (d.dpxClear p).reg .dpxStat p = 0 := by
  rw [dpxClear_reg, Dev.pairReset, Dev.reg_resetWhere, if_pos (by simp)]
  rfl

/-- A pair of the device's own islands is set up. -/
def Dev.paired (d : Dev) (p cfg cyc : Nat) : Dev :=
  ((((d.dpxClear p).setReg .dpxCfg p (BitVec.ofNat 64 cfg)).setReg .dpxCycle p (BitVec.ofNat 64 cyc)).setReg .dpxCw p 1).setPhase

theorem paired_shows (d : Dev) (p : Nat) {pair act cyc : Nat} (hp : pair ≤ 1) (ha : act ≤ 5) (hc : cyc ≤ 10000000) :
    (d.paired p (1 + pair * 2 + act * 4) cyc).inDuplex p = true ∧ (d.paired p (1 + pair * 2 + act * 4) cyc).dpxExternal p = false ∧
    (d.paired p (1 + pair * 2 + act * 4) cyc).dpxActive p = act ∧ ((d.paired p (1 + pair * 2 + act * 4) cyc).reg .dpxCycle p).toNat = cyc ∧
    (d.paired p (1 + pair * 2 + act * 4) cyc).reg .dpxCw p = 1 ∧ (d.paired p (1 + pair * 2 + act * 4) cyc).reg .dpxStat p = 0 ∧
    Keeps [.dpxCfg, .dpxCycle, .dpxStat, .dpxCw, .fltStat] d (d.paired p (1 + pair * 2 + act * 4) cyc) := by
  have hk := dpxClear_keeps d p
  have hs := dpxClear_stat d p
  unfold Dev.paired
  generalize d.dpxClear p = x at *
  have hphase (y : Dev) : Keeps [.fltStat] y y.setPhase := keeps_setReg y (by decide) 0 _
  have hcfg : ((((x.setReg .dpxCfg p (BitVec.ofNat 64 (1 + pair * 2 + act * 4))).setReg .dpxCycle p (BitVec.ofNat 64 cyc)).setReg .dpxCw p 1).setPhase).reg .dpxCfg p =
      BitVec.ofNat 64 (1 + pair * 2 + act * 4) := by
    rw [(hphase _).reg (by decide), Dev.reg_setReg_ne _ _ (.inl (by decide)), Dev.reg_setReg_ne _ _ (.inl (by decide)), Dev.reg_setReg_same]
  refine ⟨?_, ?_, ?_, ?_, ?_, ?_, ?_⟩
  · rw [Dev.inDuplex, Dev.rb, hcfg, wbit_ofNat _ (by decide), Nat.testBit_eq_decide_div_mod_eq]
    simp only [decide_eq_true_eq]
    omega
  · rw [Dev.dpxExternal, Dev.rb, hcfg, wbit_ofNat _ (by decide), Nat.testBit_eq_decide_div_mod_eq]
    simp only [decide_eq_false_iff_not]
    omega
  · rw [Dev.dpxActive, Dev.rf, hcfg, wf_ofNat (by omega)]
    omega
  · rw [(hphase _).reg (by decide), Dev.reg_setReg_ne _ _ (.inl (by decide)), Dev.reg_setReg_same, BitVec.toNat_ofNat]
    omega
  · rw [(hphase _).reg (by decide), Dev.reg_setReg_same]
  · rw [(hphase _).reg (by decide), Dev.reg_setReg_ne _ _ (.inl (by decide)), Dev.reg_setReg_ne _ _ (.inl (by decide)), Dev.reg_setReg_ne _ _ (.inl (by decide)), hs]
  · exact (((hk.mono (by simp)).trans (keeps_setReg _ (by decide) p _)).trans (keeps_setReg _ (by decide) p _)).trans ((keeps_setReg _ (by decide) p _).trans
      ((hphase _).mono (by simp)))

theorem duplexConfig_gives {n act : Nat} {g : Grant} (hw : Claims.Wenot 0xA0 false h p s.dev e) (hl : p.length = 16) (hn : n = leAt p 0 1) (h7 : n ≤ 7) (ha : act = leAt p 2 1)
    (h2 : 2 ≤ act) (h5 : act ≤ 5) (hpair : leAt p 1 1 ≤ 1) (hmate : act / 2 = leAt p 1 1 + 1) (hfl : leAt p 3 1 = 1) (hz : leAt p 8 8 = 0) (hlo : 1000 ≤ leAt p 4 4)
    (hhi : leAt p 4 4 ≤ 10000000) (h1 : e.partState n = 1) (hg : (e.part n).grant = some g) (hs : e.started n = false) (hout : e.rb .dpxStat n 3 = false)
    (hpairs : g.pairs act (peerIsl act) = true) (hdbg : e.rb .coreDbgPart n 0 = false) :
    Claims.Gives (.duplexConfig h) 0xA0 h s {} (fun d =>
      d.inDuplex n = true ∧ d.dpxExternal n = false ∧ d.dpxActive n = act ∧ (d.reg .dpxCycle n).toNat = leAt p 4 4 ∧ d.reg .dpxCw n = 1 ∧ d.reg .dpxStat n = 0 ∧
      Keeps [.dpxCfg, .dpxCycle, .dpxStat, .dpxCw, .fltStat] e d) := by
  refine gives_of_row (c := .duplexConfig h) rfl hw (e' := e.paired n (1 + leAt p 1 1 * 2 + act * 4) (leAt p 4 4)) ?_ (paired_shows e n hpair h5 hhi)
  subst hn ha
  dsimp only
  rw [hfl, show nbit 1 0 = true from rfl, show nbit 1 1 = false from rfl, dpxCycleOf_within hlo hhi]
  dsimp only
  rw [if_neg (by simp [hl, hz, h2, h5, hmate]; omega), partReady_of h1, hg]
  dsimp only
  rw [hout, if_neg (by simp), if_neg (by simp [hs]), if_neg (by simp [hpairs]), if_neg (by simp [hdbg])]
  simp only [Bool.and_false, Bool.false_and, Bool.false_eq_true, if_false, Bool.not_true, Bool.not_false, if_true, show b2n false = 0 from rfl, Nat.zero_mul, Nat.add_zero]
  rfl

theorem duplex_setDuplex (d : Dev) (p : Nat) (x : Dpx) : (d.setDuplex p x).duplex p = x := tabGet_put_same d.dpx.ps {} p x

theorem switchDecide_shows (d : Dev) (p t ns : Nat) : ((d.switchDecide p t ns).duplex p).decided = some t ∧ (d.switchDecide p t ns).switching p = true ∧
    (d.switchDecide p t ns).reg .dpxSwTime p = timeWord ns ∧ Keeps [.dpxStat, .dpxSwTime, .fltStat] d (d.switchDecide p t ns) := by
  have hx := duplex_setDuplex d p { d.duplex p with decided := some t, due := none, ckpt := none }
  have hk : Keeps [] d (d.setDuplex p { d.duplex p with decided := some t, due := none, ckpt := none }) := by simp
  have hphase (y : Dev) : Keeps [.fltStat] y y.setPhase := keeps_setReg y (by decide) 0 _
  unfold Dev.switchDecide
  generalize d.setDuplex p { d.duplex p with decided := some t, due := none, ckpt := none } = x at *
  dsimp only
  refine ⟨?_, ?_, ?_, ?_⟩
  · rw [Dev.duplex, Dev.setPhase, Dev.setRf_dpx, Dev.setRb_dpx, Dev.setReg_dpx, ← Dev.duplex, hx]
  · rw [Dev.switching, (hphase _).rb (by decide), Dev.rb_setRb_same _ _ _ _ _ (by decide)]
  · rw [(hphase _).reg (by decide), Dev.reg_setRb_ne _ _ _ (.inl (by decide)), Dev.reg_setReg_same]
  · exact ((hk.mono (by simp)).trans (keeps_setReg _ (by decide) p _)).trans ((keeps_setReg _ (by decide) p _).trans ((hphase _).mono (by simp)))

theorem duplexSwitch_begins {n : Nat} (hw : Claims.Wenot 0xA1 true h p s.dev e) (hn : n = h.arg0.toNat) (h1 : h.arg1 = 0) (hp : e.partState n = 1) (hd : e.inDuplex n = true)
    (hs : e.switching n = false) (hy : e.rb .dpxStat n 0 = true) :
    Claims.Begins (.duplexSwitch h) 0xA1 h s (fun d => (d.duplex n).decided = some e.time.tick ∧ d.switching n = true ∧ d.reg .dpxSwTime n = timeWord e.ns ∧
      Keeps [.dpxStat, .dpxSwTime, .fltStat] e d) := by
  have h7 : n ≤ 7 := by
    obtain ⟨-, -, -, -, ha, -⟩ := hw
    simp only [argBad, Bool.or_eq_false_iff, bne_eq_false_iff_eq] at ha
    have h7 : h.arg0.toNat &&& 7 ≤ 7 := Nat.and_le_right
    have ha0 := ha.1
    rw [show (argMask 0xA1).1 = 7 from rfl] at ha0
    omega
  refine begins_of_row (c := .duplexSwitch h) rfl hw (e' := e.switchDecide n e.time.tick e.ns) ?_ (switchDecide_shows e n _ _)
  subst hn
  dsimp only
  rw [h1, show timeWordOk 0 = true from rfl, partReady_of hp, show ((0 : Word) == 0) = true from rfl, if_neg (by simp; omega)]
  dsimp only
  rw [if_neg (by simp [hd]), if_neg (by simp [hs]), if_neg (by simp [hy])]
  rfl

/-! ## The lifetime record and the serial memory (R388, R446) -/

theorem lifeRead_gives (hw : Claims.Wenot 0xB0 true h p s.dev e) (h0 : h.arg0 = 0) (h1 : h.arg1 = 0) :
    Claims.Gives (.lifeRead h) 0xB0 h s { out := e.lifeRecord 0 (e.reg .lifeSeq 0).toNat } (fun d => d = e) := by
  refine gives_of_row (c := .lifeRead h) rfl hw (e' := e) ?_ rfl
  rw [h0, h1]
  rfl

theorem mem_tabDel {α : Type} {k : Nat} {e : Nat × α} {t : Tab α} (h : e ∈ tabDel k t) : e ∈ t := by
  induction t with
  | nil => exact h
  | cons x t ih =>
    rw [tabDel] at h
    split at h
    · exact List.mem_cons_of_mem _ (ih h)
    · rcases List.mem_cons.1 h with rfl | h
      · exact List.mem_cons_self
      · exact List.mem_cons_of_mem _ (ih h)

theorem mem_tabIns {α : Type} {k : Nat} {a : α} {e : Nat × α} {t : Tab α} (h : e ∈ tabIns k a t) : e = (k, a) ∨ e ∈ t := by
  induction t with
  | nil => exact .inl (List.mem_singleton.1 h)
  | cons x t ih =>
    rw [tabIns] at h
    split at h
    · exact List.mem_cons.1 h
    · split at h
      · exact (List.mem_cons.1 h).imp_right (List.mem_cons_of_mem _)
      · rcases List.mem_cons.1 h with rfl | h
        · exact .inr List.mem_cons_self
        · exact (ih h).imp_right (List.mem_cons_of_mem _)

theorem mem_tabPut {α : Type} [DecidableEq α] {k : Nat} {a d : α} {e : Nat × α} {t : Tab α} (h : e ∈ tabPut t d k a) : e.1 = k ∨ e ∈ t := by
  rw [tabPut] at h
  split at h
  · exact .inr (mem_tabDel h)
  · exact (mem_tabIns h).imp_left (congrArg Prod.fst)

/-- The bytes of the flash after a program of erased or programmed bytes (R446). -/
def flashAnd (t : Tab Byte) (a : Nat) (bs : List Byte) : Tab Byte :=
  (bs.foldl (fun (x : Tab Byte × Nat) b => (tabPut x.1 0xFF x.2 (tabGet x.1 0xFF x.2 &&& b), x.2 + 1)) (t, a)).1

theorem flashAnd_get (bs : List Byte) (t : Tab Byte) (a k : Nat) :
    tabGet (flashAnd t a bs) 0xFF k = if a ≤ k ∧ k < a + bs.length then tabGet t 0xFF k &&& bs.getD (k - a) 0 else tabGet t 0xFF k := by
  induction bs generalizing t a with
  | nil => exact (if_neg (by simp)).symm
  | cons b bs ih =>
    have hstep : flashAnd t a (b :: bs) = flashAnd (tabPut t 0xFF a (tabGet t 0xFF a &&& b)) (a + 1) bs := rfl
    rw [hstep, ih]
    by_cases hk : k = a
    · subst hk
      rw [if_neg (by omega), if_pos ⟨Nat.le_refl _, by rw [List.length_cons]; omega⟩, tabGet_put_same, Nat.sub_self]
      rfl
    · rw [tabGet_put_ne _ _ _ hk, List.length_cons]
      by_cases hin : a ≤ k ∧ k < a + (bs.length + 1)
      · rw [if_pos hin, if_pos (by omega), show k - a = (k - (a + 1)) + 1 by omega, List.getD_cons_succ]
      · rw [if_neg hin, if_neg (by omega)]

theorem mem_flashAnd (bs : List Byte) (t : Tab Byte) (a : Nat) {e : Nat × Byte} (h : e ∈ flashAnd t a bs) : (a ≤ e.1 ∧ e.1 < a + bs.length) ∨ e ∈ t := by
  induction bs generalizing t a with
  | nil => exact .inr h
  | cons b bs ih =>
    rcases ih _ _ (h : e ∈ flashAnd (tabPut t 0xFF a (tabGet t 0xFF a &&& b)) (a + 1) bs) with h1 | h1
    · exact .inl (by rw [List.length_cons]; omega)
    · rcases mem_tabPut h1 with h2 | h2
      · exact .inl (by rw [List.length_cons]; omega)
      · exact .inr h2

/-- No byte of the range has been programmed since it was erased. -/
def Blank (t : Tab Byte) (lo hi : Nat) : Prop := ∀ e ∈ t, ¬ (lo ≤ e.1 ∧ e.1 < hi)

theorem flashBlank_iff (d : Dev) (lo n : Nat) : d.flashBlank lo n = true ↔ Blank d.board.flash lo (lo + n) := by
  rw [Dev.flashBlank, Bool.not_eq_true', List.any_eq_false]
  simp only [Blank, Bool.and_eq_true, decide_eq_true_eq]

theorem tabGet_of_blank {t : Tab Byte} {lo hi k : Nat} (h : Blank t lo hi) (h1 : lo ≤ k) (h2 : k < hi) : tabGet t 0xFF k = 0xFF := by
  rw [tabGet]
  cases hf : tabFind k t with
  | none => rfl
  | some x => exact absurd ⟨h1, h2⟩ (h _ (mem_of_tabFind hf))

/-- The pieces follow each other from one address to another. -/
def Chain (hi : Nat) : Nat → List (Nat × Nat) → Prop
  | lo, [] => lo = hi
  | lo, x :: l => x.1 = lo ∧ lo + x.2 ≤ hi ∧ Chain hi (lo + x.2) l

/-- A write of one sector's share. -/
def sectorWrite (a : Nat) (bs : List Byte) (x : Dev × Nat) (s : Nat × Nat) : Dev × Nat :=
  if x.1.flashBlank s.1 s.2 then (x.1.flashProgram s.1 ((bs.drop (s.1 - a)).take s.2), x.2)
  else ((x.1.flashErase s.1).flashProgram (s.1 / 4096 * 4096) (patch (x.1.flashRead (s.1 / 4096 * 4096) 4096) (s.1 - s.1 / 4096 * 4096) ((bs.drop (s.1 - a)).take s.2)), x.2 + 1)

theorem flashWrite_eq (d : Dev) (a : Nat) (bs : List Byte) : d.flashWrite a bs = (sectorsOf a bs.length).foldl (sectorWrite a bs) (d, 0) := rfl

/-- A write over a range without a programmed byte, which needs no erase. -/
structure Programmed (a : Nat) (bs : List Byte) (lo hi : Nat) (x y : Dev × Nat) : Prop where
  erases : y.2 = x.2
  life : y.1.life = x.1.life
  keeps : Keeps [] x.1 y.1
  bytes : ∀ k, lo ≤ k → k < hi → tabGet y.1.board.flash 0xFF k = bs.getD (k - a) 0
  rest : ∀ k, k < lo ∨ hi ≤ k → tabGet y.1.board.flash 0xFF k = tabGet x.1.board.flash 0xFF k

theorem sector_byte {bs : List Byte} {a lo n k : Nat} (hlo : a ≤ lo) (hk : lo ≤ k) (hn : k - lo < n) : ((bs.drop (lo - a)).take n).getD (k - lo) 0 = bs.getD (k - a) 0 := by
  rw [List.getD_eq_getElem?_getD, List.getElem?_take_of_lt hn, List.getElem?_drop, show lo - a + (k - lo) = k - a by omega, ← List.getD_eq_getElem?_getD]

theorem sectorWrites_program {a hi : Nat} {bs : List Byte} (hlen : hi ≤ a + bs.length) (l : List (Nat × Nat)) (lo : Nat) (hlo : a ≤ lo) (hc : Chain hi lo l) (x : Dev × Nat)
    (hb : Blank x.1.board.flash lo hi) : Programmed a bs lo hi x (l.foldl (sectorWrite a bs) x) := by
  induction l generalizing lo x with
  | nil => exact ⟨rfl, rfl, Keeps.refl _ _, fun k h1 h2 => absurd h2 (by rw [← (hc : lo = hi)]; omega), fun _ _ => rfl⟩
  | cons s l ih =>
    obtain ⟨rfl, hhi, hc⟩ := hc
    have hpl : ((bs.drop (s.1 - a)).take s.2).length = s.2 := by
      rw [List.length_take, List.length_drop]
      omega
    have hbl : x.1.flashBlank s.1 s.2 = true := (flashBlank_iff ..).2 fun e he h => hb e he ⟨h.1, by omega⟩
    have hstep : sectorWrite a bs x s = (x.1.flashProgram s.1 ((bs.drop (s.1 - a)).take s.2), x.2) := if_pos hbl
    have hfl : (x.1.flashProgram s.1 ((bs.drop (s.1 - a)).take s.2)).board.flash = flashAnd x.1.board.flash s.1 ((bs.drop (s.1 - a)).take s.2) := rfl
    obtain ⟨h1, h2, h3, h4, h5⟩ := ih (s.1 + s.2) (by omega) hc (sectorWrite a bs x s) (by
      rw [hstep, hfl]
      intro e he h
      rcases mem_flashAnd _ _ _ he with h' | h'
      · rw [hpl] at h'
        omega
      · exact hb e h' ⟨by omega, h.2⟩)
    rw [List.foldl_cons]
    have hx : ∀ k, tabGet (sectorWrite a bs x s).1.board.flash 0xFF k =
        if s.1 ≤ k ∧ k < s.1 + s.2 then tabGet x.1.board.flash 0xFF k &&& ((bs.drop (s.1 - a)).take s.2).getD (k - s.1) 0 else tabGet x.1.board.flash 0xFF k := fun k => by
      rw [hstep, hfl, flashAnd_get, hpl]
    refine ⟨h1.trans (by rw [hstep]), h2.trans (by rw [hstep]; rfl), Keeps.trans (by rw [hstep]; exact ⟨fun _ _ _ => rfl, rfl, rfl⟩) h3, fun k hk1 hk2 => ?_, fun k hk => ?_⟩
    · by_cases hk : k < s.1 + s.2
      · rw [h5 k (.inl hk), hx, if_pos ⟨hk1, hk⟩, tabGet_of_blank hb hk1 hk2, sector_byte hlo hk1 (by omega), show (0xFF : Byte) = BitVec.allOnes 8 from rfl, BitVec.allOnes_and]
      · exact h4 k (by omega) hk2
    · rw [h5 k (by omega), hx, if_neg (by omega)]

/-- Where the share of a write's sector begins. -/
def sectorFrom (a n k : Nat) : Nat := min (a + n) (max a ((a / 4096 + k) * 4096))

theorem chain_sectors {a n : Nat} (hn : 0 < n) (c j : Nat) (hj : j + c = (a + n - 1) / 4096 - a / 4096 + 1) :
    Chain (a + n) (sectorFrom a n j) ((List.range' j c).map (fun k =>
      (Nat.max a ((a / 4096 + k) * 4096), Nat.min (a + n) ((a / 4096 + k + 1) * 4096) - Nat.max a ((a / 4096 + k) * 4096)))) := by
  induction c generalizing j with
  | zero =>
    show sectorFrom a n j = a + n
    have h : (a + n - 1) / 4096 < a / 4096 + j := by omega
    rw [sectorFrom]
    omega
  | succ c ih =>
    have hnext := ih (j + 1) (by omega)
    rw [List.range'_succ, List.map_cons]
    have h : (a / 4096 + j) ≤ (a + n - 1) / 4096 := by omega
    have h1 : Nat.max a ((a / 4096 + j) * 4096) = sectorFrom a n j := by
      rw [nat_max_eq, sectorFrom]
      omega
    have h2 : sectorFrom a n j + (Nat.min (a + n) ((a / 4096 + j + 1) * 4096) - Nat.max a ((a / 4096 + j) * 4096)) = sectorFrom a n (j + 1) := by
      rw [nat_min_eq, nat_max_eq, sectorFrom, sectorFrom]
      omega
    refine ⟨h1, ?_, ?_⟩
    · dsimp only
      rw [h2, sectorFrom]
      omega
    · dsimp only
      rw [h2]
      exact hnext

theorem sectorsOf_chain (a n : Nat) : Chain (a + n) a (sectorsOf a n) := by
  rw [sectorsOf]
  split
  case isTrue hn => exact hn ▸ rfl
  case isFalse hn =>
    have hc := chain_sectors (a := a) (n := n) (by omega) _ 0 (Nat.zero_add _)
    have h0 : sectorFrom a n 0 = a := by
      rw [sectorFrom]
      omega
    rw [h0] at hc
    rw [List.range_eq_range']
    exact hc

theorem chain_bounds {hi : Nat} (l : List (Nat × Nat)) (lo : Nat) (h : Chain hi lo l) : ∀ s ∈ l, lo ≤ s.1 ∧ s.1 + s.2 ≤ hi := by
  induction l generalizing lo with
  | nil => exact fun _ hs => absurd hs List.not_mem_nil
  | cons x l ih =>
    obtain ⟨rfl, hhi, hc⟩ := h
    intro s hs
    rcases List.mem_cons.1 hs with rfl | hs
    · exact ⟨Nat.le_refl _, hhi⟩
    · have := ih _ hc s hs
      omega

theorem flashWrite_programs (d : Dev) (a : Nat) (bs : List Byte) (hb : d.flashBlank a bs.length = true) : Programmed a bs a (a + bs.length) (d, 0) (d.flashWrite a bs) :=
  sectorWrites_program (Nat.le_refl _) _ a (Nat.le_refl _) (sectorsOf_chain a bs.length) (d, 0) ((flashBlank_iff ..).1 hb)

theorem needsErase_blank {d : Dev} {a n : Nat} (hb : d.flashBlank a n = true) : d.needsErase a n = false := by
  rw [Dev.needsErase, List.any_eq_false]
  intro x hx
  have hbound := chain_bounds _ _ (sectorsOf_chain a n) x hx
  have hblank : d.flashBlank x.1 x.2 = true := (flashBlank_iff ..).2 fun e he h => (flashBlank_iff ..).1 hb e he (by omega)
  simp [hblank]

theorem smemUpdate_gives {n off : Nat} (hw : Claims.Wenot 0xC0 false h p s.dev e) (ho : off = leAt p 4 4) (hn : n = leAt p 8 4) (hl : p.length = 16 + n) (h2 : leAt p 0 1 = 2)
    (h1 : leAt p 1 3 = 0) (h12 : leAt p 12 4 = 0) (hok : e.smemOk = true) (hfit : 0xF00000 + off + n ≤ e.board.smemSize) (hb : e.flashBlank (0xF00000 + off) n = true) :
    Claims.Gives (.smemUpdate h) 0xC0 h s { r0 := BitVec.ofNat 64 n } (fun d => d.flashRead (0xF00000 + off) n = p.drop 16 ∧ d.life = e.life ∧ Keeps [] e d) := by
  have hlen : (p.drop 16).length = n := by
    rw [List.length_drop]
    omega
  obtain ⟨h0, hlife, hk, hbytes, -⟩ := flashWrite_programs e (0xF00000 + off) (p.drop 16) (by rw [hlen]; exact hb)
  refine gives_of_row (c := .smemUpdate h) rfl hw (e' := (e.flashWrite (0xF00000 + off) (p.drop 16)).1) ?_ ⟨?_, hlife, hk⟩
  · have hneed := needsErase_blank hb
    subst ho hn
    dsimp only
    rw [h2, if_neg (by decide : ¬ (2 = 1)), if_neg (by simp [hl, h1, h12]), if_neg (by simp [hok, hfit]), if_neg (by simp), if_neg (by simp [hneed]), h0]
    rfl
  · refine List.ext_getElem (by simp [Dev.flashRead, hlen]) fun k hk1 hk2 => ?_
    have hkn : k < n := by simpa [Dev.flashRead] using hk1
    simp only [Dev.flashRead, List.getElem_map, List.getElem_range]
    rw [hbytes _ (by omega) (by omega), Nat.add_sub_cancel_left, List.getD_eq_getElem?_getD, List.getElem?_eq_getElem hk2, Option.getD_some]

end

/-- Settles O47. -/
theorem otherWenotCommandsAct : Obligations.OtherWenotCommandsAct := fun _ _ _ _ =>
  ⟨devIdentify_gives, devStatus_gives, cfgReport_gives, fun _ _ => cfgStage_gives, fun _ _ => cfgCommit_answers, fun _ => timeSet_gives, timeStatus_gives, leapTable_gives,
    fun _ _ _ => gateInstall_gives, snapArm_gives, snapRead_idle, fun hw h0 _ => snapRead_gives hw h0, faultRead_gives, faultAck_gives, fun _ _ => faultInject_gives,
    fun _ _ _ hw hl hn h7 ha h2 h5 hp hm hf hz hlo hhi h1 hg hs ho hpairs hdbg _ => duplexConfig_gives hw hl hn h7 ha h2 h5 hp hm hf hz hlo hhi h1 hg hs ho hpairs hdbg,
    fun _ => duplexSwitch_begins, lifeRead_gives, fun _ _ => smemUpdate_gives⟩

end Sys2Proof.Machine
end

section
/-! PROOFS. What the operations of the device leave as it is: the canonical form of memory, the grants of partitions and slices, and the registers that say which states these have, what the safe state has latched and which units a pair holds. Each operation's rule extends a chain of steps that leads to the device it is applied to. -/

namespace Sys2Proof.Machine
open Sys2Proof

/- Many short rules follow: elaborated one after another they need few threads at a time. -/
set_option Elab.async false

/-- What is watched along a chain of steps. -/
inductive Watch
  | memory
  | slices
  | parts
  | safe
  | units
  deriving DecidableEq

/-- The registers that must not change while `k` is watched. -/
def Watch.regs : Watch → List Reg
  | .memory => []
  | .slices => [.slcState]
  | .parts => [.ptnState, .coreCfg]
  | .safe => [.fltSafeCause, .fltSafeTime, .fltStat, .fltCnt]
  | .units => [.fltSafeCause, .fltSafeTime, .fltStat, .fltCnt, .dpxCw]

/-- The registers that some chain watches. -/
def Watch.all : List Reg := [.slcState, .ptnState, .coreCfg, .fltSafeCause, .fltSafeTime, .fltStat, .fltCnt, .dpxCw]

theorem Watch.regs_sub (k : Watch) : k.regs ⊆ Watch.all := by
  cases k <;> decide

/-- The parts of a device that a chain from `d` has reached: memory in its canonical form if it was, and, when more than memory is watched, the watched registers and all grants as they were. -/
structure Kept (k : Watch) (d : Dev) (regs : Tab Word) (mem : List Host.Cell) (parts : Tab Part) (slices : Tab Slice) : Prop where
  mem : Memory.wf d.mem = true → Memory.wf mem = true
  regs : ∀ r ∈ k.regs, ∀ i, tabGet regs (r.resetAt i) (regKey r i) = d.reg r i
  parts : k ≠ .memory → ∀ n, (tabGet parts {} n).grant = (d.part n).grant
  slices : k ≠ .memory → ∀ n, (tabGet slices {} n).grant = (d.slc n).grant

/-- A chain from `d` has reached `e` and left what `k` watches. -/
def Steady (k : Watch) (d e : Dev) : Prop := Kept k d e.regs e.mem e.ptn.parts e.ptn.slices

variable {k : Watch} {a d e : Dev}

theorem Steady.reg (h : Steady k d e) {r : Reg} (hr : r ∈ k.regs) (i : Nat) : e.reg r i = d.reg r i := h.regs r hr i
theorem Steady.rf (h : Steady k d e) {r : Reg} (hr : r ∈ k.regs) (i lo w : Nat) : e.rf r i lo w = d.rf r i lo w := by
  unfold Dev.rf; rw [h.reg hr]
theorem Steady.rb (h : Steady k d e) {r : Reg} (hr : r ∈ k.regs) (i lo : Nat) : e.rb r i lo = d.rb r i lo := by
  unfold Dev.rb; rw [h.reg hr]
theorem Steady.part_grant (h : Steady k d e) (hk : k ≠ .memory) (n : Nat) : (e.part n).grant = (d.part n).grant := h.parts hk n
theorem Steady.slc_grant (h : Steady k d e) (hk : k ≠ .memory) (n : Nat) : (e.slc n).grant = (d.slc n).grant := h.slices hk n
theorem Steady.wf (h : Steady k d e) (hd : Memory.wf d.mem = true) : Memory.wf e.mem = true := h.mem hd

theorem Steady.refl : Steady k d d := ⟨id, fun _ _ _ => rfl, fun _ _ => rfl, fun _ _ => rfl⟩

theorem Steady.trans (h : Steady k a d) (h' : Steady k d e) : Steady k a e :=
  ⟨fun ha => h'.mem (h.mem ha), fun r hr i => (h'.regs r hr i).trans (h.regs r hr i), fun hk n => (h'.parts hk n).trans (h.parts hk n),
    fun hk n => (h'.slices hk n).trans (h.slices hk n)⟩

/-- What a chain leaves while more is watched, it leaves while less is. -/
theorem Steady.mono {k' : Watch} (h : Steady k d e) (hs : k'.regs ⊆ k.regs) (hk : k' ≠ .memory → k ≠ .memory) : Steady k' d e :=
  ⟨h.mem, fun r hr => h.regs r (hs hr), fun hn => h.parts (hk hn), fun hn => h.slices (hk hn)⟩

theorem Steady.mk (h : Steady k a d) {thr : Tab Thread} {cores : Tab CoreSt} {time : Time} {pkt : Pkt} {keys : Keys} {dma : Dma} {host : HostSt} {fw : Fw} {flt : Flt} {dpx : Duplex}
    {cnt : Cnt} {relPend : List (Nat × Nat × Nat × Slot)} {life : Life} {board : Board} {boot : Boot} {outs : List OutEv} {free : Nat} :
    Steady k a ⟨d.regs, d.mem, thr, cores, time, pkt, keys, dma, host, d.ptn, fw, flt, dpx, cnt, relPend, life, board, boot, outs, free⟩ := h

theorem Steady.foldl {α : Type} {f : Dev → α → Dev} {l : List α} (h : Steady k a d) (hf : ∀ d b, Steady k d (f d b)) : Steady k a (l.foldl f d) :=
  h.trans (foldl_related (f := f) (R := Steady k) (fun _ => .refl) .trans hf l d)

theorem Steady.foldl_mem {α : Type} {f : Dev → α → Dev} {l : List α} (h : Steady k a d) (hf : ∀ b ∈ l, ∀ d, Steady k d (f d b)) : Steady k a (l.foldl f d) := by
  induction l generalizing d with
  | nil => exact h
  | cons b l ih => exact ih (h.trans (hf b (.head _) d)) (fun b hb => hf b (.tail _ hb))

theorem Steady.ite {c : Prop} [Decidable c] {x y : Dev} (hx : Steady k a x) (hy : Steady k a y) : Steady k a (if c then x else y) := by
  split
  · exact hx
  · exact hy

@[simp] theorem notMem_regs {r : Reg} (h : r ∉ Watch.all) : r ∉ k.regs := fun hr => h (k.regs_sub hr)

@[simp] theorem Watch.regs_memory : Watch.memory.regs = [] := rfl

theorem Steady.setReg {r : Reg} {i : Nat} {v : Word} (h : Steady k a d) (hr : r ∉ k.regs := by simp [Watch.all, *]) : Steady k a (d.setReg r i v) :=
  h.trans ⟨id, fun _ hm _ => Dev.reg_setReg_ne d v (.inl fun he => hr (he ▸ hm)), fun _ _ => rfl, fun _ _ => rfl⟩
theorem Steady.setRf {r : Reg} {i lo w x : Nat} (h : Steady k a d) (hr : r ∉ k.regs := by simp [Watch.all, *]) : Steady k a (d.setRf r i lo w x) := h.setReg hr
theorem Steady.setRb {r : Reg} {i lo : Nat} {v : Bool} (h : Steady k a d) (hr : r ∉ k.regs := by simp [Watch.all, *]) : Steady k a (d.setRb r i lo v) := h.setReg hr
theorem Steady.incRf {r : Reg} {i lo w n : Nat} (h : Steady k a d) (hr : r ∉ k.regs := by simp [Watch.all, *]) : Steady k a (d.incRf r i lo w n) := h.setReg hr

theorem Steady.resetWhere {rs : List Reg} {p : Reg → Nat → Bool} (h : Steady k a d) (hr : ∀ r ∈ rs, r ∉ Watch.all := by decide) : Steady k a (d.resetWhere rs p) :=
  h.trans ⟨id, fun r hm i => by
    have hd := Dev.reg_resetWhere (d := d) rs p r i
    rw [if_neg (fun hc => hr r hc.1 (k.regs_sub hm))] at hd
    exact hd, fun _ _ => rfl, fun _ _ => rfl⟩

theorem Steady.setPart {p : Nat} {x : Part} (h : Steady k a d) (hx : k ≠ .memory → x.grant = (d.part p).grant := by intro _; rfl) : Steady k a (d.setPart p x) :=
  h.trans ⟨id, fun _ _ _ => rfl, fun hk n => by
    show (tabGet (tabPut d.ptn.parts {} p x) {} n).grant = _
    by_cases hn : n = p
    · rw [hn, tabGet_put_same]; exact hx hk
    · rw [tabGet_put_ne _ _ _ hn]; rfl, fun _ _ => rfl⟩

theorem Steady.setSlice {s : Nat} {x : Slice} (h : Steady k a d) (hx : k ≠ .memory → x.grant = (d.slc s).grant := by intro _; rfl) : Steady k a (d.setSlice s x) :=
  h.trans ⟨id, fun _ _ _ => rfl, fun _ _ => rfl, fun hk n => by
    show (tabGet (tabPut d.ptn.slices {} s x) {} n).grant = _
    by_cases hn : n = s
    · rw [hn, tabGet_put_same]; exact hx hk
    · rw [tabGet_put_ne _ _ _ hn]; rfl⟩

theorem Steady.write {x : Nat} {bs : List Byte} (h : Steady k a d) : Steady k a (d.write x bs) :=
  h.trans ⟨memStore_wf x bs, fun _ _ _ => rfl, fun _ _ => rfl, fun _ _ => rfl⟩
theorem Steady.zero {x n : Nat} (h : Steady k a d) : Steady k a (d.zero x n) :=
  h.trans ⟨tabWf_filter _, fun _ _ _ => rfl, fun _ _ => rfl, fun _ _ => rfl⟩

/-! ## One rule for each operation, written as the operation is -/

theorem Steady.countBy {ev n : Nat} (h : Steady k a d) : Steady k a (d.countBy ev n) := h.mk

theorem Steady.count {ev : Nat} (h : Steady k a d) : Steady k a (d.count ev) := h.countBy

theorem Steady.emit {o : OutEv} (h : Steady k a d) : Steady k a (d.emit o) := h.mk

theorem Steady.intaEdge {b : Dev} {x f : Nat} (h : Steady k a d) : Steady k a (d.intaEdge b x f) := .ite h h.emit

theorem Steady.setFn {h' f : Nat} {x : HostFn} (h : Steady k a d) : Steady k a (d.setFn h' f x) := h.mk

theorem Steady.wakeLink {h' : Nat} (h : Steady k a d) : Steady k a (d.wakeLink h') := .ite h.setRb h

theorem Steady.interrupt {h' f v : Nat} (h : Steady k a d) : Steady k a (d.interrupt h' f v) :=
  .ite (.ite h.setFn (.ite h.setFn h.emit.count.wakeLink)) (.ite (.ite h.setFn (.ite h.setFn h.emit.count.wakeLink)) h.setRb.intaEdge)

theorem Steady.setCq {n : Nat} {x : CqSt} (h : Steady k a d) : Steady k a (d.setCq n x) := h.mk

theorem Steady.cqInterrupt {n s : Nat} (h : Steady k a d) : Steady k a (d.cqInterrupt n s) := .ite h.setCq.interrupt h.setCq

theorem Steady.cqWritten {n s : Nat} (h : Steady k a d) : Steady k a (d.cqWritten n s) := .ite h.setCq.cqInterrupt (.ite h.setCq.setCq h.setCq)

theorem Steady.setDuplex {p : Nat} {x : Dpx} (h : Steady k a d) : Steady k a (d.setDuplex p x) := h.mk

theorem Steady.hostEmit {h' f : Nat} {pasid : Word} {addr : Nat} {bs : List Byte} (h : Steady k a d) : Steady k a (d.hostEmit h' f pasid addr bs) :=
  h.emit.count.countBy.wakeLink

theorem Steady.hostWrite {h' f : Nat} {pasid : Word} {addr : Nat} {bs : List Byte} (h : Steady k a d) : Steady k a (d.hostWrite h' f pasid addr bs) :=
  .ite h.setDuplex h.hostEmit

theorem Steady.sliceWrite {s addr : Nat} {bs : List Byte} (h : Steady k a d) : Steady k a (d.sliceWrite s addr bs) := h.hostWrite

theorem Steady.cqWrite {s : Nat} {c : Cqe} {overflowed : Nat} (h : Steady k a d) : Steady k a (d.cqWrite s c overflowed) :=
  h.sliceWrite.setRf.setRf.count.cqWritten

theorem Steady.progCount {p n : Nat} {v : Word} (h : Steady k a d) : Steady k a (d.progCount p n v) := h.mk

theorem Steady.setThread {tid : Nat} {t : Thread} (h : Steady k a d) : Steady k a (d.setThread tid t) := h.mk

theorem Steady.updThread {tid : Nat} {f : Thread → Thread} (h : Steady k a d) : Steady k a (d.updThread tid f) := h.setThread

theorem Steady.slots {tid c : Nat} {n : Word} (h : Steady k a d) : Steady k a (d.slots tid c n) := .ite h.mk h

theorem Steady.discardReqs {p : HostReq → Bool} (h : Steady k a d) : Steady k a (d.discardReqs p) := h.mk

theorem Steady.discardOps {p : HostOp → Bool} (h : Steady k a d) : Steady k a (d.discardOps p) := h.discardReqs

theorem Steady.fresh (h : Steady k a d) : Steady k a d.fresh.2 := h

theorem Steady.overflowStat {s n : Nat} (h : Steady k a d) : Steady k a (d.overflowStat s n) :=
  (((h.setRf.foldl fun _ _ => .ite Steady.refl.setRb Steady.refl).setRf).setRb).setRf

theorem Steady.raise {source isl : Nat} {part tid : Option Nat} {exc : Nat} {detail : Nat} (h : Steady k a d) : Steady k a (d.raise source isl part tid exc detail) :=
  h.mk

theorem Steady.raiseFree {source isl : Nat} {part : Option Nat} (h : Steady k a d) : Steady k a (d.raiseFree source isl part) := h.fresh.raise

theorem Steady.recordInput {tid : Nat} {v : Word} (h : Steady k a d) : Steady k a (d.recordInput tid v) := by
  unfold Dev.recordInput
  split
  · exact .ite h.updThread h
  · exact h

theorem Steady.wakeShadow {tid : Nat} (h : Steady k a d) : Steady k a (d.wakeShadow tid) := by
  unfold Dev.wakeShadow
  dsimp only
  split
  · exact .ite h.setThread h
  · exact h

theorem Steady.setEvent {tid line : Nat} (h : Steady k a d) : Steady k a (d.setEvent tid line) := by
  unfold Dev.setEvent
  dsimp only
  split
  · exact .ite h.setThread h.setThread.count.recordInput.wakeShadow
  · exact h.setThread

theorem Steady.signal {p tid line : Nat} (h : Steady k a d) : Steady k a (d.signal p tid line) := .ite h.setEvent h

theorem Steady.route {p : Nat} {group : Bool} {n line : Nat} (h : Steady k a d) : Steady k a (d.route p group n line) :=
  .ite h (.ite (.ite (h.foldl fun _ _ => Steady.refl.setEvent) h) h.signal)

theorem Steady.setChan {ch : Nat} {x : Chan} (h : Steady k a d) : Steady k a (d.setChan ch x) := h.mk

theorem Steady.setOverflow {s n : Nat} {l : List Cqe} (h : Steady k a d) : Steady k a (d.setOverflow s n l) := h.mk.overflowStat

theorem Steady.stageStat {isl : Nat} (h : Steady k a d) : Steady k a (d.stageStat isl) := h.setRf

theorem Steady.tryPost {c : Cqe} (h : Steady k a d) (ht : d.tryPost c = some e) : Steady k a e := by
  unfold Dev.tryPost at ht
  dsimp only at ht
  split at ht
  · exact Option.some.inj ht ▸ h
  · split at ht
    · exact Option.some.inj ht ▸ h
    · split at ht
      · exact Option.some.inj ht ▸ h.cqWrite
      · split at ht
        · cases ht
        · exact Option.some.inj ht ▸ .ite h.setOverflow.count.raiseFree h.setOverflow.count

theorem Steady.xferEvent {ch : Nat} {x : Xfer} (h : Steady k a d) : Steady k a (d.xferEvent ch x) := by
  unfold Dev.xferEvent
  dsimp only
  split
  · exact h.route
  · exact h.route
  · exact h.route
  · exact h

theorem Steady.xferFree {ch : Nat} {x : Xfer} (h : Steady k a d) : Steady k a (d.xferFree ch x) := h.setRb.setRb.setChan.xferEvent

theorem Steady.xferPost {ch : Nat} {x : Xfer} {status : Byte} (h : Steady k a d) : Steady k a (d.xferPost ch x status) := by
  unfold Dev.xferPost
  split
  · exact h.xferFree
  · split
    · next ht => exact (h.tryPost ht).xferFree
    · exact h.setRb.mk

theorem Steady.endXfer {ch : Nat} {status : Byte} {done : Nat} (h : Steady k a d) : Steady k a (d.endXfer ch status done) := by
  unfold Dev.endXfer
  dsimp only
  split
  · exact h
  · exact (Steady.ite ((Steady.ite h.setChan.stageStat.setRb.setRf.setRf.count h.setChan.stageStat.setRb.setRf.setRf.count.count).count) (.ite h.setChan.stageStat.setRb.setRf.setRf.count h.setChan.stageStat.setRb.setRf.setRf.count.count)).xferPost

theorem Steady.failXfer {ch : Nat} {status : Byte} (h : Steady k a d) : Steady k a (d.failXfer ch status) := by
  unfold Dev.failXfer
  split
  · exact h
  · split
    · exact h
    · exact h.discardOps.endXfer

theorem Steady.abortChannel {ch : Nat} {dropArmed : Bool} (h : Steady k a d) : Steady k a (d.abortChannel ch dropArmed) :=
  .ite h.failXfer.setChan.setRb h.failXfer

theorem Steady.addHold {isl p : Nat} {n : Int} (h : Steady k a d) : Steady k a (d.addHold isl p n) := h.setRf

theorem Steady.engStat {isl : Nat} {fix : Bool} (h : Steady k a d) : Steady k a (d.engStat isl fix) := by
  unfold Dev.engStat
  cases fix <;> exact h.setRf

theorem Steady.dropOp {k' : Nat} {o : EngOp} (h : Steady k a d) : Steady k a (d.dropOp k' o) := h.mk.addHold.engStat

theorem Steady.engWrite {o : EngOp} {x : Nat} {bs : List Byte} (h : Steady k a d) (hw : d.engWrite o x bs = .ok e) : Steady k a e := by
  unfold Dev.engWrite at hw
  split at hw
  · cases hw
  · exact Except.ok.inj hw ▸ .ite h h.write

theorem Steady.engCut {o : EngOp} (h : Steady k a d) : Steady k a (d.engCut o) := by
  unfold Dev.engCut
  split
  · split
    · next hw => exact h.engWrite hw
    · exact h
  · exact h

theorem Steady.writeDup {p a' : Nat} {bs : List Byte} (h : Steady k a d) : Steady k a (d.writeDup p a' bs) := .ite h.write.write h.write

theorem Steady.faceShow {m : Nat} (h : Steady k a d) : Steady k a (d.faceShow m) := by
  unfold Dev.faceShow
  dsimp only
  split
  · exact h
  · exact (Steady.ite h.writeDup.writeDup h).writeDup

theorem Steady.setMbx {m : Nat} {x : Mbx} (h : Steady k a d) : Steady k a (d.setMbx m x) := h

theorem Steady.mbxPost {m : Nat} {ptr : Word} {len : W32} (h : Steady k a d) : Steady k a (d.mbxPost m ptr len) :=
  .ite h.setRb.faceShow.count h.setMbx.count.setRb.setRb.setRb.faceShow

theorem Steady.sendRoute {m b : Nat} (h : Steady k a d) : Steady k a (d.sendRoute m b) := by
  unfold Dev.sendRoute
  dsimp only
  split
  · exact h.route
  · exact h.route
  · split
    · exact h.interrupt
    · exact h
  · exact h

theorem Steady.ringBit {m b : Nat} (h : Steady k a d) : Steady k a (d.ringBit m b) := .ite h (.ite h.setRb h.setRb.sendRoute)

theorem Steady.fwPost {ptr : Word} {len : W32} (h : Steady k a d) : Steady k a (d.fwPost ptr len) := .ite h (.ite h.mk h.mbxPost.ringBit)

theorem Steady.fwRespond {opcode : Nat} {h' : CmdHdr} {a' : FwAns} {differs : Bool} (h : Steady k a d) : Steady k a (d.fwRespond opcode h' a' differs) :=
  .ite (.ite (((Steady.ite h h.count).mk).emit) ((Steady.ite h h.count).mk)) (.ite (((Steady.ite h h.count).mk).mk) (.ite ((Steady.ite h h.count).mk) (.ite ((((Steady.ite ((Steady.ite h h.count).mk) (((Steady.ite h h.count).mk).hostWrite)).hostWrite).emit).fwPost) ((((Steady.ite ((Steady.ite h h.count).mk) (((Steady.ite h h.count).mk).hostWrite)).hostWrite).emit).raiseFree))))

theorem Steady.fwEnd {opcode : Nat} {h' : CmdHdr} {a' : FwAns} (h : Steady k a d) : Steady k a (d.fwEnd opcode h' a') := by
  unfold Dev.fwEnd
  dsimp only
  split
  · exact (Steady.ite h.emit h).mk
  · exact h.fwRespond

theorem Steady.fwFinish {opcode : Nat} {a' : FwAns} (h : Steady k a d) : Steady k a (d.fwFinish opcode a') := by
  unfold Dev.fwFinish
  split
  · exact .ite h.fwEnd h
  · exact h

theorem Steady.keyCounts (h : Steady k a d) : Steady k a d.keyCounts := h.setReg.setReg

theorem Steady.setKeyCache {e' : Nat} {c : List Nat} (h : Steady k a d) : Steady k a (d.setKeyCache e' c) := h.mk.setRf

theorem Steady.purgeSlot {n : Nat} (h : Steady k a d) : Steady k a (d.purgeSlot n) := h.foldl fun _ _ => Steady.refl.setKeyCache

theorem Steady.setSlot {n : Nat} {x : KeySlot} (h : Steady k a d) : Steady k a (d.setSlot n x) := h.mk.keyCounts

theorem Steady.retireStep {n : Nat} (h : Steady k a d) : Steady k a (d.retireStep n) :=
  .ite h (.ite h.purgeSlot.setSlot.mk.setRf.fwFinish h.purgeSlot.setSlot.mk.setRf)

theorem Steady.retireAll (h : Steady k a d) : Steady k a d.retireAll := h.foldl fun _ _ => Steady.refl.retireStep

theorem Steady.abortOps {p : EngOp → Bool} (h : Steady k a d) : Steady k a (d.abortOps p) :=
  (h.foldl fun _ _ => Steady.refl.engCut.dropOp).retireAll

theorem Steady.setGroup {g : Nat} {x : Group} (h : Steady k a d) : Steady k a (d.setGroup g x) := h.mk

theorem Steady.assignTo {g tid f : Nat} (h : Steady k a d) : Steady k a (d.assignTo g tid f) := h.setGroup.updThread.setEvent

theorem Steady.moveClassUse {x c add sub : Nat} (h : Steady k a d) : Steady k a (d.moveClassUse x c add sub) :=
  .ite h.mk (.ite h.mk.mk.emit.count (.ite h.mk.mk.emit.count h.mk))

theorem Steady.setFrame {f : Nat} {x : Frame} (h : Steady k a d) : Steady k a (d.setFrame f x) := h.mk

theorem Steady.freeCells {f : Nat} (h : Steady k a d) : Steady k a (d.freeCells f) := by
  unfold Dev.freeCells
  dsimp only
  split
  · exact h
  · exact .ite h h.mk.moveClassUse.setFrame

theorem Steady.dropFrame {f : Nat} (h : Steady k a d) : Steady k a (d.dropFrame f) := h.freeCells.mk

theorem Steady.toGroup {f g : Nat} (h : Steady k a d) : Steady k a (d.toGroup f g) := by
  unfold Dev.toGroup
  dsimp only
  split
  · exact h
  · split
    · exact h.count.raiseFree.dropFrame
    · split
      · exact h.count.dropFrame
      · split
        · exact (Steady.ite h.setFrame.mk h.setFrame).assignTo
        · exact (Steady.ite h.setFrame.mk h.setFrame).setGroup

theorem Steady.updFrame {f : Nat} {g : Frame → Frame} (h : Steady k a d) : Steady k a (d.updFrame f g) := by
  unfold Dev.updFrame
  split
  · exact h.setFrame
  · exact h

theorem Steady.deliverTo {f : Nat} {t : Target} (h : Steady k a d) : Steady k a (d.deliverTo f t) := by
  unfold Dev.deliverTo
  dsimp only
  split
  · exact h.updFrame.mk
  · exact h.updFrame.mk
  · exact h.toGroup

theorem Steady.newFrame {x : Frame} (h : Steady k a d) : Steady k a (d.newFrame x).2 := h

theorem Steady.sendCopy {x : Frame} {t : Target} {trunc : Nat} {reason : Nat} (h : Steady k a d) : Steady k a (d.sendCopy x t trunc reason) :=
  .ite h.count h.newFrame.deliverTo

theorem Steady.actCopies {x : Frame} {a' : Nat} (h : Steady k a d) : Steady k a (d.actCopies x a') := by
  unfold Dev.actCopies
  dsimp only
  split
  · exact h.sendCopy
  · exact h.sendCopy
  · exact h

theorem Steady.updFn {h' f : Nat} {g : HostFn → HostFn} (h : Steady k a d) : Steady k a (d.updFn h' f g) := h.setFn

theorem Steady.aer {h' f : Nat} {e' : Aer} (h : Steady k a d) : Steady k a (d.aer h' f e') := h.updFn

theorem Steady.applyAction {f a' : Nat} (h : Steady k a d) : Steady k a (d.applyAction f a') := by
  unfold Dev.applyAction
  dsimp only
  split
  · exact h
  · exact .ite h.count.dropFrame (.ite h.count.dropFrame h.setFrame.actCopies.deliverTo)

theorem Steady.eraseDue {a' : Nat} (h : Steady k a d) : Steady k a (d.eraseDue a') := h.mk

theorem Steady.flashProgram {a' : Nat} {bs : List Byte} (h : Steady k a d) : Steady k a (d.flashProgram a' bs) := h.mk.countBy

theorem Steady.lifeReady (h : Steady k a d) : Steady k a d.lifeReady := h.setRb

theorem Steady.logWrite {r : List Byte} (h : Steady k a d) : Steady k a (d.logWrite r) :=
  .ite ((Steady.ite h.mk.flashProgram.setReg.eraseDue h.mk.flashProgram.setReg).lifeReady) h.incRf.mk

theorem Steady.raiseKind {kind : Nat} (h : Steady k a d) : Steady k a (d.raiseKind kind) := .ite (.ite h.mk.mk h.mk) h

theorem Steady.checkpoint {kind : Nat} (h : Steady k a d) : Steady k a (d.checkpoint kind) :=
  .ite h.raiseKind ((Steady.ite h.mk.setReg.setReg.mk h.mk.setReg.setReg.mk).logWrite)

theorem Steady.clearThread {tid : Nat} (h : Steady k a d) : Steady k a (d.clearThread tid) := h.setThread

theorem Steady.resetRoutes {m : Nat} {e' : MbxEnd} {lo n : Nat} (h : Steady k a d) : Steady k a (d.resetRoutes m e' lo n) :=
  h.foldl fun _ _ => Steady.refl.setReg

theorem Steady.resetReceiver {m : Nat} (h : Steady k a d) : Steady k a (d.resetReceiver m) :=
  (Steady.ite h.setRb.setRb.setRb.setReg.setReg.setReg.setRf.setRf.resetRoutes.setRb.ringBit.count h.setRb.setRb.setRb.setReg.setReg.setReg.setRf.setRf.resetRoutes).faceShow

theorem Steady.resetSender {m : Nat} (h : Steady k a d) : Steady k a (d.resetSender m) :=
  (((((((((Steady.ite h.setRb h).setRb).setRb).setReg).setReg).setReg).setRf).setRf).resetRoutes).faceShow

theorem Steady.configMbx {r : MbxRec} {p : Nat} {slice : Option Nat} (h : Steady k a d) : Steady k a (d.configMbx r p slice) :=
  h.setMbx.setReg.setReg.setReg.setReg.resetReceiver.resetSender

theorem Steady.releaseReady {g o n : Nat} (h : Steady k a d) : Steady k a (d.releaseReady g o n) := by
  induction n generalizing d with
  | zero => exact h
  | succ n ih =>
    unfold Dev.releaseReady
    split
    · split
      · exact ih h.mk.applyAction
      · exact h
    · exact h

theorem Steady.releaseAll {g o : Nat} (h : Steady k a d) : Steady k a (d.releaseAll g o) := h.releaseReady

theorem Steady.freeEntry {f : Nat} (h : Steady k a d) : Steady k a (d.freeEntry f) := by
  unfold Dev.freeEntry
  split
  · exact h
  · exact h.mk.releaseAll

theorem Steady.discardFrame {isl f : Nat} (h : Steady k a d) : Steady k a (d.discardFrame isl f) := h.count.freeEntry.dropFrame

theorem Steady.discardGroupQueue {g : Nat} (h : Steady k a d) : Steady k a (d.discardGroupQueue g) :=
  h.setGroup.foldl fun _ _ => Steady.refl.discardFrame

theorem Steady.discardThreadFrames {tid : Nat} (h : Steady k a d) : Steady k a (d.discardThreadFrames tid) :=
  h.setThread.foldl fun _ _ => Steady.refl.discardFrame

theorem Steady.unclaim {ch : Nat} (h : Steady k a d) : Steady k a (d.unclaim ch) := h.setChan.setRb

theorem Steady.dropClaims {tid : Nat} (h : Steady k a d) : Steady k a (d.dropClaims tid) :=
  (h.foldl fun _ _ => .ite Steady.refl.unclaim Steady.refl).updThread

theorem Steady.freeLock {n : Nat} (h : Steady k a d) : Steady k a (d.freeLock n) := h.setReg

theorem Steady.lifeReset {k' : Nat} (h : Steady k a d) : Steady k a (d.lifeReset k') := h.mk

theorem Steady.resetThread {tid : Nat} (h : Steady k a d) : Steady k a (d.resetThread tid) :=
  (((h.discardThreadFrames.dropClaims.foldl fun _ _ => Steady.refl.freeLock).mk).discardOps).clearThread

theorem Steady.coreReset {c : Nat} {full : Bool} (h : Steady k a d) : Steady k a (d.coreReset c full) := by
  unfold Dev.coreReset
  extract_lets ts d1 gs d2 loads d3 d4 _ d5 d6 d7 d8
  have h5 : Steady k a d5 := ((((h.abortOps.foldl fun _ _ => Steady.refl.discardGroupQueue).foldl fun _ _ => Steady.refl.resetThread).foldl fun _ _ =>
    Steady.refl.clearThread)).mk
  have h6 : Steady k a d6 := by
    show Steady k a (match d5.partOfCore c with | none => d5 | some p => _)
    clear_value d5
    split
    · exact h5
    · exact .ite h5.setRb.setRf.setPart h5
  have h8 : Steady k a d8 := h6.mk.setReg
  exact .ite h8.resetWhere.resetWhere.mk.zero.fresh.setReg.lifeReset h8

theorem Steady.countSlices {p : Nat} (h : Steady k a d) (hk : Reg.ptnState ∉ k.regs := by simp [Watch.all, *]) : Steady k a (d.countSlices p) :=
  h.setRf

theorem Steady.setBalance {bal : Reg} {isl p : Nat} {v : Int} (h : Steady k a d) (hb : bal ∉ k.regs) : Steady k a (d.setBalance bal isl p v) := h.setReg hb

theorem Steady.creditFull {p : Nat} (h : Steady k a d) : Steady k a (d.creditFull p) :=
  h.foldl fun _ _ => Steady.refl.foldl_mem fun c hc _ => Steady.refl.setBalance (fun hr => (show ∀ c ∈ creditOf, c.2.1 ∉ Watch.all by decide) c hc (k.regs_sub hr))

theorem Steady.moveEgress {p m add sub : Nat} (h : Steady k a d) : Steady k a (d.moveEgress p m add sub) := h.mk.setRf

theorem Steady.freeEgress {q f : Nat} (h : Steady k a d) : Steady k a (d.freeEgress q f) := by
  unfold Dev.freeEgress
  split
  · exact h.moveEgress
  · exact h

theorem Steady.cutWire {x : Nat} (h : Steady k a d) : Steady k a (d.cutWire x) := by
  unfold Dev.cutWire
  extract_lets gone d1
  have h1 : Steady k a d1 := by
    show Steady k a (match tabFind x d.pkt.susp with | some v => gone d v | none => d)
    split
    · exact h.freeEgress.dropFrame
    · exact h
  split
  · exact h1.freeEgress.dropFrame.emit
  · exact h1

theorem Steady.drainChannels (h : Steady k a d) : Steady k a d.drainChannels := by
  unfold Dev.drainChannels
  dsimp only
  refine h.mk.foldl fun _ _ => ?_
  · split
    · split
      · exact Steady.refl.xferPost
      · exact Steady.refl
    · exact Steady.refl

theorem Steady.post {c : Cqe} (h : Steady k a d) : Steady k a (d.post c) := by
  unfold Dev.post
  dsimp only
  split
  · exact h.mk
  · split
    · next ht => exact h.tryPost ht
    · exact h.mk

theorem Steady.drainWaiting (h : Steady k a d) : Steady k a d.drainWaiting := h.mk.foldl fun _ _ => Steady.refl.post

theorem Steady.dropPartFrames {p : Nat} (h : Steady k a d) : Steady k a (d.dropPartFrames p) := h.mk.foldl fun _ _ => Steady.refl.dropFrame

theorem Steady.dropUnits {p : Nat} (h : Steady k a d) (hk : Reg.dpxCw ∉ k.regs := by simp [Watch.all, *]) : Steady k a (d.dropUnits p) :=
  (Steady.ite (h.foldl fun _ _ => .ite Steady.refl.emit Steady.refl) h).setReg

theorem Steady.dropXfer {ch : Nat} (h : Steady k a d) : Steady k a (d.dropXfer ch) := by
  unfold Dev.dropXfer
  dsimp only
  split
  · exact h
  · exact h.setChan.stageStat.setRb.setRb

theorem Steady.fwAbandon (h : Steady k a d) : Steady k a d.fwAbandon := by
  unfold Dev.fwAbandon
  dsimp only
  split
  · exact h
  · split
    · exact h.fresh.fresh.mk
    · exact .ite h.mk (.ite h.mk.mk h.mk)
    · exact h

theorem Steady.internalError (h : Steady k a d) : Steady k a d.internalError := h.foldl fun _ _ => .ite Steady.refl.updFn.aer Steady.refl

theorem Steady.purgeKeys (h : Steady k a d) : Steady k a d.purgeKeys := h.foldl fun _ _ => Steady.refl.setKeyCache

theorem Steady.setPhase (h : Steady k a d) (hk : Reg.fltStat ∉ k.regs := by simp [Watch.all, *]) : Steady k a d.setPhase := h.setRf

theorem Steady.showFaces (h : Steady k a d) : Steady k a d.showFaces := h.foldl fun _ _ => Steady.refl.faceShow

theorem Steady.facesOf {p : Nat} (h : Steady k a d) : Steady k a (d.facesOf p) := h.foldl fun _ _ => Steady.refl.faceShow

theorem Steady.raiseExc {tid code pc : Nat} {slot : Slot} {operand : Nat} (h : Steady k a d) : Steady k a (d.raiseExc tid code pc slot operand) :=
  .ite h h.raise.count

theorem Steady.lateExc {tid code pc : Nat} {slot : Slot} {operand : Nat} (h : Steady k a d) : Steady k a (d.lateExc tid code pc slot operand) :=
  h.raiseExc.updThread

theorem Steady.failLoads {s : Nat} (h : Steady k a d) : Steady k a (d.failLoads s) := by
  unfold Dev.failLoads
  dsimp only
  refine h.foldl fun _ _ => Steady.refl.foldl fun _ _ => ?_
  · split
    · exact Steady.refl.discardOps.updThread.lateExc
    · exact Steady.refl

theorem Steady.setTxq {q : Nat} {x : TxQ} (h : Steady k a d) : Steady k a (d.setTxq q x) := h.mk

theorem Steady.retireTxq {q : Nat} (h : Steady k a d) : Steady k a (d.retireTxq q) := h.mk.setTxq

theorem Steady.txComplete {x : Frame} {status : Byte} (h : Steady k a d) : Steady k a (d.txComplete x status) := by
  unfold Dev.txComplete
  dsimp only
  split
  · exact h
  · exact .ite h.mk h.mk.post

theorem Steady.txDrop {f : Nat} (h : Steady k a d) : Steady k a (d.txDrop f) := by
  unfold Dev.txDrop
  split
  · exact h
  · exact h.dropFrame.txComplete

theorem Steady.flushTxq {q : Nat} (h : Steady k a d) : Steady k a (d.flushTxq q) :=
  ((h.foldl fun _ _ => Steady.refl.count.freeEgress.txDrop).retireTxq).setTxq

theorem Steady.mirrorStart {w : Nat} (h : Steady k a d) : Steady k a (d.mirrorStart w) := h.setRb.mk

theorem Steady.resetEnds {p : MbxEnd → Bool} (h : Steady k a d) : Steady k a (d.resetEnds p) :=
  h.foldl fun _ _ => .ite ((Steady.ite Steady.refl.resetReceiver Steady.refl).resetSender) (.ite Steady.refl.resetReceiver Steady.refl)

theorem Steady.resetPartRegs {p : Nat} (h : Steady k a d) : Steady k a (d.resetPartRegs p) :=
  ((((h.resetWhere.resetWhere.resetWhere.resetWhere.resetWhere.resetWhere.resetWhere.resetWhere.resetWhere.resetWhere.resetWhere.resetWhere.foldl fun _ _ => Steady.refl.foldl fun _ _ => Steady.refl.setRf).resetWhere).resetWhere).resetWhere).mk

theorem Steady.setSliceState {s v : Nat} (h : Steady k a d) (hk : Reg.slcState ∉ k.regs := by simp [Watch.all, *]) : Steady k a (d.setSliceState s v) :=
  h.setRf

theorem Steady.setSq {n : Nat} {x : SqSt} (h : Steady k a d) : Steady k a (d.setSq n x) := h.mk

theorem Steady.sliceResetBegin_of {s : Nat} (h : Steady k a (d.setSliceState s 3)) : Steady k a (d.sliceResetBegin s) := by
  unfold Dev.sliceResetBegin
  extract_lets d1 _ d2 sqs cqs d3 d4 d5 d6 d7 gone d8
  have h4 : Steady k a d4 := h.lifeReset.setSlice.count.discardOps.foldl fun _ _ => Steady.refl.abortChannel
  have h5 : Steady k a d5 := h4.foldl fun _ _ => .ite Steady.refl.abortChannel .refl
  have h7 : Steady k a d7 := (h5.foldl fun _ _ => Steady.refl.flushTxq).foldl fun _ _ => Steady.refl.setSq
  have h8 : Steady k a d8 := h7.setOverflow.foldl fun _ _ => Steady.refl.setOverflow
  exact h8.mk.setSlice.drainChannels.drainWaiting.failLoads.resetEnds

theorem Steady.sliceResetBegin {s : Nat} (h : Steady k a d) (hk : Reg.slcState ∉ k.regs := by simp [Watch.all, *]) : Steady k a (d.sliceResetBegin s) :=
  sliceResetBegin_of (h.setSliceState hk)

theorem Steady.partResetBegin_of {p : Nat} {destroy : Bool} (h : Steady k a (d.setRf .ptnState p 0 3 (if destroy then 4 else 3)))
    (hs : Reg.slcState ∉ k.regs := by simp [Watch.all, *]) (hf : Reg.fltStat ∉ k.regs := by simp [Watch.all, *]) : Steady k a (d.partResetBegin p destroy) := by
  unfold Dev.partResetBegin
  extract_lets d1 _ d2 _ d3 d4 d5 d6 d7 d8 d9 d10 d11 d12
  have h2 : Steady k a d2 := h.lifeReset.setPart
  have h3 : Steady k a d3 := h2.mk.setPhase hf
  have h5 : Steady k a d5 := (h3.foldl fun _ _ => .ite .refl (Steady.refl.sliceResetBegin hs)).foldl fun _ _ => Steady.refl.coreReset
  have h9 : Steady k a d9 := (h5.setRb.setRf.abortOps.foldl fun _ _ => Steady.refl.abortChannel).foldl fun _ _ => Steady.refl.setChan
  have h12 : Steady k a d12 := ((h9.foldl fun _ _ => Steady.refl.purgeSlot).foldl fun _ _ => Steady.refl.flushTxq).dropPartFrames
  exact (h12.resetPartRegs.creditFull.foldl fun _ _ => Steady.refl.setRb).resetEnds.facesOf

theorem Steady.resetSliceRegs {s : Nat} (h : Steady k a d) : Steady k a (d.resetSliceRegs s) :=
  (h.resetWhere.resetWhere.resetWhere.foldl fun _ _ => Steady.refl.setCq).foldl fun _ _ => Steady.refl.setSq

theorem Steady.restoreCq {g : SliceGrant} {e' : List Byte} (h : Steady k a d) : Steady k a (d.restoreCq g e') := by
  unfold Dev.restoreCq
  dsimp only
  split
  · exact h
  · exact h.setReg.setReg.setReg.setReg.setReg

theorem Steady.restoreMbx {s : Nat} {g : SliceGrant} {x : List Byte} (h : Steady k a d) : Steady k a (d.restoreMbx s g x) := by
  unfold Dev.restoreMbx
  split
  · exact h
  · exact (h.setMbx.setRf.setReg.setReg.foldl fun _ _ => .ite Steady.refl.setReg .refl).faceShow

theorem Steady.restoreOvf {s : Nat} {g : SliceGrant} {es : List (List Byte)} (h : Steady k a d) : Steady k a (d.restoreOvf s g es) :=
  h.setOverflow.foldl fun _ _ => Steady.refl.overflowStat

theorem Steady.restoreSq {g : SliceGrant} {e' : List Byte} (h : Steady k a d) : Steady k a (d.restoreSq g e') := by
  unfold Dev.restoreSq
  dsimp only
  split
  · exact h
  · exact h.setReg.setReg.setReg.setReg.setReg.setReg.setReg

theorem Steady.restoreTxq {g : SliceGrant} {e' : List Byte} (h : Steady k a d) : Steady k a (d.restoreTxq g e') := by
  unfold Dev.restoreTxq
  split
  · exact h
  · exact h.setReg.setReg

theorem Steady.winWrite {w r v : Nat} (h : Steady k a d) : Steady k a (d.winWrite w r v) := by
  unfold Dev.winWrite
  split
  · exact h.setReg
  · exact h.setReg.mirrorStart
  · exact h.setReg.mirrorStart
  · exact h.setRf.mirrorStart

theorem Steady.restoreWin {g : SliceGrant} {e' : List Byte} (h : Steady k a d) : Steady k a (d.restoreWin g e') := by
  unfold Dev.restoreWin
  split
  · exact h
  · exact h.winWrite.winWrite.winWrite.winWrite

theorem Steady.sliceLoad {s : Nat} {g : SliceGrant} {sec : Nat → List (List Byte)} (h : Steady k a d) : Steady k a (d.sliceLoad s g sec) :=
  (((((h.foldl fun _ _ => Steady.refl.restoreSq).foldl fun _ _ => Steady.refl.restoreCq).foldl fun _ _ => Steady.refl.restoreTxq).foldl fun _ _ => Steady.refl.restoreMbx).foldl fun _ _ => Steady.refl.restoreWin).restoreOvf

theorem Steady.sliceMake_of {s st : Nat} {g : SliceGrant}
    (h : Steady k a ((d.setSlice s { ({} : Slice) with grant := some g }).setReg .slcState s (BitVec.ofNat 64 (st + g.part * 8 + g.port * 64 + g.pasid * 4096))))
    (hk : Reg.ptnState ∉ k.regs := by simp [Watch.all, *]) : Steady k a (d.sliceMake s g st) := by
  unfold Dev.sliceMake
  extract_lets blank d1 d2 d3 pairs chanOf d4 d5 d6 d7
  have h4 : Steady k a d4 := h.setReg.setReg.foldl fun _ _ => Steady.refl.foldl fun _ _ => Steady.refl.setReg
  have h6 : Steady k a d6 := (h4.foldl fun _ _ => Steady.refl.setReg).foldl fun _ _ => Steady.refl.setRf.setRb
  exact (h6.resetSliceRegs.countSlices hk).foldl fun _ _ => Steady.refl.configMbx

theorem Steady.straitFull {p w : Nat} (h : Steady k a d) : Steady k a (d.straitFull p w) := h

theorem Steady.takeQuotas {p : Nat} {g : Grant} (h : Steady k a d) : Steady k a (d.takeQuotas p g) :=
  ((((((h.foldl fun _ _ => Steady.refl.setReg.setReg.setReg.setReg).foldl fun _ _ => Steady.refl.setRf).setReg).setReg).setReg).setReg).setReg

theorem Steady.takeTxq {p q : Nat} (h : Steady k a d) : Steady k a (d.takeTxq p q) := .ite h h.flushTxq.setRf

theorem Steady.takeRange {p : Nat} {r : Range} (h : Steady k a d) : Steady k a (d.takeRange p r) := by
  unfold Dev.takeRange
  extract_lets each
  split
  · exact h.foldl fun _ _ => Steady.refl.takeTxq
  · exact h.foldl fun _ _ => Steady.refl.setRf
  · exact h.foldl fun _ _ => Steady.refl.setRf
  · exact h.foldl fun _ _ => Steady.refl.setRf
  · exact h.foldl fun _ _ => Steady.refl.setRf.setRb
  · exact h.foldl fun _ _ => Steady.refl.setRf.setRb
  · exact h.foldl fun _ _ => Steady.refl.setRf
  · exact h.foldl fun _ _ => Steady.refl.setRf
  · exact h.foldl fun _ _ => Steady.refl.setRf
  · exact h

end Sys2Proof.Machine
end

section
/-! PROOFS. The commands on partitions and slices (chapter 10; R323 to R326, R332 to R345). -/

namespace Sys2Proof.Machine
open Sys2Proof

section
variable {h : CmdHdr} {s : State} {p : List Byte} {e : Dev}

/-! ## What a partition grant leaves in force (R323, R324) -/

/-- The core is assigned to partition `n`. -/
def CoreOf (n c : Nat) (d : Dev) : Prop := d.rf .coreCfg c 0 4 = n + 8

theorem partOfCore_of {d : Dev} {n c : Nat} (hn : n < 8) (h : CoreOf n c d) : d.partOfCore c = some n := by
  have h8 : wf (d.reg .coreCfg c) 0 4 = n + 8 := h
  have hb : d.rb .coreCfg c 3 = true := by
    show wbit (d.reg .coreCfg c) 3 = true
    rw [wbit_eq_wf, decide_eq_true_eq]
    simp only [wf, fld] at h8 ⊢
    omega
  have hf : d.rf .coreCfg c 0 3 = n := by
    show wf (d.reg .coreCfg c) 0 3 = n
    simp only [wf, fld] at h8 ⊢
    omega
  rw [Dev.partOfCore, hb, hf]
  rfl

theorem Steady.coreOf {d e : Dev} {n c : Nat} (h : Steady .parts d e) (hc : CoreOf n c d) : CoreOf n c e := (h.rf (by decide) c 0 4).trans hc

/-- Resetting and assigning cores one by one leaves each of them assigned. -/
theorem coreOf_foldl {n c : Nat} (hn : n < 8) (l : List Nat) (d : Dev) (hc : c ∈ l ∨ CoreOf n c d) :
    CoreOf n c (l.foldl (fun d c => (d.coreReset c true).setRf .coreCfg c 0 4 (n + 8)) d) := by
  induction l generalizing d with
  | nil => exact hc.resolve_left (List.not_mem_nil)
  | cons b l ih =>
    refine ih _ ?_
    by_cases hb : c = b
    · exact .inr (hb ▸ Dev.rf_setRf_of_lt _ (by decide) (by omega))
    · refine hc.imp (fun hm => (List.mem_cons.mp hm).resolve_left hb) fun hc => ?_
      exact (Dev.rf_setRf_other _ _ _ _ _ _ (.inr hb)).trans (Steady.refl.coreReset.coreOf hc)

theorem takeGrant_shows (d : Dev) {n : Nat} (hn : n < 8) (g : Grant) :
    (d.takeGrant n g).partState n = 1 ∧ ((d.takeGrant n g).part n).grant = some g ∧ ∀ c < 64, g.cores.getLsbD c = true → (d.takeGrant n g).partOfCore c = some n := by
  unfold Dev.takeGrant
  extract_lets blank d1 d2 d3 d4 d5 d6 _ d7 d8
  have h4 : Steady .slices d1 d4 := (Steady.refl.resetWhere.resetPartRegs).foldl fun _ _ => Steady.refl.coreReset.setRf (by decide)
  have hcore : ∀ c < 64, g.cores.getLsbD c = true → CoreOf n c d4 := fun c hc hg =>
    coreOf_foldl hn _ d3 (.inl (List.mem_filter.mpr ⟨List.mem_range.mpr hc, hg⟩))
  have h7 : Steady .parts d4 d7 := ((Steady.refl.foldl fun _ _ => Steady.refl.takeRange).takeQuotas.creditFull.straitFull).mk
  have h8 : Steady .slices d7 d8 := Steady.refl.setReg (by decide)
  have h9 : Steady .parts d8 (g.mbxs.foldl (fun d r => d.configMbx r n none) d8) := Steady.refl.foldl fun _ _ => Steady.refl.configMbx
  have hgrant : (d1.part n).grant = some g := by
    show ((d.setPart n { blank with grant := some g }).part n).grant = some g
    rw [Dev.part_setPart_same]
  refine ⟨(h9.rf (by decide) n 0 3).trans ?_, ?_, fun c hc hg => partOfCore_of hn (h9.coreOf ?_)⟩
  · exact (congrArg (fun v => wf v 0 3) (Dev.reg_setReg_same d7 .ptnState n 1)).trans rfl
  · rw [h9.part_grant (by decide), h8.part_grant (by decide), h7.part_grant (by decide), h4.part_grant (by decide), hgrant]
  · exact (Dev.rf_setReg_other _ _ _ _ (.inl (by decide))).trans (h7.coreOf (hcore c hc hg))

theorem grantCheck_lt {n : Nat} {g : Grant} (hc : e.grantCheck p = .ok (n, g)) : n < 8 := by
  unfold Dev.grantCheck at hc
  dsimp only at hc
  split at hc
  · cases hc
  · next hb =>
    have hn : leAt p 1 1 ≤ 7 := by
      by_contra hgt
      exact hb (by simp only [Dev.grantBad, Bool.or_eq_true, decide_eq_true_eq]; omega)
    repeat' split at hc
    all_goals cases hc
    omega

theorem partCreate_gives {n : Nat} {g : Grant} (hw : Claims.Wenot 0x20 false h p s.dev e) (hc : e.grantCheck p = .ok (n, g)) :
    (e.ddrWaits g = true → Claims.Begins (.partCreate h) 0x20 h s (fun d => d = e)) ∧
    (e.ddrWaits g = false → Claims.Gives (.partCreate h) 0x20 h s { r0 := BitVec.ofNat 64 n } (fun d => d = e.takeGrant n g ∧ d.partState n = 1 ∧ (d.part n).grant = some g ∧
      ∀ c < 64, g.cores.getLsbD c = true → d.partOfCore c = some n)) := by
  refine ⟨fun hd => begins_of_row (c := .partCreate h) rfl hw (e' := e) ?_ rfl,
    fun hd => gives_of_row (c := .partCreate h) rfl hw (e' := e.takeGrant n g) ?_ ⟨rfl, takeGrant_shows e (grantCheck_lt hc) g⟩⟩
  · rw [hc]; dsimp only; rw [hd, if_pos rfl]
  · rw [hc]; dsimp only; rw [hd]; rfl

/-! ## Reset and destruction of a partition (R331, R332, R372) -/

theorem partResetBegin_state (d : Dev) (n : Nat) (destroy : Bool) : (d.partResetBegin n destroy).partState n = if destroy then 4 else 3 := by
  have hs : Steady .parts (d.setRf .ptnState n 0 3 (if destroy then 4 else 3)) (d.partResetBegin n destroy) :=
    Steady.refl.partResetBegin_of (by decide) (by decide)
  refine (hs.rf (by decide) n 0 3).trans (Dev.rf_setRf_of_lt _ (by decide) ?_)
  cases destroy <;> decide

theorem partJob_holds {n : Nat} (destroy : Bool) (hn : n = h.arg0.toNat) (hlt : n ≤ 7) (hs : e.partState n = 1 ∨ e.partState n = 2) :
    e.partJob h destroy = .hold (e.partResetBegin n destroy) := by
  unfold Dev.partJob
  rw [← hn]
  dsimp only
  rw [if_neg (by omega)]
  rcases hs with hs | hs <;> rw [hs] <;> rfl

theorem arg0_le {opcode mask : Nat} {np : Bool} (hw : Claims.Wenot opcode np h p s.dev e) (hm : (argMask opcode).1 = mask) : h.arg0.toNat ≤ mask := by
  obtain ⟨-, -, -, -, ha, -⟩ := hw
  simp only [argBad, Bool.or_eq_false_iff, bne_eq_false_iff_eq] at ha
  have hle : h.arg0.toNat &&& mask ≤ mask := Nat.and_le_right
  have := ha.1
  rw [hm] at this
  omega

theorem partJobs_begin {n : Nat} (hn : n = h.arg0.toNat) (hs : e.partState n = 1 ∨ e.partState n = 2) :
    (Claims.Wenot 0x21 true h p s.dev e → Claims.Begins (.partDestroy h) 0x21 h s (fun d => d = e.partResetBegin n true ∧ d.partState n = 4)) ∧
    (Claims.Wenot 0x22 true h p s.dev e → Claims.Begins (.partReset h) 0x22 h s (fun d => d = e.partResetBegin n false ∧ d.partState n = 3)) :=
  ⟨fun hw => begins_of_row (c := .partDestroy h) rfl hw (partJob_holds true hn (hn ▸ arg0_le hw rfl) hs) ⟨rfl, partResetBegin_state e n true⟩,
    fun hw => begins_of_row (c := .partReset h) rfl hw (partJob_holds false hn (hn ▸ arg0_le hw rfl) hs) ⟨rfl, partResetBegin_state e n false⟩⟩

/-! ## Making a slice (R334, R335, R343) -/

theorem sliceMake_shows (d : Dev) {n st : Nat} {g : SliceGrant} (hst : st < 8) :
    (d.sliceMake n g st).sliceState n = st ∧ ((d.sliceMake n g st).slc n).grant = some g := by
  have hs := Steady.sliceMake_of (k := .slices) (d := d) (s := n) (st := st) (g := g) .refl (by decide)
  refine ⟨(hs.rf (by decide) n 0 3).trans ?_, (hs.slc_grant (by decide) n).trans ?_⟩
  · rw [Dev.rf, Dev.reg_setReg_same]
    simp only [wf, fld, BitVec.toNat_ofNat]
    omega
  · exact (congrArg Slice.grant (slc_setSlice_same d n { ({} : Slice) with grant := some g })).trans rfl

theorem sliceCreate_gives {g : SliceGrant} {n : Nat} (hw : Claims.Wenot 0x30 false h p s.dev e) (hc : e.sliceCheck p = .ok g) (hn : n = e.freeSlice) :
    Claims.Gives (.sliceCreate h) 0x30 h s { r0 := BitVec.ofNat 64 n } (fun d => d = e.sliceMake n g 1 ∧ d.sliceState n = 1 ∧ (d.slc n).grant = some g) := by
  refine gives_of_row (c := .sliceCreate h) rfl hw (e' := e.sliceMake n g 1) ?_ ⟨rfl, sliceMake_shows e (by decide)⟩
  rw [hc]
  dsimp only
  rw [← hn]
  rfl

theorem sliceRestore_gives {save : List Byte} {g : SliceGrant} {sec : Nat → List (List Byte)} {n : Nat} (hw : Claims.Wenot 0x35 false h p s.dev e)
    (hc : e.sliceCheck p = .ok g) (hp : parseSave (save.take h.arg1.toNat) = some sec) (hf : saveFits g sec = true) (hk : e.keyRefs g sec = none) (hn : n = e.freeSlice) :
    Claims.Gives (.sliceRestore h save) 0x35 h s { r0 := BitVec.ofNat 64 n } (fun d =>
      d = (e.sliceMake n g 6).sliceLoad n g sec ∧ d.sliceState n = 6 ∧ (d.slc n).grant = some g) := by
  obtain ⟨hst, hg⟩ := sliceMake_shows e (n := n) (g := g) (st := 6) (by decide)
  have hl : Steady .slices (e.sliceMake n g 6) ((e.sliceMake n g 6).sliceLoad n g sec) := Steady.refl.sliceLoad
  refine gives_of_row (c := .sliceRestore h save) rfl hw (e' := (e.sliceMake n g 6).sliceLoad n g sec) ?_
    ⟨rfl, (hl.rf (by decide) n 0 3).trans hst, (hl.slc_grant (by decide) n).trans hg⟩
  rw [hc]
  dsimp only
  rw [hp]
  dsimp only
  rw [hf, hk, ← hn]
  rfl

/-! ## Commands on a slice (R336 to R342, R372, R373) -/

theorem onSlice_of {n : Nat} {states : List Nat} {exempt : Bool} {f : Nat → FwRes} (hn : n = h.arg0.toNat) (hlt : n ≤ 0xFFF) (hs : e.sliceState n ∈ states)
    (hp : exempt = true ∨ e.partState (e.slicePart n) = 1) : e.onSlice h states exempt f = f n := by
  unfold Dev.onSlice
  rw [← hn]
  dsimp only
  rw [if_neg (by omega), if_neg (by simpa using hs), if_neg (by rcases hp with hp | hp <;> simp [hp])]

theorem sliceResetBegin_state (d : Dev) (n : Nat) : (d.sliceResetBegin n).sliceState n = 3 := by
  have hs : Steady .slices (d.setSliceState n 3) (d.sliceResetBegin n) := Steady.refl.sliceResetBegin_of
  exact (hs.rf (by decide) n 0 3).trans (Dev.rf_setRf_of_lt _ (by decide) (by decide))

theorem sliceState_mem {n : Nat} (h1 : 1 ≤ e.sliceState n) (h6 : e.sliceState n ≤ 6) : e.sliceState n ∈ [1, 2, 3, 4, 5, 6] := by
  simp only [List.mem_cons, List.not_mem_nil, or_false]
  omega

theorem sliceDestroy_begins {n : Nat} (hn : n = h.arg0.toNat) (hw : Claims.Wenot 0x31 true h p s.dev e) (h1 : 1 ≤ e.sliceState n) (h6 : e.sliceState n ≤ 6) :
    Claims.Begins (.sliceDestroy h) 0x31 h s (fun d => d.sliceState n = 3 ∧ (e.sliceState n = 3 → d = e.setSlice n { e.slc n with waiting := some 0x31 }) ∧
      (e.sliceState n ≠ 3 → d = (e.setSlice n { e.slc n with destroy := true }).sliceResetBegin n)) := by
  have ho := onSlice_of (e := e) (f := fun n => if e.sliceState n = 3 then FwRes.hold (e.setSlice n { e.slc n with waiting := some 0x31 })
    else .hold ((e.setSlice n { e.slc n with destroy := true }).sliceResetBegin n)) hn (hn ▸ arg0_le hw rfl) (sliceState_mem h1 h6) (.inl (rfl : true = true))
  by_cases h3 : e.sliceState n = 3
  · exact begins_of_row (c := .sliceDestroy h) rfl hw (ho.trans (if_pos h3)) ⟨h3, fun _ => rfl, fun hc => absurd h3 hc⟩
  · exact begins_of_row (c := .sliceDestroy h) rfl hw (ho.trans (if_neg h3)) ⟨sliceResetBegin_state _ n, fun hc => absurd hc h3, fun _ => rfl⟩

theorem sliceReset_begins {n : Nat} (hn : n = h.arg0.toNat) (hw : Claims.Wenot 0x32 true h p s.dev e) (h1 : 1 ≤ e.sliceState n) (h6 : e.sliceState n ≤ 6)
    (hp : e.partState (e.slicePart n) = 1) :
    Claims.Begins (.sliceReset h) 0x32 h s (fun d => d.sliceState n = 3 ∧ (e.sliceState n = 3 → d = e.setSlice n { e.slc n with waiting := some 0x32 }) ∧
      (e.sliceState n ≠ 3 → d = e.sliceResetBegin n)) := by
  have ho := onSlice_of (e := e) (f := fun n => if e.sliceState n = 3 then FwRes.hold (e.setSlice n { e.slc n with waiting := some 0x32 }) else .hold (e.sliceResetBegin n))
    (exempt := false) hn (hn ▸ arg0_le hw rfl) (sliceState_mem h1 h6) (.inr hp)
  by_cases h3 : e.sliceState n = 3
  · exact begins_of_row (c := .sliceReset h) rfl hw (ho.trans (if_pos h3)) ⟨h3, fun _ => rfl, fun hc => absurd h3 hc⟩
  · exact begins_of_row (c := .sliceReset h) rfl hw (ho.trans (if_neg h3)) ⟨sliceResetBegin_state _ n, fun hc => absurd hc h3, fun _ => rfl⟩

/-- What is in flight in a slice does not depend on its state or on when its freeze began. -/
theorem sliceFlight_freezing (d : Dev) (n v : Nat) :
    ((d.setSliceState n v).setSlice n { d.slc n with began := d.time.tick }).sliceFlight n = d.sliceFlight n := by
  have hg : (((d.setSliceState n v).setSlice n { d.slc n with began := d.time.tick }).slc n).grant = (d.slc n).grant :=
    (congrArg Slice.grant (slc_setSlice_same (d.setSliceState n v) n { d.slc n with began := d.time.tick })).trans rfl
  have hk : ∀ q, ((d.setSliceState n v).setSlice n { d.slc n with began := d.time.tick }).sqKind q = d.sqKind q := fun q =>
    Dev.rf_setRf_other _ _ _ _ _ _ (.inl (by decide))
  have hcq : ((d.setSliceState n v).setSlice n { d.slc n with began := d.time.tick }).cqsOf n = d.cqsOf n := by rw [Dev.cqsOf, hg]; rfl
  have hsq : ((d.setSliceState n v).setSlice n { d.slc n with began := d.time.tick }).sqsOf n = d.sqsOf n := by rw [Dev.sqsOf, hg]; rfl
  have hch : ((d.setSliceState n v).setSlice n { d.slc n with began := d.time.tick }).sliceNums n 6 = d.sliceNums n 6 := by rw [Dev.sliceNums, hg]; rfl
  unfold Dev.sliceFlight
  dsimp only
  simp only [hcq, hsq, hch, hk]
  rfl

theorem sliceFreeze_begins {n : Nat} (hn : n = h.arg0.toNat) (hw : Claims.Wenot 0x33 true h p s.dev e) (hs : e.sliceState n = 1 ∨ e.sliceState n = 4)
    (hp : e.partState (e.slicePart n) = 1) :
    Claims.Begins (.sliceFreeze h) 0x33 h s (fun d => d.sliceState n = 4 ∧ (d.slc n).began = e.time.tick ∧
      d.reg .slcFrzStat n = BitVec.ofNat 64 ((if e.sliceFlight n = 0 then 1 else 0) + min (e.sliceFlight n) 65535 * 2 ^ 16) ∧ Keeps [.slcState, .slcFrzStat] e d) := by
  refine begins_of_row (c := .sliceFreeze h) rfl hw
    (onSlice_of (exempt := false) hn (hn ▸ arg0_le hw rfl) (by rcases hs with hs | hs <;> rw [hs] <;> decide) (.inr hp)) ⟨?_, ?_, ?_, ?_⟩
  · exact (Dev.rf_setReg_other _ _ _ _ (.inl (by decide))).trans (Dev.rf_setRf_of_lt _ (by decide) (by decide))
  · exact (congrArg Slice.began (slc_setSlice_same (e.setSliceState n 4) n { (e.setSliceState n 4).slc n with began := e.time.tick })).trans rfl
  · unfold Dev.frzStat
    dsimp only
    rw [Dev.reg_setReg_same, sliceFlight_freezing, nat_min_eq]
    by_cases h0 : e.sliceFlight n = 0
    · rw [h0]; rfl
    · rw [if_neg h0, show (e.sliceFlight n == 0) = false from beq_false_of_ne h0]; rfl
  · exact (keeps_setReg_iff (by decide) _ _).mpr ((keeps_setSlice_iff _ _).mpr ((keeps_setRf_iff (by decide) _ _ _ _).mpr (.refl _ _)))

theorem sliceThaw_gives {n : Nat} (hn : n = h.arg0.toNat) (hw : Claims.Wenot 0x36 true h p s.dev e) (h4 : 4 ≤ e.sliceState n) (h6 : e.sliceState n ≤ 6)
    (hp : e.partState (e.slicePart n) = 1) :
    Claims.Gives (.sliceThaw h) 0x36 h s {} (fun d => ∃ d1 : Dev, d1.sliceState n = 1 ∧ Keeps [.slcState] e d1 ∧ d = d1.sliceDrain n) :=
  gives_of_row (c := .sliceThaw h) rfl hw
    ((onSlice_of (exempt := false) hn (hn ▸ arg0_le hw rfl) (by simp only [List.mem_cons, List.not_mem_nil, or_false]; omega) (.inr hp)).trans (fwOk_plain _))
    ⟨e.setSliceState n 1, Dev.rf_setRf_of_lt _ (by decide) (by decide), keeps_setReg e (by decide) _ _, rfl⟩

theorem sliceSave_gives {n : Nat} {g : SliceGrant} (hn : n = h.arg0.toNat) (hw : Claims.Wenot 0x34 true h p s.dev e) (hs : e.sliceState n = 5)
    (hg : (e.slc n).grant = some g) :
    Claims.Gives (.sliceSave h) 0x34 h s { r0 := BitVec.ofNat 64 (e.sliceSave n g).length, out := e.sliceSave n g } (fun d => d = e) := by
  refine gives_of_row (c := .sliceSave h) rfl hw ((onSlice_of hn (hn ▸ arg0_le hw rfl) (by rw [hs]; decide) (.inl (rfl : true = true))).trans ?_) rfl
  rw [hg]

end

/-- Settles O45. -/
theorem partitionAndSliceCommandsAct : Obligations.PartitionAndSliceCommandsAct := fun _ _ _ _ =>
  ⟨fun _ _ => partCreate_gives, fun _ hn => partJobs_begin hn, fun _ _ hw hc hn _ => sliceCreate_gives hw hc hn,
    fun _ hn => ⟨sliceDestroy_begins hn, sliceReset_begins hn, sliceFreeze_begins hn, sliceThaw_gives hn, fun _ => sliceSave_gives hn⟩,
    fun _ _ _ _ hw hc hp hf hk hn _ => sliceRestore_gives hw hc hp hf hk hn⟩

end Sys2Proof.Machine
end

section
/-! PROOFS. The fault collector: what it records of a report, what stays pending, the containment of a partition and the safe state (chapter 11; R390 to R408). -/

namespace Sys2Proof.Machine
open Sys2Proof

/-! ## Entering the safe state (R407, R408) -/

theorem dropUnits_keys (d : Dev) (p : Nat) : (d.dropUnits p).keys = d.keys := by
  have h : (if d.dpxExternal p then (List.range 4).foldl (fun e u => if nbit (d.rf .dpxCw p 0 4) u then e.emit (.causeway u false) else e) d else d).keys = d.keys := by
    split
    · refine foldl_related (f := fun (e : Dev) u => if nbit (d.rf .dpxCw p 0 4) u then e.emit (.causeway u false) else e) (R := fun a b : Dev => b.keys = a.keys) (fun _ => rfl)
        (fun h h' => h'.trans h) (fun e u => ?_) _ d
      split <;> rfl
    · rfl
  exact h

theorem dropUnits_foldl (l : List Nat) (d : Dev) :
    (l.foldl (fun d p => d.dropUnits p) d).keys = d.keys ∧ ∀ p, p ∈ l ∨ d.reg .dpxCw p = 0 → (l.foldl (fun d p => d.dropUnits p) d).reg .dpxCw p = 0 := by
  induction l generalizing d with
  | nil => exact ⟨rfl, fun p h => h.resolve_left List.not_mem_nil⟩
  | cons b l ih =>
    obtain ⟨hk, hr⟩ := ih (d.dropUnits b)
    refine ⟨hk.trans (dropUnits_keys d b), fun p h => hr p ?_⟩
    by_cases hb : p = b
    · exact .inr (hb ▸ Dev.reg_setReg_same _ _ _ _)
    · refine h.imp (fun hm => (List.mem_cons.mp hm).resolve_left hb) fun h0 => ?_
      have hs : ∀ e : Dev, Keeps [] d e → (e.setReg .dpxCw b 0).reg .dpxCw p = 0 := fun e he =>
        (Dev.reg_setReg_ne _ _ (.inr hb)).trans ((he.1 _ p List.not_mem_nil).trans h0)
      refine hs _ ?_
      split
      · refine foldl_related (f := fun (e : Dev) u => if nbit (d.rf .dpxCw b 0 4) u then e.emit (.causeway u false) else e) (R := Keeps []) (Keeps.refl _)
          (fun h h' => h.trans h') (fun e u => ?_) _ d
        split <;> simp
      · exact .refl _ _

theorem purgeKeys_cache (d : Dev) {i : Nat} (hi : i < 4) : d.purgeKeys.keyCache i = [] := by
  have hstep : ∀ (l : List Nat) (d : Dev), i ∈ l ∨ d.keyCache i = [] → (l.foldl (fun d e => d.setKeyCache e []) d).keyCache i = [] := by
    intro l
    induction l with
    | nil => exact fun d h => h.resolve_left List.not_mem_nil
    | cons b l ih =>
      intro d h
      refine ih (d.setKeyCache b []) ?_
      by_cases hb : i = b
      · exact .inr (hb ▸ (tabGet_put_same d.keys.cache [] i []))
      · exact h.imp (fun hm => (List.mem_cons.mp hm).resolve_left hb) fun h0 => (tabGet_put_ne d.keys.cache [] [] hb []).trans h0
  exact hstep _ d (.inl (List.mem_range.mpr hi))

theorem internalError_keys (d : Dev) : d.internalError.keys = d.keys := by
  refine foldl_related (f := fun (d : Dev) k => if d.fnExists (k / 9) (k % 9) then (d.updFn (k / 9) (k % 9) (fun x => { x with internalFatal := true })).aer (k / 9) (k % 9) .internal else d)
    (R := fun a b : Dev => b.keys = a.keys) (fun _ => rfl) (fun h h' => h'.trans h) (fun e u => ?_) _ d
  split <;> rfl

/-- The cause and time of the safe state have been latched. -/
def Dev.safeLatched (d : Dev) (source : Nat) : Dev :=
  let d := d.setReg .fltSafeCause 0 (BitVec.ofNat 64 (source % 2 ^ 11 + 2 ^ 15 + d.phaseNow * 2 ^ 16))
  ((d.setReg .fltSafeTime 0 (timeWord d.ns)).setRb .fltStat 0 2 true).lifeReset 9

theorem reg_lifeReset (d : Dev) (k : Nat) (r : Reg) (i : Nat) : (d.lifeReset k).reg r i = d.reg r i := rfl
theorem ns_setReg (d : Dev) (r : Reg) (i : Nat) (v : Word) : (d.setReg r i v).ns = d.ns := rfl

theorem safeLatched_shows (d : Dev) (source : Nat) : (d.safeLatched source).rb .fltStat 0 2 = true ∧
    (d.safeLatched source).reg .fltSafeCause 0 = BitVec.ofNat 64 (source % 2 ^ 11 + 2 ^ 15 + d.phaseNow * 2 ^ 16) ∧ (d.safeLatched source).reg .fltSafeTime 0 = timeWord d.ns ∧
    ∀ k, (d.safeLatched source).reg .fltCnt k = d.reg .fltCnt k := by
  unfold Dev.safeLatched
  dsimp only
  refine ⟨?_, ?_, ?_, fun k => ?_⟩
  · rw [Dev.rb, reg_lifeReset, ← Dev.rb, Dev.rb_setRb_same _ _ _ _ _ (by decide)]
  · rw [reg_lifeReset, Dev.reg_setRb_ne _ _ _ (.inl (by decide)), Dev.reg_setReg_ne _ _ (.inl (by decide)), Dev.reg_setReg_same]
  · rw [reg_lifeReset, Dev.reg_setRb_ne _ _ _ (.inl (by decide)), Dev.reg_setReg_same, ns_setReg]
  · rw [reg_lifeReset, Dev.reg_setRb_ne _ _ _ (.inl (by decide)), Dev.reg_setReg_ne _ _ (.inl (by decide)), Dev.reg_setReg_ne _ _ (.inl (by decide))]

theorem checkpoint_keys (d : Dev) (kind : Nat) : (d.checkpoint kind).keys = d.keys := by
  obtain ⟨-, _, _, _, _, _, _, hc⟩ := recordsIn_checkpoint d kind
  rw [hc]

theorem showFaces_keys (d : Dev) : d.showFaces.keys = d.keys := by
  obtain ⟨_, hm⟩ := memoryOnly_showFaces d
  rw [hm]

theorem reg_setPhase_ne (d : Dev) {r : Reg} (h : r ≠ .fltStat) (i : Nat) : d.setPhase.reg r i = d.reg r i := Dev.reg_setReg_ne _ _ (.inl h)
theorem safe_setPhase (d : Dev) : d.setPhase.rb .fltStat 0 2 = d.rb .fltStat 0 2 := Dev.rb_setRf_ne _ _ _ _ _ _ _ (by decide) (by decide)
theorem keyCache_setPhase (d : Dev) (i : Nat) : d.setPhase.keyCache i = d.keyCache i := rfl
theorem keyCache_of_keys {d e : Dev} (h : e.keys = d.keys) (i : Nat) : e.keyCache i = d.keyCache i := by
  rw [Dev.keyCache, h, ← Dev.keyCache]

/-- The injection register has been cleared and no end of an injection is due. -/
def Dev.uninjected (d : Dev) : Dev := { d.setReg .fltInjStat 0 0 with flt := { (d.setReg .fltInjStat 0 0).flt with injEnd := none } }

theorem reg_uninjected_ne (d : Dev) {r : Reg} (h : r ≠ .fltInjStat) (i : Nat) : d.uninjected.reg r i = d.reg r i :=
  (show d.uninjected.reg r i = (d.setReg .fltInjStat 0 0).reg r i from rfl).trans (Dev.reg_setReg_ne _ _ (.inl h))
theorem keyCache_uninjected (d : Dev) (i : Nat) : d.uninjected.keyCache i = d.keyCache i := rfl

/-- Cutting the wires, dropping the transfers and stopping the engines leaves what has been latched; showing the phase changes FLT_STAT's phase field only; and the checkpoint and the faces leave it all. -/
theorem enterSafe_chain (d : Dev) (source : Nat) : ∃ x y : Dev, Steady .safe (d.safeLatched source) x ∧ (∀ p < 8, x.reg .dpxCw p = 0) ∧ (∀ i < 4, x.keyCache i = []) ∧
    y = x.setPhase ∧ Steady .units y (d.enterSafe source) ∧ (d.enterSafe source).keys = y.keys := by
  unfold Dev.enterSafe
  extract_lets d1 d2 _ _ d3 d4 _ d5 d6 d7 d8 d9 _ _ d10 _ d11
  have h3 : Steady .safe (d.safeLatched source) d3 := (Steady.refl (d := d2)).fwAbandon.mk
  have h7 : Steady .safe d3 d7 := ((Steady.refl.foldl fun _ _ => Steady.refl.cutWire).mk.foldl fun _ _ => Steady.refl.dropXfer).abortOps.purgeKeys
  have h8 : Steady .safe d7 d8 := Steady.refl.foldl fun _ _ => Steady.refl.dropUnits (by decide)
  have hcache : ∀ i < 4, d7.keyCache i = [] := fun i hi => purgeKeys_cache _ hi
  obtain ⟨hk8, hu8⟩ := dropUnits_foldl (List.range 8) d7
  clear_value d7
  have hu9 : Steady .units d8 d9 := Steady.refl.discardReqs.internalError
  have hk9 : d9.keys = d7.keys := (internalError_keys _).trans hk8
  clear_value d9
  refine ⟨d9.uninjected, d10, ?_, fun p hp => ?_, fun i hi => ?_, rfl, ?_, ?_⟩
  · exact ((h3.trans h7).trans h8).trans ((hu9.mono (by decide) (by decide)).setReg (by decide)).mk
  · rw [reg_uninjected_ne _ (by decide), hu9.reg (by decide), hu8 p (.inl (List.mem_range.mpr hp))]
  · rw [keyCache_uninjected, keyCache_of_keys hk9, hcache i hi]
  · exact (Steady.refl (d := d10)).mk.checkpoint.showFaces
  · rw [showFaces_keys, checkpoint_keys]

theorem enterSafe_shows (d : Dev) (source : Nat) :
    (d.enterSafe source).safe = true ∧ (d.enterSafe source).reg .fltSafeCause 0 = BitVec.ofNat 64 (source % 2 ^ 11 + 2 ^ 15 + d.phaseNow * 2 ^ 16) ∧
    (d.enterSafe source).reg .fltSafeTime 0 = timeWord d.ns ∧ (∀ k, (d.enterSafe source).reg .fltCnt k = d.reg .fltCnt k) ∧
    (∀ p < 8, (d.enterSafe source).reg .dpxCw p = 0) ∧ ∀ i < 4, (d.enterSafe source).keyCache i = [] := by
  obtain ⟨x, y, hx, hu, hc, rfl, hy, hk⟩ := enterSafe_chain d source
  obtain ⟨hsafe, hcause, htime, hcnt⟩ := safeLatched_shows d source
  have hreg : ∀ r ∈ [Reg.fltSafeCause, .fltSafeTime, .fltCnt], ∀ i, (d.enterSafe source).reg r i = (d.safeLatched source).reg r i := fun r hr i => by
    have hm : r ∈ Watch.units.regs ∧ r ∈ Watch.safe.regs ∧ r ≠ .fltStat := by
      revert r
      decide
    rw [hy.reg hm.1, reg_setPhase_ne _ hm.2.2, hx.reg hm.2.1]
  refine ⟨?_, ?_, ?_, fun k => ?_, fun p hp => ?_, fun i hi => ?_⟩
  · rw [Dev.safe, hy.rb (by decide), safe_setPhase, hx.rb (by decide), hsafe]
  · rw [hreg _ (by decide), hcause]
  · rw [hreg _ (by decide), htime]
  · rw [hreg _ (by decide), hcnt]
  · rw [hy.reg (by decide), reg_setPhase_ne _ (by decide), hu p hp]
  · rw [keyCache_of_keys hk, keyCache_setPhase, hc i hi]

/-! ## The record of a report (R397, R405, R406) -/

/-- Nothing but registers and counters differs. -/
def OnlyRegsCnt (d e : Dev) : Prop := ∃ regs cnt, e = { d with regs := regs, cnt := cnt }

theorem OnlyRegsCnt.refl (d : Dev) : OnlyRegsCnt d d := ⟨_, _, rfl⟩
theorem OnlyRegsCnt.trans {a d e : Dev} (h : OnlyRegsCnt a d) (h' : OnlyRegsCnt d e) : OnlyRegsCnt a e := by
  obtain ⟨_, _, rfl⟩ := h
  obtain ⟨_, _, rfl⟩ := h'
  exact ⟨_, _, rfl⟩
theorem onlyRegsCnt_setReg (d : Dev) (r : Reg) (i : Nat) (v : Word) : OnlyRegsCnt d (d.setReg r i v) := ⟨_, _, rfl⟩

/-- What an entry into the fault history leaves: all but FLT_HIST and the counts in FLT_STAT, and the count of reports. -/
structure Pushed (d e : Dev) : Prop where
  only : OnlyRegsCnt d e
  keeps : Keeps [.fltStat, .fltHist] d e
  seven : e.counter 7 = d.counter 7
  safe : e.rb .fltStat 0 2 = d.rb .fltStat 0 2

theorem Pushed.refl (d : Dev) : Pushed d d := ⟨.refl d, .refl _ d, rfl, rfl⟩
theorem Pushed.trans {a d e : Dev} (h : Pushed a d) (h' : Pushed d e) : Pushed a e :=
  ⟨h.only.trans h'.only, h.keeps.trans h'.keeps, h'.seven.trans h.seven, h'.safe.trans h.safe⟩

theorem pushed_setHist (d : Dev) (i : Nat) (v : Word) : Pushed d (d.setReg .fltHist i v) :=
  ⟨⟨_, _, rfl⟩, keeps_setReg d (by decide) i v, rfl, Dev.rb_setReg_other _ _ _ (.inl (by decide))⟩

theorem pushed_setStat (d : Dev) {lo w : Nat} (x : Nat) (h : 3 ≤ lo) (hw : lo + w ≤ 64) : Pushed d (d.setRf .fltStat 0 lo w x) :=
  ⟨⟨_, _, rfl⟩, keeps_setReg d (by decide) 0 _, rfl, Dev.rb_setRf_ne _ _ _ _ _ _ _ hw (.inl (by omega))⟩

theorem pushed_count (d : Dev) : Pushed d (d.count 8) :=
  ⟨⟨_, _, rfl⟩, (keeps_count_iff 8).mpr (.refl _ d), Dev.counter_count_ne d (by decide), rfl⟩

theorem pushed_foldl {α : Type} (at_ : α → Nat) (v : α → Word) (l : List α) (d : Dev) : Pushed d (l.foldl (fun d x => d.setReg .fltHist (at_ x) (v x)) d) :=
  foldl_related (f := fun (d : Dev) x => d.setReg .fltHist (at_ x) (v x)) (R := Pushed) .refl .trans (fun d x => pushed_setHist d (at_ x) (v x)) l d

theorem histPush_pushed (d : Dev) (ws : List Word) : Pushed d (d.histPush ws) := by
  unfold Dev.histPush
  dsimp only
  split
  · exact (pushed_foldl (fun x : Word × Nat => 4 * d.histCount + x.2) (fun x => x.1) _ d).trans (pushed_setStat _ _ (by decide) (by decide))
  · exact ((pushed_foldl (fun k => k) (fun k => d.reg .fltHist (k + 4)) _ d).trans
      (pushed_foldl (fun x : Word × Nat => 4 * 15 + x.2) (fun x => x.1) _ _)).trans ((pushed_setStat _ _ (by decide) (by decide)).trans (pushed_count _))

/-- The collector has counted the report and put it into the history if its severity is one that goes there. -/
def Dev.recorded (d : Dev) (r : Report) : Dev :=
  let (eff, esc) := d.effSev r
  let f := { d.flt with last := tabPut d.flt.last 0 r.source (timeWord (r.time / 65536)), seq := (d.flt.seq + 1) % 2 ^ 16 }
  let x := (({ d with flt := f, life := { d.life with faults := Nat.min (2 ^ 64 - 1) (d.life.faults + 1) } }).count 7).incRf .fltCnt r.source 0 32 1
  if x.rf .fltCfg 0 2 2 ≤ eff then x.histPush (histWords r eff (x.sevOf r.source) d.flt.seq esc) else x

/-- Before a report is acted on it is recorded; in the safe state that is all. -/
theorem takeReport_recorded (d : Dev) (r : Report) : d.takeReport r = if (d.recorded r).safe then d.recorded r else
    let x := d.recorded r
    let y := if x.rb .snapCfg 0 1 && decide (x.rf .snapCfg 0 5 2 ≤ (d.effSev r).1) then x.snapAccept 1 x.time.tick none else x
    let z := if checkerSource r.source && !memCe r.source then ((List.range 8).filter (fun p => y.inDuplex p)).foldl (fun d p => d.noteCheck r p) y else y
    if y.dpxTakes r then z.addPend r (d.effSev r).1 false else z.actFault r (d.effSev r).1 := rfl

theorem takeReport_safe {d : Dev} {r : Report} (h : (d.recorded r).safe = true) : d.takeReport r = d.recorded r := by
  rw [takeReport_recorded, h, if_pos rfl]

/-- A report of no checker, with no snapshot armed for faults, is acted on. -/
theorem takeReport_acts {d : Dev} {r : Report} (h : (d.recorded r).safe = false) (hs : (d.recorded r).rb .snapCfg 0 1 = false) (hc : checkerSource r.source = false) :
    d.takeReport r = (d.recorded r).actFault r (d.effSev r).1 := by
  rw [takeReport_recorded, h, if_neg Bool.false_ne_true]
  simp only [hs, hc, Dev.dpxTakes, Bool.false_and, Bool.false_eq_true, if_false]

/-- What the record of a report changes. -/
structure Recorded (r : Report) (d x : Dev) : Prop where
  flt : x.flt = { d.flt with last := tabPut d.flt.last 0 r.source (timeWord (r.time / 65536)), seq := (d.flt.seq + 1) % 2 ^ 16 }
  only : ∃ regs cnt flt life, x = { d with regs := regs, cnt := cnt, flt := flt, life := life }
  keeps : Keeps [.fltCnt, .fltStat, .fltHist] d x
  cnt : x.rf .fltCnt r.source 0 32 = min (2 ^ 32 - 1) (d.rf .fltCnt r.source 0 32 + 1)
  seven : x.counter 7 = d.counter 7 + 1
  safe : x.rb .fltStat 0 2 = d.rb .fltStat 0 2

theorem recorded_push {r : Report} {d x y : Dev} (h : Recorded r d x) (hp : Pushed x y) : Recorded r d y := by
  obtain ⟨⟨regs, cnt, hy⟩, hkeeps, hseven, hsafe⟩ := hp
  obtain ⟨_, _, _, _, hx⟩ := h.only
  refine ⟨(congrArg Dev.flt hy).trans h.flt, ⟨regs, cnt, _, _, hy.trans (by rw [hx])⟩, h.keeps.trans (hkeeps.mono (by decide)), ?_, hseven.trans h.seven, hsafe.trans h.safe⟩
  rw [Dev.rf, hkeeps.1 _ _ (by decide), ← Dev.rf, h.cnt]

theorem recorded_shows (d : Dev) (r : Report) : Recorded r d (d.recorded r) := by
  have hx : ∀ (f : Flt) (l : Life), f = { d.flt with last := tabPut d.flt.last 0 r.source (timeWord (r.time / 65536)), seq := (d.flt.seq + 1) % 2 ^ 16 } →
      Recorded r d ((({ d with flt := f, life := l } : Dev).count 7).incRf .fltCnt r.source 0 32 1) := fun f l hf =>
    { flt := hf
      only := ⟨_, _, f, l, rfl⟩
      keeps := (keeps_incRf_iff (by decide) _ _ _ _).mpr ((keeps_count_iff 7).mpr ((keeps_life l).mpr ((keeps_flt f).mpr (.refl _ d))))
      cnt := (Dev.rf_incRf_same _ (by decide)).trans (Nat.min_comm _ _)
      seven := Dev.counter_count_same ({ d with flt := f, life := l } : Dev) 7
      safe := Dev.rb_incRf_other _ _ _ _ _ (.inl (by decide)) }
  unfold Dev.recorded
  dsimp only
  split
  · exact recorded_push (hx _ _ rfl) (histPush_pushed _ _)
  · exact hx _ _ rfl


/-! ## Taking a report from the queue (R397) -/

/-- The report has left the queue. -/
def Dev.dequeued (d : Dev) (r : Report) (rest : List Report) : Dev :=
  { d with flt := { d.flt with queue := rest, takenAt := d.time.tick, taken := r.source :: (if d.flt.takenAt = d.time.tick then d.flt.taken else []) } }

theorem nextReport_front {d : Dev} {r : Report} {rest : List Report} (hq : d.flt.queue = r :: rest) (ht : d.flt.takenAt ≠ d.time.tick ∨ r.source ∉ d.flt.taken) :
    d.nextReport = some r := by
  have hn : ((if d.flt.takenAt = d.time.tick then d.flt.taken else []).contains r.source) = false := by
    split
    · next he =>
      have hs : r.source ∉ d.flt.taken := ht.resolve_left (fun hne => hne he)
      simpa using hs
    · rfl
  unfold Dev.nextReport
  rw [hq]
  exact List.find?_cons_of_pos (by rw [hn]; rfl)

theorem faultCollect_answers {s : State} {r : Report} {rest : List Report} {P : Dev → Prop} (hp : s.dev.powered = true) (hq : s.dev.flt.queue = r :: rest)
    (ht : s.dev.flt.takenAt ≠ s.dev.time.tick ∨ r.source ∉ s.dev.flt.taken) (hP : P ((s.dev.dequeued r rest).takeReport r)) : Answers (.faultCollect none) s P := by
  refine answers_eventOn (show exec (.faultCollect none) s = execFaultCollect none s from rfl) hp ?_
  dsimp only
  rw [nextReport_front hq ht]
  have he : s.dev.flt.queue.erase r = rest := by rw [hq, List.erase_cons_head]
  dsimp only
  rw [he]
  exact hP

theorem collected_of_recorded {d x : Dev} {r : Report} {rest : List Report} (h : Recorded r (d.dequeued r rest) x) : Claims.Collected r rest d x := by
  refine ⟨by rw [h.flt]; rfl, by rw [h.flt]; rfl, ?_, h.cnt, h.seven⟩
  rw [h.flt]
  exact tabGet_put_same _ _ _ _

/-- What a later step must leave for the report to stay collected. -/
theorem Collected.next {d x y : Dev} {r : Report} {rest : List Report} (h : Claims.Collected r rest d x) (hq : y.flt.queue = x.flt.queue) (hs : y.flt.seq = x.flt.seq)
    (hl : y.flt.last = x.flt.last) (hc : y.reg .fltCnt r.source = x.reg .fltCnt r.source) (h7 : y.counter 7 = x.counter 7) : Claims.Collected r rest d y := by
  obtain ⟨h1, h2, h3, h4, h5⟩ := h
  refine ⟨hq.trans h1, hs.trans h2, by rw [hl, h3], ?_, h7.trans h5⟩
  rw [Dev.rf, hc, ← Dev.rf, h4]

/-! ## The effective severity of a plain report (R398, R402) -/

theorem baseSev_of_noThread (d : Dev) {r : Report} (h : r.tid = none) : d.baseSev r = d.sevOf r.source := by
  unfold Dev.baseSev
  rw [h]
  cases r.part <;> rfl

theorem effSev_plain {d : Dev} {r : Report} (h1 : d.phaseNow = 1) (ht : r.tid = none) (hn : d.pendMax (r.source / 128) r.scope = none) :
    d.effSev r = (d.sevOf r.source, false) := by
  unfold Dev.effSev
  rw [h1, hn, baseSev_of_noThread d ht]
  rfl

theorem phaseNow_congr {d e : Dev} (hi : e.reg .fltInjStat 0 = d.reg .fltInjStat 0) (hf : e.flt.recovering = d.flt.recovering) (hd : e.dpx = d.dpx) (hw : e.fw = d.fw) :
    e.phaseNow = d.phaseNow := by
  unfold Dev.phaseNow Dev.rb
  rw [hi, hf, hd, hw]

/-! ## Pending faults (R400) -/

theorem sum_range_nine_bit {f : Nat → Nat} (hf : ∀ k, f k ≤ 2 ^ k) (h8 : f 8 = 2 ^ 8) :
    wbit (BitVec.ofNat 64 ((List.range 9).foldl (fun a k => a + f k) 0)) 8 = true := by
  have h0 := hf 0; have h1 := hf 1; have h2 := hf 2; have h3 := hf 3; have h4 := hf 4; have h5 := hf 5; have h6 := hf 6; have h7 := hf 7
  rw [wbit_eq_wf, decide_eq_true_eq]
  simp only [List.range_succ, List.range_zero, List.nil_append, List.cons_append, List.foldl_cons, List.foldl_nil, h8, wf, fld, BitVec.toNat_ofNat]
  omega

/-- A fault of the class that is pending for the device shows in bit 8. -/
theorem showCpend_bit {d : Dev} {c : Nat} (h : d.flt.pend.any (fun f => f.source / 128 == c && f.scope == 8) = true) : (d.showCpend c).rb .fltCpend c 8 = true := by
  rw [Dev.rb, Dev.showCpend, Dev.reg_setReg_same]
  refine sum_range_nine_bit (f := fun k => if d.flt.pend.any (fun f => f.source / 128 == c && f.scope == k) then 2 ^ k else 0) (fun k => ?_) (if_pos h)
  split
  · exact Nat.le_refl _
  · exact Nat.zero_le _

/-- What adding a pending fault changes. -/
theorem addPend_shows (d : Dev) (r : Report) {eff : Nat} (he : eff ≠ 0) :
    (d.addPend r eff false).flt = { d.flt with pend := d.flt.pend ++ [⟨r.source, r.scope, eff, false⟩] } ∧ Keeps [.fltCpend] d (d.addPend r eff false) ∧
    (r.scope = 8 → (d.addPend r eff false).rb .fltCpend (r.source / 128) 8 = true) ∧ ∃ regs flt, d.addPend r eff false = { d with regs := regs, flt := flt } := by
  unfold Dev.addPend
  rw [if_neg he]
  refine ⟨rfl, (keeps_setReg_iff (by decide) _ _).mpr ((keeps_flt _).mpr (.refl _ d)), fun hs => showCpend_bit ?_, ⟨_, _, rfl⟩⟩
  simp [hs]

/-! ## Acting on a report (R391, R398, R401, R403) -/

theorem interruptManager_silent {d : Dev} (h : d.rb .fltIrq 0 11 = false) : d.interruptManager = d := by
  rw [Dev.interruptManager, h]
  rfl

theorem actFault_recorded {d : Dev} {r : Report} (ht : r.tid = none) (ha : alwaysNoticed r.source = false) (hs : r.source ≠ 1411) : d.actFault r 0 = d := by
  have hp : ∀ p, d.actPart p r 0 = d := fun p => by
    unfold Dev.actPart
    rw [ht, ha]
    rfl
  unfold Dev.actFault
  simp only [if_neg hs, hp]
  cases r.part <;> rfl

theorem actFault_device {d : Dev} {r : Report} {eff : Nat} (hp : r.part = none) (he : eff = 1 ∨ eff = 2) : d.actFault r eff = (d.addPend r eff false).interruptManager := by
  unfold Dev.actFault
  rw [hp]
  rcases he with rfl | rfl <;> rfl

theorem actFault_safe (d : Dev) (r : Report) : d.actFault r 3 = (d.addPend r 3 false).enterSafe r.source := rfl


/-! ## Containing a partition (R331, R403) -/

theorem mem_threadsOf {c t : Nat} (hc : c < 64) (ht : t < 576) : t ∈ threadsOf c ↔ coreOf t = c := by
  unfold threadsOf coreOf
  simp only [List.mem_append, List.mem_map, List.mem_range, List.mem_singleton]
  constructor
  · rintro (⟨k, hk, rfl⟩ | rfl)
    · rw [if_pos (by omega)]; omega
    · rw [if_neg (by omega)]; omega
  · intro h
    split at h
    · exact .inl ⟨t % 8, by omega, by omega⟩
    · exact .inr (by omega)

theorem coreOf_of_mem {c t : Nat} (hc : c < 64) (h : t ∈ threadsOf c) : coreOf t = c := by
  unfold threadsOf at h
  simp only [List.mem_append, List.mem_map, List.mem_range, List.mem_singleton] at h
  unfold coreOf
  rcases h with ⟨k, hk, rfl⟩ | rfl
  · rw [if_pos (by omega)]; omega
  · rw [if_neg (by omega)]; omega

/-- The threads of a partition are those of its cores. -/
theorem mem_partThreads {d : Dev} {p t : Nat} : t ∈ (d.coresOf p).flatMap threadsOf → d.partOf t = some p := by
  rw [List.mem_flatMap]
  rintro ⟨c, hc, ht⟩
  obtain ⟨hc, hp⟩ := List.mem_filter.mp hc
  rw [Dev.partOf, coreOf_of_mem (List.mem_range.mp hc) ht]
  exact eq_of_beq hp

theorem partThreads_of {d : Dev} {p t : Nat} (ht : t < 576) (h : d.partOf t = some p) : t ∈ (d.coresOf p).flatMap threadsOf := by
  have hc : coreOf t < 64 := by
    unfold coreOf
    split <;> omega
  exact List.mem_flatMap.mpr ⟨coreOf t, List.mem_filter.mpr ⟨List.mem_range.mpr hc, beq_iff_eq.mpr h⟩, (mem_threadsOf hc ht).mpr rfl⟩

/-- A thread of a contained partition stops where it ran or waited. -/
def Thread.contained (x : Thread) : Thread := if x.st = .running ∨ x.st = .waiting then { x with st := .faulted, wait := .none, stepping := false } else x

theorem contained_faulted {x : Thread} (h : x.st = .running ∨ x.st = .waiting ∨ x.st = .faulted) : x.contained.st = .faulted := by
  unfold Thread.contained
  split
  · rfl
  · next hn => tauto

theorem contained_foldl (ts : List Nat) (d : Dev) : (∀ u, u ∉ ts → (ts.foldl (fun d t => d.updThread t Thread.contained) d).thread u = d.thread u) ∧
    ∀ u, (u ∈ ts ∧ ((d.thread u).st = .running ∨ (d.thread u).st = .waiting)) ∨ (d.thread u).st = .faulted →
      ((ts.foldl (fun d t => d.updThread t Thread.contained) d).thread u).st = .faulted := by
  induction ts generalizing d with
  | nil => exact ⟨fun _ _ => rfl, fun u h => h.resolve_left (fun h => List.not_mem_nil h.1)⟩
  | cons t ts ih =>
    obtain ⟨hout, hin⟩ := ih (d.updThread t Thread.contained)
    refine ⟨fun u hu => ?_, fun u h => hin u ?_⟩
    · rw [List.mem_cons, not_or] at hu
      exact (hout u hu.2).trans (Dev.thread_updThread_ne _ _ hu.1)
    · by_cases hu : u = t
      · rw [hu, Dev.thread_updThread_same]
        rw [hu] at h
        exact .inr (contained_faulted (by tauto))
      · rw [Dev.thread_updThread_ne _ _ hu]
        exact h.imp_left fun h => ⟨(List.mem_cons.mp h.1).resolve_left hu, h.2⟩

theorem contained_foldl_thr (ts : List Nat) (d : Dev) : ∃ thr, ts.foldl (fun d t => d.updThread t Thread.contained) d = { d with thr := thr } :=
  foldl_related (f := fun (d : Dev) t => d.updThread t Thread.contained) (R := fun a b => ∃ thr, b = { a with thr := thr }) (fun _ => ⟨_, rfl⟩)
    (fun h h' => by obtain ⟨_, rfl⟩ := h; obtain ⟨_, rfl⟩ := h'; exact ⟨_, rfl⟩) (fun _ _ => ⟨_, rfl⟩) ts d

theorem memoryOnly_facesOf (d : Dev) (p : Nat) : MemoryOnly d (d.facesOf p) := foldl_related .refl .trans memoryOnly_faceShow _ d

/-- The partition is DEGRADED, and that is counted. -/
def Dev.degraded (d : Dev) (p : Nat) : Dev := (d.setRf .ptnState p 0 3 2).count (evPart p 7)

theorem coresOf_degraded (d : Dev) (p q : Nat) : (d.degraded p).coresOf q = d.coresOf q := by
  have hreg : ∀ c, (d.degraded p).reg .coreCfg c = d.reg .coreCfg c := fun c => Dev.reg_setReg_ne _ _ (.inl (by decide))
  have hcore : ∀ c, (d.degraded p).partOfCore c = d.partOfCore c := fun c => by rw [Dev.partOfCore, Dev.rb, Dev.rf, hreg, ← Dev.rb, ← Dev.rf, ← Dev.partOfCore]
  simp only [Dev.coresOf, hcore]

theorem thread_degraded (d : Dev) (p t : Nat) : (d.degraded p).thread t = d.thread t := rfl

/-- The partition's state says so, its threads have stopped, and the faces follow. -/
theorem containPart_shows {d : Dev} {p : Nat} (h1 : d.partState p = 1) :
    (∃ thr mem, d.containPart p = { d.degraded p with thr := thr, mem := mem }) ∧
    (∀ t < 576, d.partOf t = some p → ((d.thread t).st = .running ∨ (d.thread t).st = .waiting) → ((d.containPart p).thread t).st = .faulted) ∧
    ∀ t, d.partOf t ≠ some p → (d.containPart p).thread t = d.thread t := by
  have hc : d.containPart p = (((d.coresOf p).flatMap threadsOf).foldl (fun d t => d.updThread t Thread.contained) (d.degraded p)).facesOf p := by
    rw [← coresOf_degraded d p p]
    exact if_neg (not_not.mpr h1)
  obtain ⟨hout, hin⟩ := contained_foldl ((d.coresOf p).flatMap threadsOf) (d.degraded p)
  obtain ⟨thr, hthr⟩ := contained_foldl_thr ((d.coresOf p).flatMap threadsOf) (d.degraded p)
  rw [hc]
  generalize ((d.coresOf p).flatMap threadsOf).foldl (fun d t => d.updThread t Thread.contained) (d.degraded p) = x at *
  obtain ⟨mem, hm⟩ := memoryOnly_facesOf x p
  have ht : ∀ t, (x.facesOf p).thread t = x.thread t := fun t => by rw [hm]; rfl
  refine ⟨⟨thr, mem, by rw [hm, hthr]⟩, fun t hlt hp hr => ?_, fun t hp => ?_⟩
  · rw [ht]
    exact hin t (.inl ⟨partThreads_of hlt hp, hr⟩)
  · rw [ht, hout t (fun hm => hp (mem_partThreads hm)), thread_degraded]

theorem notify_unheard {d : Dev} {p : Nat} {r : Report} (b : Bool) (hs : d.supervisor p = none) (ht : r.tid = none) :
    d.notify p r b = (false, (d.incRf .coreFnqStat p 16 16 1).count (evPart p 10)) := by
  unfold Dev.notify
  dsimp only
  rw [hs, ht]

/-- A report against an ACTIVE partition without a supervisor. -/
theorem actFault_part {d : Dev} {r : Report} {p : Nat} (hp : r.part = some p) (ht : r.tid = none) (hn : r.source ≠ 1411) (h1 : d.partState p = 1) (hs : d.supervisor p = none) :
    d.actFault r 2 = (((((d.incRf .coreFnqStat p 16 16 1).count (evPart p 10)).addPend r 2 false).containPart p).interruptManager) := by
  have ha : d.actPart p r 2 = (((((d.incRf .coreFnqStat p 16 16 1).count (evPart p 10)).addPend r 2 false).containPart p).interruptManager) := by
    unfold Dev.actPart
    rw [if_neg (fun h => h.2 h1), notify_unheard _ hs ht, ht]
    rfl
  unfold Dev.actFault
  rw [hp]
  dsimp only
  rw [if_neg (by decide), ha, if_neg hn]

/-! ## The collector's answers -/

section
variable {s : State} {r : Report} {rest : List Report}

theorem keeps_dequeued (d : Dev) (r : Report) (rest : List Report) (rs : List Reg) : Keeps rs d (d.dequeued r rest) := ⟨fun _ _ _ => rfl, rfl, rfl⟩

/-- Recording leaves all that decides what a report does, but the report's own count and history. -/
theorem recorded_ptn {d x : Dev} (h : Recorded r (d.dequeued r rest) x) : x.ptn = d.ptn := by
  obtain ⟨_, _, _, _, rfl⟩ := h.only
  rfl

theorem recorded_phase {d x : Dev} (h : Recorded r (d.dequeued r rest) x) : x.phaseNow = d.phaseNow := by
  refine phaseNow_congr (h.keeps.reg (by decide) 0) (by rw [h.flt]; rfl) ?_ ?_
  all_goals
    obtain ⟨_, _, _, _, rfl⟩ := h.only
    rfl

theorem recorded_ns {d x : Dev} (h : Recorded r (d.dequeued r rest) x) : x.ns = d.ns := by
  obtain ⟨_, _, _, _, rfl⟩ := h.only
  rfl

theorem faultCollect_idle (hp : s.dev.powered = true) (hq : s.dev.flt.queue = []) : Answers (.faultCollect none) s (fun d => d = s.dev) := by
  refine answers_eventOn (show exec (.faultCollect none) s = execFaultCollect none s from rfl) hp ?_
  dsimp only
  unfold Dev.nextReport
  rw [hq]
  rfl

theorem faultCollect_safe (hp : s.dev.powered = true) (hq : s.dev.flt.queue = r :: rest) (ht : s.dev.flt.takenAt ≠ s.dev.time.tick) (hs : s.dev.safe = true) :
    Answers (.faultCollect none) s (fun d => Claims.Collected r rest s.dev d ∧ d.flt.pend = s.dev.flt.pend ∧ Keeps [.fltCnt, .fltStat, .fltHist] s.dev d ∧ d.ptn = s.dev.ptn) := by
  refine faultCollect_answers hp hq (.inl ht) ?_
  have hr := recorded_shows (s.dev.dequeued r rest) r
  rw [takeReport_safe (hr.safe.trans hs)]
  exact ⟨collected_of_recorded hr, by rw [hr.flt]; rfl, (keeps_dequeued _ _ _ _).trans hr.keeps, recorded_ptn hr⟩

/-- What a plain report's step does: it is recorded and acted on with its programmed severity. -/
theorem plain_acts {P : Dev → Prop} (hp : s.dev.powered = true) (hr : Claims.Plain s.dev r rest)
    (hP : ∀ x, Recorded r (s.dev.dequeued r rest) x → P (x.actFault r (s.dev.sevOf r.source))) : Answers (.faultCollect none) s P := by
  obtain ⟨hq, ht, hs, h1, hn, hc, hm, hsnap, -, -, -⟩ := hr
  refine faultCollect_answers hp hq ht ?_
  have hx := recorded_shows (s.dev.dequeued r rest) r
  rw [takeReport_acts (hx.safe.trans hs) ((hx.keeps.rb (by decide) 0 1).trans hsnap) hc, effSev_plain (d := s.dev.dequeued r rest) h1 hn hm]
  exact hP _ hx

theorem collect_ignored (hp : s.dev.powered = true) (hr : Claims.Plain s.dev r rest) (h0 : s.dev.sevOf r.source = 0) (ha : alwaysNoticed r.source = false) :
    Answers (.faultCollect none) s (fun d => Claims.Collected r rest s.dev d ∧ d.flt.pend = s.dev.flt.pend ∧ Keeps [.fltCnt, .fltStat, .fltHist] s.dev d ∧ d.ptn = s.dev.ptn) := by
  refine plain_acts hp hr fun x hx => ?_
  obtain ⟨-, -, -, -, hn, -, -, -, -, hne, -⟩ := hr
  rw [h0, actFault_recorded hn ha hne]
  exact ⟨collected_of_recorded hx, by rw [hx.flt]; rfl, (keeps_dequeued _ _ _ _).trans hx.keeps, recorded_ptn hx⟩

theorem collect_device (hp : s.dev.powered = true) (hr : Claims.Plain s.dev r rest) (hpart : r.part = none) (he : s.dev.sevOf r.source = 1 ∨ s.dev.sevOf r.source = 2) :
    Answers (.faultCollect none) s (fun d => Claims.Collected r rest s.dev d ∧ d.flt.pend = s.dev.flt.pend ++ [⟨r.source, 8, s.dev.sevOf r.source, false⟩] ∧
      d.rb .fltCpend (r.source / 128) 8 = true ∧ Keeps [.fltCnt, .fltStat, .fltHist, .fltCpend] s.dev d ∧ d.ptn = s.dev.ptn) := by
  refine plain_acts hp hr fun x hx => ?_
  obtain ⟨-, -, -, -, -, -, -, -, hirq, -, -⟩ := hr
  have hscope : r.scope = 8 := by rw [Report.scope, hpart]
  obtain ⟨hf, hk, hb, regs, flt, ho⟩ := addPend_shows x r (eff := s.dev.sevOf r.source) (by rcases he with he | he <;> rw [he] <;> decide)
  rw [actFault_device hpart he, interruptManager_silent ((hk.rb (by decide) 0 11).trans ((hx.keeps.rb (by decide) 0 11).trans hirq))]
  refine ⟨Collected.next (collected_of_recorded hx) (by rw [hf]) (by rw [hf]) (by rw [hf]) (hk.reg (by decide) _) (by rw [ho]; rfl), ?_, hb hscope,
    (keeps_dequeued _ _ _ _).trans ((hx.keeps.mono (by decide)).trans (hk.mono (by decide))), ?_⟩
  · rw [hf, hx.flt, hscope]
    rfl
  · exact (congrArg Dev.ptn ho).trans (show x.ptn = s.dev.ptn from recorded_ptn hx)

theorem collect_part {p : Nat} (hp : s.dev.powered = true) (hr : Claims.Plain s.dev r rest) (hpart : r.part = some p) (h2 : s.dev.sevOf r.source = 2)
    (h1 : s.dev.partState p = 1) (hsup : s.dev.supervisor p = none) :
    Answers (.faultCollect none) s (fun d => Claims.Collected r rest s.dev d ∧ d.flt.pend = s.dev.flt.pend ++ [⟨r.source, p, 2, false⟩] ∧ d.partState p = 2 ∧
      (∀ t < 576, s.dev.partOf t = some p → ((s.dev.thread t).st = .running ∨ (s.dev.thread t).st = .waiting) → (d.thread t).st = .faulted) ∧
      (∀ t, s.dev.partOf t ≠ some p → d.thread t = s.dev.thread t)) := by
  refine plain_acts hp hr fun x hx => ?_
  obtain ⟨-, -, -, -, hn, -, -, -, hirq, hne, -⟩ := hr
  have hk1 : Keeps [.fltCnt, .fltStat, .fltHist] s.dev x := (keeps_dequeued _ _ _ _).trans hx.keeps
  have hst : x.partState p = 1 := (hk1.rf (by decide) p 0 3).trans h1
  have hs : x.supervisor p = none := by
    rw [Dev.supervisor, hk1.rb (by decide), hk1.rf (by decide), ← Dev.supervisor, hsup]
  rw [h2, actFault_part hpart hn hne hst hs]
  have hy := collected_of_recorded hx
  have hc2 : evPart p 10 ≠ 7 := by unfold evPart; omega
  have hc1 : evPart p 7 ≠ 7 := by unfold evPart; omega
  have hy' : Claims.Collected r rest s.dev ((x.incRf .coreFnqStat p 16 16 1).count (evPart p 10)) :=
    Collected.next hy rfl rfl rfl (Dev.reg_incRf_ne _ _ _ _ (.inl (by decide))) ((Dev.counter_count_ne _ hc2.symm).trans rfl)
  have hk2 : Keeps [.fltCnt, .fltStat, .fltHist, .coreFnqStat] s.dev ((x.incRf .coreFnqStat p 16 16 1).count (evPart p 10)) :=
    (keeps_count_iff _).mpr ((keeps_incRf_iff (by decide) _ _ _ _).mpr (hk1.mono (by decide)))
  have hpend : ((x.incRf .coreFnqStat p 16 16 1).count (evPart p 10)).flt.pend = s.dev.flt.pend := by
    rw [show ((x.incRf .coreFnqStat p 16 16 1).count (evPart p 10)).flt = x.flt from rfl, hx.flt]
    rfl
  generalize (x.incRf .coreFnqStat p 16 16 1).count (evPart p 10) = y at *
  obtain ⟨hf, hk, -, regs, flt, ho⟩ := addPend_shows y r (eff := 2) (by decide)
  have hz : Claims.Collected r rest s.dev (y.addPend r 2 false) := Collected.next hy' (by rw [hf]) (by rw [hf]) (by rw [hf]) (hk.reg (by decide) _) (by rw [ho]; rfl)
  have hzp : (y.addPend r 2 false).flt.pend = s.dev.flt.pend ++ [⟨r.source, p, 2, false⟩] := by
    rw [hf, hpend, Report.scope, hpart]
  have hk3 : Keeps [.fltCnt, .fltStat, .fltHist, .coreFnqStat, .fltCpend] s.dev (y.addPend r 2 false) := (hk2.mono (by decide)).trans (hk.mono (by decide))
  generalize y.addPend r 2 false = z at *
  have hcore : ∀ t, z.partOf t = s.dev.partOf t := fun t => by
    rw [Dev.partOf, Dev.partOfCore, hk3.rb (by decide), hk3.rf (by decide), ← Dev.partOfCore, ← Dev.partOf]
  have hthr : ∀ t, z.thread t = s.dev.thread t := fun t => by rw [Dev.thread, hk3.2.2, ← Dev.thread]
  obtain ⟨⟨thr, mem, hcon⟩, hin, hout⟩ := containPart_shows (d := z) (p := p) ((hk3.rf (by decide) p 0 3).trans h1)
  have hq : (z.containPart p).rb .fltIrq 0 11 = false := by
    rw [hcon]
    exact (Dev.rb_setRf_other _ _ _ _ _ (.inl (by decide))).trans ((hk3.rb (by decide) 0 11).trans hirq)
  rw [interruptManager_silent hq]
  refine ⟨?_, ?_, ?_, fun t hlt ht hst => hin t hlt ((hcore t).trans ht) (by rw [hthr]; exact hst), fun t ht => (hout t (by rw [hcore]; exact ht)).trans (hthr t)⟩
  · refine Collected.next hz ?_ ?_ ?_ ?_ ?_
    all_goals rw [hcon]
    · rfl
    · rfl
    · rfl
    · exact Dev.reg_setReg_ne _ _ (.inl (by decide))
    · exact Dev.counter_count_ne _ hc1.symm
  · rw [hcon]
    exact hzp
  · rw [hcon]
    exact Dev.rf_setRf_of_lt _ (by decide) (by decide)

theorem collect_safe (hp : s.dev.powered = true) (hr : Claims.Plain s.dev r rest) (h3 : s.dev.sevOf r.source = 3) :
    Answers (.faultCollect none) s (fun d => d.safe = true ∧ d.live = false ∧ d.rf .fltSafeCause 0 0 11 = r.source ∧ d.rb .fltSafeCause 0 15 = true ∧
      d.rf .fltSafeCause 0 16 2 = 1 ∧ d.reg .fltSafeTime 0 = timeWord s.dev.ns ∧ (∀ p < 8, d.reg .dpxCw p = 0) ∧ (∀ i < 4, d.keyCache i = [])) := by
  refine plain_acts hp hr fun x hx => ?_
  obtain ⟨-, -, -, h1, -, -, -, -, -, -, hlt⟩ := hr
  obtain ⟨hf, hk, -, regs, flt, ho⟩ := addPend_shows x r (eff := 3) (by decide)
  have hphase : (x.addPend r 3 false).phaseNow = 1 := by
    rw [phaseNow_congr (hk.reg (by decide) 0) (by rw [hf]) (by rw [ho]) (by rw [ho]), recorded_phase hx]
    exact h1
  have hns : (x.addPend r 3 false).ns = s.dev.ns :=
    (congrArg Dev.ns ho).trans (show x.ns = s.dev.ns from recorded_ns hx)
  rw [h3, actFault_safe]
  obtain ⟨hs, hcause, htime, -, hcw, hcache⟩ := enterSafe_shows (x.addPend r 3 false) r.source
  rw [hphase] at hcause
  refine ⟨hs, by rw [Dev.live, hs, Bool.not_true, Bool.and_false], ?_, ?_, ?_, by rw [htime, hns], hcw, hcache⟩
  · rw [Dev.rf, hcause]
    simp only [wf, fld, BitVec.toNat_ofNat]
    omega
  · rw [Dev.rb, hcause, wbit_eq_wf, decide_eq_true_eq]
    simp only [wf, fld, BitVec.toNat_ofNat]
    omega
  · rw [Dev.rf, hcause]
    simp only [wf, fld, BitVec.toNat_ofNat]
    omega

/-! ## The collector's watchdog, the end of an injection, the manager's view (R391, R392, R404, R405) -/

/-- The report of FLT_WATCHDOG (R397). -/
def Dev.watchdogReport (d : Dev) : Report := ⟨2, 0, none, none, 0, d.fresh.1, d.time.tick, d.time.now⟩

/-- The watchdog's own fault is of class 0: it escalates to severity 3 and no further, whatever the phase and whatever is pending. -/
theorem effSev_watchdog {d : Dev} (v : Word) (t n : Nat) (h : d.sevOf 2 = 3) : (d.effSev ⟨2, 0, none, none, 0, v, t, n⟩).1 = 3 := by
  have hb : d.baseSev ⟨2, 0, none, none, 0, v, t, n⟩ = 3 := (baseSev_of_noThread d rfl).trans h
  unfold Dev.effSev
  rw [hb]
  dsimp only
  split
  · rw [if_pos (by decide)]
  · split
    · rfl
    · next m _ =>
      show Nat.min 3 (Nat.max 3 m + 1) = 3
      exact Nat.min_eq_left (Nat.le_succ_of_le (Nat.le_max_left 3 m))

/-- A report of source 2 that is acted on with severity 3 ends in the safe state with that cause. -/
theorem takeReport_watchdog {d : Dev} {w : Report} (hw : w.source = 2) (hs : d.safe = false) (hsnap : d.rb .snapCfg 0 1 = false) (he : (d.effSev w).1 = 3) :
    (d.takeReport w).safe = true ∧ (d.takeReport w).rf .fltSafeCause 0 0 11 = 2 ∧ (d.takeReport w).rf .fltCnt 2 0 32 = min (2 ^ 32 - 1) (d.rf .fltCnt 2 0 32 + 1) := by
  have hx := recorded_shows d w
  rw [takeReport_acts (hx.safe.trans hs) ((hx.keeps.rb (by decide) 0 1).trans hsnap) (by rw [hw]; decide), he, actFault_safe, hw]
  obtain ⟨-, hk, -, -⟩ := addPend_shows (d.recorded w) w (eff := 3) (by decide)
  have hcnt := hx.cnt
  rw [hw] at hcnt
  generalize (d.recorded w).addPend w 3 false = y at *
  obtain ⟨hsafe, hcause, -, hfc, -, -⟩ := enterSafe_shows y 2
  have hph : y.phaseNow ≤ 3 := by
    unfold Dev.phaseNow
    split_ifs <;> omega
  refine ⟨hsafe, ?_, ?_⟩
  · rw [Dev.rf, hcause]
    simp only [wf, fld, BitVec.toNat_ofNat]
    omega
  · rw [Dev.rf, hfc, hk.reg (by decide), ← Dev.rf, hcnt]

theorem fltWatchdog_answers (hl : s.dev.live = true) :
    ((∀ r ∈ s.dev.flt.queue, s.dev.time.tick ≤ r.tick + 1024) → Answers .fltWatchdog s (fun d => d = s.dev)) ∧
    (∀ r ∈ s.dev.flt.queue, r.tick + 1024 < s.dev.time.tick → s.dev.sevOf 2 = 3 → s.dev.rb .snapCfg 0 1 = false → Answers .fltWatchdog s (fun d =>
      d.safe = true ∧ d.rf .fltSafeCause 0 0 11 = 2 ∧ d.rf .fltCnt 2 0 32 = min (2 ^ 32 - 1) (s.dev.rf .fltCnt 2 0 32 + 1))) := by
  refine ⟨fun h => ?_, fun r hr ht h3 hsnap => ?_⟩
  · refine answers_event (show exec .fltWatchdog s = execFltWatchdog s from rfl) hl (if_neg ?_)
    rw [List.any_eq_true]
    rintro ⟨r, hr, hlt⟩
    have := h r hr
    have := of_decide_eq_true hlt
    omega
  · refine answers_event (show exec .fltWatchdog s = execFltWatchdog s from rfl) hl ?_
    rw [if_pos (List.any_eq_true.mpr ⟨r, hr, decide_eq_true ht⟩)]
    have hsafe : s.dev.safe = false := by
      rw [Dev.live, Bool.and_eq_true, Bool.not_eq_true'] at hl
      exact hl.2
    exact takeReport_watchdog (d := s.dev.fresh.2) (w := s.dev.watchdogReport) rfl hsafe hsnap (effSev_watchdog _ _ _ h3)

theorem injectionCancel_answers {t : Nat} (hp : s.dev.powered = true) (h : s.dev.flt.injEnd = some t) :
    (t ≤ s.dev.ns → Answers .injectionCancel s (fun d => d.reg .fltInjStat 0 = 0 ∧ d.flt.injEnd = none ∧ Keeps [.fltInjStat, .fltStat] s.dev d)) ∧
    (s.dev.ns < t → Answers .injectionCancel s (fun d => d = s.dev)) := by
  refine ⟨fun ht => ?_, fun ht => ?_⟩
  · refine answers_eventOn (show exec .injectionCancel s = execInjectionCancel s from rfl) hp ?_
    rw [h]
    dsimp only
    rw [if_pos ht]
    refine ⟨(Dev.reg_setReg_ne _ _ (.inl (by decide))).trans (Dev.reg_setReg_same s.dev .fltInjStat 0 0), rfl, ?_⟩
    exact (keeps_setRf_iff (by decide) _ _ _ _).mpr ((keeps_flt _).mpr ((keeps_setReg_iff (by decide) _ _).mpr (.refl _ _)))
  · refine answers_eventOn (show exec .injectionCancel s = execInjectionCancel s from rfl) hp ?_
    rw [h]
    exact if_neg (by omega)

theorem getLast?_drop_append {α : Type} (l : List α) (x : α) (n : Nat) : ((l ++ [x]).drop ((l ++ [x]).length - (n + 1))).getLast? = some x := by
  rw [List.getLast?_drop, if_neg (by simp), List.getLast?_concat]

theorem viewSample_answers {item : Fin 8} {obj : BitVec 16} {v : Nat} (hl : s.dev.live = true) (hf : s.dev.fwServes = true) (hr : s.dev.fw.running = none)
    (hv : tabFind (65536 * (item.val + 1) + obj.toNat) s.dev.fw.view = some v) :
    ((s.dev.thread obj.toNat).st ≠ .faulted → Answers (.viewSample item obj) s (fun d => tabFind (65536 * (item.val + 1) + obj.toNat) d.fw.view = none ∧ d.regs = s.dev.regs ∧
      d.flt = s.dev.flt ∧ Keeps [] s.dev d)) ∧
    (∀ t, (s.dev.thread obj.toNat).st = .faulted → tabFind (65536 * (item.val + 1) + obj.toNat) s.dev.fw.viewSince = some t →
      (s.dev.time.tick ≤ t + 250000 → Answers (.viewSample item obj) s (fun d => d = s.dev)) ∧
      (t + 250000 < s.dev.time.tick → Answers (.viewSample item obj) s (fun d => tabFind (65536 * (item.val + 1) + obj.toNat) d.fw.view = none ∧ RaisesSome 1282 0 none s.dev d ∧
        d.fw.viewUnread = true ∧ d.fw.viewLog.getLast? = some (item.val + 1, obj.toNat, v, 4, s.dev.sec) ∧ Keeps [] s.dev d))) := by
  have hcode : ∀ x : ThrState, thrCode x = 4 ↔ x = .faulted := fun x => by cases x <;> decide
  refine ⟨fun hst => ?_, fun t hst hs => ⟨fun ht => ?_, fun ht => ?_⟩⟩
  all_goals
    refine answers_event (show exec (.viewSample item obj) s = execViewSample item obj s from rfl) hl ?_
    dsimp only
    rw [hv]
    dsimp only
    rw [hf, hr]
    simp only [Bool.not_true, Option.isSome_none, Bool.or_false, Bool.false_eq_true, if_false]
  · rw [if_pos (fun h => hst ((hcode _).mp h))]
    exact ⟨tabFind_del_same _ _, rfl, rfl, fun _ _ _ => rfl, rfl, rfl⟩
  · rw [if_neg (fun h => h ((hcode _).mpr hst)), hs]
    dsimp only
    rw [if_pos ht]
  · rw [if_neg (fun h => h ((hcode _).mpr hst)), hs]
    dsimp only
    rw [if_neg (by omega), (hcode _).mpr hst]
    exact ⟨tabFind_del_same _ _, raisesSome_raiseFree s.dev 1282 0 none, rfl, getLast?_drop_append _ _ 15, fun _ _ _ => rfl, rfl, rfl⟩

end

/-- Settles O48. -/
theorem faultsAreCollectedAndActOnTheirSeverity : Obligations.FaultsAreCollectedAndActOnTheirSeverity := fun _ hp =>
  ⟨faultCollect_idle hp, fun _ _ hr => ⟨collect_ignored hp hr, collect_device hp hr, fun _ _ hpart h2 h1 hs => collect_part hp hr hpart h2 h1 hs, collect_safe hp hr⟩,
    fun _ _ hq ht hs => faultCollect_safe hp hq ht hs, fltWatchdog_answers, fun _ => injectionCancel_answers hp, fun _ _ _ => viewSample_answers⟩

end Sys2Proof.Machine
end

section
/-! PROOFS. Every step keeps memory in its canonical form. A command that keeps the form is `MemKept`; here is what the forms of a command ask of the device's operations. -/

namespace Sys2Proof.Machine
open Sys2Proof

variable {a b d e : Dev}

/-! ## Chains along which only memory is watched -/

theorem unwatched {P : Prop} : Watch.memory ≠ .memory → P := fun h => absurd rfl h
theorem notWatched {r : Reg} : r ∉ Watch.memory.regs := List.not_mem_nil

/-- While only memory is watched, only memory matters. -/
theorem steady_memory_iff : Steady .memory a d ↔ (Memory.wf a.mem = true → Memory.wf d.mem = true) :=
  ⟨fun h => h.mem, fun h => ⟨h, fun _ hr => (notWatched hr).elim, unwatched, unwatched⟩⟩

theorem Steady.upd (h : Steady .memory a d) {regs : Tab Word} {thr : Tab Thread} {cores : Tab CoreSt} {time : Time} {pkt : Pkt} {keys : Keys} {dma : Dma} {host : HostSt} {ptn : Ptn}
    {fw : Fw} {flt : Flt} {dpx : Duplex} {cnt : Cnt} {relPend : List (Nat × Nat × Nat × Slot)} {life : Life} {board : Board} {boot : Boot} {outs : List OutEv} {free : Nat} :
    Steady .memory a ⟨regs, d.mem, thr, cores, time, pkt, keys, dma, host, ptn, fw, flt, dpx, cnt, relPend, life, board, boot, outs, free⟩ :=
  steady_memory_iff.mpr h.wf

theorem Steady.of_eq (he : b = d) (h : Steady .memory a b) : Steady .memory a d := he ▸ h

theorem Steady.resetReg {r : Reg} {i : Nat} (h : Steady .memory a d) : Steady .memory a (d.resetReg r i) := h.upd

theorem Steady.resetAll {rs : List Reg} {p : Reg → Nat → Bool} (h : Steady .memory a d) : Steady .memory a (d.resetWhere rs p) := h.upd

theorem Steady.atomic {x n : Nat} {f : Nat → Option Nat} (h : Steady .memory a d) : Steady .memory a (d.atomic x n f).2 :=
  steady_memory_iff.mpr fun ha => Dev.atomic_wf x n f (h.wf ha)

/-- Memory built up by stores into a canonical memory is canonical. -/
theorem foldl_put_wf {α : Type} (at_ : α → Nat) (v : α → Byte) (l : List α) {m : List Host.Cell} (hm : Memory.wf m = true) :
    Memory.wf (l.foldl (fun m c => tabPut m 0 (at_ c) (v c)) m) = true := by
  induction l generalizing m with
  | nil => exact hm
  | cons c l ih => exact ih (tabWf_put _ _ hm)

theorem Steady.copyMem {p : Nat} {m : List Host.Cell} (h : Steady .memory a d) : Steady .memory a (d.copyMem p m) :=
  steady_memory_iff.mpr fun ha => foldl_put_wf (fun c : Host.Cell => islAddr (peerIsl (d.dpxActive p)) (c.1 % 2 ^ 44)) (·.2) m (tabWf_filter _ (h.wf ha))

theorem Steady.ite_fst {α : Type} {c : Prop} [Decidable c] {x y : Dev × α} (hx : Steady .memory a x.1) (hy : Steady .memory a y.1) : Steady .memory a (if c then x else y).1 := by
  split
  · exact hx
  · exact hy
theorem Steady.ite_snd {α : Type} {c : Prop} [Decidable c] {x y : α × Dev} (hx : Steady .memory a x.2) (hy : Steady .memory a y.2) : Steady .memory a (if c then x else y).2 := by
  split
  · exact hx
  · exact hy

/-- A fold over a state that holds a device. -/
theorem Steady.foldl_at {α β : Type} {g : β → Dev} {f : β → α → β} {l : List α} {x : β} (h : Steady .memory a (g x)) (hf : ∀ x b, Steady .memory (g x) (g (f x b))) :
    Steady .memory a (g (l.foldl f x)) := by
  induction l generalizing x with
  | nil => exact h
  | cons b l ih => exact ih (h.trans (hf x b))

/-- A device whose memory is gone starts a chain of its own. -/
theorem Steady.of_empty (he : e.mem = []) : Steady .memory a e := steady_memory_iff.mpr fun _ => by rw [he]; rfl

/-! ## Commands -/

/-- A command's answer keeps memory canonical. -/
def OutOk (s : State) (o : Out) : Prop := Claims.MemoryOk s → ∀ t, o = .next t → Claims.MemoryOk t

variable {s : State}

theorem OutOk.closed (h : Steady .memory s.dev d) : OutOk s (.next { s with bundle := none, dev := d }) := by
  intro hs t ht
  cases ht
  exact ⟨h.wf hs.1, fun _ hb => by cases hb⟩

/-- A bundle stays open, if slot B may follow, with a canonical memory to give back. -/
theorem OutOk.opened {keep : Bool} {x : OpenBundle} (hd : Steady .memory s.dev d) (hx : Steady .memory s.dev x.before) :
    OutOk s (.next { s with dev := d, bundle := if keep then some x else none }) := by
  intro hs t ht
  cases ht
  refine ⟨hd.wf hs.1, fun b hb => ?_⟩
  cases keep <;> cases hb
  exact hx.wf hs.1

/-- A command that is run on another state with the same memories. -/
theorem OutOk.of_state {s' : State} {o : Out} (h : OutOk s' o) (hm : Claims.MemoryOk s → Claims.MemoryOk s') : OutOk s o := fun hs => h (hm hs)

theorem OutOk.fault {f : Fault} : OutOk s (.fault f) := fun _ _ h => by cases h

theorem OutOk.ite {c : Prop} [Decidable c] {x y : Out} (hx : OutOk s x) (hy : OutOk s y) : OutOk s (if c then x else y) := by
  split
  · exact hx
  · exact hy

theorem OutOk.eventAny {f : Dev → Dev} (hf : ∀ {a d}, Steady .memory a d → Steady .memory a (f d)) : OutOk s (eventAny f s) := .closed (hf .refl)
theorem OutOk.event {f : Dev → Dev} (hf : ∀ {a d}, Steady .memory a d → Steady .memory a (f d)) : OutOk s (event f s) := .closed (.ite (hf .refl) .refl)
theorem OutOk.eventOn {f : Dev → Dev} (hf : ∀ {a d}, Steady .memory a d → Steady .memory a (f d)) : OutOk s (eventOn f s) := .closed (.ite (hf .refl) .refl)

theorem OutOk.clsUpd {p e : Nat} {f : Dev → Dev} (hf : ∀ {a d}, Steady .memory a d → Steady .memory a (f d)) : OutOk s (clsUpd p e f s) :=
  .event fun h => .ite h.setRb (hf h)

/-- An operation of the scheduler's interface keeps memory canonical. -/
def UpdOk (a : Dev) : Upd → Prop
  | .done d | .clamped d | .busy d => Steady .memory a d
  | .fail _ => True

theorem UpdOk.ite {c : Prop} [Decidable c] {x y : Upd} (hx : UpdOk a x) (hy : UpdOk a y) : UpdOk a (if c then x else y) := by
  split
  · exact hx
  · exact hy

theorem OutOk.schUpd {p m : Nat} {f : Dev → Upd} (hf : ∀ {a d}, Steady .memory a d → UpdOk a (f d)) : OutOk s (schUpd p m f s) := by
  refine .event fun {a d} h => .ite h.setRb ?_
  have hf := hf h
  cases hr : f d <;> rw [hr] at hf
  case fail => exact h.setReg
  all_goals exact Steady.setReg hf

/-- What firmware does for a command keeps memory canonical. -/
def FwOk (a : Dev) : FwRes → Prop
  | .answer _ d | .hold d => Steady .memory a d

theorem FwOk.ite {c : Prop} [Decidable c] {x y : FwRes} (hx : FwOk a x) (hy : FwOk a y) : FwOk a (if c then x else y) := by
  split
  · exact hx
  · exact hy

theorem FwOk.fail {st : Byte} (h : Steady .memory a d) : FwOk a (.fail st d) := h
theorem FwOk.ok {r0 r1 : Nat} (h : Steady .memory a d) : FwOk a (.ok d r0 r1) := h

/-- An instruction's act, given the device before its bundle and the device as it stands, keeps memory canonical. -/
def ActOk (a : Dev) : Act → Prop
  | .done d => Steady .memory a d
  | .exc _ _ | .starve => True

theorem ActOk.ite {c : Prop} [Decidable c] {x y : Act} (hx : ActOk a x) (hy : ActOk a y) : ActOk a (if c then x else y) := by
  split
  · exact hx
  · exact hy

end Sys2Proof.Machine
end

section
/-! PROOFS. Memory stays canonical: the issue of instructions, the core's own instructions, and what memory and time return. One rule for each operation that the chains of `Steady` do not have yet, written as the operation is, and one for each command. -/

namespace Sys2Proof.Machine
open Sys2Proof

/- Many short rules follow: elaborated one after another they need few threads at a time. -/
set_option Elab.async false

variable {a b d e : Dev} {s : State}

theorem Steady.random {n : Nat} (h : Steady .memory a d) : Steady .memory a (d.random n).2 := h.mk

theorem Steady.raiseDev {source isl detail : Nat} (h : Steady .memory a d) : Steady .memory a (d.raiseDev source isl detail) := h.raise

theorem Steady.raisePart {source isl p detail : Nat} (h : Steady .memory a d) : Steady .memory a (d.raisePart source isl p detail) := h.raise

theorem Steady.useInjection {src : Nat} (h : Steady .memory a d) : Steady .memory a (d.useInjection src) := .ite h (.ite h.setReg.mk.setPhase h.setRf)

theorem Steady.raiseDecode {isl : Nat} {part : Option Nat} {addr : Nat} (h : Steady .memory a d) : Steady .memory a (d.raiseDecode isl part addr) := h.raise

theorem Steady.immediateExc {tid code pc : Nat} {slot : Slot} {operand : Nat} (h : Steady .memory a d) : Steady .memory a (d.immediateExc tid code pc slot operand) :=
  h.raiseExc.updThread.slots.count

/-- What an instruction's act must do, for whichever device its bundle began on. -/
def ActKeeps (act : Thread → Dev → Dev → Act) : Prop := ∀ {a : Dev} {t b d}, Steady .memory a b → Steady .memory a d → ActOk a (act t b d)

theorem OutOk.issueFirst {i : Issue} {keep : Bool} {cost : Nat} {port : Bool} {dest : Nat} {uses : List (BitVec 5)} {act : Thread → Dev → Dev → Act}
    (hact : ActKeeps act) : OutOk s (issueFirst i keep cost port dest uses act s) := by
  have dead : ∀ {d}, Steady .memory s.dev d → OutOk s (.next { s with dev := d, bundle := if keep then some (deadBundle i.tid.val d) else none }) := fun h => .opened h h
  have now : Steady .memory s.dev s.dev := .refl
  unfold Machine.issueFirst
  extract_lets tid d t dead_ d1 opened
  split
  · exact dead now
  split
  · exact dead now
  split
  · exact dead now.slots
  split
  · exact dead now.slots
  split
  · exact dead now.slots
  split
  · exact dead now.immediateExc
  split
  · exact .opened now.updThread.count.slots now
  split
  · exact dead now.slots
  have h := hact (t := t) (d := d1) now now.updThread.count
  split
  · next hr => rw [hr] at h; exact .opened (Steady.slots h) now
  · exact dead now.immediateExc
  · exact dead now.slots

theorem OutOk.issueSecond {i : Issue} {x : OpenBundle} {cost : Nat} {port : Bool} {dest : Nat} {uses : List (BitVec 5)} {act : Thread → Dev → Dev → Act}
    (hact : ActKeeps act) (hx : Steady .memory s.dev x.before) : OutOk s (issueSecond i x cost port dest uses act s) := by
  unfold Machine.issueSecond
  extract_lets tid t close
  split
  · exact .closed .refl
  split
  · exact .fault
  split
  · exact .closed (.ite Steady.refl.slots.slots .refl)
  split
  · exact .closed hx.slots
  have h := hact (t := t) hx .refl
  split
  · next hr => rw [hr] at h; exact .closed (Steady.slots h)
  · exact .closed hx.immediateExc
  · exact .closed hx.slots

theorem OutOk.issue {i : Issue} {legal : Bool} {cost : Nat} {port : Bool} {dest : Nat} {uses : List (BitVec 5)} {act : Thread → Dev → Dev → Act}
    (hact : ActKeeps act) : OutOk s (issue i legal cost port dest uses act s) := by
  unfold Machine.issue
  split
  · exact .fault
  split
  · exact .issueFirst hact
  split
  · next b hb =>
    split
    · exact fun hs => OutOk.issueSecond hact (steady_memory_iff.mpr fun _ => hs.2 b hb) hs
    · exact .issueFirst hact
  · exact .issueFirst hact

theorem OutOk.aluReg {i : Issue} {legal : Bool} {cost : Nat} {rd ra : BitVec 5} {rb : RbSrc} {f : Word → Word → Word} : OutOk s (aluReg i legal cost rd ra rb f s) :=
  .issue fun _ h => h.updThread

theorem OutOk.aluOne {i : Issue} {legal : Bool} {rd ra : BitVec 5} {f : Word → Word} : OutOk s (aluOne i legal rd ra f s) :=
  .issue fun _ h => h.updThread

theorem OutOk.add {i : Issue} {rd ra : BitVec 5} {rb : RbSrc} : OutOk s (execAdd i rd ra rb s) := .aluReg

theorem OutOk.sub {i : Issue} {rd ra : BitVec 5} {rb : RbSrc} : OutOk s (execSub i rd ra rb s) := .aluReg

theorem OutOk.and {i : Issue} {rd ra : BitVec 5} {rb : RbSrc} : OutOk s (execAnd i rd ra rb s) := .aluReg

theorem OutOk.or {i : Issue} {rd ra : BitVec 5} {rb : RbSrc} : OutOk s (execOr i rd ra rb s) := .aluReg

theorem OutOk.xor {i : Issue} {rd ra : BitVec 5} {rb : RbSrc} : OutOk s (execXor i rd ra rb s) := .aluReg

theorem OutOk.andn {i : Issue} {rd ra : BitVec 5} {rb : RbSrc} : OutOk s (execAndn i rd ra rb s) := .aluReg

theorem OutOk.shl {i : Issue} {rd ra : BitVec 5} {rb : RbSrc} : OutOk s (execShl i rd ra rb s) := .aluReg

theorem OutOk.shr {i : Issue} {rd ra : BitVec 5} {rb : RbSrc} : OutOk s (execShr i rd ra rb s) := .aluReg

theorem OutOk.sar {i : Issue} {rd ra : BitVec 5} {rb : RbSrc} : OutOk s (execSar i rd ra rb s) := .aluReg

theorem OutOk.min {i : Issue} {rd ra : BitVec 5} {rb : RbSrc} : OutOk s (execMin i rd ra rb s) := .aluReg

theorem OutOk.max {i : Issue} {rd ra : BitVec 5} {rb : RbSrc} : OutOk s (execMax i rd ra rb s) := .aluReg

theorem OutOk.minu {i : Issue} {rd ra : BitVec 5} {rb : RbSrc} : OutOk s (execMinu i rd ra rb s) := .aluReg

theorem OutOk.maxu {i : Issue} {rd ra : BitVec 5} {rb : RbSrc} : OutOk s (execMaxu i rd ra rb s) := .aluReg

theorem OutOk.mul {i : Issue} {rd ra : BitVec 5} {rb : RbSrc} : OutOk s (execMul i rd ra rb s) := .aluReg

theorem OutOk.mulhu {i : Issue} {rd ra : BitVec 5} {rb : RbSrc} : OutOk s (execMulhu i rd ra rb s) := .aluReg

theorem OutOk.mulhs {i : Issue} {rd ra : BitVec 5} {rb : RbSrc} : OutOk s (execMulhs i rd ra rb s) := .aluReg

theorem OutOk.addi {i : Issue} {rd ra : BitVec 5} {imm : BitVec 12} : OutOk s (execAddi i rd ra imm s) := .aluOne

theorem OutOk.andi {i : Issue} {rd ra : BitVec 5} {imm : BitVec 12} : OutOk s (execAndi i rd ra imm s) := .aluOne

theorem OutOk.ori {i : Issue} {rd ra : BitVec 5} {imm : BitVec 12} : OutOk s (execOri i rd ra imm s) := .aluOne

theorem OutOk.xori {i : Issue} {rd ra : BitVec 5} {imm : BitVec 12} : OutOk s (execXori i rd ra imm s) := .aluOne

theorem OutOk.shli {i : Issue} {rd ra : BitVec 5} {n : BitVec 6} : OutOk s (execShli i rd ra n s) := .aluOne

theorem OutOk.shri {i : Issue} {rd ra : BitVec 5} {n : BitVec 6} : OutOk s (execShri i rd ra n s) := .aluOne

theorem OutOk.sari {i : Issue} {rd ra : BitVec 5} {n : BitVec 6} : OutOk s (execSari i rd ra n s) := .aluOne

theorem OutOk.movi {i : Issue} {rd : BitVec 5} {imm : BitVec 17} : OutOk s (execMovi i rd imm s) := .issue fun _ h => h.updThread

theorem OutOk.movsh {i : Issue} {rd : BitVec 5} {imm : BitVec 16} : OutOk s (execMovsh i rd imm s) := .aluOne

theorem OutOk.bfx {i : Issue} {rd ra : BitVec 5} {pos wm1 : BitVec 6} : OutOk s (execBfx i rd ra pos wm1 s) := .aluOne

theorem OutOk.bfxs {i : Issue} {rd ra : BitVec 5} {pos wm1 : BitVec 6} : OutOk s (execBfxs i rd ra pos wm1 s) := .aluOne

theorem OutOk.bfi {i : Issue} {rd ra : BitVec 5} {pos wm1 : BitVec 6} : OutOk s (execBfi i rd ra pos wm1 s) := .aluReg

theorem OutOk.bfxw {i : Issue} {rd : BitVec 5} {w : BitVec 4} {pos wm1 : BitVec 6} : OutOk s (execBfxw i rd w pos wm1 s) := .issue fun _ h => h.updThread

theorem OutOk.cmp {i : Issue} {cond : BitVec 3} {pd : BitVec 3} {ra : BitVec 5} {rb : RbSrc} : OutOk s (execCmp i cond pd ra rb s) := .issue fun _ h => h.updThread

theorem OutOk.cmpi {i : Issue} {cond : BitVec 3} {pd : BitVec 3} {ra : BitVec 5} {imm : BitVec 11} : OutOk s (execCmpi i cond pd ra imm s) := .issue fun _ h => h.updThread

theorem OutOk.plog {i : Issue} {op : BitVec 2} {pd pa pb : BitVec 3} : OutOk s (execPlog i op pd pa pb s) := .issue fun _ h => h.updThread

theorem OutOk.br {i : Issue} {off : BitVec 22} : OutOk s (execBr i off s) := .issue fun _ h => h.updThread

theorem OutOk.call {i : Issue} {off : BitVec 22} : OutOk s (execCall i off s) := .issue fun _ h => h.updThread

theorem OutOk.jr {i : Issue} {ra : BitVec 5} : OutOk s (execJr i ra s) := .issue fun _ h => .ite trivial h.updThread

theorem Steady.countTags {h' f : Nat} (h : Steady .memory a d) : Steady .memory a (d.countTags h' f) := h.setRf.setRf.setRf.setRf

theorem Steady.hostRead {h' f : Nat} {slice : Option Nat} {op : HostOp} {addr len : Nat} (h : Steady .memory a d) : Steady .memory a (d.hostRead h' f slice op addr len) :=
  h.mk.countTags.count.wakeLink

theorem Steady.dropTag {t : Nat} (h : Steady .memory a d) : Steady .memory a (d.dropTag t) := by
  unfold Dev.dropTag
  split
  · exact h.mk.countTags
  · exact h

theorem Steady.endOp {op : HostOp} (h : Steady .memory a d) : Steady .memory a (d.endOp op) := by
  unfold Dev.endOp
  split
  · exact h.dropTag
  · exact h

theorem Steady.irqMech {h' f : Nat} (h : Steady .memory a d) : Steady .memory a (d.irqMech h' f) := h.setRf

theorem Steady.interruptManager (h : Steady .memory a d) : Steady .memory a d.interruptManager := .ite h.interrupt h

theorem Steady.deliver {tid : Nat} {o : StoreOp} (h : Steady .memory a d) : Steady .memory a (d.deliver tid o).1 := by
  unfold Dev.deliver
  split
  · exact h
  · exact .ite h h.progCount
  · dsimp only
    split
    · exact h
    split
    · split
      · exact h
      · split
        · exact h
        split
        · exact h
        split
        · exact h.hostWrite.count
        · exact h
    · split
      · exact h.write
      · exact h
      · exact h

theorem Steady.drainOne {tid : Nat} (h : Steady .memory a d) : Steady .memory a (d.drainOne tid) := by
  unfold Dev.drainOne
  dsimp only
  split
  · exact h
  · exact .ite h h.deliver.updThread

theorem Steady.flush {tid : Nat} (h : Steady .memory a d) : Steady .memory a (d.flush tid) := h.foldl fun _ _ => Steady.refl.drainOne

theorem Steady.sendOp {tid : Nat} {t : Thread} {slot : Slot} {kind : OutKind} {rd : BitVec 5} {res : Option Word} (h : Steady .memory a d) : Steady .memory a (d.sendOp tid t slot kind rd res) :=
  h.updThread

theorem Steady.sendHostLoad {tid p : Nat} {t : Thread} {ea size : Nat} (h : Steady .memory a d) : Steady .memory a (d.sendHostLoad tid p t ea size) := by
  unfold Dev.sendHostLoad
  split
  · exact .ite h.hostRead.count h
  · exact h

theorem OutOk.ld {i : Issue} {sp sz : BitVec 2} {rd ra : BitVec 5} {off : BitVec 8} : OutOk s (execLd i sp sz rd ra off s) := by
  refine .issue fun _ h => ?_
  dsimp only
  split
  · exact trivial
  · refine .ite ?_ ?_
    · exact h.updThread
    · refine .ite ?_ ?_
      · exact trivial
      · refine .ite ?_ ?_
        · exact trivial
        · refine Steady.ite ?_ h.sendOp
          · split
            · exact h.sendOp.sendHostLoad
            · exact h.sendOp

theorem OutOk.st {i : Issue} {sp sz : BitVec 2} {rs ra : BitVec 5} {off : BitVec 8} : OutOk s (execSt i sp sz rs ra off s) := by
  refine .issue fun _ h => ?_
  dsimp only
  split
  · exact trivial
  · exact .ite h.write (.ite trivial (.ite trivial h.updThread))

theorem OutOk.atomIssue {i : Issue} {legal : Bool} {sp : BitVec 2} {sz : BitVec 1} {rd ra rb : BitVec 5} {kind : BitVec 2 → Nat → Nat → Thread → OutKind}
    {f : Thread → Nat → Option Nat} : OutOk s (atomIssue i legal sp sz rd ra rb kind f s) := by
  refine .issue fun _ h => ?_
  dsimp only
  split
  · trivial
  split
  · exact h.atomic.updThread
  split
  · trivial
  · exact h.sendOp

theorem OutOk.atomAdd {i : Issue} {sp : BitVec 2} {sz : BitVec 1} {rd ra rb : BitVec 5} : OutOk s (execAtomAdd i sp sz rd ra rb s) := .atomIssue

theorem OutOk.atomSwap {i : Issue} {sp : BitVec 2} {sz : BitVec 1} {rd ra rb : BitVec 5} : OutOk s (execAtomSwap i sp sz rd ra rb s) := .atomIssue

theorem OutOk.atomCas {i : Issue} {sp : BitVec 2} {sz : BitVec 1} {rd ra rb : BitVec 5} : OutOk s (execAtomCas i sp sz rd ra rb s) := .atomIssue

theorem OutOk.storeErrorResponse {tid : Fin 576} : OutOk s (execStoreErrorResponse tid s) := by
  refine .event fun h => ?_
  dsimp only
  split
  · exact .ite h.drainOne h
  · exact ((Steady.ite h.drainOne h).updThread).raiseExc

theorem OutOk.fence {i : Issue} : OutOk s (execFence i s) := .issue fun _ h => h.updThread

theorem OutOk.lkacq {i : Issue} {rd ra : BitVec 5} {imm : BitVec 12} : OutOk s (execLkacq i rd ra imm s) := by
  refine .issue fun _ h => ?_
  split
  · exact trivial
  · exact h.sendOp.count

theorem OutOk.lkrel {i : Issue} {ra : BitVec 5} {imm : BitVec 12} : OutOk s (execLkrel i ra imm s) := by
  refine .issue fun _ h => ?_
  dsimp only
  split
  · exact trivial
  · exact Steady.ite h.flush h.flush.mk

theorem Steady.winLock {n tid : Nat} (h : Steady .memory a d) : Steady .memory a (d.winLock n tid) := h.setReg

theorem Steady.answer {tid : Nat} {p : OutKind → Bool} {v : Word} (h : Steady .memory a d) : Steady .memory a (d.answer tid p v) := h.updThread

theorem Steady.lockArbitrate {n : Nat} {who : List Nat} (h : Steady .memory a d) : Steady .memory a (d.lockArbitrate n who) := by
  unfold Dev.lockArbitrate
  extract_lets is ws lose
  have hl : ∀ o d t, Steady .memory d (lose o d t) := fun _ _ _ => Steady.refl.answer.count
  split
  · exact h.foldl (hl _)
  split
  · exact h
  · exact h.setReg.answer.foldl (hl _)

theorem OutOk.lockArbitrate {lock : Fin 4096} {who : List (Fin 576)} : OutOk s (execLockArbitrate lock who s) := .event fun h => h.lockArbitrate

theorem OutOk.lockReleaseArrive {lock : Fin 4096} : OutOk s (execLockReleaseArrive lock s) := by
  refine .event fun h => ?_
  dsimp only
  split
  · exact h
  · exact .ite h.mk.freeLock h.mk.raise

theorem OutOk.tnow {i : Issue} {rd : BitVec 5} : OutOk s (execTnow i rd s) := by
  refine .issue fun _ h => ?_
  dsimp only
  refine .ite ?_ ?_
  · split
    · exact trivial
    · exact h.setThread
  · exact h.fresh.updThread.recordInput.recordInput

theorem OutOk.tnowh {i : Issue} {rd : BitVec 5} : OutOk s (execTnowh i rd s) := .issue fun _ h => h.updThread

theorem OutOk.tadd {i : Issue} {rd ra rb : BitVec 5} : OutOk s (execTadd i rd ra rb s) := .issue fun _ h => .ite trivial h.updThread

theorem OutOk.twait {i : Issue} {ra : BitVec 5} : OutOk s (execTwait i ra s) := .issue fun _ h => .ite trivial (.ite h h.updThread)

theorem OutOk.twaitExpire {tid : Fin 576} : OutOk s (execTwaitExpire tid s) := by
  refine .event fun h => ?_
  dsimp only
  split
  · exact .ite h.setThread.count h
  · exact h

theorem OutOk.tset {i : Issue} {ra rb : BitVec 5} : OutOk s (execTset i ra rb s) := .issue fun _ h => .ite trivial h.updThread

theorem OutOk.tclr {i : Issue} : OutOk s (execTclr i s) := .issue fun _ h => h.updThread

theorem OutOk.timerEv30Fire {tid : Fin 576} : OutOk s (execTimerEv30Fire tid s) := by
  refine .event fun h => ?_
  dsimp only
  split
  · exact h
  · exact .ite h.updThread.setEvent h

theorem OutOk.waitev {i : Issue} {rd ra : BitVec 5} : OutOk s (execWaitev i rd ra s) := by
  refine .issue fun _ h => ?_
  dsimp only
  refine .ite ?_ ?_
  · exact h.updThread
  · refine .ite ?_ ?_
    · split
      · exact trivial
      · exact h.setThread
    · exact .ite h.updThread h.updThread.recordInput

theorem OutOk.sigevT {i : Issue} {ra : BitVec 5} {line : BitVec 5} : OutOk s (execSigevT i ra line s) := .issue fun _ h => .ite trivial (.ite trivial (Steady.ite h.flush h.flush.setEvent.count))

theorem OutOk.sigevG {i : Issue} {ra : BitVec 5} {line : BitVec 5} : OutOk s (execSigevG i ra line s) := by
  refine .issue fun _ h => ?_
  dsimp only
  refine .ite ?_ ?_
  · exact trivial
  · split
    · exact trivial
    · exact .ite trivial (Steady.ite h.flush ((h.flush.foldl fun _ _ => Steady.refl.setEvent).count))

end Sys2Proof.Machine
end

section
/-! PROOFS. Memory stays canonical: completion queues, the classifier and the packet instructions. One rule for each operation that the chains of `Steady` do not have yet, written as the operation is, and one for each command. -/

namespace Sys2Proof.Machine
open Sys2Proof

/- Many short rules follow: elaborated one after another they need few threads at a time. -/
set_option Elab.async false

variable {a b d e : Dev} {s : State}

theorem Steady.drainOverflow {n s k : Nat} (h : Steady .memory a d) : Steady .memory a (d.drainOverflow n s k) := by
  induction k generalizing d with
  | zero => exact h
  | succ k ih =>
    unfold Dev.drainOverflow
    split
    · exact h
    · exact .ite (ih h.cqWrite.setOverflow) h

theorem Steady.cqDrain {n : Nat} (h : Steady .memory a d) : Steady .memory a (d.cqDrain n) := by
  unfold Dev.cqDrain
  split
  · exact h
  · exact h.drainOverflow.drainWaiting

theorem Steady.sliceDrain {s : Nat} (h : Steady .memory a d) : Steady .memory a (d.sliceDrain s) := (h.foldl fun _ _ => Steady.refl.drainOverflow).drainWaiting

theorem OutOk.cqIrqTimer {n : Fin 16384} : OutOk s (execCqIrqTimer n s) := by
  refine .event fun h => ?_
  split
  · exact .ite h.cqInterrupt h
  · exact h

theorem Steady.police {m pol len : Nat} (h : Steady .memory a d) : Steady .memory a (d.police m pol len).2 := by
  unfold Dev.police
  dsimp only
  split
  · exact h
  split
  · exact h.setReg
  · exact h.mk

theorem Steady.ingressPolice {f : Nat} (h : Steady .memory a d) : Steady .memory a (d.ingressPolice f).2 := by
  unfold Dev.ingressPolice
  dsimp only
  split
  · exact h
  split
  · exact h
  split
  · exact h.police
  · exact h.police.count.dropFrame

theorem Steady.drainGroup {g n : Nat} (h : Steady .memory a d) : Steady .memory a (d.drainGroup g n) := by
  induction n generalizing d with
  | zero => exact h
  | succ n ih =>
    unfold Dev.drainGroup
    split
    · exact ih h.setGroup.assignTo
    · exact h

theorem Steady.completeFrame {f a' : Nat} (h : Steady .memory a d) : Steady .memory a (d.completeFrame f a') := by
  unfold Dev.completeFrame
  dsimp only
  split
  · exact h.applyAction
  · exact .ite h.mk.count.applyAction h.mk.releaseAll

theorem Steady.reorderExpire {f : Nat} (h : Steady .memory a d) : Steady .memory a (d.reorderExpire f) := by
  unfold Dev.reorderExpire
  dsimp only
  split
  · exact h
  · split
    · exact h
    · exact .ite h h.mk.countBy.releaseAll

theorem OutOk.reorderTimeout {f : Nat} : OutOk s (execReorderTimeout f s) := .event fun h => h.reorderExpire

theorem Steady.reassign {tid : Nat} (h : Steady .memory a d) : Steady .memory a (d.reassign tid) := by
  unfold Dev.reassign
  dsimp only
  refine h.updThread.foldl fun _ _ => ?_
  · split
    · exact Steady.refl
    · split
      · exact Steady.refl.assignTo
      · exact .ite Steady.refl.count.freeEntry.dropFrame Steady.refl.setGroup

theorem OutOk.groupQueueAssign {g : Fin 1024} : OutOk s (execGroupQueueAssign g s) := .event fun h => (h.foldl fun _ _ => .ite Steady.refl.reassign Steady.refl).drainGroup

theorem Steady.setRule {e i : Nat} {r : Rule} (h : Steady .memory a d) : Steady .memory a (d.setRule e i r) := h.mk

theorem Steady.setCache {isl p : Nat} {c : List CacheEntry} (h : Steady .memory a d) : Steady .memory a (d.setCache isl p c) := h.mk

theorem Steady.cacheLookup {isl p t : Nat} {key : List Byte} {x : Word × Dev} (h : Steady .memory a d) (hx : d.cacheLookup isl p t key = some x) : Steady .memory a x.2 := by
  unfold Dev.cacheLookup at hx
  split at hx
  · exact Option.some.inj hx ▸ h.setCache
  · cases hx

theorem Steady.cacheFill {isl p t : Nat} {key : List Byte} {r : Word} (h : Steady .memory a d) : Steady .memory a (d.cacheFill isl p t key r) := h.setCache

theorem Steady.exactFast {isl p t : Nat} {key : List Byte} {x : Option Word × Dev} (h : Steady .memory a d) (hx : d.exactFast isl p t key = some x) : Steady .memory a x.2 := by
  unfold Dev.exactFast at hx
  split at hx
  · exact Option.some.inj hx ▸ h
  · obtain ⟨y, hy, rfl⟩ := Option.map_eq_some_iff.mp hx
    exact h.cacheLookup hy

theorem Steady.exactSlow {isl p t : Nat} {key : List Byte} (h : Steady .memory a d) : Steady .memory a (d.exactSlow isl p t key).2 := by
  unfold Dev.exactSlow
  split
  · exact h.cacheFill
  · exact h

theorem Steady.setOffCtx {e i : Nat} {c : OffCtx} (h : Steady .memory a d) : Steady .memory a (d.setOffCtx e i c) := h.mk

theorem Steady.placePdu {p : Nat} {c : OffCtx} {pdu : List Byte} {r : OffRes} (h : Steady .memory a d) : Steady .memory a (d.placePdu p c pdu r).1 := by
  unfold Dev.placePdu
  dsimp only
  split
  · exact h
  split
  · exact h
  split
  · exact h
  split
  · exact h.write
  · exact h

theorem Steady.nvtPdu {p : Nat} {c : OffCtx} {pdu : List Byte} {r : OffRes} (h : Steady .memory a d) : Steady .memory a (d.nvtPdu p c pdu r).1 := h.placePdu

theorem Steady.nvtPdus {p n : Nat} {c : OffCtx} {r : OffRes} (h : Steady .memory a d) : Steady .memory a (d.nvtPdus p c r n).1 := by
  induction n generalizing d c r with
  | zero => exact h
  | succ n ih =>
    unfold Dev.nvtPdus
    dsimp only
    split
    · exact h
    · exact ih h.nvtPdu

theorem Steady.nvtSegment {p : Nat} {c : OffCtx} {seq : Nat} {payload : List Byte} (h : Steady .memory a d) : Steady .memory a (d.nvtSegment p c seq payload).1 := by
  unfold Dev.nvtSegment
  dsimp only
  split
  · split
    · exact h.nvtPdus
    · exact h
  split
  · exact h.nvtPdus
  split
  · split
    · exact h
    · exact h.nvtPdus
  · exact h

theorem Steady.rocePacket {p : Nat} {c : OffCtx} {bth payloadAll : List Byte} (h : Steady .memory a d) : Steady .memory a (d.rocePacket p c bth payloadAll).1 := by
  unfold Dev.rocePacket
  dsimp only
  split
  · exact h
  split
  · exact h
  split
  · exact h
  split
  · exact h.write
  · exact h

theorem Steady.offload {f : Nat} {res : Word} (h : Steady .memory a d) : Steady .memory a (d.offload f res) := by
  unfold Dev.offload
  split
  · exact h
  extract_lets i e' c r out
  have ho : ∀ y, out = some y → Steady .memory a y.1 := by
    intro y hy
    unfold out at hy
    split at hy
    · exact Option.some.inj hy ▸ h.nvtSegment
    · exact Option.some.inj hy ▸ h.rocePacket
    · cases hy
  clear_value out
  split
  · exact h
  split
  · exact h
  · exact (ho _ rfl).setOffCtx.updFrame.countBy.countBy.countBy.countBy

theorem Steady.fragStat {m : Nat} (h : Steady .memory a d) : Steady .memory a (d.fragStat m) := h.setRf.setRf

theorem Steady.takeFragDecision {f : Nat} {x : Frame} {e : FragEntry} (h : Steady .memory a d) : Steady .memory a (d.takeFragDecision f x e) := by
  unfold Dev.takeFragDecision
  dsimp only
  split
  · exact h
  · exact .ite h.setFrame.ingressPolice ((Steady.ite h.setFrame.ingressPolice.mk h.setFrame.ingressPolice).mk)

theorem Steady.chargeHold {f p : Nat} {o : Option Dev} (h : Steady .memory a d) (he : d.chargeHold f p = (o, e)) : Steady .memory a (o.getD e) := by
  unfold Dev.chargeHold at he
  split at he
  · cases he; exact h
  dsimp only at he
  split at he
  · cases he; exact h.incRf.count.mk.moveClassUse
  split at he
  · cases he; exact h.count.mk.moveClassUse
  · cases he; exact h.mk.setFrame.count

theorem Steady.recordFragDecision {x : Frame} {a' : Nat} (h : Steady .memory a d) : Steady .memory a (d.recordFragDecision x a') := by
  unfold Dev.recordFragDecision
  split
  · exact h
  refine .ite h (Steady.fragStat (Steady.foldl h.mk.mk fun d f => ?_))
  split
  · next hc =>
    split
    · exact (Steady.refl.chargeHold hc).takeFragDecision
    · exact Steady.refl.chargeHold hc
  · next hc => exact Steady.refl.chargeHold hc

theorem Steady.decide_ {f a' : Nat} (h : Steady .memory a d) : Steady .memory a (d.decide_ f a') := by
  unfold Dev.decide_
  split
  · exact h
  · exact h.count.recordFragDecision.applyAction

theorem Steady.flowDecide {f : Nat} {res : Option Word} (h : Steady .memory a d) : Steady .memory a (d.flowDecide f res) := by
  unfold Dev.flowDecide
  dsimp only
  split
  · exact h
  · split
    · exact .ite h.setFrame.count.offload.decide_ h.decide_
    · exact h.decide_

theorem Steady.classify {f : Nat} (h : Steady .memory a d) : Steady .memory a (d.classify f) := by
  unfold Dev.classify
  split
  · exact h
  split
  · exact h
  extract_lets _ d1 t hit d2 d3 ft key d4
  clear_value hit
  have h1 : Steady .memory a d1 := h.mk
  have h2 : Steady .memory a d2 := by
    unfold d2
    split
    · exact h1.setRule.setFrame
    · exact h1
  clear_value d1 d2
  split
  · exact h1.incRf.count.dropFrame
  split
  · exact h1.decide_
  split
  · exact h2.decide_
  have h3 : Steady .memory a d3 := by
    unfold d3
    split
    · exact .ite h2.actCopies h2
    · exact h2
  clear_value d3
  split
  · exact h3.flowDecide
  split
  · next hx => exact (h3.exactFast hx).flowDecide
  · exact h3.count.updFrame.mk

theorem OutOk.classify {f : Nat} : OutOk s (execClassify f s) := .event fun h => h.classify

theorem Steady.flowReturn {f : Nat} (h : Steady .memory a d) : Steady .memory a (d.flowReturn f) := by
  unfold Dev.flowReturn
  dsimp only
  split
  · exact h
  · refine .ite ?_ ?_
    · exact h
    · split
      · exact h.mk.exactSlow.flowDecide
      · exact h.mk.raiseDecode.flowDecide
      · exact h.mk.flowDecide

theorem OutOk.flowMissReturn {f : Nat} : OutOk s (execFlowMissReturn f s) := .event fun h => h.flowReturn

theorem OutOk.clsMissTo {f : Nat} : OutOk s (execClsMissTo f s) := by
  refine .event fun h => ?_
  dsimp only
  split
  · exact h
  · exact .ite h.mk.count.raiseFree.flowDecide h

theorem OutOk.fragHoldExpired {f : Nat} : OutOk s (execFragHoldExpired f s) := by
  refine .event fun h => ?_
  dsimp only
  split
  · exact h
  · exact .ite h.mk.moveClassUse.count.fragStat h

theorem OutOk.fragEntryFree {m : Fin 2} {k : Nat} : OutOk s (execFragEntryFree m k s) := by
  refine .event fun h => ?_
  split
  · exact h
  · exact .ite h.mk.fragStat h

theorem OutOk.pktGet {i : Issue} {rd : BitVec 5} : OutOk s (execPktGet i rd s) := by
  refine .issue fun _ h => ?_
  split
  · trivial
  split
  · trivial
  split
  · split
    · trivial
    · exact Steady.setThread h
  split
  · exact Steady.foldl h.updThread fun _ _ => Steady.refl.recordInput
  split
  · exact Steady.updThread h
  · refine Steady.count (Steady.foldl (Steady.recordInput (Steady.recordInput ?_)) fun _ _ => Steady.refl.recordInput)
    split
    · exact h.updThread.setEvent
    · exact h.updThread

theorem OutOk.pktSend {i : Issue} {ra rb : BitVec 5} : OutOk s (execPktSend i ra rb s) := by
  refine .issue fun _ h => ?_
  dsimp only
  refine .ite ?_ ?_
  · exact trivial
  · split
    · exact trivial
    · exact .ite h.updThread h.updThread.setFrame.completeFrame.count

theorem OutOk.pktDrop {i : Issue} {ra : BitVec 5} : OutOk s (execPktDrop i ra s) := by
  refine .issue fun _ h => ?_
  dsimp only
  refine .ite ?_ ?_
  · exact trivial
  · split
    · exact trivial
    · exact .ite h.updThread h.updThread.count.freeEntry.dropFrame

theorem OutOk.wst {i : Issue} {w : BitVec 4} {ra : BitVec 5} : OutOk s (execWst i w ra s) := .issue fun _ h => .ite trivial (.ite trivial h.updThread)

theorem OutOk.lkx {i : Issue} {rd ra : BitVec 5} {table : BitVec 8} : OutOk s (execLkx i rd ra table s) := by
  refine .issue fun _ h => ?_
  split
  · trivial
  dsimp only
  split
  · trivial
  split
  · trivial
  split
  · trivial
  split
  · exact Steady.sendOp h
  split
  · next hx => exact Steady.sendOp (h.exactFast hx)
  · exact Steady.sendOp h.count

theorem OutOk.lkw {i : Issue} {rd ra : BitVec 5} {table : BitVec 8} : OutOk s (execLkw i rd ra table s) := by
  refine .issue fun _ h => ?_
  dsimp only
  split
  · exact trivial
  · exact .ite trivial h.sendOp

theorem OutOk.crc32c {i : Issue} {sz : BitVec 2} {rd ra rb : BitVec 5} : OutOk s (execCrc32c i sz rd ra rb s) := .aluReg

theorem OutOk.crc64 {i : Issue} {sz : BitVec 2} {rd ra rb : BitVec 5} : OutOk s (execCrc64 i sz rd ra rb s) := .aluReg

theorem OutOk.hash {i : Issue} {rd ra rb : BitVec 5} : OutOk s (execHash i rd ra rb s) := by
  refine .issue fun _ h => ?_
  split
  · exact trivial
  · exact h.updThread

theorem Steady.atTarget {p tid ea size : Nat} {sp : BitVec 2} {act : Nat → Dev → Word × Dev} {v : Word} (h : Steady .memory a (act (physAddr d tid sp ea) d).2)
    (hr : d.atTarget p tid sp ea size act = .value v e) : Steady .memory a e := by
  unfold Dev.atTarget at hr
  dsimp only at hr
  split at hr
  · cases hr; exact h
  all_goals cases hr

theorem Steady.hostLoad {p tid ea size : Nat} {o : OutOp} {fwd : Tab Byte} {reply : Reply} {v : Word} (h : Steady .memory a d)
    (hr : d.hostLoad p tid o ea size fwd reply = .value v e) : Steady .memory a e := by
  unfold Dev.hostLoad at hr
  dsimp only at hr
  split at hr
  · cases hr
  split at hr
  · cases hr
  split at hr
  · cases hr; exact h.endOp
  all_goals cases hr

theorem Steady.reach {p tid : Nat} {o : OutOp} {reply : Reply} {v : Word} (h : Steady .memory a d) (hr : d.reach p tid o reply = .value v e) : Steady .memory a e := by
  unfold Dev.reach at hr
  split at hr
  · cases hr; exact h
  split at hr
  · split at hr
    · exact h.hostLoad hr
    · exact h.atTarget hr
  · exact h.flush.atomic.atTarget hr
  · exact h.flush.atomic.atTarget hr
  · exact h.flush.atomic.atTarget hr
  · split at hr
    · cases hr; exact h.exactSlow
    all_goals cases hr
  · cases hr; exact h
  · cases hr

theorem Steady.resultReturn {tid k' : Nat} {reply : Reply} (h : Steady .memory a d) : Steady .memory a (d.resultReturn tid k' reply) := by
  unfold Dev.resultReturn
  split
  · split
    · split
      · exact h.setThread
      · exact h
    · split
      · next hr => exact .ite (h.reach hr).updThread.recordInput (h.reach hr).updThread
      · exact h.updThread.endOp.lateExc
      · exact h
  · exact h

theorem OutOk.memResultReturn {tid : Fin 576} {k : Nat} {reply : Reply} : OutOk s (execMemResultReturn tid k reply s) := .eventOn fun h => h.resultReturn

theorem OutOk.memTimeout {tid : Fin 576} {k : Nat} : OutOk s (execMemTimeout tid k s) := by
  refine .eventOn fun h => ?_
  split
  · exact h
  · split
    · exact h
    · exact .ite h h.updThread.count.count.lateExc

end Sys2Proof.Machine
end

section
/-! PROOFS. Memory stays canonical: DMA channels, rings, mailboxes and the taking of commands by firmware. One rule for each operation that the chains of `Steady` do not have yet, written as the operation is, and one for each command. -/

namespace Sys2Proof.Machine
open Sys2Proof

/- Many short rules follow: elaborated one after another they need few threads at a time. -/
set_option Elab.async false

variable {a b d e : Dev} {s : State}

theorem Steady.creditTick (h : Steady .memory a d) : Steady .memory a d.creditTick := h.foldl fun _ _ => Steady.refl.foldl fun _ _ => .ite Steady.refl Steady.refl.setReg

theorem Steady.charge {cr bal : Reg} {rate isl p amount : Nat} (h : Steady .memory a d) : Steady .memory a (d.charge cr bal rate isl p amount) :=
  .ite h (h.setBalance notWatched)

theorem Steady.claimAnswer {tid ch : Nat} {v : Word} (h : Steady .memory a d) : Steady .memory a (d.claimAnswer tid ch v) := h.answer.updThread

theorem Steady.claimArbitrate {ch : Nat} {who : List Nat} (h : Steady .memory a d) : Steady .memory a (d.claimArbitrate ch who) := by
  unfold Dev.claimArbitrate
  dsimp only
  refine .ite ?_ ?_
  · exact h.foldl fun _ _ => Steady.refl.claimAnswer.count
  · split
    · exact h.foldl fun _ _ => Steady.refl.claimAnswer.count
    · exact h.setChan.setRb.claimAnswer.foldl fun _ _ => Steady.refl.claimAnswer.count

theorem OutOk.claimArbitrate {ch : Fin 1024} {who : List (Fin 576)} : OutOk s (execClaimArbitrate ch who s) := .event fun h => h.claimArbitrate

theorem OutOk.dclaim {i : Issue} {rd ra : BitVec 5} : OutOk s (execDclaim i rd ra s) := .issue fun _ h => .ite trivial h.sendOp.updThread

theorem OutOk.dwr {i : Issue} {idx : BitVec 4} {ra rb : BitVec 5} : OutOk s (execDwr i idx ra rb s) := .issue fun _ h => h.updThread

theorem Steady.commitSet {tid ch : Nat} {sh : Tab Word} (h : Steady .memory a d) : Steady .memory a (d.commitSet tid ch sh) := h.unclaim.setChan.setRb

theorem OutOk.dstart {i : Issue} {rd ra : BitVec 5} : OutOk s (execDstart i rd ra s) := by
  refine .issue fun _ h => ?_
  dsimp only
  split
  · exact h.updThread
  · split
    · exact trivial
    · exact .ite trivial ((Steady.ite h h.commitSet).updThread)

theorem OutOk.drel {i : Issue} {ra : BitVec 5} : OutOk s (execDrel i ra s) := by
  refine .issue fun _ h => ?_
  dsimp only
  split
  · exact h
  · exact .ite ((Steady.ite h h.unclaim).updThread) h.updThread

theorem OutOk.dpoll {i : Issue} {rd ra : BitVec 5} : OutOk s (execDpoll i rd ra s) := .issue fun _ h => .ite trivial h.sendOp

theorem OutOk.claimExpired {tid : Fin 576} {ch : Fin 1024} : OutOk s (execClaimExpired tid ch s) := by
  refine .event fun h => ?_
  dsimp only
  split
  · exact h
  · exact .ite (.ite h.updThread h.updThread.unclaim.raise) h

theorem Steady.handover {ch : Nat} (h : Steady .memory a d) : Steady .memory a (d.handover ch) := by
  unfold Dev.handover
  split
  · split
    · exact h
    extract_lets d1 x _ d2 d3 d4
    have h1 : Steady .memory a d1 := h.foldl fun _ _ => by
      split
      · exact Steady.refl.setReg
      · exact Steady.refl
    have h2 : Steady .memory a d2 := h1.setChan
    have h4 : Steady .memory a d4 := h2.setRb.setRb.setRb.setRf.setRf
    exact .ite h4.endXfer h4
  · exact h

theorem Steady.sendBurst {ch p isl : Nat} {x : Xfer} {b : Burst} {borrowed : Bool} (h : Steady .memory a d) : Steady .memory a (d.sendBurst ch p isl x b borrowed) :=
  .ite h.setChan.mk.charge.stageStat.count.count h.setChan.mk.charge.stageStat.count

theorem Steady.issueBurst {ch p : Nat} {borrowed : Bool} (h : Steady .memory a d) : Steady .memory a (d.issueBurst ch p borrowed) := by
  unfold Dev.issueBurst
  dsimp only
  split
  · exact h
  · split
    · exact .ite h.failXfer h.sendBurst
    · exact .ite h.failXfer (.ite h.failXfer h.sendBurst.hostRead)

theorem OutOk.burstReadIssue {e : Fin 4} : OutOk s (execBurstReadIssue e s) := by
  refine .event fun h => ?_
  split
  · exact h.issueBurst
  · exact h

theorem Steady.xferFault {ch p addr : Nat} {st : Byte} (h : Steady .memory a d) : Steady .memory a (d.xferFault ch p addr st) := (Steady.ite h.raiseDecode h).failXfer

theorem Steady.xferWrite {ch p addr : Nat} {bs : List Byte} (h : Steady .memory a d) (hw : d.xferWrite ch p addr bs = .ok e) : Steady .memory a e := by
  unfold Dev.xferWrite at hw
  split at hw
  · split at hw
    · cases hw
    · exact Except.ok.inj hw ▸ h.writeDup
  · split at hw
    · cases hw
    · split at hw
      · exact Except.ok.inj hw ▸ h.hostWrite
      · cases hw

theorem Steady.readbackIssue {ch p : Nat} (h : Steady .memory a d) : Steady .memory a (d.readbackIssue ch p) := by
  unfold Dev.readbackIssue
  dsimp only
  split
  · exact .ite h.failXfer (.ite h (.ite h.hostRead h.hostRead))
  · exact h

theorem Steady.finishMove {ch p : Nat} {x : Xfer} (h : Steady .memory a d) : Steady .memory a (d.finishMove ch p x) := by
  unfold Dev.finishMove
  extract_lets chk d1 stored addr sum
  have h1 : Steady .memory a d1 := .ite h h.setReg
  clear_value d1
  split
  · exact h1.xferFault
  · next d2 hw =>
    have h2 : Steady .memory a d2 := by
      split at hw
      · exact h1.xferWrite hw
      · exact Except.ok.inj hw ▸ h1
    exact .ite h2.setChan.count h2.setChan.count.readbackIssue

theorem Steady.burstArrives {ch : Nat} (h : Steady .memory a d) : Steady .memory a (d.burstArrives ch) := by
  unfold Dev.burstArrives
  dsimp only
  split
  · split
    · split
      · exact h
      · exact h.endOp.xferFault
      · split
        · exact h.endOp.xferFault
        · next hw =>
            exact .ite (((((((((h.endOp.xferWrite hw).setChan).stageStat).setRf).charge).count).countBy).countBy).finishMove) ((((((((h.endOp.xferWrite hw).setChan).stageStat).setRf).charge).count).countBy).countBy)
    · exact h
  · exact h

theorem OutOk.burstReadData {ch : Fin 1024} : OutOk s (execBurstReadData ch s) := .event fun h => h.burstArrives

theorem Steady.readbackReturn {ch : Nat} (h : Steady .memory a d) : Steady .memory a (d.readbackReturn ch) := by
  unfold Dev.readbackReturn
  split
  · exact h
  split
  · exact h
  split
  · exact .ite h.endXfer h.endXfer
  split
  · split
    · split
      · exact h.readbackIssue
      · exact h
    · exact h
  all_goals exact h.endOp.endXfer

theorem OutOk.readbackReturn {ch : Fin 1024} : OutOk s (execReadbackReturn ch s) := .event fun h => h.readbackReturn

theorem OutOk.transferError {ch : Fin 1024} : OutOk s (execTransferError ch s) := by
  refine .event fun h => ?_
  split
  · split
    · split
      · split
        · exact h.endOp.xferFault
        · exact h
      · exact h
    · refine .ite ?_ ?_
      · exact .ite h.endXfer h
      · split
        · exact h.readbackReturn
        · exact h.readbackReturn
        · exact h.readbackReturn
        · exact h
    · exact h
  · exact h

theorem OutOk.dmaModeApply {e : Fin 4} : OutOk s (execDmaModeApply e s) := by
  refine .event fun h => ?_
  dsimp only
  split
  · exact h
  · exact .ite h h.mk.setReg.setRb

theorem Steady.setActive {k' : Nat} {l : List Nat} (h : Steady .memory a d) : Steady .memory a (d.setActive k' l) := h.mk

theorem Steady.denyWrite {who : Who} (h : Steady .memory a d) : Steady .memory a (d.denyWrite who) := by
  unfold Dev.denyWrite
  split
  · exact h.aer
  · exact h

theorem Steady.denyRead {who : Who} (h : Steady .memory a d) : Steady .memory a (d.denyRead who) := by
  unfold Dev.denyRead
  split
  · exact h.aer.emit.count
  · exact h

theorem Steady.fetchIssue {n s : Nat} {poll : Bool} (h : Steady .memory a d) : Steady .memory a (d.fetchIssue n s poll) :=
  (Steady.ite h.setSq.count.count h.setSq.count).hostRead

theorem Steady.ringPoll {n : Nat} (h : Steady .memory a d) : Steady .memory a (d.ringPoll n) := by
  unfold Dev.ringPoll
  dsimp only
  split
  · exact h
  · exact .ite (.ite h.setRb.setSq h.setRb) (.ite h.setRb (.ite h.setRb (.ite ((Steady.ite h.setRb.setSq h.setRb).fetchIssue) (.ite h.setRb ((Steady.ite (((Steady.ite h.setRb.incRf.count h.setRb).mk).setSq) ((Steady.ite h.setRb.incRf.count h.setRb).mk)).fetchIssue)))))

theorem OutOk.ringPoll {n : Fin 16384} : OutOk s (execRingPoll n s) := .event fun h => h.ringPoll

theorem OutOk.ringSqDb {who : Who} {n : Fin 16384} : OutOk s (execRingSqDb who n s) := .event fun h => .ite h.denyWrite h.setSq.count

theorem Steady.haltSlice {n s : Nat} {e : List Byte} {why : Nat} (h : Steady .memory a d) : Steady .memory a (d.haltSlice n s e why) :=
  (h.post.setSliceState.setRb.setRf.setRf.setRf.count.foldl fun _ _ => Steady.refl.setRb).raisePart

theorem Steady.copyFeed {n s : Nat} (h : Steady .memory a d) : Steady .memory a (d.copyFeed n s) := by
  unfold Dev.copyFeed
  dsimp only
  split
  · exact h.setSq.setChan.setRb
  · exact h

theorem OutOk.handover {ch : Fin 1024} : OutOk s (execHandover ch s) := by
  refine .event fun h => ?_
  dsimp only
  split
  · exact .ite h.handover.copyFeed h.handover
  · exact h.handover

theorem Steady.sqAdvance {n : Nat} (h : Steady .memory a d) : Steady .memory a (d.sqAdvance n) := .ite h.setRf.setRf.setRf h.setRf

theorem Steady.consumerWord {n s : Nat} (h : Steady .memory a d) : Steady .memory a (d.consumerWord n s) := .ite h h.sliceWrite

theorem Steady.acceptEntries {n s k : Nat} {es : List (List Byte)} (h : Steady .memory a d) : Steady .memory a (d.acceptEntries n s es k).1 := by
  induction es generalizing d k with
  | nil => exact h
  | cons e es ih =>
    unfold Dev.acceptEntries
    split
    · exact h
    split
    · exact h.haltSlice
    · exact ih h.setSq.sqAdvance

theorem Steady.fetchData {n s count : Nat} {bs : List Byte} (h : Steady .memory a d) : Steady .memory a (d.fetchData n s count bs) := by
  unfold Dev.fetchData
  extract_lets isl es
  have h1 := h.acceptEntries (n := n) (s := s) (k := 0) (es := es)
  split
  next d1 k' bad he =>
  rw [he] at h1
  extract_lets d2 d3 _ d4
  have h2 : Steady .memory a d2 := Steady.countBy (Steady.countBy h1)
  have h3 : Steady .memory a d3 := .ite h2 h2.consumerWord
  have h4 : Steady .memory a d4 := .ite h3.setSq h3
  exact .ite h4.copyFeed h4

theorem Steady.fetchFail {n s : Nat} (h : Steady .memory a d) : Steady .memory a (d.fetchFail n s) := h.setRb.setRb.raiseFree

theorem Steady.fetchReturn {n : Nat} (h : Steady .memory a d) : Steady .memory a (d.fetchReturn n) := by
  unfold Dev.fetchReturn
  dsimp only
  split
  · refine .ite ?_ ?_
    · exact h.endOp.setSq
    · split
      · exact h.endOp.setSq.fetchData
      · exact h.endOp.setSq.fetchData.fetchFail
      · exact h.endOp.setSq.fetchFail
  · exact h

theorem OutOk.fetchReturn {n : Fin 16384} : OutOk s (execFetchReturn n s) := .event fun h => h.fetchReturn

theorem Steady.rxNoBuf {q f : Nat} (h : Steady .memory a d) : Steady .memory a (d.rxNoBuf q f) := h.count.dropFrame

theorem Steady.rxDeliver {f : Nat} (h : Steady .memory a d) : Steady .memory a (d.rxDeliver f) := by
  unfold Dev.rxDeliver
  dsimp only
  split
  · exact h
  · refine .ite ?_ ?_
    · exact h
    · split
      · exact h.mk.rxNoBuf
      · refine .ite ?_ ?_
        · exact h.mk.incRf.count.dropFrame
        · refine .ite ?_ ?_
          · exact h.mk.rxNoBuf
          · split
            · exact h.mk.rxNoBuf
            · exact .ite (((Steady.ite h.mk.setSq.sliceWrite h.mk.setSq).sliceWrite).dropFrame) ((((Steady.ite h.mk.setSq.sliceWrite h.mk.setSq).sliceWrite).dropFrame).post)

theorem OutOk.rxDeliver {f : Nat} : OutOk s (execRxDeliver f s) := .event fun h => h.rxDeliver

theorem Steady.txEntryEnd {n : Nat} {e : List Byte} {st : Byte} (h : Steady .memory a d) : Steady .memory a (d.txEntryEnd n e st) := h.txComplete

theorem Steady.txFrameRead {n : Nat} (h : Steady .memory a d) : Steady .memory a (d.txFrameRead n) := by
  unfold Dev.txFrameRead
  split
  · split
    · exact h
    dsimp only
    split
    · exact h.endOp.setSq.newFrame.mk
    all_goals exact h.endOp.setSq.txEntryEnd
  · split
    · exact h
    · exact .ite h h.setSq.hostRead
  · exact h

theorem OutOk.txFrameRead {n : Fin 16384} : OutOk s (execTxFrameRead n s) := .event fun h => h.txFrameRead

theorem Steady.inboxDeliver {n : Nat} (h : Steady .memory a d) : Steady .memory a (d.inboxDeliver n) := by
  unfold Dev.inboxDeliver
  dsimp only
  split
  · refine .ite ?_ ?_
    · exact h
    · split
      · exact h.raiseDecode
      · exact h
      · exact .ite h (.ite h h.setSq.write.write.route)
  · exact h

theorem OutOk.inboxDeliver {n : Fin 16384} : OutOk s (execInboxDeliver n s) := .event fun h => h.inboxDeliver

theorem OutOk.ringCqHead {who : Who} {n : Fin 16384} {v : W32} : OutOk s (execRingCqHead who n v s) := .event fun h => .ite h.denyWrite h.setRf.setCq.cqDrain.drainChannels

theorem Steady.sqCfgWrite {n v : Nat} (h : Steady .memory a d) : Steady .memory a (d.sqCfgWrite n v) :=
  .ite (.ite h h.setRb) (.ite h.setReg.setRf.setRf.discardOps.setSq h.setReg.setRf)

theorem OutOk.ringSqCfgWrite {who : Who} {n : Fin 16384} {v : W32} : OutOk s (execRingSqCfgWrite who n v s) := .event fun h => .ite h.sqCfgWrite h.denyWrite

theorem Steady.cqCfgWrite {n v : Nat} (h : Steady .memory a d) : Steady .memory a (d.cqCfgWrite n v) :=
  .ite (.ite h h.setRb) (.ite h.setReg.setRf.setRf.setCq.cqDrain.drainChannels h.setReg)

theorem OutOk.ringCqCfgWrite {who : Who} {n : Fin 16384} {v : W32} : OutOk s (execRingCqCfgWrite who n v s) := .event fun h => .ite h.cqCfgWrite h.denyWrite

theorem Steady.prefetch {n : Nat} (h : Steady .memory a d) : Steady .memory a (d.prefetch n) := h.setSq

theorem Steady.ringBits {m v : Nat} (h : Steady .memory a d) : Steady .memory a (d.ringBits m v) := h.foldl fun _ _ => .ite Steady.refl.ringBit Steady.refl

theorem Steady.clearPend {m bits v : Nat} (h : Steady .memory a d) : Steady .memory a (d.clearPend m bits v) := h.setReg

theorem Steady.writeMask {m bits v : Nat} (h : Steady .memory a d) : Steady .memory a (d.writeMask m bits v) :=
  h.setReg.foldl fun _ _ => .ite Steady.refl.sendRoute Steady.refl

theorem Steady.mbxSend {m : Nat} (h : Steady .memory a d) : Steady .memory a (d.mbxSend m) := h.mbxPost

theorem Steady.mbxRead {m : Nat} (h : Steady .memory a d) : Steady .memory a (d.mbxRead m).2 := by
  unfold Dev.mbxRead
  split
  · exact h.setRf.setRf.setRf.setRb.setRb.ringBit.faceShow
  · exact h.setReg.setReg.setReg

theorem Steady.fwHeaderErr {ptr : Word} (h : Steady .memory a d) : Steady .memory a (d.fwHeaderErr ptr) := h.raiseFree.fwPost

theorem Steady.fwTake (h : Steady .memory a d) : Steady .memory a d.fwTake := by
  unfold Dev.fwTake
  extract_lets x orphan d1
  have h1 : Steady .memory a d1 := h.mbxRead.setRb
  clear_value d1
  exact .ite h (.ite h1.mk.count (.ite h1.fwHeaderErr h1.mk))

theorem Steady.fwPostNow (h : Steady .memory a d) : Steady .memory a d.fwPostNow := by
  unfold Dev.fwPostNow
  split
  · exact h
  · exact h.mk.fwPost

theorem Steady.mbxDenied {who : Who} (h : Steady .memory a d) : Steady .memory a (d.mbxDenied who) := h.raiseFree

theorem Steady.sndWrite {who : Who} {m : Nat} {act : Dev → Dev} (h : Steady .memory a d) (hact : Steady .memory a (act d)) : Steady .memory a (d.sndWrite who m act) :=
  .ite h.mbxDenied.denyWrite (.ite h.denyWrite hact)

theorem Steady.sideWrite {who : Who} {m : Nat} {act : Nat → Dev → Dev} (h : Steady .memory a d) (hact : ∀ n, Steady .memory a (act n d)) :
    Steady .memory a (d.sideWrite who m act) :=
  .ite h.mbxDenied.denyWrite (.ite h.denyWrite (hact _).faceShow)

theorem OutOk.mbxSend {who : Who} {m : Fin 8192} : OutOk s (execMbxSend who m s) := .eventOn fun h => h.sndWrite h.mbxSend

theorem Steady.rxPtrRead {who : Who} {m : Nat} (h : Steady .memory a d) : Steady .memory a (d.rxPtrRead who m).2 := by
  unfold Dev.rxPtrRead
  split
  · exact h.mbxDenied.denyRead
  · exact .ite h.mbxRead.fwPostNow h.mbxRead

theorem OutOk.mbxRxPtr0Read {who : Who} {m : Fin 8192} : OutOk s (execMbxRxPtr0Read who m s) := by
  refine .eventOn fun h => ?_
  split
  · next hw =>
      exact (Steady.of_eq (congrArg Prod.snd hw) h.rxPtrRead).emit
  · next hw2 =>
      exact Steady.of_eq (congrArg Prod.snd hw2) h.rxPtrRead

theorem OutOk.mbxDbRing {who : Who} {m : Fin 8192} {v : W32} : OutOk s (execMbxDbRing who m v s) :=
  .eventOn fun h => h.sndWrite (.ite h.ringBits.faceShow.fwTake h.ringBits.faceShow)

theorem OutOk.mbxDbPend {who : Who} {m : Fin 8192} {v : W32} : OutOk s (execMbxDbPend who m v s) := .eventOn fun h => h.sideWrite fun _ => h.clearPend

theorem OutOk.mbxDbMask {who : Who} {m : Fin 8192} {v : W32} : OutOk s (execMbxDbMask who m v s) := .eventOn fun h => h.sideWrite fun _ => h.writeMask

theorem OutOk.mbxStatWrite {who : Who} {m : Fin 8192} {v : W32} : OutOk s (execMbxStatWrite who m v s) :=
  .eventOn fun h => h.sndWrite (Steady.faceShow (.ite (Steady.setRb (.ite h.setRb h)) (.ite h.setRb h)))

theorem Steady.faceAct {m a' off v : Nat} (h : Steady .memory a d) : Steady .memory a (d.faceAct m a' off v) := by
  unfold Dev.faceAct
  dsimp only
  split
  · exact .ite h.setRf.setRf h
  · exact .ite h.setRf h
  · exact .ite (Steady.faceShow (Steady.write (.ite h h.mbxSend))) h
  · exact .ite h.mbxRead h
  · exact .ite (Steady.faceShow (Steady.write (.ite h h.ringBits))) h
  · exact h.clearPend.faceShow
  · exact h.writeMask.faceShow
  · exact h

theorem OutOk.faceStore {m : Fin 8192} {off : Nat} {v : Word} : OutOk s (execFaceStore m off v s) := by
  refine .event fun h => ?_
  split
  · exact .ite h.write.faceAct h
  · exact h

theorem Steady.dropMbx {m : Nat} (h : Steady .memory a d) : Steady .memory a (d.dropMbx m) :=
  ((h.foldl fun _ _ => Steady.refl.resetReg).foldl fun _ _ => Steady.refl.resetReg).setMbx

theorem Steady.fwFinishAt {opcode n : Nat} {a' : FwAns} (h : Steady .memory a d) : Steady .memory a (d.fwFinishAt opcode n a') := by
  unfold Dev.fwFinishAt
  split
  · exact .ite h.fwFinish h
  · exact h

/-- What firmware must do for a command, whatever the payload. -/
def FwKeeps (f : List Byte → CmdHdr → Dev → FwRes) : Prop := ∀ {a : Dev} {p h d}, Steady .memory a d → FwOk a (f p h d)

theorem FwOk.settle {r : FwRes} {h : CmdHdr} (hd : Steady .memory a d) (hr : FwOk a r) : FwOk a (fwSettle h d r) := by
  cases r with
  | answer x e => exact .ite hd hr
  | hold e => exact hr

theorem Steady.fwRun {opcode : Nat} {noPayload : Bool} {f : List Byte → CmdHdr → Dev → FwRes} {hdr : CmdHdr} (h : Steady .memory a d) (hf : FwKeeps f) :
    Steady .memory a (d.fwRun opcode noPayload f hdr) := by
  unfold Dev.fwRun
  split
  · exact h
  split
  · exact h
  extract_lets _ d1 p own _ d2
  have h1 : Steady .memory a d1 := h.mk
  have h2 : Steady .memory a d2 := h1.mk
  clear_value d1 d2
  split
  · exact h1.fwHeaderErr
  split
  · exact h1.fwRespond
  split
  · have hr := FwOk.settle (h := hdr) h1 (hf h1 : FwOk a (f p hdr d1))
    split
    · next he => rw [he] at hr; exact Steady.fwRespond hr
    · next he => rw [he] at hr; exact Steady.mk hr
  split
  · exact h1.fwRespond
  · have hr := FwOk.settle (h := hdr) h2 (hf h2 : FwOk a (f p hdr d2))
    split
    · next he => rw [he] at hr; exact Steady.fwEnd hr
    · next he => rw [he] at hr; exact Steady.mk hr

theorem OutOk.wenot {opcode : Nat} {noPayload : Bool} {f : List Byte → CmdHdr → Dev → FwRes} {h : CmdHdr} (hf : FwKeeps f) : OutOk s (wenot opcode noPayload f h s) :=
  .event fun h => h.fwRun hf

theorem OutOk.firmwarePoll {h : CmdHdr} : OutOk s (execFirmwarePoll h s) := by
  refine .event fun h => ?_
  dsimp only
  split
  · exact .ite h.fwTake.mk.fwHeaderErr h.fwTake
  · exact h.fwTake

end Sys2Proof.Machine
end

section
/-! PROOFS. Memory stays canonical: keys, engine operations and transmit scheduling. One rule for each operation that the chains of `Steady` do not have yet, written as the operation is, and one for each command. -/

namespace Sys2Proof.Machine
open Sys2Proof

/- Many short rules follow: elaborated one after another they need few threads at a time. -/
set_option Elab.async false

variable {a b d e : Dev} {s : State}

theorem Steady.logSlot {n : Nat} (h : Steady .memory a d) : Steady .memory a (d.logSlot n) := .ite h.mk h

theorem Steady.retire {n : Nat} (h : Steady .memory a d) : Steady .memory a (d.retire n) := h.setSlot.retireStep

theorem Steady.dateCheck {n : Nat} (h : Steady .memory a d) : Steady .memory a (d.dateCheck n) :=
  .ite (((Steady.ite h.setSlot.raisePart h).setSlot).raisePart) (.ite h.setSlot.raisePart h)

theorem OutOk.keyDateCheck : OutOk s (execKeyDateCheck s) := .eventOn fun h => h.foldl fun _ _ => Steady.refl.dateCheck

theorem Steady.setInv {n v : Nat} (h : Steady .memory a d) : Steady .memory a (d.setInv n v) :=
  .ite (((Steady.ite h.setSlot.raiseFree h.setSlot).mk).setRf) (.ite h.setSlot.raiseFree h.setSlot)

theorem OutOk.ceilingWriteDone {slot : BitVec 16} : OutOk s (execCeilingWriteDone slot s) := by
  refine .eventOn fun h => ?_
  dsimp only
  split
  · exact h
  · exact h.mk.setSlot.logSlot.setRf

theorem Steady.countUse {n : Nat} (h : Steady .memory a d) : Steady .memory a (d.countUse n) := h.setSlot.mk

theorem OutOk.rngFail : OutOk s (execRngFail s) := .eventOn fun h => h.setRb.incRf.raiseFree

theorem OutOk.rngHealthPass : OutOk s (execRngHealthPass s) := .eventOn fun h => h.setRb

theorem Steady.logErase {p : List Byte} (h : Steady .memory a d) : Steady .memory a (d.logErase p).2 := by
  unfold Dev.logErase
  split
  · exact h.fresh
  · exact h

theorem Steady.keyCreate {n : Nat} {x : KeySlot} (h : Steady .memory a d) : FwOk a (d.keyCreate n x) := Steady.ite h.setSlot.logSlot.raiseFree h.setSlot.logSlot

theorem OutOk.keyImport {h : CmdHdr} : OutOk s (execKeyImport h s) := by
  refine .wenot fun h => .ite h ?_
  split
  · exact h
  split
  · exact h
  refine .ite h.logErase ?_
  split
  · refine .ite (Steady.keyCreate ?_) h.logErase
    split
    · exact h.logErase.countUse
    · exact h.logErase
  · exact h.logErase

theorem OutOk.keyGenerate {h : CmdHdr} : OutOk s (execKeyGenerate h s) := by
  refine .wenot fun h => ?_
  dsimp only
  refine .ite ?_ ?_
  · exact h
  · split
    · exact h
    · exact .ite h (.ite h.logErase h.logErase.random.keyCreate)

theorem OutOk.keyRetire {h : CmdHdr} : OutOk s (execKeyRetire h s) := .wenot fun h => .ite h (.ite h (.ite h.setSlot.mk h.setSlot.retireStep))

theorem OutOk.keyQuery {h : CmdHdr} : OutOk s (execKeyQuery h s) := .wenot fun h => .ite h (.ite h (.ite h (Steady.ite h.setSlot.logSlot h)))

theorem OutOk.submit {i : Issue} {rd ra : BitVec 5} {unit : BitVec 2} : OutOk s (execSubmit i rd ra unit s) := .issue fun _ h => .ite trivial (.ite trivial (.ite h.updThread (.ite trivial h.flush.count.updThread)))

theorem OutOk.accpoll {i : Issue} {rd ra : BitVec 5} : OutOk s (execAccpoll i rd ra s) := by
  refine .issue fun _ h => ?_
  dsimp only
  refine .ite ?_ ?_
  · split
    · exact trivial
    · exact h.setThread
  · split
    · exact h.updThread.recordInput
    · exact h.updThread.recordInput

theorem Steady.setOp {k' : Nat} {o : EngOp} (h : Steady .memory a d) : Steady .memory a (d.setOp k' o) := h.mk

theorem Steady.engDone {k' : Nat} {o : EngOp} {st : Byte} {units fail : Nat} (h : Steady .memory a d) : Steady .memory a (d.engDone k' o st units fail) := by
  unfold Dev.engDone
  extract_lets rcd
  split
  next st' d1 he =>
  have h1 : Steady .memory a d1 := by
    split at he
    · cases he; exact h
    split at he
    · next hw => cases he; exact h.engWrite hw
    · cases he; exact .ite h.raiseDecode h
  have h2 : ∀ {t}, Steady .memory a (((d1.dropOp k' o).updThread o.tid t).count (evE o.isl (if o.fix then 352 else 320))) := (Steady.dropOp h1).updThread.count
  refine Steady.retireAll (.ite (Steady.setEvent ?_) ?_)
  all_goals
    refine .ite (.ite h2.count.incRf h2) ?_
    split
    · exact h2.count.incRf
    · exact h2.count
    · exact h2.count
    · exact h2.count
    · exact h2

theorem Steady.engDeliver {tid n : Nat} {fix : Bool} (h : Steady .memory a d) : Steady .memory a (d.engDeliver tid fix n) := by
  induction n generalizing d with
  | zero => exact h
  | succ n ih =>
    unfold Dev.engDeliver
    split
    · split
      · exact ih h.engDone
      · exact h
    · exact h

theorem Steady.engNext {o : EngOp} (h : Steady .memory a d) : Steady .memory a (d.engNext o) := h.engDeliver

theorem Steady.engEnd {k' : Nat} {o : EngOp} {st : Byte} (h : Steady .memory a d) : Steady .memory a (d.engEnd k' o st) := h.setOp.engNext

theorem Steady.keyTouch {isl n : Nat} (h : Steady .memory a d) : Steady .memory a (d.keyTouch isl n) := .ite h.setKeyCache h.count.incRf

theorem OutOk.engineAccept {e : Fin 4} {fix : Bool} : OutOk s (execEngineAccept e fix s) := by
  refine .event fun h => ?_
  dsimp only
  split
  · exact h
  · split
    · exact h.updThread.mk.setOp.engStat.foldl fun _ _ => Steady.refl.keyTouch
    · exact h.updThread.mk.setOp.engStat.engEnd

theorem Steady.cacheKey {e n : Nat} (h : Steady .memory a d) : Steady .memory a (d.cacheKey e n) := by
  unfold Dev.cacheKey
  dsimp only
  refine .ite ?_ ?_
  · exact h.setKeyCache
  · split
    · exact h.setKeyCache
    · exact h

theorem OutOk.keyBusTransfer {e : Fin 4} {slot : BitVec 16} {ok : Bool} : OutOk s (execKeyBusTransfer e slot ok s) := .event fun h => .ite h (.ite h.useInjection.mk.cacheKey.count (.ite (h.useInjection.mk.raiseFree.count.foldl fun _ _ => Steady.refl.engEnd) h.useInjection.mk.incRf.setRf.raiseFree.count))

theorem Steady.fixityStart {o : EngOp} (h : Steady .memory a d) : Steady .memory a (d.fixityStart o).2 := by
  unfold Dev.fixityStart
  dsimp only
  split
  · exact h
  split
  · split
    · next hw => exact h.engWrite hw
    · exact h
  · split
    · exact h
    · exact h

theorem Steady.engStart {k' : Nat} {o : EngOp} (h : Steady .memory a d) : Steady .memory a (d.engStart k' o) := by
  unfold Dev.engStart
  dsimp only
  refine .ite ?_ ?_
  · split
    · next hw =>
        exact (Steady.of_eq (congrArg Prod.snd hw) h.fixityStart).setOp
    · next hw2 =>
        exact (Steady.of_eq (congrArg Prod.snd hw2) h.fixityStart).engEnd
  · refine .ite ?_ ?_
    · exact h.engEnd
    · refine .ite ?_ ?_
      · exact h
      · refine .ite ?_ ?_
        · exact h.engEnd
        · refine .ite ?_ ?_
          · exact h
          · split
            · exact ((Steady.ite h (h.foldl fun _ _ => Steady.refl.countUse)).setOp).addHold
            · exact (Steady.ite ((Steady.ite h (h.foldl fun _ _ => Steady.refl.countUse)).raiseDecode) (.ite h (h.foldl fun _ _ => Steady.refl.countUse))).engEnd

theorem OutOk.engineOpStart {op : Nat} : OutOk s (execEngineOpStart op s) := by
  refine .event fun h => ?_
  split
  · exact h
  · exact .ite h.engStart h

theorem Steady.draw {n v : Nat} (h : Steady .memory a d) (hw : d.draw n = .value v e) : Steady .memory a e := by
  unfold Dev.draw at hw
  dsimp only at hw
  split at hw
  · cases hw
  split at hw
  · cases hw
  · cases hw; exact h.setInv.count.mk

theorem Steady.opDraw {o : EngOp} {n i v : Nat} (h : Steady .memory a d) (hw : d.opDraw o n i = .value v e) : Steady .memory a e := by
  unfold Dev.opDraw at hw
  split at hw
  · split at hw
    · cases hw
    · split at hw
      · cases hw; exact h
      · cases hw
  split at hw
  · cases hw
  split at hw
  · next hv => cases hw; exact .ite (h.draw hv).mk (h.draw hv)
  · next hn => exact (hn _ _ hw).elim

/-- A unit of an operation on a device that is part of `σ` keeps its memory canonical. -/
def UnitOk {σ : Type} (dev : σ → Dev) (a : Dev) : UnitRes σ → Prop
  | .ok x | .stop _ _ x => Steady .memory a (dev x)
  | .waits => True

/-- What an operation ends with, if it ends. -/
def RunOk {σ : Type} (dev : σ → Dev) (a : Dev) : Option (EngEnd × σ) → Prop
  | some x => Steady .memory a (dev x.2)
  | none => True

theorem RunOk.ite {σ : Type} {dev : σ → Dev} {c : Prop} [Decidable c] {x y : Option (EngEnd × σ)} (hx : RunOk dev a x) (hy : RunOk dev a y) :
    RunOk dev a (if c then x else y) := by
  split
  · exact hx
  · exact hy

/-- Units that keep memory canonical do so one after another. -/
theorem RunOk.units {σ : Type} {dev : σ → Dev} {f : Nat → σ → UnitRes σ} (hf : ∀ i x, Steady .memory a (dev x) → UnitOk dev a (f i x)) {n i : Nat} {x : σ}
    (hx : Steady .memory a (dev x)) : RunOk dev a (runUnits f n i x) := by
  induction n generalizing i x with
  | zero => exact hx
  | succ n ih =>
    have h := hf i x hx
    unfold runUnits
    split
    · next hr => rw [hr] at h; exact ih h
    · next hr => rw [hr] at h; exact h
    · trivial

theorem UnitOk.xtsUnit {o : EngOp} {i : Nat} (h : Steady .memory a d) : UnitOk id a (Dev.xtsUnit o i d) := by
  unfold Dev.xtsUnit
  dsimp only
  split
  · exact h
  split
  · exact h
  · next hw => exact h.engWrite hw

theorem UnitOk.sealUnit {o : EngOp} {first i : Nat} (h : Steady .memory a d) : UnitOk id a (Dev.sealUnit o first i d) := by
  unfold Dev.sealUnit
  dsimp only
  split
  · exact h
  split
  · trivial
  · exact h
  · next hv =>
    split
    · exact h.opDraw hv
    · next hw =>
      split
      · exact (h.opDraw hv).engWrite hw
      · next hm => exact ((h.opDraw hv).engWrite hw).engWrite hm

theorem UnitOk.unsealUnit {o : EngOp} {first i : Nat} (h : Steady .memory a d) : UnitOk id a (Dev.unsealUnit o first i d) := by
  unfold Dev.unsealUnit
  dsimp only
  split
  · exact h
  · exact h
  split
  · exact h
  split
  · exact h
  · next hw => exact h.engWrite hw

theorem UnitOk.transUnit {o : EngOp} {m : SealMap} {i : Nat} {t : Trans} (h : Steady .memory a t.dev) : UnitOk Trans.dev a (transUnit o m i t) := by
  unfold Machine.transUnit
  dsimp only
  split
  · exact h
  · exact h
  split
  · exact h
  split
  · trivial
  · exact h
  · next hv =>
    split
    · exact h.opDraw hv
    · next hw =>
      split
      · exact (h.opDraw hv).engWrite hw
      · next hm => exact ((h.opDraw hv).engWrite hw).engWrite hm

theorem RunOk.transcribe {o : EngOp} {m : SealMap} (h : Steady .memory a d) : RunOk id a (d.transcribe o m) := by
  have ht := RunOk.units (dev := Trans.dev) (f := transUnit o m) (n := m.count) (i := 0) (x := ⟨d, Dig.init m.alg, Dig.init m.alg⟩) (fun _ _ => .transUnit) h
  unfold Dev.transcribe
  split
  · trivial
  · next hr =>
    rw [hr] at ht
    refine .ite ht ?_
    dsimp only
    split
    · exact ht
    · next hw => exact Steady.engWrite ht hw

theorem RunOk.gcmFrame {o : EngOp} (h : Steady .memory a d) : RunOk id a (d.gcmFrame o) := by
  unfold Dev.gcmFrame
  dsimp only
  refine .ite h ?_
  split
  · exact h
  refine .ite h (.ite ?_ ?_)
  · split
    · trivial
    · exact h
    · next hv =>
      split
      · exact (h.opDraw hv).setFrame
      · exact h.opDraw hv
  · split
    · exact h.setFrame
    · exact h

theorem RunOk.gcmMem {o : EngOp} (h : Steady .memory a d) : RunOk id a (d.gcmMem o) := by
  unfold Dev.gcmMem
  dsimp only
  split
  · exact h
  refine .ite ?_ (.ite h ?_)
  · split
    · trivial
    · exact h
    · next hv =>
      refine .ite (h.opDraw hv) ?_
      split
      · exact h.opDraw hv
      · next hw => exact (h.opDraw hv).engWrite hw
  · refine .ite (.ite h ?_) ?_
    · split
      · exact h
      · next hw => exact h.engWrite hw
    · split
      · exact h
      · next hw =>
        refine .ite (h.engWrite hw) ?_
        split
        · exact h.engWrite hw
        · next hm => exact (h.engWrite hw).engWrite hm

theorem RunOk.runCipher {o : EngOp} (h : Steady .memory a d) : RunOk id a (d.runCipher o) := by
  unfold Dev.runCipher
  split
  · exact .units (dev := id) (fun _ _ => .xtsUnit) h
  · exact .units (dev := id) (fun _ _ => .xtsUnit) h
  · exact .ite (.gcmFrame h) (.gcmMem h)
  · exact .ite (.gcmFrame h) (.gcmMem h)
  split
  · exact h
  · exact .ite (.units (dev := id) (fun _ _ => .sealUnit) h) (.ite (.units (dev := id) (fun _ _ => .unsealUnit) h) (.transcribe h))

theorem Steady.runDigest {o : EngOp} (h : Steady .memory a d) : Steady .memory a (d.runDigest o).2 := by
  unfold Dev.runDigest
  dsimp only
  split
  · exact h
  split
  · exact h
  · next hw _ => exact h.engWrite hw
  · next hw _ =>
    split
    · split
      · exact h.engWrite hw
      · next hr => exact (h.engWrite hw).engWrite hr
    · exact h.engWrite hw

theorem Steady.runTree {o : EngOp} (h : Steady .memory a d) : Steady .memory a (d.runTree o).2 := by
  unfold Dev.runTree
  dsimp only
  split
  · exact h
  split
  · exact h
  · next hw => exact h.engWrite hw

theorem Steady.runCombine {o : EngOp} (h : Steady .memory a d) : Steady .memory a (d.runCombine o).2 := by
  unfold Dev.runCombine
  dsimp only
  split
  · exact h
  split
  · exact h
  split
  · exact h
  split
  · exact h
  · next hw => exact h.engWrite hw

theorem Steady.writeShards {o : EngOp} {addr : Nat → Nat} {ss : List (Nat × List Byte)} (h : Steady .memory a d) : Steady .memory a (d.writeShards o addr ss).2 := by
  induction ss generalizing d with
  | nil => exact h
  | cons b ss ih =>
    unfold Dev.writeShards
    split
    · exact h
    · next hw => exact ih (h.engWrite hw)

theorem Steady.runRs {o : EngOp} (h : Steady .memory a d) : Steady .memory a (d.runRs o).2 := by
  unfold Dev.runRs
  dsimp only
  split
  · exact h
  split
  · exact h
  split
  · exact h
  split
  · exact h
  · exact h.writeShards

theorem Steady.runFixity {o : EngOp} (h : Steady .memory a d) : Steady .memory a (d.runFixity o).2 := by
  unfold Dev.runFixity
  split
  · exact h.runDigest
  · exact h.runTree
  · exact h.runCombine
  · exact h.runRs

theorem Steady.engCharge {o : EngOp} {fix : Bool} {amount : Nat} (h : Steady .memory a d) : Steady .memory a (d.engCharge o fix amount) := by
  unfold Dev.engCharge
  split
  exact .ite h.charge.count h.charge

theorem Steady.engCharges {o : EngOp} {e : EngEnd} (h : Steady .memory a d) : Steady .memory a (d.engCharges o e) := by
  unfold Dev.engCharges
  dsimp only
  refine .ite ?_ ?_
  · exact h.engCharge.countBy.countBy
  · exact .ite h.engCharge.countBy.engCharge h.engCharge.countBy

theorem Steady.engRun {k' : Nat} {o : EngOp} (h : Steady .memory a d) : Steady .memory a (d.engRun k' o) := by
  unfold Dev.engRun
  have hr : RunOk id a (if o.fix then some (d.runFixity o) else d.runCipher o) := .ite h.runFixity (.runCipher h)
  split
  · exact .ite h h.incRf
  · next e' d1 he =>
    rw [he] at hr
    have h1 : Steady .memory a (d1.engCharges o e') := Steady.engCharges hr
    exact (Steady.mk (.ite h1.raiseDecode h1)).engDone.engNext

theorem OutOk.engineOpComplete {op : Nat} : OutOk s (execEngineOpComplete op s) := by
  refine .event fun h => ?_
  split
  · exact h
  · exact .ite h.engRun h

theorem Steady.holdTick (h : Steady .memory a d) : Steady .memory a d.holdTick := h.foldl fun _ _ => .ite Steady.refl.count Steady.refl

theorem Steady.setGate {x : Nat} {g : Gate} (h : Steady .memory a d) : Steady .memory a (d.setGate x g) := h.mk

theorem Steady.setShpTok {i : Nat} {t : Int} (h : Steady .memory a d) : Steady .memory a (d.setShpTok i t) := h.setReg.setRb

theorem Steady.dequeue {q : Nat} (h : Steady .memory a d) : Steady .memory a (d.dequeue q) := .ite h.setTxq.retireTxq h.setTxq

theorem Steady.drr {x c start n : Nat} {p : Pick} (h : Steady .memory a d) : Steady .memory a (d.drr x c start n p).1 := by
  induction n generalizing d p with
  | zero => exact h
  | succ n ih =>
    unfold Dev.drr
    extract_lets k l blocked long
    clear_value l
    split
    · exact h
    split
    · exact h
    split
    · exact ih h.retireTxq
    extract_lets m d1 t t1 need d2 d3
    split
    · exact ih h.count.raiseFree.freeEgress.dequeue.txDrop
    split
    · exact ih h.setActive
    split
    · exact Steady.dequeue (h.setTxq.foldl fun _ _ => .ite Steady.refl (Steady.refl.setShpTok))
    · exact ih h.setTxq.setActive

theorem Steady.selectClass {x start n : Nat} {ok : Nat → Bool} {p : Pick} (h : Steady .memory a d) : Steady .memory a (d.selectClass x start ok n p).1 := by
  induction n generalizing d p with
  | zero => exact h
  | succ n ih =>
    unfold Dev.selectClass
    split
    · split
      next d1 p1 he =>
      have h1 : Steady .memory a d1 := .of_eq (congrArg Prod.fst he) h.drr
      split
      · exact h1
      · exact ih h1
    · exact ih h

theorem Steady.startFrame {x c q f start : Nat} (h : Steady .memory a d) : Steady .memory a (d.startFrame x c q f start) := by
  unfold Dev.startFrame
  dsimp only
  split
  · exact h
  · exact h.setFrame.mk

theorem Steady.resumeFrame {x start : Nat} {w : OnWire} (h : Steady .memory a d) : Steady .memory a (d.resumeFrame x start w) := by
  unfold Dev.resumeFrame
  dsimp only
  split
  · exact h.mk
  · exact h.mk

theorem Steady.select {x start n : Nat} (h : Steady .memory a d) : Steady .memory a (d.select x start n) := by
  induction n generalizing d with
  | zero => exact h
  | succ n ih =>
    unfold Dev.select
    extract_lets susp ok
    split
    next d1 p c he =>
    have h1 : Steady .memory a d1 := .of_eq (congrArg Prod.fst he) h.selectClass
    extract_lets d2 d3 d4
    have h3 : Steady .memory a d3 := h1.countBy.countBy
    have h4 : Steady .memory a d4 := h3.count
    clear_value d4 d3
    split
    · exact .ite (ih h4.count.freeEgress.txDrop) h4.startFrame
    · exact .ite h3.resumeFrame h3
    · exact h3

theorem Steady.selectIdle {x : Nat} (h : Steady .memory a d) : Steady .memory a (d.selectIdle x) := .ite h h.select

theorem Steady.cut {x at_ : Nat} (h : Steady .memory a d) : Steady .memory a (d.cut x at_) := by
  unfold Dev.cut
  dsimp only
  split
  · split
    · exact h
    · exact .ite h h.mk.count
  · exact h

theorem Steady.preempt {x : Nat} (h : Steady .memory a d) : Steady .memory a (d.preempt x) := by
  unfold Dev.preempt
  dsimp only
  split
  · exact .ite h (.ite h.cut h)
  · exact h

theorem Steady.kick {x : Nat} (h : Steady .memory a d) : Steady .memory a (d.kick x) := h.preempt.selectIdle

theorem Steady.kickAll {m : Nat} (h : Steady .memory a d) : Steady .memory a (d.kickAll m) := h.foldl fun _ _ => Steady.refl.kick

theorem Steady.sendDone {x : Nat} {w : OnWire} {y : Frame} (h : Steady .memory a d) : Steady .memory a (d.sendDone x w y) := by
  unfold Dev.sendDone
  extract_lets d1
  have h1 : Steady .memory a d1 := h.freeEgress
  clear_value d1
  split
  · exact h1.count.txDrop
  · exact h1.emit.countBy.count.countBy.count.dropFrame.txComplete

theorem Steady.frameSent {x : Nat} {w : OnWire} (h : Steady .memory a d) : Steady .memory a (d.frameSent x w) := by
  unfold Dev.frameSent
  dsimp only
  split
  · exact .ite h.mk.count h.mk.sendDone
  · exact h.mk.sendDone
  · exact h.mk

theorem Steady.frameTxComplete {x : Nat} (h : Steady .memory a d) : Steady .memory a (d.frameTxComplete x) := by
  unfold Dev.frameTxComplete
  dsimp only
  split
  · exact h.selectIdle
  · exact .ite h h.frameSent.select

theorem OutOk.frameTxComplete {x : Fin 32} : OutOk s (execFrameTxComplete x s) := .event fun h => h.frameTxComplete

theorem Steady.txqEnqueue {f : Nat} (h : Steady .memory a d) : Steady .memory a (d.txqEnqueue f) := by
  unfold Dev.txqEnqueue
  split
  · exact h
  split
  · exact h
  extract_lets _ d1 q m pol d2
  have h1 : Steady .memory a d1 := h.mk
  clear_value d1
  have h2 : Steady .memory a d2 := by
    unfold d2 pol
    split
    · exact h1.police
    · exact h1
  clear_value d2
  split
  · exact h1.count.txDrop
  split
  · exact h2.txDrop
  split
  · exact h2.count.txDrop
  · exact Steady.kick (.ite h2.freeCells.moveEgress.setTxq.setActive h2.freeCells.moveEgress.setTxq)

theorem OutOk.txqEnqueue {f : Nat} : OutOk s (execTxqEnqueue f s) := .event fun h => h.txqEnqueue

theorem Steady.gatesNow {x at_ : Nat} (h : Steady .memory a d) : Steady .memory a (d.gatesNow x at_) := by
  unfold Dev.gatesNow
  extract_lets r _ d1 d2
  have h1 : Steady .memory a d1 := h.setGate.setRf
  clear_value d1
  have h2 : Steady .memory a d2 := by
    unfold d2
    split
    · exact .ite h1 h1.cut
    · exact h1
  exact h2.kick

theorem OutOk.gateTransition {x : Fin 32} : OutOk s (execGateTransition x s) := .event fun h => .ite h h.gatesNow

theorem Steady.gateSwitch {x c : Nat} (h : Steady .memory a d) : Steady .memory a (d.gateSwitch x c) :=
  ((h.setRb.setRb.setRf.setReg.setReg.foldl fun _ _ => Steady.refl.setReg).setGate).gatesNow

theorem OutOk.gateListSwitch {x : Fin 32} : OutOk s (execGateListSwitch x s) := by
  refine .event fun h => ?_
  split
  · exact .ite h.gateSwitch h
  · exact h

theorem Steady.gateInstall {x : Nat} {es : List Nat} {cycle ext : Nat} {enable : Bool} {base : Nat} (h : Steady .memory a d) : Steady .memory a (d.gateInstall x es cycle ext enable base).1 :=
  ((((((h.foldl fun _ _ => Steady.refl.setReg).setReg).setReg).setReg).setRb).setGate).setGate

theorem Steady.gateStep {x old new : Nat} (h : Steady .memory a d) : Steady .memory a (d.gateStep x old new) := .ite h h.incRf.countBy.gatesNow

theorem Steady.applyShaper {i : Nat} {c : ShpChange} (h : Steady .memory a d) : Steady .memory a (d.applyShaper i c) := h.setReg.setReg.setReg.setRb.setShpTok.setRf

theorem Steady.applyPolicer {i : Nat} {c : ShpChange} (h : Steady .memory a d) : Steady .memory a (d.applyPolicer i c) := h.setReg.setReg.setRf.setReg.setRf

theorem Steady.refill {m k' : Nat} (h : Steady .memory a d) : Steady .memory a (d.refill m k') :=
  ((((h.foldl fun _ _ => .ite Steady.refl Steady.refl.setShpTok).foldl fun _ _ => .ite Steady.refl Steady.refl.setReg).foldl fun _ _ => .ite Steady.refl.applyShaper Steady.refl.applyShaper.setShpTok).foldl fun _ _ => .ite Steady.refl.applyPolicer Steady.refl.applyPolicer.setReg).mk

theorem OutOk.shaperRefill {m : Fin 2} : OutOk s (execShaperRefill m s) := .event fun h => .ite h h.mk.refill.kickAll

theorem Steady.refillStep {m new : Nat} (h : Steady .memory a d) : Steady .memory a (d.refillStep m new) := h.mk.incRf.countBy

theorem Steady.setSchData {p m j v : Nat} (h : Steady .memory a d) : Steady .memory a (d.setSchData p m j v) := h.setReg

theorem OutOk.queueSet {p : Fin 8} {m : Fin 2} {index : BitVec 16} : OutOk s (execQueueSet p m index s) := .schUpd fun h => .ite trivial (.ite trivial (.ite trivial (.ite trivial (.ite h.setReg.setReg.setReg h.setReg.setReg.setReg))))

theorem OutOk.queueRead {p : Fin 8} {m : Fin 2} {index : BitVec 16} : OutOk s (execQueueRead p m index s) := .schUpd fun h => .ite trivial h.setSchData.setSchData.setSchData.setSchData

theorem OutOk.queueFlush {p : Fin 8} {m : Fin 2} {index : BitVec 16} : OutOk s (execQueueFlush p m index s) := .schUpd fun h => .ite trivial h.flushTxq.setSchData

theorem OutOk.shaperSet {p : Fin 8} {m : Fin 2} {index : BitVec 16} {full : Bool} : OutOk s (execShaperSet p m index full s) := .schUpd fun h => .ite trivial (.ite trivial (.ite trivial h.mk.setRb))

theorem OutOk.shaperRead {p : Fin 8} {m : Fin 2} {index : BitVec 16} : OutOk s (execShaperRead p m index s) := .schUpd fun h => .ite trivial h.setSchData.setSchData.setSchData.setSchData

theorem OutOk.policerSet {p : Fin 8} {m : Fin 2} {index : BitVec 16} {full : Bool} : OutOk s (execPolicerSet p m index full s) := .schUpd fun h => .ite trivial h.mk

theorem OutOk.policerRead {p : Fin 8} {m : Fin 2} {index : BitVec 16} : OutOk s (execPolicerRead p m index s) := .schUpd fun h => .ite trivial h.setSchData.setSchData.setSchData.setSchData

theorem OutOk.ingPolSet {p : Fin 8} {m : Fin 2} {index : BitVec 16} : OutOk s (execIngPolSet p m index s) := .schUpd fun h => .ite trivial (.ite trivial h.setReg)

end Sys2Proof.Machine
end

section
/-! PROOFS. Memory stays canonical: resets, partitions, slices, the lifetime record and the ports. One rule for each operation that the chains of `Steady` do not have yet, written as the operation is, and one for each command. -/

namespace Sys2Proof.Machine
open Sys2Proof

/- Many short rules follow: elaborated one after another they need few threads at a time. -/
set_option Elab.async false

variable {a b d e : Dev} {s : State}

theorem OutOk.coreReset {c : Fin 64} : OutOk s (execCoreReset c s) := .event fun h => .ite h.coreReset h

theorem Steady.containPart {p : Nat} (h : Steady .memory a d) : Steady .memory a (d.containPart p) :=
  .ite h ((h.setRf.count.foldl fun _ _ => Steady.refl.updThread).facesOf)

theorem Steady.sliceRemove {s : Nat} (h : Steady .memory a d) : Steady .memory a (d.sliceRemove s) :=
  ((((((h.foldl fun _ _ => Steady.refl.dropMbx).foldl fun _ _ => Steady.refl.setReg).foldl fun _ _ => Steady.refl.setRf).foldl fun _ _ => Steady.refl.setRf.setRb).setSlice unwatched).resetAll).countSlices

theorem Steady.sliceResetFinish {s : Nat} (h : Steady .memory a d) : Steady .memory a (d.sliceResetFinish s) := by
  unfold Dev.sliceResetFinish
  dsimp only
  refine .ite ?_ ?_
  · exact h.resetSliceRegs.setReg.setSliceState.sliceRemove.fwFinishAt
  · split
    · exact (h.resetSliceRegs.setReg.setSliceState.setSlice unwatched).sliceResetBegin
    · exact ((h.resetSliceRegs.setReg.setSliceState.setSlice unwatched).setSlice unwatched).sliceResetBegin
    · exact (h.resetSliceRegs.setReg.setSliceState.setSlice unwatched).fwFinishAt

theorem Steady.sliceResetNow {s : Nat} (h : Steady .memory a d) : Steady .memory a (d.sliceResetNow s) := .ite h ((Steady.ite h h.sliceResetBegin).sliceResetFinish)

theorem OutOk.sliceResetEnd {sl : Fin 4096} : OutOk s (execSliceResetEnd sl s) := .event fun h => .ite h.sliceResetFinish h

theorem Steady.frzStat {s : Nat} (h : Steady .memory a d) : Steady .memory a (d.frzStat s) := h.setReg

theorem OutOk.freezeComplete {sl : Fin 4096} : OutOk s (execFreezeComplete sl s) := .event fun h => .ite h.setSliceState.frzStat.fwFinishAt h

theorem OutOk.freezeTimeout {sl : Fin 4096} : OutOk s (execFreezeTimeout sl s) := .event fun h => .ite h.frzStat.fwFinish h

theorem Steady.zeroPart {p : Nat} (h : Steady .memory a d) : Steady .memory a (d.zeroPart p) := by
  unfold Dev.zeroPart
  dsimp only
  split
  · exact (((h.foldl fun _ _ => Steady.refl.zero).foldl fun _ _ => Steady.refl.zero).foldl fun _ _ => Steady.refl.zero).foldl fun _ _ => Steady.refl.zero
  · exact ((h.foldl fun _ _ => Steady.refl.zero).foldl fun _ _ => Steady.refl.zero).foldl fun _ _ => Steady.refl.zero

theorem Steady.emptyTables {p : Nat} (h : Steady .memory a d) : Steady .memory a (d.emptyTables p) := h.mk.foldl fun _ _ => .ite Steady.refl.zero Steady.refl

theorem Steady.releasePart {p : Nat} (h : Steady .memory a d) : Steady .memory a (d.releasePart p) :=
  (((((((((((((((h.foldl fun _ _ => Steady.refl.dropMbx).resetAll).foldl fun _ _ => Steady.refl.setReg).foldl fun _ _ => Steady.refl.resetReg).foldl fun _ _ => Steady.refl.resetReg).foldl fun _ _ => Steady.refl.resetReg).foldl fun _ _ => Steady.refl.foldl fun _ _ => Steady.refl.setRf).foldl fun _ _ => Steady.refl.foldl fun _ _ => Steady.refl.setRf).foldl fun _ _ => Steady.refl.setRf).resetAll).resetAll).resetAll).upd).setDuplex).setPart unwatched).setRf

theorem Steady.partResetFinish {p : Nat} {j : PartJob} (h : Steady .memory a d) : Steady .memory a (d.partResetFinish p j) :=
  .ite ((((((h.setReg.mk.setPhase.foldl fun _ _ => Steady.refl.sliceRemove).foldl fun _ _ => Steady.refl.retire).emptyTables).zeroPart).releasePart).fwFinish) ((((h.setReg.mk.setPhase.setPart unwatched).setRf).facesOf).fwFinish)

theorem OutOk.partResetEnd {p : Fin 8} : OutOk s (execPartResetEnd p s) := by
  refine .event fun h => ?_
  split
  · exact .ite h h.partResetFinish
  · exact h

theorem Steady.takeGrant {p : Nat} {g : Grant} (h : Steady .memory a d) : Steady .memory a (d.takeGrant p g) :=
  ((((((((((h.setPart unwatched).resetAll).resetPartRegs).foldl fun _ _ => Steady.refl.coreReset.setRf).foldl fun _ _ => Steady.refl.takeRange).takeQuotas).creditFull).straitFull).mk).setReg).foldl fun _ _ => Steady.refl.configMbx

theorem OutOk.partCreate {h : CmdHdr} : OutOk s (execPartCreate h s) := by
  refine .wenot fun h => ?_
  split
  · exact h
  · exact .ite h h.takeGrant

theorem Steady.partJob {h' : CmdHdr} {b : Bool} (h : Steady .memory a d) : FwOk a (d.partJob h' b) := by
  unfold Dev.partJob
  refine .ite h ?_
  split
  · exact h
  · exact h.setRf.partResetBegin_of
  · exact h.setRf.partResetBegin_of
  · exact h

theorem OutOk.partDestroy {h : CmdHdr} : OutOk s (execPartDestroy h s) := .wenot fun h => h.partJob

theorem OutOk.partReset {h : CmdHdr} : OutOk s (execPartReset h s) := .wenot fun h => h.partJob

theorem Steady.sliceMake {s : Nat} {g : SliceGrant} {st : Nat} (h : Steady .memory a d) : Steady .memory a (d.sliceMake s g st) :=
  (((((((((h.setSlice unwatched).setReg).setReg).setReg).foldl fun _ _ => Steady.refl.foldl fun _ _ => Steady.refl.setReg).foldl fun _ _ => Steady.refl.setReg).foldl fun _ _ => Steady.refl.setRf.setRb).resetSliceRegs).countSlices).foldl fun _ _ => Steady.refl.configMbx

theorem OutOk.sliceCreate {h : CmdHdr} : OutOk s (execSliceCreate h s) := by
  refine .wenot fun h => ?_
  dsimp only
  split
  · exact h
  · exact h.sliceMake

theorem Steady.onSlice {h' : CmdHdr} {l : List Nat} {b : Bool} {f : Nat → FwRes} (h : Steady .memory a d) (hf : ∀ n, FwOk a (f n)) : FwOk a (d.onSlice h' l b f) :=
  .ite h (.ite h (.ite h (hf _)))

theorem OutOk.sliceDestroy {h : CmdHdr} : OutOk s (execSliceDestroy h s) :=
  .wenot fun h => h.onSlice fun _ => .ite (h.setSlice unwatched) (h.setSlice unwatched).sliceResetBegin

theorem OutOk.sliceReset {h : CmdHdr} : OutOk s (execSliceReset h s) := .wenot fun h => h.onSlice fun _ => .ite (h.setSlice unwatched) h.sliceResetBegin

theorem OutOk.sliceFreeze {h : CmdHdr} : OutOk s (execSliceFreeze h s) := .wenot fun h => h.onSlice fun _ => (h.setSliceState.setSlice unwatched).frzStat

theorem OutOk.sliceThaw {h : CmdHdr} : OutOk s (execSliceThaw h s) := .wenot fun h => h.onSlice fun _ => h.setSliceState.sliceDrain

theorem OutOk.sliceSave {h : CmdHdr} : OutOk s (execSliceSave h s) := by
  refine .wenot fun h => h.onSlice fun _ => ?_
  split
  · exact h
  · exact h

theorem OutOk.sliceRestore {h : CmdHdr} {save : List Byte} : OutOk s (execSliceRestore h save s) := by
  refine .wenot fun h => ?_
  dsimp only
  split
  · exact h
  · split
    · exact h
    · refine .ite ?_ ?_
      · exact h
      · split
        · exact h
        · exact h.sliceMake.sliceLoad

theorem Steady.flashErase {a' : Nat} (h : Steady .memory a d) : Steady .memory a (d.flashErase a') := h.mk.count

theorem OutOk.logEraseDone : OutOk s (execLogEraseDone s) := by
  refine .eventOn fun h => ?_
  dsimp only
  split
  · exact h
  · exact .ite h h.mk.flashErase.lifeReady

theorem Steady.ageIsland {i : Nat} (h : Steady .memory a d) : Steady .memory a (d.ageIsland i) := by
  unfold Dev.ageIsland
  dsimp only
  split
  · exact h
  · exact h.mk

theorem OutOk.thermalAgeUpdate : OutOk s (execThermalAgeUpdate s) := .eventAny fun h => .ite h (.ite (h.mk.foldl fun _ _ => Steady.refl.ageIsland) h.mk)

theorem OutOk.lifetimeCheckpoint : OutOk s (execLifetimeCheckpoint s) := .eventOn fun h => .ite h.checkpoint h

theorem Steady.lifeRegs (h : Steady .memory a d) : Steady .memory a d.lifeRegs := by
  unfold Dev.lifeRegs
  extract_lets r d1 d2
  have h1 : Steady .memory a d1 := h.setReg
  clear_value r
  have h2 : Steady .memory a d2 := by
    unfold d2
    split
    · exact h1.setReg.setReg
    · exact h1.resetReg.resetReg
  exact h2.lifeReady

theorem Steady.lifeRestore (h : Steady .memory a d) : Steady .memory a d.lifeRestore := by
  unfold Dev.lifeRestore
  dsimp only
  split
  · exact h.mk.setRb
  · exact h

theorem Steady.mmStart {x : Nat} (h : Steady .memory a d) : Steady .memory a (d.mmStart x) := h.mk.setRf

theorem Steady.linkDown {x : Nat} {inRx : Bool} (h : Steady .memory a d) : Steady .memory a (d.linkDown x inRx) :=
  .ite h ((Steady.ite h.setRb.raiseFree.count.count h.setRb.raiseFree.count).mmStart)

theorem OutOk.portLinkDown {x : Fin 32} {inRx : Bool} : OutOk s (execPortLinkDown x inRx s) := .eventOn fun h => h.linkDown

theorem Steady.ethTrain {q : Nat} (h : Steady .memory a d) : Steady .memory a (d.ethTrain q) := h.mk

theorem OutOk.portLinkUp {x : Fin 32} : OutOk s (execPortLinkUp x s) := .eventOn fun h => .ite h h.setRb.ethTrain.mmStart

theorem OutOk.preemptVerify {x : Fin 32} {ok : Bool} : OutOk s (execPreemptVerify x ok s) := .event fun h => .ite h (.ite h.setRf (.ite h.mk.setRf h.mk))

theorem Steady.pauseClass {x c quanta : Nat} (h : Steady .memory a d) : Steady .memory a (d.pauseClass x c quanta) := .ite h.mk h.mk

theorem Steady.macControl {x : Nat} {bs : List Byte} (h : Steady .memory a d) : Steady .memory a (d.macControl x bs) := by
  unfold Dev.macControl
  dsimp only
  split
  · exact .ite ((h.count.foldl fun _ _ => Steady.refl.pauseClass).selectIdle) h.count
  · exact .ite ((h.count.foldl fun _ _ => .ite Steady.refl.pauseClass Steady.refl).selectIdle) h.count
  · exact h

theorem OutOk.pauseExpire {x : Fin 32} {c : Fin 8} : OutOk s (execPauseExpire x c s) := by
  refine .event fun h => ?_
  split
  · exact .ite h.pauseClass.kick h
  · exact h

theorem Steady.toClassifier {f : Nat} (h : Steady .memory a d) : Steady .memory a (d.toClassifier f) := by
  unfold Dev.toClassifier
  split
  · exact h
  · dsimp only
    split
    · exact h.count.dropFrame
    · exact h.setFrame.mk

theorem Steady.dropUnowned {f : Nat} (h : Steady .memory a d) : Steady .memory a (d.dropUnowned f) := by
  unfold Dev.dropUnowned
  dsimp only
  split
  · exact h
  · exact h.mk.moveClassUse

theorem Steady.holdFragment {f m : Nat} (h : Steady .memory a d) : Steady .memory a (d.holdFragment f m) := .ite h.count.dropUnowned h.updFrame.mk.fragStat

theorem Steady.takeLater {f : Nat} {x : Frame} (h : Steady .memory a d) : Steady .memory a (d.takeLater f x) := by
  unfold Dev.takeLater
  dsimp only
  split
  · split
    · split
      · next hc =>
        split
        · exact (h.chargeHold hc).takeFragDecision
        · exact h.chargeHold hc
      · next hc => exact h.chargeHold hc
    · exact h.holdFragment
  · exact h.holdFragment

theorem Steady.firstFragment {x : Frame} {p : Nat} (h : Steady .memory a d) : Steady .memory a (d.firstFragment x p) := by
  unfold Dev.firstFragment
  dsimp only
  split
  · exact h
  · exact h
  · exact .ite h.count.raiseFree h.mk.fragStat

theorem Steady.ingress {x : Nat} {bs : List Byte} {first last : Nat} (h : Steady .memory a d) : Steady .memory a (d.ingress x bs first last) := by
  unfold Dev.ingress
  -- the kernel must not run the parser
  obtain ⟨parse, hp⟩ : ∃ p, Dev.parse = p := ⟨_, rfl⟩
  rw [hp]
  extract_lets m r frag later cells y
  split
  next f d0 he =>
  have h0 : Steady .memory a d0 := .of_eq (congrArg Prod.snd he) h.newFrame
  extract_lets _ d1 d2 d3 d4 d5 d6
  have h5 : Steady .memory a d5 := h0.mk.moveClassUse.countBy.countBy.countBy
  have h6 : Steady .memory a d6 := .ite h5.count h5
  split
  · exact h5.count.takeLater
  split
  · exact h6.count.dropUnowned
  split
  · next hc => exact h6.chargeHold hc
  · next hc => exact .ite (Steady.ingressPolice (h6.chargeHold hc)) (Steady.ingressPolice (h6.chargeHold hc)).firstFragment.toClassifier

theorem Steady.frameReceive {x : Nat} {fr : RxFrame} (h : Steady .memory a d) : Steady .memory a (d.frameReceive x fr) :=
  .ite h (.ite h.count (.ite h.count (.ite h.count (.ite h.count (.ite h.count (.ite h.count.countBy.macControl (.ite h.count.countBy h.count.countBy.ingress)))))))

theorem OutOk.frameReceive {x : Fin 32} {fr : RxFrame} : OutOk s (execFrameReceive x fr s) := .event fun h => h.frameReceive

theorem Steady.setUpdData {e p j : Nat} {bs : List Byte} (h : Steady .memory a d) : Steady .memory a (d.setUpdData e p j bs) := h.foldl fun _ _ => Steady.refl.setReg

theorem Steady.updDone {e p code : Nat} (h : Steady .memory a d) : Steady .memory a (d.updDone e p code) := h.setReg

theorem OutOk.ruleWrite {p : Fin 8} {e : Fin 4} {index : BitVec 15} : OutOk s (execRuleWrite p e index s) := .clsUpd fun h => .ite h.updDone (.ite h.updDone h.setRule.updDone)

theorem OutOk.ruleDisable {p : Fin 8} {e : Fin 4} {index : BitVec 15} : OutOk s (execRuleDisable p e index s) := .clsUpd fun h => .ite h.updDone h.setRule.updDone

theorem OutOk.ruleRead {p : Fin 8} {e : Fin 4} {index : BitVec 15} : OutOk s (execRuleRead p e index s) := .clsUpd fun h => .ite h.updDone h.setUpdData.updDone

theorem Steady.exactStart {op p e t : Nat} (h : Steady .memory a d) : Steady .memory a (d.exactStart op p e t) := .ite h.updDone (.ite h.updDone h.mk.setReg)

theorem OutOk.exactInsert {p : Fin 8} {e : Fin 4} {table : BitVec 8} : OutOk s (execExactInsert p e table s) := .clsUpd fun h => h.exactStart

theorem OutOk.exactDelete {p : Fin 8} {e : Fin 4} {table : BitVec 8} : OutOk s (execExactDelete p e table s) := .clsUpd fun h => h.exactStart

theorem OutOk.exactRead {p : Fin 8} {e : Fin 4} {table : BitVec 8} : OutOk s (execExactRead p e table s) := .clsUpd fun h => h.exactStart

theorem Steady.cacheUpdate {p t : Nat} {key : List Byte} {r : Option Word} (h : Steady .memory a d) : Steady .memory a (d.cacheUpdate p t key r) :=
  h.foldl fun _ _ => Steady.refl.setCache

theorem Steady.exactFinish {e p op t : Nat} {key : List Byte} {res : Word} (h : Steady .memory a d) : Steady .memory a (d.exactFinish e p op t key res) := by
  unfold Dev.exactFinish
  dsimp only
  refine .ite ?_ ?_
  · exact h.updDone
  · split
    · split
      · exact h.updDone
      · exact h.write.cacheUpdate.updDone
    · split
      · exact h.updDone
      · exact h.write.cacheUpdate.updDone
    · split
      · exact h.updDone
      · exact h.setUpdData.updDone

theorem OutOk.clsUpdDone {p : Fin 8} {e : Fin 4} : OutOk s (execClsUpdDone p e s) := by
  refine .event fun h => ?_
  dsimp only
  split
  · exact h
  · exact h.mk.exactFinish

theorem OutOk.ctxWrite {p : Fin 8} {e : Fin 4} {index : BitVec 15} : OutOk s (execCtxWrite p e index s) := .clsUpd fun h => .ite h.updDone (.ite h.updDone h.setOffCtx.updDone)

theorem OutOk.ctxResync {p : Fin 8} {e : Fin 4} {index : BitVec 15} : OutOk s (execCtxResync p e index s) := .clsUpd fun h => .ite h.updDone h.setOffCtx.updDone

end Sys2Proof.Machine
end

section
/-! PROOFS. Memory stays canonical: the time plane, programs, host ports, snapshots and counters. One rule for each operation that the chains of `Steady` do not have yet, written as the operation is, and one for each command. -/

namespace Sys2Proof.Machine
open Sys2Proof

/- Many short rules follow: elaborated one after another they need few threads at a time. -/
set_option Elab.async false

variable {a b d e : Dev} {s : State}

theorem Steady.withTime {t : Time} (h : Steady .memory a d) : Steady .memory a (d.withTime t) := h.mk

theorem Steady.regridAll {new : Nat} (h : Steady .memory a d) : Steady .memory a (d.regridAll new) := .ite h.mk.incRf.countBy h.mk

theorem Steady.shiftWires {delta : Int} (h : Steady .memory a d) : Steady .memory a (d.shiftWires delta) := h.mk

theorem Steady.behindHwm (h : Steady .memory a d) : Steady .memory a d.behindHwm := h.setRb

theorem Steady.applyStep {ns : Int} (h : Steady .memory a d) : Steady .memory a (d.applyStep ns) :=
  (((h.withTime.count.mk.shiftWires.regridAll.foldl fun _ _ => Steady.refl.gateStep).refillStep).refillStep).behindHwm

theorem Steady.setQuality {q : Nat} (h : Steady .memory a d) : Steady .memory a (d.setQuality q) := h.setRf

theorem Steady.setErr {e : Nat} (h : Steady .memory a d) : Steady .memory a (d.setErr e) := h.setRf

theorem Steady.toUnqualified (h : Steady .memory a d) : Steady .memory a d.toUnqualified := .ite h h.setQuality.raiseFree

theorem Steady.toHoldover {err : Nat} (h : Steady .memory a d) : Steady .memory a (d.toHoldover err) := h.setQuality.setErr.withTime.raiseFree

theorem Steady.takeSource {s : Nat} (h : Steady .memory a d) : Steady .memory a (d.takeSource s) := h.setQuality.setRf.setRb.withTime

theorem Steady.loseSource (h : Steady .memory a d) : Steady .memory a d.loseSource := .ite h.setRf.setRb.toHoldover (.ite h.setRf.setRb.setQuality h.setRf.setRb)

theorem Steady.reselect (h : Steady .memory a d) : Steady .memory a d.reselect := .ite h (.ite (.ite h.loseSource h) ((Steady.ite h.loseSource h).takeSource))

theorem Steady.srcChanged {old : Word} (h : Steady .memory a d) : Steady .memory a (d.srcChanged old) := .ite h h.withTime.reselect

theorem Steady.dropSource {s : Nat} (h : Steady .memory a d) : Steady .memory a (d.dropSource s) := (Steady.ite h.withTime h.withTime.setRb).reselect

theorem Steady.slew (h : Steady .memory a d) : Steady .memory a d.slew := h.fresh.setReg.setRb

theorem Steady.servo {off : Int} (h : Steady .memory a d) : Steady .memory a (d.servo off) :=
  .ite h (.ite h.withTime.raiseFree.dropSource (.ite (.ite (((((Steady.ite h.withTime.applyStep h.withTime.slew).withTime).setQuality).setRb).withTime) ((Steady.ite h.withTime.applyStep h.withTime.slew).withTime)) (.ite (((Steady.ite h.withTime.applyStep h.withTime.slew).withTime).setQuality) ((Steady.ite h.withTime.applyStep h.withTime.slew).withTime))))

theorem Steady.showUtc (h : Steady .memory a d) : Steady .memory a d.showUtc := h.setRf

theorem Steady.leapCheck (h : Steady .memory a d) : Steady .memory a d.leapCheck := .ite h.showUtc.raiseFree h.showUtc

theorem OutOk.leapTableExpired : OutOk s (execLeapTableExpired s) := .eventOn fun h => .ite h.setRb.leapCheck h

theorem Steady.setHwm {v : Nat} (h : Steady .memory a d) : Steady .memory a (d.setHwm v) := h.mk.setReg.setReg

theorem OutOk.hwmUpdate : OutOk s (execHwmUpdate s) := .eventOn fun h => (Steady.ite h.setHwm h).behindHwm.showUtc

theorem OutOk.refclkQualified {tenMHz : Bool} : OutOk s (execRefclkQualified tenMHz s) := .eventOn fun h => .ite h h.withTime.setRb

theorem OutOk.refLost : OutOk s (execRefLost s) := .eventAny fun h => .ite h.mk (.ite h h.withTime.raiseFree.setRf.setRb.toUnqualified)

theorem OutOk.straitCrc {st : Fin 23} {toLow again : Bool} : OutOk s (execStraitCrc st toLow again s) := by
  refine .eventOn fun h => .ite h ?_
  exact .ite h.withTime.count.count.raiseFree.useInjection h.withTime.count.count.raiseFree.useInjection.withTime.raiseFree

theorem Steady.timeLatch {isl : Nat} (h : Steady .memory a d) : Steady .memory a (d.timeLatch isl) := h.setReg.setReg.setReg

theorem OutOk.timeNow0Read {isl : Fin 8} : OutOk s (execTimeNow0Read isl s) := .eventOn fun h => h.timeLatch.emit

theorem OutOk.delayMeasure {delays : List Nat} : OutOk s (execDelayMeasure delays s) := .eventOn fun h => h.withTime

theorem OutOk.timeCheck {isl : Fin 8} {upset : Int} : OutOk s (execTimeCheck isl upset s) := .eventOn fun h => .ite h (.ite h.withTime h.withTime.count.raiseDev.setRb.setRf)

theorem OutOk.timeCtlStep : OutOk s (execTimeCtlStep s) := .eventOn fun h => .ite h (.ite h.setRb.applyStep h.setRb.raiseFree)

theorem Steady.ptpRx {m : PtpMsg} (h : Steady .memory a d) : Steady .memory a (d.ptpRx m) := by
  unfold Dev.ptpRx
  dsimp only
  refine .ite ?_ ?_
  · exact h
  · split
    · exact .ite h.count.withTime.reselect (.ite h.count.withTime.reselect.setRf.withTime.leapCheck h.count.withTime.reselect.setRf.withTime)
    · exact .ite h.count.withTime.servo h.count
    · exact h.count

theorem OutOk.ptpMessageRx {m : PtpMsg} : OutOk s (execPtpMessageRx m s) := .eventOn fun h => h.ptpRx

theorem OutOk.announceTimeout : OutOk s (execAnnounceTimeout s) := .eventOn fun h => .ite h.dropSource h

theorem OutOk.ptpMessageTx {x : Fin 32} {m : PtpSend} : OutOk s (execPtpMessageTx x m s) := .event fun h => .ite h.raiseFree (.ite h.emit h)

theorem OutOk.ppsInEdge {highOneUs : Bool} {spacingOk : Bool} : OutOk s (execPpsInEdge highOneUs spacingOk s) := .eventOn fun h => .ite h.incRf.count (.ite (.ite h.incRf.count (.ite h.withTime.reselect.servo h.withTime.reselect)) (.ite h.withTime.setRb.reselect h.withTime))

theorem OutOk.ppsInLost : OutOk s (execPpsInLost s) := .eventOn fun h => .ite h h.dropSource

theorem OutOk.freqInQualified : OutOk s (execFreqInQualified s) := .eventOn fun h => .ite h.setRb.slew h.setRb

theorem OutOk.freqInLost : OutOk s (execFreqInLost s) := .eventOn fun h => h.setRb

theorem OutOk.holdoverSecond : OutOk s (execHoldoverSecond s) := .eventOn fun h => .ite h (.ite h.setErr.incRf.mk.toUnqualified h.setErr.incRf.mk)

theorem OutOk.ppsOutPulse : OutOk s (execPpsOutPulse s) := by
  refine .eventOn fun h => ?_
  split
  · exact .ite h.withTime.emit h
  · exact .ite h h.withTime.emit

theorem OutOk.clkSpreadApply : OutOk s (execClkSpreadApply s) := .eventOn fun h => .ite h h.withTime

theorem Steady.loadSect {n : Nat} {p : List Byte} {x : Sect} (h : Steady .memory a d) : Steady .memory a (d.loadSect n p x) :=
  .ite (.ite h.zero h.write) (h.foldl fun _ _ => .ite Steady.refl.zero Steady.refl.write)

theorem FwOk.loadFail {st : Byte} {o : Nat} (h : Steady .memory a d) : FwOk a (loadFail st o d) := h

theorem OutOk.progLoad {h : CmdHdr} : OutOk s (execProgLoad h s) := by
  refine .wenot fun h => ?_
  split
  · exact .loadFail h
  dsimp only
  split
  · exact .loadFail h
  refine .ite (.loadFail h) (.ite (.loadFail h) ?_)
  split
  · exact .loadFail h
  · exact (h.foldl fun _ _ => Steady.refl.loadSect).setPart unwatched

theorem Steady.installGroups {p : Nat} {g : Prog} (h : Steady .memory a d) : Steady .memory a (d.installGroups p g) :=
  (h.foldl fun _ _ => Steady.refl.setReg.foldl fun _ _ => Steady.refl.setReg).foldl fun _ _ => Steady.refl.setReg.foldl fun _ _ => Steady.refl.setReg

theorem Steady.pinCode {p : Nat} {g : Prog} (h : Steady .memory a d) : Steady .memory a (d.pinCode p g) := h.foldl fun _ _ => Steady.refl.mk.setReg

theorem Steady.setLead {p : Nat} (h : Steady .memory a d) : Steady .memory a (d.setLead p) := h.setDuplex

theorem Steady.dpxStart {p : Nat} (h : Steady .memory a d) : Steady .memory a (d.dpxStart p) := .ite h h.setDuplex.setRb.setRb.setLead

theorem Steady.release {p : Nat} (h : Steady .memory a d) : Steady .memory a (d.release p) := by
  unfold Dev.release
  dsimp only
  split
  · exact h
  · exact ((h.setPart unwatched).foldl fun _ _ => Steady.refl.foldl fun _ _ => Steady.refl.updThread).dpxStart

theorem OutOk.progStart {h : CmdHdr} : OutOk s (execProgStart h s) := by
  refine .wenot fun h => ?_
  dsimp only
  refine .ite ?_ ?_
  · exact h
  · split
    · exact h
    · exact h
    · exact .ite h (.ite h (.ite (((((Steady.ite h h.setReg.setReg.setReg).installGroups).pinCode).setReg).release) (((((Steady.ite h h.setReg.setReg.setReg).installGroups).pinCode).setReg).setPart unwatched)))

theorem OutOk.progStartRelease {p : Fin 8} : OutOk s (execProgStartRelease p s) := by
  refine .event fun h => ?_
  split
  · exact .ite h.release h
  · exact h

theorem OutOk.progStop {h : CmdHdr} : OutOk s (execProgStop h s) := by
  refine .wenot fun h => ?_
  dsimp only
  refine .ite ?_ ?_
  · exact h
  · split
    · exact h
    · exact (((h.foldl fun _ _ => Steady.refl.coreReset).setRb).setPart unwatched).fresh

theorem Steady.stopRing {n : Nat} (h : Steady .memory a d) : Steady .memory a (d.stopRing n) := .ite (h.setSq.foldl fun _ _ => Steady.refl.txEntryEnd) h.setSq

theorem Steady.fnStop {h' f : Nat} (h : Steady .memory a d) : Steady .memory a (d.fnStop h' f) :=
  (((h.foldl fun _ _ => Steady.refl.failXfer).foldl fun _ _ => Steady.refl.foldl fun _ _ => Steady.refl.stopRing).foldl fun _ _ => Steady.refl.failLoads).discardReqs

theorem Steady.fnConfigReset {h' f : Nat} (h : Steady .memory a d) : Steady .memory a (d.fnConfigReset h' f) := h.setFn.resetAll.resetAll.resetAll.countTags.intaEdge

theorem Steady.fnReset {h' f : Nat} (h : Steady .memory a d) : Steady .memory a (d.fnReset h' f) :=
  .ite (((((Steady.ite h (h.foldl fun _ _ => Steady.refl.sliceResetNow)).fnConfigReset).resetEnds).fwAbandon).mk) (((Steady.ite h (h.foldl fun _ _ => Steady.refl.sliceResetNow)).fnConfigReset).resetEnds)

theorem Steady.functionReset {h' f : Nat} (h : Steady .memory a d) : Steady .memory a (d.functionReset h' f) := h.setRb.fnStop.countBy.mk.fnReset.lifeReset.showFaces

theorem OutOk.functionLevelReset {h : Fin 8} {f : Fin 9} : OutOk s (execFunctionLevelReset h f s) := .eventOn fun h => .ite h.functionReset h

theorem Steady.hostTrain {h' : Nat} (h : Steady .memory a d) : Steady .memory a (d.hostTrain h') := h.mk

theorem Steady.portReset {h' : Nat} (h : Steady .memory a d) : Steady .memory a (d.portReset h') :=
  ((((h.resetReg.foldl fun _ _ => Steady.refl.setRb.fnStop).mk).foldl fun _ _ => Steady.refl.countTags).foldl fun _ _ => Steady.refl.fnReset).showFaces

theorem OutOk.hostLinkDown {h : Fin 8} : OutOk s (execHostLinkDown h s) := .eventOn fun h => .ite h.raiseFree.lifeReset.portReset.hostTrain h

theorem OutOk.hotReset {h : Fin 8} : OutOk s (execHotReset h s) := .eventOn fun h => .ite h.lifeReset.portReset.hostTrain h

theorem Steady.applyBar2 {h' : Nat} (h : Steady .memory a d) : Steady .memory a (d.applyBar2 h') := h.foldl fun _ _ => Steady.refl.updFn

theorem OutOk.fundamentalReset {h : Fin 8} : OutOk s (execFundamentalReset h s) := .eventOn fun h => .ite h h.mk.lifeReset.portReset.applyBar2

theorem OutOk.hostLinkUp {h : Fin 8} {t : LinkTrain} : OutOk s (execHostLinkUp h t s) := .eventOn fun h => .ite h.setReg.showFaces h

theorem OutOk.tagQuarantineRelease {tag : Nat} : OutOk s (execTagQuarantineRelease tag s) := by
  refine .eventOn fun h => ?_
  split
  · exact .ite h.dropTag h
  · exact h

theorem Steady.masterOff {h' f : Nat} (h : Steady .memory a d) : Steady .memory a (d.masterOff h' f) := h.fnStop.countTags.showFaces

theorem Steady.sendHeld {h' f : Nat} (h : Steady .memory a d) : Steady .memory a (d.sendHeld h' f) := h.updFn.foldl fun _ _ => Steady.refl.interrupt

theorem Steady.masterOn {h' f : Nat} (h : Steady .memory a d) : Steady .memory a (d.masterOn h' f) :=
  ((h.foldl fun _ _ => Steady.refl.sliceDrain).drainChannels.sendHeld).showFaces

theorem OutOk.busMasterEnableClear {h : Fin 8} {f : Fin 9} : OutOk s (execBusMasterEnableClear h f s) := .eventOn fun h => .ite h.setRb.masterOff h

theorem OutOk.busMasterEnableSet {h : Fin 8} {f : Fin 9} : OutOk s (execBusMasterEnableSet h f s) := .event fun h => .ite h.setRb.masterOn h

theorem OutOk.d3hotEntry {h : Fin 8} {f : Fin 9} : OutOk s (execD3hotEntry h f s) := .eventOn fun h => .ite h.setRf.masterOff h

theorem OutOk.d3hotExit {h : Fin 8} {f : Fin 9} : OutOk s (execD3hotExit h f s) := .eventOn fun h => .ite (.ite h.setRf.masterOn h.setRf.showFaces) h

theorem Steady.sendPending {h' f : Nat} (h : Steady .memory a d) : Steady .memory a (d.sendPending h' f) :=
  .ite (.ite h (h.setFn.foldl fun _ _ => Steady.refl.interrupt)) (.ite (h.setFn.foldl fun _ _ => Steady.refl.interrupt) h)

theorem Steady.irqEnables {h' f : Nat} {e : IrqEnables} (h : Steady .memory a d) : Steady .memory a (d.irqEnables h' f e) :=
  ((Steady.ite (h.updFn.irqMech.resetAll.foldl fun _ _ => Steady.refl.interrupt) h.updFn.irqMech).intaEdge).sendPending

theorem OutOk.interruptEnableChange {h : Fin 8} {f : Fin 9} {e : IrqEnables} : OutOk s (execInterruptEnableChange h f e s) := .event fun h => .ite h.irqEnables h

theorem OutOk.vectorUnmask {h : Fin 8} {f : Fin 9} {v : Option (Fin 2048)} : OutOk s (execVectorUnmask h f v s) := .event fun h => .ite h.updFn.sendPending h

theorem Steady.intxClear {h' f i v : Nat} (h : Steady .memory a d) : Steady .memory a (d.intxClear h' f i v) := h.setReg.intaEdge

theorem OutOk.hostIntxPend {who : Who} {h : Fin 8} {f : Fin 9} {i : Fin 64} {v : W32} : OutOk s (execHostIntxPend who h f i v s) := .eventOn fun h => .ite h.intxClear h.denyWrite

theorem Steady.winCommit {h' f : Nat} (h : Steady .memory a d) : Steady .memory a (d.winCommit h' f) := by
  unfold Dev.winCommit
  dsimp only
  refine .ite ?_ ?_
  · exact h.setRb
  · split
    · exact h.setRb.setRb.setRf
    · exact (((h.setRb.foldl fun _ _ => Steady.refl.setReg.setReg).setRf).setRb).setRb

theorem OutOk.hostWinCommit {who : Who} {h : Fin 8} {f : Fin 9} : OutOk s (execHostWinCommit who h f s) := .event fun h => .ite h.winCommit h.denyWrite

theorem OutOk.winCopyDone {h : Fin 8} {f : Fin 9} : OutOk s (execWinCopyDone h f s) := .event fun h => .ite h ((h.foldl fun _ _ => Steady.refl.setReg).setRb)

theorem OutOk.hostCompletionRx {tag : Nat} {reply : Reply} : OutOk s (execHostCompletionRx tag reply s) := by
  refine .eventOn fun {a d} h => ?_
  split
  · exact .ite h.fresh.aer h.fresh.aer
  refine .ite h (.ite h ?_)
  extract_lets d1
  have h1 : Steady .memory a d1 := by
    unfold d1
    split
    · exact h.countBy
    · exact h.countBy
    · exact h
  exact .ite h1.dropTag h1.mk.countTags

theorem OutOk.hostCplTimeout {tag : Nat} : OutOk s (execHostCplTimeout tag s) := by
  refine .eventOn fun h => ?_
  dsimp only
  split
  · exact h
  · refine .ite ?_ ?_
    · exact h
    · refine .ite ?_ ?_
      · exact h.aer.raiseFree.count.dropTag
      · split
        · exact h.aer.raiseFree.count.mk.countTags.fetchReturn
        · exact h.aer.raiseFree.count.mk.countTags.txFrameRead
        · exact h.aer.raiseFree.count.dropTag.failXfer
        · exact h.aer.raiseFree.count.mk.countTags.readbackReturn
        · split
          · exact h.aer.raiseFree.count.mk.countTags.resultReturn.dropTag
          · exact h.aer.raiseFree.count.dropTag
        · exact h.aer.raiseFree.count.mk.countTags
        · exact h.aer.raiseFree.count.dropTag

theorem OutOk.aspmL1Entry {h : Fin 8} : OutOk s (execAspmL1Entry h s) := .eventOn fun h => .ite h.setRb.count h

theorem Steady.quietEval {p : Nat} (h : Steady .memory a d) : Steady .memory a (d.quietEval p) := by
  unfold Dev.quietEval
  dsimp only
  refine .ite ?_ ?_
  · split
    · exact h.setPart unwatched
    · exact h
  · exact .ite (h.setPart unwatched) (h.setPart unwatched)

theorem Steady.quietTick (h : Steady .memory a d) : Steady .memory a d.quietTick := h.foldl fun _ _ => .ite Steady.refl.quietEval Steady.refl

theorem OutOk.partitionQuiet {p : Fin 8} : OutOk s (execPartitionQuiet p s) := by
  refine .event fun h => ?_
  dsimp only
  split
  · exact h
  · exact .ite h (((h.setPart unwatched).incRf).raiseFree)

theorem Steady.snapMerge (h : Steady .memory a d) : Steady .memory a d.snapMerge := h.incRf

theorem Steady.snapAnswer {op : Nat × Nat} {v : Word} (h : Steady .memory a d) : Steady .memory a (d.snapAnswer op v) := h.updThread

theorem Steady.snapAccept {cause a' : Nat} {op : Option (Nat × Nat)} (h : Steady .memory a d) : Steady .memory a (d.snapAccept cause a' op) := by
  unfold Dev.snapAccept
  dsimp only
  refine .ite ?_ ?_
  · refine ?_
    · split
      · exact h.snapAnswer
      · exact h
  · split
    · exact h.mk.setRf.mk
    · refine .ite ?_ h.snapMerge.mk
      · split
        · exact h.snapAnswer
        · exact h

theorem Steady.snapDisarm (h : Steady .memory a d) : Steady .memory a d.snapDisarm := ((h.foldl fun _ _ => Steady.refl.snapAnswer).setReg).setReg

theorem OutOk.snapArm {h : CmdHdr} : OutOk s (execSnapArm h s) := by
  refine .wenot fun h => ?_
  dsimp only
  refine .ite ?_ ?_
  · exact h
  · refine .ite ?_ ?_
    · exact h
    · refine .ite ?_ ?_
      · exact h
      · refine .ite ?_ ?_
        · split
          · exact (Steady.ite h.snapDisarm.mk.setReg.setReg.setReg.setReg.setReg.setReg h.snapDisarm.mk.setReg.setReg.setReg.setReg.setReg).snapAccept
          · exact (Steady.ite h.snapDisarm.mk.setReg.setReg.setReg.setReg.setReg.setReg h.snapDisarm.mk.setReg.setReg.setReg.setReg.setReg).snapAccept
        · exact Steady.ite h.snapDisarm.mk.setReg.setReg.setReg.setReg.setReg.setReg h.snapDisarm.mk.setReg.setReg.setReg.setReg.setReg

theorem OutOk.snapTimeTrigger : OutOk s (execSnapTimeTrigger s) := by
  refine .eventOn fun h => ?_
  dsimp only
  refine .ite ?_ ?_
  · split
    · exact h.setRb.mk.setRf
    · exact .ite h.setRb.snapMerge h.setRb
  · exact h

theorem OutOk.snapInEdge : OutOk s (execSnapInEdge s) := by
  refine .eventOn fun h => ?_
  dsimp only
  refine .ite ?_ ?_
  · exact h
  · exact .ite h.mk h.mk.setReg.snapAccept

theorem OutOk.snapTriggerAccept : OutOk s (execSnapTriggerAccept s) := by
  refine .eventOn fun h => ?_
  split
  · exact h
  · exact h.mk.snapAccept

theorem OutOk.snapLatch : OutOk s (execSnapLatch s) := by
  refine .eventOn fun h => ?_
  dsimp only
  split
  · exact h
  · exact .ite h ((((((((h.foldl fun _ _ => Steady.refl.snapAnswer).mk).setRb).setReg).setReg).setReg).setReg).count)

theorem OutOk.snap {i : Issue} {rd : BitVec 5} : OutOk s (execSnap i rd s) := .issue fun _ h => Steady.ite h.sendOp h.sendOp.mk

theorem OutOk.snapRead {h : CmdHdr} : OutOk s (execSnapRead h s) := .wenot fun h => .ite h h.fresh

theorem Steady.lowRead {who : Who} {v : Word} (h : Steady .memory a d) : Steady .memory a (d.lowRead who v).2 := h.mk

theorem OutOk.counterLowRead {who : Who} {ev : Fin 5120} : OutOk s (execCounterLowRead who ev s) := .eventOn fun h => .ite h.denyRead h.lowRead.emit

theorem Steady.retiredRead {tid : Nat} (h : Steady .memory a d) : Steady .memory a (d.retiredRead tid) := h.mk

theorem OutOk.slotRetiredRead {tid : Fin 512} : OutOk s (execSlotRetiredRead tid s) := .eventOn fun h => h.retiredRead.emit

theorem OutOk.cntWinCfgWrite {who : Who} {w : Fin 1024} {r : Fin 4} {v : W32} : OutOk s (execCntWinCfgWrite who w r v s) := .eventOn fun h => .ite h.winWrite h.denyWrite

theorem OutOk.counterFaceMirror {w : Fin 1024} : OutOk s (execCounterFaceMirror w s) := by
  refine .event fun {a d} h => ?_
  split
  · refine .ite h ?_
    -- the kernel must not look the face up
    obtain ⟨face, hf⟩ : ∃ f, Dev.winFace = f := ⟨_, rfl⟩
    rw [hf]
    extract_lets n
    split
    · exact h.setRb.mk
    · exact (h.foldl fun _ _ => Steady.refl.write).mk
  · exact h

theorem OutOk.counterDumpInstant : OutOk s (execCounterDumpInstant s) := .eventOn fun h => .ite h (.ite h.mk.setRf.incRf.count.mk (.ite h.mk.setRf h.mk.setRf.mk))

theorem Steady.dumpAbandon (h : Steady .memory a d) : Steady .memory a d.dumpAbandon := h.setRb.mk

theorem Steady.dumpLine (h : Steady .memory a d) : Steady .memory a d.dumpLine := by
  unfold Dev.dumpLine
  dsimp only
  split
  · exact h
  · exact .ite h.dumpAbandon (.ite h.hostWrite.mk (((Steady.ite h.hostWrite.count h.hostWrite).hostRead).mk))

theorem OutOk.dumpComplete {ok : Bool} : OutOk s (execDumpComplete ok s) := by
  refine .eventOn fun h => ?_
  dsimp only
  refine .ite ?_ ?_
  · exact h
  · exact .ite h.endOp.mk.mk h.endOp.mk.dumpAbandon

theorem Steady.showCpend {c : Nat} (h : Steady .memory a d) : Steady .memory a (d.showCpend c) := h.setReg

theorem Steady.ackWhere {p : PendFault → Bool} (h : Steady .memory a d) : Steady .memory a (d.ackWhere p) := h.mk.foldl fun _ _ => Steady.refl.showCpend

theorem Steady.ackNotice {p source : Nat} (h : Steady .memory a d) : Steady .memory a (d.ackNotice p source) := by
  unfold Dev.ackNotice
  split
  · exact h.mk.showCpend
  · exact h

theorem Steady.popNotice {p tid : Nat} (h : Steady .memory a d) : Steady .memory a (d.popNotice p tid).2 := by
  unfold Dev.popNotice
  split
  · exact h
  · dsimp only
    exact .ite ((h.setPart unwatched).setRf.updThread.ackNotice) (h.setPart unwatched).setRf.updThread

theorem OutOk.cinc {i : Issue} {ra : BitVec 5} {n : BitVec 9} : OutOk s (execCinc i ra n s) := .issue fun _ h => .ite trivial h.updThread

theorem Steady.readSr {tid p n : Nat} (h : Steady .memory a d) : Steady .memory a (d.readSr tid p n).2 := by
  unfold Dev.readSr
  dsimp only
  split
  case h_7 => exact h.updThread
  case h_10 => exact h.popNotice
  all_goals exact h

theorem OutOk.mfsr {i : Issue} {rd : BitVec 5} {sr : BitVec 5} : OutOk s (execMfsr i rd sr s) := by
  refine .issue fun _ h => ?_
  dsimp only
  refine .ite ?_ ?_
  · exact trivial
  · refine .ite ?_ ?_
    · exact trivial
    · split
      · exact trivial
      · refine .ite ?_ ?_
        · split
          · exact trivial
          · exact h.setThread
        · exact Steady.ite h.readSr.updThread.recordInput h.readSr.updThread

theorem OutOk.mtsr {i : Issue} {sr : BitVec 5} {ra : BitVec 5} : OutOk s (execMtsr i sr ra s) := .issue fun _ h => .ite h.updThread (.ite h.updThread trivial)

theorem OutOk.tstart {i : Issue} {rd ra rb : BitVec 5} : OutOk s (execTstart i rd ra rb s) := by
  refine .issue fun _ h => ?_
  dsimp only
  refine .ite ?_ ?_
  · exact trivial
  · split
    · exact trivial
    · refine .ite ?_ ?_
      · exact trivial
      · refine .ite ?_ ?_
        · split
          · exact trivial
          · exact Steady.ite h.setThread.updThread h.setThread.sendOp
        · exact Steady.ite (.ite ((Steady.ite h.updThread h).updThread) ((Steady.ite h.updThread h).sendOp)) ((Steady.ite ((Steady.ite h.updThread h).updThread) ((Steady.ite h.updThread h).sendOp)).recordInput)

theorem Steady.holdLeases {p tid : Nat} (h : Steady .memory a d) : Steady .memory a (d.holdLeases p tid) := .ite h.updThread h

theorem Steady.runLeases {tid : Nat} (h : Steady .memory a d) : Steady .memory a (d.runLeases tid) := h.updThread

theorem Steady.debugAsk {tid : Nat} {act : Nat → Dev → Dev} (h : Steady .memory a d) (hact : ∀ p {d}, Steady .memory a d → Steady .memory a (act p d)) :
    Steady .memory a (d.debugAsk tid act) := by
  unfold Dev.debugAsk
  extract_lets c
  split
  · exact h
  extract_lets duplex banned d1 d2
  have h1 : Steady .memory a d1 := .ite h.setRb h
  have h2 : Steady .memory a d2 := .ite h1.setRb h1
  exact .ite h2 (hact _ h2)

theorem Steady.haltThread {p tid : Nat} (h : Steady .memory a d) : Steady .memory a (d.haltThread p tid) := .ite h.setRb.updThread.holdLeases h.setRb

theorem Steady.resumeThread {tid : Nat} {step : Bool} (h : Steady .memory a d) : Steady .memory a (d.resumeThread tid step) := by
  unfold Dev.resumeThread
  dsimp only
  split
  · exact h.setThread
  · exact h.setThread
  · exact .ite h.setThread h.setThread.count

theorem OutOk.debugHalt {tid : Fin 576} : OutOk s (execDebugHalt tid s) := .event fun h => h.debugAsk fun _ _ h => h.haltThread

theorem OutOk.debugStep {tid : Fin 576} : OutOk s (execDebugStep tid s) := .event fun h => h.debugAsk fun _ _ h => .ite h.resumeThread h

theorem Steady.debugRun {tid : Nat} (h : Steady .memory a d) : Steady .memory a (d.debugRun tid) := .ite h.setRb.resumeThread.runLeases h.setRb

theorem OutOk.debugResume {tid : Fin 576} : OutOk s (execDebugResume tid s) := .event fun h => h.debugAsk fun _ _ h => h.debugRun

theorem OutOk.breakpointHit {tid : Fin 576} : OutOk s (execBreakpointHit tid s) := by
  refine .event fun h => ?_
  dsimp only
  split
  · exact h
  · exact .ite h.haltThread h

theorem OutOk.freedSlot {tid : Fin 512} {ring : Option (Fin 16384)} : OutOk s (execFreedSlot tid ring s) := by
  refine .event fun h => ?_
  dsimp only
  refine .ite ?_ ?_
  · exact h
  · split
    · exact h.slots.prefetch.count
    · exact .ite h.slots.dumpLine.count (.ite h.slots h.slots.count)

end Sys2Proof.Machine
end

section
/-! PROOFS. Memory stays canonical: the fault collector, configuration, start-up, duplex and forwarded commands. One rule for each operation that the chains of `Steady` do not have yet, written as the operation is, and one for each command. -/

namespace Sys2Proof.Machine
open Sys2Proof

/- Many short rules follow: elaborated one after another they need few threads at a time. -/
set_option Elab.async false

variable {a b d e : Dev} {s : State}

theorem Steady.histPush {ws : List Word} (h : Steady .memory a d) : Steady .memory a (d.histPush ws) :=
  .ite ((h.foldl fun _ _ => Steady.refl.setReg).setRf) ((((h.foldl fun _ _ => Steady.refl.setReg).foldl fun _ _ => Steady.refl.setReg).incRf).count)

theorem Steady.enterSafe {source : Nat} (h : Steady .memory a d) : Steady .memory a (d.enterSafe source) :=
  (((((((((((((h.setReg.setReg.setRb.lifeReset.fwAbandon.mk.foldl fun _ _ => Steady.refl.cutWire).mk).foldl fun _ _ => Steady.refl.dropXfer).abortOps).purgeKeys).foldl fun _ _ => Steady.refl.dropUnits).discardReqs).internalError).setReg).mk).setPhase).mk).checkpoint).showFaces

theorem Steady.viewTold {tid : Nat} (h : Steady .memory a d) : Steady .memory a (d.viewTold tid) := h.mk

theorem Steady.viewMissed {tid : Nat} (h : Steady .memory a d) : Steady .memory a (d.viewMissed tid) := .ite h.mk h

theorem Steady.notify {p : Nat} {r : Report} {pend : Bool} (h : Steady .memory a d) : Steady .memory a (d.notify p r pend).2 := by
  unfold Dev.notify
  extract_lets lost x n d1 d2
  have hl : Steady .memory a (lost d) := by
    refine Steady.count (Steady.incRf ?_)
    split
    · exact h.viewMissed
    · exact h
  have h1 : Steady .memory a d1 := by
    unfold d1
    split
    · exact h.viewTold
    · exact h
  split
  · exact hl
  split
  · exact hl.setEvent
  · exact ((h1.setPart unwatched).setRf).setEvent

theorem Steady.noteCheck {r : Report} {p : Nat} (h : Steady .memory a d) : Steady .memory a (d.noteCheck r p) := h.setDuplex

theorem Steady.addPend {r : Report} {eff : Nat} {noticed : Bool} (h : Steady .memory a d) : Steady .memory a (d.addPend r eff noticed) := .ite h h.mk.showCpend

theorem Steady.actPart {p : Nat} {r : Report} {eff : Nat} (h : Steady .memory a d) : Steady .memory a (d.actPart p r eff) := by
  unfold Dev.actPart
  refine .ite h ?_
  extract_lets own tell
  split
  next noticed d0 he =>
  have h0 : Steady .memory a d0 := by
    split at he
    · exact .of_eq (congrArg Prod.snd he) h.notify
    · cases he; exact h
  exact .ite h0.addPend.containPart.interruptManager (.ite h0.addPend.interruptManager h0.addPend)

theorem Steady.actFault {r : Report} {eff : Nat} (h : Steady .memory a d) : Steady .memory a (d.actFault r eff) := by
  unfold Dev.actFault
  dsimp only
  refine .ite ?_ ?_
  · exact h.addPend.enterSafe
  · split
    · exact .ite h.actPart.interruptManager h.actPart
    · exact .ite (.ite h.interruptManager h) h.addPend.interruptManager

theorem Steady.takeReport {r : Report} (h : Steady .memory a d) : Steady .memory a (d.takeReport r) := by
  unfold Dev.takeReport
  split
  extract_lets seq _ f _ d1 d2 d3 d4 takes d5
  have h2 : Steady .memory a d2 := h.mk.count.incRf
  have h3 : Steady .memory a d3 := .ite h2.histPush h2
  have h4 : Steady .memory a d4 := .ite h3.snapAccept h3
  have h5 : Steady .memory a d5 := .ite (h4.foldl fun _ _ => Steady.refl.noteCheck) h4
  exact .ite h3 (.ite h5.addPend h5.actFault)

theorem Steady.extReport {e : ExtFault} (h : Steady .memory a d) : Steady .memory a (d.extReport e) := .ite h h.raise.useInjection

theorem OutOk.faultCollect {ext : Option ExtFault} : OutOk s (execFaultCollect ext s) := by
  refine .eventOn fun {a d} h => ?_
  extract_lets d1
  have h1 : Steady .memory a d1 := by
    unfold d1
    split
    · exact h.extReport
    · exact h
  clear_value d1
  split
  · exact h1
  · exact h1.mk.takeReport

theorem OutOk.fltWatchdog : OutOk s (execFltWatchdog s) := .event fun h => .ite h.fresh.takeReport h

theorem OutOk.injectionCancel : OutOk s (execInjectionCancel s) := by
  refine .eventOn fun h => ?_
  split
  · exact .ite h.setReg.mk.setPhase h
  · exact h

theorem OutOk.faultInject {h : CmdHdr} : OutOk s (execFaultInject h s) := .wenot fun h => .ite h (.ite h h.setReg.mk.setPhase)

theorem OutOk.faultRead {h : CmdHdr} : OutOk s (execFaultRead h s) := by
  refine .wenot fun h => ?_
  dsimp only
  split
  · exact .ite h h
  · exact .ite h h
  · exact h

theorem OutOk.faultAck {h : CmdHdr} : OutOk s (execFaultAck h s) := .wenot fun h => h.ackWhere

theorem Steady.confWord {isl off v : Nat} (h : Steady .memory a d) : Steady .memory a (d.confWord isl off v).1 := by
  unfold Dev.confWord
  split
  · split
    · exact h
    · exact h.setReg
  · exact h

theorem Steady.addEnts {es : List (List Byte)} (h : Steady .memory a d) : Steady .memory a (d.addEnts es) := h.mk

theorem Steady.eraseSlot {k' : Nat} (h : Steady .memory a d) : Steady .memory a (d.eraseSlot k') := h.foldl fun _ _ => .ite Steady.refl Steady.refl.eraseDue

theorem Steady.logReport (h : Steady .memory a d) : Steady .memory a d.logReport := .ite h.flashProgram.mk.eraseSlot h.incRf

theorem Steady.reportStat {noImage : Bool} (h : Steady .memory a d) : Steady .memory a (d.reportStat noImage) := h.setRf

theorem Steady.confRecord {recNo : Nat} {r : List Byte} (h : Steady .memory a d) : Steady .memory a (d.confRecord recNo r).1 := by
  unfold Dev.confRecord
  exact Steady.foldl_at (g := Prod.fst) h fun _ _ => Steady.refl.confWord.addEnts

theorem Steady.confRecords {rs : List (List Byte)} (h : Steady .memory a d) : Steady .memory a (d.confRecords rs).1 := by
  unfold Dev.confRecords
  refine Steady.foldl_at (g := Prod.fst) h fun _ _ => ?_
  dsimp only
  split
  · exact Steady.refl.confRecord
  · split
    · exact .refl
    · exact Steady.refl.addEnts

theorem Steady.nameOwners (h : Steady .memory a e) : Steady .memory a (d.nameOwners e) :=
  h.foldl fun _ _ => Steady.refl.foldl fun _ _ => by
    split
    · exact Steady.refl.upd
    · exact .refl

theorem Steady.retrain {q : Nat} (h : Steady .memory a d) : Steady .memory a (d.retrain q) := h.foldl fun _ _ => Steady.refl.linkDown

theorem Steady.overcommit (h : Steady .memory a d) : Steady .memory a d.overcommit := h.foldl fun _ _ => Steady.refl.setRb

theorem Steady.commitRegs (h : Steady .memory a d) : Steady .memory a (d.commitRegs e) := by
  unfold Dev.commitRegs
  extract_lets d0 d1 d2 stale drop caches _ d3 put d4 d5 d6 _ d7
  have h3 : Steady .memory a d3 := ((h.foldl fun _ _ => Steady.refl.retrain).foldl fun _ _ => Steady.refl.flushTxq).mk
  clear_value d3
  have h5 : Steady .memory a d5 := (h3.foldl fun _ _ => Steady.refl.foldl fun _ _ => Steady.refl.setReg).foldl fun _ _ => Steady.refl.mmStart
  clear_value d5
  have h6 : Steady .memory a d6 := h5.foldl fun _ _ => .ite Steady.refl.setReg Steady.refl.mk.setRb
  clear_value d6
  have h7 : Steady .memory a d7 := .ite h6 h6.mk
  clear_value d7
  exact (Steady.nameOwners h7.mk).overcommit.srcChanged.kickAll.kickAll

theorem Steady.flashWrite {a' : Nat} {bs : List Byte} (h : Steady .memory a d) : Steady .memory a (d.flashWrite a' bs).1 := by
  unfold Dev.flashWrite
  refine Steady.foldl_at (g := Prod.fst) h fun _ _ => ?_
  dsimp only
  split
  · exact Steady.refl.flashProgram
  · exact Steady.refl.flashErase.flashProgram

theorem Steady.setStaged {rs : List (List Byte)} (h : Steady .memory a d) : Steady .memory a (d.setStaged rs) := h.mk.setReg

theorem OutOk.cfgStage {h : CmdHdr} : OutOk s (execCfgStage h s) := by
  refine .wenot fun h => ?_
  dsimp only
  split
  · exact h
  · exact .ite h (.ite h h.setStaged)

theorem OutOk.cfgCommit {h : CmdHdr} : OutOk s (execCfgCommit h s) := by
  refine .wenot fun {a _ _ d} h => ?_
  extract_lets persist dry _ d1
  split
  next e clamps he =>
  extract_lets d2 _ d3 st r0 d4
  have h3 : Steady .memory a d3 := h.mk.mk.mk
  have h4 : Steady .memory a d4 := h3.reportStat.logReport
  clear_value d3 d4
  refine .ite h3 (.ite h4 ?_)
  split
  · exact h4
  refine .ite h4 (.ite h4 ?_)
  exact Steady.setStaged (.ite h4.commitRegs.flashWrite h4.commitRegs)

theorem OutOk.cfgReport {h : CmdHdr} : OutOk s (execCfgReport h s) := by
  refine .wenot fun h => .ite h ?_
  split
  · exact h
  · exact h

theorem OutOk.smemUpdate {h : CmdHdr} : OutOk s (execSmemUpdate h s) := .wenot fun h => .ite h (.ite h (.ite h (.ite h h.flashWrite)))

theorem OutOk.devIdentify {h : CmdHdr} : OutOk s (execDevIdentify h s) := .wenot fun h => h

theorem OutOk.devStatus {h : CmdHdr} : OutOk s (execDevStatus h s) := .wenot fun h => h.mk

theorem OutOk.timeSet {h : CmdHdr} : OutOk s (execTimeSet h s) := .wenot fun h => .ite h (.ite h ((Steady.ite h.applyStep.setRb.withTime.toHoldover h.applyStep.setRb.withTime).behindHwm.leapCheck))

theorem OutOk.timeStatus {h : CmdHdr} : OutOk s (execTimeStatus h s) :=
  .wenot fun h => .ite h (Steady.foldl_at (g := Prod.fst) h fun _ _ => Steady.refl.confWord)

theorem OutOk.leapTable {h : CmdHdr} : OutOk s (execLeapTable h s) := .wenot fun h => .ite h h.mk.setRb.leapCheck

theorem OutOk.gateInstall {h : CmdHdr} : OutOk s (execGateInstall h s) := .wenot fun h => .ite h (.ite h h.gateInstall)

theorem OutOk.lifeRead {h : CmdHdr} : OutOk s (execLifeRead h s) := by
  refine .wenot fun h => ?_
  dsimp only
  split
  · exact .ite h h
  · refine .ite h ?_
    split
    · exact h
    · exact h
  · split
    · exact h
    · exact h
  · exact h

theorem OutOk.viewSample {item : Fin 8} {obj : BitVec 16} : OutOk s (execViewSample item obj s) := by
  refine .event fun h => ?_
  dsimp only
  split
  · exact h
  · refine .ite ?_ ?_
    · exact h
    · refine .ite ?_ ?_
      · exact h.mk
      · split
        · exact h.mk
        · exact .ite h h.mk.raiseFree.mk

theorem Steady.dark (_ : Steady .memory a d) : Steady .memory a d.dark := .of_empty rfl

theorem Steady.dropAllUnits (h : Steady .memory a d) : Steady .memory a d.dropAllUnits := h.foldl fun _ _ => Steady.refl.dropUnits

theorem Steady.brownOut (h : Steady .memory a d) : Steady .memory a d.brownOut := ((Steady.ite h.dropAllUnits.emit h.dropAllUnits).mk).dark

theorem OutOk.brownOut : OutOk s (execBrownOut s) := .eventAny fun h => .ite h.brownOut h

theorem Steady.devCleared (h : Steady .memory a d) : Steady .memory a d.devCleared := h.dark.upd.setRf.setRf

theorem Steady.readImages {ks : List Nat} (h : Steady .memory a d) : Steady .memory a (d.readImages ks).1 := by
  induction ks generalizing d with
  | nil => exact h
  | cons k ks ih =>
    unfold Dev.readImages
    dsimp only
    split
    · exact h.mk
    · exact ih h.mk

theorem Steady.showTrials (h : Steady .memory a d) : Steady .memory a d.showTrials := h.setRf.setRf

theorem Steady.bootBegin (h : Steady .memory a d) : Steady .memory a d.bootBegin := by
  unfold Dev.bootBegin
  extract_lets b good select limit all valid order tooOld passed
  split
  next d1 k' he =>
  have h1 : Steady .memory a d1 := .of_eq (congrArg Prod.fst he) h.readImages
  extract_lets _ boot d2 d3 d4 d5
  have h5 : Steady .memory a d5 := h1.mk.setReg.showTrials.setReg.setReg
  clear_value d5
  split
  · exact h5.mk
  · exact h5

theorem Steady.loadTime (h : Steady .memory a d) : Steady .memory a d.loadTime :=
  (((Steady.ite h.withTime.setQuality.setErr.setRb h.withTime.setRb).setRf).setHwm).behindHwm

theorem OutOk.powerOnReset : OutOk s (execPowerOnReset s) := .eventAny fun h => .ite (((((((Steady.ite h.brownOut h).mk).lifeReset).loadTime.lifeRegs).resetReg).setReg).mk) ((((((((Steady.ite h.brownOut h).mk).lifeReset).loadTime.lifeRegs).resetReg).setReg).mk).bootBegin)

theorem OutOk.deviceReset {perst : Bool} : OutOk s (execDeviceReset perst s) := .eventAny fun h => .ite h (.ite h.mk (.ite h.dropAllUnits.lifeReset.devCleared.setReg.bootBegin h.dropAllUnits.lifeReset.devCleared.setReg.mk))

theorem OutOk.devRstNRelease : OutOk s (execDevRstNRelease s) := .eventAny fun h => .ite h (.ite h.mk.bootBegin h.mk)

theorem OutOk.perstRelease {h : Fin 8} : OutOk s (execPerstRelease h s) := .eventAny fun h => .ite h (.ite h.mk.hostTrain h.mk)

theorem Steady.vauxGone (h : Steady .memory a d) : Steady .memory a d.vauxGone := h.mk

theorem OutOk.vauxLost : OutOk s (execVauxLost s) := .eventAny fun h => .ite h.vauxGone h

theorem Steady.auxRestore (h : Steady .memory a d) : Steady .memory a d.auxRestore := .ite h h.mk.lifeRestore.mk.lifeRegs

theorem OutOk.auxReset : OutOk s (execAuxReset s) := .eventAny fun h => .ite (((((Steady.ite h.vauxGone h).mk).lifeReset).setReg).auxRestore) ((((Steady.ite h.vauxGone h).mk).lifeReset).setReg)

theorem Steady.bootReport {log : Bool} (h : Steady .memory a d) : Steady .memory a (d.bootReport log) := by
  unfold Dev.bootReport
  exact Steady.mk (.ite h.mk.mk.reportStat.logReport h.mk.mk.reportStat)

theorem Steady.takeIds {rs : List (List Byte)} (h : Steady .memory a d) : Steady .memory a (d.takeIds rs) := h.foldl fun _ _ => Steady.refl.mk

theorem Steady.imageApply (h : Steady .memory a d) : Steady .memory a d.imageApply := by
  unfold Dev.imageApply
  extract_lets d0 rs block _ d1 d2 _ boot links objs _ host _ time _ d3 d4 d5
  have h2 : Steady .memory a d2 := (Steady.nameOwners h.mk.confRecords).takeIds.overcommit
  clear_value d2
  have h4 : Steady .memory a d4 := h2.mk.foldl fun _ _ => .ite Steady.refl.applyBar2.hostTrain Steady.refl.applyBar2
  clear_value d4
  exact Steady.reselect (Steady.bootReport (.ite h4.mk h4))

theorem OutOk.imageApply : OutOk s (execImageApply s) := .event fun h => .ite h h.imageApply

theorem Steady.asGuest {f : State → Out} (h : Steady .memory a d) (hf : ∀ s, OutOk s (f s)) : Steady .memory a (d.asGuest f).1 := by
  unfold Dev.asGuest
  extract_lets fw e
  split
  · next t ht => exact Steady.mk (steady_memory_iff.mpr fun ha => (hf ⟨e, none, []⟩ ⟨h.wf ha, fun _ hb => by cases hb⟩ t ht).1)
  · exact h

theorem Steady.runObj {r : List Byte} (h : Steady .memory a d) : Steady .memory a (d.runObj r).1 := by
  unfold Dev.runObj
  split
  · exact h.asGuest fun _ => .partCreate
  · exact h.asGuest fun _ => .sliceCreate
  · exact .ite_fst ((h.asGuest fun _ => .progLoad).asGuest fun _ => .progStart) (h.asGuest fun _ => .progLoad)
  · exact h.asGuest fun _ => .gateInstall

theorem Steady.runObjs {l : List (Nat × List Byte)} (h : Steady .memory a d) : Steady .memory a (Dev.runObjs l d) := by
  induction l generalizing d with
  | nil => exact h.mk
  | cons x l ih =>
    unfold Dev.runObjs
    exact .ite h.mk (ih h.runObj.mk)

theorem Steady.goObjs (h : Steady .memory a d) : Steady .memory a d.goObjs := by
  unfold Dev.goObjs
  exact Steady.setRb (.ite h.runObjs.bootReport h.runObjs)

theorem Steady.reloadKeys (h : Steady .memory a d) : Steady .memory a d.reloadKeys :=
  .ite h (h.keyCounts.foldl fun _ _ => .ite Steady.refl.raiseDev (.ite Steady.refl.setSlot.setInv Steady.refl.setSlot))

theorem Steady.eraseAhead (h : Steady .memory a d) : Steady .memory a d.eraseAhead := .ite h (((Steady.ite h h.eraseDue).eraseSlot).lifeReady)

theorem OutOk.firmwareReady : OutOk s (execFirmwareReady s) := .event fun h => .ite h h.reloadKeys.auxRestore.eraseAhead.mk.setPhase.setRf.goObjs.showFaces

theorem OutOk.ddrZeroDone : OutOk s (execDdrZeroDone s) := by
  unfold execDdrZeroDone
  refine .ite (.closed .refl) ?_
  extract_lets d0 d1 d2
  have h2 : Steady .memory s.dev d2 := .ite Steady.refl.mk.setRb Steady.refl.mk.goObjs
  clear_value d2
  split
  · exact .of_state .partCreate fun hs => ⟨h2.wf hs.1, hs.2⟩
  · exact .closed h2

theorem OutOk.trialClear : OutOk s (execTrialClear s) := by
  refine .event fun h => ?_
  split
  · exact .ite h h.mk.showTrials
  · exact h

theorem OutOk.supplyWarn : OutOk s (execSupplyWarn s) := .eventAny fun h => .ite h (.ite (((Steady.ite h.raiseFree h).mk).setReg) (((((Steady.ite h.raiseFree h).mk).setReg).mk).checkpoint))

theorem OutOk.supplySag : OutOk s (execSupplySag s) := by
  refine .eventAny fun h => ?_
  dsimp only
  split
  · exact .ite h (((Steady.ite h.raiseFree h).setRb).mk)
  · exact h

theorem OutOk.supplyWarnEnd : OutOk s (execSupplyWarnEnd s) := by
  refine .eventAny fun h => ?_
  dsimp only
  split
  · exact h.mk.setRf.setRf.mk
  · exact h

theorem Steady.takeUnits {p : Nat} (h : Steady .memory a d) : Steady .memory a (d.takeUnits p) := h.foldl fun _ _ => .ite Steady.refl Steady.refl.setRb.emit

theorem Steady.dpxClear {p : Nat} (h : Steady .memory a d) : Steady .memory a (d.dpxClear p) := h.dropUnits.resetAll.mk.setDuplex

theorem Steady.rejoin {p : Nat} (h : Steady .memory a d) : Steady .memory a (d.rejoin p) := .ite h h.setRb.setDuplex

theorem Steady.unsync {p : Nat} (h : Steady .memory a d) : Steady .memory a (d.unsync p) := h.setRb.setRb.setDuplex

theorem OutOk.duplexConfig {h : CmdHdr} : OutOk s (execDuplexConfig h s) := by
  refine .wenot fun h => .ite h ?_
  split
  · exact h
  · exact h
  refine .ite h.setRb.rejoin (.ite h (.ite h (.ite h (.ite h (.ite h.dpxClear.setPhase (Steady.setPhase ?_))))))
  exact .ite h.dpxClear.setReg.setReg.setReg (.ite h.dpxClear.setReg.setReg.takeUnits h.dpxClear.setReg.setReg)

theorem Steady.applyCkpt {p : Nat} {k' : Ckpt} (h : Steady .memory a d) : Steady .memory a (d.applyCkpt p k') :=
  ((h.copyMem.foldl fun _ _ => Steady.refl.setThread).foldl fun _ _ => Steady.refl.setThread).setLead

theorem Steady.resynced {p : Nat} (h : Steady .memory a d) : Steady .memory a (d.resynced p) := (((Steady.ite h h.applyCkpt).setRb).setRb).setDuplex

theorem Steady.lagged {p : Nat} (h : Steady .memory a d) : Steady .memory a (d.lagged p) := h.raiseFree.unsync.rejoin

theorem Steady.fixCut {p : Nat} (h : Steady .memory a d) : Steady .memory a (d.fixCut p) := h.setDuplex

theorem OutOk.duplexCycleEnd {p : Fin 8} : OutOk s (execDuplexCycleEnd p s) := .event fun h => .ite h (.ite h.setDuplex (.ite (.ite h.setDuplex.lagged h.setDuplex.fixCut) (.ite h.setDuplex.resynced h.setDuplex)))

theorem Steady.switchDecide {p at_ ns : Nat} (h : Steady .memory a d) : Steady .memory a (d.switchDecide p at_ ns) := h.setDuplex.setReg.setRb.setPhase

theorem Steady.loses {p isl : Nat} (h : Steady .memory a d) : Steady .memory a (d.loses p isl) := .ite h.setDuplex.setRb.setRb h.setDuplex

theorem Steady.mismatch {p : Nat} (h : Steady .memory a d) : Steady .memory a (d.mismatch p) :=
  ((Steady.ite h.raiseFree.incRf.count.setReg.raiseFree h.raiseFree.incRf.count.setReg).unsync).setDuplex

theorem Steady.seeLag {p ticks : Nat} (h : Steady .memory a d) : Steady .memory a (d.seeLag p ticks) := h.fresh.setRf

theorem Steady.compare {p : Nat} {differ : Bool} (h : Steady .memory a d) : Steady .memory a (d.compare p differ) := by
  unfold Dev.compare
  extract_lets x isl standby d1 d2
  have h1 : Steady .memory a d1 := h.setDuplex
  clear_value d1 x
  have h2 : Steady .memory a d2 := by
    unfold d2
    split
    · exact .ite h1.applyCkpt h1
    · exact h1
  split
  · exact h1.loses.switchDecide
  · exact h1.loses.unsync.rejoin
  · exact h1.raiseFree.unsync.rejoin
  · exact .ite h1.mismatch h2.setDuplex

theorem OutOk.duplexCompare {p : Fin 8} {differ : Bool} : OutOk s (execDuplexCompare p differ s) := by
  refine .event fun h => ?_
  split
  · exact .ite h.seeLag.compare h
  · exact h

theorem OutOk.duplexLag {p : Fin 8} : OutOk s (execDuplexLag p s) := .event fun h => .ite h.lagged h

theorem OutOk.rejoinCopyDone {p : Fin 8} : OutOk s (execRejoinCopyDone p s) := .event fun h => .ite h ((Steady.ite h h.copyMem).setDuplex)

theorem Steady.stopIsland {p isl : Nat} (h : Steady .memory a d) : Steady .memory a (d.stopIsland p isl) := h.foldl fun _ _ => Steady.refl.updThread

theorem Steady.abortIsland {p isl : Nat} (h : Steady .memory a d) : Steady .memory a (d.abortIsland p isl) := h.abortOps.foldl fun _ _ => Steady.refl.abortChannel

theorem Steady.handOver {p old : Nat} (h : Steady .memory a d) : Steady .memory a (d.handOver p old) :=
  ((h.foldl fun _ _ => Steady.refl.updThread).foldl fun _ _ => Steady.refl.setChan).foldl fun _ _ => .ite Steady.refl.setRf Steady.refl

theorem Steady.exchange {p : Nat} (h : Steady .memory a d) : Steady .memory a (d.exchange p) := by
  unfold Dev.exchange
  extract_lets old d1 d2
  have h1 : Steady .memory a d1 := h.handOver.abortIsland.stopIsland
  clear_value d1
  have h2 : Steady .memory a d2 := by
    unfold d2
    split
    · exact .ite h1.setRf h1
    · exact h1
  exact h2.setRf.setRb.mk

theorem Steady.grantUnit {p u : Nat} (h : Steady .memory a d) : Steady .memory a (d.grantUnit p u) := by
  unfold Dev.grantUnit
  dsimp only
  split
  · exact .ite (.ite h.mk.setRb.count.emit h.mk.setRb.count) h
  · exact h

theorem Steady.grantUnits {p : Nat} (h : Steady .memory a d) : Steady .memory a (d.grantUnits p) := h.foldl fun _ _ => Steady.refl.grantUnit

theorem Steady.switchMove {p : Nat} (h : Steady .memory a d) : Steady .memory a (d.switchMove p) :=
  ((Steady.ite h.exchange (.ite h.grantUnits h.dropUnits.abortIsland.stopIsland)).unsync).setDuplex

theorem Steady.orderedSwitch {p : Nat} (h : Steady .memory a d) : Steady .memory a (d.orderedSwitch p) := by
  unfold Dev.orderedSwitch
  dsimp only
  split
  · exact h
  · exact .ite h (.ite h.setDuplex.fwFinish h.setDuplex.switchDecide)

theorem OutOk.switchOver {p : Fin 8} : OutOk s (execSwitchOver p s) := by
  refine .event fun h => ?_
  dsimp only
  split
  · exact .ite h.orderedSwitch.switchMove h.orderedSwitch
  · exact h.orderedSwitch

theorem OutOk.duplexSwitched {p : Fin 8} : OutOk s (execDuplexSwitched p s) := by
  refine .event fun h => ?_
  dsimp only
  split
  · exact h
  · refine .ite ?_ ?_
    · exact h
    · split
      · exact .ite (((((((((((h.setDuplex.foldl fun _ _ => Steady.refl.hostEmit).grantUnits).setRb).incRf).count).raiseFree).setPhase).rejoin).kickAll).kickAll).fwFinish) ((((((((((h.setDuplex.foldl fun _ _ => Steady.refl.hostEmit).grantUnits).setRb).incRf).count).raiseFree).setPhase).rejoin).kickAll).kickAll)
      · exact (((((((((h.setDuplex.foldl fun _ _ => Steady.refl.hostEmit).grantUnits).setRb).incRf).count).raiseFree).setPhase).rejoin).kickAll).kickAll

theorem OutOk.duplexSwitch {h : CmdHdr} : OutOk s (execDuplexSwitch h s) := by
  refine .wenot fun h => ?_
  dsimp only
  refine .ite ?_ ?_
  · exact h
  · split
    · exact h
    · exact .ite h (.ite h (.ite h (.ite h.switchDecide h.setDuplex)))

theorem OutOk.causewayRelease {p : Fin 8} {unit : Fin 4} : OutOk s (execCausewayRelease p unit s) := .event fun h => .ite h.setRb.emit h

theorem OutOk.causewayGrant {p : Fin 8} {unit : Fin 4} : OutOk s (execCausewayGrant p unit s) := .event fun h => h.grantUnit

theorem Steady.causewayIn {p : Nat} {old new : BitVec 4} (h : Steady .memory a d) : Steady .memory a (d.causewayIn p old new) :=
  .ite h (.ite (.ite h.mk.switchDecide h) (.ite h.dropUnits h))

theorem OutOk.causewayInChange {lines : BitVec 4} : OutOk s (execCausewayInChange lines s) := .event fun h => h.mk.foldl fun _ _ => Steady.refl.causewayIn

theorem OutOk.ferryLinkDown : OutOk s (execFerryLinkDown s) := .event fun h => .ite h (.ite h.mk (h.mk.raiseFree.foldl fun _ _ => .ite Steady.refl Steady.refl.unsync))

theorem OutOk.ferryLinkUp : OutOk s (execFerryLinkUp s) := .event fun h => .ite h (h.mk.foldl fun _ _ => .ite Steady.refl Steady.refl.rejoin)

theorem Steady.forwardAnswer {st : Byte} (h : Steady .memory a d) : Steady .memory a (d.forwardAnswer st) := by
  unfold Dev.forwardAnswer
  dsimp only
  split
  · exact h
  · exact .ite h ((Steady.ite h.unsync.setRb h).fwRespond)

/-- The command that a forwarded one names, once firmware holds it as a guest. -/
theorem OutOk.forwardExecute {opcode : Nat} {h : CmdHdr} {save : List Byte} : OutOk s (forwardExecute opcode h save s) := by
  have run : ∀ {o}, OutOk { s with dev := { s.dev with fw := { s.dev.fw with taken := some (0, 64), guest := 1 } } } o → OutOk s o := fun ho => .of_state ho id
  unfold Machine.forwardExecute
  dsimp only
  split
  · exact run .partCreate
  · exact run .partDestroy
  · exact run .partReset
  · exact run .sliceCreate
  · exact run .sliceDestroy
  · exact run .sliceReset
  · exact run .sliceFreeze
  · exact run .sliceSave
  · exact run .sliceRestore
  · exact run .sliceThaw
  · exact run .progLoad
  · exact run .progStart
  · exact run .progStop
  · exact run .keyImport
  · exact run .keyGenerate
  · exact run .keyRetire
  · exact run .keyQuery
  · exact run .gateInstall
  · exact run .duplexSwitch
  · exact .closed .refl

theorem OutOk.forwardedCommand {c : Forwarded} : OutOk s (execForwardedCommand c s) := by
  cases c with
  | answer st => exact .event fun h => h.forwardAnswer
  | execute opcode h save => exact .ite .forwardExecute (.closed .refl)

theorem OutOk.forwardTimeout : OutOk s (execForwardTimeout s) := by
  refine .event fun h => ?_
  split
  · exact h
  · exact .ite h h.fwRespond

end Sys2Proof.Machine
end

section
/-! PROOFS. Memory stays canonical: temperatures, register accesses, inbound requests and the tick. One rule for each operation that the chains of `Steady` do not have yet, written as the operation is, and one for each command. -/

namespace Sys2Proof.Machine
open Sys2Proof

/- Many short rules follow: elaborated one after another they need few threads at a time. -/
set_option Elab.async false

variable {a b d e : Dev} {s : State}

theorem Steady.sensorShow {n : Nat} {v : Sensor} (h : Steady .memory a d) : Steady .memory a (d.sensorShow n v) := by
  unfold Dev.sensorShow
  refine Steady.setRb ?_
  split
  · exact h.setRf
  · exact h

theorem Steady.islandHeat {i : Nat} {vs : List Sensor} (h : Steady .memory a d) : Steady .memory a (d.islandHeat i vs) :=
  (Steady.ite h.setReg.setRb.raiseFree h.setReg.setRb).mk

theorem OutOk.thermalSensorConvert {readings : List Sensor} : OutOk s (execThermalSensorConvert readings s) := .eventOn fun h => ((h.foldl fun _ _ => Steady.refl.sensorShow).foldl fun _ _ => Steady.refl.islandHeat).mk

theorem OutOk.thermalCrit {isl : Fin 8} : OutOk s (execThermalCrit isl s) := by
  refine .eventOn fun h => ?_
  dsimp only
  split
  · exact h
  · exact .ite h h.mk.raiseFree

theorem OutOk.governorEnter : OutOk s (execGovernorEnter s) := .eventOn fun h => .ite h.setRb.incRf h

theorem OutOk.governorRelease : OutOk s (execGovernorRelease s) := .eventOn fun h => .ite h.setRb h

theorem OutOk.smbusRead {r : SmbRead} : OutOk s (execSmbusRead r s) := .eventAny fun h => .ite h.emit h

theorem Steady.runOn {f : State → Out} (h : Steady .memory a d) (hf : ∀ s, OutOk s (f s)) : Steady .memory a (runOn f d) := by
  unfold Machine.runOn
  split
  · next t ht => exact steady_memory_iff.mpr fun ha => (hf ⟨d, none, []⟩ ⟨h.wf ha, fun _ hb => by cases hb⟩ t ht).1
  · exact h

theorem Steady.rwStore {r : Reg} {i v : Nat} (h : Steady .memory a d) : Steady .memory a (d.rwStore r i v) := h.setReg

theorem Steady.dbgCtlWrite {c v : Nat} (h : Steady .memory a d) : Steady .memory a (d.dbgCtlWrite c v) := by
  unfold Dev.dbgCtlWrite
  refine h.foldl fun d _ => ?_
  extract_lets t halt d1
  have h1 : Steady .memory d d1 := .ite .refl (Steady.refl.runOn fun _ => by
    split
    · exact .debugHalt
    · exact .debugResume)
  exact .ite (h1.runOn fun _ => .debugStep) h1

theorem Steady.clsUpdWrite {p e v : Nat} (h : Steady .memory a d) : Steady .memory a (d.clsUpdWrite p e v) := by
  unfold Dev.clsUpdWrite
  extract_lets
  split
  · exact h.runOn fun _ => .ruleWrite
  · exact h.runOn fun _ => .ruleDisable
  · exact h.runOn fun _ => .ruleRead
  · exact h.runOn fun _ => .exactInsert
  · exact h.runOn fun _ => .exactDelete
  · exact h.runOn fun _ => .exactRead
  · exact h.runOn fun _ => .ctxWrite
  · exact h.runOn fun _ => .ctxResync
  · exact h.runOn fun _ => .clsUpd fun h => h.updDone

theorem Steady.schUpdWrite {p m v : Nat} (h : Steady .memory a d) : Steady .memory a (d.schUpdWrite p m v) := by
  unfold Dev.schUpdWrite
  extract_lets
  split
  · exact h.runOn fun _ => .queueSet
  · exact h.runOn fun _ => .queueRead
  · exact h.runOn fun _ => .queueFlush
  · exact h.runOn fun _ => .shaperSet
  · exact h.runOn fun _ => .shaperRead
  · exact h.runOn fun _ => .policerSet
  · exact h.runOn fun _ => .policerRead
  · exact h.runOn fun _ => .ingPolSet
  · exact h.runOn fun _ => .schUpd fun _ => trivial

theorem Steady.winStage {e v : Nat} (h : Steady .memory a d) : Steady .memory a (d.winStage e v) := .ite h.setRb h.setRb.setReg

theorem Steady.winCtl {k' v : Nat} (h : Steady .memory a d) : Steady .memory a (d.winCtl k' v) := .ite h.winCommit (.ite h.setRb h.setRb)

theorem Steady.runningWrite {isl off n v : Nat} (h : Steady .memory a d) : Steady .memory a (d.runningWrite isl off n v) := h.commitRegs

theorem Steady.regEffect {isl off : Nat} {r : Reg} {i byte n v : Nat} (h : Steady .memory a d) : Steady .memory a (d.regEffect isl off r i byte n v) := by
  unfold Dev.regEffect
  extract_lets old new ones
  split
  · exact h.setReg
  · exact h.dbgCtlWrite
  · exact h.setReg
  · exact h.clsUpdWrite
  · exact h.schUpdWrite
  · exact h.sqCfgWrite
  · exact h.cqCfgWrite
  · exact h.runOn fun _ => .ringSqDb
  · exact h.runOn fun _ => .ringCqHead
  · exact .ite h h.rwStore
  · exact .ite h h.rwStore
  · exact .ite h h.rwStore
  · exact .ite h h.rwStore
  · exact .ite h h.rwStore
  · exact .ite h h.rwStore
  · exact .ite h h.rwStore
  · exact h.winStage
  · exact h.winCtl
  · exact h.intxClear
  · exact h.winWrite
  · exact h.winWrite
  · exact h.winWrite
  · exact h.winWrite
  · exact h.runningWrite.setRf
  · split
    · exact h.rwStore
    · exact h.runningWrite
    · exact h.setReg
    · exact h.setReg
    · exact h
    · exact h
    · exact h

theorem Steady.routeWrite {who : Who} {m b v : Nat} (h : Steady .memory a d) : Steady .memory a (d.routeWrite who m b v) :=
  .ite h.mbxDenied.denyWrite (.ite h.denyWrite h.setReg)

theorem Steady.mbxWrite {who : Who} {r : Reg} {i v : Nat} (h : Steady .memory a d) : Steady .memory a (d.mbxWrite who r i v) := by
  unfold Dev.mbxWrite
  extract_lets m w
  split
  · exact h.sndWrite h.setReg
  · exact h.sndWrite h.setReg
  · exact h.sndWrite h.setReg
  · exact h.runOn fun _ => .mbxSend
  · exact h.runOn fun _ => .mbxDbRing
  · exact h.runOn fun _ => .mbxDbPend
  · exact h.runOn fun _ => .mbxDbMask
  · exact h.runOn fun _ => .mbxStatWrite
  · exact h.routeWrite
  · exact .ite h h.mbxDenied.denyWrite

theorem Steady.mbxWord {who : Who} {r : Reg} {i : Nat} (h : Steady .memory a d) : Steady .memory a (d.mbxWord who r i).2 := .ite_snd h.rxPtrRead (.ite_snd h.mbxDenied.denyRead (.ite_snd h.denyRead h))

theorem Steady.ctrWord {who : Who} {c : CtrAt} {high whole : Bool} (h : Steady .memory a d) : Steady .memory a (d.ctrWord who c high whole).2 := by
  unfold Dev.ctrWord
  split
  · exact h.denyRead
  extract_lets d1 v
  have h1 : Steady .memory a d1 := by
    unfold d1
    split
    · exact .ite h.retiredRead h
    · exact h
  clear_value d1
  split
  · exact h1
  split
  · exact h1
  · exact h1.lowRead

theorem Steady.regWord {who : Who} {isl off : Nat} {whole : Bool} (h : Steady .memory a d) : Steady .memory a (d.regWord who isl off whole).2 := by
  unfold Dev.regWord
  split
  · exact h.ctrWord
  split
  · exact h
  refine .ite_snd h.mbxWord (.ite_snd h.denyRead ?_)
  extract_lets d1 v w
  have h1 : Steady .memory a d1 := .ite h.timeLatch h
  clear_value d1
  exact .ite_snd (.ite_snd h1.lowRead h1) (.ite_snd h1.setReg h1)

theorem Steady.regRead {who : Who} {isl off : Nat} {eight : Bool} (h : Steady .memory a d) : Steady .memory a (d.regRead who isl off eight).2 := by
  unfold Dev.regRead
  split
  · exact h.regWord
  split
  · exact h.rxPtrRead
  split
  · next he => exact .of_eq (congrArg Prod.snd he) h.regWord
  · next lo e he =>
    have h1 : Steady .memory a e := .of_eq (congrArg Prod.snd he) h.regWord
    split
    · exact h.denyRead
    · next hi e' hf => exact (Steady.of_eq (congrArg Prod.snd hf) h1.regWord : Steady .memory a e')

theorem Steady.regPut {who : Who} {isl off n v : Nat} (h : Steady .memory a d) (hw : d.regPut who isl off n v = some e) : Steady .memory a e := by
  unfold Dev.regPut at hw
  split at hw
  · split at hw
    · cases hw
    · exact Option.some.inj hw ▸ h
  split at hw
  · exact Option.some.inj hw ▸ h.mbxWrite
  split at hw
  · cases hw
  · exact Option.some.inj hw ▸ h.regEffect

theorem Steady.regWrite {who : Who} {isl off : Nat} {eight : Bool} {v : Word} (h : Steady .memory a d) : Steady .memory a (d.regWrite who isl off eight v) := by
  unfold Dev.regWrite
  extract_lets lo done
  have hd : ∀ e, done = some e → Steady .memory a e := by
    intro e he
    unfold done at he
    split at he
    · exact h.regPut he
    split at he
    · exact h.regPut he
    · obtain ⟨x, hx, hy⟩ := Option.bind_eq_some_iff.mp he
      exact (h.regPut hx).regPut hy
  clear_value done
  split
  · exact hd _ rfl
  · exact h.denyWrite

theorem OutOk.registerWrite {who : Who} {isl : Fin 8} {off : Nat} {eight : Bool} {v : Word} : OutOk s (execRegisterWrite who isl off eight v s) := .eventOn fun h => .ite h.regWrite h.denyWrite

theorem OutOk.registerReadClear {who : Who} {isl : Fin 8} {off : Nat} : OutOk s (execRegisterReadClear who isl off s) := by
  refine .eventOn fun h => ?_
  refine .ite ?_ ?_
  · exact h.denyRead
  · split
    · next hw =>
        exact (Steady.of_eq (congrArg Prod.snd hw) h.regRead).emit
    · next hw2 =>
        exact Steady.of_eq (congrArg Prod.snd hw2) h.regRead

theorem Steady.inboundStore {a' : Nat} {bs : List Byte} (h : Steady .memory a d) : Steady .memory a (d.inboundStore a' bs) := by
  unfold Dev.inboundStore
  split
  · exact h.writeDup
  · exact h.write

theorem Steady.inboundUr {r : Inbound} (h : Steady .memory a d) : Steady .memory a (d.inboundUr r) := .ite h.aer h.aer.emit.count

theorem Steady.inboundCa {r : Inbound} (h : Steady .memory a d) : Steady .memory a (d.inboundCa r) := .ite h.denyWrite h.denyRead

theorem Steady.inboundReg {r : Inbound} {isl off : Nat} (h : Steady .memory a d) : Steady .memory a (d.inboundReg r isl off) := by
  unfold Dev.inboundReg
  dsimp only
  refine .ite ?_ ?_
  · exact .ite h.aer h.regWrite
  · split
    · next hw =>
        exact .ite ((Steady.of_eq (congrArg Prod.snd hw) h.regRead).emit) ((Steady.of_eq (congrArg Prod.snd hw) h.regRead).emit)
    · next hw2 =>
        exact Steady.of_eq (congrArg Prod.snd hw2) h.regRead

theorem Steady.inboundMem {r : Inbound} {ps : List Piece} (h : Steady .memory a d) : Steady .memory a (d.inboundMem r ps) := by
  unfold Dev.inboundMem
  dsimp only
  split
  · exact h.raiseDecode.inboundCa
  · exact h.inboundCa
  · exact .ite (.ite h.emit h.emit) (.ite h.aer (Steady.foldl_at (g := Prod.fst) h fun _ _ => Steady.refl.inboundStore))

theorem Steady.inboundWindow {r : Inbound} {len : Nat} (h : Steady .memory a d) : Steady .memory a (d.inboundWindow r len) := by
  unfold Dev.inboundWindow
  dsimp only
  split
  · exact h.inboundUr
  · refine .ite ?_ ?_
    · exact h.inboundUr
    · refine .ite ?_ ?_
      · exact h.raiseFree.count.inboundCa
      · split
        · split
          · exact .ite h.inboundReg h.inboundCa
          · exact h.inboundMem
        · exact .ite h.inboundCa h.inboundMem

theorem Steady.bar4Put {h' f o : Nat} {b : Byte} (h : Steady .memory a d) : Steady .memory a (d.bar4Put h' f o b) := .ite h (.ite h.updFn (.ite h h.updFn))

theorem Steady.inboundMsix {r : Inbound} {len : Nat} (h : Steady .memory a d) : Steady .memory a (d.inboundMsix r len) :=
  .ite h.inboundUr (.ite h.emit (.ite h.aer ((h.foldl fun _ _ => Steady.refl.bar4Put).sendPending)))

theorem OutOk.inboundRequest {r : Inbound} : OutOk s (execInboundRequest r s) := .eventOn fun h => .ite h (.ite h.wakeLink.inboundUr (.ite h.wakeLink.inboundMsix h.wakeLink.inboundWindow))

theorem Steady.commandWrite {h' f : Nat} {w : W32} (h : Steady .memory a d) : Steady .memory a (d.commandWrite h' f w) :=
  (Steady.ite h.setFn (.ite h.setFn.setRb.masterOn h.setFn.setRb.masterOff)).irqEnables

theorem OutOk.configRequest {h : Fin 8} {f : Fin 9} {off : BitVec 12} {w : Option W32} : OutOk s (execConfigRequest h f off w s) := by
  refine .eventOn fun h => ?_
  dsimp only
  refine .ite ?_ ?_
  · exact h
  · refine .ite ?_ ?_
    · exact h.emit
    · split
      · exact .ite h.commandWrite h
      · split
        · exact h.emit
        · exact h.fresh.emit

theorem Steady.countTick (h : Steady .memory a d) : Steady .memory a d.countTick :=
  ((h.foldl fun _ _ => .ite Steady.refl.count Steady.refl).foldl fun _ _ => .ite Steady.refl.count Steady.refl).foldl fun _ _ => .ite Steady.refl.count Steady.refl

theorem Steady.drainStores (h : Steady .memory a d) : Steady .memory a d.drainStores := h.foldl fun _ _ => Steady.refl.drainOne

theorem Steady.tick (h : Steady .memory a d) : Steady .memory a d.tick := (Steady.ite h.creditTick.drainStores.holdTick.quietTick.countTick h).mk

end Sys2Proof.Machine
end

section
/-! PROOFS. Every step keeps memory in its canonical form: every command does, by its rule, and so does a tick. -/

namespace Sys2Proof.Machine
open Sys2Proof

variable {s : State}

/-- Every command keeps memory canonical, by its own rule. -/
theorem OutOk.exec (c : Instr) : OutOk s (Machine.exec c s) :=
  match c with
  | .add .. => .add | .sub .. => .sub | .and .. => .and | .or .. => .or | .xor .. => .xor | .andn .. => .andn | .shl .. => .shl | .shr .. => .shr
  | .sar .. => .sar | .min .. => .min | .max .. => .max | .minu .. => .minu | .maxu .. => .maxu | .addi .. => .addi | .andi .. => .andi
  | .ori .. => .ori | .xori .. => .xori | .shli .. => .shli | .shri .. => .shri | .sari .. => .sari | .movi .. => .movi | .movsh .. => .movsh
  | .mul .. => .mul | .mulhu .. => .mulhu | .mulhs .. => .mulhs | .bfx .. => .bfx | .bfxs .. => .bfxs | .bfi .. => .bfi | .bfxw .. => .bfxw
  | .cmp .. => .cmp | .cmpi .. => .cmpi | .plog .. => .plog | .br .. => .br | .call .. => .call | .jr .. => .jr | .ld .. => .ld | .st .. => .st
  | .atomAdd .. => .atomAdd | .atomSwap .. => .atomSwap | .atomCas .. => .atomCas | .memResultReturn .. => .memResultReturn
  | .storeErrorResponse .. => .storeErrorResponse | .memTimeout .. => .memTimeout | .lkacq .. => .lkacq | .lkrel .. => .lkrel
  | .lockArbitrate .. => .lockArbitrate | .lockReleaseArrive .. => .lockReleaseArrive | .fence .. => .fence | .tnow .. => .tnow | .tnowh .. => .tnowh
  | .tadd .. => .tadd | .twait .. => .twait | .twaitExpire .. => .twaitExpire | .tset .. => .tset | .tclr .. => .tclr
  | .timerEv30Fire .. => .timerEv30Fire | .waitev .. => .waitev | .sigevT .. => .sigevT | .sigevG .. => .sigevG | .pktGet .. => .pktGet
  | .pktSend .. => .pktSend | .pktDrop .. => .pktDrop | .wst .. => .wst | .lkx .. => .lkx | .lkw .. => .lkw | .crc32c .. => .crc32c
  | .crc64 .. => .crc64 | .hash .. => .hash | .submit .. => .submit | .accpoll .. => .accpoll | .dclaim .. => .dclaim
  | .claimArbitrate .. => .claimArbitrate | .dwr .. => .dwr | .dstart .. => .dstart | .drel .. => .drel | .dpoll .. => .dpoll | .cinc .. => .cinc
  | .snap .. => .snap | .mfsr .. => .mfsr | .mtsr .. => .mtsr | .tstart .. => .tstart | .claimExpired .. => .claimExpired
  | .partitionQuiet .. => .partitionQuiet | .debugHalt .. => .debugHalt | .debugStep .. => .debugStep | .debugResume .. => .debugResume
  | .breakpointHit .. => .breakpointHit | .coreReset .. => .coreReset | .timeNow0Read .. => .timeNow0Read | .refclkQualified .. => .refclkQualified
  | .refLost .. => .refLost | .delayMeasure .. => .delayMeasure | .timeCheck .. => .timeCheck | .timeCtlStep .. => .timeCtlStep
  | .ptpMessageRx .. => .ptpMessageRx | .announceTimeout .. => .announceTimeout | .ppsInEdge .. => .ppsInEdge | .ppsInLost .. => .ppsInLost
  | .freqInQualified .. => .freqInQualified | .freqInLost .. => .freqInLost | .holdoverSecond .. => .holdoverSecond | .ppsOutPulse .. => .ppsOutPulse
  | .hwmUpdate .. => .hwmUpdate | .clkSpreadApply .. => .clkSpreadApply | .straitCrc .. => .straitCrc | .portLinkDown .. => .portLinkDown
  | .portLinkUp .. => .portLinkUp | .frameReceive .. => .frameReceive | .pauseExpire .. => .pauseExpire | .preemptVerify .. => .preemptVerify
  | .classify .. => .classify | .flowMissReturn .. => .flowMissReturn | .clsMissTo .. => .clsMissTo | .groupQueueAssign .. => .groupQueueAssign
  | .reorderTimeout .. => .reorderTimeout | .fragHoldExpired .. => .fragHoldExpired | .fragEntryFree .. => .fragEntryFree
  | .txqEnqueue .. => .txqEnqueue | .frameTxComplete .. => .frameTxComplete | .gateTransition .. => .gateTransition
  | .gateListSwitch .. => .gateListSwitch | .shaperRefill .. => .shaperRefill | .queueSet .. => .queueSet | .queueRead .. => .queueRead
  | .queueFlush .. => .queueFlush | .shaperSet .. => .shaperSet | .shaperRead .. => .shaperRead | .policerSet .. => .policerSet
  | .policerRead .. => .policerRead | .ingPolSet .. => .ingPolSet | .ruleWrite .. => .ruleWrite | .ruleDisable .. => .ruleDisable
  | .ruleRead .. => .ruleRead | .exactInsert .. => .exactInsert | .exactDelete .. => .exactDelete | .exactRead .. => .exactRead
  | .ctxWrite .. => .ctxWrite | .ctxResync .. => .ctxResync | .engineAccept .. => .engineAccept | .engineOpStart .. => .engineOpStart
  | .engineOpComplete .. => .engineOpComplete | .keyBusTransfer .. => .keyBusTransfer | .keyDateCheck .. => .keyDateCheck
  | .ceilingWriteDone .. => .ceilingWriteDone | .rngFail .. => .rngFail | .handover .. => .handover | .burstReadIssue .. => .burstReadIssue
  | .burstReadData .. => .burstReadData | .readbackReturn .. => .readbackReturn | .transferError .. => .transferError
  | .dmaModeApply .. => .dmaModeApply | .ringPoll .. => .ringPoll | .ringSqDb .. => .ringSqDb | .fetchReturn .. => .fetchReturn
  | .rxDeliver .. => .rxDeliver | .txFrameRead .. => .txFrameRead | .inboxDeliver .. => .inboxDeliver | .ringCqHead .. => .ringCqHead
  | .cqIrqTimer .. => .cqIrqTimer | .ringSqCfgWrite .. => .ringSqCfgWrite | .ringCqCfgWrite .. => .ringCqCfgWrite | .hostLinkDown .. => .hostLinkDown
  | .hostLinkUp .. => .hostLinkUp | .hotReset .. => .hotReset | .fundamentalReset .. => .fundamentalReset
  | .functionLevelReset .. => .functionLevelReset | .tagQuarantineRelease .. => .tagQuarantineRelease
  | .busMasterEnableClear .. => .busMasterEnableClear | .busMasterEnableSet .. => .busMasterEnableSet | .d3hotEntry .. => .d3hotEntry
  | .d3hotExit .. => .d3hotExit | .interruptEnableChange .. => .interruptEnableChange | .vectorUnmask .. => .vectorUnmask
  | .hostIntxPend .. => .hostIntxPend | .hostWinCommit .. => .hostWinCommit | .winCopyDone .. => .winCopyDone | .inboundRequest .. => .inboundRequest
  | .configRequest .. => .configRequest | .hostCompletionRx .. => .hostCompletionRx | .hostCplTimeout .. => .hostCplTimeout
  | .aspmL1Entry .. => .aspmL1Entry | .mbxSend .. => .mbxSend | .mbxRxPtr0Read .. => .mbxRxPtr0Read | .mbxDbRing .. => .mbxDbRing
  | .mbxDbPend .. => .mbxDbPend | .mbxDbMask .. => .mbxDbMask | .mbxStatWrite .. => .mbxStatWrite | .faceStore .. => .faceStore
  | .sliceResetEnd .. => .sliceResetEnd | .freezeComplete .. => .freezeComplete | .freezeTimeout .. => .freezeTimeout
  | .partResetEnd .. => .partResetEnd | .firmwarePoll .. => .firmwarePoll | .devIdentify .. => .devIdentify | .devStatus .. => .devStatus
  | .cfgReport .. => .cfgReport | .cfgStage .. => .cfgStage | .cfgCommit .. => .cfgCommit | .partCreate .. => .partCreate
  | .partDestroy .. => .partDestroy | .partReset .. => .partReset | .sliceCreate .. => .sliceCreate | .sliceDestroy .. => .sliceDestroy
  | .sliceReset .. => .sliceReset | .sliceFreeze .. => .sliceFreeze | .sliceSave .. => .sliceSave | .sliceRestore .. => .sliceRestore
  | .sliceThaw .. => .sliceThaw | .progLoad .. => .progLoad | .progStart .. => .progStart | .progStartRelease .. => .progStartRelease
  | .progStop .. => .progStop | .keyImport .. => .keyImport | .keyGenerate .. => .keyGenerate | .keyRetire .. => .keyRetire
  | .keyQuery .. => .keyQuery | .timeSet .. => .timeSet | .timeStatus .. => .timeStatus | .leapTable .. => .leapTable
  | .gateInstall .. => .gateInstall | .snapArm .. => .snapArm | .snapRead .. => .snapRead | .faultRead .. => .faultRead | .faultAck .. => .faultAck
  | .faultInject .. => .faultInject | .duplexConfig .. => .duplexConfig | .duplexSwitch .. => .duplexSwitch | .lifeRead .. => .lifeRead
  | .smemUpdate .. => .smemUpdate | .viewSample .. => .viewSample | .faultCollect .. => .faultCollect | .fltWatchdog .. => .fltWatchdog
  | .injectionCancel .. => .injectionCancel | .duplexCycleEnd .. => .duplexCycleEnd | .duplexCompare .. => .duplexCompare
  | .duplexLag .. => .duplexLag | .switchOver .. => .switchOver | .duplexSwitched .. => .duplexSwitched | .rejoinCopyDone .. => .rejoinCopyDone
  | .causewayRelease .. => .causewayRelease | .causewayGrant .. => .causewayGrant | .causewayInChange .. => .causewayInChange
  | .ferryLinkDown .. => .ferryLinkDown | .forwardedCommand .. => .forwardedCommand | .forwardTimeout .. => .forwardTimeout
  | .counterLowRead .. => .counterLowRead | .slotRetiredRead .. => .slotRetiredRead | .cntWinCfgWrite .. => .cntWinCfgWrite
  | .counterFaceMirror .. => .counterFaceMirror | .snapInEdge .. => .snapInEdge | .snapTimeTrigger .. => .snapTimeTrigger
  | .snapTriggerAccept .. => .snapTriggerAccept | .snapLatch .. => .snapLatch | .counterDumpInstant .. => .counterDumpInstant
  | .dumpComplete .. => .dumpComplete | .thermalAgeUpdate .. => .thermalAgeUpdate | .lifetimeCheckpoint .. => .lifetimeCheckpoint
  | .logEraseDone .. => .logEraseDone | .powerOnReset .. => .powerOnReset | .auxReset .. => .auxReset | .vauxLost .. => .vauxLost
  | .deviceReset .. => .deviceReset | .imageApply .. => .imageApply | .firmwareReady .. => .firmwareReady | .ddrZeroDone .. => .ddrZeroDone
  | .trialClear .. => .trialClear | .supplyWarn .. => .supplyWarn | .supplySag .. => .supplySag | .supplyWarnEnd .. => .supplyWarnEnd
  | .thermalSensorConvert .. => .thermalSensorConvert | .thermalCrit .. => .thermalCrit | .governorEnter .. => .governorEnter
  | .governorRelease .. => .governorRelease | .smbusRead .. => .smbusRead | .registerWrite .. => .registerWrite | .brownOut .. => .brownOut
  | .rngHealthPass .. => .rngHealthPass | .ferryLinkUp .. => .ferryLinkUp | .freedSlot .. => .freedSlot | .clsUpdDone .. => .clsUpdDone
  | .ptpMessageTx .. => .ptpMessageTx | .leapTableExpired .. => .leapTableExpired | .perstRelease .. => .perstRelease
  | .devRstNRelease .. => .devRstNRelease | .registerReadClear .. => .registerReadClear

theorem OutOk.idle : OutOk s (.next (tickStep s)) := .closed Steady.refl.tick

/-- A step is a tick, or the command at the queue's front on the same memories. -/
theorem OutOk.step : OutOk s (step s) := by
  cases hq : s.pending with
  | nil =>
    rw [step_idle hq]
    exact .idle
  | cons c rest =>
    rw [step_front s c rest hq]
    exact .of_state (.exec c) fun hm => hm

/-- Settles O59: no command and no tick takes a canonical memory out of its form. -/
theorem memoryKeepsItsCanonicalForm : Obligations.MemoryKeepsItsCanonicalForm := by
  unfold Obligations.MemoryKeepsItsCanonicalForm
  intro s t hs h
  exact OutOk.step hs t h

end Sys2Proof.Machine
end
